-- ==== Sys2Proof/Word.lean ====
section
/-! DEFINITION. The words of the part, and the identifiers of its units (R2, R3, R12 to R14, R17). -/

namespace Sys2Proof

/-- A 64-bit word: a register of the part (R373), an operand word (R50), a scalar register (R20). -/
abbrev Word := BitVec 64

/-- A byte, the smallest addressable unit of the bench, of device memory and of host memory (R3). -/
abbrev Byte := BitVec 8

/-- Core IDs 0 to 127 (R13). -/
abbrev CoreId := Fin 128

/-- Module-wide channel numbers 0 to 255 (R14). -/
abbrev ChanId := Fin 256

/-- A granary channel: 32 × quadrant + channel within the granary (R14). -/
abbrev GranChan := Fin 128

/-- Partitions 0 to 31 (R294). -/
abbrev PartId := Fin 32

/-- Ring numbers 0 to 8,191 (R271). -/
abbrev RingId := Fin 8192

/-- Belora link numbers 0 to 17 (R17). -/
abbrev LinkId := Fin 18

/-- A PCIe function: 0 is PF0, 1 to 32 are VF1 to VF32 (R254). -/
abbrev FnId := Fin 33

/-- The scalar registers s0 to s15 (R20). -/
abbrev SReg := Fin 16

/-- The loop counters lc0 to lc7 (R20). -/
abbrev LcReg := Fin 8

/-- The comparator bits cmp0 to cmp3 (R20). -/
abbrev CmpReg := Fin 4

/-- The general registers g0 to g15 of a quern (R165). -/
abbrev GReg := Fin 16

end Sys2Proof
end

