-- ==== Sys2Proof/Syntax.lean ====
section
/-! DEFINITION. The commands of the block: one constructor per row of spec/opcode_table.json, with the row's operands. -/

namespace Sys2Proof

/-- The command queues of a core and the engines they serve, in the unit order of R220 (R29). -/
inductive EngineUnit where
  | beam | plane0 | plane1 | cart0 | cart1 | grind
  deriving DecidableEq, Repr

/-- A request to stop a kingpost (R36, R37). -/
inductive StopKind where
  | abort | debugHalt | preempt
  deriving DecidableEq, Repr

/-- The part of a 64-bit register that a BAR0 write reaches: all of it, or one aligned 4-byte half (R373). -/
inductive Acc where
  | full | lo | hi
  deriving DecidableEq, Repr

/-- The command header of R49. -/
structure CmdHdr where
  /-- UNIT: the plane or cart number. -/
  unit : BitVec 1
  /-- MODE, instruction-specific. -/
  mode : BitVec 4
  /-- TAG; 0x0000 selects the LAUNCH tag (R34). -/
  tag : BitVec 16
  /-- TAKE_PEG and TAKE_EN. -/
  takePeg : BitVec 12
  takeEn : Bool
  /-- POST_PEG and POST_EN. -/
  postPeg : BitVec 12
  postEn : Bool
  deriving DecidableEq, Repr

/-- What the host answers to a read the module issued (R264). -/
inductive HostAnswer where
  /-- A good completion with its bytes. -/
  | good (data : List Byte)
  /-- Unsupported Request or Completer Abort. -/
  | ur
  /-- Completion data poisoned. -/
  | poison
  deriving DecidableEq, Repr

/-- One 64-byte slot of a ring, as it arrives from host memory (R267). -/
abbrev Slot := List Byte

/-- The slots that one descriptor fetch brought in for one ring (R281). -/
structure FetchBatch where
  ring : RingId
  slots : List Slot
  deriving DecidableEq, Repr

/-- Erroneous symbols that lines of device memory have acquired since they were last read: physical line address and
number of erroneous symbols (R200). The commands that read lines carry them: they come from outside the part. -/
abbrev LineErrors := List (Nat × Nat)

/-- A quern that comes to its next instruction: its bank pair, and whether a parity error is met in what the instruction fetches or
reads (R174). It comes from outside the part, as the errors of lines do. -/
structure QuernStep where
  pair : Fin 16
  par : Bool
  deriving DecidableEq, Repr

/-- One calibration sample: for each of the 9 byte lanes the move of the read delay and of the write delay that the
measured centre calls for, 0 down, 1 none, 2 up (R210). -/
abbrev DriftSample := List (Fin 3 × Fin 3)

/-- The unit whose translation walk a read serves (R151, R152). -/
inductive Walker where
  | cart (core : CoreId) (unit : Fin 2)
  | hostCart (n : Fin 16)
  | inline (p : PartId)
  deriving DecidableEq, Repr

/-- The event bits that ENEC and DISEC carry: in-band interrupts are the one event the part has (R366, R368). -/
structure I3cEvents where
  inBandInterrupt : Bool
  deriving DecidableEq, Repr

/-- An internal failure that R320 lists, or one of its errors that no code corrects. -/
inductive FatalCause where
  | network | management | syncUnit | secondBank | noSpare
  deriving DecidableEq, Repr

/-- One sampling of the sensors and of the power input (R369, R376). Temperatures are in 1/16 degree. -/
structure ThermalReading where
  dieTemps : List (BitVec 16)
  stackTemps : List (BitVec 16)
  power : BitVec 16
  vin : BitVec 16
  deriving DecidableEq, Repr

/-- The record of a twin's recovery boundary (R315): for each ring its recovery point; for each peg, tally and bell that the
tables of the contexts name, by context and object ID, its state. -/
structure RecoveryRecord where
  partition : PartId
  points : List (RingId × BitVec 32)
  pegs : List (BitVec 8 × BitVec 12 × BitVec 16)
  tallies : List (BitVec 8 × BitVec 12 × Word)
  bells : List (BitVec 8 × BitVec 12 × BitVec 13 × BitVec 13 × BitVec 16)
  deriving DecidableEq, Repr

/-- A completion record's contents before it is written (R290). -/
structure CplRecord where
  ring : RingId
  seq : BitVec 32
  status : BitVec 16
  tag : BitVec 16
  flags : BitVec 16
  deriving DecidableEq, Repr

/-- The commands: one constructor per row of the table, in the table's order. -/
inductive Instr where
  -- PVI scalar instructions (R51 to R54, R62), executed by the kingpost of `core`
  | nop (core : CoreId)
  | endProg (core : CoreId)
  | li (core : CoreId) (rd : SReg) (imm : BitVec 32)
  | lui (core : CoreId) (rd : SReg) (imm : BitVec 32)
  | mov (core : CoreId) (rd ra : SReg)
  | time (core : CoreId) (rd : SReg)
  | add (core : CoreId) (rd ra rb : SReg)
  | sub (core : CoreId) (rd ra rb : SReg)
  | and (core : CoreId) (rd ra rb : SReg)
  | or (core : CoreId) (rd ra rb : SReg)
  | xor (core : CoreId) (rd ra rb : SReg)
  | shl (core : CoreId) (rd ra rb : SReg)
  | shr (core : CoreId) (rd ra rb : SReg)
  | sra (core : CoreId) (rd ra rb : SReg)
  | addi (core : CoreId) (rd ra : SReg) (imm : BitVec 32)
  | shli (core : CoreId) (rd ra : SReg) (imm : BitVec 32)
  | shri (core : CoreId) (rd ra : SReg) (imm : BitVec 32)
  | srai (core : CoreId) (rd ra : SReg) (imm : BitVec 32)
  | andi (core : CoreId) (rd ra : SReg) (imm : BitVec 32)
  | ori (core : CoreId) (rd ra : SReg) (imm : BitVec 32)
  | mul (core : CoreId) (rd ra rb : SReg)
  | mulhu (core : CoreId) (rd ra rb : SReg)
  | cmpEq (core : CoreId) (n : CmpReg) (ra rb : SReg)
  | cmpNe (core : CoreId) (n : CmpReg) (ra rb : SReg)
  | cmpLt (core : CoreId) (n : CmpReg) (ra rb : SReg)
  | cmpLtu (core : CoreId) (n : CmpReg) (ra rb : SReg)
  | cmpGe (core : CoreId) (n : CmpReg) (ra rb : SReg)
  | cmpGeu (core : CoreId) (n : CmpReg) (ra rb : SReg)
  | br (core : CoreId) (imm : BitVec 32)
  | bc (core : CoreId) (n : CmpReg) (imm : BitVec 32)
  | bnc (core : CoreId) (n : CmpReg) (imm : BitVec 32)
  | lcbr (core : CoreId) (n : LcReg) (imm : BitVec 32)
  | lcset (core : CoreId) (n : LcReg) (ra : SReg)
  | lcseti (core : CoreId) (n : LcReg) (imm : BitVec 32)
  | lcmov (core : CoreId) (rd : SReg) (n : LcReg)
  | ld (core : CoreId) (rd ra : SReg) (imm : BitVec 32)
  | st (core : CoreId) (ra rb : SReg) (imm : BitVec 32)
  | flagsRd (core : CoreId) (rd : SReg) (imm : BitVec 32)
  | flagsClr (core : CoreId) (imm : BitVec 32)
  | rotaSet (core : CoreId) (ra rb : SReg) (imm : BitVec 32)
  | nativeSkip (core : CoreId) (bytes : Nat)
  | endOfCode (core : CoreId)
  -- synchronisation instructions (R55, R56); `rcnt` and `cnt` are RCNT and IMM[31:16] of R48
  | pegTake (core : CoreId) (id : BitVec 12) (rcnt : Bool) (ra : SReg) (cnt : BitVec 16)
  | pegDec (core : CoreId) (id : BitVec 12) (rcnt : Bool) (ra : SReg) (cnt : BitVec 16)
  | pegPost (core : CoreId) (id : BitVec 12) (rcnt : Bool) (ra : SReg) (cnt : BitVec 16)
  | pegRead (core : CoreId) (rd : SReg) (id : BitVec 12)
  | tallyAdv (core : CoreId) (id : BitVec 12) (ra : SReg)
  | tallyWait (core : CoreId) (id : BitVec 12) (ra : SReg)
  | tallyRoom (core : CoreId) (id : BitVec 12)
  | tallyRead (core : CoreId) (rd : SReg) (id : BitVec 12)
  | bellArrive (core : CoreId) (id : BitVec 12) (rcnt : Bool) (ra : SReg) (cnt : BitVec 16)
  | syncAnswer (core : CoreId)
  | syncWithdraw (core : CoreId)
  -- command instructions (R57, R58): header (R49) and operand words (R50)
  | beamMm (core : CoreId) (h : CmdHdr) (w : List Word)
  | beamLoad (core : CoreId) (h : CmdHdr) (w : List Word)
  | beamAcc (core : CoreId) (h : CmdHdr) (w : List Word)
  | planeAdd (core : CoreId) (h : CmdHdr) (w : List Word)
  | planeSub (core : CoreId) (h : CmdHdr) (w : List Word)
  | planeMul (core : CoreId) (h : CmdHdr) (w : List Word)
  | planeFma (core : CoreId) (h : CmdHdr) (w : List Word)
  | planeMax (core : CoreId) (h : CmdHdr) (w : List Word)
  | planeMin (core : CoreId) (h : CmdHdr) (w : List Word)
  | planeAbs (core : CoreId) (h : CmdHdr) (w : List Word)
  | planeNeg (core : CoreId) (h : CmdHdr) (w : List Word)
  | planeCvt (core : CoreId) (h : CmdHdr) (w : List Word)
  | planeExp (core : CoreId) (h : CmdHdr) (w : List Word)
  | planeLog (core : CoreId) (h : CmdHdr) (w : List Word)
  | planeRecip (core : CoreId) (h : CmdHdr) (w : List Word)
  | planeRsqrt (core : CoreId) (h : CmdHdr) (w : List Word)
  | planeTanh (core : CoreId) (h : CmdHdr) (w : List Word)
  | planeSigmoid (core : CoreId) (h : CmdHdr) (w : List Word)
  | planeRsum (core : CoreId) (h : CmdHdr) (w : List Word)
  | planeRmax (core : CoreId) (h : CmdHdr) (w : List Word)
  | planeOsm (core : CoreId) (h : CmdHdr) (w : List Word)
  | planeLsemerge (core : CoreId) (h : CmdHdr) (w : List Word)
  | cartCopy (core : CoreId) (h : CmdHdr) (w : List Word)
  | cartGather (core : CoreId) (h : CmdHdr) (w : List Word)
  | cartScatter (core : CoreId) (h : CmdHdr) (w : List Word)
  | grindJob (core : CoreId) (h : CmdHdr) (w : List Word)
  -- queues and engines (R31 to R33, R53, R92)
  | pushAfterStall (core : CoreId)
  | commandAtHead (core : CoreId) (u : EngineUnit)
  | commandStart (core : CoreId) (u : EngineUnit)
  | commandFinish (core : CoreId) (u : EngineUnit)
  | calendarWrap
  | dutyWrap
  -- instruction fetch (R25 to R27, R401); `line` is a native code address
  | fetchMiss (core : CoreId) (line : BitVec 41)
  | fetchLineArrive (core : CoreId)
  | fetchError (core : CoreId)
  | launchFinish (ring : RingId) (seq : BitVec 32)
  -- stops, preemption, debug (R36 to R42)
  | stopRequest (core : CoreId) (k : StopKind)
  | engineStopped (core : CoreId) (u : EngineUnit) (units : Nat)
  | preemptSaveDone (p : PartId)
  | engineResume (core : CoreId) (u : EngineUnit)
  | debugHalt (fn : FnId) (core : CoreId)
  | debugResume (fn : FnId) (core : CoreId)
  | debugStep (fn : FnId) (core : CoreId)
  -- image loader (R44 to R46)
  | loaderTakeImage
  | imageTranslated
  | imageIdle (p : PartId) (va : BitVec 52)
  -- translation and cart traffic (R142 to R154)
  | tableWalkRead (w : Walker)
  | translationSweep
  | cartReadData (core : CoreId) (unit : Fin 2)
  | cartWriteAck (core : CoreId) (unit : Fin 2)
  -- granary channel commands (R176 to R181)
  | mrwGmode (g : GranChan) (v : BitVec 16)
  | mrwGqmask (g : GranChan) (v : BitVec 16)
  | mrwGstat (g : GranChan) (v : BitVec 16)
  | mrr (g : GranChan) (num : BitVec 8)
  | modeSwitchDone (g : GranChan)
  | pld (g : GranChan) (line : Fin 16) (data : List Byte)
  | qwr (g : GranChan) (space : BitVec 1) (line : BitVec 7) (bc : Bool) (pair : Fin 16) (data : List Byte)
  | qgo (g : GranChan) (entry : BitVec 8)
  | qrd (g : GranChan) (space : BitVec 1) (line : BitVec 7) (pair : Fin 16)
  | qst (g : GranChan)
  | qstop (g : GranChan)
  | qprogLoad (fn : FnId) (ch : ChanId)
  -- quern instructions (R171 to R174), executed by quern `p` of channel `g`; `par`: a parity error is met (R174)
  | qHalt (g : GranChan) (p : QuernStep)
  | qJmp (g : GranChan) (p : QuernStep) (imm8 : BitVec 8)
  | qBz (g : GranChan) (p : QuernStep) (a : GReg) (imm8 : BitVec 8)
  | qBnz (g : GranChan) (p : QuernStep) (a : GReg) (imm8 : BitVec 8)
  | qLoop (g : GranChan) (p : QuernStep) (a : GReg) (imm8 : BitVec 8)
  | qLi (g : GranChan) (p : QuernStep) (d : GReg) (imm18 : BitVec 18)
  | qLui (g : GranChan) (p : QuernStep) (d : GReg) (imm14 : BitVec 14)
  | qAddi (g : GranChan) (p : QuernStep) (d a : GReg) (imm14 : BitVec 14)
  | qAdd (g : GranChan) (p : QuernStep) (d a b : GReg)
  | qSub (g : GranChan) (p : QuernStep) (d a b : GReg)
  | ldcw (g : GranChan) (p : QuernStep) (d : GReg) (imm8 : BitVec 8)
  | lw (g : GranChan) (p : QuernStep) (d a : GReg) (imm14 : BitVec 14)
  | sw (g : GranChan) (p : QuernStep) (b a : GReg) (imm14 : BitVec 14)
  | nblk (g : GranChan) (p : QuernStep) (d : GReg) (imm8 : BitVec 8)
  | acci (g : GranChan) (p : QuernStep)
  | kdot (g : GranChan) (p : Fin 16) (a : GReg) (x : Bool) (errs : LineErrors) (par : Bool)
  | quernOsm (g : GranChan) (p : QuernStep)
  | vacc (g : GranChan) (p : Fin 16) (a : GReg) (x : Bool) (errs : LineErrors) (par : Bool)
  | mvec (g : GranChan) (p : Fin 16) (a b : GReg) (q : Fin 8) (x : Bool) (errs : LineErrors) (par : Bool)
  | kvapp (g : GranChan) (p : Fin 16) (a b : GReg) (par : Bool)
  | badop (g : GranChan) (p : Fin 16) (word : BitVec 32)
  | quernPcOverrun (g : GranChan) (p : Fin 16)
  | activateGrant (g : GranChan)
  | quernTimeout (g : GranChan)
  -- grind jobs (R184 to R194); a job is named by the core that issued it
  | grindCheck (core : CoreId)
  | grindAdmit (q : Fin 4)
  | grindStart (core : CoreId)
  | grindDeadline (core : CoreId)
  | grindMerge (core : CoreId)
  -- memory controllers (R202 to R214)
  | memRequestArrive (src : BitVec 16)
  | memRequestServe (ch : ChanId) (pos : Fin 64) (errs : LineErrors)
  | refresh (stack : Fin 8)
  | titheSlot (ch : ChanId) (m : DriftSample) (errs : LineErrors)
  | selfRefreshEntry (ch : ChanId)
  | selfRefreshExit (ch : ChanId) (m : DriftSample)
  | chCtlWrite (fn : FnId) (ch : ChanId) (acc : Acc) (v : Word)
  | elogPtrWrite (fn : FnId) (ch : ChanId) (acc : Acc) (v : Word)
  | rcFieldRead (fn : FnId) (off : BitVec 23) (size : Nat)
  -- synchronisation registers and the watchman (R228 to R232)
  | pegWrite (fn : FnId) (p : BitVec 16) (acc : Acc) (v : Word)
  | tallyValWrite (fn : FnId) (t : BitVec 14) (acc : Acc) (v : Word)
  | bellWrite (fn : FnId) (b : BitVec 12) (acc : Acc) (v : Word)
  | wmCtlWrite (fn : FnId) (q : PartId) (acc : Acc) (v : Word)
  | watchmanFire (q : PartId)
  | watchmanSnapshot (q : PartId)
  -- joints (R233 to R253); a descriptor is named by its ring and sequence
  | jointOpen (ring : RingId) (seq : BitVec 32)
  | jointCommit (ring : RingId) (seq : BitVec 32)
  | jointAbort (ring : RingId) (seq : BitVec 32)
  | jointCommitSwap (p : PartId) (j : Fin 64)
  | jointPageWrite (p : PartId)
  | shadowCopyDone (p : PartId)
  -- host link (R256 to R266)
  | bar2Read (off : BitVec 39) (len : Nat)
  | bar2Write (off : BitVec 39) (data : List Byte)
  | bar2MapWrite (fn : FnId) (acc : Acc) (v : Word)
  | bar2Resize (code : Fin 4)
  | bar4Write (off : BitVec 32) (data : List Byte)
  | bar4Read (off : BitVec 32) (len : Nat)
  | flushRead (fn : FnId)
  | flushReadComplete (fn : FnId)
  | flushingReadDone (fn : FnId)
  | hostReadCompletion (id : Nat) (a : HostAnswer)
  | hostReadTimeout (id : Nat)
  | linkDown
  | linkDown100us
  | linkDown2ms
  | linkUp (speed : BitVec 3) (width : BitVec 5) (downUs : BitVec 32)
  | flrVf (vf : Fin 32)
  | flrPf0
  | configRequest (fn : FnId) (reg : BitVec 12) (write : Option (BitVec 32))
  -- doorbells, rings, descriptors (R267 to R293)
  | summaryPoll
  | class0TailPoll
  | nudge (fn : FnId) (acc : Acc) (v : Word)
  | tailRead (ring : RingId) (tail : BitVec 32)
  | fetchGrant
  | descriptorFetch (batch : List FetchBatch)
  | descriptorStart (ring : RingId)
  | descriptorComplete (ring : RingId) (seq : BitVec 32)
  | rtCtlWrite (fn : FnId) (ring : RingId) (acc : Acc) (v : Word)
  | nopDescriptor (ring : RingId) (seq : BitVec 32)
  | copy (ring : RingId) (seq : BitVec 32)
  | copyIndexed (ring : RingId) (seq : BitVec 32)
  | writeInline (ring : RingId) (seq : BitVec 32)
  | launch (ring : RingId) (seq : BitVec 32)
  | signal (ring : RingId) (seq : BitVec 32)
  | wait (ring : RingId) (seq : BitVec 32)
  | waitTimeout (ring : RingId) (seq : BitVec 32)
  | fence (ring : RingId) (seq : BitVec 32)
  | flush (ring : RingId) (seq : BitVec 32)
  | ingressFence (ring : RingId) (seq : BitVec 32)
  | ingressTimeout (ring : RingId) (seq : BitVec 32)
  | map (ring : RingId) (seq : BitVec 32)
  | grind (ring : RingId) (seq : BitVec 32)
  | cancel (ring : RingId) (seq : BitVec 32)
  | abortPartition (ring : RingId) (seq : BitVec 32)
  | timestamp (ring : RingId) (seq : BitVec 32)
  -- partitions and contexts (R294 to R308, R375 to R379)
  | quantumEnd (p : PartId)
  | contextSwitch (p : PartId)
  | contextSwitchDone (p : PartId)
  | ptAbortGo (fn : FnId) (p : PartId)
  | partitionAbortDone (p : PartId)
  | partitionTableWrite (fn : FnId) (p : PartId) (off : BitVec 11) (acc : Acc) (v : Word)
  | hcCtlWrite (fn : FnId) (acc : Acc) (v : Word)
  | pwrCapWrite (fn : FnId) (acc : Acc) (v : Word)
  -- twins (R309 to R331, R246, R348)
  | twCtlWrite (fn : FnId) (acc : Acc) (v : Word)
  | helloSend
  | hello (link : Fin 2) (sender : BitVec 12) (partner : BitVec 12)
  | beatSend
  | beat (link : Fin 2)
  | partnerBeatRead (counter : Word)
  | beatTimeout
  | selfFence
  | fatalNotice
  | fenceOff (addr : BitVec 12)
  | moduleFatal (cause : FatalCause)
  | adoptFabricAddress
  | partnerJointResolve
  | ringAdoption (ring : RingId)
  | prepare (joint : Nat) (rec : RecoveryRecord) (withheld : List CplRecord)
  | prepareAck (p : PartId) (j : Fin 64)
  | recoveryRecord (rec : RecoveryRecord)
  | recordAck (p : PartId)
  | streamedWrite (joint : Nat) (addr : BitVec 41) (data : List Byte)
  | tallyLog (src : BitVec 12) (txn : BitVec 16) (tally : BitVec 14) (amount : Word)
  -- repairs in place (R326 to R329)
  | coreSpare (core : CoreId)
  | coreHardFault (core : CoreId)
  | spareCopyDone (ch : ChanId)
  | resyncDone
  -- Belora (R332 to R352)
  | frameReceive (link : LinkId) (frame : List Byte)
  | replayTimeout (link : LinkId)
  | laneRemove (link : LinkId) (lane : Fin 8)
  | laneRejoin (link : LinkId) (lane : Fin 8)
  | linkLanesLost (link : LinkId)
  | rd (link : LinkId)
  | wr (link : LinkId)
  | wrm (link : LinkId)
  | top (link : LinkId)
  | rdr (link : LinkId)
  | wra (link : LinkId)
  | tor (link : LinkId)
  | notrdy (link : LinkId)
  | err (link : LinkId)
  | adopt (link : LinkId)
  | release (link : LinkId)
  | unknownPacket (link : LinkId)
  | notrdyBackoff (txn : BitVec 16) (expired : Bool)
  | peerTimeout (txn : BitVec 16)
  | unreachable (txn : BitVec 16)
  | topProbe (txn : BitVec 16)
  | fbCtlWrite (fn : FnId) (acc : Acc) (v : Word)
  -- power, clock, bring-up (R353 to R365, R389, R390)
  | modEnRise
  | modEnFall
  | railInRegulation (rail : Fin 7)
  | railFault (rail : Fin 7)
  | inputRise
  | bulkChargeDone
  | inputOutOfRange
  | modEnHoldoffEnd
  | rootLock
  | pllLoss
  | bootGo (fn : FnId)
  | bootFetchDone (image delays : HostAnswer)
  | fwReady (badChannel : Option ChanId)
  | fwStartTimeout (detail : BitVec 32)
  | thermalSample (r : ThermalReading)
  -- management chain (R366 to R368)
  | entdaa (addr : BitVec 7) (mchainIn : Bool)
  | rstdaa
  | setnewda (addr : BitVec 7)
  | getpid
  | getbcr
  | getdcr
  | getstatus
  | getmxds
  | enec (ev : I3cEvents)
  | disec (ev : I3cEvents)
  | i3cPrivateWrite (data : List Byte)
  | i3cPrivateRead (len : Nat)
  -- registers and the remaining events (R363, R373, R326, R314)
  | registerWrite (fn : FnId) (off : BitVec 23) (size : Nat) (v : Word)
  | configSpaceReady
  | linkTrainingDone (link : LinkId)
  | perstDeassert
  | coreFaultCorrected (core : CoreId)
  | twinImageNotice (p : PartId) (va : BitVec 52) (crc : BitVec 32)
  deriving DecidableEq, Repr

end Sys2Proof
end

