-- ==== Sys2Proof/Config.lean ====
section
/-! DEFINITION. What an implementation fixes and the specification leaves open: opaque constants, with no body
(log entries 5 and 7), so that no proof can see a value of theirs. -/

namespace Sys2Proof.Config

/-- A fresh 64-bit value for each index: the free values that the model needs at points where the specification says
that some value results but not which. The step applies it to the counter `State.freeIdx` and advances that counter. -/
opaque freeValue : Nat → Word

/-- The fused 64-bit unique ID (R375). -/
opaque uniqueId : Word

/-- The fused serial number: characters 8n to 8n + 7, n = 0 or 1 (R375). -/
opaque serial : Nat → Word

/-- The contents of the answers to GETBCR, GETDCR, GETMXDS and of GETSTATUS, which R366 names and gives no values for. -/
opaque i3cAnswer : Nat → Word

/-- Which of the FP32 values inside the bound of R130 a special function returns, as a function of the operand's bits:
the number of the function and the operand. -/
opaque specialPick : Nat → BitVec 32 → Nat

/-- Outbound ranges of the partner's twin registers, TW_MOUT and TW_MOUT_DST for n = 0 to 15, as it sends them during
SYNCING (R351). -/
opaque partnerMout : Nat → Word
opaque partnerMoutDst : Nat → Word

/-- The codes that a TWIN entry of the module error log carries (R382), which the specification names and gives no numbers
for: 0 MIRROR_RANGE, 1 wrong partner, 2 ALIAS_FULL. -/
opaque twinCode : Nat → BitVec 8

/-- Where the loader places a native image in the native code area, in bytes from its base, as a function of the
image's address and CRC (R25, R46: a physical address the loader chooses). -/
opaque nativePlace : Nat → Nat → Nat

/-- The length in bytes of the native code of an image, as a function of its address and CRC; the model uses it only
bounded by 2 × CODE_LEN (R46). -/
opaque nativeLen : Nat → Nat → Nat

end Sys2Proof.Config
end

