-- ==== Sys2Proof/Machine/State.lean ====
section
/-! DEFINITION. The state of the part, as plain data, and its value at reset. INVENTORY.md lists every piece with the
rule that names it. -/

namespace Sys2Proof.Machine

/-- A sparse table: pairs of key and value with keys strictly rising and no entry equal to what an unlisted key reads
as. Machine/Tab.lean reads and writes it. -/
abbrev Tab (α : Type) := List (Nat × α)

/-! ### Kingposts and engines -/

/-- Whether a kingpost executes a program (R54, R228). -/
inductive KpRun where
  | idle | running | ended
  deriving DecidableEq, Repr

/-- A command as it stands in a queue: opcode, header with the tag after R34, and captured operand words (R30).
`raw` holds the uncaptured words of a push that stalls (R31). -/
structure Cmd where
  opc : BitVec 8
  h : CmdHdr
  w : List Word
  takeDone : Bool := false
  deriving DecidableEq, Repr

/-- The kinds of wait on a synchronisation object, coded as in R230, and reads. -/
inductive WaitKind where
  | pegTake | tallyWait | tallyRoom | bellArrive | pegRead | tallyRead
  deriving DecidableEq, Repr

/-- A synchronisation instruction that has sent its request and awaits the object's answer (R56). -/
structure SyncWait where
  kind : WaitKind
  /-- Object ID of the context, and physical ID. -/
  id : BitVec 12
  phys : BitVec 16
  /-- n, target, DEPTH or participant count. -/
  need : Word
  /-- Destination of a read. -/
  rd : SReg
  /-- The GEN a bell arrival recorded (R224). -/
  gen : BitVec 16
  /-- The object has satisfied the request; `value` is what a read returned. -/
  satisfied : Bool
  value : Word
  /-- The transaction of a request to a peer module (R347). -/
  txn : Option (BitVec 16)
  deriving DecidableEq, Repr

/-- A launch as a core knows it (R21, R34). -/
structure LaunchRef where
  ring : RingId
  seq : BitVec 32
  tag : BitVec 16
  deriving DecidableEq, Repr

/-- Where a command of an engine stands (R32). -/
inductive EngPhase where
  | idle | taking | ready | running
  deriving DecidableEq, Repr

/-- One line access of a cart command (R138 to R141): device virtual address, bench address, bytes, direction; an access
with `zero` writes zeros to the bench for an all-ones index entry (R140). `ends`: bench lines of which it is the last
access (R402). -/
structure CartAcc where
  va : Nat
  bench : Nat
  len : Nat
  toDram : Bool
  zero : Bool
  ends : Nat
  deriving DecidableEq, Repr

/-- A translation walk in progress (R151): the read it awaits, the level of the entry being read (3 is the root), its
physical address, the virtual address. -/
structure Walk where
  id : Nat := 0
  level : Nat
  entry : Nat
  va : Nat
  write : Bool
  ctx : BitVec 8
  deriving DecidableEq, Repr

/-- Why a running command ends early (R73, R142): reason, status, detail. -/
structure EarlyEnd where
  reason : BitVec 8
  status : BitVec 16
  detail : Word
  deriving DecidableEq, Repr

/-- A read of one bench line that an engine has still to make (R69): the line, and the pieces of it that its streams take: stream,
first byte within the line, length. -/
structure BenchRead where
  line : Nat
  takes : List (Nat × Nat × Nat)
  deriving DecidableEq, Repr

/-- A write of one bench line that a plane has still to make: address, bytes, the flags of the roundings it holds, the first core
cycle in which it may go (R89, R126, R135). -/
structure LineOut where
  addr : Nat := 0
  bytes : List Byte := []
  flags : BitVec 6 := 0
  ready : Nat := 0
  deriving DecidableEq, Repr

/-- A tile on its way into one of the beam's two buffers (R84): its pass, the reads left, the bytes read by row, the core cycle
after the last read. -/
structure TileLoad where
  pass : Nat
  reads : List BenchRead := []
  held : Tab (List Byte) := []
  doneAt : Nat := 0
  deriving DecidableEq, Repr

/-- An output row the beam has issued (R71, R90): its index, the address of its first element, the segment sums with their flags,
the core cycle in which it becomes available, the lines its accumulation has read with their core cycles, the lines written. -/
structure RowOut where
  idx : Nat
  addr : Nat
  segs : List (Nat × BitVec 6)
  ready : Nat
  got : List (Nat × Nat × List Byte) := []
  wrote : Nat := 0
  deriving DecidableEq, Repr

/-- Where the bench accesses of a running beam or plane command stand (R69, R71, R83, R84, R125): reads left for the next row or
chunk, where they have been generated, and whether they are its own or those of its index line; bytes read and not yet used, by
stream; the unfinished last line of each destination stream; writes to be made; the core cycle after the last row cycle or issue
cycle; for the beam also row cycles spent on a split row, and the tile buffers. -/
structure Flow where
  reads : Option (List BenchRead) := none
  named : Bool := false
  held : Tab (List Byte) := []
  part : Tab LineOut := []
  outs : List LineOut := []
  rows : List RowOut := []
  issuedAt : Nat := 0
  terms : Nat := 0
  tile : Option TileLoad := none
  ahead : Option TileLoad := none
  deriving DecidableEq, Repr

/-- An engine: its command and progress. -/
structure Eng where
  phase : EngPhase := .idle
  cmd : Option Cmd := none
  /-- Rows of the beam issued, chunks of a plane issued, rows of a cart generated. -/
  done : Nat := 0
  flow : Flow := {}
  /-- Lines completed (R402). -/
  lines : Nat := 0
  /-- Flags the running command has raised so far (R117); they join the flag word when it ends (R52). -/
  flags : BitVec 6 := 0
  /-- Lane accumulators and pass state of a plane reduction or online-softmax (R135, R136), and the flags raised on the way to a
  result that has not been written. -/
  acc : List (Option Nat) := []
  accFlags : BitVec 6 := 0
  /-- A cart: accesses of the present row that have not been issued, accesses issued and not performed or acknowledged,
  data bytes of the rows generated, and the count of bytes at which a stop lets it go no further (R146). -/
  todo : List CartAcc := []
  flying : List (Nat × CartAcc) := []
  bytes : Nat := 0
  limit : Option Nat := none
  /-- A cart: the line of indices it has read and holds, by its address (R141). -/
  idx : Option (Nat × List Byte) := none
  walk : Option Walk := none
  early : Option EarlyEnd := none
  /-- The restart record written at the last stop, and whether it holds an interrupted command (R95, R136, R147). -/
  record : List Byte := []
  stopped : Bool := false
  deriving DecidableEq, Repr

/-- The tile the beam holds (R87): K rows 0 is the empty tile. -/
structure Tile where
  kRows : Nat := 0
  fmt : BitVec 4 := 0
  base : Nat := 0
  scaleBase : Nat := 0
  stride : Nat := 0
  /-- The tile's data and scale bytes as read. -/
  data : List Byte := []
  scales : List Byte := []
  deriving DecidableEq, Repr

/-- One leaf held by a translation cache (R151): context, virtual base, page size in bytes, the entry and its address. -/
structure TlbEntry where
  ctx : BitVec 8
  va : Nat
  size : Nat
  entry : Word
  at_ : Nat
  deriving DecidableEq, Repr

/-- What identifies a loaded image (R46). -/
structure ImageKey where
  va : BitVec 52
  crc : BitVec 32
  deriving DecidableEq, Repr

/-- A compute core (R20, R25, R29, R42, R52, R53, R64, R87, R151). -/
structure Core where
  s : Tab Word := []
  lc : Tab (BitVec 32) := []
  cmp : BitVec 4 := 0
  pc : BitVec 48 := 0
  run : KpRun := .idle
  launch : Option LaunchRef := none
  wait : Option SyncWait := none
  /-- A bell arrival kept by a withdrawn bell.arrive (R56): physical bell and recorded GEN. -/
  arrived : Option (BitVec 16 × BitVec 16) := none
  /-- A push stalled on a full queue (R31). -/
  stalled : Option Cmd := none
  /-- The native line a stalled fetch needs (R26), lines whose fill is outstanding with its two reads (R27), lines that met an error
  response with its code (R401). -/
  needLine : Option Nat := none
  /-- The line of the last fetch that missed: fetches of it go on requesting the lines that follow it (R27). -/
  fetchAt : Option Nat := none
  fills : List (Nat × List Nat) := []
  badLines : Tab (BitVec 16) := []
  icache : Tab Nat := []
  lastImage : Option ImageKey := none
  /-- The stop the kingpost has taken; a stop that waits for the answer to a withdraw (R36, R56). -/
  stop : Option StopKind := none
  stopReq : Option StopKind := none
  /-- HALT of KP_DBG_CTL, and a step that STEP has asked for and no instruction has used (R40). -/
  haltReq : Bool := false
  stepping : Bool := false
  stopCause : BitVec 3 := 0
  lastTag : BitVec 16 := 0
  ctx : BitVec 8 := 0
  /-- Sticky flag words of engines 0 to 3 (R52). -/
  flags : Tab (BitVec 6) := []
  queues : Tab (List Cmd) := []
  eng : Tab Eng := []
  bench : List Host.Cell := []
  rota : Tab Word := []
  staging : Tab Word := []
  pendingRota : Option (Tab Word) := none
  tile : Tile := {}
  tlb : List TlbEntry := []
  /-- Faults that internal checks have corrected (R326). -/
  corrected : Nat := 0
  deriving DecidableEq, Repr

/-! ### Synchronisation objects -/

/-- Who waits on an object (R220); a peer module by the TOP it sent (R349). -/
inductive WaiterId where
  | kingpost (core : CoreId)
  | command (core : CoreId) (u : EngineUnit)
  | descriptor (ring : RingId) (seq : BitVec 32)
  | peer (req : List Byte)
  deriving DecidableEq, Repr

/-- A registered waiter (R218, R221, R224). -/
structure Waiter where
  who : WaiterId
  kind : WaitKind
  need : Word
  deriving DecidableEq, Repr

/-- A peg (R215, R232). -/
structure Peg where
  count : BitVec 16 := 0
  ovf : Bool := false
  udf : Bool := false
  waiters : List Waiter := []
  deriving DecidableEq, Repr

/-- A tally (R221, R232). -/
structure Tally where
  value : Word := 0
  depth : BitVec 16 := 0
  consEn : Bool := false
  cons : BitVec 14 := 0
  peerEn : Bool := false
  peerFab : BitVec 12 := 0
  depthF : Bool := false
  waiters : List Waiter := []
  deriving DecidableEq, Repr

/-- A bell (R224, R232). -/
structure Bell where
  count : BitVec 13 := 0
  arrived : BitVec 13 := 0
  gen : BitVec 16 := 0
  waiters : List Waiter := []
  deriving DecidableEq, Repr

/-- A context's synchronisation table as read at its last switch-in: 32-bit entries by byte offset (R216, R217). -/
abbrev SyncTable := Tab (BitVec 32)

/-! ### Memory controllers and granaries -/

/-- What a memory request does. -/
inductive MemKind where
  | read | write
  deriving DecidableEq, Repr

/-- A request to a memory controller (R202, R203): one line or a part of one. -/
structure MemReq where
  id : Nat
  src : BitVec 16
  tag : BitVec 16
  /-- The partition whose work it is; none for PF0 and the management processor (R205). -/
  part : Option PartId
  /-- The 48-bit-wide physical address of R15, unchecked. -/
  addr : Nat
  kind : MemKind
  len : Nat
  data : List Byte
  /-- The bytes of a masked write (R338); none: all of them. -/
  mask : Option (BitVec 64) := none
  /-- The mem cycle in which it entered its controller (R205). -/
  since : Nat := 0
  deriving DecidableEq, Repr

/-- A response on its way to the unit that asked (R144, R212). Status 0 is success. -/
structure MemResp where
  req : MemReq
  status : BitVec 16
  data : List Byte
  deriving DecidableEq, Repr

/-- For whom the part reads or writes lines as one access: a peer module by its request (R338), a function's BAR2 access
(R257), an ingress write (R262), the partner's resynchronisation write on a twin link (R329). -/
inductive ServeFor where
  | peer (req : List Byte)
  | bar2 (fn : FnId)
  | ingress
  | twin (link : LinkId) (req : List Byte)
  deriving DecidableEq, Repr

/-- An access made of several line requests: their identifiers in address order, the data that has arrived, the first
error. -/
structure Serving where
  who : ServeFor
  kind : MemKind
  ids : List Nat
  waiting : List Nat
  got : Tab (List Byte) := []
  status : BitVec 16 := 0
  deriving DecidableEq, Repr

/-- What keeps an access of the module itself (log entry 17) from being performed now: its channel does not serve it yet, or
the line of a peer module has not been read. A command that meets one has no effect but to start what it waits for, and
`State.stalls` is empty between commands. -/
inductive Stall where
  | channel (n : ChanId)
  | remote (dst line vc : Nat) (part : PartId)
  deriving DecidableEq, Repr

/-- A line of a peer module that the loader has read: fabric address, address, status, bytes (R44, R238). -/
structure LoaderLine where
  dst : Nat
  line : Nat
  status : BitVec 16
  data : List Byte
  deriving DecidableEq, Repr

/-- Mode of a granary channel (R158). -/
inductive GMode where
  | memory | toProcessor | processor | toMemory
  deriving DecidableEq, Repr

/-- A copy of a row to a spare row or of a bank to the spare bank (R327). -/
structure SpareCopy where
  bank : Nat
  row : Option Nat
  deriving DecidableEq, Repr

/-- A channel's controller and stack logic beside its registers (R158 to R164, R202 to R211, R327). -/
structure Chan where
  queue : List MemReq := []
  /-- The mem cycle of the last line command, and the partition that last took a position which no partition owns, 32 where
  none has (R205, R295). -/
  lastCmd : Option Nat := none
  lastUnowned : Nat := 32
  deferrals : Nat := 0
  openBanks : List Nat := []
  mode : GMode := .memory
  gqmask : BitVec 16 := 0xFFFF
  viol : Bool := false
  store : Tab (BitVec 32) := []
  /-- Requests that were waiting when the last switch to memory mode ended and are not yet served (R211). -/
  dwell : List Nat := []
  /-- Root cycle of 1 µs after the end of the last switch back to memory mode: until then the channel counts as grinding and
  dwells in memory mode (R164, R211). -/
  backAt : Nat := 0
  /-- QGO commands issued (R170). -/
  starts : BitVec 32 := 0
  /-- Bank pairs that want an activate, each with the grain cycle in which it is requested, and the grain cycles of the last
  grants (R157, R163). -/
  actWait : List (Nat × Nat) := []
  actGrants : List Nat := []
  spareRows : Tab Nat := []
  spareBankUsed : Bool := false
  copies : List SpareCopy := []
  /-- Corrected errors per row in the current scrub pass (R327). -/
  rowErrors : Tab Nat := []
  /-- Lines of scrub still to be read before a granary channel whose bank was spared may run grind jobs (R327). -/
  barred : Nat := 0
  deriving DecidableEq, Repr

/-- A quern (R165). -/
structure Quern where
  g : Tab (BitVec 32) := []
  pc : BitVec 8 := 0
  /-- Execution has gone past store index 255 (R172). -/
  past : Bool := false
  btp : BitVec 8 := 0
  bn : BitVec 7 := 0
  flags : BitVec 6 := 0
  status : BitVec 4 := 0
  line : BitVec 21 := 0
  ce : Bool := false
  local_ : Tab Byte := []
  cmdArea : Tab Byte := []
  deriving DecidableEq, Repr

/-- Where a grind job stands (R186 to R193). -/
inductive JobPhase where
  | queued | admitted | running
  deriving DecidableEq, Repr

/-- A grind job in the admission queue or running (R185, R188). -/
structure GrindJob where
  core : CoreId
  granary : Fin 4
  cmd : Cmd
  queries : List Byte
  entries : List (BitVec 32)
  /-- Active channels of the granary, ascending. -/
  chans : List Nat
  phase : JobPhase := .queued
  /-- Root cycle in which it entered its granary's queue, and of its admission (R188). -/
  enteredAt : Nat := 0
  admittedAt : Nat := 0
  /-- The requests that were waiting for its channels when nothing else held it back (R188, R197). -/
  drain : Option (List Nat) := none
  /-- The GRIND descriptor it runs for, if any (R287). -/
  desc : Option (RingId × BitVec 32) := none
  deriving DecidableEq, Repr

/-! ### Images and launches -/

/-- A loaded image (R46). -/
structure Image where
  key : ImageKey
  entry : BitVec 48
  codeLen : Nat
  nativeBase : Nat
  nativeSize : Nat
  malformed : Bool
  /-- Order number of the last launch, for the least recently launched rule. -/
  lastUse : Nat
  deriving DecidableEq, Repr

/-- A LAUNCH that waits for the loader (R45, R46). -/
structure LoadWait where
  part : PartId
  ctx : BitVec 8
  key : ImageKey
  ring : Option (RingId × BitVec 32)
  /-- Place of the LAUNCH in fetch order (R45). -/
  order : Nat := 0
  /-- Set aside until no core runs the old image of that address. -/
  parked : Bool := false
  deriving DecidableEq, Repr

/-- The image the loader is translating. -/
structure LoadJob where
  wait : LoadWait
  code : List Byte
  entry : Nat
  /-- The status of the refusal found. -/
  refused : Option (BitVec 16)
  deriving DecidableEq, Repr

/-- A running launch (R54, R284). -/
structure Launch where
  ring : RingId
  seq : BitVec 32
  tag : BitVec 16
  part : PartId
  ctx : BitVec 8
  cores : List CoreId
  key : ImageKey
  skipped : Bool := false
  syncFault : Bool := false
  /-- Error responses of instruction fetches, by core (R401). -/
  errors : Tab (BitVec 16) := []
  cancelled : Bool := false
  /-- The joint of which the launch is a member; 0 for none (R235). -/
  joint : Nat := 0
  deriving DecidableEq, Repr

/-! ### Rings and descriptors -/

/-- Where a fetched descriptor stands (R280, R290). -/
inductive Stage where
  /-- Fetched and checked, not started. -/
  | fetched
  /-- Started: its operation may act. -/
  | started
  /-- Its operation has begun and awaits events. -/
  | running
  /-- Its operation has ended; its completion has not been prepared. -/
  | ended
  /-- Completed: its record waits for a flushing read, is withheld in a joint, or is written. -/
  | completed
  deriving DecidableEq, Repr

/-- A descriptor from its fetch until it is retired (R267, R278). -/
structure Desc where
  ring : RingId
  seq : BitVec 32
  bytes : List Byte
  stage : Stage := .fetched
  status : BitVec 16 := 0
  flags : BitVec 16 := 0
  /-- Its joint ID's part in its fate is settled (R237); it runs as a member; an operation on a joint has acted. -/
  resolved : Bool := false
  member : Bool := false
  acted : Bool := false
  /-- Its joint has been resolved: its record is withheld no longer (R244, R248); its joint's abort has stopped it (R248). -/
  released : Bool := false
  halted : Bool := false
  /-- The image a LAUNCH names, by the header as it was when the LAUNCH acted (R46). -/
  key : Option ImageKey := none
  /-- The image of a LAUNCH, once it is loaded (R45). -/
  image : Option ImageKey := none
  /-- Order number of its fetch (R45, R242). -/
  order : Nat := 0
  /-- A MAP: entries read from host memory, physical pages of the translations it removed (R153). -/
  words : List Word := []
  pages : List (Nat × Nat) := []
  /-- An INGRESS_FENCE without a marker: the ingress writes received before its fetch (R263). -/
  covered : List Nat := []
  /-- Fabric-cycle times of the poll that found it ready and of its start (R286, R292). -/
  readyAt : Nat := 0
  /-- The poll that found it (R289). -/
  poll : Nat := 0
  startedAt : Nat := 0
  /-- A CANCEL has reached it (R288). -/
  cancelled : Bool := false
  deriving DecidableEq, Repr

/-- The poller's view of a ring beside its registers (R276, R281, R301, R323). -/
structure Ring where
  tail : BitVec 32 := 0
  errorRaised : Bool := false
  fetching : Bool := false
  readySince : Option Nat := none
  /-- The poll that last found slots, and whether none have been fetched since (R289). -/
  found : Nat := 0
  owed : Bool := false
  /-- Pieces of the fetch under way that have arrived: first sequence and slots (R267). -/
  arrived : List (BitVec 32 × List Slot) := []
  /-- RETIRED took START_SEQ by an enable that is not yet in force: the status line follows (R269, R273). -/
  lineDue : Bool := false
  /-- Tails that polls found, with their times, while slots before them are unfetched (R292). -/
  polls : List (BitVec 32 × Nat) := []
  /-- An adopted ring: read its tail from DBPAGE; records before this sequence carry REPLAYED (R323). -/
  adopted : Bool := false
  /-- The adopted ring's first tail has not been read yet. -/
  replayDue : Bool := false
  replayTo : Option (BitVec 32) := none
  /-- Slots whose sequence field mismatched and are to be read again (R279). -/
  reread : Bool := false
  deriving DecidableEq, Repr

/-! ### Partitions, contexts, joints -/

/-- A context switch in progress (R299). -/
inductive SwitchPhase where
  | stopping | restoring
  deriving DecidableEq, Repr

structure Switch where
  phase : SwitchPhase
  target : BitVec 8
  deriving DecidableEq, Repr

/-- Who asked for a partition abort in progress (R306). -/
inductive AbortSource where
  | descriptor (ring : RingId) (seq : BitVec 32)
  | register
  | reset
  | hostReset
  | coreLost
  | rollback (core : CoreId)
  deriving DecidableEq, Repr

/-- State of a context kept while it is out (R38, R299): one entry per rank of the core list. -/
structure Saved where
  cores : List Core
  deriving DecidableEq, Repr

/-- State of a joint (R237). -/
inductive JointState where
  | free | open_ | committing | aborted
  deriving DecidableEq, Repr

/-- A held update of a member SIGNAL (R242). -/
structure HeldUpdate where
  ring : RingId
  seq : BitVec 32
  kind : Nat
  object : Nat
  amount : Word
  /-- Order number of its descriptor's fetch. -/
  order : Nat := 0
  deriving DecidableEq, Repr

/-- A dirty page of a joint (R239): address of its L0 leaf, committed page, shadow page, whether it is mirrored. -/
structure DirtyPage where
  leafAt : Nat
  page : Nat
  shadow : Nat
  mirrored : Bool
  /-- The committed page has been copied into the shadow (R239). -/
  copied : Bool := false
  deriving DecidableEq, Repr

/-- A joint (R233, R237, R241, R253). Its members and their withheld records are the descriptors of the partition that carry
its ID and run as members. -/
structure Joint where
  st : JointState := .free
  dirty : List DirtyPage := []
  log : List HeldUpdate := []
  lastStatus : BitVec 16 := 0
  openTag : BitVec 16 := 0
  /-- The JOINT_COMMIT that put it into COMMITTING. -/
  commit : Option (RingId × BitVec 32) := none
  /-- The twin has been asked to confirm the mirrored writes, and has done so (R246). -/
  asked : Bool := false
  prepared : Bool := false
  /-- It has been aborted and members of it are still to stop (R248); the JOINT_ABORT that asked for it. -/
  aborting : Bool := false
  abortBy : Option (RingId × BitVec 32) := none
  class0Raised : Bool := false
  deriving DecidableEq, Repr

/-- A write that has reached a joint-scoped page (R239): the joint it belongs to (0 for none), its request, the leaf. -/
structure JointWrite where
  joint : Nat
  req : MemReq
  leafAt : Nat
  entry : Word
  /-- The fabric cycle in which it reached the joint unit (R243). -/
  since : Nat := 0
  deriving DecidableEq, Repr

/-- What a partition holds beside its registers. -/
structure Part where
  running : Option (BitVec 8) := none
  switch : Option Switch := none
  /-- Contexts that have run since power-up or since an abort (R299). -/
  everRun : List (BitVec 8) := []
  halted : Bool := false
  abort : Option AbortSource := none
  /-- The stages of an abort have passed and its completion is not yet visible: BUSY stays 1 (R307). -/
  closing : Bool := false
  /-- A BAR0 write has asked for an abort during a rollback, which it follows (log entry 85). -/
  abortNext : Bool := false
  /-- Fetched descriptors, in fetch order, until they retire (R281). -/
  descs : List Desc := []
  events : BitVec 32 := 0
  images : List Image := []
  /-- Counts of each context's pegs when it last went from idle to running: byte offset in the table and count (R226). -/
  baseline : Tab (Tab (BitVec 16)) := []
  joints : Tab Joint := []
  jointWrites : List JointWrite := []
  /-- The write that waits for its page's copy into a shadow page. -/
  shadowWait : Option JointWrite := none
  /-- Pages of the pool's range that now hold committed data, and pages outside it that have returned to it (R244). -/
  poolGone : List Nat := []
  poolJoined : List Nat := []
  /-- The last recovery record formed and whether the twin has acknowledged it (R315, R316). -/
  recovery : Option RecoveryRecord := none
  recoveryAcked : Bool := false
  /-- What has been sent to the twin for the partition and not been acknowledged, oldest first: a recovery record, or none for a tally
  log entry. -/
  unacked : List (Option RecoveryRecord) := []
  /-- Recovery points of the last acknowledged record (R316). -/
  points : List (RingId × BitVec 32) := []
  /-- Mirroring has resumed after a resynchronisation (R329). -/
  mirroring : Bool := false
  /-- The core whose sparing management has asked for (R326). -/
  spareWanted : Option CoreId := none
  /-- An object of the partition has changed since the last tick (R228). -/
  objectsChanged : Bool := false
  /-- The snapshot taken when the watchman fired, not yet written (R229, R230). -/
  snapshot : Option (List (List Byte)) := none
  deriving DecidableEq, Repr

/-! ### Host link -/

/-- What a host read is for (R264). -/
inductive HostPurpose where
  | summary
  | tail (ring : RingId)
  | slots (ring : RingId) (first : BitVec 32) (count : Nat)
  | data (ring : RingId) (seq : BitVec 32)
  | index (ring : RingId) (seq : BitVec 32)
  | mapEntries (ring : RingId) (seq : BitVec 32)
  | flushing (fn : FnId)
  | firmware
  | beatLine
  | ownBeat
  deriving DecidableEq, Repr

/-- A host read the module has issued (R254, R264). -/
structure HostRead where
  id : Nat
  addr : Nat
  len : Nat
  purpose : HostPurpose
  /-- The function whose read it is (R282); the poll it belongs to, 0 for none (R289). -/
  fn : FnId := 0
  poll : Nat := 0
  /-- It has gone out: at most 4,096 reads are outstanding (R254). -/
  issued : Bool := true
  deriving DecidableEq, Repr

/-- A completion of the configuration or memory requests the part answers on PCIe. -/
inductive PcieStatus where
  | success | unsupported | completerAbort | retry
  deriving DecidableEq, Repr

/-- A piece of host memory and of device memory that a host cart links (R283); `zero`: an all-ones index entry. -/
structure HcSeg where
  host : Nat
  dev : Nat
  len : Nat
  zero : Bool
  deriving DecidableEq, Repr

/-- A read of a host cart's source, host or device, in order, with its data once it has arrived: the request, the host
address and the device address its data goes to; `got` is its status and data. -/
structure HcRead where
  id : Nat
  host : Nat
  dev : Nat
  len : Nat
  got : Option (Nat × List Byte) := none
  deriving DecidableEq, Repr

/-- A host cart (R152, R283, R400): its descriptor, direction (0 inbound, 1 outbound, 2 device to device), pieces left to
read, index entries requested and received, reads outstanding, device writes to be issued and outstanding, walk, first
failure. Entries 16 to 47 of the table are the units that perform the inline writes of partitions 0 to 31 (log entry 19). -/
structure HostCart where
  desc : Option (RingId × BitVec 32) := none
  dir : Nat := 0
  segs : List HcSeg := []
  index : Nat := 0
  indexDone : Nat := 0
  reads : List HcRead := []
  todo : List (Nat × List Byte) := []
  writes : List Nat := []
  walk : Option Walk := none
  status : Nat := 0
  deriving DecidableEq, Repr

/-- A FLUSH read that waits (R259): function, the BAR2 writes it waits for, the table words it brings into force. -/
structure FlushWait where
  fn : FnId
  writes : List Nat
  words : Tab Word
  deriving DecidableEq, Repr

/-- An ingress write received and not yet acknowledged: the request of its first line, its BAR4 offset and bytes (R263). -/
structure Ingress where
  req : Nat
  off : Nat
  data : List Byte
  deriving DecidableEq, Repr

/-- A waiting INGRESS_FENCE (R263). -/
structure IngressWait where
  ring : RingId
  seq : BitVec 32
  marker : Option (Nat × BitVec 32)
  covered : List Nat
  deriving DecidableEq, Repr

/-- A completion record or event line ready to be written (R258, R291). -/
structure HostLine where
  fn : FnId
  addr : Nat
  bytes : List Byte
  vector : Option Nat
  /-- The ring and sequence whose record it is. -/
  desc : Option (RingId × BitVec 32)
  /-- The outstanding flushing read of its function was issued after it became ready. -/
  covered : Bool := false
  /-- It is the completion of a partition abort (R307). -/
  closes : Bool := false
  deriving DecidableEq, Repr

/-- What the part sends (the model's own list of its outputs). -/
inductive Out where
  | hostWrite (fn : FnId) (addr : Nat) (bytes : List Byte) (relaxed : Bool)
  | hostRead (fn : FnId) (id addr len : Nat)
  | msix (fn : FnId) (vector : Nat)
  | pcie (fn : FnId) (st : PcieStatus) (data : List Byte)
  | frame (link : LinkId) (bytes : List Byte)
  | i3c (bytes : List Byte)
  | i3cAck (ack : Bool)
  | inBand (code : Byte)
  | modeRegister (ch : ChanId) (v : BitVec 16)
  | channelData (ch : ChanId) (bytes : List Byte)
  | fatalNotice
  | imageNotice (p : PartId) (va : BitVec 52) (crc : BitVec 32)
  | pwrgd (level : Bool)
  | mchainOut (level : Bool)
  deriving DecidableEq, Repr

/-! ### Belora and twin -/

/-- Who waits for a peer's response (R346, R349). -/
inductive PeerUnit where
  | cart (core : CoreId) (unit : Fin 2)
  | hostCart (ring : RingId) (seq : BitVec 32)
  | kingpost (core : CoreId)
  | descriptor (ring : RingId) (seq : BitVec 32)
  | stream (p : PartId) (joint : Nat)
  | resync
  | loader
  deriving DecidableEq, Repr

/-- A request to a peer without its final response (R336, R346, R349). -/
structure PeerReq where
  txn : BitVec 16
  unit : PeerUnit
  dst : BitVec 12
  bytes : List Byte
  /-- The memory request it carries, if it is a read or write. -/
  mem : Option MemReq
  /-- For a tally operation: its code, the program counter and tag of its instruction. -/
  op : Nat := 0
  pc : BitVec 48 := 0
  tag : BitVec 16 := 0
  /-- The TOP has been withdrawn (R347). -/
  withdrawn : Bool := false
  /-- NOTRDY has been received and the packet awaits its backoff; exponent of the next wait. -/
  refused : Bool := false
  tries : Nat := 0
  /-- The first TOR of any kind has arrived (R349). -/
  answered : Bool := false
  deriving DecidableEq, Repr

/-- A packet that waits for credits on a link: its virtual channel, the link it came in on (none: local injection),
the partition whose work it is (R339, R340). -/
structure TxPkt where
  vc : Nat
  input : Option LinkId
  part : Option PartId
  bytes : List Byte
  deriving DecidableEq, Repr

/-- A Belora link beside its registers (R333 to R340). -/
structure Link where
  /-- SEQ of the next frame to send and of the next frame to accept. -/
  txSeq : BitVec 12 := 0
  rxSeq : BitVec 12 := 0
  /-- Frames sent and not acknowledged, oldest first; how often they have been resent. -/
  unacked : List (BitVec 12 × List Byte) := []
  /-- Packets sent whose last frame, given by its SEQ, is not acknowledged (R344). -/
  sent : List (BitVec 12 × TxPkt) := []
  resends : Nat := 0
  /-- Units used of each receive buffer of the other end (R337, R339), and units of this end's buffers freed and not
  yet returned. -/
  used : Tab Nat := []
  owed : Tab Nat := []
  /-- Packets that wait, units sent per virtual channel, earnings of VC0 in 64ths of a unit, the input each virtual
  channel served last, units sent per partition (R340). -/
  tx : List TxPkt := []
  vcUsed : Tab Nat := []
  earned : Nat := 0
  lastIn : Tab Nat := []
  partUsed : Tab Nat := []
  /-- Units received of a packet not yet complete, and complete packets not yet acted on. -/
  partial_ : List Byte := []
  packets : List (List Byte) := []
  /-- Lanes the other end asks to receive (R335). -/
  peerLanes : BitVec 8 := 0xFF
  deriving DecidableEq, Repr

/-- The fabric logic (R336, R349, R351). -/
structure Fabric where
  nextTxn : BitVec 16 := 0
  requests : List PeerReq := []
  /-- Packets held for a port without a live link, with the link they came in on (R346), and packets of this module to an
  address it answers to. -/
  held : List (Option LinkId × List Byte) := []
  /-- Marked flows: SRC, VC, half (R336). -/
  marked : List (BitVec 12 × BitVec 3 × Bool) := []
  epoch : BitVec 16 := 0
  deriving DecidableEq, Repr

/-- A recovery record of the partner (R315, R348): the length of the tally log at its arrival; objects restored from it. -/
structure StoredRecord where
  record : RecoveryRecord
  logAt : Nat
  restored : Bool := false
  deriving DecidableEq, Repr

/-- What the module holds of a partner joint (R246, R322): streamed writes, prepare received, swap made. -/
structure TwinJoint where
  writes : List (Nat × List Byte) := []
  prepared : Option RecoveryRecord := none
  withheld : List CplRecord := []
  swapped : Bool := false
  deriving DecidableEq, Repr

/-- Twin protection beside its registers (R309 to R330). -/
structure Twin where
  heard : Bool := false
  wrongLogged : Bool := false
  ownBeat : Word := 0
  partnerBeat : Word := 0
  /-- Consecutive reads of the partner's beat line that found its counter unchanged. -/
  still : Nat := 0
  joints : Tab TwinJoint := []
  records : List StoredRecord := []
  tallyLog : List (BitVec 12 × BitVec 16 × BitVec 14 × Word) := []
  /-- What a resynchronisation has still to copy (R329): local address, partner's address, bytes. -/
  resync : List (Nat × Nat × Nat) := []
  /-- Advances of protected tallies whose TOR waits for the twin's acknowledgement (R348). -/
  torWaits : List (PartId × List Byte) := []
  deriving DecidableEq, Repr

/-! ### Power, bring-up, management -/

inductive InputPhase where
  | off | charging | charged
  deriving DecidableEq, Repr

/-- Direction of the rail sequence (R356, R357). -/
inductive RailPhase where
  | down | rising | up | falling
  deriving DecidableEq, Repr

structure Power where
  input : InputPhase := .charged
  modEn : Bool := true
  rails : RailPhase := .up
  /-- Rails in regulation, 0 to 7, in the order of R356. -/
  inRegulation : Nat := 7
  pwrgd : Bool := true
  /-- A power-down has begun and the module does not act on MOD_EN until it and 100 ms have passed (R357). -/
  holdoff : Bool := false
  /-- The root PLL holds lock (R354, R355). -/
  locked : Bool := false
  perst : Bool := true
  ltssm : Bool := false
  configReady : Bool := false
  /-- The last sample was beyond the limit of R369. -/
  hot : Bool := false
  deriving DecidableEq, Repr

/-- Management SRAM as the loader and Gwezia use it (R357, R360). -/
structure Boot where
  image : List Byte := []
  delays : List Byte := []
  busMaster : Bool := false
  deriving DecidableEq, Repr

structure I3c where
  addr : Option (BitVec 7) := none
  mchainIn : Bool := false
  mchainOut : Bool := false
  off : Nat := 0
  ibi : Bool := false
  deriving DecidableEq, Repr

/-! ### The whole -/

/-- The reasons for which a step can stop as a fault. The specification gives none: every error of the part is a
response, a status or a log entry. -/
inductive Fault where
  /-- Nothing raises it: kept so that the type has a value. Safe. -/
  | none
  deriving DecidableEq, Repr

/-- The reasons for which a step can refuse a command. -/
inductive Refusal where
  /-- A command that has no meaning yet, by mnemonic. Safe: the run stops. -/
  | notModelled (mnemonic : String)
  /-- A command whose operands are not well formed (WellFormed.lean): it names nothing the table describes. Raised by
  `exec`'s meanings before they act. Safe: the run stops. -/
  | illFormed (mnemonic : String)
  deriving DecidableEq, Repr

/-- The state of the module. -/
structure State where
  pending : List Instr := []
  outbox : List Out := []
  freeIdx : Nat := 0
  nextId : Nat := 0
  /-- Root cycles since the epoch (R4, R354). -/
  cycles : Nat := 0
  power : Power := {}
  /-- FAILED: the part answers nothing until its next power-up (R320, R355). -/
  failed : Bool := false
  /-- BAR0 words that hold settings, status and logs, by PF0 offset; an unlisted offset reads as its reset value. -/
  regs : Tab Word := []
  /-- The ring table and the partition table as polls and units use them (R273): the words in force, and those of the
  last completed FLUSH read. -/
  tables : Tab Word := []
  flushed : Tab Word := []
  /-- Number plus 1 of the function that last wrote a table word since its last FLUSH read. -/
  writers : Tab Nat := []
  /-- BAR0 writes per function that have taken effect (R256). -/
  flushCount : Tab (BitVec 32) := []
  flushWaits : List FlushWait := []
  bar2Gib : Nat := 64
  dropLogged : Bool := false
  mem : List Host.Cell := []
  /-- Erroneous symbols stored per line (R200). -/
  lineErr : Tab Nat := []
  /-- Memory requests held at their sources, and responses that units have not yet taken (R202, R212). -/
  inFlight : List MemReq := []
  responses : List MemResp := []
  serving : List Serving := []
  stalls : List Stall := []
  loaderLines : List LoaderLine := []
  chans : Tab Chan := []
  querns : Tab Quern := []
  admission : Tab (List GrindJob) := []
  jobs : List GrindJob := []
  cores : Tab Core := []
  pegs : Tab Peg := []
  tallies : Tab Tally := []
  bells : Tab Bell := []
  syncTables : Tab SyncTable := []
  saved : Tab Saved := []
  launches : List Launch := []
  launchOrder : Nat := 0
  loadQueue : List LoadWait := []
  loadJob : Option LoadJob := none
  parts : Tab Part := []
  rings : Tab Ring := []
  /-- The poller: the kept summary, the class last granted and the position in the cycle of 13 grants. -/
  summary : List Byte := []
  /-- Polls begun so far. -/
  pollNo : Nat := 0
  grantPos : Nat := 0
  grantRing : Tab Nat := []
  /-- Rings passed over for want of room, which keep their turn (R301). -/
  grantOwed : List Nat := []
  /-- The host carts' turns: position in the cycle and ring last started, by direction and class (R302). -/
  cartPos : Tab Nat := []
  cartRing : Tab Nat := []
  hostTlb : Tab (List TlbEntry) := []
  hostCarts : Tab HostCart := []
  hostReads : List HostRead := []
  hostLines : List HostLine := []
  heldOut : List Out := []
  ingress : List Ingress := []
  ingressWaits : List IngressWait := []
  links : Tab Link := []
  fabric : Fabric := {}
  twin : Twin := {}
  boot : Boot := {}
  i3c : I3c := {}
  /-- Partition fault logs, 32 × 256 entries; module error log; channel logs; trace buffer: by slot (R213, R370, R380). -/
  faultLog : Tab (BitVec 256) := []
  moduleLog : Tab (BitVec 256) := []
  channelLog : Tab (BitVec 128) := []
  trace : Tab (BitVec 256) := []
  deriving DecidableEq, Repr

/-- The module after power-up: every register, table and queue at its reset value (R7), PWRGD high, the root PLL not yet
locked, nothing listed in memory (log entry 6). -/
def State.reset : State := {}

end Sys2Proof.Machine
end

