-- ==== Sys2Proof/Machine/Tab.lean ====
section
/-! DEFINITION. Reading and writing sparse tables. `d` is what an unlisted key reads as. -/

namespace Sys2Proof.Machine

/-- The value at key `k`: the first entry of that key, unless a larger key stands before it. -/
def tabGet {α : Type} (d : Nat → α) (k : Nat) : Tab α → α
  | [] => d k
  | (a, v) :: r => if k < a then d k else if k = a then v else tabGet d k r

/-- `v` at key `k`; the entry is left out where `v` is what the unlisted key reads as. -/
def tabSet {α : Type} [DecidableEq α] (d : Nat → α) (k : Nat) (v : α) : Tab α → Tab α
  | [] => if v = d k then [] else [(k, v)]
  | (a, w) :: r =>
    if k < a then (if v = d k then (a, w) :: r else (k, v) :: (a, w) :: r)
    else if k = a then (if v = d k then r.dropWhile (fun e => e.1 ≤ k) else (k, v) :: r)
    else (a, w) :: tabSet d k v r

/-- The canonical form: keys strictly rising, no entry equal to its default. -/
def tabWf {α : Type} [DecidableEq α] (d : Nat → α) : Tab α → Bool
  | [] => true
  | [(a, v)] => decide (v ≠ d a)
  | (a, v) :: (b, w) :: r => decide (v ≠ d a) && decide (a < b) && tabWf d ((b, w) :: r)

/-- Change the value at one key. -/
def tabMod {α : Type} [DecidableEq α] (d : Nat → α) (k : Nat) (f : α → α) (m : Tab α) : Tab α :=
  tabSet d k (f (tabGet d k m)) m

/-- Apply a function to the value at each of the keys. -/
def tabModAll {α : Type} [DecidableEq α] (d : Nat → α) (ks : List Nat) (f : Nat → α → α) (m : Tab α) : Tab α :=
  ks.foldl (fun t k => tabMod d k (f k) t) m

/-! ### Bytes -/

/-- What an unlisted byte of device memory or of a bench reads as (log entries 3 and 8). -/
def zeroByte : Nat → Byte := fun _ => 0

/-- `len` bytes from `a`, ascending. -/
def readBytes (m : List Host.Cell) (a : Nat) : Nat → List Byte
  | 0 => []
  | n + 1 => tabGet zeroByte a m :: readBytes m (a + 1) n

/-- Write bytes from `a`, ascending. -/
def writeBytes (m : List Host.Cell) (a : Nat) : List Byte → List Host.Cell
  | [] => m
  | b :: bs => writeBytes (tabSet zeroByte a b m) (a + 1) bs

/-- The number whose little-endian bytes these are (R3). -/
def leNat : List Byte → Nat
  | [] => 0
  | b :: bs => b.toNat + 256 * leNat bs

/-- The `n` little-endian bytes of a number (R3). -/
def natLe : Nat → Nat → List Byte
  | 0, _ => []
  | n + 1, v => BitVec.ofNat 8 v :: natLe n (v / 256)

/-- The `n` low bytes at an address as a number. -/
def readLe (m : List Host.Cell) (a n : Nat) : Nat := leNat (readBytes m a n)

/-- `n` bytes of a number at an address. -/
def writeLe (m : List Host.Cell) (a n v : Nat) : List Host.Cell := writeBytes m a (natLe n v)

/-- The `len` bytes of a list from offset `o`, with zeros beyond its end. -/
def sliceBytes (l : List Byte) (o : Nat) : Nat → List Byte
  | 0 => []
  | n + 1 => (l[o]?.getD 0) :: sliceBytes l (o + 1) n

/-- A little-endian field of a byte list: offset and size in bytes. -/
def fieldLe (l : List Byte) (o n : Nat) : Nat := leNat (sliceBytes l o n)

/-- Put bytes over a list from an offset; the list keeps its length. -/
def putBytes (l : List Byte) (o : Nat) (bs : List Byte) : List Byte :=
  l.take o ++ (bs ++ l.drop (o + bs.length)).take (l.length - o)

/-! ### Bits -/

/-- Bits [hi:lo] of a number. -/
def bitsOf (v hi lo : Nat) : Nat := (v >>> lo) % 2 ^ (hi + 1 - lo)

/-- One bit of a number. -/
def bitOf (v i : Nat) : Bool := (v >>> i) % 2 == 1

/-- The word with bits [hi:lo] of `w` replaced by the low bits of `v`. -/
def setBits (w : Word) (hi lo v : Nat) : Word :=
  let mask : Nat := (2 ^ (hi + 1 - lo) - 1) <<< lo
  (w &&& ~~~(BitVec.ofNat 64 mask)) ||| BitVec.ofNat 64 ((v <<< lo) % 2 ^ 64 &&& mask)

/-- Bits [hi:lo] of a word, as a number. -/
def getBits (w : Word) (hi lo : Nat) : Nat := bitsOf w.toNat hi lo

/-- 1 for true. -/
def boolNat (b : Bool) : Nat := if b then 1 else 0

end Sys2Proof.Machine
end

