-- ==== Sys2Proof/Machine/RegMap.lean ====
section
/-! DEFINITION. The field tables of BAR0 (R42, R97, R137, R148, R170, R214, R232, R253, R256, R271, R277, R306, R310,
R352, R358, R371, R372, R375, R376, R378, R380, R382, R383): every register with its fields, access codes and resets. -/

namespace Sys2Proof.Machine

/-- The access codes of R6. -/
inductive Access where
  | rw | ro | wo | w1c | w1s | rc
  deriving DecidableEq, Repr

/-- A field of a register: bits [hi:lo], access code, reset value ("host" is 0, R7). Bits no field names are
reserved. -/
structure Field where
  hi : Nat
  lo : Nat
  access : Access
  reset : Nat := 0
  deriving DecidableEq, Repr

/-- The home of a register's contents: the word table `State.regs`, or a typed part of the state that the register
shows. -/
inductive Home where
  | word | view
  deriving DecidableEq, Repr

/-- A register, or an array of them: `base + i × s1 + j × s2` for i < n1 and j < n2. `bytes` is its size. -/
structure RegSpec where
  base : Nat
  n1 : Nat := 1
  s1 : Nat := 0x800000
  n2 : Nat := 1
  s2 : Nat := 8
  bytes : Nat := 8
  home : Home := .word
  fields : List Field
  deriving DecidableEq, Repr

def rw (hi lo : Nat) (reset : Nat := 0) : Field := ⟨hi, lo, .rw, reset⟩
def ro (hi lo : Nat) (reset : Nat := 0) : Field := ⟨hi, lo, .ro, reset⟩
def wo (hi lo : Nat) : Field := ⟨hi, lo, .wo, 0⟩
def w1c (hi lo : Nat) : Field := ⟨hi, lo, .w1c, 0⟩
def w1s (hi lo : Nat) : Field := ⟨hi, lo, .w1s, 0⟩
def rc (hi lo : Nat) : Field := ⟨hi, lo, .rc, 0⟩

/-! ### Offsets -/

def oFLUSH : Nat := 0x40
def oNUDGE : Nat := 0x48
def oDB_SUMMARY : Nat := 0x50
def oDB_POLLS : Nat := 0x58
def oHL_CTL : Nat := 0x100
def oHL_STAT : Nat := 0x108
def oHL_DOWN : Nat := 0x110
def oBAR2_MAP : Nat := 0x118
def oING_CTL : Nat := 0x120
def oING_STAT : Nat := 0x128
def oHC_CTL : Nat := 0x130
def oMOD_STAT : Nat := 0x28
def oCLK_STAT : Nat := 0x10000
def oCLK_TIME : Nat := 0x10008
def oPWR_CAP : Nat := 0x10100
def oPWR_DUTY : Nat := 0x10108
def oTEMP_DIE (q : Nat) : Nat := 0x10200 + 8 * q
def oTEMP_STACK (s : Nat) : Nat := 0x10240 + 8 * s
def oPWR_IN : Nat := 0x10280
def oTHERM_STAT : Nat := 0x10288
def oBOOT_CTL : Nat := 0x20000
def oBOOT_STAT : Nat := 0x20008
def oIMG_ADDR : Nat := 0x20010
def oIMG_LEN : Nat := 0x20018
def oDLY_ADDR : Nat := 0x20020
def oDLY_LEN : Nat := 0x20028
def oFW_ID : Nat := 0x20030
def oRT (r k : Nat) : Nat := 0x100000 + 64 * r + k
def oRT_CTL (r : Nat) : Nat := oRT r 0
def oRT_DESC (r : Nat) : Nat := oRT r 0x08
def oRT_CPL (r : Nat) : Nat := oRT r 0x10
def oRT_SIZE (r : Nat) : Nat := oRT r 0x18
def oRT_DB (r : Nat) : Nat := oRT r 0x20
def oRT_STAT (r : Nat) : Nat := oRT r 0x28
def oRT_CANCEL (r : Nat) : Nat := oRT r 0x30
def oRT_OVERDUE (r : Nat) : Nat := oRT r 0x38
def oPT (p k : Nat) : Nat := 0x180000 + 0x800 * p + k
def oPT_CTL (p : Nat) : Nat := oPT p 0
def oPT_RINGS (p : Nat) : Nat := oPT p 0x08
def oPT_PEGS (p : Nat) : Nat := oPT p 0x10
def oPT_TALLIES (p : Nat) : Nat := oPT p 0x18
def oPT_BELLS (p : Nat) : Nat := oPT p 0x20
def oPT_VC (p : Nat) : Nat := oPT p 0x28
def oPT_EVENT (p : Nat) : Nat := oPT p 0x30
def oPT_EVEC (p : Nat) : Nat := oPT p 0x38
def oPT_DBPAGE (p : Nat) : Nat := oPT p 0x40
def oPT_NCA (p : Nat) : Nat := oPT p 0x48
def oPT_GRAN (p q : Nat) : Nat := oPT p (0x50 + 8 * (q / 2))
def oPT_WHEEL (p s : Nat) : Nat := oPT p (0x80 + 8 * s)
def oPT_MEM (p i : Nat) : Nat := oPT p (0x100 + 8 * i)
def oPT_CORELIST (p j : Nat) : Nat := oPT p (0x200 + 8 * j)
def oPT_CTX (p c : Nat) : Nat := oPT p (0x300 + 32 * c)
def oPT_ROOT (p c : Nat) : Nat := oPT p (0x308 + 32 * c)
def oPT_SYNC (p c : Nat) : Nat := oPT p (0x310 + 32 * c)
def oPT_SAVE (p c : Nat) : Nat := oPT p (0x318 + 32 * c)
def oPT_ABORT (p : Nat) : Nat := oPT p 0x7F8
def oCH (n k : Nat) : Nat := 0x200000 + 0x1000 * n + k
def oCH_CTL (n : Nat) : Nat := oCH n 0
def oCH_STAT (n : Nat) : Nat := oCH n 8
def oDLY_LANE (n k : Nat) : Nat := oCH n (0x10 + 8 * k)
def oDLY_CA (n : Nat) : Nat := oCH n 0x58
def oSCRUB_STAT (n : Nat) : Nat := oCH n 0x60
def oELOG_PTR (n : Nat) : Nat := oCH n 0x68
def oTM_READS (n : Nat) : Nat := oCH n 0x100
def oTM_WRITES (n : Nat) : Nat := oCH n 0x108
def oTM_CE (n : Nat) : Nat := oCH n 0x110
def oTM_UE (n : Nat) : Nat := oCH n 0x118
def oTM_SCRUB_DEFER (n : Nat) : Nat := oCH n 0x120
def oTM_PROC (n : Nat) : Nat := oCH n 0x128
def oTM_SR (n : Nat) : Nat := oCH n 0x130
def oQPROG_STAGE (n k : Nat) : Nat := oCH n (0x800 + 4 * k)
def oQPROG_CTL (n : Nat) : Nat := oCH n 0xC00
def oQPROG_STAT (n : Nat) : Nat := oCH n 0xC08
def oGRAN_STAT (n : Nat) : Nat := oCH n 0xC10
def oGRAN_VIOL (n : Nat) : Nat := oCH n 0xC18
def oBL (n k : Nat) : Nat := 0x300000 + 0x8000 * n + k
def oBL_CTL (n : Nat) : Nat := oBL n 0
def oBL_STAT (n : Nat) : Nat := oBL n 8
def oBL_REPLAY (n : Nat) : Nat := oBL n 0x10
def oBL_FEC (n : Nat) : Nat := oBL n 0x18
def oBL_LANE (n : Nat) : Nat := oBL n 0x20
def oFB_CTL : Nat := 0x390000
def oFB_ADDR : Nat := 0x390008
def oFB_VC : Nat := 0x390010
def oFB_STAT : Nat := 0x390018
def oFB_ALIAS (i : Nat) : Nat := 0x390100 + 8 * i
def oTW_CTL : Nat := 0x400000
def oTW_STAT : Nat := 0x400008
def oTW_BEAT : Nat := 0x400010
def oTW_PBEAT : Nat := 0x400018
def oTW_MOUT (n : Nat) : Nat := 0x400100 + 16 * n
def oTW_MOUT_DST (n : Nat) : Nat := 0x400108 + 16 * n
def oTW_MIN (n : Nat) : Nat := 0x400200 + 8 * n
def oTW_ADOPT (p : Nat) : Nat := 0x400300 + 8 * p
def oJT (q k : Nat) : Nat := 0x440000 + 0x1000 * q + k
def oJT_POOL (q : Nat) : Nat := oJT q 0
def oJT_FREE (q : Nat) : Nat := oJT q 8
def oJT_COUNT (q : Nat) : Nat := oJT q 0x10
def oJT_STATE (q j : Nat) : Nat := oJT q (0x100 + 8 * j)
def oPEG (p : Nat) : Nat := 0x500000 + 8 * p
def oKP (c k : Nat) : Nat := 0x580000 + 0x400 * c + k
def oTALLY_VAL (t : Nat) : Nat := 0x5A0000 + 16 * t
def oTALLY_CFG (t : Nat) : Nat := 0x5A0008 + 16 * t
def oBELL (b : Nat) : Nat := 0x5E0000 + 8 * b
def oWM (q k : Nat) : Nat := 0x5F0000 + 0x100 * q + k
def oWM_CTL (q : Nat) : Nat := oWM q 0
def oWM_STAT (q : Nat) : Nat := oWM q 8
def oWM_SNAP (q : Nat) : Nat := oWM q 0x10
def oWM_TIME (q : Nat) : Nat := oWM q 0x18
def oWM_QUIET (q : Nat) : Nat := oWM q 0x20
def oPFL_PTR (p : Nat) : Nat := 0x600000 + 0x4000 * p
def oMEL_PTR : Nat := 0x680000
def oTMM (k : Nat) : Nat := 0x690000 + 8 * k
def oTMP (p k : Nat) : Nat := 0x6A0000 + 0x100 * p + 8 * k
def oTR_CTL : Nat := 0x700000
def oTR_PTR : Nat := 0x700008
def oTR_LOST : Nat := 0x700010

/-- Identity, FLUSH, doorbell, host link, host-cart reservation (R256, R277, R375). -/
def regsIdentity : List RegSpec := [
  { base := 0x000, fields := [ro 63 0 Config.uniqueId.toNat] },
  { base := 0x008, fields := [ro 63 0 (Config.serial 0).toNat] },
  { base := 0x010, fields := [ro 63 0 (Config.serial 1).toNat] },
  { base := 0x018, fields := [ro 7 0 0xB1, ro 31 16 0x0009] },
  { base := 0x020, fields := [ro 7 0 128, ro 15 8 32, ro 31 16 8192, ro 39 32 8, ro 47 40 18] },
  { base := 0x028, fields := [ro 7 0 0xAA] },
  { base := 0x040, home := .view, fields := [ro 31 0] },
  { base := 0x048, fields := [wo 12 0] },
  { base := 0x050, fields := [rw 63 10] },
  { base := 0x058, fields := [ro 31 0] },
  { base := 0x100, fields := [rw 0 0] },
  { base := 0x108, fields := [ro 2 0, ro 7 3, ro 8 8, w1c 9 9] },
  { base := 0x110, fields := [ro 31 0, ro 63 32] },
  { base := 0x118, fields := [rw 40 36] },
  { base := 0x120, fields := [rw 0 0, rw 40 32] },
  { base := 0x128, fields := [ro 31 0, ro 63 32] },
  { base := 0x130, fields := [rw 2 0] }]

/-- Clock, power and thermal (R376) and the loader (R358). -/
def regsClockBoot : List RegSpec := [
  { base := 0x10000, fields := [ro 0 0] },
  { base := 0x10008, home := .view, fields := [ro 47 0] },
  { base := 0x10100, fields := [rw 11 0 2500] },
  { base := 0x10108, fields := [ro 6 0 64] },
  { base := 0x10200, n2 := 4, fields := [ro 15 0] },
  { base := 0x10240, n2 := 8, fields := [ro 15 0] },
  { base := 0x10280, fields := [ro 15 0, ro 31 16] },
  { base := 0x10288, fields := [w1c 0 0] },
  { base := 0x20000, fields := [wo 0 0] },
  { base := 0x20008, fields := [ro 3 0, ro 15 8, ro 31 16, ro 63 32] },
  { base := 0x20010, fields := [rw 63 6] },
  { base := 0x20018, fields := [rw 23 0] },
  { base := 0x20020, fields := [rw 63 6] },
  { base := 0x20028, fields := [rw 15 0] },
  { base := 0x20030, fields := [ro 31 0, ro 63 32] }]

/-- The ring table (R271). PARTITION of RT_CTL is a view of the partition table's ring ranges. -/
def regsRings : List RegSpec := [
  { base := 0x100000, n1 := 8192, s1 := 64,
    fields := [rw 0 0, rw 1 1, rw 3 2, ro 12 8, rw 23 16, rw 34 24] },
  { base := 0x100008, n1 := 8192, s1 := 64, fields := [rw 63 6] },
  { base := 0x100010, n1 := 8192, s1 := 64, fields := [rw 63 6] },
  { base := 0x100018, n1 := 8192, s1 := 64, fields := [rw 16 0, rw 63 32] },
  { base := 0x100020, n1 := 8192, s1 := 64, fields := [rw 9 0] },
  { base := 0x100028, n1 := 8192, s1 := 64, fields := [ro 31 0, ro 63 32] },
  { base := 0x100030, n1 := 8192, s1 := 64, fields := [ro 31 0, ro 32 32] },
  { base := 0x100038, n1 := 8192, s1 := 64, fields := [ro 31 0] }]

/-- The partition table (R306, R378). -/
def regsPartitions : List RegSpec := [
  { base := 0x180000, n1 := 32, s1 := 0x800, fields := [rw 0 0, rw 1 1, rw 3 2, rw 23 8 100, rw 39 32] },
  { base := 0x180008, n1 := 32, s1 := 0x800, fields := [rw 12 0, rw 29 16] },
  { base := 0x180010, n1 := 32, s1 := 0x800, fields := [rw 15 0, rw 32 16] },
  { base := 0x180018, n1 := 32, s1 := 0x800, fields := [rw 13 0, rw 30 16] },
  { base := 0x180020, n1 := 32, s1 := 0x800, fields := [rw 11 0, rw 28 16] },
  { base := 0x180028, n1 := 32, s1 := 0x800, fields := [rw 7 0, rw 15 8, rw 23 16, rw 28 24] },
  { base := 0x180030, n1 := 32, s1 := 0x800, fields := [rw 63 6] },
  { base := 0x180038, n1 := 32, s1 := 0x800, fields := [rw 10 0] },
  { base := 0x180040, n1 := 32, s1 := 0x800, fields := [rw 63 12] },
  { base := 0x180048, n1 := 32, s1 := 0x800, fields := [rw 40 16, rw 56 41] },
  { base := 0x180050, n1 := 32, s1 := 0x800, n2 := 2, fields := [rw 31 0, rw 63 32] },
  { base := 0x180080, n1 := 32, s1 := 0x800, n2 := 8, fields := [rw 63 0] },
  { base := 0x180100, n1 := 32, s1 := 0x800, n2 := 16, fields := [rw 40 21, rw 60 41] },
  { base := 0x180200, n1 := 32, s1 := 0x800, n2 := 16, fields := [rw 63 0] },
  { base := 0x180300, n1 := 32, s1 := 0x800, n2 := 8, s2 := 32, fields := [rw 7 0, rw 8 8, rw 9 9, rw 10 10] },
  { base := 0x180308, n1 := 32, s1 := 0x800, n2 := 8, s2 := 32, fields := [rw 40 16] },
  { base := 0x180310, n1 := 32, s1 := 0x800, n2 := 8, s2 := 32, fields := [rw 40 12] },
  { base := 0x180318, n1 := 32, s1 := 0x800, n2 := 8, s2 := 32, fields := [rw 40 16] },
  { base := 0x1807F8, n1 := 32, s1 := 0x800, fields := [wo 0 0, ro 1 1, ro 31 16] }]

/-- Channel blocks (R170, R214). -/
def regsChannels : List RegSpec := [
  { base := 0x200000, n1 := 256, s1 := 0x1000, fields := [rw 0 0, rw 1 1] },
  { base := 0x200008, n1 := 256, s1 := 0x1000, fields := [ro 1 0, ro 2 2] },
  { base := 0x200010, n1 := 256, s1 := 0x1000, n2 := 9, fields := [rw 6 0, rw 14 8, ro 22 16, ro 30 24] },
  { base := 0x200058, n1 := 256, s1 := 0x1000, fields := [rw 6 0] },
  { base := 0x200060, n1 := 256, s1 := 0x1000, fields := [ro 24 0, ro 63 32] },
  { base := 0x200068, n1 := 256, s1 := 0x1000, fields := [rw 6 0, ro 14 8, rc 31 16] },
  { base := 0x200100, n1 := 256, s1 := 0x1000, n2 := 7, fields := [ro 63 0] },
  { base := 0x200400, n1 := 256, s1 := 0x1000, n2 := 128, home := .view, fields := [ro 63 0] },
  { base := 0x200800, n1 := 256, s1 := 0x1000, n2 := 256, s2 := 4, bytes := 4, fields := [rw 31 0] },
  { base := 0x200C00, n1 := 256, s1 := 0x1000, fields := [wo 0 0] },
  { base := 0x200C08, n1 := 256, s1 := 0x1000, fields := [ro 0 0, ro 1 1, ro 63 32] },
  { base := 0x200C10, n1 := 256, s1 := 0x1000, home := .view, fields := [ro 1 0, ro 17 2, ro 63 32] },
  { base := 0x200C18, n1 := 256, s1 := 0x1000, fields := [w1c 0 0] }]

/-- Belora links and the fabric (R352), the twin (R310), joint blocks (R253). -/
def regsFabric : List RegSpec := [
  { base := 0x300000, n1 := 18, s1 := 0x8000, fields := [rw 0 0 1, rw 4 1] },
  { base := 0x300008, n1 := 18, s1 := 0x8000, fields := [ro 1 0, ro 9 2, ro 17 10] },
  { base := 0x300010, n1 := 18, s1 := 0x8000, n2 := 3, fields := [ro 31 0, ro 63 32] },
  { base := 0x390000, fields := [rw 0 0] },
  { base := 0x390008, fields := [rw 11 0, rw 18 16, rw 21 19, rw 24 22, rw 27 25, rw 31 28] },
  { base := 0x390010, fields := [rw 4 0] },
  { base := 0x390018, fields := [ro 31 0, ro 63 32] },
  { base := 0x390100, n2 := 64, fields := [ro 11 0, ro 23 12, ro 39 24, ro 40 40] },
  { base := 0x400000, fields := [rw 0 0, rw 15 4] },
  { base := 0x400008, fields := [ro 2 0, ro 3 3, ro 5 4, ro 31 16, ro 63 32] },
  { base := 0x400010, n2 := 2, fields := [rw 63 6] },
  { base := 0x400100, n2 := 16, s2 := 16, fields := [rw 40 21, rw 60 41] },
  { base := 0x400108, n2 := 16, s2 := 16, fields := [rw 40 21] },
  { base := 0x400200, n2 := 16, fields := [rw 40 21, rw 60 41] },
  { base := 0x400300, n2 := 32, fields := [rw 0 0, rw 5 1, rw 63 12] },
  { base := 0x440000, n1 := 32, s1 := 0x1000, fields := [rw 15 0, rw 40 16] },
  { base := 0x440008, n1 := 32, s1 := 0x1000, home := .view, fields := [ro 15 0] },
  { base := 0x440010, n1 := 32, s1 := 0x1000, fields := [ro 31 0, ro 63 32] },
  { base := 0x440100, n1 := 32, s1 := 0x1000, n2 := 64, home := .view,
    fields := [ro 1 0, ro 2 2, ro 13 3, ro 31 16, ro 47 32] }]

/-- Synchronisation objects and watchman blocks (R232). -/
def regsSync : List RegSpec := [
  { base := 0x500000, n2 := 65536, home := .view, fields := [rw 15 0, w1c 16 16, w1c 17 17, ro 27 18, wo 62 62] },
  { base := 0x5A0000, n2 := 16384, s2 := 16, home := .view, fields := [rw 63 0] },
  { base := 0x5A0008, n2 := 16384, s2 := 16, home := .view,
    fields := [rw 15 0, rw 16 16, rw 30 17, rw 31 31, rw 43 32, w1c 44 44] },
  { base := 0x5E0000, n2 := 4096, home := .view, fields := [rw 12 0, rw 25 13, rw 41 26, ro 51 42, wo 62 62] },
  { base := 0x5F0000, n1 := 32, s1 := 0x100, fields := [rw 0 0 1, rw 1 1] },
  { base := 0x5F0008, n1 := 32, s1 := 0x100, fields := [w1c 0 0, ro 15 8, ro 25 16] },
  { base := 0x5F0010, n1 := 32, s1 := 0x100, fields := [rw 40 15] },
  { base := 0x5F0018, n1 := 32, s1 := 0x100, fields := [ro 47 0] },
  { base := 0x5F0020, n1 := 32, s1 := 0x100, fields := [ro 16 0] }]

/-- Core debug blocks (R42, R97, R137, R148). -/
def regsDebug : List RegSpec := [
  { base := 0x580000, n1 := 128, s1 := 0x400, home := .view, fields := [w1s 0 0, wo 1 1, wo 2 2] },
  { base := 0x580008, n1 := 128, s1 := 0x400, home := .view, fields := [ro 0 0, ro 3 1, ro 31 16, ro 39 32] },
  { base := 0x580010, n1 := 128, s1 := 0x400, home := .view, fields := [ro 47 0] },
  { base := 0x580100, n1 := 128, s1 := 0x400, n2 := 16, home := .view, fields := [rw 63 0] },
  { base := 0x580180, n1 := 128, s1 := 0x400, n2 := 8, home := .view, fields := [rw 31 0] },
  { base := 0x5801C0, n1 := 128, s1 := 0x400, home := .view, fields := [rw 3 0] },
  { base := 0x580200, n1 := 128, s1 := 0x400, home := .view,
    fields := [ro 4 0, ro 10 5, ro 16 11, ro 22 17, ro 28 23, ro 32 29] },
  { base := 0x580300, n1 := 128, s1 := 0x400, n2 := 32, home := .view, fields := [ro 63 0] }]

/-- Logs, telemetry and trace (R370, R371, R380, R382, R383). -/
def regsLogs : List RegSpec := [
  { base := 0x600000, n1 := 32, s1 := 0x4000, fields := [rw 8 0, ro 24 16, rc 47 32] },
  { base := 0x602000, n1 := 32, s1 := 0x4000, n2 := 1024, home := .view, fields := [ro 63 0] },
  { base := 0x680000, fields := [rw 10 0, ro 26 16, rc 47 32] },
  { base := 0x688000, n2 := 4096, home := .view, fields := [ro 63 0] },
  { base := 0x690000, n2 := 7, fields := [ro 63 0] },
  { base := 0x6A0000, n1 := 32, s1 := 0x100, n2 := 7, fields := [ro 63 0] },
  { base := 0x700000, fields := [rw 31 0, rw 32 32] },
  { base := 0x700008, fields := [ro 14 0, rw 30 16] },
  { base := 0x700010, fields := [rc 31 0] },
  { base := 0x780000, n2 := 65536, home := .view, fields := [ro 63 0] }]

/-- Every register of BAR0. -/
def regSpecs : List RegSpec :=
  regsIdentity ++ regsClockBoot ++ regsRings ++ regsPartitions ++ regsChannels ++ regsFabric ++ regsSync ++ regsDebug
    ++ regsLogs

/-- The register at offset `o` is one of this specification. -/
def RegSpec.holds (r : RegSpec) (o : Nat) : Bool :=
  decide (r.base ≤ o) &&
    decide ((o - r.base) / r.s1 < r.n1) &&
    decide ((o - r.base) % r.s1 / r.s2 < r.n2) &&
    decide ((o - r.base) % r.s1 % r.s2 = 0)

/-- The register at an offset, if one starts there (R372). -/
def regAt (o : Nat) : Option RegSpec := regSpecs.find? (fun r => r.holds o)

/-- The reset value of a register: its fields' reset values in their places (R7). -/
def RegSpec.resetWord (r : RegSpec) : Word := r.fields.foldl (fun w f => setBits w f.hi f.lo f.reset) 0

/-- What an unlisted register word reads as: its reset value. -/
def regReset (o : Nat) : Word :=
  match regAt o with
  | some r => r.resetWord
  | none => 0

end Sys2Proof.Machine
end

