-- ==== Sys2Proof/WellFormed.lean ====
section
/-! DEFINITION. Which commands are well formed: the lengths that the specification gives to the data a command
carries. A meaning refuses, by name, a command that is not. -/

namespace Sys2Proof

/-- Every slot of a fetched batch is a 64-byte slot (R267). -/
def FetchBatch.wf (b : FetchBatch) : Bool := b.slots.all (fun l => decide (l.length = 64))

/-- A calibration sample has one entry per byte lane (R210). -/
def DriftSample.wf (m : DriftSample) : Bool := decide (List.length m = 9)

/-- A sample reads four die sensors and eight stack sensors (R369). -/
def ThermalReading.wf (r : ThermalReading) : Bool :=
  decide (r.dieTemps.length = 4) && decide (r.stackTemps.length = 8)

/-- Commands of 64 bytes have seven operand words, the others three (R49, R50). -/
def wideOperands (w : List Word) : Bool := decide (w.length = 7)
def narrowOperands (w : List Word) : Bool := decide (w.length = 3)

/-- A command is well formed. -/
def Instr.wf : Instr → Bool
  | .nativeSkip _ n => decide (n = 8) || decide (n = 32) || decide (n = 64)
  | .beamMm _ _ w => wideOperands w
  | .beamLoad _ _ w => narrowOperands w
  | .beamAcc _ _ w => narrowOperands w
  | .planeAdd _ _ w => narrowOperands w
  | .planeSub _ _ w => narrowOperands w
  | .planeMul _ _ w => narrowOperands w
  | .planeFma _ _ w => narrowOperands w
  | .planeMax _ _ w => narrowOperands w
  | .planeMin _ _ w => narrowOperands w
  | .planeAbs _ _ w => narrowOperands w
  | .planeNeg _ _ w => narrowOperands w
  | .planeCvt _ _ w => narrowOperands w
  | .planeExp _ _ w => narrowOperands w
  | .planeLog _ _ w => narrowOperands w
  | .planeRecip _ _ w => narrowOperands w
  | .planeRsqrt _ _ w => narrowOperands w
  | .planeTanh _ _ w => narrowOperands w
  | .planeSigmoid _ _ w => narrowOperands w
  | .planeRsum _ _ w => narrowOperands w
  | .planeRmax _ _ w => narrowOperands w
  | .planeOsm _ _ w => narrowOperands w
  | .planeLsemerge _ _ w => narrowOperands w
  | .cartCopy _ _ w => narrowOperands w
  | .cartGather _ _ w => wideOperands w
  | .cartScatter _ _ w => wideOperands w
  | .grindJob _ _ w => wideOperands w
  | .pld _ _ d => decide (d.length = 64)
  | .qwr _ _ _ _ _ d => decide (d.length = 64)
  | .titheSlot _ m _ => DriftSample.wf m
  | .selfRefreshExit _ m => DriftSample.wf m
  | .descriptorFetch bs => bs.all FetchBatch.wf
  | .frameReceive _ f => decide (f.length = 256)
  | .streamedWrite _ _ d => decide (0 < d.length)
  | .thermalSample r => r.wf
  | _ => true

end Sys2Proof
end

