-- ==== Sys2Proof/Machine/Ops.lean ====
section
/-! DEFINITION. The named operations every meaning uses: registers and tables in force, units, logs, events, identifiers
of sources, the partition of a core, skipping and logging. -/

namespace Sys2Proof.Machine

/-- The outcome type of every meaning. -/
abbrev Res := Host.Outcome State Fault Refusal

/-- The module acts: PWRGD is high, and it is not in FAILED, in which it does nothing until its next power-up (R320, R357). -/
def State.alive (s : State) : Bool := s.power.pwrgd && !s.failed

/-- A command that cannot happen in the present state changes nothing (log entry 2). -/
def whenever (b : Bool) (s : State) (t : State) : Res := .next (if b && s.alive then t else s)

/-- The same for the inputs that act in FAILED and while PWRGD is low also: power and the management bus. -/
def always (b : Bool) (s : State) (t : State) : Res := .next (if b then t else s)

/-- A command whose operands are not well formed is refused by name. -/
def checkedIf (b : Bool) (name : String) (r : Res) : Res := if b then r else .refused (.illFormed name)
def checked (i : Instr) (name : String) (r : Res) : Res := checkedIf i.wf name r

/-! ### Registers -/

/-- The word of a register. -/
def State.reg (s : State) (o : Nat) : Word := tabGet regReset o s.regs

/-- A register with a new word. -/
def State.setReg (s : State) (o : Nat) (w : Word) : State := { s with regs := tabSet regReset o w s.regs }

/-- A field of a register, as a number. -/
def State.fld (s : State) (o hi lo : Nat) : Nat := getBits (s.reg o) hi lo

/-- A register with one field changed. -/
def State.setFld (s : State) (o hi lo v : Nat) : State := s.setReg o (setBits (s.reg o) hi lo v)

/-- A field advanced modulo its width. -/
def State.incFld (s : State) (o hi lo n : Nat) : State := s.setFld o hi lo ((s.fld o hi lo + n) % 2 ^ (hi + 1 - lo))

/-- A field advanced, saturating at its largest value. -/
def State.satFld (s : State) (o hi lo n : Nat) : State :=
  s.setFld o hi lo (min (s.fld o hi lo + n) (2 ^ (hi + 1 - lo) - 1))

/-- A one-bit field. -/
def State.bit (s : State) (o i : Nat) : Bool := s.fld o i i == 1

/-- A field of the ring table or partition table as the module uses it (R273). -/
def State.cfg (s : State) (o hi lo : Nat) : Nat := getBits (tabGet regReset o s.tables) hi lo

/-- A change the module itself makes to a field of these tables: it holds at once in both. -/
def State.setBoth (s : State) (o hi lo v : Nat) : State :=
  let t := s.setFld o hi lo v
  { t with
    tables := tabSet regReset o (setBits (tabGet regReset o t.tables) hi lo v) t.tables
    flushed := tabSet regReset o (setBits (tabGet regReset o t.flushed) hi lo v) t.flushed
    flushWaits := t.flushWaits.map (fun w => { w with
      words := w.words.map (fun x => if x.1 = o then (o, setBits x.2 hi lo v) else x) }) }

/-- The words that act only after a FLUSH read: the ring table, the partition table (R271, R273, R378) TR_CTL (R371)
and HL_CTL (R260). -/
def isTable (o : Nat) : Bool := (decide (0x100000 ≤ o) && decide (o < 0x190000)) || o == oTR_CTL || o == oHL_CTL

def tableWords (m : Tab Word) : Tab Word := m.filter (fun e => isTable e.1)

/-- A bit of TR_CTL as it stood at the last FLUSH read (R371). -/
def State.traceBit (s : State) (i : Nat) : Bool := getBits (tabGet regReset oTR_CTL s.flushed) i i == 1

/-! ### Time (R4, R354) -/

/-- Fabric cycles since the epoch. -/
def State.fabric_ (s : State) : Nat := s.cycles / 10

/-- The 48-bit timestamp counter. -/
def State.stamp (s : State) : Nat := s.fabric_ % 2 ^ 48

/-- The calendar counter of R67: core cycles modulo 16. -/
def State.calendar (s : State) : Nat := s.cycles / 5 % 16

/-- A fresh free value (Config.freeValue), and the state with the counter advanced. -/
def State.fresh (s : State) : Word × State := (Config.freeValue s.freeIdx, { s with freeIdx := s.freeIdx + 1 })

/-- A fresh identifier of a request. -/
def State.newId (s : State) : Nat × State := (s.nextId, { s with nextId := s.nextId + 1 })

/-- Something the part sends. -/
def State.send (s : State) (o : Out) : State := { s with outbox := s.outbox ++ [o] }

/-- An in-band interrupt of the management bus (R368), once ENEC has enabled it. -/
def State.inBand (s : State) (code : Byte) : State := if s.i3c.ibi && s.i3c.addr.isSome then s.send (.inBand code) else s

/-! ### Typed parts -/

def State.core (s : State) (c : CoreId) : Core := tabGet (fun _ => {}) c.val s.cores
def State.setCore (s : State) (c : CoreId) (k : Core) : State := { s with cores := tabSet (fun _ => {}) c.val k s.cores }
def State.modCore (s : State) (c : CoreId) (f : Core → Core) : State := s.setCore c (f (s.core c))
def State.part (s : State) (p : PartId) : Part := tabGet (fun _ => {}) p.val s.parts
def State.setPart (s : State) (p : PartId) (k : Part) : State := { s with parts := tabSet (fun _ => {}) p.val k s.parts }
def State.modPart (s : State) (p : PartId) (f : Part → Part) : State := s.setPart p (f (s.part p))
def State.chan (s : State) (n : ChanId) : Chan := tabGet (fun _ => {}) n.val s.chans
def State.setChan (s : State) (n : ChanId) (k : Chan) : State := { s with chans := tabSet (fun _ => {}) n.val k s.chans }
def State.modChan (s : State) (n : ChanId) (f : Chan → Chan) : State := s.setChan n (f (s.chan n))
def State.ring (s : State) (r : RingId) : Ring := tabGet (fun _ => {}) r.val s.rings
def State.setRing (s : State) (r : RingId) (k : Ring) : State := { s with rings := tabSet (fun _ => {}) r.val k s.rings }
def State.modRing (s : State) (r : RingId) (f : Ring → Ring) : State := s.setRing r (f (s.ring r))
def State.link (s : State) (l : LinkId) : Link := tabGet (fun _ => {}) l.val s.links
def State.setLink (s : State) (l : LinkId) (k : Link) : State := { s with links := tabSet (fun _ => {}) l.val k s.links }
def State.modLink (s : State) (l : LinkId) (f : Link → Link) : State := s.setLink l (f (s.link l))

/-- The channel number of a granary channel: 32 × (2 × quadrant + 1) + channel (R14). -/
def granChan (g : GranChan) : ChanId := ⟨64 * (g.val / 32) + 32 + g.val % 32, by omega⟩

/-- The table key of quern `p` of granary channel `g`. -/
def quernKey (g : GranChan) (p : Fin 16) : Nat := 16 * g.val + p.val
def State.quern (s : State) (g : GranChan) (p : Fin 16) : Quern := tabGet (fun _ => {}) (quernKey g p) s.querns
def State.setQuern (s : State) (g : GranChan) (p : Fin 16) (k : Quern) : State :=
  { s with querns := tabSet (fun _ => {}) (quernKey g p) k s.querns }

/-- The unit code of R230, which is also the key of an engine and its queue. -/
def unitCode : EngineUnit → Nat
  | .beam => 1 | .plane0 => 2 | .plane1 => 3 | .cart0 => 4 | .cart1 => 5 | .grind => 6

/-- Every engine unit, in the unit order of R220. -/
def allUnits : List EngineUnit := [.beam, .plane0, .plane1, .cart0, .cart1, .grind]

def cartUnit (u : Fin 2) : EngineUnit := if u.val = 0 then .cart0 else .cart1
def planeUnit (u : Fin 2) : EngineUnit := if u.val = 0 then .plane0 else .plane1

def Core.engOf (k : Core) (u : EngineUnit) : Eng := tabGet (fun _ => {}) (unitCode u) k.eng
def Core.setEng (k : Core) (u : EngineUnit) (e : Eng) : Core := { k with eng := tabSet (fun _ => {}) (unitCode u) e k.eng }
def Core.modEng (k : Core) (u : EngineUnit) (f : Eng → Eng) : Core := k.setEng u (f (k.engOf u))
def Core.queueOf (k : Core) (u : EngineUnit) : List Cmd := tabGet (fun _ => []) (unitCode u) k.queues
def Core.setQueue (k : Core) (u : EngineUnit) (q : List Cmd) : Core :=
  { k with queues := tabSet (fun _ => []) (unitCode u) q k.queues }

/-- The depth of a queue (R29). -/
def queueDepth : EngineUnit → Nat
  | .beam => 16 | .plane0 => 32 | .plane1 => 32 | .cart0 => 32 | .cart1 => 32 | .grind => 8

/-- The default rota (R74). -/
def defaultRota : Word := 0x4A8C3B714A623951#64

/-- The rota of a bank, and its word in the staging area (R53, R74). -/
def Core.rotaOf (k : Core) (bank : Nat) : Word := tabGet (fun _ => defaultRota) bank k.rota
def Core.stagedOf (k : Core) (bank : Nat) : Word := tabGet (fun _ => defaultRota) bank k.staging

/-! ### Partitions and the units they own (R294) -/

/-- Every partition. -/
def allParts : List PartId := List.finRange 32

/-- Length of a partition's core list (R294, R378). -/
def State.nCores (s : State) (p : PartId) : Nat := min (s.cfg (oPT_CTL p) 39 32) 128

/-- The core of rank k in a partition's core list. -/
def State.coreOfRank (s : State) (p : PartId) (k : Nat) : CoreId :=
  ⟨s.cfg (oPT_CORELIST p (k / 8)) (8 * (k % 8) + 7) (8 * (k % 8)) % 128, Nat.mod_lt _ (by decide)⟩

/-- The core list of a partition. -/
def State.coreList (s : State) (p : PartId) : List CoreId := (List.range (s.nCores p)).map (s.coreOfRank p)

/-- The partition that owns a core. -/
def State.partOfCore (s : State) (c : CoreId) : Option PartId := allParts.find? (fun p => (s.coreList p).contains c)

/-- The partition that owns a ring (R271, R294). -/
def State.partOfRing (s : State) (r : RingId) : Option PartId :=
  allParts.find? (fun p =>
    decide (s.cfg (oPT_RINGS p) 12 0 ≤ r.val) &&
      decide (r.val < s.cfg (oPT_RINGS p) 12 0 + s.cfg (oPT_RINGS p) 29 16))

/-- The slot of a context in its partition's entry, and that partition (R297). -/
def State.ctxSlot (s : State) (ctx : BitVec 8) : Option (PartId × Nat) :=
  allParts.findSome? (fun (p : PartId) =>
    ((List.range 8).find? (fun c => s.cfg (oPT_CTX p.val c) 8 8 == 1 && s.cfg (oPT_CTX p.val c) 7 0 == ctx.toNat)).map
      (fun c => (p, c)))

/-- The memory ranges of a partition cover `len` bytes at a physical address (R294, R296). -/
def State.inRanges (s : State) (p : PartId) (a len : Nat) : Bool :=
  covers 16 a (a + len)
where
  /-- The end of a range that holds an address. -/
  rangeEnd (a : Nat) : Option Nat :=
    (List.range 16).findSome? (fun i =>
      let b := 0x200000 * s.cfg (oPT_MEM p i) 40 21
      let l := 0x200000 * s.cfg (oPT_MEM p i) 60 41
      if b ≤ a ∧ a < b + l then some (b + l) else none)
  /-- The ranges, each going on where the one before ends, reach from one address to another. -/
  covers : Nat → Nat → Nat → Bool
    | 0, _, _ => false
    | k + 1, a, e => match rangeEnd a with
      | none => false
      | some x => decide (e ≤ x) || covers k x e

/-- A class-0 partition: C0 = 1, or one held for the class-0 work of the twin (R303). -/
def State.isClass0 (s : State) (p : PartId) : Bool := s.cfg (oPT_CTL p) 0 0 == 1 || s.cfg (oPT_CTL p) 1 1 == 1

/-- The PCIe function of a partition's rings: VF p + 1 (R254, log entry 9). -/
def partFn (p : PartId) : FnId := ⟨p.val + 1, by omega⟩

/-! ### Logs (R213, R380 to R382) -/

/-- The fields of a 32-byte log entry (R380). -/
structure Entry where
  type : Nat
  reason : Nat := 0
  core : Nat := 0xFF
  unit : Nat := 0xFF
  ctx : Nat := 0
  tag : Nat := 0
  status : Nat := 0
  d1 : Nat := 0
  d2 : Nat := 0

/-- An entry's 32 bytes, with the time of writing. -/
def Entry.word (e : Entry) (time : Nat) : BitVec 256 :=
  BitVec.ofNat 256 (time % 2 ^ 48 + e.type % 256 * 2 ^ 48 + e.reason % 256 * 2 ^ 56 + e.core % 256 * 2 ^ 64 +
    e.unit % 256 * 2 ^ 72 + e.ctx % 256 * 2 ^ 80 + e.tag % 65536 * 2 ^ 96 + e.status % 65536 * 2 ^ 112 +
    e.d1 % 2 ^ 64 * 2 ^ 128 + e.d2 % 2 ^ 64 * 2 ^ 192)

/-- Write a 32-byte entry to the fault log of a partition (R380). -/
def State.logPart (s : State) (p : PartId) (e : Entry) : State :=
  let o := oPFL_PTR p
  let wr := s.fld o 24 16
  if (wr + 512 - s.fld o 8 0) % 512 = 256 then s.satFld o 47 32 1
  else
    { s.setFld o 24 16 ((wr + 1) % 512) with
      faultLog := tabSet (fun _ => 0) (256 * p.val + wr % 256) (e.word s.stamp) s.faultLog }

/-- Write an entry to the module error log (R382). -/
def State.logModule (s : State) (e : Entry) : State :=
  let o := oMEL_PTR
  let wr := s.fld o 26 16
  if (wr + 2048 - s.fld o 10 0) % 2048 = 1024 then s.satFld o 47 32 1
  else
    { s.setFld o 26 16 ((wr + 1) % 2048) with
      moduleLog := tabSet (fun _ => 0) (wr % 1024) (e.word s.stamp) s.moduleLog }

/-- Write an entry to the log of a partition, or of the module where there is none. -/
def State.logAny (s : State) (p : Option PartId) (e : Entry) : State :=
  match p with
  | some q => s.logPart q e
  | none => s.logModule e

/-- A register-access entry of the module error log (R382): BAR0 offset, function, kind, data. -/
def State.logAccess (s : State) (off : Nat) (fn : FnId) (kind : Nat) (data : Word) : State :=
  s.logModule { type := 0x10, d1 := off % 2 ^ 23 + fn.val * 2 ^ 24 + kind * 2 ^ 32, d2 := data.toNat }

/-- Write an entry to the error log of a channel (R213): type, detail, location, source, tag. -/
def State.logChan (s : State) (n : ChanId) (type detail loc src tag : Nat) : State :=
  let o := oELOG_PTR n
  let wr := s.fld o 14 8
  if (wr + 128 - s.fld o 6 0) % 128 = 64 then s.satFld o 31 16 1
  else
    let w : BitVec 128 := BitVec.ofNat 128 (s.stamp + type % 256 * 2 ^ 48 + detail % 256 * 2 ^ 56 +
      loc % 2 ^ 32 * 2 ^ 64 + src % 65536 * 2 ^ 96 + tag % 65536 * 2 ^ 112)
    { s.setFld o 14 8 ((wr + 1) % 128) with
      channelLog := tabSet (fun _ => 0) (64 * n.val + wr % 64) w s.channelLog }

/-- Write a trace record (R370): kind, unit, core, context, tag, opcode, reason, value. It is written only while the
partition is traced; a full buffer in stop mode counts it in LOST. -/
def State.traceRec (s : State) (p : Option PartId) (kind unit core ctx tag opc reason val : Nat) : State :=
  match p with
  | none => s
  | some q =>
    if !s.traceBit q.val then s
    else
      let wr := s.fld oTR_PTR 14 0
      if !s.traceBit 32 && (wr + 32768 - s.fld oTR_PTR 30 16) % 32768 == 16384 then s.satFld oTR_LOST 31 0 1
      else
        let w : BitVec 256 := BitVec.ofNat 256 (s.stamp + kind % 256 * 2 ^ 48 + unit % 256 * 2 ^ 56 +
          core % 256 * 2 ^ 64 + ctx % 256 * 2 ^ 72 + tag % 65536 * 2 ^ 80 + opc % 256 * 2 ^ 96 +
          reason % 256 * 2 ^ 104 + val % 2 ^ 64 * 2 ^ 128)
        { s.setFld oTR_PTR 14 0 ((wr + 1) % 32768) with
          trace := tabSet (fun _ => 0) (wr % 16384) w s.trace }

/-- Advance a telemetry counter of the module and of a partition by `n` (R383). -/
def State.countN (s : State) (p : Option PartId) (k n : Nat) : State :=
  let t := s.incFld (oTMM k) 63 0 n
  match p with
  | some q => t.incFld (oTMP q k) 63 0 n
  | none => t
def State.count (s : State) (p : Option PartId) (k : Nat) : State := s.countN p k 1

/-! ### The host link (R258, R265) -/

/-- Host-bound traffic is held while the link is down (R265). -/
def State.held (s : State) : Bool := s.bit 0x108 8

/-- Something for the host: sent, or held; a message for a vector that is still pending absorbs a further one (R290). PRESUMED
(log entry 98): a write to host memory is a posted one, acknowledged as it goes out. -/
def State.toHost (s : State) (o : Out) : State :=
  if !s.held then s.send o
  else match o with
    | .msix f v => if s.heldOut.contains (.msix f v) then s else { s with heldOut := s.heldOut ++ [o] }
    | _ => { s with heldOut := s.heldOut ++ [o] }

/-- Reads that may still go out: at most 4,096 are outstanding (R254). -/
def State.readRoom (s : State) : Nat := 4096 - (s.hostReads.filter HostRead.issued).length

/-- A function reads host memory for a purpose, as part of a poll (R264, R282, R289). -/
def State.hostReadIn (s : State) (poll : Nat) (fn : FnId) (addr len : Nat) (p : HostPurpose) : Nat × State :=
  let id := s.nextId
  let now := decide (0 < s.readRoom)
  let t : State := { s with
    nextId := id + 1
    hostReads := s.hostReads ++ [{ id := id, addr := addr, len := len, purpose := p, fn := fn, poll := poll, issued := now }] }
  (id, if now then t.toHost (.hostRead fn id addr len) else t)

/-- A function reads host memory for a purpose. -/
def State.hostRead (s : State) (fn : FnId) (addr len : Nat) (p : HostPurpose) : Nat × State := s.hostReadIn 0 fn addr len p

/-- A read that waited for a tag goes out. -/
def State.issueRead (s : State) (r : HostRead) : State :=
  ({ s with hostReads := s.hostReads.map (fun x => if x.id = r.id then { x with issued := true } else x) } : State).toHost
    (.hostRead r.fn r.id r.addr r.len)

/-- Reads that waited go out, in order, as others have ended. -/
def State.issueReads (s : State) : State :=
  ((s.hostReads.filter (fun r => !r.issued)).take s.readRoom).foldl State.issueRead s

/-- Issue the flushing read of a function, if lines wait and none is outstanding (R258): a zero-length read of the line
that holds the first record; none while host-bound traffic is held (R265). -/
def State.pumpFlush (s : State) (fn : FnId) : State :=
  if s.held || s.hostReads.any (fun r => decide (r.purpose = .flushing fn)) then s
  else match s.hostLines.find? (fun l => decide (l.fn = fn)) with
    | none => s
    | some l =>
      let t := (s.hostRead fn (l.addr / 64 * 64) 0 (.flushing fn)).2
      { t with hostLines := t.hostLines.map (fun x => if x.fn = fn then { x with covered := true } else x) }

/-! ### Events of partitions (R291) -/

/-- A partition's event line is ready to be written, with its vector; it may be the completion of an abort (R307). -/
def State.eventLine (s : State) (p : PartId) (cause ctx ring : Nat) (closes : Bool) : State :=
  let n := (s.part p).events + 1
  let addr := 64 * s.cfg (oPT_EVENT p) 63 6
  let bytes := natLe 4 n.toNat ++ natLe 2 cause ++ natLe 1 ctx ++ natLe 1 0 ++ natLe 6 s.stamp ++ natLe 2 ring ++
    natLe 48 0
  let t := s.modPart p (fun q => { q with events := n })
  ({ t with hostLines := t.hostLines ++
      [{ fn := partFn p, addr := addr, bytes := bytes, vector := some (s.cfg (oPT_EVEC p) 10 0), desc := none,
         closes := closes }] } : State).pumpFlush (partFn p)

/-- Raise a partition's error event. -/
def State.raise (s : State) (p : PartId) (cause ctx ring : Nat) : State := s.eventLine p cause ctx ring false

/-- The context a partition runs, as a number (0 where none runs). -/
def State.ctxOf (s : State) (p : PartId) : Nat := match (s.part p).running with | some c => c.toNat | none => 0

/-! ### Launches and skips (R33, R54, R290, R381) -/

/-- The running launch a core belongs to. -/
def State.launchOf (s : State) (c : CoreId) : Option Launch :=
  match (s.core c).launch with
  | none => none
  | some r => s.launches.find? (fun l => decide (l.ring = r.ring) && decide (l.seq = r.seq))

/-- Change the launch of a core. -/
def State.modLaunch (s : State) (c : CoreId) (f : Launch → Launch) : State :=
  match (s.core c).launch with
  | none => s
  | some r =>
    { s with launches := s.launches.map (fun l => if l.ring = r.ring ∧ l.seq = r.seq then f l else l) }

/-- The LAUNCH tag of a core (R34). -/
def State.launchTag (s : State) (c : CoreId) : Nat := match (s.core c).launch with | some r => r.tag.toNat | none => 0

/-- The partition a core works for. -/
def State.partOf (s : State) (c : CoreId) : Option PartId :=
  match s.launchOf c with
  | some l => some l.part
  | none => s.partOfCore c

/-- Log a skip of a kingpost instruction (R63, R381): unit 0, the LAUNCH tag and the PVI program counter; the LAUNCH
completion will carry SKIPPED. -/
def State.kpSkip (s : State) (c : CoreId) (reason : Nat) (status : Nat := 0) : State :=
  let k := s.core c
  let t := s.logAny (s.partOf c)
    { type := 0x01, reason := reason, core := c.val, unit := 0, ctx := k.ctx.toNat,
      tag := s.launchTag c, status := status, d1 := k.pc.toNat }
  t.modLaunch c (fun l => { l with skipped := true })

/-- Log the skip or early end of a command (R33, R73, R381): tag, unit, lines completed or faulting address. -/
def State.cmdSkip (s : State) (c : CoreId) (u : EngineUnit) (tag reason status d2 : Nat) : State :=
  let t := s.logAny (s.partOf c)
    { type := 0x01, reason := reason, core := c.val, unit := unitCode u,
      ctx := (s.core c).ctx.toNat, tag := tag, status := status, d2 := d2 }
  (t.modLaunch c (fun l => { l with skipped := true })).count (s.partOf c) 3

/-! ### Descriptors (R278, R290) -/

/-- Change one fetched descriptor. -/
def State.modDesc (s : State) (r : RingId) (seq : BitVec 32) (f : Desc → Desc) : State :=
  match s.partOfRing r with
  | none => s
  | some p => s.modPart p (fun q =>
      { q with descs := q.descs.map (fun d => if d.ring = r ∧ d.seq = seq then f d else d) })

/-- A fetched descriptor. -/
def State.desc (s : State) (r : RingId) (seq : BitVec 32) : Option Desc :=
  match s.partOfRing r with
  | none => none
  | some p => (s.part p).descs.find? (fun d => decide (d.ring = r) && decide (d.seq = seq))

/-- The operation of a descriptor ends with a status; the first failing status stands. -/
def State.endDesc (s : State) (r : RingId) (seq : BitVec 32) (status : Nat) : State :=
  s.modDesc r seq (fun d =>
    if d.stage = .ended ∨ d.stage = .completed then d
    else { d with stage := .ended, status := if d.status = 0 then BitVec.ofNat 16 status else d.status })

/-- Set flag bits of a descriptor's coming completion record (R290). -/
def State.flagDesc (s : State) (r : RingId) (seq : BitVec 32) (bits : BitVec 16) : State :=
  s.modDesc r seq (fun d => { d with flags := d.flags ||| bits })

/-! ### Source IDs (R203) -/

def srcCart (c : CoreId) (u : Fin 2) : BitVec 16 := BitVec.ofNat 16 (2 * c.val + u.val)
def srcFetch (c : CoreId) : BitVec 16 := BitVec.ofNat 16 (0x1000 + c.val)
def srcHostCart (h : Fin 16) : BitVec 16 := BitVec.ofNat 16 (0x2000 + h.val)
def srcBar2 (fn : FnId) : BitVec 16 := BitVec.ofNat 16 (0x3000 + fn.val)
def srcPeer (a : BitVec 12) : BitVec 16 := BitVec.ofNat 16 (0x4000 + a.toNat)
def srcScrub (n : ChanId) : BitVec 16 := BitVec.ofNat 16 (0x5000 + n.val)
def srcManagement : BitVec 16 := 0x6000

/-- Queue a memory request at its source, on its way to a controller (R202). -/
def State.issue (s : State) (src tag : BitVec 16) (part : Option PartId) (addr : Nat) (kind : MemKind) (len : Nat)
    (data : List Byte) : Nat × State :=
  let id := s.nextId
  (id,
    { s with
      nextId := id + 1
      inFlight := s.inFlight ++
        [{ id := id, src := src, tag := tag, part := part, addr := addr, kind := kind, len := len, data := data }] })

/-! ### Physical addresses (R15, R199) -/

/-- The stack of a physical address. -/
def stackOf (a : Nat) : Nat := a / 2 ^ 36 % 8
def offsetIn (a : Nat) : Nat := a % 2 ^ 36

/-- The address reaches no memory (R15). -/
def addrHole (a : Nat) : Bool :=
  decide (2 ^ 39 ≤ a) || (stackOf a % 2 == 1 && decide (48 * 2 ^ 30 ≤ offsetIn a))

/-- The channel a physical address falls on: R199. -/
def chanOf (a : Nat) : ChanId := ⟨32 * stackOf a + a / 2048 % 32, by unfold stackOf; omega⟩

/-- The channel that logs an ADDR_HOLE (R15). -/
def holeChan (a : Nat) : ChanId :=
  if 2 ^ 39 ≤ a then ⟨0, by decide⟩ else ⟨32 * stackOf a, by unfold stackOf; omega⟩

/-- Bank pair, bank within the pair, row and column of an offset (R199). -/
def pairOf (a : Nat) : Nat := a / 2 ^ 16 % 16
def bankOf (a : Nat) : Nat := 2 * pairOf a + a / 2 ^ 20 % 2
def rowOf (a : Nat) : Nat := offsetIn a / 2 ^ 21
def colOf (a : Nat) : Nat := a / 64 % 32

/-- Location field of a channel log entry for a line event (R213). -/
def lineLoc (a : Nat) : Nat := colOf a + rowOf a * 2 ^ 5 + bankOf a * 2 ^ 20

/-- The physical address of pair line `l` of bank pair `p` of a granary channel (R156, R199). -/
def pairLineAddr (g : GranChan) (p l : Nat) : Nat :=
  (2 * (g.val / 32) + 1) * 2 ^ 36 + (l / 64) * 2 ^ 21 + (l / 32 % 2) * 2 ^ 20 + p * 2 ^ 16 + (g.val % 32) * 2 ^ 11 +
    (l % 32) * 64

/-- Registers before READY are not served (R364): the loader's state. -/
def State.bootState (s : State) : Nat := s.fld oBOOT_STAT 3 0
def State.ready (s : State) : Bool := s.bootState == 4

/-- The fabric is enabled: the module is not in HOLD (R336). -/
def State.fabricOn (s : State) : Bool := s.bit oFB_CTL 0 && !s.failed

/-- The module's fabric address (R341). -/
def State.fab (s : State) : Nat := s.fld oFB_ADDR 11 0

/-- State of twin protection (R310). -/
def State.twState (s : State) : Nat := s.fld oTW_STAT 2 0

end Sys2Proof.Machine
end

