-- ==== Sys2Proof/Machine/Operands.lean ====
section
/-! DEFINITION. Operands of PVI instructions: immediates, counts, operand words and their fields (R48 to R50, R60,
R61). -/

namespace Sys2Proof.Machine

/-! ### Scalar operands -/

/-- simm of R51: the immediate sign-extended to 64 bits. -/
def simm (imm : BitVec 32) : Word := imm.signExtend 64

/-- A scalar register. -/
def Core.sreg (k : Core) (r : SReg) : Word := tabGet (fun _ => 0) r.val k.s

/-- A scalar register written. -/
def Core.setS (k : Core) (r : SReg) (v : Word) : Core := { k with s := tabSet (fun _ => 0) r.val v k.s }

/-- A loop counter. -/
def Core.lcreg (k : Core) (n : LcReg) : BitVec 32 := tabGet (fun _ => 0) n.val k.lc

/-- A loop counter written. -/
def Core.setLc (k : Core) (n : LcReg) (v : BitVec 32) : Core := { k with lc := tabSet (fun _ => 0) n.val v k.lc }

/-- A comparator bit. -/
def Core.cmpBit (k : Core) (n : CmpReg) : Bool := k.cmp.getLsbD n.val

/-- A comparator bit written. -/
def Core.setCmp (k : Core) (n : CmpReg) (b : Bool) : Core :=
  { k with cmp := if b then k.cmp ||| (1#4 <<< n.val) else k.cmp &&& ~~~(1#4 <<< n.val) }

/-- The count of a synchronisation instruction: IMM[31:16], or the low 16 bits of RA where RCNT is 1 (R48). -/
def Core.count (k : Core) (rcnt : Bool) (ra : SReg) (cnt : BitVec 16) : BitVec 16 :=
  if rcnt then (k.sreg ra).setWidth 16 else cnt

/-! ### Operand words (R50) -/

/-- The value an operand word supplies: its own bits, or the named register's where bit 63 is set. Bit 63 of either is
dropped: the fields lie in bits [62:0]. -/
def Core.operand (k : Core) (w : Word) : Word :=
  if w.getLsbD 63 then k.sreg ⟨w.toNat % 16, Nat.mod_lt _ (by decide)⟩ &&& 0x7FFFFFFFFFFFFFFF#64 else w

/-- The operand words of a command, captured at its push (R30). -/
def Core.capture (k : Core) (w : List Word) : List Word := w.map k.operand

/-- Operand word n, counted from 1. -/
def Cmd.word (c : Cmd) (n : Nat) : Word := c.w[n - 1]?.getD 0

/-- A field of an operand word. -/
def Cmd.f (c : Cmd) (n hi lo : Nat) : Nat := getBits (c.word n) hi lo

/-! ### Fields of operand words (R60, R61) -/

/-- How many low bits of each operand word of a command carry fields; the bits above are reserved, and a width of 0 marks a
reserved operand position. -/
def fieldWidths (opc : Nat) : List Nat :=
  if opc = 0x80 then [44, 45, 45, 60, 44, 31, 44]
  else if opc = 0x81 then [63, 22, 0]
  else if opc = 0x82 then [60, 49, 22]
  else if opc < 0xC0 then [44, 44, 44]
  else if opc = 0xC0 then [52, 23, 32]
  else if opc < 0xD0 then [52, 44, 44, 32, 23, 63, 0]
  else [34, 48, 30, 23, 32, 0, 0]

/-- The values that register-form words supply with a nonzero reserved field. -/
def Core.reservedValues (k : Core) (opc : Nat) (w : List Word) : List Word :=
  ((w.zip (fieldWidths opc)).filter (fun x => x.1.getLsbD 63 && (k.operand x.1).toNat >>> x.2 != 0)).map
    (fun x => k.operand x.1)

end Sys2Proof.Machine
end

