-- ==== Sys2Proof/Machine/Flags.lean ====
section
/-! DEFINITION. The flag word of R52 and the sticky flags of the engines (R52, R117). -/

namespace Sys2Proof.Machine

/-- The bits of the flag word: invalid, divide-by-zero, overflow, underflow, inexact, SAT. -/
def fInvalid : BitVec 6 := 1
def fDivZero : BitVec 6 := 2
def fOverflow : BitVec 6 := 4
def fUnderflow : BitVec 6 := 8
def fInexact : BitVec 6 := 16
def fSat : BitVec 6 := 32

/-- The sticky flag word of engine n: 0 beam, 1 plane 0, 2 plane 1, 3 grind results (R52). -/
def Core.flagWord (k : Core) (n : Nat) : BitVec 6 := tabGet (fun _ => 0) n k.flags

/-- A sticky flag word written. -/
def Core.setFlagWord (k : Core) (n : Nat) (f : BitVec 6) : Core := { k with flags := tabSet (fun _ => 0) n f k.flags }

/-- The flags of a finished command join the sticky word of its engine. -/
def Core.orFlags (k : Core) (n : Nat) (f : BitVec 6) : Core := k.setFlagWord n (k.flagWord n ||| f)

/-- The flag engine of a unit; carts have none (R52, R57). -/
def flagEngine : EngineUnit → Option Nat
  | .beam => some 0 | .plane0 => some 1 | .plane1 => some 2 | .grind => some 3
  | .cart0 => none | .cart1 => none

end Sys2Proof.Machine
end

