-- ==== Sys2Proof/Machine/Numerics.lean ====
section
/-! DEFINITION. Number formats and arithmetic: encodings, exact values, rounding, conversions, block scales, exact sums,
special functions, random bits (R99 to R123, R130). -/

namespace Sys2Proof.Machine

/-! ### Formats (R99, R101) -/

/-- A floating-point format: exponent and significand bits, bias, the magnitude encoding of the largest finite value,
whether it has infinities and NaNs, the canonical NaN. -/
structure Fmt where
  ebits : Nat
  mbits : Nat
  bias : Nat
  maxEnc : Nat
  hasInf : Bool
  hasNan : Bool
  qnan : Nat
  deriving DecidableEq, Repr

def fFP32 : Fmt := ⟨8, 23, 127, 0x7F7FFFFF, true, true, 0x7FC00000⟩
def fBF16 : Fmt := ⟨8, 7, 127, 0x7F7F, true, true, 0x7FC0⟩
def fFP16 : Fmt := ⟨5, 10, 15, 0x7BFF, true, true, 0x7E00⟩
def fE4M3 : Fmt := ⟨4, 3, 7, 0x7E, false, true, 0x7F⟩
def fE5M2 : Fmt := ⟨5, 2, 15, 0x7B, true, true, 0x7E⟩
def fE3M2 : Fmt := ⟨3, 2, 3, 0x1F, false, false, 0⟩
def fE2M3 : Fmt := ⟨2, 3, 1, 0x1F, false, false, 0⟩
def fE2M1 : Fmt := ⟨2, 1, 1, 0x7, false, false, 0⟩

/-- The floating-point format of a code of R59; the split format has the encodings of FP32. -/
def fmtOf (code : Nat) : Fmt :=
  match code with
  | 0x1 => fBF16 | 0x2 => fFP16 | 0x3 => fE4M3 | 0x4 => fE5M2
  | 0x5 => fE3M2 | 0x6 => fE2M3 | 0x7 => fE2M1 | _ => fFP32

/-- Bits of an element of a format code. -/
def elemBits (code : Nat) : Nat :=
  match code with
  | 0x1 => 16 | 0x2 => 16 | 0x3 => 8 | 0x4 => 8 | 0x5 => 6 | 0x6 => 6 | 0x7 => 4 | 0x8 => 8 | 0x9 => 4 | _ => 32

/-- The integer formats and the block-scaled formats. -/
def isInt (code : Nat) : Bool := code == 8 || code == 9
def isMx (code : Nat) : Bool := code == 5 || code == 6 || code == 7

def Fmt.signBit (f : Fmt) : Nat := f.ebits + f.mbits
def Fmt.emin (f : Fmt) : Int := 1 - f.bias

/-! ### Exact values (R100, R101) -/

/-- A value: NaN, an infinity, or (−1)^neg × m × 2^e. -/
inductive FV where
  | nan
  | inf (neg : Bool)
  | fin (neg : Bool) (m : Nat) (e : Int)
  deriving DecidableEq, Repr

def FV.zero (neg : Bool) : FV := .fin neg 0 0
def FV.isNan : FV → Bool | .nan => true | _ => false
def FV.isInf : FV → Bool | .inf _ => true | _ => false
def FV.isZero : FV → Bool | .fin _ 0 _ => true | _ => false
def FV.neg : FV → Bool | .nan => false | .inf n => n | .fin n _ _ => n

/-- value() of R103 for a floating-point encoding. -/
def Fmt.value (f : Fmt) (bits : Nat) : FV :=
  let mag := bits % 2 ^ f.signBit
  let neg := bitOf bits f.signBit
  if f.maxEnc < mag then (if f.hasInf && mag == f.maxEnc + 1 then .inf neg else .nan)
  else
    let e := mag / 2 ^ f.mbits
    let m := mag % 2 ^ f.mbits
    if e = 0 then .fin neg m (f.emin - f.mbits) else .fin neg (2 ^ f.mbits + m) ((e : Int) - f.bias - f.mbits)

/-- value() for any format code; integers are two's complement of their width. -/
def valueOf (code bits : Nat) : FV :=
  if isInt code then
    let w := elemBits code
    let b := bits % 2 ^ w
    if 2 ^ (w - 1) ≤ b then .fin true (2 ^ w - b) 0 else .fin false b 0
  else (fmtOf code).value bits

/-- An E8M0 block scale. -/
def scaleValue (b : Nat) : FV := if b = 255 then .nan else .fin false 1 ((b : Int) - 127)

/-! ### Rounding (R103, R104) -/

/-- The rounding mode, with the random bits of stochastic rounding. -/
inductive Rnd where
  | rne
  | sr (r : Nat)
  deriving DecidableEq, Repr

/-- 2^k for k ≥ 0, else 1; and 2^(-k) for k < 0, else 1. -/
def pow2 (k : Int) : Nat := 2 ^ k.toNat
def pow2n (k : Int) : Nat := 2 ^ (-k).toNat

/-- floor(log2(num / den)) for positive num, den. -/
def floorLog2 (num den : Nat) : Int :=
  let t : Int := (Nat.log2 num : Int) - Nat.log2 den
  if num * pow2n t < den * pow2 t then t - 1 else t

/-- The quotient and remainder of num / den by 2^q: quotient, remainder, divisor. -/
def quot (num den : Nat) (q : Int) : Nat × Nat × Nat :=
  let n := num * pow2n q
  let d := den * pow2 q
  (n / d, n % d, d)

/-- The step up of a quotient in a rounding mode. -/
def stepUp (rnd : Rnd) (n rem d : Nat) : Bool :=
  match rnd with
  | .rne => decide (d < 2 * rem) || (decide (2 * rem = d) && n % 2 == 1)
  | .sr r => decide (r < rem * 65536 / d)

/-- A positive rational on the grid of a format: the magnitude encoding rounded (it may exceed the largest finite one),
the encoding rounded down, whether it is inexact, whether it is tiny. -/
structure OnGrid where
  enc : Nat
  low : Nat
  inexact : Bool
  tiny : Bool

def Fmt.grid (f : Fmt) (rnd : Rnd) (num den : Nat) : OnGrid :=
  let l := floorLog2 num den
  let b := max l f.emin
  let (n, rem, d) := quot num den (b - f.mbits)
  let base := (b - f.emin).toNat * 2 ^ f.mbits
  let (n2, rem2, d2) := quot num den (l - f.mbits)
  let m2 := n2 + boolNat (stepUp .rne n2 rem2 d2)
  { enc := base + n + boolNat (stepUp rnd n rem d)
    low := base + n
    inexact := decide (rem ≠ 0)
    tiny := decide (l + 1 < f.emin) || (decide (l + 1 = f.emin) && decide (m2 < 2 ^ (f.mbits + 1))) }

/-- A magnitude encoding with its sign. -/
def Fmt.signed (f : Fmt) (neg : Bool) (mag : Nat) : Nat := mag + boolNat neg * 2 ^ f.signBit

/-- overflow() of R104. -/
def Fmt.overflowTo (f : Fmt) (neg nanMode : Bool) : Nat × BitVec 6 :=
  if f.hasInf then (f.signed neg (f.maxEnc + 1), fOverflow ||| fInexact)
  else if nanMode && f.hasNan then (f.qnan, fOverflow ||| fInexact)
  else (f.signed neg f.maxEnc, fSat ||| fInexact)

/-- Flush to zero of a result: a nonzero subnormal is written as zero (R118). -/
def Fmt.flush (f : Fmt) (ftz neg : Bool) (mag : Nat) (fl : BitVec 6) : Nat × BitVec 6 :=
  if ftz && decide (mag ≠ 0) && decide (mag < 2 ^ f.mbits) then (f.signed neg 0, fl ||| fUnderflow ||| fInexact)
  else (f.signed neg mag, fl)

/-- round_to() of R103 on a positive rational with a sign. -/
def Fmt.roundRat (f : Fmt) (rnd : Rnd) (nanMode ftz neg : Bool) (num den : Nat) : Nat × BitVec 6 :=
  let g := f.grid rnd num den
  let fl : BitVec 6 := if g.inexact then (if g.tiny then fInexact ||| fUnderflow else fInexact) else 0
  if f.maxEnc < g.enc then
    let o := f.overflowTo neg nanMode
    (o.1, fl ||| o.2)
  else f.flush ftz neg g.enc fl

/-- A value rounded into a floating-point format: zeros, infinities and NaNs as R102 and R107 state. -/
def Fmt.round (f : Fmt) (rnd : Rnd) (nanMode ftz : Bool) : FV → Nat × BitVec 6
  | .nan => if f.hasNan then (f.qnan, 0) else (0, fInvalid)
  | .inf neg =>
    if f.hasInf then (f.signed neg (f.maxEnc + 1), 0)
    else if nanMode && f.hasNan then (f.qnan, fInvalid)
    else (f.signed neg f.maxEnc, fSat)
  | .fin neg 0 _ => (f.signed neg 0, 0)
  | .fin neg m e => f.roundRat rnd nanMode ftz neg (m * pow2 e) (pow2n e)

/-- A value rounded into an integer of w bits (R108). -/
def roundInt (w : Nat) (rnd : Rnd) : FV → Nat × BitVec 6
  | .nan => (0, fInvalid)
  | .inf neg => (if neg then 2 ^ (w - 1) else 2 ^ (w - 1) - 1, fSat)
  | .fin neg m e =>
    let (n, rem, d) := quot (m * pow2 e) (pow2n e) 0
    let v := n + boolNat (stepUp rnd n rem d)
    let top := if neg then 2 ^ (w - 1) else 2 ^ (w - 1) - 1
    if top < v then (top, fSat ||| fInexact)
    else ((if neg then (2 ^ w - v) % 2 ^ w else v), if rem = 0 then 0 else fInexact)

/-- A value rounded into the format of a code that has no block scale. -/
def roundCode (code : Nat) (rnd : Rnd) (nanMode ftz : Bool) (v : FV) : Nat × BitVec 6 :=
  if isInt code then roundInt (elemBits code) rnd v else (fmtOf code).round rnd nanMode ftz v

/-- round_rne() into FP32. -/
def rne32 (v : FV) : Nat × BitVec 6 := fFP32.round .rne false false v

/-- A subnormal operand reads as zero under flush to zero (R118); formats FP32 to E5M2 only. -/
def flushOperand (ftz : Bool) (code bits : Nat) (v : FV) : FV :=
  let f := fmtOf code
  if ftz && decide (code ≤ 4) && decide (bits % 2 ^ f.signBit < 2 ^ f.mbits) then .zero v.neg else v

/-! ### Exact operations (R102, R111, R113, R115, R116) -/

/-- A signed dyadic as a value; an exact zero is +0. -/
def ofDyadic (v e : Int) : FV := .fin (decide (v < 0)) v.natAbs e

/-- The signed significand of a finite value at exponent e, which is not above its own. -/
def scaled (neg : Bool) (m : Nat) (e0 e : Int) : Int :=
  let v : Int := m * pow2 (e0 - e)
  if neg then -v else v

/-- The exact sum. -/
def FV.add : FV → FV → FV × BitVec 6
  | .nan, _ => (.nan, 0)
  | _, .nan => (.nan, 0)
  | .inf a, .inf b => if a = b then (.inf a, 0) else (.nan, fInvalid)
  | .inf a, .fin _ _ _ => (.inf a, 0)
  | .fin _ _ _, .inf b => (.inf b, 0)
  | .fin na ma ea, .fin nb mb eb =>
    if ma = 0 ∧ mb = 0 then (.zero (na && nb), 0)
    else
      let e := min ea eb
      (ofDyadic (scaled na ma ea e + scaled nb mb eb e) e, 0)

/-- The opposite value. -/
def FV.opp : FV → FV
  | .nan => .nan
  | .inf n => .inf !n
  | .fin n m e => .fin (!n) m e

/-- The exact product. -/
def FV.mul : FV → FV → FV × BitVec 6
  | .nan, _ => (.nan, 0)
  | _, .nan => (.nan, 0)
  | .inf a, .inf b => (.inf (a != b), 0)
  | .inf a, .fin b m _ => if m = 0 then (.nan, fInvalid) else (.inf (a != b), 0)
  | .fin a m _, .inf b => if m = 0 then (.nan, fInvalid) else (.inf (a != b), 0)
  | .fin a m e, .fin b n g => (.fin (a != b) (m * n) (e + g), 0)

/-- a × b + c, exact. A NaN operand alone raises no flag. -/
def FV.fma (a b c : FV) : FV × BitVec 6 :=
  if a.isNan || b.isNan || c.isNan then (.nan, 0)
  else
    let p := a.mul b
    let r := p.1.add c
    (r.1, p.2 ||| r.2)

/-- The sign of a finite value, zeros of either sign included, as an integer comparable with others. -/
def FV.lt : FV → FV → Bool
  | .inf a, .inf b => a && !b
  | .inf a, .fin _ _ _ => a
  | .fin _ _ _, .inf b => !b
  | .fin na ma ea, .fin nb mb eb =>
    if ma = 0 ∧ mb = 0 then na && !nb
    else
      let e := min ea eb
      decide (scaled na ma ea e < scaled nb mb eb e)
  | _, _ => false

/-- max and min of R115: NaN if either operand is; −0 ranks below +0. -/
def FV.max2 (a b : FV) : FV := if a.isNan || b.isNan then .nan else if a.lt b then b else a
def FV.min2 (a b : FV) : FV := if a.isNan || b.isNan then .nan else if b.lt a then b else a

/-- The sum of the products of a segment (R113): each product with the flag its 0 × ∞ raised. -/
def segSum (ps : List (FV × BitVec 6)) : FV × BitVec 6 :=
  let vs := ps.map Prod.fst
  if vs.any FV.isNan then (.nan, ps.foldl (fun f p => f ||| p.2) 0)
  else
    let pos := vs.any (fun v => v.isInf && !v.neg)
    let neg := vs.any (fun v => v.isInf && v.neg)
    if pos && neg then (.nan, fInvalid)
    else if pos then (.inf false, 0)
    else if neg then (.inf true, 0)
    else
      let r := vs.foldl (fun s v => (s.add v).1) (.zero false)
      (if r.isZero then .zero (!vs.isEmpty && vs.all (fun v => v.isZero && v.neg)) else r, 0)

/-- x toward zero to 8 significant bits, and what is left (R112). -/
def truncSig (m : Nat) : Nat := if m < 256 then m else m / 2 ^ (Nat.log2 m - 7) * 2 ^ (Nat.log2 m - 7)

/-- split3() of R112 on a finite value. -/
def split3 (neg : Bool) (m : Nat) (e : Int) : FV × FV × FV :=
  let t1 := truncSig m
  let t2 := truncSig (m - t1)
  let t3 := m - t1 - t2
  (.fin neg t1 e, .fin (neg && decide (t2 ≠ 0)) t2 e, .fin (neg && decide (t3 ≠ 0)) t3 e)

/-- The products that two split operands contribute (R112). -/
def prodSplit (a w : FV) : List (FV × BitVec 6) :=
  match a, w with
  | .fin na ma ea, .fin nw mw ew =>
    let (a1, a2, _) := split3 na ma ea
    let (w1, w2, _) := split3 nw mw ew
    [a1.mul w1, a1.mul w2, a2.mul w1]
  | a, w => [a.mul w]

/-- prod() of R111: the exact product with both block scales. -/
def prodScaled (a sa w sw : FV) : FV × BitVec 6 :=
  if sa.isNan || sw.isNan then (.nan, 0)
  else
    let p := a.mul w
    let q := (p.1.mul sa).1.mul sw
    (q.1, p.2)

/-! ### Random bits (R105, R106) -/

def mix32 (x : Nat) : Nat :=
  let x := x % 2 ^ 32
  let x := ((x ^^^ (x >>> 16)) * 0x7FEB352D) % 2 ^ 32
  let x := ((x ^^^ (x >>> 15)) * 0x846CA68B) % 2 ^ 32
  x ^^^ (x >>> 16)

def rand16 (seed idx : Nat) : Nat := mix32 (seed ^^^ mix32 idx) >>> 16

/-- The seed of a beam pass, and of an element of a plane's destination stream with its index. -/
def beamSeed (tag b n s : Nat) : Nat := mix32 (tag * 65536 + b) ^^^ mix32 (n * 65536 + s)
def planeRand (tag t : Nat) : Nat :=
  rand16 (mix32 (tag * 65536 + t / 1024 % 65536) ^^^ mix32 (t / 67108864)) (t % 1024)

/-! ### Block-scaled data (R110) -/

/-- ceil(log2(num / den)) for positive num, den. -/
def ceilLog2 (num den : Nat) : Int :=
  let l := floorLog2 num den
  if num * pow2n l = den * pow2 l then l else l + 1

/-- A value times 2^-x. -/
def FV.scaleDown (x : Int) : FV → FV
  | .fin n m e => .fin n m (e - x)
  | v => v

/-- The magnitude of a finite value as a numerator over 2^k with k = 400, enough for every FP32 value. -/
def FV.mag400 : FV → Nat
  | .fin _ m e => m * pow2 (e + 400)
  | _ => 0

/-- to_mx() of R110: scale byte, element encodings, flags. The random bits are those of each element. -/
def toMx (code : Nat) (nanMode : Bool) (rnds : List Rnd) (block : List FV) : Nat × List Nat × BitVec 6 :=
  let f := fmtOf code
  if block.any FV.isNan || (nanMode && block.any FV.isInf) then (0xFF, block.map (fun _ => 0), fInvalid)
  else
    let sat : BitVec 6 := if block.any FV.isInf then fSat else 0
    let vs := block.map (fun v => if v.isInf then fFP32.value (fFP32.signed v.neg fFP32.maxEnc) else v)
    let amax := vs.foldl (fun a v => max a v.mag400) 0
    let fmax := (f.value f.maxEnc).mag400
    let x : Int := if amax = 0 then -127 else min 127 (max (-127) (ceilLog2 amax fmax))
    let rs := (vs.zip rnds).map (fun p =>
      if p.1.isZero then (0, (0 : BitVec 6)) else f.round p.2 false false (p.1.scaleDown x))
    let encs := (vs.zip rs).map (fun p => if p.1.isZero then f.signed p.1.neg 0 else p.2.1)
    ((x + 127).toNat, encs, rs.foldl (fun a r => a ||| r.2) sat)

/-! ### Special functions (R116, R121, R130) -/

inductive SpecialFn where
  | recip | rsqrt | exp | log | tanh | sigmoid
  deriving DecidableEq, Repr

def SpecialFn.num : SpecialFn → Nat
  | .recip => 0 | .rsqrt => 1 | .exp => 2 | .log => 3 | .tanh => 4 | .sigmoid => 5

/-- Fixed point with 256 fraction bits. -/
def one256 : Nat := 2 ^ 256

/-- floor(ln 2 × 2^256). -/
def ln2 : Nat := 80260960185991308862233904206310070533990667611589946606122867505419956976171

/-- The Taylor sum of exp from the term t of index i. -/
def expTail (r : Nat) : Nat → Nat → Nat → Nat
  | 0, _, _ => 0
  | n + 1, i, t => t + expTail r n (i + 1) (t * r / one256 / (i + 1))

/-- exp of a fixed-point number: a significand in [2^256, 2^257) and an exponent. -/
def expFix (x : Int) : Nat × Int :=
  let k := x / (ln2 : Int)
  (expTail (x % (ln2 : Int)).toNat 64 0 one256, k)

/-- The series of atanh: the sum of y^(2i+1) / (2i+1), from the power p of index i. -/
def atanhTail (y2 : Int) : Nat → Nat → Int → Int
  | 0, _, _ => 0
  | n + 1, i, p => p / (2 * i + 1 : Nat) + atanhTail y2 n (i + 1) (p * y2 / one256)

/-- log of m × 2^e in fixed point. -/
def logFix (m : Nat) (e : Int) : Int :=
  let l := Nat.log2 m
  let up := decide (3 * 2 ^ l < 2 * m)
  let z : Nat := if up then l + 1 else l
  let y : Int := ((m : Int) - 2 ^ z) * one256 / ((m : Int) + 2 ^ z)
  ((z : Int) + e) * ln2 + 2 * atanhTail (y * y / one256) 64 0 y

/-- Results the specification gives: function, FP32 operand, FP32 result (R121, R130). -/
def specialKnown (fn : SpecialFn) (bits : Nat) : Option Nat :=
  match fn, bits with
  | .rsqrt, 0x00000001 => some 0x64B504F3
  | .rsqrt, 0x7F7FFFFF => some 0x1F800000
  | .exp, 0x00000001 => some 0x3F800000
  | .exp, 0xBF800000 => some 0x3EBC5AB2
  | .log, 0x00000001 => some 0xC2CE8ED0
  | .log, 0x7F7FFFFF => some 0x42B17218
  | _, _ => none

/-- An FP32 value at which the spacing doubles: a power of two above the smallest normal value. -/
def binadeStart (enc : Nat) : Bool := enc % 2 ^ 23 == 0 && decide (2 ^ 23 < enc)

/-- The FP32 values that the bound admits around a value that is not one (R130): its two neighbours, and for a bound of 2 ulp one more
on each side, where the narrower spacing beside a power of two still leaves it within the bound (log entry 13). -/
def SpecialFn.choices (fn : SpecialFn) (g : OnGrid) : List Nat :=
  match fn with
  | .tanh => wide
  | .sigmoid => wide
  | .recip => near
  | .rsqrt => near
  | .exp => near
  | .log => near
where
  near : List Nat := [g.low, g.low + 1]
  wide : List Nat :=
    (if !binadeStart g.low || g.enc == g.low then [g.low - 1] else []) ++ near ++
      (if binadeStart (g.low + 1) then [] else [g.low + 2])

/-- An FP32 result within the bound of a function, for an exact value that is the positive rational num / den and no
FP32 value: the implementation's choice among the values the bound admits (log entry 13). -/
def boundedResult (fn : SpecialFn) (bits : Nat) (neg : Bool) (num den : Nat) : Nat × BitVec 6 :=
  let g := fFP32.grid .rne num den
  let fl : BitVec 6 := if g.tiny then fInexact ||| fUnderflow else fInexact
  match specialKnown fn bits with
  | some b => (b, fl)
  | none =>
    if fFP32.maxEnc < g.enc then (fFP32.signed neg (fFP32.maxEnc + 1), fOverflow ||| fInexact)
    else
      let cs := fn.choices g
      let pick := Config.specialPick fn.num (BitVec.ofNat 32 bits) % cs.length
      (fFP32.signed neg (min fFP32.maxEnc (cs.getD pick g.low)), fl)

/-- An exact result: a positive rational that is an FP32 value. -/
def exactResult (neg : Bool) (num den : Nat) : Nat × BitVec 6 := fFP32.roundRat .rne false false neg num den

/-- exp of a finite nonzero operand. -/
def exp32Fin (bits : Nat) (neg : Bool) (m : Nat) (e : Int) : Nat × BitVec 6 :=
  if 8 ≤ (Nat.log2 m : Int) + e then
    (if neg then boundedResult .exp bits false 1 (2 ^ 400) else (fFP32.maxEnc + 1, fOverflow ||| fInexact))
  else
    let x : Int := m * pow2 (e + 256)
    let (n, k) := expFix (if neg then -x else x)
    boundedResult .exp bits false (n * pow2 (k - 256)) (pow2n (k - 256))

/-- sigmoid of a finite nonzero operand: e^x / (1 + e^x). -/
def sigmoidFin (bits : Nat) (neg : Bool) (m : Nat) (e : Int) : Nat × BitVec 6 :=
  if 8 ≤ (Nat.log2 m : Int) + e then
    (if neg then boundedResult .sigmoid bits false 1 (2 ^ 400)
     else boundedResult .sigmoid bits false (2 ^ 200 - 1) (2 ^ 200))
  else
    let x : Int := m * pow2 (e + 256)
    let (n, k) := expFix (if neg then -x else x)
    let num := n * pow2 (k - 256)
    boundedResult .sigmoid bits false num (num + pow2n (k - 256))

/-- tanh of a finite nonzero operand: below 2^-12 it lies between its operand and the next value toward zero. -/
def tanhFin (bits : Nat) (neg : Bool) (m : Nat) (e : Int) : Nat × BitVec 6 :=
  let l := (Nat.log2 m : Int) + e
  if l < -12 then
    boundedResult .tanh bits neg (m * 2 ^ 40 * pow2 (e + 256) - m * pow2 (e + 256)) (2 ^ 40 * 2 ^ 256)
  else if 6 ≤ l then boundedResult .tanh bits neg (2 ^ 200 - 1) (2 ^ 200)
  else
    let x : Int := 2 * m * pow2 (e + 256)
    let (n, k) := expFix x
    let num := n * pow2 k
    boundedResult .tanh bits neg (num - one256) (num + one256)

/-- A special function into FP32: the FP32 bits and flags (R116, R130). `bits` is the operand as FP32. -/
def special32 (fn : SpecialFn) (bits : Nat) : Nat × BitVec 6 :=
  match fFP32.value bits, fn with
  | .nan, _ => (fFP32.qnan, 0)
  | .inf n, .recip => (fFP32.signed n 0, 0)
  | .inf n, .rsqrt => if n then (fFP32.qnan, fInvalid) else (0, 0)
  | .inf n, .exp => if n then (0, 0) else (fFP32.maxEnc + 1, 0)
  | .inf n, .log => if n then (fFP32.qnan, fInvalid) else (fFP32.maxEnc + 1, 0)
  | .inf n, .tanh => (fFP32.signed n 0x3F800000, 0)
  | .inf n, .sigmoid => (if n then 0 else 0x3F800000, 0)
  | .fin n m e, fn =>
    if m = 0 then
      match fn with
      | .recip => (fFP32.signed n (fFP32.maxEnc + 1), fDivZero)
      | .rsqrt => (fFP32.signed n (fFP32.maxEnc + 1), fDivZero)
      | .exp => (0x3F800000, 0)
      | .log => (fFP32.signed true (fFP32.maxEnc + 1), fDivZero)
      | .tanh => (fFP32.signed n 0, 0)
      | .sigmoid => (0x3F000000, 0)
    else
      match fn with
      | .recip => fFP32.roundRat .rne false false n (pow2n e) (m * pow2 e)
      | .rsqrt =>
        if n then (fFP32.qnan, fInvalid)
        else
          let l := (Nat.log2 m : Int) + e
          if m = 2 ^ Nat.log2 m ∧ l % 2 = 0 then exactResult false (pow2n (l / 2)) (pow2 (l / 2))
          else boundedResult .rsqrt bits false (Nat.sqrt (pow2n e * 2 ^ 800 / (m * pow2 e))) (2 ^ 400)
      | .exp => exp32Fin bits n m e
      | .log =>
        if n then (fFP32.qnan, fInvalid)
        else if bits = 0x3F800000 then (0, 0)
        else
          let v := logFix m e
          boundedResult .log bits (decide (v < 0)) v.natAbs one256
      | .tanh => tanhFin bits n m e
      | .sigmoid => sigmoidFin bits n m e

/-- exp32() of R130 on an FP32 encoding. -/
def exp32 (bits : Nat) : Nat × BitVec 6 := special32 .exp bits

/-- add32() of R129: FP32 addition with round_rne(). -/
def add32 (ftz : Bool) (a b : Nat) : Nat × BitVec 6 :=
  let r := (fFP32.value a).add (fFP32.value b)
  let o := fFP32.round .rne false ftz r.1
  (o.1, r.2 ||| o.2)

end Sys2Proof.Machine
end

