-- ==== Sys2Proof/Machine/Kingpost.lean ====
section
/-! DEFINITION. The kingpost: issue, and the scalar instructions of R51. The command says which instruction issues; the
model does not compare it with the image's code (log entry 11). -/

namespace Sys2Proof.Machine

/-! ### Issue -/

/-- An instruction can issue: a program runs, no stall and no wait holds it, and the kingpost is not stopped, or is
stepped (R31, R36, R40). -/
def Core.canIssue (k : Core) : Bool :=
  decide (k.run = .running) && k.wait.isNone && k.stalled.isNone && k.needLine.isNone &&
    (k.stop.isNone || (decide (k.stop = some .debugHalt) && k.stepping))

/-- A step ends with the instruction it executed (R40). -/
def Core.stepDone (k : Core) (cause : BitVec 3) : Core :=
  if k.stepping then { k with stepping := false, stopCause := cause } else k

/-- The instruction has issued and the next one follows it after `n` bytes. -/
def Core.retire (k : Core) (n : Nat) : Core :=
  let t := { k with pc := k.pc + BitVec.ofNat 48 n }
  t.stepDone 2

/-- A branch to a target `imm` bytes from the branch (R51). -/
def Core.branch (k : Core) (imm : BitVec 32) : Core :=
  let t := { k with pc := k.pc + (simm imm).setWidth 48 }
  t.stepDone 2

/-- An instruction of `n` bytes with effect `f` on its core. -/
def scalarOp (s : State) (c : CoreId) (f : Core → Core) : Res :=
  whenever (s.core c).canIssue s (s.modCore c (fun k => (f k).retire 8))

/-- A conditional branch. -/
def branchOp (s : State) (c : CoreId) (imm : BitVec 32) (f : Core → Core) (taken : Core → Bool) : Res :=
  whenever (s.core c).canIssue s
    (s.modCore c (fun k => if taken k then (f k).branch imm else (f k).retire 8))

/-! ### Moves and arithmetic (R22, R51) -/

def execNop (core : CoreId) (s : State) : Res := scalarOp s core id

/-- The kingpost stops fetching (R54). -/
def execEndProg (core : CoreId) (s : State) : Res := scalarOp s core (fun k => { k with run := .ended })

def execLi (core : CoreId) (rd : SReg) (imm : BitVec 32) (s : State) : Res :=
  scalarOp s core (fun k => k.setS rd (simm imm))

def execLui (core : CoreId) (rd : SReg) (imm : BitVec 32) (s : State) : Res :=
  scalarOp s core (fun k => k.setS rd (imm ++ (k.sreg rd).setWidth 32))

def execMov (core : CoreId) (rd ra : SReg) (s : State) : Res := scalarOp s core (fun k => k.setS rd (k.sreg ra))

def execTime (core : CoreId) (rd : SReg) (s : State) : Res :=
  scalarOp s core (fun k => k.setS rd (BitVec.ofNat 64 s.stamp))

/-- A register-register operation. -/
def binOp (s : State) (c : CoreId) (rd ra rb : SReg) (f : Word → Word → Word) : Res :=
  scalarOp s c (fun k => k.setS rd (f (k.sreg ra) (k.sreg rb)))

/-- A register-immediate operation. -/
def immOp (s : State) (c : CoreId) (rd ra : SReg) (imm : BitVec 32) (f : Word → Word → Word) : Res :=
  scalarOp s c (fun k => k.setS rd (f (k.sreg ra) (simm imm)))

def execAdd (core : CoreId) (rd ra rb : SReg) (s : State) : Res := binOp s core rd ra rb (· + ·)
def execSub (core : CoreId) (rd ra rb : SReg) (s : State) : Res := binOp s core rd ra rb (· - ·)
def execAnd (core : CoreId) (rd ra rb : SReg) (s : State) : Res := binOp s core rd ra rb (· &&& ·)
def execOr (core : CoreId) (rd ra rb : SReg) (s : State) : Res := binOp s core rd ra rb (· ||| ·)
def execXor (core : CoreId) (rd ra rb : SReg) (s : State) : Res := binOp s core rd ra rb (· ^^^ ·)

/-- Shift amounts are taken modulo 64. -/
def shiftBy (b : Word) : Nat := b.toNat % 64

def execShl (core : CoreId) (rd ra rb : SReg) (s : State) : Res :=
  binOp s core rd ra rb (fun a b => a <<< shiftBy b)
def execShr (core : CoreId) (rd ra rb : SReg) (s : State) : Res :=
  binOp s core rd ra rb (fun a b => a >>> shiftBy b)
def execSra (core : CoreId) (rd ra rb : SReg) (s : State) : Res :=
  binOp s core rd ra rb (fun a b => a.sshiftRight (shiftBy b))

def execAddi (core : CoreId) (rd ra : SReg) (imm : BitVec 32) (s : State) : Res := immOp s core rd ra imm (· + ·)
def execShli (core : CoreId) (rd ra : SReg) (imm : BitVec 32) (s : State) : Res :=
  immOp s core rd ra imm (fun a b => a <<< shiftBy b)
def execShri (core : CoreId) (rd ra : SReg) (imm : BitVec 32) (s : State) : Res :=
  immOp s core rd ra imm (fun a b => a >>> shiftBy b)
def execSrai (core : CoreId) (rd ra : SReg) (imm : BitVec 32) (s : State) : Res :=
  immOp s core rd ra imm (fun a b => a.sshiftRight (shiftBy b))
def execAndi (core : CoreId) (rd ra : SReg) (imm : BitVec 32) (s : State) : Res := immOp s core rd ra imm (· &&& ·)
def execOri (core : CoreId) (rd ra : SReg) (imm : BitVec 32) (s : State) : Res := immOp s core rd ra imm (· ||| ·)

def execMul (core : CoreId) (rd ra rb : SReg) (s : State) : Res := binOp s core rd ra rb (· * ·)

/-- The upper 64 bits of the unsigned product. -/
def execMulhu (core : CoreId) (rd ra rb : SReg) (s : State) : Res :=
  binOp s core rd ra rb (fun a b => BitVec.ofNat 64 (a.toNat * b.toNat / 2 ^ 64))

/-! ### Comparisons (R51) -/

/-- A comparison into a comparator bit. -/
def cmpOp (s : State) (c : CoreId) (n : CmpReg) (ra rb : SReg) (f : Word → Word → Bool) : Res :=
  scalarOp s c (fun k => k.setCmp n (f (k.sreg ra) (k.sreg rb)))

def execCmpEq (core : CoreId) (n : CmpReg) (ra rb : SReg) (s : State) : Res :=
  cmpOp s core n ra rb (fun a b => decide (a = b))
def execCmpNe (core : CoreId) (n : CmpReg) (ra rb : SReg) (s : State) : Res :=
  cmpOp s core n ra rb (fun a b => decide (a ≠ b))
def execCmpLt (core : CoreId) (n : CmpReg) (ra rb : SReg) (s : State) : Res :=
  cmpOp s core n ra rb (fun a b => a.slt b)
def execCmpLtu (core : CoreId) (n : CmpReg) (ra rb : SReg) (s : State) : Res :=
  cmpOp s core n ra rb (fun a b => a.ult b)
def execCmpGe (core : CoreId) (n : CmpReg) (ra rb : SReg) (s : State) : Res :=
  cmpOp s core n ra rb (fun a b => b.sle a)
def execCmpGeu (core : CoreId) (n : CmpReg) (ra rb : SReg) (s : State) : Res :=
  cmpOp s core n ra rb (fun a b => b.ule a)

/-! ### Branches and loop counters (R22, R51) -/

def execBr (core : CoreId) (imm : BitVec 32) (s : State) : Res := branchOp s core imm id (fun _ => true)
def execBc (core : CoreId) (n : CmpReg) (imm : BitVec 32) (s : State) : Res :=
  branchOp s core imm id (fun k => k.cmpBit n)
def execBnc (core : CoreId) (n : CmpReg) (imm : BitVec 32) (s : State) : Res :=
  branchOp s core imm id (fun k => !k.cmpBit n)

/-- Decrement modulo 2^32, then branch while the result is nonzero. -/
def execLcbr (core : CoreId) (n : LcReg) (imm : BitVec 32) (s : State) : Res :=
  branchOp s core imm (fun k => k.setLc n (k.lcreg n - 1)) (fun k => decide (k.lcreg n - 1 ≠ 0))

def execLcset (core : CoreId) (n : LcReg) (ra : SReg) (s : State) : Res :=
  scalarOp s core (fun k => k.setLc n ((k.sreg ra).setWidth 32))
def execLcseti (core : CoreId) (n : LcReg) (imm : BitVec 32) (s : State) : Res :=
  scalarOp s core (fun k => k.setLc n imm)
def execLcmov (core : CoreId) (rd : SReg) (n : LcReg) (s : State) : Res :=
  scalarOp s core (fun k => k.setS rd ((k.lcreg n).setWidth 64))

/-! ### The bench (R24, R51, R64 to R66) -/

/-- Bytes of a bench. -/
def benchSize : Nat := 4 * 2 ^ 20

/-- The bank of a bench address. -/
def benchBank (a : Nat) : Nat := a / 64 % 32

/-- A rota word gives a port a slot. -/
def slotIn (rota : Word) (port : Nat) : Bool :=
  (List.range 16).any (fun i => getBits rota (4 * i + 3) (4 * i) == port)

/-- The rota in force gives a port a slot on the bank of an address. -/
def Core.hasSlot (k : Core) (port a : Nat) : Bool := slotIn (k.rotaOf (benchBank a)) port

/-- Slot codes of R65. -/
def pBeamIn : Nat := 1
def pBeamWt : Nat := 2
def pAccRd : Nat := 3
def pAccWr : Nat := 4
def pP0In : Nat := 5
def pP0Out : Nat := 6
def pP1In : Nat := 7
def pP1Out : Nat := 8
def pCart0 : Nat := 9
def pCart1 : Nat := 10
def pKp : Nat := 11
def pGrind : Nat := 12

/-- Why an ld or st at an address is skipped: BENCH_RANGE before ALIGN before NO_SLOT (R51, R63). -/
def Core.benchFault (k : Core) (a : Nat) : Option Nat :=
  if benchSize ≤ a then some 0x02
  else if a % 8 ≠ 0 then some 0x03
  else if !k.hasSlot pKp a then some 0x04
  else none

/-- The address of an ld or st. -/
def Core.benchAddr (k : Core) (ra : SReg) (imm : BitVec 32) : Nat := (k.sreg ra + simm imm).toNat

/-- The slot of a bank in a core cycle: the entry of its rota word that the calendar counter numbers (R65, R67). -/
def Core.slotAt (k : Core) (cal bank : Nat) : Nat := getBits (k.rotaOf bank) (4 * cal + 3) (4 * cal)

/-- A stepped ld or st would wait for its slot (R23, R40). -/
def State.stepsBeforeSlot (s : State) (c : CoreId) (a : Nat) : Bool :=
  (s.core c).stepping && (s.core c).slotAt s.calendar (benchBank a) != pKp

/-- An ld or st: performed, or skipped and logged (R24); a stepped one whose slot is not due does not issue (R40). -/
def benchOp (s : State) (c : CoreId) (ra : SReg) (imm : BitVec 32) (f : Nat → Core → Core) : Res :=
  let k := s.core c
  let a := k.benchAddr ra imm
  whenever k.canIssue s
    (match k.benchFault a with
     | some r => (s.kpSkip c r).modCore c (fun k => k.retire 8)
     | none =>
       if s.stepsBeforeSlot c a then s.modCore c (fun k => k.stepDone 3)
       else s.modCore c (fun k => (f a k).retire 8))

def execLd (core : CoreId) (rd ra : SReg) (imm : BitVec 32) (s : State) : Res :=
  benchOp s core ra imm (fun a k => k.setS rd (BitVec.ofNat 64 (readLe k.bench a 8)))

def execSt (core : CoreId) (ra rb : SReg) (imm : BitVec 32) (s : State) : Res :=
  benchOp s core ra imm (fun a k => { k with bench := writeLe k.bench a 8 (k.sreg rb).toNat })

/-! ### Flags and rota (R52, R53, R66) -/

/-- The engine an immediate names. -/
def flagsEngine (imm : BitVec 32) : Nat := imm.toNat % 4

def execFlagsRd (core : CoreId) (rd : SReg) (imm : BitVec 32) (s : State) : Res :=
  scalarOp s core (fun k => k.setS rd ((k.flagWord (flagsEngine imm)).setWidth 64))

def execFlagsClr (core : CoreId) (imm : BitVec 32) (s : State) : Res :=
  scalarOp s core (fun k => k.setFlagWord (flagsEngine imm) 0)

/-- A rota word holds a reserved slot code. -/
def reservedSlots (rota : Word) : Bool := slotIn rota 13 || slotIn rota 14 || slotIn rota 15

/-- Stage a rota word and, with commit, make the whole staging area pending. -/
def Core.stageRota (k : Core) (bank : Nat) (rota : Word) (commit : Bool) : Core :=
  let t := tabSet (fun _ => defaultRota) bank rota k.staging
  { k with staging := t, pendingRota := if commit then some t else k.pendingRota }

def execRotaSet (core : CoreId) (ra rb : SReg) (imm : BitVec 32) (s : State) : Res :=
  let k := s.core core
  let rota := k.sreg ra
  let t := if reservedSlots rota
    then s.logAny (s.partOf core)
      { type := 0x09, reason := 0x10, core := core.val, unit := 0, ctx := k.ctx.toNat, tag := s.launchTag core,
        d1 := k.pc.toNat, d2 := rota.toNat }
    else s
  whenever k.canIssue s
    (t.modCore core (fun k => (k.stageRota ((k.sreg rb).toNat % 32) rota (imm.getLsbD 0)).retire 8))

/-! ### Skips and the end of the code (R54, R62) -/

/-- A native skip issues, does nothing, and execution continues after the malformed instruction's length. -/
def execNativeSkip (core : CoreId) (bytes : Nat) (s : State) : Res :=
  checked (.nativeSkip core bytes) "NATIVE_SKIP"
    (whenever (s.core core).canIssue s (s.modCore core (fun k => k.retire bytes)))

/-- The length of the code a core runs; 0 where its image is not among the loaded ones. -/
def State.codeLen (s : State) (c : CoreId) : Nat :=
  match s.launchOf c with
  | none => 0
  | some l => match (s.part l.part).images.find? (fun i => decide (i.key = l.key)) with
    | some i => i.codeLen
    | none => 0

def execEndOfCode (core : CoreId) (s : State) : Res :=
  let k := s.core core
  whenever (k.canIssue && decide (s.codeLen core ≤ k.pc.toNat)) s
    ((s.kpSkip core 0x0E).modCore core (fun k => ({ k with run := .ended } : Core).stepDone 2))

end Sys2Proof.Machine
end

