-- ==== Sys2Proof/Machine/Packet.lean ====
section
/-! DEFINITION. Belora frames and packets: CRC-32C, headers, credits, the choice of the next packet, routing (R333, R334,
R337 to R342, R350). -/

namespace Sys2Proof.Machine

/-! ### CRC-32C (R43, R333) -/

/-- One bit of the reflected CRC-32C register. -/
def crcBit (c : Nat) : Nat := if c % 2 = 1 then (c / 2) ^^^ 0x82F63B78 else c / 2

/-- One byte. -/
def crcByte (c : Nat) (b : Byte) : Nat :=
  crcBit (crcBit (crcBit (crcBit (crcBit (crcBit (crcBit (crcBit (c ^^^ b.toNat))))))))

/-- CRC-32C of a byte list. -/
def crc32c (bs : List Byte) : Nat := bs.foldl crcByte 0xFFFFFFFF ^^^ 0xFFFFFFFF

/-! ### Headers (R337) -/

def pType (p : List Byte) : Nat := fieldLe p 0 1
def pVc (p : List Byte) : Nat := fieldLe p 1 1 % 8
def pRsp (p : List Byte) : Bool := bitOf (fieldLe p 1 1) 3
def pD (p : List Byte) : Bool := bitOf (fieldLe p 1 1) 4
def pDst (p : List Byte) : Nat := fieldLe p 2 2 % 4096
def pSrc (p : List Byte) : Nat := fieldLe p 4 2 % 4096
def pTxn (p : List Byte) : BitVec 16 := BitVec.ofNat 16 (fieldLe p 6 2)
def pAddr (p : List Byte) : Nat := fieldLe p 8 6 % 2 ^ 41
def pStatus (p : List Byte) : Nat := fieldLe p 8 2
def pLines (p : List Byte) : Nat := fieldLe p 14 1 % 4 + 1
def pHops (p : List Byte) : Nat := fieldLe p 14 1 / 4
def pRetry (p : List Byte) : Bool := bitOf (fieldLe p 15 1) 0
def pUnits (p : List Byte) : Nat := (p.length + 15) / 16

/-- A packet with fresh header: HOPS 63, D clear, RETRY clear. -/
def mkPacket (type vc : Nat) (rsp : Bool) (dst src : Nat) (txn : BitVec 16) (addr lines : Nat) (data : List Byte) :
    List Byte :=
  natLe 1 type ++ natLe 1 (vc + 8 * boolNat rsp) ++ natLe 2 dst ++ natLe 2 src ++ natLe 2 txn.toNat ++ natLe 6 addr ++
    natLe 1 (lines - 1 + 4 * 63) ++ natLe 1 0 ++ data

/-- A packet with its D bit set to `d`, its HOPS and its RETRY replaced. -/
def reHead (p : List Byte) (d : Bool) (hops : Nat) (retry : Bool) : List Byte :=
  let p1 := putBytes p 1 (natLe 1 (pVc p + 8 * boolNat (pRsp p) + 16 * boolNat d))
  let p2 := putBytes p1 14 (natLe 1 (pLines p - 1 + 4 * hops))
  putBytes p2 15 (natLe 1 (boolNat retry))

/-- The number of units a packet of a type takes, from its header (R338); none for an undefined type. Twin protocol
packets carry their length in units in byte 8 (log entry 12). -/
def unitsOf (h : List Byte) : Option Nat :=
  let t := pType h
  if t = 0x01 then some 1
  else if t = 0x02 then some (1 + 4 * pLines h)
  else if t = 0x03 then some 6
  else if t = 0x04 then some 2
  else if t = 0x81 then some (1 + 4 * pLines h)
  else if t = 0x82 then some 1
  else if t = 0x84 then some 2
  else if t = 0x8E then some 1
  else if t = 0x8F then some 1
  else if 0xC0 ≤ t ∧ t ≤ 0xC7 then some (max 2 (min 17 (fieldLe h 8 1)))
  else if t = 0xC8 then some 2
  else if t = 0xC9 then some 2
  else none

/-! ### Buffers and credits (R337, R339) -/

/-- The receive buffer of a packet. -/
def bufOf (p : List Byte) : Nat := 4 * pVc p + 2 * boolNat (pRsp p) + boolNat (pD p)

/-- The size of a receive buffer, in units. -/
def bufUnits (b : Nat) : Nat := if 16 ≤ b then 256 else if b % 2 = 0 then 4096 else 512

/-- A link carries traffic: HOLD or UP (R352). -/
def State.linkLive (s : State) (l : LinkId) : Bool := decide (2 ≤ s.fld (oBL_STAT l) 1 0)

/-! ### Frames (R333) -/

/-- A frame around a payload of at most 240 bytes. -/
def mkFrame (seq ack : BitVec 12) (nak : Bool) (buf : Nat) (lanes : BitVec 8) (credits : Nat) (payload : List Byte) :
    List Byte :=
  let body := natLe 2 seq.toNat ++ natLe 2 (ack.toNat + 4096 * boolNat nak) ++ natLe 1 buf ++ natLe 1 lanes.toNat ++
    natLe 2 credits ++ sliceBytes payload 0 240
  body ++ natLe 4 (crc32c body) ++ natLe 4 0

/-- Send one frame with a payload on a link; it returns the credits owed for one buffer, and the sender keeps it until
it is acknowledged. -/
def State.sendFrame (s : State) (l : LinkId) (nak : Bool) (payload : List Byte) : State :=
  let k := s.link l
  let (b, n) := match k.owed with | [] => (0, 0) | e :: _ => e
  let f := mkFrame k.txSeq (k.rxSeq - 1) nak b (BitVec.ofNat 8 (s.fld (oBL_STAT l) 17 10)) n payload
  let k := { k with
    txSeq := k.txSeq + 1
    owed := tabSet (fun _ => 0) b 0 k.owed
    unacked := k.unacked ++ [(k.txSeq, f)] }
  (s.setLink l k).send (.frame l f)

/-- The payloads that carry a packet: units of 16 bytes, 15 to a frame. -/
def framesOf (p : List Byte) : List (List Byte) :=
  (List.range ((p.length + 239) / 240)).map (fun i => (p.drop (240 * i)).take 240)

/-- Units returned to the other end when a packet received on a link has been taken (R339). -/
def State.freeBuffer (s : State) (l : LinkId) (p : List Byte) : State :=
  s.modLink l (fun k => { k with owed := tabMod (fun _ => 0) (bufOf p) (· + pUnits p) k.owed })

/-! ### The next packet (R340) -/

/-- A packet's buffer holds credits for all its units. -/
def Link.hasCredit (k : Link) (p : List Byte) : Bool :=
  decide (tabGet (fun _ => 0) (bufOf p) k.used + pUnits p ≤ bufUnits (bufOf p))

/-- The share of a virtual channel beyond VC0's earnings: VC1, VC2, VC3 at 8 : 4 : 1, VC0 as VC1. -/
def vcShare (vc : Nat) : Nat := if vc = 2 then 4 else if vc = 3 then 1 else 8

/-- The participant of a packet in the round robin within its virtual channel: links 0 to 17, then local injection. -/
def TxPkt.participant (t : TxPkt) : Nat := match t.input with | some l => l.val | none => 18

/-- The weight of a partition's local injection on a virtual channel (R294, R340): W1 to W3, and C0_PART for VC0. -/
def State.vcWeight (s : State) (vc : Nat) (part : Option PartId) : Nat :=
  match part with
  | none => 1
  | some p =>
    if vc = 0 then max 1 (s.cfg (oPT_VC p) 28 24)
    else if vc = 4 then 1
    else max 1 (s.cfg (oPT_VC p) (8 * vc - 1) (8 * vc - 8))

/-- The least element of a list by a key; the first of equals. -/
def leastBy {α : Type} (f : α → Nat) : List α → Option α
  | [] => none
  | a :: r => match leastBy f r with
    | none => some a
    | some b => if f a ≤ f b then some a else some b

/-- The virtual channel that goes next among those with a packet that may go. -/
def Link.nextVc (k : Link) (ready : List TxPkt) : Option Nat :=
  let vcs := ready.map TxPkt.vc
  if vcs.contains 4 then some 4
  else
    match ready.find? (fun t => t.vc == 0) with
    | some t =>
      if pUnits t.bytes * 64 ≤ k.earned then some 0
      else leastBy (fun v => (tabGet (fun _ => 0) v k.vcUsed + 1) * 8 / vcShare v) vcs
    | none => leastBy (fun v => (tabGet (fun _ => 0) v k.vcUsed + 1) * 8 / vcShare v) vcs

/-- The packet that goes next on a link: by virtual channel, then round robin by input, then by partition weight, then
in order. -/
def State.nextPkt (s : State) (l : LinkId) : Option TxPkt :=
  let k := s.link l
  let ready := k.tx.filter (fun t => k.hasCredit t.bytes)
  match k.nextVc ready with
  | none => none
  | some vc =>
    let here := ready.filter (fun t => t.vc == vc)
    let last := tabGet (fun _ => 18) vc k.lastIn
    match leastBy (fun t => (t.participant + 18 - last) % 19) here with
    | none => none
    | some t =>
      leastBy (fun u => tabGet (fun _ => 0) (33 * vc + (match u.part with | some p => p.val | none => 32)) k.partUsed
          * 256 / s.vcWeight vc u.part)
        (here.filter (fun u => u.participant == t.participant))

/-- Account for a packet sent. -/
def Link.charge (k : Link) (t : TxPkt) (res0 : Nat) : Link :=
  let n := pUnits t.bytes
  let earned := min (1024 * 64) (k.earned + res0 * n)
  { k with
    tx := k.tx.erase t
    used := tabMod (fun _ => 0) (bufOf t.bytes) (· + n) k.used
    earned := if t.vc = 0 then earned - min earned (64 * n) else earned
    vcUsed := tabMod (fun _ => 0) t.vc (· + n) k.vcUsed
    lastIn := tabSet (fun _ => 18) t.vc t.participant k.lastIn
    partUsed := tabMod (fun _ => 0) (33 * t.vc + (match t.part with | some p => p.val | none => 32)) (· + n) k.partUsed }

/-- Send every packet that waits on a link and whose buffer has credits, while fewer than 512 frames are
unacknowledged. -/
def State.pumpLink (s : State) (l : LinkId) : Nat → State
  | 0 => s
  | n + 1 =>
    if !s.linkLive l || decide (512 ≤ (s.link l).unacked.length + 1) then s
    else
      match s.nextPkt l with
      | none => s
      | some t =>
        let s1 := s.modLink l (fun k => k.charge t (s.fld oFB_VC 4 0))
        let s2 := (framesOf t.bytes).foldl (fun u f => u.sendFrame l false f) s1
        (s2.modLink l (fun k => { k with sent := k.sent ++ [(k.txSeq - 1, t)] })).pumpLink l n

/-- Put a packet on a link. -/
def State.transmit (s : State) (l : LinkId) (t : TxPkt) : State :=
  let s1 := s.modLink l (fun k => { k with tx := k.tx ++ [t] })
  s1.pumpLink l (s1.link l).tx.length

/-! ### Routing (R341, R342) -/

/-- Width of dimension i, its first bit, and whether it is a ring. -/
def State.dimW (s : State) (i : Nat) : Nat := s.fld oFB_ADDR (18 + 3 * i) (16 + 3 * i)
def State.dimLo (s : State) (i : Nat) : Nat := ((List.range i).map s.dimW).foldl (· + ·) 0
def State.dimRing (s : State) (i : Nat) : Bool := s.bit oFB_ADDR (28 + i)

/-- The coordinate of an address in a dimension. -/
def State.coord (s : State) (a i : Nat) : Nat := a / 2 ^ s.dimLo i % 2 ^ s.dimW i

/-- The dimension, direction (true: +) and wrap crossing toward an address; none for the module's own. -/
def State.hop (s : State) (x : Nat) : Option (Nat × Bool × Bool) :=
  let m := s.fab
  ((List.range 4).find? (fun i => s.coord x i != s.coord m i)).map (fun i =>
    let n := 2 ^ s.dimW i
    let cx := s.coord x i
    let cm := s.coord m i
    let plus := if s.dimRing i then decide ((cx + n - cm) % n ≤ n / 2) else decide (cx > cm)
    (i, plus, s.dimRing i && (if plus then cm + 1 == n else cm == 0)))

/-- The dimension a link's port serves; none where PORT is 0 or the link is a twin link. -/
def State.linkDim (s : State) (l : LinkId) : Option Nat :=
  let p := s.fld (oBL_CTL l) 4 1
  if l.val < 16 ∧ p ≠ 0 then some ((p - 1) / 2) else none

/-- The live links of the port of a dimension and direction. -/
def State.portLinks (s : State) (i : Nat) (plus : Bool) : List LinkId :=
  (List.finRange 18).filter (fun l =>
    decide (l.val < 16) && s.fld (oBL_CTL l) 4 1 == 2 * i + boolNat (!plus) + 1 && s.linkLive l)

/-- The valid alias of an address (R342, R351). -/
def State.aliasOf (s : State) (x : Nat) : Option Nat :=
  ((List.range 64).find? (fun i => s.bit (oFB_ALIAS i) 40 && s.fld (oFB_ALIAS i) 11 0 == x)).map
    (fun i => s.fld (oFB_ALIAS i) 23 12)

/-- The module answers to an address: its own, or one it has adopted (R342, R351). -/
def State.answersTo (s : State) (x : Nat) : Bool :=
  decide (x = s.fab) || (s.bit oTW_STAT 3 && x == s.fld oTW_CTL 15 4)

/-- Send a packet toward its destination from this module; it is held where its port has no live link (R346), or where the
module itself answers to its destination. -/
def State.route (s : State) (input : Option LinkId) (part : Option PartId) (p : List Byte) : State :=
  let x := match s.aliasOf (pDst p) with | some t => t | none => pDst p
  match (if s.answersTo x then none else s.hop x) with
  | none => { s with fabric := { s.fabric with held := s.fabric.held ++ [(input, p)] } }
  | some (i, plus, wrap) =>
    let ls := s.portLinks i plus
    match ls[(pSrc p + pDst p) % ls.length]? with
    | none => { s with fabric := { s.fabric with held := s.fabric.held ++ [(input, p)] } }
    | some l =>
      let entered := match input.bind s.linkDim with | some j => decide (j < i) | none => true
      let d := wrap || (pD p && !entered)
      s.transmit l { vc := pVc p, input := input, part := part, bytes := reHead p d (pHops p) (pRetry p) }

/-- Try the held packets again, as after a change of links or aliases. -/
def State.routeHeld (s : State) : State :=
  s.fabric.held.foldl (fun t e => t.route e.1 none e.2) { s with fabric := { s.fabric with held := [] } }

/-- Answer a request packet: a response of a type, with a status and data (R338, R339). -/
def State.respond (s : State) (req : List Byte) (type status lines : Nat) (data : List Byte) : State :=
  s.route none none (mkPacket type (pVc req) true (pSrc req) s.fab (pTxn req) status lines data)

/-- An error response (R346). -/
def State.respondErr (s : State) (req : List Byte) (code : Nat) : State :=
  let t := if code = 0x0106 then s.incFld oFB_STAT 63 32 1 else s
  t.respond req 0x8F code 1 []

/-- Answer on the link a packet came in on, where it is a twin link; else by routing. -/
def State.reply (s : State) (l : LinkId) (req : List Byte) (type status lines : Nat) (data : List Byte) : State :=
  if l.val < 16 then s.respond req type status lines data
  else s.transmit l
    { vc := pVc req, input := none, part := none,
      bytes := mkPacket type (pVc req) true (pSrc req) s.fab (pTxn req) status lines data }

/-- A tally response: unit 2 holds the value in bytes 8 to 15 (R338, R349). -/
def State.respondTor (s : State) (req : List Byte) (status : Nat) (value : Word) : State :=
  s.respond req 0x84 status 1 (natLe 8 0 ++ natLe 8 value.toNat)

/-- Issue a request of this module: fresh TXN, kept until its response arrives (R337, R346). -/
def State.request (s : State) (type vc dst addr lines : Nat) (data : List Byte) (u : PeerUnit) (part : Option PartId)
    (mem : Option MemReq) : BitVec 16 × State :=
  let txn := s.fabric.nextTxn
  let p := mkPacket type vc false dst s.fab txn addr lines data
  let r : PeerReq := { txn := txn, unit := u, dst := BitVec.ofNat 12 dst, bytes := p, mem := mem }
  let s1 := { s with fabric := { s.fabric with nextTxn := txn + 1, requests := s.fabric.requests ++ [r] } }
  (txn, s1.route none part p)

/-- Send a twin protocol packet on a twin link (R350): type, body after the header. -/
def State.sendTwin (s : State) (l : LinkId) (type : Nat) (body : List Byte) : State :=
  let n := 1 + (body.length + 15) / 16
  let p := mkPacket type 4 false (s.fld oTW_CTL 15 4) s.fab 0 n 1 (sliceBytes body 0 (16 * (n - 1)))
  s.transmit l { vc := 4, input := none, part := none, bytes := p }

/-- The twin links that are live (R350). -/
def State.twinLinks (s : State) : List LinkId := ([16, 17] : List LinkId).filter s.linkLive

/-- Send a twin protocol packet on every live twin link, or on the first of them. -/
def State.sendTwinAll (s : State) (type : Nat) (body : List Byte) : State :=
  s.twinLinks.foldl (fun t l => t.sendTwin l type body) s
def State.sendTwinOne (s : State) (type : Nat) (body : List Byte) : State :=
  match s.twinLinks with
  | [] => s
  | l :: _ => s.sendTwin l type body

/-- The module sends its fatal notice, stops every engine and enters FAILED (R320, R368). -/
def State.moduleFail (s : State) : State :=
  { ((s.send .fatalNotice).inBand 0x04).setFld oTW_STAT 2 0 5 with failed := true }

end Sys2Proof.Machine
end

