-- ==== Sys2Proof/Machine/Sync.lean ====
section
/-! DEFINITION. Pegs, tallies and bells: tables, operations, waiters, and the synchronisation instructions (R55, R56, R215
to R227). -/

namespace Sys2Proof.Machine

/-! ### Objects -/

def State.peg (s : State) (n : Nat) : Peg := tabGet (fun _ => {}) n s.pegs
def State.setPeg (s : State) (n : Nat) (g : Peg) : State := { s with pegs := tabSet (fun _ => {}) n g s.pegs }
def State.tally (s : State) (n : Nat) : Tally := tabGet (fun _ => {}) n s.tallies
def State.setTally (s : State) (n : Nat) (t : Tally) : State := { s with tallies := tabSet (fun _ => {}) n t s.tallies }
def State.bell (s : State) (n : Nat) : Bell := tabGet (fun _ => {}) n s.bells
def State.setBell (s : State) (n : Nat) (b : Bell) : State := { s with bells := tabSet (fun _ => {}) n b s.bells }

/-- A window of physical IDs holds an ID (R215, R378). -/
def inWindow (base count n : Nat) : Bool := decide (base ≤ n) && decide (n < base + count)

def State.pegWindow (s : State) (p : PartId) (n : Nat) : Bool :=
  inWindow (s.cfg (oPT_PEGS p) 15 0) (s.cfg (oPT_PEGS p) 32 16) n
def State.tallyWindow (s : State) (p : PartId) (n : Nat) : Bool :=
  inWindow (s.cfg (oPT_TALLIES p) 13 0) (s.cfg (oPT_TALLIES p) 30 16) n
def State.bellWindow (s : State) (p : PartId) (n : Nat) : Bool :=
  inWindow (s.cfg (oPT_BELLS p) 11 0) (s.cfg (oPT_BELLS p) 28 16) n

/-- The partition whose window holds an object. -/
def State.pegOwner (s : State) (n : Nat) : Option PartId := allParts.find? (fun p => s.pegWindow p n)
def State.tallyOwner (s : State) (n : Nat) : Option PartId := allParts.find? (fun p => s.tallyWindow p n)
def State.bellOwner (s : State) (n : Nat) : Option PartId := allParts.find? (fun p => s.bellWindow p n)

/-- An object of a partition has changed (R228). -/
def State.touched (s : State) (p : Option PartId) : State :=
  match p with
  | some q => s.modPart q (fun k => { k with objectsChanged := true })
  | none => s

/-! ### The context's table (R216, R217) -/

/-- The 32-bit entry at a byte offset of a context's table, as read at its last switch-in. -/
def State.syncEntry (s : State) (ctx : BitVec 8) (off : Nat) : Nat :=
  (tabGet (fun _ => 0) off (tabGet (fun _ => []) ctx.toNat s.syncTables) : BitVec 32).toNat

/-- What an object ID names. -/
inductive ObjRef where
  | local_ (n : Nat)
  | remote (fab n : Nat)
  deriving DecidableEq, Repr

/-- The physical peg of an ID of a context; none where a check of R216 fails. -/
def State.pegRef (s : State) (p : PartId) (ctx : BitVec 8) (id : Nat) : Option Nat :=
  let e := s.syncEntry ctx (4 * id)
  if bitOf e 16 && s.pegWindow p (e % 65536) && decide (id < 4096) then some (e % 65536) else none

/-- The tally of an ID of a context, local or of a peer module. -/
def State.tallyRef (s : State) (p : PartId) (ctx : BitVec 8) (id : Nat) : Option ObjRef :=
  let e := s.syncEntry ctx (0x4000 + 4 * id)
  let n := e % 16384
  if !bitOf e 14 || decide (1024 ≤ id) then none
  else if bitOf e 15 then some (.remote (bitsOf e 27 16) n)
  else if s.tallyWindow p n then some (.local_ n)
  else none

/-- The physical bell of an ID of a context. -/
def State.bellRef (s : State) (p : PartId) (ctx : BitVec 8) (id : Nat) : Option Nat :=
  let e := s.syncEntry ctx (0x5000 + 4 * id)
  if bitOf e 12 && s.bellWindow p (e % 4096) && decide (id < 256) then some (e % 4096) else none

/-! ### Faults found at an object (R219, R222, R224) -/

/-- Who performs an operation. -/
inductive SyncBy where
  | kingpost (core : CoreId) (pc : BitVec 48)
  | command (core : CoreId) (u : EngineUnit) (tag : BitVec 16)
  | descriptor (ring : RingId) (seq : BitVec 32)
  | peer
  deriving DecidableEq, Repr

/-- Log a SYNC_FAULT and mark the LAUNCH or the descriptor. -/
def State.syncFault (s : State) (who : SyncBy) (owner : Option PartId) (reason phys : Nat) : State :=
  match who with
  | .kingpost c pc =>
    let t := s.logAny (s.partOf c)
      { type := 0x03, reason := reason, core := c.val, unit := 0, ctx := (s.core c).ctx.toNat, tag := s.launchTag c,
        d1 := phys, d2 := pc.toNat }
    t.modLaunch c (fun l => { l with syncFault := true })
  | .command c u tag =>
    let t := s.logAny (s.partOf c)
      { type := 0x03, reason := reason, core := c.val, unit := unitCode u, ctx := (s.core c).ctx.toNat,
        tag := tag.toNat, d1 := phys }
    t.modLaunch c (fun l => { l with syncFault := true })
  | .descriptor r seq =>
    let tag := match s.desc r seq with | some d => fieldLe d.bytes 4 2 | none => 0
    let t := s.logAny (s.partOfRing r)
      { type := 0x03, reason := reason, ctx := s.cfg (oRT_CTL r) 23 16, tag := tag, d1 := phys }
    t.flagDesc r seq 4
  | .peer => s.logAny owner { type := 0x03, reason := reason, d1 := phys }

/-! ### Release of waiters -/

/-- Change the command engine of a core. -/
def State.modEng (s : State) (c : CoreId) (u : EngineUnit) (f : Eng → Eng) : State := s.modCore c (fun k => k.modEng u f)

/-- The object tells a waiter that its request is satisfied. -/
def State.release (s : State) (w : Waiter) (value : Word) : State :=
  match w.who with
  | .kingpost c => s.modCore c (fun k =>
      { k with wait := k.wait.map (fun x => { x with satisfied := true, value := value }) })
  | .command c u => s.modEng c u (fun e => { e with phase := .ready })
  | .descriptor r seq => s.endDesc r seq 0
  | .peer req => s.respondTor req 0 value

/-- Release every waiter of a list, in order. -/
def State.releaseAll (s : State) (ws : List Waiter) (value : Word) : State :=
  ws.foldl (fun t w => t.release w value) s

/-! ### Pegs (R218, R219) -/

/-- The waiters a count satisfies, strictly in the order in which they registered: what is left of the count, those
released and those still waiting. -/
def serveTakes (count : Nat) : List Waiter → Nat × List Waiter × List Waiter
  | [] => (count, [], [])
  | w :: ws =>
    if w.need.toNat ≤ count then
      let r := serveTakes (count - w.need.toNat) ws
      (r.1, w :: r.2.1, r.2.2)
    else (count, [], w :: ws)

/-- Re-examine the waiters of a peg; its count changes where one is released that takes something (R228). -/
def State.servePeg (s : State) (n : Nat) : State :=
  let g := s.peg n
  let r := serveTakes g.count.toNat g.waiters
  let t := (s.setPeg n { g with count := BitVec.ofNat 16 r.1, waiters := r.2.2 }).releaseAll r.2.1 0
  if r.1 = g.count.toNat then t else t.touched (s.pegOwner n)

/-- A take registers and is served in turn. -/
def State.pegTake (s : State) (n : Nat) (need : Word) (who : WaiterId) : State :=
  let g := s.peg n
  (s.setPeg n { g with waiters := g.waiters ++ [{ who := who, kind := .pegTake, need := need }] }).servePeg n

/-- A post of `k`: refused with OVF where the count would exceed 65,535. -/
def State.pegPost (s : State) (who : SyncBy) (n k : Nat) : State :=
  let g := s.peg n
  if 65535 < g.count.toNat + k then (s.setPeg n { g with ovf := true }).syncFault who (s.pegOwner n) 0x09 n
  else ((s.setPeg n { g with count := g.count + BitVec.ofNat 16 k }).servePeg n).touched (if k = 0 then none else s.pegOwner n)

/-- A decrement of `k`: refused with UDF where it exceeds the count. -/
def State.pegDec (s : State) (who : SyncBy) (n k : Nat) : State :=
  let g := s.peg n
  if g.count.toNat < k then (s.setPeg n { g with udf := true }).syncFault who (s.pegOwner n) 0x0A n
  else (s.setPeg n { g with count := g.count - BitVec.ofNat 16 k }).touched (if k = 0 then none else s.pegOwner n)

/-- A waiter that has withdrawn is dropped. -/
def dropWaiter (who : WaiterId) (ws : List Waiter) : List Waiter := ws.filter (fun w => decide (w.who ≠ who))

/-! ### Tallies (R221, R222) -/

/-- VALUE less the consumer's VALUE. -/
def State.tallyDiff (s : State) (n : Nat) : Word := (s.tally n).value - (s.tally (s.tally n).cons.toNat).value

/-- A producer tally with a bound. -/
def Tally.bounded (t : Tally) : Bool := t.consEn && decide (t.depth ≠ 0)

/-- tally.room must wait. -/
def State.roomWaits (s : State) (n : Nat) : Bool :=
  (s.tally n).bounded && decide (s.tallyDiff n = (s.tally n).depth.setWidth 64)

/-- A waiter's condition holds at a tally. -/
def State.tallyHolds (s : State) (n : Nat) (w : Waiter) : Bool :=
  if w.kind = .tallyRoom then !s.roomWaits n else decide (w.need.toNat ≤ (s.tally n).value.toNat)

/-- Re-examine the waiters of one tally, in registration order. -/
def State.serveTally (s : State) (n : Nat) : State :=
  let t := s.tally n
  let ok := t.waiters.filter (s.tallyHolds n)
  (s.setTally n { t with waiters := t.waiters.filter (fun w => !s.tallyHolds n w) }).releaseAll ok t.value

/-- Re-examine every tally that has waiters: a room waiter of a producer waits on its consumer's VALUE. -/
def State.serveTallies (s : State) : State :=
  (s.tallies.filter (fun e => !e.2.waiters.isEmpty)).foldl (fun t e => t.serveTally e.1) s

/-- A tally.wait or tally.room registers and is examined. -/
def State.tallyAwait (s : State) (n : Nat) (w : Waiter) : State :=
  let t := s.tally n
  (s.setTally n { t with waiters := t.waiters ++ [w] }).serveTally n

/-- An advance, kept even where it overruns the depth (R222). -/
def State.tallyAdv (s : State) (who : SyncBy) (n : Nat) (amount : Word) : State :=
  let t := s.tally n
  let s1 := s.setTally n { t with value := t.value + amount }
  let overrun := t.bounded && decide ((t.depth.toNat : Int) < (s1.tallyDiff n).toInt)
  let s2 := if overrun
    then (s1.setTally n { s1.tally n with depthF := true }).syncFault who (s.tallyOwner n) 0x0B n
    else s1
  s2.serveTallies.touched (if amount = 0 then none else s.tallyOwner n)

/-! ### Bells (R224) -/

/-- A release: ARRIVED and COUNT to 0, GEN advanced, every waiter released. -/
def State.bellRelease (s : State) (n : Nat) : State :=
  let b := s.bell n
  (s.setBell n { count := 0, arrived := 0, gen := b.gen + 1, waiters := [] }).releaseAll b.waiters 0

/-- An arrival under a participant count, with its waiter if it waits. -/
def State.bellArrive (s : State) (who : SyncBy) (n count : Nat) (w : Option WaiterId) : State :=
  let b := s.bell n
  let stored := if b.count = 0 then BitVec.ofNat 13 count else b.count
  let ws := match w with
    | some x => b.waiters ++ [{ who := x, kind := .bellArrive, need := stored.setWidth 64 }]
    | none => b.waiters
  let s0 := if stored.toNat ≠ count then s.syncFault who (s.bellOwner n) 0x12 n else s
  let s1 := s0.setBell n { b with count := stored, arrived := b.arrived + 1, waiters := ws }
  (if b.arrived + 1 = stored then s1.bellRelease n else s1).touched (s.bellOwner n)

/-! ### Synchronisation instructions (R55, R56) -/

/-- The class whose virtual channel a core's peer requests take (R339). -/
def State.classOf (s : State) (c : CoreId) : Nat :=
  match (s.core c).launch with | some r => s.cfg (oRT_CTL r.ring) 3 2 | none => 3

/-- The kingpost starts to wait for an object's answer. -/
def State.startWait (s : State) (c : CoreId) (w : SyncWait) : State := s.modCore c (fun k => { k with wait := some w })

/-- The object drops a kingpost's request. -/
def State.dropRequest (s : State) (c : CoreId) (w : SyncWait) : State :=
  let who := WaiterId.kingpost c
  let n := w.phys.toNat
  match w.kind with
  | .pegTake => (s.setPeg n { s.peg n with waiters := dropWaiter who (s.peg n).waiters }).servePeg n
  | .pegRead => s
  | .tallyWait => s.setTally n { s.tally n with waiters := dropWaiter who (s.tally n).waiters }
  | .tallyRoom => s.setTally n { s.tally n with waiters := dropWaiter who (s.tally n).waiters }
  | .tallyRead => s
  | .bellArrive => s.setBell n { s.bell n with waiters := dropWaiter who (s.bell n).waiters }

/-- The kingpost gives up a wait that has not been satisfied: the instruction is executed again on resume; a bell
arrival is kept (R56). -/
def State.giveUp (s : State) (c : CoreId) (w : SyncWait) : State :=
  (s.dropRequest c w).modCore c (fun k =>
    { k with
      wait := none
      arrived := if w.kind = .bellArrive then some (w.phys, w.gen) else k.arrived })

/-- A stepped instruction that would wait does not issue, and STOP_CAUSE reads 3 (R40). -/
def State.stepWait (s : State) (c : CoreId) : State :=
  let k := s.core c
  match k.wait with
  | none => s
  | some w =>
    if k.stepping && !w.satisfied && w.txn.isNone then (s.giveUp c w).modCore c (fun k => k.stepDone 3) else s

/-- A skip with reason SYNC_ID: the instruction does not wait (R55). -/
def State.syncSkip (s : State) (c : CoreId) : State := (s.kpSkip c 0x08).modCore c (fun k => k.retire 8)

/-- A synchronisation instruction with the partition of its core; a core of no partition has no table. -/
def syncOp (s : State) (c : CoreId) (f : PartId → Core → State) : Res :=
  whenever (s.core c).canIssue s
    (match s.partOf c with
     | none => s.syncSkip c
     | some p => f p (s.core c))

/-- A wait as it begins. -/
def newWait (kind : WaitKind) (id : BitVec 12) (phys : Nat) (need : Word) : SyncWait :=
  { kind := kind, id := id, phys := BitVec.ofNat 16 phys, need := need, rd := 0, gen := 0, satisfied := false, value := 0,
    txn := none }

/-- Send a tally operation to a peer module and wait for its response (R223, R347). -/
def State.remoteWait (s : State) (c : CoreId) (p : PartId) (op fab n : Nat) (operand : Word) (w : SyncWait) : State :=
  let (txn, t) := s.request 0x04 (s.classOf c) fab n 1 (natLe 8 op ++ natLe 8 operand.toNat) (.kingpost c) (some p) none
  let mark := fun (r : PeerReq) =>
    if r.txn = txn then { r with op := op, pc := (s.core c).pc, tag := BitVec.ofNat 16 (s.launchTag c) } else r
  let t1 := { t with fabric := { t.fabric with requests := t.fabric.requests.map mark } }
  t1.startWait c { w with txn := some txn }

def execPegTake (core : CoreId) (id : BitVec 12) (rcnt : Bool) (ra : SReg) (cnt : BitVec 16) (s : State) : Res :=
  syncOp s core (fun p k =>
    match s.pegRef p k.ctx id.toNat with
    | none => s.syncSkip core
    | some n =>
      let need := (k.count rcnt ra cnt).setWidth 64
      ((s.startWait core (newWait .pegTake id n need)).pegTake n need (.kingpost core)).stepWait core)

def execPegDec (core : CoreId) (id : BitVec 12) (rcnt : Bool) (ra : SReg) (cnt : BitVec 16) (s : State) : Res :=
  syncOp s core (fun p k =>
    match s.pegRef p k.ctx id.toNat with
    | none => s.syncSkip core
    | some n => (s.pegDec (.kingpost core k.pc) n (k.count rcnt ra cnt).toNat).modCore core (fun k => k.retire 8))

def execPegPost (core : CoreId) (id : BitVec 12) (rcnt : Bool) (ra : SReg) (cnt : BitVec 16) (s : State) : Res :=
  syncOp s core (fun p k =>
    match s.pegRef p k.ctx id.toNat with
    | none => s.syncSkip core
    | some n => (s.pegPost (.kingpost core k.pc) n (k.count rcnt ra cnt).toNat).modCore core (fun k => k.retire 8))

/-- The read reaches the peg and returns its count at that moment (R218). -/
def execPegRead (core : CoreId) (rd : SReg) (id : BitVec 12) (s : State) : Res :=
  syncOp s core (fun p k =>
    match s.pegRef p k.ctx id.toNat with
    | none => s.syncSkip core
    | some n => s.startWait core
        { newWait .pegRead id n 0 with rd := rd, satisfied := true, value := (s.peg n).count.setWidth 64 })

/-- A posted advance; one to a peer module is issued and not waited for (R223). -/
def execTallyAdv (core : CoreId) (id : BitVec 12) (ra : SReg) (s : State) : Res :=
  syncOp s core (fun p k =>
    match s.tallyRef p k.ctx id.toNat with
    | none => s.syncSkip core
    | some (.local_ n) => (s.tallyAdv (.kingpost core k.pc) n (k.sreg ra)).modCore core (fun k => k.retire 8)
    | some (.remote fab n) =>
      (s.remoteWait core p 1 fab n (k.sreg ra) (newWait .tallyRead id n 0)).modCore core
        (fun k => ({ k with wait := none } : Core).retire 8))

def execTallyWait (core : CoreId) (id : BitVec 12) (ra : SReg) (s : State) : Res :=
  syncOp s core (fun p k =>
    let need := k.sreg ra
    match s.tallyRef p k.ctx id.toNat with
    | none => s.syncSkip core
    | some (.local_ n) =>
      ((s.startWait core (newWait .tallyWait id n need)).tallyAwait n
        { who := .kingpost core, kind := .tallyWait, need := need }).stepWait core
    | some (.remote fab n) => s.remoteWait core p 2 fab n need (newWait .tallyWait id n need))

def execTallyRoom (core : CoreId) (id : BitVec 12) (s : State) : Res :=
  syncOp s core (fun p k =>
    match s.tallyRef p k.ctx id.toNat with
    | none => s.syncSkip core
    | some (.local_ n) =>
      let need := (s.tally n).depth.setWidth 64
      ((s.startWait core (newWait .tallyRoom id n need)).tallyAwait n
        { who := .kingpost core, kind := .tallyRoom, need := need }).stepWait core
    | some (.remote fab n) => s.remoteWait core p 3 fab n 0 (newWait .tallyRoom id n 0))

def execTallyRead (core : CoreId) (rd : SReg) (id : BitVec 12) (s : State) : Res :=
  syncOp s core (fun p k =>
    match s.tallyRef p k.ctx id.toNat with
    | none => s.syncSkip core
    | some (.local_ n) => s.startWait core
        { newWait .tallyRead id n 0 with rd := rd, satisfied := true, value := (s.tally n).value }
    | some (.remote fab n) => s.remoteWait core p 4 fab n 0 { newWait .tallyRead id n 0 with rd := rd })

/-- An arrival already registered before a stop: the re-executed instruction waits without arriving again; where the
generation has changed meanwhile it is released (R56, R224). -/
def State.bellAgain (s : State) (c : CoreId) (id : BitVec 12) (n : Nat) (gen : BitVec 16) : State :=
  let b := s.bell n
  let w := newWait .bellArrive id n (b.count.setWidth 64)
  if b.gen ≠ gen then s.startWait c { w with gen := gen, satisfied := true }
  else
    ((s.setBell n { b with waiters := b.waiters ++
        [{ who := .kingpost c, kind := .bellArrive, need := b.count.setWidth 64 }] }).startWait c
      { w with gen := gen }).stepWait c

def execBellArrive (core : CoreId) (id : BitVec 12) (rcnt : Bool) (ra : SReg) (cnt : BitVec 16) (s : State) : Res :=
  syncOp s core (fun p k =>
    let count := (k.count rcnt ra cnt).toNat
    match s.bellRef p k.ctx id.toNat with
    | none => s.syncSkip core
    | some n =>
      match k.arrived.filter (fun a => a.1.toNat == n) with
      | some a => s.bellAgain core id n a.2
      | none =>
        if count = 0 ∨ 4096 < count then
          ((s.syncFault (.kingpost core k.pc) (s.bellOwner n) 0x12 n).modLaunch core (fun l => { l with skipped := true })).modCore
            core (fun k => k.retire 8)
        else
          ((s.startWait core
              { newWait .bellArrive id n (BitVec.ofNat 64 count) with gen := (s.bell n).gen }).bellArrive
            (.kingpost core k.pc) n count (some (.kingpost core))).stepWait core)

/-- The instruction whose request has been satisfied issues: a read writes its destination. -/
def Core.completeWait (k : Core) (w : SyncWait) : Core :=
  let k1 : Core := { k with wait := none, arrived := if w.kind = .bellArrive then none else k.arrived }
  let k2 := if w.kind = .pegRead ∨ w.kind = .tallyRead then k1.setS w.rd w.value else k1
  k2.retire 8

end Sys2Proof.Machine
end

