-- ==== Sys2Proof/Machine/Push.lean ====
section
/-! DEFINITION. The command instructions: a push captures the operands and enters the command in its engine's queue, or
stalls where the queue is full (R30, R31, R34, R57, R58). -/

namespace Sys2Proof.Machine

/-- The plane or cart a header names (R49). -/
def unitOf (h : CmdHdr) : Fin 2 := if h.unit = 0 then 0 else 1

/-- The size of a command instruction in bytes (R57). -/
def cmdSize (opc : Nat) : Nat := if opc = 0x80 ∨ opc = 0xC1 ∨ opc = 0xC2 ∨ opc = 0xD0 then 64 else 32

/-- The queue a command enters, by its opcode and header (R57). -/
def cmdUnit (opc : Nat) (h : CmdHdr) : EngineUnit :=
  if opc < 0x90 then .beam
  else if opc < 0xC0 then planeUnit (unitOf h)
  else if opc < 0xD0 then cartUnit (unitOf h)
  else .grind

/-- The tag a command carries: the LAUNCH tag where its own is 0x0000 (R34). -/
def State.cmdTag (s : State) (c : CoreId) (tag : BitVec 16) : BitVec 16 :=
  if tag = 0 then BitVec.ofNat 16 (s.launchTag c) else tag

/-- The queue of a unit has no room (R29). -/
def Core.full (k : Core) (u : EngineUnit) : Bool := decide (queueDepth u ≤ (k.queueOf u).length)

/-- Log the reserved fields that are nonzero in the values of register-form operand words (R381). -/
def State.logOperands (s : State) (c : CoreId) (x : Cmd) (tag : BitVec 16) : State :=
  let k := s.core c
  (k.reservedValues x.opc.toNat x.w).foldl (fun t v =>
    t.logAny (t.partOf c)
      { type := 0x09, reason := 0x10, core := c.val, unit := 0, ctx := k.ctx.toNat, tag := tag.toNat, d1 := k.pc.toNat,
        d2 := v.toNat }) s

/-- A command enters its queue: operands captured, tag resolved, LAST_TAG set, the next instruction follows. -/
def State.enqueue (s : State) (c : CoreId) (x : Cmd) : State :=
  let u := cmdUnit x.opc.toNat x.h
  let tag := s.cmdTag c x.h.tag
  (s.logOperands c x tag).modCore c (fun k =>
    let cmd : Cmd := { x with h := { x.h with tag := tag }, w := k.capture x.w }
    ({ k.setQueue u (k.queueOf u ++ [cmd]) with lastTag := tag, stalled := none } : Core).retire (cmdSize x.opc.toNat))

/-- A push. Where the queue is full the kingpost stalls; a stepped push that would stall does not issue (R31, R40). -/
def pushOp (s : State) (c : CoreId) (opc : BitVec 8) (h : CmdHdr) (w : List Word) : Res :=
  let k := s.core c
  let x : Cmd := { opc := opc, h := h, w := w }
  whenever k.canIssue s
    (if k.full (cmdUnit opc.toNat h) then
       s.modCore c (fun k => if k.stepping then k.stepDone 3 else { k with stalled := some x })
     else s.enqueue c x)

def execBeamMm (core : CoreId) (h : CmdHdr) (w : List Word) (s : State) : Res :=
  checked (.beamMm core h w) "BEAM_MM" (pushOp s core 0x80 h w)

def execBeamLoad (core : CoreId) (h : CmdHdr) (w : List Word) (s : State) : Res :=
  checked (.beamLoad core h w) "BEAM_LOAD" (pushOp s core 0x81 h w)

def execBeamAcc (core : CoreId) (h : CmdHdr) (w : List Word) (s : State) : Res :=
  checked (.beamAcc core h w) "BEAM_ACC" (pushOp s core 0x82 h w)

def execPlaneAdd (core : CoreId) (h : CmdHdr) (w : List Word) (s : State) : Res :=
  checked (.planeAdd core h w) "PLANE_ADD" (pushOp s core 0x90 h w)

def execPlaneSub (core : CoreId) (h : CmdHdr) (w : List Word) (s : State) : Res :=
  checked (.planeSub core h w) "PLANE_SUB" (pushOp s core 0x91 h w)

def execPlaneMul (core : CoreId) (h : CmdHdr) (w : List Word) (s : State) : Res :=
  checked (.planeMul core h w) "PLANE_MUL" (pushOp s core 0x92 h w)

def execPlaneFma (core : CoreId) (h : CmdHdr) (w : List Word) (s : State) : Res :=
  checked (.planeFma core h w) "PLANE_FMA" (pushOp s core 0x93 h w)

def execPlaneMax (core : CoreId) (h : CmdHdr) (w : List Word) (s : State) : Res :=
  checked (.planeMax core h w) "PLANE_MAX" (pushOp s core 0x94 h w)

def execPlaneMin (core : CoreId) (h : CmdHdr) (w : List Word) (s : State) : Res :=
  checked (.planeMin core h w) "PLANE_MIN" (pushOp s core 0x95 h w)

def execPlaneAbs (core : CoreId) (h : CmdHdr) (w : List Word) (s : State) : Res :=
  checked (.planeAbs core h w) "PLANE_ABS" (pushOp s core 0x96 h w)

def execPlaneNeg (core : CoreId) (h : CmdHdr) (w : List Word) (s : State) : Res :=
  checked (.planeNeg core h w) "PLANE_NEG" (pushOp s core 0x97 h w)

def execPlaneCvt (core : CoreId) (h : CmdHdr) (w : List Word) (s : State) : Res :=
  checked (.planeCvt core h w) "PLANE_CVT" (pushOp s core 0x98 h w)

def execPlaneExp (core : CoreId) (h : CmdHdr) (w : List Word) (s : State) : Res :=
  checked (.planeExp core h w) "PLANE_EXP" (pushOp s core 0x9C h w)

def execPlaneLog (core : CoreId) (h : CmdHdr) (w : List Word) (s : State) : Res :=
  checked (.planeLog core h w) "PLANE_LOG" (pushOp s core 0x9D h w)

def execPlaneRecip (core : CoreId) (h : CmdHdr) (w : List Word) (s : State) : Res :=
  checked (.planeRecip core h w) "PLANE_RECIP" (pushOp s core 0x9E h w)

def execPlaneRsqrt (core : CoreId) (h : CmdHdr) (w : List Word) (s : State) : Res :=
  checked (.planeRsqrt core h w) "PLANE_RSQRT" (pushOp s core 0x9F h w)

def execPlaneTanh (core : CoreId) (h : CmdHdr) (w : List Word) (s : State) : Res :=
  checked (.planeTanh core h w) "PLANE_TANH" (pushOp s core 0xA0 h w)

def execPlaneSigmoid (core : CoreId) (h : CmdHdr) (w : List Word) (s : State) : Res :=
  checked (.planeSigmoid core h w) "PLANE_SIGMOID" (pushOp s core 0xA1 h w)

def execPlaneRsum (core : CoreId) (h : CmdHdr) (w : List Word) (s : State) : Res :=
  checked (.planeRsum core h w) "PLANE_RSUM" (pushOp s core 0xA4 h w)

def execPlaneRmax (core : CoreId) (h : CmdHdr) (w : List Word) (s : State) : Res :=
  checked (.planeRmax core h w) "PLANE_RMAX" (pushOp s core 0xA5 h w)

def execPlaneOsm (core : CoreId) (h : CmdHdr) (w : List Word) (s : State) : Res :=
  checked (.planeOsm core h w) "PLANE_OSM" (pushOp s core 0xA8 h w)

def execPlaneLsemerge (core : CoreId) (h : CmdHdr) (w : List Word) (s : State) : Res :=
  checked (.planeLsemerge core h w) "PLANE_LSEMERGE" (pushOp s core 0xA9 h w)

def execCartCopy (core : CoreId) (h : CmdHdr) (w : List Word) (s : State) : Res :=
  checked (.cartCopy core h w) "CART_COPY" (pushOp s core 0xC0 h w)

def execCartGather (core : CoreId) (h : CmdHdr) (w : List Word) (s : State) : Res :=
  checked (.cartGather core h w) "CART_GATHER" (pushOp s core 0xC1 h w)

def execCartScatter (core : CoreId) (h : CmdHdr) (w : List Word) (s : State) : Res :=
  checked (.cartScatter core h w) "CART_SCATTER" (pushOp s core 0xC2 h w)

def execGrindJob (core : CoreId) (h : CmdHdr) (w : List Word) (s : State) : Res :=
  checked (.grindJob core h w) "GRIND_JOB" (pushOp s core 0xD0 h w)

/-- A stalled push issues once its queue has room (R31). -/
def execPushAfterStall (core : CoreId) (s : State) : Res :=
  match (s.core core).stalled with
  | none => .next s
  | some x => whenever (!(s.core core).full (cmdUnit x.opc.toNat x.h) && (s.core core).stop.isNone) s (s.enqueue core x)

end Sys2Proof.Machine
end

