-- ==== Sys2Proof/Machine/Bench.lean ====
section
/-! DEFINITION. Bench accesses of engines: packed elements, the lines of a range, slots, the schedule of a port (R64, R65, R68 to
R73, R76). -/

namespace Sys2Proof.Machine

/-- An element of `w` bits at bit offset `off` of a byte list (R76). -/
def bitsFrom (bs : List Byte) (off w : Nat) : Nat :=
  (leNat (sliceBytes bs (off / 8) ((off % 8 + w + 7) / 8)) >>> (off % 8)) % 2 ^ w

/-- Elements packed, `w` bits each, the unused high bits of the last byte zero (R124). -/
def packBits (w : Nat) (es : List Nat) : List Byte :=
  natLe ((es.length * w + 7) / 8) (es.foldr (fun e acc => e % 2 ^ w + acc * 2 ^ w) 0)

/-- The lines a range of bench bytes touches. -/
def linesOf (a len : Nat) : List Nat :=
  if len = 0 then [] else List.range' (a / 64) ((a + len - 1) / 64 - a / 64 + 1)

/-- The number of lines a range touches (R70). -/
def lineCount (a len : Nat) : Nat := (linesOf a len).length

/-- A port has a slot on the bank of every line of a range. -/
def Core.rangeSlots (k : Core) (port a len : Nat) : Bool := (linesOf a len).all (fun l => k.hasSlot port (64 * l))

/-- A range lies in the bench. -/
def inBench (a len : Nat) : Bool := decide (len = 0) || decide (a + len ≤ benchSize)

/-- An FP32 element of the bench. -/
def Core.f32 (k : Core) (a : Nat) : Nat := readLe k.bench a 4

/-- Bench bytes written. -/
def Core.store (k : Core) (a : Nat) (bs : List Byte) : Core := { k with bench := writeBytes k.bench a bs }

/-! ### The schedule of a port (R64, R65, R68 to R70) -/

/-- How many of a list of lines, in order, a port accesses in core cycle t: up to `w`, where it has the slot, one on a bank. -/
def Core.portTakes (k : Core) (port t : Nat) : Nat → List Nat → List Nat → Nat
  | 0, _, _ => 0
  | _ + 1, _, [] => 0
  | w + 1, banks, l :: r =>
    if k.slotAt (t % 16) (l % 32) == port && !banks.contains (l % 32) then k.portTakes port t w (l % 32 :: banks) r + 1 else 0

/-- The next access of a port has no slot on its bank in any slot of the rota in force (R73). -/
def Core.slotless (k : Core) (port : Nat) (line : Option Nat) : Bool :=
  match line with | some l => !k.hasSlot port (64 * l) | none => false

/-- The reads of a range for a stream: one for each line. -/
def rangeReads (stream a len : Nat) : List BenchRead :=
  (linesOf a len).map (fun l =>
    let lo := max a (64 * l)
    { line := l, takes := [(stream, lo - 64 * l, min (a + len) (64 * l + 64) - lo)] })

/-- Reads after others: a line that is read already is read once for both (R79). -/
def joinReads (xs ys : List BenchRead) : List BenchRead :=
  xs.map (fun x => { x with takes := x.takes ++ (ys.filter (fun y => y.line == x.line)).flatMap BenchRead.takes }) ++
    ys.filter (fun y => !xs.any (fun x => x.line == y.line))

/-- A read gives its streams the contents of its line at this core cycle (R68). -/
def Core.doRead (k : Core) (held : Tab (List Byte)) (r : BenchRead) : Tab (List Byte) :=
  r.takes.foldl (fun h x => tabMod (fun _ => []) x.1 (· ++ readBytes k.bench (64 * r.line + x.2.1) x.2.2) h) held

/-- The bytes held of a stream. -/
def heldOf (h : Tab (List Byte)) (stream : Nat) : List Byte := tabGet (fun _ => []) stream h

/-- What a core cycle or a run of them has done to a core whose engine works: row cycles issued, and the reason for which the
command has to end early, if it has (R73, R78). -/
structure Work where
  core : Core
  rows : Nat := 0
  stop : Option Nat := none

/-- The three bytes of a 22-bit field of a restart record (R95, R136). -/
def le3 (v : Nat) : List Byte := natLe 3 (v % 2 ^ 22)

end Sys2Proof.Machine
end

