-- ==== Sys2Proof/Machine/Beam.lean ====
section
/-! DEFINITION. The beam: beam.mm, beam.load and beam.acc, their checks, their work core cycle by core
cycle, the restart record (R76 to R98, R106, R111 to R114). -/

namespace Sys2Proof.Machine

/-- KS of a beam format (R76); none for a format the table does not list. -/
def beamKs (code : Nat) : Option Nat :=
  match code with
  | 0x3 => some 96 | 0x4 => some 96 | 0x8 => some 96 | 0x5 => some 96 | 0x6 => some 96
  | 0x7 => some 192 | 0x1 => some 48 | 0x2 => some 48 | 0xA => some 48 | _ => none

/-- Input and weight formats that may be paired (R59). -/
def beamPair (a w : Nat) : Bool :=
  a == w || ((a == 3 || a == 4) && (w == 3 || w == 4)) || ((a == 5 || a == 6) && (w == 5 || w == 6))

/-- The operands of beam.mm, or those of beam.acc in the same form (R60, R61, R86). -/
structure BeamJob where
  acc : Bool
  tag : Nat
  inBase : Nat
  wBase : Nat
  outBase : Nat
  idxBase : Nat
  gather : Bool
  m : Nat
  k : Nat
  n : Nat
  batch : Nat
  inBs : Nat
  wBs : Nat
  outBs : Nat
  inRs : Nat
  outRs : Nat
  inFmt : Nat
  wFmt : Nat
  out : Bool
  sr : Bool
  inScale : Nat
  wScale : Nat
  deriving DecidableEq, Repr

/-- The job of a command; a beam.acc works against the tile the beam holds. -/
def beamJob (t : Tile) (c : Cmd) : BeamJob :=
  if c.opc = 0x82 then
    { acc := true, tag := c.h.tag.toNat, inBase := c.f 1 21 0, wBase := t.base, outBase := c.f 1 43 22, idxBase := 0,
      gather := false, m := c.f 1 59 44, k := t.kRows, n := 128, batch := 1, inBs := 0, wBs := t.stride, outBs := 0,
      inRs := c.f 2 21 0, outRs := c.f 2 43 22, inFmt := c.f 2 47 44, wFmt := t.fmt.toNat, out := c.f 2 48 48 == 1,
      sr := c.h.mode.getLsbD 0, inScale := c.f 3 21 0, wScale := t.scaleBase }
  else
    { acc := false, tag := c.h.tag.toNat, inBase := c.f 1 21 0, wBase := c.f 1 43 22, outBase := c.f 2 21 0,
      idxBase := c.f 2 43 22, gather := c.f 2 44 44 == 1, m := c.f 3 15 0, k := c.f 3 31 16, n := c.f 3 44 32,
      batch := c.f 4 15 0, inBs := c.f 4 37 16, wBs := c.f 4 59 38, outBs := c.f 5 21 0, inRs := c.f 5 43 22,
      outRs := c.f 6 21 0, inFmt := c.f 6 25 22, wFmt := c.f 6 29 26, out := c.f 6 30 30 == 1,
      sr := c.h.mode.getLsbD 0, inScale := c.f 7 21 0, wScale := c.f 7 43 22 }

namespace BeamJob

/-- KS, segments, N tiles (R77). -/
def ks (j : BeamJob) : Nat := (beamKs j.inFmt).getD 1
def segs (j : BeamJob) : Nat := if j.acc then 1 else (j.k + j.ks - 1) / j.ks
def nt (j : BeamJob) : Nat := (j.n + 127) / 128

/-- Positions of segment s that are not padding; columns of tile n that are not (R81). -/
def kReal (j : BeamJob) (s : Nat) : Nat := min j.ks (j.k - s * j.ks)
def nReal (j : BeamJob) (n : Nat) : Nat := min 128 (j.n - 128 * n)

/-- The bytes of an input row segment, of its scale entry, of a weight row, of a weight scale row. -/
def inBytes (j : BeamJob) (s : Nat) : Nat := (j.kReal s * elemBits j.inFmt + 7) / 8
def inScaleBytes (j : BeamJob) (s : Nat) : Nat := if isMx j.inFmt then (j.kReal s + 31) / 32 else 0
def wBytes (j : BeamJob) (n : Nat) : Nat := (j.nReal n * elemBits j.wFmt + 7) / 8
def wScaleRows (j : BeamJob) (s : Nat) : Nat := if isMx j.wFmt then (j.kReal s + 31) / 32 else 0

/-- Addresses of R77. -/
def inAddr (j : BeamJob) (b s i : Nat) : Nat := j.inBase + b * j.inBs + (s * j.m + i) * j.inRs
def inScaleAddr (j : BeamJob) (b s i : Nat) : Nat := j.inScale + b * j.inBs + (s * j.m + i) * j.inRs
def wAddr (j : BeamJob) (b n k : Nat) : Nat := j.wBase + b * j.wBs + (n * (j.segs * j.ks) + k) * j.inRs
def wScaleAddr (j : BeamJob) (b n beta : Nat) : Nat :=
  j.wScale + b * j.wBs + (n * (j.segs * j.ks) / 32 + beta) * 128
def outAddr (j : BeamJob) (b i c : Nat) : Nat := j.outBase + b * j.outBs + i * j.outRs + 4 * c
def idxAddr (j : BeamJob) (b i : Nat) : Nat := j.idxBase + b * j.inBs + 4 * i

/-- A later segment, or any with OUT, accumulates (R82). -/
def accumulates (j : BeamJob) (s : Nat) : Bool := j.out || decide (s ≠ 0)

/-- The input ranges of the command that are not gathered: rows and scale entries, or the index tensor. -/
def inRanges (j : BeamJob) : List (Nat × Nat) :=
  (List.range j.batch).flatMap (fun b =>
    if j.gather then [(j.idxAddr b 0, 4 * j.m)]
    else (List.range j.segs).flatMap (fun s => (List.range j.m).flatMap (fun i =>
      [(j.inAddr b s i, j.inBytes s), (j.inScaleAddr b s i, j.inScaleBytes s)])))

/-- The ranges of one tile: rows, then scale rows. -/
def tileRanges (j : BeamJob) (b n s : Nat) : List (Nat × Nat) :=
  (List.range (j.kReal s)).map (fun r => (j.wAddr b n (s * j.ks + r), j.wBytes n)) ++
    (List.range (j.wScaleRows s)).map (fun r => (j.wScaleAddr b n (s * j.ks / 32 + r), j.nReal n))

/-- The weight ranges of the command; a beam.acc reads none. -/
def wRanges (j : BeamJob) : List (Nat × Nat) :=
  if j.acc then []
  else (List.range j.batch).flatMap (fun b => (List.range j.nt).flatMap (fun n => (List.range j.segs).flatMap (fun s =>
    j.tileRanges b n s)))

/-- The output ranges of the command. -/
def outRanges (j : BeamJob) : List (Nat × Nat) :=
  (List.range j.batch).flatMap (fun b => (List.range j.nt).flatMap (fun n => (List.range j.m).map (fun i =>
    (j.outAddr b i (128 * n), 4 * j.nReal n))))

end BeamJob

/-! ### Checks at the head (R88) -/

/-- The ranges of a beam.load: K rows of the tile, and its scale rows (R85). -/
def loadRanges (c : Cmd) : List (Nat × Nat) :=
  let fmt := c.f 1 47 44
  let rows := c.f 1 62 48
  (List.range rows).map (fun r => (c.f 1 21 0 + r * c.f 2 21 0, 128 * elemBits fmt / 8)) ++
    (if isMx fmt then (List.range ((rows + 31) / 32)).map (fun b => (c.f 1 43 22 + 128 * b, 128)) else [])

/-- The first failing check of a beam.load. -/
def checkBeamLoad (k : Core) (c : Cmd) : Option Nat :=
  let fmt := c.f 1 47 44
  let rows := c.f 1 62 48
  match beamKs fmt with
  | none => some 0x06
  | some ks =>
    if fmt = 0xA then some 0x06
    else if rows = 0 ∨ ks < rows then some 0x05
    else if (loadRanges c).any (fun r => !inBench r.1 r.2) then some 0x02
    else if c.f 1 21 0 % 64 ≠ 0 ∨ c.f 2 21 0 % 64 ≠ 0 ∨ (isMx fmt ∧ c.f 1 43 22 % 64 ≠ 0) then some 0x03
    else if (loadRanges c).any (fun r => !k.rangeSlots pBeamWt r.1 r.2) then some 0x04
    else none

/-- The first failing check of a beam.mm or beam.acc. -/
def checkBeamJob (k : Core) (j : BeamJob) : Option Nat :=
  if (beamKs j.inFmt).isNone then some 0x06
  else if !j.acc && (beamKs j.wFmt).isNone then some 0x06
  else if j.acc && j.inFmt == 0xA then some 0x06
  else if !(j.acc && j.k == 0) && !beamPair j.inFmt j.wFmt then some 0x06
  else if j.m = 0 ∨ j.k = 0 ∨ j.n = 0 ∨ 4096 < j.n ∨ j.batch = 0 then some 0x05
  else if j.sr && !isMx j.inFmt then some 0x0F
  else if (j.inRanges ++ j.wRanges ++ j.outRanges).any (fun r => !inBench r.1 r.2) then some 0x02
  else if j.inRanges.any (fun r => !k.rangeSlots pBeamIn r.1 r.2) ||
      j.wRanges.any (fun r => !k.rangeSlots pBeamWt r.1 r.2) ||
      j.outRanges.any (fun r => !k.rangeSlots pAccWr r.1 r.2 ||
        ((j.out || decide (1 < j.segs)) && !k.rangeSlots pAccRd r.1 r.2)) then some 0x04
  else none

/-- The check of a beam command at the head of its queue. -/
def checkBeam (k : Core) (c : Cmd) : Option Nat :=
  if c.opc = 0x81 then checkBeamLoad k c else checkBeamJob k (beamJob k.tile c)

/-! ### Tiles (R84, R85) -/

/-- The bytes of a tile in the beam: rows and scale rows. -/
structure TileBytes where
  rows : List (List Byte)
  scales : List (List Byte)

/-- The stream of a scale row of a tile; a data row's stream is its number. -/
def scaleStream (r : Nat) : Nat := 1000 + r

/-- The reads of a tile: data rows, then scale rows. -/
def tileReads (rows scales : List (Nat × Nat)) : List BenchRead :=
  (rows.zipIdx.flatMap (fun x => rangeReads x.2 x.1.1 x.1.2)) ++
    scales.zipIdx.flatMap (fun x => rangeReads (scaleStream x.2) x.1.1 x.1.2)

/-- The pass of a number: b, n, s (R80). -/
def BeamJob.passAt (j : BeamJob) (p : Nat) : Nat × Nat × Nat := (p / (j.nt * j.segs), p / j.segs % j.nt, p % j.segs)

/-- The tile of a pass of beam.mm, to be loaded. -/
def BeamJob.load (j : BeamJob) (p : Nat) : TileLoad :=
  let (b, n, s) := j.passAt p
  { pass := p
    reads := tileReads ((List.range (j.kReal s)).map (fun r => (j.wAddr b n (s * j.ks + r), j.wBytes n)))
      ((List.range (j.wScaleRows s)).map (fun r => (j.wScaleAddr b n (s * j.ks / 32 + r), j.nReal n))) }

/-- Rows and scale rows of a tile of 128 columns in the bench (R85). -/
def tileRows (base stride rows fmt : Nat) : List (Nat × Nat) :=
  (List.range rows).map (fun r => (base + r * stride, 128 * elemBits fmt / 8))
def tileScales (base rows fmt : Nat) : List (Nat × Nat) :=
  if isMx fmt then (List.range ((rows + 31) / 32)).map (fun b => (base + 128 * b, 128)) else []

/-- The tile the beam holds, as loaded. -/
def Tile.ready (t : Tile) : TileLoad :=
  let len := 128 * elemBits t.fmt.toNat / 8
  let rows := (List.range t.kRows).foldl (fun h r => tabSet (fun _ => []) r (sliceBytes t.data (r * len) len) h) []
  { pass := 0
    held := (List.range ((t.kRows + 31) / 32)).foldl (fun h r =>
      tabSet (fun _ => []) (scaleStream r) (sliceBytes t.scales (128 * r) 128) h) rows }

/-- The same tile, to be read from the bench again (R96). -/
def Tile.reload (t : Tile) : TileLoad :=
  { pass := 0
    reads := tileReads (tileRows t.base t.stride t.kRows t.fmt.toNat) (tileScales t.scaleBase t.kRows t.fmt.toNat) }

/-- The tile of a beam.load (R85). -/
def loadOf (c : Cmd) : TileLoad :=
  { pass := 0
    reads := tileReads (tileRows (c.f 1 21 0) (c.f 2 21 0) (c.f 1 62 48) (c.f 1 47 44))
      (tileScales (c.f 1 43 22) (c.f 1 62 48) (c.f 1 47 44)) }

/-- The bytes read, in row order. -/
def TileLoad.bytes (l : TileLoad) (rows : Nat) : TileBytes :=
  { rows := (List.range rows).map (heldOf l.held), scales := (List.range ((rows + 31) / 32)).map (fun r => heldOf l.held (scaleStream r)) }

/-- A tile with what has been read of it. -/
def Tile.filled (t : Tile) (l : TileLoad) : Tile :=
  let b := l.bytes t.kRows
  { t with data := b.rows.flatten, scales := if isMx t.fmt.toNat then b.scales.flatten else [] }

/-- The tile of a beam.load, with what has been read of it. -/
def loadedTile (c : Cmd) (l : TileLoad) : Tile :=
  ({ kRows := c.f 1 62 48, fmt := BitVec.ofNat 4 (c.f 1 47 44), base := c.f 1 21 0, scaleBase := c.f 1 43 22,
     stride := c.f 2 21 0 } : Tile).filled l

/-! ### Rows (R78 to R81) -/

/-- What an output row multiplies: its bytes and scale bytes, or a zero row. -/
inductive RowIn where
  | data (bs : List Byte) (scale : List Byte)
  | zero

/-- The streams of BEAM_IN: row, scale entry, index tensor. -/
def sRow : Nat := 0
def sScale : Nat := 1
def sIndex : Nat := 2

/-- Where row i of a pass lies: the addresses of its bytes and of its scale entry; none for a zero row; or the stop of an index
entry out of range. `x` is its index entry. -/
def BeamJob.rowAddr (j : BeamJob) (p i x : Nat) : Except Nat (Option (Nat × Nat)) :=
  let (b, _, s) := j.passAt p
  if !j.gather then .ok (some (j.inAddr b s i, j.inScaleAddr b s i))
  else if x = 0xFFFFFFFF then .ok none
  else
    let row := j.inBase + x * j.inRs
    let sc := j.inScale + x * j.inRs
    if !inBench row ((j.k * elemBits j.inFmt + 7) / 8) || (isMx j.inFmt && !inBench sc (8 * j.segs)) then .error 0x07
    else .ok (some (row + s * j.ks * elemBits j.inFmt / 8, sc + 8 * s))

/-- The reads of a row at an address: its lines, and those of its scale entry that do not hold bytes of it. -/
def BeamJob.rowReads (j : BeamJob) (p : Nat) (a : Nat × Nat) : List BenchRead :=
  let s := (j.passAt p).2.2
  joinReads (rangeReads sRow a.1 (j.inBytes s)) (rangeReads sScale a.2 (j.inScaleBytes s))

/-- The products of column c of a pass (R111, R112). -/
def columnProducts (j : BeamJob) (t : TileBytes) (row : RowIn) (s c : Nat) : List (FV × BitVec 6) :=
  match row with
  | .data bs sc => (List.range (j.kReal s)).flatMap (fun r =>
      let a := valueOf j.inFmt (bitsFrom bs (elemBits j.inFmt * r) (elemBits j.inFmt))
      let w := valueOf j.wFmt (bitsFrom (t.rows[r]?.getD []) (elemBits j.wFmt * c) (elemBits j.wFmt))
      if j.inFmt = 0xA then prodSplit a w
      else
        let sa := if isMx j.inFmt then scaleValue ((sc[r / 32]?.getD 0).toNat) else .fin false 1 0
        let sw := if isMx j.wFmt then scaleValue (((t.scales[r / 32]?.getD [])[c]?.getD 0).toNat) else .fin false 1 0
        [prodScaled a sa w sw])
  | _ => []

/-- The rounding of index `idx` of a pass (R106). -/
def BeamJob.rnd (j : BeamJob) (b n s idx : Nat) : Rnd :=
  if j.sr then .sr (rand16 (beamSeed j.tag b n s) idx) else .rne

/-- The segment sum of a column, rounded, with its flags. -/
def BeamJob.segOf (j : BeamJob) (t : TileBytes) (row : RowIn) (p i c : Nat) : Nat × BitVec 6 :=
  let (b, n, s) := j.passAt p
  let sum := segSum (columnProducts j t row s c)
  let seg := fFP32.round (j.rnd b n s (2 * (128 * i + c))) false false sum.1
  (seg.1, sum.2 ||| seg.2)

/-! ### Output rows (R71, R80, R82, R89) -/

/-- The pass and row of an issued row, and whether it accumulates. -/
def BeamJob.rowPass (j : BeamJob) (r : RowOut) : Nat := r.idx / j.m
def BeamJob.rowAccs (j : BeamJob) (r : RowOut) : Bool := j.accumulates (j.passAt (j.rowPass r)).2.2

/-- The lines of an output row, ascending. -/
def RowOut.lines (r : RowOut) : List Nat := linesOf r.addr (4 * r.segs.length)

/-- The lines that the elements of a row which touch line l lie in. -/
def RowOut.partners (r : RowOut) (l : Nat) : List Nat :=
  ((List.range r.segs.length).flatMap (fun c => let ls := linesOf (r.addr + 4 * c) 4; if ls.contains l then ls else [])).eraseDups

/-- A byte of a line that the accumulation of a row has read. -/
def RowOut.old (r : RowOut) (a : Nat) : Byte :=
  match r.got.find? (fun g => g.1 == a / 64) with | some g => (g.2.2[a % 64]?).getD 0 | none => 0

/-- Element c of a row as it is written: the segment sum, or its sum with the element's four bytes as read. -/
def BeamJob.outOf (j : BeamJob) (r : RowOut) (c : Nat) : Nat × BitVec 6 :=
  let seg := (r.segs[c]?).getD (0, 0)
  if !j.rowAccs r then seg
  else
    let (b, n, s) := j.passAt (j.rowPass r)
    let a := r.addr + 4 * c
    let o := (fFP32.value (leNat ((List.range 4).map (fun i => r.old (a + i))))).add (fFP32.value seg.1)
    let v := fFP32.round (j.rnd b n s (2 * (128 * (r.idx % j.m) + c) + 1)) false false o.1
    (v.1, seg.2 ||| o.2 ||| v.2)

/-- Write one line of a row: its bytes, and the flags of the elements that end in it. -/
def BeamJob.writeRow (j : BeamJob) (k : Core) (r : RowOut) (l : Nat) : Core :=
  let es := (List.range r.segs.length).filter (fun c => (linesOf (r.addr + 4 * c) 4).contains l)
  let os := es.map (fun c => (c, j.outOf r c))
  let cells := os.flatMap (fun x => (natLe 4 x.2.1).zipIdx.map (fun y => (r.addr + 4 * x.1 + y.2, y.1)))
  let fl := (os.filter (fun x => (r.addr + 4 * x.1 + 3) / 64 == l)).foldl (fun f x => f ||| x.2.2) (0 : BitVec 6)
  let k1 : Core := { k with bench := (cells.filter (fun y => y.1 / 64 == l)).foldl (fun m y => tabSet zeroByte y.1 y.2 m) k.bench }
  k1.modEng .beam (fun e => { e with lines := e.lines + 1, flags := e.flags ||| fl })

/-- The next line write: the first row with lines unwritten, and the line. -/
def nextWrite (rows : List RowOut) : Option (RowOut × Nat) :=
  match rows with | [] => none | r :: _ => (r.lines[r.wrote]?).map (fun l => (r, l))

/-- The next accumulate read: the first accumulating row with lines unread, the line, and the rows before it. -/
def BeamJob.nextRead (j : BeamJob) : List RowOut → List RowOut → Option (RowOut × Nat × List RowOut)
  | _, [] => none
  | before, r :: rest =>
    match (if j.rowAccs r then r.lines[r.got.length]? else none) with
    | some l => some (r, l, before)
    | none => j.nextRead (before ++ [r]) rest

/-- A line write may go in core cycle t: the row is available, or what it adds to has been read 4 core cycles before. -/
def BeamJob.mayWrite (j : BeamJob) (t : Nat) (r : RowOut) (l : Nat) : Bool :=
  if !j.rowAccs r then decide (r.ready ≤ t)
  else (r.partners l).all (fun m => r.got.any (fun g => g.1 == m && decide (g.2.1 + 4 ≤ t)))

/-- Line writes of ACC_WR in core cycle t, at most `w`. -/
def BeamJob.writes (j : BeamJob) (t : Nat) : Nat → List Nat → Core → Core
  | 0, _, k => k
  | w + 1, banks, k =>
    match nextWrite (k.engOf .beam).flow.rows with
    | none => k
    | some (r, l) =>
      if j.mayWrite t r l && k.portTakes pAccWr t 1 banks [l] == 1 then
        let done := r.wrote + 1 == r.lines.length
        let k1 := (j.writeRow k r l).modEng .beam (fun e => { e with flow := { e.flow with
          rows := if done then e.flow.rows.drop 1 else { r with wrote := r.wrote + 1 } :: e.flow.rows.drop 1 } })
        j.writes t w (l % 32 :: banks) k1
      else k

/-- Accumulate reads of ACC_RD in core cycle t, at most `w`: a line that an earlier row has still to write waits (R71). -/
def BeamJob.accReads (j : BeamJob) (t : Nat) : Nat → List Nat → Core → Core
  | 0, _, k => k
  | w + 1, banks, k =>
    match j.nextRead [] (k.engOf .beam).flow.rows with
    | none => k
    | some (r, l, before) =>
      if decide (r.ready ≤ t) && !before.any (fun b => (b.lines.drop b.wrote).contains l) &&
          k.portTakes pAccRd t 1 banks [l] == 1 then
        let got := r.got ++ [(l, t, readBytes k.bench (64 * l) 64)]
        let k1 := k.modEng .beam (fun e => { e with flow := { e.flow with
          rows := e.flow.rows.map (fun x => if x.idx = r.idx then { x with got := got } else x) } })
        j.accReads t w (l % 32 :: banks) k1
      else k

/-! ### Input rows and tiles (R78, R84, R90) -/

/-- The tile of pass p in hand, complete before core cycle t. -/
def Flow.tileOf (f : Flow) (p t : Nat) : Option TileLoad :=
  match f.tile with
  | some l => if l.pass = p ∧ l.reads = [] ∧ l.doneAt ≤ t then some l else none
  | none => none

/-- Generate the reads of row `i`: of its index line first, where its entry has not been read (DESIGN CHOICE, log entry 105); then
its own. -/
def BeamJob.askRow (j : BeamJob) (k : Core) (i : Nat) : Work :=
  let f := (k.engOf .beam).flow
  let p := i / j.m
  let r := i % j.m
  let b := (j.passAt p).1
  let idx := if r = 0 ∧ f.reads = none then [] else heldOf f.held sIndex
  let put := fun (rs : List BenchRead) (named : Bool) (held : Tab (List Byte)) =>
    k.modEng .beam (fun e => { e with flow := { f with reads := some rs, named := named, held := held } })
  if j.gather ∧ idx.length < 4 then
    let a := j.idxAddr b r + idx.length
    let n := min (64 - a % 64) (4 * j.m - 4 * r - idx.length)
    { core := put (rangeReads sIndex a n) false (tabSet (fun _ => []) sIndex idx f.held) }
  else
    match j.rowAddr p r (leNat (idx.take 4)) with
    | .error e => { core := k, stop := some e }
    | .ok none => { core := put [] true f.held }
    | .ok (some a) => { core := put (j.rowReads p a) true f.held }

/-- A row cycle of row `i`; the row issues with its last. -/
def BeamJob.rowCycle (j : BeamJob) (k : Core) (l : TileLoad) (i t : Nat) : Core :=
  let f := (k.engOf .beam).flow
  let p := i / j.m
  let r := i % j.m
  let (b, n, s) := j.passAt p
  let first := f.terms = 0 ∧ (r = 0 ∨ f.ahead.isNone)
  let ahead := if first ∧ p + 1 < j.batch * j.nt * j.segs ∧ !j.acc then some (j.load (p + 1)) else f.ahead
  if j.inFmt = 0xA ∧ f.terms < 2 then
    k.modEng .beam (fun e => { e with flow := { f with terms := f.terms + 1, issuedAt := t + 1, ahead := ahead } })
  else
    let zero := j.gather && leNat ((heldOf f.held sIndex).take 4) == 0xFFFFFFFF
    let row := if zero then RowIn.zero else .data (heldOf f.held sRow) (heldOf f.held sScale)
    let tb := l.bytes (j.kReal s)
    let out : RowOut :=
      { idx := i, addr := j.outAddr b r (128 * n), segs := (List.range (j.nReal n)).map (j.segOf tb row p r), ready := t + 8 }
    let held := if j.gather then tabSet (fun _ => []) sIndex ((heldOf f.held sIndex).drop 4) [] else []
    k.modEng .beam (fun e => { e with
      done := i + 1
      flow := { f with reads := none, named := false, held := held, rows := f.rows ++ [out], issuedAt := t + 1, terms := 0,
                       ahead := ahead } })

/-- BEAM_IN and the row cycle of core cycle t: reads of the next row, at most `w`, and its row cycle where its tile is complete
and the duty permits. `n` bounds the alternation of both. -/
def BeamJob.inputs (j : BeamJob) (t duty lim : Nat) : Nat → Nat → List Nat → Work → Work
  | 0, _, _, wk => wk
  | n + 1, w, banks, wk =>
    let k := wk.core
    let e := k.engOf .beam
    let f := e.flow
    if lim ≤ e.done ∨ wk.stop.isSome then wk
    else
      match f.reads with
      | none => let v := j.askRow k e.done; j.inputs t duty lim n w banks { v with rows := wk.rows }
      | some [] =>
        if !f.named then let v := j.askRow k e.done; j.inputs t duty lim n w banks { v with rows := wk.rows }
        else
          let p := e.done / j.m
          let f1 : Flow := match f.ahead with
            | some a => if a.pass == p && (match f.tile with | some l => l.pass != p | none => true) then
                { f with tile := some a, ahead := none } else f
            | none => f
          let k1 := k.modEng .beam (fun e => { e with flow := f1 })
          match f1.tileOf p t with
          | some l =>
            if f.issuedAt ≤ t ∧ t % 64 < duty then
              j.inputs t duty lim n w banks { core := j.rowCycle k1 l e.done t, rows := wk.rows + 1 }
            else { wk with core := k1 }
          | none => { wk with core := k1 }
      | some (r :: rs) =>
        if w ≠ 0 ∧ k.portTakes pBeamIn t 1 banks [r.line] = 1 then
          j.inputs t duty lim n (w - 1) (r.line % 32 :: banks) { wk with
            core := k.modEng .beam (fun e => { e with flow := { f with reads := some rs, held := k.doRead f.held r } }) }
        else wk

/-- Reads of a tile in core cycle t, at most two. -/
def TileLoad.step (l : TileLoad) (k : Core) (t : Nat) : TileLoad :=
  let n := k.portTakes pBeamWt t 2 [] (l.reads.map BenchRead.line)
  if n = 0 then l
  else { l with reads := l.reads.drop n, held := (l.reads.take n).foldl k.doRead l.held, doneAt := t + 1 }

/-- BEAM_WT in core cycle t: the tile in hand, or else the one ahead. -/
def Core.weights (k : Core) (t : Nat) : Core :=
  let f := (k.engOf .beam).flow
  match f.tile with
  | some l =>
    if l.reads ≠ [] then k.modEng .beam (fun e => { e with flow := { f with tile := some (l.step k t) } })
    else k.modEng .beam (fun e => { e with flow := { f with ahead := f.ahead.map (fun a => a.step k t) } })
  | none => k

/-! ### A core cycle of the beam (R69, R73, R90, R94) -/

/-- The next read of BEAM_WT. -/
def Flow.nextWeight (f : Flow) : Option Nat :=
  match f.tile with
  | some l => if l.reads ≠ [] then l.reads.head?.map BenchRead.line else (f.ahead.bind (fun a => a.reads.head?)).map BenchRead.line
  | none => none

/-- The next access of some port has no slot. -/
def BeamJob.blocked (j : BeamJob) (k : Core) : Bool :=
  let f := (k.engOf .beam).flow
  k.slotless pAccWr ((nextWrite f.rows).map Prod.snd) || k.slotless pAccRd ((j.nextRead [] f.rows).map (fun x => x.2.1)) ||
    k.slotless pBeamIn ((f.reads.bind List.head?).map BenchRead.line) || k.slotless pBeamWt f.nextWeight

/-- Rows of a beam command; a beam.load counts as one. -/
def beamUnits (k : Core) (c : Cmd) : Nat :=
  if c.opc = 0x81 then 1 else let j := beamJob k.tile c; j.batch * j.nt * j.segs * j.m

/-- One core cycle of a beam.load: the tile is held once all of it has been read. -/
def beamLoadCycle (k : Core) (c : Cmd) (t : Nat) : Work :=
  let f := (k.engOf .beam).flow
  match f.tile with
  | none => { core := k }
  | some l =>
    if k.slotless pBeamWt (l.reads.head?.map BenchRead.line) then { core := k, stop := some 0x04 }
    else
      let l1 := l.step k t
      let k1 := k.modEng .beam (fun e => { e with
        lines := e.lines + (l.reads.length - l1.reads.length), flow := { f with tile := some l1 } })
      if l1.reads = [] then { core := ({ k1 with tile := loadedTile c l1 } : Core).modEng .beam (fun e => { e with done := 1 }) }
      else { core := k1 }

/-- One core cycle t of a beam command under a duty; no row from `lim` on issues. -/
def beamCycle (k : Core) (c : Cmd) (t duty lim : Nat) : Work :=
  if c.opc = 0x81 then (if lim = 0 then { core := k } else beamLoadCycle k c t)
  else
    let j := beamJob k.tile c
    -- DESIGN CHOICE (log entry 102): a beam.acc whose reload stops leaves the empty tile.
    if j.blocked k then
      { core := if j.acc && (match (k.engOf .beam).flow.tile with | some l => l.reads != [] | none => false)
          then { k with tile := {} } else k
        stop := some 0x04 }
    else
      let w := j.inputs t duty lim 12 2 [] { core := j.accReads t 8 [] (j.writes t 8 [] k) }
      let k1 := w.core.weights t
      -- A beam.acc that has reloaded its tile holds it as read.
      let k2 := match (k1.engOf .beam).flow.tile with
        | some l => if j.acc && l.reads == [] && l.doneAt == t + 1 then { k1 with tile := k1.tile.filled l } else k1
        | none => k1
      { w with core := k2 }

/-- Every row up to `lim` has issued and every write is made. -/
def beamDrained (k : Core) (lim : Nat) : Bool :=
  let e := k.engOf .beam
  decide (lim ≤ e.done) && e.flow.rows.isEmpty

/-- The beam takes up a command at its present row: the tile of its pass has to be loaded; a beam.acc that starts uses the tile
held, one that resumes reads it again (R84, R86, R96). -/
def beamFlow (k : Core) (c : Cmd) (resumed : Bool) : Flow :=
  if c.opc = 0x81 then { tile := some (loadOf c) }
  else if c.opc = 0x82 then { tile := some (if resumed then k.tile.reload else k.tile.ready) }
  else
    let j := beamJob k.tile c
    { tile := some (j.load ((k.engOf .beam).done / j.m)) }

/-- The beam's work starts. A beam.mm that has passed its check leaves the empty tile; a beam.load drops the tile held (R87). -/
def beamStarted (k : Core) (c : Cmd) : Core :=
  let k1 : Core := if c.opc = 0x82 then k else { k with tile := {} }
  k1.modEng .beam (fun e => { e with flow := beamFlow k c false })

/-- A row before which the beam may stop: the first of a block of 64 rows of a pass (R94). -/
def beamBoundary (k : Core) (c : Cmd) (i : Nat) : Bool :=
  if c.opc = 0x81 then false else i % (beamJob k.tile c).m % 64 == 0

/-! ### The restart record (R95, R96) -/

/-- The record of a command stopped before row `u`. -/
def beamRecord (k : Core) (c : Cmd) (u : Nat) : List Byte :=
  let j := beamJob k.tile c
  let (b, n, s) := j.passAt (u / j.m)
  let blk := u % j.m / 64
  natLe 2 j.tag ++ natLe 1 c.opc.toNat ++
    natLe 1 (boolNat j.gather + 2 * boolNat j.out + 4 * boolNat j.sr + 8 * boolNat c.h.postEn) ++
    natLe 2 c.h.postPeg.toNat ++ natLe 1 (j.inFmt + 16 * j.wFmt) ++ natLe 1 0 ++ natLe 2 j.m ++ natLe 2 j.k ++
    natLe 2 j.n ++ natLe 2 j.batch ++ natLe 2 b ++ natLe 1 n ++ natLe 1 0 ++ natLe 2 s ++ natLe 2 blk ++
    le3 j.inBase ++ le3 j.wBase ++ le3 j.outBase ++ le3 j.idxBase ++ le3 j.inBs ++ le3 j.wBs ++ le3 j.outBs ++
    le3 j.inRs ++ le3 j.outRs ++ le3 j.inScale ++ le3 j.wScale ++ natLe 7 0

/-- The record of an idle beam: KIND 0x81 with a tile, 0x00 with the empty tile. -/
def idleBeamRecord (t : Tile) : List Byte :=
  if t.kRows = 0 then natLe 64 0
  else
    natLe 2 0 ++ natLe 1 0x81 ++ natLe 3 0 ++ natLe 1 (16 * t.fmt.toNat) ++ natLe 3 0 ++ natLe 2 t.kRows ++ natLe 15 0 ++
      le3 t.base ++ natLe 9 0 ++ le3 t.stride ++ natLe 12 0 ++ le3 t.scaleBase ++ natLe 7 0

/-- Reload the tile the beam holds from the bench; the empty tile where BEAM_WT has no slot on a line of it (R96). The
second component tells that the reload stopped. -/
def reloadTile (k : Core) : Core × Bool :=
  let t := k.tile
  if t.kRows = 0 then (k, false)
  else
    let l := t.reload
    if l.reads.any (fun r => !k.hasSlot pBeamWt (64 * r.line)) then ({ k with tile := {} }, true)
    else ({ k with tile := t.filled { l with held := l.reads.foldl k.doRead [] } }, false)

end Sys2Proof.Machine
end

