-- ==== Sys2Proof/Machine/RegWrite.lean ====
section
/-! DEFINITION. Writes through BAR0: access codes, refusals, logging, the view of a virtual function, the phases of
bring-up (R6, R8, R364, R372 to R374). -/

namespace Sys2Proof.Machine

/-! ### The part of a register a write reaches (R373) -/

/-- The bits an access covers. -/
def accMask : Acc → Word
  | .full => 0xFFFFFFFFFFFFFFFF#64 | .lo => 0x00000000FFFFFFFF#64 | .hi => 0xFFFFFFFF00000000#64

/-- The written value in its place in the register; a 4-byte write carries it in its low half. -/
def accWord : Acc → Word → Word
  | .full, v => v
  | .lo, v => v &&& 0x00000000FFFFFFFF#64
  | .hi, v => v <<< 32

/-- The bits of a field. -/
def Field.mask (f : Field) : Word := setBits 0 f.hi f.lo (2 ^ 64 - 1)

/-- A function may write a field with this code. -/
def Field.writable (f : Field) : Bool := decide (f.access ≠ .ro) && decide (f.access ≠ .rc)

/-- An access covers some bit of a field. -/
def Field.touched (f : Field) (a : Acc) : Bool := decide (f.mask &&& accMask a ≠ 0)

/-- What a write does to the bits of one field of a word (R6). -/
def Field.apply (f : Field) (x m : Word) (w : Word) : Word :=
  let fm := f.mask &&& m
  match f.access with
  | .rw => (w &&& ~~~fm) ||| (x &&& fm)
  | .w1c => w &&& ~~~(x &&& fm)
  | .w1s => w ||| (x &&& fm)
  | .ro => w
  | .wo => w
  | .rc => w

/-- The word after a write, where the fields for which `no` holds are refused. -/
def mergeWrite (fs : List Field) (old : Word) (a : Acc) (v : Word) (no : Field → Bool) : Word :=
  (fs.filter (fun f => f.writable && !no f)).foldl (fun w f => f.apply (accWord a v) (accMask a) w) old

/-- The bits no field names. -/
def reservedBits (fs : List Field) : Word := ~~~(fs.foldl (fun m f => m ||| f.mask) 0)

/-- The log entries of a write: a nonzero reserved field, a register without a field to write, a refused field. -/
def State.noteWrite (s : State) (fn : FnId) (logOff : Nat) (fs : List Field) (a : Acc) (v : Word) (no : Field → Bool) :
    State :=
  let s1 := if accWord a v &&& reservedBits fs ≠ 0 then s.logAccess logOff fn 0 v else s
  if !fs.any Field.writable || fs.any (fun f => f.writable && f.touched a && no f) then s1.logAccess logOff fn 1 v else s1

/-! ### Function views (R374) -/

/-- The windows of the VF of a partition: VF offset, size, PF0 offset. -/
def State.vfWindows (s : State) (p : PartId) : List (Nat × Nat × Nat) := [
  (0x00000, 0x10000, 0x00000), (0x10000, 0x800, oPT p 0), (0x11000, 0x1000, oJT p 0), (0x12000, 0x100, oWM p 0),
  (0x14000, 0x4000, oPFL_PTR p), (0x18000, 0x100, oTMP p 0), (0x20000, 0x20000, 0x580000),
  (0x40000, min 0x20000 (8 * s.cfg (oPT_PEGS p) 32 16), oPEG (s.cfg (oPT_PEGS p) 15 0)),
  (0x60000, min 0x10000 (16 * s.cfg (oPT_TALLIES p) 30 16), oTALLY_VAL (s.cfg (oPT_TALLIES p) 13 0)),
  (0x70000, min 0x8000 (8 * s.cfg (oPT_BELLS p) 28 16), oBELL (s.cfg (oPT_BELLS p) 11 0)),
  (0x80000, 0x80000, 0x100000)]

/-- The partition a virtual function serves (R254); none for PF0. -/
def fnPart (fn : FnId) : Option PartId := if h : fn.val = 0 then none else some ⟨fn.val - 1, by omega⟩

/-- A VF sees a PF0 offset inside its windows: of the core blocks only its partition's cores, of the ring table only its
partition's rings, of the first window only identity, FLUSH and NUDGE. -/
def State.vfSees (s : State) (p : PartId) (o : Nat) : Bool :=
  if o < 0x10000 then decide (o < 0x30) || o == oFLUSH || o == oNUDGE
  else if 0x580000 ≤ o ∧ o < 0x5A0000 then (s.coreList p).any (fun c => c.val == (o - 0x580000) / 0x400)
  else if 0x100000 ≤ o ∧ o < 0x180000 then decide (s.partOfRing ⟨(o - 0x100000) / 64 % 8192, by omega⟩ = some p)
  else true

/-- The PF0 offset an offset of a function's BAR0 shows; none outside its view. -/
def State.viewed (s : State) (fn : FnId) (o : Nat) : Option Nat :=
  match fnPart fn with
  | none => some o
  | some p =>
    ((s.vfWindows p).find? (fun w => decide (w.1 ≤ o) && decide (o < w.1 + w.2.1))).bind (fun w =>
      let t := w.2.2 + (o - w.1)
      if s.vfSees p t then some t else none)

/-- The offset of a function's BAR0 that shows a PF0 offset; none where its view does not hold it. -/
def State.viewOf (s : State) (fn : FnId) (o : Nat) : Option Nat :=
  match fnPart fn with
  | none => some o
  | some p =>
    if !s.vfSees p o then none
    else
      ((s.vfWindows p).find? (fun w => decide (w.2.2 ≤ o) && decide (o < w.2.2 + w.2.1))).map
        (fun w => w.1 + (o - w.2.2))

/-! ### A write arrives at BAR0 -/

/-- The write of a function has taken effect: it counts in FLUSH.WRITES (R256). -/
def State.countWrite (s : State) (fn : FnId) : State :=
  { s with flushCount := tabMod (fun _ => 0) fn.val (· + 1) s.flushCount }

/-- Count an access that is not served before READY (R358, R364). -/
def State.ignored (s : State) : State := s.satFld oBOOT_STAT 31 16 1

/-- A write to a register at a PF0 offset: not served before READY beyond the first 192 KiB, refused and logged outside
the function's view, else `f`, with the offset to log. -/
def bar0Write (s : State) (fn : FnId) (o : Nat) (v : Word) (f : Nat → State) : Res :=
  whenever s.power.configReady s
    (if !s.ready && decide (0x30000 ≤ o) then s.ignored
     else
       match s.viewOf fn o with
       | none => s.logAccess o fn 3 v
       | some l => (f l).countWrite fn)

/-- A write of a register whose contents are its word: merged, logged, stored. -/
def State.wordWrite (s : State) (fn : FnId) (logOff o : Nat) (fs : List Field) (a : Acc) (v : Word) (no : Field → Bool) :
    State :=
  let t := (s.noteWrite fn logOff fs a v no).setReg o (mergeWrite fs (s.reg o) a v no)
  if isTable o then { t with writers := tabSet (fun _ => 0) o (fn.val + 1) t.writers } else t

/-- The fields of the register at an offset. -/
def fieldsAt (o : Nat) : List Field := match regAt o with | some r => r.fields | none => []

/-- A write that a rule refuses whole: ignored and logged. -/
def State.refuseWrite (s : State) (fn : FnId) (logOff : Nat) (v : Word) : State := s.logAccess logOff fn 1 v

/-- No field is refused. -/
def noField : Field → Bool := fun _ => false

/-- The field whose low bit is `lo`, where `b` holds. -/
def fieldIf (b : Bool) (los : List Nat) : Field → Bool := fun f => b && los.contains f.lo
end Sys2Proof.Machine
end

