-- ==== Sys2Proof/Machine/Channel.lean ====
section
/-! DEFINITION. Memory controllers: line protection, sparing, arrival and service of requests, refresh, self-refresh, the
tithe slot, channel registers (R199 to R214, R327). -/

namespace Sys2Proof.Machine

/-! ### Line protection (R200, R201) -/

/-- The mark of a line that answers UE until it is rewritten in full (R201, R327). -/
def ueMark : Nat := 100

/-- Erroneous symbols stored in a line. -/
def State.errorsIn (s : State) (line : Nat) : Nat := tabGet (fun _ => 0) line s.lineErr

/-- Set what a line holds of errors. -/
def State.setErrors (s : State) (line n : Nat) : State := { s with lineErr := tabSet (fun _ => 0) line n s.lineErr }

/-- Errors that lines have acquired: they add to those stored, and a marked line stays marked. -/
def State.acquire (s : State) (errs : LineErrors) : State :=
  errs.foldl (fun t e => if t.errorsIn (e.1 / 64) = ueMark then t
    else t.setErrors (e.1 / 64) (min 64 (t.errorsIn (e.1 / 64) + e.2))) s

/-- What a read of a line gives: uncorrectable or not, the number of erroneous symbols where the decoder determines it, its
bytes, whether it counts as corrected. -/
structure LineRead where
  ue : Bool := false
  detail : Nat := 0
  bytes : List Byte
  corrected : Bool := false

/-- 64 free bytes. -/
def State.freshLine (s : State) : List Byte × State :=
  (List.range 8).foldl (fun r _ => let (w, t) := r.2.fresh; (r.1 ++ natLe 8 w.toNat, t)) ([], s)

/-- Read a line through the code, without counting. With 7 or more erroneous symbols the outcome is open: reported,
miscorrected, or returned as it is (R200). -/
def State.peekLine (s : State) (line : Nat) : LineRead × State :=
  let e := s.errorsIn line
  let good := readBytes s.mem (64 * line) 64
  if e = 0 then ({ bytes := good }, s)
  else if e ≤ 2 then ({ bytes := good, corrected := true }, s)
  else if e ≤ 6 then ({ ue := true, detail := e, bytes := [] }, s)
  else if e = ueMark then ({ ue := true, bytes := [] }, s)
  else
    let (w, s1) := s.fresh
    let (bs, s2) := s1.freshLine
    if w.toNat % 4 = 0 then ({ ue := true, bytes := [] }, s1.setErrors line ueMark)
    else ({ bytes := bs, corrected := w.toNat % 4 == 1 }, s2)

/-! ### Sparing (R327) -/

/-- The row of a line within its channel: bank and row. -/
def rowKey (line : Nat) : Nat := 32768 * bankOf (64 * line) + rowOf (64 * line)

/-- A bank is spared; a second one of the channel is fatal (R320). -/
def State.spareBank (s : State) (n : ChanId) (bank : Nat) : State :=
  if (s.chan n).spareBankUsed then s.moduleFail
  else s.modChan n (fun c => { c with
    spareBankUsed := true
    spareRows := tabSet (fun _ => 0) bank 0 c.spareRows
    copies := c.copies ++ [{ bank := bank, row := none }] })

/-- A row is spared, unless a copy of it or of its bank is under way; the 64th spare row of a bank spares the bank. -/
def State.spareRow (s : State) (line : Nat) : State :=
  let n := chanOf (64 * line)
  let c := s.chan n
  let bank := bankOf (64 * line)
  let row := rowOf (64 * line)
  if c.copies.any (fun x => x.bank == bank && (x.row.isNone || x.row == some row)) then s
  else if 64 ≤ tabGet (fun _ => 0) bank c.spareRows + 1 then s.spareBank n bank
  else s.modChan n (fun c => { c with
    spareRows := tabMod (fun _ => 0) bank (· + 1) c.spareRows
    copies := c.copies ++ [{ bank := bank, row := some row }] })

/-- A corrected error in a row; the eighth of a scrub pass spares it. -/
def State.rowError (s : State) (line : Nat) : State :=
  let n := chanOf (64 * line)
  let k := tabGet (fun _ => 0) (rowKey line) (s.chan n).rowErrors + 1
  let t := s.modChan n (fun c => { c with rowErrors := tabSet (fun _ => 0) (rowKey line) k c.rowErrors })
  if k = 8 then t.spareRow line else t

/-- Read a line through the code and count what it meets (R201, R214, R327). -/
def State.readLine (s : State) (line : Nat) : LineRead × State :=
  let (r, t) := s.peekLine line
  let n := (chanOf (64 * line)).val
  if r.ue then (r, (t.incFld (oTM_UE n) 63 0 1).spareRow line)
  else if r.corrected then (r, (t.incFld (oTM_CE n) 63 0 1).rowError line)
  else (r, t)

/-- Rewrite a line in full: its check bits match it again. -/
def State.writeLine (s : State) (line : Nat) (bs : List Byte) : State :=
  { s.setErrors line 0 with mem := writeBytes s.mem (64 * line) bs }

/-- A copy to a spare row or bank ends: each line that held errors is corrected there, or marked. -/
def State.copyLine (s : State) (line : Nat) : State :=
  let (r, t) := s.peekLine line
  if r.ue then t.setErrors line ueMark else t.writeLine line r.bytes

/-- The lines with errors that a copy covers. -/
def State.copiedLines (s : State) (n : ChanId) (c : SpareCopy) : List Nat :=
  (s.lineErr.map Prod.fst).filter (fun l =>
    decide (chanOf (64 * l) = n) && bankOf (64 * l) == c.bank &&
      (match c.row with | some r => rowOf (64 * l) == r | none => true))

/-- Lines of a channel's scrub sequence (R208): all of its bank pairs. -/
def pairLines (n : ChanId) : Nat := if n.val / 32 % 2 = 0 then 2 ^ 21 else 24576 * 64

def execSpareCopyDone (ch : ChanId) (s : State) : Res :=
  match (s.chan ch).copies with
  | [] => .next s
  | c :: rest =>
    let t := (s.copiedLines ch c).foldl State.copyLine s
    whenever true s (t.modChan ch (fun k => { k with
      copies := rest
      rowErrors := match c.row with | some r => tabSet (fun _ => 0) (32768 * c.bank + r) 0 k.rowErrors | none => k.rowErrors
      barred := if c.row.isNone && ch.val / 32 % 2 == 1 then 16 * pairLines ch else k.barred }))

/-! ### Requests (R202, R212) -/

def State.chEnabled (s : State) (n : ChanId) : Bool := s.bit (oCH_CTL n) 0
def State.pstate (s : State) (n : ChanId) : Nat := s.fld (oCH_STAT n) 1 0

/-- Mem cycles since the epoch. -/
def State.memCycle (s : State) : Nat := s.cycles / 8

/-- A request of class-0 work. -/
def State.class0Req (s : State) (r : MemReq) : Bool := match r.part with | some p => s.isClass0 p | none => false

/-- A controller has an entry free for a request: 128, of which 16 are kept for class-0 sources. -/
def State.hasEntry (s : State) (n : ChanId) (r : MemReq) : Bool :=
  let q := (s.chan n).queue
  decide (q.length < 128) && (s.class0Req r || decide ((q.filter (fun x => !s.class0Req x)).length < 112))

/-- An error response, with its log entry (R212, R213). -/
def State.refuseReq (s : State) (n : ChanId) (r : MemReq) (code type : Nat) : State × Option MemResp :=
  (s.logChan n type 0 0 r.src.toNat r.tag.toNat, some { req := r, status := BitVec.ofNat 16 code, data := [] })

/-- The oldest request that a source holds reaches its controller. -/
def State.arrive (s : State) (src : BitVec 16) : State × Option MemResp :=
  match s.inFlight.find? (fun r => decide (r.src = src)) with
  | none => (s, none)
  | some r =>
    let t := { s with inFlight := s.inFlight.filter (fun x => x.id != r.id) }
    let n := chanOf r.addr
    if addrHole r.addr then t.refuseReq (holeChan r.addr) r 0x0102 4
    else if !s.chEnabled n then t.refuseReq n r 0x0103 5
    else if !s.hasEntry n r then (s, none)
    else
      let u := t.modChan n (fun c => { c with queue := c.queue ++ [{ r with since := s.memCycle }] })
      (if s.pstate n = 2 then u.setFld (oCH_STAT n) 1 0 3 else u, none)

/-! ### Service (R204, R205) -/

/-- The requests that R204 permits: for each source its oldest. -/
def permittedFrom : List (BitVec 16) → List MemReq → List MemReq
  | _, [] => []
  | seen, r :: q => if seen.contains r.src then permittedFrom seen q else r :: permittedFrom (r.src :: seen) q
def permitted (q : List MemReq) : List MemReq := permittedFrom [] q

/-- The owner of a wheel position on a channel (R205, R378). -/
def State.wheelOwner (s : State) (n : ChanId) (pos : Fin 64) : Option PartId :=
  allParts.find? (fun p => s.cfg (oPT_WHEEL p.val (n.val / 32)) pos pos == 1)

/-- A participant's number: partitions, then the requests of none. -/
def participant : Option PartId → Nat
  | some p => p.val
  | none => 32

/-- The wheel position of the present mem cycle (R205). -/
def State.wheelPos (s : State) : Fin 64 := ⟨s.memCycle % 64, Nat.mod_lt _ (by decide)⟩

/-- The request that the present wheel position serves out of a queue: a request of no partition that has waited 64 mem
cycles, unless the owner is a class-0 partition; else the owner's oldest; else that of the next participant that has one,
after the owner or, at a position without owner, after the partition that last took such a position (R205, R295). -/
def State.pickFrom (s : State) (n : ChanId) (q : List MemReq) : Option MemReq :=
  let ready := permitted q
  let owner := s.wheelOwner n s.wheelPos
  let late := ready.find? (fun r => r.part.isNone && decide (r.since + 64 ≤ s.memCycle))
  let o := match owner with | some p => p.val | none => (s.chan n).lastUnowned + 1
  let turn := (List.range 33).map (fun i => (o + i) % 33)
  let inTurn := turn.findSome? (fun k => ready.find? (fun r => participant r.part == k))
  let c0 := match owner with | some p => s.isClass0 p | none => false
  match late with
  | some r => if c0 then inTurn else some r
  | none => inTurn

/-- The requests that a channel serves before the head of its granary's admission queue takes it; none where no job waits for
them. Later requests wait for the switch (R197). -/
def State.drainOf (s : State) (n : ChanId) : Option (List Nat) :=
  s.admission.findSome? (fun e => match e.2 with
    | [] => none
    | j :: _ => if j.chans.any (fun k => 64 * (k / 32) + 32 + k % 32 == n.val) then j.drain else none)

/-- The request the present wheel position serves on a channel. -/
def State.pickReq (s : State) (n : ChanId) : Option MemReq :=
  match s.drainOf n with
  | some ids => s.pickFrom n ((s.chan n).queue.filter (fun r => ids.contains r.id))
  | none => s.pickFrom n (s.chan n).queue

/-- What serving a request leaves in its channel beside the line: its entry is free, its bank open; the position is noted where
no partition owns it. -/
def State.took (s : State) (n : ChanId) (r : MemReq) (c : Chan) : Chan :=
  { c with
    queue := c.queue.filter (fun x => x.id != r.id)
    openBanks := bankOf r.addr :: c.openBanks.filter (· != bankOf r.addr)
    dwell := c.dwell.filter (fun i => i != r.id)
    lastCmd := some s.memCycle
    lastUnowned := match s.wheelOwner n s.wheelPos, r.part with | none, some p => p.val | _, _ => c.lastUnowned }

/-- The bytes of a line after a write that reaches a part of it. -/
def MemReq.merge (r : MemReq) (old : List Byte) : List Byte :=
  match r.mask with
  | none => putBytes old (r.addr % 64) r.data
  | some m => (List.range 64).map (fun i => ((if m.getLsbD i then r.data else old)[i]?).getD 0)

/-- A write of a whole line. -/
def MemReq.whole (r : MemReq) : Bool :=
  match r.mask with | none => decide (r.len = 64) | some m => decide (m = BitVec.allOnes 64)

/-- Perform a request on its line: data, acknowledgement or error response. -/
def State.performReq (s : State) (n : ChanId) (r : MemReq) : State × MemResp :=
  let line := r.addr / 64
  match r.kind with
  | .read =>
    let (l, t) := (s.incFld (oTM_READS n) 63 0 1).readLine line
    if l.ue then (t.logChan n 1 l.detail (lineLoc r.addr) r.src.toNat r.tag.toNat, { req := r, status := 0x0101, data := [] })
    else (t, { req := r, status := 0, data := sliceBytes l.bytes (r.addr % 64) r.len })
  | .write =>
    let s1 := s.incFld (oTM_WRITES n) 63 0 1
    if r.whole then (s1.writeLine line r.data, { req := r, status := 0, data := [] })
    else
      let (l, t) := s1.readLine line
      if l.ue then
        (t.logChan n 3 l.detail (lineLoc r.addr) r.src.toNat r.tag.toNat, { req := r, status := 0x0104, data := [] })
      else (t.writeLine line (r.merge l.bytes), { req := r, status := 0, data := [] })

/-- The channel takes no line command now: not active, not in memory mode, or one has gone out in this mem cycle. -/
def State.noSlot (s : State) (n : ChanId) : Bool :=
  s.pstate n != 1 || decide ((s.chan n).mode ≠ .memory) || decide ((s.chan n).lastCmd = some s.memCycle)

/-- The present wheel position of a channel that is active and, in a granary, in memory mode. -/
def State.serveAt (s : State) (n : ChanId) (errs : LineErrors) : State × Option MemResp :=
  let s0 := s.acquire errs
  if s.noSlot n then (s0, none)
  else
    match s.pickReq n with
    | none => (s0, none)
    | some r =>
      let (u, resp) := (s0.modChan n (s.took n r)).performReq n r
      (u, some resp)

/-! ### Refresh and self-refresh (R206, R207) -/

/-- Every bank of every channel of the stack is closed. -/
def execRefresh (stack : Fin 8) (s : State) : Res :=
  let chans := tabModAll (fun _ => {}) ((List.range 32).map (fun i => 32 * stack.val + i)) (fun _ c => { c with openBanks := [] })
    s.chans
  whenever true s { s with chans := chans }

def execSelfRefreshEntry (ch : ChanId) (s : State) : Res :=
  whenever (s.pstate ch == 1 && !s.bit (oCH_CTL ch) 1 && (s.chan ch).queue.isEmpty && decide ((s.chan ch).mode = .memory)) s
    (s.setFld (oCH_STAT ch) 1 0 2)

/-! ### Delays and drift (R210) -/

/-- One delay moved by a measurement, within 32 steps of its loaded value and the field's range; whether it is held at its
limit. -/
def moveDelay (load now : Nat) (m : Fin 3) : Nat × Bool :=
  let hi := min 127 (load + 32)
  let lo := load - 32
  if m.val = 0 then (if now ≤ lo then (now, true) else (now - 1, false))
  else if m.val = 2 then (if hi ≤ now then (now, true) else (now + 1, false))
  else (now, false)

/-- One lane's sample. -/
def State.moveLane (s : State) (n : ChanId) (k : Nat) (m : Fin 3 × Fin 3) : State × Bool :=
  let o := oDLY_LANE n k
  let rd := moveDelay (s.fld o 6 0) (s.fld o 22 16) m.1
  let wr := moveDelay (s.fld o 14 8) (s.fld o 30 24) m.2
  ((s.setFld o 22 16 rd.1).setFld o 30 24 wr.1, rd.2 || wr.2)

/-- A calibration sample: every lane moves; a delay held at its limit sets DRIFT_CLAMP and is logged once. -/
def State.calibrate (s : State) (n : ChanId) (m : DriftSample) : State :=
  let (t, held) := (List.range 9).foldl (fun r k =>
    let (u, h) := r.1.moveLane n k (m[k]?.getD (1, 1))
    (u, r.2 || h)) (s, false)
  let u := t.setFld (oCH_STAT n) 2 2 (boolNat held)
  if held && !s.bit (oCH_STAT n) 2 then u.logChan n 6 0 0 (srcScrub n).toNat 0 else u

def execSelfRefreshExit (ch : ChanId) (m : DriftSample) (s : State) : Res :=
  checked (.selfRefreshExit ch m) "SELF_REFRESH_EXIT"
    (whenever (s.pstate ch == 3) s ((s.setFld (oCH_STAT ch) 1 0 1).calibrate ch m))

/-! ### The tithe slot (R208, R209) -/

/-- The line address of position i of a channel's scrub sequence: bank pairs ascending, pair lines ascending. -/
def scrubLine (n : ChanId) (i : Nat) : Nat :=
  let l := i % pairLines n
  let p := i / pairLines n
  (n.val / 32 * 2 ^ 36 + l / 64 * 2 ^ 21 + l / 32 % 2 * 2 ^ 20 + p * 2 ^ 16 + n.val % 32 * 2 ^ 11 + l % 32 * 64) / 64

/-- The channel is switching between its modes (R158). -/
def GMode.switching : GMode → Bool
  | .toProcessor => true | .toMemory => true | .memory => false | .processor => false

/-- One line of the scrub: a corrected line is rewritten, an uncorrectable one is logged. -/
def State.scrubOne (s : State) (n : ChanId) (line : Nat) : State :=
  let (r, t) := s.readLine line
  if r.ue then t.logChan n 2 r.detail (lineLoc (64 * line)) (srcScrub n).toNat 0
  else if s.errorsIn line = 0 then t
  else if r.corrected then t.writeLine line r.bytes
  else t

/-- Eight lines of the scrub sequence; at its end a pass is counted and starts anew. -/
def State.scrub (s : State) (n : ChanId) : State :=
  let o := oSCRUB_STAT n
  let i := s.fld o 24 0
  let t := (List.range 8).foldl (fun t k => t.scrubOne n (scrubLine n (i + k))) s
  let u := t.modChan n (fun c => { c with barred := c.barred - 8 })
  if i + 8 < 16 * pairLines n then u.setFld o 24 0 (i + 8)
  else ((u.setFld o 24 0 0).incFld o 63 32 1).modChan n (fun c => { c with rowErrors := [] })

/-- The tithe slot of an active channel: calibration; then scrub, or foreground requests where one waits and fewer than 16
windows in a row have deferred; while a copy to a spare is under way, its lines take the scrub's place. A channel that is
switching accepts no tithe-slot command (R158): there the slot counts a deferral where a request waits and does nothing else
(log entry 93). In processor mode the scrub never defers. -/
def execTitheSlot (ch : ChanId) (m : DriftSample) (errs : LineErrors) (s : State) : Res :=
  checked (.titheSlot ch m errs) "TITHE_SLOT"
    (whenever (s.pstate ch == 1) s
      (let c := s.chan ch
       let t := if c.mode.switching then s.acquire errs else (s.acquire errs).calibrate ch m
       if !c.queue.isEmpty && decide (c.deferrals < 16) && decide (c.mode ≠ .processor) then
         (t.incFld (oTM_SCRUB_DEFER ch) 63 0 1).modChan ch (fun k => { k with deferrals := k.deferrals + 1 })
       else if c.mode.switching then t
       else
         let u := t.modChan ch (fun k => { k with deferrals := 0 })
         if c.copies.isEmpty then u.scrub ch else u))

/-! ### Channel registers (R214) -/

/-- EN goes to 1: the current delays take their loaded values and the channel is active. -/
def State.enableChan (s : State) (n : ChanId) : State :=
  let t := (List.range 9).foldl (fun t k =>
    (t.setFld (oDLY_LANE n k) 22 16 (t.fld (oDLY_LANE n k) 6 0)).setFld (oDLY_LANE n k) 30 24
      (t.fld (oDLY_LANE n k) 14 8)) s
  t.setFld (oCH_STAT n) 1 0 1

def execChCtlWrite (fn : FnId) (ch : ChanId) (acc : Acc) (v : Word) (s : State) : Res :=
  bar0Write s fn (oCH_CTL ch) v (fun l =>
    let o := oCH_CTL ch
    let on := s.chEnabled ch
    let off := on && acc != .hi && !v.getLsbD 0
    let t := s.wordWrite fn l o (fieldsAt o) acc v (fieldIf off [0])
    let u := if !on && t.chEnabled ch then t.enableChan ch else t
    if !s.bit o 1 && u.bit o 1 && u.pstate ch == 2 then u.setFld (oCH_STAT ch) 1 0 3 else u)

def execElogPtrWrite (fn : FnId) (ch : ChanId) (acc : Acc) (v : Word) (s : State) : Res :=
  bar0Write s fn (oELOG_PTR ch) v (fun l => s.wordWrite fn l (oELOG_PTR ch) (fieldsAt (oELOG_PTR ch)) acc v noField)

end Sys2Proof.Machine
end

