-- ==== Sys2Proof/Machine/Translate.lean ====
section
/-! DEFINITION. Address translation: entries, walks, translation caches, and the access that a leaf leads to (R149 to R152,
R154, R155, R238, R296, R312). -/

namespace Sys2Proof.Machine

/-! ### Entries (R149, R150) -/

def eValid (e : Word) : Bool := e.getLsbD 0
def eLeaf (e : Word) : Bool := e.getLsbD 1
def eWrite (e : Word) : Bool := e.getLsbD 2
def eJoint (e : Word) : Bool := e.getLsbD 3
def eClass (e : Word) : Nat := getBits e 5 4
def eRemote (e : Word) : Bool := e.getLsbD 6
def eFabric (e : Word) : Nat := getBits e 63 52

/-- The physical address an entry holds. -/
def eAddr (e : Word) : Nat := 256 * getBits e 40 8

/-- The JOINT bit acts only on local leaves (R238). -/
def eScoped (e : Word) : Bool := eJoint e && !eRemote e

/-- The page size of a leaf at a level (R149). -/
def pageSize (level : Nat) : Nat := if level = 0 then 2 ^ 16 else if level = 1 then 2 ^ 21 else 2 ^ 30

/-- The size of a table of a level, which is also its alignment. -/
def tableSize (level : Nat) : Nat := if level = 3 then 65536 else if level = 0 then 256 else 4096

/-- The index a virtual address has in a table of a level. -/
def levelIdx (level va : Nat) : Nat :=
  if level = 3 then bitsOf va 51 39 else if level = 2 then bitsOf va 38 30 else if level = 1 then bitsOf va 29 21
  else bitsOf va 20 16

/-- Nonzero reserved fields of an entry, which are ignored and logged. -/
def eReserved (e : Word) : Bool :=
  e.getLsbD 7 || getBits e 51 41 != 0 ||
    (if eLeaf e then (!eRemote e && eFabric e != 0) || (eRemote e && eJoint e)
     else eWrite e || eJoint e || eClass e != 0 || eRemote e || eFabric e != 0)

/-- A page lies in one of the module's outbound ranges (R310, R312). -/
def State.inOutbound (s : State) (a len : Nat) : Bool :=
  (List.range 16).any (fun n =>
    let b := 2 ^ 21 * s.fld (oTW_MOUT n) 40 21
    decide (b ≤ a) && decide (a + len ≤ b + 2 ^ 21 * s.fld (oTW_MOUT n) 60 41))

/-- An entry read at a level is valid for a partition's context (R150, R296, R312). -/
def State.entryValid (s : State) (p : PartId) (level : Nat) (e : Word) : Bool :=
  let a := eAddr e
  if !eValid e then false
  else if eLeaf e then
    decide (level < 3) && a % pageSize level == 0 && !(eJoint e && decide (level ≠ 0)) && eClass e != 3 &&
      (eRemote e || s.inRanges p a (pageSize level)) &&
      !(eClass e == 1 && eWrite e) &&
      (eClass e != 2 || (decide (level = 0) && eScoped e && s.inOutbound a (pageSize 0)))
  else decide (0 < level) && a % tableSize (level - 1) == 0

/-! ### Walks (R149, R151) -/

/-- What a walk comes to: the next entry to read, a leaf, or a failure with the status of the SKIP entry and the entry at
fault. -/
inductive WalkRes where
  | read (w : Walk)
  | leaf (t : TlbEntry)
  | fail (status : Nat) (entry : Word)

/-- The root table of a context of a partition; 0 where there is none. -/
def State.rootOf (s : State) (p : PartId) (ctx : BitVec 8) : Nat :=
  match s.ctxSlot ctx with
  | some (q, c) => if q = p then 65536 * s.cfg (oPT_ROOT p c) 40 16 else 0
  | none => 0

/-- Enter a table: a table outside the partition's ranges ends the walk with ADDR_HOLE (R296). -/
def State.enterTable (s : State) (p : PartId) (level table va : Nat) (write : Bool) (ctx : BitVec 8) : WalkRes :=
  if !s.inRanges p table (tableSize level) then .fail 0x0102 0
  else .read { level := level, entry := table + 8 * levelIdx level va, va := va, write := write, ctx := ctx }

/-- The start of a walk at the root. -/
def State.beginWalk (s : State) (p : PartId) (ctx : BitVec 8) (va : Nat) (write : Bool) : WalkRes :=
  if 2 ^ 52 ≤ va ∨ s.rootOf p ctx = 0 then .fail 0 0
  else s.enterTable p 3 (s.rootOf p ctx) va write ctx

/-- The walk after the entry it awaited has been read. -/
def State.walkOn (s : State) (p : PartId) (w : Walk) (r : MemResp) : WalkRes :=
  let e : Word := BitVec.ofNat 64 (leNat r.data)
  if r.status ≠ 0 then .fail r.status.toNat 0
  else if !s.entryValid p w.level e then .fail 0 e
  else if eLeaf e then
    if w.write && !eWrite e then .fail 0 e
    else
      let size := pageSize w.level
      .leaf { ctx := w.ctx, va := w.va / size * size, size := size, entry := e, at_ := w.entry }
  else s.enterTable p (w.level - 1) (eAddr e) w.va w.write w.ctx

/-- Log the nonzero reserved fields of an entry that a walk has read (R150). -/
def State.logEntry (s : State) (p : PartId) (core unit : Nat) (ctx : BitVec 8) (tag va : Nat) (e : Word) : State :=
  if eReserved e then
    s.logPart p { type := 0x08, core := core, unit := unit, ctx := ctx.toNat, tag := tag, d1 := va, d2 := e.toNat }
  else s

/-- Log a failure of R155. -/
def State.logXlate (s : State) (p : Option PartId) (core unit : Nat) (ctx : BitVec 8) (tag status va : Nat) (e : Word) :
    State :=
  s.logAny p { type := 0x08, core := core, unit := unit, ctx := ctx.toNat, tag := tag, status := status, d1 := va,
               d2 := e.toNat }

/-! ### Translation caches (R151, R152) -/

/-- A cached leaf translates an address of a context. -/
def TlbEntry.covers (t : TlbEntry) (ctx : BitVec 8) (va : Nat) : Bool :=
  decide (t.ctx = ctx) && decide (t.va ≤ va) && decide (va < t.va + t.size)

/-- Look an address up; the leaf found becomes the most recently used. -/
def tlbFind (c : List TlbEntry) (ctx : BitVec 8) (va : Nat) : Option (TlbEntry × List TlbEntry) :=
  (c.find? (fun t => t.covers ctx va)).map (fun t => (t, t :: c.erase t))

/-- Install the leaf a walk of `va` has found in a cache of `n` entries, in place of the least recently used; a cache that
translates the address by now keeps the leaf it holds, so that a unit which has used a new entry never sees an older one
again (R154). -/
def tlbAdd (n : Nat) (c : List TlbEntry) (va : Nat) (t : TlbEntry) : List TlbEntry :=
  if c.any (fun x => x.covers t.ctx va) then c else (t :: c).take n

/-- The physical address of a virtual address under a leaf. -/
def TlbEntry.phys (t : TlbEntry) (va : Nat) : Nat := eAddr t.entry + (va - t.va)

/-! ### The access a leaf leads to -/

/-- Who makes an access: source, tag, partition, joint (0 for none), virtual channel and unit for a remote page. -/
structure Accessor where
  src : BitVec 16
  tag : BitVec 16
  part : PartId
  joint : Nat
  vc : Nat
  unit : PeerUnit

/-- A joint of a partition (R233). -/
def Part.joint (q : Part) (j : Nat) : Joint := tabGet (fun _ => {}) j q.joints

/-- The shadow page a joint holds for the page of a leaf. -/
def State.shadowOf (s : State) (p : PartId) (j leafAt : Nat) : Option Nat :=
  (((s.part p).joint j).dirty.find? (fun d => d.leafAt == leafAt && d.copied)).map DirtyPage.shadow

/-- A write arrives at the joint unit: behind those before it; of two that reach a page in one fabric cycle, that of the joint with
the lower ID is first (R243), where no request of its source stands between them. -/
def placeWrite (w : JointWrite) : List JointWrite → List JointWrite
  | [] => [w]
  | x :: r =>
    if x.since = w.since ∧ x.leafAt = w.leafAt ∧ w.joint < x.joint ∧ !(x :: r).any (fun y => decide (y.req.src = w.req.src))
    then w :: x :: r else x :: placeWrite w r

/-- Read or write at most one line through a leaf: at a peer module, at the joint unit, or at a controller. Reads of a
member see its shadow page (R239). -/
def State.access (s : State) (x : Accessor) (t : TlbEntry) (va : Nat) (kind : MemKind) (len : Nat) (data : List Byte) :
    Nat × State :=
  let pa := t.phys va
  if eRemote t.entry then
    let id := s.nextId
    let req : MemReq :=
      { id := id, src := x.src, tag := x.tag, part := some x.part, addr := pa, kind := kind, len := len, data := data }
    let s1 := { s with nextId := id + 1 }
    let line := pa / 64 * 64
    let body := sliceBytes (List.replicate (pa % 64) 0 ++ data) 0 64
    let mask := (2 ^ len - 1) <<< (pa % 64)
    match kind with
    | .read => (id, (s1.request 0x01 x.vc (eFabric t.entry) line 1 [] x.unit (some x.part) (some req)).2)
    | .write =>
      if len = 64 then (id, (s1.request 0x02 x.vc (eFabric t.entry) line 1 data x.unit (some x.part) (some req)).2)
      else (id, (s1.request 0x03 x.vc (eFabric t.entry) line 1 (natLe 8 mask ++ natLe 8 0 ++ body) x.unit (some x.part)
        (some req)).2)
  else if eScoped t.entry then
    match kind with
    | .read =>
      let at_ := match (if x.joint = 0 then none else s.shadowOf x.part x.joint t.at_) with
        | some sh => sh + pa % 65536
        | none => pa
      s.issue x.src x.tag (some x.part) at_ .read len []
    | .write =>
      let id := s.nextId
      let req : MemReq :=
        { id := id, src := x.src, tag := x.tag, part := some x.part, addr := pa, kind := .write, len := len, data := data }
      (id, ({ s with nextId := id + 1 } : State).modPart x.part (fun q => { q with
        jointWrites := placeWrite { joint := x.joint, req := req, leafAt := t.at_, entry := t.entry, since := s.fabric_ }
          q.jointWrites }))
  else s.issue x.src x.tag (some x.part) pa kind len data

/-- A write of this source waits at the joint unit: its later requests wait behind it (R239). -/
def State.jointHeld (s : State) (p : PartId) (src : BitVec 16) : Bool :=
  (s.part p).jointWrites.any (fun w => decide (w.req.src = src)) ||
    (match (s.part p).shadowWait with | some w => decide (w.req.src = src) | none => false)

/-- Take the response to a request out of those that have arrived. -/
def State.takeResp (s : State) (id : Nat) : Option (MemResp × State) :=
  (s.responses.find? (fun r => r.req.id == id)).map (fun r =>
    (r, { s with responses := s.responses.filter (fun x => x.req.id != id) }))

end Sys2Proof.Machine
end

