-- ==== Sys2Proof/Machine/Cart.lean ====
section
/-! DEFINITION. Carts: cart.copy, cart.gather, cart.scatter, their checks, the requests they make, the data and
acknowledgements they receive, stop points and restart records (R138 to R148, R155). -/

namespace Sys2Proof.Machine

/-! ### Operands (R61) -/

/-- The operands of a cart command; a copy is taken as rows of one line. -/
structure CartJob where
  opc : Nat
  tag : Nat
  va : Nat
  bench : Nat
  toDram : Bool
  len : Nat
  rowLen : Nat
  rows : Nat
  idx : Nat
  wide : Bool
  limit : Nat
  dStride : Nat
  bStride : Nat
  deriving DecidableEq, Repr

def cartJob (c : Cmd) : CartJob :=
  if c.opc = 0xC0 then
    { opc := 0xC0, tag := c.h.tag.toNat, va := c.f 1 51 0, bench := c.f 2 21 0, toDram := c.f 2 22 22 == 1,
      len := c.f 3 31 0, rowLen := 64, rows := c.f 3 31 0 / 64, idx := 0, wide := false, limit := 0, dStride := 64,
      bStride := 64 }
  else
    { opc := c.opc.toNat, tag := c.h.tag.toNat, va := c.f 1 51 0, bench := c.f 2 21 0, toDram := decide (c.opc = 0xC2),
      len := c.f 5 21 0, rowLen := c.f 3 21 0, rows := c.f 5 21 0, idx := c.f 2 43 22, wide := c.f 5 22 22 == 1,
      limit := c.f 6 62 0, dStride := c.f 4 31 0, bStride := c.f 3 43 22 }

namespace CartJob

def isCopy (j : CartJob) : Bool := j.opc == 0xC0

/-- Bytes of an index entry. -/
def entry (j : CartJob) : Nat := if j.wide then 8 else 4

/-- The bench ranges of a command: its rows, and its index tensor. -/
def ranges (j : CartJob) : List (Nat × Nat) :=
  if j.isCopy then [(j.bench, j.len)]
  else (j.idx, j.entry * j.rows) :: (List.range j.rows).map (fun r => (j.bench + r * j.bStride, j.rowLen))

end CartJob

/-- The rota port of a cart. -/
def cartPort (u : Fin 2) : Nat := if u.val = 0 then pCart0 else pCart1

/-- The check of a cart command at the head of its queue (R142). -/
def checkCart (k : Core) (u : Fin 2) (c : Cmd) : Option Nat :=
  let j := cartJob c
  if j.len = 0 ∨ j.rowLen = 0 ∨ (j.isCopy ∧ 4 * 2 ^ 20 < j.len) then some 0x05
  else if (if j.isCopy then decide (j.va % 64 ≠ 0) || decide (j.bench % 64 ≠ 0) || decide (j.len % 64 ≠ 0)
      else decide (j.va % 16 ≠ 0) || decide (j.dStride % 16 ≠ 0) || decide (j.bench % 16 ≠ 0) ||
        decide (j.bStride % 16 ≠ 0) || decide (j.idx % j.entry ≠ 0) || decide (j.rowLen % 16 ≠ 0)) then some 0x03
  else if j.ranges.any (fun r => !inBench r.1 r.2) then some 0x02
  else if j.ranges.any (fun r => !k.rangeSlots (cartPort u) r.1 r.2) then some 0x04
  else none

/-! ### Rows (R139, R140) -/

/-- The accesses of a row: one for each device line, ascending. -/
def rowAccs (toDram : Bool) (va bench len : Nat) : List CartAcc :=
  (linesOf va len).map (fun l =>
    let lo := max va (64 * l)
    let hi := min (va + len) (64 * l + 64)
    let b := bench + (lo - va)
    let e := bench + (hi - va)
    { va := lo, bench := b, len := hi - lo, toDram := toDram, zero := false
      ends := if toDram then 1 else e / 64 - b / 64 + boolNat (hi == va + len && e % 64 != 0) })

/-- What the generation of row r gives. -/
inductive RowGen where
  | accs (l : List CartAcc) (bytes : Nat)
  | early (e : EarlyEnd)

/-- A row whose address, at `dram`, reaches 2^52 or beyond (R155). -/
def beyondSpace (dram len : Nat) : Option Nat := if 2 ^ 52 < dram + len then some (max dram (2 ^ 52)) else none

/-- The address of the index entry of row r. -/
def CartJob.idxAt (j : CartJob) (r : Nat) : Nat := j.idx + j.entry * r

/-- The index line of row r, if it is held. -/
def CartJob.heldLine (j : CartJob) (r : Nat) (idx : Option (Nat × List Byte)) : Option (List Byte) :=
  match idx with
  | some (l, bs) => if l = j.idxAt r / 64 then some bs else none
  | none => none

/-- The index line that the generation of row r reads, where it is not held (R141). -/
def CartJob.readsLine (j : CartJob) (r : Nat) (idx : Option (Nat × List Byte)) : Bool :=
  !j.isCopy && (j.heldLine r idx).isNone

/-- Generate row r of a command, with the line of indices it holds: an index entry that is all ones names no row; one at or above
the row limit ends the command. -/
def genRow (k : Core) (u : Fin 2) (j : CartJob) (r : Nat) (idx : Option (Nat × List Byte)) : RowGen :=
  let bench := j.bench + r * j.bStride
  if j.isCopy then
    match beyondSpace (j.va + 64 * r) 64 with
    | some a => .early { reason := 0x11, status := 0, detail := BitVec.ofNat 64 a }
    | none => .accs (rowAccs j.toDram (j.va + 64 * r) bench 64) 64
  else if j.readsLine r idx && !k.rangeSlots (cartPort u) (j.idxAt r) j.entry then
    .early { reason := 0x04, status := 0, detail := 0 }
  else
    let line := (j.heldLine r idx).getD (readBytes k.bench (j.idxAt r / 64 * 64) 64)
    let x := leNat (sliceBytes line (j.idxAt r % 64) j.entry)
    if x = 2 ^ (8 * j.entry) - 1 then
      if j.toDram then .accs [] 0
      else .accs [{ va := 0, bench := bench, len := j.rowLen, toDram := false, zero := true,
                    ends := lineCount bench j.rowLen }] j.rowLen
    else if j.limit ≤ x then .early { reason := 0x07, status := 0, detail := 0 }
    else
      match beyondSpace (j.va + x * j.dStride) j.rowLen with
      | some a => .early { reason := 0x11, status := 0, detail := BitVec.ofNat 64 a }
      | none => .accs (rowAccs j.toDram (j.va + x * j.dStride) bench j.rowLen) j.rowLen

/-! ### Issuing (R141, R143, R145, R155) -/

/-- The cart's engine. -/
def State.cartEng (s : State) (c : CoreId) (u : Fin 2) : Eng := (s.core c).engOf (cartUnit u)

/-- The tag of the running command. -/
def Eng.tag (e : Eng) : Nat := match e.cmd with | some x => x.h.tag.toNat | none => 0

/-- Who a cart's accesses are for. -/
def State.cartAccessor (s : State) (c : CoreId) (u : Fin 2) (p : PartId) : Accessor :=
  { src := srcCart c u, tag := BitVec.ofNat 16 (s.cartEng c u).tag, part := p,
    joint := match s.launchOf c with | some l => l.joint | none => 0, vc := s.classOf c, unit := .cart c u }

/-- The command has to end early; the first cause stands. -/
def State.cartEarly (s : State) (c : CoreId) (u : Fin 2) (e : EarlyEnd) : State :=
  s.modEng c (cartUnit u) (fun g => { g with early := match g.early with | some x => some x | none => some e, todo := [] })

/-- A failure of translation: logged, and the command ends with TRANSLATION (R142, R155). -/
def State.cartXlateFail (s : State) (c : CoreId) (u : Fin 2) (va status : Nat) (entry : Word) : State :=
  (s.logXlate (s.partOf c) c.val (unitCode (cartUnit u)) (s.core c).ctx (s.cartEng c u).tag status va entry).cartEarly c u
    { reason := 0x11, status := BitVec.ofNat 16 status, detail := BitVec.ofNat 64 va }

/-- A walk goes on to its next read, issued as a foreground read of the cart. -/
def State.cartWalkRead (s : State) (c : CoreId) (u : Fin 2) (p : PartId) (w : Walk) : State :=
  let (id, t) := s.issue (srcCart c u) (BitVec.ofNat 16 (s.cartEng c u).tag) (some p) w.entry .read 8 []
  t.modEng c (cartUnit u) (fun g => { g with walk := some { w with id := id } })

/-- Write data or zeros to the bench, line after line, up to the first line without a slot (R73). -/
def State.cartStore (s : State) (c : CoreId) (u : Fin 2) (a : CartAcc) (bs : List Byte) : State :=
  let k := s.core c
  let g := k.engOf (cartUnit u)
  match g.early with
  | some ⟨0x04, _, _⟩ => s
  | _ =>
    let ls := linesOf a.bench a.len
    let ok := ls.takeWhile (fun l => k.hasSlot (cartPort u) (64 * l))
    let bytes := match ls[ok.length]? with | some l => 64 * l - a.bench | none => a.len
    let t := s.setCore c ((k.store a.bench (bs.take bytes)).modEng (cartUnit u) (fun g => { g with
      lines := g.lines + min a.ends ok.length }))
    if ok.length < ls.length then t.cartEarly c u { reason := 0x04, status := 0, detail := 0 } else t

/-- Writes of zeros at the head of the accesses in flight take place. -/
def State.cartDrain (s : State) (c : CoreId) (u : Fin 2) : Nat → State
  | 0 => s
  | n + 1 =>
    match (s.cartEng c u).flying with
    | (_, a) :: rest =>
      if a.zero then
        ((s.modEng c (cartUnit u) (fun g => { g with flying := rest })).cartStore c u a (List.replicate a.len 0)).cartDrain
          c u n
      else s
    | [] => s

/-- Issue the first access of the present row: translated through the core's cache, or after a walk. -/
def State.cartIssue (s : State) (c : CoreId) (u : Fin 2) (p : PartId) (a : CartAcc) (rest : List CartAcc) : State :=
  let k := s.core c
  let fly := fun (t : State) (id : Nat) =>
    t.modEng c (cartUnit u) (fun g => { g with todo := rest, flying := g.flying ++ [(id, a)] })
  if a.zero then
    let (id, t) := s.newId
    (fly t id).cartDrain c u 1
  else
    match tlbFind k.tlb k.ctx a.va with
    | none =>
      match s.beginWalk p k.ctx a.va a.toDram with
      | .read w => s.cartWalkRead c u p w
      | .fail st e => s.cartXlateFail c u a.va st e
      | .leaf _ => s
    | some (t, tlb) =>
      let s1 := s.modCore c (fun k => { k with tlb := tlb })
      if a.toDram && !eWrite t.entry then s1.cartXlateFail c u a.va 0 t.entry
      else if a.toDram then
        if !k.rangeSlots (cartPort u) a.bench a.len then s1.cartEarly c u { reason := 0x04, status := 0, detail := 0 }
        else
          let r := s1.access (s.cartAccessor c u p) t a.va .write a.len (readBytes k.bench a.bench a.len)
          fly r.2 r.1
      else
        let r := s1.access (s.cartAccessor c u p) t a.va .read a.len []
        fly r.2 r.1

/-- The cart may issue: it runs, no walk and no joint unit holds it, and fewer than 512 requests are outstanding. -/
def State.cartMayIssue (s : State) (c : CoreId) (u : Fin 2) (p : PartId) : Bool :=
  let g := s.cartEng c u
  decide (g.phase = .running) && !g.stopped && g.walk.isNone && g.early.isNone && decide (g.flying.length < 512) &&
    !s.jointHeld p (srcCart c u)

/-- A stop lets the cart generate no further row. -/
def Eng.atLimit (g : Eng) : Bool := match g.limit with | some l => decide (l ≤ g.bytes) | none => false

/-- Generate and issue accesses in order, up to `n` steps. -/
def State.cartSteps (s : State) (c : CoreId) (u : Fin 2) (p : PartId) (j : CartJob) : Nat → State
  | 0 => s
  | n + 1 =>
    let g := s.cartEng c u
    if !s.cartMayIssue c u p then s
    else
      match g.todo with
      | a :: rest => (s.cartIssue c u p a rest).cartSteps c u p j n
      | [] =>
        if decide (j.rows ≤ g.done) || g.atLimit then s
        else
          match genRow (s.core c) u j g.done g.idx with
          | .early e =>
            let t := if e.reason = 0x11 then s.cartXlateFail c u e.detail.toNat 0 0 else s.cartEarly c u e
            t
          | .accs l b =>
            let line := if j.readsLine g.done g.idx
              then some (j.idxAt g.done / 64, readBytes (s.core c).bench (j.idxAt g.done / 64 * 64) 64) else g.idx
            (s.modEng c (cartUnit u) (fun g => { g with
              todo := l, done := g.done + 1, bytes := g.bytes + b, idx := line })).cartSteps c u p j n

/-- Let a cart go on as far as it can: a row takes one step, and one for each of its accesses, of which at most 512 are
outstanding and zero rows have one. -/
def State.cartPump (s : State) (c : CoreId) (u : Fin 2) : State :=
  match (s.cartEng c u).cmd, s.partOf c with
  | some x, some p => s.cartSteps c u p (cartJob x) (2 * (cartJob x).rows + 1024)
  | some _, none => s.cartEarly c u { reason := 0x11, status := 0, detail := 0 }
  | none, _ => s

/-- The cart has nothing left to issue and nothing outstanding. -/
def Eng.cartDone (g : Eng) : Bool :=
  match g.cmd with
  | some x => g.flying.isEmpty && g.walk.isNone &&
      (g.early.isSome || (g.todo.isEmpty && decide ((cartJob x).rows ≤ g.done)))
  | none => false

/-- The cart has come to its stop point: everything up to it is moved (R146). -/
def Eng.cartAtStop (g : Eng) : Bool :=
  g.flying.isEmpty && g.walk.isNone && g.todo.isEmpty && g.atLimit

/-- The count of bytes up to which a running cart goes when a stop reaches it: the row in which the count reaches a
multiple of 65,536 (R146). -/
def Eng.stopLimit (g : Eng) : Nat :=
  match g.cmd with
  | none => 0
  | some x =>
    let r := (cartJob x).rowLen
    if 0 < g.bytes ∧ (g.bytes - r) / 65536 < g.bytes / 65536 then g.bytes else (g.bytes / 65536 + 1) * 65536

/-- The bench line of the next access of a cart: data to be written, data to be read, or an index line. -/
def Eng.nextBench (g : Eng) : Option Nat :=
  match g.flying.find? (fun f => !f.2.toDram), g.todo, g.cmd with
  | some (_, a), _, _ => some (a.bench / 64)
  | none, a :: _, _ => some (a.bench / 64)
  | none, [], some x =>
    let j := cartJob x
    if decide (g.done < j.rows) && j.readsLine g.done g.idx then some (j.idxAt g.done / 64) else none
  | none, [], none => none

/-- At a calendar wrap a cart whose next bench access has no slot in the rota now in force stops (R73). -/
def State.cartWrap (s : State) (c : CoreId) (u : Fin 2) : State :=
  let g := s.cartEng c u
  if decide (g.phase = .running) && !g.stopped && (s.core c).slotless (cartPort u) g.nextBench then
    s.cartEarly c u { reason := 0x04, status := 0, detail := 0 }
  else s

/-! ### Responses (R142, R144) -/

def execCartReadData (core : CoreId) (unit : Fin 2) (s : State) : Res :=
  match (s.cartEng core unit).flying with
  | [] => .next s
  | (id, a) :: rest =>
    match s.takeResp id with
    | none => .next s
    | some (r, t) =>
      let t1 := t.modEng core (cartUnit unit) (fun g => { g with flying := rest })
      let t2 := if r.status ≠ 0 then t1.cartEarly core unit { reason := 0, status := r.status, detail := 0 }
        else t1.cartStore core unit a r.data
      whenever (!a.toDram) s ((t2.cartDrain core unit rest.length).cartPump core unit)

/-- The oldest write of a cart whose answer has arrived. -/
def State.ackedWrite (s : State) (g : Eng) : Option (Nat × CartAcc) :=
  g.flying.find? (fun f => f.2.toDram && s.responses.any (fun r => r.req.id == f.1))

def execCartWriteAck (core : CoreId) (unit : Fin 2) (s : State) : Res :=
  match s.ackedWrite (s.cartEng core unit) with
  | none => .next s
  | some (id, a) =>
    match s.takeResp id with
    | none => .next s
    | some (r, t) =>
      let t1 := t.modEng core (cartUnit unit) (fun g => { g with
        flying := g.flying.filter (fun f => f.1 != id)
        lines := if r.status = 0 then g.lines + a.ends else g.lines })
      let t2 := if r.status ≠ 0 then t1.cartEarly core unit { reason := 0, status := r.status, detail := 0 } else t1
      whenever true s (t2.cartPump core unit)

/-- The read of a cart's walk returns. -/
def State.cartWalkData (s : State) (c : CoreId) (u : Fin 2) (p : PartId) (w : Walk) (r : MemResp) : State :=
  let e : Word := BitVec.ofNat 64 (leNat r.data)
  let s1 := if r.status = 0
    then s.logEntry p c.val (unitCode (cartUnit u)) w.ctx (s.cartEng c u).tag w.va e else s
  let s2 := s1.modEng c (cartUnit u) (fun g => { g with walk := none })
  match s.walkOn p w r with
  | .read w' => s2.cartWalkRead c u p w'
  | .fail st en => s2.cartXlateFail c u w.va st en
  | .leaf t => (s2.modCore c (fun k => { k with tlb := tlbAdd 512 k.tlb w.va t })).cartPump c u

/-- The walk of a cart, if its read has returned. -/
def State.cartWalkBack (s : State) (c : CoreId) (u : Fin 2) : State :=
  match (s.cartEng c u).walk, s.partOf c with
  | some w, some p =>
    match s.takeResp w.id with
    | some (r, t) => t.cartWalkData c u p w r
    | none => s
  | _, _ => s

/-- A walk in progress starts again from the root (R154). -/
def State.cartRewalk (s : State) (c : CoreId) (u : Fin 2) : State :=
  match (s.cartEng c u).walk, s.partOf c with
  | some w, some p =>
    let s1 := s.modEng c (cartUnit u) (fun g => { g with walk := none })
    match s.beginWalk p w.ctx w.va w.write with
    | .read w' => s1.cartWalkRead c u p w'
    | .fail st e => s1.cartXlateFail c u w.va st e
    | .leaf _ => s1
  | _, _ => s

/-! ### The restart record (R147) -/

/-- The record of a cart command stopped before row `next`. DESIGN CHOICE (log entry 101): the fields for which a cart.copy has no
operand are zero. -/
def cartRecord (c : Cmd) (next : Nat) : List Byte :=
  let j := cartJob c
  let copy := j.isCopy
  let only := fun (v : Nat) => if copy then 0 else v
  natLe 2 j.tag ++ natLe 1 j.opc ++
    natLe 1 (boolNat (copy && j.toDram) + 2 * boolNat j.wide + 4 * boolNat c.h.postEn) ++ natLe 2 c.h.postPeg.toNat ++
    natLe 2 0 ++ natLe 8 j.va ++ natLe 4 (if copy then 64 * next else next) ++ natLe 4 j.len ++ le3 j.bench ++
    le3 (only j.idx) ++ le3 (only j.rowLen) ++ le3 (only j.bStride) ++ natLe 4 (only j.dStride) ++
    natLe 8 (only j.limit) ++ natLe 16 0

end Sys2Proof.Machine
end

