-- ==== Sys2Proof/Machine/Plane.lean ====
section
/-! DEFINITION. The planes: streams, checks, elementwise operations, reductions, online softmax, merge, their work core cycle by
core cycle, the restart record (R69, R73, R106 to R110, R115 to R118, R124 to R137). -/

namespace Sys2Proof.Machine

/-- The operands of a plane command (R61), and which plane runs it. -/
structure PlaneJob where
  opc : Nat
  unit : Nat
  tag : Nat
  mode : Nat
  a : Nat
  b : Nat
  c : Nat
  d : Nat
  n : Nat
  inFmt : Nat
  outFmt : Nat
  rnd : Nat
  nan : Bool
  ftz : Bool
  deriving DecidableEq, Repr

def planeJob (c : Cmd) : PlaneJob :=
  { opc := c.opc.toNat, unit := c.h.unit.toNat, tag := c.h.tag.toNat, mode := c.h.mode.toNat, a := c.f 1 21 0,
    b := c.f 1 43 22, c := c.f 2 43 22, d := c.f 2 21 0, n := c.f 3 31 0, inFmt := c.f 3 35 32, outFmt := c.f 3 39 36,
    rnd := c.f 3 41 40, nan := c.f 3 42 42 == 1, ftz := c.f 3 43 43 == 1 }

/-- The special function of an opcode (R58). -/
def specialOf (opc : Nat) : Option SpecialFn :=
  match opc with
  | 0x9C => some .exp | 0x9D => some .log | 0x9E => some .recip | 0x9F => some .rsqrt
  | 0xA0 => some .tanh | 0xA1 => some .sigmoid | _ => none

namespace PlaneJob

def isReduce (j : PlaneJob) : Bool := j.opc == 0xA4 || j.opc == 0xA5
def isOsm (j : PlaneJob) : Bool := j.opc == 0xA8
def isMerge (j : PlaneJob) : Bool := j.opc == 0xA9
def isCvt (j : PlaneJob) : Bool := j.opc == 0x98
def isSign (j : PlaneJob) : Bool := j.opc == 0x96 || j.opc == 0x97

/-- Ports of the plane (R65). -/
def pIn (j : PlaneJob) : Nat := if j.unit = 0 then pP0In else pP1In
def pOut (j : PlaneJob) : Nat := if j.unit = 0 then pP0Out else pP1Out

/-- The formats R126 allows. -/
def formatsOk (j : PlaneJob) : Bool :=
  if j.isMerge then j.inFmt == 0 && j.outFmt == 0
  else if j.isCvt then decide (j.inFmt ≤ 9) && decide (j.outFmt ≤ 9)
  else if j.isSign then decide (j.inFmt ≤ 4) && j.inFmt == j.outFmt
  else if j.isReduce then decide (j.inFmt ≤ 4) && decide (j.outFmt ≤ 2)
  else if j.isOsm || (specialOf j.opc).isSome then decide (j.inFmt ≤ 2) && decide (j.outFmt ≤ 4)
  else decide (j.inFmt ≤ 4) && decide (j.outFmt ≤ 4)

/-- E of R126, and the elements of one issue cycle. -/
def e (j : PlaneJob) : Nat := if j.inFmt = 0 ∨ j.outFmt = 0 then 64 else 128
def chunk (j : PlaneJob) (pass : Nat) : Nat :=
  if (specialOf j.opc).isSome || (j.isOsm && pass == 1) then j.e / 2 else j.e

/-- Row length and rows of reductions and plane.osm (R128); head dimension of a merge (R132). -/
def rowLen (j : PlaneJob) : Nat := 64 * 2 ^ j.mode
def rows (j : PlaneJob) : Nat := (j.n + j.rowLen - 1) / j.rowLen
def rowAt (j : PlaneJob) (r : Nat) : Nat := min j.rowLen (j.n - r * j.rowLen)
def recBytes (j : PlaneJob) : Nat := 16 + 4 * j.rowLen

/-- Bytes of a stream of n elements of a format (R124). -/
def bytesOf (fmt n : Nat) : Nat := (n * elemBits fmt + 7) / 8

/-- The sources an opcode uses beside A. -/
def usesB (j : PlaneJob) : Bool := decide (j.opc ≤ 0x95)
def usesC (j : PlaneJob) : Bool := j.opc == 0x93

/-- The source ranges, with the alignment each base needs. -/
def inRanges (j : PlaneJob) : List (Nat × Nat × Nat) :=
  if j.isMerge then [(j.a, j.n * j.recBytes, 16), (j.b, j.n * j.recBytes, 16)]
  else
    [(j.a, bytesOf j.inFmt j.n, 4)] ++
      (if j.usesB then [(j.b, bytesOf j.inFmt j.n, 4)] else []) ++
      (if j.usesC then [(j.c, bytesOf j.inFmt j.n, 4)] else []) ++
      (if j.isOsm then [(j.b, 16 * j.rows, 16)] else []) ++
      (if j.isCvt && isMx j.inFmt then [(j.c, (j.n + 31) / 32, 4)] else [])

/-- The destination ranges. -/
def outRanges (j : PlaneJob) : List (Nat × Nat × Nat) :=
  if j.isMerge then [(j.d, j.n * j.recBytes, 16)]
  else if j.isReduce then [(j.d, bytesOf j.outFmt j.rows, 4)]
  else
    [(j.d, bytesOf j.outFmt j.n, 4)] ++
      (if j.isOsm then [(j.c, 16 * j.rows, 16)] else []) ++
      (if j.isCvt && isMx j.outFmt then [(j.c, (j.n + 31) / 32, 4)] else [])

end PlaneJob

/-! ### Checks (R134) -/

/-- The first failing check of a plane command, in the order of the table. DEDUCED (log entry 99): R134 lists the conditions and
R88 makes the order of such a table the order of the reasons. -/
def checkPlane (k : Core) (c : Cmd) : Option Nat :=
  let j := planeJob c
  let rs := j.inRanges ++ j.outRanges
  if j.n = 0 ∨ (j.isMerge ∧ 4 < j.mode) then some 0x05
  else if !j.formatsOk then some 0x06
  else if 2 ≤ j.rnd then some 0x0F
  else if rs.any (fun r => !inBench r.1 r.2.1) then some 0x02
  else if rs.any (fun r => r.1 % r.2.2 != 0) then some 0x03
  else if j.inRanges.any (fun r => !k.rangeSlots j.pIn r.1 r.2.1) ||
      j.outRanges.any (fun r => !k.rangeSlots j.pOut r.1 r.2.1) then some 0x04
  else none

/-! ### Values and rounding -/

/-- The elements of a stretch of a stream. -/
def codesOf (fmt : Nat) (bs : List Byte) (len : Nat) : List Nat :=
  (List.range len).map (fun i => bitsFrom bs (i * elemBits fmt) (elemBits fmt))

/-- Their values, flushed where flush to zero is on. -/
def PlaneJob.vals (j : PlaneJob) (bs : List Byte) (len : Nat) : List FV :=
  (codesOf j.inFmt bs len).map (fun b => flushOperand j.ftz j.inFmt b (valueOf j.inFmt b))

/-- The rounding of destination element t (R106). -/
def PlaneJob.rndAt (j : PlaneJob) (t : Nat) : Rnd :=
  if j.rnd = 1 ∧ j.outFmt ≠ 0 then .sr (planeRand j.tag t) else .rne

/-- A result rounded into the output format. -/
def PlaneJob.out (j : PlaneJob) (t : Nat) (v : FV) : Nat × BitVec 6 := roundCode j.outFmt (j.rndAt t) j.nan j.ftz v

/-- An FP32 value as an operand. -/
def PlaneJob.val32 (j : PlaneJob) (bits : Nat) : FV := flushOperand j.ftz 0 bits (fFP32.value bits)

/-- The FP32 operand at an offset of a byte list. -/
def PlaneJob.at32 (j : PlaneJob) (bs : List Byte) (off : Nat) : FV := j.val32 (leNat (sliceBytes bs off 4))

/-- round_rne() into FP32 under the command's flush to zero. -/
def PlaneJob.rne (j : PlaneJob) (v : FV) : Nat × BitVec 6 := fFP32.round .rne false j.ftz v

/-- An FP32 result of a special function under flush to zero. -/
def PlaneJob.special (j : PlaneJob) (fn : SpecialFn) (bits : Nat) : Nat × BitVec 6 :=
  let r := special32 fn bits
  fFP32.flush j.ftz (bitOf r.1 31) (r.1 % 2 ^ 31) r.2

/-! ### Elementwise operations (R115, R116, R126) -/

/-- One element: the result's encoding and flags. -/
def elemOp (j : PlaneJob) (t : Nat) (a b c : FV) : Nat × BitVec 6 :=
  match specialOf j.opc with
  | some fn =>
    let r := j.special fn (fFP32.round .rne false false a).1
    let o := if j.outFmt = 0 then (r.1, 0) else j.out t (fFP32.value r.1)
    (o.1, r.2 ||| o.2)
  | none =>
    let x : FV × BitVec 6 :=
      if j.opc = 0x90 then a.add b
      else if j.opc = 0x91 then a.add b.opp
      else if j.opc = 0x92 then a.mul b
      else if j.opc = 0x93 then a.fma b c
      else if j.opc = 0x94 then (a.max2 b, 0)
      else if j.opc = 0x95 then (a.min2 b, 0)
      else (a, 0)
    let o := j.out t x.1
    (o.1, x.2 ||| o.2)

/-- abs and neg change only the sign bit. -/
def signOp (j : PlaneJob) (bits : Nat) : Nat :=
  let s := 2 ^ (fmtOf j.inFmt).signBit
  if j.opc = 0x96 then bits % s else (if s ≤ bits then bits - s else bits + s)

/-- The source values of a conversion, block scales applied. -/
def cvtVals (j : PlaneJob) (bs scales : List Byte) (len : Nat) : List FV :=
  let vs := j.vals bs len
  if isMx j.inFmt then
    vs.zipIdx.map (fun p => (p.1.mul (match scales[p.2 / 32]? with | some b => scaleValue b.toNat | none => .nan)).1)
  else vs

/-- Blocks of 32 elements encoded with their scales: scale, encodings, flags of each. -/
def mxBlocks (j : PlaneJob) (t0 : Nat) (vs : List FV) : List (Nat × List Nat × BitVec 6) :=
  (List.range ((vs.length + 31) / 32)).map (fun b =>
    let blk := (vs.drop (32 * b)).take 32
    toMx j.outFmt j.nan (blk.zipIdx.map (fun p => j.rndAt (t0 + 32 * b + p.2))) blk)

/-! ### What chunks write (R70, R89, R135) -/

/-- Bytes with the flags of the roundings that end in them. -/
abbrev FlagBytes := List (Byte × BitVec 6)

/-- A result that is written whole: its flags stand with its last byte. -/
def atLast (fl : BitVec 6) (bs : List Byte) : FlagBytes :=
  bs.zipIdx.map (fun x => (x.1, if x.2 + 1 = bs.length then fl else 0))

/-- Elements packed, `w` bits each, with their flags. -/
def packed (w : Nat) (rs : List (Nat × BitVec 6)) : FlagBytes :=
  (packBits w (rs.map Prod.fst)).zipIdx.map (fun x =>
    (x.1, (List.range' (8 * x.2 / w) (8 * (x.2 + 1) / w - 8 * x.2 / w)).foldl (fun f k =>
      match rs[k]? with | some r => f ||| r.2 | none => f) 0))

/-- What a chunk gives: pieces of destination streams by stream and address, the lanes, and the flags of a result that is still to
be written. Stream 0 is the destination, stream 1 what goes to source C. -/
structure ChunkOut where
  outs : List (Nat × Nat × FlagBytes) := []
  acc : List (Option Nat) := []
  accFlags : BitVec 6 := 0

/-- Elements t0 to t0 + len − 1 of an elementwise operation or a conversion, from the bytes of its sources. -/
def elemChunk (j : PlaneJob) (t0 len : Nat) (src : Nat → List Byte) : ChunkOut :=
  let w := elemBits j.outFmt
  let dst := j.d + t0 * w / 8
  if j.isSign then
    { outs := [(0, dst, packed w ((codesOf j.inFmt (src 0) len).map (fun b => (signOp j b, 0))))] }
  else if j.isCvt && isMx j.outFmt then
    let bl := mxBlocks j t0 (cvtVals j (src 0) (src 2) len)
    { outs := [(0, dst, bl.flatMap (fun o => atLast o.2.2 (packBits w o.2.1))),
               (1, j.c + t0 / 32, bl.map (fun o => (BitVec.ofNat 8 o.1, 0)))] }
  else
    let as := if j.isCvt then cvtVals j (src 0) (src 2) len else j.vals (src 0) len
    let bs := if j.usesB then j.vals (src 1) len else []
    let cs := if j.usesC then j.vals (src 2) len else []
    { outs := [(0, dst, packed w (as.zipIdx.map (fun p =>
        elemOp j (t0 + p.2) p.1 (bs[p.2]?.getD .nan) (cs[p.2]?.getD .nan))))] }

/-! ### Lanes (R129) -/

/-- Two FP32 encodings combined: add32(), or max() for rmax. -/
def combine (j : PlaneJob) (x y : Nat) : Nat × BitVec 6 :=
  if j.opc = 0xA5 then ((rne32 ((fFP32.value x).max2 (fFP32.value y))).1, 0) else add32 j.ftz x y

/-- A lane takes a value. -/
def laneTake (j : PlaneJob) (acc : List (Option Nat)) (l x : Nat) : List (Option Nat) × BitVec 6 :=
  match acc[l]?.join with
  | none => (acc.set l (some x), 0)
  | some y =>
    let r := combine j y x
    (acc.set l (some r.1), r.2)

/-- Sixty-four empty lanes, and one more place for a row's running maximum (log entry 100). -/
def noLanes : List (Option Nat) := List.replicate 65 none

/-- One level of the tree: lane l takes lane l + h. -/
def treeLevel (j : PlaneJob) (h : Nat) (s : List (Option Nat) × BitVec 6) : List (Option Nat) × BitVec 6 :=
  (List.range h).foldl (fun s l =>
    match s.1[l + h]?.join with
    | none => s
    | some y =>
      let r := laneTake j s.1 l y
      (r.1, s.2 ||| r.2)) s

/-- The fixed tree over the lanes: the value of lane 0 and the flags. -/
def laneTree (j : PlaneJob) (acc : List (Option Nat)) : Nat × BitVec 6 :=
  let s := [32, 16, 8, 4, 2, 1].foldl (fun s h => treeLevel j h s) (acc, 0)
  ((s.1[0]?.join).getD 0, s.2)

/-- Values of a row from its element t0 join the lanes. -/
def lanesTake (j : PlaneJob) (t0 : Nat) (xs : List Nat) (acc : List (Option Nat)) : List (Option Nat) × BitVec 6 :=
  xs.zipIdx.foldl (fun s p =>
    let r := laneTake j s.1 ((t0 + p.2) % 64) p.1
    (r.1, s.2 ||| r.2)) (acc, 0)

/-- A chunk of a reduction: `len` elements of a row from its element `start`; the last of a row writes the row's element. -/
def reduceChunk (j : PlaneJob) (row start len : Nat) (last : Bool) (bs : List Byte) (acc : List (Option Nat)) (fl : BitVec 6) :
    ChunkOut :=
  let s := lanesTake j start ((j.vals bs len).map (fun v => (rne32 v).1)) (if start = 0 then noLanes else acc)
  let f := s.2 ||| (if start = 0 then 0 else fl)
  let w := elemBits j.outFmt / 8
  if !last then { acc := s.1, accFlags := f }
  else
    let r := laneTree j s.1
    let o := j.out row (fFP32.value r.1)
    { outs := [(0, j.d + row * w, atLast (f ||| r.2 ||| o.2) (natLe w o.1))], acc := noLanes }

/-! ### Online softmax (R131) -/

/-- The running maximum of a row. -/
def rowMax (acc : List (Option Nat)) : FV := match acc[64]?.join with | some x => fFP32.value x | none => .inf true

/-- First pass of a row: the running maximum of its scores. -/
def osmMaxChunk (j : PlaneJob) (start len : Nat) (bs : List Byte) (acc : List (Option Nat)) : List (Option Nat) :=
  let acc0 := if start = 0 then noLanes else acc
  acc0.set 64 (some (rne32 ((j.vals bs len).foldl (fun m v => m.max2 v) (rowMax acc0))).1)

/-- The probability of score x, element t of the stream. -/
def PlaneJob.prob (j : PlaneJob) (t : Nat) (x m : FV) : Nat × BitVec 6 :=
  let df := x.add m.opp
  let dr := j.rne df.1
  let ex := j.special .exp dr.1
  let o := j.out t (fFP32.value ex.1)
  (o.1, df.2 ||| dr.2 ||| ex.2 ||| o.2)

/-- The new state of a row: m, l, alpha, and the flags raised on the way. -/
def PlaneJob.newState (j : PlaneJob) (sm sl m : FV) (sum : Nat) : Nat × Nat × Nat × BitVec 6 :=
  let df := sm.add m.opp
  let dr := j.rne df.1
  let ex := j.special .exp dr.1
  let alpha : Nat × BitVec 6 := if sm = .inf true then (0x3F800000, 0) else (ex.1, df.2 ||| dr.2 ||| ex.2)
  let lf := sl.fma (fFP32.value alpha.1) (fFP32.value sum)
  let l := j.rne lf.1
  ((rne32 m).1, l.1, alpha.1, alpha.2 ||| lf.2 ||| l.2)

/-- A state record as it is written. -/
def stateBytes (m l alpha : Nat) : List Byte := natLe 4 m ++ natLe 4 l ++ natLe 4 alpha ++ natLe 4 0

/-- Second pass of a row: its probabilities, and at the end the new state record. -/
def osmChunk (j : PlaneJob) (row start len : Nat) (last : Bool) (bs st : List Byte) (acc : List (Option Nat)) (fl : BitVec 6) :
    ChunkOut :=
  let g := row * j.rowLen + start
  let sm := j.at32 st 0
  let sl := j.at32 st 4
  let m := sm.max2 (rowMax acc)
  let w := elemBits j.outFmt
  let state := fun (r : List Byte) (f : BitVec 6) => if last then [(1, j.c + 16 * row, atLast f r)] else []
  if m = .inf true then
    { outs := (0, j.d + g * w / 8, packed w (List.replicate len (0, 0))) ::
        state (stateBytes (rne32 sm).1 (rne32 sl).1 0x3F800000) 0
      acc := if last then noLanes else acc }
  else
    let ps := (j.vals bs len).zipIdx.map (fun x => j.prob (g + x.2) x.1 m)
    let s := lanesTake j start (ps.map (fun p => (rne32 (valueOf j.outFmt p.1)).1)) acc
    let f := s.2 ||| (if start = 0 then 0 else fl)
    let sum := laneTree j s.1
    let n := j.newState sm sl m sum.1
    { outs := (0, j.d + g * w / 8, packed w ps) :: state (stateBytes n.1 n.2.1 n.2.2.1) (f ||| sum.2 ||| n.2.2.2)
      acc := if last then noLanes else s.1
      accFlags := if last then 0 else f }

/-! ### Merging (R132, R133) -/

/-- x × a + y × b with one rounding. -/
def PlaneJob.blend (j : PlaneJob) (x a y b : FV) : Nat × BitVec 6 :=
  let p := x.mul a
  let q := y.mul b
  let r := p.1.add q.1
  let o := j.rne r.1
  (o.1, p.2 ||| q.2 ||| r.2 ||| o.2)

/-- The factor of a partial: 0 where it is empty, else exp32 of its distance to the maximum. -/
def PlaneJob.factor (j : PlaneJob) (pm m : FV) : Nat × BitVec 6 :=
  if pm = .inf true then (0, 0)
  else
    let df := pm.add m.opp
    let dr := j.rne df.1
    let ex := j.special .exp dr.1
    (ex.1, df.2 ||| dr.2 ||| ex.2)

/-- What two partials give: m and l as the record holds them, the two factors, whether both are empty. -/
structure MergeHead where
  bytes : List Byte
  flags : BitVec 6
  a : Nat
  b : Nat
  empty : Bool

def mergeHead (j : PlaneJob) (pa pb : List Byte) : MergeHead :=
  let am := j.at32 pa 0
  let bm := j.at32 pb 0
  let m := am.max2 bm
  let a := j.factor am m
  let b := j.factor bm m
  let l := j.blend (j.at32 pa 4) (fFP32.value a.1) (j.at32 pb 4) (fFP32.value b.1)
  if m = .inf true then { bytes := natLe 4 0xFF800000 ++ natLe 12 0, flags := 0, a := 0, b := 0, empty := true }
  else { bytes := natLe 4 (rne32 m).1 ++ natLe 4 l.1 ++ natLe 8 0, flags := a.2 ||| b.2 ||| l.2, a := a.1, b := b.1, empty := false }

/-- Elements of o of a record, from those of both partials. -/
def mergeElems (j : PlaneJob) (a b : Nat) (empty : Bool) (n : Nat) (xs ys : List Byte) : List (Nat × BitVec 6) :=
  (List.range n).map (fun i =>
    if empty then (0, 0) else j.blend (j.at32 xs (4 * i)) (fFP32.value a) (j.at32 ys (4 * i)) (fFP32.value b))

/-- An issue cycle of record `row`: its first reads m and l, and each other 64 elements of o. The factors stand in places of the
lanes in between. -/
def mergeChunk (j : PlaneJob) (row part : Nat) (last : Bool) (xs ys : List Byte) (acc : List (Option Nat)) : ChunkOut :=
  let d := j.d + row * j.recBytes
  if part = 0 then
    let h := mergeHead j xs ys
    { outs := [(0, d, atLast h.flags h.bytes)], acc := [some h.a, some h.b, if h.empty then some 0 else none] }
  else
    let at_ := fun n => (acc[n]?.join).getD 0
    { outs := [(0, d + 16 + 256 * (part - 1), (mergeElems j (at_ 0) (at_ 1) (acc[2]?.join).isSome 64 xs ys).flatMap (fun r =>
        atLast r.2 (natLe 4 r.1)))]
      acc := if last then noLanes else acc }

/-! ### Chunks (R126 to R128, R133) -/

/-- A chunk: pass of plane.osm, row or record, first element of the row or part of the record, elements, whether it is the last
of its row or record in its pass. -/
structure PlaneChunk where
  pass : Nat := 0
  row : Nat := 0
  start : Nat
  len : Nat
  last : Bool
  deriving DecidableEq, Repr

/-- a / b, rounded up. -/
def ceilDiv (a b : Nat) : Nat := (a + b - 1) / b

namespace PlaneJob

/-- Issue cycles of a whole row or record. -/
def rowChunks (j : PlaneJob) : Nat :=
  if j.isMerge then 1 + j.rowLen / 64
  else if j.isOsm then ceilDiv j.rowLen j.e + ceilDiv j.rowLen (j.e / 2)
  else ceilDiv j.rowLen j.e

/-- Issue cycles of a command (R127). -/
def chunks (j : PlaneJob) : Nat :=
  if j.isMerge then j.n * j.rowChunks
  else if j.isOsm then
    let l := j.rowAt (j.rows - 1)
    (j.rows - 1) * j.rowChunks + ceilDiv l j.e + ceilDiv l (j.e / 2)
  else if j.isReduce then (j.rows - 1) * j.rowChunks + ceilDiv (j.rowAt (j.rows - 1)) j.e
  else ceilDiv j.n (j.chunk 0)

/-- The `k`-th chunk of `e` elements of a pass over `n`. -/
def passChunk (pass row n e k : Nat) : PlaneChunk :=
  { pass := pass, row := row, start := k * e, len := min e (n - k * e), last := decide (n ≤ (k + 1) * e) }

/-- Chunk i of a command. -/
def chunkAt (j : PlaneJob) (i : Nat) : PlaneChunk :=
  if j.isMerge then
    { row := i / j.rowChunks, start := i % j.rowChunks, len := 64, last := decide (i % j.rowChunks + 1 = j.rowChunks) }
  else if j.isOsm then
    let r := min (i / j.rowChunks) (j.rows - 1)
    let k := i - r * j.rowChunks
    let n := j.rowAt r
    let d := ceilDiv n j.e
    if k < d then passChunk 0 r n j.e k else passChunk 1 r n (j.e / 2) (k - d)
  else if j.isReduce then
    passChunk 0 (i / j.rowChunks) (j.rowAt (i / j.rowChunks)) j.e (i % j.rowChunks)
  else passChunk 0 0 j.n (j.chunk 0) i

/-- The element of the command's stream with which a chunk begins. -/
def elemAt (j : PlaneJob) (c : PlaneChunk) : Nat := if j.isReduce || j.isOsm then c.row * j.rowLen + c.start else c.start

/-- A stop point stands before chunk i: at the start, after every 1,024 elements of a pass, after a record (R135). -/
def boundary (j : PlaneJob) (i : Nat) : Bool :=
  if i = 0 then true
  else if j.isMerge then i % j.rowChunks == 0
  else
    let c := j.chunkAt (i - 1)
    (j.elemAt c + c.len) % 1024 == 0

end PlaneJob

/-- What a chunk takes from a source: stream, address, bytes, the end of the stream, whether later chunks take the same bytes. -/
structure SrcNeed where
  stream : Nat
  addr : Nat
  len : Nat
  stop : Nat
  again : Bool := false
  deriving DecidableEq, Repr

/-- The sources of a chunk, in the order A, B, C. A row's state record is read for its second pass. -/
def PlaneJob.needs (j : PlaneJob) (c : PlaneChunk) : List SrcNeed :=
  let t := j.elemAt c
  let elems := fun s base : Nat =>
    { stream := s, addr := base + t * elemBits j.inFmt / 8, len := PlaneJob.bytesOf j.inFmt c.len
      stop := base + PlaneJob.bytesOf j.inFmt j.n : SrcNeed }
  if j.isMerge then
    let part := fun s base : Nat =>
      { stream := s, addr := base + c.row * j.recBytes + (if c.start = 0 then 0 else 16 + 256 * (c.start - 1))
        len := if c.start = 0 then 16 else 256, stop := base + j.n * j.recBytes : SrcNeed }
    [part 0 j.a, part 1 j.b]
  else
    [elems 0 j.a] ++ (if j.usesB then [elems 1 j.b] else []) ++ (if j.usesC then [elems 2 j.c] else []) ++
      (if j.isOsm && c.pass == 1 then
        [{ stream := 1, addr := j.b + 16 * c.row, len := 16, stop := j.b + 16 * j.rows, again := !c.last }] else []) ++
      (if j.isCvt && isMx j.inFmt then
        [{ stream := 2, addr := j.c + t / 32, len := ceilDiv c.len 32, stop := j.c + ceilDiv j.n 32 }] else [])

/-- The reads a chunk has to make: the lines of its sources that are not held, each whole as far as its stream goes. -/
def PlaneJob.reads (j : PlaneJob) (held : Tab (List Byte)) (c : PlaneChunk) : List BenchRead :=
  (j.needs c).flatMap (fun d =>
    let h := (heldOf held d.stream).length
    if d.len ≤ h then [] else rangeReads d.stream (d.addr + h) (min d.stop ((d.addr + d.len + 63) / 64 * 64) - (d.addr + h)))

/-- What is held once a chunk has taken its bytes; plane.osm reads a row's scores again in its second pass. -/
def PlaneJob.left (j : PlaneJob) (held : Tab (List Byte)) (c : PlaneChunk) : Tab (List Byte) :=
  let h := (j.needs c).foldl (fun h d => if d.again then h else tabMod (fun _ => []) d.stream (·.drop d.len) h) held
  if j.isOsm && c.last then tabSet (fun _ => []) 0 [] h else h

/-- A chunk's results. -/
def PlaneJob.run (j : PlaneJob) (c : PlaneChunk) (held : Tab (List Byte)) (acc : List (Option Nat)) (fl : BitVec 6) : ChunkOut :=
  let src := heldOf held
  if j.isMerge then mergeChunk j c.row c.start c.last (src 0) (src 1) acc
  else if j.isOsm then
    if c.pass = 0 then { acc := osmMaxChunk j c.start c.len (src 0) acc }
    else osmChunk j c.row c.start c.len c.last (src 0) (src 1) acc fl
  else if j.isReduce then reduceChunk j c.row c.start c.len c.last (src 0) acc fl
  else elemChunk j c.start c.len src

/-! ### Destination lines (R70, R126) -/

/-- The lines of a piece of a destination stream. -/
def piecesOf (a ready : Nat) (xs : FlagBytes) : List LineOut :=
  (linesOf a xs.length).map (fun l =>
    let lo := max a (64 * l)
    let ys := (xs.drop (lo - a)).take (min (a + xs.length) (64 * l + 64) - lo)
    { addr := lo, bytes := ys.map Prod.fst, flags := ys.foldl (fun f y => f ||| y.2) 0, ready := ready })

/-- Two neighbouring pieces of one line. -/
def LineOut.join (p q : LineOut) : LineOut :=
  if p.bytes = [] then q else { q with addr := p.addr, bytes := p.bytes ++ q.bytes, flags := p.flags ||| q.flags }

def LineOut.full (p : LineOut) : Bool := (p.addr + p.bytes.length) % 64 == 0

/-- A piece of a destination stream: its complete lines wait to be written, the last is kept until it is complete. -/
def Flow.emit (f : Flow) (ready : Nat) (o : Nat × Nat × FlagBytes) : Flow :=
  let none_ : Nat → LineOut := fun _ => {}
  match piecesOf o.2.1 ready o.2.2 with
  | [] => f
  | p :: ps =>
    let ls := (tabGet none_ o.1 f.part).join p :: ps
    { f with outs := f.outs ++ ls.filter LineOut.full, part := tabSet none_ o.1 ((ls.find? (fun l => !l.full)).getD {}) f.part }

/-- Unfinished lines are to be written too. -/
def Flow.flush (f : Flow) : Flow := { f with outs := f.outs ++ f.part.map Prod.snd, part := [] }

/-! ### A core cycle of a plane (R69, R73, R126, R127) -/

/-- L_p of R126. -/
def PlaneJob.latency (j : PlaneJob) : Nat :=
  if j.isMerge then 16 else if j.isOsm then 20 else if j.isReduce then 12 else if (specialOf j.opc).isSome then 14
  else if j.isCvt then 4 else 6

/-- Chunks of a plane command. -/
def planeUnits (c : Cmd) : Nat := (planeJob c).chunks

/-- A stop point stands before chunk i. -/
def planeBoundary (c : Cmd) (i : Nat) : Bool := (planeJob c).boundary i

/-- The reads of the next chunk are generated, from the cycle after the issue of the one before it. DESIGN CHOICE (log entry 105). -/
def PlaneJob.ask (j : PlaneJob) (e : Eng) (t lim : Nat) : Eng :=
  if e.flow.reads.isNone && decide (e.done < lim) && decide (e.flow.issuedAt ≤ t) then
    { e with flow := { e.flow with reads := some (j.reads e.flow.held (j.chunkAt e.done)) } }
  else e

/-- The chunk whose last source line has been read issues. -/
def PlaneJob.issue (j : PlaneJob) (e : Eng) (t : Nat) : Eng :=
  let f := e.flow
  match f.reads with
  | some [] =>
    let c := j.chunkAt e.done
    let o := j.run c f.held e.acc e.accFlags
    { e with
      done := e.done + 1, acc := o.acc, accFlags := o.accFlags
      flow := o.outs.foldl (fun f x => f.emit (t + j.latency) x)
        { f with reads := none, held := j.left f.held c, issuedAt := t + 1 } }
  | _ => e

/-- Reads of P_IN in core cycle t. -/
def Core.planeReads (k : Core) (port : Nat) (e : Eng) (t : Nat) : Eng :=
  match e.flow.reads with
  | none => e
  | some rs =>
    let n := k.portTakes port t 12 [] (rs.map BenchRead.line)
    { e with flow := { e.flow with reads := some (rs.drop n), held := (rs.take n).foldl k.doRead e.flow.held } }

/-- Writes of P_OUT in core cycle t: the lines that are ready, in order. -/
def Core.planeWrites (k : Core) (port : Nat) (u : EngineUnit) (t : Nat) : Core :=
  let f := (k.engOf u).flow
  let n := k.portTakes port t 4 [] ((f.outs.takeWhile (fun o => decide (o.ready ≤ t))).map (fun o => o.addr / 64))
  ((f.outs.take n).foldl (fun k o => (k.store o.addr o.bytes).modEng u (fun e => { e with
    lines := e.lines + 1, flags := e.flags ||| o.flags })) k).modEng u (fun e => { e with flow := { e.flow with outs := f.outs.drop n } })

/-- One core cycle t of a plane command; no chunk from `lim` on issues. -/
def planeCycle (k : Core) (u : EngineUnit) (c : Cmd) (t lim : Nat) : Work :=
  let j := planeJob c
  let e := j.ask (k.engOf u) t lim
  if k.slotless j.pIn ((e.flow.reads.bind List.head?).map BenchRead.line) ||
      k.slotless j.pOut (e.flow.outs.head?.map (fun o => o.addr / 64)) then { core := k.setEng u e, stop := some 0x04 }
  else
    let e1 := j.issue (k.planeReads j.pIn e t) t
    let e2 := if lim ≤ e1.done then { e1 with flow := e1.flow.flush } else e1
    { core := (k.setEng u e2).planeWrites j.pOut u t }

/-- Every chunk up to `lim` has issued and every write is made. -/
def planeDrained (k : Core) (u : EngineUnit) (lim : Nat) : Bool :=
  let e := k.engOf u
  decide (lim ≤ e.done) && e.flow.outs.isEmpty && e.flow.part.isEmpty

/-! ### The restart record (R136) -/

/-- NEXT and PASS of a command stopped before chunk i. -/
def PlaneJob.next (j : PlaneJob) (i : Nat) : Nat × Nat :=
  let c := j.chunkAt i
  if j.isMerge then (c.row, 0) else (min j.n (j.elemAt c), c.pass)

/-- A lane as its four bytes; an empty lane is written as 0 (log entry 100). -/
def laneBytes (x : Option Nat) : List Byte := natLe 4 (x.getD 0)

/-- The lanes as the record holds them. DESIGN CHOICE (log entry 100): the running maximum of plane.osm's row stands in the place
of lane 0 as long as every lane is empty. -/
def recordLanes (acc : List (Option Nat)) : List (Option Nat) :=
  let ls := (acc ++ noLanes).take 64
  if ls.all Option.isNone then acc[64]?.join :: ls.drop 1 else ls

/-- The record of a command stopped before chunk i: the header and the lane accumulators, an empty lane as 0. DESIGN CHOICE
(log entry 100). -/
def planeRecord (c : Cmd) (acc : List (Option Nat)) (i : Nat) : List Byte :=
  let j := planeJob c
  let p := j.next i
  natLe 2 j.tag ++ natLe 1 j.opc ++
    natLe 1 (j.rnd + 4 * boolNat j.nan + 8 * boolNat j.ftz + 16 * boolNat c.h.postEn) ++ natLe 2 c.h.postPeg.toNat ++
    natLe 1 (j.inFmt + 16 * j.outFmt) ++ natLe 1 (j.mode + 16 * p.2) ++ natLe 4 p.1 ++ natLe 4 j.n ++ le3 j.a ++
    le3 j.b ++ le3 j.d ++ le3 j.c ++ natLe 4 0 ++ (recordLanes acc).flatMap laneBytes

end Sys2Proof.Machine
end

