-- ==== Sys2Proof/Machine/Engine.lean ====
section
/-! DEFINITION. Engines: commands at the head of their queues, their start, their end, stops, restart records and resumption;
their work in every core cycle, the calendar and duty wraps (R31 to R35, R38, R53, R69, R73, R89, R92 to R97, R117, R135, R146, R370).
COMMAND_FINISH and ENGINE_STOPPED run the schedule of their engine on to its end or its stop point (log entry 14). -/

namespace Sys2Proof.Machine

/-! ### Records and posts -/

/-- A trace record of a command (R35, R370): kind 1 start, 2 finish, 3 skip. -/
def State.traceCmd (s : State) (c : CoreId) (u : EngineUnit) (x : Cmd) (kind reason val : Nat) : State :=
  s.traceRec (s.partOf c) kind (unitCode u) c.val (s.core c).ctx.toNat x.h.tag.toNat x.opc.toNat reason val

/-- The physical peg of an ID of the context a core runs. -/
def State.corePeg (s : State) (c : CoreId) (id : BitVec 12) : Option Nat :=
  (s.partOf c).bind (fun p => s.pegRef p (s.core c).ctx id.toNat)

/-- The post of a command (R32, R49). -/
def State.post (s : State) (c : CoreId) (u : EngineUnit) (x : Cmd) : State :=
  if !x.h.postEn then s
  else match s.corePeg c x.h.postPeg with
    | some n => s.pegPost (.command c u x.h.tag) n 1
    | none => s

/-- The head of a queue leaves it. -/
def State.popQueue (s : State) (c : CoreId) (u : EngineUnit) : State :=
  s.modCore c (fun k => k.setQueue u ((k.queueOf u).drop 1))

/-- The engine is idle again. -/
def Eng.cleared (e : Eng) : Eng := { record := e.record, stopped := e.stopped }

/-! ### The head of a queue (R32, R33, R49, R63) -/

/-- A bad take or post peg. -/
def State.badPegs (s : State) (c : CoreId) (x : Cmd) : Bool :=
  (x.h.takeEn && (s.corePeg c x.h.takePeg).isNone) || (x.h.postEn && (s.corePeg c x.h.postPeg).isNone)

/-- The check of a command at the head (R33); grind jobs have a check of their own (R185). -/
def checkCmd (k : Core) (u : EngineUnit) (x : Cmd) : Option Nat :=
  match u with
  | .beam => checkBeam k x
  | .plane0 => checkPlane k x
  | .plane1 => checkPlane k x
  | .cart0 => checkCart k 0 x
  | .cart1 => checkCart k 1 x
  | .grind => none

/-- A command at the head sends its take to its peg; one with a bad peg is skipped without take or post. SYNC_ID is the last
condition of the tables of R88, R134 and R142, so another condition that fails too gives the reason. DESIGN CHOICE (log entry 99):
a grind job with a bad peg takes SYNC_ID. -/
def State.atHead (s : State) (c : CoreId) (u : EngineUnit) (x : Cmd) : State :=
  if s.badPegs c x then
    let r := (checkCmd (s.core c) u x).getD 0x08
    ((s.cmdSkip c u x.h.tag.toNat r 0 0).popQueue c u).traceCmd c u x 3 r 0
  else if x.h.takeEn && !x.takeDone then
    match s.corePeg c x.h.takePeg with
    | none => s
    | some n => (s.modEng c u (fun e => { e with phase := .taking })).pegTake n 1 (.command c u)
  else s.modEng c u (fun e => { e with phase := .ready })

def execCommandAtHead (core : CoreId) (u : EngineUnit) (s : State) : Res :=
  let k := s.core core
  match k.queueOf u with
  | [] => .next s
  | x :: _ => whenever (decide ((k.engOf u).phase = .idle) && !(k.engOf u).stopped && k.stop.isNone) s (s.atHead core u x)

/-- A command is skipped at the head: none of its data actions, its post, a log entry. -/
def State.skipHead (s : State) (c : CoreId) (u : EngineUnit) (x : Cmd) (reason status : Nat) : State :=
  ((((s.cmdSkip c u x.h.tag.toNat reason status 0).popQueue c u).modEng c u Eng.cleared).post c u x).traceCmd c u x 3
    reason 0

/-- A command starts: it leaves the queue and its engine runs it. -/
def State.startCmd (s : State) (c : CoreId) (u : EngineUnit) (x : Cmd) : State :=
  let s1 := (s.popQueue c u).modEng c u (fun e => { e.cleared with phase := .running, cmd := some x })
  let s2 := s1.traceCmd c u x 1 0 (x.word 1).toNat
  match u with
  | .beam => s2.modCore c (fun k => beamStarted k x)
  | .cart0 => s2.cartPump c 0
  | .cart1 => s2.cartPump c 1
  | _ => s2

def execCommandStart (core : CoreId) (u : EngineUnit) (s : State) : Res :=
  let k := s.core core
  match k.queueOf u with
  | [] => .next s
  | x :: _ =>
    whenever (decide ((k.engOf u).phase = .ready) && !(k.engOf u).stopped && k.stop.isNone && decide (u ≠ .grind)) s
      (match checkCmd k u x with
       | some r => s.skipHead core u x r 0
       | none => s.startCmd core u x)

/-! ### Work and its end -/

/-- Rows of a command of the beam, chunks of one of a plane. -/
def unitsOfCmd (k : Core) (u : EngineUnit) (x : Cmd) : Nat :=
  match u with
  | .beam => beamUnits k x
  | _ => planeUnits x

/-- One core cycle t of a running command of the beam or a plane; nothing from `lim` on issues. -/
def workCycle (k : Core) (u : EngineUnit) (x : Cmd) (t duty lim : Nat) : Work :=
  match u with
  | .beam => beamCycle k x t duty lim
  | _ => planeCycle k u x t lim

/-- All units up to `lim` have issued and every write of theirs is made. -/
def workDrained (k : Core) (u : EngineUnit) (lim : Nat) : Bool :=
  match u with
  | .beam => beamDrained k lim
  | _ => planeDrained k u lim

/-- A stop point stands before unit i. -/
def workBoundary (k : Core) (u : EngineUnit) (x : Cmd) (i : Nat) : Bool :=
  match u with
  | .beam => beamBoundary k x i
  | _ => planeBoundary x i

/-- The schedule of a command from core cycle t until all units up to `lim` are done or the command has to stop (R69, R73); `n`
bounds the core cycles. -/
def workRun (u : EngineUnit) (x : Cmd) (duty lim : Nat) : Nat → Nat → Core → Nat → Work
  | 0, _, k, rows => { core := k, rows := rows }
  | n + 1, t, k, rows =>
    if workDrained k u lim then { core := k, rows := rows }
    else
      let w := workCycle k u x t duty lim
      match w.stop with
      | some _ => { w with rows := rows + w.rows }
      | none => workRun u x duty lim n (t + 1) w.core (rows + w.rows)

/-- The schedule of a command up to unit `lim`, from the core cycle after the present one. A unit waits at most 16 core cycles for
each of its accesses, 64 for the duty of each row cycle, and for a tile of at most 400 lines. -/
def workOf (k : Core) (u : EngineUnit) (x : Cmd) (t duty lim : Nat) : Work :=
  workRun u x duty lim (2 ^ 14 * (lim + 2)) (t + 1) k 0

/-- The sticky flag word of an engine takes the flags of a command that has ended (R52, R89). -/
def Core.joinFlags (k : Core) (u : EngineUnit) (f : BitVec 6) : Core :=
  match flagEngine u with
  | some n => k.orFlags n f
  | none => k

/-- The command ends, after all of its work or early: flags, log, post, trace (R32, R73, R402). DESIGN CHOICE (log entry 102): of a
beam.mm or beam.acc whose reload stops, the lines completed are its bench line writes. -/
def State.endCmd (s : State) (c : CoreId) (u : EngineUnit) (x : Cmd) (early : Option EarlyEnd) : State :=
  let e := (s.core c).engOf u
  let s1 := s.modCore c (fun k => (k.joinFlags u e.flags).modEng u Eng.cleared)
  match early with
  | none => (s1.post c u x).traceCmd c u x 2 0 e.lines
  | some y =>
    let d2 := if y.reason = 0x11 then y.detail.toNat else e.lines
    ((s1.cmdSkip c u x.h.tag.toNat y.reason.toNat y.status.toNat d2).post c u x).traceCmd c u x 3 y.reason.toNat e.lines

/-- Work is done: its effects on the core, and the count of row cycles. -/
def State.workDone (s : State) (c : CoreId) (w : Work) : State := (s.setCore c w.core).countN (s.partOf c) 4 w.rows

/-- A reason found while running, as an early end. -/
def earlyOf (r : Nat) : EarlyEnd := { reason := BitVec.ofNat 8 r, status := 0, detail := 0 }

/-- The core cycle, and the duty D in force (R92). -/
def State.coreCycle (s : State) : Nat := s.cycles / 5
def State.duty (s : State) : Nat := s.fld oPWR_DUTY 6 0

/-- Run the schedule of the running command of the beam or a plane to its end. -/
def State.runOut (s : State) (c : CoreId) (u : EngineUnit) (x : Cmd) : Work :=
  let k := s.core c
  workOf k u x s.coreCycle s.duty (unitsOfCmd k u x)

/-- Perform the rest of the running command of the beam or a plane and end it. -/
def State.finishWork (s : State) (c : CoreId) (u : EngineUnit) (x : Cmd) : State :=
  match ((s.core c).engOf u).early with
  | some y => s.endCmd c u x (some y)
  | none =>
    let w := s.runOut c u x
    (s.workDone c w).endCmd c u x (w.stop.map earlyOf)

/-- A stop lets the running command of the beam or a plane go on to its end. -/
def State.mayFinish (s : State) (c : CoreId) (u : EngineUnit) (x : Cmd) : Bool :=
  match ((s.core c).engOf u).limit with
  | none => true
  | some l => decide (unitsOfCmd (s.core c) u x ≤ l)

/-- A running beam or plane of a core in one core cycle. -/
def State.engineCycle (s : State) (c : CoreId) (u : EngineUnit) : State :=
  let k := s.core c
  let e := k.engOf u
  match e.cmd with
  | none => s
  | some x =>
    let lim := min (e.limit.getD (unitsOfCmd k u x)) (unitsOfCmd k u x)
    if decide (e.phase = .running) && !e.stopped && e.early.isNone && !workDrained k u lim then
      let w := workCycle k u x s.coreCycle s.duty lim
      let t := s.workDone c w
      match w.stop with
      | none => t
      | some r => t.modEng c u (fun e => { e with early := some (earlyOf r) })
    else s

/-- The running beams and planes in one core cycle (R69, R90, R126). -/
def State.engineTick (s : State) : State :=
  (s.cores.map Prod.fst).foldl (fun t n =>
    if h : n < 128 then [EngineUnit.beam, .plane0, .plane1].foldl (fun t u => t.engineCycle ⟨n, h⟩ u) t else t) s

def execCommandFinish (core : CoreId) (u : EngineUnit) (s : State) : Res :=
  let e := (s.core core).engOf u
  match e.cmd with
  | none => .next s
  | some x =>
    whenever (decide (e.phase = .running) && !e.stopped) s
      (match u with
       | .beam => if s.mayFinish core u x then s.finishWork core u x else s
       | .plane0 => if s.mayFinish core u x then s.finishWork core u x else s
       | .plane1 => if s.mayFinish core u x then s.finishWork core u x else s
       | .cart0 => if e.cartDone then s.endCmd core u x e.early else s
       | .cart1 => if e.cartDone then s.endCmd core u x e.early else s
       | .grind => s)

/-! ### Stops of engines (R38, R94, R95, R135, R146) -/

/-- The record of an idle engine. -/
def idleRecord (k : Core) (u : EngineUnit) : List Byte :=
  match u with
  | .beam => idleBeamRecord k.tile
  | .plane0 => natLe 288 0
  | .plane1 => natLe 288 0
  | .cart0 => natLe 64 0
  | .cart1 => natLe 64 0
  | .grind => []

/-- The record of an engine with a command. -/
def runRecord (k : Core) (u : EngineUnit) (x : Cmd) (e : Eng) : List Byte :=
  match u with
  | .beam => beamRecord k x e.done
  | .plane0 => planeRecord x e.acc e.done
  | .plane1 => planeRecord x e.acc e.done
  | .cart0 => cartRecord x e.done
  | .cart1 => cartRecord x e.done
  | .grind => []

/-- The engine has stopped: its record is written, or none on an abort, which drops the command. -/
def State.markStopped (s : State) (c : CoreId) (u : EngineUnit) : State :=
  let k := s.core c
  let e := k.engOf u
  if k.stop = some .abort then
    s.setCore c ((k.joinFlags u e.flags).setEng u { stopped := true })
  else
    let r := match e.cmd with | some x => runRecord k u x e | none => idleRecord k u
    s.setCore c (k.setEng u { e with stopped := true, record := r, flow := {}, idx := none })

/-- The first stop point of a beam or plane command at or after unit i: at most 64 rows or 65 chunks on, or its end. -/
def stopPoint (k : Core) (u : EngineUnit) (x : Cmd) (i : Nat) : Nat :=
  let n := unitsOfCmd k u x
  match (List.range 66).find? (fun d => decide (n ≤ i + d) || workBoundary k u x (i + d)) with
  | some d => min n (i + d)
  | none => n

/-- How far a running engine may go once it has been asked to stop (R94, R135, R146). A beam.load is not interrupted. -/
def stopLimitOf (k : Core) (u : EngineUnit) : Nat :=
  let e := k.engOf u
  match u, e.cmd with
  | .cart0, _ => e.stopLimit
  | .cart1, _ => e.stopLimit
  | _, none => 0
  | _, some x => stopPoint k u x e.done

/-- The stop point `n` further on than the one an engine goes to. -/
def laterStop (k : Core) (u : EngineUnit) (x : Cmd) (lim : Nat) : Nat → Nat
  | 0 => lim
  | n + 1 => laterStop k u x (stopPoint k u x (lim + 1)) n

/-- A beam or plane goes on to its stop point `lim`; an access without a slot ends the command instead. -/
def State.stopAfter (s : State) (c : CoreId) (u : EngineUnit) (x : Cmd) (lim : Nat) : State :=
  let w := workOf (s.core c) u x s.coreCycle s.duty lim
  let t := s.workDone c w
  match w.stop with
  | some r => t.endCmd c u x (some (earlyOf r))
  | none => t.markStopped c u

/-! ### Resumption (R38, R96, R147) -/

/-- The tile lines that a reload reads before it finds no slot. -/
def reloadLines (k : Core) : Nat :=
  let t := k.tile
  let len := 128 * elemBits t.fmt.toNat / 8
  let rs := (List.range t.kRows).map (fun r => (t.base + r * t.stride, len)) ++
    (if isMx t.fmt.toNat then (List.range ((t.kRows + 31) / 32)).map (fun b => (t.scaleBase + 128 * b, 128)) else [])
  ((rs.flatMap (fun r => linesOf r.1 r.2)).takeWhile (fun l => k.hasSlot pBeamWt (64 * l))).length

/-- The beam acts on its record: it starts to reload the tile of the recorded pass, or reloads the tile it holds. DESIGN CHOICE
(log entry 102): a reload of KIND 0x82 that finds no slot leaves the empty tile, as R96 states for KIND 0x81. -/
def State.resumeBeam (s : State) (c : CoreId) : State :=
  let k := s.core c
  match (k.engOf .beam).cmd with
  | some x => s.modEng c .beam (fun e => { e with flow := beamFlow k x true })
  | none =>
    let (k1, stop) := reloadTile k
    let t := s.setCore c k1
    if !stop then t
    else
      (t.logAny (s.partOf c) { type := 0x01, reason := 0x04, core := c.val, unit := 1, ctx := k.ctx.toNat,
                               tag := s.launchTag c, d2 := reloadLines k }).modLaunch c (fun l => { l with skipped := true })

def execEngineResume (core : CoreId) (u : EngineUnit) (s : State) : Res :=
  let k := s.core core
  let s1 := s.modEng core u (fun e => { e with stopped := false, limit := none })
  whenever (k.stop.isNone && (k.engOf u).stopped) s
    (match u with
     | .beam => s1.resumeBeam core
     | .cart0 => s1.cartPump core 0
     | .cart1 => s1.cartPump core 1
     | _ => s1)

/-! ### Wraps (R53, R67, R92, R377) -/

/-- A pending set becomes the rota of all banks. -/
def Core.wrap (k : Core) : Core :=
  match k.pendingRota with
  | some r => { k with rota := r, pendingRota := none }
  | none => k

/-- Apply a change to every core. -/
def State.mapCores (s : State) (f : Core → Core) : State :=
  (List.finRange 128).foldl (fun t c => t.modCore c f) s

/-- The carts whose next access a new rota leaves without a slot stop; beams and planes look at theirs in every core cycle. -/
def State.wrapCarts (s : State) : State :=
  (s.cores.map Prod.fst).foldl (fun t n => if h : n < 128 then (t.cartWrap ⟨n, h⟩ 0).cartWrap ⟨n, h⟩ 1 else t) s

/-- The calendar wrap is the core cycle in which the calendar counter reads 0 (R67). -/
def execCalendarWrap (s : State) : Res := whenever (decide (s.calendar = 0)) s (s.mapCores Core.wrap).wrapCarts

/-- The duty counter (R92): 6 bits, cleared with the calendar counters. -/
def State.dutyCount (s : State) : Nat := s.coreCycle % 64

/-- The beam duty of a power cap. -/
def dutyOf (cap : Nat) : Nat := min 64 ((cap - 1000) * 64 / 1000)

def execDutyWrap (s : State) : Res := whenever (decide (s.dutyCount = 0)) s (s.setFld oPWR_DUTY 6 0 (dutyOf (s.fld oPWR_CAP 11 0)))

end Sys2Proof.Machine
end

