-- ==== Sys2Proof/Machine/Granary.lean ====
section
/-! DEFINITION. Granary channels: modes, mode registers, channel commands, the micro-program store (R156 to R181). -/

namespace Sys2Proof.Machine

/-! ### States and refusals (R158 to R160, R164) -/

def State.gchan (s : State) (g : GranChan) : Chan := s.chan (granChan g)
def State.modG (s : State) (g : GranChan) (f : Chan → Chan) : State := s.modChan (granChan g) f

/-- A channel log entry of an event that no source of R203 caused: its source field is open (log entry 15). -/
def State.logOwn (s : State) (n : ChanId) (type detail loc tag : Nat) : State :=
  let (w, t) := s.fresh
  t.logChan n type detail loc (w.toNat % 65536) tag

/-- The stack ignores a refused command and sets VIOL. -/
def State.viol (s : State) (g : GranChan) : State := s.modG g (fun c => { c with viol := true })

/-- A quern is in RUN. -/
def Quern.running (q : Quern) : Bool := decide (q.status = 1)

/-- Querns of a channel that are in RUN. -/
def State.running (s : State) (g : GranChan) : List (Fin 16) := (List.finRange 16).filter (fun p => (s.quern g p).running)

/-- STATE of GRAN_STAT and GSTAT. -/
def gStateCode : GMode → Nat
  | .memory => 0 | .processor => 1 | .toProcessor => 2 | .toMemory => 2

/-- A channel counts as grinding (R164). -/
def State.grinding (s : State) (g : GranChan) : Bool :=
  decide ((s.gchan g).mode ≠ .memory) || decide (s.cycles < (s.gchan g).backAt)

/-- The channels of a granary. -/
def granChans (q : Nat) : List GranChan := (List.finRange 128).filter (fun g => g.val / 32 == q)

/-- Grinding channels of a granary. -/
def State.grindingIn (s : State) (q : Nat) : List GranChan := (granChans q).filter s.grinding

/-- A command that is accepted in some modes. -/
def State.inModes (s : State) (g : GranChan) (ms : List GMode) (t : State) : State :=
  if ms.contains (s.gchan g).mode then t else s.viol g

/-- PROC as last written. -/
def procBit : GMode → Bool
  | .memory => false | .toMemory => false | .processor => true | .toProcessor => true

/-- A switch to processor mode starts. -/
def State.toProcessor (s : State) (g : GranChan) : State := s.modG g (fun c => { c with mode := .toProcessor })

/-- A switch to memory mode starts. -/
def State.toMemory (s : State) (g : GranChan) : State := s.modG g (fun c => { c with mode := .toMemory, actWait := [] })

/-- The controller completes every request in its queue before it issues the MRW that starts a switch to processor mode
(R197). -/
def execMrwGmode (g : GranChan) (v : BitVec 16) (s : State) : Res :=
  whenever true s
    (let c := s.gchan g
     if v.getLsbD 0 = procBit c.mode then s
     else if v.getLsbD 0 then
       if !c.queue.isEmpty then s
       else if !c.openBanks.isEmpty || (!s.grinding g && decide (24 ≤ (s.grindingIn (g.val / 32)).length)) then s.viol g
       else s.toProcessor g
     else if !(s.running g).isEmpty then s.viol g
     else s.toMemory g)

def execMrwGqmask (g : GranChan) (v : BitVec 16) (s : State) : Res :=
  whenever true s (s.modG g (fun c => { c with gqmask := v }))

/-- A write to GSTAT is refused (R159, R177). -/
def execMrwGstat (g : GranChan) (_v : BitVec 16) (s : State) : Res := whenever true s (s.viol g)

/-- Bytes of the channel's data bus on their way to the controller. -/
def State.toController (s : State) (g : GranChan) (bs : List Byte) : State := s.send (.channelData (granChan g) bs)

/-- DESIGN CHOICE (log entry 96): a register number that R177 does not list returns no data and is no refusal. -/
def execMrr (g : GranChan) (num : BitVec 8) (s : State) : Res :=
  let c := s.gchan g
  whenever true s
    (if num = 0x40 then s.toController g (natLe 2 (boolNat (procBit c.mode)))
     else if num = 0x41 then s.toController g (natLe 2 c.gqmask.toNat)
     else if num = 0x42 then
       (s.modG g (fun c => { c with viol := false })).toController g (natLe 2 (gStateCode c.mode + 4 * boolNat c.viol))
     else s)

/-! ### The store (R169, R170) -/

/-- The 1 KiB of the store, instruction 0 first. -/
def storeBytes (m : Tab (BitVec 32)) : List Byte :=
  (List.range 256).flatMap (fun n => natLe 4 (tabGet (fun _ => (0 : BitVec 32)) n m).toNat)

/-- Sixteen instructions of a store line. -/
def loadStoreLine (m : Tab (BitVec 32)) (ln : Nat) (bs : List Byte) : Tab (BitVec 32) :=
  (List.range 16).foldl (fun t i => tabSet (fun _ => 0) (16 * ln + i) (BitVec.ofNat 32 (fieldLe bs (4 * i) 4)) t) m

def execPld (g : GranChan) (line : Fin 16) (data : List Byte) (s : State) : Res :=
  checked (.pld g line data) "PLD"
    (whenever true s (s.inModes g [.memory] (s.modG g (fun c => { c with store := loadStoreLine c.store line.val data }))))

/-- The controller loads the store from QPROG_STAGE, by 16 PLD commands. -/
def State.loadStore (s : State) (g : GranChan) : State :=
  let n := (granChan g).val
  let m := (List.range 256).foldl (fun t i =>
    tabSet (fun _ => 0) i ((s.reg (oQPROG_STAGE n i)).setWidth 32) t) ([] : Tab (BitVec 32))
  let t := s.modG g (fun c => { c with store := m })
  (((t.setFld (oQPROG_STAT n) 0 0 0).setFld (oQPROG_STAT n) 1 1 1).setFld (oQPROG_STAT n) 63 32 (crc32c (storeBytes m)))

/-- The granary channel of a channel number; none in a loft. -/
def asGran (ch : ChanId) : Option GranChan :=
  if ch.val / 32 % 2 = 1 then some ⟨ch.val / 64 * 32 + ch.val % 32, by omega⟩ else none

/-- LOAD written 1: the load is made at once, or waits for memory mode. -/
def State.requestLoad (s : State) (g : GranChan) : State :=
  let n := granChan g
  if s.bit (oQPROG_STAT n) 0 then s
  else if (s.gchan g).mode = .memory then s.loadStore g
  else (s.logOwn n 8 0 0 0).setFld (oQPROG_STAT n) 0 0 1

def execQprogLoad (fn : FnId) (ch : ChanId) (s : State) : Res :=
  bar0Write s fn (oQPROG_CTL ch) 1 (fun l =>
    match asGran ch with
    | none => s.logAccess l fn 3 1
    | some g => s.requestLoad g)

/-! ### The end of a switch (R159, R160, R170, R211) -/

/-- The controller reads GSTAT: VIOL is logged and cleared. -/
def State.readGstat (s : State) (g : GranChan) : State :=
  if !(s.gchan g).viol then s
  else
    ((s.modG g (fun c => { c with viol := false })).logOwn (granChan g) 7 0 0 0).setFld
      (oGRAN_VIOL (granChan g)) 0 0 1

def State.switchDone (s : State) (g : GranChan) : State :=
  let n := granChan g
  match (s.gchan g).mode with
  | .toProcessor => (s.modG g (fun c => { c with mode := .processor })).readGstat g
  | .toMemory =>
    let t := (s.modG g (fun c => { c with
      mode := .memory
      backAt := s.cycles + 10000
      dwell := c.queue.map (fun r => r.id) })).readGstat g
    if s.bit (oQPROG_STAT n) 0 then t.loadStore g else t
  | .memory => s
  | .processor => s

def execModeSwitchDone (g : GranChan) (s : State) : Res := whenever true s (s.switchDone g)

/-! ### Local storage, command areas, starts (R166, R167, R176, R178, R179) -/

/-- A line of a quern's local storage (space 0) or command area (space 1) is written; lines 9 to 15 of the command area
ignore writes (R167), and so do lines 16 and up, which it does not have. DESIGN CHOICE (log entry 96). -/
def Quern.writeLine (q : Quern) (space ln : Nat) (bs : List Byte) : Quern :=
  if space = 0 then { q with local_ := writeBytes q.local_ (64 * ln) bs }
  else if ln ≤ 8 then { q with cmdArea := writeBytes q.cmdArea (64 * ln) bs }
  else q

/-- A line read; lines 9 to 15 of the command area read as zero (R167), and so do lines 16 and up. DESIGN CHOICE (log entry
96). -/
def Quern.readLine (q : Quern) (space ln : Nat) : List Byte :=
  if space = 0 then readBytes q.local_ (64 * ln) 64
  else if ln ≤ 8 then readBytes q.cmdArea (64 * ln) 64
  else natLe 64 0

/-- A write is refused for a quern in RUN (R176). DESIGN CHOICE (log entry 96): a broadcast is refused whole while any of the 16
is in RUN. -/
def execQwr (g : GranChan) (space : BitVec 1) (line : BitVec 7) (bc : Bool) (pair : Fin 16) (data : List Byte) (s : State) :
    Res :=
  checked (.qwr g space line bc pair data) "QWR"
    (let ps := if bc then List.finRange 16 else [pair]
     whenever true s
       (s.inModes g [.processor]
         (if ps.any (fun p => (s.quern g p).running) then s.viol g
          else ps.foldl (fun t p => t.setQuern g p ((t.quern g p).writeLine space.toNat line.toNat data)) s)))

/-- Command word n, and its fields (R167). -/
def Quern.cw (q : Quern) (n : Nat) : Nat := readLe q.cmdArea (4 * n) 4
def Quern.qn (q : Quern) : Nat := q.cw 0 % 16
def Quern.dfmt (q : Quern) : Nat := q.cw 0 / 16 % 4
def Quern.nb (q : Quern) : Nat := q.cw 2 % 256

/-- Lines of a row: R167. -/
def Quern.rc (q : Quern) : Nat := if q.dfmt = 2 then 4 else 2

/-- A selected quern at QGO (R178): RUN, or PARAM. -/
def Quern.go (q : Quern) (entry : BitVec 8) : Quern :=
  let bad := q.qn = 0 ∨ 8 < q.qn ∨ 128 < q.nb ∨ q.dfmt = 3
  { q with g := [], pc := entry, past := false, btp := 0, bn := 0, flags := 0, ce := false, line := 0,
           status := if bad then 8 else 1 }

/-- QGO on a channel: the querns GQMASK selects start, the others take IDLE. DESIGN CHOICE (log entry 96): STARTS counts the
QGO commands that the stack accepts. -/
def State.qgo (s : State) (g : GranChan) (entry : BitVec 8) : State :=
  let c := s.gchan g
  (List.finRange 16).foldl (fun t p =>
      t.setQuern g p (if c.gqmask.getLsbD p.val then (t.quern g p).go entry else { t.quern g p with status := 0, line := 0 }))
    (s.modG g (fun c => { c with starts := c.starts + 1 }))

def execQgo (g : GranChan) (entry : BitVec 8) (s : State) : Res :=
  whenever true s
    (s.inModes g [.processor]
      (if (s.running g).any (fun p => (s.gchan g).gqmask.getLsbD p.val) then s.viol g else s.qgo g entry))

def execQrd (g : GranChan) (space : BitVec 1) (line : BitVec 7) (pair : Fin 16) (s : State) : Res :=
  whenever true s (s.inModes g [.processor] (s.toController g ((s.quern g pair).readLine space.toNat line.toNat)))

/-- The status word of a quern (R179). -/
def Quern.statusWord (q : Quern) : Nat :=
  let l := if q.status = 4 ∨ q.status = 5 ∨ q.status = 9 then q.line.toNat else 0
  q.status.toNat + q.flags.toNat * 16 + l * 1024 + boolNat q.ce * 2 ^ 31

def execQst (g : GranChan) (s : State) : Res :=
  whenever true s
    (s.inModes g [.processor] (s.toController g ((List.finRange 16).flatMap (fun p => natLe 4 (s.quern g p).statusWord))))

/-- Every quern in RUN stops with STOPPED; the controller reads GSTAT after it (R159, R176). -/
def State.qstop (s : State) (g : GranChan) : State :=
  ((s.running g).foldl (fun t p => t.setQuern g p { t.quern g p with status := 6 }) s).readGstat g

def execQstop (g : GranChan) (s : State) : Res := whenever true s ((s.inModes g [.processor] (s.qstop g)).readGstat g)

def execQuernTimeout (g : GranChan) (s : State) : Res :=
  whenever (decide ((s.gchan g).mode = .processor) && !(s.running g).isEmpty) s (s.qstop g)

/-! ### The activate scheduler (R157, R163) -/

/-- Grain cycles since the epoch. -/
def State.grainCycle (s : State) : Nat := s.cycles / 20

/-- The lowest of a list of bank pairs. -/
def lowestPair : List Nat → Option Nat
  | [] => none
  | a :: r => match lowestPair r with | some b => some (min a b) | none => some a

/-- The lowest bank pair whose request has been made is granted, unless 8 grants lie in the last 16 grain cycles. -/
def State.grantActivate (s : State) (g : GranChan) : State :=
  let c := s.gchan g
  let recent := c.actGrants.filter (fun t => decide (s.grainCycle < t + 16))
  let due := c.actWait.filter (fun x => decide (x.2 ≤ s.grainCycle))
  match (lowestPair (due.map Prod.fst)).bind (fun p => due.find? (fun x => x.1 == p)) with
  | none => s
  | some x =>
    if 8 ≤ recent.length then s
    else s.modG g (fun c => { c with actWait := c.actWait.erase x, actGrants := recent ++ [s.grainCycle] })

def execActivateGrant (g : GranChan) (s : State) : Res := whenever true s (s.grantActivate g)

end Sys2Proof.Machine
end

