-- ==== Sys2Proof/Machine/Quern.lean ====
section
/-! DEFINITION. The quern instructions (R171 to R175). A command names the instruction a quern executes; it happens where
the store holds that instruction at the quern's PC. -/

namespace Sys2Proof.Machine

/-! ### Instruction words (R171) -/

def qOp (w : Nat) : Nat := bitsOf w 31 26
def qD (w : Nat) : Nat := bitsOf w 25 22
def qA (w : Nat) : Nat := bitsOf w 21 18
def qB (w : Nat) : Nat := bitsOf w 17 14

/-- The instruction at a quern's PC. -/
def State.qWord (s : State) (g : GranChan) (p : Fin 16) : Nat :=
  (tabGet (fun _ => (0 : BitVec 32)) (s.quern g p).pc.toNat (s.gchan g).store).toNat

/-- A quern executes: it is in RUN, in processor mode, and has not gone past the store. -/
def State.qRuns (s : State) (g : GranChan) (p : Fin 16) : Bool :=
  decide ((s.gchan g).mode = .processor) && (s.quern g p).running && !(s.quern g p).past

/-- An instruction of opcode `op` whose word satisfies `f`, with its effect on the quern. -/
def quernOp (s : State) (g : GranChan) (p : Fin 16) (op : Nat) (f : Nat → Bool) (t : State) : Res :=
  whenever (s.qRuns g p && qOp (s.qWord g p) == op && f (s.qWord g p)) s t

/-! ### Registers and control (R172) -/

def Quern.reg (q : Quern) (r : GReg) : BitVec 32 := tabGet (fun _ => 0) r.val q.g
def Quern.setReg (q : Quern) (r : GReg) (v : BitVec 32) : Quern := { q with g := tabSet (fun _ => 0) r.val v q.g }

/-- The next instruction in the store follows; index 255 has none after it. -/
def Quern.next (q : Quern) : Quern := { q with pc := q.pc + 1, past := decide (q.pc = 255) }

/-- A branch to an absolute store index. -/
def Quern.goto (q : Quern) (i : BitVec 8) : Quern := { q with pc := i }

/-- The quern stops with a status and a LINE. DESIGN CHOICE (log entry 96): of an address of lw or sw, which has 32 bits, LINE
keeps the low 21. -/
def Quern.stop (q : Quern) (st : BitVec 4) (ln : Nat) : Quern := { q with status := st, line := BitVec.ofNat 21 ln }

/-- The quern stops with a status whose LINE the specification leaves open (log entry 16). -/
def State.stopOpen (s : State) (g : GranChan) (p : Fin 16) (st : BitVec 4) : State :=
  let (w, t) := s.fresh
  t.setQuern g p ((t.quern g p).stop st (w.toNat % 2 ^ 21))

/-- A register instruction; a parity error in what it fetches or reads stops the quern with PAR (R174). -/
def regOp (s : State) (g : GranChan) (p : QuernStep) (op : Nat) (f : Nat → Bool) (e : Quern → Quern) : Res :=
  quernOp s g p.pair op f (if p.par then s.stopOpen g p.pair 9 else s.setQuern g p.pair (e (s.quern g p.pair)))

def execQHalt (g : GranChan) (p : QuernStep) (s : State) : Res :=
  regOp s g p 0x00 (fun _ => true) (fun q => q.stop 2 0)
def execQJmp (g : GranChan) (p : QuernStep) (imm8 : BitVec 8) (s : State) : Res :=
  regOp s g p 0x01 (fun w => w % 256 == imm8.toNat) (fun q => q.goto imm8)
def execQBz (g : GranChan) (p : QuernStep) (a : GReg) (imm8 : BitVec 8) (s : State) : Res :=
  regOp s g p 0x02 (fun w => qA w == a.val && w % 256 == imm8.toNat)
    (fun q => if q.reg a = 0 then q.goto imm8 else q.next)
def execQBnz (g : GranChan) (p : QuernStep) (a : GReg) (imm8 : BitVec 8) (s : State) : Res :=
  regOp s g p 0x03 (fun w => qA w == a.val && w % 256 == imm8.toNat)
    (fun q => if q.reg a ≠ 0 then q.goto imm8 else q.next)
def execQLoop (g : GranChan) (p : QuernStep) (a : GReg) (imm8 : BitVec 8) (s : State) : Res :=
  regOp s g p 0x04 (fun w => qA w == a.val && w % 256 == imm8.toNat) (fun q =>
    let t := q.setReg a (q.reg a - 1)
    if q.reg a - 1 ≠ 0 then t.goto imm8 else t.next)
def execQLi (g : GranChan) (p : QuernStep) (d : GReg) (imm18 : BitVec 18) (s : State) : Res :=
  regOp s g p 0x05 (fun w => qD w == d.val && w % 2 ^ 18 == imm18.toNat)
    (fun q => (q.setReg d (imm18.setWidth 32)).next)
def execQLui (g : GranChan) (p : QuernStep) (d : GReg) (imm14 : BitVec 14) (s : State) : Res :=
  regOp s g p 0x06 (fun w => qD w == d.val && w % 2 ^ 14 == imm14.toNat)
    (fun q => (q.setReg d (imm14 ++ (q.reg d).setWidth 18)).next)
def execQAddi (g : GranChan) (p : QuernStep) (d a : GReg) (imm14 : BitVec 14) (s : State) : Res :=
  regOp s g p 0x07 (fun w => qD w == d.val && qA w == a.val && w % 2 ^ 14 == imm14.toNat)
    (fun q => (q.setReg d (q.reg a + imm14.signExtend 32)).next)
def execQAdd (g : GranChan) (p : QuernStep) (d a b : GReg) (s : State) : Res :=
  regOp s g p 0x08 (fun w => qD w == d.val && qA w == a.val && qB w == b.val)
    (fun q => (q.setReg d (q.reg a + q.reg b)).next)
def execQSub (g : GranChan) (p : QuernStep) (d a b : GReg) (s : State) : Res :=
  regOp s g p 0x09 (fun w => qD w == d.val && qA w == a.val && qB w == b.val)
    (fun q => (q.setReg d (q.reg a - q.reg b)).next)
def execLdcw (g : GranChan) (p : QuernStep) (d : GReg) (imm8 : BitVec 8) (s : State) : Res :=
  regOp s g p 0x0A (fun w => qD w == d.val && w % 256 == imm8.toNat)
    (fun q => (q.setReg d (BitVec.ofNat 32 (q.cw (imm8.toNat % 16)))).next)

/-- The address of lw and sw. -/
def Quern.localAddr (q : Quern) (a : GReg) (imm14 : BitVec 14) : Nat := (q.reg a + imm14.signExtend 32).toNat

/-- A local access: a multiple of 4 below 0x2000, or the quern stops with ADDR and the address (R173). -/
def Quern.access (q : Quern) (a : Nat) (f : Quern → Quern) : Quern :=
  if a % 4 ≠ 0 ∨ 0x2000 ≤ a then q.stop 4 a else (f q).next

def execLw (g : GranChan) (p : QuernStep) (d a : GReg) (imm14 : BitVec 14) (s : State) : Res :=
  regOp s g p 0x0B (fun w => qD w == d.val && qA w == a.val && w % 2 ^ 14 == imm14.toNat) (fun q =>
    let x := q.localAddr a imm14
    q.access x (fun q => q.setReg d (BitVec.ofNat 32 (readLe q.local_ x 4))))
def execSw (g : GranChan) (p : QuernStep) (b a : GReg) (imm14 : BitVec 14) (s : State) : Res :=
  regOp s g p 0x0C (fun w => qB w == b.val && qA w == a.val && w % 2 ^ 14 == imm14.toNat) (fun q =>
    let x := q.localAddr a imm14
    q.access x (fun q => { q with local_ := writeLe q.local_ x 4 (q.reg b).toNat }))

/-- The next block-table entry, or the branch where none remains (R168, R172). -/
def Quern.nextBlock (q : Quern) (d : GReg) (imm8 : BitVec 8) : Quern :=
  if q.btp.toNat < q.nb then
    let e := readLe q.cmdArea (64 + 4 * q.btp.toNat) 4
    ({ q.setReg d (BitVec.ofNat 32 (e % 2 ^ 21)) with
        bn := BitVec.ofNat 7 (bitsOf e 26 21 + 1)
        btp := q.btp + 1 } : Quern).next
  else q.goto imm8

def execNblk (g : GranChan) (p : QuernStep) (d : GReg) (imm8 : BitVec 8) (s : State) : Res :=
  regOp s g p 0x0D (fun w => qD w == d.val && w % 256 == imm8.toNat) (fun q => q.nextBlock d imm8)

/-! ### Local storage areas (R166) -/

/-- Bytes of FP32 encodings. -/
def f32Bytes (l : List Nat) : List Byte := l.flatMap (fun v => natLe 4 v)

def qbElem (q : Quern) (i k : Nat) : FV := valueOf 1 (readLe q.local_ (256 * i + 2 * k) 2)
def sAddr (i t : Nat) : Nat := 0x800 + 4 * (32 * i + t)
def recAddr (i : Nat) : Nat := 0xC00 + 528 * i
def o32Addr (j : Nat) : Nat := 0xC00 + 4 * j

/-- Bytes of local storage written. -/
def Quern.put (q : Quern) (a : Nat) (bs : List Byte) : Quern := { q with local_ := writeBytes q.local_ a bs }

/-- An FP32 element of local storage. -/
def Quern.f32 (q : Quern) (a : Nat) : Nat := readLe q.local_ a 4

/-- The flags of an instruction join the quern's flag word. -/
def Quern.orFlags (q : Quern) (f : BitVec 6) : Quern := { q with flags := q.flags ||| f }

/-- acci: the partial record of every query is empty. -/
def Quern.acci (q : Quern) : Quern :=
  ((List.range q.qn).foldl (fun t i => t.put (recAddr i) (natLe 4 0xFF800000 ++ natLe 524 0)) q).next

def execAcci (g : GranChan) (p : QuernStep) (s : State) : Res := regOp s g p 0x10 (fun _ => true) Quern.acci

/-! ### Bank reads (R156, R174) -/

/-- The format code of bank data (R167, R76). -/
def Quern.fmt (q : Quern) : Nat := if q.dfmt = 0 then 3 else if q.dfmt = 1 then 4 else 1

/-- Pair lines of a bank pair. -/
def pairLimit : Nat := 1572864

/-- What the reads of an instruction give: the bytes read so far, or the line that answered UE; whether one was
corrected. -/
structure BankRead where
  st : State
  bytes : List Byte := []
  ue : Option Nat := none
  ce : Bool := false

/-- Read one pair line. -/
def BankRead.line (r : BankRead) (g : GranChan) (p : Fin 16) (l : Nat) : BankRead :=
  match r.ue with
  | some _ => r
  | none =>
    let (x, t) := r.st.readLine (pairLineAddr g p.val l / 64)
    if x.ue then { r with st := t, ue := some l }
    else { r with st := t, bytes := r.bytes ++ x.bytes, ce := r.ce || x.corrected }

/-- Read `n` pair lines from `l`. -/
def State.bankRead (s : State) (g : GranChan) (p : Fin 16) (l n : Nat) : BankRead :=
  (List.range n).foldl (fun r i => r.line g p (l + i)) { st := s }

/-- Activates of the rows that `n` lines from `l` touch: the first row's is requested at issue; a later row's first line is
needed 8 grain cycles after issue and one for each line before it, and its activate is requested 16 before that (R157); a late
grant does not move the times of later rows (log entry 95). -/
def State.askActivates (s : State) (g : GranChan) (p : Fin 16) (l n : Nat) : State :=
  if n = 0 then s
  else s.modG g (fun c => { c with
    actWait := c.actWait ++ (List.range ((l + n - 1) / 32 - l / 32 + 1)).map (fun k =>
      (p.val, s.grainCycle + (32 * (l / 32 + k) - l - 8))) })

/-- A stream instruction that reads `n` pair lines from `l`: parity first, then the range, then the reads; the effect `f`
on the quern from the bytes read. One that stops leaves local storage as it was (R173 to R175). -/
def State.stream (s : State) (g : GranChan) (p : Fin 16) (l n : Nat) (ok par : Bool) (errs : LineErrors)
    (f : List Byte → Quern → Quern) : State :=
  if par then s.stopOpen g p 9
  else if !ok || decide (n ≠ 0 ∧ pairLimit < l + n) then s.stopOpen g p 4
  else
    let r := ((s.acquire errs).askActivates g p l n).bankRead g p l n
    let q := r.st.quern g p
    let q1 : Quern := { q with ce := q.ce || r.ce }
    match r.ue with
    | some x => r.st.setQuern g p (q1.stop 5 x)
    | none => r.st.setQuern g p (f r.bytes q1).next

/-- Element k of row t of the bytes read (R173). -/
def rowElem (q : Quern) (bs : List Byte) (t k : Nat) : FV :=
  let b := elemBits q.fmt / 8
  valueOf q.fmt (fieldLe bs (64 * q.rc * t + b * k) b)

/-- exact_dot() of a row with a query: the exact sum of the products, and its flags. -/
def exactDot (q : Quern) (bs : List Byte) (t i : Nat) : FV × BitVec 6 :=
  segSum ((List.range 128).map (fun k => (rowElem q bs t k).mul (qbElem q i k)))

/-- Rows of a half-block that hold tokens. -/
def Quern.halfRows (q : Quern) (x : Bool) : Nat := min 32 (q.bn.toNat - 32 * boolNat x)

/-- The half-block's rows are behind the quern. -/
def Quern.pastRows (q : Quern) (a : GReg) (n : Nat) : Quern := q.setReg a (q.reg a + BitVec.ofNat 32 (n * q.rc))

/-! ### kdot, osm, vacc, mvec, kvapp (R173) -/

/-- One score. -/
def Quern.score (q : Quern) (bs : List Byte) (n i t : Nat) : Nat × BitVec 6 :=
  if n ≤ t then (0xFF800000, 0)
  else
    let d := exactDot q bs t i
    let m := d.1.mul (fFP32.value (q.cw 1))
    let r := rne32 m.1
    (r.1, d.2 ||| m.2 ||| r.2)

def Quern.kdot (q : Quern) (a : GReg) (n : Nat) (bs : List Byte) : Quern :=
  let t := (List.range q.qn).foldl (fun u i =>
    let ss := (List.range 32).map (fun t => q.score bs n i t)
    (u.put (sAddr i 0) (f32Bytes (ss.map Prod.fst))).orFlags (ss.foldl (fun f x => f ||| x.2) 0)) q
  t.pastRows a 32

/-- DESIGN CHOICE (log entry 96): the bank range that kdot and vacc check is that of the rows that hold tokens, which are the rows
the pseudocode reads. -/
def execKdot (g : GranChan) (p : Fin 16) (a : GReg) (x : Bool) (errs : LineErrors) (par : Bool) (s : State) : Res :=
  let q := s.quern g p
  let n := q.halfRows x
  quernOp s g p 0x11 (fun w => qA w == a.val && bitOf w 11 == x)
    (s.stream g p (q.reg a).toNat (q.rc * n) true par errs (fun bs q => q.kdot a n bs))

/-- The plane job whose arithmetic osm uses: FP32 scores, BF16 probabilities, RNE, one row of 32 (R131). -/
def osmJob : PlaneJob :=
  { opc := 0xA8, unit := 0, tag := 0, mode := 0, a := 0, b := 1024, c := 2048, d := 4096, n := 32, inFmt := 0, outFmt := 1,
    rnd := 0, nan := false, ftz := false }

/-- osm_row on 32 scores and a state: probabilities, m, l, alpha, flags (R131). -/
def osmRow (scores st : List Byte) : List Nat × Nat × Nat × Nat × BitVec 6 :=
  let o := osmChunk osmJob 0 0 32 true scores st (osmMaxChunk osmJob 0 32 scores noLanes) 0
  let piece := fun n : Nat => ((o.outs.find? (fun x => x.1 == n)).map (fun x => x.2.2)).getD []
  let rec_ := (piece 1).map Prod.fst
  (codesOf 1 ((piece 0).map Prod.fst) 32, leNat (sliceBytes rec_ 0 4), leNat (sliceBytes rec_ 4 4), leNat (sliceBytes rec_ 8 4),
    o.outs.foldl (fun f x => x.2.2.foldl (fun f y => f ||| y.2) f) 0)

/-- One query of osm: probabilities into S, the new state and the rescaled accumulators into its record. -/
def Quern.osmOne (q : Quern) (i : Nat) : Quern :=
  let r := osmRow (readBytes q.local_ (sAddr i 0) 128) (readBytes q.local_ (recAddr i) 8 ++ natLe 8 0)
  let os := (List.range 128).map (fun k =>
    let m := (fFP32.value (q.f32 (recAddr i + 16 + 4 * k))).mul (fFP32.value r.2.2.2.1)
    let o := rne32 m.1
    (o.1, m.2 ||| o.2))
  let t := q.put (sAddr i 0) (f32Bytes (r.1.map (fun b => (rne32 (valueOf 1 b)).1)))
  let u := t.put (recAddr i) (natLe 4 r.2.1 ++ natLe 4 r.2.2.1)
  (u.put (recAddr i + 16) (f32Bytes (os.map Prod.fst))).orFlags
    (os.foldl (fun f x => f ||| x.2) r.2.2.2.2)

def execQuernOsm (g : GranChan) (p : QuernStep) (s : State) : Res :=
  regOp s g p 0x12 (fun _ => true) (fun q => ((List.range q.qn).foldl (fun t i => t.osmOne i) q).next)

/-- One row of values joins the accumulators of a query. -/
def Quern.vaccRow (q : Quern) (bs : List Byte) (i t : Nat) : Quern :=
  let w := fFP32.value (q.f32 (sAddr i t))
  let os := (List.range 128).map (fun k =>
    let m := w.fma (rowElem q bs t k) (fFP32.value (q.f32 (recAddr i + 16 + 4 * k)))
    let o := rne32 m.1
    (o.1, m.2 ||| o.2))
  (q.put (recAddr i + 16) (f32Bytes (os.map Prod.fst))).orFlags (os.foldl (fun f x => f ||| x.2) 0)

def Quern.vacc (q : Quern) (a : GReg) (n : Nat) (bs : List Byte) : Quern :=
  ((List.range q.qn).foldl (fun u i => (List.range n).foldl (fun v t => v.vaccRow bs i t) u) q).pastRows a 32

def execVacc (g : GranChan) (p : Fin 16) (a : GReg) (x : Bool) (errs : LineErrors) (par : Bool) (s : State) : Res :=
  let q := s.quern g p
  let n := q.halfRows x
  quernOp s g p 0x13 (fun w => qA w == a.val && bitOf w 11 == x)
    (s.stream g p (q.reg a).toNat (q.rc * n) true par errs (fun bs q => q.vacc a n bs))

/-- One element of O32. -/
def Quern.mvecOne (q : Quern) (bs : List Byte) (i : Nat) (x : Bool) (j : Nat) : Quern :=
  let d := exactDot q bs j i
  let r : FV × BitVec 6 := if x then
      let v := (fFP32.value (q.f32 (o32Addr j))).add d.1
      (v.1, d.2 ||| v.2)
    else d
  let o := rne32 r.1
  (q.put (o32Addr j) (natLe 4 o.1)).orFlags (r.2 ||| o.2)

def execMvec (g : GranChan) (p : Fin 16) (a b : GReg) (q : Fin 8) (x : Bool) (errs : LineErrors) (par : Bool) (s : State) :
    Res :=
  let u := s.quern g p
  let n := (u.reg b).toNat
  quernOp s g p 0x14 (fun w => qA w == a.val && qB w == b.val && bitsOf w 10 8 == q.val && bitOf w 11 == x)
    (s.stream g p (u.reg a).toNat (u.rc * n) (decide (n ≤ 1056)) par errs (fun bs v =>
      ((List.range n).foldl (fun t j => t.mvecOne bs q.val x j) v).pastRows a n))

/-- Write lines of a bank pair, with their check bits (R174). -/
def State.bankWrite (s : State) (g : GranChan) (p : Fin 16) (l n : Nat) (bs : List Byte) : State :=
  (List.range n).foldl (fun t i => t.writeLine (pairLineAddr g p.val (l + i) / 64) (sliceBytes bs (64 * i) 64)) s

def execKvapp (g : GranChan) (p : Fin 16) (a b : GReg) (par : Bool) (s : State) : Res :=
  let q := s.quern g p
  let la := (q.reg a).toNat
  let lb := (q.reg b).toNat
  quernOp s g p 0x15 (fun w => qA w == a.val && qB w == b.val)
    (if par then s.stopOpen g p 9
     else if pairLimit < la + q.rc ∨ pairLimit < lb + q.rc then s.stopOpen g p 4
     else
       let t := ((s.askActivates g p la q.rc).askActivates g p lb q.rc)
       let u := (t.bankWrite g p la q.rc (readBytes q.local_ 0x1C80 (64 * q.rc))).bankWrite g p lb q.rc
         (readBytes q.local_ 0x1D80 (64 * q.rc))
       u.setQuern g p q.next)

/-! ### Stops (R175) -/

/-- An opcode of the table of R172. -/
def qDefined (op : Nat) : Bool := decide (op ≤ 0x0D) || (decide (0x10 ≤ op) && decide (op ≤ 0x15))

def execBadop (g : GranChan) (p : Fin 16) (word : BitVec 32) (s : State) : Res :=
  whenever (s.qRuns g p && s.qWord g p == word.toNat && !qDefined (qOp word.toNat)) s
    (s.setQuern g p ((s.quern g p).stop 3 0))

def execQuernPcOverrun (g : GranChan) (p : Fin 16) (s : State) : Res :=
  whenever (decide ((s.gchan g).mode = .processor) && (s.quern g p).running && (s.quern g p).past) s
    (s.setQuern g p ((s.quern g p).stop 7 0))

end Sys2Proof.Machine
end

