-- ==== Sys2Proof/Machine/Grind.lean ====
section
/-! DEFINITION. Grind jobs: check, admission, start, deadline, merge, withdrawal (R175, R181 to R195, R197, R211). -/

namespace Sys2Proof.Machine

/-! ### Operands (R61, R184, R185) -/

/-- The operands of a grind job. -/
structure GrindOps where
  quad : Fin 4
  mask : Nat
  list : Nat
  query : Nat
  qn : Nat
  result : Nat
  entry : BitVec 8
  tokens : Nat
  scale : Nat
  dfmt : Nat
  deriving DecidableEq, Repr

def grindOps (x : Cmd) : GrindOps :=
  { quad := ⟨x.f 1 1 0 % 4, Nat.mod_lt _ (by decide)⟩, mask := x.f 1 33 2, list := x.f 2 21 0, query := x.f 2 43 22,
    qn := x.f 2 47 44, result := x.f 3 21 0, entry := BitVec.ofNat 8 (x.f 3 29 22), tokens := x.f 4 22 0,
    scale := x.f 5 31 0, dfmt := x.h.mode.toNat % 4 }

namespace GrindOps

/-- Entries of the block list. -/
def blocks (o : GrindOps) : Nat := (o.tokens + 63) / 64

/-- Tokens of entry j. -/
def tokensOf (o : GrindOps) (j : Nat) : Nat := min 64 (o.tokens - 64 * j)

/-- Lines of a block slot, and slots of a bank pair (R182). -/
def slotLines (o : GrindOps) : Nat := if o.dfmt = 2 then 512 else 256
def slots (o : GrindOps) : Nat := if o.dfmt = 2 then 3072 else 6144

/-- Bytes of the list, the queries and the result. -/
def ranges (o : GrindOps) : List (Nat × Nat) := [(o.list, 4 * o.blocks), (o.query, 256 * o.qn), (o.result, 528 * o.qn)]

end GrindOps

/-- Fields of a block-list entry (R184). -/
def blSlot (e : BitVec 32) : Nat := bitsOf e.toNat 12 0
def blPair (e : BitVec 32) : Nat := bitsOf e.toNat 16 13
def blChan (e : BitVec 32) : Nat := bitsOf e.toNat 21 17
def blReserved (e : BitVec 32) : Bool := bitsOf e.toNat 31 22 != 0

/-- The granary channel of a channel of a quadrant's granary. -/
def granOf (q : Fin 4) (c : Nat) : GranChan := ⟨32 * q.val + c % 32, by omega⟩

/-! ### The check (R186) -/

/-- A masked channel may not be used: not reserved to the partition, without a loaded store, or barred by a spared bank (R327). -/
def State.grindBarred (s : State) (p : Option PartId) (o : GrindOps) (c : Nat) : Bool :=
  let n := granChan (granOf o.quad c)
  (match p with
   | none => true
   | some q => getBits (tabGet regReset (oPT_GRAN q o.quad) s.tables) (32 * (o.quad.val % 2) + c) (32 * (o.quad.val % 2) + c) == 0) ||
    !s.bit (oQPROG_STAT n) 1 || decide (0 < (s.chan n).barred)

/-- The checks that use the operands alone, in the order of the table. -/
def State.grindOperands (s : State) (p : Option PartId) (k : Core) (o : GrindOps) : Option Nat :=
  if 4194304 < o.tokens then some 0x0C
  else if o.qn = 0 ∨ 8 < o.qn ∨ o.tokens = 0 ∨ o.mask = 0 then some 0x05
  else if o.dfmt = 3 then some 0x06
  else if (List.range 32).any (fun c => bitOf o.mask c && s.grindBarred p o c) then some 0x0D
  else if o.ranges.any (fun r => !inBench r.1 r.2) then some 0x02
  else if o.list % 4 ≠ 0 ∨ o.query % 64 ≠ 0 ∨ o.result % 16 ≠ 0 then some 0x03
  else if o.ranges.any (fun r => !k.rangeSlots pGrind r.1 r.2) then some 0x04
  else none

/-- Channels that a list names, ascending. -/
def activeChans (q : Fin 4) (es : List (BitVec 32)) : List Nat :=
  ((List.range 32).filter (fun c => es.any (fun e => blChan e == c))).map (fun c => (granOf q c).val)

/-- What reading entries has found so far: entries read, channels seen, entries per bank pair, the reason it ended for. -/
structure ListRead where
  read : List (BitVec 32) := []
  chans : List Nat := []
  perPair : Tab Nat := []
  stop : Option Nat := none

/-- Read one more entry of the list. -/
def ListRead.next (o : GrindOps) (l : ListRead) (e : BitVec 32) : ListRead :=
  match l.stop with
  | some _ => l
  | none =>
    let c := blChan e
    let key := 16 * c + blPair e
    let n := tabGet (fun _ => 0) key l.perPair + 1
    let cs := if l.chans.contains c then l.chans else c :: l.chans
    let stop := if !bitOf o.mask c || decide (o.slots ≤ blSlot e) then some 0x07
      else if 24 < cs.length ∨ 128 < n then some 0x05
      else none
    { read := l.read ++ [e], chans := cs, perPair := tabSet (fun _ => 0) key n l.perPair, stop := stop }

/-- The block list of a job as it stands in the bench. -/
def grindList (k : Core) (o : GrindOps) : List (BitVec 32) :=
  (List.range o.blocks).map (fun j => BitVec.ofNat 32 (readLe k.bench (o.list + 4 * j) 4))

/-- Log the nonzero reserved fields of the entries read. -/
def State.logList (s : State) (c : CoreId) (tag : Nat) (es : List (BitVec 32)) : State :=
  (es.filter blReserved).foldl (fun t e =>
    t.logAny (t.partOf c) { type := 0x09, reason := 0x10, core := c.val, unit := 6, ctx := (t.core c).ctx.toNat,
                            tag := tag, d2 := e.toNat }) s

/-- A job that has passed its check. -/
def mkJob (c : CoreId) (k : Core) (x : Cmd) (desc : Option (RingId × BitVec 32)) : GrindJob :=
  let o := grindOps x
  let es := grindList k o
  { core := c, granary := o.quad, cmd := x, queries := readBytes k.bench o.query (256 * o.qn), entries := es,
    chans := activeChans o.quad es, desc := desc }

def State.queueOfGranary (s : State) (q : Fin 4) : List GrindJob := tabGet (fun _ => []) q.val s.admission
def State.setGranaryQueue (s : State) (q : Fin 4) (l : List GrindJob) : State :=
  { s with admission := tabSet (fun _ => []) q.val l s.admission }

/-- Check a job: the reason for which it is skipped, if any, and the state with the list's log entries. -/
def State.checkGrind (s : State) (c : CoreId) (p : Option PartId) (x : Cmd) : Option Nat × State :=
  let k := s.core c
  let o := grindOps x
  match s.grindOperands p k o with
  | some r => (some r, s)
  | none =>
    let l := (grindList k o).foldl (ListRead.next o) {}
    (l.stop, s.logList c x.h.tag.toNat l.read)

/-- The place of a job in an admission queue: behind those that entered before it and, of the same fabric cycle, behind those
of lower core IDs. -/
def placeJob (j : GrindJob) : List GrindJob → List GrindJob
  | [] => [j]
  | x :: r => if x.enteredAt = j.enteredAt ∧ j.core.val < x.core.val then j :: x :: r else x :: placeJob j r

/-- The job enters the admission queue of its granary. Its command stays at the head of its grind queue until the job is
admitted (R29, R190). -/
def State.enterGranary (s : State) (j : GrindJob) : State :=
  (s.setGranaryQueue j.granary (placeJob { j with enteredAt := s.fabric_ } (s.queueOfGranary j.granary))).modEng j.core .grind
    (fun e => { e.cleared with phase := .running, cmd := some j.cmd })

def execGrindCheck (core : CoreId) (s : State) : Res :=
  let k := s.core core
  match k.queueOf .grind with
  | [] => .next s
  | x :: _ =>
    whenever (decide ((k.engOf .grind).phase = .ready) && !(k.engOf .grind).stopped && k.stop.isNone) s
      (let r := s.checkGrind core (s.partOf core) x
       match r.1 with
       | some why => r.2.skipHead core .grind x why 0
       | none => r.2.enterGranary (mkJob core k x none))

/-! ### Admission (R164, R188, R189, R197, R211) -/

/-- A granary channel by its number in a job. -/
def asChan (n : Nat) : GranChan := ⟨n % 128, Nat.mod_lt _ (by decide)⟩

/-- A channel is free for a job: held by no other, and in memory mode with its dwell served or, where no memory request waits
for it, in processor mode. -/
def State.chanFree (s : State) (n : Nat) : Bool :=
  let c := s.gchan (asChan n)
  !s.jobs.any (fun j => j.chans.contains n) &&
    (match c.mode with
     | .processor => c.queue.isEmpty
     | .memory => c.dwell.isEmpty && decide (c.backAt ≤ s.cycles)
     | .toProcessor => false
     | .toMemory => false)

/-- A job can take all its channels at once, within 24 grinding channels of the stack. -/
def State.mayAdmit (s : State) (j : GrindJob) : Bool :=
  j.chans.all s.chanFree &&
    decide ((s.grindingIn j.granary).length + (j.chans.filter (fun n => !s.grinding (asChan n))).length ≤ 24)

/-- A channel in memory mode is precharged and starts its switch; self-refresh ends with it. -/
def State.takeChan (s : State) (n : Nat) : State :=
  let g := asChan n
  if (s.gchan g).mode = .memory then
    let t := (s.modG g (fun c => { c with openBanks := [] })).toProcessor g
    if 2 ≤ t.pstate (granChan g) then t.setFld (oCH_STAT (granChan g)) 1 0 1 else t
  else s

/-- Requests on their way to, or in the queue of, the channels of a job that are in memory mode: the controllers complete them
before the switch, those of one write on all its lines or on none (R197). -/
def State.toDrain (s : State) (j : GrindJob) : List Nat :=
  let cs := (j.chans.filter (fun n => decide ((s.gchan (asChan n)).mode = .memory))).map (fun n => granChan (asChan n))
  (s.inFlight.filter (fun r => !addrHole r.addr && cs.contains (chanOf r.addr))).map MemReq.id ++
    cs.flatMap (fun n => (s.chan n).queue.map MemReq.id)

/-- Requests that have not been performed. -/
def State.unserved (s : State) (ids : List Nat) : List Nat :=
  ids.filter (fun i => s.inFlight.any (fun r => r.id == i) || s.chans.any (fun c => c.2.queue.any (fun r => r.id == i)))

/-- A job is admitted: its command leaves its grind queue and starts (DEDUCED, log entry 97), and its channels are taken. -/
def State.admitJob (s : State) (j : GrindJob) (rest : List GrindJob) : State :=
  let s1 := if j.desc.isNone then s.popQueue j.core .grind else s
  let t := j.chans.foldl State.takeChan (s1.setGranaryQueue j.granary rest)
  ({ t with jobs := t.jobs ++ [{ j with phase := .admitted, admittedAt := s.cycles }] } : State).traceCmd j.core .grind j.cmd 1
    0 (j.cmd.word 1).toNat

/-- Admit the head of a granary's queue, if nothing holds it back: once the requests that were then waiting for its channels
have been served. -/
def State.admitHead (s : State) (q : Fin 4) : State :=
  match s.queueOfGranary q with
  | [] => s
  | j :: rest =>
    if !s.mayAdmit j then s
    else
      match s.unserved (j.drain.getD (s.toDrain j)) with
      | [] => s.admitJob j rest
      | ids => s.setGranaryQueue q ({ j with drain := some ids } :: rest)

def execGrindAdmit (q : Fin 4) (s : State) : Res := whenever true s (s.admitHead q)

/-- A job is over: its channels return to memory mode, but for those the next job takes at once. -/
def State.dropJob (s : State) (j : GrindJob) : State :=
  let t := ({ s with jobs := s.jobs.filter (fun x => decide (x.core ≠ j.core)) } : State).admitHead j.granary
  j.chans.foldl (fun t n =>
    if t.jobs.any (fun x => x.chans.contains n) then t else t.toMemory (asChan n)) t

/-! ### The start (R181, R187) -/

/-- The admitted or running job of a core. -/
def State.jobOf (s : State) (c : CoreId) : Option GrindJob := s.jobs.find? (fun j => decide (j.core = c))

/-- The entries of a quern, with their list indices, ascending. -/
def GrindJob.entriesOf (j : GrindJob) (n : Nat) (p : Fin 16) : List (Nat × BitVec 32) :=
  (j.entries.zipIdx.map (fun e => (e.2, e.1))).filter (fun e => blChan e.2 == n % 32 && blPair e.2 == p.val)

/-- The active querns of a channel. -/
def GrindJob.querns (j : GrindJob) (n : Nat) : List (Fin 16) :=
  (List.finRange 16).filter (fun p => j.entries.any (fun e => blChan e == n % 32 && blPair e == p.val))

/-- A block-table entry (R168, R187). -/
def blockEntry (o : GrindOps) (e : Nat × BitVec 32) : Nat := blSlot e.2 * o.slotLines + (o.tokensOf e.1 - 1) * 2 ^ 21

/-- Free words that fill the last line of a block table. -/
def State.fillers (s : State) : Nat → List Byte × State
  | 0 => ([], s)
  | n + 1 =>
    let (w, t) := s.fresh
    let r := t.fillers n
    (natLe 4 (w.toNat % 2 ^ 32) ++ r.1, r.2)

/-- The command words of an active quern with `n` entries (R187). -/
def GrindOps.words (o : GrindOps) (n : Nat) : List Byte :=
  natLe 4 (o.qn + o.dfmt * 16) ++ natLe 4 o.scale ++ natLe 4 n ++ natLe 52 0

/-- Set up one active quern: command words, block table. -/
def State.setUpQuern (j : GrindJob) (n : Nat) (s : State) (p : Fin 16) : State :=
  let o := grindOps j.cmd
  let g := asChan n
  let es := j.entriesOf n p
  let (fill, t) := s.fillers ((16 - es.length % 16) % 16)
  let q := t.quern g p
  t.setQuern g p { q with
    cmdArea := writeBytes q.cmdArea 0 (o.words es.length ++ es.flatMap (fun e => natLe 4 (blockEntry o e)) ++ fill) }

/-- Broadcast QWR to all 16 querns of a channel (R176, R181): the query buffer, which is equal for every active quern, and the
command words where theirs are equal. -/
def State.broadcastSetUp (j : GrindJob) (n : Nat) (s : State) : State :=
  let o := grindOps j.cmd
  let ns := (j.querns n).map (fun p => (j.entriesOf n p).length)
  (List.finRange 16).foldl (fun t p =>
    let q := (t.quern (asChan n) p).put 0 j.queries
    t.setQuern (asChan n) p (match ns with
      | m :: r => if r.all (· == m) then { q with cmdArea := writeBytes q.cmdArea 0 (o.words m) } else q
      | [] => q)) s

/-- GQMASK of a job on a channel. -/
def GrindJob.mask (j : GrindJob) (n : Nat) : BitVec 16 :=
  BitVec.ofNat 16 ((j.querns n).foldl (fun m p => m + 2 ^ p.val) 0)

/-- Set up one channel and start it. -/
def State.startChan (j : GrindJob) (s : State) (n : Nat) : State :=
  let s1 := (s.modG (asChan n) (fun c => { c with gqmask := j.mask n })).broadcastSetUp j n
  ((j.querns n).foldl (State.setUpQuern j n) s1).qgo (asChan n) (grindOps j.cmd).entry

/-- The job with another phase. -/
def State.setJobPhase (s : State) (c : CoreId) (ph : JobPhase) : State :=
  { s with jobs := s.jobs.map (fun j => if j.core = c then { j with phase := ph } else j) }

def execGrindStart (core : CoreId) (s : State) : Res :=
  match s.jobOf core with
  | none => .next s
  | some j =>
    whenever (decide (j.phase = .admitted) && j.chans.all (fun n => decide ((s.gchan (asChan n)).mode = .processor))) s
      ((j.chans.foldl (State.startChan j) s).setJobPhase core .running)

def execGrindDeadline (core : CoreId) (s : State) : Res :=
  match s.jobOf core with
  | none => .next s
  | some j =>
    whenever (decide (j.phase = .running)) s
      (j.chans.foldl (fun t n => if (t.running (asChan n)).isEmpty then t else t.qstop (asChan n)) s)

/-! ### The end of a job (R175, R191, R193, R194) -/

/-- Every active quern of a job, by channel and bank pair. -/
def GrindJob.allQuerns (j : GrindJob) : List (Nat × Fin 16) := j.chans.flatMap (fun n => (j.querns n).map (fun p => (n, p)))

/-- Two partial records merged: lsemerge() with d = 128, and its flags (R133). -/
def mergeTwo (a b : List Byte) : List Byte × BitVec 6 :=
  let job : PlaneJob :=
    { opc := 0xA9, unit := 0, tag := 0, mode := 1, a := 0, b := 0, c := 0, d := 0, n := 1, inFmt := 0, outFmt := 0,
      rnd := 0, nan := false, ftz := false }
  let h := mergeHead job a b
  let os := mergeElems job h.a h.b h.empty 128 (a.drop 16) (b.drop 16)
  (h.bytes ++ f32Bytes (os.map Prod.fst), os.foldl (fun f r => f ||| r.2) h.flags)

/-- A left fold of records; a single record stands as it is. -/
def mergeAll : List (List Byte) → List Byte × BitVec 6
  | [] => ([], 0)
  | r :: rs => rs.foldl (fun acc x => let m := mergeTwo acc.1 x; (m.1, acc.2 ||| m.2)) (r, 0)

/-- The result record of query i: each channel's querns in ascending bank pair, then the channels ascending; its reserved
doubleword is zero. -/
def State.grindRecord (s : State) (j : GrindJob) (i : Nat) : List Byte × BitVec 6 :=
  let parts := j.chans.map (fun n => mergeAll ((j.querns n).map (fun p =>
    readBytes (s.quern (asChan n) p).local_ (recAddr i) 528)))
  let all := mergeAll (parts.map Prod.fst)
  (putBytes all.1 8 (natLe 8 0), parts.foldl (fun f r => f ||| r.2) all.2)

/-- The job ends: its flags, its post and trace, the fault record of a job without a result, and the end of its descriptor,
whose job runs as if pushed (R191, R287). -/
def State.endJob (s : State) (j : GrindJob) (flags : BitVec 6) (lines : Nat) (fail : Option (Nat × Nat × Nat)) : State :=
  let c := j.core
  let x := j.cmd
  let s1 := (s.modCore c (fun k => (k.joinFlags .grind flags).modEng .grind Eng.cleared)).dropJob j
  let s2 := match fail with
    | none => (s1.post c .grind x).traceCmd c .grind x 2 0 lines
    | some (reason, status, d2) =>
      ((s1.cmdSkip c .grind x.h.tag.toNat reason status d2).post c .grind x).traceCmd c .grind x 3 reason 0
  match j.desc with
  | some (r, q) => s2.endDesc r q (match fail with
      | none => 0
      | some (reason, status, _) => if status = 0 then 0x200 + reason else 0x220 + status)
  | none => s2

/-- Log each start that did not end DONE in its channel's error log. -/
def State.logQuerns (s : State) (j : GrindJob) (bad : List (Nat × Fin 16)) : State :=
  bad.foldl (fun t b =>
    let q := t.quern (asChan b.1) b.2
    t.logOwn (granChan (asChan b.1)) 9 (q.status.toNat + 16 * b.2.val) (q.statusWord / 1024 % 2 ^ 21) j.cmd.h.tag.toNat) s

/-- The flags of every start of a job. -/
def State.startFlags (s : State) (j : GrindJob) : BitVec 6 :=
  j.allQuerns.foldl (fun f b => f ||| (s.quern (asChan b.1) b.2).flags) 0

/-- Merge, write the result and end the job; or end it without a result. -/
def State.mergeJob (s : State) (j : GrindJob) : State :=
  let o := grindOps j.cmd
  let fl := s.startFlags j
  let bad := j.allQuerns.filter (fun b => decide ((s.quern (asChan b.1) b.2).status ≠ 2))
  match bad with
  | b :: _ =>
    let q := s.quern (asChan b.1) b.2
    (s.logQuerns j bad).endJob j fl 0 (some (0, q.status.toNat, q.statusWord / 1024 % 2 ^ 21))
  | [] =>
    let rs := (List.range o.qn).map (s.grindRecord j)
    let k := s.core j.core
    let fl2 := rs.foldl (fun f r => f ||| r.2) fl
    if !k.rangeSlots pGrind o.result (528 * o.qn) then s.endJob j fl2 0 (some (0x04, 0, 0))
    else
      (s.setCore j.core (k.store o.result (rs.flatMap Prod.fst))).endJob j fl2 (lineCount o.result (528 * o.qn)) none

def execGrindMerge (core : CoreId) (s : State) : Res :=
  match s.jobOf core with
  | none => .next s
  | some j =>
    whenever (decide (j.phase = .running) && j.allQuerns.all (fun b => !(s.quern (asChan b.1) b.2).running)) s (s.mergeJob j)

/-! ### Withdrawal (R190) -/

/-- The job of a core that waits for admission. -/
def State.waitingJob (s : State) (c : CoreId) : Option GrindJob :=
  ((List.finRange 4).flatMap s.queueOfGranary).find? (fun j => decide (j.core = c))

/-- A job leaves the admission queue. -/
def State.leaveGranary (s : State) (j : GrindJob) : State :=
  (s.setGranaryQueue j.granary ((s.queueOfGranary j.granary).filter (fun x => decide (x.core ≠ j.core)))).modEng j.core
    .grind Eng.cleared

/-- A preemption or a debug halt before admission: the job's command, still the head of the grind queue, is saved with its take
done; a descriptor's job is taken up again by its descriptor. -/
def State.putBackJob (s : State) (j : GrindJob) : State :=
  let t := s.leaveGranary j
  match j.desc with
  | some (r, q) => t.modDesc r q (fun d => { d with stage := .started })
  | none => t.modCore j.core (fun k => k.setQueue .grind (match k.queueOf .grind with
      | x :: q => { x with takeDone := x.h.takeEn } :: q
      | [] => []))

/-- An abort ends a job that has been admitted: QSTOP on its channels, no result, no post. The flags of its starts are kept
(R194). -/
def State.killJob (s : State) (j : GrindJob) : State :=
  let t := j.chans.foldl (fun t n => if (t.gchan (asChan n)).mode = .processor then t.qstop (asChan n) else t) s
  let fl := if j.phase = .running then s.startFlags j else 0
  (t.modCore j.core (fun k => (k.joinFlags .grind fl).modEng .grind Eng.cleared)).dropJob j

/-- A stop reaches the grind engine: a job that waits for admission is discarded by an abort and put back otherwise; an abort
ends a job that has been admitted, and any other stop lets it run to its end. -/
def State.holdGrind (s : State) (c : CoreId) (abort : Bool) : State :=
  match s.waitingJob c, s.jobOf c with
  | some j, _ => if abort then s.leaveGranary j else s.putBackJob j
  | none, some j => if abort then s.killJob j else s
  | none, none => s

end Sys2Proof.Machine
end

