-- ==== Sys2Proof/Machine/Stops.lean ====
section
/-! DEFINITION. Stops of kingposts: requests and their priority, withdrawal of synchronisation requests, the stop points of
engines, debug halt, resume and step (R36 to R42, R56, R57, R94, R135, R146, R190). -/

namespace Sys2Proof.Machine

/-! ### Which stops are asked for (R37) -/

/-- Priority: an abort before a debug halt before a preemption. -/
def stopRank : StopKind → Nat
  | .abort => 2 | .debugHalt => 1 | .preempt => 0

/-- A stop of a kind is asked of a core: by an abort of its partition or of its launch, by a debug halt, by a context
switch or a sparing of its partition. -/
def State.wantsStop (s : State) (c : CoreId) (k : StopKind) : Bool :=
  let p := s.partOfCore c
  match k with
  | .abort =>
    (match p with | some q => (s.part q).abort.isSome | none => false) ||
      (match s.launchOf c with | some l => l.cancelled | none => false)
  | .debugHalt => (s.core c).haltReq && (match p with | some q => (s.part q).running.isSome | none => false)
  | .preempt =>
    match p with
    | some q => (match (s.part q).switch with | some w => decide (w.phase = .stopping) | none => false) ||
        (s.part q).spareWanted.isSome
    | none => false

/-- A stop kind outranks the one taken or pending. -/
def outranks (k : StopKind) (o : Option StopKind) : Bool :=
  match o with | none => true | some x => decide (stopRank x < stopRank k)

/-- The stop is the one the core takes next. -/
def State.nextStop (s : State) (c : CoreId) (k : StopKind) : Bool :=
  s.wantsStop c k && outranks k (s.core c).stop && outranks k (s.core c).stopReq &&
    ([StopKind.abort, .debugHalt, .preempt].all (fun x => !(decide (stopRank k < stopRank x) && s.wantsStop c x)))

/-! ### Taking a stop (R36, R38 to R40) -/

/-- The take of an engine's head command is withdrawn from its peg. -/
def State.dropTake (s : State) (c : CoreId) (u : EngineUnit) : State :=
  match ((s.core c).queueOf u).head? with
  | some x =>
    match s.corePeg c x.h.takePeg with
    | some n => (s.setPeg n { s.peg n with waiters := dropWaiter (.command c u) (s.peg n).waiters }).servePeg n
    | none => s
  | none => s

/-- What a stop does to an engine at once. -/
def State.holdEngine (s : State) (c : CoreId) (k : StopKind) (u : EngineUnit) : State :=
  let e := (s.core c).engOf u
  if u = .grind ∧ e.phase = .running then s.holdGrind c (decide (k = .abort))
  else match e.phase, k with
  | .idle, .abort => if e.stopped then s.modEng c u (fun _ => { stopped := true }) else s
  | .idle, _ => s
  | .running, .abort => if e.stopped then s.markStopped c u else s.modCore c (fun x => x.modEng u (fun e => { e with
      limit := some (stopLimitOf x u) }))
  | .running, _ => s.modCore c (fun x => x.modEng u (fun e => { e with limit := some (stopLimitOf x u) }))
  | .taking, .debugHalt => s
  | .taking, _ => (s.dropTake c u).modEng c u (fun e => { e with phase := .idle })
  | .ready, .preempt =>
    s.modCore c (fun k => (k.setQueue u (match k.queueOf u with
      | x :: q => { x with takeDone := x.h.takeEn } :: q
      | [] => [])).modEng u (fun e => { e with phase := .idle }))
  | .ready, .abort => s.modEng c u (fun e => { e with phase := .idle })
  | .ready, .debugHalt => s

/-- The kingpost takes a stop: no further command enters a queue; a stalled instruction is executed again on resume; an
abort discards every unstarted command. -/
def State.takeStop (s : State) (c : CoreId) (k : StopKind) : State :=
  let s1 := s.modCore c (fun x => { x with
    stop := some k
    stopReq := none
    stalled := none
    needLine := none
    stepping := false
    stopCause := if k = .debugHalt then 1 else x.stopCause })
  let s2 := allUnits.foldl (fun t u => t.holdEngine c k u) s1
  if k = .abort then s2.modCore c (fun x => { x with queues := [] }) else s2

def execStopRequest (core : CoreId) (k : StopKind) (s : State) : Res :=
  whenever (s.nextStop core k) s
    (if (s.core core).wait.isSome then s.modCore core (fun x => { x with stopReq := some k }) else s.takeStop core k)

/-! ### Answers and withdrawal (R56, R347) -/

/-- A stop that waited for the answer of an object is taken now. -/
def State.takePending (s : State) (c : CoreId) : State :=
  match (s.core c).stopReq with
  | some k => s.takeStop c k
  | none => s

/-- The answer of the object: the instruction issues, and a stop that arrived meanwhile is taken after it. -/
def execSyncAnswer (core : CoreId) (s : State) : Res :=
  match (s.core core).wait with
  | none => .next s
  | some w => whenever w.satisfied s ((s.modCore core (fun k => k.completeWait w)).takePending core)

/-- The TOP that withdraws a request to a peer module: operation 5 with the same transaction. -/
def State.sendWithdraw (s : State) (txn : BitVec 16) : State :=
  match s.fabric.requests.find? (fun r => decide (r.txn = txn)) with
  | none => s
  | some r =>
    let mark := fun (x : PeerReq) => if x.txn = txn then { x with withdrawn := true } else x
    let t : State := { s with fabric := { s.fabric with requests := s.fabric.requests.map mark } }
    let b := putBytes r.bytes 16 (natLe 8 5)
    t.route none (match r.unit with | .kingpost c => s.partOf c | .descriptor q _ => s.partOfRing q | _ => none) b

/-- The stop that waits for the answer to a withdraw. -/
def State.withdraw (s : State) (c : CoreId) (k : StopKind) (w : SyncWait) : State :=
  if w.satisfied then (s.modCore c (fun x => x.completeWait w)).takeStop c k
  else match w.txn with
    | none => (s.giveUp c w).takeStop c k
    | some t => s.sendWithdraw t

def execSyncWithdraw (core : CoreId) (s : State) : Res :=
  match (s.core core).stopReq, (s.core core).wait with
  | some k, some w => whenever true s (s.withdraw core k w)
  | _, _ => .next s

/-! ### Stop points of engines (R38, R94, R135, R146) -/

/-- The grind engine has stopped once no job of it runs. -/
def State.stopGrind (s : State) (c : CoreId) : State :=
  match s.waitingJob c, s.jobOf c with
  | none, none => s.markStopped c .grind
  | _, _ => s

/-- An engine reaches its stop point. `units` is how many stop points the beam or a plane passes before it, where no tick has told
when the stop reached it (log entry 14); a command whose end comes first finishes instead. -/
def execEngineStopped (core : CoreId) (u : EngineUnit) (units : Nat) (s : State) : Res :=
  let k := s.core core
  let e := k.engOf u
  whenever (k.stop.isSome && !e.stopped) s
    (match u, e.cmd with
     | .grind, _ => s.stopGrind core
     | _, none => s.markStopped core u
     | .cart0, some _ => if e.cartAtStop && !e.cartDone then s.markStopped core u else s
     | .cart1, some _ => if e.cartAtStop && !e.cartDone then s.markStopped core u else s
     | _, some x =>
       match e.limit with
       | none => s
       | some l =>
         let lim := laterStop k u x l units
         if e.early.isNone && decide (lim < unitsOfCmd k u x) then s.stopAfter core u x lim else s)

/-! ### Debug halt, resume, step (R40, R42) -/

/-- The kingpost and every engine of a core are stopped by a debug halt (HALTED of KP_DBG_STAT). -/
def Core.halted (k : Core) : Bool :=
  decide (k.stop = some .debugHalt) && allUnits.all (fun u => (k.engOf u).stopped)

/-- A debug halt of a partition's current context is asked of every core of it. HALT reads 1 from here until RESUME. DESIGN CHOICE
(log entry 92): where no context is in, or one is being restored, the request stands: a restore under way ends, no other
switch begins, and cores take the halt once a context runs on them. -/
def State.haltPart (s : State) (p : PartId) : State :=
  let t := s.modPart p (fun q => { q with halted := true })
  (s.coreList p).foldl (fun t c => t.modCore c (fun k => { k with haltReq := true })) t

/-- RESUME releases the kingposts and engines of a partition. -/
def State.resumePart (s : State) (p : PartId) : State :=
  let t := s.modPart p (fun q => { q with halted := false })
  (s.coreList p).foldl (fun t c => t.modCore c (fun k =>
    if k.stop = some .debugHalt then { k with haltReq := false, stop := none, stepping := false, stopCause := 0 }
    else { k with haltReq := false, stopReq := if k.stopReq = some .debugHalt then none else k.stopReq })) t

/-- A debug register write that acts on the partition of a core. -/
def debugWrite (s : State) (fn : FnId) (c : CoreId) (v : Word) (f : PartId → State) : Res :=
  bar0Write s fn (oKP c 0) v (fun _ => match s.partOfCore c with | some p => f p | none => s)

def execDebugHalt (fn : FnId) (core : CoreId) (s : State) : Res := debugWrite s fn core 1 s.haltPart
def execDebugResume (fn : FnId) (core : CoreId) (s : State) : Res := debugWrite s fn core 2 s.resumePart

/-- STEP lets one instruction issue; on a core that is not halted it is ignored and logged. -/
def execDebugStep (fn : FnId) (core : CoreId) (s : State) : Res :=
  bar0Write s fn (oKP core 0) 4 (fun l =>
    if (s.core core).halted then s.modCore core (fun k => { k with stepping := decide (k.run = .running) })
    else s.refuseWrite fn l 4)

end Sys2Proof.Machine
end

