-- ==== Sys2Proof/Machine/Fetch.lean ====
section
/-! DEFINITION. Instruction fetch: misses, line fills, lines that met an error response (R25 to R28, R401). -/

namespace Sys2Proof.Machine

/-- A line of native code is in the instruction cache: its index is bits [15:7] of the address (R25). -/
def Core.cached (k : Core) (line : Nat) : Bool := tabGet (fun _ => 0) (line % 512) k.icache == line + 1

/-- A line is neither in the cache, nor being filled, nor known to meet an error. -/
def Core.absent (k : Core) (line : Nat) : Bool :=
  !k.cached line && !k.fills.any (fun f => f.1 == line) && !k.badLines.any (fun b => b.1 == line)

/-- Request one line of 128 bytes, as two reads, while fewer than 8 fills are outstanding (R27). -/
def State.requestLine (s : State) (c : CoreId) (line : Nat) : State :=
  if !(s.core c).absent line || decide (8 ≤ (s.core c).fills.length) then s
  else
    let a := s.issue (srcFetch c) 0 (s.partOf c) (128 * line) .read 64 []
    let b := a.2.issue (srcFetch c) 0 (s.partOf c) (128 * line + 64) .read 64 []
    b.2.modCore c (fun k => { k with fills := k.fills ++ [(line, [a.1, b.1])] })

/-- A fetch of a line requests the absent ones among it and the next 8 (R27). -/
def State.fetchAhead (s : State) (c : CoreId) (line : Nat) : State :=
  (List.range 9).foldl (fun t i => t.requestLine c (line + i)) s

/-- The line is known to meet an error. -/
def Core.bad (k : Core) (line : Nat) : Bool := k.badLines.any (fun b => b.1 == line)

/-- A miss: the kingpost stalls, and the line and the absent ones of the next 8 are requested. A stepped instruction whose line
is on its way does not issue (R40); one whose line is known to meet an error needs it, as any other does (R401). -/
def State.missLine (s : State) (c : CoreId) (line : Nat) : State :=
  (s.fetchAhead c line).modCore c (fun k =>
    let k1 : Core := { k with fetchAt := some line }
    if k.stepping && !k.bad line then k1.stepDone 3 else { k1 with needLine := some line })

def execFetchMiss (core : CoreId) (line : BitVec 41) (s : State) : Res :=
  whenever ((s.core core).canIssue && !(s.core core).cached line.toNat) s (s.missLine core line.toNat)

/-- The responses to a list of requests, if all have arrived, and the state without them. -/
def State.takeAll (s : State) : List Nat → Option (List MemResp × State)
  | [] => some ([], s)
  | i :: is =>
    match s.takeResp i with
    | none => none
    | some (r, t) => (t.takeAll is).map (fun x => (r :: x.1, x.2))

/-- A line goes into the cache, or is known to meet an error. -/
def Core.fillLine (k : Core) (line : Nat) (rs : List MemResp) : Core :=
  let k1 : Core := { k with fills := k.fills.filter (fun f => f.1 != line) }
  match rs.find? (fun r => decide (r.status ≠ 0)) with
  | some r => { k1 with badLines := tabSet (fun _ => 0) line r.status k1.badLines }
  | none =>
    { k1 with
      icache := tabSet (fun _ => 0) (line % 512) (line + 1) k1.icache
      needLine := if k1.needLine = some line then none else k1.needLine }

/-- The oldest fill whose data has arrived. -/
def State.readyFill (s : State) (c : CoreId) : Option (Nat × List MemResp × State) :=
  (s.core c).fills.findSome? (fun f => (s.takeAll f.2).map (fun x => (f.1, x.1, x.2)))

/-- A kingpost that fetches goes on requesting the lines after the one it last missed, as fills leave room (R27). -/
def State.fetchOn (s : State) (c : CoreId) : State :=
  let k := s.core c
  match k.fetchAt with
  | some line => if k.canIssue then s.fetchAhead c line else s
  | none => s

def execFetchLineArrive (core : CoreId) (s : State) : Res :=
  match s.readyFill core with
  | none => .next s
  | some (line, rs, t) => whenever true s ((t.modCore core (fun k => k.fillLine line rs)).fetchOn core)

/-- The kingpost stops fetching at an instruction whose line met an error; a step ends with it. -/
def State.fetchFail (s : State) (c : CoreId) (code : BitVec 16) : State :=
  let t := s.kpSkip c 0x14 code.toNat
  (t.modLaunch c (fun l => { l with errors := tabSet (fun _ => 0) c.val code l.errors })).modCore c
    (fun k => ({ k with run := .ended, needLine := none } : Core).stepDone 3)

def execFetchError (core : CoreId) (s : State) : Res :=
  let k := s.core core
  match k.needLine with
  | none => .next s
  | some line =>
    match k.badLines.find? (fun b => b.1 == line) with
    | none => .next s
    | some b => whenever (decide (k.run = .running)) s (s.fetchFail core b.2)

end Sys2Proof.Machine
end

