-- ==== Sys2Proof/Machine/Loader.lean ====
section
/-! DEFINITION. Direct accesses of the partition logic and the management processor to device memory, and the image loader
(R43 to R47, R62, R296, R314). -/

namespace Sys2Proof.Machine

/-! ### Direct accesses: performed where the channel would serve them now (log entry 17) -/

/-- The command meets something it has to wait for. -/
def State.stall (s : State) (x : Stall) : State := { s with stalls := s.stalls ++ [x] }

/-- A channel would not perform a request of the module itself now: it is not active or not in memory mode (R161, R207), has no
entry for it (R202), has an earlier request of the same source to perform (R204), or its wheel would serve another request
(R205). -/
def State.mustWait (s : State) (n : ChanId) (r : MemReq) : Bool :=
  let q := (s.chan n).queue
  s.pstate n != 1 || decide ((s.chan n).mode ≠ .memory) || !s.hasEntry n r || (s.drainOf n).isSome ||
    (s.inFlight ++ q).any (fun x => decide (x.src = r.src) && decide (chanOf x.addr = n)) ||
    (!q.isEmpty && decide ((s.pickFrom n (q ++ [r])).map MemReq.id ≠ some r.id))

/-- What a waiting command starts: a channel in self-refresh begins its exit (R207), a peer's line is read once. -/
def State.arrange (s : State) : Stall → State
  | .channel n => if s.pstate n = 2 then s.setFld (oCH_STAT n) 1 0 3 else s
  | .remote dst line vc part =>
    if s.fabric.requests.any (fun q => decide (q.unit = .loader) && decide (q.dst.toNat = dst) &&
        decide (pAddr q.bytes = line)) then s
    else (s.request 0x01 vc dst line 1 [] .loader (some part) none).2

/-- A command that met no stall has its effect; one that met some only starts what it waits for. -/
def State.settle (s t : State) : State :=
  if t.stalls.isEmpty then t else t.stalls.foldl State.arrange s

/-- Read or write at most one line for the module itself. -/
def State.direct (s : State) (part : Option PartId) (a : Nat) (kind : MemKind) (len : Nat) (data : List Byte) :
    State × MemResp :=
  let n := chanOf a
  let r : MemReq :=
    { id := s.nextId, src := srcManagement, tag := 0, part := part, addr := a, kind := kind, len := len, data := data
      since := s.memCycle }
  let fail := fun (ch : ChanId) (code type : Nat) =>
    (s.logChan ch type 0 0 srcManagement.toNat 0, ({ req := r, status := BitVec.ofNat 16 code, data := [] } : MemResp))
  if addrHole a then fail (holeChan a) 0x0102 4
  else if !s.chEnabled n then fail n 0x0103 5
  else if s.mustWait n r then (s.stall (.channel n), { req := r, status := 0, data := List.replicate len 0 })
  else s.performReq n r

/-- The pieces of a range, one for each line. -/
def linePieces (a len : Nat) : List (Nat × Nat) :=
  (linesOf a len).map (fun l => let lo := max a (64 * l); (lo, min (a + len) (64 * l + 64) - lo))

/-- Read a physical range: its bytes, or the code of the first error. -/
def State.readPhys (s : State) (part : Option PartId) (a len : Nat) : State × Nat × List Byte :=
  (linePieces a len).foldl (fun r p =>
    if r.2.1 ≠ 0 then r
    else
      let (t, x) := r.1.direct part p.1 .read p.2 []
      (t, x.status.toNat, r.2.2 ++ x.data)) (s, 0, [])

/-- Write a physical range; the code of the first error. -/
def State.writePhys (s : State) (part : Option PartId) (a : Nat) (bs : List Byte) : State × Nat :=
  (linePieces a bs.length).foldl (fun r p =>
    if r.2 ≠ 0 then r
    else
      let (t, x) := r.1.direct part p.1 .write p.2 (sliceBytes bs (p.1 - a) p.2)
      (t, x.status.toNat)) (s, 0)

/-- Lines rewritten with contents the specification does not give; the code of the first error. -/
def State.writeFree (s : State) (part : Option PartId) (a len : Nat) : State × Nat :=
  (linesOf a len).foldl (fun r l =>
    if r.2 ≠ 0 then r
    else
      let (bs, u) := r.1.freshLine
      let (t, x) := u.direct part (64 * l) .write 64 bs
      (t, x.status.toNat)) (s, 0)

/-- Whether the module itself can reach a page of 64 KiB now, all 32 channels of its stack: the error response it meets. -/
def State.reachPage (s : State) (a : Nat) : State × Nat :=
  let chans := (List.range 32).map (fun i => chanOf (a + 2048 * i))
  let probe : MemReq :=
    { id := s.nextId, src := srcManagement, tag := 0, part := none, addr := a, kind := .read, len := 64, data := [], since := s.memCycle }
  if addrHole a then (s.logChan (holeChan a) 4 0 0 srcManagement.toNat 0, 0x0102)
  else match chans.find? (fun n => !s.chEnabled n) with
    | some n => (s.logChan n 5 0 0 srcManagement.toNat 0, 0x0103)
    | none => ((chans.filter (fun n => s.mustWait n probe)).foldl (fun t n => t.stall (.channel n)) s, 0)

/-! ### Reads through a context's translation (R44, R149 to R155) -/

/-- A walk by direct reads, with its table entries' reserved fields logged. -/
def State.walkDirect (s : State) (p : PartId) (tag : Nat) : Nat → WalkRes → State × WalkRes
  | 0, r => (s, r)
  | n + 1, .read w =>
    let (t, x) := s.direct (some p) w.entry .read 8 []
    let e : Word := BitVec.ofNat 64 (leNat x.data)
    let t1 := if x.status = 0 then t.logEntry p 0xFF 0xFF w.ctx tag w.va e else t
    t1.walkDirect p tag n (t.walkOn p w x)
  | _ + 1, .leaf l => (s, .leaf l)
  | _ + 1, .fail st e => (s, .fail st e)

/-- For whom the loader reads: partition, context, tag, joint (0 for none), class of the ring. -/
structure ReadFor where
  part : PartId
  ctx : BitVec 8
  tag : Nat
  joint : Nat
  vc : Nat

/-- Read one line or less through a leaf: a peer's line once it has been read (R312, R346), a member's shadow page (R239), or
the page itself. -/
def State.readLeaf (s : State) (x : ReadFor) (l : TlbEntry) (va len : Nat) : State × Nat × List Byte :=
  let pa := l.phys va
  if eRemote l.entry then
    match s.loaderLines.find? (fun y => y.dst == eFabric l.entry && y.line == pa / 64 * 64) with
    | some y => (s, y.status.toNat, sliceBytes y.data (pa % 64) len)
    | none => (s.stall (.remote (eFabric l.entry) (pa / 64 * 64) x.vc x.part), 0, List.replicate len 0)
  else
    let at_ := match (if eScoped l.entry && x.joint != 0 then s.shadowOf x.part x.joint l.at_ else none) with
      | some sh => sh + pa % 65536
      | none => pa
    let (u, y) := s.direct (some x.part) at_ .read len []
    (u, y.status.toNat, y.data)

/-- Read one line or less at a virtual address: status and bytes. -/
def State.readVaLine (s : State) (x : ReadFor) (va len : Nat) : State × Nat × List Byte :=
  match s.walkDirect x.part x.tag 5 (s.beginWalk x.part x.ctx va false) with
  | (t, .leaf l) => t.readLeaf x l va len
  | (t, .fail st e) => (t.logXlate (some x.part) 0xFF 0xFF x.ctx x.tag st va e, 0x0211, [])
  | (t, .read _) => (t, 0x0211, [])

/-- Read a virtual range: the bytes, or the status of the first failure. -/
def State.readVa (s : State) (x : ReadFor) (va len : Nat) : State × Nat × List Byte :=
  (linePieces va len).foldl (fun r y =>
    if r.2.1 ≠ 0 then r
    else let (t, st, bs) := r.1.readVaLine x y.1 y.2; (t, st, r.2.2 ++ bs)) (s, 0, [])

/-! ### PVI code (R47 to R50, R57, R58, R62) -/

/-- The size of a defined opcode. -/
def opcSize (opc : Nat) : Option Nat :=
  if opc ≤ 0x05 ∨ (0x08 ≤ opc ∧ opc ≤ 0x15) ∨ opc = 0x18 ∨ opc = 0x19 ∨ (0x20 ≤ opc ∧ opc ≤ 0x25) ∨
      (0x28 ≤ opc ∧ opc ≤ 0x2E) ∨ opc = 0x30 ∨ opc = 0x31 ∨ opc = 0x34 ∨ opc = 0x35 ∨ opc = 0x38 ∨
      (0x40 ≤ opc ∧ opc ≤ 0x48) then some 8
  else if opc = 0x80 ∨ opc = 0xC1 ∨ opc = 0xC2 ∨ opc = 0xD0 then some 64
  else if opc = 0x81 ∨ opc = 0x82 ∨ (0x90 ≤ opc ∧ opc ≤ 0x98) ∨ (0x9C ≤ opc ∧ opc ≤ 0xA1) ∨ opc = 0xA4 ∨ opc = 0xA5 ∨
      opc = 0xA8 ∨ opc = 0xA9 ∨ opc = 0xC0 then some 32
  else none

/-- The size a SIZE field states. -/
def sizeField (w : Nat) : Nat := match bitsOf w 9 8 with | 1 => 32 | 2 => 64 | _ => 8

/-- The first 8 bytes of the instruction at an offset, and operand word n. -/
def pviWord (code : List Byte) (off n : Nat) : Nat := fieldLe code (off + 8 * n) 8

/-- The length of the instruction at an offset (R47). -/
def pviLen (code : List Byte) (off : Nat) : Nat :=
  let w := pviWord code off 0
  (opcSize (w % 256)).getD (sizeField w)

/-- The offsets at which instructions start. -/
def pviStarts (code : List Byte) : Nat → Nat → List Nat
  | 0, _ => []
  | n + 1, off => if code.length ≤ off then [] else off :: pviStarts code n (off + pviLen code off)

/-- An operand word in register form. -/
def isRegForm (w : Nat) : Bool := w / 2 ^ 63 % 2 == 1

/-- The operand words of a command with the widths of their fields. -/
def pviOperands (code : List Byte) (off : Nat) : List (Nat × Nat) :=
  let opc := pviWord code off 0 % 256
  if 0x80 ≤ opc then (fieldWidths opc).zipIdx.map (fun x => (pviWord code off (x.2 + 1), x.1)) else []

/-- The target of a branch. -/
def pviTarget (off w : Nat) : Nat := ((BitVec.ofNat 64 off) + simm (BitVec.ofNat 32 (w / 2 ^ 32))).toNat

/-- An instruction is malformed (R62). -/
def pviMalformed (code : List Byte) (starts : List Nat) (off : Nat) : Bool :=
  let w := pviWord code off 0
  let opc := w % 256
  match opcSize opc with
  | none => true
  | some n =>
    decide (bitsOf w 9 8 = 3) || sizeField w != n || decide (code.length < off + n) ||
      (decide (0x28 ≤ opc ∧ opc ≤ 0x2B) && !starts.contains (pviTarget off w)) ||
      (pviOperands code off).any (fun x => isRegForm x.1 && x.2 == 0)

/-- The bits of the first word of a scalar or synchronisation instruction that its opcode uses (R48, R51, R55); a count comes from
RA or from the immediate as RCNT says, and the other is not used. -/
def scalarMask (opc : Nat) (rcnt : Bool) : Nat :=
  let rd := 0x3C00
  let cm := 0xC00
  let lc := 0x1C00
  let ra := 0x3C000
  let rb := 0x3C0000
  let imm := 0xFFFFFFFF00000000
  let id := 0xFFF00000000
  let cnt := 0x400000 + (if rcnt then ra else 0xFFFF000000000000)
  0x3FF + (
    if opc ≤ 0x01 then 0
    else if opc ≤ 0x03 then rd + imm
    else if opc = 0x04 then rd + ra
    else if opc = 0x05 then rd
    else if opc ≤ 0x0F then rd + ra + rb
    else if opc ≤ 0x15 then rd + ra + imm
    else if opc ≤ 0x19 then rd + ra + rb
    else if opc ≤ 0x25 then cm + ra + rb
    else if opc = 0x28 then imm
    else if opc ≤ 0x2A then cm + imm
    else if opc = 0x2B then lc + imm
    else if opc = 0x2C then lc + ra
    else if opc = 0x2D then lc + imm
    else if opc = 0x2E then rd + 0x1C000
    else if opc = 0x30 then rd + ra + imm
    else if opc = 0x31 then ra + rb + imm
    else if opc = 0x34 then rd + imm
    else if opc = 0x35 then imm
    else if opc = 0x38 then ra + rb + imm
    else if opc = 0x43 ∨ opc = 0x47 then rd + id
    else if opc = 0x44 ∨ opc = 0x45 then ra + id
    else if opc = 0x46 then id
    else id + cnt)

/-- The bits of a command header that its opcode uses (R49, R60, R128). -/
def headerMask (opc : Nat) : Nat :=
  0x03FFFFFFFFFF03FF +
    (if opc < 0x90 ∨ opc = 0xD0 then 0 else 0x400) +
    (if opc = 0x80 ∨ opc = 0x82 then 0x1000
     else if opc = 0xA4 ∨ opc = 0xA5 ∨ opc = 0xA8 ∨ opc = 0xA9 then 0xF000
     else if opc = 0xD0 then 0x3000 else 0)

/-- The bits of operand word n (from 1) that an opcode uses: a plane command leaves unused sources alone. -/
def operandMask (opc n width : Nat) : Nat :=
  if 0x90 ≤ opc ∧ opc < 0xC0 ∧ n = 1 ∧ !(decide (opc ≤ 0x95) || opc == 0xA8 || opc == 0xA9) then 2 ^ 22 - 1
  else if 0x90 ≤ opc ∧ opc < 0xC0 ∧ n = 2 ∧ !(opc == 0x93 || opc == 0x98 || opc == 0xA8) then 2 ^ 22 - 1
  else 2 ^ width - 1

/-- A word has a bit outside a mask. -/
def outside (w mask : Nat) : Bool := BitVec.ofNat 64 w &&& ~~~(BitVec.ofNat 64 mask) != 0

/-- A well-formed instruction has a nonzero reserved field. -/
def pviReserved (code : List Byte) (off : Nat) : Bool :=
  let w := pviWord code off 0
  let opc := w % 256
  outside w (if opc < 0x80 then scalarMask opc (bitOf w 22) else headerMask opc) ||
    (pviOperands code off).zipIdx.any (fun x =>
      if isRegForm x.1.1 then outside (x.1.1 % 2 ^ 63) 15 else outside x.1.1 (operandMask opc (x.2 + 1) x.1.2))

/-- The instruction starts of a code. -/
def codeStarts (code : List Byte) : List Nat := pviStarts code (code.length / 8 + 1) 0

/-! ### Taking up an image (R43 to R46) -/

/-- Cores that run an image. -/
def State.runsImage (s : State) (p : PartId) (key : ImageKey) : Bool :=
  s.launches.any (fun l => decide (l.part = p) && decide (l.key = key))

/-- The loaded image of an address. -/
def State.imageAt (s : State) (p : PartId) (va : BitVec 52) : Option Image :=
  (s.part p).images.find? (fun i => decide (i.key.va = va))

/-- An image of the same address and another CRC is loaded and runs. -/
def State.mustPark (s : State) (w : LoadWait) : Bool :=
  match s.imageAt w.part w.key.va with
  | some i => decide (i.key ≠ w.key) && s.runsImage w.part i.key
  | none => false

/-- The descriptor that waits for an image; none for one of the twin. -/
def LoadWait.desc (w : LoadWait) (s : State) : Option Desc := w.ring.bind (fun x => s.desc x.1 x.2)

/-- Its tag. -/
def State.waitTag (s : State) (w : LoadWait) : Nat := match w.desc s with | some d => fieldLe d.bytes 4 2 | none => 0

/-- For whom a LAUNCH reads its image: a member's reads belong to its joint (R235). -/
def State.launchReads (s : State) (p : PartId) (ctx : BitVec 8) (d : Option Desc) : ReadFor :=
  { part := p, ctx := ctx, tag := match d with | some d => fieldLe d.bytes 4 2 | none => 0,
    joint := match d with | some d => if d.member then fieldLe d.bytes 3 1 else 0 | none => 0,
    vc := match d with | some d => s.cfg (oRT_CTL d.ring) 3 2 | none => 0 }

/-- A LAUNCH whose image is refused completes; one of the twin is logged. -/
def State.refuseImage (s : State) (w : LoadWait) (status : Nat) : State :=
  match w.ring with
  | some (r, q) => s.endDesc r q status
  | none => s.logPart w.part { type := 0x02, ctx := w.ctx.toNat, status := status, d2 := w.key.va.toNat }

/-- A LOAD entry. -/
def State.logLoad (s : State) (w : LoadWait) (reason d1 : Nat) : State :=
  s.logPart w.part { type := 0x02, reason := reason, ctx := w.ctx.toNat, tag := s.waitTag w, d1 := d1, d2 := w.key.va.toNat }

/-- The header is not that of an image this loader translates. -/
def badHeader (h : List Byte) : Bool :=
  let len := fieldLe h 8 4
  fieldLe h 0 4 != 0x31495650 || fieldLe h 4 2 != 1 || decide (3 < fieldLe h 6 2) || decide (len < 8) ||
    decide (64 * 2 ^ 20 < len) || len % 8 != 0

/-- The check of the code: CRC, and an entry that is the start of an instruction. -/
def badCode (h code : List Byte) : Bool :=
  crc32c code != fieldLe h 12 4 || !(codeStarts code).contains (fieldLe h 16 8)

/-- The image that a LAUNCH waits for is loaded. -/
def State.giveImage (s : State) (w : LoadWait) : State :=
  match w.ring with
  | some (r, q) => s.modDesc r q (fun d => { d with image := some w.key })
  | none => s

/-- The image of a key is loaded: it is used without translation (R46). -/
def State.isLoaded (s : State) (w : LoadWait) : Bool := (s.part w.part).images.any (fun i => decide (i.key = w.key))

/-- Read and check an image: header refusals end at once, the others at the end of its translation. Its key is the one of the
header read here. -/
def State.takeImage (s : State) (w : LoadWait) : State :=
  let x := s.launchReads w.part w.ctx (w.desc s)
  let (s1, st1, h) := s.readVa x w.key.va.toNat 64
  if st1 ≠ 0 then { s1 with loadJob := some { wait := w, code := [], entry := 0, refused := some (BitVec.ofNat 16 st1) } }
  else
    let s2 := if (h.drop 24).any (fun b => b != 0) then s1.logLoad w 0x10 (24 + 2 ^ 63) else s1
    let w1 : LoadWait := { w with key := { w.key with crc := BitVec.ofNat 32 (fieldLe h 12 4) } }
    if badHeader h then s2.refuseImage w 0x16
    else if s2.isLoaded w1 then s2.giveImage w1
    else
      let (s3, st3, code) := s2.readVa x (w.key.va.toNat + 64) (fieldLe h 8 4)
      let bad := if st3 ≠ 0 then some (BitVec.ofNat 16 st3) else if badCode h code then some 0x16 else none
      { s3 with loadJob := some { wait := w1, code := code, entry := fieldLe h 16 8, refused := bad } }

/-- A waiting LAUNCH takes its place in fetch order (R45). -/
def queueLoad (w : LoadWait) : List LoadWait → List LoadWait
  | [] => [w]
  | v :: r => if w.order < v.order then w :: v :: r else v :: queueLoad w r

/-- Take the first waiting image that is not set aside; one that is loaded meanwhile is used, one whose address an image in use
holds is set aside. -/
def State.nextImage (s : State) : State :=
  match s.loadQueue.find? (fun w => !w.parked) with
  | none => s
  | some w =>
    if s.mustPark w then
      { s with loadQueue := s.loadQueue.map (fun v => if v = w then { v with parked := true } else v) }
    else
      let t : State := { s with loadQueue := s.loadQueue.erase w }
      if s.isLoaded w then t.giveImage w else { t.takeImage w with loaderLines := [] }

def execLoaderTakeImage (s : State) : Res := whenever s.loadJob.isNone s (s.settle s.nextImage)

/-! ### The end of a translation (R46, R62, R314) -/

/-- Base and size of a partition's native code area. -/
def State.ncaBase (s : State) (p : PartId) : Nat := 65536 * s.cfg (oPT_NCA p) 40 16
def State.ncaSize (s : State) (p : PartId) : Nat := 65536 * s.cfg (oPT_NCA p) 56 41

/-- Gaps of the native code area that hold `len` bytes: start and length. -/
def gapsFor (len : Nat) : Nat → Nat → List (Nat × Nat) → List (Nat × Nat)
  | a, e, [] => if a + len ≤ e then [(a, e - a)] else []
  | a, e, (b, n) :: r => (if a + len ≤ b then [(a, b - a)] else []) ++ gapsFor len (max a (b + n)) e r

/-- Images in ascending order of address. -/
def insertByBase (i : Nat × Nat) : List (Nat × Nat) → List (Nat × Nat)
  | [] => [i]
  | j :: r => if i.1 ≤ j.1 then i :: j :: r else j :: insertByBase i r

/-- Where the loader places the native code: in some gap, at some offset (Config.nativePlace). -/
def placeFor (area len : Nat) (size : Nat) (images : List Image) (pick : Nat) : Option Nat :=
  let used := images.foldr (fun i l => insertByBase (i.nativeBase, i.nativeSize) l) []
  let gaps := gapsFor len area (area + size) used
  (gaps[pick % gaps.length]?).map (fun g => g.1 + (pick / 65536) % ((g.2 - len) / 128 + 1) * 128)

/-- The least recently launched image that no core runs. -/
def State.evictable (s : State) (p : PartId) (images : List Image) : Option Image :=
  leastBy Image.lastUse (images.filter (fun i => !s.runsImage p i.key))

/-- Evict until an image of `len` bytes fits: the images left and its place. -/
def State.makeRoom (s : State) (p : PartId) (len pick : Nat) : Nat → List Image → Option (List Image × Nat)
  | 0, _ => none
  | n + 1, images =>
    let place := if images.length < 64 then placeFor (s.ncaBase p) len (s.ncaSize p) images pick else none
    match place with
    | some a => some (images, a)
    | none => match s.evictable p images with
      | some i => s.makeRoom p len pick n (images.erase i)
      | none => none

/-- Log each malformed instruction, and each well-formed one with a nonzero reserved field, once. -/
def State.logCode (s : State) (w : LoadWait) (code : List Byte) : State :=
  let starts := codeStarts code
  starts.foldl (fun t off =>
    if pviMalformed code starts off then t.logLoad w 0x01 off
    else if pviReserved code off then t.logLoad w 0x10 off else t) s

/-- A protected partition has loaded an image: the twin is told (R314). -/
def State.noteImage (s : State) (w : LoadWait) : State :=
  if w.ring.isSome && decide (s.cfg (oPT_CTL w.part) 3 2 ≠ 0) && (s.twState == 1 || s.twState == 2)
  then s.send (.imageNotice w.part w.key.va w.key.crc) else s

/-- The image joins those of its partition, in place of one of the same address. Native code that a controller refuses to
store is not loaded, and the LAUNCH completes with the response's code (log entry 94). -/
def State.installImage (s : State) (j : LoadJob) : State :=
  let w := j.wait
  let p := w.part
  let len := Config.nativeLen w.key.va.toNat w.key.crc.toNat % (2 * j.code.length) + 1
  let others := (s.part p).images.filter (fun i => decide (i.key.va ≠ w.key.va))
  let pick := Config.nativePlace w.key.va.toNat w.key.crc.toNat
  if !s.inRanges p (s.ncaBase p) (s.ncaSize p) then s.refuseImage w 0x0102
  else
    match s.makeRoom p len pick 65 others with
    | none => (s.modPart p (fun q => { q with images := others })).refuseImage w 0x17
    | some (keep, base) =>
      let starts := codeStarts j.code
      let img : Image :=
        { key := w.key, entry := BitVec.ofNat 48 j.entry, codeLen := j.code.length, nativeBase := base, nativeSize := len
          malformed := starts.any (pviMalformed j.code starts), lastUse := s.launchOrder }
      let (t, st) := (s.logCode w j.code).writeFree (some p) base len
      if st ≠ 0 then t.refuseImage w st
      else ((t.modPart p (fun q => { q with images := keep ++ [img] })).giveImage w).noteImage w

/-- The loader ends with an image: it is loaded, or refused, or waits for an image in use. -/
def State.endLoad (s : State) (j : LoadJob) : State :=
  let t := { s with loadJob := none }
  match j.refused with
  | some st => t.refuseImage j.wait st.toNat
  | none =>
    if t.mustPark j.wait then { t with loadQueue := queueLoad { j.wait with parked := true } t.loadQueue }
    else t.installImage j

def execImageTranslated (s : State) : Res :=
  match s.loadJob with
  | none => .next s
  | some j => whenever true s (s.settle (s.endLoad j))

/-- No core runs the old image of an address: the LAUNCH that waits for it is taken up at its place in fetch order, ahead of
those fetched after it. -/
def State.unpark (s : State) (p : PartId) (va : BitVec 52) : State :=
  let mine := fun (w : LoadWait) => w.parked && decide (w.part = p) && decide (w.key.va = va) && !s.mustPark w
  { s with loadQueue := s.loadQueue.map (fun w => if mine w then { w with parked := false } else w) }

def execImageIdle (p : PartId) (va : BitVec 52) (s : State) : Res := whenever true s (s.unpark p va)

end Sys2Proof.Machine
end

