-- ==== Sys2Proof/Machine/Desc.lean ====
section
/-! DEFINITION. Descriptors: headers and bodies, order of sequence numbers, completion records, retirement, the status line
(R258, R260, R261, R267 to R269, R278, R282, R290, R316). -/

namespace Sys2Proof.Machine

/-! ### Headers and bodies (R278, R282) -/

def Desc.f (d : Desc) (o n : Nat) : Nat := fieldLe d.bytes o n
def Desc.opc (d : Desc) : Nat := d.f 0 1
def Desc.flagBit (d : Desc) (i : Nat) : Bool := bitOf (d.f 1 1) i
def Desc.fenced (d : Desc) : Bool := d.flagBit 0
def Desc.irq (d : Desc) : Bool := d.flagBit 1
def Desc.jointFlag (d : Desc) : Bool := d.flagBit 2
def Desc.noFlush (d : Desc) : Bool := d.flagBit 4
def Desc.extra (d : Desc) : Nat := d.f 2 1 % 4
def Desc.jid (d : Desc) : Nat := d.f 3 1
def Desc.tag (d : Desc) : Nat := d.f 4 2

/-- The descriptor is named by a ring and a sequence. -/
def Desc.named (d : Desc) (r : RingId) (seq : BitVec 32) : Bool := decide (d.ring = r) && decide (d.seq = seq)

/-- Opcodes that may be members of a joint, and those that act on one (R234). -/
def mayJoin (opc : Nat) : Bool := decide (opc ≤ 0x06) || opc == 0x11
def jointOp (opc : Nat) : Bool := opc == 0x0B || opc == 0x0C || opc == 0x0D

/-- A member by its header, whatever its joint's state. -/
def Desc.wantsJoint (d : Desc) : Bool := d.jointFlag && mayJoin d.opc && decide (1 ≤ d.jid) && decide (d.jid ≤ 64)

/-- Context, class and slots of a ring. -/
def State.ringCtx (s : State) (r : RingId) : BitVec 8 := BitVec.ofNat 8 (s.cfg (oRT_CTL r) 23 16)
def State.ringClass (s : State) (r : RingId) : Nat := s.cfg (oRT_CTL r) 3 2
def State.ringSize (s : State) (r : RingId) : Nat := s.cfg (oRT_SIZE r) 16 0

/-- The joint to which a descriptor's accesses belong; 0 for none (R235). -/
def Desc.joint (d : Desc) : Nat := if d.member then d.jid else 0

/-- A sequence lies before a bound: 1 ≤ (bound − s) mod 2^32 ≤ 2^31 (R288). -/
def before (x bound : BitVec 32) : Bool :=
  decide (1 ≤ (bound - x).toNat) && decide ((bound - x).toNat ≤ 2 ^ 31)

/-- A descriptor has completed for the purposes of fences: its record is written, or withheld in a joint (R250). -/
def Desc.done (d : Desc) : Bool := decide (d.stage = .completed) && d.member

/-- A descriptor has started. -/
def Desc.begun (d : Desc) : Bool := decide (d.stage ≠ .fetched)

/-- Fetched descriptors of a partition. -/
def State.descs (s : State) (p : PartId) : List Desc := (s.part p).descs

/-- A descriptor with its partition. -/
def State.descOf (s : State) (r : RingId) (seq : BitVec 32) : Option (PartId × Desc) :=
  match s.partOfRing r with
  | none => none
  | some p => ((s.descs p).find? (fun d => d.named r seq)).map (fun d => (p, d))

/-! ### FETCHED and RETIRED (R269, R271) -/

def State.fetched (s : State) (r : RingId) : BitVec 32 := BitVec.ofNat 32 (s.fld (oRT_STAT r) 31 0)
def State.retired (s : State) (r : RingId) : BitVec 32 := BitVec.ofNat 32 (s.fld (oRT_STAT r) 63 32)

/-- A record of an adopted ring before the tail found at its adoption (R323). -/
def State.replaying (s : State) (r : RingId) (seq : BitVec 32) : Bool :=
  (s.ring r).replayDue ||
    (match (s.ring r).replayTo with
     | some t => before seq t
     | none => false)

/-- Normal service for a record: SERVICE as of the last FLUSH read, and no replay (R258, R260, R261). -/
def State.service (s : State) (r : RingId) (seq : BitVec 32) : Bool :=
  getBits (tabGet regReset oHL_CTL s.flushed) 0 0 == 1 && !s.replaying r seq

/-- The host address of a ring's status line. -/
def State.statusAddr (s : State) (r : RingId) : Nat := 64 * s.cfg (oRT_CPL r) 63 6

/-- Write the status line. -/
def State.statusLine (s : State) (r : RingId) : State :=
  let bytes := natLe 4 (s.retired r).toNat ++ natLe 4 (s.fetched r).toNat ++ natLe 4 (s.fld (oRT_OVERDUE r) 31 0) ++
    natLe 52 0
  let fn := match s.partOfRing r with | some p => partFn p | none => 0
  s.toHost (.hostWrite fn (s.statusAddr r) bytes (!s.service r (s.retired r)))

/-- A replay ends once RETIRED has reached its end (R261). -/
def Ring.replayed (k : Ring) (v : BitVec 32) : Ring :=
  match k.replayTo with
  | some t => if before v t then k else { k with replayTo := none }
  | none => k

/-- RETIRED takes a value. -/
def State.setRetired (s : State) (r : RingId) (v : BitVec 32) : State :=
  if s.retired r = v then s
  else (((s.setFld (oRT_STAT r) 63 32 v.toNat).statusLine r).modRing r (fun k => k.replayed v))

/-- Descriptors of a partition are protected by an active twin (R315, R316). -/
def State.protected_ (s : State) (p : PartId) : Bool :=
  decide (s.cfg (oPT_CTL p) 3 2 = 1 ∨ s.cfg (oPT_CTL p) 3 2 = 2)
def State.twinRetires (s : State) (p : PartId) : Bool := s.protected_ p && s.twState == 2

/-- The first descriptor of a ring that has not completed. -/
def State.firstOpen (s : State) (p : PartId) (r : RingId) : BitVec 32 :=
  match (s.descs p).find? (fun d => decide (d.ring = r)) with
  | some d => d.seq
  | none => s.fetched r

/-- The value RETIRED takes: the first descriptor that has not completed; with an active twin no later than the recovery point
that the twin has acknowledged (R269, R316). -/
def State.retireTo (s : State) (p : PartId) (r : RingId) : BitVec 32 :=
  let open_ := s.firstOpen p r
  if s.twinRetires p then
    match (s.part p).points.find? (fun x => decide (x.1 = r)) with
    | some x => if before x.2 open_ then x.2 else open_
    | none => s.retired r
  else open_

/-- Retire what can be retired. -/
def State.retire (s : State) (p : PartId) (r : RingId) : State := s.setRetired r (s.retireTo p r)

/-! ### Completion records (R290) -/

/-- The record of a descriptor, with the time of writing. -/
def State.record (s : State) (d : Desc) (unflushed : Bool) : List Byte :=
  let fl := d.flags.toNat + boolNat (s.replaying d.ring d.seq) + 8 * boolNat unflushed
  natLe 4 d.seq.toNat ++ natLe 2 d.status.toNat ++ natLe 2 d.tag ++ natLe 6 s.stamp ++ natLe 2 fl

/-- The record slot of a sequence (R268). -/
def State.recordAddr (s : State) (r : RingId) (seq : BitVec 32) : Nat :=
  s.statusAddr r + 64 + 16 * (seq.toNat % s.ringSize r)

/-- A descriptor leaves its partition's list. -/
def State.dropDesc (s : State) (p : PartId) (d : Desc) : State :=
  s.modPart p (fun q => { q with descs := q.descs.filter (fun x => !x.named d.ring d.seq) })

/-- The completion of a partition abort is visible: BUSY clears, COUNT advances, and further requests by descriptor complete (R306,
R307). -/
def State.closeAbort (s : State) (p : PartId) : State :=
  if !(s.part p).closing then s
  else
    let t := ((s.setFld (oPT_ABORT p.val) 1 1 0).incFld (oPT_ABORT p.val) 31 16 1).modPart p (fun q => { q with closing := false })
    ((t.descs p).filter (fun d => d.opc == 0x10 && decide (d.stage = .running))).foldl (fun u d => u.endDesc d.ring d.seq 0) t

/-- Write a descriptor's record, send its vector, retire it. -/
def State.writeRecord (s : State) (p : PartId) (d : Desc) (unflushed relaxed : Bool) : State :=
  let s1 := s.toHost (.hostWrite (partFn p) (s.recordAddr d.ring d.seq) (s.record d unflushed) relaxed)
  let s2 := if d.irq then s1.toHost (.msix (partFn p) (s.cfg (oRT_CTL d.ring) 34 24)) else s1
  let s3 := ((s2.count (some p) 1).dropDesc p d).retire p d.ring
  if d.opc = 0x10 ∧ d.status = 0 then s3.closeAbort p else s3

/-- A record that has its own flushing read in either regime: of a FLUSH, and of the completion of a partition abort. -/
def Desc.flushes (d : Desc) : Bool := d.status == 0 && (d.opc == 0x08 || d.opc == 0x10)

/-- A record with a flushing read of its own (R258, R260). -/
def State.ownFlush (s : State) (d : Desc) : Bool := d.flushes || (s.service d.ring d.seq && !d.noFlush)

/-- The record has to follow one of its joint's that waits for a flushing read: those of a resolved joint are written in order, the
JOINT_COMMIT's last (R244). -/
def State.followsJoint (s : State) (p : PartId) (d : Desc) : Bool :=
  (d.released || d.opc == 0x0C) && s.hostLines.any (fun l => match l.desc with
    | some (r, q) => (s.descs p).any (fun x => x.named r q && x.released && x.jid == d.jid && s.ownFlush x)
    | none => false)

/-- Prepare a completed descriptor's record: after a flushing read in normal service, for a FLUSH and for the completion of a
partition abort; else at once, unless host-bound traffic is held (R265). -/
def State.publish (s : State) (p : PartId) (d : Desc) : State :=
  if s.ownFlush d || s.followsJoint p d || s.held then
    ({ s with hostLines := s.hostLines ++
      [{ fn := partFn p, addr := s.recordAddr d.ring d.seq, bytes := [], vector := none,
         desc := some (d.ring, d.seq) }] } : State).pumpFlush (partFn p)
  else s.writeRecord p d true (!s.service d.ring d.seq)

/-- Publish a list of descriptors in order. -/
def State.publishAll (s : State) (p : PartId) (ds : List Desc) : State := ds.foldl (fun t d => t.publish p d) s

/-- The flushing read of a function completes: the lines it covers are written, and the next read is issued (R258). -/
def State.writeLine_ (s : State) (l : HostLine) : State :=
  match l.desc with
  | some (r, q) =>
    match s.descOf r q with
    | some (p, d) =>
      let own := s.ownFlush d
      s.writeRecord p d (!own) (!own && !s.service d.ring d.seq)
    | none => s
  | none =>
    let t := s.toHost (.hostWrite l.fn l.addr l.bytes false)
    let u := match l.vector with
      | some v => t.toHost (.msix l.fn v)
      | none => t
    if l.closes then u.closeAbort ⟨(l.fn.val - 1) % 32, Nat.mod_lt _ (by decide)⟩ else u

/-- A line that the held link alone kept back is written (R265). -/
def State.releaseLine (s : State) (l : HostLine) : State :=
  match l.desc with
  | some (r, q) =>
    let t : State := { s with hostLines := s.hostLines.erase l }
    match s.descOf r q with
    | some (p, d) => if t.ownFlush d || t.followsJoint p d then s else t.writeLine_ l
    | none => t
  | none => s

/-- Records and lines go on once the link is up again. -/
def State.resumeLines (s : State) : State :=
  let t := s.hostLines.foldl State.releaseLine s
  (t.hostLines.map HostLine.fn).eraseDups.foldl State.pumpFlush t

def State.flushed_ (s : State) (fn : FnId) : State :=
  let mine := s.hostLines.filter (fun l => decide (l.fn = fn) && l.covered)
  let t := mine.foldl State.writeLine_
    { s with hostLines := s.hostLines.filter (fun l => !(decide (l.fn = fn) && l.covered))
             hostReads := s.hostReads.filter (fun r => decide (r.purpose ≠ .flushing fn)) }
  t.pumpFlush fn

def execFlushingReadDone (fn : FnId) (s : State) : Res :=
  whenever (s.hostReads.any (fun r => decide (r.purpose = .flushing fn)) && !s.held) s (s.flushed_ fn).issueReads

end Sys2Proof.Machine
end

