-- ==== Sys2Proof/Machine/HostCart.lean ====
section
/-! DEFINITION. Host carts and inline writes: COPY, COPY_INDEXED, WRITE_INLINE, TIMESTAMP (R152, R155, R235, R264, R283, R286,
R400). -/

namespace Sys2Proof.Machine

/-! ### Units -/

def State.hcart (s : State) (n : Nat) : HostCart := tabGet (fun _ => {}) n s.hostCarts
def State.modHc (s : State) (n : Nat) (f : HostCart → HostCart) : State :=
  { s with hostCarts := tabMod (fun _ => {}) n f s.hostCarts }

/-- The source of a host cart's requests; the partition logic writes as the management processor (log entry 19). -/
def hcSrc (n : Nat) : BitVec 16 := if n < 16 then BitVec.ofNat 16 (0x2000 + n) else srcManagement

/-- The unit of a partition's inline writes. -/
def inlineUnit (p : PartId) : Nat := 16 + p.val

/-- The unit that works for a descriptor. -/
def State.hcOf (s : State) (r : RingId) (seq : BitVec 32) : Option Nat :=
  (s.hostCarts.find? (fun e => decide (e.2.desc = some (r, seq)))).map Prod.fst

/-- The descriptor a unit works for. -/
def State.hcDesc (s : State) (n : Nat) : Option (PartId × Desc) := (s.hcart n).desc.bind (fun x => s.descOf x.1 x.2)

/-- The transfers of a descriptor end with a failure: nothing further is issued. -/
def HostCart.fail (h : HostCart) (st : Nat) : HostCart :=
  { h with status := if h.status = 0 then st else h.status, segs := [], todo := [] }

/-- A source read fails: no further transfer is issued; data that has already been read is still written (R264). -/
def HostCart.failRead (h : HostCart) (st : Nat) : HostCart :=
  { h with status := if h.status = 0 then st else h.status, segs := [] }

/-- The function in whose name a unit reaches host memory (R282). -/
def State.hcFn (s : State) (n : Nat) : FnId := match s.hcDesc n with | some (p, _) => partFn p | none => 0

/-- Who a host cart's accesses are for. -/
def State.hcAccessor (s : State) (n : Nat) (p : PartId) (d : Desc) : Accessor :=
  { src := hcSrc n, tag := BitVec.ofNat 16 d.tag, part := p, joint := d.joint, vc := s.ringClass d.ring,
    unit := .hostCart d.ring d.seq }

/-! ### Translation (R152, R155) -/

/-- A translation failure: logged; the descriptor ends with TRANSLATION. -/
def State.hcXlateFail (s : State) (n : Nat) (p : PartId) (d : Desc) (va status : Nat) (e : Word) : State :=
  (s.logXlate (some p) 0xFF 0xFF (s.ringCtx d.ring) d.tag status va e).modHc n (fun h => h.fail 0x0211)

/-- A walk goes on to its next read. -/
def State.hcWalkRead (s : State) (n : Nat) (p : PartId) (d : Desc) (w : Walk) : State :=
  let (id, t) := s.issue (hcSrc n) (BitVec.ofNat 16 d.tag) (some p) w.entry .read 8 []
  t.modHc n (fun h => { h with walk := some { w with id := id } })

/-- Translate an address: the leaf, or none where a walk has to be made or the access fails. A host cart keeps its leaves in its
cache; a unit of inline writes has none, and a leaf it has walked to serves one access (log entry 19). -/
def State.hcTranslate (s : State) (n : Nat) (p : PartId) (d : Desc) (va : Nat) (write : Bool) : State × Option TlbEntry :=
  let ctx := s.ringCtx d.ring
  match tlbFind (tabGet (fun _ => []) n s.hostTlb) ctx va with
  | some (t, c) =>
    let s1 := { s with hostTlb := tabSet (fun _ => []) n (if n < 16 then c else []) s.hostTlb }
    if write && !eWrite t.entry then (s1.hcXlateFail n p d va 0 t.entry, none) else (s1, some t)
  | none =>
    match s.beginWalk p ctx va write with
    | .read w => (s.hcWalkRead n p d w, none)
    | .fail st e => (s.hcXlateFail n p d va st e, none)
    | .leaf _ => (s, none)

/-! ### The pump -/

/-- The unit may issue: no walk, no joint unit holds it. -/
def State.hcMay (s : State) (n : Nat) (p : PartId) : Bool :=
  let h := s.hcart n
  h.walk.isNone && !s.jointHeld p (hcSrc n)

/-- Issue the device writes that wait, in order. -/
def State.hcWrites (s : State) (n : Nat) (p : PartId) (d : Desc) : Nat → State
  | 0 => s
  | k + 1 =>
    match (s.hcart n).todo with
    | [] => s
    | (va, bs) :: rest =>
      if !s.hcMay n p then s
      else
        match s.hcTranslate n p d va true with
        | (t, none) => t
        | (t, some l) =>
          let r := t.access (s.hcAccessor n p d) l va .write bs.length bs
          (r.2.modHc n (fun h => { h with todo := rest, writes := h.writes ++ [r.1] })).hcWrites n p d k

/-- The pieces left after `k` bytes of the first. -/
def cutSeg (g : HcSeg) (k : Nat) (rest : List HcSeg) : List HcSeg :=
  if g.len ≤ k then rest else { g with host := g.host + k, dev := g.dev + k, len := g.len - k } :: rest

/-- Issue source reads in ascending order, at most 256 outstanding: host reads split at 512 bytes, device reads by line. A row
of zeros is written to the host once every read before it has arrived. -/
def State.hcReads (s : State) (n : Nat) (p : PartId) (d : Desc) : Nat → State
  | 0 => s
  | k + 1 =>
    let h := s.hcart n
    match h.segs with
    | [] => s
    | g :: rest =>
      if !s.hcMay n p || decide (256 ≤ h.reads.length) then s
      else if g.zero then
        if !h.reads.isEmpty then s
        else ((s.toHost (.hostWrite (partFn p) g.host (List.replicate g.len 0) true)).modHc n (fun h => { h with
            segs := rest })).hcReads n p d k
      else if h.dir = 0 then
        let m := min g.len (512 - g.host % 512)
        let r := s.hostRead (partFn p) g.host m (.data d.ring d.seq)
        (r.2.modHc n (fun h => { h with
          segs := cutSeg g m rest
          reads := h.reads ++ [{ id := r.1, host := g.host, dev := g.dev, len := m }] })).hcReads n p d k
      else
        let va := if h.dir = 1 then g.dev else g.host
        let m := min g.len (64 - va % 64)
        match s.hcTranslate n p d va false with
        | (t, none) => t
        | (t, some l) =>
          let r := t.access (s.hcAccessor n p d) l va .read m []
          (r.2.modHc n (fun h => { h with
            segs := cutSeg g m rest
            reads := h.reads ++ [{ id := r.1, host := g.host, dev := g.dev, len := m }] })).hcReads n p d k

/-- Pass on the data of reads that have arrived, in order; after a failure what arrives is discarded. -/
def State.hcDrain (s : State) (n : Nat) : Nat → State
  | 0 => s
  | k + 1 =>
    let h := s.hcart n
    if h.status ≠ 0 then s.modHc n (fun h => { h with reads := h.reads.filter (fun r => r.got.isNone) })
    else
      match h.reads with
      | [] => s
      | r :: rest =>
        match r.got with
        | none => s
        | some (st, bs) =>
          let s1 := s.modHc n (fun h => { h with reads := rest })
          if st ≠ 0 then (s1.modHc n (fun h => h.failRead st)).hcDrain n k
          else if h.dir = 1 then (s1.toHost (.hostWrite (s.hcFn n) r.host bs true)).hcDrain n k
          else
            (s1.modHc n (fun h => { h with
              todo := h.todo ++ (linePieces r.dev r.len).map (fun x => (x.1, sliceBytes bs (x.1 - r.dev) x.2)) })).hcDrain n k

/-- Rows of a COPY_INDEXED. -/
def Desc.rows (d : Desc) : Nat := if d.opc = 0x02 then d.f 40 4 else 0

/-- Read the next index entries, once the rows of those before have been read: at most 512 bytes at a time. -/
def State.hcIndex (s : State) (n : Nat) (d : Desc) : State :=
  let h := s.hcart n
  if !h.segs.isEmpty || h.index != h.indexDone || decide (d.rows ≤ h.index) || h.status != 0 then s
  else
    let m := min 128 (d.rows - h.index)
    (s.hostRead (s.hcFn n) (d.f 32 8 + 4 * h.index) (4 * m) (.index d.ring d.seq)).2.modHc n (fun h => { h with index := h.index + m })

/-- Everything is moved and acknowledged, or nothing is left outstanding after a failure: the descriptor's operation ends. -/
def State.hcEnd (s : State) (n : Nat) (d : Desc) : State :=
  let h := s.hcart n
  if h.reads.isEmpty && h.writes.isEmpty && h.todo.isEmpty && h.segs.isEmpty && h.walk.isNone && h.index == h.indexDone &&
      (h.status != 0 || decide (d.rows ≤ h.index)) then
    (s.modHc n (fun _ => {})).endDesc d.ring d.seq h.status
  else s

/-- Let a unit go on as far as it can; while host-bound traffic is held it keeps its state (R265). -/
def State.hcPump (s : State) (n : Nat) : State :=
  match s.hcDesc n with
  | none => s
  | some (p, d) =>
    if d.stage ≠ .running ∨ s.held then s
    else
      let s1 := s.hcDrain n ((s.hcart n).reads.length + 1)
      let s2 := s1.hcWrites n p d (s1.hcart n).todo.length
      let s3 := if (s2.hcart n).todo.isEmpty then s2.hcReads n p d 1024 else s2
      (s3.hcIndex n d).hcEnd n d

/-! ### Responses -/

/-- The unit that waits for a memory response. -/
def State.hcWaiting (s : State) (id : Nat) : Option Nat :=
  (s.hostCarts.find? (fun e => e.2.writes.contains id || e.2.reads.any (fun r => r.id == id))).map Prod.fst

/-- A read of a unit has arrived. -/
def State.hcArrive (s : State) (n id st : Nat) (bs : List Byte) : State :=
  (s.modHc n (fun h => { h with
    reads := h.reads.map (fun r => if r.id = id then { r with got := some (st, sliceBytes bs 0 r.len) } else r) })).hcPump n

/-- A write of a unit has been acknowledged or refused. -/
def State.hcAcked (s : State) (n id st : Nat) : State :=
  (s.modHc n (fun h =>
    let h1 : HostCart := { h with writes := h.writes.filter (fun x => x != id) }
    if st = 0 then h1 else h1.fail st)).hcPump n

/-- A response of device memory or of a peer module for a unit. -/
def State.hcDeliver (s : State) (n : Nat) (r : MemResp) : State :=
  match r.req.kind with
  | .read => s.hcArrive n r.req.id r.status.toNat r.data
  | .write => s.hcAcked n r.req.id r.status.toNat

/-- The status of a failed host read (R264). -/
def hostStatus : HostAnswer → Nat
  | .good _ => 0 | .ur => 0x0401 | .poison => 0x0402

/-- The row that an index entry names (R283). -/
def rowSeg (d : Desc) (dir j x : Nat) : List HcSeg :=
  let host := d.f 16 8 + j * d.f 48 4
  if x = 2 ^ 32 - 1 then (if dir = 1 then [{ host := host, dev := 0, len := d.f 44 4, zero := true }] else [])
  else [{ host := host, dev := d.f 24 8 + x * d.f 52 4, len := d.f 44 4, zero := false }]

/-- Index entries have arrived. -/
def State.hcIndexed (s : State) (n : Nat) (d : Desc) (st : Nat) (bs : List Byte) : State :=
  let h := s.hcart n
  let from_ := h.indexDone
  let segs := (List.range (h.index - from_)).flatMap (fun k => rowSeg d h.dir (from_ + k) (fieldLe bs (4 * k) 4))
  (s.modHc n (fun h =>
    let h1 : HostCart := { h with indexDone := h.index }
    if st ≠ 0 then h1.fail st else if h1.status ≠ 0 then h1 else { h1 with segs := segs })).hcPump n

/-- The read of a host cart's walk returns. -/
def State.hcWalkData (s : State) (n : Nat) (p : PartId) (d : Desc) (w : Walk) (r : MemResp) : State :=
  let e : Word := BitVec.ofNat 64 (leNat r.data)
  let s1 := if r.status = 0 then s.logEntry p 0xFF 0xFF w.ctx d.tag w.va e else s
  let s2 := s1.modHc n (fun h => { h with walk := none })
  match s.walkOn p w r with
  | .read w' => s2.hcWalkRead n p d w'
  | .fail st en => (s2.hcXlateFail n p d w.va st en).hcPump n
  | .leaf t =>
    ({ s2 with hostTlb := tabMod (fun _ => []) n (fun c => tlbAdd 64 c w.va t) s2.hostTlb } : State).hcPump n

/-- The walk of a host cart, if its read has returned; the data of a discarded walk is dropped. -/
def State.hcWalkBack (s : State) (n : Nat) : State :=
  match (s.hcart n).walk with
  | none => s
  | some w =>
    match s.takeResp w.id, s.hcDesc n with
    | some (r, t), some (p, d) =>
      if (s.hcart n).status = 0 ∨ (s.hcart n).todo ≠ [] then t.hcWalkData n p d w r else (t.modHc n (fun h => { h with walk := none })).hcPump n
    | _, _ => s

/-- A walk in progress starts again from the root (R154). -/
def State.hcRewalk (s : State) (n : Nat) : State :=
  match (s.hcart n).walk, s.hcDesc n with
  | some w, some (p, d) =>
    let s1 := s.modHc n (fun h => { h with walk := none })
    match s.beginWalk p w.ctx w.va w.write with
    | .read w' => s1.hcWalkRead n p d w'
    | .fail st e => (s1.hcXlateFail n p d w.va st e).hcPump n
    | .leaf _ => s1
  | _, _ => s

/-- A walk in progress of a cart for which `f` holds starts again. -/
def State.cartRewalkIf (f : Walk → Bool) (s : State) (c : CoreId) (u : Fin 2) : State :=
  match (s.cartEng c u).walk with | some w => if f w then s.cartRewalk c u else s | none => s

/-- Every walk in progress for which `f` holds starts again from the root (R153, R154). -/
def State.rewalk (s : State) (f : Walk → Bool) : State :=
  let t := (s.cores.map Prod.fst).foldl (fun t n =>
    if h : n < 128 then (t.cartRewalkIf f ⟨n, h⟩ 0).cartRewalkIf f ⟨n, h⟩ 1 else t) s
  (List.range 48).foldl (fun t n => match (t.hcart n).walk with | some w => if f w then t.hcRewalk n else t | none => t) t

def execTableWalkRead (w : Walker) (s : State) : Res :=
  match w with
  | .cart c u => whenever true s (s.cartWalkBack c u)
  | .hostCart n => whenever true s (s.hcWalkBack n.val)
  | .inline p => whenever true s (s.hcWalkBack (inlineUnit p))

/-- Every translation cache is emptied, and walks in progress start again (R154). -/
def execTranslationSweep (s : State) : Res :=
  let s1 : State := { s.mapCores (fun k => { k with tlb := [] }) with hostTlb := [] }
  whenever true s (s1.rewalk (fun _ => true))

/-! ### The descriptors (R283, R286) -/

/-- A started descriptor of an opcode acts. -/
def onDesc (s : State) (r : RingId) (seq : BitVec 32) (opc : Nat) (f : PartId → Desc → State) : Res :=
  match s.descOf r seq with
  | none => .next s
  | some (p, d) => whenever (decide (d.stage = .started) && d.opc == opc) s (f p d)

/-- The descriptor's operation has begun and awaits events. -/
def State.running_ (s : State) (r : RingId) (seq : BitVec 32) : State :=
  s.modDesc r seq (fun d => { d with stage := .running })

/-- A host cart takes up its descriptor with a first list of pieces. -/
def State.hcBegin (s : State) (r : RingId) (seq : BitVec 32) (dir : Nat) (segs : List HcSeg) : State :=
  match s.hcOf r seq with
  | none => s
  | some n => ((s.running_ r seq).modHc n (fun h => { h with dir := dir, segs := segs })).hcPump n

/-- SRC and DST are host and device addresses by direction; for device to device the source stands in the host place. -/
def execCopy (ring : RingId) (seq : BitVec 32) (s : State) : Res :=
  onDesc s ring seq 0x01 (fun _ d =>
    let dir := d.f 36 1 % 4
    let a := d.f 16 8
    let b := d.f 24 8
    s.hcBegin ring seq dir
      [if dir = 1 then { host := b, dev := a, len := d.f 32 4, zero := false }
       else { host := a, dev := b, len := d.f 32 4, zero := false }])

def execCopyIndexed (ring : RingId) (seq : BitVec 32) (s : State) : Res :=
  onDesc s ring seq 0x02 (fun _ d => s.hcBegin ring seq (d.f 56 1 % 2) [])

/-- Write bytes to device memory through the ring's context; the unit of the partition does one descriptor at a time. -/
def State.inline (s : State) (p : PartId) (d : Desc) (va : Nat) (bs : List Byte) : State :=
  let n := inlineUnit p
  if (s.hcart n).desc.isSome then s
  else
    ((s.running_ d.ring d.seq).modHc n (fun h => { h with
      desc := some (d.ring, d.seq)
      todo := (linePieces va bs.length).map (fun x => (x.1, sliceBytes bs (x.1 - va) x.2)) })).hcPump n

/-- The payload of a WRITE_INLINE: 40 bytes of its first slot, then its extra slots. -/
def Desc.payload (d : Desc) : List Byte := sliceBytes (d.bytes.drop 24) 0 (d.f 16 8 / 2 ^ 52 % 256)

def execWriteInline (ring : RingId) (seq : BitVec 32) (s : State) : Res :=
  onDesc s ring seq 0x03 (fun p d => s.inline p d (d.f 16 8 % 2 ^ 52) d.payload)

def execTimestamp (ring : RingId) (seq : BitVec 32) (s : State) : Res :=
  onDesc s ring seq 0x11 (fun p d =>
    if d.f 16 8 = 0 then s.endDesc ring seq 0 else s.inline p d (d.f 16 8) (natLe 8 (d.startedAt % 2 ^ 48)))

end Sys2Proof.Machine
end

