-- ==== Sys2Proof/Machine/Deliver.lean ====
section
/-! DEFINITION. Memory requests reach their controllers and are served; responses go to the units that asked (R144, R202 to
R205, R212, R257, R259, R262, R263, R338). -/

namespace Sys2Proof.Machine

/-! ### Accesses of several lines -/

/-- The data of an access, in address order. -/
def Serving.data (v : Serving) : List Byte := v.ids.flatMap (fun i => tabGet (fun _ => []) i v.got)

/-- An access as one response joins it. -/
def Serving.take (v : Serving) (r : MemResp) : Serving :=
  { v with
    waiting := v.waiting.filter (fun i => i != r.req.id)
    got := tabSet (fun _ => []) r.req.id r.data v.got
    status := if v.status = 0 then r.status else v.status }

/-- A BAR2 write has been acknowledged or dropped: FLUSH reads wait for it no longer (R259). -/
def State.bar2Done (s : State) (ids : List Nat) : State :=
  { s with flushWaits := s.flushWaits.map (fun w => { w with writes := w.writes.filter (fun i => !ids.contains i) }) }

/-- Ingress fences whose marker has arrived and whose writes are acknowledged complete (R263). -/
def State.settleIngress (s : State) : State :=
  let ok := fun (w : IngressWait) => w.marker.isNone && w.covered.isEmpty
  (s.ingressWaits.filter ok).foldl (fun t w => t.endDesc w.ring w.seq 0)
    { s with ingressWaits := s.ingressWaits.filter (fun w => !ok w) }

/-- An ingress write has been acknowledged or dropped. -/
def State.ingressDone (s : State) (ids : List Nat) : State :=
  ({ s with
    ingress := s.ingress.filter (fun i => !ids.contains i.req)
    ingressWaits := s.ingressWaits.map (fun w => { w with covered := w.covered.filter (fun i => !ids.contains i) }) } :
    State).settleIngress

/-- An ingress write whose lines were not all performed is counted as dropped; one into an address hole is logged (R262). -/
def State.ingressDropped (s : State) (ids : List Nat) (status : Nat) : State :=
  if status = 0 then s
  else
    let t := s.incFld oING_STAT 31 0 1
    if status ≠ 0x0102 then t
    else match s.ingress.find? (fun i => ids.contains i.req) with
      | some i => t.logModule { type := 0x14, d1 := i.off }
      | none => t

/-- The answer to an access whose lines have all been served. -/
def State.served (s : State) (v : Serving) : State :=
  match v.who, v.kind with
  | .peer req, .read =>
    if v.status = 0 then s.respond req 0x81 0 (pLines req) v.data else s.respondErr req v.status.toNat
  | .peer req, .write => if v.status = 0 then s.respond req 0x82 0 1 [] else s.respondErr req v.status.toNat
  | .bar2 fn, .read =>
    if v.status = 0 then s.send (.pcie fn .success v.data) else s.send (.pcie fn .completerAbort [])
  | .bar2 _, .write => s.bar2Done v.ids
  | .twin l req, _ =>
    if v.status = 0 then s.reply l req 0x82 0 1 [] else s.reply l req 0x8F v.status.toNat 1 []
  | .ingress, _ => (s.ingressDropped v.ids v.status.toNat).ingressDone v.ids

/-- A response for an access of several lines. -/
def State.serveOn (s : State) (v : Serving) (r : MemResp) : State :=
  let w := v.take r
  let t := { s with serving := s.serving.filter (fun x => decide (x ≠ v)) }
  if w.waiting.isEmpty then t.served w else { t with serving := t.serving ++ [w] }

/-- Issue the line requests of an access; one of no bytes is answered at once. -/
def State.serveAll (s : State) (who : ServeFor) (kind : MemKind) (src tag : BitVec 16) (part : Option PartId)
    (mask : Option (BitVec 64)) (pieces : List (Nat × List Byte × Nat)) : State :=
  let r := pieces.foldl (fun (r : List Nat × State) x =>
    let y := r.2.issue src tag part x.1 kind x.2.2 x.2.1
    (r.1 ++ [y.1], { y.2 with inFlight := y.2.inFlight.map (fun q => if q.id = y.1 then { q with mask := mask } else q) }))
    (([] : List Nat), s)
  let v : Serving := { who := who, kind := kind, ids := r.1, waiting := r.1 }
  if r.1.isEmpty then r.2.served v else { r.2 with serving := r.2.serving ++ [v] }

/-! ### Delivery -/

/-- A unit of the cores, or a walk of a host cart, waits for a response. -/
def State.claimed (s : State) (id : Nat) : Bool :=
  s.cores.any (fun e => e.2.fills.any (fun f => f.2.contains id) ||
    e.2.eng.any (fun g => g.2.flying.any (fun f => f.1 == id) ||
      (match g.2.walk with | some w => w.id == id | none => false))) ||
  s.hostCarts.any (fun e => match e.2.walk with | some w => w.id == id | none => false)

/-- A response goes to the unit that asked; one that no unit waits for is discarded. -/
def State.deliver (s : State) (r : MemResp) : State :=
  match s.hcWaiting r.req.id, s.serving.find? (fun v => v.waiting.contains r.req.id) with
  | some n, _ => s.hcDeliver n r
  | none, some v => s.serveOn v r
  | none, none => if s.claimed r.req.id then { s with responses := s.responses ++ [r] } else s

/-- Deliver a response, if there is one. -/
def deliverOpt (x : State × Option MemResp) : State :=
  match x.2 with
  | some r => x.1.deliver r
  | none => x.1

def execMemRequestArrive (src : BitVec 16) (s : State) : Res := whenever true s (deliverOpt (s.arrive src))

/-- A channel serves a request in wheel position `pos`, which is that of the present mem cycle (R205). -/
def execMemRequestServe (ch : ChanId) (pos : Fin 64) (errs : LineErrors) (s : State) : Res :=
  whenever (decide (pos = s.wheelPos)) s (deliverOpt (s.serveAt ch errs))

end Sys2Proof.Machine
end

