-- ==== Sys2Proof/Machine/Joint.lean ====
section
/-! DEFINITION. Joints: membership, shadow pages, conflicts, commits, aborts, and how a descriptor is stopped (R39, R233 to
R253, R288, R312, R315). -/

namespace Sys2Proof.Machine

/-! ### Members and pages -/

def State.joint (s : State) (p : PartId) (j : Nat) : Joint := (s.part p).joint j
def State.modJoint (s : State) (p : PartId) (j : Nat) (f : Joint → Joint) : State :=
  s.modPart p (fun q => { q with joints := tabMod (fun _ => {}) j f q.joints })

/-- The members of a joint that is not yet resolved. -/
def State.membersOf (s : State) (p : PartId) (j : Nat) : List Desc :=
  (s.descs p).filter (fun d => d.member && d.jid == j && !d.released)

/-- Put a descriptor before the first of a higher ring. -/
def insertByRing (d : Desc) : List Desc → List Desc
  | [] => [d]
  | e :: r => if e.ring ≤ d.ring then e :: insertByRing d r else d :: e :: r

/-- For each ring in ascending ring number, in sequence order (R244); fetched order is sequence order in a ring. -/
def byRing (ds : List Desc) : List Desc := ds.foldl (fun l d => insertByRing d l) []

/-- The withheld completions of a joint, in the order in which they are written. -/
def State.withheld (s : State) (p : PartId) (j : Nat) : List Desc :=
  byRing ((s.membersOf p j).filter (fun d => decide (d.stage = .completed)))

/-- Shadow pages in use by a partition. -/
def Part.shadowPages (q : Part) : List Nat := q.joints.flatMap (fun e => e.2.dirty.map DirtyPage.shadow)

/-- Pages of a partition's pool that hold no shadow: those of its range but for the ones now holding committed data, and those
that have returned to it; none while PAGES is 0 (R253). -/
def State.freePages (s : State) (p : PartId) : List Nat :=
  let q := s.part p
  if s.fld (oJT_POOL p.val) 15 0 = 0 then [] else
  let o := oJT_POOL p.val
  let base := 65536 * s.fld o 40 16
  (((List.range (s.fld o 15 0)).map (fun i => base + 65536 * i)).filter (fun a => !q.poolGone.contains a) ++
    q.poolJoined).filter (fun a => !q.shadowPages.contains a)

/-- A shadow leaves the pool, and the old committed page joins it. -/
def Part.swapPage (q : Part) (old shadow : Nat) : Part :=
  let gone := if q.poolJoined.contains shadow then q.poolGone else q.poolGone ++ [shadow]
  let joined := q.poolJoined.erase shadow
  if gone.contains old then { q with poolGone := gone.erase old, poolJoined := joined }
  else { q with poolGone := gone, poolJoined := joined ++ [old] }

/-! ### How a descriptor is stopped (R39, R248, R288) -/

/-- A descriptor waits on no object any longer; the waiters behind it are examined. -/
def State.dropWaits (s : State) (r : RingId) (seq : BitVec 32) : State :=
  let who := WaiterId.descriptor r seq
  let held := fun (ws : List Waiter) => ws.any (fun w => decide (w.who = who))
  let s1 := (s.pegs.filter (fun e => held e.2.waiters)).foldl (fun t e =>
    (t.setPeg e.1 { t.peg e.1 with waiters := dropWaiter who (t.peg e.1).waiters }).servePeg e.1) s
  let s2 := (s1.tallies.filter (fun e => held e.2.waiters)).foldl (fun t e =>
    t.setTally e.1 { t.tally e.1 with waiters := dropWaiter who (t.tally e.1).waiters }) s1
  (s2.bells.filter (fun e => held e.2.waiters)).foldl (fun t e =>
    t.setBell e.1 { t.bell e.1 with waiters := dropWaiter who (t.bell e.1).waiters }) s2

/-- A remote wait of a descriptor is withdrawn (R347). -/
def State.withdrawRemote (s : State) (r : RingId) (seq : BitVec 32) : State :=
  match s.fabric.requests.find? (fun x => decide (x.unit = .descriptor r seq) && !x.withdrawn) with
  | some x => s.sendWithdraw x.txn
  | none => s

/-- The grind job of a descriptor ends without a result. -/
def State.stopDescJob (s : State) (r : RingId) (seq : BitVec 32) : State :=
  let mine := fun (j : GrindJob) => decide (j.desc = some (r, seq))
  match ((List.finRange 4).flatMap s.queueOfGranary).find? mine, s.jobs.find? mine with
  | some j, _ => s.leaveGranary j
  | none, some j => s.killJob j
  | none, none => s

/-- The launch of a descriptor is stopped on its cores. -/
def State.cancelLaunch (s : State) (r : RingId) (seq : BitVec 32) : State :=
  { s with
    launches := s.launches.map (fun l => if l.ring = r ∧ l.seq = seq then { l with cancelled := true } else l)
    loadQueue := s.loadQueue.filter (fun w => decide (w.ring ≠ some (r, seq))) }

/-- The status a descriptor will complete with, unless it has one. -/
def State.markStatus (s : State) (r : RingId) (seq : BitVec 32) (st : Nat) : State :=
  s.modDesc r seq (fun d => { d with status := if d.status = 0 then BitVec.ofNat 16 st else d.status })

/-- Stop a descriptor that has started: a launch, a host cart and a grind job at their preemption points, the others at
once. -/
def State.stopRunning (s : State) (d : Desc) (st : Nat) : State :=
  let r := d.ring
  let q := d.seq
  let s1 := s.markStatus r q st
  if d.opc = 0x04 then
    if s.launches.any (fun l => decide (l.ring = r) && decide (l.seq = q)) then s1.cancelLaunch r q
    else (s1.cancelLaunch r q).endDesc r q st
  else match s1.hcOf r q with
    | some n =>
      if d.stage = .running then (s1.modHc n (fun h => h.fail st)).hcPump n
      else (s1.modHc n (fun _ => {})).endDesc r q st
    | none =>
      (((({ s1 with ingressWaits := s1.ingressWaits.filter (fun w => !(decide (w.ring = r) && decide (w.seq = q))) } :
        State).dropWaits r q).withdrawRemote r q).stopDescJob r q).endDesc r q st

/-- Stop a descriptor, started or not: `fresh` is the status of one that has not started, among them a LAUNCH that waits for
its image (R45). -/
def State.stopDesc (s : State) (d : Desc) (fresh st : Nat) : State :=
  match d.stage with
  | .fetched => s.endDesc d.ring d.seq fresh
  | .started => s.stopRunning d (if d.opc = 0x04 then fresh else st)
  | .running => s.stopRunning d st
  | .ended => s
  | .completed => s

/-! ### Aborts (R247, R248) -/

/-- The abort status of the withheld records of members that finished with OK. -/
def State.failWithheld (s : State) (p : PartId) (j st : Nat) : State :=
  (s.withheld p j).foldl (fun t d => t.markStatus d.ring d.seq st) s

/-- The members of a joint are its own no longer. -/
def State.releaseMembers (s : State) (p : PartId) (j : Nat) : State :=
  s.modPart p (fun q => { q with descs := q.descs.map (fun d => if d.member && d.jid == j then { d with released := true } else d) })

/-- Publish released members in a given order. -/
def State.publishMembers (s : State) (p : PartId) (ds : List Desc) : State :=
  s.publishAll p (ds.map (fun d => { d with released := true }))

/-- The abort of a joint is done once every member of it has stopped: its shadows return to the pool, its log is discarded, its
withheld completions are written, then those of the members that it stopped. A joint that was COMMITTING, or whose JOINT_ABORT
asked for the abort, becomes FREE, and that descriptor completes (R248). -/
def State.endAborting (s : State) (p : PartId) (j : Nat) : State :=
  let x := s.joint p j
  let ms := s.membersOf p j
  if !x.aborting || !ms.all (fun d => decide (d.stage = .completed)) then s
  else
    let s1 := s.modJoint p j (fun y => { y with
      st := if x.commit.isSome || x.abortBy.isSome then .free else .aborted
      dirty := [], log := [], commit := none, abortBy := none, aborting := false })
    let s2 := (s1.releaseMembers p j).publishMembers p (byRing (ms.filter (fun d => !d.halted)) ++ byRing (ms.filter Desc.halted))
    let s3 := match x.commit with | some c => s2.endDesc c.1 c.2 x.lastStatus.toNat | none => s2
    match x.abortBy with | some c => s3.endDesc c.1 c.2 0 | none => s3

/-- Stop a member whose joint aborts. -/
def State.haltMember (st : Nat) (s : State) (d : Desc) : State :=
  match d.stage with
  | .ended => s.markStatus d.ring d.seq st
  | .completed => s
  | _ => (s.stopDesc d st st).modDesc d.ring d.seq (fun x => { x with halted := true })

/-- An abort cause reaches an OPEN or COMMITTING joint: it takes no further member, and its members are stopped. It counts as
ABORTED from here on (log entry 103). -/
def State.failJoint (s : State) (p : PartId) (j st : Nat) : State :=
  let s1 := (s.modJoint p j (fun x => { x with
    st := .aborted
    aborting := true
    asked := false
    prepared := false
    lastStatus := BitVec.ofNat 16 st })).incFld (oJT_COUNT p.val) 63 32 1
  let s2 := (s.membersOf p j).foldl (State.haltMember st) s1
  (s2.failWithheld p j st).endAborting p j

/-- The joint is FREE again. -/
def State.freeJoint (s : State) (p : PartId) (j : Nat) : State := s.modJoint p j (fun x => { x with st := .free })

/-! ### Membership, in fetch order (R234, R236, R237, R241) -/

/-- A descriptor meets its joint. -/
def State.meetJoint (s : State) (p : PartId) (d : Desc) : State :=
  let j := d.jid
  let s1 := s.modDesc d.ring d.seq (fun x => { x with resolved := true })
  match (s.joint p j).st with
  | .free => s1.endDesc d.ring d.seq 0x0304
  | .committing => s1.endDesc d.ring d.seq 0x0304
  | .aborted => s1.endDesc d.ring d.seq (s.joint p j).lastStatus.toNat
  | .open_ =>
    if 1024 ≤ (s.membersOf p j).length then (s1.failJoint p j 0x0303).endDesc d.ring d.seq 0x0303
    else
      let s2 := s1.modDesc d.ring d.seq (fun x => { x with member := true, flags := x.flags ||| 16 })
      if d.status = 0 then s2 else s2.endDesc d.ring d.seq d.status.toNat

/-- An operation on a joint that has not yet acted. -/
def Desc.pendingOp (d : Desc) : Bool :=
  d.jointFlag && jointOp d.opc && (decide (d.stage = .fetched) || decide (d.stage = .started)) &&
    !d.acted

/-- One descriptor in fetch order: `hold` are the joints on which an earlier operation has yet to act. -/
def resolveOne (p : PartId) (acc : State × List Nat) (key : RingId × BitVec 32) : State × List Nat :=
  match (acc.1.descs p).find? (fun d => d.named key.1 key.2) with
  | none => acc
  | some d =>
    if d.pendingOp then (acc.1, d.jid :: acc.2)
    else if d.wantsJoint && !d.resolved && decide (d.stage = .fetched) && !acc.2.contains d.jid then
      (acc.1.meetJoint p d, acc.2)
    else acc

/-- Every fetched descriptor whose joint's earlier operations have acted meets its joint. -/
def State.resolveJoints (s : State) (p : PartId) : State :=
  (((s.descs p).map (fun d => (d.ring, d.seq))).foldl (resolveOne p) (s, [])).1

/-! ### JOINT_OPEN, JOINT_COMMIT, JOINT_ABORT -/

/-- An operation on a joint may act: it is the first such in fetch order that has not, no abort of the joint or of the partition is
under way. -/
def State.opTurn (s : State) (p : PartId) (d : Desc) : Bool :=
  (s.part p).abort.isNone &&
  (match (s.descs p).find? (fun x => x.pendingOp && x.jid == d.jid) with
   | some x => x.named d.ring d.seq
   | none => false) &&
  !(s.joint p d.jid).aborting

/-- An operation on a joint acts. -/
def onJoint (s : State) (r : RingId) (seq : BitVec 32) (opc : Nat) (f : PartId → Desc → State) : Res :=
  match s.descOf r seq with
  | none => .next s
  | some (p, d) => whenever (d.opc == opc && s.opTurn p d) s ((f p d).resolveJoints p)

def execJointOpen (ring : RingId) (seq : BitVec 32) (s : State) : Res :=
  onJoint s ring seq 0x0B (fun p d =>
    if (s.joint p d.jid).st = .free then
      (s.modJoint p d.jid (fun _ => { st := .open_, openTag := BitVec.ofNat 16 d.tag })).endDesc ring seq 0
    else s.endDesc ring seq 0x0304)

def execJointCommit (ring : RingId) (seq : BitVec 32) (s : State) : Res :=
  onJoint s ring seq 0x0C (fun p d =>
    match (s.joint p d.jid).st with
    | .open_ =>
      (s.modJoint p d.jid (fun x => { x with st := .committing, commit := some (ring, seq) })).modDesc ring seq
        (fun x => { x with acted := true })
    | .aborted => (s.freeJoint p d.jid).endDesc ring seq (s.joint p d.jid).lastStatus.toNat
    | .free => s.endDesc ring seq 0x0304
    | .committing => s.endDesc ring seq 0x0304)

/-- The abort of an OPEN joint begins at once; the JOINT_ABORT completes with OK once its members have stopped. -/
def execJointAbort (ring : RingId) (seq : BitVec 32) (s : State) : Res :=
  onJoint s ring seq 0x0D (fun p d =>
    let j := d.jid
    match (s.joint p j).st with
    | .open_ =>
      ((s.modJoint p j (fun x => { x with abortBy := some (ring, seq) })).modDesc ring seq (fun x => { x with
        acted := true })).failJoint p j 0x0302
    | .aborted => (s.freeJoint p j).endDesc ring seq (s.joint p j).lastStatus.toNat
    | .free => s.endDesc ring seq 0x0304
    | .committing => s.endDesc ring seq 0x0304)

/-! ### Streaming to the twin (R246, R312, R350) -/

/-- The partner's address of an outbound address. -/
def State.mirrorAddr (s : State) (a : Nat) : Option Nat :=
  ((List.range 16).find? (fun n =>
    let b := 2 ^ 21 * s.fld (oTW_MOUT n) 40 21
    decide (b ≤ a) && decide (a < b + 2 ^ 21 * s.fld (oTW_MOUT n) 60 41))).map
    (fun n => 2 ^ 21 * s.fld (oTW_MOUT_DST n) 40 21 + (a - 2 ^ 21 * s.fld (oTW_MOUT n) 40 21))

/-- The class of a partition's streamed writes (log entry 28). -/
def State.partClass (s : State) (p : PartId) : Nat :=
  if s.isClass0 p then 0 else s.cfg (oRT_CTL (s.cfg (oPT_RINGS p) 12 0)) 3 2

/-- The twin link of a page's streamed writes. -/
def State.streamLink (s : State) (a : Nat) : Option LinkId :=
  match s.twinLinks with
  | [] => none
  | [l] => some l
  | l :: m :: _ => if a / 2 ^ 16 % 2 = 0 then some l else some m

/-- A write of a joint to a mirrored page is also sent to the twin. -/
def State.streamWrite (s : State) (p : PartId) (j : Nat) (r : MemReq) : State :=
  match s.mirrorAddr r.addr, s.streamLink r.addr with
  | some a, some l =>
    let txn := s.fabric.nextTxn
    let dst := s.fld oTW_CTL 15 4
    let line := a / 64 * 64
    let body := sliceBytes (List.replicate (a % 64) 0 ++ r.data) 0 64
    let bytes := if r.len = 64 then mkPacket 0x02 (s.partClass p) false dst s.fab txn line 1 r.data
      else mkPacket 0x03 (s.partClass p) false dst s.fab txn line 1
        (natLe 8 ((2 ^ r.len - 1) <<< (a % 64)) ++ natLe 8 0 ++ body)
    let q : PeerReq := { txn := txn, unit := .stream p j, dst := BitVec.ofNat 12 dst, bytes := bytes, mem := none }
    let t := { s with fabric := { s.fabric with nextTxn := txn + 1, requests := s.fabric.requests ++ [q] } }
    t.transmit l { vc := s.partClass p, input := none, part := some p, bytes := bytes }
  | _, _ => s

/-! ### Writes to joint-scoped pages (R239 to R243) -/

/-- Let a source go on whose write has been dealt with. -/
def State.wake (s : State) (p : PartId) (src : BitVec 16) : State :=
  let n := src.toNat
  if n < 256 then s.cartPump ⟨n / 2 % 128, Nat.mod_lt _ (by decide)⟩ ⟨n % 2, Nat.mod_lt _ (by decide)⟩
  else if 0x2000 ≤ n ∧ n < 0x2010 then s.hcPump (n - 0x2000)
  else s.hcPump (inlineUnit p)

/-- A write is answered without being performed. -/
def State.answerWrite (s : State) (p : PartId) (r : MemReq) (st : Nat) : State :=
  (s.deliver { req := r, status := BitVec.ofNat 16 st, data := [] }).wake p r.src

/-- Mirrored writes of a partition are streamed: the pair is in SYNCING or PAIRED, and mirroring has resumed for the partition (R322,
R329). -/
def State.mirrors (s : State) (p : PartId) : Bool := (s.twState == 1 || s.twState == 2) && (s.part p).mirroring

/-- The write goes to the shadow page, and to the twin where the page is mirrored. -/
def State.toShadow (s : State) (p : PartId) (w : JointWrite) (d : DirtyPage) : State :=
  let t := if d.mirrored && s.mirrors p then s.streamWrite p w.joint w.req else s
  ({ t with inFlight := t.inFlight ++ [{ w.req with addr := d.shadow + w.req.addr % 65536 }] } : State).wake p w.req.src

/-- The joint, other than j, that holds a page dirty. -/
def State.otherWriter (s : State) (p : PartId) (j leafAt : Nat) : Option Nat :=
  ((s.part p).joints.find? (fun e => e.1 != j && e.2.dirty.any (fun d => d.leafAt == leafAt))).map Prod.fst

/-- A joint of a class-0 partition gets a mirrored page: the partition's error event, once per joint (R304). -/
def State.class0Check (s : State) (p : PartId) (j : Nat) (mirrored : Bool) : State :=
  if mirrored && s.isClass0 p && !(s.joint p j).class0Raised then
    (s.modJoint p j (fun x => { x with class0Raised := true })).raise p 0x0003 (s.ctxOf p) 0
  else s

/-- An access through translation to a range of physical addresses has not been performed or acknowledged. -/
def State.pageBusy (s : State) (a len : Nat) : Bool :=
  let hit := fun (r : MemReq) => (decide (r.src.toNat < 0x3000) || decide (r.src = srcManagement)) &&
    decide (a < r.addr + r.len) && decide (r.addr < a + len)
  s.inFlight.any hit || s.chans.any (fun c => c.2.queue.any hit) ||
    s.fabric.requests.any (fun q => match q.mem with | some r => hit r | none => false) ||
    s.parts.any (fun q => q.2.jointWrites.any (fun w => hit w.req) ||
      (match q.2.shadowWait with | some w => hit w.req | none => false))

/-- The first write of a joint to a page takes a shadow page, whose choice the specification leaves open; it waits while every free
page is still being written by a joint that has gone. -/
def State.firstWrite (s : State) (p : PartId) (w : JointWrite) : State :=
  let free := (s.freePages p).filter (fun a => !s.pageBusy a 65536)
  if 1024 ≤ (s.joint p w.joint).dirty.length ∨ s.freePages p = [] then
    (s.failJoint p w.joint 0x0303).answerWrite p w.req 0
  else if free = [] then s.modPart p (fun q => { q with jointWrites := w :: q.jointWrites })
  else
    let (v, s1) := s.fresh
    let sh := free.getD (v.toNat % free.length) 0
    if !s.inRanges p sh 65536 then s1.answerWrite p w.req 0x0102
    else
      let m := eClass w.entry == 2
      let s2 := s1.modJoint p w.joint (fun x => { x with
        dirty := x.dirty ++ [{ leafAt := w.leafAt, page := eAddr w.entry, shadow := sh, mirrored := m }] })
      (s2.class0Check p w.joint m).modPart p (fun q => { q with shadowWait := some w })

/-- A write of a joint that may write: to its shadow, after a conflict is settled. -/
def State.memberWrite (s : State) (p : PartId) (w : JointWrite) : State :=
  match (s.joint p w.joint).dirty.find? (fun d => d.leafAt == w.leafAt) with
  | some d => s.toShadow p w d
  | none =>
    match s.otherWriter p w.joint w.leafAt with
    | none => s.firstWrite p w
    | some k =>
      if (s.joint p w.joint).st = .committing ∧ (s.joint p k).st = .open_ then (s.failJoint p k 0x0301).firstWrite p w
      else (s.failJoint p w.joint 0x0301).answerWrite p w.req 0

/-- A write reaches the joint unit. -/
def State.pageWrite (s : State) (p : PartId) (w : JointWrite) : State :=
  if w.joint = 0 then s.answerWrite p w.req 0x0305
  else match (s.joint p w.joint).st with
    | .open_ => s.memberWrite p w
    | .committing => s.memberWrite p w
    | .free => s.answerWrite p w.req 0
    | .aborted => s.answerWrite p w.req 0

def execJointPageWrite (p : PartId) (s : State) : Res :=
  match (s.part p).jointWrites, (s.part p).shadowWait with
  | w :: rest, none => whenever true s ((s.modPart p (fun q => { q with jointWrites := rest })).pageWrite p w)
  | _, _ => .next s

/-- Memory cells moved from one page to another. -/
def copyCells (m : List Host.Cell) (src dst len : Nat) : List Host.Cell :=
  (m.filter (fun c => decide (src ≤ c.1) && decide (c.1 < src + len))).foldl
    (fun t c => tabSet zeroByte (dst + (c.1 - src)) c.2 t)
    (m.filter (fun c => !(decide (dst ≤ c.1) && decide (c.1 < dst + len))))

/-- Copy a committed page into its shadow. A line that answers UE is copied so marked. -/
def State.copyPage (s : State) (src dst : Nat) : State :=
  let s1 := { s with
    mem := copyCells s.mem src dst 65536
    lineErr := s.lineErr.filter (fun e => !(decide (dst / 64 ≤ e.1) && decide (e.1 < dst / 64 + 1024))) }
  let bad := (s.lineErr.map Prod.fst).filter (fun l => decide (src / 64 ≤ l) && decide (l < src / 64 + 1024))
  bad.foldl (fun t l =>
    let (r, u) := t.readLine l
    let d := l - src / 64 + dst / 64
    if r.ue then u.setErrors d ueMark else u.writeLine d r.bytes) s1

/-- The copy ends and the write that waited for it is performed; that of a joint that has aborted meanwhile is not. A copy that meets
an error response ends the write with it (log entry 94). -/
def State.copyDone (s : State) (p : PartId) (w : JointWrite) : State :=
  let t := s.modPart p (fun q => { q with shadowWait := none })
  let mine := fun (d : DirtyPage) => d.leafAt == w.leafAt
  match (s.joint p w.joint).dirty.find? mine, (s.joint p w.joint).aborting with
  | some d, false =>
    let (t1, e1) := t.reachPage d.page
    let (t2, e2) := if e1 = 0 then t1.reachPage d.shadow else (t1, e1)
    if e2 ≠ 0 then
      (t2.modJoint p w.joint (fun x => { x with dirty := x.dirty.filter (fun y => !mine y) })).answerWrite p w.req e2
    else
      ((t2.copyPage d.page d.shadow).modJoint p w.joint (fun x => { x with
        dirty := x.dirty.map (fun y => if mine y then { y with copied := true } else y) })).toShadow p w d
  | _, _ => t.answerWrite p w.req 0

def execShadowCopyDone (p : PartId) (s : State) : Res :=
  match (s.part p).shadowWait with
  | none => .next s
  | some w => whenever true s (s.settle (s.copyDone p w))

/-! ### Recovery records (R315) -/

/-- The contexts of a partition. -/
def State.contexts (s : State) (p : PartId) : List (BitVec 8) :=
  ((List.range 8).filter (fun c => s.cfg (oPT_CTX p c) 8 8 == 1)).map (fun c => BitVec.ofNat 8 (s.cfg (oPT_CTX p c) 7 0))

/-- Byte offsets of a context's table that hold an entry. -/
def State.syncOffsets (s : State) (ctx : BitVec 8) (lo hi : Nat) : List Nat :=
  ((tabGet (fun _ => []) ctx.toNat s.syncTables).map Prod.fst).filter (fun o => decide (lo ≤ o) && decide (o < hi))

/-- The local objects that a context's table names. -/
def State.ctxPegs (s : State) (p : PartId) (ctx : BitVec 8) : List Nat :=
  (s.syncOffsets ctx 0 0x4000).filterMap (fun o => s.pegRef p ctx (o / 4))
def State.ctxTallies (s : State) (p : PartId) (ctx : BitVec 8) : List Nat :=
  (s.syncOffsets ctx 0x4000 0x5000).filterMap (fun o =>
    match s.tallyRef p ctx ((o - 0x4000) / 4) with | some (.local_ n) => some n | _ => none)
def State.ctxBells (s : State) (p : PartId) (ctx : BitVec 8) : List Nat :=
  (s.syncOffsets ctx 0x5000 0x5400).filterMap (fun o => s.bellRef p ctx ((o - 0x5000) / 4))

/-- The rings of a partition. -/
def State.ringsOf (s : State) (p : PartId) : List RingId :=
  (List.range (min 8192 (s.cfg (oPT_RINGS p) 29 16))).map (fun i =>
    ⟨(s.cfg (oPT_RINGS p) 12 0 + i) % 8192, Nat.mod_lt _ (by decide)⟩)
def State.ringOn (s : State) (r : RingId) : Bool := s.bit (oRT_CTL r) 0

/-- The record of a recovery boundary; `done` tells which fetched descriptors have completed at it. -/
def State.formRecord (s : State) (p : PartId) (done : Desc → Bool) : RecoveryRecord :=
  let cs := s.contexts p
  { partition := p
    points := ((s.ringsOf p).filter s.ringOn).map (fun r =>
      (r, match (s.descs p).find? (fun d => decide (d.ring = r) && !done d) with | some d => d.seq | none => s.fetched r))
    pegs := cs.flatMap (fun c => (s.syncOffsets c 0 0x4000).filterMap (fun o =>
      (s.pegRef p c (o / 4)).map (fun n => (c, BitVec.ofNat 12 (o / 4), (s.peg n).count))))
    tallies := cs.flatMap (fun c => (s.syncOffsets c 0x4000 0x5000).filterMap (fun o =>
      match s.tallyRef p c ((o - 0x4000) / 4) with
      | some (.local_ n) => some (c, BitVec.ofNat 12 ((o - 0x4000) / 4), (s.tally n).value)
      | _ => none))
    bells := cs.flatMap (fun c => (s.syncOffsets c 0x5000 0x5400).filterMap (fun o =>
      (s.bellRef p c ((o - 0x5000) / 4)).map (fun n =>
        (c, BitVec.ofNat 12 ((o - 0x5000) / 4), (s.bell n).count, (s.bell n).arrived, (s.bell n).gen)))) }

/-! ### Commits (R244 to R246) -/

/-- Remove the cached leaves for which `f` holds from every translation cache. -/
def State.dropLeaves (s : State) (f : TlbEntry → Bool) : State :=
  let t := s.mapCores (fun k => { k with tlb := k.tlb.filter (fun e => !f e) })
  { t with hostTlb := tabModAll (fun _ => []) (List.range 48) (fun _ c => c.filter (fun e => !f e)) t.hostTlb }

/-- One page is swapped: its leaf takes the shadow's address; the old page returns to the pool. -/
def State.swapPage (p : PartId) (s : State) (d : DirtyPage) : State :=
  let (s1, _, bs) := s.readPhys (some p) d.leafAt 8
  let e : Word := setBits (BitVec.ofNat 64 (leNat bs)) 40 8 (d.shadow / 256)
  let s2 := (s1.writePhys (some p) d.leafAt (natLe 8 e.toNat)).1
  ((s2.dropLeaves (fun t => t.at_ == d.leafAt)).rewalk (fun w => w.level == 0 && w.entry == d.leafAt)).modPart p (fun q => q.swapPage d.page d.shadow)

/-- Perform a tally operation of a descriptor on a peer module. -/
def State.remoteTally (s : State) (p : PartId) (r : RingId) (seq : BitVec 32) (op fab n : Nat) (operand : Word) : State :=
  let (txn, t) := s.request 0x04 (s.ringClass r) fab n 1 (natLe 8 op ++ natLe 8 operand.toNat) (.descriptor r seq) (some p)
    none
  { t with fabric := { t.fabric with requests := t.fabric.requests.map (fun x => if x.txn = txn then { x with op := op }
      else x) } }

/-- Apply a held update (R242, R244). -/
def State.applyHeld (p : PartId) (s : State) (h : HeldUpdate) : State :=
  let ctx := s.ringCtx h.ring
  let who := SyncBy.descriptor h.ring h.seq
  if h.kind = 2 then
    match s.tallyRef p ctx h.object with
    | some (.local_ n) => s.tallyAdv who n h.amount
    | some (.remote fab n) => s.remoteTally p h.ring h.seq 1 fab n h.amount
    | none => s
  else
    match s.pegRef p ctx h.object with
    | some n => if h.kind = 0 then s.pegPost who n h.amount.toNat else s.pegDec who n h.amount.toNat
    | none => s

/-- A page that a commit has changed is copied again while a resynchronisation runs (R329). -/
def State.requeue (s : State) (d : DirtyPage) : State :=
  match s.mirrorAddr d.shadow with
  | some a =>
    if s.twState = 1 then { s with twin := { s.twin with resync := s.twin.resync ++ [(d.shadow, a, 65536)] } } else s
  | none => s

/-- The swap, the log, the withheld completions, and the end of the JOINT_COMMIT. DEDUCED (log entry 103): no message tells a
module that its twin has swapped, so the completions follow the module's own swap and the twin's acknowledgement of the prepare. -/
def State.commitJoint (s : State) (p : PartId) (j : Nat) (c : RingId × BitVec 32) : State :=
  let x := s.joint p j
  let s1 := x.dirty.foldl State.requeue (x.dirty.foldl (State.swapPage p) s)
  let s2 := x.log.foldl (State.applyHeld p) s1
  let held := s2.withheld p j
  let s3 := (s2.modJoint p j (fun y => { y with
    st := .free, dirty := [], log := [], commit := none, asked := false, prepared := false })).releaseMembers p j
  let done := fun (d : Desc) => held.any (fun h => h.named d.ring d.seq) || d.named c.1 c.2
  let s4 := if x.dirty.any DirtyPage.mirrored && decide (s.cfg (oPT_CTL p) 3 2 = 1) then
      let r := s3.formRecord p done
      s3.modPart p (fun q => { q with
        recovery := some r, recoveryAcked := x.prepared, points := if x.prepared then r.points else q.points })
    else s3
  let s5 := ((s4.incFld (oJT_COUNT p.val) 31 0 1).publishMembers p held).endDesc c.1 c.2 0
  ((s5.ringsOf p).filter s5.ringOn).foldl (fun t r => t.retire p r) s5

/-- Every member has finished, no write of the joint is on its way, and nobody else uses the old pages. -/
def State.commitReady (s : State) (p : PartId) (j : Nat) : Bool :=
  let q := s.part p
  (s.membersOf p j).all (fun d => decide (d.stage = .completed)) &&
    !q.jointWrites.any (fun w => w.joint == j) &&
    (match q.shadowWait with | some w => w.joint != j | none => true) &&
    (s.joint p j).dirty.all (fun d => !s.pageBusy d.page 65536 && !s.pageBusy d.shadow 65536)

/-- Bytes of a twin packet that the specification does not lay out. -/
def State.freeBody (s : State) : List Byte × State := let (bs, t) := s.freshLine; (bs.take 16, t)

/-- Ask the twin to confirm that it holds every mirrored write of a joint. -/
def State.askTwin (s : State) (p : PartId) (j : Nat) : State :=
  let (b, t) := s.freeBody
  (t.modJoint p j (fun x => { x with asked := true })).sendTwinOne 0xC3 b

/-- The commit of a joint goes on: a failed member aborts it; a mirrored one first asks the twin. -/
def State.commitOn (s : State) (p : PartId) (j : Nat) (c : RingId × BitVec 32) : State :=
  let x := s.joint p j
  if (s.withheld p j).any (fun d => decide (d.status ≠ 0)) then
    (s.failJoint p j 0x0302).resolveJoints p
  else if x.dirty.any DirtyPage.mirrored && s.mirrors p && !x.prepared then
    if x.asked then s else s.askTwin p j
  else (s.commitJoint p j c).resolveJoints p

def execJointCommitSwap (p : PartId) (j : Fin 64) (s : State) : Res :=
  let n := j.val + 1
  match (s.joint p n).commit with
  | none => .next s
  | some c =>
    match s.desc c.1 c.2 with
    | none => .next s
    | some d =>
      whenever (decide ((s.joint p n).st = .committing) && decide (d.stage = .started) && s.commitReady p n) s
        (s.settle (s.commitOn p n c))

end Sys2Proof.Machine
end

