-- ==== Sys2Proof/Machine/Launch.lean ====
section
/-! DEFINITION. LAUNCH and GRIND descriptors: images, the start of cores, the end of a launch, idle contexts (R21, R28, R43 to
R46, R54, R74, R87, R96, R226, R280, R284, R287, R297, R401). -/

namespace Sys2Proof.Machine

/-! ### Contexts that hold cores -/

/-- The save area of a context; 0 where it has none (R297). -/
def State.saveArea (s : State) (ctx : BitVec 8) : Nat :=
  match s.ctxSlot ctx with
  | some (p, c) => 65536 * s.cfg (oPT_SAVE p c) 40 16
  | none => 0

/-- Bytes of a context's save area. -/
def State.saveLen (s : State) (p : PartId) : Nat := 4259840 * s.nCores p

/-- A context with the KEEP setting (R226). -/
def State.keeps (s : State) (ctx : BitVec 8) : Bool :=
  match s.ctxSlot ctx with
  | some (p, c) => s.cfg (oPT_CTX p c) 9 9 == 0
  | none => true

/-- A LAUNCH or GRIND of a context runs. -/
def State.ctxRuns (s : State) (p : PartId) (ctx : BitVec 8) : Bool :=
  s.launches.any (fun l => decide (l.part = p) && decide (l.ctx = ctx)) ||
    (s.descs p).any (fun d => d.opc == 0x0E && decide (d.stage = .running) && decide (s.ringCtx d.ring = ctx))

/-- A LAUNCH waits for the loader (R45). -/
def State.waitsImage (s : State) (d : Desc) : Bool :=
  let mine := fun (w : LoadWait) => decide (w.ring = some (d.ring, d.seq))
  s.loadQueue.any mine || (match s.loadJob with | some j => mine j.wait | none => false)

/-- A LAUNCH or GRIND that has started, and waits for no image, has still to take up its cores. -/
def State.atCores (s : State) (d : Desc) : Bool :=
  (d.opc == 0x04 || d.opc == 0x0E) && decide (d.stage = .started) && !s.waitsImage d

/-- A context is not idle (R298): a LAUNCH or GRIND of it runs, or has started and takes up its cores next. -/
def State.ctxBusy (s : State) (p : PartId) (ctx : BitVec 8) : Bool :=
  s.ctxRuns p ctx || (s.descs p).any (fun d => s.atCores d && decide (s.ringCtx d.ring = ctx))

/-- Cores of the partition may take up work: the context is in, no switch, abort or halt holds it. -/
def State.coresOpen (s : State) (p : PartId) (ctx : BitVec 8) : Bool :=
  let q := s.part p
  decide (q.running = some ctx) && q.switch.isNone && !q.halted && q.abort.isNone && q.spareWanted.isNone

/-- Pegs of the context's table with their counts, by byte offset. -/
def State.pegCounts (s : State) (p : PartId) (ctx : BitVec 8) : Tab (BitVec 16) :=
  (s.syncOffsets ctx 0 0x4000).foldl (fun t o =>
    match s.pegRef p ctx (o / 4) with | some n => tabSet (fun _ => 0) o (s.peg n).count t | none => t) []

/-- The context goes from idle to running: the counts of its pegs are kept (R226). -/
def State.noteBusy (s : State) (p : PartId) (ctx : BitVec 8) : State :=
  if s.ctxRuns p ctx then s
  else s.modPart p (fun q => { q with baseline := tabSet (fun _ => []) ctx.toNat (s.pegCounts p ctx) q.baseline })

/-- Offsets of the context's objects that differ: pegs whose count has changed, bells with arrivals. -/
def State.residue (s : State) (p : PartId) (ctx : BitVec 8) : List Nat :=
  (s.syncOffsets ctx 0 0x4000).filter (fun o =>
    match s.pegRef p ctx (o / 4) with
    | some n => decide ((s.peg n).count ≠ tabGet (fun _ => 0) o (tabGet (fun _ => []) ctx.toNat (s.part p).baseline))
    | none => false) ++
  (s.syncOffsets ctx 0x5000 0x5400).filter (fun o =>
    match s.bellRef p ctx ((o - 0x5000) / 4) with
    | some n => decide ((s.bell n).arrived ≠ 0)
    | none => false)

/-- A context with KEEP has become idle: differing objects are logged (R226). -/
def State.logResidue (s : State) (p : PartId) (ctx : BitVec 8) : State :=
  match s.residue p ctx with
  | [] => s
  | o :: os => if s.keeps ctx then s.logPart p { type := 0x04, ctx := ctx.toNat, d1 := os.length + 1, d2 := o } else s

/-- The last LAUNCH or GRIND of a context has ended. -/
def State.noteIdle (s : State) (p : PartId) (ctx : BitVec 8) : State := if s.ctxRuns p ctx then s else s.logResidue p ctx

/-! ### LAUNCH (R284) -/

/-- The core has finished its part: no program runs, every queue is empty, every engine idle (R54). -/
def Core.finished (k : Core) : Bool :=
  decide (k.run ≠ .running) && k.stalled.isNone &&
    allUnits.all (fun u => (k.queueOf u).isEmpty && decide ((k.engOf u).phase = .idle))

/-- FIRST and COUNT, and the cores they name. -/
def Desc.first (d : Desc) : Nat := d.f 24 2
def Desc.count (d : Desc) : Nat := d.f 26 2
def State.launchCores (s : State) (p : PartId) (d : Desc) : List CoreId :=
  (List.range d.count).map (fun i => s.coreOfRank p (d.first + i))

/-- The state of a core at the first instruction of a launch (R21, R28, R74, R87). -/
def Core.begin_ (k : Core) (c : CoreId) (d : Desc) (rank n : Nat) (img : Image) : Core :=
  let arg := fun (i : Nat) => BitVec.ofNat 64 (d.f (32 + 8 * i) 8)
  let regs := [arg 0, arg 1, arg 2, arg 3] ++ List.replicate 9 (0 : Word) ++
    [BitVec.ofNat 64 rank, BitVec.ofNat 64 n, BitVec.ofNat 64 c.val]
  { k with
    s := regs.zipIdx.foldl (fun t x => tabSet (fun _ => 0) x.2 x.1 t) []
    lc := []
    cmp := 0
    pc := img.entry
    run := .running
    launch := some { ring := d.ring, seq := d.seq, tag := BitVec.ofNat 16 d.tag }
    arrived := none
    rota := []
    staging := []
    pendingRota := none
    tile := {}
    fills := []
    badLines := []
    needLine := none
    fetchAt := none
    icache := if k.lastImage = some img.key then k.icache else []
    lastImage := some img.key }

/-- A descriptor that starts more than 10 ms after the poll that found it is overdue (R292). -/
def State.noteLate (s : State) (p : PartId) (d : Desc) : State :=
  if s.fabric_ ≤ d.readyAt + 10000000 ∨ d.flags.getLsbD 5 then s
  else ((s.flagDesc d.ring d.seq 32).incFld (oRT_OVERDUE d.ring) 31 0 1).count (some p) 2

/-- Start a loaded image on the cores of a LAUNCH. -/
def State.beginLaunch (s : State) (p : PartId) (d : Desc) (img : Image) : State :=
  let cores := s.launchCores p d
  let ctx := s.ringCtx d.ring
  let s1 := s.noteBusy p ctx
  let s2 := cores.zipIdx.foldl (fun t x => t.modCore x.1 (fun k => k.begin_ x.1 d x.2 d.count img)) s1
  let order := s.launchOrder + 1
  let s3 := s2.modPart p (fun q => { q with
    images := q.images.map (fun i => if i.key = img.key then { i with lastUse := order } else i) })
  let l : Launch :=
    { ring := d.ring, seq := d.seq, tag := BitVec.ofNat 16 d.tag, part := p, ctx := ctx, cores := cores, key := img.key
      skipped := img.malformed, joint := d.joint }
  (({ s3 with launchOrder := order, launches := s3.launches ++ [l] } : State).running_ d.ring d.seq).noteLate p d

/-- A LAUNCH waits for its image in the loader's queue. -/
def State.awaitImage (s : State) (p : PartId) (d : Desc) (key : ImageKey) : State :=
  if s.waitsImage d then s
  else
    let w : LoadWait := { part := p, ctx := s.ringCtx d.ring, key := key, ring := some (d.ring, d.seq), order := d.order }
    { s with loadQueue := queueLoad w s.loadQueue }

/-- The key of a LAUNCH's image: the one the loader has loaded for it, else the one of the header, which is read once (R46);
the status of a read that fails. -/
def State.imageKey (s : State) (p : PartId) (d : Desc) : State × Nat × ImageKey :=
  match d.image, d.key with
  | some k, _ => (s, 0, k)
  | none, some k => (s, 0, k)
  | none, none =>
    let va := d.f 16 8 % 2 ^ 52
    let (t, st, h) := s.readVa (s.launchReads p (s.ringCtx d.ring) (some d)) va 64
    let k : ImageKey := { va := BitVec.ofNat 52 va, crc := BitVec.ofNat 32 (fieldLe h 12 4) }
    (({ t with loaderLines := [] } : State).modDesc d.ring d.seq (fun x => { x with key := some k }), st, k)

/-- The status with which a LAUNCH or GRIND that uses cores ends at once: a context without a save area never runs; one whose
area lies outside the partition's memory ends with ADDR_HOLE (R296, R297). -/
def State.coreRefusal (s : State) (p : PartId) (ctx : BitVec 8) (rankEnd : Nat) : Option Nat :=
  if s.nCores p < rankEnd ∨ s.saveArea ctx = 0 then some 0x0011
  else if !s.inRanges p (s.saveArea ctx) (s.saveLen p) then some 0x0102
  else none

/-- A LAUNCH acts: it is refused, waits for its image, or starts. -/
def State.actLaunch (s : State) (p : PartId) (d : Desc) : State :=
  match s.coreRefusal p (s.ringCtx d.ring) (d.first + d.count) with
  | some st => s.endDesc d.ring d.seq st
  | none =>
    let (t, st, key) := s.imageKey p d
    if st ≠ 0 then t.endDesc d.ring d.seq st
    else
      match (t.part p).images.find? (fun i => decide (i.key = key)) with
      | none => t.awaitImage p d key
      | some img =>
        if s.coresOpen p (s.ringCtx d.ring) && (s.launchCores p d).all (fun c => (s.core c).finished)
        then t.beginLaunch p d img else t

def execLaunch (ring : RingId) (seq : BitVec 32) (s : State) : Res := 
  onDesc s ring seq 0x04 (fun p d => s.settle (s.actLaunch p d))

/-! ### The end of a launch (R39, R54, R284, R401) -/

/-- The core still belongs to a launch. -/
def State.belongs (s : State) (l : Launch) (c : CoreId) : Bool :=
  match (s.core c).launch with
  | some r => decide (r.ring = l.ring) && decide (r.seq = l.seq)
  | none => false

/-- A core of a cancelled launch has come to its stop. -/
def Core.aborted (k : Core) : Bool :=
  decide (k.stop = some .abort) && allUnits.all (fun u => (k.engOf u).stopped)

/-- The context of a launch is in: its cores hold its state. -/
def State.launchIn (s : State) (l : Launch) : Bool := decide ((s.part l.part).running = some l.ctx)

/-- Every core of a launch has finished its part, or has stopped; a launch whose context is switched out goes on when it is
switched in again, unless it has been cancelled. -/
def State.launchOver (s : State) (l : Launch) : Bool :=
  if !s.launchIn l then l.cancelled
  else l.cores.all (fun c => !s.belongs l c ||
    (if l.cancelled then (s.core c).aborted || ((s.core c).finished && (s.core c).stop.isNone) else (s.core c).finished))

/-- A core leaves a launch; one that was stopped by its cancellation is idle again. -/
def Core.leave (k : Core) (cancelled : Bool) : Core :=
  let k1 : Core := { k with run := .idle, launch := none, fills := [], badLines := [], needLine := none, fetchAt := none, arrived := none }
  if cancelled && decide (k.stop = some .abort) then
    { k1 with stop := none, stopReq := none, wait := none, stalled := none, queues := [], eng := [], stepping := false }
  else k1

/-- The status of a launch: the code of the lowest core that met an error. -/
def Launch.status (l : Launch) : Nat := match l.errors with | e :: _ => e.2.toNat | [] => 0

/-- What a cancelled launch has left in the saved state of its context is discarded: its cores come back idle (R39). -/
def State.dropSaved (s : State) (l : Launch) : State :=
  let mine := fun (k : Core) => match k.launch with
    | some r => decide (r.ring = l.ring) && decide (r.seq = l.seq)
    | none => false
  let drop := fun (k : Core) => if mine k then ({ k with stop := some .abort } : Core).leave true else k
  { s with saved := tabMod (fun _ => { cores := [] }) l.ctx.toNat (fun x => { cores := x.cores.map drop }) s.saved }

/-- The LAUNCH completes. -/
def State.endLaunch (s : State) (l : Launch) : State :=
  let s0 := if s.launchIn l then s else s.dropSaved l
  let s1 := l.cores.foldl (fun t c => if s.belongs l c then t.modCore c (fun k => k.leave l.cancelled) else t) s0
  let s2 : State := { s1 with launches := s1.launches.filter (fun x => !(decide (x.ring = l.ring) && decide (x.seq = l.seq))) }
  let s3 := s2.flagDesc l.ring l.seq (BitVec.ofNat 16 (2 * boolNat l.skipped + 4 * boolNat l.syncFault))
  (s3.endDesc l.ring l.seq l.status).noteIdle l.part l.ctx

def execLaunchFinish (ring : RingId) (seq : BitVec 32) (s : State) : Res :=
  match s.launches.find? (fun l => decide (l.ring = ring) && decide (l.seq = seq)) with
  | none => .next s
  | some l => whenever (s.launchOver l) s (s.endLaunch l)

/-! ### GRIND (R287) -/

/-- The grind command of a descriptor: no take, no post, the descriptor's tag. -/
def Desc.grindCmd (d : Desc) : Cmd :=
  { opc := 0xD0
    h := { unit := 0, mode := BitVec.ofNat 4 (d.f 17 1 % 4), tag := BitVec.ofNat 16 d.tag, takePeg := 0, takeEn := false,
           postPeg := 0, postEn := false }
    w := (List.range 5).map (fun i => BitVec.ofNat 64 (d.f (24 + 8 * i) 8)) ++ [0, 0] }

/-- A GRIND acts: refused, or checked and put into its granary's queue, once no launch holds the core. -/
def State.actGrind (s : State) (p : PartId) (d : Desc) : State :=
  let ctx := s.ringCtx d.ring
  match s.coreRefusal p ctx (d.f 16 1 + 1) with
  | some st => s.endDesc d.ring d.seq st
  | none =>
    let c := s.coreOfRank p (d.f 16 1)
    let k := s.core c
    if !s.coresOpen p ctx || k.launch.isSome || decide ((k.engOf .grind).phase ≠ .idle) then s
    else
      match s.checkGrind c (some p) d.grindCmd with
      | (some why, t) =>
        ((t.cmdSkip c .grind d.tag why 0 0).traceCmd c .grind d.grindCmd 3 why 0).endDesc d.ring d.seq (0x0200 + why)
      | (none, t) =>
        ((t.noteBusy p ctx).running_ d.ring d.seq).enterGranary (mkJob c k d.grindCmd (some (d.ring, d.seq)))

def execGrind (ring : RingId) (seq : BitVec 32) (s : State) : Res := onDesc s ring seq 0x0E (fun p d => s.actGrind p d)

end Sys2Proof.Machine
end

