-- ==== Sys2Proof/Machine/DescOps.lean ====
section
/-! DEFINITION. The synchronisation, ordering and mapping descriptors (R153, R223, R242, R263, R285 to R287). -/

namespace Sys2Proof.Machine

def execNopDescriptor (ring : RingId) (seq : BitVec 32) (s : State) : Res :=
  onDesc s ring seq 0x00 (fun _ _ => s.endDesc ring seq 0)

/-! ### SIGNAL and WAIT (R236, R241, R242, R285) -/

def Desc.kind (d : Desc) : Nat := d.f 16 1
def Desc.object (d : Desc) : Nat := d.f 18 2
def Desc.amount (d : Desc) : Word := BitVec.ofNat 64 (d.f 24 8)

/-- A held update takes its place in fetch order (R242). -/
def placeHeld (h : HeldUpdate) : List HeldUpdate → List HeldUpdate
  | [] => [h]
  | x :: r => if h.order < x.order then h :: x :: r else x :: placeHeld h r

/-- A member's update of a peg or tally waits in the joint log. -/
def State.holdUpdate (s : State) (p : PartId) (d : Desc) : State :=
  if 256 ≤ (s.joint p d.jid).log.length then s.failJoint p d.jid 0x0303
  else
    let h : HeldUpdate := { ring := d.ring, seq := d.seq, kind := d.kind, object := d.object, amount := d.amount, order := d.order }
    (s.modJoint p d.jid (fun x => { x with log := placeHeld h x.log })).endDesc d.ring d.seq 0

/-- A peg post or decrement: refused with its fault's status where the count does not allow it. -/
def State.signalPeg (s : State) (d : Desc) (n : Nat) : State :=
  let k := d.amount.toNat
  let who := SyncBy.descriptor d.ring d.seq
  if d.kind = 0 then (s.pegPost who n k).endDesc d.ring d.seq (if 65535 < (s.peg n).count.toNat + k then 0x0209 else 0)
  else (s.pegDec who n k).endDesc d.ring d.seq (if (s.peg n).count.toNat < k then 0x020A else 0)

/-- A SIGNAL acts on its object. -/
def State.signal (s : State) (p : PartId) (d : Desc) : State :=
  let ctx := s.ringCtx d.ring
  let done := fun (t : State) (st : Nat) => t.endDesc d.ring d.seq st
  if d.member && d.kind == 3 then done s 0x0304
  else if d.kind = 2 then
    match s.tallyRef p ctx d.object with
    | none => done s 0x0208
    | some (.local_ n) =>
      if d.member then s.holdUpdate p d else done (s.tallyAdv (.descriptor d.ring d.seq) n d.amount) 0
    | some (.remote fab n) =>
      if d.member then s.holdUpdate p d
      else (s.running_ d.ring d.seq).remoteTally p d.ring d.seq 1 fab n d.amount
  else if d.kind = 3 then
    match s.bellRef p ctx d.object with
    | none => done s 0x0208
    | some n =>
      if d.amount.toNat = 0 ∨ 4096 < d.amount.toNat then
        done (s.syncFault (.descriptor d.ring d.seq) (s.bellOwner n) 0x12 n) 0x0212
      else done (s.bellArrive (.descriptor d.ring d.seq) n d.amount.toNat none) 0
  else
    match s.pegRef p ctx d.object with
    | none => done s 0x0208
    | some n => if d.member then s.holdUpdate p d else s.signalPeg d n

def execSignal (ring : RingId) (seq : BitVec 32) (s : State) : Res := onDesc s ring seq 0x05 s.signal

/-- A WAIT registers at its object, which ends it when its condition holds. -/
def State.await (s : State) (p : PartId) (d : Desc) : State :=
  let ctx := s.ringCtx d.ring
  let who := WaiterId.descriptor d.ring d.seq
  let t := s.running_ d.ring d.seq
  if d.kind = 0 then
    match s.pegRef p ctx d.object with
    | none => s.endDesc d.ring d.seq 0x0208
    | some n => t.pegTake n d.amount who
  else if d.kind = 3 then
    match s.bellRef p ctx d.object with
    | none => s.endDesc d.ring d.seq 0x0208
    | some n =>
      let b := s.bell n
      if b.gen ≠ d.amount.setWidth 16 then s.endDesc d.ring d.seq 0
      else t.setBell n { b with waiters := b.waiters ++ [{ who := who, kind := .bellArrive, need := b.count.setWidth 64 }] }
  else
    match s.tallyRef p ctx d.object with
    | none => s.endDesc d.ring d.seq 0x0208
    | some (.local_ n) =>
      if d.kind = 1 then t.tallyAwait n { who := who, kind := .tallyWait, need := d.amount }
      else t.tallyAwait n { who := who, kind := .tallyRoom, need := (s.tally n).depth.setWidth 64 }
    | some (.remote fab n) =>
      t.remoteTally p d.ring d.seq (if d.kind = 1 then 2 else 3) fab n (if d.kind = 1 then d.amount else 0)

def execWait (ring : RingId) (seq : BitVec 32) (s : State) : Res := onDesc s ring seq 0x06 s.await

/-- A running descriptor of an opcode. -/
def onRunning (s : State) (r : RingId) (seq : BitVec 32) (opc : Nat) (f : PartId → Desc → State) : Res :=
  match s.descOf r seq with
  | none => .next s
  | some (p, d) => whenever (decide (d.stage = .running) && d.opc == opc) s (f p d)

def execWaitTimeout (ring : RingId) (seq : BitVec 32) (s : State) : Res :=
  onRunning s ring seq 0x06 (fun _ d =>
    if d.f 20 4 = 0 then s else ((s.dropWaits ring seq).withdrawRemote ring seq).endDesc ring seq 0x0015)

/-! ### FENCE, FLUSH, CANCEL (R286, R288) -/

/-- Descriptors fetched before one. -/
def earlier (ds : List Desc) (d : Desc) : List Desc := ds.takeWhile (fun x => !x.named d.ring d.seq)

/-- Every earlier descriptor of its ring has completed. -/
def State.ringDone (s : State) (p : PartId) (d : Desc) : Bool :=
  ((earlier (s.descs p) d).filter (fun x => decide (x.ring = d.ring))).all Desc.done

/-- A ring of another number as a body names it. -/
def asRing (n : Nat) : RingId := ⟨n % 8192, Nat.mod_lt _ (by decide)⟩

/-- Every descriptor of a ring with a sequence before a bound has completed. -/
def State.boundDone (s : State) (p : PartId) (r : RingId) (bound : BitVec 32) : Bool :=
  !before (s.fetched r) bound &&
    (s.descs p).all (fun x => !(decide (x.ring = r) && before x.seq bound) || x.done)

/-- The rings and bounds a FENCE names. -/
def Desc.fences (d : Desc) : List (RingId × BitVec 32) :=
  (List.range (d.f 16 1)).map (fun i => (asRing (d.f (24 + 6 * i) 2), BitVec.ofNat 32 (d.f (26 + 6 * i) 4)))

def execFence (ring : RingId) (seq : BitVec 32) (s : State) : Res :=
  onDesc s ring seq 0x07 (fun p d =>
    if d.fences.any (fun x => decide (s.partOfRing x.1 ≠ some p)) then s.endDesc ring seq 0x0011
    else if s.ringDone p d && d.fences.all (fun x => s.boundDone p x.1 x.2) then s.endDesc ring seq 0
    else s)

/-- The record of a FLUSH is written after a flushing read in either regime (Desc.lean). -/
def execFlush (ring : RingId) (seq : BitVec 32) (s : State) : Res :=
  onDesc s ring seq 0x08 (fun p d => if s.ringDone p d then s.endDesc ring seq 0 else s)

/-- Target ring and bound of a CANCEL. -/
def Desc.target (d : Desc) : RingId := asRing (d.f 16 2)
def Desc.bound (d : Desc) : BitVec 32 := BitVec.ofNat 32 (d.f 20 4)

def execCancel (ring : RingId) (seq : BitVec 32) (s : State) : Res :=
  onDesc s ring seq 0x0F (fun p d =>
    if (earlier (s.descs p) d).all (fun x => !(decide (x.ring = d.target) && before x.seq d.bound) || x.done)
    then s.endDesc ring seq 0 else s)

/-! ### INGRESS_FENCE (R263) -/

/-- The physical address of a BAR4 offset (R262). -/
def State.ingAddr (s : State) (off : Nat) : Nat := 2 ^ 32 * s.fld oING_CTL 40 32 + off

/-- Bytes at a BAR4 offset contain a marker. -/
def marks (off : Nat) (data : List Byte) (m : Nat) (v : BitVec 32) : Bool :=
  decide (off ≤ m) && decide (m + 4 ≤ off + data.length) && fieldLe data (m - off) 4 == v.toNat

/-- The marker word holds the marker value, or a write that sets it has been received. -/
def State.marked (s : State) (m : Nat) (v : BitVec 32) : State × Bool :=
  if s.ingress.any (fun i => marks i.off i.data m v) then (s, true)
  else
    let (t, st, bs) := s.readPhys none (s.ingAddr m) 4
    (t, st == 0 && leNat bs == v.toNat)

/-- The fence waits for the writes it covers. -/
def State.coverIngress (s : State) (d : Desc) (ids : List Nat) : State :=
  ({ s with
    ingressWaits := s.ingressWaits.filter (fun w => !(decide (w.ring = d.ring) && decide (w.seq = d.seq))) ++
      [{ ring := d.ring, seq := d.seq, marker := none, covered := ids }] } : State).settleIngress

/-- Whether the fence waits for its marker. -/
def State.awaitsMarker (s : State) (d : Desc) : Bool :=
  s.ingressWaits.any (fun w => decide (w.ring = d.ring) && decide (w.seq = d.seq) && w.marker.isSome)

/-- The fence acts, or looks at its marker word again. -/
def State.ingressFence (s : State) (d : Desc) : State :=
  let m := d.f 16 4
  let v : BitVec 32 := BitVec.ofNat 32 (d.f 20 4)
  let t := s.running_ d.ring d.seq
  if m = 2 ^ 32 - 1 then
    t.coverIngress d (d.covered.filter (fun i => s.ingress.any (fun x => x.req == i)))
  else
    match t.marked m v with
    | (u, true) => u.coverIngress d (u.ingress.map Ingress.req)
    | (u, false) =>
      if u.awaitsMarker d then u
      else { u with ingressWaits := u.ingressWaits ++
        [{ ring := d.ring, seq := d.seq, marker := some (m, v), covered := [] }] }

def execIngressFence (ring : RingId) (seq : BitVec 32) (s : State) : Res :=
  match s.descOf ring seq with
  | none => .next s
  | some (_, d) =>
    whenever (d.opc == 0x09 && (decide (d.stage = .started) || (decide (d.stage = .running) && s.awaitsMarker d))) s
      (s.settle (s.ingressFence d))

def execIngressTimeout (ring : RingId) (seq : BitVec 32) (s : State) : Res :=
  onRunning s ring seq 0x09 (fun _ d =>
    if s.awaitsMarker d then
      ({ s with ingressWaits := s.ingressWaits.filter (fun w => !(decide (w.ring = ring) && decide (w.seq = seq))) } :
        State).endDesc ring seq 0x0404
    else s)

/-! ### MAP (R153, R287) -/

def Desc.mapVa (d : Desc) : Nat := d.f 16 8 % 2 ^ 52
def Desc.mapLevel (d : Desc) : Nat := d.f 24 1
def Desc.mapCount (d : Desc) : Nat := d.f 28 4

/-- The range of virtual addresses that an entry of a level covers. -/
def rangeSize (level : Nat) : Nat := if level = 3 then 2 ^ 39 else pageSize level

/-- The table of a level on the way to a virtual address, from a table of level `lv`; `k` bounds the walk. -/
def State.tableFor (s : State) (p : PartId) (ctx : BitVec 8) (tag va level : Nat) : Nat → Nat → Nat → State × Nat × Nat
  | 0, _, t => (s, 0, t)
  | k + 1, lv, t =>
    if !s.inRanges p t (tableSize lv) then (s, 0x0102, 0)
    else if lv ≤ level then (s, 0, t)
    else
      let (s1, x) := s.direct (some p) (t + 8 * levelIdx lv va) .read 8 []
      let e : Word := BitVec.ofNat 64 (leNat x.data)
      if x.status ≠ 0 then (s1, x.status.toNat, 0)
      else
        let s2 := s1.logEntry p 0xFF 0xFF ctx tag va e
        if !s2.entryValid p lv e || eLeaf e then (s2.logXlate (some p) 0xFF 0xFF ctx tag 0 va e, 0x0211, 0)
        else s2.tableFor p ctx tag va level k (lv - 1) (eAddr e)

/-- Entry k of a MAP: from its host array, or its template with ADDR advanced. -/
def Desc.mapEntry (d : Desc) (k : Nat) : Word :=
  if d.f 32 8 ≠ 0 then d.words.getD k 0
  else
    let e : Word := BitVec.ofNat 64 (d.f 40 8)
    let step := if eLeaf e then rangeSize d.mapLevel else tableSize (d.mapLevel - 1)
    setBits e 40 8 ((eAddr e + k * step) / 256)

/-- Progress of a MAP: the table in hand, entries written, status. -/
structure MapRun where
  st : State
  table : Nat := 0
  wrote : Nat := 0
  status : Nat := 0

/-- Write entry k. -/
def MapRun.put (m : MapRun) (p : PartId) (d : Desc) (k : Nat) : MapRun :=
  if m.status ≠ 0 then m
  else
    let lv := d.mapLevel
    let ctx := m.st.ringCtx d.ring
    let va := (d.mapVa / rangeSize lv + k) * rangeSize lv
    let idx := levelIdx lv va
    let (s1, st1, t) :=
      if k = 0 ∨ idx = 0 then
        (if m.st.rootOf p ctx = 0 then (m.st.logXlate (some p) 0xFF 0xFF ctx d.tag 0 va 0, 0x0211, 0)
         else m.st.tableFor p ctx d.tag va lv 4 3 (m.st.rootOf p ctx))
      else (m.st, 0, m.table)
    if st1 ≠ 0 then { m with st := s1, status := st1 }
    else
      let (s2, st2) := s1.writePhys (some p) (t + 8 * idx) (natLe 8 (d.mapEntry k).toNat)
      if st2 ≠ 0 then { m with st := s2, table := t, status := st2 }
      else { m with st := s2, table := t, wrote := m.wrote + 1 }

/-- A cached leaf of a context overlaps a range of virtual addresses. -/
def TlbEntry.overlaps (t : TlbEntry) (ctx : BitVec 8) (va len : Nat) : Bool :=
  decide (t.ctx = ctx) && decide (va < t.va + t.size) && decide (t.va < va + len)

/-- Cached leaves for which `f` holds, in any translation cache. -/
def State.cachedLeaves (s : State) (f : TlbEntry → Bool) : List TlbEntry :=
  s.cores.flatMap (fun e => e.2.tlb.filter f) ++ s.hostTlb.flatMap (fun e => e.2.filter f)

/-- Write the entries, remove the translations they replace, restart the walks that may have read them, and wait for the accesses
that used them. -/
def State.writeMap (s : State) (p : PartId) (d : Desc) : State :=
  let m := (List.range d.mapCount).foldl (fun m k => m.put p d k) ({ st := s } : MapRun)
  let va := d.mapVa / rangeSize d.mapLevel * rangeSize d.mapLevel
  let old := fun (t : TlbEntry) => t.overlaps (s.ringCtx d.ring) va (m.wrote * rangeSize d.mapLevel)
  let pages := (m.st.cachedLeaves old).map (fun t => (eAddr t.entry, t.size))
  let stale := fun (w : Walk) => decide (w.ctx = s.ringCtx d.ring) && decide (va ≤ w.va) &&
    decide (w.va < va + m.wrote * rangeSize d.mapLevel)
  ((m.st.dropLeaves old).rewalk stale).modDesc d.ring d.seq (fun x => { x with
    stage := .running, acted := true, status := BitVec.ofNat 16 m.status, pages := pages })

/-- Read the next entries of the host array. -/
def State.readMap (s : State) (d : Desc) : State :=
  let k := d.words.length
  (s.hostRead (match s.partOfRing d.ring with | some p => partFn p | none => 0) (d.f 32 8 + 8 * k) (8 * min 512 (d.mapCount - k)) (.mapEntries d.ring d.seq)).2

/-- The accesses that used removed entries have been performed or acknowledged: the MAP ends. -/
def State.endMap (s : State) (d : Desc) : State :=
  if d.pages.any (fun x => s.pageBusy x.1 x.2) then s else s.endDesc d.ring d.seq d.status.toNat

/-- A MAP starts, goes on when its entries have arrived, and ends. -/
def State.actMap (s : State) (p : PartId) (d : Desc) : State :=
  if d.acted then s.endMap d
  else if d.stage = .started ∧ 2 ^ 52 < (d.mapVa / rangeSize d.mapLevel + d.mapCount) * rangeSize d.mapLevel then
    s.endDesc d.ring d.seq 0x0011
  else if d.f 32 8 = 0 ∨ d.mapCount ≤ d.words.length then s.writeMap p d
  else if d.stage = .started then (s.running_ d.ring d.seq).readMap d
  else s

def execMap (ring : RingId) (seq : BitVec 32) (s : State) : Res :=
  match s.descOf ring seq with
  | none => .next s
  | some (p, d) =>
    whenever (d.opc == 0x0A && (decide (d.stage = .started) || decide (d.stage = .running))) s (s.settle (s.actMap p d))

/-- Entries of a MAP have arrived from the host. -/
def State.mapArrived (s : State) (r : RingId) (seq : BitVec 32) (bs : List Byte) : State :=
  match s.descOf r seq with
  | none => s
  | some (_, d) =>
    if d.opc = 0x0A ∧ d.stage = .running ∧ !d.acted then
      let n := min 512 (d.mapCount - d.words.length)
      let d2 := { d with words := d.words ++ (List.range n).map (fun i => BitVec.ofNat 64 (fieldLe bs (8 * i) 8)) }
      let t := s.modDesc r seq (fun _ => d2)
      if d2.words.length < d2.mapCount then t.readMap d2 else t
    else s

end Sys2Proof.Machine
end

