-- ==== Sys2Proof/Machine/Rings.lean ====
section
/-! DEFINITION. Doorbells, polling, descriptor fetch, start and completion, ring table entries (R267 to R281, R288 to R292,
R301 to R303, R313, R323). -/

namespace Sys2Proof.Machine

/-! ### Polling (R273 to R277) -/

/-- The status line of a ring whose enable has come into force, where that changed RETIRED (R269). -/
def State.dueLine (s : State) (r : RingId) : State :=
  if s.cfg (oRT_CTL r) 0 0 = 1 then (s.statusLine r).modRing r (fun k => { k with lineDue := false }) else s

/-- A poll begins: the tables of the last completed FLUSH read come into force. -/
def State.beginPoll (s : State) : State :=
  let t : State := { s with tables := s.flushed, pollNo := s.pollNo + 1 }
  ((t.rings.filter (fun e => e.2.lineDue)).foldl (fun u e => u.dueLine ⟨e.1 % 8192, Nat.mod_lt _ (by decide)⟩) t).issueReads

/-- A ring's context is a standby context, or its partition a standby partition (R303, R313). -/
def State.isStandby (s : State) (p : PartId) (r : RingId) : Bool :=
  s.cfg (oPT_CTL p) 1 1 == 1 ||
    (match s.ctxSlot (s.ringCtx r) with | some (q, c) => decide (q = p) && s.cfg (oPT_CTX p c) 10 10 == 1 | none => false)

/-- A ring that the poller serves: enabled, of a partition that is not being aborted, not standby unless adopted. -/
def State.polled (s : State) (r : RingId) : Bool :=
  match s.partOfRing r with
  | none => false
  | some p => s.cfg (oRT_CTL r) 0 0 == 1 && (s.part p).abort.isNone && (!s.isStandby p r || (s.ring r).adopted)

/-- The partner partition of an adopted ring: that of the recovery record that names the ring; where none does, the first that the
local partition adopts (log entry 104). -/
def State.partnerOf (s : State) (p : PartId) (r : RingId) : Option Nat :=
  let maps := fun (q : Nat) => s.bit (oTW_ADOPT q) 0 && s.fld (oTW_ADOPT q) 5 1 == p.val
  match s.twin.records.find? (fun x => x.record.points.any (fun y => decide (y.1 = r)) && maps x.record.partition.val) with
  | some x => some x.record.partition.val
  | none => (List.range 32).find? maps

/-- The doorbell page of a ring: its partition's, or for an adopted ring the partner partition's (R310, R323). -/
def State.doorbell (s : State) (p : PartId) (r : RingId) : Nat :=
  if (s.ring r).adopted then
    match s.partnerOf p r with
    | some q => 4096 * s.fld (oTW_ADOPT q) 63 12
    | none => 4096 * s.cfg (oPT_DBPAGE p) 63 12
  else 4096 * s.cfg (oPT_DBPAGE p) 63 12

/-- Read the tail word of a ring for a poll. -/
def State.readTail (poll : Nat) (s : State) (r : RingId) : State :=
  match s.partOfRing r with
  | none => s
  | some p =>
    if !s.polled r then s
    else (s.hostReadIn poll (partFn p) (s.doorbell p r + 4 * s.cfg (oRT_DB r) 9 0) 4 (.tail r)).2

/-- The rings whose RT_CTL a table of words lists, ascending: every other ring's reads as its reset value, with EN clear. -/
def ringsListed (t : Tab Word) : List RingId :=
  t.filterMap (fun e =>
    if 0x100000 ≤ e.1 ∧ e.1 < 0x180000 ∧ e.1 % 64 = 0
    then some ⟨(e.1 - 0x100000) / 64 % 8192, Nat.mod_lt _ (by decide)⟩ else none)

/-- Every ring that some partition owns and the tables in force enable. -/
def State.enabledRings (s : State) : List RingId := (ringsListed s.tables).filter s.polled

def execSummaryPoll (s : State) : Res :=
  let t := s.beginPoll
  let base := 1024 * s.fld oDB_SUMMARY 63 10
  whenever (s.ready && !s.held) s
    (if base = 0 then t else (t.hostReadIn t.pollNo 0 base 1024 .summary).2.incFld oDB_POLLS 31 0 1)

/-- The summary of a poll has arrived: it is kept, and the tails of the enabled rings of classes 1 to 3 whose bit is set are
read. -/
def State.gotSummary (s : State) (poll : Nat) (bs : List Byte) : State :=
  let t := { s with summary := bs }
  (t.enabledRings.filter (fun r => s.ringClass r != 0 && bitOf ((bs.getD (r.val / 8) 0).toNat) (r.val % 8))).foldl
    (State.readTail poll) t

def execClass0TailPoll (s : State) : Res :=
  let t := s.beginPoll
  whenever (s.ready && !s.held) s ((t.enabledRings.filter (fun r => t.ringClass r == 0)).foldl (State.readTail t.pollNo) t)

/-- The poller reads one ring's tail: a poll of its own for R289, which takes up no tables. -/
def State.nudge (s : State) (r : RingId) : State :=
  State.readTail (s.pollNo + 1) { s with pollNo := s.pollNo + 1 } r

def execNudge (fn : FnId) (acc : Acc) (v : Word) (s : State) : Res :=
  bar0Write s fn oNUDGE v (fun l =>
    let t := s.noteWrite fn l (fieldsAt oNUDGE) acc v noField
    let r : RingId := ⟨getBits v 12 0 % 8192, Nat.mod_lt _ (by decide)⟩
    if acc = .hi then t
    else match fnPart fn with
      | some p => if s.partOfRing r = some p then t.nudge r else t.refuseWrite fn l v
      | none => t.nudge r)

/-- A ring's tail is beyond what it may be: the partition's error event, once per ring until EN is written (R276). -/
def State.ringError (s : State) (r : RingId) : State :=
  match s.partOfRing r with
  | none => s
  | some p =>
    if (s.ring r).errorRaised then s
    else (s.modRing r (fun k => { k with errorRaised := true })).raise p 0x0002 (s.ringCtx r).toNat r.val

/-- A ring takes a tail that a poll has found; the first one of an adopted ring is where its replay ends (R323). -/
def State.setTail (s : State) (r : RingId) (poll : Nat) (tail : BitVec 32) : State :=
  s.modRing r (fun k =>
    { k with
      tail := tail
      found := if tail = s.fetched r then k.found else poll
      owed := decide (tail ≠ s.fetched r)
      readySince := if tail = s.fetched r then none else some (k.readySince.getD s.fabric_)
      polls := if tail = s.fetched r then [] else k.polls ++ [(tail, s.fabric_)]
      replayDue := false
      replayTo := if k.replayDue then (if tail = s.fetched r then none else some tail) else k.replayTo })

/-- A tail word is checked: one behind FETCHED is ignored; one beyond RETIRED + SIZE is clamped. -/
def State.takeTail (s : State) (r : RingId) (poll : Nat) (tail : BitVec 32) : State :=
  let size := BitVec.ofNat 32 (s.ringSize r)
  if (tail - s.fetched r).toInt < 0 then s.ringError r
  else if size < tail - s.retired r then (s.ringError r).setTail r poll (s.retired r + size)
  else s.setTail r poll tail

def execTailRead (ring : RingId) (tail : BitVec 32) (s : State) : Res :=
  match s.hostReads.find? (fun x => decide (x.purpose = .tail ring) && x.issued) with
  | none => .next s
  | some x => whenever true s (({ s with hostReads := s.hostReads.erase x } : State).takeTail ring x.poll tail).issueReads

/-! ### Grants (R281, R301) -/

/-- Fetched descriptors of a partition that have not started: all, and those of rings of classes 1 to 3. -/
def State.unstarted (s : State) (p : PartId) : Nat := ((s.descs p).filter (fun d => decide (d.stage = .fetched))).length
def State.unstartedLow (s : State) (p : PartId) : Nat :=
  ((s.descs p).filter (fun d => decide (d.stage = .fetched) && s.ringClass d.ring != 0)).length

/-- Slots of fetches under way for rings of a partition that satisfy a test: outstanding, or arrived in part. -/
def State.coming (s : State) (p : PartId) (f : RingId → Bool) : Nat :=
  let mine := fun (r : RingId) => decide (s.partOfRing r = some p) && f r
  let out := s.hostReads.map (fun x => match x.purpose with | .slots r _ n => if mine r then n else 0 | _ => 0)
  let here := s.rings.map (fun e => if mine ⟨e.1 % 8192, Nat.mod_lt _ (by decide)⟩
    then (e.2.arrived.map (fun x => x.2.length)).foldl (· + ·) 0 else 0)
  (out ++ here).foldl (· + ·) 0

/-- Room in the buffer of a ring's partition: 256 entries, 64 of them kept for class-0 rings; slots of fetches under way take up
theirs. -/
def State.room (s : State) (p : PartId) (r : RingId) : Nat :=
  let all := 256 - s.unstarted p - s.coming p (fun _ => true)
  if s.ringClass r = 0 then all else min all (192 - s.unstartedLow p - s.coming p (fun x => s.ringClass x != 0))

/-- A ring has new slots and no fetch outstanding. -/
def State.ringReady (s : State) (r : RingId) : Bool :=
  s.polled r && (s.ring r).readySince.isSome && !(s.ring r).fetching

/-- A ready ring whose partition has room. -/
def State.mayFetch (s : State) (r : RingId) : Bool :=
  s.ringReady r && (match s.partOfRing r with | some p => decide (0 < s.room p r) | none => false)

/-- The order of a round robin after the last served, ascending and wrapping. -/
def afterRing (last : Nat) (rs : List RingId) : List RingId :=
  rs.filter (fun r => decide (last < r.val)) ++ rs.filter (fun r => decide (r.val ≤ last))

/-- The class of a position in the cycle of 13 grants: 8 to class 1, 4 to class 2, 1 to class 3 (log entry 30). -/
def cycleClass (pos : Nat) : Nat := if pos < 8 then 1 else if pos < 12 then 2 else 3

/-- The classes in the order in which a grant passes on: 1, 2, 3, 1. -/
def passOrder (c : Nat) : List Nat := if c = 1 then [1, 2, 3] else if c = 2 then [2, 3, 1] else [3, 1, 2]

/-- The ring of a class that is next: one that kept its turn, else in round robin. -/
def State.nextOf (s : State) (c : Nat) : Option RingId :=
  let rs := s.enabledRings.filter (fun r => s.ringReady r && s.ringClass r == c)
  match rs.find? (fun r => s.grantOwed.contains r.val && s.mayFetch r) with
  | some r => some r
  | none => (afterRing (tabGet (fun _ => 8191) c s.grantRing) rs).find? s.mayFetch

/-- The ring to grant: class 0, then one that has been ready for 10 ms, then the cycle. -/
def State.nextGrant (s : State) : Option (RingId × Bool) :=
  match s.nextOf 0 with
  | some r => some (r, false)
  | none =>
    let old := s.enabledRings.find? (fun r => s.mayFetch r &&
      (match (s.ring r).readySince with | some t => decide (t + 10000000 ≤ s.fabric_) | none => false))
    match old with
    | some r => some (r, false)
    | none => ((passOrder (cycleClass s.grantPos)).findSome? s.nextOf).map (fun r => (r, true))

/-- Rings of a class passed over for want of room on the way to a granted ring keep their turn. -/
def State.passedOver (s : State) (r : RingId) : List Nat :=
  let c := s.ringClass r
  let rs := s.enabledRings.filter (fun x => s.ringReady x && s.ringClass x == c)
  ((afterRing (tabGet (fun _ => 8191) c s.grantRing) rs).takeWhile (fun x => decide (x ≠ r))).map Fin.val

/-- Grant a ring its fetch of at most 8 slots: in one read, or in two where it goes on at slot 0 (R267). -/
def State.grant (s : State) (r : RingId) (p : PartId) (cycle : Bool) : State :=
  let n := min 8 (min (s.room p r) ((s.ring r).tail - s.fetched r).toNat)
  let base := 64 * s.cfg (oRT_DESC r) 63 6
  let at_ := (s.fetched r).toNat % s.ringSize r
  let k := min n (s.ringSize r - at_)
  let owed := if s.grantOwed.contains r.val then s.grantOwed.filter (· != r.val)
    else s.grantOwed ++ (s.passedOver r).filter (fun x => !s.grantOwed.contains x)
  let poll := (s.ring r).found
  let t1 := (s.hostReadIn poll (partFn p) (base + 64 * at_) (64 * k) (.slots r (s.fetched r) k)).2
  let t := if k < n then (t1.hostReadIn poll (partFn p) base (64 * (n - k)) (.slots r (s.fetched r + BitVec.ofNat 32 k) (n - k))).2
    else t1
  ({ t with
    grantOwed := owed
    grantPos := if cycle then (s.grantPos + 1) % 13 else s.grantPos
    grantRing := if s.grantOwed.contains r.val then s.grantRing
      else tabSet (fun _ => 8191) (s.ringClass r) r.val s.grantRing } : State).modRing r (fun k => { k with fetching := true })

def execFetchGrant (s : State) : Res :=
  match s.nextGrant with
  | none => .next s
  | some (r, cyc) =>
    match s.partOfRing r with
    | none => .next s
    | some p => whenever (!s.held) s (s.grant r p cyc)

/-! ### Checks (R234, R279, R282) -/

/-- A body field is outside its stated range: the offset of that field. -/
def badBody (d : Desc) : Option Nat :=
  let bad := fun (c : Bool) (o : Nat) => if c then some o else none
  let first := fun (l : List (Option Nat)) => l.findSome? id
  match d.opc with
  | 0x01 => first [bad (d.f 32 4 == 0) 32, bad (d.f 36 1 % 4 == 3) 36]
  | 0x02 => first [bad (d.f 40 4 == 0) 40, bad (d.f 44 4 == 0 || decide (2 ^ 20 < d.f 44 4)) 44]
  | 0x03 =>
    let len := d.f 16 8 / 2 ^ 52 % 256
    bad (len == 0 || decide (min 232 (40 + 64 * d.extra) < len)) 16
  | 0x04 => bad (d.count == 0 || decide (128 < d.count)) 26
  | 0x05 => first [bad (decide (3 < d.kind)) 16,
      bad (decide (d.kind ≤ 1) && (d.amount == 0 || decide (65535 < d.amount.toNat))) 24]
  | 0x06 => bad (decide (3 < d.kind)) 16
  | 0x07 => bad (decide (6 < d.f 16 1)) 16
  | 0x09 => first [bad (d.f 16 4 % 4 != 0 && d.f 16 4 != 2 ^ 32 - 1) 16, bad (d.f 24 2 == 0) 24]
  | 0x0A => first [bad (decide (3 < d.mapLevel)) 24, bad (d.mapCount == 0 || decide (2 ^ 20 < d.mapCount)) 28]
  | _ => none

/-- The checks of R279 after the sequence, in their order: status and offset of the first that fails. -/
def State.checkDesc (s : State) (p : PartId) (d : Desc) : Option (Nat × Nat) :=
  let chk := d.f 12 4
  if bitsOf chk 4 0 ≠ p.val ∨ bitsOf chk 15 8 ≠ (s.ringCtx d.ring).toNat ∨ bitsOf chk 28 16 ≠ d.ring.val then some (0x12, 12)
  else if 0x11 < d.opc then some (0x10, 0)
  else if d.flagBit 3 ≠ decide (d.opc = 0x03) then some (0x11, 1)
  else if d.extra ≠ 0 ∧ d.opc ≠ 0x03 then some (0x11, 2)
  else (badBody d).map (fun o => (0x11, o))

/-- The rules of R234 on the JOINT flag. -/
def badJoint (d : Desc) : Bool :=
  if d.jointFlag then !(decide (1 ≤ d.jid) && decide (d.jid ≤ 64)) || !(mayJoin d.opc || jointOp d.opc) else jointOp d.opc

/-- Reserved fields of a body: byte offset, size, and the bits of it that are reserved. -/
def reservedBody (d : Desc) : List (Nat × Nat × Nat) :=
  let all := fun (o n : Nat) => (o, n, 2 ^ (8 * n) - 1)
  let addr := fun (o : Nat) => (o, 8, (2 ^ 12 - 1) * 2 ^ 52)
  match d.opc with
  | 0x01 => [(36, 1, 0xFC), all 37 27]
  | 0x02 => [(56, 1, 0xFE), all 57 7]
  | 0x03 => [(16, 8, 15 * 2 ^ 60)]
  | 0x04 => [addr 16, all 28 4]
  | 0x05 => [all 17 1, all 20 4, all 32 32]
  | 0x06 => [all 17 1, all 32 32]
  | 0x07 => [all 17 7] ++ ((List.range (min 6 (d.f 16 1))).map (fun i => (24 + 6 * i, 2, 0xE000))) ++
      [all (24 + 6 * min 6 (d.f 16 1)) (40 - 6 * min 6 (d.f 16 1))]
  | 0x09 => [all 26 38]
  | 0x0A => [addr 16, all 25 3, all 48 16]
  | 0x0E => [(17, 1, 0xFC), all 18 6]
  | 0x0F => [(16, 2, 0xE000), all 18 2, all 24 40]
  | 0x11 => [all 24 40]
  | n => if n ≤ 0x11 then [all 16 48] else []

/-- Reserved fields of the header. -/
def reservedHead (d : Desc) : List (Nat × Nat × Nat) :=
  [(1, 1, 0xE0), (2, 1, 0xFC)] ++ (if d.jointFlag then [] else [(3, 1, 0xFF)]) ++
    [(6, 2, 0xFFFF), (12, 1, 0xE0), (15, 1, 0xE0)]

/-- A DESCRIPTOR entry of the fault log (R381). -/
def State.logDesc (s : State) (p : PartId) (d : Desc) (reason status off : Nat) : State :=
  s.logPart p { type := 0x07, reason := reason, ctx := (s.ringCtx d.ring).toNat, tag := d.tag, status := status,
                d1 := d.ring.val + d.seq.toNat * 2 ^ 32, d2 := off }

/-- Log the nonzero reserved fields of a descriptor. -/
def State.logReserved (s : State) (p : PartId) (d : Desc) : State :=
  (reservedHead d ++ reservedBody d).foldl (fun t x =>
    if d.f x.1 x.2.1 &&& x.2.2 ≠ 0 then t.logDesc p d 0x10 0 x.1 else t) s

/-! ### Fetch (R273, R279, R288, R289) -/

/-- The poll that found a slot ready. -/
def Ring.foundAt (k : Ring) (seq : BitVec 32) (now : Nat) : Nat :=
  match k.polls.find? (fun x => before seq x.1) with
  | some x => x.2
  | none => now

/-- A descriptor enters its partition's list, checked. One that fails as a member, or is covered by a bound as a member,
meets its joint with its status set. Its nonzero reserved fields are logged in either case (R8); the body of an opcode that does not
exist has no fields. -/
def State.admitDesc (s : State) (p : PartId) (d : Desc) (seqOk : Bool) : State :=
  let s1 := (s.count (some p) 0).logReserved p d
  let covered := s.fld (oRT_CANCEL d.ring) 32 32 == 1 &&
    before d.seq (BitVec.ofNat 32 (s.fld (oRT_CANCEL d.ring) 31 0))
  let push := fun (t : State) (x : Desc) => t.modPart p (fun q => { q with descs := q.descs ++ [x] })
  let fail := fun (t : State) (st : Nat) (join : Bool) =>
    push t { d with status := BitVec.ofNat 16 st, stage := if join && d.wantsJoint then .fetched else .ended }
  if !seqOk then fail (s1.logDesc p d 0 0x13 8) 0x13 false
  else
    match s.checkDesc p d with
    | some (st, o) => fail (s1.logDesc p d 0 st o) st (st == 0x11)
    | none =>
      if badJoint d then fail s1 0x0304 false
      else if covered then fail s1 0x0001 true
      else push s1 d

/-- Take the descriptors of a ring's slots in order, whole ones only; a first mismatch of the sequence is read again at the
next poll. -/
def State.takeSlots (s : State) (p : PartId) (r : RingId) : Nat → List Slot → State
  | 0, _ => s
  | _ + 1, [] => s
  | n + 1, h :: rest =>
    let extra := fieldLe h 2 1 % 4
    let seq := s.fetched r
    if rest.length < extra then s
    else
      let ok := fieldLe h 8 4 == seq.toNat
      if !ok && !(s.ring r).reread then s.modRing r (fun k => { k with reread := true, tail := seq, readySince := none })
      else
        let d : Desc :=
          { ring := r, seq := seq, bytes := h ++ (rest.take extra).flatten, readyAt := (s.ring r).foundAt seq s.fabric_
            poll := (s.ring r).found, order := s.nextId, covered := s.ingress.map Ingress.req }
        let t := (({ s with nextId := s.nextId + 1 } : State).admitDesc p d ok).modRing r (fun k => { k with reread := false })
        (t.setFld (oRT_STAT r) 31 0 (seq + 1 + BitVec.ofNat 32 extra).toNat).takeSlots p r n (rest.drop extra)

/-- The ring after a fetch: ready again if slots are left, its wait for a grant starting anew. -/
def State.afterFetch (s : State) (r : RingId) : State :=
  s.modRing r (fun k => { k with
    fetching := false
    owed := false
    arrived := []
    readySince := if k.tail = s.fetched r then none else some s.fabric_
    polls := k.polls.filter (fun x => before (s.fetched r) x.1) })

/-- The slots that the reads under way of a ring ask for. -/
def HostRead.slotsFor (x : HostRead) (r : RingId) : Nat :=
  match x.purpose with | .slots q _ n => if q = r then n else 0 | _ => 0
def State.slotsAsked (s : State) (r : RingId) : Nat := (s.hostReads.map (fun x => x.slotsFor r)).foldl (· + ·) 0

/-- The reads of a ring's fetch are over. -/
def State.endFetch (s : State) (r : RingId) : State := { s with hostReads := s.hostReads.filter (fun x => x.slotsFor r == 0) }

/-- The slots of one ring's fetch are there. -/
def State.takeBatch (s : State) (b : FetchBatch) : State :=
  match s.partOfRing b.ring with
  | none => s
  | some p => (s.takeSlots p b.ring b.slots.length b.slots).afterFetch b.ring

/-- What a CANCEL does to one descriptor it covers (R288). -/
def State.cancelOne (s : State) (p : PartId) (d : Desc) : State :=
  let t := s.modDesc d.ring d.seq (fun x => { x with cancelled := true })
  let open_ := d.member && !d.released && decide ((s.joint p d.jid).st = .open_)
  let commit := d.opc == 0x0C && d.acted
  let stop := fun (u : State) =>
    if open_ then u.failJoint p d.jid 0x0302
    else if commit then u.failJoint p d.jid 0x0302
    else u.stopDesc d 0x0001 0x0002
  match d.stage with
  | .fetched =>
    if d.wantsJoint && !d.resolved then t.markStatus d.ring d.seq 0x0001
    else stop (t.markStatus d.ring d.seq 0x0001)
  | .started => if d.opc = 0x10 then s else stop (t.markStatus d.ring d.seq (if d.opc = 0x04 then 0x0001 else 0x0002))
  | .running => if d.opc = 0x10 then s else stop (t.markStatus d.ring d.seq 0x0002)
  | .ended => if open_ then t.failJoint p d.jid 0x0302 else s
  | .completed => if open_ then t.failJoint p d.jid 0x0302 else s

/-- A CANCEL is applied: the target's bound, then every descriptor it covers. -/
def State.applyCancel (s : State) (p : PartId) (c : Desc) : State :=
  let r := c.target
  if s.partOfRing r ≠ some p then (s.logDesc p c 0 0x11 16).endDesc c.ring c.seq 0x0011
  else
    let o := oRT_CANCEL r
    let old : BitVec 32 := BitVec.ofNat 32 (s.fld o 31 0)
    let bound := if s.fld o 32 32 = 1 ∧ !before old c.bound then old else c.bound
    let s1 := (s.setFld o 31 0 bound.toNat).setFld o 32 32 1
    ((s1.descs p).filter (fun d => decide (d.ring = r) && before d.seq c.bound && !d.named c.ring c.seq)).foldl
      (fun t d => match (t.descs p).find? (fun x => x.named d.ring d.seq) with | some x => t.cancelOne p x | none => t) s1

/-- Apply the CANCELs among the descriptors just fetched, in fetch order. -/
def State.applyCancels (s : State) (new : List (RingId × BitVec 32)) : State :=
  new.foldl (fun t x =>
    match t.descOf x.1 x.2 with
    | some (p, d) => if d.opc = 0x0F ∧ d.stage = .fetched ∧ d.status = 0 then t.applyCancel p d else t
    | none => t) s

/-- Descriptors fetched in a state and not in an earlier one, by name. -/
def State.allDescs (s : State) : List (RingId × BitVec 32) := s.parts.flatMap (fun q => q.2.descs.map (fun d => (d.ring, d.seq)))

/-- The slots of one poll arrive: every descriptor is checked, then CANCELs are applied, then joints are met. -/
def State.fetchAll (s : State) (bs : List FetchBatch) : State :=
  let old := s.allDescs
  let t := bs.foldl State.takeBatch s
  let new := bs.flatMap (fun b => t.allDescs.filter (fun x => decide (x.1 = b.ring) && !old.contains x))
  let u := t.applyCancels new
  (List.finRange 32).foldl (fun u p => if (u.descs p).isEmpty then u else u.resolveJoints p) u

def execDescriptorFetch (batch : List FetchBatch) (s : State) : Res :=
  let due := batch.filter (fun b => s.slotsAsked b.ring == b.slots.length && (s.ring b.ring).arrived.isEmpty)
  checked (.descriptorFetch batch) "DESCRIPTOR_FETCH"
    (whenever true s (((due.map FetchBatch.ring).foldl State.endFetch s).fetchAll due).issueReads)

/-- A read of a ring's slots has returned: once every read of the fetch has, its slots are taken. -/
def State.gotSlots (s : State) (r : RingId) (first : BitVec 32) (slots : List Slot) : State :=
  let t := s.modRing r (fun k => { k with arrived := k.arrived ++ [(first, slots)] })
  if t.slotsAsked r ≠ 0 then t
  else
    let ps := (t.ring r).arrived
    t.fetchAll [{ ring := r, slots := ((ps.filter (fun x => decide (x.1 = s.fetched r))) ++
      ps.filter (fun x => decide (x.1 ≠ s.fetched r))).flatMap Prod.snd }]

/-- A read of a ring's slots fails: the fetch is made again once the next poll has found the ring (R264). -/
def State.lostSlots (s : State) (r : RingId) : State :=
  (s.endFetch r).modRing r (fun k => { k with
    fetching := false, arrived := [], owed := false, tail := s.fetched r, readySince := none })

/-! ### Start (R261, R280, R292, R302, R315) -/

/-- The first descriptor of a ring that has not started. -/
def State.nextDesc (s : State) (p : PartId) (r : RingId) : Option Desc :=
  (s.descs p).find? (fun d => decide (d.ring = r) && decide (d.stage = .fetched))

/-- The descriptor carries FENCE, or is replayed (R261). -/
def State.fencedNow (s : State) (d : Desc) : Bool := d.fenced || s.replaying d.ring d.seq

/-- An earlier descriptor of its ring holds its start: a WAIT, a FENCE descriptor (log entry 104) or an INGRESS_FENCE that has not
completed, a LAUNCH that waits for its image. -/
def Desc.holdsRing (d : Desc) : Bool :=
  (d.opc == 0x06 || d.opc == 0x07 || d.opc == 0x09) && !d.done || (d.opc == 0x04 && decide (d.stage = .started))

/-- The cores of a LAUNCH are its own: none is held by an earlier LAUNCH of its context, each has finished its part. -/
def State.coresFree (s : State) (p : PartId) (d : Desc) : Bool :=
  let mine := s.launchCores p d
  (s.coreRefusal p (s.ringCtx d.ring) (d.first + d.count)).isSome ||
    (s.coresOpen p (s.ringCtx d.ring) && mine.all (fun c => (s.core c).finished) &&
      (earlier (s.descs p) d).all (fun x =>
        !(x.opc == 0x04 && (decide (x.stage = .fetched) || decide (x.stage = .started)) &&
          decide (s.ringCtx x.ring = s.ringCtx d.ring) && (s.launchCores p x).any (fun c => mine.contains c))))

/-- The core of a GRIND is held by no launch. -/
def State.grindFree (s : State) (p : PartId) (d : Desc) : Bool :=
  (s.coreRefusal p (s.ringCtx d.ring) (d.f 16 1 + 1)).isSome ||
    (s.coresOpen p (s.ringCtx d.ring) && (s.core (s.coreOfRank p (d.f 16 1))).launch.isNone)

/-- The poll that found a descriptor is over for its partition: no tail read of that poll, no fetch of slots that it found, and no
ring that it found and that may be fetched is left (R289). -/
def State.pollOver (s : State) (p : PartId) (d : Desc) : Bool :=
  s.hostReads.all (fun x => x.poll != d.poll || (match x.purpose with
    | .tail r => decide (s.partOfRing r ≠ some p)
    | .slots r _ _ => decide (s.partOfRing r ≠ some p)
    | _ => true)) &&
  s.rings.all (fun e => !e.2.owed || e.2.found != d.poll ||
    (let r : RingId := ⟨e.1 % 8192, Nat.mod_lt _ (by decide)⟩
     decide (s.partOfRing r ≠ some p) || !s.mayFetch r))

/-- A descriptor may start, apart from its host cart. -/
def State.startable (s : State) (p : PartId) (d : Desc) : Bool :=
  s.pollOver p d &&
  let before_ := (earlier (s.descs p) d).filter (fun x => decide (x.ring = d.ring))
  ((s.part p).abort.isNone || d.opc == 0x10) && (s.part p).spareWanted.isNone && (d.resolved || !d.wantsJoint) &&
    before_.all (fun x => x.begun && !x.holdsRing) &&
    (!s.fencedNow d || before_.all Desc.done) &&
    (d.opc != 0x04 || s.coresFree p d) && (d.opc != 0x0E || s.grindFree p d)

/-- The descriptor uses a host cart: inbound (0) or outbound (1). -/
def Desc.cartDir (d : Desc) : Option Nat :=
  if d.opc = 0x01 then some (if d.f 36 1 % 4 = 1 then 1 else 0) else if d.opc = 0x02 then some (d.f 56 1 % 2) else none

/-- Host carts reserved to class 0 in each direction (R302). -/
def State.hcC0 (s : State) : Nat := min 4 (s.fld oHC_CTL 2 0)

/-- The class of a descriptor for host carts: without a reservation class 0 shares as class 1. -/
def State.cartClass (s : State) (d : Desc) : Nat :=
  if s.ringClass d.ring = 0 then (if s.hcC0 = 0 then 1 else 0) else s.ringClass d.ring

/-- A free host cart of a direction for a class. -/
def State.freeCart (s : State) (dir cl : Nat) : Option Nat :=
  let lo := if cl = 0 then 0 else s.hcC0
  let hi := if cl = 0 then s.hcC0 else 8
  ((List.range 8).filter (fun i => decide (lo ≤ i) && decide (i < hi))).map (· + 8 * dir) |>.find?
    (fun n => decide (s.hcart n = {}))

/-- The rings of a class whose next descriptor wants a host cart of a direction and may start. -/
def State.cartRings (s : State) (dir cl : Nat) : List RingId :=
  s.parts.flatMap (fun q =>
    let p : PartId := ⟨q.1 % 32, Nat.mod_lt _ (by decide)⟩
    (q.2.descs.filter (fun d => decide (s.nextDesc p d.ring = some d) && decide (d.cartDir = some dir) &&
      s.cartClass d == cl && s.startable p d)).map Desc.ring)

/-- The ring whose descriptor gets the next host cart of a direction: for class 0 the reserved ones, else in the weights and the
round robin of R301. -/
def State.cartTurn (s : State) (dir cl : Nat) : Option RingId :=
  let next := fun (c : Nat) => leastBy (fun (r : RingId) =>
    (r.val + 8191 - tabGet (fun _ => 8191) (4 * dir + c) s.cartRing) % 8192) (s.cartRings dir c)
  if cl = 0 then next 0 else (passOrder (cycleClass (tabGet (fun _ => 0) dir s.cartPos))).findSome? next

/-- A descriptor takes a host cart. -/
def State.takeCart (s : State) (d : Desc) (dir n : Nat) : State :=
  let cl := s.cartClass d
  { s with
    hostCarts := tabMod (fun _ => {}) n (fun _ => { desc := some (d.ring, d.seq) }) s.hostCarts
    cartPos := if cl = 0 then s.cartPos else tabMod (fun _ => 0) dir (fun x => (x + 1) % 13) s.cartPos
    cartRing := tabSet (fun _ => 8191) (4 * dir + cl) d.ring.val s.cartRing }

/-- A fenced start with no other descriptor of the partition under way, in fence mode with an active twin: a recovery boundary
(R315, R316). -/
def State.boundary (s : State) (p : PartId) (d : Desc) : State :=
  if d.fenced && s.cfg (oPT_CTL p) 3 2 == 2 &&
      (s.descs p).all (fun x => decide (x.stage = .fetched) || x.named d.ring d.seq) then
    let r := s.formRecord p (fun _ => false)
    let u := s.modPart p (fun q => { q with recovery := some r, recoveryAcked := false })
    if s.twState ≠ 2 then u
    else
      let (b, t) := (u.modPart p (fun q => { q with unacked := q.unacked ++ [some r] })).freeBody
      t.sendTwinOne 0xC5 b
  else s

/-- A descriptor starts; whether a LAUNCH is overdue shows when it has its image and starts its cores. -/
def State.startDesc (s : State) (p : PartId) (d : Desc) : State :=
  let s1 := (s.boundary p d).modDesc d.ring d.seq (fun x => { x with stage := .started, startedAt := s.fabric_ })
  if d.opc = 0x04 then s1 else s1.noteLate p d

/-- Start a ring's next descriptor if it may start. -/
def State.startRing (s : State) (p : PartId) (r : RingId) : State :=
  match s.nextDesc p r with
  | none => s
  | some d =>
    if !s.startable p d then s
    else match d.cartDir with
      | none => s.startDesc p d
      | some dir =>
        match s.freeCart dir (s.cartClass d) with
        | none => s
        | some n => if s.cartTurn dir (s.cartClass d) = some r then (s.startDesc p d).takeCart d dir n else s

def execDescriptorStart (ring : RingId) (s : State) : Res :=
  match s.partOfRing ring with
  | none => .next s
  | some p => whenever true s (s.startRing p ring)

/-! ### Completion (R237, R242, R247, R263, R290) -/

/-- An operation has ended: its record is withheld in its joint, or prepared. -/
def State.complete (s : State) (p : PartId) (d : Desc) : State :=
  let s1 := s.modDesc d.ring d.seq (fun x => { x with stage := .completed })
  let s2 := if d.opc = 0x09 then s1.incFld oING_STAT 63 32 1 else s1
  let s3 := if d.opc = 0x0E then s2.noteIdle p (s.ringCtx d.ring) else s2
  if !d.member || d.released then s3.publish p { d with stage := .completed }
  else match (s.joint p d.jid).st with
    | .open_ => if d.status = 0 then s3 else s3.failJoint p d.jid 0x0302
    | .committing => s3
    | .free => s3.publish p { d with stage := .completed }
    | .aborted => s3.endAborting p d.jid

def execDescriptorComplete (ring : RingId) (seq : BitVec 32) (s : State) : Res :=
  match s.descOf ring seq with
  | none => .next s
  | some (p, d) =>
    whenever (decide (d.stage = .ended) && ((s.part p).abort.isNone || d.opc == 0x10 || d.opc == 0x0C)) s (s.complete p d)

/-! ### Ring table entries (R271, R272, R303) -/

/-- The state as the tables written so far describe it, whether in force or not. -/
def State.written (s : State) : State := { s with tables := tableWords s.regs }

/-- A size a ring may have. -/
def goodSize (n : Nat) : Bool := (List.range 11).any (fun i => n == 64 * 2 ^ i)

/-- Enabled rings for which `f` holds, as written. -/
def State.ringsWhere (s : State) (f : RingId → Bool) : Nat :=
  ((ringsListed s.regs).filter (fun (r : RingId) => s.bit (oRT_CTL r.val) 0 && f r)).length

/-- EN may not go to 1 with this word of RT_CTL. -/
def State.enRefused (s : State) (r : RingId) (w : Word) : Bool :=
  let t := s.written
  let cls := getBits w 3 2
  !goodSize (s.fld (oRT_SIZE r) 16 0) ||
    (match t.partOfRing r with
     | none => true
     | some p =>
       !(t.contexts p).contains (BitVec.ofNat 8 (getBits w 23 16)) ||
         (getBits w 1 1 == 1 && decide (0 < s.ringsWhere (fun x => decide (x ≠ r) && s.bit (oRT_CTL x) 1 &&
           decide (t.partOfRing x = some p)))) ||
         (t.isClass0 p && cls != 0)) ||
    (cls == 0 && decide (64 ≤ s.ringsWhere (fun x => s.fld (oRT_CTL x) 3 2 == 0)))

/-- EN goes to 1: FETCHED and RETIRED take START_SEQ; what earlier recovery points said of the ring is void (R316). -/
def State.enableRing (s : State) (r : RingId) : State :=
  let q := BitVec.ofNat 32 (s.fld (oRT_SIZE r) 63 32)
  let t := (((s.setFld (oRT_STAT r) 31 0 q.toNat).setFld (oRT_STAT r) 63 32 q.toNat).setFld (oRT_CANCEL r) 31 0 0).setFld
    (oRT_CANCEL r) 32 32 0
  let u := t.modRing r (fun k => { tail := q, adopted := k.adopted, lineDue := decide (s.retired r ≠ q) })
  match u.partOfRing r with
  | some p => u.modPart p (fun x => { x with points := x.points.filter (fun y => decide (y.1 ≠ r)) })
  | none => u

def execRtCtlWrite (fn : FnId) (ring : RingId) (acc : Acc) (v : Word) (s : State) : Res :=
  let o := oRT_CTL ring
  bar0Write s fn o v (fun l =>
    let on := s.bit o 0
    let fs := fieldsAt o
    let held := fieldIf on [1, 2, 16]
    let w := mergeWrite fs (s.reg o) acc v held
    let no := !on && acc != .hi && w.getLsbD 0 && s.enRefused ring w
    let t := s.wordWrite fn l o fs acc v (fun f => held f || fieldIf no [0] f)
    let u := if acc = .hi then t else t.modRing ring (fun k => { k with errorRaised := false })
    if !on && u.bit o 0 then u.enableRing ring
    else if on && !u.bit o 0 then u.modRing ring (fun k => { k with adopted := false, replayDue := false, replayTo := none })
    else u)

end Sys2Proof.Machine
end

