-- ==== Sys2Proof/Machine/Context.lean ====
section
/-! DEFINITION. Contexts and time-slicing, partition aborts, the partition table (R37, R38, R75, R216, R217, R226, R227, R249,
R294 to R300, R303, R306 to R308, R379). -/

namespace Sys2Proof.Machine

/-! ### Which context comes next (R298) -/

/-- A LAUNCH or GRIND that only the cores hold back: next in its ring, or started, with its image, and not yet on its cores. -/
def State.wantsCores (s : State) (p : PartId) (d : Desc) : Bool :=
  let before_ := (earlier (s.descs p) d).filter (fun x => decide (x.ring = d.ring))
  (s.atCores d ||
    (d.opc == 0x04 || d.opc == 0x0E) && decide (s.nextDesc p d.ring = some d) && (d.resolved || !d.wantsJoint) &&
      before_.all (fun x => x.begun && !x.holdsRing) && (!s.fencedNow d || before_.all Desc.done)) &&
    (s.coreRefusal p (s.ringCtx d.ring) (if d.opc = 0x04 then d.first + d.count else d.f 16 1 + 1)).isNone

/-- A context waits for the cores. -/
def State.ctxWaits (s : State) (p : PartId) (ctx : BitVec 8) : Bool :=
  decide ((s.part p).running ≠ some ctx) && (s.descs p).any (fun d => decide (s.ringCtx d.ring = ctx) && s.wantsCores p d)

/-- The next waiting context in ascending order after the running one, wrapping. -/
def State.nextCtx (s : State) (p : PartId) : Option (BitVec 8) :=
  let from_ := match (s.part p).running with | some c => c.toNat | none => 255
  leastBy (fun (c : BitVec 8) => (c.toNat + 255 - from_) % 256) ((s.contexts p).filter (s.ctxWaits p))

/-- A switch may begin. -/
def Part.maySwitch (q : Part) : Bool := q.switch.isNone && !q.halted && q.abort.isNone && q.spareWanted.isNone

/-- A switch to a context begins: with the stop of the cores, or at once with the restore where no context is in. -/
def State.beginSwitch (s : State) (p : PartId) (ctx : BitVec 8) : State :=
  s.modPart p (fun q => { q with
    switch := some { phase := if q.running.isSome then .stopping else .restoring, target := ctx } })

/-- The quantum ends: a switch to the next waiting context, or a new quantum. -/
def execQuantumEnd (p : PartId) (s : State) : Res :=
  whenever ((s.part p).maySwitch && (s.part p).running.isSome) s
    (match s.nextCtx p with | some c => s.beginSwitch p c | none => s)

/-- No context is in, or the running one is idle, and another waits: the switch begins at once. -/
def execContextSwitch (p : PartId) (s : State) : Res :=
  let idle := match (s.part p).running with | some c => !s.ctxBusy p c | none => true
  whenever ((s.part p).maySwitch && idle) s (match s.nextCtx p with | some c => s.beginSwitch p c | none => s)

/-! ### Objects of a context (R216, R217, R227) -/

/-- A bell goes to ARRIVED, COUNT and GEN 0; waiters for another generation than the old one are released. -/
def State.zeroBell (s : State) (n : Nat) : State :=
  let b := s.bell n
  if b.gen = 0 then s.setBell n { b with count := 0, arrived := 0 }
  else (s.setBell n {}).releaseAll b.waiters 0

/-- Zero the local pegs, tally values and bells that a CLEAR context's table names. -/
def State.zeroObjects (s : State) (p : PartId) (ctx : BitVec 8) : State :=
  if s.keeps ctx then s
  else
    let s1 := (s.ctxPegs p ctx).foldl (fun t n => t.setPeg n { t.peg n with count := 0 }) s
    let s2 := (s.ctxTallies p ctx).foldl (fun t n => t.setTally n { t.tally n with value := 0 }) s1
    (((s.ctxBells p ctx).foldl State.zeroBell s2).serveTallies).touched (some p)

/-- Reserved bits of a table entry by its offset (R216). -/
def syncReserved (o e : Nat) : Bool :=
  if o < 0x4000 then bitsOf e 31 17 != 0
  else if o < 0x5000 then bitsOf e 31 28 != 0 || (!bitOf e 15 && bitsOf e 27 16 != 0)
  else bitsOf e 31 13 != 0

/-- Read a context's synchronisation table. The use of one that lies outside the partition's memory ends with ADDR_HOLE, which is
logged (R15, R296); such a table, and one that cannot be read, gives no entry. -/
def State.readSyncTable (s : State) (p : PartId) (ctx : BitVec 8) : State :=
  let at_ := match s.ctxSlot ctx with | some (q, c) => if q = p then 4096 * s.cfg (oPT_SYNC p c) 40 12 else 0 | none => 0
  let put := fun (t : State) (tab : SyncTable) =>
    { t with syncTables := tabSet (fun _ => []) ctx.toNat tab t.syncTables }
  if at_ = 0 then put s []
  else if !s.inRanges p at_ 0x5400 then put (s.logChan (holeChan at_) 4 0 0 srcManagement.toNat 0) []
  else
    let (t, st, bs) := s.readPhys (some p) at_ 0x5400
    if st ≠ 0 then put t []
    else
      let es := ((List.range 0x1500).map (fun i => (4 * i, fieldLe bs (4 * i) 4))).filter (fun e => e.2 != 0)
      let u := (es.filter (fun e => syncReserved e.1 e.2)).foldl (fun u e =>
        u.logPart p { type := 0x09, reason := 0x10, ctx := ctx.toNat, d2 := e.2 }) t
      put u (es.map (fun e => (e.1, BitVec.ofNat 32 e.2)))

/-! ### Saving and restoring (R38, R75, R299) -/

/-- A core has stopped for a preemption with all its engines. -/
def Core.preempted (k : Core) : Bool :=
  decide (k.stop = some .preempt) && allUnits.all (fun u => (k.engOf u).stopped)

/-- The core with what belongs to the hardware and not to a context. -/
def Core.bare (k : Core) : Core := { tlb := k.tlb, corrected := k.corrected, haltReq := k.haltReq, lastTag := k.lastTag }

/-- Save every core of a partition into the save area, whose layout the specification does not give. -/
def State.saveContext (s : State) (p : PartId) (ctx : BitVec 8) : State :=
  let cores := s.coreList p
  let s1 := { s with saved := tabSet (fun _ => { cores := [] }) ctx.toNat { cores := cores.map s.core } s.saved }
  let s2 := (s1.writeFree (some p) (s.saveArea ctx) (s.saveLen p)).1
  let s3 := cores.foldl (fun t c => t.modCore c (fun k => { k.bare with stop := some .preempt })) s2
  s3.zeroObjects p ctx

/-- The save ends. -/
def State.saveDone (s : State) (p : PartId) (ctx : BitVec 8) : State :=
  (s.saveContext p ctx).modPart p (fun q => { q with
    running := none
    switch := q.switch.map (fun w => { w with phase := .restoring }) })

def execPreemptSaveDone (p : PartId) (s : State) : Res :=
  match (s.part p).running, (s.part p).switch with
  | some ctx, some w =>
    whenever (decide (w.phase = .stopping) && !(s.part p).halted && (s.coreList p).all (fun c => (s.core c).preempted)) s
      (s.settle (s.saveDone p ctx))
  | _, _ => .next s

/-- A core as its context left it: its instruction cache is invalid, its engines resume from their records (R28, R38). -/
def Core.restored (now saved : Core) (ctx : BitVec 8) : Core :=
  { saved with
    tlb := now.tlb, corrected := now.corrected, haltReq := now.haltReq, lastTag := now.lastTag
    icache := [], fills := [], badLines := [], fetchAt := none
    stop := none, stopReq := none, ctx := ctx }

/-- Restore a context: from its saved state, or cleared where it has not run since power-up or since an abort. -/
def State.restoreContext (s : State) (p : PartId) (ctx : BitVec 8) : State :=
  let cores := s.coreList p
  let old := (tabGet (fun _ => { cores := [] }) ctx.toNat s.saved).cores
  let again := (s.part p).everRun.contains ctx
  let s1 := cores.zipIdx.foldl (fun t x => t.modCore x.1 (fun k =>
    if again then k.restored (old.getD x.2 {}) ctx else { k.bare with ctx := ctx })) s
  { s1 with saved := tabSet (fun _ => { cores := [] }) ctx.toNat { cores := [] } s1.saved }

/-- The restore ends. -/
def State.ctxIn (s : State) (p : PartId) (ctx : BitVec 8) : State :=
  let s1 := ((s.readSyncTable p ctx).zeroObjects p ctx).restoreContext p ctx
  let s2 := s1.modPart p (fun q => { q with
    running := some ctx, switch := none
    everRun := if q.everRun.contains ctx then q.everRun else q.everRun ++ [ctx] })
  (s2.setFld (oWM_QUIET p.val) 16 0 0).incFld (oTMP p.val 5) 63 0 1

def execContextSwitchDone (p : PartId) (s : State) : Res :=
  match (s.part p).switch with
  | none => .next s
  | some w => whenever (decide (w.phase = .restoring)) s (s.settle (s.ctxIn p w.target))

/-! ### Partition aborts (R249, R306 to R308) -/

/-- The joints of a partition become FREE but for a commit that has gone past holding the accesses. -/
def State.abortJoints (s : State) (p : PartId) : State :=
  let js := ((s.part p).joints.filter (fun e => decide (e.2.st ≠ .free) && !e.2.asked)).map (fun e => (e.1, e.2.st))
  js.foldl (fun t x =>
    let u := t.modJoint p x.1 (fun j => { openTag := j.openTag, lastStatus := j.lastStatus })
    if x.2 = .aborted then u else u.incFld (oJT_COUNT p.val) 63 32 1) s

/-- Host carts that work for the partition stop; what arrives for them is discarded. -/
def State.stopHostCarts (s : State) (p : PartId) : State :=
  let mine := fun (h : HostCart) => match h.desc with | some (r, _) => decide (s.partOfRing r = some p) | none => false
  { s with hostCarts := s.hostCarts.filter (fun e => !mine e.2) }

/-- An abort of a partition is taken. -/
def State.beginAbort (s : State) (p : PartId) (src : AbortSource) : State :=
  let s1 := (s.setFld (oPT_ABORT p.val) 1 1 1).modPart p (fun q => { q with abort := some src, switch := none })
  (s1.abortJoints p).stopHostCarts p

/-- A request by a BAR0 write: none while an abort is in progress; during a rollback it waits for its end (R306, log entry 85). -/
def State.askAbort (s : State) (p : PartId) : State :=
  match (s.part p).abort with
  | some (.rollback _) => (s.setFld (oPT_ABORT p.val) 1 1 1).modPart p (fun q => { q with abortNext := true })
  | some _ => s
  | none => if (s.part p).closing then s else s.beginAbort p .register

def execPtAbortGo (fn : FnId) (p : PartId) (s : State) : Res :=
  bar0Write s fn (oPT_ABORT p.val) 1 (fun _ => s.askAbort p)

/-- An ABORT_PARTITION on a control ring; while an abort is in progress it waits for its end. -/
def execAbortPartition (ring : RingId) (seq : BitVec 32) (s : State) : Res :=
  onDesc s ring seq 0x10 (fun p _ =>
    if s.cfg (oRT_CTL ring) 1 1 = 0 then s.endDesc ring seq 0x0014
    else
      let t := s.running_ ring seq
      if (s.part p).abort.isSome || (s.part p).closing then t else t.beginAbort p (.descriptor ring seq))

/-- Every core of the partition has stopped, and every joint is FREE. -/
def State.abortReady (s : State) (p : PartId) : Bool :=
  (s.coreList p).all (fun c => (s.core c).aborted) && (s.part p).joints.all (fun e => decide (e.2.st = .free))

/-- A descriptor outlives an abort: it had completed, its record withheld in no open joint; it is the JOINT_COMMIT of a commit that
ended in the abort; it is an ABORT_PARTITION that has started, or a CANCEL on the control ring ahead of one (R307, R308). -/
def State.outlives (s : State) (p : PartId) (d : Desc) : Bool :=
  (decide (d.stage = .completed) && (!d.member || d.released)) ||
    (d.opc == 0x0C && decide (d.stage = .ended) && d.acted) ||
    (d.opc == 0x10 && decide (d.stage ≠ .fetched)) ||
    (d.opc == 0x0F && decide (d.stage ≠ .fetched) && s.cfg (oRT_CTL d.ring) 1 1 == 1 &&
      (s.descs p).any (fun x => x.opc == 0x10 && decide (x.stage ≠ .fetched) && decide (x.ring = d.ring)))

/-- Descriptors of a partition but those to keep are discarded, with what waits for them. -/
def State.discardBut (s : State) (p : PartId) (keep : Desc → Bool) : State :=
  let out := (s.descs p).filter (fun d => !keep d)
  let gone := fun (r : RingId) (q : BitVec 32) => out.any (fun d => d.named r q)
  let s1 := out.foldl (fun t d => (t.dropWaits d.ring d.seq).withdrawRemote d.ring d.seq) s
  let s2 := s1.modPart p (fun q => { q with descs := q.descs.filter keep })
  { s2 with
    hostLines := s2.hostLines.filter (fun l => match l.desc with | some (r, q) => !gone r q | none => true)
    ingressWaits := s2.ingressWaits.filter (fun w => !gone w.ring w.seq)
    loadQueue := s2.loadQueue.filter (fun w => decide (w.part ≠ p))
    launches := s2.launches.filter (fun l => decide (l.part ≠ p))
    hostReads := s2.hostReads.filter (fun r => match r.purpose with
      | .tail x => decide (s2.partOfRing x ≠ some p)
      | .slots x _ _ => decide (s2.partOfRing x ≠ some p)
      | .data x _ => decide (s2.partOfRing x ≠ some p)
      | .index x _ => decide (s2.partOfRing x ≠ some p)
      | .mapEntries x _ => decide (s2.partOfRing x ≠ some p)
      | .summary => true
      | .flushing _ => true
      | .firmware => true
      | .beatLine => true
      | .ownBeat => true) }

/-- Descriptors that have not completed are discarded. -/
def State.discardDescs (s : State) (p : PartId) : State := s.discardBut p (s.outlives p)

/-- A ring at the end of an abort: RETIRED takes FETCHED, and the status line is written; every ring but the control ring is
disabled. -/
def State.retireRing (s : State) (r : RingId) : State :=
  let s1 := s.modRing r (fun k => { k with
    fetching := false, arrived := [], owed := false, tail := s.fetched r, readySince := none, polls := [] })
  let t := (s1.setFld (oRT_STAT r) 63 32 (s.fetched r).toNat).statusLine r
  if s.cfg (oRT_CTL r) 1 1 = 1 then t else t.setBoth (oRT_CTL r) 0 0 0

/-- The cores of a stopped partition are cleared, and no context of it is saved or running. -/
def State.dropCores (s : State) (p : PartId) : State :=
  let s2 := (s.coreList p).foldl (fun t c => t.modCore c (fun k => { k.bare with haltReq := false })) s
  let saved := (s.contexts p).foldl (fun t c => tabSet (fun _ => { cores := [] }) c.toNat { cores := [] } t) s2.saved
  let s3 : State := { s2 with saved := saved }
  let s4 := s3.modPart p (fun q => { q with
    running := none, everRun := [], halted := false, jointWrites := [], shadowWait := none, snapshot := none })
  s4.setFld (oWM_QUIET p.val) 16 0 0

/-- The cores and the contexts of an aborted partition. -/
def State.dropContexts (s : State) (p : PartId) : State :=
  let s1 := match (s.part p).running with
    | some c => if !s.keeps c then s.zeroObjects p c else if s.ctxRuns p c then s.logResidue p c else s
    | none => s
  s1.dropCores p

/-- The single completion of an abort: the record of the descriptor that asked for it, or the event line. BUSY and COUNT follow once it
has been written (R307); an abort of a reset writes none. -/
def State.abortNotice (s : State) (p : PartId) (ctx : Nat) : State :=
  let t := s.modPart p (fun q => { q with closing := true })
  match (s.part p).abort with
  | some (.descriptor r q) => t.endDesc r q 0
  | some .register => t.eventLine p 0x0004 ctx 0 true
  | some .coreLost => t.eventLine p 0x0014 ctx 0 true
  | _ => t.closeAbort p

/-- The registers that a VF's BAR0 shows return to their reset values (R266). -/
def State.resetVf (s : State) (p : PartId) : State :=
  let rings := s.ringsOf p
  let mine := fun (o : Nat) => (decide (oPT p.val 0 ≤ o) && decide (o < oPT p.val 0x800)) ||
    (decide (oJT p.val 0 ≤ o) && decide (o < oJT p.val 0x1000)) || (decide (oWM p.val 0 ≤ o) && decide (o < oWM p.val 0x100)) ||
    (decide (oPFL_PTR p.val ≤ o) && decide (o < oPFL_PTR p.val + 0x4000)) ||
    (decide (oTMP p.val 0 ≤ o) && decide (o < oTMP p.val 32)) ||
    rings.any (fun r => decide (oRT r.val 0 ≤ o) && decide (o < oRT r.val 64))
  let keep := fun (m : Tab Word) => m.filter (fun e => !mine e.1)
  { s with
    regs := keep s.regs
    tables := keep s.tables
    flushed := keep s.flushed
    writers := s.writers.filter (fun e => !mine e.1)
    hostLines := s.hostLines.filter (fun l => decide (l.fn ≠ partFn p))
    flushWaits := s.flushWaits.filter (fun w => decide (w.fn ≠ partFn p))
    rings := s.rings.filter (fun e => !rings.any (fun r => r.val == e.1))
    flushCount := tabSet (fun _ => 0) (partFn p).val 0 s.flushCount
    faultLog := s.faultLog.filter (fun e => !(decide (256 * p.val ≤ e.1) && decide (e.1 < 256 * p.val + 256)))
    parts := tabMod (fun _ => {}) p.val (fun q => { q with joints := [], poolGone := [], poolJoined := [], closing := false }) s.parts
    pegs := s.pegs.filter (fun e => !s.pegWindow p e.1)
    tallies := s.tallies.filter (fun e => !s.tallyWindow p e.1)
    bells := s.bells.filter (fun e => !s.bellWindow p e.1) }

/-- The ring table and partition table entries of a partition return to their reset values (R265). -/
def State.resetEntries (s : State) (p : PartId) : State :=
  let rings := s.ringsOf p
  let mine := fun (o : Nat) => (decide (oPT p.val 0 ≤ o) && decide (o < oPT p.val 0x800)) ||
    rings.any (fun r => decide (oRT r.val 0 ≤ o) && decide (o < oRT r.val 64))
  let keep := fun (m : Tab Word) => m.filter (fun e => !mine e.1)
  { s with
    regs := keep s.regs
    tables := keep s.tables
    flushed := keep s.flushed
    writers := s.writers.filter (fun e => !mine e.1)
    rings := s.rings.filter (fun e => !rings.any (fun r => r.val == e.1)) }

/-- What a function reset or a host reset leaves of a partition: no descriptor outlives it; after a host reset nothing has
been written to the host (R265, R266). -/
def State.afterReset (s t : State) (p : PartId) : State :=
  if (s.part p).abort = some .reset then (t.resetVf p).modPart p (fun q => { q with descs := [] })
  else if (s.part p).abort = some .hostReset then
    { (t.resetEntries p).modPart p (fun q => { q with descs := [], closing := false }) with outbox := s.outbox, heldOut := s.heldOut }
  else t

/-- The stages of an abort finish. -/
def State.endAbort (s : State) (p : PartId) : State :=
  let ctx := s.ctxOf p
  let s1 := (s.dropContexts p).discardDescs p
  let s2 := (s1.ringsOf p).foldl State.retireRing s1
  let s3 := s2.abortNotice p ctx
  s.afterReset (s3.modPart p (fun q => { q with abort := none, abortNext := false })) p

/-! ### The partition table (R295, R303, R378, R379) -/

/-- Two ranges overlap. -/
def overlap (a n b m : Nat) : Bool := decide (0 < n) && decide (0 < m) && decide (a < b + m) && decide (b < a + n)

/-- Two partitions share something they may not. -/
def State.sharing (t : State) (p q : PartId) : Bool :=
  let win := fun (o : Nat → Nat) (h l h2 l2 : Nat) =>
    overlap (t.cfg (o p.val) h l) (t.cfg (o p.val) h2 l2) (t.cfg (o q.val) h l) (t.cfg (o q.val) h2 l2)
  let mem := fun (x : PartId) (i : Nat) => (t.cfg (oPT_MEM x.val i) 40 21, t.cfg (oPT_MEM x.val i) 60 41)
  (t.coreList p).any (fun c => (t.coreList q).contains c) || win oPT_RINGS 12 0 29 16 || win oPT_PEGS 15 0 32 16 ||
    win oPT_TALLIES 13 0 30 16 || win oPT_BELLS 11 0 28 16 || (t.contexts p).any (fun c => (t.contexts q).contains c) ||
    (List.range 8).any (fun st => t.cfg (oPT_WHEEL p.val st) 63 0 &&& t.cfg (oPT_WHEEL q.val st) 63 0 != 0) ||
    (List.range 16).any (fun i => (List.range 16).any (fun j =>
      overlap (mem p i).1 (mem p i).2 (mem q j).1 (mem q j).2))

/-- The granary mask of a partition in a quadrant. -/
def State.granMask (t : State) (p : PartId) (q : Nat) : Nat :=
  t.cfg (oPT_GRAN p.val q) (32 * (q % 2) + 31) (32 * (q % 2))

/-- A rule of R303 on class-0 partitions is broken: more than one context, part of a granary or a shared one, positions not
spread evenly. -/
def State.class0Broken (t : State) : Bool :=
  let c0 := allParts.filter t.isClass0
  c0.any (fun p => decide (1 < (t.contexts p).length) || (List.range 4).any (fun q =>
    let m := t.granMask p q
    m != 0 && (m != 2 ^ 32 - 1 || allParts.any (fun x => decide (x ≠ p) && t.granMask x q != 0)))) ||
  (List.range 8).any (fun st => (List.range 16).any (fun k =>
    decide (1 < ((List.range 4).filter (fun i => c0.any (fun p => bitOf (t.cfg (oPT_WHEEL p.val st) 63 0) (4 * k + i)))).length)))

/-- The sum of C0_PART over all partitions. -/
def State.c0Sum (t : State) : Nat := (allParts.map (fun p => t.cfg (oPT_VC p.val) 28 24)).foldl (· + ·) 0

/-- A field that may change while rings of the partition are enabled. -/
def freeField (off : Nat) (f : Field) : Bool := off == 0x28 || off == 0x30 || off == 0x38 || (off == 0 && f.lo == 8)

/-- The write is refused whole. -/
def State.ptRefused (s : State) (p : PartId) (off : Nat) (old new : Word) : Bool :=
  let o := oPT p.val off
  let t := (s.setReg o new).written
  let fs := fieldsAt o
  ((s.written.ringsOf p).any s.ringOn && fs.any (fun f => !freeField off f &&
      getBits old f.hi f.lo != getBits new f.hi f.lo)) ||
    allParts.any (fun q => decide (q ≠ p) && t.sharing p q) || t.class0Broken || decide (s.fld oFB_VC 4 0 < t.c0Sum)

/-- A QUANTUM below 100 is stored as 100 and logged. -/
def State.storeQuantum (s : State) (fn : FnId) (l : Nat) (p : PartId) (v : Word) : State :=
  if s.fld (oPT_CTL p.val) 23 8 < 100 then (s.setFld (oPT_CTL p.val) 23 8 100).refuseWrite fn l v else s

def execPartitionTableWrite (fn : FnId) (p : PartId) (off : BitVec 11) (acc : Acc) (v : Word) (s : State) : Res :=
  let o := oPT p.val off.toNat
  let fs := fieldsAt o
  bar0Write s fn o v (fun l =>
    if off.toNat = 0x7F8 then
      let t := s.noteWrite fn l fs acc v noField
      if (accWord acc v).getLsbD 0 then t.askAbort p else t
    else if fs.isEmpty then s.logAccess l fn 3 v
    else if (fnPart fn).isSome then
      (if accWord acc v &&& reservedBits fs ≠ 0 then s.logAccess l fn 0 v else s).refuseWrite fn l v
    else
      let new := mergeWrite fs (s.reg o) acc v noField
      if s.ptRefused p off.toNat (s.reg o) new then
        (if accWord acc v &&& reservedBits fs ≠ 0 then s.logAccess l fn 0 v else s).refuseWrite fn l v
      else
        let t := s.wordWrite fn l o fs acc v noField
        if off.toNat = 0 then t.storeQuantum fn l p v else t)

/-! ### Host-cart reservation and the power cap (R375, R377) -/

def execHcCtlWrite (fn : FnId) (acc : Acc) (v : Word) (s : State) : Res :=
  bar0Write s fn oHC_CTL v (fun l =>
    let bad := acc != .hi && (decide (4 < getBits v 2 0) || decide (0 < s.ringsWhere (fun r => s.fld (oRT_CTL r.val) 3 2 == 0)))
    s.wordWrite fn l oHC_CTL (fieldsAt oHC_CTL) acc v (fieldIf bad [0]))

def execPwrCapWrite (fn : FnId) (acc : Acc) (v : Word) (s : State) : Res :=
  bar0Write s fn oPWR_CAP v (fun l =>
    let low := acc != .hi && decide (getBits v 11 0 < 1200)
    let t := s.wordWrite fn l oPWR_CAP (fieldsAt oPWR_CAP) acc v (fieldIf low [0])
    if 2500 < t.fld oPWR_CAP 11 0 then t.setFld oPWR_CAP 11 0 2500 else t)

end Sys2Proof.Machine
end

