-- ==== Sys2Proof/Machine/HostLink.lean ====
section
/-! DEFINITION. The host link: BAR2 and BAR4, FLUSH reads, answers to host reads, link loss, function level resets,
configuration requests (R256 to R266, R364). -/

namespace Sys2Proof.Machine

/-! ### The device-memory window (R257) -/

/-- The physical address of a BAR2 offset. -/
def State.bar2Addr (s : State) (off : Nat) : Nat := 2 ^ 36 * s.fld oBAR2_MAP 40 36 + off

/-- An access lies in the window. -/
def State.inBar2 (s : State) (off len : Nat) : Bool := decide (off + len ≤ 2 ^ 30 * s.bar2Gib)

/-- The lines of an access and the data for each. -/
def slices (a : Nat) (data : List Byte) (len : Nat) : List (Nat × List Byte × Nat) :=
  (linePieces a len).map (fun x => (x.1, (data.drop (x.1 - a)).take x.2, x.2))

def execBar2Read (off : BitVec 39) (len : Nat) (s : State) : Res :=
  whenever (s.power.configReady && s.inBar2 off.toNat len) s
    (if !s.ready then s.ignored.send (.pcie 0 .completerAbort [])
     else s.serveAll (.bar2 0) .read (srcBar2 0) 0 none none (slices (s.bar2Addr off.toNat) [] len))

def execBar2Write (off : BitVec 39) (data : List Byte) (s : State) : Res :=
  whenever (s.power.configReady && s.inBar2 off.toNat data.length) s
    (if !s.ready then s.ignored
     else s.serveAll (.bar2 0) .write (srcBar2 0) 0 none none (slices (s.bar2Addr off.toNat) data data.length))

/-- A BASE that a window of this size may not have. -/
def badBase (gib base : Nat) : Bool := gib != 64 && (base % (gib / 64) != 0 || decide (512 < base * 64 + gib))

def execBar2MapWrite (fn : FnId) (acc : Acc) (v : Word) (s : State) : Res :=
  bar0Write s fn oBAR2_MAP v (fun l =>
    let base := getBits (accWord acc v) 40 36
    s.wordWrite fn l oBAR2_MAP (fieldsAt oBAR2_MAP) acc v (fieldIf (badBase s.bar2Gib base) [36]))

def execBar2Resize (code : Fin 4) (s : State) : Res :=
  let n := 64 * 2 ^ code.val
  whenever s.power.configReady s (if n = s.bar2Gib then s else { s.setFld oBAR2_MAP 40 36 0 with bar2Gib := n })

/-! ### The legacy ingress window (R262, R263) -/

/-- An INGRESS entry of the module error log. -/
def State.logIngress (s : State) (off : Nat) : State := s.logModule { type := 0x14, d1 := off }

/-- A write that is not performed because EN is 0, or before READY. -/
def State.dropIngress (s : State) (off : Nat) : State :=
  let t := s.incFld oING_STAT 31 0 1
  if s.dropLogged then t else { t.logIngress off with dropLogged := true }

/-- A write is received: it goes to memory; fences whose marker it sets cover every write received up to it. -/
def State.takeIngress (s : State) (off : Nat) (data : List Byte) : State :=
  let t := s.serveAll .ingress .write (srcBar2 0) 0 none none (slices (s.ingAddr off) data data.length)
  let u : State := if data.isEmpty then t else { t with ingress := t.ingress ++ [{ req := s.nextId, off := off, data := data }] }
  { u with
    ingressWaits := u.ingressWaits.map (fun w => match w.marker with
      | some (m, v) => if marks off data m v then { w with marker := none, covered := u.ingress.map Ingress.req } else w
      | none => w) }

def execBar4Write (off : BitVec 32) (data : List Byte) (s : State) : Res :=
  whenever (s.power.configReady && decide (off.toNat + data.length ≤ 2 ^ 32)) s
    (if !s.ready || !s.bit oING_CTL 0 then s.dropIngress off.toNat else s.takeIngress off.toNat data)

def execBar4Read (off : BitVec 32) (_len : Nat) (s : State) : Res :=
  whenever s.power.configReady s ((s.logIngress off.toNat).send (.pcie 0 .unsupported []))

/-! ### FLUSH (R256, R259, R260, R273) -/

/-- BAR2 writes of a function that have not been acknowledged or dropped. -/
def State.bar2Writes (s : State) (fn : FnId) : List Nat :=
  (s.serving.filter (fun v => decide (v.who = .bar2 fn) && decide (v.kind = .write))).flatMap Serving.ids

def execFlushRead (fn : FnId) (s : State) : Res :=
  let mine := fun (e : Nat × Nat) => e.2 == fn.val + 1
  whenever s.power.configReady s
    { s with
      flushWaits := s.flushWaits ++
        [{ fn := fn, writes := s.bar2Writes fn, words := (s.writers.filter mine).map (fun e => (e.1, s.reg e.1)) }]
      writers := s.writers.filter (fun e => !mine e) }

/-- A FLUSH read completes: the table words it covers wait for the next poll. -/
def State.endFlush (s : State) (w : FlushWait) : State :=
  let n := tabGet (fun _ => 0) w.fn.val s.flushCount
  ({ s with
    flushWaits := s.flushWaits.erase w
    flushed := w.words.foldl (fun m x => tabSet regReset x.1 x.2 m) s.flushed
    dropLogged := false } : State).send (.pcie w.fn .success (natLe 8 n.toNat))

def execFlushReadComplete (fn : FnId) (s : State) : Res :=
  match s.flushWaits.find? (fun w => decide (w.fn = fn)) with
  | none => .next s
  | some w => whenever w.writes.isEmpty s (s.endFlush w)

/-! ### Answers to host reads (R264) -/

/-- A HOST_LINK entry of the module error log. -/
def State.logHost (s : State) (r : HostRead) (status : Nat) : State :=
  s.logModule { type := 0x11, status := status, d1 := status, d2 := r.addr }

/-- The slots of a fetch. -/
def slotsOf (n : Nat) (bs : List Byte) : List Slot := (List.range n).map (fun i => sliceBytes bs (64 * i) 64)

/-- A read of the partner's beat line: whether its counter has moved (R318, R319). -/
def State.gotBeat (s : State) (n : Word) : State :=
  { s with twin := { s.twin with
      partnerBeat := n
      still := if n = s.twin.partnerBeat then s.twin.still + 1 else 0 } }

/-- A read returns with its bytes. -/
def State.hostGood (s : State) (r : HostRead) (bs : List Byte) : State :=
  let t : State := { s with hostReads := s.hostReads.erase r }
  match r.purpose with
  | .summary => t.gotSummary r.poll (sliceBytes bs 0 1024)
  | .tail q => t.takeTail q r.poll (BitVec.ofNat 32 (fieldLe bs 0 4))
  | .slots q first n => t.gotSlots q first (slotsOf n bs)
  | .data q seq => match s.hcOf q seq with
    | some n => t.hcArrive n r.id 0 bs
    | none => t
  | .index q seq => match s.hcOf q seq, s.descOf q seq with
    | some n, some (_, d) => t.hcIndexed n d 0 bs
    | _, _ => t
  | .mapEntries q seq => t.mapArrived q seq bs
  | .flushing fn => s.flushed_ fn
  | .firmware => s
  | .beatLine => t.gotBeat (BitVec.ofNat 64 (fieldLe bs 0 8))
  | .ownBeat => t

/-- A read fails with a status: polls and fetches are made again, a flushing read that any completion ends is over. -/
def State.hostBad (s : State) (r : HostRead) (status : Nat) : State :=
  let t := ({ s with hostReads := s.hostReads.erase r } : State).logHost r status
  match r.purpose with
  | .summary => t
  | .tail _ => t
  | .slots q _ _ => t.lostSlots q
  | .data q seq => match s.hcOf q seq with
    | some n => t.hcArrive n r.id status []
    | none => t
  | .index q seq => match s.hcOf q seq, s.descOf q seq with
    | some n, some (_, d) => t.hcIndexed n d status []
    | _, _ => t
  | .mapEntries q seq => t.endDesc q seq status
  | .flushing fn => if status = 0x0403 then t.pumpFlush fn else (s.logHost r status).flushed_ fn
  | .firmware => s.logHost r status
  | .beatLine => t
  | .ownBeat => t

def execHostReadCompletion (id : Nat) (a : HostAnswer) (s : State) : Res :=
  match s.hostReads.find? (fun r => r.id == id && r.issued) with
  | none => .next s
  | some r =>
    whenever (!s.held) s
      (match a with
       | .good bs => s.hostGood r bs
       | .ur => s.hostBad r (hostStatus a)
       | .poison => s.hostBad r (hostStatus a)).issueReads

def execHostReadTimeout (id : Nat) (s : State) : Res :=
  match s.hostReads.find? (fun r => r.id == id && r.issued) with
  | none => .next s
  | some r => whenever true s (s.hostBad r 0x0403).issueReads

/-! ### Link loss (R265) -/

def State.linkSpeed (s : State) : Nat := s.fld oHL_STAT 2 0

def execLinkDown (s : State) : Res :=
  whenever (s.linkSpeed != 0) s ((((s.setFld oHL_STAT 2 0 0).setFld oHL_STAT 7 3 0).setFld oHL_STAT 8 8 1).incFld oHL_DOWN 31 0 1)

def execLinkDown100us (s : State) : Res := whenever (s.held && s.twState == 2) s s.moduleFail

/-- The partition is aborted without a completion, for a reset. -/
def State.abortFor (s : State) (src : AbortSource) (p : PartId) : State :=
  if (s.part p).abort.isSome then s.modPart p (fun q => { q with abort := some src })
  else s.beginAbort p src

/-- A partition whose abort has nothing to wait for ends it at once; in FAILED every engine has stopped. -/
def State.abortNow (s : State) (p : PartId) : State := if s.failed || s.abortReady p then s.endAbort p else s

/-- Ring table words of rings that no partition owns. -/
def State.loneRing (s : State) (o : Nat) : Bool :=
  decide (0x100000 ≤ o) && decide (o < 0x180000) && (s.partOfRing ⟨(o - 0x100000) / 64 % 8192, by omega⟩).isNone

/-- All host-facing state is reset; every context of every partition is dropped. -/
def State.hostReset (s : State) : State :=
  let keep := fun (m : Tab Word) => m.filter (fun e => !s.loneRing e.1 && e.1 != oHL_CTL && e.1 != oBAR2_MAP)
  let t : State :=
    { s with
      regs := keep s.regs
      tables := keep s.tables
      flushed := keep s.flushed
      writers := s.writers.filter (fun e => !s.loneRing e.1 && e.1 != oHL_CTL)
      bar2Gib := 64
      summary := []
      flushWaits := []
      hostLines := []
      heldOut := []
      hostReads := s.hostReads.filter (fun r =>
        decide (r.purpose = .firmware) || decide (r.purpose = .beatLine) || decide (r.purpose = .ownBeat)) }
  allParts.foldl (fun u p => (u.abortFor .hostReset p).abortNow p) (t.setFld oHL_STAT 9 9 1)

/-- The reset is made in FAILED too, which a module with an active twin has entered at 100 µs. -/
def execLinkDown2ms (s : State) : Res := always (s.power.pwrgd && s.held) s s.hostReset

def execLinkUp (speed : BitVec 3) (width : BitVec 5) (downUs : BitVec 32) (s : State) : Res :=
  let longest := if s.held then max (s.fld oHL_DOWN 63 32) downUs.toNat else s.fld oHL_DOWN 63 32
  let t := ((s.setFld oHL_STAT 2 0 speed.toNat).setFld oHL_STAT 7 3 width.toNat).setFld oHL_DOWN 63 32 longest
  let u : State := { t.setFld oHL_STAT 8 8 0 with outbox := t.outbox ++ t.heldOut, heldOut := [] }
  whenever (s.power.ltssm && s.linkSpeed == 0 && speed != 0) s ((List.range 48).foldl State.hcPump u.resumeLines)

/-! ### Function level resets (R266), configuration requests (R364) -/

def execFlrVf (vf : Fin 32) (s : State) : Res := whenever s.power.configReady s (s.abortFor .reset vf)

def execFlrPf0 (s : State) : Res := whenever s.power.configReady s s.hostReset

/-- Bus Master Enable of PF0: bit 2 of the command register, in the dword at 0x004 (log entry 20). -/
def State.writeConfig (s : State) (fn : FnId) (reg : BitVec 12) (v : BitVec 32) : State :=
  if fn = 0 ∧ reg = 0x004 then { s with boot := { s.boot with busMaster := v.getLsbD 2 } } else s

/-- Configuration space holds what the PCIe specification gives it: what a read returns is free (log entries 77 and 98). -/
def execConfigRequest (fn : FnId) (reg : BitVec 12) (write : Option (BitVec 32)) (s : State) : Res :=
  let f := s.fresh
  whenever true s
    (if !s.power.configReady then s.send (.pcie fn .retry [])
     else match write with
       | some v => (s.writeConfig fn reg v).send (.pcie fn .success [])
       | none => f.2.send (.pcie fn .success (natLe 4 f.1.toNat)))

end Sys2Proof.Machine
end

