-- ==== Sys2Proof/Machine/Watchman.lean ====
section
/-! DEFINITION. The watchman and writes that set synchronisation objects by hand (R41, R228 to R232). -/

namespace Sys2Proof.Machine

/-! ### What each unit does (R41, R228) -/

/-- A unit as the watchman sees it. -/
inductive UnitState where
  | idle
  | running
  /-- Wait code, unit code of a full queue, physical ID, object ID, need, current, tag (R230). -/
  | blocked (wait full phys id need current tag : Nat)
  deriving DecidableEq, Repr

/-- The take of the head command of a queue whose engine waits for it: wait code, code of the full queue. -/
def State.takeState (s : State) (c : CoreId) (u : EngineUnit) (wait full tag : Nat) : UnitState :=
  match ((s.core c).queueOf u).head? with
  | some x =>
    match s.corePeg c x.h.takePeg with
    | some n => .blocked wait full n x.h.takePeg.toNat 1 (s.peg n).count.toNat (if wait = 5 then tag else x.h.tag.toNat)
    | none => .running
  | none => .running

/-- A kingpost that waits for a synchronisation object. -/
def State.waitState (s : State) (c : CoreId) (w : SyncWait) : UnitState :=
  let n := w.phys.toNat
  let b := fun (code current : Nat) => UnitState.blocked code 0 n w.id.toNat w.need.toNat current (s.launchTag c)
  if w.satisfied || w.txn.isSome then .running
  else match w.kind with
    | .pegTake => b 1 (s.peg n).count.toNat
    | .tallyWait => if (s.tally n).peerEn then .running else b 2 (s.tally n).value.toNat
    | .tallyRoom => if (s.tally n).peerEn then .running else b 3 (s.tallyDiff n).toNat
    | .bellArrive => b 4 (s.bell n).arrived.toNat
    | .pegRead => .running
    | .tallyRead => .running

/-- A kingpost. -/
def State.kpState (s : State) (c : CoreId) : UnitState :=
  let k := s.core c
  if k.launch.isNone || decide (k.run ≠ .running) then .idle
  else match k.wait, k.stalled with
    | some w, _ => s.waitState c w
    | none, some x =>
      let u := cmdUnit x.opc.toNat x.h
      if (k.engOf u).phase = .taking then s.takeState c u 5 (unitCode u) (s.launchTag c) else .running
    | none, none => .running

/-- An engine. -/
def State.engState (s : State) (c : CoreId) (u : EngineUnit) : UnitState :=
  let k := s.core c
  let e := k.engOf u
  if e.phase = .taking then s.takeState c u 1 0 0
  else if e.phase = .idle ∧ e.cmd.isNone ∧ (k.queueOf u).isEmpty then .idle
  else .running

/-- The units of a core in the order of R220, by their codes. -/
def State.unitStates (s : State) (c : CoreId) : List (Nat × UnitState) :=
  (0, s.kpState c) :: allUnits.map (fun u => (unitCode u, s.engState c u))

/-- Every unit of a partition. -/
def State.partStates (s : State) (p : PartId) : List (CoreId × Nat × UnitState) :=
  ((List.finRange 128).filter (fun c => (s.coreList p).contains c)).flatMap (fun c =>
    (s.unitStates c).map (fun x => (c, x)))

def UnitState.isBlocked : UnitState → Bool
  | .blocked _ _ _ _ _ _ _ => true
  | .idle => false
  | .running => false

/-- The conditions under which WM_QUIET counts. -/
def State.quiet (s : State) (p : PartId) : Bool :=
  let q := s.part p
  let us := s.partStates p
  q.running.isSome && !q.halted && !q.objectsChanged && us.any (fun x => x.2.2.isBlocked) &&
    us.all (fun x => decide (x.2.2 ≠ .running))

/-- One fabric cycle of a partition's watchman. -/
def State.watch (s : State) (p : PartId) : State :=
  let n := s.fld (oWM_QUIET p.val) 16 0
  let t := s.setFld (oWM_QUIET p.val) 16 0 (if s.quiet p then min (n + 1) 65536 else 0)
  t.modPart p (fun q => { q with objectsChanged := false })

/-! ### Firing (R229, R230) -/

/-- The base of the snapshot area. -/
def State.snapBase (s : State) (p : PartId) : Nat := 2 ^ 15 * s.fld (oWM_SNAP p.val) 40 15

/-- The entry of a blocked unit. -/
def snapEntry (x : CoreId × Nat × UnitState) : List (List Byte) :=
  match x.2.2 with
  | .blocked wait full phys id need current tag =>
    [natLe 1 x.1.val ++ natLe 1 x.2.1 ++ natLe 1 wait ++ natLe 1 full ++ natLe 2 phys ++ natLe 2 id ++ natLe 8 need ++
      natLe 8 current ++ natLe 2 tag ++ natLe 6 0]
  | .idle => []
  | .running => []

/-- The header. -/
def State.snapHeader (s : State) (p : PartId) (n : Nat) : List Byte :=
  natLe 6 s.stamp ++ natLe 1 p.val ++ natLe 1 (s.ctxOf p) ++ natLe 2 n ++ natLe 2 0 ++
    natLe 4 (s.fld (oWM_QUIET p.val) 16 0) ++ natLe 48 0

/-- The header and the entries of a snapshot taken now. -/
def State.snapshot (s : State) (p : PartId) : List (List Byte) :=
  let es := (s.partStates p).flatMap snapEntry
  s.snapHeader p es.length :: es

/-- WM_QUIET has reached 65,536 with EN set: the snapshot is taken and the partition enters a debug halt. -/
def execWatchmanFire (q : PartId) (s : State) : Res :=
  whenever (s.fld (oWM_QUIET q.val) 16 0 == 65536 && s.bit (oWM_CTL q.val) 0 && (s.part q).running.isSome &&
      !(s.part q).halted) s
    ((s.modPart q (fun k => { k with snapshot := some (s.snapshot q) })).haltPart q)

/-- The snapshot is written where its area allows it; WM_STAT and WM_TIME record it; the firing is logged and raised. -/
def State.writeSnapshot (s : State) (p : PartId) (hdr : List Byte) (es : List (List Byte)) : State :=
  let base := s.snapBase p
  let ok := s.inRanges p base 0x8000
  let s1 := if base ≠ 0 ∧ ok then (s.writePhys none base (hdr ++ es.flatten)).1 else s
  let ctx := fieldLe hdr 7 1
  let s2 := (((s1.setFld (oWM_STAT p.val) 15 8 ctx).setFld (oWM_STAT p.val) 25 16 es.length).setFld (oWM_STAT p.val) 0 0
    1).setFld (oWM_TIME p.val) 47 0 (fieldLe hdr 0 6)
  let s3 := s2.logPart p
    { type := 0x05, ctx := ctx, status := if base ≠ 0 ∧ !ok then 0x0102 else 0, d1 := es.length, d2 := base }
  (s3.modPart p (fun k => { k with snapshot := none })).raise p 0x0001 ctx 0

def execWatchmanSnapshot (q : PartId) (s : State) : Res :=
  match (s.part q).snapshot with
  | some (hdr :: es) => whenever true s (s.settle (s.writeSnapshot q hdr es))
  | _ => .next s

/-- A write of EN from 0 to 1 returns WM_QUIET to 0. -/
def execWmCtlWrite (fn : FnId) (q : PartId) (acc : Acc) (v : Word) (s : State) : Res :=
  bar0Write s fn (oWM_CTL q.val) v (fun l =>
    let t := s.wordWrite fn l (oWM_CTL q.val) (fieldsAt (oWM_CTL q.val)) acc v noField
    if !s.bit (oWM_CTL q.val) 0 && t.bit (oWM_CTL q.val) 0 then t.setFld (oWM_QUIET q.val) 16 0 0 else t)

/-! ### Objects set by hand (R231, R232) -/

/-- The partition accepts writes of its objects: it is debug-halted, or SYNC_FORCE is set. -/
def State.forceOk (s : State) (owner : Option PartId) : Bool :=
  match owner with
  | some p => (s.part p).halted || s.bit (oWM_CTL p.val) 1
  | none => false

/-- A SYNC_FORCE entry. -/
def State.logForce (s : State) (owner : Option PartId) (d1 d2 : Nat) : State :=
  match owner with
  | some p => s.logPart p { type := 0x06, d1 := d1, d2 := d2 }
  | none => s

/-- The registers as words, WO fields and counts of waiters left out. -/
def Peg.word (g : Peg) : Word := BitVec.ofNat 64 (g.count.toNat + 2 ^ 16 * boolNat g.ovf + 2 ^ 17 * boolNat g.udf)
def Bell.word (b : Bell) : Word := BitVec.ofNat 64 (b.count.toNat + 2 ^ 13 * b.arrived.toNat + 2 ^ 26 * b.gen.toNat)

/-- A write applies the object's counts: SET is written 1. -/
def setsObject (a : Acc) (v : Word) : Bool := (accWord a v).getLsbD 62

def execPegWrite (fn : FnId) (p : BitVec 16) (acc : Acc) (v : Word) (s : State) : Res :=
  let o := oPEG p.toNat
  let n := p.toNat
  bar0Write s fn o v (fun l =>
    let g := s.peg n
    let owner := s.pegOwner n
    let ok := s.forceOk owner
    let set := setsObject acc v
    let w := mergeWrite (fieldsAt o) g.word acc v (fieldIf (!set || !ok) [0])
    let t := (s.noteWrite fn l (fieldsAt o) acc v (fieldIf (set && !ok) [0, 62])).setPeg n
      { g with count := w.setWidth 16, ovf := w.getLsbD 16, udf := w.getLsbD 17 }
    if set && ok then
      ((t.logForce owner n (g.count.toNat + 2 ^ 32 * getBits w 15 0)).servePeg n).touched owner
    else t)

def execTallyValWrite (fn : FnId) (t : BitVec 14) (acc : Acc) (v : Word) (s : State) : Res :=
  let o := oTALLY_VAL t.toNat
  let n := t.toNat
  bar0Write s fn o v (fun l =>
    let owner := s.tallyOwner n
    if !s.forceOk owner then s.refuseWrite fn l v
    else
      let w := mergeWrite (fieldsAt o) (s.tally n).value acc v noField
      ((((s.setTally n { s.tally n with value := w }).logForce owner (n + 2 ^ 62) w.toNat)).serveTallies).touched owner)

/-- Waiters for another generation are released; so is a bell whose arrivals reach its count. -/
def State.reexamineBell (s : State) (n : Nat) (old : Bell) : State :=
  let b := s.bell n
  let t := if b.gen = old.gen then s else (s.setBell n { b with waiters := [] }).releaseAll b.waiters 0
  if b.count ≠ 0 ∧ b.count.toNat ≤ b.arrived.toNat then t.bellRelease n else t

def execBellWrite (fn : FnId) (b : BitVec 12) (acc : Acc) (v : Word) (s : State) : Res :=
  let o := oBELL b.toNat
  let n := b.toNat
  bar0Write s fn o v (fun l =>
    let g := s.bell n
    let owner := s.bellOwner n
    let ok := s.forceOk owner
    let set := setsObject acc v
    let t := s.noteWrite fn l (fieldsAt o) acc v (fieldIf (set && !ok) [0, 13, 26, 62])
    if set && ok then
      let w := mergeWrite (fieldsAt o) g.word acc v noField
      let d1 := n + g.gen.toNat * 2 ^ 16 + 2 ^ 32 * getBits w 41 26 + 2 * 2 ^ 62
      let d2 := g.count.toNat + g.arrived.toNat * 2 ^ 13 + 2 ^ 32 * getBits w 12 0 + 2 ^ 45 * getBits w 25 13
      let u := t.setBell n { g with
        count := BitVec.ofNat 13 (getBits w 12 0)
        arrived := BitVec.ofNat 13 (getBits w 25 13)
        gen := BitVec.ofNat 16 (getBits w 41 26) }
      ((u.logForce owner d1 d2).reexamineBell n g).touched owner
    else t)

end Sys2Proof.Machine
end

