-- ==== Sys2Proof/Machine/Belora.lean ====
section
/-! DEFINITION. Belora: frames, replay, lanes, start-up hold, requests of peers and their responses, errors, aliases (R223,
R332 to R352). -/

namespace Sys2Proof.Machine

/-! ### Frames (R333, R334) -/

/-- Frames up to `ack` have been received in order by the other end. -/
def Link.acked (k : Link) (ack : BitVec 12) : Link :=
  if k.unacked.any (fun f => decide (f.1 = ack)) then
    let rest := (k.unacked.dropWhile (fun f => decide (f.1 ≠ ack))).drop 1
    { k with
      unacked := rest
      resends := 0
      sent := k.sent.filter (fun t => rest.any (fun f => decide (f.1 = t.1))) }
  else k

/-- Send every unacknowledged frame again. -/
def State.resend (s : State) (l : LinkId) : State :=
  ((s.link l).unacked.foldl (fun t f => t.send (.frame l f.2)) s).incFld (oBL_REPLAY l) 31 0 1

/-- Send an idle frame, if one may be sent. -/
def State.idleFrame (s : State) (l : LinkId) (nak : Bool) : State :=
  if 512 ≤ (s.link l).unacked.length then s else s.sendFrame l nak []

/-- One unit of a payload joins the packet in progress; padding is skipped where a packet would begin. -/
def takeUnit (acc : List Byte × List (List Byte)) (u : List Byte) : List Byte × List (List Byte) :=
  if acc.1.isEmpty && u.headD 0 == 0 then acc
  else
    let p := acc.1 ++ u
    if 16 * (unitsOf p).getD 1 ≤ p.length then ([], acc.2 ++ [p]) else (p, acc.2)

/-- A BELORA entry of the module error log. -/
def State.logBelora (s : State) (l : LinkId) (p : List Byte) : State :=
  s.logModule { type := 0x12, d1 := l.val + 256 * pType p, d2 := pSrc p + 65536 * pDst p }

/-- The flow of a packet (R336, R344). -/
def flowOf (p : List Byte) : BitVec 12 × BitVec 3 × Bool := (BitVec.ofNat 12 (pSrc p), BitVec.ofNat 3 (pVc p), pRsp p)

/-- A refused packet is answered with NOTRDY, and its flow is marked (R336). -/
def State.refusePkt (s : State) (l : LinkId) (p : List Byte) : State :=
  let m := s.fabric.marked
  let t : State := { s with fabric := { s.fabric with marked := if m.contains (flowOf p) then m else m ++ [flowOf p] } }
  (t.incFld oFB_STAT 31 0 1).reply l p 0x8E 0 1 []

/-- A packet that is not for this module goes on its way (R342). -/
def State.forward (s : State) (l : LinkId) (p : List Byte) : State :=
  if pHops p = 0 then (if pRsp p then s.logBelora l p else s.respondErr p 0x0106)
  else s.route (some l) none (reHead p (pD p) (pHops p - 1) (pRetry p))

/-- Packets of the twin protocol that carry no row of their own packets: what they say arrives with their commands. -/
def isTwinType (t : Nat) : Bool := decide (0xC0 ≤ t) && decide (t ≤ 0xC7)

/-- A complete packet has been received. -/
def State.gotPacket (l : LinkId) (s : State) (p : List Byte) : State :=
  if !isTwinType (pType p) then s.modLink l (fun k => { k with packets := k.packets ++ [p] })
  else
    let t := s.freeBuffer l p
    if !s.fabricOn then t.refusePkt l p
    else if s.answersTo (pDst p) then t
    else if 16 ≤ l.val then t.logBelora l p
    else t.forward l p

/-- The header of a good frame: acknowledgement, credits, lanes, replay on NAK. -/
def State.frameHead (s : State) (l : LinkId) (f : List Byte) : State :=
  let b := fieldLe f 4 1 % 32
  let lanes := fieldLe f 5 1
  let s1 := s.modLink l (fun k => { k.acked (BitVec.ofNat 12 (fieldLe f 2 2)) with
    used := tabMod (fun _ => 0) b (fun n => n - fieldLe f 6 2) k.used
    peerLanes := BitVec.ofNat 8 lanes })
  let s2 := s1.setFld (oBL_STAT l) 9 2 lanes
  if bitOf (fieldLe f 2 2) 12 then s2.resend l else s2

/-- The payload of the frame that is next in order. -/
def State.framePayload (s : State) (l : LinkId) (f : List Byte) : State :=
  let units := (List.range 15).map (fun i => sliceBytes f (8 + 16 * i) 16)
  let r := units.foldl takeUnit ((s.link l).partial_, [])
  r.2.foldl (State.gotPacket l) (s.modLink l (fun k => { k with rxSeq := k.rxSeq + 1, partial_ := r.1 }))

/-- A frame arrives. -/
def State.gotFrame (s : State) (l : LinkId) (f : List Byte) : State :=
  if crc32c (f.take 248) ≠ fieldLe f 248 4 then (s.incFld (oBL_REPLAY l) 63 32 1).idleFrame l true
  else
    let s1 := s.frameHead l f
    if BitVec.ofNat 12 (fieldLe f 0 2) ≠ (s.link l).rxSeq then s1.idleFrame l true
    else
      let s2 := s1.framePayload l f
      let s3 := s2.pumpLink l (s2.link l).tx.length
      if s3.outbox.length = s1.outbox.length then s3.idleFrame l false else s3

def execFrameReceive (link : LinkId) (frame : List Byte) (s : State) : Res :=
  checked (.frameReceive link frame) "FRAME_RECEIVE" (whenever (s.linkLive link) s (s.gotFrame link frame))

/-- A frame sent 8 times without an acknowledgement makes the link retrain. -/
def execReplayTimeout (link : LinkId) (s : State) : Res :=
  let k := s.link link
  whenever (s.linkLive link && !k.unacked.isEmpty) s
    (if 7 ≤ k.resends then (s.modLink link (fun k => { k with resends := 0 })).setFld (oBL_STAT link) 1 0 1
     else (s.modLink link (fun k => { k with resends := k.resends + 1 })).resend link)

/-! ### Lanes (R335, R344) -/

def State.rxLanes (s : State) (l : LinkId) : Nat := s.fld (oBL_STAT l) 17 10

/-- Another live twin link, for what a lost one had not delivered. -/
def State.resendTwin (s : State) (t : TxPkt) : State :=
  match s.twinLinks with
  | [] => s
  | l :: _ => s.transmit l t

/-- A link goes DOWN: its unacknowledged and waiting packets take newly selected links. -/
def State.downLink (s : State) (l : LinkId) : State :=
  let k := s.link l
  let again := k.sent.map Prod.snd ++ k.tx
  let s1 := (s.setLink l { packets := k.packets }).setFld (oBL_STAT l) 17 0 0
  let s2 := if 16 ≤ l.val then s1.setFld oTW_STAT (l.val - 12) (l.val - 12) 0 else s1
  again.foldl (fun t x => if 16 ≤ l.val then t.resendTwin x else t.route x.input x.part x.bytes) s2

def execLaneRemove (link : LinkId) (lane : Fin 8) (s : State) : Res :=
  let r := s.rxLanes link
  whenever (s.linkLive link && bitOf r lane.val) s
    (let t := (s.setFld (oBL_STAT link) 17 10 (r - 2 ^ lane.val)).incFld (oBL_LANE link) 31 0 1
     if r = 2 ^ lane.val then t.downLink link else t.idleFrame link false)

def execLaneRejoin (link : LinkId) (lane : Fin 8) (s : State) : Res :=
  let r := s.rxLanes link
  whenever (s.linkLive link && !bitOf r lane.val) s
    (((s.setFld (oBL_STAT link) 17 10 (r + 2 ^ lane.val)).incFld (oBL_LANE link) 63 32 1).idleFrame link false)

def execLinkLanesLost (link : LinkId) (s : State) : Res := whenever (s.fld (oBL_STAT link) 1 0 != 0) s (s.downLink link)

/-- Packets held for a port without a live link are routed again. -/
def State.linkUpDone (s : State) (l : LinkId) : State :=
  let st := if s.fabricOn then 3 else 2
  let fresh := s.fld (oBL_STAT l) 17 0 / 4 == 0
  let k := s.link l
  let s1 := ((s.setFld (oBL_STAT l) 1 0 st).setFld (oBL_STAT l) 9 2 0xFF).setFld (oBL_STAT l) 17 10 0xFF
  let s2 := if fresh then s1.setLink l { packets := k.packets, tx := k.tx } else s1.resend l
  (s2.pumpLink l k.tx.length).routeHeld

def execLinkTrainingDone (link : LinkId) (s : State) : Res :=
  whenever (s.power.locked && s.bit (oBL_CTL link) 0 && s.fld (oBL_STAT link) 1 0 < 2) s (s.linkUpDone link)

/-! ### FB_CTL (R336, R352) -/

/-- EN may not go to 1: the address is not assigned, or the dimensions are wider than an address. -/
def State.fabRefused (s : State) : Bool :=
  s.fab == 0xFFF || decide (12 < s.dimW 0 + s.dimW 1 + s.dimW 2 + s.dimW 3)

/-- Links go from HOLD to UP or back. -/
def State.setHold (s : State) (on : Bool) : State :=
  (List.finRange 18).foldl (fun t (l : LinkId) =>
    if t.fld (oBL_STAT l) 1 0 = (if on then 2 else 3) then t.setFld (oBL_STAT l) 1 0 (if on then 3 else 2) else t) s

def execFbCtlWrite (fn : FnId) (acc : Acc) (v : Word) (s : State) : Res :=
  bar0Write s fn oFB_CTL v (fun l =>
    let bad := acc != .hi && v.getLsbD 0 && s.fabRefused
    let t := s.wordWrite fn l oFB_CTL (fieldsAt oFB_CTL) acc v (fieldIf bad [0])
    if t.bit oFB_CTL 0 == s.bit oFB_CTL 0 then t
    else if t.bit oFB_CTL 0 then (t.setHold true).routeHeld
    else t.setHold false)

/-! ### Taking packets (R336, R342, R350) -/

/-- The packet that a row handles: the next one received on its link, or one of this module to itself. -/
def State.takePkt (s : State) (l : LinkId) (ok : List Byte → Bool) : Option (List Byte × Bool × State) :=
  let own := (s.fabric.held.find? (fun e => s.answersTo (pDst e.2) && ok e.2)).map (fun e =>
    (e.2, true, ({ s with fabric := { s.fabric with held := s.fabric.held.erase e } } : State)))
  match (s.link l).packets with
  | p :: rest => if ok p then some (p, false, (s.modLink l (fun k => { k with packets := rest })).freeBuffer l p) else own
  | [] => own

/-- A received packet is refused, forwarded, dropped or delivered. -/
def State.admitPkt (s : State) (l : LinkId) (own : Bool) (p : List Byte) (f : State → List Byte → State) : State :=
  let marked := s.fabric.marked.contains (flowOf p)
  if own then f s p
  else if !s.fabricOn || (marked && !pRetry p) then s.refusePkt l p
  else
    let t : State := { s with fabric := { s.fabric with marked := s.fabric.marked.erase (flowOf p) } }
    if s.answersTo (pDst p) then f t p
    else if 16 ≤ l.val then t.logBelora l p
    else t.forward l p

/-- A row on packets of one type. -/
def onPacket (s : State) (l : LinkId) (type : Nat) (f : State → List Byte → State) : Res :=
  match s.takePkt l (fun p => pType p == type) with
  | none => .next s
  | some (p, own, t) => whenever true s (t.admitPkt l own p f)

/-! ### Requests of peers (R338, R346, R351) -/

/-- The physical address a peer's request reaches: one to the adopted address in the partner's outbound ranges reaches the
corresponding inbound range. -/
def State.peerAddr (s : State) (p : List Byte) : Nat :=
  let a := pAddr p
  if pDst p = s.fab then a
  else
    match (List.range 16).find? (fun n =>
        let b := 2 ^ 21 * getBits (Config.partnerMout n) 40 21
        decide (b ≤ a) && decide (a < b + 2 ^ 21 * getBits (Config.partnerMout n) 60 41)) with
    | some n => 2 ^ 21 * getBits (Config.partnerMoutDst n) 40 21 + (a - 2 ^ 21 * getBits (Config.partnerMout n) 40 21)
    | none => a

/-- The lines of a request. -/
def State.peerLines (s : State) (p : List Byte) : List Nat :=
  (List.range (pLines p)).map (fun i => s.peerAddr p / 64 * 64 + 64 * i)

def State.peerServe (s : State) (p : List Byte) (kind : MemKind) (mask : Option (BitVec 64))
    (pieces : List (Nat × List Byte × Nat)) : State :=
  s.serveAll (.peer p) kind (srcPeer (BitVec.ofNat 12 (pSrc p))) (pTxn p) none mask pieces

def execRd (link : LinkId) (s : State) : Res :=
  onPacket s link 0x01 (fun t p => t.peerServe p .read none ((t.peerLines p).map (fun a => (a, [], 64))))

/-- A write of the resynchronisation copy arrives on a twin link (R329). -/
def State.resyncWrite (s : State) (l : LinkId) (p : List Byte) : State :=
  s.serveAll (.twin l p) .write (srcPeer (BitVec.ofNat 12 (pSrc p))) (pTxn p) none none
    ((List.range (pLines p)).map (fun i => (pAddr p / 64 * 64 + 64 * i, sliceBytes p (16 + 64 * i) 64, 64)))

/-- A peer may not write the target's outbound ranges. -/
def State.mirrorScope (s : State) (p : List Byte) : Bool := (s.peerLines p).any (fun a => (s.mirrorAddr a).isSome)

/-- On a twin link a WR is the resynchronisation's, which is performed only in SYNCING and PAIRED (R321, R329); streamed writes have a
command of their own. -/
def execWr (link : LinkId) (s : State) : Res :=
  onPacket s link 0x02 (fun t p =>
    if 16 ≤ link.val then (if t.twState = 1 ∨ t.twState = 2 then t.resyncWrite link p else t)
    else if t.mirrorScope p then t.respondErr p 0x0108
    else t.peerServe p .write none
      ((t.peerLines p).zipIdx.map (fun x => (x.1, sliceBytes p (16 + 64 * x.2) 64, 64))))

def execWrm (link : LinkId) (s : State) : Res :=
  if 16 ≤ link.val then .next s else
  onPacket s link 0x03 (fun t p =>
    if t.mirrorScope p then t.respondErr p 0x0108
    else t.peerServe p .write (some (BitVec.ofNat 64 (fieldLe p 16 8)))
      [(t.peerAddr p / 64 * 64, sliceBytes p 32 64, 64)])

/-! ### Tally operations of peers (R223, R347 to R349) -/

def topTally (p : List Byte) : Nat := fieldLe p 8 6 % 16384
def topOp (p : List Byte) : Nat := fieldLe p 16 1
def topOperand (p : List Byte) : Word := BitVec.ofNat 64 (fieldLe p 24 8)

/-- A waiter that a peer's TOP registered. -/
def Waiter.ofPeer (w : Waiter) (p : List Byte) : Bool :=
  match w.who with
  | .peer q => pSrc q == pSrc p && pTxn q == pTxn p
  | _ => false

/-- A tally is named by the table of an adopted context. -/
def State.adoptedTally (s : State) (n : Nat) : Bool :=
  (s.rings.filter (fun e => e.2.adopted)).any (fun e =>
    let r : RingId := ⟨e.1 % 8192, Nat.mod_lt _ (by decide)⟩
    match s.partOfRing r with
    | some p => (s.ctxTallies p (s.ringCtx r)).contains n
    | none => false)

/-- A wait or room operation: answered at once, or registered with an interim answer. -/
def State.topAwait (s : State) (p : List Byte) (n : Nat) (kind : WaitKind) : State :=
  let w : Waiter := { who := .peer p, kind := kind, need := topOperand p }
  let t := s.tally n
  if t.waiters.any (fun x => x.ofPeer p) then s.respondTor p 1 0
  else if s.tallyHolds n w then s.respondTor p 0 t.value
  else (s.setTally n { t with waiters := t.waiters ++ [w] }).respondTor p 1 0

/-- An advance: applied at once; with an active twin it is answered once the twin has the log entry. -/
def State.topAdv (s : State) (p : List Byte) (n : Nat) : State :=
  let known := s.twin.tallyLog.any (fun e => e.1.toNat == pSrc p && decide (e.2.1 = pTxn p))
  if known && pDst p != s.fab then s.respondTor p 0 (s.tally n).value
  else
    let t := s.tallyAdv .peer n (topOperand p)
    match s.tallyOwner n with
    | some q =>
      if s.protected_ q && s.twState == 2 then
        let (b, u) := t.freeBody
        (({ u with twin := { u.twin with torWaits := u.twin.torWaits ++ [(q, p)] } } : State).modPart q (fun k => { k with
          unacked := k.unacked ++ [none] })).sendTwinOne 0xC7 b
      else t.respondTor p 0 (t.tally n).value
    | none => t.respondTor p 0 (t.tally n).value

/-- A tally operation of a peer. -/
def State.topServe (s : State) (p : List Byte) : State :=
  let n := topTally p
  let t := s.tally n
  if pDst p ≠ s.fab ∧ !s.adoptedTally n then s.respondErr p 0x0106
  else if !t.peerEn || t.peerFab.toNat != pSrc p then s.respondErr p 0x0109
  else if topOp p = 1 then s.topAdv p n
  else if topOp p = 2 then s.topAwait p n .tallyWait
  else if topOp p = 3 then s.topAwait p n .tallyRoom
  else if topOp p = 4 then s.respondTor p 0 t.value
  else if topOp p = 5 then
    (s.setTally n { t with waiters := t.waiters.filter (fun w => !w.ofPeer p) }).respondTor p 0 t.value
  else s

def execTop (link : LinkId) (s : State) : Res := onPacket s link 0x04 State.topServe

/-! ### The end of this module's requests (R312, R346, R349) -/

/-- A remote tally instruction ends with an error: logged as a skip. -/
def State.peerSkip (s : State) (c : CoreId) (q : PeerReq) (st : Nat) : State :=
  let denied := st == 0x0109
  let t := s.logAny (s.partOf c)
    { type := 0x01, reason := if denied then 0x08 else 0x13, core := c.val, unit := 0, ctx := (s.core c).ctx.toNat,
      tag := q.tag.toNat, status := if denied then 0 else st, d1 := q.pc.toNat }
  t.modLaunch c (fun l => { l with skipped := true })

/-- The kingpost's remote operation has ended. -/
def State.endKpPeer (s : State) (c : CoreId) (q : PeerReq) (st : Nat) (value : Word) : State :=
  let mine := match (s.core c).wait with | some w => decide (w.txn = some q.txn) | none => false
  if q.op = 1 then (if st = 0 then s else s.peerSkip c q st)
  else if !mine then s
  else if q.withdrawn then
    (s.modCore c (fun k => ({ k with wait := none } : Core).stepDone 3)).takePending c
  else if st = 0 then
    s.modCore c (fun k => { k with wait := k.wait.map (fun w => { w with satisfied := true, value := value }) })
  else ((s.peerSkip c q st).modCore c (fun k => ({ k with wait := none } : Core).retire 8)).takePending c

/-- A TWIN entry of the module error log (R382). -/
def State.logTwin (s : State) (code : Nat) (fab : Nat) : State :=
  s.logModule { type := 0x13, d1 := (Config.twinCode code).toNat, d2 := fab }

/-- A streamed write has failed: its joint aborts. A refusal by the twin is MIRROR_RANGE. -/
def State.streamFailed (s : State) (p : PartId) (j : Nat) (refused : Bool) : State :=
  let t := if refused then (s.logTwin 0 (s.fld oTW_CTL 15 4)).raise p 0x0015 (s.ctxOf p) 0 else s
  if ((t.joint p j).st = .open_ ∨ (t.joint p j).st = .committing) ∧ t.mirrors p then (t.failJoint p j 0x0302).resolveJoints p else t

/-- A request of this module ends with a status, data or a value; `refused`: by an error response of its target. -/
def State.endPeer (s : State) (q : PeerReq) (st : Nat) (data : List Byte) (value : Word) (refused : Bool) : State :=
  let t : State := { s with fabric := { s.fabric with requests := s.fabric.requests.filter (fun x => decide (x.txn ≠ q.txn)) } }
  match q.unit, q.mem with
  | .kingpost c, _ => t.endKpPeer c q st value
  | .descriptor r seq, _ => if q.withdrawn then t else t.endDesc r seq st
  | .stream p j, _ => if st = 0 then t else t.streamFailed p j refused
  | .resync, _ => t
  | .loader, _ => { t with loaderLines := t.loaderLines ++
      [{ dst := q.dst.toNat, line := pAddr q.bytes, status := BitVec.ofNat 16 st, data := data }] }
  | .cart _ _, some r => t.deliver { req := r, status := BitVec.ofNat 16 st, data := data }
  | .hostCart _ _, some r => t.deliver { req := r, status := BitVec.ofNat 16 st, data := data }
  | .cart _ _, none => t
  | .hostCart _ _, none => t

/-- The request a response answers. -/
def State.reqOf (s : State) (txn : BitVec 16) : Option PeerReq := s.fabric.requests.find? (fun q => decide (q.txn = txn))

/-- Change a request. -/
def State.modReq (s : State) (txn : BitVec 16) (f : PeerReq → PeerReq) : State :=
  { s with fabric := { s.fabric with
      requests := s.fabric.requests.map (fun q => if q.txn = txn then f q else q) } }

/-- A row on responses: one that answers no request is dropped. -/
def onResponse (s : State) (l : LinkId) (type : Nat) (f : State → List Byte → PeerReq → State) : Res :=
  onPacket s l type (fun t p => match t.reqOf (pTxn p) with | some q => f t p q | none => t)

def execRdr (link : LinkId) (s : State) : Res :=
  onResponse s link 0x81 (fun t p q =>
    let o := match q.mem with | some r => r.addr % 64 | none => 0
    let n := match q.mem with | some r => r.len | none => 64
    t.endPeer q 0 (sliceBytes p (16 + o) n) 0 false)

def execWra (link : LinkId) (s : State) : Res := onResponse s link 0x82 (fun t _ q => t.endPeer q 0 [] 0 false)

/-- The interim TOR of a wait tells that it would not issue now: a stepped instruction withdraws it (R40, R349). -/
def State.interimTor (s : State) (q : PeerReq) : State :=
  let t := s.modReq q.txn (fun x => { x with answered := true })
  match q.unit with
  | .kingpost c => if (t.core c).stepping && !q.withdrawn then t.sendWithdraw q.txn else t
  | _ => t

/-- An interim TOR counts only against PEER_TIMEOUT; a final one ends the request. -/
def execTor (link : LinkId) (s : State) : Res :=
  onResponse s link 0x84 (fun t p q =>
    if pStatus p = 1 then t.interimTor q
    else t.endPeer q 0 [] (BitVec.ofNat 64 (fieldLe p 24 8)) false)

def execErr (link : LinkId) (s : State) : Res := onResponse s link 0x8F (fun t p q => t.endPeer q (pStatus p) [] 0 true)

/-! ### NOTRDY, time-outs, probes (R336, R346, R349) -/

/-- A refusal reaches its requester even in HOLD. -/
def execNotrdy (link : LinkId) (s : State) : Res :=
  match s.takePkt link (fun p => pType p == 0x8E) with
  | none => .next s
  | some (p, _, t) =>
    whenever true s
      (if t.answersTo (pDst p) then t.modReq (pTxn p) (fun q => { q with refused := true })
       else if 16 ≤ link.val then t.logBelora link p
       else t.forward link p)

/-- Send a request again; one of a streamed write takes its twin link. -/
def State.sendAgain (s : State) (q : PeerReq) (retry : Bool) : State :=
  let b := reHead q.bytes false 63 retry
  let part := match q.unit, q.mem with
    | .stream p _, _ => some p
    | _, some r => r.part
    | .kingpost c, none => s.partOf c
    | .descriptor r _, none => s.partOfRing r
    | _, none => none
  match q.unit with
  | .stream _ _ => s.resendTwin { vc := pVc b, input := none, part := part, bytes := b }
  | .resync => s.resendTwin { vc := pVc b, input := none, part := part, bytes := b }
  | _ => s.route none part b

/-- A backoff ends: the refused packet goes again with RETRY, then every later refused packet of its flow. -/
def State.backoff (s : State) (q : PeerReq) : State :=
  let same := fun (x : PeerReq) => x.refused && decide (x.dst = q.dst) && pVc x.bytes == pVc q.bytes
  let later := ((s.fabric.requests.dropWhile (fun x => decide (x.txn ≠ q.txn))).drop 1).filter same
  let go := fun (t : State) (x : PeerReq) (retry : Bool) =>
    (t.modReq x.txn (fun y => { y with refused := false, tries := y.tries + 1 })).sendAgain x retry
  later.foldl (fun t x => go t x false) (go s q true)

def execNotrdyBackoff (txn : BitVec 16) (expired : Bool) (s : State) : Res :=
  match s.reqOf txn with
  | none => .next s
  | some q => whenever q.refused s (if expired then s.endPeer q 0x0105 [] 0 false else s.backoff q)

def execPeerTimeout (txn : BitVec 16) (s : State) : Res :=
  match s.reqOf txn with
  | none => .next s
  | some q => whenever (!q.answered && !q.refused) s (s.endPeer q 0x0107 [] 0 false)

/-- A packet held for 50 µs ends: a request of this module itself, a request passing through by an error response; a
response is dropped. -/
def State.endHeld (s : State) (e : Option LinkId × List Byte) : State :=
  let t : State := { s with fabric := { s.fabric with held := s.fabric.held.erase e } }
  let p := e.2
  if pRsp p then t.logBelora (e.1.getD 0) p
  else if e.1.isSome then t.respondErr p 0x0106
  else match t.reqOf (pTxn p) with
    | some q => t.endPeer q 0x0106 [] 0 false
    | none => t

def execUnreachable (txn : BitVec 16) (s : State) : Res :=
  match s.fabric.held.find? (fun e => decide (pTxn e.2 = txn) && !s.answersTo (pDst e.2)) with
  | none => .next s
  | some e => whenever true s (s.endHeld e)

def execTopProbe (txn : BitVec 16) (s : State) : Res :=
  match s.reqOf txn with
  | none => .next s
  | some q => whenever (q.answered && (q.op == 2 || q.op == 3) && !q.withdrawn) s (s.sendAgain q false)

/-! ### Aliases (R351) -/

def aliasFrom (p : List Byte) : Nat := fieldLe p 16 5 % 4096
def aliasTo (p : List Byte) : Nat := fieldLe p 16 5 / 4096 % 4096
def aliasEpoch (p : List Byte) : Nat := fieldLe p 16 5 / 2 ^ 24 % 65536

/-- The body of an ADOPT or RELEASE. -/
def aliasBody (from_ to_ epoch : Nat) : List Byte := natLe 16 (from_ + 4096 * to_ + 2 ^ 24 * epoch)

/-- Send a packet on every live fabric link but one. -/
def State.flood (s : State) (input : Option LinkId) (p : List Byte) : State :=
  ((List.finRange 18).filter (fun l => decide (l.val < 16) && s.linkLive l && s.fld (oBL_CTL l) 4 1 != 0 &&
      decide (some l ≠ input))).foldl
    (fun t l => t.transmit l { vc := 4, input := input, part := none, bytes := p }) s

/-- The valid entry of an address. -/
def State.aliasEntry (s : State) (x : Nat) : Option Nat :=
  (List.range 64).find? (fun i => s.bit (oFB_ALIAS i) 40 && s.fld (oFB_ALIAS i) 11 0 == x)

/-- An ADOPT that this module has seen: it made it, or its entry holds it. -/
def State.adoptSeen (s : State) (p : List Byte) : Bool :=
  aliasTo p == s.fab ||
    (match s.aliasEntry (aliasFrom p) with | some i => s.fld (oFB_ALIAS i) 39 24 == aliasEpoch p | none => false)

/-- Re-send, in issue order, every request to an address that has no response. -/
def State.resendTo (s : State) (x : Nat) : State :=
  (s.fabric.requests.filter (fun q => q.dst.toNat == x && !q.refused)).foldl (fun t q => t.sendAgain q false) s

/-- Record an alias; where no entry is free it is logged. -/
def State.recordAlias (s : State) (p : List Byte) : State :=
  let free := (List.range 64).find? (fun i => !s.bit (oFB_ALIAS i) 40)
  match (match s.aliasEntry (aliasFrom p) with | some i => some i | none => free) with
  | none => s.logTwin 2 (aliasFrom p)
  | some i =>
    let w := fieldLe p 16 5 % 2 ^ 40 + 2 ^ 40
    ((s.setReg (oFB_ALIAS i) (BitVec.ofNat 64 w)).routeHeld).resendTo (aliasFrom p)

/-- A flooded packet arrives. -/
def onFlood (s : State) (l : LinkId) (type : Nat) (f : State → List Byte → State) : Res :=
  match s.takePkt l (fun p => pType p == type) with
  | none => .next s
  | some (p, _, t) => whenever true s (if !t.fabricOn then t.refusePkt l p else f t p)

/-- A flooded packet goes on. -/
def State.floodOn (s : State) (l : LinkId) (p : List Byte) : State :=
  s.flood (some l) (reHead p (pD p) (pHops p - 1) (pRetry p))

def execAdopt (link : LinkId) (s : State) : Res :=
  onFlood s link 0xC8 (fun t p => if t.adoptSeen p then t else (t.recordAlias p).floodOn link p)

def execRelease (link : LinkId) (s : State) : Res :=
  onFlood s link 0xC9 (fun t p =>
    match t.aliasEntry (aliasFrom p) with
    | none => t
    | some i => (t.setReg (oFB_ALIAS i) 0).floodOn link p)

/-- A packet of an undefined TYPE is dropped by the first module that receives it. -/
def execUnknownPacket (link : LinkId) (s : State) : Res :=
  match s.takePkt link (fun p => (unitsOf p).isNone) with
  | none => .next s
  | some (p, _, t) => whenever true s (t.logBelora link p)

end Sys2Proof.Machine
end

