-- ==== Sys2Proof/Machine/Twin.lean ====
section
/-! DEFINITION. Twins: pairing, beats, declarations, takeover, mirroring, recovery records, repairs in place, and the end of
a partition abort or rollback (R246, R307, R309 to R331, R348, R350, R351). -/

namespace Sys2Proof.Machine

/-! ### States and events (R310, R321, R331) -/

/-- A partition adopts work of the partner (R313). -/
def State.adopts (s : State) (p : PartId) : Bool :=
  (List.range 32).any (fun q => s.bit (oTW_ADOPT q) 0 && s.fld (oTW_ADOPT q) 5 1 == p.val)

/-- Raise an event on every partition that adopts work and every protected one. -/
def State.raiseTwin (s : State) (cause : Nat) : State :=
  (allParts.filter (fun p => s.adopts p || s.protected_ p)).foldl (fun t p => t.raise p cause (t.ctxOf p) 0) s

/-- Retire what waited for the twin. -/
def State.retireAll (s : State) : State :=
  (allParts.filter s.protected_).foldl (fun t p => ((t.ringsOf p).filter t.ringOn).foldl (fun t r => t.retire p r) t) s

/-- No mirroring any longer: no streamed write is outstanding, and advances wait for no acknowledgement. -/
def State.stopMirroring (s : State) (st : Nat) : State :=
  let s1 := allParts.foldl (fun t p => t.modPart p (fun q => { q with mirroring := false, points := [], unacked := [] })) (s.setFld oTW_STAT 2 0 st)
  let keep := fun (q : PeerReq) => match q.unit with
    | .stream _ _ => false
    | .resync => false
    | _ => true
  let s2 : State := { s1 with
    fabric := { s1.fabric with requests := s1.fabric.requests.filter keep }
    twin := { s1.twin with torWaits := [], resync := [] } }
  let s3 := s1.twin.torWaits.foldl (fun t w => t.respondTor w.2 0 (t.tally (topTally w.2)).value) s2
  (s3.setFld oTW_STAT 5 4 0).retireAll

/-- The partner is declared failed: the takeover begins (R321). -/
def State.declare (s : State) : State :=
  let (b, s1) := (s.stopMirroring 3).freeBody
  let s2 := s1.sendTwinAll 0xC2 b
  let s3 := s2.route none none (mkPacket 0xC2 4 false (s.fld oTW_CTL 15 4) s.fab 0 2 1 b)
  ((s3.incFld oTW_STAT 31 16 1).incFld (oTMM 6) 63 0 1).raiseTwin 0x0010

/-- The pair is in SYNCING or PAIRED. -/
def State.paired (s : State) : Bool := s.twState == 1 || s.twState == 2

def State.twOn (s : State) : Bool := s.bit oTW_CTL 0

/-- FAILED without a notice (R319). -/
def State.enterFailed (s : State) : State := { (s.inBand 0x04).setFld oTW_STAT 2 0 5 with failed := true }

/-! ### Pairing (R309 to R311, R329) -/

/-- The LEN fields of the outbound and of the inbound ranges. -/
def State.outLen (s : State) : Nat := ((List.range 16).map (fun n => s.fld (oTW_MOUT n) 60 41)).foldl (· + ·) 0
def State.inLen (s : State) : Nat := ((List.range 16).map (fun n => s.fld (oTW_MIN n) 60 41)).foldl (· + ·) 0

/-- The write of EN is refused. -/
def State.twEnRefused (s : State) (on : Bool) : Bool :=
  if on then decide (57344 < s.outLen) || decide (57344 < s.inLen) else s.twOn && s.paired

def execTwCtlWrite (fn : FnId) (acc : Acc) (v : Word) (s : State) : Res :=
  bar0Write s fn oTW_CTL v (fun l =>
    let low := acc != .hi
    let bad := low && s.twEnRefused (v.getLsbD 0)
    let t := s.wordWrite fn l oTW_CTL (fieldsAt oTW_CTL) acc v (fun f =>
      (f.lo == 0 && bad) || (f.lo == 4 && s.twOn))
    if !low || bad then t
    else
      let u : State := { t with twin := { t.twin with wrongLogged := false, heard := s.twOn && t.twin.heard } }
      if s.twOn && !t.twOn then u.setFld oTW_STAT 2 0 0 else u)

def execHelloSend (s : State) : Res :=
  let f := s.freeBody
  whenever s.twOn s (f.2.sendTwinAll 0xC0 f.1)

/-- MiB still to copy. -/
def State.syncLeft (s : State) : State :=
  let n := (s.twin.resync.map (fun r => r.2.2)).foldl (· + ·) 0
  s.setFld oTW_STAT 63 32 ((n + 2 ^ 20 - 1) / 2 ^ 20)

/-- The copies a module owes: its outbound ranges; a survivor's inbound ranges also. -/
def State.outCopies (s : State) : List (Nat × Nat × Nat) :=
  ((List.range 16).filter (fun n => s.fld (oTW_MOUT n) 60 41 != 0)).map (fun n =>
    (2 ^ 21 * s.fld (oTW_MOUT n) 40 21, 2 ^ 21 * s.fld (oTW_MOUT_DST n) 40 21, 2 ^ 21 * s.fld (oTW_MOUT n) 60 41))
def inCopies : List (Nat × Nat × Nat) :=
  ((List.range 16).filter (fun n => getBits (Config.partnerMout n) 60 41 != 0)).map (fun n =>
    (2 ^ 21 * getBits (Config.partnerMoutDst n) 40 21, 2 ^ 21 * getBits (Config.partnerMout n) 40 21,
     2 ^ 21 * getBits (Config.partnerMout n) 60 41))

/-- SYNCING begins. Whether a module that comes from OFF meets a survivor, which alone copies, is free (log entry 33). -/
def State.startSync (s : State) : State :=
  let (w, t) := s.fresh
  let copies := if s.twState = 3 then s.outCopies ++ inCopies
    else if s.twState = 4 then s.outCopies
    else if w.getLsbD 0 then s.outCopies else []
  ({ t.setFld oTW_STAT 2 0 1 with twin := { t.twin with resync := copies, heard := true } } : State).syncLeft

/-- A hello of the partner that names this module forms the pair; the first of another sender is logged. -/
def execHello (link : Fin 2) (sender partner : BitVec 12) (s : State) : Res :=
  let _ := link
  whenever (s.twOn && s.fabricOn) s
    (if sender.toNat ≠ s.fld oTW_CTL 15 4 then
       (if s.twin.wrongLogged then s
        else ({ s with twin := { s.twin with wrongLogged := true } } : State).logTwin 1 sender.toNat)
     else if partner.toNat = s.fab ∧ !s.paired then s.startSync
     else s)

/-- One line of the resynchronisation copy, on VC3. -/
def State.resyncStep (s : State) : State :=
  s.settle (match s.twin.resync, s.twinLinks with
  | (a, b, n) :: rest, l :: _ =>
    let (t, x) := s.direct none a .read 64 []
    let left := if n ≤ 64 then rest else (a + 64, b + 64, n - 64) :: rest
    let u := ({ t with twin := { t.twin with resync := left } } : State).syncLeft
    if x.status ≠ 0 then u
    else
      let txn := u.fabric.nextTxn
      let dst := u.fld oTW_CTL 15 4
      let bytes := mkPacket 0x02 3 false dst u.fab txn b 1 x.data
      let q : PeerReq := { txn := txn, unit := .resync, dst := BitVec.ofNat 12 dst, bytes := bytes, mem := none }
      let v : State := { u with fabric := { u.fabric with nextTxn := txn + 1, requests := u.fabric.requests ++ [q] } }
      v.transmit l { vc := 3, input := none, part := none, bytes := bytes }
  | _, _ => s)

/-- No joint of the partition is OPEN or COMMITTING (R251). -/
def State.atBoundary (s : State) (p : PartId) : Bool :=
  (s.part p).joints.all (fun e => decide (e.2.st ≠ .open_) && decide (e.2.st ≠ .committing))

/-- An EPOCH, FROM and TO flooded (R351). -/
def State.floodAlias (s : State) (type : Nat) : State :=
  let from_ := s.fld oTW_CTL 15 4
  s.flood none (mkPacket type 4 false 0xFFF s.fab 0 0 1 (aliasBody from_ s.fab s.fabric.epoch.toNat))

/-- PAIRED: the adopted address is given up. -/
def State.enterPaired (s : State) : State :=
  let t := (s.setFld oTW_STAT 2 0 2).raiseTwin 0x0012
  if s.bit oTW_STAT 3 then (t.floodAlias 0xC9).setFld oTW_STAT 3 3 0 else t

/-- The copy has ended: mirroring resumes for each partition at a joint boundary. -/
def execResyncDone (s : State) : Res :=
  let t := (allParts.filter s.atBoundary).foldl (fun t p => t.modPart p (fun q => { q with mirroring := true })) s
  whenever (s.paired && s.twin.resync.isEmpty) s
    (if s.twState = 1 ∧ allParts.all (fun p => !s.protected_ p || (t.part p).mirroring) then t.enterPaired else t)

/-! ### Beats and declarations (R318 to R320) -/

/-- The beat line: counter, timestamp, STATE. -/
def State.beatLine (s : State) (n : Word) : List Byte := natLe 8 n.toNat ++ natLe 6 s.stamp ++ natLe 1 s.twState ++ natLe 49 0

/-- A beat on both links, the beat line with its flushing read, and the read of the partner's line. -/
def State.sendBeat (s : State) : State :=
  let (b, s1) := s.freeBody
  let n := s.twin.ownBeat + 1
  let own := 64 * s.fld oTW_BEAT 63 6
  let s2 := (({ s1 with twin := { s1.twin with ownBeat := n } } : State).sendTwinAll 0xC1 b).toHost
    (.hostWrite 0 own (s1.beatLine n) false)
  ((s2.hostRead 0 own 0 .ownBeat).2.hostRead 0 (64 * s.fld oTW_PBEAT 63 6) 64 .beatLine).2

def execBeatSend (s : State) : Res := whenever s.twOn s s.sendBeat

/-- A beat arrives; in DEGRADED the pair resynchronises. -/
def execBeat (link : Fin 2) (s : State) : Res :=
  let t := s.setFld oTW_STAT (4 + link.val) (4 + link.val) 1
  whenever s.twOn s (if s.twState = 4 then t.startSync else t)

def execPartnerBeatRead (counter : Word) (s : State) : Res :=
  match s.hostReads.find? (fun r => decide (r.purpose = .beatLine) && r.issued) with
  | none => .next s
  | some r => whenever true s (({ s with hostReads := s.hostReads.erase r } : State).gotBeat counter).issueReads

/-- No beat for 40 µs on either link: three reads in a row without change declare the partner failed. -/
def execBeatTimeout (s : State) : Res :=
  whenever s.paired s (if 3 ≤ s.twin.still then s.declare else (s.stopMirroring 4).raiseTwin 0x0011)

def execSelfFence (s : State) : Res :=
  whenever (s.twOn && s.hostReads.any (fun r => decide (r.purpose = .ownBeat))) s s.enterFailed

/-- In DEGRADED there is no takeover (R319, log entry 104). -/
def execFatalNotice (s : State) : Res := whenever s.paired s s.declare

/-- Beats arrive on neither twin link, or neither is live. -/
def State.linksLost (s : State) : Bool := s.fld oTW_STAT 5 4 == 0 || s.twinLinks.isEmpty

def execFenceOff (addr : BitVec 12) (s : State) : Res :=
  whenever (s.twOn && addr.toNat == s.fab && s.linksLost) s s.enterFailed

/-- A core without a spare is fatal only to a paired module (R326). -/
def execModuleFatal (cause : FatalCause) (s : State) : Res :=
  whenever (decide (cause ≠ .noSpare) || s.twState == 2) s s.moduleFail

/-! ### Takeover (R321 to R323, R351) -/

def execAdoptFabricAddress (s : State) : Res :=
  let t : State := { s.setFld oTW_STAT 3 3 1 with fabric := { s.fabric with epoch := s.fabric.epoch + 1 } }
  whenever (s.twState == 3 && !s.bit oTW_STAT 3) s
    (((t.floodAlias 0xC8).routeHeld).resendTo (s.fld oTW_CTL 15 4))

def State.twinJoint (s : State) (j : Nat) : TwinJoint := tabGet (fun _ => {}) j s.twin.joints
def State.setTwinJoint (s : State) (j : Nat) (x : TwinJoint) : State :=
  { s with twin := { s.twin with joints := tabSet (fun _ => {}) j x s.twin.joints } }

/-- The swap of a partner joint: its streamed writes reach the committed pages of the inbound ranges. -/
def State.swapTwin (s : State) (j : Nat) : State :=
  let x := s.twinJoint j
  if x.swapped then s
  else (x.writes.foldl (fun t w => (t.writePhys none w.1 w.2).1) s).setTwinJoint j { x with writes := [], swapped := true }

/-- A withheld record of the partner, written with REPLAYED and JOINT under fence-only ordering. -/
def State.replayRecord (s : State) (c : CplRecord) : State :=
  let fl := c.flags ||| 0x0019
  let bytes := natLe 4 c.seq.toNat ++ natLe 2 c.status.toNat ++ natLe 2 c.tag.toNat ++ natLe 6 s.stamp ++ natLe 2 fl.toNat
  (s.toHost (.hostWrite (match s.partOfRing c.ring with | some p => partFn p | none => 0) (s.recordAddr c.ring c.seq) bytes
    true)).incFld (oTMM 1) 63 0 1

/-- A partner joint whose prepare has been acknowledged commits here; any other is discarded. -/
def State.resolveTwinJoint (s : State) (j : Nat) : State :=
  let x := s.twinJoint j
  let t := if x.prepared.isSome then x.withheld.foldl State.replayRecord (s.swapTwin j) else s
  t.setTwinJoint j {}

def execPartnerJointResolve (s : State) : Res :=
  whenever (s.twState == 3) s (s.settle ((s.twin.joints.map Prod.fst).foldl State.resolveTwinJoint s))

/-- The objects of a partition's contexts take the values of a record. -/
def State.restoreObjects (s : State) (p : PartId) (r : RecoveryRecord) : State :=
  let s1 := r.pegs.foldl (fun t x => match t.pegRef p x.1 x.2.1.toNat with
    | some n => (t.setPeg n { t.peg n with count := x.2.2 }).servePeg n
    | none => t) s
  let s2 := r.tallies.foldl (fun t x => match t.tallyRef p x.1 x.2.1.toNat with
    | some (.local_ n) => t.setTally n { t.tally n with value := x.2.2 }
    | _ => t) s1
  let s3 := r.bells.foldl (fun t x => match t.bellRef p x.1 x.2.1.toNat with
    | some n => (t.setBell n { t.bell n with count := x.2.2.1, arrived := x.2.2.2.1, gen := x.2.2.2.2 }).reexamineBell n (t.bell n)
    | none => t) s2
  (s3.serveTallies).touched (some p)

/-- Tallies that a record restores. -/
def State.restoredTallies (s : State) (p : PartId) (r : RecoveryRecord) : List Nat :=
  r.tallies.filterMap (fun x => match s.tallyRef p x.1 x.2.1.toNat with | some (.local_ n) => some n | _ => none)

/-- Restore a record of the partner once, then apply the advances that its log holds after it. DEDUCED (log entry 104): the
synchronisation tables of the record's contexts are read first, as R321 needs the objects before any context is switched in. -/
def State.restoreStored (s : State) (p : PartId) (x : StoredRecord) : State :=
  if x.restored then s
  else
    let s1 := ((x.record.pegs.map Prod.fst ++ x.record.tallies.map Prod.fst ++ x.record.bells.map Prod.fst).eraseDups).foldl
      (fun t c => t.readSyncTable p c) s
    let s2 := s1.restoreObjects p x.record
    let ns := s2.restoredTallies p x.record
    let s3 := ((s2.twin.tallyLog.drop x.logAt).filter (fun e => ns.contains e.2.2.1.toNat)).foldl
      (fun t e => t.tallyAdv .peer e.2.2.1.toNat e.2.2.2) s2
    { s3 with twin := { s3.twin with
        records := s3.twin.records.map (fun y => if y.record = x.record then { y with restored := true } else y) } }

/-- The recovery point of a ring in a record. -/
def pointOf (r : RecoveryRecord) (ring : RingId) : Option (BitVec 32) :=
  (r.points.find? (fun x => decide (x.1 = ring))).map Prod.snd

/-- A ring stands at a sequence: FETCHED and RETIRED take it, and the status line is written. -/
def State.placeRing (s : State) (r : RingId) (seq : BitVec 32) : State :=
  ((s.setFld (oRT_STAT r) 31 0 seq.toNat).setFld (oRT_STAT r) 63 32 seq.toNat).statusLine r

/-- A ring of the partner is adopted. -/
def State.adoptRing (s : State) (p : PartId) (r : RingId) : State :=
  let stored := s.twin.records.find? (fun x => (pointOf x.record r).isSome)
  let s1 := match stored with | some x => s.restoreStored p x | none => s
  let seq := match stored.bind (fun x => pointOf x.record r) with | some q => q | none => s.fetched r
  let s2 := s1.modRing r (fun k => { k with
    adopted := true, replayDue := true, replayTo := none, tail := seq, readySince := none, owed := false, polls := []
    fetching := false, arrived := [] })
  s2.placeRing r seq

def execRingAdoption (ring : RingId) (s : State) : Res :=
  match s.partOfRing ring with
  | none => .next s
  | some p =>
    whenever (s.twState == 3 && s.bit oTW_STAT 3 && s.adopts p && s.isStandby p ring && !(s.ring ring).adopted) s
      (s.settle (s.adoptRing p ring))

/-! ### Mirroring and recovery records (R246, R312, R315, R316, R348) -/

/-- Store a record of the partner in place of the last one of its partition. -/
def State.storeRecord (s : State) (r : RecoveryRecord) : State :=
  let keep := s.twin.records.filter (fun x => decide (x.record.partition ≠ r.partition))
  { s with twin := { s.twin with records := keep ++ [{ record := r, logAt := s.twin.tallyLog.length }] } }

/-- Earlier prepared joints of the partner have been served: they are swapped and forgotten. -/
def State.finishTwinJoints (s : State) : State :=
  ((s.twin.joints.filter (fun e => e.2.prepared.isSome)).map Prod.fst).foldl
    (fun t j => (t.swapTwin j).setTwinJoint j {}) s

/-- A prepare: the record is stored and the prepare acknowledged; the module with the lower address swaps first. -/
def execPrepare (joint : Nat) (rec : RecoveryRecord) (withheld : List CplRecord) (s : State) : Res :=
  let s1 := s.finishTwinJoints
  let x := s1.twinJoint joint
  let s2 := (s1.setTwinJoint joint { x with prepared := some rec, withheld := withheld, swapped := false }).storeRecord rec
  let (b, s3) := s2.freeBody
  let s4 := s3.sendTwinOne 0xC4 b
  whenever s.paired s (s.settle (if s.fab < s.fld oTW_CTL 15 4 then s4.swapTwin joint else s4))

def execPrepareAck (p : PartId) (j : Fin 64) (s : State) : Res :=
  let n := j.val + 1
  whenever (s.paired && (s.joint p n).asked) s (s.modJoint p n (fun x => { x with prepared := true }))

def execRecoveryRecord (rec : RecoveryRecord) (s : State) : Res :=
  let (b, t) := (s.storeRecord rec).freeBody
  whenever s.paired s (t.sendTwinOne 0xC6 b)

/-- The tally advance of a partition that has waited longest is answered. -/
def State.answerTor (s : State) (p : PartId) : State :=
  match s.twin.torWaits.find? (fun w => decide (w.1 = p)) with
  | some w => ({ s with twin := { s.twin with torWaits := s.twin.torWaits.erase w } } : State).respondTor w.2 0
      (s.tally (topTally w.2)).value
  | none => s

/-- The twin acknowledges what it received for a partition, in the order in which it was sent (log entry 104): the partition's rings
retire to a record's points, or a tally advance that waited is answered. -/
def execRecordAck (p : PartId) (s : State) : Res :=
  match (s.part p).unacked with
  | [] => .next s
  | none :: rest => whenever s.paired s ((s.modPart p (fun q => { q with unacked := rest })).answerTor p)
  | some r :: rest =>
    let t := s.modPart p (fun q => { q with
      unacked := rest, points := r.points, recoveryAcked := q.recoveryAcked || decide (q.recovery = some r) })
    whenever s.paired s (((t.ringsOf p).filter t.ringOn).foldl (fun t r => t.retire p r) t)

/-- A range of bytes lies in an inbound range. -/
def State.inbound (s : State) (a len : Nat) : Bool :=
  (List.range 16).any (fun n =>
    let b := 2 ^ 21 * s.fld (oTW_MIN n) 40 21
    decide (b ≤ a) && decide (a + len ≤ b + 2 ^ 21 * s.fld (oTW_MIN n) 60 41))

/-- The packet of a streamed write, at the head of a twin link's queue. -/
def State.takeStream (s : State) (a : Nat) : Option (LinkId × List Byte × State) :=
  ([16, 17] : List LinkId).findSome? (fun l =>
    match (s.link l).packets with
    | p :: rest =>
      if (pType p == 2 || pType p == 3) && pAddr p / 64 == a / 64 then
        some (l, p, (s.modLink l (fun k => { k with packets := rest })).freeBuffer l p)
      else none
    | [] => none)

/-- Answer a streamed write's packet, if it is at hand. A refusal's status is free: the specification gives it none. -/
def State.answerStream (s : State) (a : Nat) (ok : Bool) : State :=
  match s.takeStream a with
  | none => s
  | some (l, p, t) =>
    if ok then t.reply l p 0x82 0 1 []
    else
      let (w, u) := t.fresh
      u.reply l p 0x8F (w.toNat % 65536) 1 []

/-- A streamed write joins the shadow of its page, or is refused. -/
def State.shadowWrite (s : State) (j a : Nat) (bs : List Byte) : State :=
  if !s.inbound a bs.length then (s.logTwin 0 (s.fld oTW_CTL 15 4)).answerStream a false
  else
    let t := if (s.twinJoint j).prepared.isSome then (s.swapTwin j).setTwinJoint j {} else s
    let x := t.twinJoint j
    (t.setTwinJoint j { x with writes := x.writes ++ [(a, bs)] }).answerStream a true

def execStreamedWrite (joint : Nat) (addr : BitVec 41) (data : List Byte) (s : State) : Res :=
  checked (.streamedWrite joint addr data) "STREAMED_WRITE" (whenever s.paired s (s.settle (s.shadowWrite joint addr.toNat data)))

/-- A tally log entry of the partner is kept and acknowledged. -/
def execTallyLog (src : BitVec 12) (txn : BitVec 16) (tally : BitVec 14) (amount : Word) (s : State) : Res :=
  let t : State := { s with twin := { s.twin with tallyLog := s.twin.tallyLog ++ [(src, txn, tally, amount)] } }
  let (b, u) := t.freeBody
  whenever s.paired s (u.sendTwinOne 0xC6 b)

/-- A partner image is queued for the loader in the adopting partition (R314): in its first standby context. One for which there is no
such partition or context cannot be loaded, and is logged. -/
def execTwinImageNotice (p : PartId) (va : BitVec 52) (crc : BitVec 32) (s : State) : Res :=
  let q : PartId := ⟨s.fld (oTW_ADOPT p.val) 5 1 % 32, Nat.mod_lt _ (by decide)⟩
  let ctxs := (s.contexts q).filter (fun c =>
    s.cfg (oPT_CTL q) 1 1 == 1 || (match s.ctxSlot c with | some (_, k) => s.cfg (oPT_CTX q k) 10 10 == 1 | none => false))
  let on := s.bit (oTW_ADOPT p.val) 0
  whenever s.twOn s
    (match ctxs, on with
     | c :: _, true =>
       { s with
         nextId := s.nextId + 1
         loadQueue := queueLoad { part := q, ctx := c, key := { va := va, crc := crc }, ring := none, order := s.nextId }
           s.loadQueue }
     | _, _ => s.logAny (if on then some q else none) { type := 0x02, d2 := va.toNat })

/-! ### Repairs in place (R326) -/

/-- Spare cores left in the quadrant of a core. -/
def State.spares (s : State) (c : CoreId) : Nat := s.fld oMOD_STAT (2 * (c.val / 32) + 1) (2 * (c.val / 32))

/-- A spare takes a core's ID: with the state of the core that it replaces, and none of its caches. -/
def State.spareCore (s : State) (c : CoreId) : State :=
  let q := c.val / 32
  let t := (s.setFld oMOD_STAT (2 * q + 1) (2 * q) (s.spares c - 1)).incFld (oTMM 5) 63 0 1
  t.modCore c (fun k => { k with corrected := 0, tlb := [], icache := [], fills := [], badLines := [] })

def execCoreFaultCorrected (core : CoreId) (s : State) : Res :=
  let t := s.modCore core (fun k => { k with corrected := k.corrected + 1 })
  let due := 16 ≤ (t.core core).corrected ∧ 0 < s.spares core
  whenever true s
    (match s.partOfCore core with
     | some p => if due ∧ (s.part p).spareWanted.isNone then t.modPart p (fun q => { q with spareWanted := some core }) else t
     | none => if due then t.spareCore core else t)

/-- Every core of the partition has stopped for the sparing, or none runs. -/
def State.spareReady (s : State) (p : PartId) : Bool :=
  s.atBoundary p && ((s.part p).running.isNone || (s.coreList p).all (fun c => (s.core c).preempted))

/-- The cores go on after a sparing. -/
def State.goOn (s : State) (p : PartId) : State :=
  (s.coreList p).foldl (fun t c => t.modCore c (fun k => if k.stop = some .preempt then { k with stop := none } else k)) s

def execCoreSpare (core : CoreId) (s : State) : Res :=
  match s.partOfCore core with
  | none => .next s
  | some p =>
    whenever (decide ((s.part p).spareWanted = some core) && s.spareReady p) s
      ((((s.spareCore core).modPart p (fun q => { q with spareWanted := none })).goOn p).raise p 0x0013 (s.ctxOf p) 0)

/-- A core fails without correction. -/
def execCoreHardFault (core : CoreId) (s : State) : Res :=
  let none_ := s.spares core == 0
  whenever true s
    (if none_ && s.twState == 2 then s.moduleFail
     else match s.partOfCore core with
       | none => if none_ then s else s.spareCore core
       | some p =>
         if s.protected_ p && !none_ then
           (if (s.part p).abort.isSome then s.spareCore core else s.beginAbort p (.rollback core))
         else
           let t := if none_ then s else s.spareCore core
           if (s.part p).abort.isSome then t else t.beginAbort p .coreLost)

/-- A ring replays from its recovery point. -/
def State.rollRing (s : State) (r : RingId) (seq : BitVec 32) : State :=
  (s.modRing r (fun k => { k with
    fetching := false, arrived := [], replayDue := false, replayTo := some k.tail, polls := []
    readySince := if k.tail = seq then none else some s.fabric_ })).placeRing r seq

/-- A local rollback ends: the spare is admitted, objects are restored, every ring goes back to its recovery point. -/
def State.endRollback (s : State) (p : PartId) (c : CoreId) : State :=
  let rec_ := (s.part p).recovery
  let point := fun (r : RingId) => match rec_.bind (fun x => pointOf x r) with | some q => q | none => s.retired r
  let s1 := (s.dropCores p).discardBut p (fun d => d.stage = .completed && !d.member && before d.seq (point d.ring))
  let s2 := match rec_ with | some r => s1.restoreObjects p r | none => s1
  let s3 := ((s2.ringsOf p).filter s2.ringOn).foldl (fun t r => t.rollRing r (point r)) s2
  let s4 := ((s3.spareCore c).setFld (oPT_ABORT p.val) 1 1 0).modPart p (fun q => { q with abort := none })
  let s5 := s4.raise p 0x0013 (s.ctxOf p) 0
  if (s.part p).abortNext then (s5.modPart p (fun q => { q with abortNext := false })).beginAbort p .register else s5

/-- The stages of an abort or of a rollback have been passed (R307, R326). -/
def execPartitionAbortDone (p : PartId) (s : State) : Res :=
  match (s.part p).abort with
  | none => .next s
  | some (.rollback c) => whenever (s.abortReady p) s (s.endRollback p c)
  | some _ => whenever (s.abortReady p) s (s.endAbort p)

end Sys2Proof.Machine
end

