-- ==== Sys2Proof/Machine/RegRead.lean ====
section
/-! DEFINITION. Reads of BAR0: the registers that show typed parts of the state, the sizes an access may have, read-to-clear
fields (R6, R42, R97, R137, R148, R170, R213, R214, R232, R253, R256, R364, R370, R372 to R374, R376, R380, R382). -/

namespace Sys2Proof.Machine

/-! ### Core debug blocks (R42, R97, R137, R148) -/

/-- Word n of a restart record, while the core is halted. -/
def Core.recordWord (k : Core) (u : EngineUnit) (n : Nat) : Word :=
  if k.halted then BitVec.ofNat 64 (fieldLe (k.engOf u).record (8 * n) 8) else 0

/-- Commands in a queue. -/
def Core.occ (k : Core) (u : EngineUnit) : Nat := (k.queueOf u).length

/-- A register of a core's debug block, by its offset in the block. -/
def Core.debugWord (k : Core) (o : Nat) : Word :=
  if o = 0 then BitVec.ofNat 64 (boolNat k.haltReq)
  else if o = 0x008 then
    BitVec.ofNat 64 (boolNat k.halted + k.stopCause.toNat * 2 + k.lastTag.toNat * 2 ^ 16 + k.ctx.toNat * 2 ^ 32)
  else if o = 0x010 then k.pc.setWidth 64
  else if o < 0x180 then k.sreg ⟨(o - 0x100) / 8 % 16, Nat.mod_lt _ (by decide)⟩
  else if o < 0x1C0 then (k.lcreg ⟨(o - 0x180) / 8 % 8, Nat.mod_lt _ (by decide)⟩).setWidth 64
  else if o = 0x1C0 then k.cmp.setWidth 64
  else if o = 0x200 then
    BitVec.ofNat 64 (k.occ .beam + k.occ .plane0 * 2 ^ 5 + k.occ .plane1 * 2 ^ 11 + k.occ .cart0 * 2 ^ 17 +
      k.occ .cart1 * 2 ^ 23 + k.occ .grind * 2 ^ 29)
  else if o < 0x340 then k.recordWord .beam ((o - 0x300) / 8)
  else if o < 0x360 then k.recordWord .plane0 ((o - 0x340) / 8)
  else if o < 0x380 then k.recordWord .plane1 ((o - 0x360) / 8)
  else if o < 0x3C0 then k.recordWord .cart0 ((o - 0x380) / 8)
  else k.recordWord .cart1 ((o - 0x3C0) / 8)

/-! ### Synchronisation objects (R232) -/

/-- Units among the waiters of an object: kingposts and engines, of which each waits once; a WAIT descriptor is none (R232). -/
def unitsWaiting (ws : List Waiter) : Nat :=
  min 896 (ws.filter (fun w => match w.who with
    | .kingpost _ => true | .command _ _ => true | .descriptor _ _ => false | .peer _ => false)).length

/-- The registers of objects, their counts of waiters included. -/
def Peg.shown (g : Peg) : Word := BitVec.ofNat 64 (g.word.toNat + unitsWaiting g.waiters * 2 ^ 18)
def Bell.shown (b : Bell) : Word := BitVec.ofNat 64 (b.word.toNat + unitsWaiting b.waiters * 2 ^ 42)

/-- TALLY_CFG. -/
def Tally.cfgWord (t : Tally) : Word :=
  BitVec.ofNat 64 (t.depth.toNat + boolNat t.consEn * 2 ^ 16 + t.cons.toNat * 2 ^ 17 + boolNat t.peerEn * 2 ^ 31 +
    t.peerFab.toNat * 2 ^ 32 + boolNat t.depthF * 2 ^ 44)

/-! ### Channels and joints (R170, R214, R253) -/

/-- GRAN_STAT of a granary channel. -/
def State.granStat (s : State) (g : GranChan) : Word :=
  let busy := ((s.running g).map (fun p => 2 ^ p.val)).foldl (· + ·) 0
  BitVec.ofNat 64 (gStateCode (s.gchan g).mode + busy * 2 ^ 2 + (s.gchan g).starts.toNat * 2 ^ 32)

/-- STATE of JT_STATE. -/
def jointCode : JointState → Nat
  | .free => 0 | .open_ => 1 | .committing => 2 | .aborted => 3

/-- JT_STATE. -/
def Joint.stateWord (j : Joint) : Word :=
  BitVec.ofNat 64 (jointCode j.st + boolNat (j.dirty.any DirtyPage.mirrored) * 2 ^ 2 + j.dirty.length * 2 ^ 3 +
    j.lastStatus.toNat * 2 ^ 16 + j.openTag.toNat * 2 ^ 32)

/-- JT_FREE: pages of the pool that hold no shadow. -/
def State.jointFree (s : State) (p : PartId) : Word :=
  BitVec.ofNat 64 (s.fld (oJT_POOL p.val) 15 0 - (s.part p).shadowPages.length)

/-- A register of a joint block that shows joints. -/
def State.jointWord (s : State) (p : PartId) (o : Nat) : Word :=
  if o = 8 then s.jointFree p else (s.joint p ((o - 0x100) / 8 + 1)).stateWord

/-! ### Reading a register -/

/-- Word i of a log or buffer of entries of `n` words. -/
def entryWord {w : Nat} (m : Tab (BitVec w)) (n i : Nat) : Word :=
  BitVec.ofNat 64 ((tabGet (fun _ => 0) (i / n) m).toNat / 2 ^ (64 * (i % n)))

/-- A register of a channel's block that is a view. -/
def State.channelWord (s : State) (n : ChanId) (o : Nat) : Word :=
  if o < 0x800 then entryWord s.channelLog 2 (128 * n.val + (o - 0x400) / 8)
  else match asGran n with
    | some g => s.granStat g
    | none => 0

/-- The contents of a register that is a view, at its PF0 offset, as a function reads it. -/
def State.viewWord (s : State) (fn : FnId) (o : Nat) : Word :=
  if o = oFLUSH then (tabGet (fun _ => 0) fn.val s.flushCount).setWidth 64
  else if o = oCLK_TIME then BitVec.ofNat 64 s.stamp
  else if o < 0x300000 then s.channelWord ⟨(o - 0x200000) / 0x1000 % 256, Nat.mod_lt _ (by decide)⟩ (o % 0x1000)
  else if o < 0x500000 then s.jointWord ⟨(o - 0x440000) / 0x1000 % 32, Nat.mod_lt _ (by decide)⟩ (o % 0x1000)
  else if o < 0x580000 then (s.peg ((o - 0x500000) / 8)).shown
  else if o < 0x5A0000 then (s.core ⟨(o - 0x580000) / 0x400 % 128, Nat.mod_lt _ (by decide)⟩).debugWord (o % 0x400)
  else if o < 0x5E0000 then
    let t := s.tally ((o - 0x5A0000) / 16)
    if o % 16 = 0 then t.value else t.cfgWord
  else if o < 0x5F0000 then (s.bell ((o - 0x5E0000) / 8)).shown
  else if o < 0x680000 then entryWord s.faultLog 4 (1024 * ((o - 0x600000) / 0x4000) + (o % 0x4000 - 0x2000) / 8)
  else if o < 0x700000 then entryWord s.moduleLog 4 ((o - 0x688000) / 8)
  else entryWord s.trace 4 ((o - 0x780000) / 8)

/-- PARTITION of RT_CTL: the owner of a ring by the partition table as written. -/
def State.ringOwner (s : State) (r : RingId) : Nat := match s.written.partOfRing r with | some p => p.val | none => 0

/-- Registers that a loft channel does not have (R170). -/
def loftHole (o : Nat) : Bool :=
  decide (0x200000 ≤ o) && decide (o < 0x300000) && decide (0x800 ≤ o % 0x1000) && (o - 0x200000) / 0x1000 / 32 % 2 == 0

/-- The bits of a register that a read returns: neither reserved nor write-only (R6, R8). -/
def readableBits (fs : List Field) : Word := (fs.filter (fun f => decide (f.access ≠ .wo))).foldl (fun m f => m ||| f.mask) 0

/-- What a read of a whole register returns. -/
def State.regRead (s : State) (fn : FnId) (o : Nat) (r : RegSpec) : Word :=
  if loftHole o then 0
  else
    let w := if r.home = .view then s.viewWord fn o else s.reg o
    let x := if 0x100000 ≤ o ∧ o < 0x180000 ∧ o % 64 = 0 then
      setBits w 12 8 (s.ringOwner ⟨(o - 0x100000) / 64 % 8192, Nat.mod_lt _ (by decide)⟩) else w
    x &&& readableBits r.fields

/-! ### Sizes (R373) -/

/-- What an access of a size at an offset reaches. -/
inductive Reach where
  /-- Its size or alignment is not one of those allowed, or it spans two registers. -/
  | bad
  /-- No register is there. -/
  | hole
  | reg (o : Nat) (r : RegSpec) (a : Acc)

/-- The register or the half of one that an access reaches. -/
def reach (o size : Nat) : Reach :=
  if size = 8 ∧ o % 8 = 0 then
    match regAt o with
    | some r => if r.bytes = 4 then .bad else .reg o r .full
    | none => .hole
  else if size = 4 ∧ o % 4 = 0 then
    match regAt o with
    | some r => .reg o r .lo
    | none =>
      match (if o % 8 = 4 then regAt (o - 4) else none) with
      | some r => if r.bytes = 4 then .hole else .reg (o - 4) r .hi
      | none => .hole
  else .bad

/-- The bytes of a read through one half or the whole of a register. -/
def accBytes : Acc → Word → List Byte
  | .full, w => natLe 8 w.toNat
  | .lo, w => natLe 4 w.toNat
  | .hi, w => natLe 4 (w.toNat / 2 ^ 32)

/-- Clear the read-to-clear fields that lie wholly inside the access. -/
def State.clearRc (s : State) (o : Nat) (r : RegSpec) (a : Acc) : State :=
  (r.fields.filter (fun f => decide (f.access = .rc) && decide (f.mask &&& ~~~(accMask a) = 0))).foldl
    (fun t f => t.setFld o f.hi f.lo 0) s

/-- The answer to a read. -/
def State.answerRead (s : State) (fn : FnId) (bs : List Byte) : State := s.send (.pcie fn .success bs)

/-- A read that is served, at a PF0 offset; `off` is the offset to log. -/
def State.readAt (s : State) (fn : FnId) (off o size : Nat) : State :=
  match reach o size with
  | .bad => (s.logAccess off fn 2 0).answerRead fn (List.replicate size 0)
  | .hole => s.answerRead fn (List.replicate size 0)
  | .reg b r a => (s.clearRc b r a).answerRead fn (accBytes a (s.regRead fn b r))

/-- A read of BAR0: any register (log entry 21). One of FLUSH completes as R259 states. -/
def execRcFieldRead (fn : FnId) (off : BitVec 23) (size : Nat) (s : State) : Res :=
  let o := off.toNat
  let t := (s.viewed fn o).getD o
  if t = oFLUSH ∧ (size = 4 ∨ size = 8) then execFlushRead fn s
  else whenever s.power.configReady s
    (if !s.ready && decide (0x30000 ≤ t) then s.ignored.answerRead fn (List.replicate size 0)
     else match s.viewed fn o with
       | some x => s.readAt fn o x size
       | none => s.readAt fn o (0x80 + o % 8) size)

end Sys2Proof.Machine
end

