-- ==== Sys2Proof/Machine/Bringup.lean ====
section
/-! DEFINITION. Power, clock and bring-up: rails, power-down, the root PLL, the loader and the firmware's start, temperature
(R353 to R369, R389, R390). -/

namespace Sys2Proof.Machine

def State.modPower (s : State) (f : Power → Power) : State := { s with power := f s.power }

/-! ### Rails (R356, R357, R389, R390) -/

/-- The rails may start to rise: the input is charged, MOD_EN is high, and no power-down is under way. -/
def Power.mayRise (p : Power) : Bool := decide (p.input = .charged) && p.modEn && decide (p.rails = .down) && !p.holdoff

/-- Start the sequence of the rails, if it may start. -/
def State.raiseRails (s : State) : State :=
  if s.power.mayRise then s.modPower (fun p => { p with rails := .rising, inRegulation := 0 }) else s

/-- Power-down: PWRGD falls, the rails fall in the reverse order, and nothing is kept. What reaches the module from outside
stays: the commands that wait, the levels of its inputs. -/
def State.powerDown (s : State) : State :=
  let p : Power := { s.power with
    rails := .falling, inRegulation := 0, pwrgd := false, holdoff := true, locked := false
    perst := true, ltssm := false, configReady := false, hot := false }
  let t : State := { State.reset with
    pending := s.pending, outbox := s.outbox, freeIdx := s.freeIdx, nextId := s.nextId
    power := p, i3c := { mchainIn := s.i3c.mchainIn } }
  let u := if s.power.pwrgd then t.send (.pwrgd false) else t
  if s.i3c.mchainOut then u.send (.mchainOut false) else u

/-- The power-down that a failing rail or input starts: a paired module sends its fatal notice first. -/
def State.railLost (s : State) : State :=
  (if s.twState = 2 ∧ !s.failed then s.send .fatalNotice else s).powerDown

def execModEnRise (s : State) : Res :=
  always true s (s.modPower (fun p => { p with modEn := true })).raiseRails

def execModEnFall (s : State) : Res :=
  let t := s.modPower (fun p => { p with modEn := false })
  always true s (if s.power.rails = .up ∨ s.power.rails = .rising then t.powerDown else t)

/-- Each rail must reach regulation before the next one starts; after the last, PWRGD rises. -/
def execRailInRegulation (rail : Fin 7) (s : State) : Res :=
  let n := s.power.inRegulation + 1
  let t := s.modPower (fun p => { p with inRegulation := n })
  always (decide (s.power.rails = .rising) && rail.val == s.power.inRegulation) s
    (if n = 7 then (t.modPower (fun p => { p with rails := .up, pwrgd := true })).send (.pwrgd true) else t)

def execRailFault (rail : Fin 7) (s : State) : Res :=
  let _ := rail
  always s.power.pwrgd s s.railLost

/-- The input rises above 40 V while the module has no power. -/
def execInputRise (s : State) : Res :=
  always (!s.power.pwrgd && decide (s.power.rails ≠ .rising)) s (s.modPower (fun p => { p with input := .charging }))

def execBulkChargeDone (s : State) : Res :=
  always (decide (s.power.input = .charging)) s (s.modPower (fun p => { p with input := .charged })).raiseRails

def execInputOutOfRange (s : State) : Res := always s.power.pwrgd s s.railLost

/-- The power-down is complete and 100 ms have passed: the module acts on the level of MOD_EN. -/
def execModEnHoldoffEnd (s : State) : Res :=
  always s.power.holdoff s (s.modPower (fun p => { p with rails := .down, holdoff := false })).raiseRails

/-! ### The root clock (R354, R355) -/

/-- The epoch: every counter starts from cycle 0, and each enabled Belora link starts to train (R363). -/
def execRootLock (s : State) : Res :=
  let t : State := { s.modPower (fun p => { p with locked := true }) with cycles := 0 }
  let u := (List.finRange 18).foldl (fun t (l : LinkId) => if t.bit (oBL_CTL l) 0 then t.setFld (oBL_STAT l) 1 0 1 else t) t
  whenever (!s.power.locked) s (u.setFld oCLK_STAT 0 0 1)

/-- Loss of lock: every unit stops, and no notice can be sent. -/
def execPllLoss (s : State) : Res :=
  let t := s.modPower (fun p => { p with locked := false })
  always (s.power.pwrgd && s.power.locked) s { t.setFld oTW_STAT 2 0 5 with failed := true }

/-! ### The loader (R358 to R364) -/

/-- Set STATE, ERROR and DETAIL of BOOT_STAT. -/
def State.bootStat (s : State) (state err detail : Nat) : State :=
  ((s.setFld oBOOT_STAT 3 0 state).setFld oBOOT_STAT 15 8 err).setFld oBOOT_STAT 63 32 detail

/-- A load fails with a code (R361, R368). -/
def State.bootError (s : State) (code detail : Nat) : State := (s.bootStat 5 code detail).inBand 0x03

def execConfigSpaceReady (s : State) : Res :=
  let t := s.modPower (fun p => { p with configReady := true })
  whenever (s.power.locked && !s.power.configReady) s (t.setFld oBOOT_STAT 3 0 1)

def execPerstDeassert (s : State) : Res :=
  whenever s.power.perst s (s.modPower (fun p => { p with perst := false, ltssm := true }))

def State.imgLen (s : State) : Nat := s.fld oIMG_LEN 23 0
def State.dlyLen (s : State) : Nat := s.fld oDLY_LEN 15 0

/-- GO starts the reads of the image and of the delay file, if PF0 may master the bus. -/
def State.bootLoad (s : State) : State :=
  if !s.boot.busMaster then s.bootError 0x08 0
  else
    (((s.bootStat 2 0 0).hostRead 0 (64 * s.fld oIMG_ADDR 63 6) s.imgLen .firmware).2.hostRead 0
      (64 * s.fld oDLY_ADDR 63 6) s.dlyLen .firmware).2

/-- A GO in WAIT_IMAGE or ERROR starts a load; any other is counted. -/
def execBootGo (fn : FnId) (s : State) : Res :=
  bar0Write s fn oBOOT_CTL 1 (fun _ => if s.bootState = 1 ∨ s.bootState = 5 then s.bootLoad else s.ignored)

/-- The first check of R359 that an image fails: code and detail. -/
def imageFault (img : List Byte) (len : Nat) : Option (Nat × Nat) :=
  let codeLen := fieldLe img 12 4
  let crc := crc32c (sliceBytes img 64 (len - 64))
  if fieldLe img 0 4 ≠ 0x315A5747 then some (0x01, 0)
  else if fieldLe img 4 1 ≠ 0xB1 then some (0x02, fieldLe img 4 1)
  else if len < 72 ∨ 8 * 2 ^ 20 < len ∨ len ≠ codeLen + 64 ∨ codeLen ≤ fieldLe img 20 4 then some (0x03, len)
  else if crc ≠ fieldLe img 16 4 then some (0x04, crc)
  else none

/-- A byte of the delay file holds a nonzero bit that R359 requires to be zero. -/
def delayByteBad (dly : List Byte) (o : Nat) : Bool :=
  let b := sliceBytes dly o 1 != [0]
  if o < 32 then false
  else if o < 64 then b
  else if (o - 64) % 32 < 19 then bitOf (fieldLe dly o 1) 7
  else b

/-- Length of a delay file. -/
def delaySize : Nat := 8256

/-- Byte offsets at which a delay file of the right length is wrong. -/
def delayFaults (dly : List Byte) : List Nat :=
  (if fieldLe dly 0 4 ≠ 0x4C44565A then [0] else []) ++
    (if crc32c (sliceBytes dly 64 8192) ≠ fieldLe dly 28 4 then [28] else []) ++
    (List.range delaySize).filter (delayByteBad dly)

/-- The identity in a delay file differs from the fused one. -/
def delayForeign (dly : List Byte) : Bool :=
  fieldLe dly 4 8 != (Config.serial 0).toNat || fieldLe dly 12 8 != (Config.serial 1).toNat ||
    fieldLe dly 20 8 != Config.uniqueId.toNat

/-- The image has passed its checks: the delay file is checked, and the loader enters the image. Of a file of the wrong length
no byte is the faulty one: DETAIL is open (log entry 22). -/
def State.checkDelays (s : State) (img dly : List Byte) : State :=
  if s.dlyLen ≠ delaySize then
    let (w, t) := s.fresh
    t.bootError 0x05 (w.toNat % 2 ^ 32)
  else match delayFaults dly with
    | o :: _ => s.bootError 0x05 o
    | [] =>
      if delayForeign dly then s.bootError 0x06 0
      else { s.bootStat 3 0 0 with boot := { s.boot with image := img, delays := dly } }

/-- Both fetches have been answered. -/
def State.bootFetched (s : State) (image delays : HostAnswer) : State :=
  match image, delays with
  | .good img, .good dly =>
    match imageFault img s.imgLen with
    | some (c, d) => s.bootError c d
    | none => s.checkDelays img dly
  | .good _, _ => s.bootError 0x07 (hostStatus delays)
  | .ur, _ => s.bootError 0x07 (hostStatus image)
  | .poison, _ => s.bootError 0x07 (hostStatus image)

def execBootFetchDone (image delays : HostAnswer) (s : State) : Res :=
  let t : State := { s with hostReads := s.hostReads.filter (fun r => decide (r.purpose ≠ .firmware)) }
  whenever (s.bootState == 2) s (t.bootFetched image delays)

/-! ### The firmware's start (R362) -/

/-- Load the delays of a channel from its record and enable it. -/
def State.bootChan (s : State) (n : ChanId) : State :=
  let rec_ := sliceBytes s.boot.delays (64 + 32 * n.val) 32
  let t := (List.range 9).foldl (fun t k =>
    (t.setFld (oDLY_LANE n k) 6 0 (fieldLe rec_ (2 * k) 1 % 128)).setFld (oDLY_LANE n k) 14 8
      (fieldLe rec_ (2 * k + 1) 1 % 128)) s
  (((t.setFld (oDLY_CA n) 6 0 (fieldLe rec_ 18 1 % 128)).setFld (oCH_CTL n) 0 0 1)).enableChan n

/-- An error log pointer or a telemetry counter of a channel. -/
def channelTally (o : Nat) : Bool :=
  decide (0x200000 ≤ o) && decide (o < 0x300000) &&
    (o % 0x1000 == 0x68 || (decide (0x100 ≤ o % 0x1000) && decide (o % 0x1000 < 0x138)))

/-- Steps 1 to 4: channels enabled, every line zero with valid check bits, channel logs and counters cleared. -/
def State.prepareMemory (s : State) : State :=
  let t : State := (List.finRange 256).foldl State.bootChan s
  { t with mem := [], lineErr := [], channelLog := [], regs := t.regs.filter (fun e => !channelTally e.1) }

/-- READY, with the identity of the running image. -/
def State.becomeReady (s : State) : State :=
  (s.bootStat 4 0 0).setReg oFW_ID (BitVec.ofNat 64 (fieldLe s.boot.image 8 4 + fieldLe s.boot.image 16 4 * 2 ^ 32))

def execFwReady (badChannel : Option ChanId) (s : State) : Res :=
  whenever (s.bootState == 3) s
    (match badChannel with
     | none => s.prepareMemory.becomeReady
     | some n => s.prepareMemory.bootError 0x09 n.val)

def execFwStartTimeout (detail : BitVec 32) (s : State) : Res :=
  whenever (s.bootState == 3) s (s.bootError 0x0A detail.toNat)

/-! ### Temperature (R369, R376) -/

/-- Some temperature is above a limit in degrees. -/
def above (ts : List (BitVec 16)) (degrees : Int) : Bool := ts.any (fun t => decide (16 * degrees < t.toInt))

def thermalWarm (r : ThermalReading) : Bool := above r.dieTemps 95 || above r.stackTemps 85
def thermalLimit (r : ThermalReading) : Bool := above r.dieTemps 110 || above r.stackTemps 95

/-- The readings reach their registers. -/
def State.takeReadings (s : State) (r : ThermalReading) : State :=
  let put := fun (o : Nat → Nat) (t : State) (x : BitVec 16 × Nat) => t.setFld (o x.2) 15 0 x.1.toNat
  let t := r.stackTemps.zipIdx.foldl (put oTEMP_STACK) (r.dieTemps.zipIdx.foldl (put oTEMP_DIE) s)
  (t.setFld oPWR_IN 15 0 r.power.toNat).setFld oPWR_IN 31 16 r.vin.toNat

/-- A warning: THERM_STAT, the event of every partition, the in-band interrupt. -/
def State.warn (s : State) : State :=
  (allParts.foldl (fun t p => t.raise p 0x0005 (t.ctxOf p) 0) (s.setFld oTHERM_STAT 0 0 1)).inBand 0x01

def execThermalSample (r : ThermalReading) (s : State) : Res :=
  checkedIf r.wf "THERMAL_SAMPLE"
    (let t := (s.takeReadings r).modPower (fun p => { p with hot := thermalLimit r })
     let u := if thermalWarm r then t.warn else t
     whenever s.power.locked s
       (if thermalLimit r && s.power.hot then ((u.inBand 0x02).moduleFail).powerDown else u))

end Sys2Proof.Machine
end

