-- ==== Sys2Proof/Machine/I3c.lean ====
section
/-! DEFINITION. The management chain: dynamic addresses, common command codes, private transfers (R366 to R368). -/

namespace Sys2Proof.Machine

def State.modI3c (s : State) (f : I3c → I3c) : State := { s with i3c := f s.i3c }

/-- The I3C target answers: 2 ms have passed since power-good, counted from the epoch (log entry 23); it answers in FAILED
also, unless the root clock is lost. -/
def State.managed (s : State) : Bool :=
  s.power.pwrgd && s.power.locked && (s.power.configReady || decide (20000000 ≤ s.cycles))

/-- The target holds a dynamic address. -/
def State.addressed (s : State) : Bool := s.managed && s.i3c.addr.isSome

/-- MCHAIN_OUT takes a level. -/
def State.chainOut (s : State) (level : Bool) : State :=
  if s.i3c.mchainOut = level then s else (s.modI3c (fun x => { x with mchainOut := level })).send (.mchainOut level)

/-- Dynamic address assignment: a module that does not take part gives no acknowledgement. -/
def execEntdaa (addr : BitVec 7) (mchainIn : Bool) (s : State) : Res :=
  let t := s.modI3c (fun x => { x with mchainIn := mchainIn })
  always true s
    (if s.managed && s.i3c.addr.isNone && mchainIn then
       ((t.modI3c (fun x => { x with addr := some addr })).send (.i3cAck true)).chainOut true
     else t.send (.i3cAck false))

def execRstdaa (s : State) : Res :=
  always s.managed s ((s.modI3c (fun x => { x with addr := none })).chainOut false)

def execSetnewda (addr : BitVec 7) (s : State) : Res :=
  always s.addressed s ((s.modI3c (fun x => { x with addr := some addr })).send (.i3cAck true))

/-- The answer to a command that reads `n` bytes. -/
def State.answerI3c (s : State) (n v : Nat) : State := s.send (.i3c (natLe n v))

/-- The provisioned ID of 48 bits: its low 32 bits are those of the unique ID. -/
def execGetpid (s : State) : Res :=
  always s.addressed s
    (s.answerI3c 6 (Config.uniqueId.toNat % 2 ^ 32 + (Config.i3cAnswer 0).toNat % 2 ^ 16 * 2 ^ 32))

def execGetbcr (s : State) : Res := always s.addressed s (s.answerI3c 1 (Config.i3cAnswer 1).toNat)
def execGetdcr (s : State) : Res := always s.addressed s (s.answerI3c 1 (Config.i3cAnswer 2).toNat)

/-- The device status: what it holds at a moment is open. -/
def execGetstatus (s : State) : Res :=
  let f := s.fresh
  always s.addressed s (f.2.answerI3c 2 f.1.toNat)

def execGetmxds (s : State) : Res := always s.addressed s (s.answerI3c 2 (Config.i3cAnswer 3).toNat)

def execEnec (ev : I3cEvents) (s : State) : Res :=
  always s.managed s (if ev.inBandInterrupt then s.modI3c (fun x => { x with ibi := true }) else s)

def execDisec (ev : I3cEvents) (s : State) : Res :=
  always s.managed s (if ev.inBandInterrupt then s.modI3c (fun x => { x with ibi := false }) else s)

/-- A private write of 4 bytes sets the offset; any other is ignored and logged. The specification gives the entry no contents:
they are free. -/
def execI3cPrivateWrite (data : List Byte) (s : State) : Res :=
  let f := s.fresh
  let g := f.2.fresh
  always s.addressed s
    (if data.length = 4 ∧ leNat data % 8 = 0 then s.modI3c (fun x => { x with off := leNat data })
     else g.2.logModule { type := 0x10, d1 := f.1.toNat, d2 := g.1.toNat })

/-- The offset is one that the management controller may read. -/
def i3cReadable (o : Nat) : Bool :=
  decide (o < 0x30000) || (decide (0x600000 ≤ o) && decide (o < 0x800000)) ||
    (decide (0x200000 ≤ o) && decide (o < 0x300000) && decide (0x100 ≤ o % 0x1000) && decide (o % 0x1000 < 0x138))

/-- The byte at an offset; a read-to-clear field is not cleared. -/
def State.i3cByte (s : State) (o : Nat) : Byte :=
  if !i3cReadable o then 0
  else match regAt (o / 8 * 8) with
    | some r => BitVec.ofNat 8 ((s.regRead 0 (o / 8 * 8) r).toNat / 2 ^ (8 * (o % 8)))
    | none => 0

/-- A private read of up to 256 bytes; the offset advances. -/
def execI3cPrivateRead (len : Nat) (s : State) : Res :=
  let n := min len 256
  always s.addressed s
    ((s.send (.i3c ((List.range n).map (fun i => s.i3cByte (s.i3c.off + i))))).modI3c
      (fun x => { x with off := x.off + n }))

end Sys2Proof.Machine
end

