-- ==== Sys2Proof/Machine/RegOps.lean ====
section
/-! DEFINITION. A write through BAR0 at any offset: registers without a row of their own, their refusals, and the way to
the rows that have one (R42, R170, R214, R231, R232, R253, R271, R310, R352, R372 to R374, R379). -/

namespace Sys2Proof.Machine

/-- The state a meaning answers; a refusal leaves the state. -/
def stateOf (s : State) : Res → State
  | .next t => t
  | .fault _ => s
  | .refused _ => s

/-! ### Registers with a row of their own -/

/-- A write of KP_DBG_CTL: HALT, RESUME and STEP, in the order of their bits (log entry 24). -/
def State.debugCtl (s : State) (fn : FnId) (c : CoreId) (l : Nat) (a : Acc) (v : Word) : State :=
  let w := accWord a v
  let s1 := s.noteWrite fn l (fieldsAt (oKP c 0)) a v noField
  let act := fun (t : State) (f : PartId → State) => match t.partOfCore c with | some p => f p | none => t
  let s2 := if w.getLsbD 0 then act s1 s1.haltPart else s1
  let s3 := if w.getLsbD 1 then act s2 s2.resumePart else s2
  if w.getLsbD 2 then stateOf s3 (execDebugStep fn c s3) else s3

/-- A write-only request bit: what it does where it is written 1. -/
def State.request1 (s : State) (fn : FnId) (o l : Nat) (a : Acc) (v : Word) (r : State → Res) : State :=
  let t := s.noteWrite fn l (fieldsAt o) a v noField
  if (accWord a v).getLsbD 0 then stateOf t (r t) else t

/-- The row that a write to a register is a command of, if one is. -/
def State.rowWrite (s : State) (fn : FnId) (o : Nat) (a : Acc) (v : Word) : Option State :=
  let ch : ChanId := ⟨(o - 0x200000) / 0x1000 % 256, Nat.mod_lt _ (by decide)⟩
  if o = oNUDGE then some (stateOf s (execNudge fn a v s))
  else if o = oBAR2_MAP then some (stateOf s (execBar2MapWrite fn a v s))
  else if o = oHC_CTL then some (stateOf s (execHcCtlWrite fn a v s))
  else if o = oPWR_CAP then some (stateOf s (execPwrCapWrite fn a v s))
  else if o = oTW_CTL then some (stateOf s (execTwCtlWrite fn a v s))
  else if o = oFB_CTL then some (stateOf s (execFbCtlWrite fn a v s))
  else if 0x100000 ≤ o ∧ o < 0x180000 ∧ o % 64 = 0 then
    some (stateOf s (execRtCtlWrite fn ⟨(o - 0x100000) / 64 % 8192, Nat.mod_lt _ (by decide)⟩ a v s))
  else if 0x180000 ≤ o ∧ o < 0x190000 ∧ o % 0x800 ≠ 0x7F8 then
    some (stateOf s (execPartitionTableWrite fn ⟨(o - 0x180000) / 0x800 % 32, Nat.mod_lt _ (by decide)⟩
      (BitVec.ofNat 11 (o % 0x800)) a v s))
  else if 0x200000 ≤ o ∧ o < 0x300000 ∧ o % 0x1000 = 0 then some (stateOf s (execChCtlWrite fn ch a v s))
  else if 0x200000 ≤ o ∧ o < 0x300000 ∧ o % 0x1000 = 0x68 then some (stateOf s (execElogPtrWrite fn ch a v s))
  else if 0x500000 ≤ o ∧ o < 0x580000 then
    some (stateOf s (execPegWrite fn (BitVec.ofNat 16 ((o - 0x500000) / 8)) a v s))
  else if 0x5A0000 ≤ o ∧ o < 0x5E0000 ∧ o % 16 = 0 then
    some (stateOf s (execTallyValWrite fn (BitVec.ofNat 14 ((o - 0x5A0000) / 16)) a v s))
  else if 0x5E0000 ≤ o ∧ o < 0x5E8000 then
    some (stateOf s (execBellWrite fn (BitVec.ofNat 12 ((o - 0x5E0000) / 8)) a v s))
  else if 0x5F0000 ≤ o ∧ o < 0x5F2000 ∧ o % 0x100 = 0 then
    some (stateOf s (execWmCtlWrite fn ⟨(o - 0x5F0000) / 0x100 % 32, Nat.mod_lt _ (by decide)⟩ a v s))
  else none

/-- The same for the registers of which only a bit written 1 is a command. -/
def State.bitWrite (s : State) (fn : FnId) (o l : Nat) (a : Acc) (v : Word) : Option State :=
  let ch : ChanId := ⟨(o - 0x200000) / 0x1000 % 256, Nat.mod_lt _ (by decide)⟩
  if o = oBOOT_CTL then some (s.request1 fn o l a v (execBootGo fn))
  else if 0x180000 ≤ o ∧ o < 0x190000 ∧ o % 0x800 = 0x7F8 then
    some (s.request1 fn o l a v (execPtAbortGo fn ⟨(o - 0x180000) / 0x800 % 32, Nat.mod_lt _ (by decide)⟩))
  else if 0x200000 ≤ o ∧ o < 0x300000 ∧ o % 0x1000 = 0xC00 then some (s.request1 fn o l a v (execQprogLoad fn ch))
  else if 0x580000 ≤ o ∧ o < 0x5A0000 ∧ o % 0x400 = 0 then
    some (s.debugCtl fn ⟨(o - 0x580000) / 0x400 % 128, Nat.mod_lt _ (by decide)⟩ l a v)
  else none

/-! ### Refusals (R214, R253, R271, R310, R352) -/

/-- EN of the ring whose entry holds an offset. -/
def State.ringEnAt (s : State) (o : Nat) : Bool := s.bit (o / 64 * 64) 0

/-- Some joint of a partition is not FREE. -/
def State.jointBusy (s : State) (p : PartId) : Bool := (s.part p).joints.any (fun e => decide (e.2.st ≠ .free))

/-- The partition of a joint block. -/
def jointPart (o : Nat) : PartId := ⟨(o - 0x440000) / 0x1000 % 32, Nat.mod_lt _ (by decide)⟩

/-- A register of the ring table that EN protects: RT_DESC, RT_CPL, RT_SIZE. -/
def ringHeld (o : Nat) : Bool :=
  decide (0x100000 ≤ o) && decide (o < 0x180000) && decide (8 ≤ o % 64) && decide (o % 64 < 0x20)

/-- A rule refuses the write of a whole register: `w` is the word it would hold. -/
def State.refusesReg (s : State) (o : Nat) (w : Word) : Bool :=
  (ringHeld o && s.ringEnAt o) ||
    (decide (0x440000 ≤ o) && decide (o < 0x460000) && o % 0x1000 == 0 && s.jointBusy (jointPart o)) ||
    ((o == oFB_ADDR || o == oFB_VC) && s.bit oFB_CTL 0) ||
    (o == oFB_VC && (decide (16 < getBits w 4 0) || decide (getBits w 4 0 < s.written.c0Sum))) ||
    (decide (0x400008 ≤ o) && decide (o < 0x400400) && s.twOn && (fieldsAt o).any Field.writable)

/-- A rule refuses the write of a field. -/
def State.refusesField (s : State) (o : Nat) (w : Word) (f : Field) : Bool :=
  let inChan := decide (0x200000 ≤ o) && decide (o < 0x300000)
  let k := o % 0x1000
  (inChan && decide (0x10 ≤ k) && decide (k ≤ 0x58) && s.bit (o - k) 0 && f.writable) ||
    (decide (0x300000 ≤ o) && decide (o < 0x390000) && o % 0x8000 == 0 && f.lo == 1 && decide (8 < getBits w 4 1)) ||
    (decide (0x580000 ≤ o) && decide (o < 0x5A0000) &&
      !(s.core ⟨(o - 0x580000) / 0x400 % 128, Nat.mod_lt _ (by decide)⟩).halted)

/-! ### Registers that show typed parts -/

/-- KP_SREG, KP_LC and KP_CMP (R42). -/
def Core.setDebug (k : Core) (o : Nat) (w : Word) : Core :=
  if o < 0x100 then k
  else if o < 0x180 then k.setS ⟨(o - 0x100) / 8 % 16, Nat.mod_lt _ (by decide)⟩ w
  else if o < 0x1C0 then k.setLc ⟨(o - 0x180) / 8 % 8, Nat.mod_lt _ (by decide)⟩ (w.setWidth 32)
  else if o = 0x1C0 then { k with cmp := w.setWidth 4 }
  else k

/-- TALLY_CFG (R232). -/
def Tally.setCfg (t : Tally) (w : Word) : Tally :=
  { t with
    depth := w.setWidth 16
    consEn := w.getLsbD 16
    cons := BitVec.ofNat 14 (getBits w 30 17)
    peerEn := w.getLsbD 31
    peerFab := BitVec.ofNat 12 (getBits w 43 32)
    depthF := w.getLsbD 44 }

/-- A register that is a view takes a word. -/
def State.setView (s : State) (o : Nat) (w : Word) : State :=
  if 0x580000 ≤ o ∧ o < 0x5A0000 then
    s.modCore ⟨(o - 0x580000) / 0x400 % 128, Nat.mod_lt _ (by decide)⟩ (fun k => k.setDebug (o % 0x400) w)
  else if 0x5A0000 ≤ o ∧ o < 0x5E0000 then
    let n := (o - 0x5A0000) / 16
    (s.setTally n ((s.tally n).setCfg w)).serveTallies
  else s

/-! ### What a changed setting does -/

/-- A link is disabled or enabled (R352). -/
def State.linkEnable (s : State) (l : LinkId) (old : Bool) : State :=
  let on := s.bit (oBL_CTL l) 0
  if old && !on then s.downLink l
  else if !old && on then s.setFld (oBL_STAT l) 1 0 1
  else s

/-- After a write of a register: a pool of shadow pages begins anew, a link follows its EN. -/
def State.afterWrite (s : State) (old : Word) (o : Nat) : State :=
  if 0x440000 ≤ o ∧ o < 0x460000 ∧ o % 0x1000 = 0 then
    s.modPart (jointPart o) (fun q => { q with poolGone := [], poolJoined := [] })
  else if 0x300000 ≤ o ∧ o < 0x390000 ∧ o % 0x8000 = 0 then
    s.linkEnable ⟨(o - 0x300000) / 0x8000 % 18, Nat.mod_lt _ (by decide)⟩ (old.getLsbD 0)
  else s

/-- A write of a register that has no row of its own. -/
def State.plainWrite (s : State) (fn : FnId) (o l : Nat) (r : RegSpec) (a : Acc) (v : Word) : State :=
  let fs := r.fields
  let old := s.regRead fn o r
  if s.refusesReg o (mergeWrite fs old a v noField) then
    (if accWord a v &&& reservedBits fs ≠ 0 then s.logAccess l fn 0 v else s).refuseWrite fn l v
  else
    let no := s.refusesField o (mergeWrite fs old a v noField)
    if r.home = .view then (s.noteWrite fn l fs a v no).setView o (mergeWrite fs old a v no)
    else (s.wordWrite fn l o fs a v no).afterWrite (s.reg o) o

/-- A write that reaches a register. -/
def State.writeAt (s : State) (fn : FnId) (o l : Nat) (r : RegSpec) (a : Acc) (v : Word) : State :=
  if loftHole o then s.logAccess l fn 3 v
  else match s.rowWrite fn o a v with
    | some t => t
    | none => match s.bitWrite fn o l a v with
      | some t => if t.flushCount = s.flushCount then t.countWrite fn else t
      | none => (s.plainWrite fn o l r a v).countWrite fn

/-- A write of `size` bytes at an offset of a function's BAR0: `o` is the PF0 offset it shows. -/
def State.writeBar0 (s : State) (fn : FnId) (off o size : Nat) (v : Word) : State :=
  match reach o size with
  | .bad => s.logAccess off fn 2 v
  | .hole => s.logAccess off fn 3 v
  | .reg b r a => s.writeAt fn b off r a v

def execRegisterWrite (fn : FnId) (off : BitVec 23) (size : Nat) (v : Word) (s : State) : Res :=
  let o := off.toNat
  let t := (s.viewed fn o).getD o
  whenever s.power.configReady s
    (if !s.ready && decide (0x30000 ≤ t) then s.ignored
     else match s.viewed fn o with
       | some x => s.writeBar0 fn o x size v
       | none => s.writeBar0 fn o (0x80 + o % 8) size v)

end Sys2Proof.Machine
end

