-- ==== Sys2Proof/Machine/Dispatch.lean ====
section
/-! DEFINITION. One arm per command of the table: its meaning, in full from Sys2Proof. -/

namespace Sys2Proof.Machine

def exec (i : Instr) (s : State) : Host.Outcome State Fault Refusal :=
  match i with
  | .nop core => Sys2Proof.Machine.execNop core s
  | .endProg core => Sys2Proof.Machine.execEndProg core s
  | .li core rd imm => Sys2Proof.Machine.execLi core rd imm s
  | .lui core rd imm => Sys2Proof.Machine.execLui core rd imm s
  | .mov core rd ra => Sys2Proof.Machine.execMov core rd ra s
  | .time core rd => Sys2Proof.Machine.execTime core rd s
  | .add core rd ra rb => Sys2Proof.Machine.execAdd core rd ra rb s
  | .sub core rd ra rb => Sys2Proof.Machine.execSub core rd ra rb s
  | .and core rd ra rb => Sys2Proof.Machine.execAnd core rd ra rb s
  | .or core rd ra rb => Sys2Proof.Machine.execOr core rd ra rb s
  | .xor core rd ra rb => Sys2Proof.Machine.execXor core rd ra rb s
  | .shl core rd ra rb => Sys2Proof.Machine.execShl core rd ra rb s
  | .shr core rd ra rb => Sys2Proof.Machine.execShr core rd ra rb s
  | .sra core rd ra rb => Sys2Proof.Machine.execSra core rd ra rb s
  | .addi core rd ra imm => Sys2Proof.Machine.execAddi core rd ra imm s
  | .shli core rd ra imm => Sys2Proof.Machine.execShli core rd ra imm s
  | .shri core rd ra imm => Sys2Proof.Machine.execShri core rd ra imm s
  | .srai core rd ra imm => Sys2Proof.Machine.execSrai core rd ra imm s
  | .andi core rd ra imm => Sys2Proof.Machine.execAndi core rd ra imm s
  | .ori core rd ra imm => Sys2Proof.Machine.execOri core rd ra imm s
  | .mul core rd ra rb => Sys2Proof.Machine.execMul core rd ra rb s
  | .mulhu core rd ra rb => Sys2Proof.Machine.execMulhu core rd ra rb s
  | .cmpEq core n ra rb => Sys2Proof.Machine.execCmpEq core n ra rb s
  | .cmpNe core n ra rb => Sys2Proof.Machine.execCmpNe core n ra rb s
  | .cmpLt core n ra rb => Sys2Proof.Machine.execCmpLt core n ra rb s
  | .cmpLtu core n ra rb => Sys2Proof.Machine.execCmpLtu core n ra rb s
  | .cmpGe core n ra rb => Sys2Proof.Machine.execCmpGe core n ra rb s
  | .cmpGeu core n ra rb => Sys2Proof.Machine.execCmpGeu core n ra rb s
  | .br core imm => Sys2Proof.Machine.execBr core imm s
  | .bc core n imm => Sys2Proof.Machine.execBc core n imm s
  | .bnc core n imm => Sys2Proof.Machine.execBnc core n imm s
  | .lcbr core n imm => Sys2Proof.Machine.execLcbr core n imm s
  | .lcset core n ra => Sys2Proof.Machine.execLcset core n ra s
  | .lcseti core n imm => Sys2Proof.Machine.execLcseti core n imm s
  | .lcmov core rd n => Sys2Proof.Machine.execLcmov core rd n s
  | .ld core rd ra imm => Sys2Proof.Machine.execLd core rd ra imm s
  | .st core ra rb imm => Sys2Proof.Machine.execSt core ra rb imm s
  | .flagsRd core rd imm => Sys2Proof.Machine.execFlagsRd core rd imm s
  | .flagsClr core imm => Sys2Proof.Machine.execFlagsClr core imm s
  | .rotaSet core ra rb imm => Sys2Proof.Machine.execRotaSet core ra rb imm s
  | .nativeSkip core bytes => Sys2Proof.Machine.execNativeSkip core bytes s
  | .endOfCode core => Sys2Proof.Machine.execEndOfCode core s
  | .pegTake core id rcnt ra cnt => Sys2Proof.Machine.execPegTake core id rcnt ra cnt s
  | .pegDec core id rcnt ra cnt => Sys2Proof.Machine.execPegDec core id rcnt ra cnt s
  | .pegPost core id rcnt ra cnt => Sys2Proof.Machine.execPegPost core id rcnt ra cnt s
  | .pegRead core rd id => Sys2Proof.Machine.execPegRead core rd id s
  | .tallyAdv core id ra => Sys2Proof.Machine.execTallyAdv core id ra s
  | .tallyWait core id ra => Sys2Proof.Machine.execTallyWait core id ra s
  | .tallyRoom core id => Sys2Proof.Machine.execTallyRoom core id s
  | .tallyRead core rd id => Sys2Proof.Machine.execTallyRead core rd id s
  | .bellArrive core id rcnt ra cnt => Sys2Proof.Machine.execBellArrive core id rcnt ra cnt s
  | .syncAnswer core => Sys2Proof.Machine.execSyncAnswer core s
  | .syncWithdraw core => Sys2Proof.Machine.execSyncWithdraw core s
  | .beamMm core h w => Sys2Proof.Machine.execBeamMm core h w s
  | .beamLoad core h w => Sys2Proof.Machine.execBeamLoad core h w s
  | .beamAcc core h w => Sys2Proof.Machine.execBeamAcc core h w s
  | .planeAdd core h w => Sys2Proof.Machine.execPlaneAdd core h w s
  | .planeSub core h w => Sys2Proof.Machine.execPlaneSub core h w s
  | .planeMul core h w => Sys2Proof.Machine.execPlaneMul core h w s
  | .planeFma core h w => Sys2Proof.Machine.execPlaneFma core h w s
  | .planeMax core h w => Sys2Proof.Machine.execPlaneMax core h w s
  | .planeMin core h w => Sys2Proof.Machine.execPlaneMin core h w s
  | .planeAbs core h w => Sys2Proof.Machine.execPlaneAbs core h w s
  | .planeNeg core h w => Sys2Proof.Machine.execPlaneNeg core h w s
  | .planeCvt core h w => Sys2Proof.Machine.execPlaneCvt core h w s
  | .planeExp core h w => Sys2Proof.Machine.execPlaneExp core h w s
  | .planeLog core h w => Sys2Proof.Machine.execPlaneLog core h w s
  | .planeRecip core h w => Sys2Proof.Machine.execPlaneRecip core h w s
  | .planeRsqrt core h w => Sys2Proof.Machine.execPlaneRsqrt core h w s
  | .planeTanh core h w => Sys2Proof.Machine.execPlaneTanh core h w s
  | .planeSigmoid core h w => Sys2Proof.Machine.execPlaneSigmoid core h w s
  | .planeRsum core h w => Sys2Proof.Machine.execPlaneRsum core h w s
  | .planeRmax core h w => Sys2Proof.Machine.execPlaneRmax core h w s
  | .planeOsm core h w => Sys2Proof.Machine.execPlaneOsm core h w s
  | .planeLsemerge core h w => Sys2Proof.Machine.execPlaneLsemerge core h w s
  | .cartCopy core h w => Sys2Proof.Machine.execCartCopy core h w s
  | .cartGather core h w => Sys2Proof.Machine.execCartGather core h w s
  | .cartScatter core h w => Sys2Proof.Machine.execCartScatter core h w s
  | .grindJob core h w => Sys2Proof.Machine.execGrindJob core h w s
  | .pushAfterStall core => Sys2Proof.Machine.execPushAfterStall core s
  | .commandAtHead core u => Sys2Proof.Machine.execCommandAtHead core u s
  | .commandStart core u => Sys2Proof.Machine.execCommandStart core u s
  | .commandFinish core u => Sys2Proof.Machine.execCommandFinish core u s
  | .calendarWrap => Sys2Proof.Machine.execCalendarWrap s
  | .dutyWrap => Sys2Proof.Machine.execDutyWrap s
  | .fetchMiss core line => Sys2Proof.Machine.execFetchMiss core line s
  | .fetchLineArrive core => Sys2Proof.Machine.execFetchLineArrive core s
  | .fetchError core => Sys2Proof.Machine.execFetchError core s
  | .launchFinish ring seq => Sys2Proof.Machine.execLaunchFinish ring seq s
  | .stopRequest core k => Sys2Proof.Machine.execStopRequest core k s
  | .engineStopped core u units => Sys2Proof.Machine.execEngineStopped core u units s
  | .preemptSaveDone p => Sys2Proof.Machine.execPreemptSaveDone p s
  | .engineResume core u => Sys2Proof.Machine.execEngineResume core u s
  | .debugHalt fn core => Sys2Proof.Machine.execDebugHalt fn core s
  | .debugResume fn core => Sys2Proof.Machine.execDebugResume fn core s
  | .debugStep fn core => Sys2Proof.Machine.execDebugStep fn core s
  | .loaderTakeImage => Sys2Proof.Machine.execLoaderTakeImage s
  | .imageTranslated => Sys2Proof.Machine.execImageTranslated s
  | .imageIdle p va => Sys2Proof.Machine.execImageIdle p va s
  | .tableWalkRead w => Sys2Proof.Machine.execTableWalkRead w s
  | .translationSweep => Sys2Proof.Machine.execTranslationSweep s
  | .cartReadData core unit => Sys2Proof.Machine.execCartReadData core unit s
  | .cartWriteAck core unit => Sys2Proof.Machine.execCartWriteAck core unit s
  | .mrwGmode g v => Sys2Proof.Machine.execMrwGmode g v s
  | .mrwGqmask g v => Sys2Proof.Machine.execMrwGqmask g v s
  | .mrwGstat g v => Sys2Proof.Machine.execMrwGstat g v s
  | .mrr g num => Sys2Proof.Machine.execMrr g num s
  | .modeSwitchDone g => Sys2Proof.Machine.execModeSwitchDone g s
  | .pld g line data => Sys2Proof.Machine.execPld g line data s
  | .qwr g space line bc pair data => Sys2Proof.Machine.execQwr g space line bc pair data s
  | .qgo g entry => Sys2Proof.Machine.execQgo g entry s
  | .qrd g space line pair => Sys2Proof.Machine.execQrd g space line pair s
  | .qst g => Sys2Proof.Machine.execQst g s
  | .qstop g => Sys2Proof.Machine.execQstop g s
  | .qprogLoad fn ch => Sys2Proof.Machine.execQprogLoad fn ch s
  | .qHalt g p => Sys2Proof.Machine.execQHalt g p s
  | .qJmp g p imm8 => Sys2Proof.Machine.execQJmp g p imm8 s
  | .qBz g p a imm8 => Sys2Proof.Machine.execQBz g p a imm8 s
  | .qBnz g p a imm8 => Sys2Proof.Machine.execQBnz g p a imm8 s
  | .qLoop g p a imm8 => Sys2Proof.Machine.execQLoop g p a imm8 s
  | .qLi g p d imm18 => Sys2Proof.Machine.execQLi g p d imm18 s
  | .qLui g p d imm14 => Sys2Proof.Machine.execQLui g p d imm14 s
  | .qAddi g p d a imm14 => Sys2Proof.Machine.execQAddi g p d a imm14 s
  | .qAdd g p d a b => Sys2Proof.Machine.execQAdd g p d a b s
  | .qSub g p d a b => Sys2Proof.Machine.execQSub g p d a b s
  | .ldcw g p d imm8 => Sys2Proof.Machine.execLdcw g p d imm8 s
  | .lw g p d a imm14 => Sys2Proof.Machine.execLw g p d a imm14 s
  | .sw g p b a imm14 => Sys2Proof.Machine.execSw g p b a imm14 s
  | .nblk g p d imm8 => Sys2Proof.Machine.execNblk g p d imm8 s
  | .acci g p => Sys2Proof.Machine.execAcci g p s
  | .kdot g p a x errs par => Sys2Proof.Machine.execKdot g p a x errs par s
  | .quernOsm g p => Sys2Proof.Machine.execQuernOsm g p s
  | .vacc g p a x errs par => Sys2Proof.Machine.execVacc g p a x errs par s
  | .mvec g p a b q x errs par => Sys2Proof.Machine.execMvec g p a b q x errs par s
  | .kvapp g p a b par => Sys2Proof.Machine.execKvapp g p a b par s
  | .badop g p word => Sys2Proof.Machine.execBadop g p word s
  | .quernPcOverrun g p => Sys2Proof.Machine.execQuernPcOverrun g p s
  | .activateGrant g => Sys2Proof.Machine.execActivateGrant g s
  | .quernTimeout g => Sys2Proof.Machine.execQuernTimeout g s
  | .grindCheck core => Sys2Proof.Machine.execGrindCheck core s
  | .grindAdmit q => Sys2Proof.Machine.execGrindAdmit q s
  | .grindStart core => Sys2Proof.Machine.execGrindStart core s
  | .grindDeadline core => Sys2Proof.Machine.execGrindDeadline core s
  | .grindMerge core => Sys2Proof.Machine.execGrindMerge core s
  | .memRequestArrive src => Sys2Proof.Machine.execMemRequestArrive src s
  | .memRequestServe ch pos errs => Sys2Proof.Machine.execMemRequestServe ch pos errs s
  | .refresh stack => Sys2Proof.Machine.execRefresh stack s
  | .titheSlot ch m errs => Sys2Proof.Machine.execTitheSlot ch m errs s
  | .selfRefreshEntry ch => Sys2Proof.Machine.execSelfRefreshEntry ch s
  | .selfRefreshExit ch m => Sys2Proof.Machine.execSelfRefreshExit ch m s
  | .chCtlWrite fn ch acc v => Sys2Proof.Machine.execChCtlWrite fn ch acc v s
  | .elogPtrWrite fn ch acc v => Sys2Proof.Machine.execElogPtrWrite fn ch acc v s
  | .rcFieldRead fn off size => Sys2Proof.Machine.execRcFieldRead fn off size s
  | .pegWrite fn p acc v => Sys2Proof.Machine.execPegWrite fn p acc v s
  | .tallyValWrite fn t acc v => Sys2Proof.Machine.execTallyValWrite fn t acc v s
  | .bellWrite fn b acc v => Sys2Proof.Machine.execBellWrite fn b acc v s
  | .wmCtlWrite fn q acc v => Sys2Proof.Machine.execWmCtlWrite fn q acc v s
  | .watchmanFire q => Sys2Proof.Machine.execWatchmanFire q s
  | .watchmanSnapshot q => Sys2Proof.Machine.execWatchmanSnapshot q s
  | .jointOpen ring seq => Sys2Proof.Machine.execJointOpen ring seq s
  | .jointCommit ring seq => Sys2Proof.Machine.execJointCommit ring seq s
  | .jointAbort ring seq => Sys2Proof.Machine.execJointAbort ring seq s
  | .jointCommitSwap p j => Sys2Proof.Machine.execJointCommitSwap p j s
  | .jointPageWrite p => Sys2Proof.Machine.execJointPageWrite p s
  | .shadowCopyDone p => Sys2Proof.Machine.execShadowCopyDone p s
  | .bar2Read off len => Sys2Proof.Machine.execBar2Read off len s
  | .bar2Write off data => Sys2Proof.Machine.execBar2Write off data s
  | .bar2MapWrite fn acc v => Sys2Proof.Machine.execBar2MapWrite fn acc v s
  | .bar2Resize code => Sys2Proof.Machine.execBar2Resize code s
  | .bar4Write off data => Sys2Proof.Machine.execBar4Write off data s
  | .bar4Read off len => Sys2Proof.Machine.execBar4Read off len s
  | .flushRead fn => Sys2Proof.Machine.execFlushRead fn s
  | .flushReadComplete fn => Sys2Proof.Machine.execFlushReadComplete fn s
  | .flushingReadDone fn => Sys2Proof.Machine.execFlushingReadDone fn s
  | .hostReadCompletion id a => Sys2Proof.Machine.execHostReadCompletion id a s
  | .hostReadTimeout id => Sys2Proof.Machine.execHostReadTimeout id s
  | .linkDown => Sys2Proof.Machine.execLinkDown s
  | .linkDown100us => Sys2Proof.Machine.execLinkDown100us s
  | .linkDown2ms => Sys2Proof.Machine.execLinkDown2ms s
  | .linkUp speed width downUs => Sys2Proof.Machine.execLinkUp speed width downUs s
  | .flrVf vf => Sys2Proof.Machine.execFlrVf vf s
  | .flrPf0 => Sys2Proof.Machine.execFlrPf0 s
  | .configRequest fn reg write => Sys2Proof.Machine.execConfigRequest fn reg write s
  | .summaryPoll => Sys2Proof.Machine.execSummaryPoll s
  | .class0TailPoll => Sys2Proof.Machine.execClass0TailPoll s
  | .nudge fn acc v => Sys2Proof.Machine.execNudge fn acc v s
  | .tailRead ring tail => Sys2Proof.Machine.execTailRead ring tail s
  | .fetchGrant => Sys2Proof.Machine.execFetchGrant s
  | .descriptorFetch batch => Sys2Proof.Machine.execDescriptorFetch batch s
  | .descriptorStart ring => Sys2Proof.Machine.execDescriptorStart ring s
  | .descriptorComplete ring seq => Sys2Proof.Machine.execDescriptorComplete ring seq s
  | .rtCtlWrite fn ring acc v => Sys2Proof.Machine.execRtCtlWrite fn ring acc v s
  | .nopDescriptor ring seq => Sys2Proof.Machine.execNopDescriptor ring seq s
  | .copy ring seq => Sys2Proof.Machine.execCopy ring seq s
  | .copyIndexed ring seq => Sys2Proof.Machine.execCopyIndexed ring seq s
  | .writeInline ring seq => Sys2Proof.Machine.execWriteInline ring seq s
  | .launch ring seq => Sys2Proof.Machine.execLaunch ring seq s
  | .signal ring seq => Sys2Proof.Machine.execSignal ring seq s
  | .wait ring seq => Sys2Proof.Machine.execWait ring seq s
  | .waitTimeout ring seq => Sys2Proof.Machine.execWaitTimeout ring seq s
  | .fence ring seq => Sys2Proof.Machine.execFence ring seq s
  | .flush ring seq => Sys2Proof.Machine.execFlush ring seq s
  | .ingressFence ring seq => Sys2Proof.Machine.execIngressFence ring seq s
  | .ingressTimeout ring seq => Sys2Proof.Machine.execIngressTimeout ring seq s
  | .map ring seq => Sys2Proof.Machine.execMap ring seq s
  | .grind ring seq => Sys2Proof.Machine.execGrind ring seq s
  | .cancel ring seq => Sys2Proof.Machine.execCancel ring seq s
  | .abortPartition ring seq => Sys2Proof.Machine.execAbortPartition ring seq s
  | .timestamp ring seq => Sys2Proof.Machine.execTimestamp ring seq s
  | .quantumEnd p => Sys2Proof.Machine.execQuantumEnd p s
  | .contextSwitch p => Sys2Proof.Machine.execContextSwitch p s
  | .contextSwitchDone p => Sys2Proof.Machine.execContextSwitchDone p s
  | .ptAbortGo fn p => Sys2Proof.Machine.execPtAbortGo fn p s
  | .partitionAbortDone p => Sys2Proof.Machine.execPartitionAbortDone p s
  | .partitionTableWrite fn p off acc v => Sys2Proof.Machine.execPartitionTableWrite fn p off acc v s
  | .hcCtlWrite fn acc v => Sys2Proof.Machine.execHcCtlWrite fn acc v s
  | .pwrCapWrite fn acc v => Sys2Proof.Machine.execPwrCapWrite fn acc v s
  | .twCtlWrite fn acc v => Sys2Proof.Machine.execTwCtlWrite fn acc v s
  | .helloSend => Sys2Proof.Machine.execHelloSend s
  | .hello link sender partner => Sys2Proof.Machine.execHello link sender partner s
  | .beatSend => Sys2Proof.Machine.execBeatSend s
  | .beat link => Sys2Proof.Machine.execBeat link s
  | .partnerBeatRead counter => Sys2Proof.Machine.execPartnerBeatRead counter s
  | .beatTimeout => Sys2Proof.Machine.execBeatTimeout s
  | .selfFence => Sys2Proof.Machine.execSelfFence s
  | .fatalNotice => Sys2Proof.Machine.execFatalNotice s
  | .fenceOff addr => Sys2Proof.Machine.execFenceOff addr s
  | .moduleFatal cause => Sys2Proof.Machine.execModuleFatal cause s
  | .adoptFabricAddress => Sys2Proof.Machine.execAdoptFabricAddress s
  | .partnerJointResolve => Sys2Proof.Machine.execPartnerJointResolve s
  | .ringAdoption ring => Sys2Proof.Machine.execRingAdoption ring s
  | .prepare joint rec withheld => Sys2Proof.Machine.execPrepare joint rec withheld s
  | .prepareAck p j => Sys2Proof.Machine.execPrepareAck p j s
  | .recoveryRecord rec => Sys2Proof.Machine.execRecoveryRecord rec s
  | .recordAck p => Sys2Proof.Machine.execRecordAck p s
  | .streamedWrite joint addr data => Sys2Proof.Machine.execStreamedWrite joint addr data s
  | .tallyLog src txn tally amount => Sys2Proof.Machine.execTallyLog src txn tally amount s
  | .coreSpare core => Sys2Proof.Machine.execCoreSpare core s
  | .coreHardFault core => Sys2Proof.Machine.execCoreHardFault core s
  | .spareCopyDone ch => Sys2Proof.Machine.execSpareCopyDone ch s
  | .resyncDone => Sys2Proof.Machine.execResyncDone s
  | .frameReceive link frame => Sys2Proof.Machine.execFrameReceive link frame s
  | .replayTimeout link => Sys2Proof.Machine.execReplayTimeout link s
  | .laneRemove link lane => Sys2Proof.Machine.execLaneRemove link lane s
  | .laneRejoin link lane => Sys2Proof.Machine.execLaneRejoin link lane s
  | .linkLanesLost link => Sys2Proof.Machine.execLinkLanesLost link s
  | .rd link => Sys2Proof.Machine.execRd link s
  | .wr link => Sys2Proof.Machine.execWr link s
  | .wrm link => Sys2Proof.Machine.execWrm link s
  | .top link => Sys2Proof.Machine.execTop link s
  | .rdr link => Sys2Proof.Machine.execRdr link s
  | .wra link => Sys2Proof.Machine.execWra link s
  | .tor link => Sys2Proof.Machine.execTor link s
  | .notrdy link => Sys2Proof.Machine.execNotrdy link s
  | .err link => Sys2Proof.Machine.execErr link s
  | .adopt link => Sys2Proof.Machine.execAdopt link s
  | .release link => Sys2Proof.Machine.execRelease link s
  | .unknownPacket link => Sys2Proof.Machine.execUnknownPacket link s
  | .notrdyBackoff txn expired => Sys2Proof.Machine.execNotrdyBackoff txn expired s
  | .peerTimeout txn => Sys2Proof.Machine.execPeerTimeout txn s
  | .unreachable txn => Sys2Proof.Machine.execUnreachable txn s
  | .topProbe txn => Sys2Proof.Machine.execTopProbe txn s
  | .fbCtlWrite fn acc v => Sys2Proof.Machine.execFbCtlWrite fn acc v s
  | .modEnRise => Sys2Proof.Machine.execModEnRise s
  | .modEnFall => Sys2Proof.Machine.execModEnFall s
  | .railInRegulation rail => Sys2Proof.Machine.execRailInRegulation rail s
  | .railFault rail => Sys2Proof.Machine.execRailFault rail s
  | .inputRise => Sys2Proof.Machine.execInputRise s
  | .bulkChargeDone => Sys2Proof.Machine.execBulkChargeDone s
  | .inputOutOfRange => Sys2Proof.Machine.execInputOutOfRange s
  | .modEnHoldoffEnd => Sys2Proof.Machine.execModEnHoldoffEnd s
  | .rootLock => Sys2Proof.Machine.execRootLock s
  | .pllLoss => Sys2Proof.Machine.execPllLoss s
  | .bootGo fn => Sys2Proof.Machine.execBootGo fn s
  | .bootFetchDone image delays => Sys2Proof.Machine.execBootFetchDone image delays s
  | .fwReady badChannel => Sys2Proof.Machine.execFwReady badChannel s
  | .fwStartTimeout detail => Sys2Proof.Machine.execFwStartTimeout detail s
  | .thermalSample r => Sys2Proof.Machine.execThermalSample r s
  | .entdaa addr mchainIn => Sys2Proof.Machine.execEntdaa addr mchainIn s
  | .rstdaa => Sys2Proof.Machine.execRstdaa s
  | .setnewda addr => Sys2Proof.Machine.execSetnewda addr s
  | .getpid => Sys2Proof.Machine.execGetpid s
  | .getbcr => Sys2Proof.Machine.execGetbcr s
  | .getdcr => Sys2Proof.Machine.execGetdcr s
  | .getstatus => Sys2Proof.Machine.execGetstatus s
  | .getmxds => Sys2Proof.Machine.execGetmxds s
  | .enec ev => Sys2Proof.Machine.execEnec ev s
  | .disec ev => Sys2Proof.Machine.execDisec ev s
  | .i3cPrivateWrite data => Sys2Proof.Machine.execI3cPrivateWrite data s
  | .i3cPrivateRead len => Sys2Proof.Machine.execI3cPrivateRead len s
  | .registerWrite fn off size v => Sys2Proof.Machine.execRegisterWrite fn off size v s
  | .configSpaceReady => Sys2Proof.Machine.execConfigSpaceReady s
  | .linkTrainingDone link => Sys2Proof.Machine.execLinkTrainingDone link s
  | .perstDeassert => Sys2Proof.Machine.execPerstDeassert s
  | .coreFaultCorrected core => Sys2Proof.Machine.execCoreFaultCorrected core s
  | .twinImageNotice p va crc => Sys2Proof.Machine.execTwinImageNotice p va crc s

end Sys2Proof.Machine
end

