-- ==== Sys2Proof/Machine/Tick.lean ====
section
/-! DEFINITION. What time does by itself: one root cycle, the step of an empty queue (log entry 10). -/

namespace Sys2Proof.Machine

/-- The register offset is CH_STAT of a channel. -/
def isChStat (o : Nat) : Bool := decide (0x200000 ≤ o) && decide (o < 0x300000) && o % 0x1000 == 8

/-- TM_SR and TM_PROC count the mem cycles that pass (R214). -/
def State.countModes (s : State) (n : Nat) : State :=
  let asleep := (s.regs.filter (fun e => isChStat e.1 && getBits e.2 1 0 == 2)).map (fun e => (e.1 - 0x200000) / 0x1000)
  let away := (s.chans.filter (fun e => decide (e.2.mode ≠ .memory))).map Prod.fst
  let t := asleep.foldl (fun t c => t.incFld (oTM_SR c) 63 0 n) s
  away.foldl (fun t c => t.incFld (oTM_PROC c) 63 0 n) t

/-- A partition in one fabric cycle: its watchman, and the cycles with a context running (R228, R383). -/
def State.tickPart (s : State) (p : PartId) : State :=
  let t := s.watch p
  if (s.part p).running.isSome then t.incFld (oTMP p.val 6) 63 0 1 else t

/-- One fabric cycle: ten root cycles (R4). -/
def State.fabricTick (s : State) : State :=
  let t := (s.parts.map Prod.fst).foldl (fun u n => if h : n < 32 then u.tickPart ⟨n, h⟩ else u) s
  if t.twState = 1 then t.resyncStep else t

/-- One root cycle: engines work in every fifth, a core cycle, watchmen and the twin's copy in every tenth. Before the root PLL has
locked, and in FAILED, nothing counts. -/
def State.tick (s : State) : State :=
  if !s.bit oCLK_STAT 0 || s.failed then s
  else
    let t : State := { s with cycles := s.cycles + 1 }
    let u := t.countModes (t.memCycle - s.memCycle)
    let v := if t.cycles % 5 = 0 then u.engineTick else u
    if t.cycles % 10 = 0 then v.fabricTick else v

end Sys2Proof.Machine
end

