-- ==== Sys2Proof/Safety.lean ====
section
/-! DEFINITION. What a safe state is and the words the statements use: the canonical form of device memory, the commands
that act while the module is off or has failed, the commands that can store to device memory, a command that completes
with an effect, and the shapes of effect that many commands share. -/

namespace Sys2Proof.Machine

/-- Device memory holds each byte once, in rising order, and lists no byte that reads as an unlisted one. -/
def memWf (s : State) : Bool := tabWf zeroByte s.mem

/-- The byte of device memory at an address. -/
def State.byte (s : State) (a : Nat) : Byte := tabGet zeroByte a s.mem

/-- The command answers a next state of which `P` holds. -/
def Completes (i : Instr) (s : State) (P : State → Prop) : Prop := ∃ t, exec i s = .next t ∧ P t

/-- The commands that act in FAILED or while PWRGD is low also: power, clock loss, the management bus, and a link that has been down
for 2 ms. -/
def actsAlways : Instr → Bool
  | .modEnRise => true
  | .modEnFall => true
  | .railInRegulation _ => true
  | .railFault _ => true
  | .inputRise => true
  | .bulkChargeDone => true
  | .inputOutOfRange => true
  | .modEnHoldoffEnd => true
  | .pllLoss => true
  | .linkDown2ms => true
  | .entdaa _ _ => true
  | .rstdaa => true
  | .setnewda _ => true
  | .getpid => true
  | .getbcr => true
  | .getdcr => true
  | .getstatus => true
  | .getmxds => true
  | .enec _ => true
  | .disec _ => true
  | .i3cPrivateWrite _ => true
  | .i3cPrivateRead _ => true
  | _ => false

/-- The commands that can store to device memory: a served request, the accesses that the module makes for itself, and what
makes one of them happen. -/
def mayStore : Instr → Bool
  | .preemptSaveDone _ => true
  | .loaderTakeImage => true
  | .imageTranslated => true
  | .kvapp _ _ _ _ _ => true
  | .memRequestServe _ _ _ => true
  | .titheSlot _ _ _ => true
  | .watchmanSnapshot _ => true
  | .jointCommitSwap _ _ => true
  | .shadowCopyDone _ => true
  | .launch _ _ => true
  | .ingressFence _ _ => true
  | .map _ _ => true
  | .contextSwitchDone _ => true
  | .partnerJointResolve => true
  | .ringAdoption _ => true
  | .prepare _ _ _ => true
  | .streamedWrite _ _ _ => true
  | .spareCopyDone _ => true
  | .modEnFall => true
  | .railFault _ => true
  | .inputOutOfRange => true
  | .fwReady _ => true
  | .thermalSample _ => true
  | _ => false

/-- The kingpost of a core can issue an instruction of its program (R25, R31, R36). -/
def Issues (s : State) (c : CoreId) : Prop := s.alive = true ∧ (s.core c).canIssue = true

/-- Nothing but the cores differs, and of these nothing but core `c`. -/
def OnlyCore (c : CoreId) (s t : State) : Prop :=
  t = { s with cores := t.cores } ∧ ∀ d, d ≠ c → t.core d = s.core d

/-- The core after an instruction, whose own effect gives `k`, with the program counter at `pc`: a step that was asked for is
used up (R40). -/
def Core.issued (k : Core) (pc : BitVec 48) : Core :=
  { k with pc := pc, stepping := false, stopCause := if k.stepping then 2 else k.stopCause }

/-- Nothing but the querns differs, and of these nothing but quern `p` of channel `g`. -/
def OnlyQuern (g : GranChan) (p : Fin 16) (s t : State) : Prop :=
  t = { s with querns := t.querns } ∧ ∀ h r, (h ≠ g ∨ r ≠ p) → t.quern h r = s.quern h r

/-- Nothing but the controllers and stack logic of the channels differs, and of these nothing but channel `n`. -/
def OnlyChan (n : ChanId) (s t : State) : Prop :=
  t = { s with chans := t.chans } ∧ ∀ m, m ≠ n → t.chan m = s.chan m

/-- The bytes of `n` pair lines of a bank pair from line `l`, as device memory holds them. -/
def State.pairBytes (s : State) (g : GranChan) (p : Fin 16) (l n : Nat) : List Byte :=
  (List.range n).flatMap (fun i => readBytes s.mem (pairLineAddr g p.val (l + i)) 64)

/-- None of `n` pair lines from line `l` holds an erroneous symbol. -/
def State.pairSound (s : State) (g : GranChan) (p : Fin 16) (l n : Nat) : Prop :=
  ∀ i, i < n → s.errorsIn (pairLineAddr g p.val (l + i) / 64) = 0

/-- A descriptor has ended: with a status, or with the one that it held already. -/
def State.Ended (t : State) (r : RingId) (q : BitVec 32) (d : Desc) (st : Nat) : Prop :=
  ∃ p e, t.descOf r q = some (p, e) ∧ e.stage = .ended ∧ e.status = if d.status = 0 then BitVec.ofNat 16 st else d.status

/-- The state once a packet has been taken from its link, and its buffer freed. -/
def State.taken (s : State) (l : LinkId) (p : List Byte) : State :=
  (s.modLink l (fun k => { k with packets := k.packets.drop 1 })).freeBuffer l p

/-- A packet is the next one on its link, and the module serves it: the fabric is enabled, the packet is for this module, and
its flow is not marked (R336, R342). -/
def State.Takes (s : State) (l : LinkId) (p : List Byte) : Prop :=
  s.alive = true ∧ (∃ rest, (s.link l).packets = p :: rest) ∧ s.fabricOn = true ∧ s.answersTo (pDst p) = true ∧
    s.fabric.marked.contains (flowOf p) = false

/-- A packet that the module serves answers one of its requests (R346). -/
def State.Answered (s : State) (l : LinkId) (p : List Byte) (q : PeerReq) : Prop :=
  s.Takes l p ∧ s.reqOf (pTxn p) = some q

end Sys2Proof.Machine
end

