-- ==== Sys2Proof/Certificates/Slice0/Obligations.lean ====
section
/-! DEFINITION. The statements for the provers, in the order of OBLIGATIONS.json. Each docstring names the rules of the
specification that the statement rests on. -/

open Sys2Proof Sys2Proof.Machine

/-- One step of a machine whose queue holds a command: the command at the front is taken from the queue and has its
effect on the rest. -/
def Obligations.stepRunsFront : Prop :=
  ∀ (s : State) (c : Instr) (rest : List Instr), s.pending = c :: rest → step s = exec c { s with pending := rest }

/-- One step of a machine whose queue is empty is a tick (the model's choice, log entry 10): one root cycle passes once
the root PLL has locked and while the module has not failed; device memory, the querns and the objects stay as they are,
and so do the registers and program counters of the cores. The cores change only in a core cycle, every fifth root
cycle, and only where a beam or a plane works. In FAILED, and before the lock, nothing changes. -/
def Obligations.idleTicks : Prop :=
  ∀ s : State, s.pending = [] →
    (s.bit oCLK_STAT 0 = false ∨ s.failed = true → step s = .next s) ∧
    (s.bit oCLK_STAT 0 = true → s.failed = false → ∃ t, step s = .next t ∧ t.cycles = s.cycles + 1 ∧ t.pending = [] ∧
      t.mem = s.mem ∧ t.querns = s.querns ∧ t.pegs = s.pegs ∧ t.tallies = s.tallies ∧ t.bells = s.bells ∧
      (∀ c, (t.core c).s = (s.core c).s ∧ (t.core c).pc = (s.core c).pc) ∧
      ((s.cycles + 1) % 5 ≠ 0 ∨ (∀ c u, ((s.core c).engOf u).cmd = none) → t.cores = s.cores))

/-- A well-formed command always answers a next state: the part has no fault that ends a run, and the only refusal is of
a command whose operands are not well formed. No command looks at the commands that wait behind it or changes their
order: its effect is on everything but the queue (log entry 1). None leaves a note of what it waits for: `stalls` is
empty between the commands and ticks (the model's own field, log entry 17). -/
def Obligations.wellFormedCommandsComplete : Prop :=
  (∀ (i : Instr) (s : State),
     (i.wf = true → ∃ t, exec i s = .next t) ∧ (i.wf = false → ∃ n, exec i s = .refused (.illFormed n))) ∧
  (∀ (i : Instr) (s t : State), exec i s = .next t → t.pending = s.pending) ∧
  (∀ s t : State, s.stalls = [] → step s = .next t → t.stalls = [])

/-- A module without PWRGD, or in FAILED, does nothing: but for power, loss of the root clock, the management bus and a
link down for 2 ms, every command leaves it as it is (R320, R357). -/
def Obligations.deadModuleDoesNothing : Prop :=
  ∀ (i : Instr) (s : State), s.alive = false → i.wf = true → actsAlways i = false → exec i s = .next s

/-- A module in FAILED stays in it until its next power-up (R320): whatever the command, either the module is still in
FAILED or PWRGD is low. -/
def Obligations.failedUntilPowerDown : Prop :=
  ∀ (i : Instr) (s t : State), s.failed = true → exec i s = .next t → t.failed = true ∨ t.power.pwrgd = false

/-- A command that serves no memory request, makes no access of the module's own and takes no power away (`mayStore`)
stores nothing to device memory: every byte reads as before. -/
def Obligations.commandsWithoutStores : Prop :=
  ∀ (i : Instr) (s t : State), mayStore i = false → exec i s = .next t → ∀ a, t.byte a = s.byte a

/-- Device memory after reset lists nothing. -/
def Obligations.resetMemoryIsWellFormed : Prop :=
 memWf State.reset = true

/-- Device memory keeps its canonical form: from every state that has it, a step that answers a next state leaves it. -/
def Obligations.stepKeepsMemoryWellFormed : Prop :=
  ∀ s t : State, memWf s = true → step s = .next t → memWf t = true

/-- Reset (R7, R8, R355, R356, R362): every register word is 0 but for the identity words, the quantum of each
partition, the power cap and duty, and the enables of the links and of the watchmen; PWRGD is high, the root clock has
not locked, the loader is in ROM, the links are down, nothing waits, and no core, quern, partition, object or ring holds
anything. -/
def Obligations.resetValues : Prop :=
  let s := State.reset
  s.pending = [] ∧ s.power.pwrgd = true ∧ s.power.locked = false ∧ s.failed = false ∧ s.cycles = 0 ∧ s.bootState = 0 ∧
    s.twState = 0 ∧ s.fabricOn = false ∧ s.i3c.addr = none ∧ s.i3c.mchainOut = false ∧
    s.fld oPWR_CAP 11 0 = 2500 ∧ (∀ p : PartId, s.fld (oPT_CTL p) 23 8 = 100 ∧ s.bit (oPT_CTL p) 0 = false) ∧
    (∀ l : LinkId, s.bit (oBL_CTL l) 0 = true ∧ s.fld (oBL_STAT l) 1 0 = 0) ∧ (∀ p : PartId, s.bit (oWM p 0) 0 = true) ∧
    (∀ c, s.core c = {}) ∧ (∀ g p, s.quern g p = {}) ∧ (∀ n, s.peg n = {} ∧ s.tally n = {} ∧ s.bell n = {}) ∧
    (∀ p, s.part p = {}) ∧ (∀ r, s.ring r = {}) ∧ s.mem = [] ∧ s.outbox = [] ∧
    ∀ o, s.reg o ≠ 0 → o = 0x18 ∨ o = 0x20 ∨ o = 0x28 ∨ o = oPWR_CAP ∨ o = oPWR_DUTY ∨ (∃ p : PartId, o = oPT_CTL p) ∨
      (∃ l : LinkId, o = oBL_CTL l) ∨ ∃ p : PartId, o = oWM p 0

/-- Moves and arithmetic of R51: the destination register takes the result, which wraps modulo 2^64 (R22); every other
register, counter, comparator bit and flag of the core, every other core and everything else of the module are
unchanged; the next instruction follows after 8 bytes. Comparisons of R51: the named comparator bit says whether the
relation holds, and the other three are unchanged. -/
def Obligations.scalarResults : Prop :=
  (∀ (s : State) (c : CoreId) (rd ra rb : SReg) (imm : BitVec 32), Issues s c →
     let k := s.core c
     let a := k.sreg ra
     let b := k.sreg rb
     let i := imm.signExtend 64
     ∀ x ∈ [(Instr.li c rd imm, i), (.lui c rd imm, imm ++ (k.sreg rd).setWidth 32), (.mov c rd ra, a),
         (.time c rd, BitVec.ofNat 64 (s.cycles / 10 % 2 ^ 48)), (.add c rd ra rb, a + b), (.sub c rd ra rb, a - b),
         (.and c rd ra rb, a &&& b), (.or c rd ra rb, a ||| b), (.xor c rd ra rb, a ^^^ b),
         (.shl c rd ra rb, a <<< (b.toNat % 64)), (.shr c rd ra rb, a >>> (b.toNat % 64)),
         (.sra c rd ra rb, a.sshiftRight (b.toNat % 64)), (.addi c rd ra imm, a + i),
         (.shli c rd ra imm, a <<< (i.toNat % 64)), (.shri c rd ra imm, a >>> (i.toNat % 64)),
         (.srai c rd ra imm, a.sshiftRight (i.toNat % 64)), (.andi c rd ra imm, a &&& i), (.ori c rd ra imm, a ||| i),
         (.mul c rd ra rb, BitVec.ofNat 64 (a.toNat * b.toNat)),
         (.mulhu c rd ra rb, BitVec.ofNat 64 (a.toNat * b.toNat / 2 ^ 64))],
       Completes x.1 s (fun t =>
         OnlyCore c s t ∧
         t.core c = ({ k with s := (t.core c).s } : Core).issued (k.pc + 8) ∧
         (t.core c).sreg rd = x.2 ∧
         ∀ q, q ≠ rd → (t.core c).sreg q = k.sreg q)) ∧
  (∀ (s : State) (c : CoreId) (n : CmpReg) (ra rb : SReg), Issues s c →
     let k := s.core c
     let a := k.sreg ra
     let b := k.sreg rb
     ∀ x ∈ [(Instr.cmpEq c n ra rb, decide (a = b)), (.cmpNe c n ra rb, decide (a ≠ b)),
         (.cmpLt c n ra rb, decide (a.toInt < b.toInt)), (.cmpLtu c n ra rb, decide (a.toNat < b.toNat)),
         (.cmpGe c n ra rb, decide (b.toInt ≤ a.toInt)), (.cmpGeu c n ra rb, decide (b.toNat ≤ a.toNat))],
       Completes x.1 s (fun t =>
         OnlyCore c s t ∧
         t.core c = ({ k with cmp := (t.core c).cmp } : Core).issued (k.pc + 8) ∧
         (t.core c).cmpBit n = x.2 ∧
         ∀ m, m ≠ n → (t.core c).cmpBit m = k.cmpBit m))

/-- Branches of R51: taken, the program counter moves by the sign-extended offset from the branch itself; not taken, the
next instruction follows. The loop-counter branch (R22, R51): the counter is decremented modulo 2^32 and the branch is
taken while the result is not zero; a counter of zero becomes 0xFFFFFFFF and branches. -/
def Obligations.branches : Prop :=
  (∀ (s : State) (c : CoreId) (n : CmpReg) (imm : BitVec 32), Issues s c →
     let k := s.core c
     ∀ x ∈ [(Instr.br c imm, true), (.bc c n imm, k.cmpBit n), (.bnc c n imm, !k.cmpBit n)],
       Completes x.1 s (fun t =>
         OnlyCore c s t ∧
         t.core c = k.issued (if x.2 then k.pc + imm.signExtend 48 else k.pc + 8))) ∧
  (∀ (s : State) (c : CoreId) (n : LcReg) (imm : BitVec 32), Issues s c →
     let k := s.core c
     let v := k.lcreg n - 1
     Completes (.lcbr c n imm) s (fun t =>
       OnlyCore c s t ∧
       t.core c = ({ k with lc := (t.core c).lc } : Core).issued (if v ≠ 0 then k.pc + imm.signExtend 48 else k.pc + 8) ∧
       (t.core c).lcreg n = v ∧
       (k.lcreg n = 0 → (t.core c).lcreg n = 0xFFFFFFFF#32 ∧ (t.core c).pc = k.pc + imm.signExtend 48) ∧
       ∀ m, m ≠ n → (t.core c).lcreg m = k.lcreg m))

/-- Loop counters (R22, R51): lcset keeps the low 32 bits of its register, lcseti takes the immediate, lcmov reads the
counter zero-extended; nothing else of the core changes. flags.rd returns the sticky flag word of engine imm & 3
zero-extended, flags.clr clears that word and no other (R52). nop does nothing, a native skip does nothing and passes
the malformed instruction's length (R62), end stops the kingpost (R54): but for the program counter, and the running
state for end, nothing changes. A program that runs past the last byte of its code acts as if it had executed end, and a
SKIP entry with reason 0x0E is logged (R54), in the module error log where the core runs no launch and belongs to no
partition. -/
def Obligations.countersFlagsAndEnds : Prop :=
  (∀ (s : State) (c : CoreId) (n : LcReg) (ra rd : SReg) (imm : BitVec 32), Issues s c →
     let k := s.core c
     (∀ x ∈ [(Instr.lcset c n ra, (k.sreg ra).setWidth 32), (.lcseti c n imm, imm)],
       Completes x.1 s (fun t =>
         OnlyCore c s t ∧
         t.core c = ({ k with lc := (t.core c).lc } : Core).issued (k.pc + 8) ∧
         (t.core c).lcreg n = x.2 ∧
         ∀ m, m ≠ n → (t.core c).lcreg m = k.lcreg m)) ∧
     Completes (.lcmov c rd n) s (fun t =>
       OnlyCore c s t ∧
       t.core c = ({ k with s := (t.core c).s } : Core).issued (k.pc + 8) ∧
       (t.core c).sreg rd = (k.lcreg n).setWidth 64 ∧
       ∀ q, q ≠ rd → (t.core c).sreg q = k.sreg q)) ∧
  (∀ (s : State) (c : CoreId) (rd : SReg) (imm : BitVec 32), Issues s c →
     let k := s.core c
     let n := imm.toNat % 4
     Completes (.flagsRd c rd imm) s (fun t =>
       OnlyCore c s t ∧
       t.core c = ({ k with s := (t.core c).s } : Core).issued (k.pc + 8) ∧
       (t.core c).sreg rd = (k.flagWord n).setWidth 64 ∧
       ∀ q, q ≠ rd → (t.core c).sreg q = k.sreg q) ∧
     Completes (.flagsClr c imm) s (fun t =>
       OnlyCore c s t ∧
       t.core c = ({ k with flags := (t.core c).flags } : Core).issued (k.pc + 8) ∧
       (t.core c).flagWord n = 0 ∧
       ∀ m, m ≠ n → (t.core c).flagWord m = k.flagWord m)) ∧
  (∀ (s : State) (c : CoreId) (n : Nat), Issues s c →
     let k := s.core c
     Completes (.nop c) s (fun t => OnlyCore c s t ∧ t.core c = k.issued (k.pc + 8)) ∧
     Completes (.endProg c) s (fun t => OnlyCore c s t ∧ t.core c = ({ k with run := .ended } : Core).issued (k.pc + 8)) ∧
     (n = 8 ∨ n = 32 ∨ n = 64 →
       Completes (.nativeSkip c n) s (fun t => OnlyCore c s t ∧ t.core c = k.issued (k.pc + BitVec.ofNat 48 n)))) ∧
  (∀ (s : State) (c : CoreId), Issues s c →
     let k := s.core c
     s.codeLen c ≤ k.pc.toNat →
     let e : Entry := { type := 0x01, reason := 0x0E, core := c.val, unit := 0, ctx := k.ctx.toNat, d1 := k.pc.toNat }
     Completes (.endOfCode c) s (fun t =>
       t.core c = ({ k with run := .ended, launch := (t.core c).launch } : Core).issued k.pc ∧
       (∀ d, d ≠ c → t.core d = s.core d) ∧ t.mem = s.mem) ∧
     (k.launch = none → s.partOfCore c = none →
       exec (.endOfCode c) s = .next ((s.logModule e).setCore c (({ k with run := .ended } : Core).issued k.pc))))

/-- ld and st at an aligned address below 4 MiB whose bank gives the kingpost a slot (R24, R51): ld reads the eight
bytes, least significant first; st writes them, every other byte of the bench is unchanged, and reading the bytes again
gives the register; device memory and everything outside the core are unchanged. An ld or st at an address that is not a
multiple of 8 or not below 4 MiB is skipped and logged (R24, R51): registers, benches and memory are unchanged; an
address that is both is logged with BENCH_RANGE; the entry goes to the module error log where the core runs no launch
and belongs to no partition. A step that would have to wait for the kingpost's slot ends with STOP_CAUSE 3 instead, and
the instruction is not issued (R40). -/
def Obligations.benchAccess : Prop :=
  (∀ (s : State) (c : CoreId) (rd ra rb : SReg) (imm : BitVec 32), Issues s c →
     let k := s.core c
     let a := (k.sreg ra + imm.signExtend 64).toNat
     a < 4194304 → a % 8 = 0 → k.hasSlot 11 a = true → k.stepping = false ∨ k.slotAt s.calendar (benchBank a) = pKp →
     Completes (.ld c rd ra imm) s (fun t =>
       OnlyCore c s t ∧
       t.core c = ({ k with s := (t.core c).s } : Core).issued (k.pc + 8) ∧
       (t.core c).sreg rd = BitVec.ofNat 64 (leNat (readBytes k.bench a 8)) ∧
       ∀ q, q ≠ rd → (t.core c).sreg q = k.sreg q) ∧
     Completes (.st c ra rb imm) s (fun t =>
       OnlyCore c s t ∧
       t.core c = ({ k with bench := (t.core c).bench } : Core).issued (k.pc + 8) ∧
       leNat (readBytes (t.core c).bench a 8) = (k.sreg rb).toNat ∧
       ∀ b, b < a ∨ a + 8 ≤ b → tabGet zeroByte b (t.core c).bench = tabGet zeroByte b k.bench)) ∧
  (∀ (s : State) (c : CoreId) (rd ra rb : SReg) (imm : BitVec 32), Issues s c →
     let k := s.core c
     let a := (k.sreg ra + imm.signExtend 64).toNat
     a < 4194304 → a % 8 = 0 → k.hasSlot 11 a = true → k.stepping = true → k.slotAt s.calendar (benchBank a) ≠ pKp →
     ∀ i ∈ [Instr.ld c rd ra imm, .st c ra rb imm], Completes i s (fun t =>
       OnlyCore c s t ∧ t.core c = { k with stepping := false, stopCause := 3 })) ∧
  (∀ (s : State) (c : CoreId) (rd ra rb : SReg) (imm : BitVec 32), Issues s c →
     let k := s.core c
     let a := (k.sreg ra + imm.signExtend 64).toNat
     4194304 ≤ a ∨ a % 8 ≠ 0 →
     let e : Entry := {
       type := 0x01, reason := if 4194304 ≤ a then 0x02 else 0x03, core := c.val, unit := 0, ctx := k.ctx.toNat
       d1 := k.pc.toNat }
     ∀ i ∈ [Instr.ld c rd ra imm, .st c ra rb imm],
       Completes i s (fun t =>
         t.core c = ({ k with launch := (t.core c).launch } : Core).issued (k.pc + 8) ∧
         (∀ d, d ≠ c → t.core d = s.core d) ∧ t.mem = s.mem) ∧
       (k.launch = none → s.partOfCore c = none → exec i s = .next ((s.logModule e).setCore c (k.issued (k.pc + 8)))))

/-- rota.set stages a word for bank s[rb] & 31 and, with bit 0 of the immediate, makes the whole staging area pending;
at the next calendar wrap, the core cycle in which the calendar counter reads 0 (R67), the pending set becomes the rota
of every bank together (R53); in any other core cycle it does not. A rota word with reserved slot codes has the same
effect and is logged (R63); one without them changes nothing but its core, and a wrap at which no cart works nothing but
the cores. -/
def Obligations.rotaStaging : Prop :=
  (∀ (s : State) (c : CoreId) (ra rb : SReg) (imm : BitVec 32), Issues s c →
    let k := s.core c
    let b := (k.sreg rb).toNat % 32
    Completes (.rotaSet c ra rb imm) s (fun t =>
      (reservedSlots (k.sreg ra) = false → OnlyCore c s t) ∧ (∀ d, d ≠ c → t.core d = s.core d) ∧ t.mem = s.mem ∧
      t.core c = ({ k with staging := (t.core c).staging, pendingRota := (t.core c).pendingRota } : Core).issued (k.pc + 8) ∧
      (t.core c).stagedOf b = k.sreg ra ∧
      (∀ m, m ≠ b → (t.core c).stagedOf m = k.stagedOf m) ∧
      (t.core c).pendingRota = if imm.getLsbD 0 then some (t.core c).staging else k.pendingRota)) ∧
  (∀ s : State, s.alive = true →
    (s.calendar ≠ 0 → exec .calendarWrap s = .next s) ∧
    (s.calendar = 0 → Completes .calendarWrap s (fun t =>
      ((∀ c n, ((s.core c).engOf (cartUnit n)).phase ≠ .running) → t = { s with cores := t.cores }) ∧ t.mem = s.mem ∧
      ∀ c : CoreId, (t.core c).s = (s.core c).s ∧ (t.core c).bench = (s.core c).bench ∧
        (t.core c).rota = (s.core c).pendingRota.getD (s.core c).rota ∧ (t.core c).pendingRota = none)))

/-- Pegs (R218, R219): peg.post adds its count to a peg on which nobody waits, and one that would take the count beyond
65,535 leaves the count and sets OVF; peg.dec subtracts, and one that exceeds the count leaves it and sets UDF. In every
case the instruction does not wait: the next one follows; no other peg, tally, bell or byte of memory changes, nor any
register of the core. peg.take and peg.read (R55, R56, R218): a take on which nobody waits before it and that the count
covers leaves the count less by n, the kingpost holds the satisfied request, and the answer lets the next instruction
follow; a take that the count does not cover leaves the count and waits at the peg. peg.read returns the count to its
register with the answer. -/
def Obligations.pegs : Prop :=
  (∀ (s : State) (c : CoreId) (p : PartId) (id : BitVec 12) (rcnt : Bool) (ra : SReg) (cnt : BitVec 16) (n : Nat),
     Issues s c → s.partOf c = some p → s.pegRef p (s.core c).ctx id.toNat = some n →
     let k := s.core c
     let g := s.peg n
     let q := if rcnt then (k.sreg ra).setWidth 16 else cnt
     let tooMany := 65535 < g.count.toNat + q.toNat
     let tooFew := g.count.toNat < q.toNat
     (g.waiters = [] → Completes (.pegPost c id rcnt ra cnt) s (fun t =>
       t.core c = k.issued (k.pc + 8) ∧
       (t.peg n).count = (if tooMany then g.count else g.count + q) ∧ (t.peg n).ovf = (g.ovf || decide tooMany) ∧
       (∀ m, m ≠ n → t.peg m = s.peg m) ∧ t.tallies = s.tallies ∧ t.bells = s.bells ∧ t.mem = s.mem)) ∧
     Completes (.pegDec c id rcnt ra cnt) s (fun t =>
       t.core c = k.issued (k.pc + 8) ∧
       (t.peg n).count = (if tooFew then g.count else g.count - q) ∧ (t.peg n).udf = (g.udf || decide tooFew) ∧
       (∀ m, m ≠ n → t.peg m = s.peg m) ∧ t.tallies = s.tallies ∧ t.bells = s.bells ∧ t.mem = s.mem)) ∧
  (∀ (s : State) (c : CoreId) (p : PartId) (id : BitVec 12) (rcnt : Bool) (ra rd : SReg) (cnt : BitVec 16) (n : Nat),
     Issues s c → s.partOf c = some p → s.pegRef p (s.core c).ctx id.toNat = some n → (s.core c).stepping = false →
     let k := s.core c
     let g := s.peg n
     let q := if rcnt then (k.sreg ra).setWidth 16 else cnt
     (g.waiters = [] → q.toNat ≤ g.count.toNat →
       Completes (.pegTake c id rcnt ra cnt) s (fun t =>
         (t.peg n).count = g.count - q ∧ (t.peg n).waiters = [] ∧ (t.core c).pc = k.pc ∧ (t.core c).s = k.s ∧
         Completes (.syncAnswer c) t (fun u => (u.core c).wait = none ∧ (u.core c).pc = k.pc + 8 ∧ (u.core c).s = k.s))) ∧
     (g.waiters = [] → g.count.toNat < q.toNat →
       Completes (.pegTake c id rcnt ra cnt) s (fun t =>
         (t.peg n).count = g.count ∧ (t.peg n).waiters.map Waiter.who = [.kingpost c] ∧ (t.core c).pc = k.pc ∧
         (t.core c).canIssue = false)) ∧
     Completes (.pegRead c rd id) s (fun t =>
       t.peg n = g ∧
       Completes (.syncAnswer c) t (fun u => (u.core c).wait = none ∧ (u.core c).pc = k.pc + 8 ∧
         (u.core c).sreg rd = g.count.setWidth 64 ∧ ∀ x, x ≠ rd → (u.core c).sreg x = k.sreg x)))

/-- Tallies of the module (R221, R222): tally.adv adds modulo 2^64 and does not wait; tally.read returns VALUE with the
answer; tally.wait on a VALUE that has reached its target, and tally.room on a producer without a bound, are satisfied
at once and leave VALUE; a tally.wait on a VALUE below its target waits. -/
def Obligations.tallies : Prop :=
  ∀ (s : State) (c : CoreId) (p : PartId) (id : BitVec 12) (ra rd : SReg) (n : Nat),
    Issues s c → s.partOf c = some p → s.tallyRef p (s.core c).ctx id.toNat = some (.local_ n) →
    (s.core c).stepping = false → (∀ e ∈ s.tallies, e.2.waiters = []) →
    let k := s.core c
    let g := s.tally n
    let answered := fun (i : Instr) (v : Word → Prop) => Completes i s (fun t =>
      (t.tally n).value = g.value ∧ (t.core c).pc = k.pc ∧
      Completes (.syncAnswer c) t (fun u => (u.core c).wait = none ∧ (u.core c).pc = k.pc + 8 ∧ v ((u.core c).sreg rd)))
    Completes (.tallyAdv c id ra) s (fun t =>
      (t.tally n).value = g.value + k.sreg ra ∧ t.core c = k.issued (k.pc + 8) ∧
      (∀ m, m ≠ n → t.tally m = s.tally m) ∧ t.pegs = s.pegs ∧ t.bells = s.bells ∧ t.mem = s.mem) ∧
    answered (.tallyRead c rd id) (fun v => v = g.value) ∧
    ((k.sreg ra).toNat ≤ g.value.toNat → answered (.tallyWait c id ra) (fun v => v = k.sreg rd)) ∧
    (g.value.toNat < (k.sreg ra).toNat → Completes (.tallyWait c id ra) s (fun t =>
      (t.tally n).value = g.value ∧ (t.tally n).waiters.map Waiter.who = [.kingpost c] ∧ (t.core c).canIssue = false)) ∧
    (g.consEn = false → answered (.tallyRoom c id) (fun v => v = k.sreg rd))

/-- R222: a tally.adv that leaves diff above DEPTH on a bounded producer tally is performed, DEPTHF is set, TALLY_DEPTH
is logged with the tag, core ID, context ID and PVI program counter, and the kingpost goes on. Stated where no kingpost
waits on a tally. -/
def Obligations.advancePastDepth : Prop :=
  ∀ (s : State) (c : CoreId) (p : PartId) (id : BitVec 12) (ra : SReg) (n : Nat),
    Issues s c → s.partOf c = some p → s.tallyRef p (s.core c).ctx id.toNat = some (.local_ n) →
    (∀ e ∈ s.tallies, e.2.waiters = []) →
    let k := s.core c
    let g := s.tally n
    let value := g.value + k.sreg ra
    let diff := value - (if g.cons.toNat = n then value else (s.tally g.cons.toNat).value)
    let entry : Entry := {
      type := 0x03, reason := 0x0B, core := c.val, unit := 0, ctx := k.ctx.toNat, tag := s.launchTag c, d1 := n
      d2 := k.pc.toNat }
    g.consEn = true → g.depth ≠ 0 → (g.depth.toNat : Int) < diff.toInt →
    Completes (.tallyAdv c id ra) s (fun t =>
      t.tally n = { g with value := value, depthF := true } ∧ t.faultLog = (s.logPart p entry).faultLog ∧
      t.core c = k.issued (k.pc + 8) ∧ (∀ m, m ≠ n → t.tally m = s.tally m) ∧ t.mem = s.mem)

/-- Bells (R224): the first of several participants arrives, COUNT is stored, ARRIVED is 1 and the kingpost waits; the
last participant's arrival returns COUNT and ARRIVED to 0, advances GEN, releases every waiter, and its own instruction
is answered. A stop that found a kingpost waiting withdraws the request (R56): the object drops the waiter, the kingpost
takes the stop, and the instruction is executed again on resume, so the program counter stays. Stated for a peg on which
nobody else waits. -/
def Obligations.bellsAndWithdrawal : Prop :=
  (∀ (s : State) (c : CoreId) (p : PartId) (id : BitVec 12) (ra : SReg) (cnt : BitVec 16) (n : Nat),
     Issues s c → s.partOf c = some p → s.bellRef p (s.core c).ctx id.toNat = some n → (s.core c).stepping = false →
     (s.core c).arrived = none → 0 < cnt.toNat → cnt.toNat ≤ 4096 →
     let k := s.core c
     let b := s.bell n
     (b.count = 0 → b.arrived = 0 → b.waiters = [] → 1 < cnt.toNat →
       Completes (.bellArrive c id false ra cnt) s (fun t =>
         (t.bell n).count.toNat = cnt.toNat ∧ (t.bell n).arrived = 1 ∧ (t.bell n).gen = b.gen ∧
         (t.bell n).waiters.map Waiter.who = [.kingpost c] ∧ (t.core c).pc = k.pc ∧ (t.core c).canIssue = false)) ∧
     (b.count.toNat = cnt.toNat → b.arrived + 1 = b.count → b.waiters = [] →
       Completes (.bellArrive c id false ra cnt) s (fun t =>
         t.bell n = { count := 0, arrived := 0, gen := b.gen + 1, waiters := [] } ∧
         Completes (.syncAnswer c) t (fun u => (u.core c).wait = none ∧ (u.core c).pc = k.pc + 8)))) ∧
  (∀ (s : State) (c : CoreId) (w : SyncWait) (k : StopKind), s.alive = true → (s.core c).stopReq = some k →
     (s.core c).wait = some w → w.kind = .pegTake → w.satisfied = false → w.txn = none → k ≠ .abort →
     (∀ u, (s.core c).engOf u = {}) →
     (s.peg w.phys.toNat).waiters.map Waiter.who = [.kingpost c] →
     Completes (.syncWithdraw c) s (fun t =>
       (t.peg w.phys.toNat).waiters = [] ∧ (t.peg w.phys.toNat).count = (s.peg w.phys.toNat).count ∧
       (t.core c).stop = some k ∧ (t.core c).stopReq = none ∧ (t.core c).wait = none ∧ (t.core c).pc = (s.core c).pc))

/-- A push into a queue with room (R29 to R31, R34): the command enters at the queue's end with its operands captured
and its tag resolved; no other queue, no engine, no register and no bench byte of the core changes, nor any other core
or memory; the next instruction follows the 32 or 64 bytes of this one. Nonzero reserved fields of operand words in
register form are logged (R63), and without any nothing but the core changes. A push to a full queue stalls the kingpost
before it issues (R31): nothing enters the queue and the program counter stays; once the queue has room the stalled push
issues, with the effect it would have had. Stated for a plane command. -/
def Obligations.pushes : Prop :=
  (∀ (s : State) (c : CoreId) (h : CmdHdr) (w3 w7 : List Word), Issues s c → w3.length = 3 → w7.length = 7 →
     let k := s.core c
     let tag := if h.tag = 0 then BitVec.ofNat 16 (s.launchTag c) else h.tag
     let plane := planeUnit (unitOf h)
     let cart := cartUnit (unitOf h)
     ∀ x ∈ [(Instr.beamMm c h w7, 0x80#8, EngineUnit.beam, w7, 64), (.beamLoad c h w3, 0x81#8, .beam, w3, 32),
         (.beamAcc c h w3, 0x82#8, .beam, w3, 32), (.planeAdd c h w3, 0x90#8, plane, w3, 32),
         (.planeSub c h w3, 0x91#8, plane, w3, 32), (.planeMul c h w3, 0x92#8, plane, w3, 32),
         (.planeFma c h w3, 0x93#8, plane, w3, 32), (.planeMax c h w3, 0x94#8, plane, w3, 32),
         (.planeMin c h w3, 0x95#8, plane, w3, 32), (.planeAbs c h w3, 0x96#8, plane, w3, 32),
         (.planeNeg c h w3, 0x97#8, plane, w3, 32), (.planeCvt c h w3, 0x98#8, plane, w3, 32),
         (.planeExp c h w3, 0x9C#8, plane, w3, 32), (.planeLog c h w3, 0x9D#8, plane, w3, 32),
         (.planeRecip c h w3, 0x9E#8, plane, w3, 32), (.planeRsqrt c h w3, 0x9F#8, plane, w3, 32),
         (.planeTanh c h w3, 0xA0#8, plane, w3, 32), (.planeSigmoid c h w3, 0xA1#8, plane, w3, 32),
         (.planeRsum c h w3, 0xA4#8, plane, w3, 32), (.planeRmax c h w3, 0xA5#8, plane, w3, 32),
         (.planeOsm c h w3, 0xA8#8, plane, w3, 32), (.planeLsemerge c h w3, 0xA9#8, plane, w3, 32),
         (.cartCopy c h w3, 0xC0#8, cart, w3, 32), (.cartGather c h w7, 0xC1#8, cart, w7, 64),
         (.cartScatter c h w7, 0xC2#8, cart, w7, 64), (.grindJob c h w7, 0xD0#8, .grind, w7, 64)],
       k.full x.2.2.1 = false →
       Completes x.1 s (fun t =>
         (k.reservedValues x.2.1.toNat x.2.2.2.1 = [] → OnlyCore c s t) ∧ (∀ d, d ≠ c → t.core d = s.core d) ∧
         t.mem = s.mem ∧
         t.core c = ({ k with queues := (t.core c).queues, lastTag := tag } : Core).issued
           (k.pc + BitVec.ofNat 48 x.2.2.2.2) ∧
         (t.core c).queueOf x.2.2.1 =
           k.queueOf x.2.2.1 ++ [{ opc := x.2.1, h := { h with tag := tag }, w := x.2.2.2.1.map k.operand }] ∧
         ∀ u, u ≠ x.2.2.1 → (t.core c).queueOf u = k.queueOf u)) ∧
  (∀ (s : State) (c : CoreId) (h : CmdHdr) (w : List Word), Issues s c → w.length = 3 → (s.core c).stepping = false →
     let k := s.core c
     let u := planeUnit (unitOf h)
     let x : Cmd := { opc := 0x90, h := h, w := w }
     (k.full u = true → Completes (.planeAdd c h w) s (fun t =>
       OnlyCore c s t ∧ t.core c = { k with stalled := some x } ∧ (t.core c).canIssue = false)) ∧
     (∀ t : State, t.alive = true → t.core c = { k with stalled := some x } → k.full u = false → k.stop = none →
       let tag := if h.tag = 0 then BitVec.ofNat 16 (t.launchTag c) else h.tag
       Completes (.pushAfterStall c) t (fun v =>
         (v.core c).queueOf u = k.queueOf u ++ [{ opc := 0x90, h := { h with tag := tag }, w := w.map k.operand }] ∧
         (v.core c).stalled = none ∧ (v.core c).pc = k.pc + 32)))

/-- A command at the head of its queue (R32, R49): one without a take, or whose take is done, lets its engine go on to
it; one with a take sends it to its peg, which satisfies it at once if nobody waits before it and COUNT is not 0, else
the engine waits at the peg. The command stays in its queue until it starts. A command that passes its check starts
(R32, R33): it leaves the queue and its engine runs it; registers, the bench, the sticky flags and memory are unchanged,
and a beam.mm or beam.load leaves the beam the empty tile (R87). A command that fails its check is skipped (R33, R381):
it leaves the queue, none of its data actions happens, a SKIP entry with the reason is written, and the engine is idle.
Stated for a command without a post on a core that runs no launch and belongs to no partition. A cart command starts and
goes as far as it can (R32, R57): it leaves its queue, and its cart runs it until everything it has issued is answered.
-/
def Obligations.commandsStart : Prop :=
  (∀ (s : State) (c : CoreId) (u : EngineUnit) (x : Cmd) (q : List Cmd) (n : Nat), s.alive = true →
     let k := s.core c
     k.queueOf u = x :: q → (k.engOf u).phase = .idle → (k.engOf u).stopped = false → k.stop = none →
     s.badPegs c x = false →
     let taken := fun (ph : EngPhase) (t : State) =>
       ((t.core c).engOf u).phase = ph ∧ (t.core c).queueOf u = x :: q ∧ (t.core c).s = k.s ∧ (t.core c).bench = k.bench ∧
         t.mem = s.mem
     (x.h.takeEn = false ∨ x.takeDone = true →
       Completes (.commandAtHead c u) s (fun t => taken .ready t ∧ t.pegs = s.pegs)) ∧
     (x.h.takeEn = true → x.takeDone = false → s.corePeg c x.h.takePeg = some n → (s.peg n).waiters = [] →
       let g := s.peg n
       (g.count ≠ 0 → Completes (.commandAtHead c u) s (fun t =>
         taken .ready t ∧ (t.peg n).count = g.count - 1 ∧ (t.peg n).waiters = [] ∧ ∀ m, m ≠ n → t.peg m = s.peg m)) ∧
       (g.count = 0 → Completes (.commandAtHead c u) s (fun t =>
         taken .taking t ∧ (t.peg n).count = 0 ∧ (t.peg n).waiters.map Waiter.who = [.command c u] ∧
         ∀ m, m ≠ n → t.peg m = s.peg m)))) ∧
  (∀ (s : State) (c : CoreId) (u : EngineUnit) (x : Cmd) (q : List Cmd), s.alive = true →
     u = .beam ∨ u = .plane0 ∨ u = .plane1 →
     let k := s.core c
     k.queueOf u = x :: q → (k.engOf u).phase = .ready → (k.engOf u).stopped = false → k.stop = none →
     checkCmd k u x = none →
     Completes (.commandStart c u) s (fun t =>
       (t.core c).queueOf u = q ∧ ((t.core c).engOf u).phase = .running ∧ ((t.core c).engOf u).cmd = some x ∧
       ((t.core c).engOf u).done = 0 ∧ ((t.core c).engOf u).flags = 0 ∧
       (t.core c).s = k.s ∧ (t.core c).bench = k.bench ∧ (t.core c).flags = k.flags ∧ t.mem = s.mem ∧
       (t.core c).tile = (if u = .beam ∧ x.opc ≠ 0x82 then {} else k.tile) ∧
       (∀ v, v ≠ u → (t.core c).queueOf v = k.queueOf v ∧ (t.core c).engOf v = k.engOf v) ∧
       ∀ d, d ≠ c → t.core d = s.core d)) ∧
  (∀ (s : State) (c : CoreId) (u : EngineUnit) (x : Cmd) (q : List Cmd) (r : Nat), s.alive = true →
     u ≠ .grind → (s.core c).launch = none → s.partOfCore c = none → x.h.postEn = false →
     let k := s.core c
     k.queueOf u = x :: q → (k.engOf u).phase = .ready → (k.engOf u).stopped = false → k.stop = none →
     checkCmd k u x = some r →
     let e : Entry := {
       type := 0x01, reason := r, core := c.val, unit := unitCode u, ctx := k.ctx.toNat, tag := x.h.tag.toNat }
     Completes (.commandStart c u) s (fun t =>
       (t.core c).queueOf u = q ∧ (t.core c).engOf u = (k.engOf u).cleared ∧ (t.core c).s = k.s ∧ (t.core c).lc = k.lc ∧
       (t.core c).bench = k.bench ∧ (t.core c).flags = k.flags ∧ (t.core c).tile = k.tile ∧ t.mem = s.mem ∧
       t.moduleLog = (s.logModule e).moduleLog ∧ (∀ d, d ≠ c → t.core d = s.core d))) ∧
  (∀ (s : State) (c : CoreId) (n : Fin 2) (x : Cmd) (q : List Cmd), s.alive = true →
     let k := s.core c
     let u := cartUnit n
     k.queueOf u = x :: q → (k.engOf u).phase = .ready → (k.engOf u).stopped = false → k.stop = none →
     checkCart k n x = none →
     Completes (.commandStart c u) s (fun t =>
       (t.core c).queueOf u = q ∧ ((t.core c).engOf u).phase = .running ∧ ((t.core c).engOf u).cmd = some x ∧
       (t.core c).s = k.s ∧ (t.core c).flags = k.flags ∧ t.mem = s.mem))

/-- A beam or plane command finishes (R52, R53): the rest of its schedule runs out, its flags join the sticky word of
its engine and no other, and the engine is idle. Stated for a command without a post whose work runs to its end and that
no stop holds. A cart command whose rows are all moved and whose accesses are all answered finishes (R32): the cart is
idle, and bench, registers and sticky flags are unchanged, for carts raise no flags (R52). Stated for a command without
a post. -/
def Obligations.commandsFinish : Prop :=
  (∀ (s : State) (c : CoreId) (u : EngineUnit) (x : Cmd) (f : Nat), s.alive = true →
     (u = .beam ∨ u = .plane0 ∨ u = .plane1) → flagEngine u = some f →
     let k := s.core c
     let e := k.engOf u
     e.cmd = some x → e.phase = .running → e.stopped = false → e.early = none → e.limit = none → x.h.postEn = false →
     let w := s.runOut c u x
     w.stop = none →
     Completes (.commandFinish c u) s (fun t =>
       ((t.core c).engOf u).phase = .idle ∧ ((t.core c).engOf u).cmd = none ∧ (t.core c).bench = w.core.bench ∧
       (t.core c).tile = w.core.tile ∧ (t.core c).s = k.s ∧ (t.core c).queues = k.queues ∧
       (t.core c).flagWord f = k.flagWord f ||| (w.core.engOf u).flags ∧
       (∀ m, m ≠ f → (t.core c).flagWord m = k.flagWord m) ∧ t.mem = s.mem ∧ ∀ d, d ≠ c → t.core d = s.core d)) ∧
  (∀ (s : State) (c : CoreId) (n : Fin 2) (x : Cmd), s.alive = true →
     let k := s.core c
     let u := cartUnit n
     let e := k.engOf u
     e.cmd = some x → e.phase = .running → e.stopped = false → e.cartDone = true → e.early = none → x.h.postEn = false →
     Completes (.commandFinish c u) s (fun t =>
       OnlyCore c { s with regs := t.regs, trace := t.trace } t ∧ t.core c = k.setEng u e.cleared))

/-- A stop reaches the engines (R38, R94, R95, R135): an idle engine stops with the record of an idle engine, or on an
abort with none; a running beam or plane command goes on up to a stop point short of its end, and then its engine is
stopped with the command, its progress and its record, which the context keeps; on an abort the command is dropped and
its flags join the sticky word. A resumed plane takes up its command where it stopped (R38): the record stays, the
engine is no longer stopped, nothing else changes. At a duty wrap the beam's duty follows PWR_CAP: min(64, (CAP − 1000)
× 64 / 1000) in PWR_DUTY, nothing else (R92, R377); it wraps only when the duty counter reads 0. -/
def Obligations.enginesStopAndResume : Prop :=
  (∀ (s : State) (c : CoreId) (u : EngineUnit) (units : Nat) (kind : StopKind) (x : Cmd), s.alive = true →
     let k := s.core c
     let e := k.engOf u
     k.stop = some kind → e.stopped = false →
     (e.cmd = none → u ≠ .grind → kind ≠ .abort → Completes (.engineStopped c u units) s (fun t =>
       OnlyCore c s t ∧
       t.core c = k.setEng u { e with stopped := true, record := idleRecord k u, flow := {}, idx := none })) ∧
     (e.cmd = none → u ≠ .grind → kind = .abort → Completes (.engineStopped c u units) s (fun t =>
       OnlyCore c s t ∧ t.core c = (k.joinFlags u e.flags).setEng u { stopped := true })) ∧
     (u = .beam ∨ u = .plane0 ∨ u = .plane1 → e.cmd = some x → e.early = none → ∀ l, e.limit = some l →
       let lim := laterStop k u x l units
       lim < unitsOfCmd k u x →
       let w := workOf k u x s.coreCycle s.duty lim
       let g := w.core.engOf u
       w.stop = none → Completes (.engineStopped c u units) s (fun t =>
         (t.core c).bench = w.core.bench ∧ (t.core c).s = k.s ∧ t.mem = s.mem ∧ (∀ d, d ≠ c → t.core d = s.core d) ∧
         (kind ≠ .abort →
           (t.core c).engOf u = { g with stopped := true, record := runRecord w.core u x g, flow := {}, idx := none }) ∧
         (kind = .abort → (t.core c).engOf u = { stopped := true } ∧
           ∀ f, flagEngine u = some f → (t.core c).flagWord f = k.flagWord f ||| g.flags)))) ∧
  (∀ (s : State) (c : CoreId) (u : EngineUnit), s.alive = true → u = .plane0 ∨ u = .plane1 ∨ u = .grind →
     let k := s.core c
     k.stop = none → (k.engOf u).stopped = true →
     Completes (.engineResume c u) s (fun t =>
       OnlyCore c s t ∧ t.core c = k.setEng u { k.engOf u with stopped := false, limit := none })) ∧
  (∀ s : State, s.alive = true →
     (s.dutyCount ≠ 0 → exec .dutyWrap s = .next s) ∧
     (s.dutyCount = 0 → Completes .dutyWrap s (fun t =>
       t.fld oPWR_DUTY 6 0 = min 64 ((s.fld oPWR_CAP 11 0 - 1000) * 64 / 1000) ∧
       (∀ o, o ≠ oPWR_DUTY → t.reg o = s.reg o) ∧ t = { s with regs := t.regs })))

/-- A fetch that misses (R26, R27): the kingpost stalls before the instruction, which stays the next one; the line and
those of the following eight lines that are neither in the cache nor coming are requested, in order, up to eight fills
in all. Stated for a core with no fill outstanding. The two reads of a line arrive (R25, R26, R401): with good data the
line is in the cache and a kingpost that waited for it goes on; where one of them met an error the line is not in the
cache and its error is kept. A kingpost that needs a line which met an error stops fetching, as if it had reached its
end, and the skip is logged with reason 0x14 and the error's code (R401), in the module error log where the core runs no
launch and belongs to no partition; a step ends with it. -/
def Obligations.instructionFetch : Prop :=
  (∀ (s : State) (c : CoreId) (line : BitVec 41), Issues s c →
     let k := s.core c
     k.cached line.toNat = false → k.fills = [] → k.stepping = false →
     Completes (.fetchMiss c line) s (fun t =>
       (t.core c).needLine = some line.toNat ∧ (t.core c).canIssue = false ∧ (t.core c).pc = k.pc ∧ (t.core c).s = k.s ∧
       (t.core c).fills.map Prod.fst = (((List.range 9).map (line.toNat + ·)).filter k.absent).take 8 ∧
       (t.core c).icache = k.icache ∧ t.mem = s.mem)) ∧
  (∀ (s t0 : State) (c : CoreId) (line : Nat) (rs : List MemResp), s.alive = true →
     s.readyFill c = some (line, rs, t0) →
     let k := s.core c
     ((∀ r ∈ rs, r.status = 0) → Completes (.fetchLineArrive c) s (fun t =>
       (t.core c).cached line = true ∧ (k.needLine = some line → (t.core c).needLine = none) ∧
       (∃ more, (t.core c).fills = k.fills.filter (fun f => f.1 != line) ++ more) ∧ (t.core c).s = k.s ∧
       (t.core c).pc = k.pc ∧ t.mem = s.mem)) ∧
     (∀ r, rs.find? (fun r => decide (r.status ≠ 0)) = some r → Completes (.fetchLineArrive c) s (fun t =>
       (t.core c).icache = k.icache ∧ tabGet (fun _ => 0) line (t.core c).badLines = r.status ∧
       (t.core c).needLine = k.needLine ∧ (t.core c).s = k.s ∧ t.mem = s.mem))) ∧
  (∀ (s : State) (c : CoreId) (line : Nat) (b : Nat × BitVec 16), s.alive = true →
     let k := s.core c
     k.run = .running → k.needLine = some line →
     k.badLines.find? (fun b => b.1 == line) = some b →
     let e : Entry := {
       type := 0x01, reason := 0x14, core := c.val, unit := 0, ctx := k.ctx.toNat, status := b.2.toNat, d1 := k.pc.toNat }
     let over_ : Core := {
       k with run := .ended, needLine := none, stepping := false, stopCause := if k.stepping then 3 else k.stopCause }
     Completes (.fetchError c) s (fun t =>
       t.core c = { over_ with launch := (t.core c).launch } ∧ (∀ d, d ≠ c → t.core d = s.core d) ∧ t.mem = s.mem) ∧
     (k.launch = none → s.partOfCore c = none → exec (.fetchError c) s = .next ((s.logModule e).setCore c over_)))

/-- A launch all of whose cores have finished completes (R54, R284): no core belongs to it any more, each of its cores
is idle with its registers and bench as the program left them, and the launch is gone; one whose context is out
completes only where it was cancelled. The loader takes up the first waiting image that is not set aside (R45, R46): one
whose address an image in use holds is set aside; one that is loaded already is given to its LAUNCH; else the header and
the code are read through the context's translation, and what it found goes to the translation: the failing read's
status, or status 0x16 for a code that fails its check, or none. A translation ends (R46, R62): a refused image leaves
its LAUNCH with the status; one that fits joins the loaded images of its partition in place of one of the same address,
with its entry, its code length and whether it has a malformed instruction; one that the native code area cannot hold is
refused, with 0x0102 where the area lies outside the partition's memory, with 0x17 where it has no room, with the error
response where its write meets one; and one whose address is in use is set aside. A LAUNCH set aside is taken up again
once no core runs the old image of its address (R46). A take-up that has to wait for a channel leaves the waiting
images, the cores and the memory as they are. -/
def Obligations.launchesAndImages : Prop :=
  (∀ (s : State) (r : RingId) (q : BitVec 32) (l : Launch), s.alive = true →
     s.launches.find? (fun l => decide (l.ring = r) && decide (l.seq = q)) = some l →
     let left := s.launches.filter (fun x => !(decide (x.ring = r) && decide (x.seq = q)))
     (s.launchIn l = true → s.launchOver l = true → l.cancelled = false → Completes (.launchFinish r q) s (fun t =>
       t.launches = left ∧
       (∀ c ∈ l.cores, s.belongs l c = true → (t.core c).launch = none ∧ (t.core c).run = .idle ∧
         (t.core c).s = (s.core c).s ∧ (t.core c).bench = (s.core c).bench ∧ (t.core c).tile = (s.core c).tile) ∧
       (∀ c, c ∉ l.cores → t.core c = s.core c) ∧ t.mem = s.mem)) ∧
     (s.launchIn l = false → l.cancelled = true → Completes (.launchFinish r q) s (fun t =>
       t.launches = left ∧ t.mem = s.mem)) ∧
     (s.launchIn l = false → l.cancelled = false → exec (.launchFinish r q) s = .next s)) ∧
  (∀ (s : State) (w : LoadWait) (rest : List LoadWait), s.alive = true → s.loadJob = none → s.loadQueue = w :: rest →
     w.parked = false →
     let s0 : State := { s with loadQueue := rest }
     (s.mustPark w = true → s.stalls = [] → Completes .loaderTakeImage s (fun t =>
       t = { s with loadQueue := s.loadQueue.map (fun v => if v = w then { w with parked := true } else v) })) ∧
     (s.mustPark w = false → s.isLoaded w = true → s.stalls = [] →
       exec .loaderTakeImage s = .next (s0.giveImage w)) ∧
     (s.mustPark w = false → s.isLoaded w = false → (s0.takeImage w).stalls = [] →
       let x := s0.launchReads w.part w.ctx (w.desc s0)
       let h := s0.readVa x w.key.va.toNat 64
       let crc := BitVec.ofNat 32 (fieldLe h.2.2 12 4)
       let w1 : LoadWait := { w with key := { w.key with crc := crc } }
       (h.2.1 ≠ 0 → Completes .loaderTakeImage s (fun t =>
         t = { h.1 with
           loadJob := some { wait := w, code := [], entry := 0, refused := some (BitVec.ofNat 16 h.2.1) }
           loaderLines := [] })) ∧
       (h.2.1 = 0 → (h.2.2.drop 24).any (fun b => b != 0) = false → badHeader h.2.2 = false →
         let c := h.1.readVa x (w.key.va.toNat + 64) (fieldLe h.2.2 8 4)
         h.1.isLoaded w1 = false → c.2.1 = 0 → Completes .loaderTakeImage s (fun t =>
           t = { c.1 with
             loadJob := some {
               wait := w1, code := c.2.2, entry := fieldLe h.2.2 16 8
               refused := if badCode h.2.2 c.2.2 then some 0x16 else none }
             loaderLines := [] }))) ∧
     (s.nextImage.stalls ≠ [] → Completes .loaderTakeImage s (fun t =>
       t.loadQueue = s.loadQueue ∧ t.loadJob = none ∧ t.cores = s.cores ∧ t.mem = s.mem))) ∧
  (∀ (s : State) (j : LoadJob), s.alive = true → s.loadJob = some j → s.stalls = [] →
     let s0 : State := { s with loadJob := none }
     (∀ st, j.refused = some st → Completes .imageTranslated s (fun t => t = s0.refuseImage j.wait st.toNat)) ∧
     (j.refused = none → s0.mustPark j.wait = true → Completes .imageTranslated s (fun t =>
       t = { s0 with loadQueue := queueLoad { j.wait with parked := true } s.loadQueue })) ∧
     (j.refused = none → s0.mustPark j.wait = false →
       let p := j.wait.part
       let key := j.wait.key
       let others := (s.part p).images.filter (fun i => decide (i.key.va ≠ key.va))
       let len := Config.nativeLen key.va.toNat key.crc.toNat % (2 * j.code.length) + 1
       let room := s0.makeRoom p len (Config.nativePlace key.va.toNat key.crc.toNat) 65 others
       let inside := s.inRanges p (s.ncaBase p) (s.ncaSize p)
       (inside = false → exec .imageTranslated s = .next (s0.refuseImage j.wait 0x0102)) ∧
       (inside = true → room = none → exec .imageTranslated s =
         .next ((s0.modPart p (fun q => { q with images := others })).refuseImage j.wait 0x17)) ∧
       (inside = true → ∀ keep base, room = some (keep, base) →
         let z := (s0.logCode j.wait j.code).writeFree (some p) base len
         z.1.stalls = [] →
         (z.2 ≠ 0 → exec .imageTranslated s = .next (z.1.refuseImage j.wait z.2)) ∧
         (z.2 = 0 → Completes .imageTranslated s (fun t =>
           t.loadJob = none ∧
           (t.part p).images = keep ++ [{
             key := key, entry := BitVec.ofNat 48 j.entry, codeLen := j.code.length, nativeBase := base
             nativeSize := len, malformed := (codeStarts j.code).any (pviMalformed j.code (codeStarts j.code))
             lastUse := s.launchOrder }]))))) ∧
  (∀ (s : State) (p : PartId) (va : BitVec 52), s.alive = true →
     let mine := fun (w : LoadWait) => w.parked && decide (w.part = p) && decide (w.key.va = va) && !s.mustPark w
     Completes (.imageIdle p va) s (fun t =>
       t = { s with loadQueue := s.loadQueue.map (fun w => if mine w then { w with parked := false } else w) }))

/-- A write of GMODE (R158, R160): one that changes PROC starts a switch, which a channel with an open bank refuses on
its way to processor mode and a channel with a quern in RUN on its way to memory mode; a refused one sets VIOL; one that
does not change PROC has no effect. A switch ends (R158 to R160, R211): the channel is in the mode it was on its way to;
VIOL, if it was set, has been logged and is clear; a channel back in memory mode counts as grinding for 1 µs more. A
write that would start a switch to processor mode while requests wait at the controller leaves the channel as it is
(R197). Stated for a channel without a waiting load of its store. The mode registers of a granary channel (R177): GQMASK
takes the value written, a write of GSTAT is refused, and a read of GMODE, GQMASK and GSTAT puts PROC, the mask, and
state and VIOL on the channel's data bus; the read of GSTAT clears VIOL. The activate scheduler (R157, R163): of the
bank pairs whose activate has been requested, the lowest is granted and waits no longer, unless eight grants lie in the
last 16 grain cycles or no activate is due; then nothing is granted. -/
def Obligations.granaryModes : Prop :=
  (∀ (s : State) (g : GranChan) (v : BitVec 16), s.alive = true →
     let c := s.gchan g
     let into := fun (k : Chan) => Completes (.mrwGmode g v) s (fun t => OnlyChan (granChan g) s t ∧ t.gchan g = k)
     (v.getLsbD 0 = procBit c.mode → exec (.mrwGmode g v) s = .next s) ∧
     (v.getLsbD 0 = true → procBit c.mode = false → c.queue ≠ [] → exec (.mrwGmode g v) s = .next s) ∧
     (v.getLsbD 0 = true → procBit c.mode = false → c.queue = [] → c.openBanks ≠ [] → into { c with viol := true }) ∧
     (v.getLsbD 0 = true → procBit c.mode = false → c.queue = [] → c.openBanks = [] →
       s.grinding g = true ∨ (s.grindingIn (g.val / 32)).length < 24 →
       into { c with mode := .toProcessor }) ∧
     (v.getLsbD 0 = false → procBit c.mode = true → s.running g ≠ [] → into { c with viol := true }) ∧
     (v.getLsbD 0 = false → procBit c.mode = true → s.running g = [] →
       into { c with mode := .toMemory, actWait := [] })) ∧
  (∀ (s : State) (g : GranChan), s.alive = true → s.bit (oQPROG_STAT (granChan g)) 0 = false →
     let c := s.gchan g
     (c.mode = .toProcessor → Completes (.modeSwitchDone g) s (fun t =>
       t.gchan g = { c with mode := .processor, viol := false } ∧ t.mem = s.mem ∧ t.querns = s.querns)) ∧
     (c.mode = .toMemory → Completes (.modeSwitchDone g) s (fun t =>
       t.gchan g = {
         c with mode := .memory, viol := false, backAt := s.cycles + 10000, dwell := c.queue.map (fun r => r.id) } ∧
       t.mem = s.mem ∧ t.querns = s.querns)) ∧
     (c.viol = true → (c.mode = .toProcessor ∨ c.mode = .toMemory) → Completes (.modeSwitchDone g) s (fun t =>
       t.bit (oGRAN_VIOL (granChan g)) 0 = true))) ∧
  (∀ (s : State) (g : GranChan) (v : BitVec 16), s.alive = true →
     let c := s.gchan g
     let bus := fun (n : Nat) => s.outbox ++ [Out.channelData (granChan g) (natLe 2 n)]
     Completes (.mrwGqmask g v) s (fun t => OnlyChan (granChan g) s t ∧ t.gchan g = { c with gqmask := v }) ∧
     Completes (.mrwGstat g v) s (fun t => OnlyChan (granChan g) s t ∧ t.gchan g = { c with viol := true }) ∧
     Completes (.mrr g 0x40) s (fun t => t = { s with outbox := bus (boolNat (procBit c.mode)) }) ∧
     Completes (.mrr g 0x41) s (fun t => t = { s with outbox := bus c.gqmask.toNat }) ∧
     Completes (.mrr g 0x42) s (fun t =>
       t.outbox = bus (gStateCode c.mode + 4 * boolNat c.viol) ∧ t.gchan g = { c with viol := false } ∧ t.mem = s.mem)) ∧
  (∀ (s : State) (g : GranChan), s.alive = true →
     let c := s.gchan g
     let now := s.cycles / 20
     let recent := c.actGrants.filter (fun t => decide (now < t + 16))
     let due := c.actWait.filter (fun x => decide (x.2 ≤ now))
     (due = [] → exec (.activateGrant g) s = .next s) ∧
     ∀ x, due.find? (fun y => y.1 == x.1) = some x → (∀ y ∈ due, x.1 ≤ y.1) →
       (recent.length < 8 → Completes (.activateGrant g) s (fun t =>
         OnlyChan (granChan g) s t ∧ t.gchan g = { c with actWait := c.actWait.erase x, actGrants := recent ++ [now] })) ∧
       (8 ≤ recent.length → exec (.activateGrant g) s = .next s))

/-- PLD (R169, R176): in memory mode it writes sixteen instructions of the store, little-endian, and leaves the others;
in any other state it is refused and sets VIOL (R158, R159). A write of QPROG_CTL with LOAD (R170): in memory mode the
controller loads the store from QPROG_STAGE, STORED reads 1 and CRC is that of the store's bytes. -/
def Obligations.quernStores : Prop :=
  (∀ (s : State) (g : GranChan) (line : Fin 16) (data : List Byte), s.alive = true → data.length = 64 →
     let c := s.gchan g
     let instr := fun (t : State) (n : Nat) => tabGet (fun _ => (0 : BitVec 32)) n (t.gchan g).store
     (c.mode = .memory → Completes (.pld g line data) s (fun t =>
       OnlyChan (granChan g) s t ∧ t.gchan g = { c with store := (t.gchan g).store } ∧
       (∀ i, i < 16 → (instr t (16 * line.val + i)).toNat = fieldLe data (4 * i) 4) ∧
       ∀ n, n < 16 * line.val ∨ 16 * line.val + 16 ≤ n → instr t n = instr s n)) ∧
     (c.mode ≠ .memory → Completes (.pld g line data) s (fun t =>
       OnlyChan (granChan g) s t ∧ t.gchan g = { c with viol := true }))) ∧
  (∀ (s : State) (g : GranChan) (ch : ChanId), s.alive = true → s.power.configReady = true → s.ready = true →
     asGran ch = some g → (s.gchan g).mode = .memory → s.bit (oQPROG_STAT ch) 0 = false →
     Completes (.qprogLoad 0 ch) s (fun t =>
       (∀ i, i < 256 → tabGet (fun _ => (0 : BitVec 32)) i (t.gchan g).store = (s.reg (oQPROG_STAGE ch i)).setWidth 32) ∧
       t.bit (oQPROG_STAT ch) 1 = true ∧ t.bit (oQPROG_STAT ch) 0 = false ∧
       t.fld (oQPROG_STAT ch) 63 32 = crc32c (storeBytes (t.gchan g).store) % 2 ^ 32 ∧ t.mem = s.mem))

/-- QWR and QRD in processor mode (R166, R167, R176): QWR writes one line of the local storage or command area of one
quern, or with BC of all sixteen, and is refused while one it names is in RUN; lines 9 and up of the command area ignore
it; QRD puts the line as it then is on the data bus. -/
def Obligations.quernLines : Prop :=
  ∀ (s : State) (g : GranChan) (line : BitVec 7) (bc : Bool) (p : Fin 16) (data : List Byte), s.alive = true →
    data.length = 64 → (s.gchan g).mode = .processor →
    let named := fun (r : Fin 16) => bc = true ∨ r = p
    ((∃ r, named r ∧ (s.quern g r).running = true) → ∀ sp : BitVec 1, Completes (.qwr g sp line bc p data) s (fun t =>
      t.querns = s.querns ∧ (t.gchan g).viol = true ∧ t.mem = s.mem)) ∧
    ((∀ r, named r → (s.quern g r).running = false) →
      Completes (.qwr g 0 line bc p data) s (fun t =>
        t = { s with querns := t.querns } ∧
        (∀ r, named r → readBytes (t.quern g r).local_ (64 * line.toNat) 64 = data ∧
          t.quern g r = { s.quern g r with local_ := (t.quern g r).local_ }) ∧
        ∀ r, ¬ named r → t.quern g r = s.quern g r) ∧
      Completes (.qwr g 1 line bc p data) s (fun t =>
        t = { s with querns := t.querns } ∧
        (∀ r, named r → line.toNat ≤ 8 → readBytes (t.quern g r).cmdArea (64 * line.toNat) 64 = data) ∧
        (∀ r, named r → 8 < line.toNat → t.quern g r = s.quern g r) ∧
        ∀ r, ¬ named r → t.quern g r = s.quern g r)) ∧
    Completes (.qrd g 0 line p) s (fun t => t = { s with outbox :=
      s.outbox ++ [.channelData (granChan g) (readBytes (s.quern g p).local_ (64 * line.toNat) 64)] }) ∧
    Completes (.qrd g 1 line p) s (fun t => t = { s with outbox :=
      s.outbox ++ [.channelData (granChan g) (if line.toNat ≤ 8
        then readBytes (s.quern g p).cmdArea (64 * line.toNat) 64 else natLe 64 0)] })

/-- QGO in processor mode (R176, R178): each quern that GQMASK selects starts at the entry with its registers, its table
position, its flags and CE at zero, in RUN, or with PARAM where its command words are out of range; a quern not selected
takes IDLE; local storage and command areas stay. Refused while a selected quern is in RUN. QST returns the sixteen
status words in the order of the bank pairs, and QSTOP, as a time-out of its channel, stops every quern in RUN with
status STOPPED and leaves its data (R176, R179, R191). Both act in processor mode only. -/
def Obligations.quernsStartAndStop : Prop :=
  (∀ (s : State) (g : GranChan) (entry : BitVec 8), s.alive = true → (s.gchan g).mode = .processor →
     let c := s.gchan g
     ((∃ p : Fin 16, c.gqmask.getLsbD p.val = true ∧ (s.quern g p).running = true) → Completes (.qgo g entry) s (fun t =>
       OnlyChan (granChan g) s t ∧ t.gchan g = { c with viol := true })) ∧
     ((∀ p : Fin 16, c.gqmask.getLsbD p.val = true → (s.quern g p).running = false) → Completes (.qgo g entry) s (fun t =>
       (t.gchan g).starts = c.starts + 1 ∧ t.mem = s.mem ∧
       ∀ p : Fin 16,
         let q := s.quern g p
         let r := t.quern g p
         r.local_ = q.local_ ∧ r.cmdArea = q.cmdArea ∧
         (c.gqmask.getLsbD p.val = false → r.status = 0) ∧
         (c.gqmask.getLsbD p.val = true →
           (∀ a, r.reg a = 0) ∧ r.pc = entry ∧ r.btp = 0 ∧ r.bn = 0 ∧ r.flags = 0 ∧ r.ce = false ∧
           r.status = if q.qn = 0 ∨ 8 < q.qn ∨ 128 < q.nb ∨ q.dfmt = 3 then 8 else 1)))) ∧
  (∀ (s : State) (g : GranChan), s.alive = true → (s.gchan g).mode = .processor →
     Completes (.qst g) s (fun t => t = { s with outbox :=
       s.outbox ++ [.channelData (granChan g) ((List.finRange 16).flatMap (fun p => natLe 4 (s.quern g p).statusWord))] }) ∧
     (let stopped := fun (t : State) => ∀ p : Fin 16,
         t.quern g p = (if (s.quern g p).running then { s.quern g p with status := 6 } else s.quern g p)
      Completes (.qstop g) s (fun t => stopped t ∧ (t.gchan g).viol = false ∧ t.mem = s.mem) ∧
      (s.running g ≠ [] → Completes (.quernTimeout g) s (fun t => stopped t ∧ (t.gchan g).viol = false ∧ t.mem = s.mem))))

/-- R179: QST returns 16 words of 32 bits; word p holds the status of quern p in [3:0], its flag word in [9:4], LINE in
[30:10], which is zero unless the status is ADDR, UE or PAR, and CE in [31]. -/
def Obligations.quernStatusWords : Prop :=
  ∀ (s : State) (g : GranChan), s.alive = true → (s.gchan g).mode = .processor →
    Completes (.qst g) s (fun t => ∃ bs : List Byte, bs.length = 64 ∧
      t = { s with outbox := s.outbox ++ [.channelData (granChan g) bs] } ∧
      ∀ p : Fin 16,
        let w := fieldLe bs (4 * p.val) 4
        let q := s.quern g p
        bitsOf w 3 0 = q.status.toNat ∧ bitsOf w 9 4 = q.flags.toNat ∧ bitOf w 31 = q.ce ∧
        bitsOf w 30 10 = if q.status = 4 ∨ q.status = 5 ∨ q.status = 9 then q.line.toNat else 0)

/-- The register instructions of a quern (R172): the destination takes the result modulo 2^32, the instruction after it
in the store follows, no other register, no byte of local storage or of the command area, no status and no other quern
changes. The branches of a quern (R172): the program counter goes to the store index of the instruction where the branch
is taken, else the instruction after it follows; loop first decrements its register modulo 2^32. nblk (R168, R172):
while block-table entries remain, the register takes the LINE of the next one, BN its N, and BTP goes on; where none
remains the branch is taken and nothing else changes. The stops of a quern that has no bank access (R172, R175): halt
stops it with status DONE, an opcode that the table does not hold with BADOP, execution past store index 255 with PC,
each with a LINE of zero; registers, local storage and the command area stay. A parity error in what an instruction
fetches or reads stops the quern with PAR, whatever the instruction, and nothing else of it happens (R174). -/
def Obligations.quernControl : Prop :=
  (∀ (s : State) (g : GranChan) (p : Fin 16) (d a b : GReg) (imm18 : BitVec 18) (imm14 : BitVec 14) (imm8 : BitVec 8),
     s.alive = true → s.qRuns g p = true →
     let w := s.qWord g p
     let q := s.quern g p
     ∀ x ∈ [(Instr.qLi g ⟨p, false⟩ d imm18, 0x05, w % 2 ^ 18 = imm18.toNat, imm18.setWidth 32),
         (.qLui g ⟨p, false⟩ d imm14, 0x06, w % 2 ^ 14 = imm14.toNat, imm14 ++ (q.reg d).setWidth 18),
         (.qAddi g ⟨p, false⟩ d a imm14, 0x07, qA w = a.val ∧ w % 2 ^ 14 = imm14.toNat, q.reg a + imm14.signExtend 32),
         (.qAdd g ⟨p, false⟩ d a b, 0x08, qA w = a.val ∧ qB w = b.val, q.reg a + q.reg b),
         (.qSub g ⟨p, false⟩ d a b, 0x09, qA w = a.val ∧ qB w = b.val, q.reg a - q.reg b),
         (.ldcw g ⟨p, false⟩ d imm8, 0x0A, w % 256 = imm8.toNat, BitVec.ofNat 32 (q.cw (imm8.toNat % 16)))],
       qOp w = x.2.1 → qD w = d.val → x.2.2.1 →
       Completes x.1 s (fun t =>
         OnlyQuern g p s t ∧
         t.quern g p = { q with g := (t.quern g p).g, pc := q.pc + 1, past := decide (q.pc = 255) } ∧
         (t.quern g p).reg d = x.2.2.2 ∧ ∀ r, r ≠ d → (t.quern g p).reg r = q.reg r)) ∧
  (∀ (s : State) (g : GranChan) (p : Fin 16) (a : GReg) (imm8 : BitVec 8), s.alive = true → s.qRuns g p = true →
     let w := s.qWord g p
     let q := s.quern g p
     w % 256 = imm8.toNat →
     ∀ x ∈ [(Instr.qJmp g ⟨p, false⟩ imm8, 0x01, true, q), (.qBz g ⟨p, false⟩ a imm8, 0x02, decide (q.reg a = 0), q),
         (.qBnz g ⟨p, false⟩ a imm8, 0x03, decide (q.reg a ≠ 0), q),
         (.qLoop g ⟨p, false⟩ a imm8, 0x04, decide (q.reg a ≠ 1), q.setReg a (q.reg a - 1))],
       qOp w = x.2.1 → (x.2.1 ≠ 0x01 → qA w = a.val) →
       exec x.1 s = .next (s.setQuern g p (if x.2.2.1 then { x.2.2.2 with pc := imm8 } else
         { x.2.2.2 with pc := q.pc + 1, past := decide (q.pc = 255) }))) ∧
  (∀ (s : State) (g : GranChan) (p : Fin 16) (d : GReg) (imm8 : BitVec 8), s.alive = true → s.qRuns g p = true →
     let w := s.qWord g p
     let q := s.quern g p
     let e := leNat (readBytes q.cmdArea (64 + 4 * q.btp.toNat) 4)
     qOp w = 0x0D → qD w = d.val → w % 256 = imm8.toNat →
     Completes (.nblk g ⟨p, false⟩ d imm8) s (fun t =>
       OnlyQuern g p s t ∧
       (q.btp.toNat < q.nb →
         (t.quern g p).reg d = BitVec.ofNat 32 (e % 2 ^ 21) ∧ (t.quern g p).bn.toNat = e / 2 ^ 21 % 64 + 1 ∧
         (t.quern g p).btp = q.btp + 1 ∧ (t.quern g p).pc = q.pc + 1 ∧ (t.quern g p).local_ = q.local_ ∧
         ∀ r, r ≠ d → (t.quern g p).reg r = q.reg r) ∧
       (q.nb ≤ q.btp.toNat → t.quern g p = { q with pc := imm8 }))) ∧
  (∀ (s : State) (g : GranChan) (p : Fin 16), s.alive = true →
     let q := s.quern g p
     let stopped := fun (n : BitVec 4) => Host.Outcome.next (s.setQuern g p { q with status := n, line := 0 })
     (s.qRuns g p = true → qOp (s.qWord g p) = 0x00 → exec (.qHalt g ⟨p, false⟩) s = stopped 2) ∧
     (s.qRuns g p = true → ∀ w : BitVec 32, s.qWord g p = w.toNat → qDefined (qOp w.toNat) = false →
       exec (.badop g p w) s = stopped 3) ∧
     ((s.gchan g).mode = .processor → q.status = 1 → q.past = true → exec (.quernPcOverrun g p) s = stopped 7)) ∧
  (∀ (s : State) (g : GranChan) (p : Fin 16) (d a b : GReg) (imm18 : BitVec 18) (imm14 : BitVec 14) (imm8 : BitVec 8),
     s.alive = true → s.qRuns g p = true →
     let w := s.qWord g p
     let q := s.quern g p
     qD w = d.val → qA w = a.val → qB w = b.val → w % 2 ^ 18 = imm18.toNat → w % 2 ^ 14 = imm14.toNat →
     w % 256 = imm8.toNat →
     ∀ x ∈ [(Instr.qHalt g ⟨p, true⟩, 0x00), (.qJmp g ⟨p, true⟩ imm8, 0x01), (.qBz g ⟨p, true⟩ a imm8, 0x02),
         (.qBnz g ⟨p, true⟩ a imm8, 0x03), (.qLoop g ⟨p, true⟩ a imm8, 0x04), (.qLi g ⟨p, true⟩ d imm18, 0x05),
         (.qLui g ⟨p, true⟩ d imm14, 0x06), (.qAddi g ⟨p, true⟩ d a imm14, 0x07), (.qAdd g ⟨p, true⟩ d a b, 0x08),
         (.qSub g ⟨p, true⟩ d a b, 0x09), (.ldcw g ⟨p, true⟩ d imm8, 0x0A), (.lw g ⟨p, true⟩ d a imm14, 0x0B),
         (.sw g ⟨p, true⟩ b a imm14, 0x0C), (.nblk g ⟨p, true⟩ d imm8, 0x0D), (.acci g ⟨p, true⟩, 0x10),
         (.quernOsm g ⟨p, true⟩, 0x12), (.kvapp g p a b true, 0x15)],
       qOp w = x.2 → Completes x.1 s (fun t =>
         t = { s with querns := t.querns, freeIdx := t.freeIdx } ∧
         t.quern g p = { q with status := 9, line := (t.quern g p).line } ∧
         ∀ h r, (h ≠ g ∨ r ≠ p) → t.quern h r = s.quern h r))

/-- lw and sw of a quern (R172, R173): an address that is a multiple of 4 below 0x2000 is read or written, four bytes,
least significant first, and nothing else of local storage; any other stops the quern with status ADDR, LINE the
address, and nothing else happens. acci (R172): the partial record of every query becomes (−∞, +0, 0, +0 …), 528 bytes
each, and the rest of local storage stays. -/
def Obligations.quernLocalStorage : Prop :=
  (∀ (s : State) (g : GranChan) (p : Fin 16) (d a b : GReg) (imm14 : BitVec 14), s.alive = true → s.qRuns g p = true →
     let w := s.qWord g p
     let q := s.quern g p
     let x := (q.reg a + imm14.signExtend 32).toNat
     qA w = a.val → w % 2 ^ 14 = imm14.toNat →
     (qOp w = 0x0B → qD w = d.val → x % 4 = 0 → x < 0x2000 → Completes (.lw g ⟨p, false⟩ d a imm14) s (fun t =>
       OnlyQuern g p s t ∧
       t.quern g p = { q with g := (t.quern g p).g, pc := q.pc + 1, past := decide (q.pc = 255) } ∧
       (t.quern g p).reg d = BitVec.ofNat 32 (leNat (readBytes q.local_ x 4)) ∧
       ∀ r, r ≠ d → (t.quern g p).reg r = q.reg r)) ∧
     (qOp w = 0x0C → qB w = b.val → x % 4 = 0 → x < 0x2000 → Completes (.sw g ⟨p, false⟩ b a imm14) s (fun t =>
       OnlyQuern g p s t ∧
       t.quern g p = { q with local_ := (t.quern g p).local_, pc := q.pc + 1, past := decide (q.pc = 255) } ∧
       leNat (readBytes (t.quern g p).local_ x 4) = (q.reg b).toNat ∧
       ∀ y, y < x ∨ x + 4 ≤ y → tabGet zeroByte y (t.quern g p).local_ = tabGet zeroByte y q.local_)) ∧
     (x % 4 ≠ 0 ∨ 0x2000 ≤ x →
       let stopped := Host.Outcome.next (s.setQuern g p { q with status := 4, line := BitVec.ofNat 21 x })
       (qOp w = 0x0B → qD w = d.val → exec (.lw g ⟨p, false⟩ d a imm14) s = stopped) ∧
       (qOp w = 0x0C → qB w = b.val → exec (.sw g ⟨p, false⟩ b a imm14) s = stopped))) ∧
  (∀ (s : State) (g : GranChan) (p : Fin 16), s.alive = true → s.qRuns g p = true → qOp (s.qWord g p) = 0x10 →
     let q := s.quern g p
     q.qn ≤ 8 →
     Completes (.acci g ⟨p, false⟩) s (fun t =>
       OnlyQuern g p s t ∧
       t.quern g p = { q with local_ := (t.quern g p).local_, pc := q.pc + 1, past := decide (q.pc = 255) } ∧
       (∀ i, i < q.qn → readBytes (t.quern g p).local_ (0xC00 + 528 * i) 528 = natLe 4 0xFF800000 ++ natLe 524 0) ∧
       ∀ y, y < 0xC00 ∨ 0xC00 + 528 * q.qn ≤ y → tabGet zeroByte y (t.quern g p).local_ = tabGet zeroByte y q.local_))

/-- kdot on sound lines (R173): every query's 32 scores are written, that of a token beyond the block is −∞ and no row
is read for it, the others are the rounded scaled dot products of its row; the register passes 32 rows, the next
instruction follows; nothing is written to the bank. vacc, mvec and osm on sound lines (R173): the register that names
the rows passes those of the half-block or of the matrix, the instruction after follows, scores and command area stay,
and nothing is written to the bank. kvapp (R173, R174): the key row and the value row of local storage stand in the rows
that the two registers name, with sound check bits; every other byte of device memory reads as before. Stated for two
rows that do not meet. -/
def Obligations.quernStreams : Prop :=
  (∀ (s : State) (g : GranChan) (p : Fin 16) (a : GReg) (x : Bool), s.alive = true → s.qRuns g p = true →
     let w := s.qWord g p
     let q := s.quern g p
     let n := q.halfRows x
     let l := (q.reg a).toNat
     qOp w = 0x11 → qA w = a.val → bitOf w 11 = x → q.qn ≤ 8 → l + q.rc * n ≤ 1572864 → s.pairSound g p l (q.rc * n) →
     Completes (.kdot g p a x [] false) s (fun t =>
       t.mem = s.mem ∧ t.cores = s.cores ∧ (t.quern g p).reg a = q.reg a + BitVec.ofNat 32 (32 * q.rc) ∧
       (t.quern g p).pc = q.pc + 1 ∧ (t.quern g p).status = q.status ∧ (t.quern g p).cmdArea = q.cmdArea ∧
       (∀ r, r ≠ a → (t.quern g p).reg r = q.reg r) ∧
       (∀ i j, i < q.qn → n ≤ j → j < 32 → (t.quern g p).f32 (0x800 + 4 * (32 * i + j)) = 0xFF800000) ∧
       (∀ i j, i < q.qn → j < n → (t.quern g p).f32 (0x800 + 4 * (32 * i + j)) =
         (q.score (s.pairBytes g p l (q.rc * n)) n i j).1 % 2 ^ 32) ∧
       ∀ y, y < 0x800 ∨ 0xC00 ≤ y → tabGet zeroByte y (t.quern g p).local_ = tabGet zeroByte y q.local_)) ∧
  (∀ (s : State) (g : GranChan) (p : Fin 16) (a b : GReg) (i : Fin 8) (x : Bool), s.alive = true → s.qRuns g p = true →
     let w := s.qWord g p
     let q := s.quern g p
     let l := (q.reg a).toNat
     let n := (q.reg b).toNat
     let frame := fun (t : State) =>
       t.mem = s.mem ∧ t.cores = s.cores ∧ (t.quern g p).pc = q.pc + 1 ∧ (t.quern g p).status = q.status ∧
       (t.quern g p).cmdArea = q.cmdArea
     (qOp w = 0x13 → qA w = a.val → bitOf w 11 = x → q.qn ≤ 8 → l + q.rc * q.halfRows x ≤ 1572864 →
       s.pairSound g p l (q.rc * q.halfRows x) →
       Completes (.vacc g p a x [] false) s (fun t =>
         frame t ∧ (t.quern g p).reg a = q.reg a + BitVec.ofNat 32 (32 * q.rc) ∧
         (∀ r, r ≠ a → (t.quern g p).reg r = q.reg r) ∧
         ∀ y, y < 0xC00 → tabGet zeroByte y (t.quern g p).local_ = tabGet zeroByte y q.local_)) ∧
     (qOp w = 0x14 → qA w = a.val → qB w = b.val → bitsOf w 10 8 = i.val → bitOf w 11 = x → n ≤ 1056 →
       l + q.rc * n ≤ 1572864 → s.pairSound g p l (q.rc * n) →
       Completes (.mvec g p a b i x [] false) s (fun t =>
         frame t ∧ (t.quern g p).reg a = q.reg a + BitVec.ofNat 32 (n * q.rc) ∧
         (∀ r, r ≠ a → (t.quern g p).reg r = q.reg r) ∧
         ∀ y, y < 0xC00 ∨ 0xC00 + 4 * n ≤ y → tabGet zeroByte y (t.quern g p).local_ = tabGet zeroByte y q.local_)) ∧
     (qOp w = 0x12 → q.qn ≤ 8 → Completes (.quernOsm g ⟨p, false⟩) s (fun t =>
       frame t ∧ OnlyQuern g p s t ∧ (t.quern g p).g = q.g ∧
       ∀ y, y < 0x800 ∨ (0x800 + 128 * q.qn ≤ y ∧ y < 0xC00) →
         tabGet zeroByte y (t.quern g p).local_ = tabGet zeroByte y q.local_))) ∧
  (∀ (s : State) (g : GranChan) (p : Fin 16) (a b : GReg), s.alive = true → s.qRuns g p = true →
     let w := s.qWord g p
     let q := s.quern g p
     let la := (q.reg a).toNat
     let lb := (q.reg b).toNat
     qOp w = 0x15 → qA w = a.val → qB w = b.val → la + q.rc ≤ 1572864 → lb + q.rc ≤ 1572864 →
     la + q.rc ≤ lb ∨ lb + q.rc ≤ la →
     let row := fun (l y : Nat) => ∃ i, i < q.rc ∧ pairLineAddr g p.val (l + i) ≤ y ∧ y < pairLineAddr g p.val (l + i) + 64
     Completes (.kvapp g p a b false) s (fun t =>
       t.pairBytes g p la q.rc = readBytes q.local_ 0x1C80 (64 * q.rc) ∧
       t.pairBytes g p lb q.rc = readBytes q.local_ 0x1D80 (64 * q.rc) ∧
       t.pairSound g p la q.rc ∧ t.pairSound g p lb q.rc ∧
       (∀ y, ¬ row la y → ¬ row lb y → t.byte y = s.byte y) ∧
       t.quern g p = { q with pc := q.pc + 1, past := decide (q.pc = 255) }))

/-- A grind job at the head of its queue is checked (R185, R186, R188): one that passes enters the admission queue of
its granary, behind those that entered in earlier fabric cycles and those of lower core IDs, and the grind engine runs
it; one that fails is skipped with its reason and none of its data actions, and leaves the command queue. Stated for a
job without a post. The head of a granary's admission queue is admitted when it can take all its channels and the
requests that waited for them have been served (R164, R188, R189, R197): it leaves both queues, the time of its
admission is noted, and each of its channels that is in memory mode starts to switch; a head that cannot take them
waits, and no other job passes it. An admitted job all of whose channels are in processor mode starts (R181, R187): each
of its channels gets the mask of its querns and a QGO. At its deadline a running job's querns are stopped (R191): none
of its channels has a quern in RUN, each that was has status STOPPED, and their data stays. A job whose querns have all
stopped ends (R191, R193, R194): where every one is DONE, the merged record of each query stands in the bench at the
result's place; where one is not, nothing is written. In both cases the job is gone and the grind engine is idle. Stated
for a command without a post, with no job behind it in its granary. -/
def Obligations.grindJobs : Prop :=
  (∀ (s : State) (c : CoreId) (x : Cmd) (q : List Cmd), s.alive = true → x.h.postEn = false →
     let k := s.core c
     k.queueOf .grind = x :: q → (k.engOf .grind).phase = .ready → (k.engOf .grind).stopped = false → k.stop = none →
     let r := (s.checkGrind c (s.partOf c) x).1
     let g := (grindOps x).quad
     (r = none → (∀ y ∈ s.queueOfGranary g, y.enteredAt = s.fabric_ → y.core.val ≤ c.val) →
       Completes (.grindCheck c) s (fun t =>
       (t.core c).queueOf .grind = x :: q ∧ ((t.core c).engOf .grind).phase = .running ∧
       ((t.core c).engOf .grind).cmd = some x ∧
       t.queueOfGranary g = s.queueOfGranary g ++ [{ mkJob c k x none with enteredAt := s.fabric_ }] ∧
       (∀ h, h ≠ g → t.queueOfGranary h = s.queueOfGranary h) ∧ (t.core c).bench = k.bench ∧ t.mem = s.mem)) ∧
     (∀ why, r = some why → Completes (.grindCheck c) s (fun t =>
       (t.core c).queueOf .grind = q ∧ (t.core c).engOf .grind = (k.engOf .grind).cleared ∧
       t.admission = s.admission ∧ t.jobs = s.jobs ∧ (t.core c).bench = k.bench ∧ t.mem = s.mem))) ∧
  (∀ (s : State) (g : Fin 4) (j : GrindJob) (rest : List GrindJob), s.alive = true → s.queueOfGranary g = j :: rest →
     j.granary = g →
     let left := s.unserved (j.drain.getD (s.toDrain j))
     (s.mayAdmit j = true → left ≠ [] → Completes (.grindAdmit g) s (fun t =>
       t = s.setGranaryQueue g ({ j with drain := some left } :: rest))) ∧
     (s.mayAdmit j = true → left = [] → Completes (.grindAdmit g) s (fun t =>
       t.queueOfGranary g = rest ∧
       (t.core j.core).queueOf .grind =
         (if j.desc = none then ((s.core j.core).queueOf .grind).drop 1 else (s.core j.core).queueOf .grind) ∧
       t.jobs = s.jobs ++ [{ j with phase := .admitted, admittedAt := s.cycles }] ∧
       (∀ n ∈ j.chans, (s.gchan (asChan n)).mode = .memory →
         (t.gchan (asChan n)).mode = .toProcessor ∧ (t.gchan (asChan n)).openBanks = []) ∧ t.mem = s.mem)) ∧
     (s.mayAdmit j = false → exec (.grindAdmit g) s = .next s)) ∧
  (∀ (s : State) (c : CoreId) (j : GrindJob), s.alive = true → s.jobOf c = some j → j.phase = .admitted →
     (∀ n ∈ j.chans, (s.gchan (asChan n)).mode = .processor) → j.chans.Nodup → (∀ n ∈ j.chans, n < 128) →
     Completes (.grindStart c) s (fun t =>
       t.jobs = s.jobs.map (fun i => if i.core = c then { i with phase := .running } else i) ∧
       (∀ n ∈ j.chans, (t.gchan (asChan n)).gqmask = j.mask n ∧
         (t.gchan (asChan n)).starts = (s.gchan (asChan n)).starts + 1) ∧
       t.mem = s.mem ∧ t.cores = s.cores)) ∧
  (∀ (s : State) (c : CoreId) (j : GrindJob), s.alive = true → s.jobOf c = some j → j.phase = .running →
     Completes (.grindDeadline c) s (fun t =>
       (∀ n ∈ j.chans, t.running (asChan n) = []) ∧
       (∀ n ∈ j.chans, ∀ p, (s.quern (asChan n) p).running = true →
         t.quern (asChan n) p = { s.quern (asChan n) p with status := 6 }) ∧
       t.mem = s.mem ∧ t.cores = s.cores ∧ t.jobs = s.jobs)) ∧
  (∀ (s : State) (c : CoreId) (j : GrindJob), s.alive = true → s.jobOf c = some j → j.core = c → j.phase = .running →
     j.desc = none → j.cmd.h.postEn = false → s.queueOfGranary j.granary = [] →
     (∀ b ∈ j.allQuerns, (s.quern (asChan b.1) b.2).running = false) →
     let k := s.core c
     let o := grindOps j.cmd
     let records := (List.range o.qn).flatMap (fun i => (s.grindRecord j i).1)
     let over_ := fun (t : State) =>
       (t.core c).engOf .grind = (k.engOf .grind).cleared ∧ t.jobOf c = none ∧ t.mem = s.mem
     ((∀ b ∈ j.allQuerns, (s.quern (asChan b.1) b.2).status = 2) → k.rangeSlots pGrind o.result (528 * o.qn) = true →
       Completes (.grindMerge c) s (fun t => over_ t ∧ readBytes (t.core c).bench o.result records.length = records ∧
         ∀ a, a < o.result ∨ o.result + records.length ≤ a → tabGet zeroByte a (t.core c).bench = tabGet zeroByte a k.bench)) ∧
     ((∃ b ∈ j.allQuerns, (s.quern (asChan b.1) b.2).status ≠ 2) →
       Completes (.grindMerge c) s (fun t => over_ t ∧ (t.core c).bench = k.bench)))

/-- The watchman fires (R229, R40): a partition that has been quiet for 65,536 fabric cycles with EN set keeps the
snapshot of that moment, is halted, and each of its cores is asked for a debug halt; the snapshot's writing, where no
area is given, records the context, the entries and the time, sets FIRED and raises the partition's error event. WM_CTL
written whole by PF0 (R229, R232): EN and SYNC_FORCE take their bits, and where EN goes from 0 to 1 WM_QUIET returns to
0. Objects set by hand (R231, R232), by PF0 and whole: a write of a peg with SET, of a tally's VALUE or of a bell with
SET takes effect while the owning partition is debug-halted or its SYNC_FORCE is set, else the counts stay; a write
without SET clears the peg's OVF and UDF where it writes ones. Stated for objects on which nobody waits. -/
def Obligations.watchmanAndObjects : Prop :=
  (∀ (s : State) (p : PartId), s.alive = true →
     (s.fld (oWM_QUIET p.val) 16 0 = 65536 → s.bit (oWM_CTL p.val) 0 = true → (s.part p).running.isSome = true →
       (s.part p).halted = false → Completes (.watchmanFire p) s (fun t =>
         (t.part p).halted = true ∧ (t.part p).snapshot = some (s.snapshot p) ∧
         (∀ c ∈ s.coreList p, (t.core c).haltReq = true ∧ (t.core c).s = (s.core c).s ∧ (t.core c).pc = (s.core c).pc) ∧
         t.mem = s.mem)) ∧
     (∀ hdr es, (s.part p).snapshot = some (hdr :: es) → s.snapBase p = 0 → es.length ≤ 896 →
       Completes (.watchmanSnapshot p) s (fun t =>
         t.bit (oWM_STAT p.val) 0 = true ∧ t.fld (oWM_STAT p.val) 15 8 = fieldLe hdr 7 1 ∧
         t.fld (oWM_STAT p.val) 25 16 = es.length ∧ t.fld (oWM_TIME p.val) 47 0 = fieldLe hdr 0 6 ∧
         (t.part p).snapshot = none ∧ (t.part p).events = (s.part p).events + 1 ∧ t.mem = s.mem))) ∧
  (∀ (s : State) (p : PartId) (v : Word), s.alive = true → s.power.configReady = true → s.ready = true → v.toNat < 4 →
     Completes (.wmCtlWrite 0 p .full v) s (fun t =>
       t.fld (oWM_CTL p.val) 1 0 = v.toNat ∧
       t.fld (oWM_QUIET p.val) 16 0 =
         (if s.bit (oWM_CTL p.val) 0 = false ∧ v.getLsbD 0 = true then 0 else s.fld (oWM_QUIET p.val) 16 0) ∧
       (∀ o, o ≠ oWM_CTL p.val → o ≠ oWM_QUIET p.val → t.reg o = s.reg o) ∧ t.mem = s.mem)) ∧
  (∀ (s : State) (p : BitVec 16) (n : BitVec 14) (b : BitVec 12) (v : Word), s.alive = true → s.power.configReady = true →
     s.ready = true → (∀ e ∈ s.tallies, e.2.waiters = []) → (s.peg p.toNat).waiters = [] → (s.bell b.toNat).waiters = [] →
     (v.getLsbD 62 = true → s.forceOk (s.pegOwner p.toNat) = true → Completes (.pegWrite 0 p .full v) s (fun t =>
       (t.peg p.toNat).count = v.setWidth 16 ∧ (∀ m, m ≠ p.toNat → t.peg m = s.peg m) ∧ t.mem = s.mem)) ∧
     (v.getLsbD 62 = false ∨ s.forceOk (s.pegOwner p.toNat) = false → Completes (.pegWrite 0 p .full v) s (fun t =>
       (t.peg p.toNat).count = (s.peg p.toNat).count ∧
       (t.peg p.toNat).ovf = ((s.peg p.toNat).ovf && !v.getLsbD 16) ∧
       (t.peg p.toNat).udf = ((s.peg p.toNat).udf && !v.getLsbD 17) ∧ (∀ m, m ≠ p.toNat → t.peg m = s.peg m))) ∧
     (s.forceOk (s.tallyOwner n.toNat) = true → Completes (.tallyValWrite 0 n .full v) s (fun t =>
       (t.tally n.toNat).value = v ∧ ∀ m, m ≠ n.toNat → (t.tally m).value = (s.tally m).value)) ∧
     (s.forceOk (s.tallyOwner n.toNat) = false → Completes (.tallyValWrite 0 n .full v) s (fun t =>
       t.tallies = s.tallies)) ∧
     (v.getLsbD 62 = true → s.forceOk (s.bellOwner b.toNat) = true →
       let count := getBits v 12 0
       let arrived := getBits v 25 13
       (count = 0 ∨ arrived < count → Completes (.bellWrite 0 b .full v) s (fun t =>
         (t.bell b.toNat).count.toNat = count ∧ (t.bell b.toNat).arrived.toNat = arrived ∧
         (t.bell b.toNat).gen.toNat = getBits v 41 26)) ∧
       (count ≠ 0 → count ≤ arrived → Completes (.bellWrite 0 b .full v) s (fun t =>
         t.bell b.toNat = { count := 0, arrived := 0, gen := BitVec.ofNat 16 (getBits v 41 26) + 1, waiters := [] }))) ∧
     (s.forceOk (s.bellOwner b.toNat) = false → Completes (.bellWrite 0 b .full v) s (fun t => t.bells = s.bells)))

/-- The oldest request of a source arrives (R202, R212): at the controller of its channel if the channel is enabled and
has an entry free for it, where it waits behind the others; a request for an address that reaches no memory, or for a
channel that is not enabled, is answered with ADDR_HOLE or CHAN_DISABLED and logged; without an entry it stays at its
source; at a channel in self-refresh it starts the way out (R207). The controller serves the request that the wheel
gives the mem cycle to (R204, R205, R212), at most one in a mem cycle, in the wheel position of that mem cycle, on an
active channel in memory mode: a read of a sound line answers the bytes asked for and changes no memory; a write answers
success, its bytes are stored and every other byte of memory reads as before. Stated for a request of a unit that takes
its responses itself. -/
def Obligations.requestsAreServed : Prop :=
  (∀ (s : State) (src : BitVec 16) (r : MemReq), s.alive = true → s.inFlight.find? (fun x => decide (x.src = src)) = some r →
     let n := chanOf r.addr
     let s1 : State := { s with inFlight := s.inFlight.filter (fun x => x.id != r.id) }
     let refused := fun (ch : ChanId) (type : Nat) (code : BitVec 16) =>
       exec (.memRequestArrive src) s =
         .next ((s1.logChan ch type 0 0 src.toNat r.tag.toNat).deliver { req := r, status := code, data := [] })
     (addrHole r.addr = true → refused (holeChan r.addr) 4 0x0102) ∧
     (addrHole r.addr = false → s.chEnabled n = false → refused n 5 0x0103) ∧
     (addrHole r.addr = false → s.chEnabled n = true → s.hasEntry n r = false → exec (.memRequestArrive src) s = .next s) ∧
     (addrHole r.addr = false → s.chEnabled n = true → s.hasEntry n r = true →
       let enters := fun (t : State) =>
         t.chan n = { s.chan n with queue := (s.chan n).queue ++ [{ r with since := s.cycles / 8 }] } ∧
         (∀ m, m ≠ n → t.chan m = s.chan m) ∧ t.inFlight = s1.inFlight ∧ t.mem = s.mem
       (s.pstate n ≠ 2 → Completes (.memRequestArrive src) s (fun t => t = { s1 with chans := t.chans } ∧ enters t)) ∧
       (s.pstate n = 2 → Completes (.memRequestArrive src) s (fun t => t.pstate n = 3 ∧ enters t)))) ∧
  (∀ (s : State) (n : ChanId) (pos : Fin 64),
     s.pstate n ≠ 1 ∨ (s.chan n).mode ≠ .memory ∨ (s.chan n).lastCmd = some (s.cycles / 8) ∨ pos.val ≠ s.cycles / 8 % 64 →
     exec (.memRequestServe n pos []) s = .next s) ∧
  (∀ (s : State) (n : ChanId) (pos : Fin 64) (r : MemReq), s.alive = true → s.pstate n = 1 →
     pos.val = s.cycles / 8 % 64 → (s.chan n).mode = .memory → (s.chan n).lastCmd ≠ some (s.cycles / 8) → s.pickReq n = some r →
     s.errorsIn (r.addr / 64) = 0 →
     r.mask = none → r.len ≤ 64 - r.addr % 64 → r.data.length = (if r.kind = .write then r.len else 0) →
     s.hcWaiting r.id = none → s.serving = [] → s.claimed r.id = true →
     (r.kind = .read → Completes (.memRequestServe n pos []) s (fun t =>
       t.responses = s.responses ++ [{ req := r, status := 0, data := readBytes s.mem r.addr r.len }] ∧ t.mem = s.mem ∧
       (t.chan n).queue = (s.chan n).queue.filter (fun x => x.id != r.id))) ∧
     (r.kind = .write → Completes (.memRequestServe n pos []) s (fun t =>
       t.responses = s.responses ++ [{ req := r, status := 0, data := [] }] ∧
       readBytes t.mem r.addr r.len = r.data ∧
       (∀ a, a < r.addr ∨ r.addr + r.len ≤ a → t.byte a = s.byte a) ∧
       (t.chan n).queue = (s.chan n).queue.filter (fun x => x.id != r.id))))

/-- Lines with errors (R200, R201): a read of a line with one or two erroneous symbols answers its bytes, one with three
to six answers UE with no data; the counts of corrected and uncorrectable errors go up accordingly, and no byte of
memory changes. A copy to a spare ends (R327): it is taken from the channel's list; on a channel without erroneous lines
memory reads as before. A source's requests are served in the order in which it issued them (R204): a mem cycle picks
only the oldest of its source's, and it picks one whenever some request waits. While a grind job that is about to be
admitted waits for requests at the channel (R197), only those are picked, in the same order. -/
def Obligations.linesAreProtected : Prop :=
  (∀ (s : State) (n : ChanId) (r : MemReq), r.kind = .read → r.len ≤ 64 - r.addr % 64 → chanOf (64 * (r.addr / 64)) = n →
     let e := s.errorsIn (r.addr / 64)
     let x := s.performReq n r
     (1 ≤ e → e ≤ 2 → x.2 = { req := r, status := 0, data := readBytes s.mem r.addr r.len } ∧
       x.1.fld (oTM_CE n) 63 0 = (s.fld (oTM_CE n) 63 0 + 1) % 2 ^ 64 ∧ x.1.mem = s.mem) ∧
     (3 ≤ e → e ≤ 6 → x.2 = { req := r, status := 0x0101, data := [] } ∧
       x.1.fld (oTM_UE n) 63 0 = (s.fld (oTM_UE n) 63 0 + 1) % 2 ^ 64 ∧ x.1.mem = s.mem)) ∧
  (∀ (s : State) (n : ChanId) (c : SpareCopy) (rest : List SpareCopy), s.alive = true → (s.chan n).copies = c :: rest →
     s.lineErr = [] →
     Completes (.spareCopyDone n) s (fun t =>
       OnlyChan n s t ∧ (t.chan n).copies = rest ∧ (t.chan n).queue = (s.chan n).queue ∧
       (c.row = none → n.val / 32 % 2 = 1 → (t.chan n).barred = 16 * pairLines n))) ∧
  (∀ (s : State) (n : ChanId),
     (s.drainOf n = none → ((s.chan n).queue ≠ [] → (s.pickReq n).isSome = true) ∧
       ∀ r, s.pickReq n = some r → (s.chan n).queue.find? (fun x => decide (x.src = r.src)) = some r) ∧
     ∀ ids, s.drainOf n = some ids → ∀ r, s.pickReq n = some r →
       ((s.chan n).queue.filter (fun x => ids.contains x.id)).find? (fun x => decide (x.src = r.src)) = some r)

/-- Refresh closes every bank of every channel of its stack and nothing else (R206). Self-refresh (R207, R210): an
active channel without SR_DIS enters it when nothing waits for it; on the way out the channel is active again and its
delays take one calibration sample: a delay that measures no move stays. The tithe slot (R208, R209): where a request
waits and fewer than 16 windows in a row have been deferred the scrub is put off and counted, but not in processor mode;
else its position goes on by eight lines, and at the end of the sequence a pass is counted and the position starts
again; a channel that switches its mode is neither scrubbed nor calibrated (R158). Stated for a sound channel and a
sample that moves nothing. CH_CTL and ELOG_PTR written whole by PF0 (R214): setting EN makes the channel active with its
delays at their loaded values; clearing EN of an enabled channel is refused while the rest of the write acts; ELOG_PTR
takes RD and nothing else. -/
def Obligations.channelUpkeep : Prop :=
  (∀ (s : State) (k : Fin 8), s.alive = true →
     Completes (.refresh k) s (fun t =>
       t = { s with chans := t.chans } ∧
       ∀ n : ChanId, t.chan n = if n.val / 32 = k.val then { s.chan n with openBanks := [] } else s.chan n)) ∧
  (∀ (s : State) (n : ChanId), s.alive = true →
     (s.pstate n = 1 → s.bit (oCH_CTL n) 1 = false → (s.chan n).queue = [] → (s.chan n).mode = .memory →
       Completes (.selfRefreshEntry n) s (fun t =>
         t.pstate n = 2 ∧ t = { s with regs := t.regs } ∧ ∀ o, o ≠ oCH_STAT n → t.reg o = s.reg o)) ∧
     (s.pstate n = 3 → Completes (.selfRefreshExit n (List.replicate 9 (1, 1))) s (fun t =>
       t.pstate n = 1 ∧ t.bit (oCH_STAT n) 2 = false ∧ t.mem = s.mem ∧
       ∀ k, k < 9 → t.fld (oDLY_LANE n k) 22 16 = s.fld (oDLY_LANE n k) 22 16 ∧
         t.fld (oDLY_LANE n k) 30 24 = s.fld (oDLY_LANE n k) 30 24))) ∧
  (∀ (s : State) (n : ChanId), s.alive = true → s.pstate n = 1 → s.lineErr = [] → (s.chan n).copies = [] →
     let c := s.chan n
     let i := s.fld (oSCRUB_STAT n) 24 0
     let still : DriftSample := List.replicate 9 (1, 1)
     (c.queue ≠ [] → c.deferrals < 16 → c.mode ≠ .processor → Completes (.titheSlot n still []) s (fun t =>
       (t.chan n).deferrals = c.deferrals + 1 ∧
       t.fld (oTM_SCRUB_DEFER n) 63 0 = (s.fld (oTM_SCRUB_DEFER n) 63 0 + 1) % 2 ^ 64 ∧
       t.fld (oSCRUB_STAT n) 24 0 = i ∧ t.mem = s.mem)) ∧
     (c.queue = [] ∨ 16 ≤ c.deferrals → c.mode = .toProcessor ∨ c.mode = .toMemory →
       exec (.titheSlot n still []) s = .next s) ∧
     ((c.mode = .memory ∧ (c.queue = [] ∨ 16 ≤ c.deferrals)) ∨ c.mode = .processor →
       Completes (.titheSlot n still []) s (fun t =>
       (t.chan n).deferrals = 0 ∧ t.mem = s.mem ∧
       t.fld (oSCRUB_STAT n) 24 0 = (if i + 8 < 16 * pairLines n then i + 8 else 0) ∧
       t.fld (oSCRUB_STAT n) 63 32 =
         (if i + 8 < 16 * pairLines n then s.fld (oSCRUB_STAT n) 63 32 else (s.fld (oSCRUB_STAT n) 63 32 + 1) % 2 ^ 32)))) ∧
  (∀ (s : State) (n : ChanId) (v : Word), s.alive = true → s.power.configReady = true → s.ready = true →
     (s.chEnabled n = false → v = 1 → Completes (.chCtlWrite 0 n .full v) s (fun t =>
       t.chEnabled n = true ∧ t.pstate n = 1 ∧
       (∀ k, k < 9 → t.fld (oDLY_LANE n k) 22 16 = s.fld (oDLY_LANE n k) 6 0 ∧
         t.fld (oDLY_LANE n k) 30 24 = s.fld (oDLY_LANE n k) 14 8) ∧ t.mem = s.mem)) ∧
     (s.chEnabled n = true → v = 0 → Completes (.chCtlWrite 0 n .full v) s (fun t =>
       t.chEnabled n = true ∧ t.bit (oCH_CTL n) 1 = false ∧ t.mem = s.mem)) ∧
     (v.toNat < 128 → Completes (.elogPtrWrite 0 n .full v) s (fun t =>
       t.fld (oELOG_PTR n) 6 0 = v.toNat ∧ t.fld (oELOG_PTR n) 14 8 = s.fld (oELOG_PTR n) 14 8 ∧
       (∀ o, o ≠ oELOG_PTR n → t.reg o = s.reg o) ∧ t.mem = s.mem)))

/-- A stop that is asked of a core and that no other outranks (R36, R37): a kingpost that waits at an object keeps
waiting and withdraws first; else it stops before its next instruction, with its registers as they are, and an abort
discards every command that has not started. A stop that nothing asks for, or one that another outranks, changes
nothing; an abort outranks a debug halt. Stated for idle engines. Debug halt, resume and step, by PF0 (R40, R42): HALT
asks every core of the partition that owns the core, RESUME lets every kingpost of it that was halted go on, and STEP
lets a halted core issue one instruction; no register, no bench and no memory changes. -/
def Obligations.stopsAndDebug : Prop :=
  (∀ (s : State) (c : CoreId) (x : StopKind), s.alive = true →
     let k := s.core c
     (s.nextStop c x = false → exec (.stopRequest c x) s = .next s) ∧
     (s.wantsStop c .abort = true → s.nextStop c .debugHalt = false ∧ s.nextStop c .preempt = false) ∧
     (s.nextStop c x = true → k.wait.isSome = true → Completes (.stopRequest c x) s (fun t =>
       OnlyCore c s t ∧ t.core c = { k with stopReq := some x })) ∧
     (s.nextStop c x = true → k.wait = none → (∀ u, (k.engOf u).phase = .idle ∧ (k.engOf u).stopped = false) →
       Completes (.stopRequest c x) s (fun t =>
         OnlyCore c s t ∧
         t.core c = {
           k with
           stop := some x, stopReq := none, stalled := none, needLine := none, stepping := false
           stopCause := if x = .debugHalt then 1 else k.stopCause
           queues := if x = .abort then [] else k.queues }))) ∧
  (∀ (s : State) (c : CoreId) (p : PartId), s.alive = true → s.power.configReady = true → s.ready = true →
     s.partOfCore c = some p →
     let kept := fun (t : State) =>
       t.mem = s.mem ∧ t.regs = s.regs ∧ ∀ d, (t.core d).s = (s.core d).s ∧ (t.core d).pc = (s.core d).pc ∧
         (t.core d).bench = (s.core d).bench
     Completes (.debugHalt 0 c) s (fun t =>
       kept t ∧ (t.part p).halted = true ∧ (∀ d ∈ s.coreList p, (t.core d).haltReq = true) ∧
       ∀ d, d ∉ s.coreList p → t.core d = s.core d) ∧
     Completes (.debugResume 0 c) s (fun t =>
       kept t ∧ (t.part p).halted = false ∧
       (∀ d ∈ s.coreList p, (t.core d).haltReq = false ∧ (t.core d).stop ≠ some .debugHalt ∧
         ((s.core d).stop ≠ some .debugHalt → (t.core d).stop = (s.core d).stop)) ∧
       ∀ d, d ∉ s.coreList p → t.core d = s.core d) ∧
     ((s.core c).halted = true → (s.core c).run = .running → Completes (.debugStep 0 c) s (fun t =>
       kept t ∧ t.core c = { s.core c with stepping := true } ∧ ∀ d, d ≠ c → t.core d = s.core d)))

/-- Context switches (R37, R38, R298, R299): a quantum that ends while another context waits, and a partition whose
context is idle while another waits, begin the switch to the next waiting context; its save ends with no context in the
partition, every core's state kept for the context that was saved; its restore brings the target in, with each core as
its context left it, or cleared where the context has not run yet. A save that has to wait for a channel of its area
leaves contexts and memory as they are. Partition aborts (R306 to R308): GO of PT_ABORT by PF0 begins an abort and sets
its busy bit, and one that finds an abort in progress begins none (one that finds a rollback waits for it: the model's
choice, log entry 85); the abort ends when every core has stopped and every joint is FREE: no context runs and every
core of the partition is cleared; the busy bit clears and the abort is counted once its event line has been written.
Stated for a partition without joints, rings and descriptors, whose running context, if any, keeps its objects. -/
def Obligations.contextsAndAborts : Prop :=
  (∀ (s : State) (p : PartId) (n : BitVec 8), s.alive = true →
     let q := s.part p
     let begun := fun (t : State) =>
       (t.part p).switch = some { phase := if q.running.isSome then .stopping else .restoring, target := n } ∧
       t = { s with parts := t.parts } ∧ (∀ r, r ≠ p → t.part r = s.part r)
     (q.maySwitch = true → s.nextCtx p = some n →
       (q.running.isSome = true → Completes (.quantumEnd p) s begun) ∧
       (q.running = none → Completes (.contextSwitch p) s begun) ∧
       (∀ c, q.running = some c → s.ctxBusy p c = false → Completes (.contextSwitch p) s begun)) ∧
     (q.running.isSome = true → s.nextCtx p = none → exec (.quantumEnd p) s = .next s) ∧
     (∀ c, q.running = some c → q.switch = some { phase := .stopping, target := n } → q.halted = false →
       (∀ d ∈ s.coreList p, (s.core d).preempted = true) →
       ((s.saveDone p c).stalls = [] → Completes (.preemptSaveDone p) s (fun t =>
         (t.part p).running = none ∧ (t.part p).switch = some { phase := .restoring, target := n } ∧
         tabGet (fun _ => { cores := [] }) c.toNat t.saved = { cores := (s.coreList p).map s.core })) ∧
       ((s.saveDone p c).stalls ≠ [] → Completes (.preemptSaveDone p) s (fun t =>
         t.parts = s.parts ∧ t.saved = s.saved ∧ t.cores = s.cores ∧ t.mem = s.mem))) ∧
     (q.switch = some { phase := .restoring, target := n } → (s.ctxIn p n).stalls = [] →
       exec (.contextSwitchDone p) s = .next (s.ctxIn p n) ∧
       Completes (.contextSwitchDone p) s (fun t =>
         (t.part p).running = some n ∧ (t.part p).switch = none ∧ t.fld (oWM_QUIET p.val) 16 0 = 0))) ∧
  (∀ (s : State) (p : PartId), s.alive = true → (s.part p).joints = [] →
     (s.power.configReady = true → s.ready = true →
       ((s.part p).abort = none → (s.part p).closing = false → s.hostCarts = [] → Completes (.ptAbortGo 0 p) s (fun t =>
         (t.part p).abort = some .register ∧ t.bit (oPT_ABORT p.val) 1 = true ∧ t.mem = s.mem ∧ t.cores = s.cores ∧
         ∀ q, q ≠ p → t.part q = s.part q)) ∧
       ((s.part p).abort = none → (s.part p).closing = true → exec (.ptAbortGo 0 p) s = .next (s.countWrite 0)) ∧
       (∀ a, (s.part p).abort = some a →
         ((∀ c, a ≠ .rollback c) → exec (.ptAbortGo 0 p) s = .next (s.countWrite 0)) ∧
         (∀ c, a = .rollback c → Completes (.ptAbortGo 0 p) s (fun t =>
           (t.part p).abort = some a ∧ (t.part p).abortNext = true ∧ t.bit (oPT_ABORT p.val) 1 = true ∧ t.mem = s.mem ∧
           t.cores = s.cores)))) ∧
     ((s.part p).abort = some .register →
       (s.abortReady p = false → exec (.partitionAbortDone p) s = .next s) ∧
       (s.abortReady p = true → s.ringsOf p = [] → s.descs p = [] →
         (∀ c, (s.part p).running = some c → s.keeps c = true) → Completes (.partitionAbortDone p) s (fun t =>
           (t.part p).abort = none ∧ (t.part p).running = none ∧ (t.part p).everRun = [] ∧ (t.part p).closing = true ∧
           t.bit (oPT_ABORT p.val) 1 = s.bit (oPT_ABORT p.val) 1 ∧ (∃ l ∈ t.hostLines, l.closes = true ∧ l.fn = partFn p) ∧
           (∀ c ∈ s.coreList p, t.core c =
             { tlb := (s.core c).tlb, corrected := (s.core c).corrected, lastTag := (s.core c).lastTag }) ∧
           (∀ c, c ∉ s.coreList p → t.core c = s.core c) ∧ t.mem = s.mem)))) ∧
  (∀ (s : State) (p : PartId) (l : HostLine), s.alive = true → s.held = false → (s.part p).closing = true → s.descs p = [] →
     s.hostReads.any (fun r => decide (r.purpose = .flushing (partFn p))) = true →
     s.hostLines = [l] → l.fn = partFn p → l.covered = true → l.desc = none → l.closes = true →
     Completes (.flushingReadDone (partFn p)) s (fun t =>
       t.bit (oPT_ABORT p.val) 1 = false ∧
       t.fld (oPT_ABORT p.val) 31 16 = (s.fld (oPT_ABORT p.val) 31 16 + 1) % 2 ^ 16 ∧
       (t.part p).closing = false ∧ t.hostLines = [] ∧ t.mem = s.mem))

/-- The read of an entry that a cart's walk awaited returns (R149 to R151, R155): an entry that names a further table
leads to the read of its entry for the address; a leaf enters the core's translation cache and the cart goes on; any
other ends the command with TRANSLATION. A sweep of translations empties every translation cache (R154). Stated for a
module in which no walk is under way. Data for a cart (R141, R144): the oldest access in flight, a read that a response
without error answers, is stored in the bench; then the cart goes on. The response of a write without error lets the
cart count its lines. Stated for the last access of a command. -/
def Obligations.cartsAndWalks : Prop :=
  (∀ (s : State) (c : CoreId) (n : Fin 2) (p : PartId) (w : Walk) (r : MemResp), s.alive = true →
     let u := cartUnit n
     ((s.core c).engOf u).walk = some w → s.partOf c = some p → s.responses.find? (fun r => r.req.id == w.id) = some r →
     r.status = 0 → eReserved (BitVec.ofNat 64 (leNat r.data)) = false →
     let t0 := (({ s with responses := s.responses.filter (fun x => x.req.id != w.id) } : State).modEng c u
       (fun g => { g with walk := none }))
     (∀ w', s.walkOn p w r = .read w' → Completes (.tableWalkRead (.cart c n)) s (fun t =>
       ((t.core c).engOf u).walk = some { w' with id := s.nextId } ∧ t.nextId = s.nextId + 1 ∧
       t.inFlight.map (fun x => (x.id, x.src, x.addr, x.kind, x.len)) =
         s.inFlight.map (fun x => (x.id, x.src, x.addr, x.kind, x.len)) ++ [(s.nextId, srcCart c n, w'.entry, .read, 8)] ∧
       (t.core c).tlb = (s.core c).tlb ∧ (t.core c).bench = (s.core c).bench ∧ t.mem = s.mem)) ∧
     (∀ l, s.walkOn p w r = .leaf l →
       exec (.tableWalkRead (.cart c n)) s =
         .next ((t0.modCore c (fun k => { k with tlb := tlbAdd 512 k.tlb w.va l })).cartPump c n)) ∧
     (∀ st e, s.walkOn p w r = .fail st e → ((s.core c).engOf u).early = none →
       Completes (.tableWalkRead (.cart c n)) s (fun t =>
         ((t.core c).engOf u).early =
           some { reason := 0x11, status := BitVec.ofNat 16 st, detail := BitVec.ofNat 64 w.va } ∧
         ((t.core c).engOf u).todo = [] ∧ (t.core c).bench = (s.core c).bench ∧ t.mem = s.mem))) ∧
  (∀ s : State, s.alive = true → (∀ c u, ((s.core c).engOf u).walk = none) → (∀ n, (s.hcart n).walk = none) →
     Completes .translationSweep s (fun t =>
       t.hostTlb = [] ∧ (∀ c, t.core c = { s.core c with tlb := [] }) ∧ t.mem = s.mem ∧ t.regs = s.regs)) ∧
  (∀ (s : State) (c : CoreId) (n : Fin 2) (id : Nat) (a : CartAcc) (r : MemResp) (x : Cmd), s.alive = true →
     let k := s.core c
     let u := cartUnit n
     let e := k.engOf u
     e.cmd = some x → (cartJob x).rows ≤ e.done → e.todo = [] → e.flying = [(id, a)] → e.early = none → a.zero = false →
     s.responses.find? (fun r => r.req.id == id) = some r → r.status = 0 →
     (a.toDram = false → k.rangeSlots (cartPort n) a.bench a.len = true → r.data.length = a.len →
       Completes (.cartReadData c n) s (fun t =>
         readBytes (t.core c).bench a.bench a.len = r.data ∧
         (∀ b, b < a.bench ∨ a.bench + a.len ≤ b → tabGet zeroByte b (t.core c).bench = tabGet zeroByte b k.bench) ∧
         ((t.core c).engOf u).flying = [] ∧ (t.core c).s = k.s ∧ t.mem = s.mem ∧ ∀ d, d ≠ c → t.core d = s.core d)) ∧
     (a.toDram = true → Completes (.cartWriteAck c n) s (fun t =>
       ((t.core c).engOf u).flying = [] ∧ ((t.core c).engOf u).lines = e.lines + a.ends ∧ (t.core c).bench = k.bench ∧
       (t.core c).s = k.s ∧ t.mem = s.mem ∧ ∀ d, d ≠ c → t.core d = s.core d)))

/-- Operations on joints (R233, R234, R237, R247): where no fetched descriptor waits for its joint, JOINT_OPEN opens a
FREE joint, empty, and ends with OK; JOINT_COMMIT takes an OPEN joint to COMMITTING and does not end yet; JOINT_ABORT of
an OPEN joint without members leaves it FREE, counts it, and ends with OK; JOINT_COMMIT and JOINT_ABORT of an ABORTED
joint leave it FREE and end with its status; every other state ends them with 0x0304 and leaves the joint. A COMMITTING
joint whose accesses are all performed commits (R244): with no page to mirror, each dirty page is swapped, the held
updates are applied, the joint is FREE and JOINT_COMMIT ends; one with a failed member aborts instead (R237); one that
has to wait for a memory channel leaves joints, memory and cores as they are. Without dirty pages, held updates and
withheld records the joint is FREE, the commit is counted, and JOINT_COMMIT ends with OK. -/
def Obligations.joints : Prop :=
  (∀ (s : State) (r : RingId) (q : BitVec 32) (p : PartId) (d : Desc), s.alive = true → s.descOf r q = some (p, d) →
     s.opTurn p d = true → d.stage = .started → d.acted = false → s.membersOf p d.jid = [] →
     (∀ x ∈ s.descs p, x.wantsJoint = false ∨ x.resolved = true) →
     let j := d.jid
     let x := s.joint p j
     let others := fun (t : State) => (∀ i, i ≠ j → t.joint p i = s.joint p i) ∧ t.mem = s.mem ∧ t.cores = s.cores
     let refused := fun (i : Instr) => Completes i s (fun t => t.Ended r q d 0x0304 ∧ t.joint p j = x ∧ others t)
     let freed := fun (i : Instr) => Completes i s (fun t =>
       t.Ended r q d x.lastStatus.toNat ∧ t.joint p j = { x with st := .free } ∧ others t)
     (d.opc = 0x0B →
       (x.st = .free → Completes (.jointOpen r q) s (fun t =>
         t.Ended r q d 0 ∧ t.joint p j = { st := .open_, openTag := BitVec.ofNat 16 d.tag } ∧ others t)) ∧
       (x.st ≠ .free → refused (.jointOpen r q))) ∧
     (d.opc = 0x0C →
       (x.st = .open_ → Completes (.jointCommit r q) s (fun t =>
         t.joint p j = { x with st := .committing, commit := some (r, q) } ∧ others t ∧
         t.descOf r q = some (p, { d with acted := true }))) ∧
       (x.st = .aborted → freed (.jointCommit r q)) ∧
       (x.st = .free ∨ x.st = .committing → refused (.jointCommit r q))) ∧
     (d.opc = 0x0D →
       (x.st = .open_ → x.commit = none → Completes (.jointAbort r q) s (fun t =>
         t.Ended r q d 0 ∧ (t.joint p j).st = .free ∧ (t.joint p j).dirty = [] ∧ (t.joint p j).log = [] ∧
         t.fld (oJT_COUNT p.val) 63 32 = (s.fld (oJT_COUNT p.val) 63 32 + 1) % 2 ^ 32 ∧ others t)) ∧
       (x.st = .aborted → freed (.jointAbort r q)) ∧
       (x.st = .free ∨ x.st = .committing → refused (.jointAbort r q)))) ∧
  (∀ (s : State) (p : PartId) (j : Fin 64) (c : RingId × BitVec 32) (d : Desc), s.alive = true →
     let n := j.val + 1
     let x := s.joint p n
     x.commit = some c → s.desc c.1 c.2 = some d → x.st = .committing → d.stage = .started →
     (s.commitReady p n = false → exec (.jointCommitSwap p j) s = .next s) ∧
     (s.commitReady p n = true → (s.commitOn p n c).stalls ≠ [] → Completes (.jointCommitSwap p j) s (fun t =>
       t.parts = s.parts ∧ t.mem = s.mem ∧ t.cores = s.cores)) ∧
     (s.commitReady p n = true → (s.commitOn p n c).stalls = [] → (∃ e ∈ s.withheld p n, e.status ≠ 0) →
       exec (.jointCommitSwap p j) s = .next ((s.failJoint p n 0x0302).resolveJoints p)) ∧
     (s.commitReady p n = true → (s.commitOn p n c).stalls = [] → (∀ e ∈ s.withheld p n, e.status = 0) →
       (∀ e ∈ x.dirty, e.mirrored = false) →
       exec (.jointCommitSwap p j) s = .next ((s.commitJoint p n c).resolveJoints p)) ∧
     (s.commitReady p n = true → (s.commitOn p n c).stalls = [] → s.membersOf p n = [] → x.dirty = [] → x.log = [] →
       (∀ e ∈ s.descs p, e.wantsJoint = false ∨ e.resolved = true) → Completes (.jointCommitSwap p j) s (fun t =>
         (t.joint p n).st = .free ∧ (t.joint p n).commit = none ∧
         t.fld (oJT_COUNT p.val) 31 0 = (s.fld (oJT_COUNT p.val) 31 0 + 1) % 2 ^ 32 ∧ t.mem = s.mem ∧
         ∃ o e, t.descOf c.1 c.2 = some (o, e) ∧ e.stage = .ended)))

/-- A page is swapped (R244): where the line of its leaf is sound and its channel enabled, the leaf takes the address of
the shadow and keeps its other bits, and every other byte of device memory reads as before. The oldest write at the
joint unit of a partition (R239 to R241): a write that belongs to no joint is answered 0x0305 and not performed, one of
a joint that is FREE or ABORTED is answered and not performed; one to a page that its joint holds dirty goes to the
shadow page; the first to a page that no other joint holds takes a free page of the pool that no access still reaches as
its shadow and waits for the copy, waits where every free page is still reached, and aborts its joint where it holds
1,024 pages or no page is free; the first to a page that another joint holds aborts its own joint, or the other where
its own is COMMITTING and the other OPEN (R243). The copy of a page into its shadow ends and the write that waited for
it is performed there, or answered without effect where its joint has been aborted since (R248); a copy that has to wait
for a memory channel changes nothing; where no line holds an error and the two pages do not meet, the shadow then reads
as the page did and every other byte as before (R239). -/
def Obligations.jointPages : Prop :=
  (∀ (s : State) (p : PartId) (d : DirtyPage), d.leafAt % 8 = 0 → addrHole d.leafAt = false →
     s.chEnabled (chanOf d.leafAt) = true → s.errorsIn (d.leafAt / 64) = 0 →
     s.stalls = [] → (State.swapPage p s d).stalls = [] →
     let e : Word := setBits (BitVec.ofNat 64 (leNat (readBytes s.mem d.leafAt 8))) 40 8 (d.shadow / 256)
     let t := State.swapPage p s d
     readBytes t.mem d.leafAt 8 = natLe 8 e.toNat ∧ (∀ a, a < d.leafAt ∨ d.leafAt + 8 ≤ a → t.byte a = s.byte a) ∧
     (∀ c, (t.core c).s = (s.core c).s ∧ (t.core c).bench = (s.core c).bench)) ∧
  (∀ (s : State) (p : PartId) (w : JointWrite) (rest : List JointWrite), s.alive = true →
     (s.part p).jointWrites = w :: rest → (s.part p).shadowWait = none →
     let x := s.joint p w.joint
     let s1 := s.modPart p (fun q => { q with jointWrites := rest })
     let may := w.joint ≠ 0 ∧ (x.st = .open_ ∨ x.st = .committing)
     (w.joint = 0 → exec (.jointPageWrite p) s = .next (s1.answerWrite p w.req 0x0305)) ∧
     (w.joint ≠ 0 → x.st = .free ∨ x.st = .aborted → exec (.jointPageWrite p) s = .next (s1.answerWrite p w.req 0)) ∧
     (may → ∀ d, x.dirty.find? (fun d => d.leafAt == w.leafAt) = some d →
       exec (.jointPageWrite p) s = .next (s1.toShadow p w d)) ∧
     (may → x.dirty.find? (fun d => d.leafAt == w.leafAt) = none → s.otherWriter p w.joint w.leafAt = none →
       (1024 ≤ x.dirty.length ∨ s.freePages p = [] →
         exec (.jointPageWrite p) s = .next ((s1.failJoint p w.joint 0x0303).answerWrite p w.req 0)) ∧
       (x.dirty.length < 1024 → s.freePages p ≠ [] → (∀ a ∈ s.freePages p, s1.pageBusy a 65536 = true) →
         Completes (.jointPageWrite p) s (fun t => t.part p = s.part p ∧ t.mem = s.mem ∧ t.cores = s.cores)) ∧
       (x.dirty.length < 1024 → (∃ a ∈ s.freePages p, s1.pageBusy a 65536 = false) → s.isClass0 p = false →
         (∀ a ∈ s.freePages p, s.inRanges p a 65536 = true) → Completes (.jointPageWrite p) s (fun t =>
           (t.part p).shadowWait = some w ∧ (t.part p).jointWrites = rest ∧ t.mem = s.mem ∧
           ∃ e, (t.joint p w.joint).dirty = x.dirty ++ [e] ∧ e.leafAt = w.leafAt ∧ e.page = eAddr w.entry ∧
             e.copied = false ∧ e.shadow ∈ s.freePages p ∧ s1.pageBusy e.shadow 65536 = false))) ∧
     (may → x.dirty.find? (fun d => d.leafAt == w.leafAt) = none → ∀ k, s.otherWriter p w.joint w.leafAt = some k →
       (x.st = .open_ ∨ (s.joint p k).st ≠ .open_ →
         exec (.jointPageWrite p) s = .next ((s1.failJoint p w.joint 0x0301).answerWrite p w.req 0)) ∧
       (x.st = .committing → (s.joint p k).st = .open_ →
         exec (.jointPageWrite p) s = .next ((s1.failJoint p k 0x0301).firstWrite p w)))) ∧
  ((∀ (s : State) (p : PartId) (w : JointWrite) (d : DirtyPage), s.alive = true → s.stalls = [] →
     (s.part p).shadowWait = some w → (s.joint p w.joint).dirty.find? (fun d => d.leafAt == w.leafAt) = some d →
     let t := s.modPart p (fun q => { q with shadowWait := none })
     ((s.joint p w.joint).aborting = true → exec (.shadowCopyDone p) s = .next (t.answerWrite p w.req 0)) ∧
     ((s.joint p w.joint).aborting = false → t.reachPage d.page = (t, 0) → t.reachPage d.shadow = (t, 0) →
       exec (.shadowCopyDone p) s =
         .next (((t.copyPage d.page d.shadow).modJoint p w.joint (fun x => { x with
           dirty := x.dirty.map (fun y => if y.leafAt == w.leafAt then { y with copied := true } else y) })).toShadow p w d)) ∧
     ((s.copyDone p w).stalls ≠ [] → Completes (.shadowCopyDone p) s (fun u => u.parts = s.parts ∧ u.mem = s.mem))) ∧
   ∀ (s : State) (a b : Nat), memWf s = true → s.lineErr = [] → a + 65536 ≤ b ∨ b + 65536 ≤ a →
     let t := s.copyPage a b
     (∀ i, i < 65536 → t.byte (b + i) = s.byte (a + i)) ∧ (∀ y, y < b ∨ b + 65536 ≤ y → t.byte y = s.byte y))

/-- BAR2 and BAR4 (R257, R262, R263): after READY an access of BAR2 inside the window becomes a request for the device
memory that the window maps, in this statement of one line or of no byte, which reaches no memory; before READY a read
is answered with completer abort and a write is counted and dropped. A write of BAR4 with EN set is received and becomes
a request, one with EN clear is counted as dropped and changes no memory; a read of BAR4 is answered as unsupported.
FLUSH reads (R256, R259, R273): a read of FLUSH waits for its function's BAR2 writes and keeps the table words that its
function has written; when nothing is left to wait for it returns the count of its function's writes, and those words
wait for the next poll. -/
def Obligations.windowsAndFlushes : Prop :=
  (∀ (s : State) (off : BitVec 39) (low : BitVec 32) (len : Nat) (data : List Byte), s.alive = true →
     s.power.configReady = true → data.length = len →
     let a := s.bar2Addr off.toNat
     let b := s.ingAddr low.toNat
     let asked := fun (t : State) (who : ServeFor) (at_ : Nat) (kind : MemKind) (bytes : List Byte) =>
       t.inFlight.map (fun x => (x.id, x.src, x.addr, x.kind, x.len, x.data)) =
         s.inFlight.map (fun x => (x.id, x.src, x.addr, x.kind, x.len, x.data)) ++
           [(s.nextId, srcBar2 0, at_, kind, len, bytes)] ∧
       t.serving = s.serving ++ [{ who := who, kind := kind, ids := [s.nextId], waiting := [s.nextId] }] ∧
       t.mem = s.mem ∧ t.regs = s.regs
     (s.ready = true → s.inBar2 off.toNat len = true → 0 < len → a % 64 + len ≤ 64 →
       Completes (.bar2Read off len) s (fun t => asked t (.bar2 0) a .read []) ∧
       Completes (.bar2Write off data) s (fun t => asked t (.bar2 0) a .write data)) ∧
     (s.ready = false → s.inBar2 off.toNat len = true →
       Completes (.bar2Read off len) s (fun t => t.outbox = s.outbox ++ [.pcie 0 .completerAbort []] ∧ t.mem = s.mem) ∧
       exec (.bar2Write off data) s = .next s.ignored) ∧
     (s.ready = true → s.inBar2 off.toNat len = true → len = 0 →
       Completes (.bar2Read off len) s (fun t =>
         t.outbox = s.outbox ++ [.pcie 0 .success []] ∧ t.inFlight = s.inFlight ∧ t.mem = s.mem) ∧
       Completes (.bar2Write off data) s (fun t => t.outbox = s.outbox ∧ t.inFlight = s.inFlight ∧ t.mem = s.mem)) ∧
     (s.ready = true → s.bit oING_CTL 0 = true → len = 0 → Completes (.bar4Write low data) s (fun t =>
       t.inFlight = s.inFlight ∧ t.ingress = s.ingress ∧ t.mem = s.mem)) ∧
     (s.ready = true → s.bit oING_CTL 0 = true → 0 < len → low.toNat + len ≤ 2 ^ 32 → b % 64 + len ≤ 64 →
       Completes (.bar4Write low data) s (fun t =>
         asked t .ingress b .write data ∧ t.ingress = s.ingress ++ [{ req := s.nextId, off := low.toNat, data := data }])) ∧
     (s.bit oING_CTL 0 = false → low.toNat + len ≤ 2 ^ 32 → Completes (.bar4Write low data) s (fun t =>
       t.fld oING_STAT 31 0 = (s.fld oING_STAT 31 0 + 1) % 2 ^ 32 ∧ t.inFlight = s.inFlight ∧ t.ingress = s.ingress ∧
       t.mem = s.mem)) ∧
     Completes (.bar4Read low len) s (fun t =>
       t.outbox = s.outbox ++ [.pcie 0 .unsupported []] ∧ t.inFlight = s.inFlight ∧ t.mem = s.mem)) ∧
  (∀ (s : State) (fn : FnId), s.alive = true →
     let mine := fun (e : Nat × Nat) => e.2 == fn.val + 1
     (s.power.configReady = true → Completes (.flushRead fn) s (fun t =>
       t.flushWaits = s.flushWaits ++ [{
         fn := fn, writes := s.bar2Writes fn, words := (s.writers.filter mine).map (fun e => (e.1, s.reg e.1)) }] ∧
       t.writers = s.writers.filter (fun e => !mine e) ∧ t.outbox = s.outbox ∧ t.mem = s.mem ∧ t.regs = s.regs)) ∧
     (∀ w, s.flushWaits.find? (fun w => decide (w.fn = fn)) = some w →
       (w.writes ≠ [] → exec (.flushReadComplete fn) s = .next s) ∧
       (w.writes = [] → Completes (.flushReadComplete fn) s (fun t =>
         t.outbox = s.outbox ++ [.pcie fn .success (natLe 8 (tabGet (fun _ => 0) fn.val s.flushCount).toNat)] ∧
         t.flushWaits = s.flushWaits.erase w ∧ t.flushed = w.words.foldl (fun m x => tabSet regReset x.1 x.2 m) s.flushed ∧
         t.tables = s.tables ∧ t.mem = s.mem ∧ t.regs = s.regs))))

/-- Answers to host reads (R264): the data of a read goes to the unit that asked, here a tail word to its ring and a
beat line to the twin logic; a read that fails, or that no completion answers in time, is logged and its descriptor ends
with 0x0401, 0x0402 or 0x0403, or its ring fetches nothing before the next poll finds slots; nothing is answered while
the link is down. A read answered makes room for one that waits to go out (R254): what is left to be answered is the
rest. -/
def Obligations.hostReadsAreAnswered : Prop :=
  ∀ (s : State) (id : Nat) (r : HostRead) (bs : List Byte), s.alive = true →
    s.hostReads.find? (fun r => r.id == id && r.issued) = some r →
    let t0 : State := { s with hostReads := s.hostReads.erase r }
    let left := fun (t : State) => t.hostReads.map HostRead.id = (s.hostReads.erase r).map HostRead.id
    (s.held = true → ∀ a, exec (.hostReadCompletion id a) s = .next s) ∧
    (s.held = false → ∀ q, r.purpose = .tail q → exec (.hostReadCompletion id (.good bs)) s =
      .next (t0.takeTail q r.poll (BitVec.ofNat 32 (fieldLe bs 0 4))).issueReads) ∧
    (s.held = false → r.purpose = .beatLine → Completes (.hostReadCompletion id (.good bs)) s (fun t =>
      t.twin.partnerBeat = BitVec.ofNat 64 (fieldLe bs 0 8) ∧
      t.twin.still = (if BitVec.ofNat 64 (fieldLe bs 0 8) = s.twin.partnerBeat then s.twin.still + 1 else 0) ∧
      left t ∧ t.mem = s.mem ∧ t.regs = s.regs ∧
      ((∀ x ∈ s.hostReads, x.issued = true) → t = { t0 with twin := t.twin }))) ∧
    (∀ x ∈ [(Instr.hostReadCompletion id .ur, 0x0401), (.hostReadCompletion id .poison, 0x0402),
        (.hostReadTimeout id, 0x0403)],
      (s.held = false ∨ x.1 = .hostReadTimeout id) →
      (∀ q seq p d, r.purpose = .mapEntries q seq → s.descOf q seq = some (p, d) → d.stage = .running → d.status = 0 →
        Completes x.1 s (fun t =>
          t.descOf q seq = some (p, { d with stage := .ended, status := BitVec.ofNat 16 x.2 }) ∧
          left t ∧ t.mem = s.mem ∧
          t.moduleLog = (s.logModule { type := 0x11, status := x.2, d1 := x.2, d2 := r.addr }).moduleLog)) ∧
      (∀ q f n, r.purpose = .slots q f n → Completes x.1 s (fun t =>
        (t.ring q).fetching = false ∧ (t.ring q).owed = false ∧ (t.ring q).tail = t.fetched q ∧ t.mem = s.mem)))

/-- The host link (R265, R266, R320, R364): loss of the link holds what goes to the host and counts the outage; its
return releases it in order, before anything new, and what waited for it goes on; 100 µs of it with an active twin fail
the module, 2 ms of it, in FAILED too, and a reset of PF0 reset the host-facing state; a reset of a virtual function
aborts its partition, or becomes the ground of the abort in progress. A configuration request is answered, or retried
before configuration space is ready; a read returns a free value (log entry 5). -/
def Obligations.linkAndResets : Prop :=
  (∀ s : State, s.power.pwrgd = true →
    (s.held = true → exec .linkDown2ms s = .next s.hostReset) ∧ (s.held = false → exec .linkDown2ms s = .next s)) ∧
  ∀ s : State, s.alive = true →
    (s.linkSpeed ≠ 0 → Completes .linkDown s (fun t =>
      t.held = true ∧ t.linkSpeed = 0 ∧ t.fld oHL_STAT 7 3 = 0 ∧
      t.fld oHL_DOWN 31 0 = (s.fld oHL_DOWN 31 0 + 1) % 2 ^ 32 ∧ t = { s with regs := t.regs })) ∧
    (∀ (speed : BitVec 3) (width : BitVec 5) (us : BitVec 32), s.power.ltssm = true → s.linkSpeed = 0 → speed ≠ 0 →
      Completes (.linkUp speed width us) s (fun t =>
        t.mem = s.mem ∧ ∃ more, t.outbox = s.outbox ++ s.heldOut ++ more) ∧
      ((∀ n, s.hcDesc n = none) → s.hostLines = [] → Completes (.linkUp speed width us) s (fun t =>
        t.held = false ∧ t.linkSpeed = speed.toNat ∧ t.fld oHL_STAT 7 3 = width.toNat ∧
        t.outbox = s.outbox ++ s.heldOut ∧ t.heldOut = [] ∧ t.mem = s.mem ∧
        (s.held = true → t.fld oHL_DOWN 63 32 = max (s.fld oHL_DOWN 63 32) us.toNat)))) ∧
    (s.held = true → s.twState = 2 → Completes .linkDown100us s (fun t => t.failed = true)) ∧
    (s.held = false ∨ s.twState ≠ 2 → exec .linkDown100us s = .next s) ∧
    (s.power.configReady = true →
      exec .flrPf0 s = .next s.hostReset ∧
      ∀ p : PartId, (s.part p).abort = none → (s.part p).joints = [] → s.hostCarts = [] →
        Completes (.flrVf p) s (fun t =>
          (t.part p).abort = some .reset ∧ t.bit (oPT_ABORT p.val) 1 = true ∧ (∀ q, q ≠ p → t.part q = s.part q) ∧
          t.mem = s.mem ∧ t.cores = s.cores ∧ t.outbox = s.outbox)) ∧
    (s.power.configReady = true → ∀ (p : PartId) (a : AbortSource), (s.part p).abort = some a →
      Completes (.flrVf p) s (fun t => (t.part p).abort = some .reset ∧ (∀ q, q ≠ p → t.part q = s.part q) ∧
        t.mem = s.mem ∧ t.regs = s.regs ∧ t.cores = s.cores)) ∧
    (∀ (fn : FnId) (reg : BitVec 12) (v : BitVec 32),
      (s.power.configReady = false → ∀ w, Completes (.configRequest fn reg w) s (fun t =>
        t = { s with outbox := s.outbox ++ [.pcie fn .retry []] })) ∧
      (s.power.configReady = true → Completes (.configRequest fn reg (some v)) s (fun t =>
        t.outbox = s.outbox ++ [.pcie fn .success []] ∧ t.mem = s.mem ∧ t.regs = s.regs ∧
        t.boot.busMaster = if fn = 0 ∧ reg = 0x004 then v.getLsbD 2 else s.boot.busMaster)) ∧
      (s.power.configReady = true → Completes (.configRequest fn reg none) s (fun t =>
        ∃ x : BitVec 32, t = { s with outbox := s.outbox ++ [.pcie fn .success (natLe 4 x.toNat)], freeIdx := s.freeIdx + 1 })))

/-- Polls (R273, R274, R277): a poll of the summary brings the tables of the last FLUSH read into force and reads the
1,024-byte summary, where it has an address, as soon as a read may go out (R254); a poll of class 0 leaves a read of the
tail word outstanding for every enabled class-0 ring; a NUDGE by PF0 reads the tail word of its ring, and a virtual
function's of a ring that is not its own reads nothing. A tail word arrives (R276): one that lies between FETCHED and
RETIRED + SIZE is the ring's tail, one beyond is clamped, one behind FETCHED is ignored; the two latter raise the
partition's event once. EN of a ring goes to 1 by PF0 (R271, R272): where nothing refuses it the ring is enabled,
FETCHED and RETIRED take SEQ, and the bound of its cancels is cleared; where a rule refuses it EN stays 0. -/
def Obligations.ringPolls : Prop :=
  (∀ s : State, s.alive = true → s.held = false →
     let tails := fun (t : State) (r : RingId) => ∃ x ∈ t.hostReads, x.purpose = .tail r
     let base := 1024 * s.fld oDB_SUMMARY 63 10
     let b := s.beginPoll
     let now := decide (0 < b.readRoom)
     (s.ready = true →
       (base ≠ 0 → Completes .summaryPoll s (fun t =>
         t.tables = s.flushed ∧ t.pollNo = s.pollNo + 1 ∧
         t.outbox = b.outbox ++ (if now then [.hostRead 0 b.nextId base 1024] else []) ∧
         t.hostReads = b.hostReads ++
           [{ id := b.nextId, addr := base, len := 1024, purpose := .summary, poll := b.pollNo, issued := now }] ∧
         t.fld oDB_POLLS 31 0 = (s.fld oDB_POLLS 31 0 + 1) % 2 ^ 32 ∧ t.mem = s.mem)) ∧
       (base = 0 → exec .summaryPoll s = .next s.beginPoll) ∧
       Completes .class0TailPoll s (fun t =>
         t.tables = s.flushed ∧ (∀ r, s.beginPoll.polled r = true → s.beginPoll.ringClass r = 0 → tails t r) ∧
         t.mem = s.mem ∧ t.regs = s.regs)) ∧
     (s.power.configReady = true → ∀ v : Word, v.toNat < 8192 →
       let r : RingId := ⟨v.toNat % 8192, Nat.mod_lt _ (by decide)⟩
       (s.polled r = true → Completes (.nudge 0 .full v) s (fun t => tails t r ∧ t.mem = s.mem)) ∧
       ∀ (fn : FnId) (p : PartId), fnPart fn = some p → s.partOfRing r ≠ some p →
         Completes (.nudge fn .full v) s (fun t => t.hostReads = s.hostReads ∧ t.mem = s.mem))) ∧
  (∀ (s : State) (r : RingId) (tail : BitVec 32) (x : HostRead), s.alive = true →
     s.hostReads.find? (fun x => decide (x.purpose = .tail r) && x.issued) = some x →
     let size := BitVec.ofNat 32 (s.ringSize r)
     let behind := (tail - s.fetched r).toInt < 0
     let beyond := size < tail - s.retired r
     let read := fun (t : State) => t.hostReads.map HostRead.id = (s.hostReads.erase x).map HostRead.id ∧ t.mem = s.mem
     let raised := fun (t : State) => ∀ p, s.partOfRing r = some p → (t.ring r).errorRaised = true ∧
       (t.part p).events = if (s.ring r).errorRaised then (s.part p).events else (s.part p).events + 1
     (¬ behind → ¬ beyond → Completes (.tailRead r tail) s (fun t =>
       read t ∧ (t.ring r).tail = tail ∧ (t.ring r).readySince.isSome = decide (tail ≠ s.fetched r) ∧ t.parts = s.parts)) ∧
     (¬ behind → beyond → Completes (.tailRead r tail) s (fun t => (t.ring r).tail = s.retired r + size ∧ raised t)) ∧
     (behind → Completes (.tailRead r tail) s (fun t => (t.ring r).tail = (s.ring r).tail ∧ raised t))) ∧
  (∀ (s : State) (r : RingId) (v : Word), s.alive = true → s.power.configReady = true → s.ready = true →
     s.bit (oRT_CTL r) 0 = false → v.getLsbD 0 = true →
     let w := mergeWrite (fieldsAt (oRT_CTL r)) (s.reg (oRT_CTL r)) .full v noField
     let seq := s.fld (oRT_SIZE r) 63 32
     (s.enRefused r w = false → Completes (.rtCtlWrite 0 r .full v) s (fun t =>
       t.bit (oRT_CTL r) 0 = true ∧ t.fetched r = BitVec.ofNat 32 seq ∧ t.retired r = BitVec.ofNat 32 seq ∧
       t.bit (oRT_CANCEL r) 32 = false ∧ (t.ring r).tail = BitVec.ofNat 32 seq ∧ t.mem = s.mem)) ∧
     (s.enRefused r w = true → Completes (.rtCtlWrite 0 r .full v) s (fun t =>
       t.bit (oRT_CTL r) 0 = false ∧ t.fetched r = s.fetched r ∧ t.mem = s.mem)))

/-- Slots are fetched (R279, R281, R301): a granted ring reads at most eight slots, as many as its partition has room
for, from its slot array, in two reads where they wrap past its end; a slot whose sequence and header pass the checks
becomes a fetched descriptor and FETCHED goes on by one; a first mismatch of the sequence gives no descriptor and is
read again. Stated for a slot without extra slots and without a joint, on a ring without a bound. Descriptors start and
complete (R260, R280, R290, R302): the next descriptor of a ring starts once nothing holds it, with a free host cart
where it needs one, and stays otherwise; one that has ended outside a joint leaves its partition with its record written
at once, where no flushing read is due for it, or with its record waiting for a flushing read; the record of a member of
an OPEN joint is withheld. A flushing read has completed (R258): every record it covers is written to the host and
leaves its partition; nothing of its function that it covers is left. Stated for one covered record without a vector. -/
def Obligations.descriptorsAreFetched : Prop :=
  (∀ (s : State) (r : RingId) (p : PartId), s.alive = true → s.partOfRing r = some p →
     (∀ cyc, s.nextGrant = some (r, cyc) → s.held = false →
       let n := min 8 (min (s.room p r) ((s.ring r).tail - s.fetched r).toNat)
       let base := 64 * s.cfg (oRT_DESC r) 63 6
       let at_ := (s.fetched r).toNat % s.ringSize r
       let k := min n (s.ringSize r - at_)
       let asked := fun (x : HostRead) => (x.addr, x.len, x.purpose, x.fn, x.poll)
       let piece := fun (a : Nat) (q : BitVec 32) (m : Nat) => (a, 64 * m, HostPurpose.slots r q m, partFn p, (s.ring r).found)
       Completes .fetchGrant s (fun t =>
         (t.ring r).fetching = true ∧ t.mem = s.mem ∧ t.parts = s.parts ∧
         t.hostReads.map asked = s.hostReads.map asked ++ piece (base + 64 * at_) (s.fetched r) k ::
           (if k < n then [piece base (s.fetched r + BitVec.ofNat 32 k) (n - k)] else []))) ∧
     (∀ h : Slot, h.length = 64 → s.slotsAsked r = 1 → (s.ring r).arrived = [] →
       fieldLe h 2 1 % 4 = 0 → (∀ o e, e ∈ s.descs o → e.wantsJoint = false ∨ e.resolved = true) →
       let d : Desc := { ring := r, seq := s.fetched r, bytes := h }
       let batch := [({ ring := r, slots := [h] } : FetchBatch)]
       (fieldLe h 8 4 = (s.fetched r).toNat → s.checkDesc p d = none → badJoint d = false → d.jointFlag = false →
         s.bit (oRT_CANCEL r) 32 = false → d.opc ≠ 0x0F → Completes (.descriptorFetch batch) s (fun t =>
           (∃ e, t.descs p = s.descs p ++ [e] ∧ e.ring = r ∧ e.seq = s.fetched r ∧ e.bytes = h ∧ e.stage = .fetched ∧
             e.status = 0) ∧
           t.fetched r = s.fetched r + 1 ∧ (t.ring r).fetching = false ∧ t.mem = s.mem)) ∧
       (fieldLe h 8 4 ≠ (s.fetched r).toNat → (s.ring r).reread = false → Completes (.descriptorFetch batch) s (fun t =>
         t.descs p = s.descs p ∧ t.fetched r = s.fetched r ∧ (t.ring r).reread = true ∧ t.mem = s.mem)))) ∧
  (∀ (s : State) (r : RingId) (p : PartId) (d : Desc), s.alive = true → s.partOfRing r = some p →
     s.descOf r d.seq = some (p, d) →
     let q := d.seq
     (s.nextDesc p r = some d → s.startable p d = false → exec (.descriptorStart r) s = .next s) ∧
     (s.nextDesc p r = some d → s.startable p d = true → d.fenced = false → s.fabric_ ≤ d.readyAt + 10000000 →
       let begun : Desc := { d with stage := .started, startedAt := s.fabric_ }
       (d.cartDir = none → Completes (.descriptorStart r) s (fun t =>
         t.descOf r q = some (p, begun) ∧ t = { s with parts := t.parts })) ∧
       (∀ dir n, d.cartDir = some dir → s.freeCart dir (s.cartClass d) = some n →
         s.cartTurn dir (s.cartClass d) = some r → Completes (.descriptorStart r) s (fun t =>
           t.descOf r q = some (p, begun) ∧ t.hcart n = { desc := some (r, q) } ∧ t.mem = s.mem ∧ t.regs = s.regs)) ∧
       (∀ dir, d.cartDir = some dir → s.freeCart dir (s.cartClass d) = none →
         exec (.descriptorStart r) s = .next s)) ∧
     (d.stage = .ended → (s.part p).abort = none → d.opc ≤ 0x07 → d.released = false →
       (d.member = false → s.held = false → s.ownFlush d = false → s.followsJoint p d = false → d.irq = false →
         Completes (.descriptorComplete r q) s (fun t =>
         (∃ more, t.outbox = s.outbox ++
           Out.hostWrite (partFn p) (s.recordAddr r q) (s.record d true) (!s.service r q) :: more) ∧
         t.descs p = (s.descs p).filter (fun x => !x.named r q) ∧ t.mem = s.mem)) ∧
       (d.member = false → s.held = false → s.ownFlush d = true → Completes (.descriptorComplete r q) s (fun t =>
         t.descOf r q = some (p, { d with stage := .completed }) ∧ t.mem = s.mem ∧
         (∃ l ∈ t.hostLines, l.desc = some (r, q) ∧ l.fn = partFn p) ∧
         ∃ x ∈ t.hostReads, x.purpose = .flushing (partFn p))) ∧
       (d.member = true → (s.joint p d.jid).st = .open_ → d.status = 0 → Completes (.descriptorComplete r q) s (fun t =>
         t.descOf r q = some (p, { d with stage := .completed }) ∧ t = { s with parts := t.parts })))) ∧
  (∀ (s : State) (p : PartId) (d : Desc) (l : HostLine), s.alive = true → s.held = false →
     s.hostReads.any (fun r => decide (r.purpose = .flushing (partFn p))) = true →
     s.hostLines = [l] → l.fn = partFn p → l.covered = true → l.desc = some (d.ring, d.seq) →
     s.descOf d.ring d.seq = some (p, d) → d.irq = false → (s.part p).closing = false →
     let own := s.ownFlush d
     Completes (.flushingReadDone (partFn p)) s (fun t =>
       (∃ more, t.outbox = s.outbox ++ Out.hostWrite (partFn p) (s.recordAddr d.ring d.seq) (s.record d (!own))
         (!own && !s.service d.ring d.seq) :: more) ∧
       t.descs p = (s.descs p).filter (fun x => !x.named d.ring d.seq) ∧ t.hostLines = [] ∧ t.mem = s.mem))

/-- Descriptors that only order (R282, R286, R288, R306): a started NOP ends with OK; a FENCE ends when its own ring's
earlier descriptors and every bound it names have completed, and one that names a ring of another partition ends with
0x0011; FLUSH and CANCEL end when what they wait for has completed; until then each leaves the module as it is. A
TIMESTAMP without an address ends with OK. An ABORT_PARTITION on a ring that is no control ring ends with 0x0014, on the
control ring it sets the busy bit, or waits for the end of the abort in progress. What ends changes only its partition's
descriptors. INGRESS_FENCE (R263): without a marker it ends once the writes received before its fetch are acknowledged,
and at once where none of them is outstanding; while it waits for its marker, its time-out ends it with 0x0404 and it
waits no more. -/
def Obligations.orderingDescriptors : Prop :=
  (∀ (s : State) (r : RingId) (q : BitVec 32) (p : PartId) (d : Desc), s.alive = true → s.descOf r q = some (p, d) →
     d.stage = .started →
     let ends := fun (i : Instr) (st : Nat) =>
       Completes i s (fun t => t.Ended r q d st ∧ t = { s with parts := t.parts } ∧ ∀ o, o ≠ p → t.part o = s.part o)
     let foreign := ∃ x ∈ d.fences, s.partOfRing x.1 ≠ some p
     let fenced := s.ringDone p d = true ∧ ∀ x ∈ d.fences, s.boundDone p x.1 x.2 = true
     let covered := ∀ x ∈ earlier (s.descs p) d, x.ring = d.target → before x.seq d.bound = true → x.done = true
     (d.opc = 0x00 → ends (.nopDescriptor r q) 0) ∧
     (d.opc = 0x07 → foreign → ends (.fence r q) 0x0011) ∧
     (d.opc = 0x07 → ¬ foreign → fenced → ends (.fence r q) 0) ∧
     (d.opc = 0x07 → ¬ foreign → ¬ fenced → exec (.fence r q) s = .next s) ∧
     (d.opc = 0x08 → s.ringDone p d = true → ends (.flush r q) 0) ∧
     (d.opc = 0x08 → s.ringDone p d = false → exec (.flush r q) s = .next s) ∧
     (d.opc = 0x0F → covered → ends (.cancel r q) 0) ∧
     (d.opc = 0x0F → ¬ covered → exec (.cancel r q) s = .next s) ∧
     (d.opc = 0x11 → d.f 16 8 = 0 → ends (.timestamp r q) 0) ∧
     (d.opc = 0x10 → s.cfg (oRT_CTL r) 1 1 = 0 → ends (.abortPartition r q) 0x0014) ∧
     (d.opc = 0x10 → s.cfg (oRT_CTL r) 1 1 = 1 → (s.part p).abort = none → (s.part p).joints = [] → s.hostCarts = [] →
       (s.part p).closing = false → Completes (.abortPartition r q) s (fun t =>
         (t.part p).abort = some (.descriptor r q) ∧ (t.part p).switch = none ∧ t.bit (oPT_ABORT p.val) 1 = true ∧
         t.mem = s.mem ∧ t.cores = s.cores)) ∧
     (d.opc = 0x10 → s.cfg (oRT_CTL r) 1 1 = 1 → (s.part p).abort.isSome = true ∨ (s.part p).closing = true →
       Completes (.abortPartition r q) s (fun t =>
         t = { s with parts := t.parts } ∧ (t.part p).abort = (s.part p).abort ∧
         ∃ o e, t.descOf r q = some (o, e) ∧ e.stage = .running))) ∧
  (∀ (s : State) (r : RingId) (q : BitVec 32) (p : PartId) (d : Desc), s.alive = true → s.descOf r q = some (p, d) →
     d.opc = 0x09 → s.stalls = [] →
     let mine := fun (w : IngressWait) => decide (w.ring = r) && decide (w.seq = q)
     (d.stage = .started → d.f 16 4 = 2 ^ 32 - 1 → s.ingressWaits = [] →
       let left := d.covered.filter (fun i => s.ingress.any (fun x => x.req == i))
       (left = [] → Completes (.ingressFence r q) s (fun t => t.Ended r q d 0 ∧ t.ingressWaits = [] ∧ t.mem = s.mem)) ∧
       (left ≠ [] → Completes (.ingressFence r q) s (fun t =>
         t.ingressWaits = [{ ring := r, seq := q, marker := none, covered := left }] ∧ t.mem = s.mem ∧
         ∃ o e, t.descOf r q = some (o, e) ∧ e.stage = .running))) ∧
     (d.stage = .running → s.awaitsMarker d = true → Completes (.ingressTimeout r q) s (fun t =>
       t.Ended r q d 0x0404 ∧ t.ingressWaits = s.ingressWaits.filter (fun w => !mine w) ∧ t.mem = s.mem)))

/-- SIGNAL and WAIT on objects of the module (R223, R285): a SIGNAL posts to or decrements its peg, advances its tally
or arrives at its bell, and ends with OK, or with 0x0209 or 0x020A where the count does not allow it and stays; a WAIT
takes from its peg and ends if the count covers it, else it waits at the peg; an ID that names no object ends either
with 0x0208; a WAIT with a time-out ends with 0x0015 when that has passed. Stated for objects on which nobody waits and
descriptors that are in no joint. -/
def Obligations.syncDescriptors : Prop :=
  ∀ (s : State) (r : RingId) (q : BitVec 32) (p : PartId) (d : Desc) (n : Nat), s.alive = true →
    s.descOf r q = some (p, d) → d.member = false → (∀ e ∈ s.tallies, e.2.waiters = []) → (s.peg n).waiters = [] →
    (s.bell n).waiters = [] →
    let g := s.peg n
    let k := d.amount.toNat
    let x := s.ringCtx r
    let only := fun (t : State) => t.mem = s.mem ∧ t.cores = s.cores
    let pegTo := fun (c : BitVec 16) (t : State) =>
      (t.peg n).count = c ∧ (∀ m, m ≠ n → t.peg m = s.peg m) ∧ t.tallies = s.tallies ∧ t.bells = s.bells ∧ only t
    (d.stage = .started → d.opc = 0x05 →
      (d.kind ≤ 1 → s.pegRef p x d.object = none → Completes (.signal r q) s (fun t => t.Ended r q d 0x0208 ∧ pegTo g.count t)) ∧
      (d.kind = 0 → s.pegRef p x d.object = some n → g.count.toNat + k ≤ 65535 →
        Completes (.signal r q) s (fun t => t.Ended r q d 0 ∧ pegTo (g.count + BitVec.ofNat 16 k) t)) ∧
      (d.kind = 0 → s.pegRef p x d.object = some n → 65535 < g.count.toNat + k →
        Completes (.signal r q) s (fun t => t.Ended r q d 0x0209 ∧ pegTo g.count t ∧ (t.peg n).ovf = true)) ∧
      (d.kind = 1 → s.pegRef p x d.object = some n → k ≤ g.count.toNat →
        Completes (.signal r q) s (fun t => t.Ended r q d 0 ∧ pegTo (g.count - BitVec.ofNat 16 k) t)) ∧
      (d.kind = 1 → s.pegRef p x d.object = some n → g.count.toNat < k →
        Completes (.signal r q) s (fun t => t.Ended r q d 0x020A ∧ pegTo g.count t ∧ (t.peg n).udf = true)) ∧
      (d.kind = 2 → s.tallyRef p x d.object = some (.local_ n) → Completes (.signal r q) s (fun t =>
        t.Ended r q d 0 ∧ (t.tally n).value = (s.tally n).value + d.amount ∧
        (∀ m, m ≠ n → t.tally m = s.tally m) ∧ t.pegs = s.pegs ∧ only t)) ∧
      (d.kind = 3 → s.bellRef p x d.object = some n → 0 < k → k ≤ 4096 → (s.bell n).count = 0 → (s.bell n).arrived = 0 →
        1 < k → Completes (.signal r q) s (fun t =>
          t.Ended r q d 0 ∧ (t.bell n).count.toNat = k ∧ (t.bell n).arrived = 1 ∧ (t.bell n).gen = (s.bell n).gen ∧
          only t)) ∧
      (d.kind = 3 → s.bellRef p x d.object = some n → k = 0 ∨ 4096 < k → Completes (.signal r q) s (fun t =>
        t.Ended r q d 0x0212 ∧ t.bells = s.bells ∧ pegTo g.count t))) ∧
    (d.stage = .started → d.opc = 0x06 → d.kind = 0 → s.pegRef p x d.object = some n →
      (k ≤ g.count.toNat → Completes (.wait r q) s (fun t =>
        t.Ended r q d 0 ∧ pegTo (g.count - BitVec.ofNat 16 k) t ∧ (t.peg n).waiters = [])) ∧
      (g.count.toNat < k → Completes (.wait r q) s (fun t =>
        pegTo g.count t ∧ (t.peg n).waiters.map Waiter.who = [.descriptor r q] ∧
        ∃ o e, t.descOf r q = some (o, e) ∧ e.stage = .running))) ∧
    (∀ m h w, d.stage = .running → d.opc = 0x06 → s.pegs = [(m, h)] → h.waiters = [w] → w.who = .descriptor r q →
      s.tallies = [] → s.bells = [] → s.fabric.requests = [] →
      (d.f 20 4 = 0 → exec (.waitTimeout r q) s = .next s) ∧
      (d.f 20 4 ≠ 0 → Completes (.waitTimeout r q) s (fun t =>
        t.Ended r q d 0x0015 ∧ (t.peg m).waiters = [] ∧ (t.peg m).count = h.count ∧ only t)))

/-- Descriptors that move data (R283, R286): the host cart of a started inbound COPY reads its host bytes, in this
statement one read; that of a COPY_INDEXED first reads up to 128 entries of its index; a WRITE_INLINE and a TIMESTAMP
with an address go to their partition's inline unit, and wait for it while it works for another. MAP (R153, R287): a
range that passes 2^52 ends with 0x0011; entries of a host array are first read from the host, up to 512 at a time; a
MAP whose entries are written ends with its status once no access uses a page that it replaced, and one that has to wait
for a memory channel writes no entry until then. -/
def Obligations.transferDescriptors : Prop :=
  (∀ (s : State) (r : RingId) (q : BitVec 32) (p : PartId) (d : Desc) (n : Nat), s.alive = true →
     s.descOf r q = some (p, d) → d.stage = .started →
     let cart := s.hcOf r q = some n ∧ s.hcart n = { desc := some (r, q) } ∧ s.jointHeld p (hcSrc n) = false ∧ s.held = false
     let asked := fun (x : HostRead) => (x.id, x.addr, x.len, x.purpose, x.fn)
     let a := d.f 16 8
     let len := d.f 32 4
     let rows := d.f 40 4
     (d.opc = 0x01 → d.f 36 1 % 4 = 0 → cart → 0 < len → a % 512 + len ≤ 512 → Completes (.copy r q) s (fun t =>
       t.hostReads.map asked = s.hostReads.map asked ++ [(s.nextId, a, len, .data r q, partFn p)] ∧
       t.hcart n = {
         desc := some (r, q), reads := [{ id := s.nextId, host := a, dev := d.f 24 8, len := len }] } ∧
       t.mem = s.mem ∧ ∃ o e, t.descOf r q = some (o, e) ∧ e.stage = .running)) ∧
     (d.opc = 0x02 → cart → 0 < rows → Completes (.copyIndexed r q) s (fun t =>
       t.hostReads.map asked = s.hostReads.map asked ++ [(s.nextId, d.f 32 8, 4 * min 128 rows, .index r q, partFn p)] ∧
       (t.hcart n).index = min 128 rows ∧ (t.hcart n).dir = d.f 56 1 % 2 ∧ t.mem = s.mem ∧
       ∃ o e, t.descOf r q = some (o, e) ∧ e.stage = .running)) ∧
     (d.opc = 0x03 → exec (.writeInline r q) s = .next (s.inline p d (a % 2 ^ 52) d.payload)) ∧
     (d.opc = 0x11 → a ≠ 0 →
       exec (.timestamp r q) s = .next (s.inline p d a (natLe 8 (d.startedAt % 2 ^ 48)))) ∧
     ((s.hcart (inlineUnit p)).desc.isSome = true → ∀ va bs, s.inline p d va bs = s)) ∧
  (∀ (s : State) (r : RingId) (q : BitVec 32) (p : PartId) (d : Desc), s.alive = true → s.descOf r q = some (p, d) →
     d.opc = 0x0A → s.stalls = [] →
     let asked := fun (x : HostRead) => (x.id, x.addr, x.len, x.purpose, x.fn)
     let beyond := 2 ^ 52 < (d.mapVa / rangeSize d.mapLevel + d.mapCount) * rangeSize d.mapLevel
     (d.stage = .started → d.acted = false → beyond → Completes (.map r q) s (fun t => t.Ended r q d 0x0011 ∧ t.mem = s.mem)) ∧
     (d.stage = .started → d.acted = false → ¬ beyond → d.f 32 8 ≠ 0 → d.words = [] → 0 < d.mapCount →
       Completes (.map r q) s (fun t =>
         t.hostReads.map asked =
           s.hostReads.map asked ++ [(s.nextId, d.f 32 8, 8 * min 512 d.mapCount, .mapEntries r q, partFn p)] ∧
         t.mem = s.mem ∧ ∃ o e, t.descOf r q = some (o, e) ∧ e.stage = .running)) ∧
     (d.stage = .started → d.acted = false → ¬ beyond → d.f 32 8 = 0 → (s.writeMap p d).stalls = [] →
       exec (.map r q) s = .next (s.writeMap p d)) ∧
     (d.stage = .started → d.acted = false → ¬ beyond → d.f 32 8 = 0 → (s.writeMap p d).stalls ≠ [] →
       Completes (.map r q) s (fun t => t.parts = s.parts ∧ t.mem = s.mem ∧ t.cores = s.cores)) ∧
     (d.stage = .running → d.acted = true → (∀ x ∈ d.pages, s.pageBusy x.1 x.2 = false) → Completes (.map r q) s (fun t =>
       t.Ended r q d d.status.toNat ∧ t.mem = s.mem)))

/-- LAUNCH and GRIND (R21, R284, R287, R297): a core beyond the core list, or a context without a save area, ends either
with 0x0011. A LAUNCH whose image is loaded and whose cores are free starts each of them at the image's entry with the
arguments in s0 to s3, the rank, the count and the core's number in s13 to s15, zero in every other register and an
empty tile; one whose image is not loaded waits for the loader, and one whose header cannot be read yet for its channel.
A GRIND that passes its check enters the queue of its granary. -/
def Obligations.coreDescriptors : Prop :=
  ∀ (s : State) (r : RingId) (q : BitVec 32) (p : PartId) (d : Desc), s.alive = true → s.descOf r q = some (p, d) →
    d.stage = .started → s.stalls = [] →
    let ctx := s.ringCtx r
    (d.opc = 0x04 → s.nCores p < d.first + d.count ∨ s.saveArea ctx = 0 →
      Completes (.launch r q) s (fun t => t.Ended r q d 0x0011 ∧ t.cores = s.cores ∧ t.mem = s.mem)) ∧
    (d.opc = 0x04 → s.coreRefusal p ctx (d.first + d.count) = none → ∀ u key, s.imageKey p d = (u, 0, key) →
      (u.stalls ≠ [] → Completes (.launch r q) s (fun t => t.parts = s.parts ∧ t.cores = s.cores ∧ t.mem = s.mem)) ∧
      (u.stalls = [] → (u.part p).images.find? (fun i => decide (i.key = key)) = none →
        exec (.launch r q) s = .next (u.awaitImage p d key)) ∧
      (∀ img, u.stalls = [] → (u.part p).images.find? (fun i => decide (i.key = key)) = some img → s.coresOpen p ctx = true →
        (∀ c ∈ s.launchCores p d, (s.core c).finished = true) → (u.launchCores p d).Nodup →
        Completes (.launch r q) s (fun t =>
          (∀ i, i < d.count →
            let c := u.coreOfRank p (d.first + i)
            let k := t.core c
            k.pc = img.entry ∧ k.run = .running ∧ k.lc = [] ∧ k.cmp = 0 ∧ k.tile = {} ∧ k.bench = (u.core c).bench ∧
            (∀ j : SReg, k.sreg j =
              if j.val < 4 then BitVec.ofNat 64 (d.f (32 + 8 * j.val) 8)
              else if j.val = 13 then BitVec.ofNat 64 i else if j.val = 14 then BitVec.ofNat 64 d.count
              else if j.val = 15 then BitVec.ofNat 64 c.val else 0)) ∧
          (∀ c, c ∉ u.launchCores p d → t.core c = u.core c) ∧
          (t.launches.map (fun l => (l.ring, l.seq, l.cores))) =
            u.launches.map (fun l => (l.ring, l.seq, l.cores)) ++ [(d.ring, d.seq, u.launchCores p d)]))) ∧
    (d.opc = 0x0E → s.nCores p < d.f 16 1 + 1 ∨ s.saveArea ctx = 0 →
      Completes (.grind r q) s (fun t => t.Ended r q d 0x0011 ∧ t.cores = s.cores ∧ t.mem = s.mem)) ∧
    (d.opc = 0x0E → s.coreRefusal p ctx (d.f 16 1 + 1) = none → s.coresOpen p ctx = true →
      let c := s.coreOfRank p (d.f 16 1)
      (s.core c).launch = none → ((s.core c).engOf .grind).phase = .idle → (s.checkGrind c (some p) d.grindCmd).1 = none →
      let g := (grindOps d.grindCmd).quad
      Completes (.grind r q) s (fun t =>
        t.queueOfGranary g =
          placeJob { mkJob c (s.core c) d.grindCmd (some (d.ring, d.seq)) with enteredAt := s.fabric_ } (s.queueOfGranary g) ∧
        (∀ h, h ≠ g → t.queueOfGranary h = s.queueOfGranary h) ∧ ((t.core c).engOf .grind).phase = .running ∧
        (t.core c).bench = (s.core c).bench ∧ (∀ o, o ≠ c → t.core o = s.core o) ∧ t.mem = s.mem ∧
        ∃ o e, t.descOf r q = some (o, e) ∧ e.stage = .running))

/-- Registers that a rule guards, written whole by PF0 (R257, R295, R303, R375, R377, R379): a word of the partition
table is stored or, where a rule refuses it, left; a quantum below 100 is stored as 100; a virtual function writes none
of them; HC_CTL takes a reservation up to 4 while no class-0 ring is enabled; PWR_CAP takes a cap from 1200 up, and no
more than 2500; BAR2_MAP takes a base that its window may have, and a resize to another size returns the base to 0.
Reads and writes of BAR0 by PF0 (R6, R213, R277, R372, R373): a read of ELOG_PTR returns its fields and clears its
read-to-clear field and no other; a read at an offset that is no multiple of its size returns zeros and is logged; a
write of DB_SUMMARY stores its field; a write where no register is, is logged; a register that is a command's own is
written by that command. -/
def Obligations.guardedRegisters : Prop :=
  (∀ (s : State) (v : Word), s.alive = true → s.power.configReady = true → s.ready = true →
     (∀ (p : PartId) (off : BitVec 11),
       let o := oPT p.val off.toNat
       let new := mergeWrite (fieldsAt o) (s.reg o) .full v noField
       fieldsAt o ≠ [] → off.toNat ≠ 0x7F8 →
       (off.toNat ≠ 0 → Completes (.partitionTableWrite 0 p off .full v) s (fun t =>
         t.reg o = (if s.ptRefused p off.toNat (s.reg o) new then s.reg o else new) ∧ t.mem = s.mem ∧
         t.tables = s.tables)) ∧
       (off.toNat = 0 → s.ptRefused p 0 (s.reg o) new = false → Completes (.partitionTableWrite 0 p off .full v) s (fun t =>
         t.fld o 23 8 = max 100 (getBits new 23 8) ∧ t.fld o 39 32 = getBits new 39 32 ∧ t.mem = s.mem)) ∧
       (∀ fn : FnId, fn ≠ 0 → Completes (.partitionTableWrite fn p off .full v) s (fun t =>
         t.reg o = s.reg o ∧ t.mem = s.mem))) ∧
     (let c := getBits v 2 0
      let used := s.ringsWhere (fun r => s.fld (oRT_CTL r.val) 3 2 == 0)
      Completes (.hcCtlWrite 0 .full v) s (fun t =>
        t.fld oHC_CTL 2 0 = (if 4 < c ∨ 0 < used then s.fld oHC_CTL 2 0 else c) ∧ t.mem = s.mem)) ∧
     (let x := getBits v 11 0
      (1200 ≤ x → Completes (.pwrCapWrite 0 .full v) s (fun t => t.fld oPWR_CAP 11 0 = min 2500 x ∧ t.mem = s.mem)) ∧
      (x < 1200 → s.fld oPWR_CAP 11 0 ≤ 2500 → Completes (.pwrCapWrite 0 .full v) s (fun t =>
        t.fld oPWR_CAP 11 0 = s.fld oPWR_CAP 11 0 ∧ t.mem = s.mem))) ∧
     (let b := getBits v 40 36
      Completes (.bar2MapWrite 0 .full v) s (fun t =>
        t.fld oBAR2_MAP 40 36 = (if badBase s.bar2Gib b then s.fld oBAR2_MAP 40 36 else b) ∧ t.mem = s.mem)) ∧
     ∀ k : Fin 4, Completes (.bar2Resize k) s (fun t =>
       t.bar2Gib = 64 * 2 ^ k.val ∧ t.mem = s.mem ∧
       t.fld oBAR2_MAP 40 36 = (if 64 * 2 ^ k.val = s.bar2Gib then s.fld oBAR2_MAP 40 36 else 0))) ∧
  (∀ (s : State) (v : Word), s.alive = true → s.power.configReady = true → s.ready = true →
     (∀ n : ChanId, Completes (.rcFieldRead 0 (BitVec.ofNat 23 (oELOG_PTR n)) 8) s (fun t =>
       t.fld (oELOG_PTR n) 31 16 = 0 ∧ t.fld (oELOG_PTR n) 14 0 = s.fld (oELOG_PTR n) 14 0 ∧
       (∀ o, o ≠ oELOG_PTR n → t.reg o = s.reg o) ∧ t.mem = s.mem ∧
       ∃ w : Word, t.outbox = s.outbox ++ [.pcie 0 .success (natLe 8 w.toNat)] ∧
         getBits w 31 16 = s.fld (oELOG_PTR n) 31 16 ∧ getBits w 14 8 = s.fld (oELOG_PTR n) 14 8 ∧
         getBits w 6 0 = s.fld (oELOG_PTR n) 6 0)) ∧
     (∀ off : BitVec 23, off.toNat % 4 ≠ 0 → ∀ n ∈ [4, 8],
       exec (.rcFieldRead 0 off n) s = .next ((s.logAccess off.toNat 0 2 0).answerRead 0 (List.replicate n 0)) ∧
       exec (.registerWrite 0 off n v) s = .next (s.logAccess off.toNat 0 2 v)) ∧
     Completes (.registerWrite 0 (BitVec.ofNat 23 oDB_SUMMARY) 8 v) s (fun t =>
       t.fld oDB_SUMMARY 63 10 = getBits v 63 10 ∧ t.mem = s.mem ∧ ∀ o, o ≠ oDB_SUMMARY → o ≠ oMEL_PTR → t.reg o = s.reg o) ∧
     exec (.registerWrite 0 0x80#23 8 v) s = .next (s.logAccess 0x80 0 3 v) ∧
     exec (.registerWrite 0 (BitVec.ofNat 23 oPWR_CAP) 8 v) s = exec (.pwrCapWrite 0 .full v) s)

/-- R311: a write of EN = 1 by PF0 is ignored and logged, with whatever nonzero reserved bits it carries, where the LEN
fields of the outbound or of the inbound ranges sum to more than 57,344: EN, PARTNER_FAB where EN is 1, STATE and memory
stay. -/
def Obligations.rangesAreBounded : Prop :=
  ∀ (s : State) (acc : Acc) (v : Word), s.alive = true → s.power.configReady = true → s.ready = true → acc ≠ .hi →
    v.getLsbD 0 = true →
    let sum := fun (o : Nat → Nat) => ((List.range 16).map (fun n => s.fld (o n) 60 41)).foldl (· + ·) 0
    57344 < sum oTW_MOUT ∨ 57344 < sum oTW_MIN →
    let noted := if accWord acc v &&& reservedBits (fieldsAt oTW_CTL) ≠ 0 then s.logAccess oTW_CTL 0 0 v else s
    Completes (.twCtlWrite 0 acc v) s (fun t =>
      t.twOn = s.twOn ∧ t.twState = s.twState ∧ t.twin = s.twin ∧ t.mem = s.mem ∧
      t.moduleLog = (noted.logAccess oTW_CTL 0 1 v).moduleLog)

/-- Pairing (R309 to R311, R329): EN by PF0 turns twin protection on where the ranges fit, and off only where the module
is not in SYNCING or PAIRED; a hello of another sender than the partner is logged once and forms no pair, one of the
partner that names this module begins SYNCING, with the outbound ranges to copy after DEGRADED; the end of the copy
begins the mirroring of each partition that is between joints, and makes the pair PAIRED once every protected partition
mirrors; an image notice queues its image for the loader in the adopting partition, and is logged where that has no
context. Beats, declarations and failure (R318 to R320, R331): a beat counts up and reads both beat lines; a received
beat marks its link, and in DEGRADED begins SYNCING; a read of the partner's line notes whether its counter moved;
without beats a partner whose counter stood still three reads in a row is declared failed, else the pair is DEGRADED and
mirrors no longer; the partner's fatal notice declares it failed while the two are a pair (log entry 104); an own beat
line that cannot be written, a fence with both links lost, and a fatal cause put the module into FAILED, where only a
paired module fails for want of a spare. -/
def Obligations.twinsPair : Prop :=
  (∀ s : State, s.alive = true →
     (∀ v : Word, s.power.configReady = true → s.ready = true →
       (s.twOn = false → v.getLsbD 0 = true → s.outLen ≤ 57344 → s.inLen ≤ 57344 → Completes (.twCtlWrite 0 .full v) s (fun t =>
         t.twOn = true ∧ t.fld oTW_CTL 15 4 = getBits v 15 4 ∧ t.twState = s.twState ∧ t.mem = s.mem)) ∧
       (s.twOn = true → v.getLsbD 0 = false → s.paired = true → Completes (.twCtlWrite 0 .full v) s (fun t =>
         t.twOn = true ∧ t.twState = s.twState ∧ t.mem = s.mem)) ∧
       (s.twOn = true → v.getLsbD 0 = false → s.paired = false → Completes (.twCtlWrite 0 .full v) s (fun t =>
         t.twOn = false ∧ t.twState = 0 ∧ t.mem = s.mem))) ∧
     (∀ (l : Fin 2) (from_ to_ : BitVec 12), s.twOn = true → s.fabricOn = true →
       (from_.toNat ≠ s.fld oTW_CTL 15 4 → Completes (.hello l from_ to_) s (fun t =>
         t.twin.wrongLogged = true ∧ t.twState = s.twState ∧ t.mem = s.mem ∧
         (s.twin.wrongLogged = true → t = s))) ∧
       (from_.toNat = s.fld oTW_CTL 15 4 → to_.toNat = s.fab → s.paired = false → Completes (.hello l from_ to_) s (fun t =>
         t.twState = 1 ∧ t.twin.heard = true ∧ (s.twState = 4 → t.twin.resync = s.outCopies) ∧
         (s.twState = 3 → t.twin.resync = s.outCopies ++ inCopies) ∧ t.mem = s.mem)) ∧
       (from_.toNat = s.fld oTW_CTL 15 4 → to_.toNat ≠ s.fab ∨ s.paired = true → exec (.hello l from_ to_) s = .next s)) ∧
     (s.twState = 1 → (∀ p, s.atBoundary p = true) → s.bit oTW_STAT 3 = false →
       (s.twin.resync = [] → Completes .resyncDone s (fun t =>
         t.twState = 2 ∧ (∀ p, (t.part p).mirroring = true) ∧ t.mem = s.mem)) ∧
       (s.twin.resync ≠ [] → exec .resyncDone s = .next s)) ∧
     (s.twState = 1 → s.twin.resync = [] →
       (∃ p, s.protected_ p = true ∧ s.atBoundary p = false ∧ (s.part p).mirroring = false) → Completes .resyncDone s (fun t =>
         t.twState = 1 ∧ (∀ p, s.atBoundary p = true → (t.part p).mirroring = true) ∧ t.mem = s.mem)) ∧
     (∀ (p : PartId) (va : BitVec 52) (crc : BitVec 32) (c : BitVec 8) (rest : List (BitVec 8)),
       s.twOn = true → s.bit (oTW_ADOPT p.val) 0 = true →
       let q : PartId := ⟨s.fld (oTW_ADOPT p.val) 5 1 % 32, Nat.mod_lt _ (by decide)⟩
       s.cfg (oPT_CTL q) 1 1 = 1 → s.contexts q = c :: rest → Completes (.twinImageNotice p va crc) s (fun t =>
         t = { s with
           nextId := s.nextId + 1
           loadQueue := queueLoad
             { part := q, ctx := c, key := { va := va, crc := crc }, ring := none, order := s.nextId } s.loadQueue })) ∧
     (∀ (p : PartId) (va : BitVec 52) (crc : BitVec 32), s.twOn = true → s.bit (oTW_ADOPT p.val) 0 = true →
       let q : PartId := ⟨s.fld (oTW_ADOPT p.val) 5 1 % 32, Nat.mod_lt _ (by decide)⟩
       s.contexts q = [] →
         exec (.twinImageNotice p va crc) s = .next (s.logAny (some q) { type := 0x02, d2 := va.toNat }))) ∧
  (∀ s : State, s.alive = true →
     let off := fun (t : State) => ∀ p, (t.part p).mirroring = false
     (s.twOn = true → Completes .helloSend s (fun t =>
       t.regs = s.regs ∧ t.mem = s.mem ∧ t.twin = s.twin ∧ t.cores = s.cores)) ∧
     (s.twOn = true → Completes .beatSend s (fun t =>
       t.twin.ownBeat = s.twin.ownBeat + 1 ∧ (∃ x ∈ t.hostReads, x.purpose = .ownBeat) ∧
       (∃ x ∈ t.hostReads, x.purpose = .beatLine) ∧ t.regs = s.regs ∧ t.mem = s.mem)) ∧
     (∀ l : Fin 2, s.twOn = true →
       (s.twState ≠ 4 → Completes (.beat l) s (fun t =>
         t.bit oTW_STAT (4 + l.val) = true ∧ t.twState = s.twState ∧ t = { s with regs := t.regs })) ∧
       (s.twState = 4 → Completes (.beat l) s (fun t => t.twState = 1 ∧ t.bit oTW_STAT (4 + l.val) = true))) ∧
     (∀ (n : Word) (x : HostRead), s.hostReads.find? (fun r => decide (r.purpose = .beatLine) && r.issued) = some x →
       Completes (.partnerBeatRead n) s (fun t =>
         t.twin.partnerBeat = n ∧ t.twin.still = (if n = s.twin.partnerBeat then s.twin.still + 1 else 0) ∧
         t.hostReads.map HostRead.id = (s.hostReads.erase x).map HostRead.id ∧ t.mem = s.mem)) ∧
     (s.paired = true → 3 ≤ s.twin.still → Completes .beatTimeout s (fun t => t.twState = 3 ∧ off t ∧ t.mem = s.mem)) ∧
     (s.paired = true → s.twin.still < 3 → Completes .beatTimeout s (fun t => t.twState = 4 ∧ off t ∧ t.mem = s.mem)) ∧
     (s.paired = true → Completes .fatalNotice s (fun t => t.twState = 3 ∧ off t ∧ t.mem = s.mem)) ∧
     (s.paired = false → exec .fatalNotice s = .next s) ∧
     (let dead := fun (t : State) => t.failed = true ∧ t.twState = 5 ∧ t.mem = s.mem ∧ t.cores = s.cores
      (s.twOn = true → s.hostReads.any (fun r => decide (r.purpose = .ownBeat)) = true → Completes .selfFence s dead) ∧
      (∀ a : BitVec 12, s.twOn = true → a.toNat = s.fab → s.linksLost = true → Completes (.fenceOff a) s dead) ∧
      (∀ c, c ≠ .noSpare ∨ s.twState = 2 → Completes (.moduleFatal c) s (fun t => dead t ∧ .fatalNotice ∈ t.outbox))) ∧
     (s.twState ≠ 2 → exec (.moduleFatal .noSpare) s = .next s))

/-- The takeover (R321 to R323): the survivor adopts the partner's fabric address once and counts the epoch; partner
joints without an acknowledged prepare are discarded and store nothing; a standby ring of an adopting partition is
adopted at the recovery point of the stored record, or where it stands without one. Mirroring (R246, R312, R315, R316,
R348): a prepare keeps its joint's record and withheld records, and the module with the lower address swaps at once, or
as soon as the channels of the writes serve; its acknowledgement lets the commit go on; a recovery record replaces that
of its partition; an acknowledgement is of the oldest record sent, and gives the partition's rings its recovery points;
a streamed write into an inbound range joins its joint and changes no memory, one outside is refused; a tally log entry
is kept. -/
def Obligations.twinsTakeOver : Prop :=
  (∀ s : State, s.alive = true → s.twState = 3 → s.stalls = [] →
     (s.bit oTW_STAT 3 = false → Completes .adoptFabricAddress s (fun t =>
       t.bit oTW_STAT 3 = true ∧ t.twState = 3 ∧ t.fabric.epoch = s.fabric.epoch + 1 ∧ t.mem = s.mem ∧ t.cores = s.cores)) ∧
     (s.bit oTW_STAT 3 = true → exec .adoptFabricAddress s = .next s) ∧
     ((∀ e ∈ s.twin.joints, e.2.prepared = none) → Completes .partnerJointResolve s (fun t =>
       (∀ e ∈ s.twin.joints, t.twinJoint e.1 = {}) ∧ t.mem = s.mem ∧ t.outbox = s.outbox)) ∧
     (∀ (r : RingId) (p : PartId), s.partOfRing r = some p → s.bit oTW_STAT 3 = true → s.adopts p = true →
       s.isStandby p r = true → (s.ring r).adopted = false →
       let placed := fun (q : BitVec 32) => Completes (.ringAdoption r) s (fun t =>
         (t.ring r).adopted = true ∧ (t.ring r).tail = q ∧ t.fetched r = q ∧ t.retired r = q)
       (s.twin.records.find? (fun x => (pointOf x.record r).isSome) = none → placed (s.fetched r)) ∧
       (∀ x q, s.twin.records.find? (fun x => (pointOf x.record r).isSome) = some x →
         x.restored = true ∨ (s.adoptRing p r).stalls = [] → pointOf x.record r = some q → placed q))) ∧
  (∀ s : State, s.alive = true → s.paired = true → s.stalls = [] →
     (∀ (j : Nat) (r : RecoveryRecord) (ws : List CplRecord), (∀ e ∈ s.twin.joints, e.2.prepared = none) →
       let kept := fun (t : State) => t.twin.records =
         s.twin.records.filter (fun x => decide (x.record.partition ≠ r.partition)) ++
           [{ record := r, logAt := s.twin.tallyLog.length }]
       (s.fld oTW_CTL 15 4 ≤ s.fab → Completes (.prepare j r ws) s (fun t =>
         kept t ∧ t.mem = s.mem ∧
         t.twinJoint j = { s.twinJoint j with prepared := some r, withheld := ws, swapped := false })) ∧
       (s.fab < s.fld oTW_CTL 15 4 → Completes (.prepare j r ws) s (fun t =>
         (kept t ∧ t.twinJoint j = { prepared := some r, withheld := ws, swapped := true, writes := [] }) ∨
           ((s.twinJoint j).writes ≠ [] ∧ t.twin = s.twin ∧ t.mem = s.mem))) ∧
       Completes (.recoveryRecord r) s (fun t => kept t ∧ t.twin.joints = s.twin.joints ∧ t.mem = s.mem)) ∧
     (∀ (p : PartId) (j : Fin 64), (s.joint p (j.val + 1)).asked = true → Completes (.prepareAck p j) s (fun t =>
       t.joint p (j.val + 1) = { s.joint p (j.val + 1) with prepared := true } ∧
       (∀ i, i ≠ j.val + 1 → t.joint p i = s.joint p i) ∧ t = { s with parts := t.parts })) ∧
     (∀ (p : PartId) (r : RecoveryRecord) (rest : List (Option RecoveryRecord)), (s.part p).unacked = some r :: rest →
       Completes (.recordAck p) s (fun t =>
         (t.part p).points = r.points ∧ (t.part p).unacked = rest ∧ t.mem = s.mem ∧
         (t.part p).recoveryAcked = ((s.part p).recoveryAcked || decide ((s.part p).recovery = some r)))) ∧
     (∀ p : PartId, (s.part p).unacked = [] → exec (.recordAck p) s = .next s) ∧
     (∀ (j : Nat) (a : BitVec 41) (bs : List Byte), bs ≠ [] → s.takeStream a.toNat = none →
       (s.inbound a.toNat bs.length = true → (s.twinJoint j).prepared = none → Completes (.streamedWrite j a bs) s (fun t =>
         t.twinJoint j = { s.twinJoint j with writes := (s.twinJoint j).writes ++ [(a.toNat, bs)] } ∧
         (∀ i, i ≠ j → t.twinJoint i = s.twinJoint i) ∧ t.mem = s.mem)) ∧
       (s.inbound a.toNat bs.length = false → Completes (.streamedWrite j a bs) s (fun t =>
         t.twin = s.twin ∧ t.mem = s.mem))) ∧
     (∀ src txn n amount, Completes (.tallyLog src txn n amount) s (fun t =>
       t.twin.tallyLog = s.twin.tallyLog ++ [(src, txn, n, amount)] ∧ t.tallies = s.tallies ∧ t.mem = s.mem)))

/-- Repairs of cores (R326): corrected faults are counted, and the sixteenth asks for the sparing of a partition's core
while a spare is left; the sparing takes a spare and keeps the core's registers and bench; a hard fault takes a spare
and aborts an unprotected partition, or begins the rollback of a protected one; without a spare a paired module fails.
-/
def Obligations.coresAreSpared : Prop :=
  ∀ (s : State) (c : CoreId) (p : PartId), s.alive = true → s.partOfCore c = some p →
    let k := s.core c
    let same := fun (t : State) => (t.core c).s = k.s ∧ (t.core c).bench = k.bench ∧ (t.core c).pc = k.pc ∧ t.mem = s.mem
    (k.corrected < 15 → Completes (.coreFaultCorrected c) s (fun t =>
      OnlyCore c s t ∧ t.core c = { k with corrected := k.corrected + 1 })) ∧
    (15 ≤ k.corrected → 0 < s.spares c → (s.part p).spareWanted = none → Completes (.coreFaultCorrected c) s (fun t =>
      (t.part p).spareWanted = some c ∧ t.spares c = s.spares c ∧ same t)) ∧
    ((s.part p).spareWanted = some c → s.spareReady p = true → Completes (.coreSpare c) s (fun t =>
      (t.part p).spareWanted = none ∧ t.spares c = s.spares c - 1 ∧ (t.core c).corrected = 0 ∧
      (t.core c).stop ≠ some .preempt ∧ (t.part p).events = (s.part p).events + 1 ∧ same t)) ∧
    (s.spares c = 0 → s.twState = 2 → Completes (.coreHardFault c) s (fun t => t.failed = true)) ∧
    (0 < s.spares c → (s.part p).abort = none → (s.part p).joints = [] → s.hostCarts = [] →
      (s.protected_ p = false → Completes (.coreHardFault c) s (fun t =>
        (t.part p).abort = some .coreLost ∧ t.spares c = s.spares c - 1 ∧ t.mem = s.mem)) ∧
      (s.protected_ p = true → Completes (.coreHardFault c) s (fun t =>
        (t.part p).abort = some (.rollback c) ∧ t.spares c = s.spares c ∧ same t)))

/-- Frames (R333, R334): a frame whose CRC fails is counted and answered with a NAK, one out of order is answered with a
NAK, and neither advances the expected SEQ or delivers a packet; the next frame in order advances it, delivers a
one-unit packet that its payload holds, and nothing when idle; unacknowledged frames are sent again at a time-out, and
the eighth time the link trains anew. Lanes, training and hold (R335, R336, R344, R352): a lane leaves and joins again,
each counted; a link that loses its last lane, or all of them at once, is DOWN and forgets its frames; a link whose
training ends with EN of FB_CTL at 1 is UP, else it holds; EN brings every holding link UP, and is refused without a
fabric address. Aliases (R351): an ADOPT that the module has not seen gives its sender's partner an alias, if an entry
is free; one that it has seen changes nothing more; a RELEASE clears the entry. -/
def Obligations.beloraLinks : Prop :=
  (∀ (s : State) (l : LinkId) (f : List Byte), s.alive = true → s.linkLive l = true → f.length = 256 →
     let k := s.link l
     let good := crc32c (f.take 248) = fieldLe f 248 4
     let next := BitVec.ofNat 12 (fieldLe f 0 2) = k.rxSeq
     let nak := fun (t : State) => ∃ x, .frame l x ∈ t.outbox ∧ bitOf (fieldLe x 2 2) 12 = true
     (¬ good → k.unacked.length < 512 → Completes (.frameReceive l f) s (fun t =>
       nak t ∧ (t.link l).rxSeq = k.rxSeq ∧ (t.link l).packets = k.packets ∧
       t.fld (oBL_REPLAY l) 63 32 = (s.fld (oBL_REPLAY l) 63 32 + 1) % 2 ^ 32)) ∧
     (good → ¬ next → k.unacked.length < 512 → Completes (.frameReceive l f) s (fun t =>
       nak t ∧ (t.link l).rxSeq = k.rxSeq ∧ (t.link l).packets = k.packets)) ∧
     (good → next → k.partial_ = [] → sliceBytes f 24 224 = List.replicate 224 0 →
       (sliceBytes f 8 16 = List.replicate 16 0 → Completes (.frameReceive l f) s (fun t =>
         (t.link l).rxSeq = k.rxSeq + 1 ∧ (t.link l).packets = k.packets)) ∧
       (pType (sliceBytes f 8 16) = 0x01 → Completes (.frameReceive l f) s (fun t =>
         (t.link l).rxSeq = k.rxSeq + 1 ∧ (t.link l).packets = k.packets ++ [sliceBytes f 8 16]))) ∧
     (k.unacked ≠ [] → k.resends < 7 → Completes (.replayTimeout l) s (fun t =>
       t.outbox = s.outbox ++ k.unacked.map (fun e => .frame l e.2) ∧ t.link l = { k with resends := k.resends + 1 } ∧
       t.fld (oBL_REPLAY l) 31 0 = (s.fld (oBL_REPLAY l) 31 0 + 1) % 2 ^ 32)) ∧
     (k.unacked ≠ [] → 7 ≤ k.resends → Completes (.replayTimeout l) s (fun t =>
       t.fld (oBL_STAT l) 1 0 = 1 ∧ t.outbox = s.outbox)) ∧
     (k.unacked = [] → exec (.replayTimeout l) s = .next s)) ∧
  (∀ (s : State) (l : LinkId), s.alive = true →
     let down := fun (t : State) => t.fld (oBL_STAT l) 17 0 = 0 ∧ t.link l = { packets := (s.link l).packets } ∧ t.mem = s.mem
     (∀ lane : Fin 8, s.linkLive l = true →
       (bitOf (s.rxLanes l) lane.val = true → s.rxLanes l ≠ 2 ^ lane.val → Completes (.laneRemove l lane) s (fun t =>
         t.rxLanes l = s.rxLanes l - 2 ^ lane.val ∧ t.linkLive l = true ∧
         t.fld (oBL_LANE l) 31 0 = (s.fld (oBL_LANE l) 31 0 + 1) % 2 ^ 32)) ∧
       (s.rxLanes l = 2 ^ lane.val → Completes (.laneRemove l lane) s down) ∧
       (bitOf (s.rxLanes l) lane.val = false → Completes (.laneRejoin l lane) s (fun t =>
         t.rxLanes l = s.rxLanes l + 2 ^ lane.val ∧ t.linkLive l = true ∧
         t.fld (oBL_LANE l) 63 32 = (s.fld (oBL_LANE l) 63 32 + 1) % 2 ^ 32))) ∧
     (s.fld (oBL_STAT l) 1 0 ≠ 0 → Completes (.linkLanesLost l) s down) ∧
     (s.power.locked = true → s.bit (oBL_CTL l) 0 = true → s.fld (oBL_STAT l) 1 0 < 2 →
       Completes (.linkTrainingDone l) s (fun t =>
         t.fld (oBL_STAT l) 1 0 = (if s.fabricOn = true then 3 else 2) ∧ t.rxLanes l = 0xFF ∧
         t.fld (oBL_STAT l) 9 2 = 0xFF ∧ t.mem = s.mem)) ∧
     (∀ v : Word, s.power.configReady = true → s.ready = true → s.bit oFB_CTL 0 = false → v.getLsbD 0 = true →
       (s.fabRefused = true → Completes (.fbCtlWrite 0 .full v) s (fun t =>
         t.fabricOn = false ∧ (∀ m : LinkId, t.fld (oBL_STAT m) 1 0 = s.fld (oBL_STAT m) 1 0) ∧ t.mem = s.mem)) ∧
       (s.fabRefused = false → Completes (.fbCtlWrite 0 .full v) s (fun t =>
         t.bit oFB_CTL 0 = true ∧ t.mem = s.mem ∧ ∀ m : LinkId, t.fld (oBL_STAT m) 1 0 =
           (if s.fld (oBL_STAT m) 1 0 = 2 then 3 else s.fld (oBL_STAT m) 1 0))))) ∧
  (∀ (s : State) (l : LinkId) (p : List Byte), s.alive = true → s.fabricOn = true → (∃ rest, (s.link l).packets = p :: rest) →
     (pType p = 0xC8 → s.adoptSeen p = true → exec (.adopt l) s = .next (s.taken l p)) ∧
     (pType p = 0xC8 → s.adoptSeen p = false →
       ((s.aliasEntry (aliasFrom p)).isSome = true ∨ ∃ i < 64, s.bit (oFB_ALIAS i) 40 = false) →
       Completes (.adopt l) s (fun t => t.aliasOf (aliasFrom p) = some (aliasTo p) ∧ t.mem = s.mem ∧ t.cores = s.cores)) ∧
     (∀ i, pType p = 0xC9 → s.aliasEntry (aliasFrom p) = some i → Completes (.release l) s (fun t =>
       t.reg (oFB_ALIAS i) = 0 ∧ t.mem = s.mem ∧ t.cores = s.cores)) ∧
     (pType p = 0xC9 → s.aliasEntry (aliasFrom p) = none → exec (.release l) s = .next (s.taken l p)))

/-- Requests of peers (R336, R338, R342, R346 to R349): a read issues a memory read of each of its lines, a write the
writes of its lines with their data, a masked write one with its mask; a write into an outbound range is refused; a
tally read and an advance answer with the value; a tally that does not admit the peer is refused; while the module
holds, every packet is refused and its flow marked; one of undefined TYPE is dropped and logged; one for another module
goes on. The ends of this module's requests (R346, R347, R349): the response to a cart's read or write reaches its cart;
a tally response satisfies the kingpost's instruction, an interim one is noted; an error response, the end of the
backoffs, the peer time-out and an unreachable peer skip it; a refused request goes again with RETRY, a registered wait
is probed. -/
def Obligations.beloraPeers : Prop :=
  (∀ (s : State) (l : LinkId) (p : List Byte),
     let line := fun i => s.peerAddr p / 64 * 64 + 64 * i
     let serves := fun (i : Instr) (kind : MemKind) (n : Nat) (data : Nat → List Byte) (mask : Option (BitVec 64)) =>
       Completes i s (fun t =>
         (let ids := (List.range n).map (s.nextId + ·)
          t.serving = s.serving ++ [{ who := .peer p, kind := kind, ids := ids, waiting := ids }]) ∧
         (∀ i, i < n → ∃ q ∈ t.inFlight, q.id = s.nextId + i ∧ q.addr = line i ∧ q.kind = kind ∧ q.len = 64 ∧
           q.data = data i ∧ q.mask = mask) ∧ t.mem = s.mem)
     (s.Takes l p →
       (pType p = 0x01 → serves (.rd l) .read (pLines p) (fun _ => []) none) ∧
       (pType p = 0x02 → l.val < 16 → s.mirrorScope p = false →
         serves (.wr l) .write (pLines p) (fun i => sliceBytes p (16 + 64 * i) 64) none) ∧
       (pType p = 0x02 → l.val < 16 → s.mirrorScope p = true →
         exec (.wr l) s = .next ((s.taken l p).respondErr p 0x0108)) ∧
       (pType p = 0x03 → l.val < 16 → s.mirrorScope p = false →
         serves (.wrm l) .write 1 (fun _ => sliceBytes p 32 64) (some (BitVec.ofNat 64 (fieldLe p 16 8)))) ∧
       (pType p = 0x04 → pDst p = s.fab →
         let x := s.tally (topTally p)
         (x.peerEn = false ∨ x.peerFab.toNat ≠ pSrc p → exec (.top l) s = .next ((s.taken l p).respondErr p 0x0109)) ∧
         (x.peerEn = true → x.peerFab.toNat = pSrc p → topOp p = 4 →
           exec (.top l) s = .next ((s.taken l p).respondTor p 0 x.value)) ∧
         (x.peerEn = true → x.peerFab.toNat = pSrc p → topOp p = 1 → (∀ e ∈ s.tallies, e.2.waiters = []) → s.twState ≠ 2 →
           ∃ t : State, exec (.top l) s = .next (t.respondTor p 0 (x.value + topOperand p)) ∧
             (t.tally (topTally p)).value = x.value + topOperand p ∧ t.mem = s.mem ∧ t.pegs = s.pegs ∧
             ∀ m, m ≠ topTally p → t.tally m = s.tally m))) ∧
     (s.alive = true → (∃ rest, (s.link l).packets = p :: rest) →
       (pType p = 0x01 → s.fabricOn = false → Completes (.rd l) s (fun t =>
         flowOf p ∈ t.fabric.marked ∧ t.serving = s.serving ∧ t.inFlight = s.inFlight ∧
         t.fld oFB_STAT 31 0 = (s.fld oFB_STAT 31 0 + 1) % 2 ^ 32)) ∧
       (pType p = 0x01 → s.fabricOn = true → flowOf p ∉ s.fabric.marked → s.answersTo (pDst p) = false → l.val < 16 →
         0 < pHops p →
         exec (.rd l) s = .next ((s.taken l p).route (some l) none (reHead p (pD p) (pHops p - 1) (pRetry p)))) ∧
       (unitsOf p = none → exec (.unknownPacket l) s = .next ((s.taken l p).logBelora l p)))) ∧
  (∀ (s : State) (l : LinkId) (p : List Byte) (q : PeerReq),
     let rest := s.fabric.requests.filter (fun x => decide (x.txn ≠ q.txn))
     (s.Answered l p q →
       (∀ c u r, q.unit = .cart c u → q.mem = some r → s.hcWaiting r.id = none → s.serving = [] → s.claimed r.id = true →
         let gets := fun (i : Instr) (data : List Byte) => Completes i s (fun t =>
           t.responses = s.responses ++ [{ req := r, status := 0, data := data }] ∧ t.fabric.requests = rest ∧ t.mem = s.mem)
         (pType p = 0x81 → gets (.rdr l) (sliceBytes p (16 + r.addr % 64) r.len)) ∧ (pType p = 0x82 → gets (.wra l) [])) ∧
       (∀ c w, q.unit = .kingpost c → q.op ≠ 1 → q.withdrawn = false → (s.core c).wait = some w → w.txn = some q.txn →
         (pType p = 0x84 → pStatus p ≠ 1 → Completes (.tor l) s (fun t =>
           OnlyCore c { s with links := t.links, fabric := t.fabric } t ∧ t.fabric.requests = rest ∧
           t.core c = { s.core c with wait := some { w with satisfied := true, value := BitVec.ofNat 64 (fieldLe p 24 8) } })) ∧
         (pType p = 0x8F → pStatus p ≠ 0 → Completes (.err l) s (fun t =>
           (t.core c).wait = none ∧ (t.core c).pc = (s.core c).pc + 8 ∧ t.fabric.requests = rest ∧ t.mem = s.mem))) ∧
       (pType p = 0x84 → pStatus p = 1 → (∀ c, q.unit = .kingpost c → (s.core c).stepping = false) →
         Completes (.tor l) s (fun t =>
         t.fabric.requests = s.fabric.requests.map (fun x => if x.txn = q.txn then { x with answered := true } else x) ∧
         t.cores = s.cores ∧ t.mem = s.mem)) ∧
       (pType p = 0x8E → Completes (.notrdy l) s (fun t =>
         t.fabric.requests = s.fabric.requests.map (fun x => if x.txn = q.txn then { x with refused := true } else x) ∧
         t.cores = s.cores ∧ t.mem = s.mem))) ∧
     (s.alive = true → s.reqOf q.txn = some q →
       (∀ c w, q.unit = .kingpost c → q.mem = none → q.op ≠ 1 → q.withdrawn = false → (s.core c).wait = some w →
         w.txn = some q.txn →
         let skips := fun (t : State) => (t.core c).wait = none ∧ (t.core c).pc = (s.core c).pc + 8 ∧
           t.fabric.requests = rest ∧ t.mem = s.mem
         (q.refused = true → Completes (.notrdyBackoff q.txn true) s skips) ∧
         (q.refused = false → q.answered = false → Completes (.peerTimeout q.txn) s skips) ∧
         (∀ b, s.fabric.held.find? (fun e => decide (pTxn e.2 = q.txn) && !s.answersTo (pDst e.2)) = some (none, b) →
           pRsp b = false → pTxn b = q.txn → Completes (.unreachable q.txn) s skips)) ∧
       (q.refused = true → ((s.fabric.requests.dropWhile (fun x => decide (x.txn ≠ q.txn))).drop 1).all (fun x => !x.refused) →
         exec (.notrdyBackoff q.txn false) s =
           .next ((s.modReq q.txn (fun y => { y with refused := false, tries := y.tries + 1 })).sendAgain q true)) ∧
       (q.answered = true → q.op = 2 ∨ q.op = 3 → q.withdrawn = false →
         exec (.topProbe q.txn) s = .next (s.sendAgain q false)) ∧
       (q.answered = true ∨ q.refused = true → exec (.peerTimeout q.txn) s = .next s)))

/-- Power (R356, R357, R389, R390, R355): MOD_EN starts the rails when the input is charged and no power-down is under
way; the rails reach regulation one after the other, and the last raises PWRGD; MOD_EN falling, a failing rail or the
input out of its range lower PWRGD and lose all state, after a fatal notice if the module is PAIRED; the end of the
hold-off and of the charge act on the level of MOD_EN; the loss of the root clock puts the module into FAILED. Bring-up
(R354, R358 to R363): lock is the epoch, from which the cycles count, and each enabled link trains; the configuration
space brings WAIT_IMAGE; GO fetches the image and the delay file, needs Bus Master Enable, and in another state is
counted; a fetch that fails is HOST_READ, an image that fails a check ERROR with its code; one that passes is entered;
its READY leaves every line zero, every channel enabled and FW_ID set; a bad channel and 500 ms without READY are
errors. -/
def Obligations.powerAndBringUp : Prop :=
  (∀ s : State,
     let rises := fun (p : Power) => if p.mayRise = true then { p with rails := .rising, inRegulation := 0 } else p
     let down := fun (t : State) => t.power.pwrgd = false ∧ t.power.rails = .falling ∧ t.power.holdoff = true ∧
       t.power.locked = false ∧ t.regs = [] ∧ t.mem = [] ∧ t.cores = [] ∧ t.parts = [] ∧ t.i3c.addr = none ∧
       t.failed = false ∧ (s.power.pwrgd = true → .pwrgd false ∈ t.outbox)
     Completes .modEnRise s (fun t => t = { s with power := rises { s.power with modEn := true } }) ∧
     (s.power.rails = .up ∨ s.power.rails = .rising → Completes .modEnFall s (fun t => down t ∧ t.power.modEn = false)) ∧
     (s.power.rails = .down ∨ s.power.rails = .falling → Completes .modEnFall s (fun t =>
       t = { s with power := { s.power with modEn := false } })) ∧
     (∀ r : Fin 7, s.power.rails = .rising → s.power.inRegulation = r.val →
       (r.val < 6 → Completes (.railInRegulation r) s (fun t =>
         t = { s with power := { s.power with inRegulation := r.val + 1 } })) ∧
       (r.val = 6 → Completes (.railInRegulation r) s (fun t =>
         t.power = { s.power with inRegulation := 7, rails := .up, pwrgd := true } ∧ t.outbox = s.outbox ++ [.pwrgd true]))) ∧
     (∀ r : Fin 7, s.power.rails ≠ .rising ∨ s.power.inRegulation ≠ r.val → exec (.railInRegulation r) s = .next s) ∧
     (s.power.pwrgd = true →
       (∀ i ∈ [Instr.inputOutOfRange, .railFault 0, .railFault 1, .railFault 2, .railFault 3, .railFault 4, .railFault 5,
           .railFault 6], Completes i s (fun t =>
         down t ∧ t.power.modEn = s.power.modEn ∧
         (s.twState = 2 → s.failed = false → ∃ xs, t.outbox = s.outbox ++ .fatalNotice :: xs))) ∧
       (s.power.locked = true → Completes .pllLoss s (fun t =>
         t.failed = true ∧ t.power.locked = false ∧ t.twState = 5 ∧ t.outbox = s.outbox ∧ t.mem = s.mem ∧ t.cores = s.cores))) ∧
     (s.power.pwrgd = false → exec .inputOutOfRange s = .next s ∧ ∀ r, exec (.railFault r) s = .next s) ∧
     (s.power.pwrgd = false → s.power.rails ≠ .rising → Completes .inputRise s (fun t =>
       t = { s with power := { s.power with input := .charging } })) ∧
     (s.power.input = .charging → Completes .bulkChargeDone s (fun t =>
       t = { s with power := rises { s.power with input := .charged } })) ∧
     (s.power.holdoff = true → Completes .modEnHoldoffEnd s (fun t =>
       t = { s with power := rises { s.power with rails := .down, holdoff := false } }))) ∧
  (∀ s : State, s.alive = true →
     let error := fun (code detail : Nat) (t : State) => t.bootState = 5 ∧ t.fld oBOOT_STAT 15 8 = code ∧
       t.fld oBOOT_STAT 63 32 = detail ∧ t.mem = s.mem ∧ t.boot = s.boot
     (s.power.locked = false → Completes .rootLock s (fun t =>
       t.power.locked = true ∧ t.cycles = 0 ∧ t.bit oCLK_STAT 0 = true ∧ t.mem = s.mem ∧
       ∀ l : LinkId, s.bit (oBL_CTL l) 0 = true → t.fld (oBL_STAT l) 1 0 = 1)) ∧
     (s.power.locked = true → s.power.configReady = false → Completes .configSpaceReady s (fun t =>
       t.power.configReady = true ∧ t.bootState = 1 ∧ t = { s with power := t.power, regs := t.regs })) ∧
     (s.power.perst = true → Completes .perstDeassert s (fun t =>
       t = { s with power := { s.power with perst := false, ltssm := true } })) ∧
     (s.power.configReady = true →
       (s.bootState = 1 ∨ s.bootState = 5 → s.boot.busMaster = true → Completes (.bootGo 0) s (fun t =>
         t.bootState = 2 ∧ t.fld oBOOT_STAT 15 8 = 0 ∧
         (let asked := fun (x : HostRead) => (x.id, x.addr, x.len, x.purpose, x.fn)
          t.hostReads.map asked = s.hostReads.map asked ++
            [(s.nextId, 64 * s.fld oIMG_ADDR 63 6, s.imgLen, .firmware, 0),
             (s.nextId + 1, 64 * s.fld oDLY_ADDR 63 6, s.dlyLen, .firmware, 0)]) ∧ t.mem = s.mem)) ∧
       (s.bootState = 1 ∨ s.bootState = 5 → s.boot.busMaster = false → Completes (.bootGo 0) s (error 0x08 0)) ∧
       (s.bootState ≠ 1 → s.bootState ≠ 5 → exec (.bootGo 0) s = .next (s.ignored.countWrite 0))) ∧
     (s.bootState = 2 → ∀ (img dly : List Byte) (b : HostAnswer),
       (∀ x ∈ [(HostAnswer.ur, 0x0401), (.poison, 0x0402)],
         Completes (.bootFetchDone x.1 b) s (error 0x07 x.2) ∧ Completes (.bootFetchDone (.good img) x.1) s (error 0x07 x.2)) ∧
       (fieldLe img 0 4 ≠ 0x315A5747 → Completes (.bootFetchDone (.good img) (.good dly)) s (error 0x01 0)) ∧
       (fieldLe img 0 4 = 0x315A5747 → fieldLe img 4 1 ≠ 0xB1 →
         Completes (.bootFetchDone (.good img) (.good dly)) s (error 0x02 (fieldLe img 4 1))) ∧
       (imageFault img s.imgLen = none → s.dlyLen = 8256 → delayFaults dly = [] →
         (delayForeign dly = true → Completes (.bootFetchDone (.good img) (.good dly)) s (error 0x06 0)) ∧
         (delayForeign dly = false → Completes (.bootFetchDone (.good img) (.good dly)) s (fun t =>
           t.bootState = 3 ∧ t.boot = { s.boot with image := img, delays := dly } ∧ t.mem = s.mem)))) ∧
     (s.bootState = 3 →
       Completes (.fwReady none) s (fun t =>
         t.bootState = 4 ∧ t.mem = [] ∧ t.lineErr = [] ∧ (∀ n : ChanId, t.chEnabled n = true ∧ t.pstate n = 1) ∧
         t.fld oFW_ID 31 0 = fieldLe s.boot.image 8 4 ∧ t.fld oFW_ID 63 32 = fieldLe s.boot.image 16 4) ∧
       (∀ n : ChanId, Completes (.fwReady (some n)) s (fun t =>
         t.bootState = 5 ∧ t.fld oBOOT_STAT 15 8 = 0x09 ∧ t.fld oBOOT_STAT 63 32 = n.val)) ∧
       (∀ d : BitVec 32, Completes (.fwStartTimeout d) s (error 0x0A d.toNat))))

/-- Temperature and the management chain (R366 to R369): a sample reaches its registers; above the warning temperature
it sets THERM_STAT and is an event of every partition; a second sample in a row above the limit powers the module down.
The first ENTDAA with MCHAIN_IN high gives an address and raises MCHAIN_OUT; RSTDAA drops it; the read commands are
answered; ENEC and DISEC switch in-band interrupts; a private write of 4 bytes sets the offset, and private reads
advance it. -/
def Obligations.managementAndTemperature : Prop :=
  ∀ s : State,
    (∀ r : ThermalReading, r.wf = true → s.alive = true → s.power.locked = true →
      (thermalWarm r = false → thermalLimit r = false → Completes (.thermalSample r) s (fun t =>
        t.fld (oTEMP_DIE 0) 15 0 = (r.dieTemps.getD 0 0).toNat ∧ t.fld (oTEMP_STACK 7) 15 0 = (r.stackTemps.getD 7 0).toNat ∧
        t.fld oPWR_IN 15 0 = r.power.toNat ∧ t.fld oPWR_IN 31 16 = r.vin.toNat ∧ t.power = { s.power with hot := false } ∧
        t = { s with regs := t.regs, power := t.power })) ∧
      (thermalWarm r = true → thermalLimit r = false → Completes (.thermalSample r) s (fun t =>
        t.bit oTHERM_STAT 0 = true ∧ t.power = { s.power with hot := false } ∧ t.mem = s.mem ∧ t.cores = s.cores ∧
        ∀ p, (t.part p).events = (s.part p).events + 1)) ∧
      (thermalLimit r = true → s.power.hot = false → Completes (.thermalSample r) s (fun t =>
        t.power = { s.power with hot := true } ∧ t.failed = false)) ∧
      (thermalLimit r = true → s.power.hot = true → Completes (.thermalSample r) s (fun t =>
        t.power.pwrgd = false ∧ t.power.rails = .falling ∧ t.mem = [] ∧ .fatalNotice ∈ t.outbox))) ∧
    (s.managed = true →
      (∀ a, s.i3c.addr = none → Completes (.entdaa a true) s (fun t =>
        t.i3c = { s.i3c with addr := some a, mchainIn := true, mchainOut := true } ∧ t = { s with i3c := t.i3c, outbox := t.outbox } ∧
        .i3cAck true ∈ t.outbox)) ∧
      (∀ a b, s.i3c.addr.isSome = true ∨ b = false → Completes (.entdaa a b) s (fun t =>
        t = { s with i3c := { s.i3c with mchainIn := b }, outbox := s.outbox ++ [.i3cAck false] })) ∧
      Completes .rstdaa s (fun t =>
        t.i3c = { s.i3c with addr := none, mchainOut := false } ∧ t = { s with i3c := t.i3c, outbox := t.outbox }) ∧
      Completes (.enec { inBandInterrupt := true }) s (fun t => t = { s with i3c := { s.i3c with ibi := true } }) ∧
      Completes (.disec { inBandInterrupt := true }) s (fun t => t = { s with i3c := { s.i3c with ibi := false } }) ∧
      (s.i3c.addr.isSome = true →
        let tells := fun (i : Instr) (n : Nat) => Completes i s (fun t =>
          ∃ bs, bs.length = n ∧ t = { s with outbox := s.outbox ++ [.i3c bs], freeIdx := t.freeIdx })
        (∀ a, Completes (.setnewda a) s (fun t =>
          t = { s with i3c := { s.i3c with addr := some a }, outbox := s.outbox ++ [.i3cAck true] })) ∧
        Completes .getpid s (fun t => ∃ bs, bs.length = 6 ∧ fieldLe bs 0 4 = Config.uniqueId.toNat % 2 ^ 32 ∧
          t = { s with outbox := s.outbox ++ [.i3c bs] }) ∧
        tells .getbcr 1 ∧ tells .getdcr 1 ∧ tells .getstatus 2 ∧ tells .getmxds 2 ∧
        (∀ bs, bs.length = 4 → leNat bs % 8 = 0 → Completes (.i3cPrivateWrite bs) s (fun t =>
          t = { s with i3c := { s.i3c with off := leNat bs } })) ∧
        (∀ bs, bs.length ≠ 4 ∨ leNat bs % 8 ≠ 0 → Completes (.i3cPrivateWrite bs) s (fun t =>
          t.i3c = s.i3c ∧ t.mem = s.mem)) ∧
        (∀ n, Completes (.i3cPrivateRead n) s (fun t => ∃ bs, bs.length = min n 256 ∧
          t = { s with i3c := { s.i3c with off := s.i3c.off + min n 256 }, outbox := s.outbox ++ [.i3c bs] }))))
end

