-- ==== Sys2Proof/Laws/State.lean ====
section
/-! SUPPORT. One lemma per field of the state and basic update: what the field is after it. -/

namespace Sys2Proof.Machine

variable (s : State)

@[simp] theorem State.setReg_pending (o : Nat) (w : Word) : (s.setReg o w).pending = s.pending := rfl
@[simp] theorem State.setReg_outbox (o : Nat) (w : Word) : (s.setReg o w).outbox = s.outbox := rfl
@[simp] theorem State.setReg_freeIdx (o : Nat) (w : Word) : (s.setReg o w).freeIdx = s.freeIdx := rfl
@[simp] theorem State.setReg_nextId (o : Nat) (w : Word) : (s.setReg o w).nextId = s.nextId := rfl
@[simp] theorem State.setReg_cycles (o : Nat) (w : Word) : (s.setReg o w).cycles = s.cycles := rfl
@[simp] theorem State.setReg_power (o : Nat) (w : Word) : (s.setReg o w).power = s.power := rfl
@[simp] theorem State.setReg_failed (o : Nat) (w : Word) : (s.setReg o w).failed = s.failed := rfl
@[simp] theorem State.setReg_regs (o : Nat) (w : Word) : (s.setReg o w).regs = tabSet regReset o w s.regs := rfl
@[simp] theorem State.setReg_tables (o : Nat) (w : Word) : (s.setReg o w).tables = s.tables := rfl
@[simp] theorem State.setReg_flushed (o : Nat) (w : Word) : (s.setReg o w).flushed = s.flushed := rfl
@[simp] theorem State.setReg_writers (o : Nat) (w : Word) : (s.setReg o w).writers = s.writers := rfl
@[simp] theorem State.setReg_flushCount (o : Nat) (w : Word) : (s.setReg o w).flushCount = s.flushCount := rfl
@[simp] theorem State.setReg_flushWaits (o : Nat) (w : Word) : (s.setReg o w).flushWaits = s.flushWaits := rfl
@[simp] theorem State.setReg_bar2Gib (o : Nat) (w : Word) : (s.setReg o w).bar2Gib = s.bar2Gib := rfl
@[simp] theorem State.setReg_dropLogged (o : Nat) (w : Word) : (s.setReg o w).dropLogged = s.dropLogged := rfl
@[simp] theorem State.setReg_mem (o : Nat) (w : Word) : (s.setReg o w).mem = s.mem := rfl
@[simp] theorem State.setReg_lineErr (o : Nat) (w : Word) : (s.setReg o w).lineErr = s.lineErr := rfl
@[simp] theorem State.setReg_inFlight (o : Nat) (w : Word) : (s.setReg o w).inFlight = s.inFlight := rfl
@[simp] theorem State.setReg_responses (o : Nat) (w : Word) : (s.setReg o w).responses = s.responses := rfl
@[simp] theorem State.setReg_serving (o : Nat) (w : Word) : (s.setReg o w).serving = s.serving := rfl
@[simp] theorem State.setReg_stalls (o : Nat) (w : Word) : (s.setReg o w).stalls = s.stalls := rfl
@[simp] theorem State.setReg_loaderLines (o : Nat) (w : Word) : (s.setReg o w).loaderLines = s.loaderLines := rfl
@[simp] theorem State.setReg_chans (o : Nat) (w : Word) : (s.setReg o w).chans = s.chans := rfl
@[simp] theorem State.setReg_querns (o : Nat) (w : Word) : (s.setReg o w).querns = s.querns := rfl
@[simp] theorem State.setReg_admission (o : Nat) (w : Word) : (s.setReg o w).admission = s.admission := rfl
@[simp] theorem State.setReg_jobs (o : Nat) (w : Word) : (s.setReg o w).jobs = s.jobs := rfl
@[simp] theorem State.setReg_cores (o : Nat) (w : Word) : (s.setReg o w).cores = s.cores := rfl
@[simp] theorem State.setReg_pegs (o : Nat) (w : Word) : (s.setReg o w).pegs = s.pegs := rfl
@[simp] theorem State.setReg_tallies (o : Nat) (w : Word) : (s.setReg o w).tallies = s.tallies := rfl
@[simp] theorem State.setReg_bells (o : Nat) (w : Word) : (s.setReg o w).bells = s.bells := rfl
@[simp] theorem State.setReg_syncTables (o : Nat) (w : Word) : (s.setReg o w).syncTables = s.syncTables := rfl
@[simp] theorem State.setReg_saved (o : Nat) (w : Word) : (s.setReg o w).saved = s.saved := rfl
@[simp] theorem State.setReg_launches (o : Nat) (w : Word) : (s.setReg o w).launches = s.launches := rfl
@[simp] theorem State.setReg_launchOrder (o : Nat) (w : Word) : (s.setReg o w).launchOrder = s.launchOrder := rfl
@[simp] theorem State.setReg_loadQueue (o : Nat) (w : Word) : (s.setReg o w).loadQueue = s.loadQueue := rfl
@[simp] theorem State.setReg_loadJob (o : Nat) (w : Word) : (s.setReg o w).loadJob = s.loadJob := rfl
@[simp] theorem State.setReg_parts (o : Nat) (w : Word) : (s.setReg o w).parts = s.parts := rfl
@[simp] theorem State.setReg_rings (o : Nat) (w : Word) : (s.setReg o w).rings = s.rings := rfl
@[simp] theorem State.setReg_summary (o : Nat) (w : Word) : (s.setReg o w).summary = s.summary := rfl
@[simp] theorem State.setReg_pollNo (o : Nat) (w : Word) : (s.setReg o w).pollNo = s.pollNo := rfl
@[simp] theorem State.setReg_grantPos (o : Nat) (w : Word) : (s.setReg o w).grantPos = s.grantPos := rfl
@[simp] theorem State.setReg_grantRing (o : Nat) (w : Word) : (s.setReg o w).grantRing = s.grantRing := rfl
@[simp] theorem State.setReg_grantOwed (o : Nat) (w : Word) : (s.setReg o w).grantOwed = s.grantOwed := rfl
@[simp] theorem State.setReg_cartPos (o : Nat) (w : Word) : (s.setReg o w).cartPos = s.cartPos := rfl
@[simp] theorem State.setReg_cartRing (o : Nat) (w : Word) : (s.setReg o w).cartRing = s.cartRing := rfl
@[simp] theorem State.setReg_hostTlb (o : Nat) (w : Word) : (s.setReg o w).hostTlb = s.hostTlb := rfl
@[simp] theorem State.setReg_hostCarts (o : Nat) (w : Word) : (s.setReg o w).hostCarts = s.hostCarts := rfl
@[simp] theorem State.setReg_hostReads (o : Nat) (w : Word) : (s.setReg o w).hostReads = s.hostReads := rfl
@[simp] theorem State.setReg_hostLines (o : Nat) (w : Word) : (s.setReg o w).hostLines = s.hostLines := rfl
@[simp] theorem State.setReg_heldOut (o : Nat) (w : Word) : (s.setReg o w).heldOut = s.heldOut := rfl
@[simp] theorem State.setReg_ingress (o : Nat) (w : Word) : (s.setReg o w).ingress = s.ingress := rfl
@[simp] theorem State.setReg_ingressWaits (o : Nat) (w : Word) : (s.setReg o w).ingressWaits = s.ingressWaits := rfl
@[simp] theorem State.setReg_links (o : Nat) (w : Word) : (s.setReg o w).links = s.links := rfl
@[simp] theorem State.setReg_fabric (o : Nat) (w : Word) : (s.setReg o w).fabric = s.fabric := rfl
@[simp] theorem State.setReg_twin (o : Nat) (w : Word) : (s.setReg o w).twin = s.twin := rfl
@[simp] theorem State.setReg_boot (o : Nat) (w : Word) : (s.setReg o w).boot = s.boot := rfl
@[simp] theorem State.setReg_i3c (o : Nat) (w : Word) : (s.setReg o w).i3c = s.i3c := rfl
@[simp] theorem State.setReg_faultLog (o : Nat) (w : Word) : (s.setReg o w).faultLog = s.faultLog := rfl
@[simp] theorem State.setReg_moduleLog (o : Nat) (w : Word) : (s.setReg o w).moduleLog = s.moduleLog := rfl
@[simp] theorem State.setReg_channelLog (o : Nat) (w : Word) : (s.setReg o w).channelLog = s.channelLog := rfl
@[simp] theorem State.setReg_trace (o : Nat) (w : Word) : (s.setReg o w).trace = s.trace := rfl

@[simp] theorem State.setCore_pending (c : CoreId) (k : Core) : (s.setCore c k).pending = s.pending := rfl
@[simp] theorem State.setCore_outbox (c : CoreId) (k : Core) : (s.setCore c k).outbox = s.outbox := rfl
@[simp] theorem State.setCore_freeIdx (c : CoreId) (k : Core) : (s.setCore c k).freeIdx = s.freeIdx := rfl
@[simp] theorem State.setCore_nextId (c : CoreId) (k : Core) : (s.setCore c k).nextId = s.nextId := rfl
@[simp] theorem State.setCore_cycles (c : CoreId) (k : Core) : (s.setCore c k).cycles = s.cycles := rfl
@[simp] theorem State.setCore_power (c : CoreId) (k : Core) : (s.setCore c k).power = s.power := rfl
@[simp] theorem State.setCore_failed (c : CoreId) (k : Core) : (s.setCore c k).failed = s.failed := rfl
@[simp] theorem State.setCore_regs (c : CoreId) (k : Core) : (s.setCore c k).regs = s.regs := rfl
@[simp] theorem State.setCore_tables (c : CoreId) (k : Core) : (s.setCore c k).tables = s.tables := rfl
@[simp] theorem State.setCore_flushed (c : CoreId) (k : Core) : (s.setCore c k).flushed = s.flushed := rfl
@[simp] theorem State.setCore_writers (c : CoreId) (k : Core) : (s.setCore c k).writers = s.writers := rfl
@[simp] theorem State.setCore_flushCount (c : CoreId) (k : Core) : (s.setCore c k).flushCount = s.flushCount := rfl
@[simp] theorem State.setCore_flushWaits (c : CoreId) (k : Core) : (s.setCore c k).flushWaits = s.flushWaits := rfl
@[simp] theorem State.setCore_bar2Gib (c : CoreId) (k : Core) : (s.setCore c k).bar2Gib = s.bar2Gib := rfl
@[simp] theorem State.setCore_dropLogged (c : CoreId) (k : Core) : (s.setCore c k).dropLogged = s.dropLogged := rfl
@[simp] theorem State.setCore_mem (c : CoreId) (k : Core) : (s.setCore c k).mem = s.mem := rfl
@[simp] theorem State.setCore_lineErr (c : CoreId) (k : Core) : (s.setCore c k).lineErr = s.lineErr := rfl
@[simp] theorem State.setCore_inFlight (c : CoreId) (k : Core) : (s.setCore c k).inFlight = s.inFlight := rfl
@[simp] theorem State.setCore_responses (c : CoreId) (k : Core) : (s.setCore c k).responses = s.responses := rfl
@[simp] theorem State.setCore_serving (c : CoreId) (k : Core) : (s.setCore c k).serving = s.serving := rfl
@[simp] theorem State.setCore_stalls (c : CoreId) (k : Core) : (s.setCore c k).stalls = s.stalls := rfl
@[simp] theorem State.setCore_loaderLines (c : CoreId) (k : Core) : (s.setCore c k).loaderLines = s.loaderLines := rfl
@[simp] theorem State.setCore_chans (c : CoreId) (k : Core) : (s.setCore c k).chans = s.chans := rfl
@[simp] theorem State.setCore_querns (c : CoreId) (k : Core) : (s.setCore c k).querns = s.querns := rfl
@[simp] theorem State.setCore_admission (c : CoreId) (k : Core) : (s.setCore c k).admission = s.admission := rfl
@[simp] theorem State.setCore_jobs (c : CoreId) (k : Core) : (s.setCore c k).jobs = s.jobs := rfl
@[simp] theorem State.setCore_cores (c : CoreId) (k : Core) : (s.setCore c k).cores = tabSet (fun _ => {}) c.val k s.cores := rfl
@[simp] theorem State.setCore_pegs (c : CoreId) (k : Core) : (s.setCore c k).pegs = s.pegs := rfl
@[simp] theorem State.setCore_tallies (c : CoreId) (k : Core) : (s.setCore c k).tallies = s.tallies := rfl
@[simp] theorem State.setCore_bells (c : CoreId) (k : Core) : (s.setCore c k).bells = s.bells := rfl
@[simp] theorem State.setCore_syncTables (c : CoreId) (k : Core) : (s.setCore c k).syncTables = s.syncTables := rfl
@[simp] theorem State.setCore_saved (c : CoreId) (k : Core) : (s.setCore c k).saved = s.saved := rfl
@[simp] theorem State.setCore_launches (c : CoreId) (k : Core) : (s.setCore c k).launches = s.launches := rfl
@[simp] theorem State.setCore_launchOrder (c : CoreId) (k : Core) : (s.setCore c k).launchOrder = s.launchOrder := rfl
@[simp] theorem State.setCore_loadQueue (c : CoreId) (k : Core) : (s.setCore c k).loadQueue = s.loadQueue := rfl
@[simp] theorem State.setCore_loadJob (c : CoreId) (k : Core) : (s.setCore c k).loadJob = s.loadJob := rfl
@[simp] theorem State.setCore_parts (c : CoreId) (k : Core) : (s.setCore c k).parts = s.parts := rfl
@[simp] theorem State.setCore_rings (c : CoreId) (k : Core) : (s.setCore c k).rings = s.rings := rfl
@[simp] theorem State.setCore_summary (c : CoreId) (k : Core) : (s.setCore c k).summary = s.summary := rfl
@[simp] theorem State.setCore_pollNo (c : CoreId) (k : Core) : (s.setCore c k).pollNo = s.pollNo := rfl
@[simp] theorem State.setCore_grantPos (c : CoreId) (k : Core) : (s.setCore c k).grantPos = s.grantPos := rfl
@[simp] theorem State.setCore_grantRing (c : CoreId) (k : Core) : (s.setCore c k).grantRing = s.grantRing := rfl
@[simp] theorem State.setCore_grantOwed (c : CoreId) (k : Core) : (s.setCore c k).grantOwed = s.grantOwed := rfl
@[simp] theorem State.setCore_cartPos (c : CoreId) (k : Core) : (s.setCore c k).cartPos = s.cartPos := rfl
@[simp] theorem State.setCore_cartRing (c : CoreId) (k : Core) : (s.setCore c k).cartRing = s.cartRing := rfl
@[simp] theorem State.setCore_hostTlb (c : CoreId) (k : Core) : (s.setCore c k).hostTlb = s.hostTlb := rfl
@[simp] theorem State.setCore_hostCarts (c : CoreId) (k : Core) : (s.setCore c k).hostCarts = s.hostCarts := rfl
@[simp] theorem State.setCore_hostReads (c : CoreId) (k : Core) : (s.setCore c k).hostReads = s.hostReads := rfl
@[simp] theorem State.setCore_hostLines (c : CoreId) (k : Core) : (s.setCore c k).hostLines = s.hostLines := rfl
@[simp] theorem State.setCore_heldOut (c : CoreId) (k : Core) : (s.setCore c k).heldOut = s.heldOut := rfl
@[simp] theorem State.setCore_ingress (c : CoreId) (k : Core) : (s.setCore c k).ingress = s.ingress := rfl
@[simp] theorem State.setCore_ingressWaits (c : CoreId) (k : Core) : (s.setCore c k).ingressWaits = s.ingressWaits := rfl
@[simp] theorem State.setCore_links (c : CoreId) (k : Core) : (s.setCore c k).links = s.links := rfl
@[simp] theorem State.setCore_fabric (c : CoreId) (k : Core) : (s.setCore c k).fabric = s.fabric := rfl
@[simp] theorem State.setCore_twin (c : CoreId) (k : Core) : (s.setCore c k).twin = s.twin := rfl
@[simp] theorem State.setCore_boot (c : CoreId) (k : Core) : (s.setCore c k).boot = s.boot := rfl
@[simp] theorem State.setCore_i3c (c : CoreId) (k : Core) : (s.setCore c k).i3c = s.i3c := rfl
@[simp] theorem State.setCore_faultLog (c : CoreId) (k : Core) : (s.setCore c k).faultLog = s.faultLog := rfl
@[simp] theorem State.setCore_moduleLog (c : CoreId) (k : Core) : (s.setCore c k).moduleLog = s.moduleLog := rfl
@[simp] theorem State.setCore_channelLog (c : CoreId) (k : Core) : (s.setCore c k).channelLog = s.channelLog := rfl
@[simp] theorem State.setCore_trace (c : CoreId) (k : Core) : (s.setCore c k).trace = s.trace := rfl

@[simp] theorem State.setPart_pending (p : PartId) (k : Part) : (s.setPart p k).pending = s.pending := rfl
@[simp] theorem State.setPart_outbox (p : PartId) (k : Part) : (s.setPart p k).outbox = s.outbox := rfl
@[simp] theorem State.setPart_freeIdx (p : PartId) (k : Part) : (s.setPart p k).freeIdx = s.freeIdx := rfl
@[simp] theorem State.setPart_nextId (p : PartId) (k : Part) : (s.setPart p k).nextId = s.nextId := rfl
@[simp] theorem State.setPart_cycles (p : PartId) (k : Part) : (s.setPart p k).cycles = s.cycles := rfl
@[simp] theorem State.setPart_power (p : PartId) (k : Part) : (s.setPart p k).power = s.power := rfl
@[simp] theorem State.setPart_failed (p : PartId) (k : Part) : (s.setPart p k).failed = s.failed := rfl
@[simp] theorem State.setPart_regs (p : PartId) (k : Part) : (s.setPart p k).regs = s.regs := rfl
@[simp] theorem State.setPart_tables (p : PartId) (k : Part) : (s.setPart p k).tables = s.tables := rfl
@[simp] theorem State.setPart_flushed (p : PartId) (k : Part) : (s.setPart p k).flushed = s.flushed := rfl
@[simp] theorem State.setPart_writers (p : PartId) (k : Part) : (s.setPart p k).writers = s.writers := rfl
@[simp] theorem State.setPart_flushCount (p : PartId) (k : Part) : (s.setPart p k).flushCount = s.flushCount := rfl
@[simp] theorem State.setPart_flushWaits (p : PartId) (k : Part) : (s.setPart p k).flushWaits = s.flushWaits := rfl
@[simp] theorem State.setPart_bar2Gib (p : PartId) (k : Part) : (s.setPart p k).bar2Gib = s.bar2Gib := rfl
@[simp] theorem State.setPart_dropLogged (p : PartId) (k : Part) : (s.setPart p k).dropLogged = s.dropLogged := rfl
@[simp] theorem State.setPart_mem (p : PartId) (k : Part) : (s.setPart p k).mem = s.mem := rfl
@[simp] theorem State.setPart_lineErr (p : PartId) (k : Part) : (s.setPart p k).lineErr = s.lineErr := rfl
@[simp] theorem State.setPart_inFlight (p : PartId) (k : Part) : (s.setPart p k).inFlight = s.inFlight := rfl
@[simp] theorem State.setPart_responses (p : PartId) (k : Part) : (s.setPart p k).responses = s.responses := rfl
@[simp] theorem State.setPart_serving (p : PartId) (k : Part) : (s.setPart p k).serving = s.serving := rfl
@[simp] theorem State.setPart_stalls (p : PartId) (k : Part) : (s.setPart p k).stalls = s.stalls := rfl
@[simp] theorem State.setPart_loaderLines (p : PartId) (k : Part) : (s.setPart p k).loaderLines = s.loaderLines := rfl
@[simp] theorem State.setPart_chans (p : PartId) (k : Part) : (s.setPart p k).chans = s.chans := rfl
@[simp] theorem State.setPart_querns (p : PartId) (k : Part) : (s.setPart p k).querns = s.querns := rfl
@[simp] theorem State.setPart_admission (p : PartId) (k : Part) : (s.setPart p k).admission = s.admission := rfl
@[simp] theorem State.setPart_jobs (p : PartId) (k : Part) : (s.setPart p k).jobs = s.jobs := rfl
@[simp] theorem State.setPart_cores (p : PartId) (k : Part) : (s.setPart p k).cores = s.cores := rfl
@[simp] theorem State.setPart_pegs (p : PartId) (k : Part) : (s.setPart p k).pegs = s.pegs := rfl
@[simp] theorem State.setPart_tallies (p : PartId) (k : Part) : (s.setPart p k).tallies = s.tallies := rfl
@[simp] theorem State.setPart_bells (p : PartId) (k : Part) : (s.setPart p k).bells = s.bells := rfl
@[simp] theorem State.setPart_syncTables (p : PartId) (k : Part) : (s.setPart p k).syncTables = s.syncTables := rfl
@[simp] theorem State.setPart_saved (p : PartId) (k : Part) : (s.setPart p k).saved = s.saved := rfl
@[simp] theorem State.setPart_launches (p : PartId) (k : Part) : (s.setPart p k).launches = s.launches := rfl
@[simp] theorem State.setPart_launchOrder (p : PartId) (k : Part) : (s.setPart p k).launchOrder = s.launchOrder := rfl
@[simp] theorem State.setPart_loadQueue (p : PartId) (k : Part) : (s.setPart p k).loadQueue = s.loadQueue := rfl
@[simp] theorem State.setPart_loadJob (p : PartId) (k : Part) : (s.setPart p k).loadJob = s.loadJob := rfl
@[simp] theorem State.setPart_parts (p : PartId) (k : Part) : (s.setPart p k).parts = tabSet (fun _ => {}) p.val k s.parts := rfl
@[simp] theorem State.setPart_rings (p : PartId) (k : Part) : (s.setPart p k).rings = s.rings := rfl
@[simp] theorem State.setPart_summary (p : PartId) (k : Part) : (s.setPart p k).summary = s.summary := rfl
@[simp] theorem State.setPart_pollNo (p : PartId) (k : Part) : (s.setPart p k).pollNo = s.pollNo := rfl
@[simp] theorem State.setPart_grantPos (p : PartId) (k : Part) : (s.setPart p k).grantPos = s.grantPos := rfl
@[simp] theorem State.setPart_grantRing (p : PartId) (k : Part) : (s.setPart p k).grantRing = s.grantRing := rfl
@[simp] theorem State.setPart_grantOwed (p : PartId) (k : Part) : (s.setPart p k).grantOwed = s.grantOwed := rfl
@[simp] theorem State.setPart_cartPos (p : PartId) (k : Part) : (s.setPart p k).cartPos = s.cartPos := rfl
@[simp] theorem State.setPart_cartRing (p : PartId) (k : Part) : (s.setPart p k).cartRing = s.cartRing := rfl
@[simp] theorem State.setPart_hostTlb (p : PartId) (k : Part) : (s.setPart p k).hostTlb = s.hostTlb := rfl
@[simp] theorem State.setPart_hostCarts (p : PartId) (k : Part) : (s.setPart p k).hostCarts = s.hostCarts := rfl
@[simp] theorem State.setPart_hostReads (p : PartId) (k : Part) : (s.setPart p k).hostReads = s.hostReads := rfl
@[simp] theorem State.setPart_hostLines (p : PartId) (k : Part) : (s.setPart p k).hostLines = s.hostLines := rfl
@[simp] theorem State.setPart_heldOut (p : PartId) (k : Part) : (s.setPart p k).heldOut = s.heldOut := rfl
@[simp] theorem State.setPart_ingress (p : PartId) (k : Part) : (s.setPart p k).ingress = s.ingress := rfl
@[simp] theorem State.setPart_ingressWaits (p : PartId) (k : Part) : (s.setPart p k).ingressWaits = s.ingressWaits := rfl
@[simp] theorem State.setPart_links (p : PartId) (k : Part) : (s.setPart p k).links = s.links := rfl
@[simp] theorem State.setPart_fabric (p : PartId) (k : Part) : (s.setPart p k).fabric = s.fabric := rfl
@[simp] theorem State.setPart_twin (p : PartId) (k : Part) : (s.setPart p k).twin = s.twin := rfl
@[simp] theorem State.setPart_boot (p : PartId) (k : Part) : (s.setPart p k).boot = s.boot := rfl
@[simp] theorem State.setPart_i3c (p : PartId) (k : Part) : (s.setPart p k).i3c = s.i3c := rfl
@[simp] theorem State.setPart_faultLog (p : PartId) (k : Part) : (s.setPart p k).faultLog = s.faultLog := rfl
@[simp] theorem State.setPart_moduleLog (p : PartId) (k : Part) : (s.setPart p k).moduleLog = s.moduleLog := rfl
@[simp] theorem State.setPart_channelLog (p : PartId) (k : Part) : (s.setPart p k).channelLog = s.channelLog := rfl
@[simp] theorem State.setPart_trace (p : PartId) (k : Part) : (s.setPart p k).trace = s.trace := rfl

@[simp] theorem State.setChan_pending (n : ChanId) (k : Chan) : (s.setChan n k).pending = s.pending := rfl
@[simp] theorem State.setChan_outbox (n : ChanId) (k : Chan) : (s.setChan n k).outbox = s.outbox := rfl
@[simp] theorem State.setChan_freeIdx (n : ChanId) (k : Chan) : (s.setChan n k).freeIdx = s.freeIdx := rfl
@[simp] theorem State.setChan_nextId (n : ChanId) (k : Chan) : (s.setChan n k).nextId = s.nextId := rfl
@[simp] theorem State.setChan_cycles (n : ChanId) (k : Chan) : (s.setChan n k).cycles = s.cycles := rfl
@[simp] theorem State.setChan_power (n : ChanId) (k : Chan) : (s.setChan n k).power = s.power := rfl
@[simp] theorem State.setChan_failed (n : ChanId) (k : Chan) : (s.setChan n k).failed = s.failed := rfl
@[simp] theorem State.setChan_regs (n : ChanId) (k : Chan) : (s.setChan n k).regs = s.regs := rfl
@[simp] theorem State.setChan_tables (n : ChanId) (k : Chan) : (s.setChan n k).tables = s.tables := rfl
@[simp] theorem State.setChan_flushed (n : ChanId) (k : Chan) : (s.setChan n k).flushed = s.flushed := rfl
@[simp] theorem State.setChan_writers (n : ChanId) (k : Chan) : (s.setChan n k).writers = s.writers := rfl
@[simp] theorem State.setChan_flushCount (n : ChanId) (k : Chan) : (s.setChan n k).flushCount = s.flushCount := rfl
@[simp] theorem State.setChan_flushWaits (n : ChanId) (k : Chan) : (s.setChan n k).flushWaits = s.flushWaits := rfl
@[simp] theorem State.setChan_bar2Gib (n : ChanId) (k : Chan) : (s.setChan n k).bar2Gib = s.bar2Gib := rfl
@[simp] theorem State.setChan_dropLogged (n : ChanId) (k : Chan) : (s.setChan n k).dropLogged = s.dropLogged := rfl
@[simp] theorem State.setChan_mem (n : ChanId) (k : Chan) : (s.setChan n k).mem = s.mem := rfl
@[simp] theorem State.setChan_lineErr (n : ChanId) (k : Chan) : (s.setChan n k).lineErr = s.lineErr := rfl
@[simp] theorem State.setChan_inFlight (n : ChanId) (k : Chan) : (s.setChan n k).inFlight = s.inFlight := rfl
@[simp] theorem State.setChan_responses (n : ChanId) (k : Chan) : (s.setChan n k).responses = s.responses := rfl
@[simp] theorem State.setChan_serving (n : ChanId) (k : Chan) : (s.setChan n k).serving = s.serving := rfl
@[simp] theorem State.setChan_stalls (n : ChanId) (k : Chan) : (s.setChan n k).stalls = s.stalls := rfl
@[simp] theorem State.setChan_loaderLines (n : ChanId) (k : Chan) : (s.setChan n k).loaderLines = s.loaderLines := rfl
@[simp] theorem State.setChan_chans (n : ChanId) (k : Chan) : (s.setChan n k).chans = tabSet (fun _ => {}) n.val k s.chans := rfl
@[simp] theorem State.setChan_querns (n : ChanId) (k : Chan) : (s.setChan n k).querns = s.querns := rfl
@[simp] theorem State.setChan_admission (n : ChanId) (k : Chan) : (s.setChan n k).admission = s.admission := rfl
@[simp] theorem State.setChan_jobs (n : ChanId) (k : Chan) : (s.setChan n k).jobs = s.jobs := rfl
@[simp] theorem State.setChan_cores (n : ChanId) (k : Chan) : (s.setChan n k).cores = s.cores := rfl
@[simp] theorem State.setChan_pegs (n : ChanId) (k : Chan) : (s.setChan n k).pegs = s.pegs := rfl
@[simp] theorem State.setChan_tallies (n : ChanId) (k : Chan) : (s.setChan n k).tallies = s.tallies := rfl
@[simp] theorem State.setChan_bells (n : ChanId) (k : Chan) : (s.setChan n k).bells = s.bells := rfl
@[simp] theorem State.setChan_syncTables (n : ChanId) (k : Chan) : (s.setChan n k).syncTables = s.syncTables := rfl
@[simp] theorem State.setChan_saved (n : ChanId) (k : Chan) : (s.setChan n k).saved = s.saved := rfl
@[simp] theorem State.setChan_launches (n : ChanId) (k : Chan) : (s.setChan n k).launches = s.launches := rfl
@[simp] theorem State.setChan_launchOrder (n : ChanId) (k : Chan) : (s.setChan n k).launchOrder = s.launchOrder := rfl
@[simp] theorem State.setChan_loadQueue (n : ChanId) (k : Chan) : (s.setChan n k).loadQueue = s.loadQueue := rfl
@[simp] theorem State.setChan_loadJob (n : ChanId) (k : Chan) : (s.setChan n k).loadJob = s.loadJob := rfl
@[simp] theorem State.setChan_parts (n : ChanId) (k : Chan) : (s.setChan n k).parts = s.parts := rfl
@[simp] theorem State.setChan_rings (n : ChanId) (k : Chan) : (s.setChan n k).rings = s.rings := rfl
@[simp] theorem State.setChan_summary (n : ChanId) (k : Chan) : (s.setChan n k).summary = s.summary := rfl
@[simp] theorem State.setChan_pollNo (n : ChanId) (k : Chan) : (s.setChan n k).pollNo = s.pollNo := rfl
@[simp] theorem State.setChan_grantPos (n : ChanId) (k : Chan) : (s.setChan n k).grantPos = s.grantPos := rfl
@[simp] theorem State.setChan_grantRing (n : ChanId) (k : Chan) : (s.setChan n k).grantRing = s.grantRing := rfl
@[simp] theorem State.setChan_grantOwed (n : ChanId) (k : Chan) : (s.setChan n k).grantOwed = s.grantOwed := rfl
@[simp] theorem State.setChan_cartPos (n : ChanId) (k : Chan) : (s.setChan n k).cartPos = s.cartPos := rfl
@[simp] theorem State.setChan_cartRing (n : ChanId) (k : Chan) : (s.setChan n k).cartRing = s.cartRing := rfl
@[simp] theorem State.setChan_hostTlb (n : ChanId) (k : Chan) : (s.setChan n k).hostTlb = s.hostTlb := rfl
@[simp] theorem State.setChan_hostCarts (n : ChanId) (k : Chan) : (s.setChan n k).hostCarts = s.hostCarts := rfl
@[simp] theorem State.setChan_hostReads (n : ChanId) (k : Chan) : (s.setChan n k).hostReads = s.hostReads := rfl
@[simp] theorem State.setChan_hostLines (n : ChanId) (k : Chan) : (s.setChan n k).hostLines = s.hostLines := rfl
@[simp] theorem State.setChan_heldOut (n : ChanId) (k : Chan) : (s.setChan n k).heldOut = s.heldOut := rfl
@[simp] theorem State.setChan_ingress (n : ChanId) (k : Chan) : (s.setChan n k).ingress = s.ingress := rfl
@[simp] theorem State.setChan_ingressWaits (n : ChanId) (k : Chan) : (s.setChan n k).ingressWaits = s.ingressWaits := rfl
@[simp] theorem State.setChan_links (n : ChanId) (k : Chan) : (s.setChan n k).links = s.links := rfl
@[simp] theorem State.setChan_fabric (n : ChanId) (k : Chan) : (s.setChan n k).fabric = s.fabric := rfl
@[simp] theorem State.setChan_twin (n : ChanId) (k : Chan) : (s.setChan n k).twin = s.twin := rfl
@[simp] theorem State.setChan_boot (n : ChanId) (k : Chan) : (s.setChan n k).boot = s.boot := rfl
@[simp] theorem State.setChan_i3c (n : ChanId) (k : Chan) : (s.setChan n k).i3c = s.i3c := rfl
@[simp] theorem State.setChan_faultLog (n : ChanId) (k : Chan) : (s.setChan n k).faultLog = s.faultLog := rfl
@[simp] theorem State.setChan_moduleLog (n : ChanId) (k : Chan) : (s.setChan n k).moduleLog = s.moduleLog := rfl
@[simp] theorem State.setChan_channelLog (n : ChanId) (k : Chan) : (s.setChan n k).channelLog = s.channelLog := rfl
@[simp] theorem State.setChan_trace (n : ChanId) (k : Chan) : (s.setChan n k).trace = s.trace := rfl

@[simp] theorem State.setRing_pending (r : RingId) (k : Ring) : (s.setRing r k).pending = s.pending := rfl
@[simp] theorem State.setRing_outbox (r : RingId) (k : Ring) : (s.setRing r k).outbox = s.outbox := rfl
@[simp] theorem State.setRing_freeIdx (r : RingId) (k : Ring) : (s.setRing r k).freeIdx = s.freeIdx := rfl
@[simp] theorem State.setRing_nextId (r : RingId) (k : Ring) : (s.setRing r k).nextId = s.nextId := rfl
@[simp] theorem State.setRing_cycles (r : RingId) (k : Ring) : (s.setRing r k).cycles = s.cycles := rfl
@[simp] theorem State.setRing_power (r : RingId) (k : Ring) : (s.setRing r k).power = s.power := rfl
@[simp] theorem State.setRing_failed (r : RingId) (k : Ring) : (s.setRing r k).failed = s.failed := rfl
@[simp] theorem State.setRing_regs (r : RingId) (k : Ring) : (s.setRing r k).regs = s.regs := rfl
@[simp] theorem State.setRing_tables (r : RingId) (k : Ring) : (s.setRing r k).tables = s.tables := rfl
@[simp] theorem State.setRing_flushed (r : RingId) (k : Ring) : (s.setRing r k).flushed = s.flushed := rfl
@[simp] theorem State.setRing_writers (r : RingId) (k : Ring) : (s.setRing r k).writers = s.writers := rfl
@[simp] theorem State.setRing_flushCount (r : RingId) (k : Ring) : (s.setRing r k).flushCount = s.flushCount := rfl
@[simp] theorem State.setRing_flushWaits (r : RingId) (k : Ring) : (s.setRing r k).flushWaits = s.flushWaits := rfl
@[simp] theorem State.setRing_bar2Gib (r : RingId) (k : Ring) : (s.setRing r k).bar2Gib = s.bar2Gib := rfl
@[simp] theorem State.setRing_dropLogged (r : RingId) (k : Ring) : (s.setRing r k).dropLogged = s.dropLogged := rfl
@[simp] theorem State.setRing_mem (r : RingId) (k : Ring) : (s.setRing r k).mem = s.mem := rfl
@[simp] theorem State.setRing_lineErr (r : RingId) (k : Ring) : (s.setRing r k).lineErr = s.lineErr := rfl
@[simp] theorem State.setRing_inFlight (r : RingId) (k : Ring) : (s.setRing r k).inFlight = s.inFlight := rfl
@[simp] theorem State.setRing_responses (r : RingId) (k : Ring) : (s.setRing r k).responses = s.responses := rfl
@[simp] theorem State.setRing_serving (r : RingId) (k : Ring) : (s.setRing r k).serving = s.serving := rfl
@[simp] theorem State.setRing_stalls (r : RingId) (k : Ring) : (s.setRing r k).stalls = s.stalls := rfl
@[simp] theorem State.setRing_loaderLines (r : RingId) (k : Ring) : (s.setRing r k).loaderLines = s.loaderLines := rfl
@[simp] theorem State.setRing_chans (r : RingId) (k : Ring) : (s.setRing r k).chans = s.chans := rfl
@[simp] theorem State.setRing_querns (r : RingId) (k : Ring) : (s.setRing r k).querns = s.querns := rfl
@[simp] theorem State.setRing_admission (r : RingId) (k : Ring) : (s.setRing r k).admission = s.admission := rfl
@[simp] theorem State.setRing_jobs (r : RingId) (k : Ring) : (s.setRing r k).jobs = s.jobs := rfl
@[simp] theorem State.setRing_cores (r : RingId) (k : Ring) : (s.setRing r k).cores = s.cores := rfl
@[simp] theorem State.setRing_pegs (r : RingId) (k : Ring) : (s.setRing r k).pegs = s.pegs := rfl
@[simp] theorem State.setRing_tallies (r : RingId) (k : Ring) : (s.setRing r k).tallies = s.tallies := rfl
@[simp] theorem State.setRing_bells (r : RingId) (k : Ring) : (s.setRing r k).bells = s.bells := rfl
@[simp] theorem State.setRing_syncTables (r : RingId) (k : Ring) : (s.setRing r k).syncTables = s.syncTables := rfl
@[simp] theorem State.setRing_saved (r : RingId) (k : Ring) : (s.setRing r k).saved = s.saved := rfl
@[simp] theorem State.setRing_launches (r : RingId) (k : Ring) : (s.setRing r k).launches = s.launches := rfl
@[simp] theorem State.setRing_launchOrder (r : RingId) (k : Ring) : (s.setRing r k).launchOrder = s.launchOrder := rfl
@[simp] theorem State.setRing_loadQueue (r : RingId) (k : Ring) : (s.setRing r k).loadQueue = s.loadQueue := rfl
@[simp] theorem State.setRing_loadJob (r : RingId) (k : Ring) : (s.setRing r k).loadJob = s.loadJob := rfl
@[simp] theorem State.setRing_parts (r : RingId) (k : Ring) : (s.setRing r k).parts = s.parts := rfl
@[simp] theorem State.setRing_rings (r : RingId) (k : Ring) : (s.setRing r k).rings = tabSet (fun _ => {}) r.val k s.rings := rfl
@[simp] theorem State.setRing_summary (r : RingId) (k : Ring) : (s.setRing r k).summary = s.summary := rfl
@[simp] theorem State.setRing_pollNo (r : RingId) (k : Ring) : (s.setRing r k).pollNo = s.pollNo := rfl
@[simp] theorem State.setRing_grantPos (r : RingId) (k : Ring) : (s.setRing r k).grantPos = s.grantPos := rfl
@[simp] theorem State.setRing_grantRing (r : RingId) (k : Ring) : (s.setRing r k).grantRing = s.grantRing := rfl
@[simp] theorem State.setRing_grantOwed (r : RingId) (k : Ring) : (s.setRing r k).grantOwed = s.grantOwed := rfl
@[simp] theorem State.setRing_cartPos (r : RingId) (k : Ring) : (s.setRing r k).cartPos = s.cartPos := rfl
@[simp] theorem State.setRing_cartRing (r : RingId) (k : Ring) : (s.setRing r k).cartRing = s.cartRing := rfl
@[simp] theorem State.setRing_hostTlb (r : RingId) (k : Ring) : (s.setRing r k).hostTlb = s.hostTlb := rfl
@[simp] theorem State.setRing_hostCarts (r : RingId) (k : Ring) : (s.setRing r k).hostCarts = s.hostCarts := rfl
@[simp] theorem State.setRing_hostReads (r : RingId) (k : Ring) : (s.setRing r k).hostReads = s.hostReads := rfl
@[simp] theorem State.setRing_hostLines (r : RingId) (k : Ring) : (s.setRing r k).hostLines = s.hostLines := rfl
@[simp] theorem State.setRing_heldOut (r : RingId) (k : Ring) : (s.setRing r k).heldOut = s.heldOut := rfl
@[simp] theorem State.setRing_ingress (r : RingId) (k : Ring) : (s.setRing r k).ingress = s.ingress := rfl
@[simp] theorem State.setRing_ingressWaits (r : RingId) (k : Ring) : (s.setRing r k).ingressWaits = s.ingressWaits := rfl
@[simp] theorem State.setRing_links (r : RingId) (k : Ring) : (s.setRing r k).links = s.links := rfl
@[simp] theorem State.setRing_fabric (r : RingId) (k : Ring) : (s.setRing r k).fabric = s.fabric := rfl
@[simp] theorem State.setRing_twin (r : RingId) (k : Ring) : (s.setRing r k).twin = s.twin := rfl
@[simp] theorem State.setRing_boot (r : RingId) (k : Ring) : (s.setRing r k).boot = s.boot := rfl
@[simp] theorem State.setRing_i3c (r : RingId) (k : Ring) : (s.setRing r k).i3c = s.i3c := rfl
@[simp] theorem State.setRing_faultLog (r : RingId) (k : Ring) : (s.setRing r k).faultLog = s.faultLog := rfl
@[simp] theorem State.setRing_moduleLog (r : RingId) (k : Ring) : (s.setRing r k).moduleLog = s.moduleLog := rfl
@[simp] theorem State.setRing_channelLog (r : RingId) (k : Ring) : (s.setRing r k).channelLog = s.channelLog := rfl
@[simp] theorem State.setRing_trace (r : RingId) (k : Ring) : (s.setRing r k).trace = s.trace := rfl

@[simp] theorem State.setLink_pending (l : LinkId) (k : Link) : (s.setLink l k).pending = s.pending := rfl
@[simp] theorem State.setLink_outbox (l : LinkId) (k : Link) : (s.setLink l k).outbox = s.outbox := rfl
@[simp] theorem State.setLink_freeIdx (l : LinkId) (k : Link) : (s.setLink l k).freeIdx = s.freeIdx := rfl
@[simp] theorem State.setLink_nextId (l : LinkId) (k : Link) : (s.setLink l k).nextId = s.nextId := rfl
@[simp] theorem State.setLink_cycles (l : LinkId) (k : Link) : (s.setLink l k).cycles = s.cycles := rfl
@[simp] theorem State.setLink_power (l : LinkId) (k : Link) : (s.setLink l k).power = s.power := rfl
@[simp] theorem State.setLink_failed (l : LinkId) (k : Link) : (s.setLink l k).failed = s.failed := rfl
@[simp] theorem State.setLink_regs (l : LinkId) (k : Link) : (s.setLink l k).regs = s.regs := rfl
@[simp] theorem State.setLink_tables (l : LinkId) (k : Link) : (s.setLink l k).tables = s.tables := rfl
@[simp] theorem State.setLink_flushed (l : LinkId) (k : Link) : (s.setLink l k).flushed = s.flushed := rfl
@[simp] theorem State.setLink_writers (l : LinkId) (k : Link) : (s.setLink l k).writers = s.writers := rfl
@[simp] theorem State.setLink_flushCount (l : LinkId) (k : Link) : (s.setLink l k).flushCount = s.flushCount := rfl
@[simp] theorem State.setLink_flushWaits (l : LinkId) (k : Link) : (s.setLink l k).flushWaits = s.flushWaits := rfl
@[simp] theorem State.setLink_bar2Gib (l : LinkId) (k : Link) : (s.setLink l k).bar2Gib = s.bar2Gib := rfl
@[simp] theorem State.setLink_dropLogged (l : LinkId) (k : Link) : (s.setLink l k).dropLogged = s.dropLogged := rfl
@[simp] theorem State.setLink_mem (l : LinkId) (k : Link) : (s.setLink l k).mem = s.mem := rfl
@[simp] theorem State.setLink_lineErr (l : LinkId) (k : Link) : (s.setLink l k).lineErr = s.lineErr := rfl
@[simp] theorem State.setLink_inFlight (l : LinkId) (k : Link) : (s.setLink l k).inFlight = s.inFlight := rfl
@[simp] theorem State.setLink_responses (l : LinkId) (k : Link) : (s.setLink l k).responses = s.responses := rfl
@[simp] theorem State.setLink_serving (l : LinkId) (k : Link) : (s.setLink l k).serving = s.serving := rfl
@[simp] theorem State.setLink_stalls (l : LinkId) (k : Link) : (s.setLink l k).stalls = s.stalls := rfl
@[simp] theorem State.setLink_loaderLines (l : LinkId) (k : Link) : (s.setLink l k).loaderLines = s.loaderLines := rfl
@[simp] theorem State.setLink_chans (l : LinkId) (k : Link) : (s.setLink l k).chans = s.chans := rfl
@[simp] theorem State.setLink_querns (l : LinkId) (k : Link) : (s.setLink l k).querns = s.querns := rfl
@[simp] theorem State.setLink_admission (l : LinkId) (k : Link) : (s.setLink l k).admission = s.admission := rfl
@[simp] theorem State.setLink_jobs (l : LinkId) (k : Link) : (s.setLink l k).jobs = s.jobs := rfl
@[simp] theorem State.setLink_cores (l : LinkId) (k : Link) : (s.setLink l k).cores = s.cores := rfl
@[simp] theorem State.setLink_pegs (l : LinkId) (k : Link) : (s.setLink l k).pegs = s.pegs := rfl
@[simp] theorem State.setLink_tallies (l : LinkId) (k : Link) : (s.setLink l k).tallies = s.tallies := rfl
@[simp] theorem State.setLink_bells (l : LinkId) (k : Link) : (s.setLink l k).bells = s.bells := rfl
@[simp] theorem State.setLink_syncTables (l : LinkId) (k : Link) : (s.setLink l k).syncTables = s.syncTables := rfl
@[simp] theorem State.setLink_saved (l : LinkId) (k : Link) : (s.setLink l k).saved = s.saved := rfl
@[simp] theorem State.setLink_launches (l : LinkId) (k : Link) : (s.setLink l k).launches = s.launches := rfl
@[simp] theorem State.setLink_launchOrder (l : LinkId) (k : Link) : (s.setLink l k).launchOrder = s.launchOrder := rfl
@[simp] theorem State.setLink_loadQueue (l : LinkId) (k : Link) : (s.setLink l k).loadQueue = s.loadQueue := rfl
@[simp] theorem State.setLink_loadJob (l : LinkId) (k : Link) : (s.setLink l k).loadJob = s.loadJob := rfl
@[simp] theorem State.setLink_parts (l : LinkId) (k : Link) : (s.setLink l k).parts = s.parts := rfl
@[simp] theorem State.setLink_rings (l : LinkId) (k : Link) : (s.setLink l k).rings = s.rings := rfl
@[simp] theorem State.setLink_summary (l : LinkId) (k : Link) : (s.setLink l k).summary = s.summary := rfl
@[simp] theorem State.setLink_pollNo (l : LinkId) (k : Link) : (s.setLink l k).pollNo = s.pollNo := rfl
@[simp] theorem State.setLink_grantPos (l : LinkId) (k : Link) : (s.setLink l k).grantPos = s.grantPos := rfl
@[simp] theorem State.setLink_grantRing (l : LinkId) (k : Link) : (s.setLink l k).grantRing = s.grantRing := rfl
@[simp] theorem State.setLink_grantOwed (l : LinkId) (k : Link) : (s.setLink l k).grantOwed = s.grantOwed := rfl
@[simp] theorem State.setLink_cartPos (l : LinkId) (k : Link) : (s.setLink l k).cartPos = s.cartPos := rfl
@[simp] theorem State.setLink_cartRing (l : LinkId) (k : Link) : (s.setLink l k).cartRing = s.cartRing := rfl
@[simp] theorem State.setLink_hostTlb (l : LinkId) (k : Link) : (s.setLink l k).hostTlb = s.hostTlb := rfl
@[simp] theorem State.setLink_hostCarts (l : LinkId) (k : Link) : (s.setLink l k).hostCarts = s.hostCarts := rfl
@[simp] theorem State.setLink_hostReads (l : LinkId) (k : Link) : (s.setLink l k).hostReads = s.hostReads := rfl
@[simp] theorem State.setLink_hostLines (l : LinkId) (k : Link) : (s.setLink l k).hostLines = s.hostLines := rfl
@[simp] theorem State.setLink_heldOut (l : LinkId) (k : Link) : (s.setLink l k).heldOut = s.heldOut := rfl
@[simp] theorem State.setLink_ingress (l : LinkId) (k : Link) : (s.setLink l k).ingress = s.ingress := rfl
@[simp] theorem State.setLink_ingressWaits (l : LinkId) (k : Link) : (s.setLink l k).ingressWaits = s.ingressWaits := rfl
@[simp] theorem State.setLink_links (l : LinkId) (k : Link) : (s.setLink l k).links = tabSet (fun _ => {}) l.val k s.links := rfl
@[simp] theorem State.setLink_fabric (l : LinkId) (k : Link) : (s.setLink l k).fabric = s.fabric := rfl
@[simp] theorem State.setLink_twin (l : LinkId) (k : Link) : (s.setLink l k).twin = s.twin := rfl
@[simp] theorem State.setLink_boot (l : LinkId) (k : Link) : (s.setLink l k).boot = s.boot := rfl
@[simp] theorem State.setLink_i3c (l : LinkId) (k : Link) : (s.setLink l k).i3c = s.i3c := rfl
@[simp] theorem State.setLink_faultLog (l : LinkId) (k : Link) : (s.setLink l k).faultLog = s.faultLog := rfl
@[simp] theorem State.setLink_moduleLog (l : LinkId) (k : Link) : (s.setLink l k).moduleLog = s.moduleLog := rfl
@[simp] theorem State.setLink_channelLog (l : LinkId) (k : Link) : (s.setLink l k).channelLog = s.channelLog := rfl
@[simp] theorem State.setLink_trace (l : LinkId) (k : Link) : (s.setLink l k).trace = s.trace := rfl

@[simp] theorem State.setQuern_pending (g : GranChan) (p : Fin 16) (k : Quern) : (s.setQuern g p k).pending = s.pending := rfl
@[simp] theorem State.setQuern_outbox (g : GranChan) (p : Fin 16) (k : Quern) : (s.setQuern g p k).outbox = s.outbox := rfl
@[simp] theorem State.setQuern_freeIdx (g : GranChan) (p : Fin 16) (k : Quern) : (s.setQuern g p k).freeIdx = s.freeIdx := rfl
@[simp] theorem State.setQuern_nextId (g : GranChan) (p : Fin 16) (k : Quern) : (s.setQuern g p k).nextId = s.nextId := rfl
@[simp] theorem State.setQuern_cycles (g : GranChan) (p : Fin 16) (k : Quern) : (s.setQuern g p k).cycles = s.cycles := rfl
@[simp] theorem State.setQuern_power (g : GranChan) (p : Fin 16) (k : Quern) : (s.setQuern g p k).power = s.power := rfl
@[simp] theorem State.setQuern_failed (g : GranChan) (p : Fin 16) (k : Quern) : (s.setQuern g p k).failed = s.failed := rfl
@[simp] theorem State.setQuern_regs (g : GranChan) (p : Fin 16) (k : Quern) : (s.setQuern g p k).regs = s.regs := rfl
@[simp] theorem State.setQuern_tables (g : GranChan) (p : Fin 16) (k : Quern) : (s.setQuern g p k).tables = s.tables := rfl
@[simp] theorem State.setQuern_flushed (g : GranChan) (p : Fin 16) (k : Quern) : (s.setQuern g p k).flushed = s.flushed := rfl
@[simp] theorem State.setQuern_writers (g : GranChan) (p : Fin 16) (k : Quern) : (s.setQuern g p k).writers = s.writers := rfl
@[simp] theorem State.setQuern_flushCount (g : GranChan) (p : Fin 16) (k : Quern) : (s.setQuern g p k).flushCount = s.flushCount := rfl
@[simp] theorem State.setQuern_flushWaits (g : GranChan) (p : Fin 16) (k : Quern) : (s.setQuern g p k).flushWaits = s.flushWaits := rfl
@[simp] theorem State.setQuern_bar2Gib (g : GranChan) (p : Fin 16) (k : Quern) : (s.setQuern g p k).bar2Gib = s.bar2Gib := rfl
@[simp] theorem State.setQuern_dropLogged (g : GranChan) (p : Fin 16) (k : Quern) : (s.setQuern g p k).dropLogged = s.dropLogged := rfl
@[simp] theorem State.setQuern_mem (g : GranChan) (p : Fin 16) (k : Quern) : (s.setQuern g p k).mem = s.mem := rfl
@[simp] theorem State.setQuern_lineErr (g : GranChan) (p : Fin 16) (k : Quern) : (s.setQuern g p k).lineErr = s.lineErr := rfl
@[simp] theorem State.setQuern_inFlight (g : GranChan) (p : Fin 16) (k : Quern) : (s.setQuern g p k).inFlight = s.inFlight := rfl
@[simp] theorem State.setQuern_responses (g : GranChan) (p : Fin 16) (k : Quern) : (s.setQuern g p k).responses = s.responses := rfl
@[simp] theorem State.setQuern_serving (g : GranChan) (p : Fin 16) (k : Quern) : (s.setQuern g p k).serving = s.serving := rfl
@[simp] theorem State.setQuern_stalls (g : GranChan) (p : Fin 16) (k : Quern) : (s.setQuern g p k).stalls = s.stalls := rfl
@[simp] theorem State.setQuern_loaderLines (g : GranChan) (p : Fin 16) (k : Quern) : (s.setQuern g p k).loaderLines = s.loaderLines := rfl
@[simp] theorem State.setQuern_chans (g : GranChan) (p : Fin 16) (k : Quern) : (s.setQuern g p k).chans = s.chans := rfl
@[simp] theorem State.setQuern_querns (g : GranChan) (p : Fin 16) (k : Quern) : (s.setQuern g p k).querns = tabSet (fun _ => {}) (quernKey g p) k s.querns := rfl
@[simp] theorem State.setQuern_admission (g : GranChan) (p : Fin 16) (k : Quern) : (s.setQuern g p k).admission = s.admission := rfl
@[simp] theorem State.setQuern_jobs (g : GranChan) (p : Fin 16) (k : Quern) : (s.setQuern g p k).jobs = s.jobs := rfl
@[simp] theorem State.setQuern_cores (g : GranChan) (p : Fin 16) (k : Quern) : (s.setQuern g p k).cores = s.cores := rfl
@[simp] theorem State.setQuern_pegs (g : GranChan) (p : Fin 16) (k : Quern) : (s.setQuern g p k).pegs = s.pegs := rfl
@[simp] theorem State.setQuern_tallies (g : GranChan) (p : Fin 16) (k : Quern) : (s.setQuern g p k).tallies = s.tallies := rfl
@[simp] theorem State.setQuern_bells (g : GranChan) (p : Fin 16) (k : Quern) : (s.setQuern g p k).bells = s.bells := rfl
@[simp] theorem State.setQuern_syncTables (g : GranChan) (p : Fin 16) (k : Quern) : (s.setQuern g p k).syncTables = s.syncTables := rfl
@[simp] theorem State.setQuern_saved (g : GranChan) (p : Fin 16) (k : Quern) : (s.setQuern g p k).saved = s.saved := rfl
@[simp] theorem State.setQuern_launches (g : GranChan) (p : Fin 16) (k : Quern) : (s.setQuern g p k).launches = s.launches := rfl
@[simp] theorem State.setQuern_launchOrder (g : GranChan) (p : Fin 16) (k : Quern) : (s.setQuern g p k).launchOrder = s.launchOrder := rfl
@[simp] theorem State.setQuern_loadQueue (g : GranChan) (p : Fin 16) (k : Quern) : (s.setQuern g p k).loadQueue = s.loadQueue := rfl
@[simp] theorem State.setQuern_loadJob (g : GranChan) (p : Fin 16) (k : Quern) : (s.setQuern g p k).loadJob = s.loadJob := rfl
@[simp] theorem State.setQuern_parts (g : GranChan) (p : Fin 16) (k : Quern) : (s.setQuern g p k).parts = s.parts := rfl
@[simp] theorem State.setQuern_rings (g : GranChan) (p : Fin 16) (k : Quern) : (s.setQuern g p k).rings = s.rings := rfl
@[simp] theorem State.setQuern_summary (g : GranChan) (p : Fin 16) (k : Quern) : (s.setQuern g p k).summary = s.summary := rfl
@[simp] theorem State.setQuern_pollNo (g : GranChan) (p : Fin 16) (k : Quern) : (s.setQuern g p k).pollNo = s.pollNo := rfl
@[simp] theorem State.setQuern_grantPos (g : GranChan) (p : Fin 16) (k : Quern) : (s.setQuern g p k).grantPos = s.grantPos := rfl
@[simp] theorem State.setQuern_grantRing (g : GranChan) (p : Fin 16) (k : Quern) : (s.setQuern g p k).grantRing = s.grantRing := rfl
@[simp] theorem State.setQuern_grantOwed (g : GranChan) (p : Fin 16) (k : Quern) : (s.setQuern g p k).grantOwed = s.grantOwed := rfl
@[simp] theorem State.setQuern_cartPos (g : GranChan) (p : Fin 16) (k : Quern) : (s.setQuern g p k).cartPos = s.cartPos := rfl
@[simp] theorem State.setQuern_cartRing (g : GranChan) (p : Fin 16) (k : Quern) : (s.setQuern g p k).cartRing = s.cartRing := rfl
@[simp] theorem State.setQuern_hostTlb (g : GranChan) (p : Fin 16) (k : Quern) : (s.setQuern g p k).hostTlb = s.hostTlb := rfl
@[simp] theorem State.setQuern_hostCarts (g : GranChan) (p : Fin 16) (k : Quern) : (s.setQuern g p k).hostCarts = s.hostCarts := rfl
@[simp] theorem State.setQuern_hostReads (g : GranChan) (p : Fin 16) (k : Quern) : (s.setQuern g p k).hostReads = s.hostReads := rfl
@[simp] theorem State.setQuern_hostLines (g : GranChan) (p : Fin 16) (k : Quern) : (s.setQuern g p k).hostLines = s.hostLines := rfl
@[simp] theorem State.setQuern_heldOut (g : GranChan) (p : Fin 16) (k : Quern) : (s.setQuern g p k).heldOut = s.heldOut := rfl
@[simp] theorem State.setQuern_ingress (g : GranChan) (p : Fin 16) (k : Quern) : (s.setQuern g p k).ingress = s.ingress := rfl
@[simp] theorem State.setQuern_ingressWaits (g : GranChan) (p : Fin 16) (k : Quern) : (s.setQuern g p k).ingressWaits = s.ingressWaits := rfl
@[simp] theorem State.setQuern_links (g : GranChan) (p : Fin 16) (k : Quern) : (s.setQuern g p k).links = s.links := rfl
@[simp] theorem State.setQuern_fabric (g : GranChan) (p : Fin 16) (k : Quern) : (s.setQuern g p k).fabric = s.fabric := rfl
@[simp] theorem State.setQuern_twin (g : GranChan) (p : Fin 16) (k : Quern) : (s.setQuern g p k).twin = s.twin := rfl
@[simp] theorem State.setQuern_boot (g : GranChan) (p : Fin 16) (k : Quern) : (s.setQuern g p k).boot = s.boot := rfl
@[simp] theorem State.setQuern_i3c (g : GranChan) (p : Fin 16) (k : Quern) : (s.setQuern g p k).i3c = s.i3c := rfl
@[simp] theorem State.setQuern_faultLog (g : GranChan) (p : Fin 16) (k : Quern) : (s.setQuern g p k).faultLog = s.faultLog := rfl
@[simp] theorem State.setQuern_moduleLog (g : GranChan) (p : Fin 16) (k : Quern) : (s.setQuern g p k).moduleLog = s.moduleLog := rfl
@[simp] theorem State.setQuern_channelLog (g : GranChan) (p : Fin 16) (k : Quern) : (s.setQuern g p k).channelLog = s.channelLog := rfl
@[simp] theorem State.setQuern_trace (g : GranChan) (p : Fin 16) (k : Quern) : (s.setQuern g p k).trace = s.trace := rfl

@[simp] theorem State.setPeg_pending (n : Nat) (k : Peg) : (s.setPeg n k).pending = s.pending := rfl
@[simp] theorem State.setPeg_outbox (n : Nat) (k : Peg) : (s.setPeg n k).outbox = s.outbox := rfl
@[simp] theorem State.setPeg_freeIdx (n : Nat) (k : Peg) : (s.setPeg n k).freeIdx = s.freeIdx := rfl
@[simp] theorem State.setPeg_nextId (n : Nat) (k : Peg) : (s.setPeg n k).nextId = s.nextId := rfl
@[simp] theorem State.setPeg_cycles (n : Nat) (k : Peg) : (s.setPeg n k).cycles = s.cycles := rfl
@[simp] theorem State.setPeg_power (n : Nat) (k : Peg) : (s.setPeg n k).power = s.power := rfl
@[simp] theorem State.setPeg_failed (n : Nat) (k : Peg) : (s.setPeg n k).failed = s.failed := rfl
@[simp] theorem State.setPeg_regs (n : Nat) (k : Peg) : (s.setPeg n k).regs = s.regs := rfl
@[simp] theorem State.setPeg_tables (n : Nat) (k : Peg) : (s.setPeg n k).tables = s.tables := rfl
@[simp] theorem State.setPeg_flushed (n : Nat) (k : Peg) : (s.setPeg n k).flushed = s.flushed := rfl
@[simp] theorem State.setPeg_writers (n : Nat) (k : Peg) : (s.setPeg n k).writers = s.writers := rfl
@[simp] theorem State.setPeg_flushCount (n : Nat) (k : Peg) : (s.setPeg n k).flushCount = s.flushCount := rfl
@[simp] theorem State.setPeg_flushWaits (n : Nat) (k : Peg) : (s.setPeg n k).flushWaits = s.flushWaits := rfl
@[simp] theorem State.setPeg_bar2Gib (n : Nat) (k : Peg) : (s.setPeg n k).bar2Gib = s.bar2Gib := rfl
@[simp] theorem State.setPeg_dropLogged (n : Nat) (k : Peg) : (s.setPeg n k).dropLogged = s.dropLogged := rfl
@[simp] theorem State.setPeg_mem (n : Nat) (k : Peg) : (s.setPeg n k).mem = s.mem := rfl
@[simp] theorem State.setPeg_lineErr (n : Nat) (k : Peg) : (s.setPeg n k).lineErr = s.lineErr := rfl
@[simp] theorem State.setPeg_inFlight (n : Nat) (k : Peg) : (s.setPeg n k).inFlight = s.inFlight := rfl
@[simp] theorem State.setPeg_responses (n : Nat) (k : Peg) : (s.setPeg n k).responses = s.responses := rfl
@[simp] theorem State.setPeg_serving (n : Nat) (k : Peg) : (s.setPeg n k).serving = s.serving := rfl
@[simp] theorem State.setPeg_stalls (n : Nat) (k : Peg) : (s.setPeg n k).stalls = s.stalls := rfl
@[simp] theorem State.setPeg_loaderLines (n : Nat) (k : Peg) : (s.setPeg n k).loaderLines = s.loaderLines := rfl
@[simp] theorem State.setPeg_chans (n : Nat) (k : Peg) : (s.setPeg n k).chans = s.chans := rfl
@[simp] theorem State.setPeg_querns (n : Nat) (k : Peg) : (s.setPeg n k).querns = s.querns := rfl
@[simp] theorem State.setPeg_admission (n : Nat) (k : Peg) : (s.setPeg n k).admission = s.admission := rfl
@[simp] theorem State.setPeg_jobs (n : Nat) (k : Peg) : (s.setPeg n k).jobs = s.jobs := rfl
@[simp] theorem State.setPeg_cores (n : Nat) (k : Peg) : (s.setPeg n k).cores = s.cores := rfl
@[simp] theorem State.setPeg_pegs (n : Nat) (k : Peg) : (s.setPeg n k).pegs = tabSet (fun _ => {}) n k s.pegs := rfl
@[simp] theorem State.setPeg_tallies (n : Nat) (k : Peg) : (s.setPeg n k).tallies = s.tallies := rfl
@[simp] theorem State.setPeg_bells (n : Nat) (k : Peg) : (s.setPeg n k).bells = s.bells := rfl
@[simp] theorem State.setPeg_syncTables (n : Nat) (k : Peg) : (s.setPeg n k).syncTables = s.syncTables := rfl
@[simp] theorem State.setPeg_saved (n : Nat) (k : Peg) : (s.setPeg n k).saved = s.saved := rfl
@[simp] theorem State.setPeg_launches (n : Nat) (k : Peg) : (s.setPeg n k).launches = s.launches := rfl
@[simp] theorem State.setPeg_launchOrder (n : Nat) (k : Peg) : (s.setPeg n k).launchOrder = s.launchOrder := rfl
@[simp] theorem State.setPeg_loadQueue (n : Nat) (k : Peg) : (s.setPeg n k).loadQueue = s.loadQueue := rfl
@[simp] theorem State.setPeg_loadJob (n : Nat) (k : Peg) : (s.setPeg n k).loadJob = s.loadJob := rfl
@[simp] theorem State.setPeg_parts (n : Nat) (k : Peg) : (s.setPeg n k).parts = s.parts := rfl
@[simp] theorem State.setPeg_rings (n : Nat) (k : Peg) : (s.setPeg n k).rings = s.rings := rfl
@[simp] theorem State.setPeg_summary (n : Nat) (k : Peg) : (s.setPeg n k).summary = s.summary := rfl
@[simp] theorem State.setPeg_pollNo (n : Nat) (k : Peg) : (s.setPeg n k).pollNo = s.pollNo := rfl
@[simp] theorem State.setPeg_grantPos (n : Nat) (k : Peg) : (s.setPeg n k).grantPos = s.grantPos := rfl
@[simp] theorem State.setPeg_grantRing (n : Nat) (k : Peg) : (s.setPeg n k).grantRing = s.grantRing := rfl
@[simp] theorem State.setPeg_grantOwed (n : Nat) (k : Peg) : (s.setPeg n k).grantOwed = s.grantOwed := rfl
@[simp] theorem State.setPeg_cartPos (n : Nat) (k : Peg) : (s.setPeg n k).cartPos = s.cartPos := rfl
@[simp] theorem State.setPeg_cartRing (n : Nat) (k : Peg) : (s.setPeg n k).cartRing = s.cartRing := rfl
@[simp] theorem State.setPeg_hostTlb (n : Nat) (k : Peg) : (s.setPeg n k).hostTlb = s.hostTlb := rfl
@[simp] theorem State.setPeg_hostCarts (n : Nat) (k : Peg) : (s.setPeg n k).hostCarts = s.hostCarts := rfl
@[simp] theorem State.setPeg_hostReads (n : Nat) (k : Peg) : (s.setPeg n k).hostReads = s.hostReads := rfl
@[simp] theorem State.setPeg_hostLines (n : Nat) (k : Peg) : (s.setPeg n k).hostLines = s.hostLines := rfl
@[simp] theorem State.setPeg_heldOut (n : Nat) (k : Peg) : (s.setPeg n k).heldOut = s.heldOut := rfl
@[simp] theorem State.setPeg_ingress (n : Nat) (k : Peg) : (s.setPeg n k).ingress = s.ingress := rfl
@[simp] theorem State.setPeg_ingressWaits (n : Nat) (k : Peg) : (s.setPeg n k).ingressWaits = s.ingressWaits := rfl
@[simp] theorem State.setPeg_links (n : Nat) (k : Peg) : (s.setPeg n k).links = s.links := rfl
@[simp] theorem State.setPeg_fabric (n : Nat) (k : Peg) : (s.setPeg n k).fabric = s.fabric := rfl
@[simp] theorem State.setPeg_twin (n : Nat) (k : Peg) : (s.setPeg n k).twin = s.twin := rfl
@[simp] theorem State.setPeg_boot (n : Nat) (k : Peg) : (s.setPeg n k).boot = s.boot := rfl
@[simp] theorem State.setPeg_i3c (n : Nat) (k : Peg) : (s.setPeg n k).i3c = s.i3c := rfl
@[simp] theorem State.setPeg_faultLog (n : Nat) (k : Peg) : (s.setPeg n k).faultLog = s.faultLog := rfl
@[simp] theorem State.setPeg_moduleLog (n : Nat) (k : Peg) : (s.setPeg n k).moduleLog = s.moduleLog := rfl
@[simp] theorem State.setPeg_channelLog (n : Nat) (k : Peg) : (s.setPeg n k).channelLog = s.channelLog := rfl
@[simp] theorem State.setPeg_trace (n : Nat) (k : Peg) : (s.setPeg n k).trace = s.trace := rfl

@[simp] theorem State.setTally_pending (n : Nat) (k : Tally) : (s.setTally n k).pending = s.pending := rfl
@[simp] theorem State.setTally_outbox (n : Nat) (k : Tally) : (s.setTally n k).outbox = s.outbox := rfl
@[simp] theorem State.setTally_freeIdx (n : Nat) (k : Tally) : (s.setTally n k).freeIdx = s.freeIdx := rfl
@[simp] theorem State.setTally_nextId (n : Nat) (k : Tally) : (s.setTally n k).nextId = s.nextId := rfl
@[simp] theorem State.setTally_cycles (n : Nat) (k : Tally) : (s.setTally n k).cycles = s.cycles := rfl
@[simp] theorem State.setTally_power (n : Nat) (k : Tally) : (s.setTally n k).power = s.power := rfl
@[simp] theorem State.setTally_failed (n : Nat) (k : Tally) : (s.setTally n k).failed = s.failed := rfl
@[simp] theorem State.setTally_regs (n : Nat) (k : Tally) : (s.setTally n k).regs = s.regs := rfl
@[simp] theorem State.setTally_tables (n : Nat) (k : Tally) : (s.setTally n k).tables = s.tables := rfl
@[simp] theorem State.setTally_flushed (n : Nat) (k : Tally) : (s.setTally n k).flushed = s.flushed := rfl
@[simp] theorem State.setTally_writers (n : Nat) (k : Tally) : (s.setTally n k).writers = s.writers := rfl
@[simp] theorem State.setTally_flushCount (n : Nat) (k : Tally) : (s.setTally n k).flushCount = s.flushCount := rfl
@[simp] theorem State.setTally_flushWaits (n : Nat) (k : Tally) : (s.setTally n k).flushWaits = s.flushWaits := rfl
@[simp] theorem State.setTally_bar2Gib (n : Nat) (k : Tally) : (s.setTally n k).bar2Gib = s.bar2Gib := rfl
@[simp] theorem State.setTally_dropLogged (n : Nat) (k : Tally) : (s.setTally n k).dropLogged = s.dropLogged := rfl
@[simp] theorem State.setTally_mem (n : Nat) (k : Tally) : (s.setTally n k).mem = s.mem := rfl
@[simp] theorem State.setTally_lineErr (n : Nat) (k : Tally) : (s.setTally n k).lineErr = s.lineErr := rfl
@[simp] theorem State.setTally_inFlight (n : Nat) (k : Tally) : (s.setTally n k).inFlight = s.inFlight := rfl
@[simp] theorem State.setTally_responses (n : Nat) (k : Tally) : (s.setTally n k).responses = s.responses := rfl
@[simp] theorem State.setTally_serving (n : Nat) (k : Tally) : (s.setTally n k).serving = s.serving := rfl
@[simp] theorem State.setTally_stalls (n : Nat) (k : Tally) : (s.setTally n k).stalls = s.stalls := rfl
@[simp] theorem State.setTally_loaderLines (n : Nat) (k : Tally) : (s.setTally n k).loaderLines = s.loaderLines := rfl
@[simp] theorem State.setTally_chans (n : Nat) (k : Tally) : (s.setTally n k).chans = s.chans := rfl
@[simp] theorem State.setTally_querns (n : Nat) (k : Tally) : (s.setTally n k).querns = s.querns := rfl
@[simp] theorem State.setTally_admission (n : Nat) (k : Tally) : (s.setTally n k).admission = s.admission := rfl
@[simp] theorem State.setTally_jobs (n : Nat) (k : Tally) : (s.setTally n k).jobs = s.jobs := rfl
@[simp] theorem State.setTally_cores (n : Nat) (k : Tally) : (s.setTally n k).cores = s.cores := rfl
@[simp] theorem State.setTally_pegs (n : Nat) (k : Tally) : (s.setTally n k).pegs = s.pegs := rfl
@[simp] theorem State.setTally_tallies (n : Nat) (k : Tally) : (s.setTally n k).tallies = tabSet (fun _ => {}) n k s.tallies := rfl
@[simp] theorem State.setTally_bells (n : Nat) (k : Tally) : (s.setTally n k).bells = s.bells := rfl
@[simp] theorem State.setTally_syncTables (n : Nat) (k : Tally) : (s.setTally n k).syncTables = s.syncTables := rfl
@[simp] theorem State.setTally_saved (n : Nat) (k : Tally) : (s.setTally n k).saved = s.saved := rfl
@[simp] theorem State.setTally_launches (n : Nat) (k : Tally) : (s.setTally n k).launches = s.launches := rfl
@[simp] theorem State.setTally_launchOrder (n : Nat) (k : Tally) : (s.setTally n k).launchOrder = s.launchOrder := rfl
@[simp] theorem State.setTally_loadQueue (n : Nat) (k : Tally) : (s.setTally n k).loadQueue = s.loadQueue := rfl
@[simp] theorem State.setTally_loadJob (n : Nat) (k : Tally) : (s.setTally n k).loadJob = s.loadJob := rfl
@[simp] theorem State.setTally_parts (n : Nat) (k : Tally) : (s.setTally n k).parts = s.parts := rfl
@[simp] theorem State.setTally_rings (n : Nat) (k : Tally) : (s.setTally n k).rings = s.rings := rfl
@[simp] theorem State.setTally_summary (n : Nat) (k : Tally) : (s.setTally n k).summary = s.summary := rfl
@[simp] theorem State.setTally_pollNo (n : Nat) (k : Tally) : (s.setTally n k).pollNo = s.pollNo := rfl
@[simp] theorem State.setTally_grantPos (n : Nat) (k : Tally) : (s.setTally n k).grantPos = s.grantPos := rfl
@[simp] theorem State.setTally_grantRing (n : Nat) (k : Tally) : (s.setTally n k).grantRing = s.grantRing := rfl
@[simp] theorem State.setTally_grantOwed (n : Nat) (k : Tally) : (s.setTally n k).grantOwed = s.grantOwed := rfl
@[simp] theorem State.setTally_cartPos (n : Nat) (k : Tally) : (s.setTally n k).cartPos = s.cartPos := rfl
@[simp] theorem State.setTally_cartRing (n : Nat) (k : Tally) : (s.setTally n k).cartRing = s.cartRing := rfl
@[simp] theorem State.setTally_hostTlb (n : Nat) (k : Tally) : (s.setTally n k).hostTlb = s.hostTlb := rfl
@[simp] theorem State.setTally_hostCarts (n : Nat) (k : Tally) : (s.setTally n k).hostCarts = s.hostCarts := rfl
@[simp] theorem State.setTally_hostReads (n : Nat) (k : Tally) : (s.setTally n k).hostReads = s.hostReads := rfl
@[simp] theorem State.setTally_hostLines (n : Nat) (k : Tally) : (s.setTally n k).hostLines = s.hostLines := rfl
@[simp] theorem State.setTally_heldOut (n : Nat) (k : Tally) : (s.setTally n k).heldOut = s.heldOut := rfl
@[simp] theorem State.setTally_ingress (n : Nat) (k : Tally) : (s.setTally n k).ingress = s.ingress := rfl
@[simp] theorem State.setTally_ingressWaits (n : Nat) (k : Tally) : (s.setTally n k).ingressWaits = s.ingressWaits := rfl
@[simp] theorem State.setTally_links (n : Nat) (k : Tally) : (s.setTally n k).links = s.links := rfl
@[simp] theorem State.setTally_fabric (n : Nat) (k : Tally) : (s.setTally n k).fabric = s.fabric := rfl
@[simp] theorem State.setTally_twin (n : Nat) (k : Tally) : (s.setTally n k).twin = s.twin := rfl
@[simp] theorem State.setTally_boot (n : Nat) (k : Tally) : (s.setTally n k).boot = s.boot := rfl
@[simp] theorem State.setTally_i3c (n : Nat) (k : Tally) : (s.setTally n k).i3c = s.i3c := rfl
@[simp] theorem State.setTally_faultLog (n : Nat) (k : Tally) : (s.setTally n k).faultLog = s.faultLog := rfl
@[simp] theorem State.setTally_moduleLog (n : Nat) (k : Tally) : (s.setTally n k).moduleLog = s.moduleLog := rfl
@[simp] theorem State.setTally_channelLog (n : Nat) (k : Tally) : (s.setTally n k).channelLog = s.channelLog := rfl
@[simp] theorem State.setTally_trace (n : Nat) (k : Tally) : (s.setTally n k).trace = s.trace := rfl

@[simp] theorem State.setBell_pending (n : Nat) (k : Bell) : (s.setBell n k).pending = s.pending := rfl
@[simp] theorem State.setBell_outbox (n : Nat) (k : Bell) : (s.setBell n k).outbox = s.outbox := rfl
@[simp] theorem State.setBell_freeIdx (n : Nat) (k : Bell) : (s.setBell n k).freeIdx = s.freeIdx := rfl
@[simp] theorem State.setBell_nextId (n : Nat) (k : Bell) : (s.setBell n k).nextId = s.nextId := rfl
@[simp] theorem State.setBell_cycles (n : Nat) (k : Bell) : (s.setBell n k).cycles = s.cycles := rfl
@[simp] theorem State.setBell_power (n : Nat) (k : Bell) : (s.setBell n k).power = s.power := rfl
@[simp] theorem State.setBell_failed (n : Nat) (k : Bell) : (s.setBell n k).failed = s.failed := rfl
@[simp] theorem State.setBell_regs (n : Nat) (k : Bell) : (s.setBell n k).regs = s.regs := rfl
@[simp] theorem State.setBell_tables (n : Nat) (k : Bell) : (s.setBell n k).tables = s.tables := rfl
@[simp] theorem State.setBell_flushed (n : Nat) (k : Bell) : (s.setBell n k).flushed = s.flushed := rfl
@[simp] theorem State.setBell_writers (n : Nat) (k : Bell) : (s.setBell n k).writers = s.writers := rfl
@[simp] theorem State.setBell_flushCount (n : Nat) (k : Bell) : (s.setBell n k).flushCount = s.flushCount := rfl
@[simp] theorem State.setBell_flushWaits (n : Nat) (k : Bell) : (s.setBell n k).flushWaits = s.flushWaits := rfl
@[simp] theorem State.setBell_bar2Gib (n : Nat) (k : Bell) : (s.setBell n k).bar2Gib = s.bar2Gib := rfl
@[simp] theorem State.setBell_dropLogged (n : Nat) (k : Bell) : (s.setBell n k).dropLogged = s.dropLogged := rfl
@[simp] theorem State.setBell_mem (n : Nat) (k : Bell) : (s.setBell n k).mem = s.mem := rfl
@[simp] theorem State.setBell_lineErr (n : Nat) (k : Bell) : (s.setBell n k).lineErr = s.lineErr := rfl
@[simp] theorem State.setBell_inFlight (n : Nat) (k : Bell) : (s.setBell n k).inFlight = s.inFlight := rfl
@[simp] theorem State.setBell_responses (n : Nat) (k : Bell) : (s.setBell n k).responses = s.responses := rfl
@[simp] theorem State.setBell_serving (n : Nat) (k : Bell) : (s.setBell n k).serving = s.serving := rfl
@[simp] theorem State.setBell_stalls (n : Nat) (k : Bell) : (s.setBell n k).stalls = s.stalls := rfl
@[simp] theorem State.setBell_loaderLines (n : Nat) (k : Bell) : (s.setBell n k).loaderLines = s.loaderLines := rfl
@[simp] theorem State.setBell_chans (n : Nat) (k : Bell) : (s.setBell n k).chans = s.chans := rfl
@[simp] theorem State.setBell_querns (n : Nat) (k : Bell) : (s.setBell n k).querns = s.querns := rfl
@[simp] theorem State.setBell_admission (n : Nat) (k : Bell) : (s.setBell n k).admission = s.admission := rfl
@[simp] theorem State.setBell_jobs (n : Nat) (k : Bell) : (s.setBell n k).jobs = s.jobs := rfl
@[simp] theorem State.setBell_cores (n : Nat) (k : Bell) : (s.setBell n k).cores = s.cores := rfl
@[simp] theorem State.setBell_pegs (n : Nat) (k : Bell) : (s.setBell n k).pegs = s.pegs := rfl
@[simp] theorem State.setBell_tallies (n : Nat) (k : Bell) : (s.setBell n k).tallies = s.tallies := rfl
@[simp] theorem State.setBell_bells (n : Nat) (k : Bell) : (s.setBell n k).bells = tabSet (fun _ => {}) n k s.bells := rfl
@[simp] theorem State.setBell_syncTables (n : Nat) (k : Bell) : (s.setBell n k).syncTables = s.syncTables := rfl
@[simp] theorem State.setBell_saved (n : Nat) (k : Bell) : (s.setBell n k).saved = s.saved := rfl
@[simp] theorem State.setBell_launches (n : Nat) (k : Bell) : (s.setBell n k).launches = s.launches := rfl
@[simp] theorem State.setBell_launchOrder (n : Nat) (k : Bell) : (s.setBell n k).launchOrder = s.launchOrder := rfl
@[simp] theorem State.setBell_loadQueue (n : Nat) (k : Bell) : (s.setBell n k).loadQueue = s.loadQueue := rfl
@[simp] theorem State.setBell_loadJob (n : Nat) (k : Bell) : (s.setBell n k).loadJob = s.loadJob := rfl
@[simp] theorem State.setBell_parts (n : Nat) (k : Bell) : (s.setBell n k).parts = s.parts := rfl
@[simp] theorem State.setBell_rings (n : Nat) (k : Bell) : (s.setBell n k).rings = s.rings := rfl
@[simp] theorem State.setBell_summary (n : Nat) (k : Bell) : (s.setBell n k).summary = s.summary := rfl
@[simp] theorem State.setBell_pollNo (n : Nat) (k : Bell) : (s.setBell n k).pollNo = s.pollNo := rfl
@[simp] theorem State.setBell_grantPos (n : Nat) (k : Bell) : (s.setBell n k).grantPos = s.grantPos := rfl
@[simp] theorem State.setBell_grantRing (n : Nat) (k : Bell) : (s.setBell n k).grantRing = s.grantRing := rfl
@[simp] theorem State.setBell_grantOwed (n : Nat) (k : Bell) : (s.setBell n k).grantOwed = s.grantOwed := rfl
@[simp] theorem State.setBell_cartPos (n : Nat) (k : Bell) : (s.setBell n k).cartPos = s.cartPos := rfl
@[simp] theorem State.setBell_cartRing (n : Nat) (k : Bell) : (s.setBell n k).cartRing = s.cartRing := rfl
@[simp] theorem State.setBell_hostTlb (n : Nat) (k : Bell) : (s.setBell n k).hostTlb = s.hostTlb := rfl
@[simp] theorem State.setBell_hostCarts (n : Nat) (k : Bell) : (s.setBell n k).hostCarts = s.hostCarts := rfl
@[simp] theorem State.setBell_hostReads (n : Nat) (k : Bell) : (s.setBell n k).hostReads = s.hostReads := rfl
@[simp] theorem State.setBell_hostLines (n : Nat) (k : Bell) : (s.setBell n k).hostLines = s.hostLines := rfl
@[simp] theorem State.setBell_heldOut (n : Nat) (k : Bell) : (s.setBell n k).heldOut = s.heldOut := rfl
@[simp] theorem State.setBell_ingress (n : Nat) (k : Bell) : (s.setBell n k).ingress = s.ingress := rfl
@[simp] theorem State.setBell_ingressWaits (n : Nat) (k : Bell) : (s.setBell n k).ingressWaits = s.ingressWaits := rfl
@[simp] theorem State.setBell_links (n : Nat) (k : Bell) : (s.setBell n k).links = s.links := rfl
@[simp] theorem State.setBell_fabric (n : Nat) (k : Bell) : (s.setBell n k).fabric = s.fabric := rfl
@[simp] theorem State.setBell_twin (n : Nat) (k : Bell) : (s.setBell n k).twin = s.twin := rfl
@[simp] theorem State.setBell_boot (n : Nat) (k : Bell) : (s.setBell n k).boot = s.boot := rfl
@[simp] theorem State.setBell_i3c (n : Nat) (k : Bell) : (s.setBell n k).i3c = s.i3c := rfl
@[simp] theorem State.setBell_faultLog (n : Nat) (k : Bell) : (s.setBell n k).faultLog = s.faultLog := rfl
@[simp] theorem State.setBell_moduleLog (n : Nat) (k : Bell) : (s.setBell n k).moduleLog = s.moduleLog := rfl
@[simp] theorem State.setBell_channelLog (n : Nat) (k : Bell) : (s.setBell n k).channelLog = s.channelLog := rfl
@[simp] theorem State.setBell_trace (n : Nat) (k : Bell) : (s.setBell n k).trace = s.trace := rfl

@[simp] theorem State.send_pending (o : Out) : (s.send o).pending = s.pending := rfl
@[simp] theorem State.send_outbox (o : Out) : (s.send o).outbox = s.outbox ++ [o] := rfl
@[simp] theorem State.send_freeIdx (o : Out) : (s.send o).freeIdx = s.freeIdx := rfl
@[simp] theorem State.send_nextId (o : Out) : (s.send o).nextId = s.nextId := rfl
@[simp] theorem State.send_cycles (o : Out) : (s.send o).cycles = s.cycles := rfl
@[simp] theorem State.send_power (o : Out) : (s.send o).power = s.power := rfl
@[simp] theorem State.send_failed (o : Out) : (s.send o).failed = s.failed := rfl
@[simp] theorem State.send_regs (o : Out) : (s.send o).regs = s.regs := rfl
@[simp] theorem State.send_tables (o : Out) : (s.send o).tables = s.tables := rfl
@[simp] theorem State.send_flushed (o : Out) : (s.send o).flushed = s.flushed := rfl
@[simp] theorem State.send_writers (o : Out) : (s.send o).writers = s.writers := rfl
@[simp] theorem State.send_flushCount (o : Out) : (s.send o).flushCount = s.flushCount := rfl
@[simp] theorem State.send_flushWaits (o : Out) : (s.send o).flushWaits = s.flushWaits := rfl
@[simp] theorem State.send_bar2Gib (o : Out) : (s.send o).bar2Gib = s.bar2Gib := rfl
@[simp] theorem State.send_dropLogged (o : Out) : (s.send o).dropLogged = s.dropLogged := rfl
@[simp] theorem State.send_mem (o : Out) : (s.send o).mem = s.mem := rfl
@[simp] theorem State.send_lineErr (o : Out) : (s.send o).lineErr = s.lineErr := rfl
@[simp] theorem State.send_inFlight (o : Out) : (s.send o).inFlight = s.inFlight := rfl
@[simp] theorem State.send_responses (o : Out) : (s.send o).responses = s.responses := rfl
@[simp] theorem State.send_serving (o : Out) : (s.send o).serving = s.serving := rfl
@[simp] theorem State.send_stalls (o : Out) : (s.send o).stalls = s.stalls := rfl
@[simp] theorem State.send_loaderLines (o : Out) : (s.send o).loaderLines = s.loaderLines := rfl
@[simp] theorem State.send_chans (o : Out) : (s.send o).chans = s.chans := rfl
@[simp] theorem State.send_querns (o : Out) : (s.send o).querns = s.querns := rfl
@[simp] theorem State.send_admission (o : Out) : (s.send o).admission = s.admission := rfl
@[simp] theorem State.send_jobs (o : Out) : (s.send o).jobs = s.jobs := rfl
@[simp] theorem State.send_cores (o : Out) : (s.send o).cores = s.cores := rfl
@[simp] theorem State.send_pegs (o : Out) : (s.send o).pegs = s.pegs := rfl
@[simp] theorem State.send_tallies (o : Out) : (s.send o).tallies = s.tallies := rfl
@[simp] theorem State.send_bells (o : Out) : (s.send o).bells = s.bells := rfl
@[simp] theorem State.send_syncTables (o : Out) : (s.send o).syncTables = s.syncTables := rfl
@[simp] theorem State.send_saved (o : Out) : (s.send o).saved = s.saved := rfl
@[simp] theorem State.send_launches (o : Out) : (s.send o).launches = s.launches := rfl
@[simp] theorem State.send_launchOrder (o : Out) : (s.send o).launchOrder = s.launchOrder := rfl
@[simp] theorem State.send_loadQueue (o : Out) : (s.send o).loadQueue = s.loadQueue := rfl
@[simp] theorem State.send_loadJob (o : Out) : (s.send o).loadJob = s.loadJob := rfl
@[simp] theorem State.send_parts (o : Out) : (s.send o).parts = s.parts := rfl
@[simp] theorem State.send_rings (o : Out) : (s.send o).rings = s.rings := rfl
@[simp] theorem State.send_summary (o : Out) : (s.send o).summary = s.summary := rfl
@[simp] theorem State.send_pollNo (o : Out) : (s.send o).pollNo = s.pollNo := rfl
@[simp] theorem State.send_grantPos (o : Out) : (s.send o).grantPos = s.grantPos := rfl
@[simp] theorem State.send_grantRing (o : Out) : (s.send o).grantRing = s.grantRing := rfl
@[simp] theorem State.send_grantOwed (o : Out) : (s.send o).grantOwed = s.grantOwed := rfl
@[simp] theorem State.send_cartPos (o : Out) : (s.send o).cartPos = s.cartPos := rfl
@[simp] theorem State.send_cartRing (o : Out) : (s.send o).cartRing = s.cartRing := rfl
@[simp] theorem State.send_hostTlb (o : Out) : (s.send o).hostTlb = s.hostTlb := rfl
@[simp] theorem State.send_hostCarts (o : Out) : (s.send o).hostCarts = s.hostCarts := rfl
@[simp] theorem State.send_hostReads (o : Out) : (s.send o).hostReads = s.hostReads := rfl
@[simp] theorem State.send_hostLines (o : Out) : (s.send o).hostLines = s.hostLines := rfl
@[simp] theorem State.send_heldOut (o : Out) : (s.send o).heldOut = s.heldOut := rfl
@[simp] theorem State.send_ingress (o : Out) : (s.send o).ingress = s.ingress := rfl
@[simp] theorem State.send_ingressWaits (o : Out) : (s.send o).ingressWaits = s.ingressWaits := rfl
@[simp] theorem State.send_links (o : Out) : (s.send o).links = s.links := rfl
@[simp] theorem State.send_fabric (o : Out) : (s.send o).fabric = s.fabric := rfl
@[simp] theorem State.send_twin (o : Out) : (s.send o).twin = s.twin := rfl
@[simp] theorem State.send_boot (o : Out) : (s.send o).boot = s.boot := rfl
@[simp] theorem State.send_i3c (o : Out) : (s.send o).i3c = s.i3c := rfl
@[simp] theorem State.send_faultLog (o : Out) : (s.send o).faultLog = s.faultLog := rfl
@[simp] theorem State.send_moduleLog (o : Out) : (s.send o).moduleLog = s.moduleLog := rfl
@[simp] theorem State.send_channelLog (o : Out) : (s.send o).channelLog = s.channelLog := rfl
@[simp] theorem State.send_trace (o : Out) : (s.send o).trace = s.trace := rfl

@[simp] theorem State.modPower_pending (f : Power → Power) : (s.modPower f).pending = s.pending := rfl
@[simp] theorem State.modPower_outbox (f : Power → Power) : (s.modPower f).outbox = s.outbox := rfl
@[simp] theorem State.modPower_freeIdx (f : Power → Power) : (s.modPower f).freeIdx = s.freeIdx := rfl
@[simp] theorem State.modPower_nextId (f : Power → Power) : (s.modPower f).nextId = s.nextId := rfl
@[simp] theorem State.modPower_cycles (f : Power → Power) : (s.modPower f).cycles = s.cycles := rfl
@[simp] theorem State.modPower_power (f : Power → Power) : (s.modPower f).power = f s.power := rfl
@[simp] theorem State.modPower_failed (f : Power → Power) : (s.modPower f).failed = s.failed := rfl
@[simp] theorem State.modPower_regs (f : Power → Power) : (s.modPower f).regs = s.regs := rfl
@[simp] theorem State.modPower_tables (f : Power → Power) : (s.modPower f).tables = s.tables := rfl
@[simp] theorem State.modPower_flushed (f : Power → Power) : (s.modPower f).flushed = s.flushed := rfl
@[simp] theorem State.modPower_writers (f : Power → Power) : (s.modPower f).writers = s.writers := rfl
@[simp] theorem State.modPower_flushCount (f : Power → Power) : (s.modPower f).flushCount = s.flushCount := rfl
@[simp] theorem State.modPower_flushWaits (f : Power → Power) : (s.modPower f).flushWaits = s.flushWaits := rfl
@[simp] theorem State.modPower_bar2Gib (f : Power → Power) : (s.modPower f).bar2Gib = s.bar2Gib := rfl
@[simp] theorem State.modPower_dropLogged (f : Power → Power) : (s.modPower f).dropLogged = s.dropLogged := rfl
@[simp] theorem State.modPower_mem (f : Power → Power) : (s.modPower f).mem = s.mem := rfl
@[simp] theorem State.modPower_lineErr (f : Power → Power) : (s.modPower f).lineErr = s.lineErr := rfl
@[simp] theorem State.modPower_inFlight (f : Power → Power) : (s.modPower f).inFlight = s.inFlight := rfl
@[simp] theorem State.modPower_responses (f : Power → Power) : (s.modPower f).responses = s.responses := rfl
@[simp] theorem State.modPower_serving (f : Power → Power) : (s.modPower f).serving = s.serving := rfl
@[simp] theorem State.modPower_stalls (f : Power → Power) : (s.modPower f).stalls = s.stalls := rfl
@[simp] theorem State.modPower_loaderLines (f : Power → Power) : (s.modPower f).loaderLines = s.loaderLines := rfl
@[simp] theorem State.modPower_chans (f : Power → Power) : (s.modPower f).chans = s.chans := rfl
@[simp] theorem State.modPower_querns (f : Power → Power) : (s.modPower f).querns = s.querns := rfl
@[simp] theorem State.modPower_admission (f : Power → Power) : (s.modPower f).admission = s.admission := rfl
@[simp] theorem State.modPower_jobs (f : Power → Power) : (s.modPower f).jobs = s.jobs := rfl
@[simp] theorem State.modPower_cores (f : Power → Power) : (s.modPower f).cores = s.cores := rfl
@[simp] theorem State.modPower_pegs (f : Power → Power) : (s.modPower f).pegs = s.pegs := rfl
@[simp] theorem State.modPower_tallies (f : Power → Power) : (s.modPower f).tallies = s.tallies := rfl
@[simp] theorem State.modPower_bells (f : Power → Power) : (s.modPower f).bells = s.bells := rfl
@[simp] theorem State.modPower_syncTables (f : Power → Power) : (s.modPower f).syncTables = s.syncTables := rfl
@[simp] theorem State.modPower_saved (f : Power → Power) : (s.modPower f).saved = s.saved := rfl
@[simp] theorem State.modPower_launches (f : Power → Power) : (s.modPower f).launches = s.launches := rfl
@[simp] theorem State.modPower_launchOrder (f : Power → Power) : (s.modPower f).launchOrder = s.launchOrder := rfl
@[simp] theorem State.modPower_loadQueue (f : Power → Power) : (s.modPower f).loadQueue = s.loadQueue := rfl
@[simp] theorem State.modPower_loadJob (f : Power → Power) : (s.modPower f).loadJob = s.loadJob := rfl
@[simp] theorem State.modPower_parts (f : Power → Power) : (s.modPower f).parts = s.parts := rfl
@[simp] theorem State.modPower_rings (f : Power → Power) : (s.modPower f).rings = s.rings := rfl
@[simp] theorem State.modPower_summary (f : Power → Power) : (s.modPower f).summary = s.summary := rfl
@[simp] theorem State.modPower_pollNo (f : Power → Power) : (s.modPower f).pollNo = s.pollNo := rfl
@[simp] theorem State.modPower_grantPos (f : Power → Power) : (s.modPower f).grantPos = s.grantPos := rfl
@[simp] theorem State.modPower_grantRing (f : Power → Power) : (s.modPower f).grantRing = s.grantRing := rfl
@[simp] theorem State.modPower_grantOwed (f : Power → Power) : (s.modPower f).grantOwed = s.grantOwed := rfl
@[simp] theorem State.modPower_cartPos (f : Power → Power) : (s.modPower f).cartPos = s.cartPos := rfl
@[simp] theorem State.modPower_cartRing (f : Power → Power) : (s.modPower f).cartRing = s.cartRing := rfl
@[simp] theorem State.modPower_hostTlb (f : Power → Power) : (s.modPower f).hostTlb = s.hostTlb := rfl
@[simp] theorem State.modPower_hostCarts (f : Power → Power) : (s.modPower f).hostCarts = s.hostCarts := rfl
@[simp] theorem State.modPower_hostReads (f : Power → Power) : (s.modPower f).hostReads = s.hostReads := rfl
@[simp] theorem State.modPower_hostLines (f : Power → Power) : (s.modPower f).hostLines = s.hostLines := rfl
@[simp] theorem State.modPower_heldOut (f : Power → Power) : (s.modPower f).heldOut = s.heldOut := rfl
@[simp] theorem State.modPower_ingress (f : Power → Power) : (s.modPower f).ingress = s.ingress := rfl
@[simp] theorem State.modPower_ingressWaits (f : Power → Power) : (s.modPower f).ingressWaits = s.ingressWaits := rfl
@[simp] theorem State.modPower_links (f : Power → Power) : (s.modPower f).links = s.links := rfl
@[simp] theorem State.modPower_fabric (f : Power → Power) : (s.modPower f).fabric = s.fabric := rfl
@[simp] theorem State.modPower_twin (f : Power → Power) : (s.modPower f).twin = s.twin := rfl
@[simp] theorem State.modPower_boot (f : Power → Power) : (s.modPower f).boot = s.boot := rfl
@[simp] theorem State.modPower_i3c (f : Power → Power) : (s.modPower f).i3c = s.i3c := rfl
@[simp] theorem State.modPower_faultLog (f : Power → Power) : (s.modPower f).faultLog = s.faultLog := rfl
@[simp] theorem State.modPower_moduleLog (f : Power → Power) : (s.modPower f).moduleLog = s.moduleLog := rfl
@[simp] theorem State.modPower_channelLog (f : Power → Power) : (s.modPower f).channelLog = s.channelLog := rfl
@[simp] theorem State.modPower_trace (f : Power → Power) : (s.modPower f).trace = s.trace := rfl

@[simp] theorem State.modI3c_pending (f : I3c → I3c) : (s.modI3c f).pending = s.pending := rfl
@[simp] theorem State.modI3c_outbox (f : I3c → I3c) : (s.modI3c f).outbox = s.outbox := rfl
@[simp] theorem State.modI3c_freeIdx (f : I3c → I3c) : (s.modI3c f).freeIdx = s.freeIdx := rfl
@[simp] theorem State.modI3c_nextId (f : I3c → I3c) : (s.modI3c f).nextId = s.nextId := rfl
@[simp] theorem State.modI3c_cycles (f : I3c → I3c) : (s.modI3c f).cycles = s.cycles := rfl
@[simp] theorem State.modI3c_power (f : I3c → I3c) : (s.modI3c f).power = s.power := rfl
@[simp] theorem State.modI3c_failed (f : I3c → I3c) : (s.modI3c f).failed = s.failed := rfl
@[simp] theorem State.modI3c_regs (f : I3c → I3c) : (s.modI3c f).regs = s.regs := rfl
@[simp] theorem State.modI3c_tables (f : I3c → I3c) : (s.modI3c f).tables = s.tables := rfl
@[simp] theorem State.modI3c_flushed (f : I3c → I3c) : (s.modI3c f).flushed = s.flushed := rfl
@[simp] theorem State.modI3c_writers (f : I3c → I3c) : (s.modI3c f).writers = s.writers := rfl
@[simp] theorem State.modI3c_flushCount (f : I3c → I3c) : (s.modI3c f).flushCount = s.flushCount := rfl
@[simp] theorem State.modI3c_flushWaits (f : I3c → I3c) : (s.modI3c f).flushWaits = s.flushWaits := rfl
@[simp] theorem State.modI3c_bar2Gib (f : I3c → I3c) : (s.modI3c f).bar2Gib = s.bar2Gib := rfl
@[simp] theorem State.modI3c_dropLogged (f : I3c → I3c) : (s.modI3c f).dropLogged = s.dropLogged := rfl
@[simp] theorem State.modI3c_mem (f : I3c → I3c) : (s.modI3c f).mem = s.mem := rfl
@[simp] theorem State.modI3c_lineErr (f : I3c → I3c) : (s.modI3c f).lineErr = s.lineErr := rfl
@[simp] theorem State.modI3c_inFlight (f : I3c → I3c) : (s.modI3c f).inFlight = s.inFlight := rfl
@[simp] theorem State.modI3c_responses (f : I3c → I3c) : (s.modI3c f).responses = s.responses := rfl
@[simp] theorem State.modI3c_serving (f : I3c → I3c) : (s.modI3c f).serving = s.serving := rfl
@[simp] theorem State.modI3c_stalls (f : I3c → I3c) : (s.modI3c f).stalls = s.stalls := rfl
@[simp] theorem State.modI3c_loaderLines (f : I3c → I3c) : (s.modI3c f).loaderLines = s.loaderLines := rfl
@[simp] theorem State.modI3c_chans (f : I3c → I3c) : (s.modI3c f).chans = s.chans := rfl
@[simp] theorem State.modI3c_querns (f : I3c → I3c) : (s.modI3c f).querns = s.querns := rfl
@[simp] theorem State.modI3c_admission (f : I3c → I3c) : (s.modI3c f).admission = s.admission := rfl
@[simp] theorem State.modI3c_jobs (f : I3c → I3c) : (s.modI3c f).jobs = s.jobs := rfl
@[simp] theorem State.modI3c_cores (f : I3c → I3c) : (s.modI3c f).cores = s.cores := rfl
@[simp] theorem State.modI3c_pegs (f : I3c → I3c) : (s.modI3c f).pegs = s.pegs := rfl
@[simp] theorem State.modI3c_tallies (f : I3c → I3c) : (s.modI3c f).tallies = s.tallies := rfl
@[simp] theorem State.modI3c_bells (f : I3c → I3c) : (s.modI3c f).bells = s.bells := rfl
@[simp] theorem State.modI3c_syncTables (f : I3c → I3c) : (s.modI3c f).syncTables = s.syncTables := rfl
@[simp] theorem State.modI3c_saved (f : I3c → I3c) : (s.modI3c f).saved = s.saved := rfl
@[simp] theorem State.modI3c_launches (f : I3c → I3c) : (s.modI3c f).launches = s.launches := rfl
@[simp] theorem State.modI3c_launchOrder (f : I3c → I3c) : (s.modI3c f).launchOrder = s.launchOrder := rfl
@[simp] theorem State.modI3c_loadQueue (f : I3c → I3c) : (s.modI3c f).loadQueue = s.loadQueue := rfl
@[simp] theorem State.modI3c_loadJob (f : I3c → I3c) : (s.modI3c f).loadJob = s.loadJob := rfl
@[simp] theorem State.modI3c_parts (f : I3c → I3c) : (s.modI3c f).parts = s.parts := rfl
@[simp] theorem State.modI3c_rings (f : I3c → I3c) : (s.modI3c f).rings = s.rings := rfl
@[simp] theorem State.modI3c_summary (f : I3c → I3c) : (s.modI3c f).summary = s.summary := rfl
@[simp] theorem State.modI3c_pollNo (f : I3c → I3c) : (s.modI3c f).pollNo = s.pollNo := rfl
@[simp] theorem State.modI3c_grantPos (f : I3c → I3c) : (s.modI3c f).grantPos = s.grantPos := rfl
@[simp] theorem State.modI3c_grantRing (f : I3c → I3c) : (s.modI3c f).grantRing = s.grantRing := rfl
@[simp] theorem State.modI3c_grantOwed (f : I3c → I3c) : (s.modI3c f).grantOwed = s.grantOwed := rfl
@[simp] theorem State.modI3c_cartPos (f : I3c → I3c) : (s.modI3c f).cartPos = s.cartPos := rfl
@[simp] theorem State.modI3c_cartRing (f : I3c → I3c) : (s.modI3c f).cartRing = s.cartRing := rfl
@[simp] theorem State.modI3c_hostTlb (f : I3c → I3c) : (s.modI3c f).hostTlb = s.hostTlb := rfl
@[simp] theorem State.modI3c_hostCarts (f : I3c → I3c) : (s.modI3c f).hostCarts = s.hostCarts := rfl
@[simp] theorem State.modI3c_hostReads (f : I3c → I3c) : (s.modI3c f).hostReads = s.hostReads := rfl
@[simp] theorem State.modI3c_hostLines (f : I3c → I3c) : (s.modI3c f).hostLines = s.hostLines := rfl
@[simp] theorem State.modI3c_heldOut (f : I3c → I3c) : (s.modI3c f).heldOut = s.heldOut := rfl
@[simp] theorem State.modI3c_ingress (f : I3c → I3c) : (s.modI3c f).ingress = s.ingress := rfl
@[simp] theorem State.modI3c_ingressWaits (f : I3c → I3c) : (s.modI3c f).ingressWaits = s.ingressWaits := rfl
@[simp] theorem State.modI3c_links (f : I3c → I3c) : (s.modI3c f).links = s.links := rfl
@[simp] theorem State.modI3c_fabric (f : I3c → I3c) : (s.modI3c f).fabric = s.fabric := rfl
@[simp] theorem State.modI3c_twin (f : I3c → I3c) : (s.modI3c f).twin = s.twin := rfl
@[simp] theorem State.modI3c_boot (f : I3c → I3c) : (s.modI3c f).boot = s.boot := rfl
@[simp] theorem State.modI3c_i3c (f : I3c → I3c) : (s.modI3c f).i3c = f s.i3c := rfl
@[simp] theorem State.modI3c_faultLog (f : I3c → I3c) : (s.modI3c f).faultLog = s.faultLog := rfl
@[simp] theorem State.modI3c_moduleLog (f : I3c → I3c) : (s.modI3c f).moduleLog = s.moduleLog := rfl
@[simp] theorem State.modI3c_channelLog (f : I3c → I3c) : (s.modI3c f).channelLog = s.channelLog := rfl
@[simp] theorem State.modI3c_trace (f : I3c → I3c) : (s.modI3c f).trace = s.trace := rfl

end Sys2Proof.Machine
end

