-- ==== Sys2Proof/Laws/Tab.lean ====
section
/-! SUPPORT. Laws of sparse tables: read after write, everywhere else unchanged, and the canonical form is kept. -/

namespace Sys2Proof.Machine

variable {α : Type} {d : Nat → α}

/-- Dropping the leading entries at or below `k` does not change what a key above `k` reads. -/
theorem tabGet_dropWhile_above (k j : Nat) (hj : k < j) (r : Tab α) :
    tabGet d j (r.dropWhile (fun e => e.1 ≤ k)) = tabGet d j r := by
  induction r with
  | nil => rfl
  | cons e r ih =>
    obtain ⟨a, v⟩ := e
    by_cases h : a ≤ k
    · have h1 : ¬ j < a := by omega
      have h2 : ¬ j = a := by omega
      simp [List.dropWhile, h, ih, tabGet, h1, h2]
    · simp [List.dropWhile, h]

/-- After dropping the leading entries at or below `k`, every key up to `k` reads its default. -/
theorem tabGet_dropWhile_below (k j : Nat) (hj : j ≤ k) (r : Tab α) :
    tabGet d j (r.dropWhile (fun e => e.1 ≤ k)) = d j := by
  induction r with
  | nil => rfl
  | cons e r ih =>
    obtain ⟨a, v⟩ := e
    by_cases h : a ≤ k
    · simpa [List.dropWhile, h] using ih
    · have h1 : j < a := by omega
      simp [List.dropWhile, h, tabGet, h1]

section Writes

variable [DecidableEq α]

/-- A key reads what was last written to it. -/
@[simp] theorem tabGet_tabSet_self (k : Nat) (v : α) (m : Tab α) : tabGet d k (tabSet d k v m) = v := by
  induction m with
  | nil => by_cases h : v = d k <;> simp [tabSet, tabGet, h]
  | cons e r ih =>
    obtain ⟨a, w⟩ := e
    unfold tabSet
    by_cases h1 : k < a
    · by_cases h : v = d k <;> simp [h1, h, tabGet]
    · by_cases h2 : k = a
      · by_cases h : v = d k
        · subst h2
          simpa [h] using tabGet_dropWhile_below (d := d) k k le_rfl r
        · subst h2
          simp [h, tabGet]
      · simp [h1, h2, tabGet, ih]

/-- Every other key reads what it read before. -/
theorem tabGet_tabSet_ne (k j : Nat) (hne : j ≠ k) (v : α) (m : Tab α) :
    tabGet d j (tabSet d k v m) = tabGet d j m := by
  induction m with
  | nil =>
    by_cases h : v = d k
    · simp [tabSet, h]
    · simp [tabSet, h, tabGet, hne]
  | cons e r ih =>
    obtain ⟨a, w⟩ := e
    unfold tabSet
    by_cases h1 : k < a
    · by_cases h : v = d k
      · simp [h1, h]
      · simp only [h1, h, if_true, if_false, tabGet, hne]
        by_cases hjk : j < k
        · have : j < a := by omega
          simp [hjk, this]
        · simp [hjk]
    · by_cases h2 : k = a
      · subst h2
        by_cases h : v = d k
        · simp only [h1, h, if_true, if_false, tabGet, hne]
          by_cases hjk : j < k
          · simpa [hjk] using tabGet_dropWhile_below (d := d) k j (by omega) r
          · simpa [hjk] using tabGet_dropWhile_above (d := d) k j (by omega) r
        · simp [h, tabGet, hne]
      · simp [h1, h2, tabGet, ih]

/-- Read after write, in one law. -/
theorem tabGet_tabSet (k j : Nat) (v : α) (m : Tab α) :
    tabGet d j (tabSet d k v m) = if j = k then v else tabGet d j m := by
  by_cases h : j = k
  · subst h; simp
  · simp [h, tabGet_tabSet_ne k j h]

@[simp] theorem tabWf_nil : tabWf d ([] : Tab α) = true := rfl

theorem tabWf_cons {a : Nat} {v : α} {r : Tab α} :
    tabWf d ((a, v) :: r) = true ↔ v ≠ d a ∧ (∀ e ∈ r.head?, a < e.1) ∧ tabWf d r = true := by
  cases r with
  | nil => simp [tabWf]
  | cons e r => obtain ⟨b, w⟩ := e; simp [tabWf, and_assoc]

end Writes

/-- In a canonical table the entries above the head key are kept whole by the dropping of the write. -/
theorem dropWhile_of_head_above (k : Nat) (r : Tab α) (h : ∀ e ∈ r.head?, k < e.1) :
    r.dropWhile (fun e => e.1 ≤ k) = r := by
  cases r with
  | nil => rfl
  | cons e r =>
    have : k < e.1 := h e rfl
    have h2 : ¬ e.1 ≤ k := by omega
    simp [List.dropWhile, h2]

variable [DecidableEq α]

theorem tabSet_head (k : Nat) (v : α) (m : Tab α) (b : Nat) (hb : b < k) (h : ∀ e ∈ m.head?, b < e.1) :
    tabWf d m = true → ∀ e ∈ (tabSet d k v m).head?, b < e.1 := by
  intro hw
  cases m with
  | nil => by_cases hv : v = d k <;> simp [tabSet, hv, hb]
  | cons e r =>
    obtain ⟨a, w⟩ := e
    have ha : b < a := h (a, w) rfl
    unfold tabSet
    by_cases h1 : k < a
    · by_cases hv : v = d k <;> simp [h1, hv, ha, hb]
    · by_cases h2 : k = a
      · by_cases hv : v = d k
        · have hr := ((tabWf_cons (d := d)).1 hw).2.1
          subst h2
          simp only [h1, hv, if_true, if_false]
          rw [dropWhile_of_head_above k r hr]
          intro e he
          exact lt_trans ha (hr e he)
        · subst h2
          simp [hv, ha]
      · simp [h1, h2, ha]

/-- A write keeps the canonical form. -/
theorem tabWf_tabSet (k : Nat) (v : α) (m : Tab α) (hw : tabWf d m = true) : tabWf d (tabSet d k v m) = true := by
  induction m with
  | nil => by_cases h : v = d k <;> simp [tabSet, tabWf, h]
  | cons e r ih =>
    obtain ⟨a, w⟩ := e
    obtain ⟨hne, hhd, hr⟩ := (tabWf_cons (d := d)).1 hw
    unfold tabSet
    by_cases h1 : k < a
    · by_cases h : v = d k
      · simpa [h1, h] using hw
      · simp only [h1, h, if_true, if_false]
        exact (tabWf_cons (d := d)).2 ⟨h, by simp [h1], hw⟩
    · by_cases h2 : k = a
      · subst h2
        by_cases h : v = d k
        · simp only [h1, h, if_true, if_false]
          rw [dropWhile_of_head_above k r hhd]; exact hr
        · simp only [h1, h, if_true, if_false]
          exact (tabWf_cons (d := d)).2 ⟨h, hhd, hr⟩
      · simp only [h1, h2, if_false]
        exact (tabWf_cons (d := d)).2 ⟨hne, tabSet_head k v r a (by omega) hhd hr, ih hr⟩

theorem tabWf_tabMod (k : Nat) (f : α → α) (m : Tab α) (hw : tabWf d m = true) :
    tabWf d (tabMod d k f m) = true := tabWf_tabSet k _ m hw

/-- Writing bytes keeps the canonical form of memory. -/
theorem writeBytes_wf (bs : List Byte) : ∀ (m : List Host.Cell) (a : Nat), tabWf zeroByte m = true →
    tabWf zeroByte (writeBytes m a bs) = true := by
  induction bs with
  | nil => intro m a h; exact h
  | cons b bs ih => intro m a h; exact ih _ _ (tabWf_tabSet a b m h)

/-- A byte outside the written range reads as before. -/
theorem readByte_writeBytes_outside (bs : List Byte) : ∀ (m : List Host.Cell) (a j : Nat),
    (j < a ∨ a + bs.length ≤ j) → tabGet zeroByte j (writeBytes m a bs) = tabGet zeroByte j m := by
  induction bs with
  | nil => intro m a j _; rfl
  | cons b bs ih =>
    intro m a j h
    have h' : j < a + 1 ∨ a + 1 + bs.length ≤ j := by
      rcases h with h | h
      · left; omega
      · right; simp at h; omega
    have hne : j ≠ a := by
      rcases h with h | h
      · omega
      · simp at h; omega
    simp [writeBytes, ih _ _ _ h', tabGet_tabSet_ne a j hne]

end Sys2Proof.Machine
end

