-- ==== Sys2Proof/Laws/Access.lean ====
section
/-! SUPPORT. Read after write for the registers, cores, partitions, channels, rings, links, querns and synchronisation
objects, and for the fields of a word. -/

namespace Sys2Proof.Machine

variable (s : State)

@[simp] theorem State.reg_setReg (o p : Nat) (w : Word) : (s.setReg o w).reg p = if p = o then w else s.reg p :=
  tabGet_tabSet o p w s.regs

@[simp] theorem State.core_setCore (c d : CoreId) (k : Core) : (s.setCore c k).core d = if d = c then k else s.core d := by
  simp [State.core, tabGet_tabSet, Fin.ext_iff]

@[simp] theorem State.part_setPart (p q : PartId) (k : Part) : (s.setPart p k).part q = if q = p then k else s.part q := by
  simp [State.part, tabGet_tabSet, Fin.ext_iff]

@[simp] theorem State.chan_setChan (n m : ChanId) (k : Chan) : (s.setChan n k).chan m = if m = n then k else s.chan m := by
  simp [State.chan, tabGet_tabSet, Fin.ext_iff]

@[simp] theorem State.ring_setRing (r q : RingId) (k : Ring) : (s.setRing r k).ring q = if q = r then k else s.ring q := by
  simp [State.ring, tabGet_tabSet, Fin.ext_iff]

@[simp] theorem State.link_setLink (l m : LinkId) (k : Link) : (s.setLink l k).link m = if m = l then k else s.link m := by
  simp [State.link, tabGet_tabSet, Fin.ext_iff]

/-- The keys of two querns are equal only where the querns are the same. -/
theorem quernKey_inj (g h : GranChan) (p q : Fin 16) : quernKey g p = quernKey h q ↔ g = h ∧ p = q := by
  unfold quernKey
  constructor
  · intro e
    exact ⟨Fin.ext (by omega), Fin.ext (by omega)⟩
  · rintro ⟨rfl, rfl⟩; rfl

@[simp] theorem State.quern_setQuern (g h : GranChan) (p q : Fin 16) (k : Quern) :
    (s.setQuern g p k).quern h q = if h = g ∧ q = p then k else s.quern h q := by
  simp [State.quern, tabGet_tabSet, quernKey_inj]

@[simp] theorem State.peg_setPeg (n m : Nat) (g : Peg) : (s.setPeg n g).peg m = if m = n then g else s.peg m :=
  tabGet_tabSet n m g s.pegs

@[simp] theorem State.tally_setTally (n m : Nat) (g : Tally) : (s.setTally n g).tally m = if m = n then g else s.tally m :=
  tabGet_tabSet n m g s.tallies

@[simp] theorem State.bell_setBell (n m : Nat) (g : Bell) : (s.setBell n g).bell m = if m = n then g else s.bell m :=
  tabGet_tabSet n m g s.bells

/-! ### The registers of a core -/

@[simp] theorem Core.sreg_setS (k : Core) (r q : SReg) (v : Word) : (k.setS r v).sreg q = if q = r then v else k.sreg q := by
  simp [Core.sreg, Core.setS, tabGet_tabSet, Fin.ext_iff]

@[simp] theorem Core.lcreg_setLc (k : Core) (r q : LcReg) (v : BitVec 32) :
    (k.setLc r v).lcreg q = if q = r then v else k.lcreg q := by
  simp [Core.lcreg, Core.setLc, tabGet_tabSet, Fin.ext_iff]

@[simp] theorem Core.flagWord_setFlagWord (k : Core) (n m : Nat) (f : BitVec 6) :
    (k.setFlagWord n f).flagWord m = if m = n then f else k.flagWord m :=
  tabGet_tabSet n m f k.flags

@[simp] theorem Core.rotaOf_stage (k : Core) (st : Tab Word) (n : Nat) : ({ k with staging := st } : Core).rotaOf n = k.rotaOf n := rfl

/-- The unit codes of two engines are equal only where the engines are the same. -/
theorem unitCode_inj (u v : EngineUnit) : unitCode u = unitCode v ↔ u = v := by
  cases u <;> cases v <;> decide

@[simp] theorem Core.engOf_setEng (k : Core) (u v : EngineUnit) (e : Eng) :
    (k.setEng u e).engOf v = if v = u then e else k.engOf v := by
  simp [Core.engOf, Core.setEng, tabGet_tabSet, unitCode_inj]

@[simp] theorem Core.queueOf_setQueue (k : Core) (u v : EngineUnit) (q : List Cmd) :
    (k.setQueue u q).queueOf v = if v = u then q else k.queueOf v := by
  simp [Core.queueOf, Core.setQueue, tabGet_tabSet, unitCode_inj]

end Sys2Proof.Machine
end

