-- ==== Sys2Proof/Laws/Outcome.lean ====
section
/-! SUPPORT. What the shared shapes of a meaning answer: `stateOf s r` is the next state of `r`, and `s` where `r` stops. -/

namespace Sys2Proof.Machine

@[simp] theorem stateOf_next (s t : State) : stateOf s (.next t) = t := rfl

@[simp] theorem stateOf_refused (s : State) (r : Refusal) : stateOf s (.refused r) = s := rfl

@[simp] theorem stateOf_ite (s : State) (c : Prop) [Decidable c] (a b : Res) :
    stateOf s (if c then a else b) = if c then stateOf s a else stateOf s b := apply_ite _ c a b

@[simp] theorem stateOf_whenever (s t : State) (b : Bool) : stateOf s (whenever b s t) = if b && s.alive then t else s := rfl

@[simp] theorem stateOf_always (s t : State) (b : Bool) : stateOf s (always b s t) = if b then t else s := rfl

@[simp] theorem stateOf_checked (s : State) (i : Instr) (n : String) (r : Res) :
    stateOf s (checked i n r) = if i.wf then stateOf s r else s := by
  simp only [checked, checkedIf]; split <;> rfl

@[simp] theorem stateOf_checkedIf (s : State) (b : Bool) (n : String) (r : Res) :
    stateOf s (checkedIf b n r) = if b then stateOf s r else s := by
  simp only [checkedIf]; split <;> rfl

theorem iteSome (P : State → Prop) (c : Prop) [Decidable c] (a : State) (e : Option State) (ha : P a)
    (he : ∀ t, e = some t → P t) : ∀ t, (if c then some a else e) = some t → P t := by
  intro t h
  split at h
  · cases h; exact ha
  · exact he t h

/-- A meaning that answers a next state answers `stateOf`. -/
theorem stateOf_of_next {s t : State} {r : Res} (h : r = .next t) : stateOf s r = t := by rw [h]; rfl

end Sys2Proof.Machine
end

