-- ==== Sys2Proof/Laws/Memory.lean ====
section
/-! SUPPORT. The operations and commands that leave every byte of device memory as it was. -/

namespace Sys2Proof.Machine

@[simp] theorem mem_ite (c : Prop) [Decidable c] (s t : State) :
    (if c then s else t).mem = if c then s.mem else t.mem := apply_ite _ c s t

/-- A fold of operations that each keep it keeps memory. -/
@[simp] theorem mem_foldl {α : Type} (f : State → α → State) (h : ∀ s a, (f s a).mem = s.mem) (l : List α) (s : State) :
    (l.foldl f s).mem = s.mem := by
  induction l generalizing s with
  | nil => rfl
  | cons a l ih => simp [List.foldl, ih, h]

@[simp] theorem mem_foldl_fst {α β : Type} (f : State × β → α → State × β) (h : ∀ x a, (f x a).1.mem = x.1.mem)
    (l : List α) (x : State × β) : (l.foldl f x).1.mem = x.1.mem := by
  induction l generalizing x with
  | nil => rfl
  | cons a l ih => simp [List.foldl, ih, h]

@[simp] theorem mem_foldl_snd {α β : Type} (f : β × State → α → β × State) (h : ∀ x a, (f x a).2.mem = x.2.mem)
    (l : List α) (x : β × State) : (l.foldl f x).2.mem = x.2.mem := by
  induction l generalizing x with
  | nil => rfl
  | cons a l ih => simp [List.foldl, ih, h]

@[simp] theorem State.setFld_mem (s : State) (a2 a3 a4 a5 : _) : (State.setFld s a2 a3 a4 a5).mem = s.mem := by
  simp [State.setFld]

@[simp] theorem State.incFld_mem (s : State) (a2 a3 a4 a5 : _) : (State.incFld s a2 a3 a4 a5).mem = s.mem := by
  simp [State.incFld]

@[simp] theorem State.satFld_mem (s : State) (a2 a3 a4 a5 : _) : (State.satFld s a2 a3 a4 a5).mem = s.mem := by
  simp [State.satFld]

@[simp] theorem State.setBoth_mem (s : State) (a2 a3 a4 a5 : _) : (State.setBoth s a2 a3 a4 a5).mem = s.mem := by
  simp [State.setBoth]

@[simp] theorem State.fresh_mem (s : State) : (State.fresh s).2.mem = s.mem := by
  simp [State.fresh]

@[simp] theorem State.newId_mem (s : State) : (State.newId s).2.mem = s.mem := by
  simp [State.newId]

@[simp] theorem State.inBand_mem (s : State) (a2 : _) : (State.inBand s a2).mem = s.mem := by
  simp [State.inBand]

@[simp] theorem State.modCore_mem (s : State) (a2 a3 : _) : (State.modCore s a2 a3).mem = s.mem := by
  simp [State.modCore]

@[simp] theorem State.modPart_mem (s : State) (a2 a3 : _) : (State.modPart s a2 a3).mem = s.mem := by
  simp [State.modPart]

@[simp] theorem State.modChan_mem (s : State) (a2 a3 : _) : (State.modChan s a2 a3).mem = s.mem := by
  simp [State.modChan]

@[simp] theorem State.modRing_mem (s : State) (a2 a3 : _) : (State.modRing s a2 a3).mem = s.mem := by
  simp [State.modRing]

@[simp] theorem State.modLink_mem (s : State) (a2 a3 : _) : (State.modLink s a2 a3).mem = s.mem := by
  simp [State.modLink]

@[simp] theorem State.logPart_mem (s : State) (a2 a3 : _) : (State.logPart s a2 a3).mem = s.mem := by
  simp [State.logPart]

@[simp] theorem State.logModule_mem (s : State) (a2 : _) : (State.logModule s a2).mem = s.mem := by
  simp [State.logModule]

@[simp] theorem State.logAny_mem (s : State) (a2 a3 : _) : (State.logAny s a2 a3).mem = s.mem := by
  unfold State.logAny
  split <;> simp

@[simp] theorem State.logAccess_mem (s : State) (a2 a3 a4 a5 : _) : (State.logAccess s a2 a3 a4 a5).mem = s.mem := by
  simp [State.logAccess]

@[simp] theorem State.logChan_mem (s : State) (a2 a3 a4 a5 a6 a7 : _) : (State.logChan s a2 a3 a4 a5 a6 a7).mem = s.mem := by
  simp [State.logChan]

@[simp] theorem State.traceRec_mem (s : State) (a2 a3 a4 a5 a6 a7 a8 a9 a10 : _) : (State.traceRec s a2 a3 a4 a5 a6 a7 a8 a9 a10).mem = s.mem := by
  unfold State.traceRec
  split <;> simp

@[simp] theorem State.countN_mem (s : State) (a2 a3 a4 : _) : (State.countN s a2 a3 a4).mem = s.mem := by
  unfold State.countN
  split <;> simp

@[simp] theorem State.count_mem (s : State) (a2 a3 : _) : (State.count s a2 a3).mem = s.mem := by
  simp [State.count]

@[simp] theorem State.toHost_mem (s : State) (a2 : _) : (State.toHost s a2).mem = s.mem := by
  unfold State.toHost
  (repeat' split) <;> simp

@[simp] theorem State.hostReadIn_mem (s : State) (a2 a3 a4 a5 a6 : _) : (State.hostReadIn s a2 a3 a4 a5 a6).2.mem = s.mem := by
  simp [State.hostReadIn]

@[simp] theorem State.hostRead_mem (s : State) (a2 a3 a4 a5 : _) : (State.hostRead s a2 a3 a4 a5).2.mem = s.mem := by
  simp [State.hostRead]

@[simp] theorem State.issueRead_mem (s : State) (a2 : _) : (State.issueRead s a2).mem = s.mem := by
  simp [State.issueRead]

@[simp] theorem State.issueReads_mem (s : State) : (State.issueReads s).mem = s.mem := by
  simp [State.issueReads]

@[simp] theorem State.pumpFlush_mem (s : State) (a2 : _) : (State.pumpFlush s a2).mem = s.mem := by
  unfold State.pumpFlush
  (repeat' split) <;> simp

@[simp] theorem State.eventLine_mem (s : State) (a2 a3 a4 a5 a6 : _) : (State.eventLine s a2 a3 a4 a5 a6).mem = s.mem := by
  simp [State.eventLine]

@[simp] theorem State.raise_mem (s : State) (a2 a3 a4 a5 : _) : (State.raise s a2 a3 a4 a5).mem = s.mem := by
  simp [State.raise]

@[simp] theorem State.modLaunch_mem (s : State) (a2 a3 : _) : (State.modLaunch s a2 a3).mem = s.mem := by
  unfold State.modLaunch
  split <;> simp

@[simp] theorem State.kpSkip_mem (s : State) (a2 a3 a4 : _) : (State.kpSkip s a2 a3 a4).mem = s.mem := by
  simp [State.kpSkip]

@[simp] theorem State.cmdSkip_mem (s : State) (a2 a3 a4 a5 a6 a7 : _) : (State.cmdSkip s a2 a3 a4 a5 a6 a7).mem = s.mem := by
  simp [State.cmdSkip]

@[simp] theorem State.modDesc_mem (s : State) (a2 a3 a4 : _) : (State.modDesc s a2 a3 a4).mem = s.mem := by
  unfold State.modDesc
  split <;> simp

@[simp] theorem State.endDesc_mem (s : State) (a2 a3 a4 : _) : (State.endDesc s a2 a3 a4).mem = s.mem := by
  simp [State.endDesc]

@[simp] theorem State.flagDesc_mem (s : State) (a2 a3 a4 : _) : (State.flagDesc s a2 a3 a4).mem = s.mem := by
  simp [State.flagDesc]

@[simp] theorem State.issue_mem (s : State) (a2 a3 a4 a5 a6 a7 a8 : _) : (State.issue s a2 a3 a4 a5 a6 a7 a8).2.mem = s.mem := by
  simp [State.issue]

@[simp] theorem State.sendFrame_mem (s : State) (a2 a3 a4 : _) : (State.sendFrame s a2 a3 a4).mem = s.mem := by
  simp [State.sendFrame]

@[simp] theorem State.freeBuffer_mem (s : State) (a2 a3 : _) : (State.freeBuffer s a2 a3).mem = s.mem := by
  simp [State.freeBuffer]

@[simp] theorem State.pumpLink_mem (s : State) (a2 a3 : _) : (State.pumpLink s a2 a3).mem = s.mem := by
  induction a3 generalizing s with
  | zero => simp [State.pumpLink]
  | succ n ih =>
    unfold State.pumpLink
    dsimp only
    (repeat' split) <;> simp [ih]

@[simp] theorem State.transmit_mem (s : State) (a2 a3 : _) : (State.transmit s a2 a3).mem = s.mem := by
  simp [State.transmit]

@[simp] theorem State.route_mem (s : State) (a2 a3 a4 : _) : (State.route s a2 a3 a4).mem = s.mem := by
  simp [State.route] <;> (repeat' split) <;> simp

@[simp] theorem State.routeHeld_mem (s : State) : (State.routeHeld s).mem = s.mem := by
  simp [State.routeHeld]

@[simp] theorem State.respond_mem (s : State) (a2 a3 a4 a5 a6 : _) : (State.respond s a2 a3 a4 a5 a6).mem = s.mem := by
  simp [State.respond]

@[simp] theorem State.respondErr_mem (s : State) (a2 a3 : _) : (State.respondErr s a2 a3).mem = s.mem := by
  simp [State.respondErr]

@[simp] theorem State.reply_mem (s : State) (a2 a3 a4 a5 a6 a7 : _) : (State.reply s a2 a3 a4 a5 a6 a7).mem = s.mem := by
  simp [State.reply]

@[simp] theorem State.respondTor_mem (s : State) (a2 a3 a4 : _) : (State.respondTor s a2 a3 a4).mem = s.mem := by
  simp [State.respondTor]

@[simp] theorem State.request_mem (s : State) (a2 a3 a4 a5 a6 a7 a8 a9 a10 : _) : (State.request s a2 a3 a4 a5 a6 a7 a8 a9 a10).2.mem = s.mem := by
  simp [State.request]

@[simp] theorem State.sendTwin_mem (s : State) (a2 a3 a4 : _) : (State.sendTwin s a2 a3 a4).mem = s.mem := by
  simp [State.sendTwin]

@[simp] theorem State.sendTwinAll_mem (s : State) (a2 a3 : _) : (State.sendTwinAll s a2 a3).mem = s.mem := by
  simp [State.sendTwinAll]

@[simp] theorem State.sendTwinOne_mem (s : State) (a2 a3 : _) : (State.sendTwinOne s a2 a3).mem = s.mem := by
  unfold State.sendTwinOne
  split <;> simp

@[simp] theorem State.moduleFail_mem (s : State) : (State.moduleFail s).mem = s.mem := by
  simp [State.moduleFail]

@[simp] theorem State.noteWrite_mem (s : State) (a2 a3 a4 a5 a6 a7 : _) : (State.noteWrite s a2 a3 a4 a5 a6 a7).mem = s.mem := by
  simp [State.noteWrite]

@[simp] theorem State.countWrite_mem (s : State) (a2 : _) : (State.countWrite s a2).mem = s.mem := by
  simp [State.countWrite]

@[simp] theorem State.ignored_mem (s : State) : (State.ignored s).mem = s.mem := by
  simp [State.ignored]

@[simp] theorem bar0Write_mem (s : State) (fn : FnId) (o : Nat) (v : Word) (f : Nat → State) (h : ∀ l, (f l).mem = s.mem) : (stateOf s (bar0Write s fn o v f)).mem = s.mem := by
  simp only [bar0Write]
  split <;> [simp; (split <;> simp [h])]

@[simp] theorem State.wordWrite_mem (s : State) (a2 a3 a4 a5 a6 a7 a8 : _) : (State.wordWrite s a2 a3 a4 a5 a6 a7 a8).mem = s.mem := by
  simp [State.wordWrite]

@[simp] theorem State.refuseWrite_mem (s : State) (a2 a3 a4 : _) : (State.refuseWrite s a2 a3 a4).mem = s.mem := by
  simp [State.refuseWrite]

@[simp] theorem State.setErrors_mem (s : State) (a2 a3 : _) : (State.setErrors s a2 a3).mem = s.mem := by
  simp [State.setErrors]

@[simp] theorem State.acquire_mem (s : State) (a2 : _) : (State.acquire s a2).mem = s.mem := by
  simp [State.acquire]

@[simp] theorem State.freshLine_mem (s : State) : (State.freshLine s).2.mem = s.mem := by
  simp [State.freshLine]

@[simp] theorem State.peekLine_mem (s : State) (a2 : _) : (State.peekLine s a2).2.mem = s.mem := by
  simp [State.peekLine] <;> (repeat' split) <;> simp

@[simp] theorem State.spareBank_mem (s : State) (a2 a3 : _) : (State.spareBank s a2 a3).mem = s.mem := by
  simp [State.spareBank]

@[simp] theorem State.spareRow_mem (s : State) (a2 : _) : (State.spareRow s a2).mem = s.mem := by
  simp [State.spareRow]

@[simp] theorem State.rowError_mem (s : State) (a2 : _) : (State.rowError s a2).mem = s.mem := by
  simp [State.rowError]

@[simp] theorem State.readLine_mem (s : State) (a2 : _) : (State.readLine s a2).2.mem = s.mem := by
  simp [State.readLine] <;> (repeat' split) <;> simp

@[simp] theorem State.refuseReq_mem (s : State) (a2 a3 a4 a5 : _) : (State.refuseReq s a2 a3 a4 a5).1.mem = s.mem := by
  simp [State.refuseReq]

@[simp] theorem State.arrive_mem (s : State) (a2 : _) : (State.arrive s a2).1.mem = s.mem := by
  simp [State.arrive] <;> (repeat' split) <;> simp

@[simp] theorem execRefresh_mem (s : State) (a1 : _) : (stateOf s (execRefresh a1 s)).mem = s.mem := by
  simp [execRefresh]

@[simp] theorem execSelfRefreshEntry_mem (s : State) (a1 : _) : (stateOf s (execSelfRefreshEntry a1 s)).mem = s.mem := by
  simp [execSelfRefreshEntry]

@[simp] theorem State.moveLane_mem (s : State) (a2 a3 a4 : _) : (State.moveLane s a2 a3 a4).1.mem = s.mem := by
  simp [State.moveLane]

@[simp] theorem State.calibrate_mem (s : State) (a2 a3 : _) : (State.calibrate s a2 a3).mem = s.mem := by
  simp [State.calibrate]

@[simp] theorem execSelfRefreshExit_mem (s : State) (a1 a2 : _) : (stateOf s (execSelfRefreshExit a1 a2 s)).mem = s.mem := by
  simp [execSelfRefreshExit]

@[simp] theorem State.enableChan_mem (s : State) (a2 : _) : (State.enableChan s a2).mem = s.mem := by
  simp [State.enableChan]

@[simp] theorem execChCtlWrite_mem (s : State) (a1 a2 a3 a4 : _) : (stateOf s (execChCtlWrite a1 a2 a3 a4 s)).mem = s.mem := by
  simp [execChCtlWrite]

@[simp] theorem execElogPtrWrite_mem (s : State) (a1 a2 a3 a4 : _) : (stateOf s (execElogPtrWrite a1 a2 a3 a4 s)).mem = s.mem := by
  simp [execElogPtrWrite]

@[simp] theorem State.logEntry_mem (s : State) (a2 a3 a4 a5 a6 a7 a8 : _) : (State.logEntry s a2 a3 a4 a5 a6 a7 a8).mem = s.mem := by
  simp [State.logEntry]

@[simp] theorem State.logXlate_mem (s : State) (a2 a3 a4 a5 a6 a7 a8 a9 : _) : (State.logXlate s a2 a3 a4 a5 a6 a7 a8 a9).mem = s.mem := by
  simp [State.logXlate]

@[simp] theorem State.access_mem (s : State) (a2 a3 a4 a5 a6 a7 : _) : (State.access s a2 a3 a4 a5 a6 a7).2.mem = s.mem := by
  unfold State.access
  (repeat' split) <;> simp

theorem State.takeResp_mem (s : State) (a2 : _) (x t : _) (h : State.takeResp s a2 = some (x, t)) : t.mem = s.mem := by
  unfold State.takeResp at h
  cases hf : s.responses.find? (fun r => r.req.id == a2) with
  | none => simp [hf] at h
  | some r => simp [hf] at h; obtain ⟨_, rfl⟩ := h; rfl

@[simp] theorem scalarOp_mem (s : State) (c : CoreId) (f : Core → Core)  : (stateOf s (scalarOp s c f)).mem = s.mem := by
  simp [scalarOp]

@[simp] theorem branchOp_mem (s : State) (c : CoreId) (imm : BitVec 32) (f : Core → Core) (taken : Core → Bool)  : (stateOf s (branchOp s c imm f taken)).mem = s.mem := by
  simp [branchOp]

@[simp] theorem execNop_mem (s : State) (a1 : _) : (stateOf s (execNop a1 s)).mem = s.mem := by
  simp [execNop]

@[simp] theorem execEndProg_mem (s : State) (a1 : _) : (stateOf s (execEndProg a1 s)).mem = s.mem := by
  simp [execEndProg]

@[simp] theorem execLi_mem (s : State) (a1 a2 a3 : _) : (stateOf s (execLi a1 a2 a3 s)).mem = s.mem := by
  simp [execLi]

@[simp] theorem execLui_mem (s : State) (a1 a2 a3 : _) : (stateOf s (execLui a1 a2 a3 s)).mem = s.mem := by
  simp [execLui]

@[simp] theorem execMov_mem (s : State) (a1 a2 a3 : _) : (stateOf s (execMov a1 a2 a3 s)).mem = s.mem := by
  simp [execMov]

@[simp] theorem execTime_mem (s : State) (a1 a2 : _) : (stateOf s (execTime a1 a2 s)).mem = s.mem := by
  simp [execTime]

@[simp] theorem binOp_mem (s : State) (c : CoreId) (rd ra rb : SReg) (f : Word → Word → Word)  : (stateOf s (binOp s c rd ra rb f)).mem = s.mem := by
  simp [binOp]

@[simp] theorem immOp_mem (s : State) (c : CoreId) (rd ra : SReg) (imm : BitVec 32) (f : Word → Word → Word)  : (stateOf s (immOp s c rd ra imm f)).mem = s.mem := by
  simp [immOp]

@[simp] theorem execAdd_mem (s : State) (a1 a2 a3 a4 : _) : (stateOf s (execAdd a1 a2 a3 a4 s)).mem = s.mem := by
  simp [execAdd]

@[simp] theorem execSub_mem (s : State) (a1 a2 a3 a4 : _) : (stateOf s (execSub a1 a2 a3 a4 s)).mem = s.mem := by
  simp [execSub]

@[simp] theorem execAnd_mem (s : State) (a1 a2 a3 a4 : _) : (stateOf s (execAnd a1 a2 a3 a4 s)).mem = s.mem := by
  simp [execAnd]

@[simp] theorem execOr_mem (s : State) (a1 a2 a3 a4 : _) : (stateOf s (execOr a1 a2 a3 a4 s)).mem = s.mem := by
  simp [execOr]

@[simp] theorem execXor_mem (s : State) (a1 a2 a3 a4 : _) : (stateOf s (execXor a1 a2 a3 a4 s)).mem = s.mem := by
  simp [execXor]

@[simp] theorem execShl_mem (s : State) (a1 a2 a3 a4 : _) : (stateOf s (execShl a1 a2 a3 a4 s)).mem = s.mem := by
  simp [execShl]

@[simp] theorem execShr_mem (s : State) (a1 a2 a3 a4 : _) : (stateOf s (execShr a1 a2 a3 a4 s)).mem = s.mem := by
  simp [execShr]

@[simp] theorem execSra_mem (s : State) (a1 a2 a3 a4 : _) : (stateOf s (execSra a1 a2 a3 a4 s)).mem = s.mem := by
  simp [execSra]

@[simp] theorem execAddi_mem (s : State) (a1 a2 a3 a4 : _) : (stateOf s (execAddi a1 a2 a3 a4 s)).mem = s.mem := by
  simp [execAddi]

@[simp] theorem execShli_mem (s : State) (a1 a2 a3 a4 : _) : (stateOf s (execShli a1 a2 a3 a4 s)).mem = s.mem := by
  simp [execShli]

@[simp] theorem execShri_mem (s : State) (a1 a2 a3 a4 : _) : (stateOf s (execShri a1 a2 a3 a4 s)).mem = s.mem := by
  simp [execShri]

@[simp] theorem execSrai_mem (s : State) (a1 a2 a3 a4 : _) : (stateOf s (execSrai a1 a2 a3 a4 s)).mem = s.mem := by
  simp [execSrai]

@[simp] theorem execAndi_mem (s : State) (a1 a2 a3 a4 : _) : (stateOf s (execAndi a1 a2 a3 a4 s)).mem = s.mem := by
  simp [execAndi]

@[simp] theorem execOri_mem (s : State) (a1 a2 a3 a4 : _) : (stateOf s (execOri a1 a2 a3 a4 s)).mem = s.mem := by
  simp [execOri]

@[simp] theorem execMul_mem (s : State) (a1 a2 a3 a4 : _) : (stateOf s (execMul a1 a2 a3 a4 s)).mem = s.mem := by
  simp [execMul]

@[simp] theorem execMulhu_mem (s : State) (a1 a2 a3 a4 : _) : (stateOf s (execMulhu a1 a2 a3 a4 s)).mem = s.mem := by
  simp [execMulhu]

@[simp] theorem cmpOp_mem (s : State) (c : CoreId) (n : CmpReg) (ra rb : SReg) (f : Word → Word → Bool)  : (stateOf s (cmpOp s c n ra rb f)).mem = s.mem := by
  simp [cmpOp]

@[simp] theorem execCmpEq_mem (s : State) (a1 a2 a3 a4 : _) : (stateOf s (execCmpEq a1 a2 a3 a4 s)).mem = s.mem := by
  simp [execCmpEq]

@[simp] theorem execCmpNe_mem (s : State) (a1 a2 a3 a4 : _) : (stateOf s (execCmpNe a1 a2 a3 a4 s)).mem = s.mem := by
  simp [execCmpNe]

@[simp] theorem execCmpLt_mem (s : State) (a1 a2 a3 a4 : _) : (stateOf s (execCmpLt a1 a2 a3 a4 s)).mem = s.mem := by
  simp [execCmpLt]

@[simp] theorem execCmpLtu_mem (s : State) (a1 a2 a3 a4 : _) : (stateOf s (execCmpLtu a1 a2 a3 a4 s)).mem = s.mem := by
  simp [execCmpLtu]

@[simp] theorem execCmpGe_mem (s : State) (a1 a2 a3 a4 : _) : (stateOf s (execCmpGe a1 a2 a3 a4 s)).mem = s.mem := by
  simp [execCmpGe]

@[simp] theorem execCmpGeu_mem (s : State) (a1 a2 a3 a4 : _) : (stateOf s (execCmpGeu a1 a2 a3 a4 s)).mem = s.mem := by
  simp [execCmpGeu]

@[simp] theorem execBr_mem (s : State) (a1 a2 : _) : (stateOf s (execBr a1 a2 s)).mem = s.mem := by
  simp [execBr]

@[simp] theorem execBc_mem (s : State) (a1 a2 a3 : _) : (stateOf s (execBc a1 a2 a3 s)).mem = s.mem := by
  simp [execBc]

@[simp] theorem execBnc_mem (s : State) (a1 a2 a3 : _) : (stateOf s (execBnc a1 a2 a3 s)).mem = s.mem := by
  simp [execBnc]

@[simp] theorem execLcbr_mem (s : State) (a1 a2 a3 : _) : (stateOf s (execLcbr a1 a2 a3 s)).mem = s.mem := by
  simp [execLcbr]

@[simp] theorem execLcset_mem (s : State) (a1 a2 a3 : _) : (stateOf s (execLcset a1 a2 a3 s)).mem = s.mem := by
  simp [execLcset]

@[simp] theorem execLcseti_mem (s : State) (a1 a2 a3 : _) : (stateOf s (execLcseti a1 a2 a3 s)).mem = s.mem := by
  simp [execLcseti]

@[simp] theorem execLcmov_mem (s : State) (a1 a2 a3 : _) : (stateOf s (execLcmov a1 a2 a3 s)).mem = s.mem := by
  simp [execLcmov]

@[simp] theorem benchOp_mem (s : State) (c : CoreId) (ra : SReg) (imm : BitVec 32) (f : Nat → Core → Core)  : (stateOf s (benchOp s c ra imm f)).mem = s.mem := by
  simp only [benchOp]
  split <;> simp

@[simp] theorem execLd_mem (s : State) (a1 a2 a3 a4 : _) : (stateOf s (execLd a1 a2 a3 a4 s)).mem = s.mem := by
  simp [execLd]

@[simp] theorem execSt_mem (s : State) (a1 a2 a3 a4 : _) : (stateOf s (execSt a1 a2 a3 a4 s)).mem = s.mem := by
  simp [execSt]

@[simp] theorem execFlagsRd_mem (s : State) (a1 a2 a3 : _) : (stateOf s (execFlagsRd a1 a2 a3 s)).mem = s.mem := by
  simp [execFlagsRd]

@[simp] theorem execFlagsClr_mem (s : State) (a1 a2 : _) : (stateOf s (execFlagsClr a1 a2 s)).mem = s.mem := by
  simp [execFlagsClr]

@[simp] theorem execRotaSet_mem (s : State) (a1 a2 a3 a4 : _) : (stateOf s (execRotaSet a1 a2 a3 a4 s)).mem = s.mem := by
  simp [execRotaSet]

@[simp] theorem execNativeSkip_mem (s : State) (a1 a2 : _) : (stateOf s (execNativeSkip a1 a2 s)).mem = s.mem := by
  simp [execNativeSkip]

@[simp] theorem execEndOfCode_mem (s : State) (a1 : _) : (stateOf s (execEndOfCode a1 s)).mem = s.mem := by
  simp [execEndOfCode]

@[simp] theorem State.touched_mem (s : State) (a2 : _) : (State.touched s a2).mem = s.mem := by
  unfold State.touched
  split <;> simp

@[simp] theorem State.syncFault_mem (s : State) (a2 a3 a4 a5 : _) : (State.syncFault s a2 a3 a4 a5).mem = s.mem := by
  unfold State.syncFault
  split <;> simp

@[simp] theorem State.modEng_mem (s : State) (a2 a3 a4 : _) : (State.modEng s a2 a3 a4).mem = s.mem := by
  simp [State.modEng]

@[simp] theorem State.release_mem (s : State) (a2 a3 : _) : (State.release s a2 a3).mem = s.mem := by
  unfold State.release
  split <;> simp

@[simp] theorem State.releaseAll_mem (s : State) (a2 a3 : _) : (State.releaseAll s a2 a3).mem = s.mem := by
  simp [State.releaseAll]

@[simp] theorem State.servePeg_mem (s : State) (a2 : _) : (State.servePeg s a2).mem = s.mem := by
  simp [State.servePeg]

@[simp] theorem State.pegTake_mem (s : State) (a2 a3 a4 : _) : (State.pegTake s a2 a3 a4).mem = s.mem := by
  simp [State.pegTake]

@[simp] theorem State.pegPost_mem (s : State) (a2 a3 a4 : _) : (State.pegPost s a2 a3 a4).mem = s.mem := by
  simp [State.pegPost]

@[simp] theorem State.pegDec_mem (s : State) (a2 a3 a4 : _) : (State.pegDec s a2 a3 a4).mem = s.mem := by
  simp [State.pegDec]

@[simp] theorem State.serveTally_mem (s : State) (a2 : _) : (State.serveTally s a2).mem = s.mem := by
  simp [State.serveTally]

@[simp] theorem State.serveTallies_mem (s : State) : (State.serveTallies s).mem = s.mem := by
  simp [State.serveTallies]

@[simp] theorem State.tallyAwait_mem (s : State) (a2 a3 : _) : (State.tallyAwait s a2 a3).mem = s.mem := by
  simp [State.tallyAwait]

@[simp] theorem State.tallyAdv_mem (s : State) (a2 a3 a4 : _) : (State.tallyAdv s a2 a3 a4).mem = s.mem := by
  simp [State.tallyAdv]

@[simp] theorem State.bellRelease_mem (s : State) (a2 : _) : (State.bellRelease s a2).mem = s.mem := by
  simp [State.bellRelease]

@[simp] theorem State.bellArrive_mem (s : State) (a2 a3 a4 a5 : _) : (State.bellArrive s a2 a3 a4 a5).mem = s.mem := by
  simp [State.bellArrive]

@[simp] theorem State.startWait_mem (s : State) (a2 a3 : _) : (State.startWait s a2 a3).mem = s.mem := by
  simp [State.startWait]

@[simp] theorem State.dropRequest_mem (s : State) (a2 a3 : _) : (State.dropRequest s a2 a3).mem = s.mem := by
  unfold State.dropRequest
  split <;> simp

@[simp] theorem State.giveUp_mem (s : State) (a2 a3 : _) : (State.giveUp s a2 a3).mem = s.mem := by
  simp [State.giveUp]

@[simp] theorem State.stepWait_mem (s : State) (a2 : _) : (State.stepWait s a2).mem = s.mem := by
  simp [State.stepWait] <;> (repeat' split) <;> simp

@[simp] theorem State.syncSkip_mem (s : State) (a2 : _) : (State.syncSkip s a2).mem = s.mem := by
  simp [State.syncSkip]

@[simp] theorem syncOp_mem (s : State) (c : CoreId) (f : PartId → Core → State) (h : ∀ p k, (f p k).mem = s.mem) : (stateOf s (syncOp s c f)).mem = s.mem := by
  simp only [syncOp]
  split <;> simp [h]

@[simp] theorem State.remoteWait_mem (s : State) (a2 a3 a4 a5 a6 a7 a8 : _) : (State.remoteWait s a2 a3 a4 a5 a6 a7 a8).mem = s.mem := by
  simp [State.remoteWait]

@[simp] theorem execPegTake_mem (s : State) (a1 a2 a3 a4 a5 : _) : (stateOf s (execPegTake a1 a2 a3 a4 a5 s)).mem = s.mem := by
  refine syncOp_mem s _ _ ?_
  intro p k
  try dsimp only
  (repeat' split) <;> simp

@[simp] theorem execPegDec_mem (s : State) (a1 a2 a3 a4 a5 : _) : (stateOf s (execPegDec a1 a2 a3 a4 a5 s)).mem = s.mem := by
  refine syncOp_mem s _ _ ?_
  intro p k
  try dsimp only
  (repeat' split) <;> simp

@[simp] theorem execPegPost_mem (s : State) (a1 a2 a3 a4 a5 : _) : (stateOf s (execPegPost a1 a2 a3 a4 a5 s)).mem = s.mem := by
  refine syncOp_mem s _ _ ?_
  intro p k
  try dsimp only
  (repeat' split) <;> simp

@[simp] theorem execPegRead_mem (s : State) (a1 a2 a3 : _) : (stateOf s (execPegRead a1 a2 a3 s)).mem = s.mem := by
  refine syncOp_mem s _ _ ?_
  intro p k
  try dsimp only
  (repeat' split) <;> simp

@[simp] theorem execTallyAdv_mem (s : State) (a1 a2 a3 : _) : (stateOf s (execTallyAdv a1 a2 a3 s)).mem = s.mem := by
  refine syncOp_mem s _ _ ?_
  intro p k
  try dsimp only
  (repeat' split) <;> simp

@[simp] theorem execTallyWait_mem (s : State) (a1 a2 a3 : _) : (stateOf s (execTallyWait a1 a2 a3 s)).mem = s.mem := by
  refine syncOp_mem s _ _ ?_
  intro p k
  try dsimp only
  (repeat' split) <;> simp

@[simp] theorem execTallyRoom_mem (s : State) (a1 a2 : _) : (stateOf s (execTallyRoom a1 a2 s)).mem = s.mem := by
  refine syncOp_mem s _ _ ?_
  intro p k
  try dsimp only
  (repeat' split) <;> simp

@[simp] theorem execTallyRead_mem (s : State) (a1 a2 a3 : _) : (stateOf s (execTallyRead a1 a2 a3 s)).mem = s.mem := by
  refine syncOp_mem s _ _ ?_
  intro p k
  try dsimp only
  (repeat' split) <;> simp

@[simp] theorem State.bellAgain_mem (s : State) (a2 a3 a4 a5 : _) : (State.bellAgain s a2 a3 a4 a5).mem = s.mem := by
  simp [State.bellAgain]

@[simp] theorem execBellArrive_mem (s : State) (a1 a2 a3 a4 a5 : _) : (stateOf s (execBellArrive a1 a2 a3 a4 a5 s)).mem = s.mem := by
  refine syncOp_mem s _ _ ?_
  intro p k
  try dsimp only
  (repeat' split) <;> simp

@[simp] theorem State.logOperands_mem (s : State) (a2 a3 a4 : _) : (State.logOperands s a2 a3 a4).mem = s.mem := by
  simp [State.logOperands]

@[simp] theorem State.enqueue_mem (s : State) (a2 a3 : _) : (State.enqueue s a2 a3).mem = s.mem := by
  simp [State.enqueue]

@[simp] theorem pushOp_mem (s : State) (a2 a3 a4 a5 : _) : (stateOf s (pushOp s a2 a3 a4 a5)).mem = s.mem := by
  simp [pushOp]

@[simp] theorem execBeamMm_mem (s : State) (a1 a2 a3 : _) : (stateOf s (execBeamMm a1 a2 a3 s)).mem = s.mem := by
  simp [execBeamMm]

@[simp] theorem execBeamLoad_mem (s : State) (a1 a2 a3 : _) : (stateOf s (execBeamLoad a1 a2 a3 s)).mem = s.mem := by
  simp [execBeamLoad]

@[simp] theorem execBeamAcc_mem (s : State) (a1 a2 a3 : _) : (stateOf s (execBeamAcc a1 a2 a3 s)).mem = s.mem := by
  simp [execBeamAcc]

@[simp] theorem execPlaneAdd_mem (s : State) (a1 a2 a3 : _) : (stateOf s (execPlaneAdd a1 a2 a3 s)).mem = s.mem := by
  simp [execPlaneAdd]

@[simp] theorem execPlaneSub_mem (s : State) (a1 a2 a3 : _) : (stateOf s (execPlaneSub a1 a2 a3 s)).mem = s.mem := by
  simp [execPlaneSub]

@[simp] theorem execPlaneMul_mem (s : State) (a1 a2 a3 : _) : (stateOf s (execPlaneMul a1 a2 a3 s)).mem = s.mem := by
  simp [execPlaneMul]

@[simp] theorem execPlaneFma_mem (s : State) (a1 a2 a3 : _) : (stateOf s (execPlaneFma a1 a2 a3 s)).mem = s.mem := by
  simp [execPlaneFma]

@[simp] theorem execPlaneMax_mem (s : State) (a1 a2 a3 : _) : (stateOf s (execPlaneMax a1 a2 a3 s)).mem = s.mem := by
  simp [execPlaneMax]

@[simp] theorem execPlaneMin_mem (s : State) (a1 a2 a3 : _) : (stateOf s (execPlaneMin a1 a2 a3 s)).mem = s.mem := by
  simp [execPlaneMin]

@[simp] theorem execPlaneAbs_mem (s : State) (a1 a2 a3 : _) : (stateOf s (execPlaneAbs a1 a2 a3 s)).mem = s.mem := by
  simp [execPlaneAbs]

@[simp] theorem execPlaneNeg_mem (s : State) (a1 a2 a3 : _) : (stateOf s (execPlaneNeg a1 a2 a3 s)).mem = s.mem := by
  simp [execPlaneNeg]

@[simp] theorem execPlaneCvt_mem (s : State) (a1 a2 a3 : _) : (stateOf s (execPlaneCvt a1 a2 a3 s)).mem = s.mem := by
  simp [execPlaneCvt]

@[simp] theorem execPlaneExp_mem (s : State) (a1 a2 a3 : _) : (stateOf s (execPlaneExp a1 a2 a3 s)).mem = s.mem := by
  simp [execPlaneExp]

@[simp] theorem execPlaneLog_mem (s : State) (a1 a2 a3 : _) : (stateOf s (execPlaneLog a1 a2 a3 s)).mem = s.mem := by
  simp [execPlaneLog]

@[simp] theorem execPlaneRecip_mem (s : State) (a1 a2 a3 : _) : (stateOf s (execPlaneRecip a1 a2 a3 s)).mem = s.mem := by
  simp [execPlaneRecip]

@[simp] theorem execPlaneRsqrt_mem (s : State) (a1 a2 a3 : _) : (stateOf s (execPlaneRsqrt a1 a2 a3 s)).mem = s.mem := by
  simp [execPlaneRsqrt]

@[simp] theorem execPlaneTanh_mem (s : State) (a1 a2 a3 : _) : (stateOf s (execPlaneTanh a1 a2 a3 s)).mem = s.mem := by
  simp [execPlaneTanh]

@[simp] theorem execPlaneSigmoid_mem (s : State) (a1 a2 a3 : _) : (stateOf s (execPlaneSigmoid a1 a2 a3 s)).mem = s.mem := by
  simp [execPlaneSigmoid]

@[simp] theorem execPlaneRsum_mem (s : State) (a1 a2 a3 : _) : (stateOf s (execPlaneRsum a1 a2 a3 s)).mem = s.mem := by
  simp [execPlaneRsum]

@[simp] theorem execPlaneRmax_mem (s : State) (a1 a2 a3 : _) : (stateOf s (execPlaneRmax a1 a2 a3 s)).mem = s.mem := by
  simp [execPlaneRmax]

@[simp] theorem execPlaneOsm_mem (s : State) (a1 a2 a3 : _) : (stateOf s (execPlaneOsm a1 a2 a3 s)).mem = s.mem := by
  simp [execPlaneOsm]

@[simp] theorem execPlaneLsemerge_mem (s : State) (a1 a2 a3 : _) : (stateOf s (execPlaneLsemerge a1 a2 a3 s)).mem = s.mem := by
  simp [execPlaneLsemerge]

@[simp] theorem execCartCopy_mem (s : State) (a1 a2 a3 : _) : (stateOf s (execCartCopy a1 a2 a3 s)).mem = s.mem := by
  simp [execCartCopy]

@[simp] theorem execCartGather_mem (s : State) (a1 a2 a3 : _) : (stateOf s (execCartGather a1 a2 a3 s)).mem = s.mem := by
  simp [execCartGather]

@[simp] theorem execCartScatter_mem (s : State) (a1 a2 a3 : _) : (stateOf s (execCartScatter a1 a2 a3 s)).mem = s.mem := by
  simp [execCartScatter]

@[simp] theorem execGrindJob_mem (s : State) (a1 a2 a3 : _) : (stateOf s (execGrindJob a1 a2 a3 s)).mem = s.mem := by
  simp [execGrindJob]

@[simp] theorem execPushAfterStall_mem (s : State) (a1 : _) : (stateOf s (execPushAfterStall a1 s)).mem = s.mem := by
  unfold execPushAfterStall
  split <;> simp

@[simp] theorem State.cartEarly_mem (s : State) (a2 a3 a4 : _) : (State.cartEarly s a2 a3 a4).mem = s.mem := by
  simp [State.cartEarly]

@[simp] theorem State.cartXlateFail_mem (s : State) (a2 a3 a4 a5 a6 : _) : (State.cartXlateFail s a2 a3 a4 a5 a6).mem = s.mem := by
  simp [State.cartXlateFail]

@[simp] theorem State.cartWalkRead_mem (s : State) (a2 a3 a4 a5 : _) : (State.cartWalkRead s a2 a3 a4 a5).mem = s.mem := by
  simp [State.cartWalkRead]

@[simp] theorem State.cartStore_mem (s : State) (a2 a3 a4 a5 : _) : (State.cartStore s a2 a3 a4 a5).mem = s.mem := by
  simp [State.cartStore] <;> (repeat' split) <;> simp

@[simp] theorem State.cartDrain_mem (s : State) (a2 a3 a4 : _) : (State.cartDrain s a2 a3 a4).mem = s.mem := by
  induction a4 generalizing s with
  | zero => simp [State.cartDrain]
  | succ n ih =>
    unfold State.cartDrain
    (repeat' split) <;> simp [ih]

@[simp] theorem State.cartIssue_mem (s : State) (a2 a3 a4 a5 a6 : _) : (State.cartIssue s a2 a3 a4 a5 a6).mem = s.mem := by
  simp [State.cartIssue] <;> (repeat' split) <;> simp

@[simp] theorem State.cartSteps_mem (s : State) (a2 a3 a4 a5 a6 : _) : (State.cartSteps s a2 a3 a4 a5 a6).mem = s.mem := by
  induction a6 generalizing s with
  | zero => simp [State.cartSteps]
  | succ n ih =>
    unfold State.cartSteps
    dsimp only
    (repeat' split) <;> simp [ih] <;> (repeat' split) <;> simp

@[simp] theorem State.cartPump_mem (s : State) (a2 a3 : _) : (State.cartPump s a2 a3).mem = s.mem := by
  unfold State.cartPump
  split <;> simp

@[simp] theorem State.cartWrap_mem (s : State) (a2 a3 : _) : (State.cartWrap s a2 a3).mem = s.mem := by
  simp [State.cartWrap]

@[simp] theorem execCartReadData_mem (s : State) (a1 a2 : _) : (stateOf s (execCartReadData a1 a2 s)).mem = s.mem := by
  unfold execCartReadData
  split
  · rfl
  · split
    · rfl
    · rename_i h
      have := State.takeResp_mem _ _ _ _ h
      dsimp only [stateOf_whenever]
      (repeat' split) <;> simp [this]

@[simp] theorem execCartWriteAck_mem (s : State) (a1 a2 : _) : (stateOf s (execCartWriteAck a1 a2 s)).mem = s.mem := by
  unfold execCartWriteAck
  split
  · rfl
  · split
    · rfl
    · rename_i h
      have := State.takeResp_mem _ _ _ _ h
      dsimp only [stateOf_whenever]
      (repeat' split) <;> simp [this]

@[simp] theorem State.cartWalkData_mem (s : State) (a2 a3 a4 a5 a6 : _) : (State.cartWalkData s a2 a3 a4 a5 a6).mem = s.mem := by
  unfold State.cartWalkData
  (repeat' split) <;> simp

@[simp] theorem State.cartWalkBack_mem (s : State) (a2 a3 : _) : (State.cartWalkBack s a2 a3).mem = s.mem := by
  unfold State.cartWalkBack
  (repeat' split) <;> first | rfl | (rename_i h; simp [State.takeResp_mem _ _ _ _ h])

@[simp] theorem State.cartRewalk_mem (s : State) (a2 a3 : _) : (State.cartRewalk s a2 a3).mem = s.mem := by
  unfold State.cartRewalk
  (repeat' split) <;> simp

@[simp] theorem State.traceCmd_mem (s : State) (a2 a3 a4 a5 a6 a7 : _) : (State.traceCmd s a2 a3 a4 a5 a6 a7).mem = s.mem := by
  simp [State.traceCmd]

@[simp] theorem State.post_mem (s : State) (a2 a3 a4 : _) : (State.post s a2 a3 a4).mem = s.mem := by
  unfold State.post
  (repeat' split) <;> simp

@[simp] theorem State.popQueue_mem (s : State) (a2 a3 : _) : (State.popQueue s a2 a3).mem = s.mem := by
  simp [State.popQueue]

@[simp] theorem State.atHead_mem (s : State) (a2 a3 a4 : _) : (State.atHead s a2 a3 a4).mem = s.mem := by
  unfold State.atHead
  (repeat' split) <;> simp

@[simp] theorem execCommandAtHead_mem (s : State) (a1 a2 : _) : (stateOf s (execCommandAtHead a1 a2 s)).mem = s.mem := by
  simp [execCommandAtHead] <;> (repeat' split) <;> simp

@[simp] theorem State.skipHead_mem (s : State) (a2 a3 a4 a5 a6 : _) : (State.skipHead s a2 a3 a4 a5 a6).mem = s.mem := by
  simp [State.skipHead]

@[simp] theorem State.startCmd_mem (s : State) (a2 a3 a4 : _) : (State.startCmd s a2 a3 a4).mem = s.mem := by
  unfold State.startCmd
  split <;> simp

@[simp] theorem execCommandStart_mem (s : State) (a1 a2 : _) : (stateOf s (execCommandStart a1 a2 s)).mem = s.mem := by
  simp [execCommandStart] <;> (repeat' split) <;> simp

@[simp] theorem State.endCmd_mem (s : State) (a2 a3 a4 a5 : _) : (State.endCmd s a2 a3 a4 a5).mem = s.mem := by
  unfold State.endCmd
  split <;> simp

@[simp] theorem State.workDone_mem (s : State) (a2 a3 : _) : (State.workDone s a2 a3).mem = s.mem := by
  simp [State.workDone]

@[simp] theorem State.finishWork_mem (s : State) (a2 a3 a4 : _) : (State.finishWork s a2 a3 a4).mem = s.mem := by
  simp [State.finishWork] <;> (repeat' split) <;> simp

@[simp] theorem State.engineCycle_mem (s : State) (a2 a3 : _) : (State.engineCycle s a2 a3).mem = s.mem := by
  simp [State.engineCycle] <;> (repeat' split) <;> simp

@[simp] theorem State.engineTick_mem (s : State) : (State.engineTick s).mem = s.mem := by
  unfold State.engineTick
  refine mem_foldl _ ?_ _ _
  intro s a
  split
  · exact mem_foldl _ (by intros; simp) _ _
  · rfl

@[simp] theorem execCommandFinish_mem (s : State) (a1 a2 : _) : (stateOf s (execCommandFinish a1 a2 s)).mem = s.mem := by
  simp [execCommandFinish] <;> (repeat' split) <;> simp

@[simp] theorem State.markStopped_mem (s : State) (a2 a3 : _) : (State.markStopped s a2 a3).mem = s.mem := by
  simp [State.markStopped]

@[simp] theorem State.stopAfter_mem (s : State) (a2 a3 a4 a5 : _) : (State.stopAfter s a2 a3 a4 a5).mem = s.mem := by
  simp [State.stopAfter] <;> (repeat' split) <;> simp

@[simp] theorem State.resumeBeam_mem (s : State) (a2 : _) : (State.resumeBeam s a2).mem = s.mem := by
  simp [State.resumeBeam] <;> (repeat' split) <;> simp

@[simp] theorem execEngineResume_mem (s : State) (a1 a2 : _) : (stateOf s (execEngineResume a1 a2 s)).mem = s.mem := by
  unfold execEngineResume
  split <;> simp

@[simp] theorem State.mapCores_mem (s : State) (a2 : _) : (State.mapCores s a2).mem = s.mem := by
  simp [State.mapCores]

@[simp] theorem State.wrapCarts_mem (s : State) : (State.wrapCarts s).mem = s.mem := by
  unfold State.wrapCarts
  refine mem_foldl _ ?_ _ _
  intro s a
  split <;> simp

@[simp] theorem execCalendarWrap_mem (s : State) : (stateOf s (execCalendarWrap s)).mem = s.mem := by
  simp [execCalendarWrap]

@[simp] theorem execDutyWrap_mem (s : State) : (stateOf s (execDutyWrap s)).mem = s.mem := by
  simp [execDutyWrap]

@[simp] theorem State.modG_mem (s : State) (a2 a3 : _) : (State.modG s a2 a3).mem = s.mem := by
  simp [State.modG]

@[simp] theorem State.logOwn_mem (s : State) (a2 a3 a4 a5 a6 : _) : (State.logOwn s a2 a3 a4 a5 a6).mem = s.mem := by
  simp [State.logOwn]

@[simp] theorem State.viol_mem (s : State) (a2 : _) : (State.viol s a2).mem = s.mem := by
  simp [State.viol]

@[simp] theorem State.inModes_mem (s : State) (g : GranChan) (ms : List GMode) (t : State) (h : t.mem = s.mem) :
    (s.inModes g ms t).mem = s.mem := by
  simp [State.inModes, h]

@[simp] theorem State.toProcessor_mem (s : State) (a2 : _) : (State.toProcessor s a2).mem = s.mem := by
  simp [State.toProcessor]

@[simp] theorem State.toMemory_mem (s : State) (a2 : _) : (State.toMemory s a2).mem = s.mem := by
  simp [State.toMemory]

@[simp] theorem execMrwGmode_mem (s : State) (a1 a2 : _) : (stateOf s (execMrwGmode a1 a2 s)).mem = s.mem := by
  simp [execMrwGmode]

@[simp] theorem execMrwGqmask_mem (s : State) (a1 a2 : _) : (stateOf s (execMrwGqmask a1 a2 s)).mem = s.mem := by
  simp [execMrwGqmask]

@[simp] theorem execMrwGstat_mem (s : State) (a1 a2 : _) : (stateOf s (execMrwGstat a1 a2 s)).mem = s.mem := by
  simp [execMrwGstat]

@[simp] theorem State.toController_mem (s : State) (a2 a3 : _) : (State.toController s a2 a3).mem = s.mem := by
  simp [State.toController]

@[simp] theorem execMrr_mem (s : State) (a1 a2 : _) : (stateOf s (execMrr a1 a2 s)).mem = s.mem := by
  simp [execMrr]

@[simp] theorem execPld_mem (s : State) (a1 a2 a3 : _) : (stateOf s (execPld a1 a2 a3 s)).mem = s.mem := by
  simp [execPld]

@[simp] theorem State.loadStore_mem (s : State) (a2 : _) : (State.loadStore s a2).mem = s.mem := by
  simp [State.loadStore]

@[simp] theorem State.requestLoad_mem (s : State) (a2 : _) : (State.requestLoad s a2).mem = s.mem := by
  simp [State.requestLoad]

@[simp] theorem execQprogLoad_mem (s : State) (a1 a2 : _) : (stateOf s (execQprogLoad a1 a2 s)).mem = s.mem := by
  unfold execQprogLoad
  split <;> simp

@[simp] theorem State.readGstat_mem (s : State) (a2 : _) : (State.readGstat s a2).mem = s.mem := by
  simp [State.readGstat]

@[simp] theorem State.switchDone_mem (s : State) (a2 : _) : (State.switchDone s a2).mem = s.mem := by
  unfold State.switchDone
  split <;> simp

@[simp] theorem execModeSwitchDone_mem (s : State) (a1 : _) : (stateOf s (execModeSwitchDone a1 s)).mem = s.mem := by
  simp [execModeSwitchDone]

@[simp] theorem execQwr_mem (s : State) (a1 a2 a3 a4 a5 a6 : _) : (stateOf s (execQwr a1 a2 a3 a4 a5 a6 s)).mem = s.mem := by
  simp only [execQwr, stateOf_checked, stateOf_whenever]
  split
  · split
    · refine State.inModes_mem _ _ _ _ ((apply_ite _ _ _ _).trans ?_)
      rw [State.viol_mem, mem_foldl _ (by intros; simp), ite_self]
    · rfl
  · rfl

@[simp] theorem State.qgo_mem (s : State) (a2 a3 : _) : (State.qgo s a2 a3).mem = s.mem := by
  unfold State.qgo
  dsimp only
  rw [mem_foldl _ (by intro s a; split <;> simp)]
  simp

@[simp] theorem execQgo_mem (s : State) (a1 a2 : _) : (stateOf s (execQgo a1 a2 s)).mem = s.mem := by
  simp [execQgo]

@[simp] theorem execQrd_mem (s : State) (a1 a2 a3 a4 : _) : (stateOf s (execQrd a1 a2 a3 a4 s)).mem = s.mem := by
  simp [execQrd]

@[simp] theorem execQst_mem (s : State) (a1 : _) : (stateOf s (execQst a1 s)).mem = s.mem := by
  simp [execQst]

@[simp] theorem State.qstop_mem (s : State) (a2 : _) : (State.qstop s a2).mem = s.mem := by
  unfold State.qstop
  simp only [State.readGstat_mem]
  exact mem_foldl _ (by intro s a; simp) _ _

@[simp] theorem execQstop_mem (s : State) (a1 : _) : (stateOf s (execQstop a1 s)).mem = s.mem := by
  simp [execQstop]

@[simp] theorem execQuernTimeout_mem (s : State) (a1 : _) : (stateOf s (execQuernTimeout a1 s)).mem = s.mem := by
  simp [execQuernTimeout]

@[simp] theorem State.grantActivate_mem (s : State) (a2 : _) : (State.grantActivate s a2).mem = s.mem := by
  simp [State.grantActivate] <;> (repeat' split) <;> simp

@[simp] theorem execActivateGrant_mem (s : State) (a1 : _) : (stateOf s (execActivateGrant a1 s)).mem = s.mem := by
  simp [execActivateGrant]

@[simp] theorem quernOp_mem (s : State) (g : GranChan) (p : Fin 16) (op : Nat) (f : Nat → Bool) (t : State) (h : t.mem = s.mem) : (stateOf s (quernOp s g p op f t)).mem = s.mem := by
  simp [quernOp, h]

@[simp] theorem State.stopOpen_mem (s : State) (a2 a3 a4 : _) : (State.stopOpen s a2 a3 a4).mem = s.mem := by
  simp [State.stopOpen]

@[simp] theorem regOp_mem (s : State) (g : GranChan) (p : QuernStep) (op : Nat) (f : Nat → Bool) (e : Quern → Quern) :
    (stateOf s (regOp s g p op f e)).mem = s.mem := by
  simp only [regOp]
  exact quernOp_mem s g p.pair op f _ (by split <;> simp)

@[simp] theorem execQHalt_mem (s : State) (a1 a2 : _) : (stateOf s (execQHalt a1 a2 s)).mem = s.mem := by
  simp [execQHalt]

@[simp] theorem execQJmp_mem (s : State) (a1 a2 a3 : _) : (stateOf s (execQJmp a1 a2 a3 s)).mem = s.mem := by
  simp [execQJmp]

@[simp] theorem execQBz_mem (s : State) (a1 a2 a3 a4 : _) : (stateOf s (execQBz a1 a2 a3 a4 s)).mem = s.mem := by
  simp [execQBz]

@[simp] theorem execQBnz_mem (s : State) (a1 a2 a3 a4 : _) : (stateOf s (execQBnz a1 a2 a3 a4 s)).mem = s.mem := by
  simp [execQBnz]

@[simp] theorem execQLoop_mem (s : State) (a1 a2 a3 a4 : _) : (stateOf s (execQLoop a1 a2 a3 a4 s)).mem = s.mem := by
  simp [execQLoop]

@[simp] theorem execQLi_mem (s : State) (a1 a2 a3 a4 : _) : (stateOf s (execQLi a1 a2 a3 a4 s)).mem = s.mem := by
  simp [execQLi]

@[simp] theorem execQLui_mem (s : State) (a1 a2 a3 a4 : _) : (stateOf s (execQLui a1 a2 a3 a4 s)).mem = s.mem := by
  simp [execQLui]

@[simp] theorem execQAddi_mem (s : State) (a1 a2 a3 a4 a5 : _) : (stateOf s (execQAddi a1 a2 a3 a4 a5 s)).mem = s.mem := by
  simp [execQAddi]

@[simp] theorem execQAdd_mem (s : State) (a1 a2 a3 a4 a5 : _) : (stateOf s (execQAdd a1 a2 a3 a4 a5 s)).mem = s.mem := by
  simp [execQAdd]

@[simp] theorem execQSub_mem (s : State) (a1 a2 a3 a4 a5 : _) : (stateOf s (execQSub a1 a2 a3 a4 a5 s)).mem = s.mem := by
  simp [execQSub]

@[simp] theorem execLdcw_mem (s : State) (a1 a2 a3 a4 : _) : (stateOf s (execLdcw a1 a2 a3 a4 s)).mem = s.mem := by
  simp [execLdcw]

@[simp] theorem execLw_mem (s : State) (a1 a2 a3 a4 a5 : _) : (stateOf s (execLw a1 a2 a3 a4 a5 s)).mem = s.mem := by
  simp [execLw]

@[simp] theorem execSw_mem (s : State) (a1 a2 a3 a4 a5 : _) : (stateOf s (execSw a1 a2 a3 a4 a5 s)).mem = s.mem := by
  simp [execSw]

@[simp] theorem execNblk_mem (s : State) (a1 a2 a3 a4 : _) : (stateOf s (execNblk a1 a2 a3 a4 s)).mem = s.mem := by
  simp [execNblk]

@[simp] theorem execAcci_mem (s : State) (a1 a2 : _) : (stateOf s (execAcci a1 a2 s)).mem = s.mem := by
  simp [execAcci]

@[simp] theorem State.askActivates_mem (s : State) (a2 a3 a4 a5 : _) : (State.askActivates s a2 a3 a4 a5).mem = s.mem := by
  simp [State.askActivates]

theorem BankRead.line_mem (r : BankRead) (g : GranChan) (p : Fin 16) (l : Nat) : (r.line g p l).st.mem = r.st.mem := by
  unfold BankRead.line
  split
  · rfl
  · dsimp only
    split <;> simp
theorem BankRead.fold_mem (g : GranChan) (p : Fin 16) (f : Nat → Nat) (l : List Nat) (r : BankRead) :
    (l.foldl (fun r i => r.line g p (f i)) r).st.mem = r.st.mem := by
  induction l generalizing r with
  | nil => rfl
  | cons a l ih => simp [List.foldl, ih, BankRead.line_mem]
@[simp] theorem State.bankRead_mem (s : State) (g : GranChan) (p : Fin 16) (l n : Nat) : (s.bankRead g p l n).st.mem = s.mem :=
  BankRead.fold_mem g p _ _ _
@[simp] theorem State.stream_mem (s : State) (g : GranChan) (p : Fin 16) (l n : Nat) (ok par : Bool) (errs : LineErrors)
    (f : List Byte → Quern → Quern) : (s.stream g p l n ok par errs f).mem = s.mem := by
  unfold State.stream
  dsimp only
  (repeat' split) <;> simp

@[simp] theorem execKdot_mem (s : State) (a1 a2 a3 a4 a5 a6 : _) : (stateOf s (execKdot a1 a2 a3 a4 a5 a6 s)).mem = s.mem := by
  simp [execKdot]

@[simp] theorem execQuernOsm_mem (s : State) (a1 a2 : _) : (stateOf s (execQuernOsm a1 a2 s)).mem = s.mem := by
  simp [execQuernOsm]

@[simp] theorem execVacc_mem (s : State) (a1 a2 a3 a4 a5 a6 : _) : (stateOf s (execVacc a1 a2 a3 a4 a5 a6 s)).mem = s.mem := by
  simp [execVacc]

@[simp] theorem execMvec_mem (s : State) (a1 a2 a3 a4 a5 a6 a7 a8 : _) : (stateOf s (execMvec a1 a2 a3 a4 a5 a6 a7 a8 s)).mem = s.mem := by
  simp [execMvec]

@[simp] theorem execBadop_mem (s : State) (a1 a2 a3 : _) : (stateOf s (execBadop a1 a2 a3 s)).mem = s.mem := by
  simp [execBadop]

@[simp] theorem execQuernPcOverrun_mem (s : State) (a1 a2 : _) : (stateOf s (execQuernPcOverrun a1 a2 s)).mem = s.mem := by
  simp [execQuernPcOverrun]

@[simp] theorem State.logList_mem (s : State) (a2 a3 a4 : _) : (State.logList s a2 a3 a4).mem = s.mem := by
  simp [State.logList]

@[simp] theorem State.setGranaryQueue_mem (s : State) (a2 a3 : _) : (State.setGranaryQueue s a2 a3).mem = s.mem := by
  simp [State.setGranaryQueue]

@[simp] theorem State.checkGrind_mem (s : State) (a2 a3 a4 : _) : (State.checkGrind s a2 a3 a4).2.mem = s.mem := by
  simp [State.checkGrind] <;> (repeat' split) <;> simp

@[simp] theorem State.enterGranary_mem (s : State) (a2 : _) : (State.enterGranary s a2).mem = s.mem := by
  simp [State.enterGranary]

@[simp] theorem execGrindCheck_mem (s : State) (a1 : _) : (stateOf s (execGrindCheck a1 s)).mem = s.mem := by
  simp [execGrindCheck] <;> (repeat' split) <;> simp

@[simp] theorem State.takeChan_mem (s : State) (a2 : _) : (State.takeChan s a2).mem = s.mem := by
  simp [State.takeChan]

@[simp] theorem State.admitJob_mem (s : State) (a2 a3 : _) : (State.admitJob s a2 a3).mem = s.mem := by
  simp [State.admitJob]

@[simp] theorem State.admitHead_mem (s : State) (a2 : _) : (State.admitHead s a2).mem = s.mem := by
  unfold State.admitHead
  (repeat' split) <;> simp

@[simp] theorem execGrindAdmit_mem (s : State) (a1 : _) : (stateOf s (execGrindAdmit a1 s)).mem = s.mem := by
  simp [execGrindAdmit]

@[simp] theorem State.dropJob_mem (s : State) (a2 : _) : (State.dropJob s a2).mem = s.mem := by
  simp [State.dropJob]

@[simp] theorem State.fillers_mem (s : State) (a2 : _) : (State.fillers s a2).2.mem = s.mem := by
  induction a2 generalizing s with
  | zero => simp [State.fillers]
  | succ n ih => simp [State.fillers, ih]

@[simp] theorem State.setUpQuern_mem (s : State) (a1 a2 a4 : _) : (State.setUpQuern a1 a2 s a4).mem = s.mem := by
  simp [State.setUpQuern]

@[simp] theorem State.broadcastSetUp_mem (s : State) (a1 a2 : _) : (State.broadcastSetUp a1 a2 s).mem = s.mem := by
  unfold State.broadcastSetUp
  dsimp only
  exact mem_foldl _ (by intros; simp) _ _

@[simp] theorem State.startChan_mem (s : State) (a1 a3 : _) : (State.startChan a1 s a3).mem = s.mem := by
  simp [State.startChan]

@[simp] theorem State.setJobPhase_mem (s : State) (a2 a3 : _) : (State.setJobPhase s a2 a3).mem = s.mem := by
  simp [State.setJobPhase]

@[simp] theorem execGrindStart_mem (s : State) (a1 : _) : (stateOf s (execGrindStart a1 s)).mem = s.mem := by
  unfold execGrindStart
  split <;> simp

@[simp] theorem execGrindDeadline_mem (s : State) (a1 : _) : (stateOf s (execGrindDeadline a1 s)).mem = s.mem := by
  unfold execGrindDeadline
  split <;> simp

@[simp] theorem State.endJob_mem (s : State) (a2 a3 a4 a5 : _) : (State.endJob s a2 a3 a4 a5).mem = s.mem := by
  unfold State.endJob
  (repeat' split) <;> simp

@[simp] theorem State.logQuerns_mem (s : State) (a2 a3 : _) : (State.logQuerns s a2 a3).mem = s.mem := by
  simp [State.logQuerns]

@[simp] theorem State.mergeJob_mem (s : State) (a2 : _) : (State.mergeJob s a2).mem = s.mem := by
  simp [State.mergeJob] <;> (repeat' split) <;> simp

@[simp] theorem execGrindMerge_mem (s : State) (a1 : _) : (stateOf s (execGrindMerge a1 s)).mem = s.mem := by
  unfold execGrindMerge
  split <;> simp

@[simp] theorem State.leaveGranary_mem (s : State) (a2 : _) : (State.leaveGranary s a2).mem = s.mem := by
  simp [State.leaveGranary]

@[simp] theorem State.putBackJob_mem (s : State) (a2 : _) : (State.putBackJob s a2).mem = s.mem := by
  unfold State.putBackJob
  split <;> simp

@[simp] theorem State.killJob_mem (s : State) (a2 : _) : (State.killJob s a2).mem = s.mem := by
  simp [State.killJob]

@[simp] theorem State.holdGrind_mem (s : State) (a2 a3 : _) : (State.holdGrind s a2 a3).mem = s.mem := by
  unfold State.holdGrind
  split <;> simp

@[simp] theorem State.dropTake_mem (s : State) (a2 a3 : _) : (State.dropTake s a2 a3).mem = s.mem := by
  unfold State.dropTake
  (repeat' split) <;> simp

@[simp] theorem State.holdEngine_mem (s : State) (a2 a3 a4 : _) : (State.holdEngine s a2 a3 a4).mem = s.mem := by
  simp [State.holdEngine] <;> (repeat' split) <;> simp

@[simp] theorem State.takeStop_mem (s : State) (a2 a3 : _) : (State.takeStop s a2 a3).mem = s.mem := by
  simp [State.takeStop]

@[simp] theorem execStopRequest_mem (s : State) (a1 a2 : _) : (stateOf s (execStopRequest a1 a2 s)).mem = s.mem := by
  simp [execStopRequest]

@[simp] theorem State.takePending_mem (s : State) (a2 : _) : (State.takePending s a2).mem = s.mem := by
  unfold State.takePending
  split <;> simp

@[simp] theorem execSyncAnswer_mem (s : State) (a1 : _) : (stateOf s (execSyncAnswer a1 s)).mem = s.mem := by
  unfold execSyncAnswer
  split <;> simp

@[simp] theorem State.sendWithdraw_mem (s : State) (a2 : _) : (State.sendWithdraw s a2).mem = s.mem := by
  unfold State.sendWithdraw
  split <;> simp

@[simp] theorem State.withdraw_mem (s : State) (a2 a3 a4 : _) : (State.withdraw s a2 a3 a4).mem = s.mem := by
  unfold State.withdraw
  (repeat' split) <;> simp

@[simp] theorem execSyncWithdraw_mem (s : State) (a1 : _) : (stateOf s (execSyncWithdraw a1 s)).mem = s.mem := by
  unfold execSyncWithdraw
  split <;> simp

@[simp] theorem State.stopGrind_mem (s : State) (a2 : _) : (State.stopGrind s a2).mem = s.mem := by
  unfold State.stopGrind
  split <;> simp

@[simp] theorem execEngineStopped_mem (s : State) (a1 a2 a3 : _) : (stateOf s (execEngineStopped a1 a2 a3 s)).mem = s.mem := by
  simp [execEngineStopped] <;> (repeat' split) <;> simp

@[simp] theorem State.haltPart_mem (s : State) (a2 : _) : (State.haltPart s a2).mem = s.mem := by
  simp [State.haltPart]

@[simp] theorem State.resumePart_mem (s : State) (a2 : _) : (State.resumePart s a2).mem = s.mem := by
  simp [State.resumePart]

@[simp] theorem debugWrite_mem (s : State) (fn : FnId) (c : CoreId) (v : Word) (f : PartId → State) (h : ∀ p, (f p).mem = s.mem) : (stateOf s (debugWrite s fn c v f)).mem = s.mem := by
  exact bar0Write_mem s fn _ v _ (by intro l; split <;> simp [h])

@[simp] theorem execDebugHalt_mem (s : State) (a1 a2 : _) : (stateOf s (execDebugHalt a1 a2 s)).mem = s.mem := by
  simp [execDebugHalt]

@[simp] theorem execDebugResume_mem (s : State) (a1 a2 : _) : (stateOf s (execDebugResume a1 a2 s)).mem = s.mem := by
  simp [execDebugResume]

@[simp] theorem execDebugStep_mem (s : State) (a1 a2 : _) : (stateOf s (execDebugStep a1 a2 s)).mem = s.mem := by
  simp [execDebugStep]

@[simp] theorem State.requestLine_mem (s : State) (a2 a3 : _) : (State.requestLine s a2 a3).mem = s.mem := by
  simp [State.requestLine]

@[simp] theorem State.fetchAhead_mem (s : State) (a2 a3 : _) : (State.fetchAhead s a2 a3).mem = s.mem := by
  simp [State.fetchAhead]

@[simp] theorem State.missLine_mem (s : State) (a2 a3 : _) : (State.missLine s a2 a3).mem = s.mem := by
  simp [State.missLine]

@[simp] theorem execFetchMiss_mem (s : State) (a1 a2 : _) : (stateOf s (execFetchMiss a1 a2 s)).mem = s.mem := by
  simp [execFetchMiss]

theorem State.takeAll_mem (s : State) (a2 : _) (x t : _) (h : State.takeAll s a2 = some (x, t)) : t.mem = s.mem := by
  induction a2 generalizing s x t with
  | nil => simp [State.takeAll] at h; obtain ⟨_, rfl⟩ := h; rfl
  | cons i is ih =>
    unfold State.takeAll at h
    split at h
    · simp at h
    · rename_i r u hu
      cases hr : u.takeAll is with
      | none => simp [hr] at h
      | some y =>
        obtain ⟨y1, y2⟩ := y
        simp [hr] at h
        obtain ⟨_, rfl⟩ := h
        rw [ih u y1 y2 hr, State.takeResp_mem _ _ _ _ hu]

theorem State.readyFill_mem (s : State) (a2 : _) (x y t : _) (h : State.readyFill s a2 = some (x, y, t)) : t.mem = s.mem := by
  unfold State.readyFill at h
  obtain ⟨f, _, hf⟩ := List.exists_of_findSome?_eq_some h
  cases hr : s.takeAll f.2 with
  | none => simp [hr] at hf
  | some y =>
    obtain ⟨y1, y2⟩ := y
    simp [hr] at hf
    obtain ⟨_, _, rfl⟩ := hf
    exact State.takeAll_mem _ _ _ _ hr

@[simp] theorem State.fetchOn_mem (s : State) (a2 : _) : (State.fetchOn s a2).mem = s.mem := by
  simp [State.fetchOn] <;> (repeat' split) <;> simp

@[simp] theorem execFetchLineArrive_mem (s : State) (a1 : _) : (stateOf s (execFetchLineArrive a1 s)).mem = s.mem := by
  unfold execFetchLineArrive
  split
  · rfl
  · rename_i h
    have := State.readyFill_mem _ _ _ _ _ h
    simp [this]

@[simp] theorem State.fetchFail_mem (s : State) (a2 a3 : _) : (State.fetchFail s a2 a3).mem = s.mem := by
  simp [State.fetchFail]

@[simp] theorem execFetchError_mem (s : State) (a1 : _) : (stateOf s (execFetchError a1 s)).mem = s.mem := by
  simp [execFetchError] <;> (repeat' split) <;> simp

@[simp] theorem State.stall_mem (s : State) (a2 : _) : (State.stall s a2).mem = s.mem := by
  simp [State.stall]

@[simp] theorem State.arrange_mem (s : State) (a2 : _) : (State.arrange s a2).mem = s.mem := by
  unfold State.arrange
  split <;> simp

@[simp] theorem State.settle_mem (s t : State) (h : t.mem = s.mem) : (s.settle t).mem = s.mem := by
  unfold State.settle
  split
  · exact h
  · exact mem_foldl _ (fun s a => State.arrange_mem s a) _ _

@[simp] theorem State.reachPage_mem (s : State) (a2 : _) : (State.reachPage s a2).1.mem = s.mem := by
  simp [State.reachPage] <;> (repeat' split) <;> simp

@[simp] theorem State.refuseImage_mem (s : State) (a2 a3 : _) : (State.refuseImage s a2 a3).mem = s.mem := by
  unfold State.refuseImage
  split <;> simp

@[simp] theorem State.logLoad_mem (s : State) (a2 a3 a4 : _) : (State.logLoad s a2 a3 a4).mem = s.mem := by
  simp [State.logLoad]

@[simp] theorem State.giveImage_mem (s : State) (a2 : _) : (State.giveImage s a2).mem = s.mem := by
  unfold State.giveImage
  split <;> simp

@[simp] theorem State.logCode_mem (s : State) (a2 a3 : _) : (State.logCode s a2 a3).mem = s.mem := by
  simp [State.logCode]

@[simp] theorem State.noteImage_mem (s : State) (a2 : _) : (State.noteImage s a2).mem = s.mem := by
  simp [State.noteImage]

@[simp] theorem State.unpark_mem (s : State) (a2 a3 : _) : (State.unpark s a2 a3).mem = s.mem := by
  simp [State.unpark]

@[simp] theorem execImageIdle_mem (s : State) (a1 a2 : _) : (stateOf s (execImageIdle a1 a2 s)).mem = s.mem := by
  simp [execImageIdle]

@[simp] theorem State.statusLine_mem (s : State) (a2 : _) : (State.statusLine s a2).mem = s.mem := by
  simp [State.statusLine]

@[simp] theorem State.setRetired_mem (s : State) (a2 a3 : _) : (State.setRetired s a2 a3).mem = s.mem := by
  simp [State.setRetired]

@[simp] theorem State.retire_mem (s : State) (a2 a3 : _) : (State.retire s a2 a3).mem = s.mem := by
  simp [State.retire]

@[simp] theorem State.dropDesc_mem (s : State) (a2 a3 : _) : (State.dropDesc s a2 a3).mem = s.mem := by
  simp [State.dropDesc]

@[simp] theorem State.closeAbort_mem (s : State) (a2 : _) : (State.closeAbort s a2).mem = s.mem := by
  simp [State.closeAbort]

@[simp] theorem State.writeRecord_mem (s : State) (a2 a3 a4 a5 : _) : (State.writeRecord s a2 a3 a4 a5).mem = s.mem := by
  simp [State.writeRecord]

@[simp] theorem State.publish_mem (s : State) (a2 a3 : _) : (State.publish s a2 a3).mem = s.mem := by
  simp [State.publish]

@[simp] theorem State.publishAll_mem (s : State) (a2 a3 : _) : (State.publishAll s a2 a3).mem = s.mem := by
  simp [State.publishAll]

@[simp] theorem State.writeLine__mem (s : State) (a2 : _) : (State.writeLine_ s a2).mem = s.mem := by
  unfold State.writeLine_
  (repeat' split) <;> simp

@[simp] theorem State.releaseLine_mem (s : State) (a2 : _) : (State.releaseLine s a2).mem = s.mem := by
  unfold State.releaseLine
  (repeat' split) <;> simp

@[simp] theorem State.resumeLines_mem (s : State) : (State.resumeLines s).mem = s.mem := by
  simp [State.resumeLines]

@[simp] theorem State.flushed__mem (s : State) (a2 : _) : (State.flushed_ s a2).mem = s.mem := by
  simp [State.flushed_]

@[simp] theorem execFlushingReadDone_mem (s : State) (a1 : _) : (stateOf s (execFlushingReadDone a1 s)).mem = s.mem := by
  simp [execFlushingReadDone]

@[simp] theorem State.modHc_mem (s : State) (a2 a3 : _) : (State.modHc s a2 a3).mem = s.mem := by
  simp [State.modHc]

@[simp] theorem State.hcXlateFail_mem (s : State) (a2 a3 a4 a5 a6 a7 : _) : (State.hcXlateFail s a2 a3 a4 a5 a6 a7).mem = s.mem := by
  simp [State.hcXlateFail]

@[simp] theorem State.hcWalkRead_mem (s : State) (a2 a3 a4 a5 : _) : (State.hcWalkRead s a2 a3 a4 a5).mem = s.mem := by
  simp [State.hcWalkRead]

@[simp] theorem State.hcTranslate_mem (s : State) (a2 a3 a4 a5 a6 : _) : (State.hcTranslate s a2 a3 a4 a5 a6).1.mem = s.mem := by
  unfold State.hcTranslate
  dsimp only
  (repeat' split) <;> simp

@[simp] theorem State.hcWrites_mem (s : State) (a2 a3 a4 a5 : _) : (State.hcWrites s a2 a3 a4 a5).mem = s.mem := by
  induction a5 generalizing s with
  | zero => simp [State.hcWrites]
  | succ k ih =>
    unfold State.hcWrites
    split
    · rfl
    · rename_i va bs rest _
      split
      · rfl
      · have h := State.hcTranslate_mem s a2 a3 a4 va true
        split <;> rename_i ht <;> simp only [ht] at h
        · exact h
        · rw [ih]; simp [h]

@[simp] theorem State.hcReads_mem (s : State) (a2 a3 a4 a5 : _) : (State.hcReads s a2 a3 a4 a5).mem = s.mem := by
  induction a5 generalizing s with
  | zero => simp [State.hcReads]
  | succ k ih =>
    unfold State.hcReads
    dsimp only
    split
    · rfl
    · split
      · rfl
      · split
        · split <;> simp [ih]
        · split
          · simp [ih]
          · split <;> rename_i ht <;> have e := congrArg (fun x => x.1.mem) ht <;> simp at e
            · exact e.symm
            · rw [ih]; simp [e]

@[simp] theorem State.hcDrain_mem (s : State) (a2 a3 : _) : (State.hcDrain s a2 a3).mem = s.mem := by
  induction a3 generalizing s with
  | zero => simp [State.hcDrain]
  | succ k ih =>
    unfold State.hcDrain
    dsimp only
    (repeat' split) <;> simp [ih]

@[simp] theorem State.hcIndex_mem (s : State) (a2 a3 : _) : (State.hcIndex s a2 a3).mem = s.mem := by
  simp [State.hcIndex]

@[simp] theorem State.hcEnd_mem (s : State) (a2 a3 : _) : (State.hcEnd s a2 a3).mem = s.mem := by
  simp [State.hcEnd]

@[simp] theorem State.hcPump_mem (s : State) (a2 : _) : (State.hcPump s a2).mem = s.mem := by
  unfold State.hcPump
  split <;> simp

@[simp] theorem State.hcArrive_mem (s : State) (a2 a3 a4 a5 : _) : (State.hcArrive s a2 a3 a4 a5).mem = s.mem := by
  simp [State.hcArrive]

@[simp] theorem State.hcAcked_mem (s : State) (a2 a3 a4 : _) : (State.hcAcked s a2 a3 a4).mem = s.mem := by
  simp [State.hcAcked]

@[simp] theorem State.hcDeliver_mem (s : State) (a2 a3 : _) : (State.hcDeliver s a2 a3).mem = s.mem := by
  unfold State.hcDeliver
  split <;> simp

@[simp] theorem State.hcIndexed_mem (s : State) (a2 a3 a4 a5 : _) : (State.hcIndexed s a2 a3 a4 a5).mem = s.mem := by
  simp [State.hcIndexed]

@[simp] theorem State.hcWalkData_mem (s : State) (a2 a3 a4 a5 a6 : _) : (State.hcWalkData s a2 a3 a4 a5 a6).mem = s.mem := by
  unfold State.hcWalkData
  (repeat' split) <;> simp

@[simp] theorem State.hcWalkBack_mem (s : State) (a2 : _) : (State.hcWalkBack s a2).mem = s.mem := by
  unfold State.hcWalkBack
  split
  · rfl
  · split
    · rename_i h _
      have := State.takeResp_mem _ _ _ _ h
      split <;> simp [this]
    · rfl

@[simp] theorem State.hcRewalk_mem (s : State) (a2 : _) : (State.hcRewalk s a2).mem = s.mem := by
  unfold State.hcRewalk
  (repeat' split) <;> simp

@[simp] theorem State.cartRewalkIf_mem (s : State) (a1 a3 a4 : _) : (State.cartRewalkIf a1 s a3 a4).mem = s.mem := by
  unfold State.cartRewalkIf
  split <;> simp

@[simp] theorem State.rewalk_mem (s : State) (a2 : _) : (State.rewalk s a2).mem = s.mem := by
  unfold State.rewalk
  dsimp only
  rw [mem_foldl _ (by intro s a; split <;> [(split <;> simp); rfl]), mem_foldl _ (by intro s a; split <;> simp)]

@[simp] theorem execTableWalkRead_mem (s : State) (a1 : _) : (stateOf s (execTableWalkRead a1 s)).mem = s.mem := by
  unfold execTableWalkRead
  split <;> simp

@[simp] theorem execTranslationSweep_mem (s : State) : (stateOf s (execTranslationSweep s)).mem = s.mem := by
  simp [execTranslationSweep]

@[simp] theorem onDesc_mem (s : State) (r : RingId) (seq : BitVec 32) (opc : Nat) (f : PartId → Desc → State) (h : ∀ p d, (f p d).mem = s.mem) : (stateOf s (onDesc s r seq opc f)).mem = s.mem := by
  unfold onDesc
  split <;> simp [h]

@[simp] theorem State.running__mem (s : State) (a2 a3 : _) : (State.running_ s a2 a3).mem = s.mem := by
  simp [State.running_]

@[simp] theorem State.hcBegin_mem (s : State) (a2 a3 a4 a5 : _) : (State.hcBegin s a2 a3 a4 a5).mem = s.mem := by
  unfold State.hcBegin
  split <;> simp

@[simp] theorem execCopy_mem (s : State) (a1 a2 : _) : (stateOf s (execCopy a1 a2 s)).mem = s.mem := by
  simp [execCopy]

@[simp] theorem execCopyIndexed_mem (s : State) (a1 a2 : _) : (stateOf s (execCopyIndexed a1 a2 s)).mem = s.mem := by
  simp [execCopyIndexed]

@[simp] theorem State.inline_mem (s : State) (a2 a3 a4 a5 : _) : (State.inline s a2 a3 a4 a5).mem = s.mem := by
  simp [State.inline]

@[simp] theorem execWriteInline_mem (s : State) (a1 a2 : _) : (stateOf s (execWriteInline a1 a2 s)).mem = s.mem := by
  simp [execWriteInline]

@[simp] theorem execTimestamp_mem (s : State) (a1 a2 : _) : (stateOf s (execTimestamp a1 a2 s)).mem = s.mem := by
  simp [execTimestamp]

@[simp] theorem State.bar2Done_mem (s : State) (a2 : _) : (State.bar2Done s a2).mem = s.mem := by
  simp [State.bar2Done]

@[simp] theorem State.settleIngress_mem (s : State) : (State.settleIngress s).mem = s.mem := by
  simp [State.settleIngress]

@[simp] theorem State.ingressDone_mem (s : State) (a2 : _) : (State.ingressDone s a2).mem = s.mem := by
  simp [State.ingressDone]

@[simp] theorem State.ingressDropped_mem (s : State) (a2 a3 : _) : (State.ingressDropped s a2 a3).mem = s.mem := by
  unfold State.ingressDropped
  (repeat' split) <;> simp

@[simp] theorem State.served_mem (s : State) (a2 : _) : (State.served s a2).mem = s.mem := by
  unfold State.served
  split <;> simp

@[simp] theorem State.serveOn_mem (s : State) (a2 a3 : _) : (State.serveOn s a2 a3).mem = s.mem := by
  simp [State.serveOn]

@[simp] theorem State.serveAll_mem (s : State) (a2 a3 a4 a5 a6 a7 a8 : _) : (State.serveAll s a2 a3 a4 a5 a6 a7 a8).mem = s.mem := by
  simp [State.serveAll]

@[simp] theorem State.deliver_mem (s : State) (a2 : _) : (State.deliver s a2).mem = s.mem := by
  unfold State.deliver
  split <;> simp

@[simp] theorem deliverOpt_mem (x : State × Option MemResp) : (deliverOpt x).mem = x.1.mem := by
  unfold deliverOpt
  split <;> simp
@[simp] theorem execMemRequestArrive_mem (s : State) (src : BitVec 16) : (stateOf s (execMemRequestArrive src s)).mem = s.mem := by
  simp [execMemRequestArrive]

@[simp] theorem State.modJoint_mem (s : State) (a2 a3 a4 : _) : (State.modJoint s a2 a3 a4).mem = s.mem := by
  simp [State.modJoint]

@[simp] theorem State.dropWaits_mem (s : State) (a2 a3 : _) : (State.dropWaits s a2 a3).mem = s.mem := by
  unfold State.dropWaits
  dsimp only
  rw [mem_foldl _ (by intros; simp), mem_foldl _ (by intros; simp), mem_foldl _ (by intros; simp)]

@[simp] theorem State.withdrawRemote_mem (s : State) (a2 a3 : _) : (State.withdrawRemote s a2 a3).mem = s.mem := by
  unfold State.withdrawRemote
  split <;> simp

@[simp] theorem State.stopDescJob_mem (s : State) (a2 a3 : _) : (State.stopDescJob s a2 a3).mem = s.mem := by
  simp [State.stopDescJob] <;> (repeat' split) <;> simp

@[simp] theorem State.cancelLaunch_mem (s : State) (a2 a3 : _) : (State.cancelLaunch s a2 a3).mem = s.mem := by
  simp [State.cancelLaunch]

@[simp] theorem State.markStatus_mem (s : State) (a2 a3 a4 : _) : (State.markStatus s a2 a3 a4).mem = s.mem := by
  simp [State.markStatus]

@[simp] theorem State.stopRunning_mem (s : State) (a2 a3 : _) : (State.stopRunning s a2 a3).mem = s.mem := by
  simp [State.stopRunning] <;> (repeat' split) <;> simp

@[simp] theorem State.stopDesc_mem (s : State) (a2 a3 a4 : _) : (State.stopDesc s a2 a3 a4).mem = s.mem := by
  unfold State.stopDesc
  split <;> simp

@[simp] theorem State.failWithheld_mem (s : State) (a2 a3 a4 : _) : (State.failWithheld s a2 a3 a4).mem = s.mem := by
  simp [State.failWithheld]

@[simp] theorem State.releaseMembers_mem (s : State) (a2 a3 : _) : (State.releaseMembers s a2 a3).mem = s.mem := by
  simp [State.releaseMembers]

@[simp] theorem State.publishMembers_mem (s : State) (a2 a3 : _) : (State.publishMembers s a2 a3).mem = s.mem := by
  simp [State.publishMembers]

@[simp] theorem State.endAborting_mem (s : State) (a2 a3 : _) : (State.endAborting s a2 a3).mem = s.mem := by
  simp [State.endAborting] <;> (repeat' split) <;> simp

@[simp] theorem State.haltMember_mem (s : State) (a1 a3 : _) : (State.haltMember a1 s a3).mem = s.mem := by
  unfold State.haltMember
  split <;> simp

@[simp] theorem State.failJoint_mem (s : State) (a2 a3 a4 : _) : (State.failJoint s a2 a3 a4).mem = s.mem := by
  simp [State.failJoint]

@[simp] theorem State.freeJoint_mem (s : State) (a2 a3 : _) : (State.freeJoint s a2 a3).mem = s.mem := by
  simp [State.freeJoint]

@[simp] theorem State.meetJoint_mem (s : State) (a2 a3 : _) : (State.meetJoint s a2 a3).mem = s.mem := by
  simp [State.meetJoint] <;> (repeat' split) <;> simp

theorem resolveOne_mem (p : PartId) (x : State × List Nat) (key : RingId × BitVec 32) :
    (resolveOne p x key).1.mem = x.1.mem := by
  unfold resolveOne
  (repeat' split) <;> simp
@[simp] theorem State.resolveJoints_mem (s : State) (p : PartId) : (s.resolveJoints p).mem = s.mem := by
  unfold State.resolveJoints
  rw [mem_foldl_fst _ (fun x a => resolveOne_mem p x a)]

@[simp] theorem onJoint_mem (s : State) (r : RingId) (seq : BitVec 32) (opc : Nat) (f : PartId → Desc → State) (h : ∀ p d, (f p d).mem = s.mem) : (stateOf s (onJoint s r seq opc f)).mem = s.mem := by
  unfold onJoint
  split <;> simp [h]

@[simp] theorem execJointOpen_mem (s : State) (a1 a2 : _) : (stateOf s (execJointOpen a1 a2 s)).mem = s.mem := by
  simp [execJointOpen]

@[simp] theorem execJointCommit_mem (s : State) (a1 a2 : _) : (stateOf s (execJointCommit a1 a2 s)).mem = s.mem := by
  refine onJoint_mem s _ _ _ _ ?_
  intro p d
  try dsimp only
  (repeat' split) <;> simp

@[simp] theorem execJointAbort_mem (s : State) (a1 a2 : _) : (stateOf s (execJointAbort a1 a2 s)).mem = s.mem := by
  refine onJoint_mem s _ _ _ _ ?_
  intro p d
  try dsimp only
  (repeat' split) <;> simp

@[simp] theorem State.streamWrite_mem (s : State) (a2 a3 a4 : _) : (State.streamWrite s a2 a3 a4).mem = s.mem := by
  unfold State.streamWrite
  dsimp only
  split <;> simp

@[simp] theorem State.wake_mem (s : State) (a2 a3 : _) : (State.wake s a2 a3).mem = s.mem := by
  simp [State.wake]

@[simp] theorem State.answerWrite_mem (s : State) (a2 a3 a4 : _) : (State.answerWrite s a2 a3 a4).mem = s.mem := by
  simp [State.answerWrite]

@[simp] theorem State.toShadow_mem (s : State) (a2 a3 a4 : _) : (State.toShadow s a2 a3 a4).mem = s.mem := by
  simp [State.toShadow]

@[simp] theorem State.class0Check_mem (s : State) (a2 a3 a4 : _) : (State.class0Check s a2 a3 a4).mem = s.mem := by
  simp [State.class0Check]

@[simp] theorem State.firstWrite_mem (s : State) (a2 a3 : _) : (State.firstWrite s a2 a3).mem = s.mem := by
  simp [State.firstWrite]

@[simp] theorem State.memberWrite_mem (s : State) (a2 a3 : _) : (State.memberWrite s a2 a3).mem = s.mem := by
  unfold State.memberWrite
  (repeat' split) <;> simp

@[simp] theorem State.pageWrite_mem (s : State) (a2 a3 : _) : (State.pageWrite s a2 a3).mem = s.mem := by
  unfold State.pageWrite
  (repeat' split) <;> simp

@[simp] theorem execJointPageWrite_mem (s : State) (a1 : _) : (stateOf s (execJointPageWrite a1 s)).mem = s.mem := by
  unfold execJointPageWrite
  split <;> simp

@[simp] theorem State.dropLeaves_mem (s : State) (a2 : _) : (State.dropLeaves s a2).mem = s.mem := by
  simp [State.dropLeaves]

@[simp] theorem State.remoteTally_mem (s : State) (a2 a3 a4 a5 a6 a7 a8 : _) : (State.remoteTally s a2 a3 a4 a5 a6 a7 a8).mem = s.mem := by
  simp [State.remoteTally]

@[simp] theorem State.applyHeld_mem (s : State) (a1 a3 : _) : (State.applyHeld a1 s a3).mem = s.mem := by
  simp [State.applyHeld] <;> (repeat' split) <;> simp

@[simp] theorem State.requeue_mem (s : State) (a2 : _) : (State.requeue s a2).mem = s.mem := by
  unfold State.requeue
  split
  · split <;> rfl
  · rfl

@[simp] theorem State.freeBody_mem (s : State) : (State.freeBody s).2.mem = s.mem := by
  simp [State.freeBody]

@[simp] theorem State.askTwin_mem (s : State) (a2 a3 : _) : (State.askTwin s a2 a3).mem = s.mem := by
  simp [State.askTwin]

@[simp] theorem State.noteBusy_mem (s : State) (a2 a3 : _) : (State.noteBusy s a2 a3).mem = s.mem := by
  simp [State.noteBusy]

@[simp] theorem State.logResidue_mem (s : State) (a2 a3 : _) : (State.logResidue s a2 a3).mem = s.mem := by
  unfold State.logResidue
  split <;> simp

@[simp] theorem State.noteIdle_mem (s : State) (a2 a3 : _) : (State.noteIdle s a2 a3).mem = s.mem := by
  simp [State.noteIdle]

@[simp] theorem State.noteLate_mem (s : State) (a2 a3 : _) : (State.noteLate s a2 a3).mem = s.mem := by
  simp [State.noteLate]

@[simp] theorem State.beginLaunch_mem (s : State) (a2 a3 a4 : _) : (State.beginLaunch s a2 a3 a4).mem = s.mem := by
  simp [State.beginLaunch]

@[simp] theorem State.awaitImage_mem (s : State) (a2 a3 a4 : _) : (State.awaitImage s a2 a3 a4).mem = s.mem := by
  simp [State.awaitImage]

@[simp] theorem State.dropSaved_mem (s : State) (a2 : _) : (State.dropSaved s a2).mem = s.mem := by
  simp [State.dropSaved]

@[simp] theorem State.endLaunch_mem (s : State) (a2 : _) : (State.endLaunch s a2).mem = s.mem := by
  simp [State.endLaunch]

@[simp] theorem execLaunchFinish_mem (s : State) (a1 a2 : _) : (stateOf s (execLaunchFinish a1 a2 s)).mem = s.mem := by
  unfold execLaunchFinish
  split <;> simp

@[simp] theorem State.actGrind_mem (s : State) (a2 a3 : _) : (State.actGrind s a2 a3).mem = s.mem := by
  unfold State.actGrind
  dsimp only
  split
  · simp
  · split
    · rfl
    · have h := State.checkGrind_mem s (s.coreOfRank a2 (a3.f 16 1)) (some a2) a3.grindCmd
      split <;> rename_i ht <;> simp only [ht] at h <;> simp [h]

@[simp] theorem execGrind_mem (s : State) (a1 a2 : _) : (stateOf s (execGrind a1 a2 s)).mem = s.mem := by
  simp [execGrind]

@[simp] theorem execNopDescriptor_mem (s : State) (a1 a2 : _) : (stateOf s (execNopDescriptor a1 a2 s)).mem = s.mem := by
  simp [execNopDescriptor]

@[simp] theorem State.holdUpdate_mem (s : State) (a2 a3 : _) : (State.holdUpdate s a2 a3).mem = s.mem := by
  simp [State.holdUpdate]

@[simp] theorem State.signalPeg_mem (s : State) (a2 a3 : _) : (State.signalPeg s a2 a3).mem = s.mem := by
  simp [State.signalPeg]

@[simp] theorem State.signal_mem (s : State) (a2 a3 : _) : (State.signal s a2 a3).mem = s.mem := by
  simp [State.signal] <;> (repeat' split) <;> simp

@[simp] theorem execSignal_mem (s : State) (a1 a2 : _) : (stateOf s (execSignal a1 a2 s)).mem = s.mem := by
  simp [execSignal]

@[simp] theorem State.await_mem (s : State) (a2 a3 : _) : (State.await s a2 a3).mem = s.mem := by
  simp [State.await] <;> (repeat' split) <;> simp

@[simp] theorem execWait_mem (s : State) (a1 a2 : _) : (stateOf s (execWait a1 a2 s)).mem = s.mem := by
  simp [execWait]

@[simp] theorem onRunning_mem (s : State) (r : RingId) (seq : BitVec 32) (opc : Nat) (f : PartId → Desc → State) (h : ∀ p d, (f p d).mem = s.mem) : (stateOf s (onRunning s r seq opc f)).mem = s.mem := by
  unfold onRunning
  split <;> simp [h]

@[simp] theorem execWaitTimeout_mem (s : State) (a1 a2 : _) : (stateOf s (execWaitTimeout a1 a2 s)).mem = s.mem := by
  simp [execWaitTimeout]

@[simp] theorem execFence_mem (s : State) (a1 a2 : _) : (stateOf s (execFence a1 a2 s)).mem = s.mem := by
  refine onDesc_mem s _ _ _ _ ?_
  intro p d
  try dsimp only
  (repeat' split) <;> simp

@[simp] theorem execFlush_mem (s : State) (a1 a2 : _) : (stateOf s (execFlush a1 a2 s)).mem = s.mem := by
  simp [execFlush]

@[simp] theorem execCancel_mem (s : State) (a1 a2 : _) : (stateOf s (execCancel a1 a2 s)).mem = s.mem := by
  simp [execCancel]

@[simp] theorem State.coverIngress_mem (s : State) (a2 a3 : _) : (State.coverIngress s a2 a3).mem = s.mem := by
  simp [State.coverIngress]

@[simp] theorem execIngressTimeout_mem (s : State) (a1 a2 : _) : (stateOf s (execIngressTimeout a1 a2 s)).mem = s.mem := by
  simp [execIngressTimeout]

@[simp] theorem State.readMap_mem (s : State) (a2 : _) : (State.readMap s a2).mem = s.mem := by
  simp [State.readMap]

@[simp] theorem State.endMap_mem (s : State) (a2 : _) : (State.endMap s a2).mem = s.mem := by
  simp [State.endMap]

@[simp] theorem State.mapArrived_mem (s : State) (a2 a3 a4 : _) : (State.mapArrived s a2 a3 a4).mem = s.mem := by
  unfold State.mapArrived
  split <;> simp

@[simp] theorem State.dueLine_mem (s : State) (a2 : _) : (State.dueLine s a2).mem = s.mem := by
  simp [State.dueLine]

@[simp] theorem State.beginPoll_mem (s : State) : (State.beginPoll s).mem = s.mem := by
  simp [State.beginPoll]

@[simp] theorem State.readTail_mem (s : State) (a1 a3 : _) : (State.readTail a1 s a3).mem = s.mem := by
  unfold State.readTail
  split <;> simp

@[simp] theorem execSummaryPoll_mem (s : State) : (stateOf s (execSummaryPoll s)).mem = s.mem := by
  simp [execSummaryPoll]

@[simp] theorem State.gotSummary_mem (s : State) (a2 a3 : _) : (State.gotSummary s a2 a3).mem = s.mem := by
  simp [State.gotSummary]

@[simp] theorem execClass0TailPoll_mem (s : State) : (stateOf s (execClass0TailPoll s)).mem = s.mem := by
  simp [execClass0TailPoll]

@[simp] theorem State.nudge_mem (s : State) (a2 : _) : (State.nudge s a2).mem = s.mem := by
  simp [State.nudge]

@[simp] theorem execNudge_mem (s : State) (a1 a2 a3 : _) : (stateOf s (execNudge a1 a2 a3 s)).mem = s.mem := by
  unfold execNudge
  (repeat' split) <;> simp

@[simp] theorem State.ringError_mem (s : State) (a2 : _) : (State.ringError s a2).mem = s.mem := by
  unfold State.ringError
  split <;> simp

@[simp] theorem State.setTail_mem (s : State) (a2 a3 a4 : _) : (State.setTail s a2 a3 a4).mem = s.mem := by
  simp [State.setTail]

@[simp] theorem State.takeTail_mem (s : State) (a2 a3 a4 : _) : (State.takeTail s a2 a3 a4).mem = s.mem := by
  simp [State.takeTail]

@[simp] theorem execTailRead_mem (s : State) (a1 a2 : _) : (stateOf s (execTailRead a1 a2 s)).mem = s.mem := by
  unfold execTailRead
  split <;> simp

@[simp] theorem State.grant_mem (s : State) (a2 a3 a4 : _) : (State.grant s a2 a3 a4).mem = s.mem := by
  simp [State.grant]

@[simp] theorem execFetchGrant_mem (s : State) : (stateOf s (execFetchGrant s)).mem = s.mem := by
  unfold execFetchGrant
  (repeat' split) <;> simp

@[simp] theorem State.logDesc_mem (s : State) (a2 a3 a4 a5 a6 : _) : (State.logDesc s a2 a3 a4 a5 a6).mem = s.mem := by
  simp [State.logDesc]

@[simp] theorem State.logReserved_mem (s : State) (a2 a3 : _) : (State.logReserved s a2 a3).mem = s.mem := by
  simp [State.logReserved]

@[simp] theorem State.admitDesc_mem (s : State) (a2 a3 a4 : _) : (State.admitDesc s a2 a3 a4).mem = s.mem := by
  unfold State.admitDesc
  (repeat' split) <;> simp

@[simp] theorem State.takeSlots_mem (s : State) (a2 a3 a4 a5 : _) : (State.takeSlots s a2 a3 a4 a5).mem = s.mem := by
  induction a4 generalizing s a5 with
  | zero => simp [State.takeSlots]
  | succ n ih =>
    cases a5 with
    | nil => simp [State.takeSlots]
    | cons h rest =>
      unfold State.takeSlots
      dsimp only
      split
      · rfl
      · split
        · simp
        · rw [ih]; simp

@[simp] theorem State.afterFetch_mem (s : State) (a2 : _) : (State.afterFetch s a2).mem = s.mem := by
  simp [State.afterFetch]

@[simp] theorem State.endFetch_mem (s : State) (a2 : _) : (State.endFetch s a2).mem = s.mem := by
  simp [State.endFetch]

@[simp] theorem State.takeBatch_mem (s : State) (a2 : _) : (State.takeBatch s a2).mem = s.mem := by
  unfold State.takeBatch
  split <;> simp

@[simp] theorem State.cancelOne_mem (s : State) (a2 a3 : _) : (State.cancelOne s a2 a3).mem = s.mem := by
  unfold State.cancelOne
  split <;> simp

@[simp] theorem State.applyCancel_mem (s : State) (a2 a3 : _) : (State.applyCancel s a2 a3).mem = s.mem := by
  unfold State.applyCancel
  dsimp only
  split
  · simp
  · rw [mem_foldl _ (by intro s a; split <;> simp)]
    simp

@[simp] theorem State.applyCancels_mem (s : State) (a2 : _) : (State.applyCancels s a2).mem = s.mem := by
  unfold State.applyCancels
  exact mem_foldl _ (by intro s a; split <;> [split <;> simp; rfl]) _ _

@[simp] theorem State.fetchAll_mem (s : State) (a2 : _) : (State.fetchAll s a2).mem = s.mem := by
  simp [State.fetchAll]

@[simp] theorem execDescriptorFetch_mem (s : State) (a1 : _) : (stateOf s (execDescriptorFetch a1 s)).mem = s.mem := by
  simp [execDescriptorFetch]

@[simp] theorem State.gotSlots_mem (s : State) (a2 a3 a4 : _) : (State.gotSlots s a2 a3 a4).mem = s.mem := by
  simp [State.gotSlots]

@[simp] theorem State.lostSlots_mem (s : State) (a2 : _) : (State.lostSlots s a2).mem = s.mem := by
  simp [State.lostSlots]

@[simp] theorem State.takeCart_mem (s : State) (a2 a3 a4 : _) : (State.takeCart s a2 a3 a4).mem = s.mem := by
  simp [State.takeCart]

@[simp] theorem State.boundary_mem (s : State) (a2 a3 : _) : (State.boundary s a2 a3).mem = s.mem := by
  simp [State.boundary]

@[simp] theorem State.startDesc_mem (s : State) (a2 a3 : _) : (State.startDesc s a2 a3).mem = s.mem := by
  simp [State.startDesc]

@[simp] theorem State.startRing_mem (s : State) (a2 a3 : _) : (State.startRing s a2 a3).mem = s.mem := by
  unfold State.startRing
  (repeat' split) <;> simp

@[simp] theorem execDescriptorStart_mem (s : State) (a1 : _) : (stateOf s (execDescriptorStart a1 s)).mem = s.mem := by
  unfold execDescriptorStart
  split <;> simp

@[simp] theorem State.complete_mem (s : State) (a2 a3 : _) : (State.complete s a2 a3).mem = s.mem := by
  unfold State.complete
  (repeat' split) <;> simp

@[simp] theorem execDescriptorComplete_mem (s : State) (a1 a2 : _) : (stateOf s (execDescriptorComplete a1 a2 s)).mem = s.mem := by
  unfold execDescriptorComplete
  split <;> simp

@[simp] theorem State.written_mem (s : State) : (State.written s).mem = s.mem := by
  simp [State.written]

@[simp] theorem State.enableRing_mem (s : State) (a2 : _) : (State.enableRing s a2).mem = s.mem := by
  simp [State.enableRing] <;> (repeat' split) <;> simp

@[simp] theorem execRtCtlWrite_mem (s : State) (a1 a2 a3 a4 : _) : (stateOf s (execRtCtlWrite a1 a2 a3 a4 s)).mem = s.mem := by
  simp [execRtCtlWrite]

@[simp] theorem State.beginSwitch_mem (s : State) (a2 a3 : _) : (State.beginSwitch s a2 a3).mem = s.mem := by
  simp [State.beginSwitch]

@[simp] theorem execQuantumEnd_mem (s : State) (a1 : _) : (stateOf s (execQuantumEnd a1 s)).mem = s.mem := by
  unfold execQuantumEnd
  split <;> simp

@[simp] theorem execContextSwitch_mem (s : State) (a1 : _) : (stateOf s (execContextSwitch a1 s)).mem = s.mem := by
  unfold execContextSwitch
  (repeat' split) <;> simp

@[simp] theorem State.zeroBell_mem (s : State) (a2 : _) : (State.zeroBell s a2).mem = s.mem := by
  simp [State.zeroBell]

@[simp] theorem State.zeroObjects_mem (s : State) (a2 a3 : _) : (State.zeroObjects s a2 a3).mem = s.mem := by
  unfold State.zeroObjects
  dsimp only
  split
  · rfl
  · simp only [State.touched_mem, State.serveTallies_mem]
    rw [mem_foldl _ (by intros; simp), mem_foldl _ (by intros; simp), mem_foldl _ (by intros; simp)]

@[simp] theorem State.restoreContext_mem (s : State) (a2 a3 : _) : (State.restoreContext s a2 a3).mem = s.mem := by
  simp [State.restoreContext]

@[simp] theorem State.abortJoints_mem (s : State) (a2 : _) : (State.abortJoints s a2).mem = s.mem := by
  simp [State.abortJoints]

@[simp] theorem State.stopHostCarts_mem (s : State) (a2 : _) : (State.stopHostCarts s a2).mem = s.mem := by
  simp [State.stopHostCarts]

@[simp] theorem State.beginAbort_mem (s : State) (a2 a3 : _) : (State.beginAbort s a2 a3).mem = s.mem := by
  simp [State.beginAbort]

@[simp] theorem State.askAbort_mem (s : State) (a2 : _) : (State.askAbort s a2).mem = s.mem := by
  unfold State.askAbort
  split <;> simp

@[simp] theorem execPtAbortGo_mem (s : State) (a1 a2 : _) : (stateOf s (execPtAbortGo a1 a2 s)).mem = s.mem := by
  simp [execPtAbortGo]

@[simp] theorem execAbortPartition_mem (s : State) (a1 a2 : _) : (stateOf s (execAbortPartition a1 a2 s)).mem = s.mem := by
  simp [execAbortPartition]

@[simp] theorem State.discardBut_mem (s : State) (a2 a3 : _) : (State.discardBut s a2 a3).mem = s.mem := by
  simp [State.discardBut]

@[simp] theorem State.discardDescs_mem (s : State) (a2 : _) : (State.discardDescs s a2).mem = s.mem := by
  simp [State.discardDescs]

@[simp] theorem State.retireRing_mem (s : State) (a2 : _) : (State.retireRing s a2).mem = s.mem := by
  simp [State.retireRing]

@[simp] theorem State.dropCores_mem (s : State) (a2 : _) : (State.dropCores s a2).mem = s.mem := by
  simp [State.dropCores]

@[simp] theorem State.dropContexts_mem (s : State) (a2 : _) : (State.dropContexts s a2).mem = s.mem := by
  unfold State.dropContexts
  split <;> simp

@[simp] theorem State.abortNotice_mem (s : State) (a2 a3 : _) : (State.abortNotice s a2 a3).mem = s.mem := by
  unfold State.abortNotice
  dsimp only
  generalize hs : (s.part a2).abort = r
  rcases r with _ | r
  · simp only [State.closeAbort_mem, State.modPart_mem]
  · cases r <;> simp only [State.endDesc_mem, State.eventLine_mem, State.closeAbort_mem, State.modPart_mem]

@[simp] theorem State.resetVf_mem (s : State) (a2 : _) : (State.resetVf s a2).mem = s.mem := by
  simp [State.resetVf]

@[simp] theorem State.resetEntries_mem (s : State) (a2 : _) : (State.resetEntries s a2).mem = s.mem := by
  simp [State.resetEntries]

@[simp] theorem State.afterReset_mem (s t : State) (p : PartId) (h : t.mem = s.mem) : (s.afterReset t p).mem = s.mem := by
  unfold State.afterReset
  split
  · simp [h]
  · split <;> simp [h]

@[simp] theorem State.endAbort_mem (s : State) (a2 : _) : (State.endAbort s a2).mem = s.mem := by
  simp [State.endAbort]

@[simp] theorem State.storeQuantum_mem (s : State) (a2 a3 a4 a5 : _) : (State.storeQuantum s a2 a3 a4 a5).mem = s.mem := by
  simp [State.storeQuantum]

@[simp] theorem execPartitionTableWrite_mem (s : State) (a1 a2 a3 a4 a5 : _) : (stateOf s (execPartitionTableWrite a1 a2 a3 a4 a5 s)).mem = s.mem := by
  simp [execPartitionTableWrite]

@[simp] theorem execHcCtlWrite_mem (s : State) (a1 a2 a3 : _) : (stateOf s (execHcCtlWrite a1 a2 a3 s)).mem = s.mem := by
  simp [execHcCtlWrite]

@[simp] theorem execPwrCapWrite_mem (s : State) (a1 a2 a3 : _) : (stateOf s (execPwrCapWrite a1 a2 a3 s)).mem = s.mem := by
  simp [execPwrCapWrite]

@[simp] theorem execBar2Read_mem (s : State) (a1 a2 : _) : (stateOf s (execBar2Read a1 a2 s)).mem = s.mem := by
  simp [execBar2Read]

@[simp] theorem execBar2Write_mem (s : State) (a1 a2 : _) : (stateOf s (execBar2Write a1 a2 s)).mem = s.mem := by
  simp [execBar2Write]

@[simp] theorem execBar2MapWrite_mem (s : State) (a1 a2 a3 : _) : (stateOf s (execBar2MapWrite a1 a2 a3 s)).mem = s.mem := by
  simp [execBar2MapWrite]

@[simp] theorem execBar2Resize_mem (s : State) (a1 : _) : (stateOf s (execBar2Resize a1 s)).mem = s.mem := by
  simp [execBar2Resize]

@[simp] theorem State.logIngress_mem (s : State) (a2 : _) : (State.logIngress s a2).mem = s.mem := by
  simp [State.logIngress]

@[simp] theorem State.dropIngress_mem (s : State) (a2 : _) : (State.dropIngress s a2).mem = s.mem := by
  simp [State.dropIngress]

@[simp] theorem State.takeIngress_mem (s : State) (a2 a3 : _) : (State.takeIngress s a2 a3).mem = s.mem := by
  simp [State.takeIngress]

@[simp] theorem execBar4Write_mem (s : State) (a1 a2 : _) : (stateOf s (execBar4Write a1 a2 s)).mem = s.mem := by
  simp [execBar4Write]

@[simp] theorem execBar4Read_mem (s : State) (a1 a2 : _) : (stateOf s (execBar4Read a1 a2 s)).mem = s.mem := by
  simp [execBar4Read]

@[simp] theorem execFlushRead_mem (s : State) (a1 : _) : (stateOf s (execFlushRead a1 s)).mem = s.mem := by
  simp [execFlushRead]

@[simp] theorem State.endFlush_mem (s : State) (a2 : _) : (State.endFlush s a2).mem = s.mem := by
  simp [State.endFlush]

@[simp] theorem execFlushReadComplete_mem (s : State) (a1 : _) : (stateOf s (execFlushReadComplete a1 s)).mem = s.mem := by
  unfold execFlushReadComplete
  split <;> simp

@[simp] theorem State.logHost_mem (s : State) (a2 a3 : _) : (State.logHost s a2 a3).mem = s.mem := by
  simp [State.logHost]

@[simp] theorem State.gotBeat_mem (s : State) (a2 : _) : (State.gotBeat s a2).mem = s.mem := by
  simp [State.gotBeat]

@[simp] theorem State.hostGood_mem (s : State) (a2 a3 : _) : (State.hostGood s a2 a3).mem = s.mem := by
  unfold State.hostGood
  (repeat' split) <;> simp

@[simp] theorem State.hostBad_mem (s : State) (a2 a3 : _) : (State.hostBad s a2 a3).mem = s.mem := by
  unfold State.hostBad
  (repeat' split) <;> simp

@[simp] theorem execHostReadCompletion_mem (s : State) (a1 a2 : _) : (stateOf s (execHostReadCompletion a1 a2 s)).mem = s.mem := by
  unfold execHostReadCompletion
  (repeat' split) <;> simp

@[simp] theorem execHostReadTimeout_mem (s : State) (a1 : _) : (stateOf s (execHostReadTimeout a1 s)).mem = s.mem := by
  unfold execHostReadTimeout
  split <;> simp

@[simp] theorem execLinkDown_mem (s : State) : (stateOf s (execLinkDown s)).mem = s.mem := by
  simp [execLinkDown]

@[simp] theorem execLinkDown100us_mem (s : State) : (stateOf s (execLinkDown100us s)).mem = s.mem := by
  simp [execLinkDown100us]

@[simp] theorem State.abortFor_mem (s : State) (a2 a3 : _) : (State.abortFor s a2 a3).mem = s.mem := by
  simp [State.abortFor]

@[simp] theorem State.abortNow_mem (s : State) (a2 : _) : (State.abortNow s a2).mem = s.mem := by
  simp [State.abortNow]

@[simp] theorem State.hostReset_mem (s : State) : (State.hostReset s).mem = s.mem := by
  simp [State.hostReset]

@[simp] theorem execLinkDown2ms_mem (s : State) : (stateOf s (execLinkDown2ms s)).mem = s.mem := by
  simp [execLinkDown2ms]

@[simp] theorem execLinkUp_mem (s : State) (a1 a2 a3 : _) : (stateOf s (execLinkUp a1 a2 a3 s)).mem = s.mem := by
  simp [execLinkUp]

@[simp] theorem execFlrVf_mem (s : State) (a1 : _) : (stateOf s (execFlrVf a1 s)).mem = s.mem := by
  simp [execFlrVf]

@[simp] theorem execFlrPf0_mem (s : State) : (stateOf s (execFlrPf0 s)).mem = s.mem := by
  simp [execFlrPf0]

@[simp] theorem State.writeConfig_mem (s : State) (a2 a3 a4 : _) : (State.writeConfig s a2 a3 a4).mem = s.mem := by
  simp [State.writeConfig]

@[simp] theorem execConfigRequest_mem (s : State) (a1 a2 a3 : _) : (stateOf s (execConfigRequest a1 a2 a3 s)).mem = s.mem := by
  unfold execConfigRequest
  (repeat' split) <;> simp

@[simp] theorem State.watch_mem (s : State) (a2 : _) : (State.watch s a2).mem = s.mem := by
  simp [State.watch]

@[simp] theorem execWatchmanFire_mem (s : State) (a1 : _) : (stateOf s (execWatchmanFire a1 s)).mem = s.mem := by
  simp [execWatchmanFire]

@[simp] theorem execWmCtlWrite_mem (s : State) (a1 a2 a3 a4 : _) : (stateOf s (execWmCtlWrite a1 a2 a3 a4 s)).mem = s.mem := by
  simp [execWmCtlWrite]

@[simp] theorem State.logForce_mem (s : State) (a2 a3 a4 : _) : (State.logForce s a2 a3 a4).mem = s.mem := by
  unfold State.logForce
  split <;> simp

@[simp] theorem execPegWrite_mem (s : State) (a1 a2 a3 a4 : _) : (stateOf s (execPegWrite a1 a2 a3 a4 s)).mem = s.mem := by
  simp [execPegWrite]

@[simp] theorem execTallyValWrite_mem (s : State) (a1 a2 a3 a4 : _) : (stateOf s (execTallyValWrite a1 a2 a3 a4 s)).mem = s.mem := by
  simp [execTallyValWrite]

@[simp] theorem State.reexamineBell_mem (s : State) (a2 a3 : _) : (State.reexamineBell s a2 a3).mem = s.mem := by
  simp [State.reexamineBell]

@[simp] theorem execBellWrite_mem (s : State) (a1 a2 a3 a4 : _) : (stateOf s (execBellWrite a1 a2 a3 a4 s)).mem = s.mem := by
  simp [execBellWrite]

@[simp] theorem State.resend_mem (s : State) (a2 : _) : (State.resend s a2).mem = s.mem := by
  unfold State.resend
  simp only [State.incFld_mem]
  exact mem_foldl _ (by intros; simp) _ _

@[simp] theorem State.idleFrame_mem (s : State) (a2 a3 : _) : (State.idleFrame s a2 a3).mem = s.mem := by
  simp [State.idleFrame]

@[simp] theorem State.logBelora_mem (s : State) (a2 a3 : _) : (State.logBelora s a2 a3).mem = s.mem := by
  simp [State.logBelora]

@[simp] theorem State.refusePkt_mem (s : State) (a2 a3 : _) : (State.refusePkt s a2 a3).mem = s.mem := by
  simp [State.refusePkt]

@[simp] theorem State.forward_mem (s : State) (a2 a3 : _) : (State.forward s a2 a3).mem = s.mem := by
  simp [State.forward]

@[simp] theorem State.gotPacket_mem (s : State) (a1 a3 : _) : (State.gotPacket a1 s a3).mem = s.mem := by
  simp [State.gotPacket]

@[simp] theorem State.frameHead_mem (s : State) (a2 a3 : _) : (State.frameHead s a2 a3).mem = s.mem := by
  simp [State.frameHead]

@[simp] theorem State.framePayload_mem (s : State) (a2 a3 : _) : (State.framePayload s a2 a3).mem = s.mem := by
  simp [State.framePayload]

@[simp] theorem State.gotFrame_mem (s : State) (a2 a3 : _) : (State.gotFrame s a2 a3).mem = s.mem := by
  simp [State.gotFrame]

@[simp] theorem execFrameReceive_mem (s : State) (a1 a2 : _) : (stateOf s (execFrameReceive a1 a2 s)).mem = s.mem := by
  simp [execFrameReceive]

@[simp] theorem execReplayTimeout_mem (s : State) (a1 : _) : (stateOf s (execReplayTimeout a1 s)).mem = s.mem := by
  simp [execReplayTimeout]

@[simp] theorem State.resendTwin_mem (s : State) (a2 : _) : (State.resendTwin s a2).mem = s.mem := by
  unfold State.resendTwin
  split <;> simp

@[simp] theorem State.downLink_mem (s : State) (a2 : _) : (State.downLink s a2).mem = s.mem := by
  simp [State.downLink]

@[simp] theorem execLaneRemove_mem (s : State) (a1 a2 : _) : (stateOf s (execLaneRemove a1 a2 s)).mem = s.mem := by
  simp [execLaneRemove]

@[simp] theorem execLaneRejoin_mem (s : State) (a1 a2 : _) : (stateOf s (execLaneRejoin a1 a2 s)).mem = s.mem := by
  simp [execLaneRejoin]

@[simp] theorem execLinkLanesLost_mem (s : State) (a1 : _) : (stateOf s (execLinkLanesLost a1 s)).mem = s.mem := by
  simp [execLinkLanesLost]

@[simp] theorem State.linkUpDone_mem (s : State) (a2 : _) : (State.linkUpDone s a2).mem = s.mem := by
  simp [State.linkUpDone]

@[simp] theorem execLinkTrainingDone_mem (s : State) (a1 : _) : (stateOf s (execLinkTrainingDone a1 s)).mem = s.mem := by
  simp [execLinkTrainingDone]

@[simp] theorem State.setHold_mem (s : State) (a2 : _) : (State.setHold s a2).mem = s.mem := by
  simp [State.setHold]

@[simp] theorem execFbCtlWrite_mem (s : State) (a1 a2 a3 : _) : (stateOf s (execFbCtlWrite a1 a2 a3 s)).mem = s.mem := by
  simp [execFbCtlWrite]

theorem State.takePkt_mem (s : State) (a2 a3 : _) (x y t : _) (h : State.takePkt s a2 a3 = some (x, y, t)) : t.mem = s.mem := by
  have own : ∀ x, ((s.fabric.held.find? (fun e => s.answersTo (pDst e.2) && a3 e.2)).map (fun e =>
      (e.2, true, ({ s with fabric := { s.fabric with held := s.fabric.held.erase e } } : State)))) = some x → x.2.2.mem = s.mem := by
    intro x h
    cases hf : s.fabric.held.find? (fun e => s.answersTo (pDst e.2) && a3 e.2) with
    | none => simp [hf] at h
    | some r => simp [hf] at h; subst h; rfl
  unfold State.takePkt at h
  dsimp only at h
  split at h
  · split at h
    · simp at h; obtain ⟨_, _, rfl⟩ := h; simp
    · exact own _ h
  · exact own _ h

@[simp] theorem State.admitPkt_mem (s : State) (l : LinkId) (own : Bool) (p : List Byte) (f : State → List Byte → State)
    (h : ∀ t p, (f t p).mem = t.mem) : (s.admitPkt l own p f).mem = s.mem := by
  unfold State.admitPkt
  dsimp only
  (repeat' split) <;> simp [h]

@[simp] theorem onPacket_mem (s : State) (l : LinkId) (type : Nat) (f : State → List Byte → State) (h : ∀ t p, (f t p).mem = t.mem) : (stateOf s (onPacket s l type f)).mem = s.mem := by
  unfold onPacket
  split
  · rfl
  · rename_i hp
    have := State.takePkt_mem _ _ _ _ _ _ hp
    simp [h, this]

@[simp] theorem State.peerServe_mem (s : State) (a2 a3 a4 a5 : _) : (State.peerServe s a2 a3 a4 a5).mem = s.mem := by
  simp [State.peerServe]

@[simp] theorem execRd_mem (s : State) (a1 : _) : (stateOf s (execRd a1 s)).mem = s.mem := by
  simp [execRd]

@[simp] theorem State.resyncWrite_mem (s : State) (a2 a3 : _) : (State.resyncWrite s a2 a3).mem = s.mem := by
  simp [State.resyncWrite]

@[simp] theorem execWr_mem (s : State) (a1 : _) : (stateOf s (execWr a1 s)).mem = s.mem := by
  simp [execWr]

@[simp] theorem execWrm_mem (s : State) (a1 : _) : (stateOf s (execWrm a1 s)).mem = s.mem := by
  simp [execWrm]

@[simp] theorem State.topAwait_mem (s : State) (a2 a3 a4 : _) : (State.topAwait s a2 a3 a4).mem = s.mem := by
  simp [State.topAwait]

@[simp] theorem State.topAdv_mem (s : State) (a2 a3 : _) : (State.topAdv s a2 a3).mem = s.mem := by
  unfold State.topAdv
  split <;> simp

@[simp] theorem State.topServe_mem (s : State) (a2 : _) : (State.topServe s a2).mem = s.mem := by
  simp [State.topServe]

@[simp] theorem execTop_mem (s : State) (a1 : _) : (stateOf s (execTop a1 s)).mem = s.mem := by
  simp [execTop]

@[simp] theorem State.peerSkip_mem (s : State) (a2 a3 a4 : _) : (State.peerSkip s a2 a3 a4).mem = s.mem := by
  simp [State.peerSkip]

@[simp] theorem State.endKpPeer_mem (s : State) (a2 a3 a4 a5 : _) : (State.endKpPeer s a2 a3 a4 a5).mem = s.mem := by
  unfold State.endKpPeer
  (repeat' split) <;> simp

@[simp] theorem State.logTwin_mem (s : State) (a2 a3 : _) : (State.logTwin s a2 a3).mem = s.mem := by
  simp [State.logTwin]

@[simp] theorem State.streamFailed_mem (s : State) (a2 a3 a4 : _) : (State.streamFailed s a2 a3 a4).mem = s.mem := by
  simp [State.streamFailed]

@[simp] theorem State.endPeer_mem (s : State) (a2 a3 a4 a5 a6 : _) : (State.endPeer s a2 a3 a4 a5 a6).mem = s.mem := by
  unfold State.endPeer
  split <;> simp

@[simp] theorem State.modReq_mem (s : State) (a2 a3 : _) : (State.modReq s a2 a3).mem = s.mem := by
  simp [State.modReq]

@[simp] theorem onResponse_mem (s : State) (l : LinkId) (type : Nat) (f : State → List Byte → PeerReq → State) (h : ∀ t p q, (f t p q).mem = t.mem) : (stateOf s (onResponse s l type f)).mem = s.mem := by
  refine onPacket_mem s l type _ ?_
  intro t p
  split <;> simp [h]

@[simp] theorem execRdr_mem (s : State) (a1 : _) : (stateOf s (execRdr a1 s)).mem = s.mem := by
  simp [execRdr]

@[simp] theorem execWra_mem (s : State) (a1 : _) : (stateOf s (execWra a1 s)).mem = s.mem := by
  simp [execWra]

@[simp] theorem State.interimTor_mem (s : State) (a2 : _) : (State.interimTor s a2).mem = s.mem := by
  unfold State.interimTor
  split <;> simp

@[simp] theorem execTor_mem (s : State) (a1 : _) : (stateOf s (execTor a1 s)).mem = s.mem := by
  simp [execTor]

@[simp] theorem execErr_mem (s : State) (a1 : _) : (stateOf s (execErr a1 s)).mem = s.mem := by
  simp [execErr]

@[simp] theorem execNotrdy_mem (s : State) (a1 : _) : (stateOf s (execNotrdy a1 s)).mem = s.mem := by
  unfold execNotrdy
  split
  · rfl
  · rename_i h
    have := State.takePkt_mem _ _ _ _ _ _ h
    simp only [stateOf_whenever]
    (repeat' split) <;> simp [this]

@[simp] theorem State.sendAgain_mem (s : State) (a2 a3 : _) : (State.sendAgain s a2 a3).mem = s.mem := by
  unfold State.sendAgain
  (repeat' split) <;> simp

@[simp] theorem State.backoff_mem (s : State) (a2 : _) : (State.backoff s a2).mem = s.mem := by
  simp [State.backoff]

@[simp] theorem execNotrdyBackoff_mem (s : State) (a1 a2 : _) : (stateOf s (execNotrdyBackoff a1 a2 s)).mem = s.mem := by
  unfold execNotrdyBackoff
  split <;> simp

@[simp] theorem execPeerTimeout_mem (s : State) (a1 : _) : (stateOf s (execPeerTimeout a1 s)).mem = s.mem := by
  unfold execPeerTimeout
  split <;> simp

@[simp] theorem State.endHeld_mem (s : State) (a2 : _) : (State.endHeld s a2).mem = s.mem := by
  simp [State.endHeld] <;> (repeat' split) <;> simp

@[simp] theorem execUnreachable_mem (s : State) (a1 : _) : (stateOf s (execUnreachable a1 s)).mem = s.mem := by
  unfold execUnreachable
  split <;> simp

@[simp] theorem execTopProbe_mem (s : State) (a1 : _) : (stateOf s (execTopProbe a1 s)).mem = s.mem := by
  unfold execTopProbe
  split <;> simp

@[simp] theorem State.flood_mem (s : State) (a2 a3 : _) : (State.flood s a2 a3).mem = s.mem := by
  simp [State.flood]

@[simp] theorem State.resendTo_mem (s : State) (a2 : _) : (State.resendTo s a2).mem = s.mem := by
  simp [State.resendTo]

@[simp] theorem State.recordAlias_mem (s : State) (a2 : _) : (State.recordAlias s a2).mem = s.mem := by
  simp [State.recordAlias] <;> (repeat' split) <;> simp

@[simp] theorem onFlood_mem (s : State) (l : LinkId) (type : Nat) (f : State → List Byte → State) (h : ∀ t p, (f t p).mem = t.mem) : (stateOf s (onFlood s l type f)).mem = s.mem := by
  unfold onFlood
  split
  · rfl
  · rename_i hp
    have := State.takePkt_mem _ _ _ _ _ _ hp
    simp [h, this]

@[simp] theorem State.floodOn_mem (s : State) (a2 a3 : _) : (State.floodOn s a2 a3).mem = s.mem := by
  simp [State.floodOn]

@[simp] theorem execAdopt_mem (s : State) (a1 : _) : (stateOf s (execAdopt a1 s)).mem = s.mem := by
  simp [execAdopt]

@[simp] theorem execRelease_mem (s : State) (a1 : _) : (stateOf s (execRelease a1 s)).mem = s.mem := by
  refine onFlood_mem s _ _ _ ?_
  intro t p
  split <;> simp

@[simp] theorem execUnknownPacket_mem (s : State) (a1 : _) : (stateOf s (execUnknownPacket a1 s)).mem = s.mem := by
  unfold execUnknownPacket
  split
  · rfl
  · rename_i h
    have := State.takePkt_mem _ _ _ _ _ _ h
    simp only [stateOf_whenever]
    (repeat' split) <;> simp [this]

@[simp] theorem State.raiseTwin_mem (s : State) (a2 : _) : (State.raiseTwin s a2).mem = s.mem := by
  simp [State.raiseTwin]

@[simp] theorem State.retireAll_mem (s : State) : (State.retireAll s).mem = s.mem := by
  simp [State.retireAll]

@[simp] theorem State.stopMirroring_mem (s : State) (a2 : _) : (State.stopMirroring s a2).mem = s.mem := by
  simp [State.stopMirroring]

@[simp] theorem State.declare_mem (s : State) : (State.declare s).mem = s.mem := by
  simp [State.declare]

@[simp] theorem State.enterFailed_mem (s : State) : (State.enterFailed s).mem = s.mem := by
  simp [State.enterFailed]

@[simp] theorem execTwCtlWrite_mem (s : State) (a1 a2 a3 : _) : (stateOf s (execTwCtlWrite a1 a2 a3 s)).mem = s.mem := by
  simp [execTwCtlWrite]

@[simp] theorem execHelloSend_mem (s : State) : (stateOf s (execHelloSend s)).mem = s.mem := by
  simp [execHelloSend]

@[simp] theorem State.syncLeft_mem (s : State) : (State.syncLeft s).mem = s.mem := by
  rfl

@[simp] theorem State.startSync_mem (s : State) : (State.startSync s).mem = s.mem := by
  simp [State.startSync]

@[simp] theorem execHello_mem (s : State) (a1 a2 a3 : _) : (stateOf s (execHello a1 a2 a3 s)).mem = s.mem := by
  simp [execHello]

@[simp] theorem State.floodAlias_mem (s : State) (a2 : _) : (State.floodAlias s a2).mem = s.mem := by
  simp [State.floodAlias]

@[simp] theorem State.enterPaired_mem (s : State) : (State.enterPaired s).mem = s.mem := by
  simp [State.enterPaired]

@[simp] theorem execResyncDone_mem (s : State) : (stateOf s (execResyncDone s)).mem = s.mem := by
  simp [execResyncDone]

@[simp] theorem State.sendBeat_mem (s : State) : (State.sendBeat s).mem = s.mem := by
  simp [State.sendBeat]

@[simp] theorem execBeatSend_mem (s : State) : (stateOf s (execBeatSend s)).mem = s.mem := by
  simp [execBeatSend]

@[simp] theorem execBeat_mem (s : State) (a1 : _) : (stateOf s (execBeat a1 s)).mem = s.mem := by
  simp [execBeat]

@[simp] theorem execPartnerBeatRead_mem (s : State) (a1 : _) : (stateOf s (execPartnerBeatRead a1 s)).mem = s.mem := by
  unfold execPartnerBeatRead
  split <;> simp

@[simp] theorem execBeatTimeout_mem (s : State) : (stateOf s (execBeatTimeout s)).mem = s.mem := by
  simp [execBeatTimeout]

@[simp] theorem execSelfFence_mem (s : State) : (stateOf s (execSelfFence s)).mem = s.mem := by
  simp [execSelfFence]

@[simp] theorem execFatalNotice_mem (s : State) : (stateOf s (execFatalNotice s)).mem = s.mem := by
  simp [execFatalNotice]

@[simp] theorem execFenceOff_mem (s : State) (a1 : _) : (stateOf s (execFenceOff a1 s)).mem = s.mem := by
  simp [execFenceOff]

@[simp] theorem execModuleFatal_mem (s : State) (a1 : _) : (stateOf s (execModuleFatal a1 s)).mem = s.mem := by
  simp [execModuleFatal]

@[simp] theorem execAdoptFabricAddress_mem (s : State) : (stateOf s (execAdoptFabricAddress s)).mem = s.mem := by
  simp [execAdoptFabricAddress]

@[simp] theorem State.setTwinJoint_mem (s : State) (a2 a3 : _) : (State.setTwinJoint s a2 a3).mem = s.mem := by
  simp [State.setTwinJoint]

@[simp] theorem State.replayRecord_mem (s : State) (a2 : _) : (State.replayRecord s a2).mem = s.mem := by
  simp [State.replayRecord]

@[simp] theorem State.restoreObjects_mem (s : State) (a2 a3 : _) : (State.restoreObjects s a2 a3).mem = s.mem := by
  unfold State.restoreObjects
  dsimp only
  simp only [State.touched_mem, State.serveTallies_mem]
  rw [mem_foldl _ (by intro s a; split <;> simp), mem_foldl _ (by intro s a; split <;> simp),
    mem_foldl _ (by intro s a; split <;> simp)]

@[simp] theorem State.placeRing_mem (s : State) (a2 a3 : _) : (State.placeRing s a2 a3).mem = s.mem := by
  simp [State.placeRing]

@[simp] theorem State.storeRecord_mem (s : State) (a2 : _) : (State.storeRecord s a2).mem = s.mem := by
  simp [State.storeRecord]

@[simp] theorem execPrepareAck_mem (s : State) (a1 a2 : _) : (stateOf s (execPrepareAck a1 a2 s)).mem = s.mem := by
  simp [execPrepareAck]

@[simp] theorem execRecoveryRecord_mem (s : State) (a1 : _) : (stateOf s (execRecoveryRecord a1 s)).mem = s.mem := by
  simp [execRecoveryRecord]

@[simp] theorem State.answerTor_mem (s : State) (a2 : _) : (State.answerTor s a2).mem = s.mem := by
  unfold State.answerTor
  split <;> simp

@[simp] theorem execRecordAck_mem (s : State) (a1 : _) : (stateOf s (execRecordAck a1 s)).mem = s.mem := by
  unfold execRecordAck
  split <;> simp

theorem State.takeStream_mem (s : State) (a2 : _) (x y t : _) (h : State.takeStream s a2 = some (x, y, t)) : t.mem = s.mem := by
  unfold State.takeStream at h
  obtain ⟨l, _, hl⟩ := List.exists_of_findSome?_eq_some h
  split at hl
  · split at hl
    · simp at hl; obtain ⟨_, _, rfl⟩ := hl; simp
    · simp at hl
  · simp at hl

@[simp] theorem State.answerStream_mem (s : State) (a2 a3 : _) : (State.answerStream s a2 a3).mem = s.mem := by
  unfold State.answerStream
  split
  · rfl
  · rename_i h
    have := State.takeStream_mem _ _ _ _ _ h
    dsimp only
    split <;> simp [this]

@[simp] theorem execTallyLog_mem (s : State) (a1 a2 a3 a4 : _) : (stateOf s (execTallyLog a1 a2 a3 a4 s)).mem = s.mem := by
  simp [execTallyLog]

@[simp] theorem execTwinImageNotice_mem (s : State) (a1 a2 a3 : _) : (stateOf s (execTwinImageNotice a1 a2 a3 s)).mem = s.mem := by
  simp [execTwinImageNotice] <;> (repeat' split) <;> simp

@[simp] theorem State.spareCore_mem (s : State) (a2 : _) : (State.spareCore s a2).mem = s.mem := by
  simp [State.spareCore]

@[simp] theorem execCoreFaultCorrected_mem (s : State) (a1 : _) : (stateOf s (execCoreFaultCorrected a1 s)).mem = s.mem := by
  unfold execCoreFaultCorrected
  split <;> simp

@[simp] theorem State.goOn_mem (s : State) (a2 : _) : (State.goOn s a2).mem = s.mem := by
  simp [State.goOn]

@[simp] theorem execCoreSpare_mem (s : State) (a1 : _) : (stateOf s (execCoreSpare a1 s)).mem = s.mem := by
  unfold execCoreSpare
  split <;> simp

@[simp] theorem execCoreHardFault_mem (s : State) (a1 : _) : (stateOf s (execCoreHardFault a1 s)).mem = s.mem := by
  unfold execCoreHardFault
  split <;> simp

@[simp] theorem State.rollRing_mem (s : State) (a2 a3 : _) : (State.rollRing s a2 a3).mem = s.mem := by
  simp [State.rollRing]

@[simp] theorem State.endRollback_mem (s : State) (a2 a3 : _) : (State.endRollback s a2 a3).mem = s.mem := by
  simp [State.endRollback] <;> (repeat' split) <;> simp

@[simp] theorem execPartitionAbortDone_mem (s : State) (a1 : _) : (stateOf s (execPartitionAbortDone a1 s)).mem = s.mem := by
  unfold execPartitionAbortDone
  split <;> simp

@[simp] theorem State.clearRc_mem (s : State) (a2 a3 a4 : _) : (State.clearRc s a2 a3 a4).mem = s.mem := by
  simp [State.clearRc]

@[simp] theorem State.answerRead_mem (s : State) (a2 a3 : _) : (State.answerRead s a2 a3).mem = s.mem := by
  simp [State.answerRead]

@[simp] theorem State.readAt_mem (s : State) (a2 a3 a4 a5 : _) : (State.readAt s a2 a3 a4 a5).mem = s.mem := by
  unfold State.readAt
  split <;> simp

@[simp] theorem execRcFieldRead_mem (s : State) (a1 a2 a3 : _) : (stateOf s (execRcFieldRead a1 a2 a3 s)).mem = s.mem := by
  simp [execRcFieldRead] <;> (repeat' split) <;> simp

@[simp] theorem State.raiseRails_mem (s : State) : (State.raiseRails s).mem = s.mem := by
  simp [State.raiseRails]

@[simp] theorem execModEnRise_mem (s : State) : (stateOf s (execModEnRise s)).mem = s.mem := by
  simp [execModEnRise]

@[simp] theorem execRailInRegulation_mem (s : State) (a1 : _) : (stateOf s (execRailInRegulation a1 s)).mem = s.mem := by
  simp [execRailInRegulation]

@[simp] theorem execInputRise_mem (s : State) : (stateOf s (execInputRise s)).mem = s.mem := by
  simp [execInputRise]

@[simp] theorem execBulkChargeDone_mem (s : State) : (stateOf s (execBulkChargeDone s)).mem = s.mem := by
  simp [execBulkChargeDone]

@[simp] theorem execModEnHoldoffEnd_mem (s : State) : (stateOf s (execModEnHoldoffEnd s)).mem = s.mem := by
  simp [execModEnHoldoffEnd]

@[simp] theorem execRootLock_mem (s : State) : (stateOf s (execRootLock s)).mem = s.mem := by
  simp [execRootLock]

@[simp] theorem execPllLoss_mem (s : State) : (stateOf s (execPllLoss s)).mem = s.mem := by
  simp [execPllLoss]

@[simp] theorem State.bootStat_mem (s : State) (a2 a3 a4 : _) : (State.bootStat s a2 a3 a4).mem = s.mem := by
  simp [State.bootStat]

@[simp] theorem State.bootError_mem (s : State) (a2 a3 : _) : (State.bootError s a2 a3).mem = s.mem := by
  simp [State.bootError]

@[simp] theorem execConfigSpaceReady_mem (s : State) : (stateOf s (execConfigSpaceReady s)).mem = s.mem := by
  simp [execConfigSpaceReady]

@[simp] theorem execPerstDeassert_mem (s : State) : (stateOf s (execPerstDeassert s)).mem = s.mem := by
  simp [execPerstDeassert]

@[simp] theorem State.bootLoad_mem (s : State) : (State.bootLoad s).mem = s.mem := by
  simp [State.bootLoad]

@[simp] theorem execBootGo_mem (s : State) (a1 : _) : (stateOf s (execBootGo a1 s)).mem = s.mem := by
  simp [execBootGo]

@[simp] theorem State.checkDelays_mem (s : State) (a2 a3 : _) : (State.checkDelays s a2 a3).mem = s.mem := by
  simp [State.checkDelays] <;> (repeat' split) <;> simp

@[simp] theorem State.bootFetched_mem (s : State) (a2 a3 : _) : (State.bootFetched s a2 a3).mem = s.mem := by
  unfold State.bootFetched
  (repeat' split) <;> simp

@[simp] theorem execBootFetchDone_mem (s : State) (a1 a2 : _) : (stateOf s (execBootFetchDone a1 a2 s)).mem = s.mem := by
  simp [execBootFetchDone]

@[simp] theorem State.bootChan_mem (s : State) (a2 : _) : (State.bootChan s a2).mem = s.mem := by
  simp [State.bootChan]

@[simp] theorem State.becomeReady_mem (s : State) : (State.becomeReady s).mem = s.mem := by
  rfl

@[simp] theorem execFwStartTimeout_mem (s : State) (a1 : _) : (stateOf s (execFwStartTimeout a1 s)).mem = s.mem := by
  simp [execFwStartTimeout]

@[simp] theorem State.takeReadings_mem (s : State) (a2 : _) : (State.takeReadings s a2).mem = s.mem := by
  simp [State.takeReadings]

@[simp] theorem State.warn_mem (s : State) : (State.warn s).mem = s.mem := by
  simp [State.warn]

@[simp] theorem State.chainOut_mem (s : State) (a2 : _) : (State.chainOut s a2).mem = s.mem := by
  simp [State.chainOut]

@[simp] theorem execEntdaa_mem (s : State) (a1 a2 : _) : (stateOf s (execEntdaa a1 a2 s)).mem = s.mem := by
  simp [execEntdaa]

@[simp] theorem execRstdaa_mem (s : State) : (stateOf s (execRstdaa s)).mem = s.mem := by
  simp [execRstdaa]

@[simp] theorem execSetnewda_mem (s : State) (a1 : _) : (stateOf s (execSetnewda a1 s)).mem = s.mem := by
  simp [execSetnewda]

@[simp] theorem State.answerI3c_mem (s : State) (a2 a3 : _) : (State.answerI3c s a2 a3).mem = s.mem := by
  simp [State.answerI3c]

@[simp] theorem execGetpid_mem (s : State) : (stateOf s (execGetpid s)).mem = s.mem := by
  simp [execGetpid]

@[simp] theorem execGetbcr_mem (s : State) : (stateOf s (execGetbcr s)).mem = s.mem := by
  simp [execGetbcr]

@[simp] theorem execGetdcr_mem (s : State) : (stateOf s (execGetdcr s)).mem = s.mem := by
  simp [execGetdcr]

@[simp] theorem execGetstatus_mem (s : State) : (stateOf s (execGetstatus s)).mem = s.mem := by
  simp [execGetstatus]

@[simp] theorem execGetmxds_mem (s : State) : (stateOf s (execGetmxds s)).mem = s.mem := by
  simp [execGetmxds]

@[simp] theorem execEnec_mem (s : State) (a1 : _) : (stateOf s (execEnec a1 s)).mem = s.mem := by
  simp [execEnec]

@[simp] theorem execDisec_mem (s : State) (a1 : _) : (stateOf s (execDisec a1 s)).mem = s.mem := by
  simp [execDisec]

@[simp] theorem execI3cPrivateWrite_mem (s : State) (a1 : _) : (stateOf s (execI3cPrivateWrite a1 s)).mem = s.mem := by
  simp [execI3cPrivateWrite]

@[simp] theorem execI3cPrivateRead_mem (s : State) (a1 : _) : (stateOf s (execI3cPrivateRead a1 s)).mem = s.mem := by
  simp [execI3cPrivateRead]

@[simp] theorem State.debugCtl_mem (s : State) (a2 a3 a4 a5 a6 : _) : (State.debugCtl s a2 a3 a4 a5 a6).mem = s.mem := by
  simp [State.debugCtl] <;> (repeat' split) <;> simp

@[simp] theorem State.request1_mem (s : State) (fn : FnId) (o l : Nat) (a : Acc) (v : Word) (r : State → Res)
    (h : ∀ t, (stateOf t (r t)).mem = t.mem) : (s.request1 fn o l a v r).mem = s.mem := by
  simp only [State.request1]
  split <;> simp [h]

theorem State.rowWrite_mem (s : State) (a2 a3 a4 a5 : _) (t : _) (h : State.rowWrite s a2 a3 a4 a5 = some t) : t.mem = s.mem := by
  revert h t
  unfold State.rowWrite
  dsimp only
  iterate 14 refine iteSome (fun t => t.mem = s.mem) _ _ _ (by simp) ?_
  intro t h
  cases h

theorem State.bitWrite_mem (s : State) (a2 a3 a4 a5 a6 : _) (t : _) (h : State.bitWrite s a2 a3 a4 a5 a6 = some t) : t.mem = s.mem := by
  unfold State.bitWrite at h
  dsimp only at h
  (repeat' split at h) <;> first | (cases h; simp; done) | cases h

@[simp] theorem State.setView_mem (s : State) (a2 a3 : _) : (State.setView s a2 a3).mem = s.mem := by
  simp [State.setView]

@[simp] theorem State.linkEnable_mem (s : State) (a2 a3 : _) : (State.linkEnable s a2 a3).mem = s.mem := by
  simp [State.linkEnable]

@[simp] theorem State.afterWrite_mem (s : State) (a2 a3 : _) : (State.afterWrite s a2 a3).mem = s.mem := by
  simp [State.afterWrite]

@[simp] theorem State.plainWrite_mem (s : State) (a2 a3 a4 a5 a6 a7 : _) : (State.plainWrite s a2 a3 a4 a5 a6 a7).mem = s.mem := by
  simp [State.plainWrite]

@[simp] theorem State.writeAt_mem (s : State) (a2 a3 a4 a5 a6 a7 : _) : (State.writeAt s a2 a3 a4 a5 a6 a7).mem = s.mem := by
  unfold State.writeAt
  split
  · simp
  · split
    · rename_i h; exact State.rowWrite_mem _ _ _ _ _ _ h
    · split
      · rename_i h
        have := State.bitWrite_mem _ _ _ _ _ _ _ h
        split <;> simp [this]
      · simp

@[simp] theorem State.writeBar0_mem (s : State) (a2 a3 a4 a5 a6 : _) : (State.writeBar0 s a2 a3 a4 a5 a6).mem = s.mem := by
  unfold State.writeBar0
  (repeat' split) <;> simp

@[simp] theorem execRegisterWrite_mem (s : State) (a1 a2 a3 a4 : _) : (stateOf s (execRegisterWrite a1 a2 a3 a4 s)).mem = s.mem := by
  simp [execRegisterWrite] <;> (repeat' split) <;> simp

@[simp] theorem State.countModes_mem (s : State) (a2 : _) : (State.countModes s a2).mem = s.mem := by
  simp [State.countModes]

@[simp] theorem State.tickPart_mem (s : State) (a2 : _) : (State.tickPart s a2).mem = s.mem := by
  simp [State.tickPart]

end Sys2Proof.Machine
end

