-- ==== Sys2Proof/Laws/Canonical.lean ====
section
/-! SUPPORT. Every operation that writes device memory keeps its canonical form. -/

namespace Sys2Proof.Machine

theorem wf_foldl {α : Type} (f : State → α → State) (hf : ∀ s a, tabWf zeroByte s.mem = true → tabWf zeroByte (f s a).mem = true)
    (l : List α) (s : State) (h : tabWf zeroByte s.mem = true) : tabWf zeroByte (l.foldl f s).mem = true := by
  induction l generalizing s with
  | nil => exact h
  | cons a l ih => exact ih _ (hf s a h)

theorem wf_foldl_fst {α β : Type} (f : State × β → α → State × β)
    (hf : ∀ x a, tabWf zeroByte x.1.mem = true → tabWf zeroByte (f x a).1.mem = true)
    (l : List α) (x : State × β) (h : tabWf zeroByte x.1.mem = true) : tabWf zeroByte (l.foldl f x).1.mem = true := by
  induction l generalizing x with
  | nil => exact h
  | cons a l ih => exact ih _ (hf x a h)

@[simp] theorem tabWf_ite (c : Prop) [Decidable c] (m n : List Host.Cell) :
    tabWf zeroByte (if c then m else n) = if c then tabWf zeroByte m else tabWf zeroByte n := apply_ite _ c m n

theorem tabWf_head {α : Type} [DecidableEq α] {d : Nat → α} (m : Tab α) : tabWf d m = true →
    m.Pairwise (fun a b => a.1 < b.1) ∧ ∀ e ∈ m, e.2 ≠ d e.1 := by
  intro h
  induction m with
  | nil => simp
  | cons e r ih =>
    obtain ⟨a, v⟩ := e
    obtain ⟨h1, h2, h3⟩ := (tabWf_cons (d := d)).1 h
    obtain ⟨p, q⟩ := ih h3
    refine ⟨List.pairwise_cons.2 ⟨?_, p⟩, ?_⟩
    · intro b hb
      cases r with
      | nil => simp at hb
      | cons c r =>
        have hc := h2 c rfl
        rcases List.mem_cons.1 hb with rfl | hb
        · exact hc
        · exact lt_trans hc ((List.pairwise_cons.1 p).1 b hb)
    · intro x hx
      rcases List.mem_cons.1 hx with rfl | hx
      · exact h1
      · exact q x hx

theorem tabWf_of {α : Type} [DecidableEq α] {d : Nat → α} (m : Tab α) (p : m.Pairwise (fun a b => a.1 < b.1))
    (q : ∀ e ∈ m, e.2 ≠ d e.1) : tabWf d m = true := by
  induction m with
  | nil => rfl
  | cons e r ih =>
    obtain ⟨a, v⟩ := e
    obtain ⟨p1, p2⟩ := List.pairwise_cons.1 p
    refine (tabWf_cons (d := d)).2 ⟨q (a, v) (by simp), ?_, ih p2 (fun x hx => q x (by simp [hx]))⟩
    intro b hb
    exact p1 b (List.mem_of_mem_head? hb)

theorem tabWf_filter {α : Type} [DecidableEq α] {d : Nat → α} (f : Nat × α → Bool) (m : Tab α) (h : tabWf d m = true) :
    tabWf d (m.filter f) = true := by
  obtain ⟨p, q⟩ := tabWf_head m h
  exact tabWf_of _ (p.filter f) (fun e he => q e (List.mem_of_mem_filter he))

@[simp] theorem State.settle_wf (s t : State) (h : tabWf zeroByte s.mem = true) (ht : tabWf zeroByte t.mem = true) :
    tabWf zeroByte (s.settle t).mem = true := by
  unfold State.settle
  split
  · exact ht
  · exact wf_foldl _ (fun s a h => by simp [h]) _ _ h

theorem onDesc_wf (s : State) (r : RingId) (seq : BitVec 32) (opc : Nat) (f : PartId → Desc → State)
    (h : tabWf zeroByte s.mem = true) (hf : ∀ p d, tabWf zeroByte (f p d).mem = true) :
    tabWf zeroByte (stateOf s (onDesc s r seq opc f)).mem = true := by
  unfold onDesc
  split
  · exact h
  · simp [h, hf]

@[simp] theorem State.writeLine_wf (s : State) (a2 a3 : _) (h : tabWf zeroByte s.mem = true) : tabWf zeroByte (State.writeLine s a2 a3).mem = true := by
  simpa [State.writeLine] using writeBytes_wf a3 s.mem (64 * a2) h

@[simp] theorem State.copyLine_wf (s : State) (a2 : _) (h : tabWf zeroByte s.mem = true) : tabWf zeroByte (State.copyLine s a2).mem = true := by
  simp [State.copyLine, h]

@[simp] theorem execSpareCopyDone_wf (s : State) (a1 : _) (h : tabWf zeroByte s.mem = true) : tabWf zeroByte (stateOf s (execSpareCopyDone a1 s)).mem = true := by
  unfold execSpareCopyDone
  split
  · exact h
  · have := wf_foldl State.copyLine (fun t a h => by simp [h]) (s.copiedLines a1 ‹_›) s h
    simp [h, this]

@[simp] theorem State.performReq_wf (s : State) (a2 a3 : _) (h : tabWf zeroByte s.mem = true) : tabWf zeroByte (State.performReq s a2 a3).1.mem = true := by
  unfold State.performReq
  dsimp only
  (repeat' split) <;> simp [h]

@[simp] theorem State.serveAt_wf (s : State) (a2 a3 : _) (h : tabWf zeroByte s.mem = true) : tabWf zeroByte (State.serveAt s a2 a3).1.mem = true := by
  unfold State.serveAt
  (repeat' split) <;> simp [h]

@[simp] theorem State.scrubOne_wf (s : State) (a2 a3 : _) (h : tabWf zeroByte s.mem = true) : tabWf zeroByte (State.scrubOne s a2 a3).mem = true := by
  simp [State.scrubOne, h]

@[simp] theorem State.scrub_wf (s : State) (a2 : _) (h : tabWf zeroByte s.mem = true) : tabWf zeroByte (State.scrub s a2).mem = true := by
  unfold State.scrub
  try dsimp only
  have := wf_foldl (fun t k => t.scrubOne a2 (scrubLine a2 (s.fld (oSCRUB_STAT a2) 24 0 + k))) (fun t a h => by simp [h]) (List.range 8) s h
  split <;> simp [this]

@[simp] theorem execTitheSlot_wf (s : State) (a1 a2 a3 : _) (h : tabWf zeroByte s.mem = true) : tabWf zeroByte (stateOf s (execTitheSlot a1 a2 a3 s)).mem = true := by
  simp [execTitheSlot, h]

@[simp] theorem State.bankWrite_wf (s : State) (a2 a3 a4 a5 a6 : _) (h : tabWf zeroByte s.mem = true) : tabWf zeroByte (State.bankWrite s a2 a3 a4 a5 a6).mem = true := by
  unfold State.bankWrite
  exact wf_foldl _ (fun t a h => by simp [h]) _ _ h

@[simp] theorem execKvapp_wf (s : State) (a1 a2 a3 a4 a5 : _) (h : tabWf zeroByte s.mem = true) : tabWf zeroByte (stateOf s (execKvapp a1 a2 a3 a4 a5 s)).mem = true := by
  unfold execKvapp
  simp only [quernOp, stateOf_whenever]
  (repeat' split) <;> simp [h]

@[simp] theorem State.direct_wf (s : State) (a2 a3 a4 a5 a6 : _) (h : tabWf zeroByte s.mem = true) : tabWf zeroByte (State.direct s a2 a3 a4 a5 a6).1.mem = true := by
  unfold State.direct
  dsimp only
  (repeat' split) <;> simp [h]

@[simp] theorem State.readPhys_wf (s : State) (a2 a3 a4 : _) (h : tabWf zeroByte s.mem = true) : tabWf zeroByte (State.readPhys s a2 a3 a4).1.mem = true := by
  unfold State.readPhys
  refine wf_foldl_fst _ (fun x a hx => ?_) _ _ h
  try dsimp only
  split <;> simp [hx]

@[simp] theorem State.writePhys_wf (s : State) (a2 a3 a4 : _) (h : tabWf zeroByte s.mem = true) : tabWf zeroByte (State.writePhys s a2 a3 a4).1.mem = true := by
  unfold State.writePhys
  refine wf_foldl_fst _ (fun x a hx => ?_) _ _ h
  try dsimp only
  split <;> simp [hx]

@[simp] theorem State.writeFree_wf (s : State) (a2 a3 a4 : _) (h : tabWf zeroByte s.mem = true) : tabWf zeroByte (State.writeFree s a2 a3 a4).1.mem = true := by
  unfold State.writeFree
  refine wf_foldl_fst _ (fun x a hx => ?_) _ _ h
  dsimp only
  split
  · exact hx
  · simp [hx]

@[simp] theorem State.walkDirect_wf (s : State) (a2 a3 a4 a5 : _) (h : tabWf zeroByte s.mem = true) : tabWf zeroByte (State.walkDirect s a2 a3 a4 a5).1.mem = true := by
  induction a4 generalizing s a5 with
  | zero => simpa [State.walkDirect] using h
  | succ n ih =>
    cases a5 with
    | read w =>
      simp only [State.walkDirect]
      apply ih
      split <;> simp [h]
    | leaf l => simpa [State.walkDirect] using h
    | fail a b => simpa [State.walkDirect] using h

@[simp] theorem State.readLeaf_wf (s : State) (a2 a3 a4 a5 : _) (h : tabWf zeroByte s.mem = true) : tabWf zeroByte (State.readLeaf s a2 a3 a4 a5).1.mem = true := by
  unfold State.readLeaf
  dsimp only
  (repeat' split) <;> simp [h]

@[simp] theorem State.readVaLine_wf (s : State) (a2 a3 a4 : _) (h : tabWf zeroByte s.mem = true) : tabWf zeroByte (State.readVaLine s a2 a3 a4).1.mem = true := by
  have e := State.walkDirect_wf s a2.part a2.tag 5 (s.beginWalk a2.part a2.ctx a3 false) h
  unfold State.readVaLine
  split <;> rename_i ht <;> simp only [ht] at e
  · simp [e]
  · simp [e]
  · exact e

@[simp] theorem State.readVa_wf (s : State) (a2 a3 a4 : _) (h : tabWf zeroByte s.mem = true) : tabWf zeroByte (State.readVa s a2 a3 a4).1.mem = true := by
  unfold State.readVa
  refine wf_foldl_fst _ (fun x a hx => ?_) _ _ h
  try dsimp only
  split <;> simp [hx]

@[simp] theorem State.takeImage_wf (s : State) (a2 : _) (h : tabWf zeroByte s.mem = true) : tabWf zeroByte (State.takeImage s a2).mem = true := by
  simp [State.takeImage, h]

@[simp] theorem State.nextImage_wf (s : State) (h : tabWf zeroByte s.mem = true) : tabWf zeroByte (State.nextImage s).mem = true := by
  unfold State.nextImage
  (repeat' split) <;> simp [h]

@[simp] theorem execLoaderTakeImage_wf (s : State) (h : tabWf zeroByte s.mem = true) : tabWf zeroByte (stateOf s (execLoaderTakeImage s)).mem = true := by
  simp [execLoaderTakeImage, h]

@[simp] theorem State.installImage_wf (s : State) (a2 : _) (h : tabWf zeroByte s.mem = true) : tabWf zeroByte (State.installImage s a2).mem = true := by
  unfold State.installImage
  dsimp only
  (repeat' split) <;> simp [h]

@[simp] theorem State.endLoad_wf (s : State) (a2 : _) (h : tabWf zeroByte s.mem = true) : tabWf zeroByte (State.endLoad s a2).mem = true := by
  unfold State.endLoad
  (repeat' split) <;> simp [h]

@[simp] theorem execImageTranslated_wf (s : State) (h : tabWf zeroByte s.mem = true) : tabWf zeroByte (stateOf s (execImageTranslated s)).mem = true := by
  unfold execImageTranslated
  (repeat' split) <;> simp [h]

@[simp] theorem execMemRequestServe_wf (s : State) (a1 a2 a3 : _) (h : tabWf zeroByte s.mem = true) : tabWf zeroByte (stateOf s (execMemRequestServe a1 a2 a3 s)).mem = true := by
  simp [execMemRequestServe, h]

theorem copyCells_wf (m : List Host.Cell) (src dst len : Nat) (h : tabWf zeroByte m = true) :
    tabWf zeroByte (copyCells m src dst len) = true := by
  have go : ∀ (l : List Host.Cell) (t : List Host.Cell), tabWf zeroByte t = true →
      tabWf zeroByte (l.foldl (fun t c => tabSet zeroByte (dst + (c.1 - src)) c.2 t) t) = true := by
    intro l
    induction l with
    | nil => intro t ht; exact ht
    | cons a l ih => intro t ht; exact ih _ (tabWf_tabSet _ _ _ ht)
  exact go _ _ (tabWf_filter _ _ h)
@[simp] theorem State.copyPage_wf (s : State) (a2 a3 : _) (h : tabWf zeroByte s.mem = true) :
    tabWf zeroByte (State.copyPage s a2 a3).mem = true := by
  unfold State.copyPage
  refine wf_foldl _ (fun t a ht => ?_) _ _ (copyCells_wf _ _ _ _ h)
  try dsimp only
  split <;> simp [ht]

@[simp] theorem State.copyDone_wf (s : State) (a2 a3 : _) (h : tabWf zeroByte s.mem = true) : tabWf zeroByte (State.copyDone s a2 a3).mem = true := by
  unfold State.copyDone
  dsimp only
  (repeat' split) <;> simp [h]

@[simp] theorem execShadowCopyDone_wf (s : State) (a1 : _) (h : tabWf zeroByte s.mem = true) : tabWf zeroByte (stateOf s (execShadowCopyDone a1 s)).mem = true := by
  unfold execShadowCopyDone
  (repeat' split) <;> simp [h]

@[simp] theorem State.swapPage_wf (s : State) (a1 a3 : _) (h : tabWf zeroByte s.mem = true) : tabWf zeroByte (State.swapPage a1 s a3).mem = true := by
  simp [State.swapPage, h]

@[simp] theorem State.commitJoint_wf (s : State) (a2 a3 a4 : _) (h : tabWf zeroByte s.mem = true) : tabWf zeroByte (State.commitJoint s a2 a3 a4).mem = true := by
  have a := wf_foldl (State.swapPage a2) (fun t a h => by simp [h]) (s.joint a2 a3).dirty s h
  unfold State.commitJoint
  dsimp only
  rw [mem_foldl _ (by intros; simp)]
  simp only [State.endDesc_mem, State.publishMembers_mem, State.incFld_mem]
  split <;> simp [mem_foldl, a]

@[simp] theorem State.commitOn_wf (s : State) (a2 a3 a4 : _) (h : tabWf zeroByte s.mem = true) : tabWf zeroByte (State.commitOn s a2 a3 a4).mem = true := by
  simp [State.commitOn, h]

@[simp] theorem execJointCommitSwap_wf (s : State) (a1 a2 : _) (h : tabWf zeroByte s.mem = true) : tabWf zeroByte (stateOf s (execJointCommitSwap a1 a2 s)).mem = true := by
  unfold execJointCommitSwap
  dsimp only
  split
  · exact h
  · split
    · exact h
    · simp [h]

@[simp] theorem State.imageKey_wf (s : State) (a2 a3 : _) (h : tabWf zeroByte s.mem = true) : tabWf zeroByte (State.imageKey s a2 a3).1.mem = true := by
  unfold State.imageKey
  (repeat' split) <;> simp [h]

@[simp] theorem State.actLaunch_wf (s : State) (a2 a3 : _) (h : tabWf zeroByte s.mem = true) : tabWf zeroByte (State.actLaunch s a2 a3).mem = true := by
  unfold State.actLaunch
  dsimp only
  (repeat' split) <;> simp [h]

@[simp] theorem execLaunch_wf (s : State) (a1 a2 : _) (h : tabWf zeroByte s.mem = true) : tabWf zeroByte (stateOf s (execLaunch a1 a2 s)).mem = true := by
  unfold execLaunch
  exact onDesc_wf s _ _ _ _ h (fun p d => by simp [h])

@[simp] theorem State.marked_wf (s : State) (a2 a3 : _) (h : tabWf zeroByte s.mem = true) : tabWf zeroByte (State.marked s a2 a3).1.mem = true := by
  unfold State.marked
  dsimp only
  (repeat' split) <;> simp [h]

@[simp] theorem State.ingressFence_wf (s : State) (a2 : _) (h : tabWf zeroByte s.mem = true) : tabWf zeroByte (State.ingressFence s a2).mem = true := by
  have e := State.marked_wf (s.running_ a2.ring a2.seq) (a2.f 16 4) (BitVec.ofNat 32 (a2.f 20 4)) (by simpa using h)
  unfold State.ingressFence
  try dsimp only
  split
  · simp [h]
  · split <;> rename_i ht <;> simp only [ht] at e
    · simpa using e
    · split <;> simpa using e

@[simp] theorem execIngressFence_wf (s : State) (a1 a2 : _) (h : tabWf zeroByte s.mem = true) : tabWf zeroByte (stateOf s (execIngressFence a1 a2 s)).mem = true := by
  unfold execIngressFence
  (repeat' split) <;> simp [h]

@[simp] theorem State.tableFor_wf (s : State) (a2 a3 a4 a5 a6 a7 a8 a9 : _) (h : tabWf zeroByte s.mem = true) : tabWf zeroByte (State.tableFor s a2 a3 a4 a5 a6 a7 a8 a9).1.mem = true := by
  induction a7 generalizing s a8 a9 with
  | zero => simpa [State.tableFor] using h
  | succ k ih =>
    unfold State.tableFor
    try dsimp only
    (repeat' split) <;> first | exact h | simp [h, ih]

theorem MapRun.put_wf (m : MapRun) (p : PartId) (d : Desc) (k : Nat) (h : tabWf zeroByte m.st.mem = true) :
    tabWf zeroByte (m.put p d k).st.mem = true := by
  unfold MapRun.put
  try dsimp only
  (repeat' split) <;> simp_all
theorem MapRun.fold_wf (p : PartId) (d : Desc) (l : List Nat) (m : MapRun) (h : tabWf zeroByte m.st.mem = true) :
    tabWf zeroByte (l.foldl (fun m k => m.put p d k) m).st.mem = true := by
  induction l generalizing m with
  | nil => exact h
  | cons a l ih => exact ih _ (MapRun.put_wf m p d a h)
@[simp] theorem State.writeMap_wf (s : State) (p : PartId) (d : Desc) (h : tabWf zeroByte s.mem = true) :
    tabWf zeroByte (s.writeMap p d).mem = true := by
  simp [State.writeMap, MapRun.fold_wf, h]

@[simp] theorem State.actMap_wf (s : State) (a2 a3 : _) (h : tabWf zeroByte s.mem = true) : tabWf zeroByte (State.actMap s a2 a3).mem = true := by
  simp [State.actMap, h]

@[simp] theorem execMap_wf (s : State) (a1 a2 : _) (h : tabWf zeroByte s.mem = true) : tabWf zeroByte (stateOf s (execMap a1 a2 s)).mem = true := by
  unfold execMap
  (repeat' split) <;> simp [h]

@[simp] theorem State.readSyncTable_wf (s : State) (a2 a3 : _) (h : tabWf zeroByte s.mem = true) : tabWf zeroByte (State.readSyncTable s a2 a3).mem = true := by
  simp [State.readSyncTable, h]

@[simp] theorem State.saveContext_wf (s : State) (a2 a3 : _) (h : tabWf zeroByte s.mem = true) : tabWf zeroByte (State.saveContext s a2 a3).mem = true := by
  simp [State.saveContext, h]

@[simp] theorem State.saveDone_wf (s : State) (a2 a3 : _) (h : tabWf zeroByte s.mem = true) : tabWf zeroByte (State.saveDone s a2 a3).mem = true := by
  simp [State.saveDone, h]

@[simp] theorem execPreemptSaveDone_wf (s : State) (a1 : _) (h : tabWf zeroByte s.mem = true) : tabWf zeroByte (stateOf s (execPreemptSaveDone a1 s)).mem = true := by
  unfold execPreemptSaveDone
  (repeat' split) <;> simp [h]

@[simp] theorem State.ctxIn_wf (s : State) (a2 a3 : _) (h : tabWf zeroByte s.mem = true) : tabWf zeroByte (State.ctxIn s a2 a3).mem = true := by
  simp [State.ctxIn, h]

@[simp] theorem execContextSwitchDone_wf (s : State) (a1 : _) (h : tabWf zeroByte s.mem = true) : tabWf zeroByte (stateOf s (execContextSwitchDone a1 s)).mem = true := by
  unfold execContextSwitchDone
  (repeat' split) <;> simp [h]

@[simp] theorem State.writeSnapshot_wf (s : State) (a2 a3 a4 : _) (h : tabWf zeroByte s.mem = true) : tabWf zeroByte (State.writeSnapshot s a2 a3 a4).mem = true := by
  simp [State.writeSnapshot, h]

@[simp] theorem execWatchmanSnapshot_wf (s : State) (a1 : _) (h : tabWf zeroByte s.mem = true) : tabWf zeroByte (stateOf s (execWatchmanSnapshot a1 s)).mem = true := by
  unfold execWatchmanSnapshot
  split
  · simp [h]
  · exact h

@[simp] theorem State.resyncStep_wf (s : State) (h : tabWf zeroByte s.mem = true) : tabWf zeroByte (State.resyncStep s).mem = true := by
  unfold State.resyncStep
  refine State.settle_wf _ _ h ?_
  split
  · dsimp only
    split <;> simp [h]
  · exact h

@[simp] theorem State.swapTwin_wf (s : State) (a2 : _) (h : tabWf zeroByte s.mem = true) : tabWf zeroByte (State.swapTwin s a2).mem = true := by
  unfold State.swapTwin
  try dsimp only
  split
  · exact h
  · rw [State.setTwinJoint_mem]
    exact wf_foldl _ (fun t a ht => by simp [ht]) _ _ h

@[simp] theorem State.resolveTwinJoint_wf (s : State) (a2 : _) (h : tabWf zeroByte s.mem = true) : tabWf zeroByte (State.resolveTwinJoint s a2).mem = true := by
  simp [State.resolveTwinJoint, h]

@[simp] theorem execPartnerJointResolve_wf (s : State) (h : tabWf zeroByte s.mem = true) : tabWf zeroByte (stateOf s (execPartnerJointResolve s)).mem = true := by
  simp only [execPartnerJointResolve, stateOf_whenever]
  split
  · exact State.settle_wf _ _ h (wf_foldl _ (fun t a ht => by simp [ht]) _ _ h)
  · exact h

@[simp] theorem State.restoreStored_wf (s : State) (a2 a3 : _) (h : tabWf zeroByte s.mem = true) : tabWf zeroByte (State.restoreStored s a2 a3).mem = true := by
  unfold State.restoreStored
  try dsimp only
  split
  · exact h
  · rw [mem_foldl _ (by intros; simp)]
    rw [State.restoreObjects_mem]
    exact wf_foldl _ (fun t a ht => by simp [ht]) _ _ h

@[simp] theorem State.adoptRing_wf (s : State) (a2 a3 : _) (h : tabWf zeroByte s.mem = true) : tabWf zeroByte (State.adoptRing s a2 a3).mem = true := by
  unfold State.adoptRing
  dsimp only
  (repeat' split) <;> simp [h]

@[simp] theorem execRingAdoption_wf (s : State) (a1 : _) (h : tabWf zeroByte s.mem = true) : tabWf zeroByte (stateOf s (execRingAdoption a1 s)).mem = true := by
  unfold execRingAdoption
  (repeat' split) <;> simp [h]

@[simp] theorem State.finishTwinJoints_wf (s : State) (h : tabWf zeroByte s.mem = true) : tabWf zeroByte (State.finishTwinJoints s).mem = true := by
  unfold State.finishTwinJoints
  exact wf_foldl _ (fun t a ht => by simp [ht]) _ _ h

@[simp] theorem execPrepare_wf (s : State) (a1 a2 a3 : _) (h : tabWf zeroByte s.mem = true) : tabWf zeroByte (stateOf s (execPrepare a1 a2 a3 s)).mem = true := by
  simp only [execPrepare, stateOf_whenever]
  split
  · refine State.settle_wf _ _ h ?_
    split <;> simp [h]
  · exact h

@[simp] theorem State.shadowWrite_wf (s : State) (a2 a3 a4 : _) (h : tabWf zeroByte s.mem = true) : tabWf zeroByte (State.shadowWrite s a2 a3 a4).mem = true := by
  simp [State.shadowWrite, h]

@[simp] theorem execStreamedWrite_wf (s : State) (a1 a2 a3 : _) (h : tabWf zeroByte s.mem = true) : tabWf zeroByte (stateOf s (execStreamedWrite a1 a2 a3 s)).mem = true := by
  simp [execStreamedWrite, h]

@[simp] theorem State.powerDown_wf (s : State) (h : tabWf zeroByte s.mem = true) : tabWf zeroByte (State.powerDown s).mem = true := by
  unfold State.powerDown
  dsimp only
  (repeat' split) <;> simp <;> rfl

@[simp] theorem State.railLost_wf (s : State) (h : tabWf zeroByte s.mem = true) : tabWf zeroByte (State.railLost s).mem = true := by
  simp [State.railLost, h]

@[simp] theorem execModEnFall_wf (s : State) (h : tabWf zeroByte s.mem = true) : tabWf zeroByte (stateOf s (execModEnFall s)).mem = true := by
  simp [execModEnFall, h]

@[simp] theorem execRailFault_wf (s : State) (a1 : _) (h : tabWf zeroByte s.mem = true) : tabWf zeroByte (stateOf s (execRailFault a1 s)).mem = true := by
  simp [execRailFault, h]

@[simp] theorem execInputOutOfRange_wf (s : State) (h : tabWf zeroByte s.mem = true) : tabWf zeroByte (stateOf s (execInputOutOfRange s)).mem = true := by
  simp [execInputOutOfRange, h]

@[simp] theorem State.prepareMemory_wf (s : State) (h : tabWf zeroByte s.mem = true) : tabWf zeroByte (State.prepareMemory s).mem = true := by
  simp [State.prepareMemory, h]

@[simp] theorem execFwReady_wf (s : State) (a1 : _) (h : tabWf zeroByte s.mem = true) : tabWf zeroByte (stateOf s (execFwReady a1 s)).mem = true := by
  unfold execFwReady
  (repeat' split) <;> simp [h]

@[simp] theorem execThermalSample_wf (s : State) (a1 : _) (h : tabWf zeroByte s.mem = true) : tabWf zeroByte (stateOf s (execThermalSample a1 s)).mem = true := by
  simp [execThermalSample, h]

@[simp] theorem State.fabricTick_wf (s : State) (h : tabWf zeroByte s.mem = true) : tabWf zeroByte (State.fabricTick s).mem = true := by
  unfold State.fabricTick
  dsimp only
  have e : ∀ (l : List Nat), (l.foldl (fun u n => if h : n < 32 then u.tickPart ⟨n, h⟩ else u) s).mem = s.mem :=
    fun l => mem_foldl _ (by intro s a; split <;> simp) l s
  split
  · exact State.resyncStep_wf _ (by rw [e]; exact h)
  · rw [e]; exact h

@[simp] theorem State.tick_wf (s : State) (h : tabWf zeroByte s.mem = true) : tabWf zeroByte (State.tick s).mem = true := by
  unfold State.tick
  split
  · exact h
  · dsimp only
    (repeat' split) <;> simp [h]

end Sys2Proof.Machine
end

