-- ==== Sys2Proof/Laws/Queue.lean ====
section
/-! SUPPORT. No operation of the model but a step touches the queue of waiting commands. -/

namespace Sys2Proof.Machine

@[simp] theorem pending_ite (c : Prop) [Decidable c] (s t : State) :
    (if c then s else t).pending = if c then s.pending else t.pending := apply_ite _ c s t

/-- A fold of operations that each keep it keeps the queue. -/
@[simp] theorem pending_foldl {α : Type} (f : State → α → State) (h : ∀ s a, (f s a).pending = s.pending) (l : List α) (s : State) :
    (l.foldl f s).pending = s.pending := by
  induction l generalizing s with
  | nil => rfl
  | cons a l ih => simp [List.foldl, ih, h]

@[simp] theorem pending_foldl_fst {α β : Type} (f : State × β → α → State × β) (h : ∀ x a, (f x a).1.pending = x.1.pending)
    (l : List α) (x : State × β) : (l.foldl f x).1.pending = x.1.pending := by
  induction l generalizing x with
  | nil => rfl
  | cons a l ih => simp [List.foldl, ih, h]

@[simp] theorem pending_foldl_snd {α β : Type} (f : β × State → α → β × State) (h : ∀ x a, (f x a).2.pending = x.2.pending)
    (l : List α) (x : β × State) : (l.foldl f x).2.pending = x.2.pending := by
  induction l generalizing x with
  | nil => rfl
  | cons a l ih => simp [List.foldl, ih, h]

@[simp] theorem State.setFld_pending (s : State) (a2 a3 a4 a5 : _) : (State.setFld s a2 a3 a4 a5).pending = s.pending := by
  simp [State.setFld]

@[simp] theorem State.incFld_pending (s : State) (a2 a3 a4 a5 : _) : (State.incFld s a2 a3 a4 a5).pending = s.pending := by
  simp [State.incFld]

@[simp] theorem State.satFld_pending (s : State) (a2 a3 a4 a5 : _) : (State.satFld s a2 a3 a4 a5).pending = s.pending := by
  simp [State.satFld]

@[simp] theorem State.setBoth_pending (s : State) (a2 a3 a4 a5 : _) : (State.setBoth s a2 a3 a4 a5).pending = s.pending := by
  simp [State.setBoth]

@[simp] theorem State.fresh_pending (s : State) : (State.fresh s).2.pending = s.pending := by
  simp [State.fresh]

@[simp] theorem State.newId_pending (s : State) : (State.newId s).2.pending = s.pending := by
  simp [State.newId]

@[simp] theorem State.inBand_pending (s : State) (a2 : _) : (State.inBand s a2).pending = s.pending := by
  simp [State.inBand]

@[simp] theorem State.modCore_pending (s : State) (a2 a3 : _) : (State.modCore s a2 a3).pending = s.pending := by
  simp [State.modCore]

@[simp] theorem State.modPart_pending (s : State) (a2 a3 : _) : (State.modPart s a2 a3).pending = s.pending := by
  simp [State.modPart]

@[simp] theorem State.modChan_pending (s : State) (a2 a3 : _) : (State.modChan s a2 a3).pending = s.pending := by
  simp [State.modChan]

@[simp] theorem State.modRing_pending (s : State) (a2 a3 : _) : (State.modRing s a2 a3).pending = s.pending := by
  simp [State.modRing]

@[simp] theorem State.modLink_pending (s : State) (a2 a3 : _) : (State.modLink s a2 a3).pending = s.pending := by
  simp [State.modLink]

@[simp] theorem State.logPart_pending (s : State) (a2 a3 : _) : (State.logPart s a2 a3).pending = s.pending := by
  simp [State.logPart]

@[simp] theorem State.logModule_pending (s : State) (a2 : _) : (State.logModule s a2).pending = s.pending := by
  simp [State.logModule]

@[simp] theorem State.logAny_pending (s : State) (a2 a3 : _) : (State.logAny s a2 a3).pending = s.pending := by
  unfold State.logAny
  split <;> simp

@[simp] theorem State.logAccess_pending (s : State) (a2 a3 a4 a5 : _) : (State.logAccess s a2 a3 a4 a5).pending = s.pending := by
  simp [State.logAccess]

@[simp] theorem State.logChan_pending (s : State) (a2 a3 a4 a5 a6 a7 : _) : (State.logChan s a2 a3 a4 a5 a6 a7).pending = s.pending := by
  simp [State.logChan]

@[simp] theorem State.traceRec_pending (s : State) (a2 a3 a4 a5 a6 a7 a8 a9 a10 : _) : (State.traceRec s a2 a3 a4 a5 a6 a7 a8 a9 a10).pending = s.pending := by
  unfold State.traceRec
  split <;> simp

@[simp] theorem State.countN_pending (s : State) (a2 a3 a4 : _) : (State.countN s a2 a3 a4).pending = s.pending := by
  unfold State.countN
  split <;> simp

@[simp] theorem State.count_pending (s : State) (a2 a3 : _) : (State.count s a2 a3).pending = s.pending := by
  simp [State.count]

@[simp] theorem State.toHost_pending (s : State) (a2 : _) : (State.toHost s a2).pending = s.pending := by
  unfold State.toHost
  (repeat' split) <;> simp

@[simp] theorem State.hostReadIn_pending (s : State) (a2 a3 a4 a5 a6 : _) : (State.hostReadIn s a2 a3 a4 a5 a6).2.pending = s.pending := by
  simp [State.hostReadIn]

@[simp] theorem State.hostRead_pending (s : State) (a2 a3 a4 a5 : _) : (State.hostRead s a2 a3 a4 a5).2.pending = s.pending := by
  simp [State.hostRead]

@[simp] theorem State.issueRead_pending (s : State) (a2 : _) : (State.issueRead s a2).pending = s.pending := by
  simp [State.issueRead]

@[simp] theorem State.issueReads_pending (s : State) : (State.issueReads s).pending = s.pending := by
  simp [State.issueReads]

@[simp] theorem State.pumpFlush_pending (s : State) (a2 : _) : (State.pumpFlush s a2).pending = s.pending := by
  unfold State.pumpFlush
  (repeat' split) <;> simp

@[simp] theorem State.eventLine_pending (s : State) (a2 a3 a4 a5 a6 : _) : (State.eventLine s a2 a3 a4 a5 a6).pending = s.pending := by
  simp [State.eventLine]

@[simp] theorem State.raise_pending (s : State) (a2 a3 a4 a5 : _) : (State.raise s a2 a3 a4 a5).pending = s.pending := by
  simp [State.raise]

@[simp] theorem State.modLaunch_pending (s : State) (a2 a3 : _) : (State.modLaunch s a2 a3).pending = s.pending := by
  unfold State.modLaunch
  split <;> simp

@[simp] theorem State.kpSkip_pending (s : State) (a2 a3 a4 : _) : (State.kpSkip s a2 a3 a4).pending = s.pending := by
  simp [State.kpSkip]

@[simp] theorem State.cmdSkip_pending (s : State) (a2 a3 a4 a5 a6 a7 : _) : (State.cmdSkip s a2 a3 a4 a5 a6 a7).pending = s.pending := by
  simp [State.cmdSkip]

@[simp] theorem State.modDesc_pending (s : State) (a2 a3 a4 : _) : (State.modDesc s a2 a3 a4).pending = s.pending := by
  unfold State.modDesc
  split <;> simp

@[simp] theorem State.endDesc_pending (s : State) (a2 a3 a4 : _) : (State.endDesc s a2 a3 a4).pending = s.pending := by
  simp [State.endDesc]

@[simp] theorem State.flagDesc_pending (s : State) (a2 a3 a4 : _) : (State.flagDesc s a2 a3 a4).pending = s.pending := by
  simp [State.flagDesc]

@[simp] theorem State.issue_pending (s : State) (a2 a3 a4 a5 a6 a7 a8 : _) : (State.issue s a2 a3 a4 a5 a6 a7 a8).2.pending = s.pending := by
  simp [State.issue]

@[simp] theorem State.sendFrame_pending (s : State) (a2 a3 a4 : _) : (State.sendFrame s a2 a3 a4).pending = s.pending := by
  simp [State.sendFrame]

@[simp] theorem State.freeBuffer_pending (s : State) (a2 a3 : _) : (State.freeBuffer s a2 a3).pending = s.pending := by
  simp [State.freeBuffer]

@[simp] theorem State.pumpLink_pending (s : State) (a2 a3 : _) : (State.pumpLink s a2 a3).pending = s.pending := by
  induction a3 generalizing s with
  | zero => simp [State.pumpLink]
  | succ n ih =>
    unfold State.pumpLink
    dsimp only
    (repeat' split) <;> simp [ih]

@[simp] theorem State.transmit_pending (s : State) (a2 a3 : _) : (State.transmit s a2 a3).pending = s.pending := by
  simp [State.transmit]

@[simp] theorem State.route_pending (s : State) (a2 a3 a4 : _) : (State.route s a2 a3 a4).pending = s.pending := by
  simp [State.route] <;> (repeat' split) <;> simp

@[simp] theorem State.routeHeld_pending (s : State) : (State.routeHeld s).pending = s.pending := by
  simp [State.routeHeld]

@[simp] theorem State.respond_pending (s : State) (a2 a3 a4 a5 a6 : _) : (State.respond s a2 a3 a4 a5 a6).pending = s.pending := by
  simp [State.respond]

@[simp] theorem State.respondErr_pending (s : State) (a2 a3 : _) : (State.respondErr s a2 a3).pending = s.pending := by
  simp [State.respondErr]

@[simp] theorem State.reply_pending (s : State) (a2 a3 a4 a5 a6 a7 : _) : (State.reply s a2 a3 a4 a5 a6 a7).pending = s.pending := by
  simp [State.reply]

@[simp] theorem State.respondTor_pending (s : State) (a2 a3 a4 : _) : (State.respondTor s a2 a3 a4).pending = s.pending := by
  simp [State.respondTor]

@[simp] theorem State.request_pending (s : State) (a2 a3 a4 a5 a6 a7 a8 a9 a10 : _) : (State.request s a2 a3 a4 a5 a6 a7 a8 a9 a10).2.pending = s.pending := by
  simp [State.request]

@[simp] theorem State.sendTwin_pending (s : State) (a2 a3 a4 : _) : (State.sendTwin s a2 a3 a4).pending = s.pending := by
  simp [State.sendTwin]

@[simp] theorem State.sendTwinAll_pending (s : State) (a2 a3 : _) : (State.sendTwinAll s a2 a3).pending = s.pending := by
  simp [State.sendTwinAll]

@[simp] theorem State.sendTwinOne_pending (s : State) (a2 a3 : _) : (State.sendTwinOne s a2 a3).pending = s.pending := by
  unfold State.sendTwinOne
  split <;> simp

@[simp] theorem State.moduleFail_pending (s : State) : (State.moduleFail s).pending = s.pending := by
  simp [State.moduleFail]

@[simp] theorem State.noteWrite_pending (s : State) (a2 a3 a4 a5 a6 a7 : _) : (State.noteWrite s a2 a3 a4 a5 a6 a7).pending = s.pending := by
  simp [State.noteWrite]

@[simp] theorem State.countWrite_pending (s : State) (a2 : _) : (State.countWrite s a2).pending = s.pending := by
  simp [State.countWrite]

@[simp] theorem State.ignored_pending (s : State) : (State.ignored s).pending = s.pending := by
  simp [State.ignored]

@[simp] theorem bar0Write_pending (s : State) (fn : FnId) (o : Nat) (v : Word) (f : Nat → State) (h : ∀ l, (f l).pending = s.pending) : (stateOf s (bar0Write s fn o v f)).pending = s.pending := by
  simp only [bar0Write]
  split <;> [simp; (split <;> simp [h])]

@[simp] theorem State.wordWrite_pending (s : State) (a2 a3 a4 a5 a6 a7 a8 : _) : (State.wordWrite s a2 a3 a4 a5 a6 a7 a8).pending = s.pending := by
  simp [State.wordWrite]

@[simp] theorem State.refuseWrite_pending (s : State) (a2 a3 a4 : _) : (State.refuseWrite s a2 a3 a4).pending = s.pending := by
  simp [State.refuseWrite]

@[simp] theorem State.setErrors_pending (s : State) (a2 a3 : _) : (State.setErrors s a2 a3).pending = s.pending := by
  simp [State.setErrors]

@[simp] theorem State.acquire_pending (s : State) (a2 : _) : (State.acquire s a2).pending = s.pending := by
  simp [State.acquire]

@[simp] theorem State.freshLine_pending (s : State) : (State.freshLine s).2.pending = s.pending := by
  simp [State.freshLine]

@[simp] theorem State.peekLine_pending (s : State) (a2 : _) : (State.peekLine s a2).2.pending = s.pending := by
  simp [State.peekLine] <;> (repeat' split) <;> simp

@[simp] theorem State.spareBank_pending (s : State) (a2 a3 : _) : (State.spareBank s a2 a3).pending = s.pending := by
  simp [State.spareBank]

@[simp] theorem State.spareRow_pending (s : State) (a2 : _) : (State.spareRow s a2).pending = s.pending := by
  simp [State.spareRow]

@[simp] theorem State.rowError_pending (s : State) (a2 : _) : (State.rowError s a2).pending = s.pending := by
  simp [State.rowError]

@[simp] theorem State.readLine_pending (s : State) (a2 : _) : (State.readLine s a2).2.pending = s.pending := by
  simp [State.readLine] <;> (repeat' split) <;> simp

@[simp] theorem State.writeLine_pending (s : State) (a2 a3 : _) : (State.writeLine s a2 a3).pending = s.pending := by
  simp [State.writeLine]

@[simp] theorem State.copyLine_pending (s : State) (a2 : _) : (State.copyLine s a2).pending = s.pending := by
  simp [State.copyLine]

@[simp] theorem execSpareCopyDone_pending (s : State) (a1 : _) : (stateOf s (execSpareCopyDone a1 s)).pending = s.pending := by
  unfold execSpareCopyDone
  split <;> simp

@[simp] theorem State.refuseReq_pending (s : State) (a2 a3 a4 a5 : _) : (State.refuseReq s a2 a3 a4 a5).1.pending = s.pending := by
  simp [State.refuseReq]

@[simp] theorem State.arrive_pending (s : State) (a2 : _) : (State.arrive s a2).1.pending = s.pending := by
  simp [State.arrive] <;> (repeat' split) <;> simp

@[simp] theorem State.performReq_pending (s : State) (a2 a3 : _) : (State.performReq s a2 a3).1.pending = s.pending := by
  simp [State.performReq] <;> (repeat' split) <;> simp

@[simp] theorem State.serveAt_pending (s : State) (a2 a3 : _) : (State.serveAt s a2 a3).1.pending = s.pending := by
  unfold State.serveAt
  (repeat' split) <;> simp

@[simp] theorem execRefresh_pending (s : State) (a1 : _) : (stateOf s (execRefresh a1 s)).pending = s.pending := by
  simp [execRefresh]

@[simp] theorem execSelfRefreshEntry_pending (s : State) (a1 : _) : (stateOf s (execSelfRefreshEntry a1 s)).pending = s.pending := by
  simp [execSelfRefreshEntry]

@[simp] theorem State.moveLane_pending (s : State) (a2 a3 a4 : _) : (State.moveLane s a2 a3 a4).1.pending = s.pending := by
  simp [State.moveLane]

@[simp] theorem State.calibrate_pending (s : State) (a2 a3 : _) : (State.calibrate s a2 a3).pending = s.pending := by
  simp [State.calibrate]

@[simp] theorem execSelfRefreshExit_pending (s : State) (a1 a2 : _) : (stateOf s (execSelfRefreshExit a1 a2 s)).pending = s.pending := by
  simp [execSelfRefreshExit]

@[simp] theorem State.scrubOne_pending (s : State) (a2 a3 : _) : (State.scrubOne s a2 a3).pending = s.pending := by
  simp [State.scrubOne]

@[simp] theorem State.scrub_pending (s : State) (a2 : _) : (State.scrub s a2).pending = s.pending := by
  simp [State.scrub]

@[simp] theorem execTitheSlot_pending (s : State) (a1 a2 a3 : _) : (stateOf s (execTitheSlot a1 a2 a3 s)).pending = s.pending := by
  simp [execTitheSlot]

@[simp] theorem State.enableChan_pending (s : State) (a2 : _) : (State.enableChan s a2).pending = s.pending := by
  simp [State.enableChan]

@[simp] theorem execChCtlWrite_pending (s : State) (a1 a2 a3 a4 : _) : (stateOf s (execChCtlWrite a1 a2 a3 a4 s)).pending = s.pending := by
  simp [execChCtlWrite]

@[simp] theorem execElogPtrWrite_pending (s : State) (a1 a2 a3 a4 : _) : (stateOf s (execElogPtrWrite a1 a2 a3 a4 s)).pending = s.pending := by
  simp [execElogPtrWrite]

@[simp] theorem State.logEntry_pending (s : State) (a2 a3 a4 a5 a6 a7 a8 : _) : (State.logEntry s a2 a3 a4 a5 a6 a7 a8).pending = s.pending := by
  simp [State.logEntry]

@[simp] theorem State.logXlate_pending (s : State) (a2 a3 a4 a5 a6 a7 a8 a9 : _) : (State.logXlate s a2 a3 a4 a5 a6 a7 a8 a9).pending = s.pending := by
  simp [State.logXlate]

@[simp] theorem State.access_pending (s : State) (a2 a3 a4 a5 a6 a7 : _) : (State.access s a2 a3 a4 a5 a6 a7).2.pending = s.pending := by
  unfold State.access
  (repeat' split) <;> simp

theorem State.takeResp_pending (s : State) (a2 : _) (x t : _) (h : State.takeResp s a2 = some (x, t)) : t.pending = s.pending := by
  unfold State.takeResp at h
  cases hf : s.responses.find? (fun r => r.req.id == a2) with
  | none => simp [hf] at h
  | some r => simp [hf] at h; obtain ⟨_, rfl⟩ := h; rfl

@[simp] theorem scalarOp_pending (s : State) (c : CoreId) (f : Core → Core)  : (stateOf s (scalarOp s c f)).pending = s.pending := by
  simp [scalarOp]

@[simp] theorem branchOp_pending (s : State) (c : CoreId) (imm : BitVec 32) (f : Core → Core) (taken : Core → Bool)  : (stateOf s (branchOp s c imm f taken)).pending = s.pending := by
  simp [branchOp]

@[simp] theorem execNop_pending (s : State) (a1 : _) : (stateOf s (execNop a1 s)).pending = s.pending := by
  simp [execNop]

@[simp] theorem execEndProg_pending (s : State) (a1 : _) : (stateOf s (execEndProg a1 s)).pending = s.pending := by
  simp [execEndProg]

@[simp] theorem execLi_pending (s : State) (a1 a2 a3 : _) : (stateOf s (execLi a1 a2 a3 s)).pending = s.pending := by
  simp [execLi]

@[simp] theorem execLui_pending (s : State) (a1 a2 a3 : _) : (stateOf s (execLui a1 a2 a3 s)).pending = s.pending := by
  simp [execLui]

@[simp] theorem execMov_pending (s : State) (a1 a2 a3 : _) : (stateOf s (execMov a1 a2 a3 s)).pending = s.pending := by
  simp [execMov]

@[simp] theorem execTime_pending (s : State) (a1 a2 : _) : (stateOf s (execTime a1 a2 s)).pending = s.pending := by
  simp [execTime]

@[simp] theorem binOp_pending (s : State) (c : CoreId) (rd ra rb : SReg) (f : Word → Word → Word)  : (stateOf s (binOp s c rd ra rb f)).pending = s.pending := by
  simp [binOp]

@[simp] theorem immOp_pending (s : State) (c : CoreId) (rd ra : SReg) (imm : BitVec 32) (f : Word → Word → Word)  : (stateOf s (immOp s c rd ra imm f)).pending = s.pending := by
  simp [immOp]

@[simp] theorem execAdd_pending (s : State) (a1 a2 a3 a4 : _) : (stateOf s (execAdd a1 a2 a3 a4 s)).pending = s.pending := by
  simp [execAdd]

@[simp] theorem execSub_pending (s : State) (a1 a2 a3 a4 : _) : (stateOf s (execSub a1 a2 a3 a4 s)).pending = s.pending := by
  simp [execSub]

@[simp] theorem execAnd_pending (s : State) (a1 a2 a3 a4 : _) : (stateOf s (execAnd a1 a2 a3 a4 s)).pending = s.pending := by
  simp [execAnd]

@[simp] theorem execOr_pending (s : State) (a1 a2 a3 a4 : _) : (stateOf s (execOr a1 a2 a3 a4 s)).pending = s.pending := by
  simp [execOr]

@[simp] theorem execXor_pending (s : State) (a1 a2 a3 a4 : _) : (stateOf s (execXor a1 a2 a3 a4 s)).pending = s.pending := by
  simp [execXor]

@[simp] theorem execShl_pending (s : State) (a1 a2 a3 a4 : _) : (stateOf s (execShl a1 a2 a3 a4 s)).pending = s.pending := by
  simp [execShl]

@[simp] theorem execShr_pending (s : State) (a1 a2 a3 a4 : _) : (stateOf s (execShr a1 a2 a3 a4 s)).pending = s.pending := by
  simp [execShr]

@[simp] theorem execSra_pending (s : State) (a1 a2 a3 a4 : _) : (stateOf s (execSra a1 a2 a3 a4 s)).pending = s.pending := by
  simp [execSra]

@[simp] theorem execAddi_pending (s : State) (a1 a2 a3 a4 : _) : (stateOf s (execAddi a1 a2 a3 a4 s)).pending = s.pending := by
  simp [execAddi]

@[simp] theorem execShli_pending (s : State) (a1 a2 a3 a4 : _) : (stateOf s (execShli a1 a2 a3 a4 s)).pending = s.pending := by
  simp [execShli]

@[simp] theorem execShri_pending (s : State) (a1 a2 a3 a4 : _) : (stateOf s (execShri a1 a2 a3 a4 s)).pending = s.pending := by
  simp [execShri]

@[simp] theorem execSrai_pending (s : State) (a1 a2 a3 a4 : _) : (stateOf s (execSrai a1 a2 a3 a4 s)).pending = s.pending := by
  simp [execSrai]

@[simp] theorem execAndi_pending (s : State) (a1 a2 a3 a4 : _) : (stateOf s (execAndi a1 a2 a3 a4 s)).pending = s.pending := by
  simp [execAndi]

@[simp] theorem execOri_pending (s : State) (a1 a2 a3 a4 : _) : (stateOf s (execOri a1 a2 a3 a4 s)).pending = s.pending := by
  simp [execOri]

@[simp] theorem execMul_pending (s : State) (a1 a2 a3 a4 : _) : (stateOf s (execMul a1 a2 a3 a4 s)).pending = s.pending := by
  simp [execMul]

@[simp] theorem execMulhu_pending (s : State) (a1 a2 a3 a4 : _) : (stateOf s (execMulhu a1 a2 a3 a4 s)).pending = s.pending := by
  simp [execMulhu]

@[simp] theorem cmpOp_pending (s : State) (c : CoreId) (n : CmpReg) (ra rb : SReg) (f : Word → Word → Bool)  : (stateOf s (cmpOp s c n ra rb f)).pending = s.pending := by
  simp [cmpOp]

@[simp] theorem execCmpEq_pending (s : State) (a1 a2 a3 a4 : _) : (stateOf s (execCmpEq a1 a2 a3 a4 s)).pending = s.pending := by
  simp [execCmpEq]

@[simp] theorem execCmpNe_pending (s : State) (a1 a2 a3 a4 : _) : (stateOf s (execCmpNe a1 a2 a3 a4 s)).pending = s.pending := by
  simp [execCmpNe]

@[simp] theorem execCmpLt_pending (s : State) (a1 a2 a3 a4 : _) : (stateOf s (execCmpLt a1 a2 a3 a4 s)).pending = s.pending := by
  simp [execCmpLt]

@[simp] theorem execCmpLtu_pending (s : State) (a1 a2 a3 a4 : _) : (stateOf s (execCmpLtu a1 a2 a3 a4 s)).pending = s.pending := by
  simp [execCmpLtu]

@[simp] theorem execCmpGe_pending (s : State) (a1 a2 a3 a4 : _) : (stateOf s (execCmpGe a1 a2 a3 a4 s)).pending = s.pending := by
  simp [execCmpGe]

@[simp] theorem execCmpGeu_pending (s : State) (a1 a2 a3 a4 : _) : (stateOf s (execCmpGeu a1 a2 a3 a4 s)).pending = s.pending := by
  simp [execCmpGeu]

@[simp] theorem execBr_pending (s : State) (a1 a2 : _) : (stateOf s (execBr a1 a2 s)).pending = s.pending := by
  simp [execBr]

@[simp] theorem execBc_pending (s : State) (a1 a2 a3 : _) : (stateOf s (execBc a1 a2 a3 s)).pending = s.pending := by
  simp [execBc]

@[simp] theorem execBnc_pending (s : State) (a1 a2 a3 : _) : (stateOf s (execBnc a1 a2 a3 s)).pending = s.pending := by
  simp [execBnc]

@[simp] theorem execLcbr_pending (s : State) (a1 a2 a3 : _) : (stateOf s (execLcbr a1 a2 a3 s)).pending = s.pending := by
  simp [execLcbr]

@[simp] theorem execLcset_pending (s : State) (a1 a2 a3 : _) : (stateOf s (execLcset a1 a2 a3 s)).pending = s.pending := by
  simp [execLcset]

@[simp] theorem execLcseti_pending (s : State) (a1 a2 a3 : _) : (stateOf s (execLcseti a1 a2 a3 s)).pending = s.pending := by
  simp [execLcseti]

@[simp] theorem execLcmov_pending (s : State) (a1 a2 a3 : _) : (stateOf s (execLcmov a1 a2 a3 s)).pending = s.pending := by
  simp [execLcmov]

@[simp] theorem benchOp_pending (s : State) (c : CoreId) (ra : SReg) (imm : BitVec 32) (f : Nat → Core → Core)  : (stateOf s (benchOp s c ra imm f)).pending = s.pending := by
  simp only [benchOp]
  split <;> simp

@[simp] theorem execLd_pending (s : State) (a1 a2 a3 a4 : _) : (stateOf s (execLd a1 a2 a3 a4 s)).pending = s.pending := by
  simp [execLd]

@[simp] theorem execSt_pending (s : State) (a1 a2 a3 a4 : _) : (stateOf s (execSt a1 a2 a3 a4 s)).pending = s.pending := by
  simp [execSt]

@[simp] theorem execFlagsRd_pending (s : State) (a1 a2 a3 : _) : (stateOf s (execFlagsRd a1 a2 a3 s)).pending = s.pending := by
  simp [execFlagsRd]

@[simp] theorem execFlagsClr_pending (s : State) (a1 a2 : _) : (stateOf s (execFlagsClr a1 a2 s)).pending = s.pending := by
  simp [execFlagsClr]

@[simp] theorem execRotaSet_pending (s : State) (a1 a2 a3 a4 : _) : (stateOf s (execRotaSet a1 a2 a3 a4 s)).pending = s.pending := by
  simp [execRotaSet]

@[simp] theorem execNativeSkip_pending (s : State) (a1 a2 : _) : (stateOf s (execNativeSkip a1 a2 s)).pending = s.pending := by
  simp [execNativeSkip]

@[simp] theorem execEndOfCode_pending (s : State) (a1 : _) : (stateOf s (execEndOfCode a1 s)).pending = s.pending := by
  simp [execEndOfCode]

@[simp] theorem State.touched_pending (s : State) (a2 : _) : (State.touched s a2).pending = s.pending := by
  unfold State.touched
  split <;> simp

@[simp] theorem State.syncFault_pending (s : State) (a2 a3 a4 a5 : _) : (State.syncFault s a2 a3 a4 a5).pending = s.pending := by
  unfold State.syncFault
  split <;> simp

@[simp] theorem State.modEng_pending (s : State) (a2 a3 a4 : _) : (State.modEng s a2 a3 a4).pending = s.pending := by
  simp [State.modEng]

@[simp] theorem State.release_pending (s : State) (a2 a3 : _) : (State.release s a2 a3).pending = s.pending := by
  unfold State.release
  split <;> simp

@[simp] theorem State.releaseAll_pending (s : State) (a2 a3 : _) : (State.releaseAll s a2 a3).pending = s.pending := by
  simp [State.releaseAll]

@[simp] theorem State.servePeg_pending (s : State) (a2 : _) : (State.servePeg s a2).pending = s.pending := by
  simp [State.servePeg]

@[simp] theorem State.pegTake_pending (s : State) (a2 a3 a4 : _) : (State.pegTake s a2 a3 a4).pending = s.pending := by
  simp [State.pegTake]

@[simp] theorem State.pegPost_pending (s : State) (a2 a3 a4 : _) : (State.pegPost s a2 a3 a4).pending = s.pending := by
  simp [State.pegPost]

@[simp] theorem State.pegDec_pending (s : State) (a2 a3 a4 : _) : (State.pegDec s a2 a3 a4).pending = s.pending := by
  simp [State.pegDec]

@[simp] theorem State.serveTally_pending (s : State) (a2 : _) : (State.serveTally s a2).pending = s.pending := by
  simp [State.serveTally]

@[simp] theorem State.serveTallies_pending (s : State) : (State.serveTallies s).pending = s.pending := by
  simp [State.serveTallies]

@[simp] theorem State.tallyAwait_pending (s : State) (a2 a3 : _) : (State.tallyAwait s a2 a3).pending = s.pending := by
  simp [State.tallyAwait]

@[simp] theorem State.tallyAdv_pending (s : State) (a2 a3 a4 : _) : (State.tallyAdv s a2 a3 a4).pending = s.pending := by
  simp [State.tallyAdv]

@[simp] theorem State.bellRelease_pending (s : State) (a2 : _) : (State.bellRelease s a2).pending = s.pending := by
  simp [State.bellRelease]

@[simp] theorem State.bellArrive_pending (s : State) (a2 a3 a4 a5 : _) : (State.bellArrive s a2 a3 a4 a5).pending = s.pending := by
  simp [State.bellArrive]

@[simp] theorem State.startWait_pending (s : State) (a2 a3 : _) : (State.startWait s a2 a3).pending = s.pending := by
  simp [State.startWait]

@[simp] theorem State.dropRequest_pending (s : State) (a2 a3 : _) : (State.dropRequest s a2 a3).pending = s.pending := by
  unfold State.dropRequest
  split <;> simp

@[simp] theorem State.giveUp_pending (s : State) (a2 a3 : _) : (State.giveUp s a2 a3).pending = s.pending := by
  simp [State.giveUp]

@[simp] theorem State.stepWait_pending (s : State) (a2 : _) : (State.stepWait s a2).pending = s.pending := by
  simp [State.stepWait] <;> (repeat' split) <;> simp

@[simp] theorem State.syncSkip_pending (s : State) (a2 : _) : (State.syncSkip s a2).pending = s.pending := by
  simp [State.syncSkip]

@[simp] theorem syncOp_pending (s : State) (c : CoreId) (f : PartId → Core → State) (h : ∀ p k, (f p k).pending = s.pending) : (stateOf s (syncOp s c f)).pending = s.pending := by
  simp only [syncOp]
  split <;> simp [h]

@[simp] theorem State.remoteWait_pending (s : State) (a2 a3 a4 a5 a6 a7 a8 : _) : (State.remoteWait s a2 a3 a4 a5 a6 a7 a8).pending = s.pending := by
  simp [State.remoteWait]

@[simp] theorem execPegTake_pending (s : State) (a1 a2 a3 a4 a5 : _) : (stateOf s (execPegTake a1 a2 a3 a4 a5 s)).pending = s.pending := by
  refine syncOp_pending s _ _ ?_
  intro p k
  try dsimp only
  (repeat' split) <;> simp

@[simp] theorem execPegDec_pending (s : State) (a1 a2 a3 a4 a5 : _) : (stateOf s (execPegDec a1 a2 a3 a4 a5 s)).pending = s.pending := by
  refine syncOp_pending s _ _ ?_
  intro p k
  try dsimp only
  (repeat' split) <;> simp

@[simp] theorem execPegPost_pending (s : State) (a1 a2 a3 a4 a5 : _) : (stateOf s (execPegPost a1 a2 a3 a4 a5 s)).pending = s.pending := by
  refine syncOp_pending s _ _ ?_
  intro p k
  try dsimp only
  (repeat' split) <;> simp

@[simp] theorem execPegRead_pending (s : State) (a1 a2 a3 : _) : (stateOf s (execPegRead a1 a2 a3 s)).pending = s.pending := by
  refine syncOp_pending s _ _ ?_
  intro p k
  try dsimp only
  (repeat' split) <;> simp

@[simp] theorem execTallyAdv_pending (s : State) (a1 a2 a3 : _) : (stateOf s (execTallyAdv a1 a2 a3 s)).pending = s.pending := by
  refine syncOp_pending s _ _ ?_
  intro p k
  try dsimp only
  (repeat' split) <;> simp

@[simp] theorem execTallyWait_pending (s : State) (a1 a2 a3 : _) : (stateOf s (execTallyWait a1 a2 a3 s)).pending = s.pending := by
  refine syncOp_pending s _ _ ?_
  intro p k
  try dsimp only
  (repeat' split) <;> simp

@[simp] theorem execTallyRoom_pending (s : State) (a1 a2 : _) : (stateOf s (execTallyRoom a1 a2 s)).pending = s.pending := by
  refine syncOp_pending s _ _ ?_
  intro p k
  try dsimp only
  (repeat' split) <;> simp

@[simp] theorem execTallyRead_pending (s : State) (a1 a2 a3 : _) : (stateOf s (execTallyRead a1 a2 a3 s)).pending = s.pending := by
  refine syncOp_pending s _ _ ?_
  intro p k
  try dsimp only
  (repeat' split) <;> simp

@[simp] theorem State.bellAgain_pending (s : State) (a2 a3 a4 a5 : _) : (State.bellAgain s a2 a3 a4 a5).pending = s.pending := by
  simp [State.bellAgain]

@[simp] theorem execBellArrive_pending (s : State) (a1 a2 a3 a4 a5 : _) : (stateOf s (execBellArrive a1 a2 a3 a4 a5 s)).pending = s.pending := by
  refine syncOp_pending s _ _ ?_
  intro p k
  try dsimp only
  (repeat' split) <;> simp

@[simp] theorem State.logOperands_pending (s : State) (a2 a3 a4 : _) : (State.logOperands s a2 a3 a4).pending = s.pending := by
  simp [State.logOperands]

@[simp] theorem State.enqueue_pending (s : State) (a2 a3 : _) : (State.enqueue s a2 a3).pending = s.pending := by
  simp [State.enqueue]

@[simp] theorem pushOp_pending (s : State) (a2 a3 a4 a5 : _) : (stateOf s (pushOp s a2 a3 a4 a5)).pending = s.pending := by
  simp [pushOp]

@[simp] theorem execBeamMm_pending (s : State) (a1 a2 a3 : _) : (stateOf s (execBeamMm a1 a2 a3 s)).pending = s.pending := by
  simp [execBeamMm]

@[simp] theorem execBeamLoad_pending (s : State) (a1 a2 a3 : _) : (stateOf s (execBeamLoad a1 a2 a3 s)).pending = s.pending := by
  simp [execBeamLoad]

@[simp] theorem execBeamAcc_pending (s : State) (a1 a2 a3 : _) : (stateOf s (execBeamAcc a1 a2 a3 s)).pending = s.pending := by
  simp [execBeamAcc]

@[simp] theorem execPlaneAdd_pending (s : State) (a1 a2 a3 : _) : (stateOf s (execPlaneAdd a1 a2 a3 s)).pending = s.pending := by
  simp [execPlaneAdd]

@[simp] theorem execPlaneSub_pending (s : State) (a1 a2 a3 : _) : (stateOf s (execPlaneSub a1 a2 a3 s)).pending = s.pending := by
  simp [execPlaneSub]

@[simp] theorem execPlaneMul_pending (s : State) (a1 a2 a3 : _) : (stateOf s (execPlaneMul a1 a2 a3 s)).pending = s.pending := by
  simp [execPlaneMul]

@[simp] theorem execPlaneFma_pending (s : State) (a1 a2 a3 : _) : (stateOf s (execPlaneFma a1 a2 a3 s)).pending = s.pending := by
  simp [execPlaneFma]

@[simp] theorem execPlaneMax_pending (s : State) (a1 a2 a3 : _) : (stateOf s (execPlaneMax a1 a2 a3 s)).pending = s.pending := by
  simp [execPlaneMax]

@[simp] theorem execPlaneMin_pending (s : State) (a1 a2 a3 : _) : (stateOf s (execPlaneMin a1 a2 a3 s)).pending = s.pending := by
  simp [execPlaneMin]

@[simp] theorem execPlaneAbs_pending (s : State) (a1 a2 a3 : _) : (stateOf s (execPlaneAbs a1 a2 a3 s)).pending = s.pending := by
  simp [execPlaneAbs]

@[simp] theorem execPlaneNeg_pending (s : State) (a1 a2 a3 : _) : (stateOf s (execPlaneNeg a1 a2 a3 s)).pending = s.pending := by
  simp [execPlaneNeg]

@[simp] theorem execPlaneCvt_pending (s : State) (a1 a2 a3 : _) : (stateOf s (execPlaneCvt a1 a2 a3 s)).pending = s.pending := by
  simp [execPlaneCvt]

@[simp] theorem execPlaneExp_pending (s : State) (a1 a2 a3 : _) : (stateOf s (execPlaneExp a1 a2 a3 s)).pending = s.pending := by
  simp [execPlaneExp]

@[simp] theorem execPlaneLog_pending (s : State) (a1 a2 a3 : _) : (stateOf s (execPlaneLog a1 a2 a3 s)).pending = s.pending := by
  simp [execPlaneLog]

@[simp] theorem execPlaneRecip_pending (s : State) (a1 a2 a3 : _) : (stateOf s (execPlaneRecip a1 a2 a3 s)).pending = s.pending := by
  simp [execPlaneRecip]

@[simp] theorem execPlaneRsqrt_pending (s : State) (a1 a2 a3 : _) : (stateOf s (execPlaneRsqrt a1 a2 a3 s)).pending = s.pending := by
  simp [execPlaneRsqrt]

@[simp] theorem execPlaneTanh_pending (s : State) (a1 a2 a3 : _) : (stateOf s (execPlaneTanh a1 a2 a3 s)).pending = s.pending := by
  simp [execPlaneTanh]

@[simp] theorem execPlaneSigmoid_pending (s : State) (a1 a2 a3 : _) : (stateOf s (execPlaneSigmoid a1 a2 a3 s)).pending = s.pending := by
  simp [execPlaneSigmoid]

@[simp] theorem execPlaneRsum_pending (s : State) (a1 a2 a3 : _) : (stateOf s (execPlaneRsum a1 a2 a3 s)).pending = s.pending := by
  simp [execPlaneRsum]

@[simp] theorem execPlaneRmax_pending (s : State) (a1 a2 a3 : _) : (stateOf s (execPlaneRmax a1 a2 a3 s)).pending = s.pending := by
  simp [execPlaneRmax]

@[simp] theorem execPlaneOsm_pending (s : State) (a1 a2 a3 : _) : (stateOf s (execPlaneOsm a1 a2 a3 s)).pending = s.pending := by
  simp [execPlaneOsm]

@[simp] theorem execPlaneLsemerge_pending (s : State) (a1 a2 a3 : _) : (stateOf s (execPlaneLsemerge a1 a2 a3 s)).pending = s.pending := by
  simp [execPlaneLsemerge]

@[simp] theorem execCartCopy_pending (s : State) (a1 a2 a3 : _) : (stateOf s (execCartCopy a1 a2 a3 s)).pending = s.pending := by
  simp [execCartCopy]

@[simp] theorem execCartGather_pending (s : State) (a1 a2 a3 : _) : (stateOf s (execCartGather a1 a2 a3 s)).pending = s.pending := by
  simp [execCartGather]

@[simp] theorem execCartScatter_pending (s : State) (a1 a2 a3 : _) : (stateOf s (execCartScatter a1 a2 a3 s)).pending = s.pending := by
  simp [execCartScatter]

@[simp] theorem execGrindJob_pending (s : State) (a1 a2 a3 : _) : (stateOf s (execGrindJob a1 a2 a3 s)).pending = s.pending := by
  simp [execGrindJob]

@[simp] theorem execPushAfterStall_pending (s : State) (a1 : _) : (stateOf s (execPushAfterStall a1 s)).pending = s.pending := by
  unfold execPushAfterStall
  split <;> simp

@[simp] theorem State.cartEarly_pending (s : State) (a2 a3 a4 : _) : (State.cartEarly s a2 a3 a4).pending = s.pending := by
  simp [State.cartEarly]

@[simp] theorem State.cartXlateFail_pending (s : State) (a2 a3 a4 a5 a6 : _) : (State.cartXlateFail s a2 a3 a4 a5 a6).pending = s.pending := by
  simp [State.cartXlateFail]

@[simp] theorem State.cartWalkRead_pending (s : State) (a2 a3 a4 a5 : _) : (State.cartWalkRead s a2 a3 a4 a5).pending = s.pending := by
  simp [State.cartWalkRead]

@[simp] theorem State.cartStore_pending (s : State) (a2 a3 a4 a5 : _) : (State.cartStore s a2 a3 a4 a5).pending = s.pending := by
  simp [State.cartStore] <;> (repeat' split) <;> simp

@[simp] theorem State.cartDrain_pending (s : State) (a2 a3 a4 : _) : (State.cartDrain s a2 a3 a4).pending = s.pending := by
  induction a4 generalizing s with
  | zero => simp [State.cartDrain]
  | succ n ih =>
    unfold State.cartDrain
    (repeat' split) <;> simp [ih]

@[simp] theorem State.cartIssue_pending (s : State) (a2 a3 a4 a5 a6 : _) : (State.cartIssue s a2 a3 a4 a5 a6).pending = s.pending := by
  simp [State.cartIssue] <;> (repeat' split) <;> simp

@[simp] theorem State.cartSteps_pending (s : State) (a2 a3 a4 a5 a6 : _) : (State.cartSteps s a2 a3 a4 a5 a6).pending = s.pending := by
  induction a6 generalizing s with
  | zero => simp [State.cartSteps]
  | succ n ih =>
    unfold State.cartSteps
    dsimp only
    (repeat' split) <;> simp [ih] <;> (repeat' split) <;> simp

@[simp] theorem State.cartPump_pending (s : State) (a2 a3 : _) : (State.cartPump s a2 a3).pending = s.pending := by
  unfold State.cartPump
  split <;> simp

@[simp] theorem State.cartWrap_pending (s : State) (a2 a3 : _) : (State.cartWrap s a2 a3).pending = s.pending := by
  simp [State.cartWrap]

@[simp] theorem execCartReadData_pending (s : State) (a1 a2 : _) : (stateOf s (execCartReadData a1 a2 s)).pending = s.pending := by
  unfold execCartReadData
  split
  · rfl
  · split
    · rfl
    · rename_i h
      have := State.takeResp_pending _ _ _ _ h
      dsimp only [stateOf_whenever]
      (repeat' split) <;> simp [this]

@[simp] theorem execCartWriteAck_pending (s : State) (a1 a2 : _) : (stateOf s (execCartWriteAck a1 a2 s)).pending = s.pending := by
  unfold execCartWriteAck
  split
  · rfl
  · split
    · rfl
    · rename_i h
      have := State.takeResp_pending _ _ _ _ h
      dsimp only [stateOf_whenever]
      (repeat' split) <;> simp [this]

@[simp] theorem State.cartWalkData_pending (s : State) (a2 a3 a4 a5 a6 : _) : (State.cartWalkData s a2 a3 a4 a5 a6).pending = s.pending := by
  unfold State.cartWalkData
  (repeat' split) <;> simp

@[simp] theorem State.cartWalkBack_pending (s : State) (a2 a3 : _) : (State.cartWalkBack s a2 a3).pending = s.pending := by
  unfold State.cartWalkBack
  (repeat' split) <;> first | rfl | (rename_i h; simp [State.takeResp_pending _ _ _ _ h])

@[simp] theorem State.cartRewalk_pending (s : State) (a2 a3 : _) : (State.cartRewalk s a2 a3).pending = s.pending := by
  unfold State.cartRewalk
  (repeat' split) <;> simp

@[simp] theorem State.traceCmd_pending (s : State) (a2 a3 a4 a5 a6 a7 : _) : (State.traceCmd s a2 a3 a4 a5 a6 a7).pending = s.pending := by
  simp [State.traceCmd]

@[simp] theorem State.post_pending (s : State) (a2 a3 a4 : _) : (State.post s a2 a3 a4).pending = s.pending := by
  unfold State.post
  (repeat' split) <;> simp

@[simp] theorem State.popQueue_pending (s : State) (a2 a3 : _) : (State.popQueue s a2 a3).pending = s.pending := by
  simp [State.popQueue]

@[simp] theorem State.atHead_pending (s : State) (a2 a3 a4 : _) : (State.atHead s a2 a3 a4).pending = s.pending := by
  unfold State.atHead
  (repeat' split) <;> simp

@[simp] theorem execCommandAtHead_pending (s : State) (a1 a2 : _) : (stateOf s (execCommandAtHead a1 a2 s)).pending = s.pending := by
  simp [execCommandAtHead] <;> (repeat' split) <;> simp

@[simp] theorem State.skipHead_pending (s : State) (a2 a3 a4 a5 a6 : _) : (State.skipHead s a2 a3 a4 a5 a6).pending = s.pending := by
  simp [State.skipHead]

@[simp] theorem State.startCmd_pending (s : State) (a2 a3 a4 : _) : (State.startCmd s a2 a3 a4).pending = s.pending := by
  unfold State.startCmd
  split <;> simp

@[simp] theorem execCommandStart_pending (s : State) (a1 a2 : _) : (stateOf s (execCommandStart a1 a2 s)).pending = s.pending := by
  simp [execCommandStart] <;> (repeat' split) <;> simp

@[simp] theorem State.endCmd_pending (s : State) (a2 a3 a4 a5 : _) : (State.endCmd s a2 a3 a4 a5).pending = s.pending := by
  unfold State.endCmd
  split <;> simp

@[simp] theorem State.workDone_pending (s : State) (a2 a3 : _) : (State.workDone s a2 a3).pending = s.pending := by
  simp [State.workDone]

@[simp] theorem State.finishWork_pending (s : State) (a2 a3 a4 : _) : (State.finishWork s a2 a3 a4).pending = s.pending := by
  simp [State.finishWork] <;> (repeat' split) <;> simp

@[simp] theorem State.engineCycle_pending (s : State) (a2 a3 : _) : (State.engineCycle s a2 a3).pending = s.pending := by
  simp [State.engineCycle] <;> (repeat' split) <;> simp

@[simp] theorem State.engineTick_pending (s : State) : (State.engineTick s).pending = s.pending := by
  unfold State.engineTick
  refine pending_foldl _ ?_ _ _
  intro s a
  split
  · exact pending_foldl _ (by intros; simp) _ _
  · rfl

@[simp] theorem execCommandFinish_pending (s : State) (a1 a2 : _) : (stateOf s (execCommandFinish a1 a2 s)).pending = s.pending := by
  simp [execCommandFinish] <;> (repeat' split) <;> simp

@[simp] theorem State.markStopped_pending (s : State) (a2 a3 : _) : (State.markStopped s a2 a3).pending = s.pending := by
  simp [State.markStopped]

@[simp] theorem State.stopAfter_pending (s : State) (a2 a3 a4 a5 : _) : (State.stopAfter s a2 a3 a4 a5).pending = s.pending := by
  simp [State.stopAfter] <;> (repeat' split) <;> simp

@[simp] theorem State.resumeBeam_pending (s : State) (a2 : _) : (State.resumeBeam s a2).pending = s.pending := by
  simp [State.resumeBeam] <;> (repeat' split) <;> simp

@[simp] theorem execEngineResume_pending (s : State) (a1 a2 : _) : (stateOf s (execEngineResume a1 a2 s)).pending = s.pending := by
  unfold execEngineResume
  split <;> simp

@[simp] theorem State.mapCores_pending (s : State) (a2 : _) : (State.mapCores s a2).pending = s.pending := by
  simp [State.mapCores]

@[simp] theorem State.wrapCarts_pending (s : State) : (State.wrapCarts s).pending = s.pending := by
  unfold State.wrapCarts
  refine pending_foldl _ ?_ _ _
  intro s a
  split <;> simp

@[simp] theorem execCalendarWrap_pending (s : State) : (stateOf s (execCalendarWrap s)).pending = s.pending := by
  simp [execCalendarWrap]

@[simp] theorem execDutyWrap_pending (s : State) : (stateOf s (execDutyWrap s)).pending = s.pending := by
  simp [execDutyWrap]

@[simp] theorem State.modG_pending (s : State) (a2 a3 : _) : (State.modG s a2 a3).pending = s.pending := by
  simp [State.modG]

@[simp] theorem State.logOwn_pending (s : State) (a2 a3 a4 a5 a6 : _) : (State.logOwn s a2 a3 a4 a5 a6).pending = s.pending := by
  simp [State.logOwn]

@[simp] theorem State.viol_pending (s : State) (a2 : _) : (State.viol s a2).pending = s.pending := by
  simp [State.viol]

@[simp] theorem State.inModes_pending (s : State) (g : GranChan) (ms : List GMode) (t : State) (h : t.pending = s.pending) :
    (s.inModes g ms t).pending = s.pending := by
  simp [State.inModes, h]

@[simp] theorem State.toProcessor_pending (s : State) (a2 : _) : (State.toProcessor s a2).pending = s.pending := by
  simp [State.toProcessor]

@[simp] theorem State.toMemory_pending (s : State) (a2 : _) : (State.toMemory s a2).pending = s.pending := by
  simp [State.toMemory]

@[simp] theorem execMrwGmode_pending (s : State) (a1 a2 : _) : (stateOf s (execMrwGmode a1 a2 s)).pending = s.pending := by
  simp [execMrwGmode]

@[simp] theorem execMrwGqmask_pending (s : State) (a1 a2 : _) : (stateOf s (execMrwGqmask a1 a2 s)).pending = s.pending := by
  simp [execMrwGqmask]

@[simp] theorem execMrwGstat_pending (s : State) (a1 a2 : _) : (stateOf s (execMrwGstat a1 a2 s)).pending = s.pending := by
  simp [execMrwGstat]

@[simp] theorem State.toController_pending (s : State) (a2 a3 : _) : (State.toController s a2 a3).pending = s.pending := by
  simp [State.toController]

@[simp] theorem execMrr_pending (s : State) (a1 a2 : _) : (stateOf s (execMrr a1 a2 s)).pending = s.pending := by
  simp [execMrr]

@[simp] theorem execPld_pending (s : State) (a1 a2 a3 : _) : (stateOf s (execPld a1 a2 a3 s)).pending = s.pending := by
  simp [execPld]

@[simp] theorem State.loadStore_pending (s : State) (a2 : _) : (State.loadStore s a2).pending = s.pending := by
  simp [State.loadStore]

@[simp] theorem State.requestLoad_pending (s : State) (a2 : _) : (State.requestLoad s a2).pending = s.pending := by
  simp [State.requestLoad]

@[simp] theorem execQprogLoad_pending (s : State) (a1 a2 : _) : (stateOf s (execQprogLoad a1 a2 s)).pending = s.pending := by
  unfold execQprogLoad
  split <;> simp

@[simp] theorem State.readGstat_pending (s : State) (a2 : _) : (State.readGstat s a2).pending = s.pending := by
  simp [State.readGstat]

@[simp] theorem State.switchDone_pending (s : State) (a2 : _) : (State.switchDone s a2).pending = s.pending := by
  unfold State.switchDone
  split <;> simp

@[simp] theorem execModeSwitchDone_pending (s : State) (a1 : _) : (stateOf s (execModeSwitchDone a1 s)).pending = s.pending := by
  simp [execModeSwitchDone]

@[simp] theorem execQwr_pending (s : State) (a1 a2 a3 a4 a5 a6 : _) : (stateOf s (execQwr a1 a2 a3 a4 a5 a6 s)).pending = s.pending := by
  simp only [execQwr, stateOf_checked, stateOf_whenever]
  split
  · split
    · refine State.inModes_pending _ _ _ _ ((apply_ite _ _ _ _).trans ?_)
      rw [State.viol_pending, pending_foldl _ (by intros; simp), ite_self]
    · rfl
  · rfl

@[simp] theorem State.qgo_pending (s : State) (a2 a3 : _) : (State.qgo s a2 a3).pending = s.pending := by
  unfold State.qgo
  dsimp only
  rw [pending_foldl _ (by intro s a; split <;> simp)]
  simp

@[simp] theorem execQgo_pending (s : State) (a1 a2 : _) : (stateOf s (execQgo a1 a2 s)).pending = s.pending := by
  simp [execQgo]

@[simp] theorem execQrd_pending (s : State) (a1 a2 a3 a4 : _) : (stateOf s (execQrd a1 a2 a3 a4 s)).pending = s.pending := by
  simp [execQrd]

@[simp] theorem execQst_pending (s : State) (a1 : _) : (stateOf s (execQst a1 s)).pending = s.pending := by
  simp [execQst]

@[simp] theorem State.qstop_pending (s : State) (a2 : _) : (State.qstop s a2).pending = s.pending := by
  unfold State.qstop
  simp only [State.readGstat_pending]
  exact pending_foldl _ (by intro s a; simp) _ _

@[simp] theorem execQstop_pending (s : State) (a1 : _) : (stateOf s (execQstop a1 s)).pending = s.pending := by
  simp [execQstop]

@[simp] theorem execQuernTimeout_pending (s : State) (a1 : _) : (stateOf s (execQuernTimeout a1 s)).pending = s.pending := by
  simp [execQuernTimeout]

@[simp] theorem State.grantActivate_pending (s : State) (a2 : _) : (State.grantActivate s a2).pending = s.pending := by
  simp [State.grantActivate] <;> (repeat' split) <;> simp

@[simp] theorem execActivateGrant_pending (s : State) (a1 : _) : (stateOf s (execActivateGrant a1 s)).pending = s.pending := by
  simp [execActivateGrant]

@[simp] theorem quernOp_pending (s : State) (g : GranChan) (p : Fin 16) (op : Nat) (f : Nat → Bool) (t : State) (h : t.pending = s.pending) : (stateOf s (quernOp s g p op f t)).pending = s.pending := by
  simp [quernOp, h]

@[simp] theorem State.stopOpen_pending (s : State) (a2 a3 a4 : _) : (State.stopOpen s a2 a3 a4).pending = s.pending := by
  simp [State.stopOpen]

@[simp] theorem regOp_pending (s : State) (g : GranChan) (p : QuernStep) (op : Nat) (f : Nat → Bool) (e : Quern → Quern) :
    (stateOf s (regOp s g p op f e)).pending = s.pending := by
  simp only [regOp]
  exact quernOp_pending s g p.pair op f _ (by split <;> simp)

@[simp] theorem execQHalt_pending (s : State) (a1 a2 : _) : (stateOf s (execQHalt a1 a2 s)).pending = s.pending := by
  simp [execQHalt]

@[simp] theorem execQJmp_pending (s : State) (a1 a2 a3 : _) : (stateOf s (execQJmp a1 a2 a3 s)).pending = s.pending := by
  simp [execQJmp]

@[simp] theorem execQBz_pending (s : State) (a1 a2 a3 a4 : _) : (stateOf s (execQBz a1 a2 a3 a4 s)).pending = s.pending := by
  simp [execQBz]

@[simp] theorem execQBnz_pending (s : State) (a1 a2 a3 a4 : _) : (stateOf s (execQBnz a1 a2 a3 a4 s)).pending = s.pending := by
  simp [execQBnz]

@[simp] theorem execQLoop_pending (s : State) (a1 a2 a3 a4 : _) : (stateOf s (execQLoop a1 a2 a3 a4 s)).pending = s.pending := by
  simp [execQLoop]

@[simp] theorem execQLi_pending (s : State) (a1 a2 a3 a4 : _) : (stateOf s (execQLi a1 a2 a3 a4 s)).pending = s.pending := by
  simp [execQLi]

@[simp] theorem execQLui_pending (s : State) (a1 a2 a3 a4 : _) : (stateOf s (execQLui a1 a2 a3 a4 s)).pending = s.pending := by
  simp [execQLui]

@[simp] theorem execQAddi_pending (s : State) (a1 a2 a3 a4 a5 : _) : (stateOf s (execQAddi a1 a2 a3 a4 a5 s)).pending = s.pending := by
  simp [execQAddi]

@[simp] theorem execQAdd_pending (s : State) (a1 a2 a3 a4 a5 : _) : (stateOf s (execQAdd a1 a2 a3 a4 a5 s)).pending = s.pending := by
  simp [execQAdd]

@[simp] theorem execQSub_pending (s : State) (a1 a2 a3 a4 a5 : _) : (stateOf s (execQSub a1 a2 a3 a4 a5 s)).pending = s.pending := by
  simp [execQSub]

@[simp] theorem execLdcw_pending (s : State) (a1 a2 a3 a4 : _) : (stateOf s (execLdcw a1 a2 a3 a4 s)).pending = s.pending := by
  simp [execLdcw]

@[simp] theorem execLw_pending (s : State) (a1 a2 a3 a4 a5 : _) : (stateOf s (execLw a1 a2 a3 a4 a5 s)).pending = s.pending := by
  simp [execLw]

@[simp] theorem execSw_pending (s : State) (a1 a2 a3 a4 a5 : _) : (stateOf s (execSw a1 a2 a3 a4 a5 s)).pending = s.pending := by
  simp [execSw]

@[simp] theorem execNblk_pending (s : State) (a1 a2 a3 a4 : _) : (stateOf s (execNblk a1 a2 a3 a4 s)).pending = s.pending := by
  simp [execNblk]

@[simp] theorem execAcci_pending (s : State) (a1 a2 : _) : (stateOf s (execAcci a1 a2 s)).pending = s.pending := by
  simp [execAcci]

@[simp] theorem State.askActivates_pending (s : State) (a2 a3 a4 a5 : _) : (State.askActivates s a2 a3 a4 a5).pending = s.pending := by
  simp [State.askActivates]

theorem BankRead.line_pending (r : BankRead) (g : GranChan) (p : Fin 16) (l : Nat) : (r.line g p l).st.pending = r.st.pending := by
  unfold BankRead.line
  split
  · rfl
  · dsimp only
    split <;> simp
theorem BankRead.fold_pending (g : GranChan) (p : Fin 16) (f : Nat → Nat) (l : List Nat) (r : BankRead) :
    (l.foldl (fun r i => r.line g p (f i)) r).st.pending = r.st.pending := by
  induction l generalizing r with
  | nil => rfl
  | cons a l ih => simp [List.foldl, ih, BankRead.line_pending]
@[simp] theorem State.bankRead_pending (s : State) (g : GranChan) (p : Fin 16) (l n : Nat) : (s.bankRead g p l n).st.pending = s.pending :=
  BankRead.fold_pending g p _ _ _
@[simp] theorem State.stream_pending (s : State) (g : GranChan) (p : Fin 16) (l n : Nat) (ok par : Bool) (errs : LineErrors)
    (f : List Byte → Quern → Quern) : (s.stream g p l n ok par errs f).pending = s.pending := by
  unfold State.stream
  dsimp only
  (repeat' split) <;> simp

@[simp] theorem execKdot_pending (s : State) (a1 a2 a3 a4 a5 a6 : _) : (stateOf s (execKdot a1 a2 a3 a4 a5 a6 s)).pending = s.pending := by
  simp [execKdot]

@[simp] theorem execQuernOsm_pending (s : State) (a1 a2 : _) : (stateOf s (execQuernOsm a1 a2 s)).pending = s.pending := by
  simp [execQuernOsm]

@[simp] theorem execVacc_pending (s : State) (a1 a2 a3 a4 a5 a6 : _) : (stateOf s (execVacc a1 a2 a3 a4 a5 a6 s)).pending = s.pending := by
  simp [execVacc]

@[simp] theorem execMvec_pending (s : State) (a1 a2 a3 a4 a5 a6 a7 a8 : _) : (stateOf s (execMvec a1 a2 a3 a4 a5 a6 a7 a8 s)).pending = s.pending := by
  simp [execMvec]

@[simp] theorem State.bankWrite_pending (s : State) (a2 a3 a4 a5 a6 : _) : (State.bankWrite s a2 a3 a4 a5 a6).pending = s.pending := by
  simp [State.bankWrite]

@[simp] theorem execKvapp_pending (s : State) (a1 a2 a3 a4 a5 : _) : (stateOf s (execKvapp a1 a2 a3 a4 a5 s)).pending = s.pending := by
  simp [execKvapp]

@[simp] theorem execBadop_pending (s : State) (a1 a2 a3 : _) : (stateOf s (execBadop a1 a2 a3 s)).pending = s.pending := by
  simp [execBadop]

@[simp] theorem execQuernPcOverrun_pending (s : State) (a1 a2 : _) : (stateOf s (execQuernPcOverrun a1 a2 s)).pending = s.pending := by
  simp [execQuernPcOverrun]

@[simp] theorem State.logList_pending (s : State) (a2 a3 a4 : _) : (State.logList s a2 a3 a4).pending = s.pending := by
  simp [State.logList]

@[simp] theorem State.setGranaryQueue_pending (s : State) (a2 a3 : _) : (State.setGranaryQueue s a2 a3).pending = s.pending := by
  simp [State.setGranaryQueue]

@[simp] theorem State.checkGrind_pending (s : State) (a2 a3 a4 : _) : (State.checkGrind s a2 a3 a4).2.pending = s.pending := by
  simp [State.checkGrind] <;> (repeat' split) <;> simp

@[simp] theorem State.enterGranary_pending (s : State) (a2 : _) : (State.enterGranary s a2).pending = s.pending := by
  simp [State.enterGranary]

@[simp] theorem execGrindCheck_pending (s : State) (a1 : _) : (stateOf s (execGrindCheck a1 s)).pending = s.pending := by
  simp [execGrindCheck] <;> (repeat' split) <;> simp

@[simp] theorem State.takeChan_pending (s : State) (a2 : _) : (State.takeChan s a2).pending = s.pending := by
  simp [State.takeChan]

@[simp] theorem State.admitJob_pending (s : State) (a2 a3 : _) : (State.admitJob s a2 a3).pending = s.pending := by
  simp [State.admitJob]

@[simp] theorem State.admitHead_pending (s : State) (a2 : _) : (State.admitHead s a2).pending = s.pending := by
  unfold State.admitHead
  (repeat' split) <;> simp

@[simp] theorem execGrindAdmit_pending (s : State) (a1 : _) : (stateOf s (execGrindAdmit a1 s)).pending = s.pending := by
  simp [execGrindAdmit]

@[simp] theorem State.dropJob_pending (s : State) (a2 : _) : (State.dropJob s a2).pending = s.pending := by
  simp [State.dropJob]

@[simp] theorem State.fillers_pending (s : State) (a2 : _) : (State.fillers s a2).2.pending = s.pending := by
  induction a2 generalizing s with
  | zero => simp [State.fillers]
  | succ n ih => simp [State.fillers, ih]

@[simp] theorem State.setUpQuern_pending (s : State) (a1 a2 a4 : _) : (State.setUpQuern a1 a2 s a4).pending = s.pending := by
  simp [State.setUpQuern]

@[simp] theorem State.broadcastSetUp_pending (s : State) (a1 a2 : _) : (State.broadcastSetUp a1 a2 s).pending = s.pending := by
  unfold State.broadcastSetUp
  dsimp only
  exact pending_foldl _ (by intros; simp) _ _

@[simp] theorem State.startChan_pending (s : State) (a1 a3 : _) : (State.startChan a1 s a3).pending = s.pending := by
  simp [State.startChan]

@[simp] theorem State.setJobPhase_pending (s : State) (a2 a3 : _) : (State.setJobPhase s a2 a3).pending = s.pending := by
  simp [State.setJobPhase]

@[simp] theorem execGrindStart_pending (s : State) (a1 : _) : (stateOf s (execGrindStart a1 s)).pending = s.pending := by
  unfold execGrindStart
  split <;> simp

@[simp] theorem execGrindDeadline_pending (s : State) (a1 : _) : (stateOf s (execGrindDeadline a1 s)).pending = s.pending := by
  unfold execGrindDeadline
  split <;> simp

@[simp] theorem State.endJob_pending (s : State) (a2 a3 a4 a5 : _) : (State.endJob s a2 a3 a4 a5).pending = s.pending := by
  unfold State.endJob
  (repeat' split) <;> simp

@[simp] theorem State.logQuerns_pending (s : State) (a2 a3 : _) : (State.logQuerns s a2 a3).pending = s.pending := by
  simp [State.logQuerns]

@[simp] theorem State.mergeJob_pending (s : State) (a2 : _) : (State.mergeJob s a2).pending = s.pending := by
  simp [State.mergeJob] <;> (repeat' split) <;> simp

@[simp] theorem execGrindMerge_pending (s : State) (a1 : _) : (stateOf s (execGrindMerge a1 s)).pending = s.pending := by
  unfold execGrindMerge
  split <;> simp

@[simp] theorem State.leaveGranary_pending (s : State) (a2 : _) : (State.leaveGranary s a2).pending = s.pending := by
  simp [State.leaveGranary]

@[simp] theorem State.putBackJob_pending (s : State) (a2 : _) : (State.putBackJob s a2).pending = s.pending := by
  unfold State.putBackJob
  split <;> simp

@[simp] theorem State.killJob_pending (s : State) (a2 : _) : (State.killJob s a2).pending = s.pending := by
  simp [State.killJob]

@[simp] theorem State.holdGrind_pending (s : State) (a2 a3 : _) : (State.holdGrind s a2 a3).pending = s.pending := by
  unfold State.holdGrind
  split <;> simp

@[simp] theorem State.dropTake_pending (s : State) (a2 a3 : _) : (State.dropTake s a2 a3).pending = s.pending := by
  unfold State.dropTake
  (repeat' split) <;> simp

@[simp] theorem State.holdEngine_pending (s : State) (a2 a3 a4 : _) : (State.holdEngine s a2 a3 a4).pending = s.pending := by
  simp [State.holdEngine] <;> (repeat' split) <;> simp

@[simp] theorem State.takeStop_pending (s : State) (a2 a3 : _) : (State.takeStop s a2 a3).pending = s.pending := by
  simp [State.takeStop]

@[simp] theorem execStopRequest_pending (s : State) (a1 a2 : _) : (stateOf s (execStopRequest a1 a2 s)).pending = s.pending := by
  simp [execStopRequest]

@[simp] theorem State.takePending_pending (s : State) (a2 : _) : (State.takePending s a2).pending = s.pending := by
  unfold State.takePending
  split <;> simp

@[simp] theorem execSyncAnswer_pending (s : State) (a1 : _) : (stateOf s (execSyncAnswer a1 s)).pending = s.pending := by
  unfold execSyncAnswer
  split <;> simp

@[simp] theorem State.sendWithdraw_pending (s : State) (a2 : _) : (State.sendWithdraw s a2).pending = s.pending := by
  unfold State.sendWithdraw
  split <;> simp

@[simp] theorem State.withdraw_pending (s : State) (a2 a3 a4 : _) : (State.withdraw s a2 a3 a4).pending = s.pending := by
  unfold State.withdraw
  (repeat' split) <;> simp

@[simp] theorem execSyncWithdraw_pending (s : State) (a1 : _) : (stateOf s (execSyncWithdraw a1 s)).pending = s.pending := by
  unfold execSyncWithdraw
  split <;> simp

@[simp] theorem State.stopGrind_pending (s : State) (a2 : _) : (State.stopGrind s a2).pending = s.pending := by
  unfold State.stopGrind
  split <;> simp

@[simp] theorem execEngineStopped_pending (s : State) (a1 a2 a3 : _) : (stateOf s (execEngineStopped a1 a2 a3 s)).pending = s.pending := by
  simp [execEngineStopped] <;> (repeat' split) <;> simp

@[simp] theorem State.haltPart_pending (s : State) (a2 : _) : (State.haltPart s a2).pending = s.pending := by
  simp [State.haltPart]

@[simp] theorem State.resumePart_pending (s : State) (a2 : _) : (State.resumePart s a2).pending = s.pending := by
  simp [State.resumePart]

@[simp] theorem debugWrite_pending (s : State) (fn : FnId) (c : CoreId) (v : Word) (f : PartId → State) (h : ∀ p, (f p).pending = s.pending) : (stateOf s (debugWrite s fn c v f)).pending = s.pending := by
  exact bar0Write_pending s fn _ v _ (by intro l; split <;> simp [h])

@[simp] theorem execDebugHalt_pending (s : State) (a1 a2 : _) : (stateOf s (execDebugHalt a1 a2 s)).pending = s.pending := by
  simp [execDebugHalt]

@[simp] theorem execDebugResume_pending (s : State) (a1 a2 : _) : (stateOf s (execDebugResume a1 a2 s)).pending = s.pending := by
  simp [execDebugResume]

@[simp] theorem execDebugStep_pending (s : State) (a1 a2 : _) : (stateOf s (execDebugStep a1 a2 s)).pending = s.pending := by
  simp [execDebugStep]

@[simp] theorem State.requestLine_pending (s : State) (a2 a3 : _) : (State.requestLine s a2 a3).pending = s.pending := by
  simp [State.requestLine]

@[simp] theorem State.fetchAhead_pending (s : State) (a2 a3 : _) : (State.fetchAhead s a2 a3).pending = s.pending := by
  simp [State.fetchAhead]

@[simp] theorem State.missLine_pending (s : State) (a2 a3 : _) : (State.missLine s a2 a3).pending = s.pending := by
  simp [State.missLine]

@[simp] theorem execFetchMiss_pending (s : State) (a1 a2 : _) : (stateOf s (execFetchMiss a1 a2 s)).pending = s.pending := by
  simp [execFetchMiss]

theorem State.takeAll_pending (s : State) (a2 : _) (x t : _) (h : State.takeAll s a2 = some (x, t)) : t.pending = s.pending := by
  induction a2 generalizing s x t with
  | nil => simp [State.takeAll] at h; obtain ⟨_, rfl⟩ := h; rfl
  | cons i is ih =>
    unfold State.takeAll at h
    split at h
    · simp at h
    · rename_i r u hu
      cases hr : u.takeAll is with
      | none => simp [hr] at h
      | some y =>
        obtain ⟨y1, y2⟩ := y
        simp [hr] at h
        obtain ⟨_, rfl⟩ := h
        rw [ih u y1 y2 hr, State.takeResp_pending _ _ _ _ hu]

theorem State.readyFill_pending (s : State) (a2 : _) (x y t : _) (h : State.readyFill s a2 = some (x, y, t)) : t.pending = s.pending := by
  unfold State.readyFill at h
  obtain ⟨f, _, hf⟩ := List.exists_of_findSome?_eq_some h
  cases hr : s.takeAll f.2 with
  | none => simp [hr] at hf
  | some y =>
    obtain ⟨y1, y2⟩ := y
    simp [hr] at hf
    obtain ⟨_, _, rfl⟩ := hf
    exact State.takeAll_pending _ _ _ _ hr

@[simp] theorem State.fetchOn_pending (s : State) (a2 : _) : (State.fetchOn s a2).pending = s.pending := by
  simp [State.fetchOn] <;> (repeat' split) <;> simp

@[simp] theorem execFetchLineArrive_pending (s : State) (a1 : _) : (stateOf s (execFetchLineArrive a1 s)).pending = s.pending := by
  unfold execFetchLineArrive
  split
  · rfl
  · rename_i h
    have := State.readyFill_pending _ _ _ _ _ h
    simp [this]

@[simp] theorem State.fetchFail_pending (s : State) (a2 a3 : _) : (State.fetchFail s a2 a3).pending = s.pending := by
  simp [State.fetchFail]

@[simp] theorem execFetchError_pending (s : State) (a1 : _) : (stateOf s (execFetchError a1 s)).pending = s.pending := by
  simp [execFetchError] <;> (repeat' split) <;> simp

@[simp] theorem State.stall_pending (s : State) (a2 : _) : (State.stall s a2).pending = s.pending := by
  simp [State.stall]

@[simp] theorem State.arrange_pending (s : State) (a2 : _) : (State.arrange s a2).pending = s.pending := by
  unfold State.arrange
  split <;> simp

@[simp] theorem State.settle_pending (s t : State) (h : t.pending = s.pending) : (s.settle t).pending = s.pending := by
  unfold State.settle
  split
  · exact h
  · exact pending_foldl _ (fun s a => State.arrange_pending s a) _ _

@[simp] theorem State.direct_pending (s : State) (a2 a3 a4 a5 a6 : _) : (State.direct s a2 a3 a4 a5 a6).1.pending = s.pending := by
  simp [State.direct] <;> (repeat' split) <;> simp

@[simp] theorem State.readPhys_pending (s : State) (a2 a3 a4 : _) : (State.readPhys s a2 a3 a4).1.pending = s.pending := by
  unfold State.readPhys
  refine pending_foldl_fst _ ?_ _ _
  intro x a
  dsimp only
  split <;> simp

@[simp] theorem State.writePhys_pending (s : State) (a2 a3 a4 : _) : (State.writePhys s a2 a3 a4).1.pending = s.pending := by
  unfold State.writePhys
  refine pending_foldl_fst _ ?_ _ _
  intro x a
  dsimp only
  split <;> simp

@[simp] theorem State.writeFree_pending (s : State) (a2 a3 a4 : _) : (State.writeFree s a2 a3 a4).1.pending = s.pending := by
  unfold State.writeFree
  refine pending_foldl_fst _ ?_ _ _
  intro x a
  dsimp only
  split
  · rfl
  · simp

@[simp] theorem State.reachPage_pending (s : State) (a2 : _) : (State.reachPage s a2).1.pending = s.pending := by
  simp [State.reachPage] <;> (repeat' split) <;> simp

@[simp] theorem State.walkDirect_pending (s : State) (a2 a3 a4 a5 : _) : (State.walkDirect s a2 a3 a4 a5).1.pending = s.pending := by
  induction a4 generalizing s a5 with
  | zero => simp [State.walkDirect]
  | succ n ih =>
    cases a5 with
    | read w => simp only [State.walkDirect]; rw [ih]; split <;> simp
    | leaf l => simp [State.walkDirect]
    | fail a b => simp [State.walkDirect]

@[simp] theorem State.readLeaf_pending (s : State) (a2 a3 a4 a5 : _) : (State.readLeaf s a2 a3 a4 a5).1.pending = s.pending := by
  simp [State.readLeaf] <;> (repeat' split) <;> simp

@[simp] theorem State.readVaLine_pending (s : State) (a2 a3 a4 : _) : (State.readVaLine s a2 a3 a4).1.pending = s.pending := by
  have h := State.walkDirect_pending s a2.part a2.tag 5 (s.beginWalk a2.part a2.ctx a3 false)
  unfold State.readVaLine
  split <;> rename_i ht <;> simp only [ht] at h
  · simp [h]
  · simp [h]
  · exact h

@[simp] theorem State.readVa_pending (s : State) (a2 a3 a4 : _) : (State.readVa s a2 a3 a4).1.pending = s.pending := by
  unfold State.readVa
  refine pending_foldl_fst _ ?_ _ _
  intro x a
  dsimp only
  split <;> simp

@[simp] theorem State.refuseImage_pending (s : State) (a2 a3 : _) : (State.refuseImage s a2 a3).pending = s.pending := by
  unfold State.refuseImage
  split <;> simp

@[simp] theorem State.logLoad_pending (s : State) (a2 a3 a4 : _) : (State.logLoad s a2 a3 a4).pending = s.pending := by
  simp [State.logLoad]

@[simp] theorem State.giveImage_pending (s : State) (a2 : _) : (State.giveImage s a2).pending = s.pending := by
  unfold State.giveImage
  split <;> simp

@[simp] theorem State.takeImage_pending (s : State) (a2 : _) : (State.takeImage s a2).pending = s.pending := by
  simp [State.takeImage]

@[simp] theorem State.nextImage_pending (s : State) : (State.nextImage s).pending = s.pending := by
  unfold State.nextImage
  split <;> simp

@[simp] theorem execLoaderTakeImage_pending (s : State) : (stateOf s (execLoaderTakeImage s)).pending = s.pending := by
  simp [execLoaderTakeImage]

@[simp] theorem State.logCode_pending (s : State) (a2 a3 : _) : (State.logCode s a2 a3).pending = s.pending := by
  simp [State.logCode]

@[simp] theorem State.noteImage_pending (s : State) (a2 : _) : (State.noteImage s a2).pending = s.pending := by
  simp [State.noteImage]

@[simp] theorem State.installImage_pending (s : State) (a2 : _) : (State.installImage s a2).pending = s.pending := by
  simp [State.installImage] <;> (repeat' split) <;> simp

@[simp] theorem State.endLoad_pending (s : State) (a2 : _) : (State.endLoad s a2).pending = s.pending := by
  unfold State.endLoad
  split <;> simp

@[simp] theorem execImageTranslated_pending (s : State) : (stateOf s (execImageTranslated s)).pending = s.pending := by
  unfold execImageTranslated
  split <;> simp

@[simp] theorem State.unpark_pending (s : State) (a2 a3 : _) : (State.unpark s a2 a3).pending = s.pending := by
  simp [State.unpark]

@[simp] theorem execImageIdle_pending (s : State) (a1 a2 : _) : (stateOf s (execImageIdle a1 a2 s)).pending = s.pending := by
  simp [execImageIdle]

@[simp] theorem State.statusLine_pending (s : State) (a2 : _) : (State.statusLine s a2).pending = s.pending := by
  simp [State.statusLine]

@[simp] theorem State.setRetired_pending (s : State) (a2 a3 : _) : (State.setRetired s a2 a3).pending = s.pending := by
  simp [State.setRetired]

@[simp] theorem State.retire_pending (s : State) (a2 a3 : _) : (State.retire s a2 a3).pending = s.pending := by
  simp [State.retire]

@[simp] theorem State.dropDesc_pending (s : State) (a2 a3 : _) : (State.dropDesc s a2 a3).pending = s.pending := by
  simp [State.dropDesc]

@[simp] theorem State.closeAbort_pending (s : State) (a2 : _) : (State.closeAbort s a2).pending = s.pending := by
  simp [State.closeAbort]

@[simp] theorem State.writeRecord_pending (s : State) (a2 a3 a4 a5 : _) : (State.writeRecord s a2 a3 a4 a5).pending = s.pending := by
  simp [State.writeRecord]

@[simp] theorem State.publish_pending (s : State) (a2 a3 : _) : (State.publish s a2 a3).pending = s.pending := by
  simp [State.publish]

@[simp] theorem State.publishAll_pending (s : State) (a2 a3 : _) : (State.publishAll s a2 a3).pending = s.pending := by
  simp [State.publishAll]

@[simp] theorem State.writeLine__pending (s : State) (a2 : _) : (State.writeLine_ s a2).pending = s.pending := by
  unfold State.writeLine_
  (repeat' split) <;> simp

@[simp] theorem State.releaseLine_pending (s : State) (a2 : _) : (State.releaseLine s a2).pending = s.pending := by
  unfold State.releaseLine
  (repeat' split) <;> simp

@[simp] theorem State.resumeLines_pending (s : State) : (State.resumeLines s).pending = s.pending := by
  simp [State.resumeLines]

@[simp] theorem State.flushed__pending (s : State) (a2 : _) : (State.flushed_ s a2).pending = s.pending := by
  simp [State.flushed_]

@[simp] theorem execFlushingReadDone_pending (s : State) (a1 : _) : (stateOf s (execFlushingReadDone a1 s)).pending = s.pending := by
  simp [execFlushingReadDone]

@[simp] theorem State.modHc_pending (s : State) (a2 a3 : _) : (State.modHc s a2 a3).pending = s.pending := by
  simp [State.modHc]

@[simp] theorem State.hcXlateFail_pending (s : State) (a2 a3 a4 a5 a6 a7 : _) : (State.hcXlateFail s a2 a3 a4 a5 a6 a7).pending = s.pending := by
  simp [State.hcXlateFail]

@[simp] theorem State.hcWalkRead_pending (s : State) (a2 a3 a4 a5 : _) : (State.hcWalkRead s a2 a3 a4 a5).pending = s.pending := by
  simp [State.hcWalkRead]

@[simp] theorem State.hcTranslate_pending (s : State) (a2 a3 a4 a5 a6 : _) : (State.hcTranslate s a2 a3 a4 a5 a6).1.pending = s.pending := by
  unfold State.hcTranslate
  dsimp only
  (repeat' split) <;> simp

@[simp] theorem State.hcWrites_pending (s : State) (a2 a3 a4 a5 : _) : (State.hcWrites s a2 a3 a4 a5).pending = s.pending := by
  induction a5 generalizing s with
  | zero => simp [State.hcWrites]
  | succ k ih =>
    unfold State.hcWrites
    split
    · rfl
    · rename_i va bs rest _
      split
      · rfl
      · have h := State.hcTranslate_pending s a2 a3 a4 va true
        split <;> rename_i ht <;> simp only [ht] at h
        · exact h
        · rw [ih]; simp [h]

@[simp] theorem State.hcReads_pending (s : State) (a2 a3 a4 a5 : _) : (State.hcReads s a2 a3 a4 a5).pending = s.pending := by
  induction a5 generalizing s with
  | zero => simp [State.hcReads]
  | succ k ih =>
    unfold State.hcReads
    dsimp only
    split
    · rfl
    · split
      · rfl
      · split
        · split <;> simp [ih]
        · split
          · simp [ih]
          · split <;> rename_i ht <;> have e := congrArg (fun x => x.1.pending) ht <;> simp at e
            · exact e.symm
            · rw [ih]; simp [e]

@[simp] theorem State.hcDrain_pending (s : State) (a2 a3 : _) : (State.hcDrain s a2 a3).pending = s.pending := by
  induction a3 generalizing s with
  | zero => simp [State.hcDrain]
  | succ k ih =>
    unfold State.hcDrain
    dsimp only
    (repeat' split) <;> simp [ih]

@[simp] theorem State.hcIndex_pending (s : State) (a2 a3 : _) : (State.hcIndex s a2 a3).pending = s.pending := by
  simp [State.hcIndex]

@[simp] theorem State.hcEnd_pending (s : State) (a2 a3 : _) : (State.hcEnd s a2 a3).pending = s.pending := by
  simp [State.hcEnd]

@[simp] theorem State.hcPump_pending (s : State) (a2 : _) : (State.hcPump s a2).pending = s.pending := by
  unfold State.hcPump
  split <;> simp

@[simp] theorem State.hcArrive_pending (s : State) (a2 a3 a4 a5 : _) : (State.hcArrive s a2 a3 a4 a5).pending = s.pending := by
  simp [State.hcArrive]

@[simp] theorem State.hcAcked_pending (s : State) (a2 a3 a4 : _) : (State.hcAcked s a2 a3 a4).pending = s.pending := by
  simp [State.hcAcked]

@[simp] theorem State.hcDeliver_pending (s : State) (a2 a3 : _) : (State.hcDeliver s a2 a3).pending = s.pending := by
  unfold State.hcDeliver
  split <;> simp

@[simp] theorem State.hcIndexed_pending (s : State) (a2 a3 a4 a5 : _) : (State.hcIndexed s a2 a3 a4 a5).pending = s.pending := by
  simp [State.hcIndexed]

@[simp] theorem State.hcWalkData_pending (s : State) (a2 a3 a4 a5 a6 : _) : (State.hcWalkData s a2 a3 a4 a5 a6).pending = s.pending := by
  unfold State.hcWalkData
  (repeat' split) <;> simp

@[simp] theorem State.hcWalkBack_pending (s : State) (a2 : _) : (State.hcWalkBack s a2).pending = s.pending := by
  unfold State.hcWalkBack
  split
  · rfl
  · split
    · rename_i h _
      have := State.takeResp_pending _ _ _ _ h
      split <;> simp [this]
    · rfl

@[simp] theorem State.hcRewalk_pending (s : State) (a2 : _) : (State.hcRewalk s a2).pending = s.pending := by
  unfold State.hcRewalk
  (repeat' split) <;> simp

@[simp] theorem State.cartRewalkIf_pending (s : State) (a1 a3 a4 : _) : (State.cartRewalkIf a1 s a3 a4).pending = s.pending := by
  unfold State.cartRewalkIf
  split <;> simp

@[simp] theorem State.rewalk_pending (s : State) (a2 : _) : (State.rewalk s a2).pending = s.pending := by
  unfold State.rewalk
  dsimp only
  rw [pending_foldl _ (by intro s a; split <;> [(split <;> simp); rfl]), pending_foldl _ (by intro s a; split <;> simp)]

@[simp] theorem execTableWalkRead_pending (s : State) (a1 : _) : (stateOf s (execTableWalkRead a1 s)).pending = s.pending := by
  unfold execTableWalkRead
  split <;> simp

@[simp] theorem execTranslationSweep_pending (s : State) : (stateOf s (execTranslationSweep s)).pending = s.pending := by
  simp [execTranslationSweep]

@[simp] theorem onDesc_pending (s : State) (r : RingId) (seq : BitVec 32) (opc : Nat) (f : PartId → Desc → State) (h : ∀ p d, (f p d).pending = s.pending) : (stateOf s (onDesc s r seq opc f)).pending = s.pending := by
  unfold onDesc
  split <;> simp [h]

@[simp] theorem State.running__pending (s : State) (a2 a3 : _) : (State.running_ s a2 a3).pending = s.pending := by
  simp [State.running_]

@[simp] theorem State.hcBegin_pending (s : State) (a2 a3 a4 a5 : _) : (State.hcBegin s a2 a3 a4 a5).pending = s.pending := by
  unfold State.hcBegin
  split <;> simp

@[simp] theorem execCopy_pending (s : State) (a1 a2 : _) : (stateOf s (execCopy a1 a2 s)).pending = s.pending := by
  simp [execCopy]

@[simp] theorem execCopyIndexed_pending (s : State) (a1 a2 : _) : (stateOf s (execCopyIndexed a1 a2 s)).pending = s.pending := by
  simp [execCopyIndexed]

@[simp] theorem State.inline_pending (s : State) (a2 a3 a4 a5 : _) : (State.inline s a2 a3 a4 a5).pending = s.pending := by
  simp [State.inline]

@[simp] theorem execWriteInline_pending (s : State) (a1 a2 : _) : (stateOf s (execWriteInline a1 a2 s)).pending = s.pending := by
  simp [execWriteInline]

@[simp] theorem execTimestamp_pending (s : State) (a1 a2 : _) : (stateOf s (execTimestamp a1 a2 s)).pending = s.pending := by
  simp [execTimestamp]

@[simp] theorem State.bar2Done_pending (s : State) (a2 : _) : (State.bar2Done s a2).pending = s.pending := by
  simp [State.bar2Done]

@[simp] theorem State.settleIngress_pending (s : State) : (State.settleIngress s).pending = s.pending := by
  simp [State.settleIngress]

@[simp] theorem State.ingressDone_pending (s : State) (a2 : _) : (State.ingressDone s a2).pending = s.pending := by
  simp [State.ingressDone]

@[simp] theorem State.ingressDropped_pending (s : State) (a2 a3 : _) : (State.ingressDropped s a2 a3).pending = s.pending := by
  unfold State.ingressDropped
  (repeat' split) <;> simp

@[simp] theorem State.served_pending (s : State) (a2 : _) : (State.served s a2).pending = s.pending := by
  unfold State.served
  split <;> simp

@[simp] theorem State.serveOn_pending (s : State) (a2 a3 : _) : (State.serveOn s a2 a3).pending = s.pending := by
  simp [State.serveOn]

@[simp] theorem State.serveAll_pending (s : State) (a2 a3 a4 a5 a6 a7 a8 : _) : (State.serveAll s a2 a3 a4 a5 a6 a7 a8).pending = s.pending := by
  simp [State.serveAll]

@[simp] theorem State.deliver_pending (s : State) (a2 : _) : (State.deliver s a2).pending = s.pending := by
  unfold State.deliver
  split <;> simp

@[simp] theorem deliverOpt_pending (x : State × Option MemResp) : (deliverOpt x).pending = x.1.pending := by
  unfold deliverOpt
  split <;> simp
@[simp] theorem execMemRequestArrive_pending (s : State) (src : BitVec 16) : (stateOf s (execMemRequestArrive src s)).pending = s.pending := by
  simp [execMemRequestArrive]

@[simp] theorem execMemRequestServe_pending (s : State) (a1 a2 a3 : _) : (stateOf s (execMemRequestServe a1 a2 a3 s)).pending = s.pending := by
  simp [execMemRequestServe]

@[simp] theorem State.modJoint_pending (s : State) (a2 a3 a4 : _) : (State.modJoint s a2 a3 a4).pending = s.pending := by
  simp [State.modJoint]

@[simp] theorem State.dropWaits_pending (s : State) (a2 a3 : _) : (State.dropWaits s a2 a3).pending = s.pending := by
  unfold State.dropWaits
  dsimp only
  rw [pending_foldl _ (by intros; simp), pending_foldl _ (by intros; simp), pending_foldl _ (by intros; simp)]

@[simp] theorem State.withdrawRemote_pending (s : State) (a2 a3 : _) : (State.withdrawRemote s a2 a3).pending = s.pending := by
  unfold State.withdrawRemote
  split <;> simp

@[simp] theorem State.stopDescJob_pending (s : State) (a2 a3 : _) : (State.stopDescJob s a2 a3).pending = s.pending := by
  simp [State.stopDescJob] <;> (repeat' split) <;> simp

@[simp] theorem State.cancelLaunch_pending (s : State) (a2 a3 : _) : (State.cancelLaunch s a2 a3).pending = s.pending := by
  simp [State.cancelLaunch]

@[simp] theorem State.markStatus_pending (s : State) (a2 a3 a4 : _) : (State.markStatus s a2 a3 a4).pending = s.pending := by
  simp [State.markStatus]

@[simp] theorem State.stopRunning_pending (s : State) (a2 a3 : _) : (State.stopRunning s a2 a3).pending = s.pending := by
  simp [State.stopRunning] <;> (repeat' split) <;> simp

@[simp] theorem State.stopDesc_pending (s : State) (a2 a3 a4 : _) : (State.stopDesc s a2 a3 a4).pending = s.pending := by
  unfold State.stopDesc
  split <;> simp

@[simp] theorem State.failWithheld_pending (s : State) (a2 a3 a4 : _) : (State.failWithheld s a2 a3 a4).pending = s.pending := by
  simp [State.failWithheld]

@[simp] theorem State.releaseMembers_pending (s : State) (a2 a3 : _) : (State.releaseMembers s a2 a3).pending = s.pending := by
  simp [State.releaseMembers]

@[simp] theorem State.publishMembers_pending (s : State) (a2 a3 : _) : (State.publishMembers s a2 a3).pending = s.pending := by
  simp [State.publishMembers]

@[simp] theorem State.endAborting_pending (s : State) (a2 a3 : _) : (State.endAborting s a2 a3).pending = s.pending := by
  simp [State.endAborting] <;> (repeat' split) <;> simp

@[simp] theorem State.haltMember_pending (s : State) (a1 a3 : _) : (State.haltMember a1 s a3).pending = s.pending := by
  unfold State.haltMember
  split <;> simp

@[simp] theorem State.failJoint_pending (s : State) (a2 a3 a4 : _) : (State.failJoint s a2 a3 a4).pending = s.pending := by
  unfold State.failJoint
  (repeat' split) <;> simp

@[simp] theorem State.freeJoint_pending (s : State) (a2 a3 : _) : (State.freeJoint s a2 a3).pending = s.pending := by
  simp [State.freeJoint]

@[simp] theorem State.meetJoint_pending (s : State) (a2 a3 : _) : (State.meetJoint s a2 a3).pending = s.pending := by
  simp [State.meetJoint] <;> (repeat' split) <;> simp

theorem resolveOne_pending (p : PartId) (x : State × List Nat) (key : RingId × BitVec 32) :
    (resolveOne p x key).1.pending = x.1.pending := by
  unfold resolveOne
  (repeat' split) <;> simp
@[simp] theorem State.resolveJoints_pending (s : State) (p : PartId) : (s.resolveJoints p).pending = s.pending := by
  unfold State.resolveJoints
  rw [pending_foldl_fst _ (fun x a => resolveOne_pending p x a)]

@[simp] theorem onJoint_pending (s : State) (r : RingId) (seq : BitVec 32) (opc : Nat) (f : PartId → Desc → State) (h : ∀ p d, (f p d).pending = s.pending) : (stateOf s (onJoint s r seq opc f)).pending = s.pending := by
  unfold onJoint
  split <;> simp [h]

@[simp] theorem execJointOpen_pending (s : State) (a1 a2 : _) : (stateOf s (execJointOpen a1 a2 s)).pending = s.pending := by
  simp [execJointOpen]

@[simp] theorem execJointCommit_pending (s : State) (a1 a2 : _) : (stateOf s (execJointCommit a1 a2 s)).pending = s.pending := by
  refine onJoint_pending s _ _ _ _ ?_
  intro p d
  try dsimp only
  (repeat' split) <;> simp

@[simp] theorem execJointAbort_pending (s : State) (a1 a2 : _) : (stateOf s (execJointAbort a1 a2 s)).pending = s.pending := by
  refine onJoint_pending s _ _ _ _ ?_
  intro p d
  try dsimp only
  (repeat' split) <;> simp

@[simp] theorem State.streamWrite_pending (s : State) (a2 a3 a4 : _) : (State.streamWrite s a2 a3 a4).pending = s.pending := by
  unfold State.streamWrite
  dsimp only
  split <;> simp

@[simp] theorem State.wake_pending (s : State) (a2 a3 : _) : (State.wake s a2 a3).pending = s.pending := by
  simp [State.wake]

@[simp] theorem State.answerWrite_pending (s : State) (a2 a3 a4 : _) : (State.answerWrite s a2 a3 a4).pending = s.pending := by
  simp [State.answerWrite]

@[simp] theorem State.toShadow_pending (s : State) (a2 a3 a4 : _) : (State.toShadow s a2 a3 a4).pending = s.pending := by
  simp [State.toShadow]

@[simp] theorem State.class0Check_pending (s : State) (a2 a3 a4 : _) : (State.class0Check s a2 a3 a4).pending = s.pending := by
  simp [State.class0Check]

@[simp] theorem State.firstWrite_pending (s : State) (a2 a3 : _) : (State.firstWrite s a2 a3).pending = s.pending := by
  simp [State.firstWrite]

@[simp] theorem State.memberWrite_pending (s : State) (a2 a3 : _) : (State.memberWrite s a2 a3).pending = s.pending := by
  unfold State.memberWrite
  (repeat' split) <;> simp

@[simp] theorem State.pageWrite_pending (s : State) (a2 a3 : _) : (State.pageWrite s a2 a3).pending = s.pending := by
  unfold State.pageWrite
  (repeat' split) <;> simp

@[simp] theorem execJointPageWrite_pending (s : State) (a1 : _) : (stateOf s (execJointPageWrite a1 s)).pending = s.pending := by
  unfold execJointPageWrite
  split <;> simp

@[simp] theorem State.copyPage_pending (s : State) (a2 a3 : _) : (State.copyPage s a2 a3).pending = s.pending := by
  simp [State.copyPage]

@[simp] theorem State.copyDone_pending (s : State) (a2 a3 : _) : (State.copyDone s a2 a3).pending = s.pending := by
  simp [State.copyDone] <;> (repeat' split) <;> simp

@[simp] theorem execShadowCopyDone_pending (s : State) (a1 : _) : (stateOf s (execShadowCopyDone a1 s)).pending = s.pending := by
  unfold execShadowCopyDone
  split <;> simp

@[simp] theorem State.dropLeaves_pending (s : State) (a2 : _) : (State.dropLeaves s a2).pending = s.pending := by
  simp [State.dropLeaves]

@[simp] theorem State.swapPage_pending (s : State) (a1 a3 : _) : (State.swapPage a1 s a3).pending = s.pending := by
  simp [State.swapPage]

@[simp] theorem State.remoteTally_pending (s : State) (a2 a3 a4 a5 a6 a7 a8 : _) : (State.remoteTally s a2 a3 a4 a5 a6 a7 a8).pending = s.pending := by
  simp [State.remoteTally]

@[simp] theorem State.applyHeld_pending (s : State) (a1 a3 : _) : (State.applyHeld a1 s a3).pending = s.pending := by
  simp [State.applyHeld] <;> (repeat' split) <;> simp

@[simp] theorem State.requeue_pending (s : State) (a2 : _) : (State.requeue s a2).pending = s.pending := by
  unfold State.requeue
  split
  · split <;> rfl
  · rfl

@[simp] theorem State.commitJoint_pending (s : State) (a2 a3 a4 : _) : (State.commitJoint s a2 a3 a4).pending = s.pending := by
  simp [State.commitJoint]

@[simp] theorem State.freeBody_pending (s : State) : (State.freeBody s).2.pending = s.pending := by
  simp [State.freeBody]

@[simp] theorem State.askTwin_pending (s : State) (a2 a3 : _) : (State.askTwin s a2 a3).pending = s.pending := by
  simp [State.askTwin]

@[simp] theorem State.commitOn_pending (s : State) (a2 a3 a4 : _) : (State.commitOn s a2 a3 a4).pending = s.pending := by
  simp [State.commitOn]

@[simp] theorem execJointCommitSwap_pending (s : State) (a1 a2 : _) : (stateOf s (execJointCommitSwap a1 a2 s)).pending = s.pending := by
  simp [execJointCommitSwap] <;> (repeat' split) <;> simp

@[simp] theorem State.noteBusy_pending (s : State) (a2 a3 : _) : (State.noteBusy s a2 a3).pending = s.pending := by
  simp [State.noteBusy]

@[simp] theorem State.logResidue_pending (s : State) (a2 a3 : _) : (State.logResidue s a2 a3).pending = s.pending := by
  unfold State.logResidue
  split <;> simp

@[simp] theorem State.noteIdle_pending (s : State) (a2 a3 : _) : (State.noteIdle s a2 a3).pending = s.pending := by
  simp [State.noteIdle]

@[simp] theorem State.noteLate_pending (s : State) (a2 a3 : _) : (State.noteLate s a2 a3).pending = s.pending := by
  simp [State.noteLate]

@[simp] theorem State.beginLaunch_pending (s : State) (a2 a3 a4 : _) : (State.beginLaunch s a2 a3 a4).pending = s.pending := by
  simp [State.beginLaunch]

@[simp] theorem State.awaitImage_pending (s : State) (a2 a3 a4 : _) : (State.awaitImage s a2 a3 a4).pending = s.pending := by
  simp [State.awaitImage]

@[simp] theorem State.imageKey_pending (s : State) (a2 a3 : _) : (State.imageKey s a2 a3).1.pending = s.pending := by
  unfold State.imageKey
  split <;> simp

@[simp] theorem State.actLaunch_pending (s : State) (a2 a3 : _) : (State.actLaunch s a2 a3).pending = s.pending := by
  simp [State.actLaunch] <;> (repeat' split) <;> simp

@[simp] theorem execLaunch_pending (s : State) (a1 a2 : _) : (stateOf s (execLaunch a1 a2 s)).pending = s.pending := by
  simp [execLaunch]

@[simp] theorem State.dropSaved_pending (s : State) (a2 : _) : (State.dropSaved s a2).pending = s.pending := by
  simp [State.dropSaved]

@[simp] theorem State.endLaunch_pending (s : State) (a2 : _) : (State.endLaunch s a2).pending = s.pending := by
  simp [State.endLaunch]

@[simp] theorem execLaunchFinish_pending (s : State) (a1 a2 : _) : (stateOf s (execLaunchFinish a1 a2 s)).pending = s.pending := by
  unfold execLaunchFinish
  split <;> simp

@[simp] theorem State.actGrind_pending (s : State) (a2 a3 : _) : (State.actGrind s a2 a3).pending = s.pending := by
  unfold State.actGrind
  dsimp only
  split
  · simp
  · split
    · rfl
    · have h := State.checkGrind_pending s (s.coreOfRank a2 (a3.f 16 1)) (some a2) a3.grindCmd
      split <;> rename_i ht <;> simp only [ht] at h <;> simp [h]

@[simp] theorem execGrind_pending (s : State) (a1 a2 : _) : (stateOf s (execGrind a1 a2 s)).pending = s.pending := by
  simp [execGrind]

@[simp] theorem execNopDescriptor_pending (s : State) (a1 a2 : _) : (stateOf s (execNopDescriptor a1 a2 s)).pending = s.pending := by
  simp [execNopDescriptor]

@[simp] theorem State.holdUpdate_pending (s : State) (a2 a3 : _) : (State.holdUpdate s a2 a3).pending = s.pending := by
  simp [State.holdUpdate]

@[simp] theorem State.signalPeg_pending (s : State) (a2 a3 : _) : (State.signalPeg s a2 a3).pending = s.pending := by
  simp [State.signalPeg]

@[simp] theorem State.signal_pending (s : State) (a2 a3 : _) : (State.signal s a2 a3).pending = s.pending := by
  simp [State.signal] <;> (repeat' split) <;> simp

@[simp] theorem execSignal_pending (s : State) (a1 a2 : _) : (stateOf s (execSignal a1 a2 s)).pending = s.pending := by
  simp [execSignal]

@[simp] theorem State.await_pending (s : State) (a2 a3 : _) : (State.await s a2 a3).pending = s.pending := by
  simp [State.await] <;> (repeat' split) <;> simp

@[simp] theorem execWait_pending (s : State) (a1 a2 : _) : (stateOf s (execWait a1 a2 s)).pending = s.pending := by
  simp [execWait]

@[simp] theorem onRunning_pending (s : State) (r : RingId) (seq : BitVec 32) (opc : Nat) (f : PartId → Desc → State) (h : ∀ p d, (f p d).pending = s.pending) : (stateOf s (onRunning s r seq opc f)).pending = s.pending := by
  unfold onRunning
  split <;> simp [h]

@[simp] theorem execWaitTimeout_pending (s : State) (a1 a2 : _) : (stateOf s (execWaitTimeout a1 a2 s)).pending = s.pending := by
  simp [execWaitTimeout]

@[simp] theorem execFence_pending (s : State) (a1 a2 : _) : (stateOf s (execFence a1 a2 s)).pending = s.pending := by
  refine onDesc_pending s _ _ _ _ ?_
  intro p d
  try dsimp only
  (repeat' split) <;> simp

@[simp] theorem execFlush_pending (s : State) (a1 a2 : _) : (stateOf s (execFlush a1 a2 s)).pending = s.pending := by
  simp [execFlush]

@[simp] theorem execCancel_pending (s : State) (a1 a2 : _) : (stateOf s (execCancel a1 a2 s)).pending = s.pending := by
  simp [execCancel]

@[simp] theorem State.marked_pending (s : State) (a2 a3 : _) : (State.marked s a2 a3).1.pending = s.pending := by
  unfold State.marked
  split <;> simp

@[simp] theorem State.coverIngress_pending (s : State) (a2 a3 : _) : (State.coverIngress s a2 a3).pending = s.pending := by
  simp [State.coverIngress]

@[simp] theorem State.ingressFence_pending (s : State) (a2 : _) : (State.ingressFence s a2).pending = s.pending := by
  unfold State.ingressFence
  dsimp only
  split
  · simp
  · have h := State.marked_pending (s.running_ a2.ring a2.seq) (a2.f 16 4) (BitVec.ofNat 32 (a2.f 20 4))
    split <;> rename_i ht <;> simp only [ht] at h
    · simpa using h
    · split <;> simpa using h

@[simp] theorem execIngressFence_pending (s : State) (a1 a2 : _) : (stateOf s (execIngressFence a1 a2 s)).pending = s.pending := by
  unfold execIngressFence
  split <;> simp

@[simp] theorem execIngressTimeout_pending (s : State) (a1 a2 : _) : (stateOf s (execIngressTimeout a1 a2 s)).pending = s.pending := by
  simp [execIngressTimeout]

@[simp] theorem State.tableFor_pending (s : State) (a2 a3 a4 a5 a6 a7 a8 a9 : _) : (State.tableFor s a2 a3 a4 a5 a6 a7 a8 a9).1.pending = s.pending := by
  induction a7 generalizing s a8 a9 with
  | zero => simp [State.tableFor]
  | succ k ih =>
    unfold State.tableFor
    dsimp only
    (repeat' split) <;> simp [ih]

theorem MapRun.put_pending (m : MapRun) (p : PartId) (d : Desc) (k : Nat) : (m.put p d k).st.pending = m.st.pending := by
  unfold MapRun.put
  dsimp only
  (repeat' split) <;> simp_all
theorem MapRun.fold_pending (p : PartId) (d : Desc) (l : List Nat) (m : MapRun) :
    (l.foldl (fun m k => m.put p d k) m).st.pending = m.st.pending := by
  induction l generalizing m with
  | nil => rfl
  | cons a l ih => simp [List.foldl, ih, MapRun.put_pending]
@[simp] theorem State.writeMap_pending (s : State) (p : PartId) (d : Desc) : (s.writeMap p d).pending = s.pending := by
  simp [State.writeMap, MapRun.fold_pending]

@[simp] theorem State.readMap_pending (s : State) (a2 : _) : (State.readMap s a2).pending = s.pending := by
  simp [State.readMap]

@[simp] theorem State.endMap_pending (s : State) (a2 : _) : (State.endMap s a2).pending = s.pending := by
  simp [State.endMap]

@[simp] theorem State.actMap_pending (s : State) (a2 a3 : _) : (State.actMap s a2 a3).pending = s.pending := by
  simp [State.actMap]

@[simp] theorem execMap_pending (s : State) (a1 a2 : _) : (stateOf s (execMap a1 a2 s)).pending = s.pending := by
  unfold execMap
  split <;> simp

@[simp] theorem State.mapArrived_pending (s : State) (a2 a3 a4 : _) : (State.mapArrived s a2 a3 a4).pending = s.pending := by
  unfold State.mapArrived
  (repeat' split) <;> simp

@[simp] theorem State.dueLine_pending (s : State) (a2 : _) : (State.dueLine s a2).pending = s.pending := by
  simp [State.dueLine]

@[simp] theorem State.beginPoll_pending (s : State) : (State.beginPoll s).pending = s.pending := by
  simp [State.beginPoll]

@[simp] theorem State.readTail_pending (s : State) (a1 a3 : _) : (State.readTail a1 s a3).pending = s.pending := by
  unfold State.readTail
  (repeat' split) <;> simp

@[simp] theorem execSummaryPoll_pending (s : State) : (stateOf s (execSummaryPoll s)).pending = s.pending := by
  simp [execSummaryPoll]

@[simp] theorem State.gotSummary_pending (s : State) (a2 a3 : _) : (State.gotSummary s a2 a3).pending = s.pending := by
  simp [State.gotSummary]

@[simp] theorem execClass0TailPoll_pending (s : State) : (stateOf s (execClass0TailPoll s)).pending = s.pending := by
  simp [execClass0TailPoll]

@[simp] theorem State.nudge_pending (s : State) (a2 : _) : (State.nudge s a2).pending = s.pending := by
  simp [State.nudge]

@[simp] theorem execNudge_pending (s : State) (a1 a2 a3 : _) : (stateOf s (execNudge a1 a2 a3 s)).pending = s.pending := by
  unfold execNudge
  (repeat' split) <;> simp

@[simp] theorem State.ringError_pending (s : State) (a2 : _) : (State.ringError s a2).pending = s.pending := by
  unfold State.ringError
  (repeat' split) <;> simp

@[simp] theorem State.setTail_pending (s : State) (a2 a3 a4 : _) : (State.setTail s a2 a3 a4).pending = s.pending := by
  simp [State.setTail]

@[simp] theorem State.takeTail_pending (s : State) (a2 a3 a4 : _) : (State.takeTail s a2 a3 a4).pending = s.pending := by
  simp [State.takeTail]

@[simp] theorem execTailRead_pending (s : State) (a1 a2 : _) : (stateOf s (execTailRead a1 a2 s)).pending = s.pending := by
  unfold execTailRead
  split <;> simp

@[simp] theorem State.grant_pending (s : State) (a2 a3 a4 : _) : (State.grant s a2 a3 a4).pending = s.pending := by
  simp [State.grant]

@[simp] theorem execFetchGrant_pending (s : State) : (stateOf s (execFetchGrant s)).pending = s.pending := by
  unfold execFetchGrant
  (repeat' split) <;> simp

@[simp] theorem State.logDesc_pending (s : State) (a2 a3 a4 a5 a6 : _) : (State.logDesc s a2 a3 a4 a5 a6).pending = s.pending := by
  simp [State.logDesc]

@[simp] theorem State.logReserved_pending (s : State) (a2 a3 : _) : (State.logReserved s a2 a3).pending = s.pending := by
  simp [State.logReserved]

@[simp] theorem State.admitDesc_pending (s : State) (a2 a3 a4 : _) : (State.admitDesc s a2 a3 a4).pending = s.pending := by
  unfold State.admitDesc
  (repeat' split) <;> simp

@[simp] theorem State.takeSlots_pending (s : State) (a2 a3 a4 a5 : _) : (State.takeSlots s a2 a3 a4 a5).pending = s.pending := by
  induction a4 generalizing s a5 with
  | zero => simp [State.takeSlots]
  | succ n ih =>
    cases a5 with
    | nil => simp [State.takeSlots]
    | cons h rest =>
      unfold State.takeSlots
      dsimp only
      split
      · rfl
      · split
        · simp
        · rw [ih]; simp

@[simp] theorem State.afterFetch_pending (s : State) (a2 : _) : (State.afterFetch s a2).pending = s.pending := by
  simp [State.afterFetch]

@[simp] theorem State.endFetch_pending (s : State) (a2 : _) : (State.endFetch s a2).pending = s.pending := by
  simp [State.endFetch]

@[simp] theorem State.takeBatch_pending (s : State) (a2 : _) : (State.takeBatch s a2).pending = s.pending := by
  unfold State.takeBatch
  (repeat' split) <;> simp

@[simp] theorem State.cancelOne_pending (s : State) (a2 a3 : _) : (State.cancelOne s a2 a3).pending = s.pending := by
  unfold State.cancelOne
  (repeat' split) <;> simp

@[simp] theorem State.applyCancel_pending (s : State) (a2 a3 : _) : (State.applyCancel s a2 a3).pending = s.pending := by
  unfold State.applyCancel
  dsimp only
  split
  · simp
  · rw [pending_foldl _ (by intro s a; split <;> simp)]
    simp

@[simp] theorem State.applyCancels_pending (s : State) (a2 : _) : (State.applyCancels s a2).pending = s.pending := by
  unfold State.applyCancels
  exact pending_foldl _ (by intro s a; split <;> [split <;> simp; rfl]) _ _

@[simp] theorem State.fetchAll_pending (s : State) (a2 : _) : (State.fetchAll s a2).pending = s.pending := by
  simp [State.fetchAll]

@[simp] theorem execDescriptorFetch_pending (s : State) (a1 : _) : (stateOf s (execDescriptorFetch a1 s)).pending = s.pending := by
  simp [execDescriptorFetch]

@[simp] theorem State.gotSlots_pending (s : State) (a2 a3 a4 : _) : (State.gotSlots s a2 a3 a4).pending = s.pending := by
  simp [State.gotSlots]

@[simp] theorem State.lostSlots_pending (s : State) (a2 : _) : (State.lostSlots s a2).pending = s.pending := by
  simp [State.lostSlots]

@[simp] theorem State.takeCart_pending (s : State) (a2 a3 a4 : _) : (State.takeCart s a2 a3 a4).pending = s.pending := by
  simp [State.takeCart]

@[simp] theorem State.boundary_pending (s : State) (a2 a3 : _) : (State.boundary s a2 a3).pending = s.pending := by
  simp [State.boundary]

@[simp] theorem State.startDesc_pending (s : State) (a2 a3 : _) : (State.startDesc s a2 a3).pending = s.pending := by
  simp [State.startDesc]

@[simp] theorem State.startRing_pending (s : State) (a2 a3 : _) : (State.startRing s a2 a3).pending = s.pending := by
  unfold State.startRing
  (repeat' split) <;> simp

@[simp] theorem execDescriptorStart_pending (s : State) (a1 : _) : (stateOf s (execDescriptorStart a1 s)).pending = s.pending := by
  unfold execDescriptorStart
  split <;> simp

@[simp] theorem State.complete_pending (s : State) (a2 a3 : _) : (State.complete s a2 a3).pending = s.pending := by
  unfold State.complete
  (repeat' split) <;> simp

@[simp] theorem execDescriptorComplete_pending (s : State) (a1 a2 : _) : (stateOf s (execDescriptorComplete a1 a2 s)).pending = s.pending := by
  unfold execDescriptorComplete
  split <;> simp

@[simp] theorem State.written_pending (s : State) : (State.written s).pending = s.pending := by
  simp [State.written]

@[simp] theorem State.enableRing_pending (s : State) (a2 : _) : (State.enableRing s a2).pending = s.pending := by
  simp [State.enableRing] <;> (repeat' split) <;> simp

@[simp] theorem execRtCtlWrite_pending (s : State) (a1 a2 a3 a4 : _) : (stateOf s (execRtCtlWrite a1 a2 a3 a4 s)).pending = s.pending := by
  simp [execRtCtlWrite]

@[simp] theorem State.beginSwitch_pending (s : State) (a2 a3 : _) : (State.beginSwitch s a2 a3).pending = s.pending := by
  simp [State.beginSwitch]

@[simp] theorem execQuantumEnd_pending (s : State) (a1 : _) : (stateOf s (execQuantumEnd a1 s)).pending = s.pending := by
  unfold execQuantumEnd
  split <;> simp

@[simp] theorem execContextSwitch_pending (s : State) (a1 : _) : (stateOf s (execContextSwitch a1 s)).pending = s.pending := by
  unfold execContextSwitch
  (repeat' split) <;> simp

@[simp] theorem State.zeroBell_pending (s : State) (a2 : _) : (State.zeroBell s a2).pending = s.pending := by
  simp [State.zeroBell]

@[simp] theorem State.zeroObjects_pending (s : State) (a2 a3 : _) : (State.zeroObjects s a2 a3).pending = s.pending := by
  unfold State.zeroObjects
  dsimp only
  split
  · rfl
  · simp only [State.touched_pending, State.serveTallies_pending]
    rw [pending_foldl _ (by intros; simp), pending_foldl _ (by intros; simp), pending_foldl _ (by intros; simp)]

@[simp] theorem State.readSyncTable_pending (s : State) (a2 a3 : _) : (State.readSyncTable s a2 a3).pending = s.pending := by
  simp [State.readSyncTable]

@[simp] theorem State.saveContext_pending (s : State) (a2 a3 : _) : (State.saveContext s a2 a3).pending = s.pending := by
  simp [State.saveContext]

@[simp] theorem State.saveDone_pending (s : State) (a2 a3 : _) : (State.saveDone s a2 a3).pending = s.pending := by
  simp [State.saveDone]

@[simp] theorem execPreemptSaveDone_pending (s : State) (a1 : _) : (stateOf s (execPreemptSaveDone a1 s)).pending = s.pending := by
  unfold execPreemptSaveDone
  split <;> simp

@[simp] theorem State.restoreContext_pending (s : State) (a2 a3 : _) : (State.restoreContext s a2 a3).pending = s.pending := by
  simp [State.restoreContext]

@[simp] theorem State.ctxIn_pending (s : State) (a2 a3 : _) : (State.ctxIn s a2 a3).pending = s.pending := by
  simp [State.ctxIn]

@[simp] theorem execContextSwitchDone_pending (s : State) (a1 : _) : (stateOf s (execContextSwitchDone a1 s)).pending = s.pending := by
  unfold execContextSwitchDone
  split <;> simp

@[simp] theorem State.abortJoints_pending (s : State) (a2 : _) : (State.abortJoints s a2).pending = s.pending := by
  simp [State.abortJoints]

@[simp] theorem State.stopHostCarts_pending (s : State) (a2 : _) : (State.stopHostCarts s a2).pending = s.pending := by
  simp [State.stopHostCarts]

@[simp] theorem State.beginAbort_pending (s : State) (a2 a3 : _) : (State.beginAbort s a2 a3).pending = s.pending := by
  simp [State.beginAbort]

@[simp] theorem State.askAbort_pending (s : State) (a2 : _) : (State.askAbort s a2).pending = s.pending := by
  unfold State.askAbort
  split <;> simp

@[simp] theorem execPtAbortGo_pending (s : State) (a1 a2 : _) : (stateOf s (execPtAbortGo a1 a2 s)).pending = s.pending := by
  simp [execPtAbortGo]

@[simp] theorem execAbortPartition_pending (s : State) (a1 a2 : _) : (stateOf s (execAbortPartition a1 a2 s)).pending = s.pending := by
  simp [execAbortPartition]

@[simp] theorem State.discardBut_pending (s : State) (a2 a3 : _) : (State.discardBut s a2 a3).pending = s.pending := by
  simp [State.discardBut]

@[simp] theorem State.discardDescs_pending (s : State) (a2 : _) : (State.discardDescs s a2).pending = s.pending := by
  simp [State.discardDescs]

@[simp] theorem State.retireRing_pending (s : State) (a2 : _) : (State.retireRing s a2).pending = s.pending := by
  simp [State.retireRing]

@[simp] theorem State.dropCores_pending (s : State) (a2 : _) : (State.dropCores s a2).pending = s.pending := by
  simp [State.dropCores]

@[simp] theorem State.dropContexts_pending (s : State) (a2 : _) : (State.dropContexts s a2).pending = s.pending := by
  unfold State.dropContexts
  (repeat' split) <;> simp

@[simp] theorem State.abortNotice_pending (s : State) (a2 a3 : _) : (State.abortNotice s a2 a3).pending = s.pending := by
  unfold State.abortNotice
  dsimp only
  generalize hs : (s.part a2).abort = r
  rcases r with _ | r
  · simp only [State.closeAbort_pending, State.modPart_pending]
  · cases r <;> simp only [State.endDesc_pending, State.eventLine_pending, State.closeAbort_pending, State.modPart_pending]

@[simp] theorem State.resetVf_pending (s : State) (a2 : _) : (State.resetVf s a2).pending = s.pending := by
  simp [State.resetVf]

@[simp] theorem State.resetEntries_pending (s : State) (a2 : _) : (State.resetEntries s a2).pending = s.pending := by
  simp [State.resetEntries]

@[simp] theorem State.afterReset_pending (s t : State) (p : PartId) (h : t.pending = s.pending) : (s.afterReset t p).pending = s.pending := by
  unfold State.afterReset
  split
  · simp [h]
  · split <;> simp [h]

@[simp] theorem State.endAbort_pending (s : State) (a2 : _) : (State.endAbort s a2).pending = s.pending := by
  simp [State.endAbort]

@[simp] theorem State.storeQuantum_pending (s : State) (a2 a3 a4 a5 : _) : (State.storeQuantum s a2 a3 a4 a5).pending = s.pending := by
  simp [State.storeQuantum]

@[simp] theorem execPartitionTableWrite_pending (s : State) (a1 a2 a3 a4 a5 : _) : (stateOf s (execPartitionTableWrite a1 a2 a3 a4 a5 s)).pending = s.pending := by
  simp [execPartitionTableWrite]

@[simp] theorem execHcCtlWrite_pending (s : State) (a1 a2 a3 : _) : (stateOf s (execHcCtlWrite a1 a2 a3 s)).pending = s.pending := by
  simp [execHcCtlWrite]

@[simp] theorem execPwrCapWrite_pending (s : State) (a1 a2 a3 : _) : (stateOf s (execPwrCapWrite a1 a2 a3 s)).pending = s.pending := by
  simp [execPwrCapWrite]

@[simp] theorem execBar2Read_pending (s : State) (a1 a2 : _) : (stateOf s (execBar2Read a1 a2 s)).pending = s.pending := by
  simp [execBar2Read]

@[simp] theorem execBar2Write_pending (s : State) (a1 a2 : _) : (stateOf s (execBar2Write a1 a2 s)).pending = s.pending := by
  simp [execBar2Write]

@[simp] theorem execBar2MapWrite_pending (s : State) (a1 a2 a3 : _) : (stateOf s (execBar2MapWrite a1 a2 a3 s)).pending = s.pending := by
  simp [execBar2MapWrite]

@[simp] theorem execBar2Resize_pending (s : State) (a1 : _) : (stateOf s (execBar2Resize a1 s)).pending = s.pending := by
  simp [execBar2Resize]

@[simp] theorem State.logIngress_pending (s : State) (a2 : _) : (State.logIngress s a2).pending = s.pending := by
  simp [State.logIngress]

@[simp] theorem State.dropIngress_pending (s : State) (a2 : _) : (State.dropIngress s a2).pending = s.pending := by
  simp [State.dropIngress]

@[simp] theorem State.takeIngress_pending (s : State) (a2 a3 : _) : (State.takeIngress s a2 a3).pending = s.pending := by
  simp [State.takeIngress]

@[simp] theorem execBar4Write_pending (s : State) (a1 a2 : _) : (stateOf s (execBar4Write a1 a2 s)).pending = s.pending := by
  simp [execBar4Write]

@[simp] theorem execBar4Read_pending (s : State) (a1 a2 : _) : (stateOf s (execBar4Read a1 a2 s)).pending = s.pending := by
  simp [execBar4Read]

@[simp] theorem execFlushRead_pending (s : State) (a1 : _) : (stateOf s (execFlushRead a1 s)).pending = s.pending := by
  simp [execFlushRead]

@[simp] theorem State.endFlush_pending (s : State) (a2 : _) : (State.endFlush s a2).pending = s.pending := by
  simp [State.endFlush]

@[simp] theorem execFlushReadComplete_pending (s : State) (a1 : _) : (stateOf s (execFlushReadComplete a1 s)).pending = s.pending := by
  unfold execFlushReadComplete
  split <;> simp

@[simp] theorem State.logHost_pending (s : State) (a2 a3 : _) : (State.logHost s a2 a3).pending = s.pending := by
  simp [State.logHost]

@[simp] theorem State.gotBeat_pending (s : State) (a2 : _) : (State.gotBeat s a2).pending = s.pending := by
  simp [State.gotBeat]

@[simp] theorem State.hostGood_pending (s : State) (a2 a3 : _) : (State.hostGood s a2 a3).pending = s.pending := by
  unfold State.hostGood
  (repeat' split) <;> simp

@[simp] theorem State.hostBad_pending (s : State) (a2 a3 : _) : (State.hostBad s a2 a3).pending = s.pending := by
  unfold State.hostBad
  (repeat' split) <;> simp

@[simp] theorem execHostReadCompletion_pending (s : State) (a1 a2 : _) : (stateOf s (execHostReadCompletion a1 a2 s)).pending = s.pending := by
  unfold execHostReadCompletion
  (repeat' split) <;> simp

@[simp] theorem execHostReadTimeout_pending (s : State) (a1 : _) : (stateOf s (execHostReadTimeout a1 s)).pending = s.pending := by
  unfold execHostReadTimeout
  split <;> simp

@[simp] theorem execLinkDown_pending (s : State) : (stateOf s (execLinkDown s)).pending = s.pending := by
  simp [execLinkDown]

@[simp] theorem execLinkDown100us_pending (s : State) : (stateOf s (execLinkDown100us s)).pending = s.pending := by
  simp [execLinkDown100us]

@[simp] theorem State.abortFor_pending (s : State) (a2 a3 : _) : (State.abortFor s a2 a3).pending = s.pending := by
  simp [State.abortFor]

@[simp] theorem State.abortNow_pending (s : State) (a2 : _) : (State.abortNow s a2).pending = s.pending := by
  simp [State.abortNow]

@[simp] theorem State.hostReset_pending (s : State) : (State.hostReset s).pending = s.pending := by
  simp [State.hostReset]

@[simp] theorem execLinkDown2ms_pending (s : State) : (stateOf s (execLinkDown2ms s)).pending = s.pending := by
  simp [execLinkDown2ms]

@[simp] theorem execLinkUp_pending (s : State) (a1 a2 a3 : _) : (stateOf s (execLinkUp a1 a2 a3 s)).pending = s.pending := by
  simp [execLinkUp]

@[simp] theorem execFlrVf_pending (s : State) (a1 : _) : (stateOf s (execFlrVf a1 s)).pending = s.pending := by
  simp [execFlrVf]

@[simp] theorem execFlrPf0_pending (s : State) : (stateOf s (execFlrPf0 s)).pending = s.pending := by
  simp [execFlrPf0]

@[simp] theorem State.writeConfig_pending (s : State) (a2 a3 a4 : _) : (State.writeConfig s a2 a3 a4).pending = s.pending := by
  simp [State.writeConfig]

@[simp] theorem execConfigRequest_pending (s : State) (a1 a2 a3 : _) : (stateOf s (execConfigRequest a1 a2 a3 s)).pending = s.pending := by
  unfold execConfigRequest
  (repeat' split) <;> simp

@[simp] theorem State.watch_pending (s : State) (a2 : _) : (State.watch s a2).pending = s.pending := by
  simp [State.watch]

@[simp] theorem execWatchmanFire_pending (s : State) (a1 : _) : (stateOf s (execWatchmanFire a1 s)).pending = s.pending := by
  simp [execWatchmanFire]

@[simp] theorem State.writeSnapshot_pending (s : State) (a2 a3 a4 : _) : (State.writeSnapshot s a2 a3 a4).pending = s.pending := by
  simp [State.writeSnapshot]

@[simp] theorem execWatchmanSnapshot_pending (s : State) (a1 : _) : (stateOf s (execWatchmanSnapshot a1 s)).pending = s.pending := by
  unfold execWatchmanSnapshot
  split <;> simp

@[simp] theorem execWmCtlWrite_pending (s : State) (a1 a2 a3 a4 : _) : (stateOf s (execWmCtlWrite a1 a2 a3 a4 s)).pending = s.pending := by
  simp [execWmCtlWrite]

@[simp] theorem State.logForce_pending (s : State) (a2 a3 a4 : _) : (State.logForce s a2 a3 a4).pending = s.pending := by
  unfold State.logForce
  (repeat' split) <;> simp

@[simp] theorem execPegWrite_pending (s : State) (a1 a2 a3 a4 : _) : (stateOf s (execPegWrite a1 a2 a3 a4 s)).pending = s.pending := by
  simp [execPegWrite]

@[simp] theorem execTallyValWrite_pending (s : State) (a1 a2 a3 a4 : _) : (stateOf s (execTallyValWrite a1 a2 a3 a4 s)).pending = s.pending := by
  simp [execTallyValWrite]

@[simp] theorem State.reexamineBell_pending (s : State) (a2 a3 : _) : (State.reexamineBell s a2 a3).pending = s.pending := by
  simp [State.reexamineBell]

@[simp] theorem execBellWrite_pending (s : State) (a1 a2 a3 a4 : _) : (stateOf s (execBellWrite a1 a2 a3 a4 s)).pending = s.pending := by
  simp [execBellWrite]

@[simp] theorem State.resend_pending (s : State) (a2 : _) : (State.resend s a2).pending = s.pending := by
  unfold State.resend
  simp only [State.incFld_pending]
  exact pending_foldl _ (by intros; simp) _ _

@[simp] theorem State.idleFrame_pending (s : State) (a2 a3 : _) : (State.idleFrame s a2 a3).pending = s.pending := by
  simp [State.idleFrame]

@[simp] theorem State.logBelora_pending (s : State) (a2 a3 : _) : (State.logBelora s a2 a3).pending = s.pending := by
  simp [State.logBelora]

@[simp] theorem State.refusePkt_pending (s : State) (a2 a3 : _) : (State.refusePkt s a2 a3).pending = s.pending := by
  simp [State.refusePkt]

@[simp] theorem State.forward_pending (s : State) (a2 a3 : _) : (State.forward s a2 a3).pending = s.pending := by
  simp [State.forward]

@[simp] theorem State.gotPacket_pending (s : State) (a1 a3 : _) : (State.gotPacket a1 s a3).pending = s.pending := by
  simp [State.gotPacket]

@[simp] theorem State.frameHead_pending (s : State) (a2 a3 : _) : (State.frameHead s a2 a3).pending = s.pending := by
  simp [State.frameHead]

@[simp] theorem State.framePayload_pending (s : State) (a2 a3 : _) : (State.framePayload s a2 a3).pending = s.pending := by
  simp [State.framePayload]

@[simp] theorem State.gotFrame_pending (s : State) (a2 a3 : _) : (State.gotFrame s a2 a3).pending = s.pending := by
  simp [State.gotFrame]

@[simp] theorem execFrameReceive_pending (s : State) (a1 a2 : _) : (stateOf s (execFrameReceive a1 a2 s)).pending = s.pending := by
  simp [execFrameReceive]

@[simp] theorem execReplayTimeout_pending (s : State) (a1 : _) : (stateOf s (execReplayTimeout a1 s)).pending = s.pending := by
  simp [execReplayTimeout]

@[simp] theorem State.resendTwin_pending (s : State) (a2 : _) : (State.resendTwin s a2).pending = s.pending := by
  unfold State.resendTwin
  (repeat' split) <;> simp

@[simp] theorem State.downLink_pending (s : State) (a2 : _) : (State.downLink s a2).pending = s.pending := by
  simp [State.downLink]

@[simp] theorem execLaneRemove_pending (s : State) (a1 a2 : _) : (stateOf s (execLaneRemove a1 a2 s)).pending = s.pending := by
  simp [execLaneRemove]

@[simp] theorem execLaneRejoin_pending (s : State) (a1 a2 : _) : (stateOf s (execLaneRejoin a1 a2 s)).pending = s.pending := by
  simp [execLaneRejoin]

@[simp] theorem execLinkLanesLost_pending (s : State) (a1 : _) : (stateOf s (execLinkLanesLost a1 s)).pending = s.pending := by
  simp [execLinkLanesLost]

@[simp] theorem State.linkUpDone_pending (s : State) (a2 : _) : (State.linkUpDone s a2).pending = s.pending := by
  simp [State.linkUpDone]

@[simp] theorem execLinkTrainingDone_pending (s : State) (a1 : _) : (stateOf s (execLinkTrainingDone a1 s)).pending = s.pending := by
  simp [execLinkTrainingDone]

@[simp] theorem State.setHold_pending (s : State) (a2 : _) : (State.setHold s a2).pending = s.pending := by
  simp [State.setHold]

@[simp] theorem execFbCtlWrite_pending (s : State) (a1 a2 a3 : _) : (stateOf s (execFbCtlWrite a1 a2 a3 s)).pending = s.pending := by
  simp [execFbCtlWrite]

theorem State.takePkt_pending (s : State) (a2 a3 : _) (x y t : _) (h : State.takePkt s a2 a3 = some (x, y, t)) : t.pending = s.pending := by
  have own : ∀ x, ((s.fabric.held.find? (fun e => s.answersTo (pDst e.2) && a3 e.2)).map (fun e =>
      (e.2, true, ({ s with fabric := { s.fabric with held := s.fabric.held.erase e } } : State)))) = some x → x.2.2.pending = s.pending := by
    intro x h
    cases hf : s.fabric.held.find? (fun e => s.answersTo (pDst e.2) && a3 e.2) with
    | none => simp [hf] at h
    | some r => simp [hf] at h; subst h; rfl
  unfold State.takePkt at h
  dsimp only at h
  split at h
  · split at h
    · simp at h; obtain ⟨_, _, rfl⟩ := h; simp
    · exact own _ h
  · exact own _ h

@[simp] theorem State.admitPkt_pending (s : State) (l : LinkId) (own : Bool) (p : List Byte) (f : State → List Byte → State)
    (h : ∀ t p, (f t p).pending = t.pending) : (s.admitPkt l own p f).pending = s.pending := by
  unfold State.admitPkt
  dsimp only
  (repeat' split) <;> simp [h]

@[simp] theorem onPacket_pending (s : State) (l : LinkId) (type : Nat) (f : State → List Byte → State) (h : ∀ t p, (f t p).pending = t.pending) : (stateOf s (onPacket s l type f)).pending = s.pending := by
  unfold onPacket
  split
  · rfl
  · rename_i hp
    have := State.takePkt_pending _ _ _ _ _ _ hp
    simp [h, this]

@[simp] theorem State.peerServe_pending (s : State) (a2 a3 a4 a5 : _) : (State.peerServe s a2 a3 a4 a5).pending = s.pending := by
  simp [State.peerServe]

@[simp] theorem execRd_pending (s : State) (a1 : _) : (stateOf s (execRd a1 s)).pending = s.pending := by
  simp [execRd]

@[simp] theorem State.resyncWrite_pending (s : State) (a2 a3 : _) : (State.resyncWrite s a2 a3).pending = s.pending := by
  simp [State.resyncWrite]

@[simp] theorem execWr_pending (s : State) (a1 : _) : (stateOf s (execWr a1 s)).pending = s.pending := by
  simp [execWr]

@[simp] theorem execWrm_pending (s : State) (a1 : _) : (stateOf s (execWrm a1 s)).pending = s.pending := by
  simp [execWrm]

@[simp] theorem State.topAwait_pending (s : State) (a2 a3 a4 : _) : (State.topAwait s a2 a3 a4).pending = s.pending := by
  simp [State.topAwait]

@[simp] theorem State.topAdv_pending (s : State) (a2 a3 : _) : (State.topAdv s a2 a3).pending = s.pending := by
  unfold State.topAdv
  (repeat' split) <;> simp

@[simp] theorem State.topServe_pending (s : State) (a2 : _) : (State.topServe s a2).pending = s.pending := by
  simp [State.topServe]

@[simp] theorem execTop_pending (s : State) (a1 : _) : (stateOf s (execTop a1 s)).pending = s.pending := by
  simp [execTop]

@[simp] theorem State.peerSkip_pending (s : State) (a2 a3 a4 : _) : (State.peerSkip s a2 a3 a4).pending = s.pending := by
  simp [State.peerSkip]

@[simp] theorem State.endKpPeer_pending (s : State) (a2 a3 a4 a5 : _) : (State.endKpPeer s a2 a3 a4 a5).pending = s.pending := by
  unfold State.endKpPeer
  (repeat' split) <;> simp

@[simp] theorem State.logTwin_pending (s : State) (a2 a3 : _) : (State.logTwin s a2 a3).pending = s.pending := by
  simp [State.logTwin]

@[simp] theorem State.streamFailed_pending (s : State) (a2 a3 a4 : _) : (State.streamFailed s a2 a3 a4).pending = s.pending := by
  simp [State.streamFailed]

@[simp] theorem State.endPeer_pending (s : State) (a2 a3 a4 a5 a6 : _) : (State.endPeer s a2 a3 a4 a5 a6).pending = s.pending := by
  unfold State.endPeer
  (repeat' split) <;> simp

@[simp] theorem State.modReq_pending (s : State) (a2 a3 : _) : (State.modReq s a2 a3).pending = s.pending := by
  simp [State.modReq]

@[simp] theorem onResponse_pending (s : State) (l : LinkId) (type : Nat) (f : State → List Byte → PeerReq → State) (h : ∀ t p q, (f t p q).pending = t.pending) : (stateOf s (onResponse s l type f)).pending = s.pending := by
  refine onPacket_pending s l type _ ?_
  intro t p
  split <;> simp [h]

@[simp] theorem execRdr_pending (s : State) (a1 : _) : (stateOf s (execRdr a1 s)).pending = s.pending := by
  simp [execRdr]

@[simp] theorem execWra_pending (s : State) (a1 : _) : (stateOf s (execWra a1 s)).pending = s.pending := by
  simp [execWra]

@[simp] theorem State.interimTor_pending (s : State) (a2 : _) : (State.interimTor s a2).pending = s.pending := by
  unfold State.interimTor
  split <;> simp

@[simp] theorem execTor_pending (s : State) (a1 : _) : (stateOf s (execTor a1 s)).pending = s.pending := by
  simp [execTor]

@[simp] theorem execErr_pending (s : State) (a1 : _) : (stateOf s (execErr a1 s)).pending = s.pending := by
  simp [execErr]

@[simp] theorem execNotrdy_pending (s : State) (a1 : _) : (stateOf s (execNotrdy a1 s)).pending = s.pending := by
  unfold execNotrdy
  split
  · rfl
  · rename_i h
    have := State.takePkt_pending _ _ _ _ _ _ h
    simp only [stateOf_whenever]
    (repeat' split) <;> simp [this]

@[simp] theorem State.sendAgain_pending (s : State) (a2 a3 : _) : (State.sendAgain s a2 a3).pending = s.pending := by
  unfold State.sendAgain
  (repeat' split) <;> simp

@[simp] theorem State.backoff_pending (s : State) (a2 : _) : (State.backoff s a2).pending = s.pending := by
  simp [State.backoff]

@[simp] theorem execNotrdyBackoff_pending (s : State) (a1 a2 : _) : (stateOf s (execNotrdyBackoff a1 a2 s)).pending = s.pending := by
  unfold execNotrdyBackoff
  split <;> simp

@[simp] theorem execPeerTimeout_pending (s : State) (a1 : _) : (stateOf s (execPeerTimeout a1 s)).pending = s.pending := by
  unfold execPeerTimeout
  split <;> simp

@[simp] theorem State.endHeld_pending (s : State) (a2 : _) : (State.endHeld s a2).pending = s.pending := by
  simp [State.endHeld] <;> (repeat' split) <;> simp

@[simp] theorem execUnreachable_pending (s : State) (a1 : _) : (stateOf s (execUnreachable a1 s)).pending = s.pending := by
  unfold execUnreachable
  split <;> simp

@[simp] theorem execTopProbe_pending (s : State) (a1 : _) : (stateOf s (execTopProbe a1 s)).pending = s.pending := by
  unfold execTopProbe
  split <;> simp

@[simp] theorem State.flood_pending (s : State) (a2 a3 : _) : (State.flood s a2 a3).pending = s.pending := by
  simp [State.flood]

@[simp] theorem State.resendTo_pending (s : State) (a2 : _) : (State.resendTo s a2).pending = s.pending := by
  simp [State.resendTo]

@[simp] theorem State.recordAlias_pending (s : State) (a2 : _) : (State.recordAlias s a2).pending = s.pending := by
  simp [State.recordAlias] <;> (repeat' split) <;> simp

@[simp] theorem onFlood_pending (s : State) (l : LinkId) (type : Nat) (f : State → List Byte → State) (h : ∀ t p, (f t p).pending = t.pending) : (stateOf s (onFlood s l type f)).pending = s.pending := by
  unfold onFlood
  split
  · rfl
  · rename_i hp
    have := State.takePkt_pending _ _ _ _ _ _ hp
    simp [h, this]

@[simp] theorem State.floodOn_pending (s : State) (a2 a3 : _) : (State.floodOn s a2 a3).pending = s.pending := by
  simp [State.floodOn]

@[simp] theorem execAdopt_pending (s : State) (a1 : _) : (stateOf s (execAdopt a1 s)).pending = s.pending := by
  simp [execAdopt]

@[simp] theorem execRelease_pending (s : State) (a1 : _) : (stateOf s (execRelease a1 s)).pending = s.pending := by
  refine onFlood_pending s _ _ _ ?_
  intro t p
  split <;> simp

@[simp] theorem execUnknownPacket_pending (s : State) (a1 : _) : (stateOf s (execUnknownPacket a1 s)).pending = s.pending := by
  unfold execUnknownPacket
  split
  · rfl
  · rename_i h
    have := State.takePkt_pending _ _ _ _ _ _ h
    simp only [stateOf_whenever]
    (repeat' split) <;> simp [this]

@[simp] theorem State.raiseTwin_pending (s : State) (a2 : _) : (State.raiseTwin s a2).pending = s.pending := by
  simp [State.raiseTwin]

@[simp] theorem State.retireAll_pending (s : State) : (State.retireAll s).pending = s.pending := by
  simp [State.retireAll]

@[simp] theorem State.stopMirroring_pending (s : State) (a2 : _) : (State.stopMirroring s a2).pending = s.pending := by
  simp [State.stopMirroring]

@[simp] theorem State.declare_pending (s : State) : (State.declare s).pending = s.pending := by
  simp [State.declare]

@[simp] theorem State.enterFailed_pending (s : State) : (State.enterFailed s).pending = s.pending := by
  simp [State.enterFailed]

@[simp] theorem execTwCtlWrite_pending (s : State) (a1 a2 a3 : _) : (stateOf s (execTwCtlWrite a1 a2 a3 s)).pending = s.pending := by
  simp [execTwCtlWrite]

@[simp] theorem execHelloSend_pending (s : State) : (stateOf s (execHelloSend s)).pending = s.pending := by
  simp [execHelloSend]

@[simp] theorem State.syncLeft_pending (s : State) : (State.syncLeft s).pending = s.pending := by
  rfl

@[simp] theorem State.startSync_pending (s : State) : (State.startSync s).pending = s.pending := by
  simp [State.startSync]

@[simp] theorem execHello_pending (s : State) (a1 a2 a3 : _) : (stateOf s (execHello a1 a2 a3 s)).pending = s.pending := by
  simp [execHello]

@[simp] theorem State.resyncStep_pending (s : State) : (State.resyncStep s).pending = s.pending := by
  simp [State.resyncStep] <;> (repeat' split) <;> simp

@[simp] theorem State.floodAlias_pending (s : State) (a2 : _) : (State.floodAlias s a2).pending = s.pending := by
  simp [State.floodAlias]

@[simp] theorem State.enterPaired_pending (s : State) : (State.enterPaired s).pending = s.pending := by
  simp [State.enterPaired]

@[simp] theorem execResyncDone_pending (s : State) : (stateOf s (execResyncDone s)).pending = s.pending := by
  simp [execResyncDone]

@[simp] theorem State.sendBeat_pending (s : State) : (State.sendBeat s).pending = s.pending := by
  simp [State.sendBeat]

@[simp] theorem execBeatSend_pending (s : State) : (stateOf s (execBeatSend s)).pending = s.pending := by
  simp [execBeatSend]

@[simp] theorem execBeat_pending (s : State) (a1 : _) : (stateOf s (execBeat a1 s)).pending = s.pending := by
  simp [execBeat]

@[simp] theorem execPartnerBeatRead_pending (s : State) (a1 : _) : (stateOf s (execPartnerBeatRead a1 s)).pending = s.pending := by
  unfold execPartnerBeatRead
  split <;> simp

@[simp] theorem execBeatTimeout_pending (s : State) : (stateOf s (execBeatTimeout s)).pending = s.pending := by
  simp [execBeatTimeout]

@[simp] theorem execSelfFence_pending (s : State) : (stateOf s (execSelfFence s)).pending = s.pending := by
  simp [execSelfFence]

@[simp] theorem execFatalNotice_pending (s : State) : (stateOf s (execFatalNotice s)).pending = s.pending := by
  simp [execFatalNotice]

@[simp] theorem execFenceOff_pending (s : State) (a1 : _) : (stateOf s (execFenceOff a1 s)).pending = s.pending := by
  simp [execFenceOff]

@[simp] theorem execModuleFatal_pending (s : State) (a1 : _) : (stateOf s (execModuleFatal a1 s)).pending = s.pending := by
  simp [execModuleFatal]

@[simp] theorem execAdoptFabricAddress_pending (s : State) : (stateOf s (execAdoptFabricAddress s)).pending = s.pending := by
  simp [execAdoptFabricAddress]

@[simp] theorem State.setTwinJoint_pending (s : State) (a2 a3 : _) : (State.setTwinJoint s a2 a3).pending = s.pending := by
  simp [State.setTwinJoint]

@[simp] theorem State.swapTwin_pending (s : State) (a2 : _) : (State.swapTwin s a2).pending = s.pending := by
  simp [State.swapTwin]

@[simp] theorem State.replayRecord_pending (s : State) (a2 : _) : (State.replayRecord s a2).pending = s.pending := by
  simp [State.replayRecord]

@[simp] theorem State.resolveTwinJoint_pending (s : State) (a2 : _) : (State.resolveTwinJoint s a2).pending = s.pending := by
  simp [State.resolveTwinJoint]

@[simp] theorem execPartnerJointResolve_pending (s : State) : (stateOf s (execPartnerJointResolve s)).pending = s.pending := by
  simp [execPartnerJointResolve]

@[simp] theorem State.restoreObjects_pending (s : State) (a2 a3 : _) : (State.restoreObjects s a2 a3).pending = s.pending := by
  unfold State.restoreObjects
  dsimp only
  simp only [State.touched_pending, State.serveTallies_pending]
  rw [pending_foldl _ (by intro s a; split <;> simp), pending_foldl _ (by intro s a; split <;> simp),
    pending_foldl _ (by intro s a; split <;> simp)]

@[simp] theorem State.restoreStored_pending (s : State) (a2 a3 : _) : (State.restoreStored s a2 a3).pending = s.pending := by
  simp [State.restoreStored]

@[simp] theorem State.placeRing_pending (s : State) (a2 a3 : _) : (State.placeRing s a2 a3).pending = s.pending := by
  simp [State.placeRing]

@[simp] theorem State.adoptRing_pending (s : State) (a2 a3 : _) : (State.adoptRing s a2 a3).pending = s.pending := by
  simp [State.adoptRing] <;> (repeat' split) <;> simp

@[simp] theorem execRingAdoption_pending (s : State) (a1 : _) : (stateOf s (execRingAdoption a1 s)).pending = s.pending := by
  unfold execRingAdoption
  split <;> simp

@[simp] theorem State.storeRecord_pending (s : State) (a2 : _) : (State.storeRecord s a2).pending = s.pending := by
  simp [State.storeRecord]

@[simp] theorem State.finishTwinJoints_pending (s : State) : (State.finishTwinJoints s).pending = s.pending := by
  simp [State.finishTwinJoints]

@[simp] theorem execPrepare_pending (s : State) (a1 a2 a3 : _) : (stateOf s (execPrepare a1 a2 a3 s)).pending = s.pending := by
  simp [execPrepare]

@[simp] theorem execPrepareAck_pending (s : State) (a1 a2 : _) : (stateOf s (execPrepareAck a1 a2 s)).pending = s.pending := by
  simp [execPrepareAck]

@[simp] theorem execRecoveryRecord_pending (s : State) (a1 : _) : (stateOf s (execRecoveryRecord a1 s)).pending = s.pending := by
  simp [execRecoveryRecord]

@[simp] theorem State.answerTor_pending (s : State) (a2 : _) : (State.answerTor s a2).pending = s.pending := by
  unfold State.answerTor
  split <;> simp

@[simp] theorem execRecordAck_pending (s : State) (a1 : _) : (stateOf s (execRecordAck a1 s)).pending = s.pending := by
  unfold execRecordAck
  split <;> simp

theorem State.takeStream_pending (s : State) (a2 : _) (x y t : _) (h : State.takeStream s a2 = some (x, y, t)) : t.pending = s.pending := by
  unfold State.takeStream at h
  obtain ⟨l, _, hl⟩ := List.exists_of_findSome?_eq_some h
  split at hl
  · split at hl
    · simp at hl; obtain ⟨_, _, rfl⟩ := hl; simp
    · simp at hl
  · simp at hl

@[simp] theorem State.answerStream_pending (s : State) (a2 a3 : _) : (State.answerStream s a2 a3).pending = s.pending := by
  unfold State.answerStream
  split
  · rfl
  · rename_i h
    have := State.takeStream_pending _ _ _ _ _ h
    dsimp only
    split <;> simp [this]

@[simp] theorem State.shadowWrite_pending (s : State) (a2 a3 a4 : _) : (State.shadowWrite s a2 a3 a4).pending = s.pending := by
  simp [State.shadowWrite]

@[simp] theorem execStreamedWrite_pending (s : State) (a1 a2 a3 : _) : (stateOf s (execStreamedWrite a1 a2 a3 s)).pending = s.pending := by
  simp [execStreamedWrite]

@[simp] theorem execTallyLog_pending (s : State) (a1 a2 a3 a4 : _) : (stateOf s (execTallyLog a1 a2 a3 a4 s)).pending = s.pending := by
  simp [execTallyLog]

@[simp] theorem execTwinImageNotice_pending (s : State) (a1 a2 a3 : _) : (stateOf s (execTwinImageNotice a1 a2 a3 s)).pending = s.pending := by
  simp [execTwinImageNotice] <;> (repeat' split) <;> simp

@[simp] theorem State.spareCore_pending (s : State) (a2 : _) : (State.spareCore s a2).pending = s.pending := by
  simp [State.spareCore]

@[simp] theorem execCoreFaultCorrected_pending (s : State) (a1 : _) : (stateOf s (execCoreFaultCorrected a1 s)).pending = s.pending := by
  unfold execCoreFaultCorrected
  split <;> simp

@[simp] theorem State.goOn_pending (s : State) (a2 : _) : (State.goOn s a2).pending = s.pending := by
  simp [State.goOn]

@[simp] theorem execCoreSpare_pending (s : State) (a1 : _) : (stateOf s (execCoreSpare a1 s)).pending = s.pending := by
  unfold execCoreSpare
  split <;> simp

@[simp] theorem execCoreHardFault_pending (s : State) (a1 : _) : (stateOf s (execCoreHardFault a1 s)).pending = s.pending := by
  unfold execCoreHardFault
  split <;> simp

@[simp] theorem State.rollRing_pending (s : State) (a2 a3 : _) : (State.rollRing s a2 a3).pending = s.pending := by
  simp [State.rollRing]

@[simp] theorem State.endRollback_pending (s : State) (a2 a3 : _) : (State.endRollback s a2 a3).pending = s.pending := by
  simp [State.endRollback] <;> (repeat' split) <;> simp

@[simp] theorem execPartitionAbortDone_pending (s : State) (a1 : _) : (stateOf s (execPartitionAbortDone a1 s)).pending = s.pending := by
  unfold execPartitionAbortDone
  split <;> simp

@[simp] theorem State.clearRc_pending (s : State) (a2 a3 a4 : _) : (State.clearRc s a2 a3 a4).pending = s.pending := by
  simp [State.clearRc]

@[simp] theorem State.answerRead_pending (s : State) (a2 a3 : _) : (State.answerRead s a2 a3).pending = s.pending := by
  simp [State.answerRead]

@[simp] theorem State.readAt_pending (s : State) (a2 a3 a4 a5 : _) : (State.readAt s a2 a3 a4 a5).pending = s.pending := by
  simp [State.readAt] <;> (repeat' split) <;> simp

@[simp] theorem execRcFieldRead_pending (s : State) (a1 a2 a3 : _) : (stateOf s (execRcFieldRead a1 a2 a3 s)).pending = s.pending := by
  simp [execRcFieldRead] <;> (repeat' split) <;> simp

@[simp] theorem State.raiseRails_pending (s : State) : (State.raiseRails s).pending = s.pending := by
  simp [State.raiseRails]

@[simp] theorem State.powerDown_pending (s : State) : (s.powerDown).pending = s.pending := by
  unfold State.powerDown
  dsimp only
  (repeat' split) <;> simp
@[simp] theorem State.railLost_pending (s : State) : (s.railLost).pending = s.pending := by
  unfold State.railLost
  split <;> simp

@[simp] theorem execModEnRise_pending (s : State) : (stateOf s (execModEnRise s)).pending = s.pending := by
  simp [execModEnRise]

@[simp] theorem execModEnFall_pending (s : State) : (stateOf s (execModEnFall s)).pending = s.pending := by
  simp [execModEnFall]

@[simp] theorem execRailInRegulation_pending (s : State) (a1 : _) : (stateOf s (execRailInRegulation a1 s)).pending = s.pending := by
  simp [execRailInRegulation]

@[simp] theorem execRailFault_pending (s : State) (a1 : _) : (stateOf s (execRailFault a1 s)).pending = s.pending := by
  simp [execRailFault]

@[simp] theorem execInputRise_pending (s : State) : (stateOf s (execInputRise s)).pending = s.pending := by
  simp [execInputRise]

@[simp] theorem execBulkChargeDone_pending (s : State) : (stateOf s (execBulkChargeDone s)).pending = s.pending := by
  simp [execBulkChargeDone]

@[simp] theorem execInputOutOfRange_pending (s : State) : (stateOf s (execInputOutOfRange s)).pending = s.pending := by
  simp [execInputOutOfRange]

@[simp] theorem execModEnHoldoffEnd_pending (s : State) : (stateOf s (execModEnHoldoffEnd s)).pending = s.pending := by
  simp [execModEnHoldoffEnd]

@[simp] theorem execRootLock_pending (s : State) : (stateOf s (execRootLock s)).pending = s.pending := by
  simp [execRootLock]

@[simp] theorem execPllLoss_pending (s : State) : (stateOf s (execPllLoss s)).pending = s.pending := by
  simp [execPllLoss]

@[simp] theorem State.bootStat_pending (s : State) (a2 a3 a4 : _) : (State.bootStat s a2 a3 a4).pending = s.pending := by
  simp [State.bootStat]

@[simp] theorem State.bootError_pending (s : State) (a2 a3 : _) : (State.bootError s a2 a3).pending = s.pending := by
  simp [State.bootError]

@[simp] theorem execConfigSpaceReady_pending (s : State) : (stateOf s (execConfigSpaceReady s)).pending = s.pending := by
  simp [execConfigSpaceReady]

@[simp] theorem execPerstDeassert_pending (s : State) : (stateOf s (execPerstDeassert s)).pending = s.pending := by
  simp [execPerstDeassert]

@[simp] theorem State.bootLoad_pending (s : State) : (State.bootLoad s).pending = s.pending := by
  simp [State.bootLoad]

@[simp] theorem execBootGo_pending (s : State) (a1 : _) : (stateOf s (execBootGo a1 s)).pending = s.pending := by
  simp [execBootGo]

@[simp] theorem State.checkDelays_pending (s : State) (a2 a3 : _) : (State.checkDelays s a2 a3).pending = s.pending := by
  simp [State.checkDelays] <;> (repeat' split) <;> simp

@[simp] theorem State.bootFetched_pending (s : State) (a2 a3 : _) : (State.bootFetched s a2 a3).pending = s.pending := by
  simp [State.bootFetched] <;> (repeat' split) <;> simp

@[simp] theorem execBootFetchDone_pending (s : State) (a1 a2 : _) : (stateOf s (execBootFetchDone a1 a2 s)).pending = s.pending := by
  simp [execBootFetchDone]

@[simp] theorem State.bootChan_pending (s : State) (a2 : _) : (State.bootChan s a2).pending = s.pending := by
  simp [State.bootChan]

@[simp] theorem State.prepareMemory_pending (s : State) : (State.prepareMemory s).pending = s.pending := by
  simp [State.prepareMemory]

@[simp] theorem State.becomeReady_pending (s : State) : (State.becomeReady s).pending = s.pending := by
  rfl

@[simp] theorem execFwReady_pending (s : State) (a1 : _) : (stateOf s (execFwReady a1 s)).pending = s.pending := by
  unfold execFwReady
  split <;> simp

@[simp] theorem execFwStartTimeout_pending (s : State) (a1 : _) : (stateOf s (execFwStartTimeout a1 s)).pending = s.pending := by
  simp [execFwStartTimeout]

@[simp] theorem State.takeReadings_pending (s : State) (a2 : _) : (State.takeReadings s a2).pending = s.pending := by
  simp [State.takeReadings]

@[simp] theorem State.warn_pending (s : State) : (State.warn s).pending = s.pending := by
  simp [State.warn]

@[simp] theorem execThermalSample_pending (s : State) (a1 : _) : (stateOf s (execThermalSample a1 s)).pending = s.pending := by
  simp [execThermalSample]

@[simp] theorem State.chainOut_pending (s : State) (a2 : _) : (State.chainOut s a2).pending = s.pending := by
  simp [State.chainOut]

@[simp] theorem execEntdaa_pending (s : State) (a1 a2 : _) : (stateOf s (execEntdaa a1 a2 s)).pending = s.pending := by
  simp [execEntdaa]

@[simp] theorem execRstdaa_pending (s : State) : (stateOf s (execRstdaa s)).pending = s.pending := by
  simp [execRstdaa]

@[simp] theorem execSetnewda_pending (s : State) (a1 : _) : (stateOf s (execSetnewda a1 s)).pending = s.pending := by
  simp [execSetnewda]

@[simp] theorem State.answerI3c_pending (s : State) (a2 a3 : _) : (State.answerI3c s a2 a3).pending = s.pending := by
  simp [State.answerI3c]

@[simp] theorem execGetpid_pending (s : State) : (stateOf s (execGetpid s)).pending = s.pending := by
  simp [execGetpid]

@[simp] theorem execGetbcr_pending (s : State) : (stateOf s (execGetbcr s)).pending = s.pending := by
  simp [execGetbcr]

@[simp] theorem execGetdcr_pending (s : State) : (stateOf s (execGetdcr s)).pending = s.pending := by
  simp [execGetdcr]

@[simp] theorem execGetstatus_pending (s : State) : (stateOf s (execGetstatus s)).pending = s.pending := by
  simp [execGetstatus]

@[simp] theorem execGetmxds_pending (s : State) : (stateOf s (execGetmxds s)).pending = s.pending := by
  simp [execGetmxds]

@[simp] theorem execEnec_pending (s : State) (a1 : _) : (stateOf s (execEnec a1 s)).pending = s.pending := by
  simp [execEnec]

@[simp] theorem execDisec_pending (s : State) (a1 : _) : (stateOf s (execDisec a1 s)).pending = s.pending := by
  simp [execDisec]

@[simp] theorem execI3cPrivateWrite_pending (s : State) (a1 : _) : (stateOf s (execI3cPrivateWrite a1 s)).pending = s.pending := by
  simp [execI3cPrivateWrite]

@[simp] theorem execI3cPrivateRead_pending (s : State) (a1 : _) : (stateOf s (execI3cPrivateRead a1 s)).pending = s.pending := by
  simp [execI3cPrivateRead]

@[simp] theorem State.debugCtl_pending (s : State) (a2 a3 a4 a5 a6 : _) : (State.debugCtl s a2 a3 a4 a5 a6).pending = s.pending := by
  simp [State.debugCtl] <;> (repeat' split) <;> simp

@[simp] theorem State.request1_pending (s : State) (fn : FnId) (o l : Nat) (a : Acc) (v : Word) (r : State → Res)
    (h : ∀ t, (stateOf t (r t)).pending = t.pending) : (s.request1 fn o l a v r).pending = s.pending := by
  simp only [State.request1]
  split <;> simp [h]

theorem State.rowWrite_pending (s : State) (a2 a3 a4 a5 : _) (t : _) (h : State.rowWrite s a2 a3 a4 a5 = some t) : t.pending = s.pending := by
  revert h t
  unfold State.rowWrite
  dsimp only
  iterate 14 refine iteSome (fun t => t.pending = s.pending) _ _ _ (by simp) ?_
  intro t h
  cases h

theorem State.bitWrite_pending (s : State) (a2 a3 a4 a5 a6 : _) (t : _) (h : State.bitWrite s a2 a3 a4 a5 a6 = some t) : t.pending = s.pending := by
  unfold State.bitWrite at h
  dsimp only at h
  (repeat' split at h) <;> first | (cases h; simp; done) | cases h

@[simp] theorem State.setView_pending (s : State) (a2 a3 : _) : (State.setView s a2 a3).pending = s.pending := by
  simp [State.setView]

@[simp] theorem State.linkEnable_pending (s : State) (a2 a3 : _) : (State.linkEnable s a2 a3).pending = s.pending := by
  simp [State.linkEnable]

@[simp] theorem State.afterWrite_pending (s : State) (a2 a3 : _) : (State.afterWrite s a2 a3).pending = s.pending := by
  simp [State.afterWrite]

@[simp] theorem State.plainWrite_pending (s : State) (a2 a3 a4 a5 a6 a7 : _) : (State.plainWrite s a2 a3 a4 a5 a6 a7).pending = s.pending := by
  simp [State.plainWrite]

@[simp] theorem State.writeAt_pending (s : State) (a2 a3 a4 a5 a6 a7 : _) : (State.writeAt s a2 a3 a4 a5 a6 a7).pending = s.pending := by
  unfold State.writeAt
  split
  · simp
  · split
    · rename_i h; exact State.rowWrite_pending _ _ _ _ _ _ h
    · split
      · rename_i h
        have := State.bitWrite_pending _ _ _ _ _ _ _ h
        split <;> simp [this]
      · simp

@[simp] theorem State.writeBar0_pending (s : State) (a2 a3 a4 a5 a6 : _) : (State.writeBar0 s a2 a3 a4 a5 a6).pending = s.pending := by
  simp [State.writeBar0] <;> (repeat' split) <;> simp

@[simp] theorem execRegisterWrite_pending (s : State) (a1 a2 a3 a4 : _) : (stateOf s (execRegisterWrite a1 a2 a3 a4 s)).pending = s.pending := by
  simp [execRegisterWrite] <;> (repeat' split) <;> simp

@[simp] theorem State.countModes_pending (s : State) (a2 : _) : (State.countModes s a2).pending = s.pending := by
  simp [State.countModes]

@[simp] theorem State.tickPart_pending (s : State) (a2 : _) : (State.tickPart s a2).pending = s.pending := by
  simp [State.tickPart]

@[simp] theorem State.fabricTick_pending (s : State) : (State.fabricTick s).pending = s.pending := by
  unfold State.fabricTick
  dsimp only
  have h : ∀ (l : List Nat), (l.foldl (fun u n => if h : n < 32 then u.tickPart ⟨n, h⟩ else u) s).pending = s.pending :=
    fun l => pending_foldl _ (by intro s a; split <;> simp) l s
  split <;> simp [h]

@[simp] theorem State.tick_pending (s : State) : (State.tick s).pending = s.pending := by
  unfold State.tick
  split
  · rfl
  · dsimp only
    (repeat' split) <;> simp

end Sys2Proof.Machine
end

