-- ==== Sys2Proof/Laws/Registers.lean ====
section
/-! SUPPORT. Reading and writing fields of registers, and the fields of the registers that have commands of their own. -/

namespace Sys2Proof.Machine

/-! ### Fields of a word -/

theorem getBits_eq (w : Word) (hi lo : Nat) : getBits w hi lo = w.toNat / 2 ^ lo % 2 ^ (hi + 1 - lo) := by
  simp [getBits, bitsOf, Nat.shiftRight_eq_div_pow]

theorem getBits_lt (w : Word) (hi lo : Nat) : getBits w hi lo < 2 ^ (hi + 1 - lo) := by
  rw [getBits_eq]; exact Nat.mod_lt _ (by positivity)

theorem getBits_testBit (w : Word) (hi lo i : Nat) :
    (getBits w hi lo).testBit i = (decide (i < hi + 1 - lo) && w.getLsbD (lo + i)) := by
  rw [getBits, bitsOf, Nat.testBit_mod_two_pow, Nat.testBit_shiftRight, BitVec.testBit_toNat]

/-- A bit of a word after one of its fields has been written. -/
theorem setBits_getLsbD (w : Word) (hi lo v i : Nat) (hi64 : i < 64) :
    (setBits w hi lo v).getLsbD i =
      if lo ≤ i ∧ i ≤ hi then v.testBit (i - lo) else w.getLsbD i := by
  have hm : ((2 ^ (hi + 1 - lo) - 1) <<< lo).testBit i = decide (lo ≤ i ∧ i ≤ hi) := by
    rw [Nat.testBit_shiftLeft, Nat.testBit_two_pow_sub_one]
    by_cases h : lo ≤ i
    · simp [h]; omega
    · simp [h]
  unfold setBits
  simp only [BitVec.getLsbD_or, BitVec.getLsbD_and, BitVec.getLsbD_not, BitVec.getLsbD_ofNat, hm, hi64, Nat.testBit_and,
    Nat.testBit_mod_two_pow, Nat.testBit_shiftLeft]
  by_cases h : lo ≤ i ∧ i ≤ hi
  · simp [h]
  · simp [h]

/-- A field that has been written reads as the low bits of what was written. -/
theorem getBits_setBits_self (w : Word) (hi lo v : Nat) (h : hi < 64) :
    getBits (setBits w hi lo v) hi lo = v % 2 ^ (hi + 1 - lo) := by
  apply Nat.eq_of_testBit_eq
  intro i
  rw [getBits_testBit, Nat.testBit_mod_two_pow]
  by_cases hi' : i < hi + 1 - lo
  · rw [setBits_getLsbD _ _ _ _ _ (by omega), if_pos (by omega)]
    simp [hi']
  · simp [hi']

/-- A field apart from the one that has been written reads as before. -/
theorem getBits_setBits_apart (w : Word) (hi lo v a b : Nat) (h : a < 64) (d : a < lo ∨ hi < b) :
    getBits (setBits w hi lo v) a b = getBits w a b := by
  apply Nat.eq_of_testBit_eq
  intro i
  rw [getBits_testBit, getBits_testBit]
  by_cases hi' : i < a + 1 - b
  · rw [setBits_getLsbD _ _ _ _ _ (by omega), if_neg (by omega)]
  · simp [hi']

variable (s : State)

theorem State.fld_lt (o hi lo : Nat) : s.fld o hi lo < 2 ^ (hi + 1 - lo) := getBits_lt _ _ _

theorem State.fld_setFld_self (o hi lo v : Nat) (h : hi < 64) :
    (s.setFld o hi lo v).fld o hi lo = v % 2 ^ (hi + 1 - lo) := by
  simp [State.fld, State.setFld, getBits_setBits_self _ _ _ _ h]

theorem State.fld_setFld_apart (o hi lo v a b : Nat) (h : a < 64) (d : a < lo ∨ hi < b) :
    (s.setFld o hi lo v).fld o a b = s.fld o a b := by
  simp [State.fld, State.setFld, getBits_setBits_apart _ _ _ _ _ _ h d]

theorem State.fld_setFld_other (o hi lo v p a b : Nat) (h : p ≠ o) : (s.setFld o hi lo v).fld p a b = s.fld p a b := by
  simp [State.fld, State.setFld, h]

@[simp] theorem State.reg_setFld (o hi lo v p : Nat) :
    (s.setFld o hi lo v).reg p = if p = o then setBits (s.reg o) hi lo v else s.reg p := by
  simp [State.setFld]

/-! ### The register at an offset -/

/-- The last offset of a register or of an array of registers. -/
def RegSpec.last (r : RegSpec) : Nat := r.base + r.s1 * (r.n1 - 1) + r.s2 * (r.n2 - 1)

/-- The offsets of a register lie between its base and its last offset. -/
theorem RegSpec.holds_range (r : RegSpec) (o : Nat) (h : r.holds o = true) : r.base ≤ o ∧ o ≤ r.last := by
  unfold RegSpec.holds at h
  simp only [Bool.and_eq_true, decide_eq_true_eq] at h
  obtain ⟨⟨⟨h1, h2⟩, h3⟩, h4⟩ := h
  refine ⟨h1, ?_⟩
  have e1 := Nat.div_add_mod (o - r.base) r.s1
  have e2 := Nat.div_add_mod ((o - r.base) % r.s1) r.s2
  have l1 : r.s1 * ((o - r.base) / r.s1) ≤ r.s1 * (r.n1 - 1) := Nat.mul_le_mul_left _ (by omega)
  have l2 : r.s2 * ((o - r.base) % r.s1 / r.s2) ≤ r.s2 * (r.n2 - 1) := Nat.mul_le_mul_left _ (by omega)
  unfold RegSpec.last
  omega

/-- An offset outside a register's range is not one of its offsets. -/
theorem RegSpec.not_holds (r : RegSpec) (o : Nat) (h : o < r.base ∨ r.last < o) : ¬ r.holds o = true := by
  intro x
  have := r.holds_range o x
  omega

/-- No register of a list holds an offset outside the list's range. -/
theorem find_outside (g : List RegSpec) (lo hi o : Nat) (hg : g.all (fun r => decide (lo ≤ r.base) && decide (r.last ≤ hi)) = true)
    (ho : o < lo ∨ hi < o) : g.find? (fun r => r.holds o) = none := by
  rw [List.find?_eq_none]
  intro r hr h
  have a := RegSpec.holds_range r o h
  have b := List.all_eq_true.mp hg r hr
  simp only [Bool.and_eq_true, decide_eq_true_eq] at b
  omega

theorem regAt_eq (o : Nat) (h1 : 0x130 < o) (h2 : o < 0x10000 ∨ 0x20030 < o) :
    regAt o = (regsRings ++ regsPartitions ++ regsChannels ++ regsFabric ++ regsSync ++ regsDebug ++ regsLogs).find?
      (fun r => r.holds o) := by
  simp only [regAt, regSpecs, List.append_assoc]
  rw [List.find?_append, find_outside regsIdentity 0 0x130 o (by decide) (by omega), Option.none_or,
    List.find?_append, find_outside regsClockBoot 0x10000 0x20030 o (by decide) (by omega), Option.none_or]

/-- The registers of a channel's block. -/
theorem regAt_channel (n : ChanId) (k : Nat) (hk : k < 0x1000) :
    regAt (oCH n k) = regsChannels.find? (fun r => r.holds (oCH n k)) := by
  have := n.isLt
  rw [regAt_eq _ (by unfold oCH; omega) (by unfold oCH; omega)]
  simp only [List.append_assoc]
  rw [List.find?_append, find_outside regsRings 0x100000 0x17FFF8 _ (by decide) (by unfold oCH; omega), Option.none_or,
    List.find?_append, find_outside regsPartitions 0x180000 0x18FFF8 _ (by decide) (by unfold oCH; omega), Option.none_or,
    List.find?_append, List.find?_append, find_outside regsFabric 0x300000 0x45FFFF _ (by decide) (by unfold oCH; omega), Option.none_or,
    List.find?_append, find_outside regsSync 0x500000 0x5F1FFF _ (by decide) (by unfold oCH; omega), Option.none_or,
    List.find?_append, find_outside regsDebug 0x580000 0x59FFFF _ (by decide) (by unfold oCH; omega), Option.none_or,
    find_outside regsLogs 0x600000 0x7FFFFF _ (by decide) (by unfold oCH; omega), Option.or_none]

theorem fieldsAt_CH_CTL (n : ChanId) : fieldsAt (oCH_CTL n) = [rw 0 0, rw 1 1] := by
  have := n.isLt
  unfold fieldsAt
  rw [show oCH_CTL n = oCH n 0 from rfl, regAt_channel n 0 (by omega)]
  unfold regsChannels
  rw [List.find?_cons_of_pos (by simp [RegSpec.holds, oCH])]

theorem fieldsAt_ELOG_PTR (n : ChanId) : fieldsAt (oELOG_PTR n) = [rw 6 0, ro 14 8, rc 31 16] := by
  have := n.isLt
  unfold fieldsAt
  rw [show oELOG_PTR n = oCH n 0x68 from rfl, regAt_channel n _ (by omega)]
  unfold regsChannels
  repeat (rw [List.find?_cons_of_neg (by simp [RegSpec.holds, oCH]; omega)])
  rw [List.find?_cons_of_pos (by simp [RegSpec.holds, oCH])]

/-- The registers of the ring table. -/
theorem regAt_ring (r : RingId) (k : Nat) (hk : k < 64) :
    regAt (oRT r k) = regsRings.find? (fun x => x.holds (oRT r k)) := by
  have := r.isLt
  rw [regAt_eq _ (by unfold oRT; omega) (by unfold oRT; omega)]
  simp only [List.append_assoc]
  rw [List.find?_append, List.find?_append,
    find_outside regsPartitions 0x180000 0x18FFF8 _ (by decide) (by unfold oRT; omega), Option.none_or,
    List.find?_append, find_outside regsChannels 0x200000 0x2FFFFF _ (by decide) (by unfold oRT; omega), Option.none_or,
    List.find?_append, find_outside regsFabric 0x300000 0x45FFFF _ (by decide) (by unfold oRT; omega), Option.none_or,
    List.find?_append, find_outside regsSync 0x500000 0x5F1FFF _ (by decide) (by unfold oRT; omega), Option.none_or,
    List.find?_append, find_outside regsDebug 0x580000 0x59FFFF _ (by decide) (by unfold oRT; omega), Option.none_or,
    find_outside regsLogs 0x600000 0x7FFFFF _ (by decide) (by unfold oRT; omega), Option.or_none]

theorem fieldsAt_RT_CTL (r : RingId) : fieldsAt (oRT_CTL r) = [rw 0 0, rw 1 1, rw 3 2, ro 12 8, rw 23 16, rw 34 24] := by
  have := r.isLt
  unfold fieldsAt
  rw [show oRT_CTL r = oRT r 0 from rfl, regAt_ring r 0 (by omega)]
  unfold regsRings
  rw [List.find?_cons_of_pos (by simp [RegSpec.holds, oRT])]

/-- The registers of the synchronisation objects and the watchmen, but for the core debug blocks between them. -/
theorem regAt_sync (o : Nat) (h : 0x500000 ≤ o ∧ o < 0x580000 ∨ 0x5A0000 ≤ o ∧ o < 0x600000) :
    regAt o = regsSync.find? (fun x => x.holds o) := by
  rw [regAt_eq _ (by omega) (by omega)]
  simp only [List.append_assoc]
  rw [List.find?_append, find_outside regsRings 0x100000 0x17FFF8 _ (by decide) (by omega), Option.none_or,
    List.find?_append, find_outside regsPartitions 0x180000 0x18FFF8 _ (by decide) (by omega), Option.none_or,
    List.find?_append, find_outside regsChannels 0x200000 0x2FFFFF _ (by decide) (by omega), Option.none_or,
    List.find?_append, find_outside regsFabric 0x300000 0x45FFFF _ (by decide) (by omega), Option.none_or,
    List.find?_append, List.find?_append, find_outside regsDebug 0x580000 0x59FFFF _ (by decide) (by omega), Option.none_or,
    find_outside regsLogs 0x600000 0x7FFFFF _ (by decide) (by omega), Option.or_none]

theorem fieldsAt_PEG (p : BitVec 16) :
    fieldsAt (oPEG p.toNat) = [rw 15 0, w1c 16 16, w1c 17 17, ro 27 18, wo 62 62] := by
  have := p.isLt
  unfold fieldsAt
  rw [regAt_sync _ (by unfold oPEG; omega)]
  unfold regsSync
  rw [List.find?_cons_of_pos (by simp [RegSpec.holds, oPEG]; omega)]

theorem fieldsAt_TALLY_VAL (t : BitVec 14) : fieldsAt (oTALLY_VAL t.toNat) = [rw 63 0] := by
  have := t.isLt
  unfold fieldsAt
  rw [regAt_sync _ (by unfold oTALLY_VAL; omega)]
  unfold regsSync
  rw [List.find?_cons_of_neg (by unfold RegSpec.holds oTALLY_VAL; simp only [Bool.and_eq_true, decide_eq_true_eq]; omega)]
  rw [List.find?_cons_of_pos (by unfold RegSpec.holds oTALLY_VAL; simp only [Bool.and_eq_true, decide_eq_true_eq]; omega)]

theorem fieldsAt_BELL (b : BitVec 12) :
    fieldsAt (oBELL b.toNat) = [rw 12 0, rw 25 13, rw 41 26, ro 51 42, wo 62 62] := by
  have := b.isLt
  unfold fieldsAt
  rw [regAt_sync _ (by unfold oBELL; omega)]
  unfold regsSync
  rw [List.find?_cons_of_neg (by apply RegSpec.not_holds; simp only [RegSpec.last, oBELL]; omega)]
  rw [List.find?_cons_of_neg (by apply RegSpec.not_holds; simp only [RegSpec.last, oBELL]; omega)]
  rw [List.find?_cons_of_neg (by apply RegSpec.not_holds; simp only [RegSpec.last, oBELL]; omega)]
  rw [List.find?_cons_of_pos (by unfold RegSpec.holds oBELL; simp only [Bool.and_eq_true, decide_eq_true_eq]; omega)]

theorem fieldsAt_WM_CTL (q : PartId) : fieldsAt (oWM_CTL q.val) = [rw 0 0 1, rw 1 1] := by
  have := q.isLt
  unfold fieldsAt
  rw [regAt_sync _ (by unfold oWM_CTL oWM; omega)]
  unfold regsSync
  repeat (rw [List.find?_cons_of_neg (by simp [RegSpec.holds, oWM_CTL, oWM]; omega)])
  rw [List.find?_cons_of_pos (by simp [RegSpec.holds, oWM_CTL, oWM])]

theorem fieldsAt_FB_CTL : fieldsAt oFB_CTL = [rw 0 0] := by rfl
theorem fieldsAt_TW_CTL : fieldsAt oTW_CTL = [rw 0 0, rw 15 4] := by rfl
theorem fieldsAt_HC_CTL : fieldsAt oHC_CTL = [rw 2 0] := by rfl
theorem fieldsAt_PWR_CAP : fieldsAt oPWR_CAP = [rw 11 0 2500] := by rfl
theorem fieldsAt_NUDGE : fieldsAt oNUDGE = [wo 12 0] := by rfl
theorem fieldsAt_BAR2_MAP : fieldsAt oBAR2_MAP = [rw 40 36] := by rfl

end Sys2Proof.Machine
end

