-- ==== Sys2Proof/Tests/Slice0.lean ====
section
/-! SUPPORT. Tests: ill-formed commands are refused by the check; for each statement of the certificates that has
hypotheses a state and operands that meet them together; small concrete steps. Expected values are worked out by hand
from the rules named. -/

namespace Sys2Proof.Tests

open Sys2Proof Sys2Proof.Machine

-- One theorem after the other: each `decide +kernel` waits for the kernel, and a waiting theorem holds a thread.
set_option Elab.async false

/-! ### WellFormed: an ill-formed command for each check -/

theorem test_wf_nativeSkip : Instr.wf (.nativeSkip 0 16) = false := by decide

def hdr : CmdHdr := { unit := 0, mode := 0, tag := 0, takePeg := 0, takeEn := false, postPeg := 0, postEn := false }
def three : List Word := [0, 0, 0]
def seven : List Word := [0, 0, 0, 0, 0, 0, 0]

theorem test_wf_operands :
    (∀ i ∈ [Instr.beamMm 0 hdr three, .beamLoad 0 hdr seven, .beamAcc 0 hdr [], .planeAdd 0 hdr seven, .planeSub 0 hdr [],
      .planeMul 0 hdr [], .planeFma 0 hdr [], .planeMax 0 hdr [], .planeMin 0 hdr [], .planeAbs 0 hdr [], .planeNeg 0 hdr [],
      .planeCvt 0 hdr [], .planeExp 0 hdr [], .planeLog 0 hdr [], .planeRecip 0 hdr [], .planeRsqrt 0 hdr [],
      .planeTanh 0 hdr [], .planeSigmoid 0 hdr [], .planeRsum 0 hdr [], .planeRmax 0 hdr [], .planeOsm 0 hdr [],
      .planeLsemerge 0 hdr [0], .cartCopy 0 hdr seven, .cartGather 0 hdr three, .cartScatter 0 hdr three,
      .grindJob 0 hdr three], Instr.wf i = false) := by decide

theorem test_wf_lengths :
    (∀ i ∈ [Instr.pld 0 0 [1], .qwr 0 0 0 false 0 [], .frameReceive 0 [0], .streamedWrite 1 0 []], Instr.wf i = false) := by decide

theorem test_wf_samples :
    Instr.wf (.titheSlot 0 [] []) = false ∧ Instr.wf (.selfRefreshExit 0 [(1, 1)]) = false ∧
    Instr.wf (.descriptorFetch [{ ring := 0, slots := [[0]] }]) = false ∧
    Instr.wf (.thermalSample { dieTemps := [0], stackTemps := [], power := 0, vin := 0 }) = false := by decide

theorem test_refused : exec (.nativeSkip 0 16) State.reset = .refused (.illFormed "NATIVE_SKIP") := by rfl

/-! ### Small states -/

/-- A module that is READY: partition 0 has cores 0 and 1, rings 0 and 1, sixteen pegs, tallies and bells, 128 MiB of memory,
contexts 0 and 1. -/
def regs0 : Tab Word :=
  [(65536, 1), (131080, 4), (1048576, 1), (1048584, 64), (1048592, 6400), (1048600, 16), (1048640, 65537), (1048648, 64000),
    (1048656, 70400), (1048664, 16), (1572864, 8589960192), (1572872, 131072), (1572880, 1048576), (1572888, 1048576),
    (1572896, 1048576), (1573120, 140737488355328), (1573376, 256), (1573632, 256), (1573656, 1048576), (1573664, 257),
    (1573688, 10485760)]

def live : State := {
  power := { locked := true, perst := false, ltssm := true, configReady := true }, regs := regs0
  tables := regs0.filter (fun e => decide (1048576 ≤ e.1)) }

/-- A register word takes another value. -/
def put (o : Nat) (w : Word) (s : State) : State := { s with regs := tabSet regReset o w s.regs }
/-- A word of the ring table or the partition table takes another value. -/
def tab (o : Nat) (w : Word) (s : State) : State := { put o w s with tables := tabSet regReset o w s.tables }

def kp : Core := { run := .running, pc := 64, s := [(1, 0x28), (2, 0x400000), (3, 3)], cmp := 2 }
def onCore (c : Nat) (k : Core) : State := { live with cores := [(c, k)] }
/-- Peg, tally and bell 1 of context 0 are the objects 1 of the module. -/
def objects : State := { onCore 0 kp with syncTables := [(0, [(4, 0x10001), (0x4004, 0x4001), (0x5004, 0x1001)])] }

/-! ### Witnesses: hypotheses that can be met together -/

theorem witness_stepRunsFront : ({ live with pending := [.nop 0] } : State).pending = .nop 0 :: [] := by rfl

theorem witness_idleTicks : live.pending = [] ∧ live.bit oCLK_STAT 0 = true ∧ live.failed = false ∧
    State.reset.pending = [] ∧ State.reset.bit oCLK_STAT 0 = false ∧
    ({ live with failed := true } : State).failed = true := by decide +kernel

theorem witness_wellFormedCommandsComplete : Instr.wf (.nop 0) = true ∧ Instr.wf (.nativeSkip 0 16) = false ∧
    ∃ t, exec (.nop 0) live = .next t := ⟨by decide, by decide, _, rfl⟩

theorem witness_deadModuleDoesNothing :
    let s := { live with failed := true }
    s.alive = false ∧ Instr.wf (.nop 0) = true ∧ actsAlways (.nop 0) = false := by decide

theorem witness_failedUntilPowerDown : ({ live with failed := true } : State).failed = true ∧
    ∃ t, exec (.nop 0) { live with failed := true } = .next t := ⟨rfl, _, rfl⟩

theorem witness_commandsWithoutStores : mayStore (.nop 0) = false ∧ ∃ t, exec (.nop 0) (onCore 0 kp) = .next t :=
  ⟨rfl, _, rfl⟩

theorem witness_stepKeepsMemoryWellFormed : memWf live = true ∧ ∃ t, step { live with pending := [.nop 0] } = .next t :=
  ⟨by decide, _, rfl⟩

theorem witness_scalarResults : Issues (onCore 0 kp) 0 := by unfold Issues; decide

theorem witness_branches : Issues (onCore 0 kp) 0 ∧ kp.lcreg 0 = 0 := by unfold Issues; decide

theorem witness_countersFlagsAndEnds :
    Issues (onCore 2 kp) 2 ∧ kp.launch = none ∧ (onCore 2 kp).partOfCore 2 = none ∧ (onCore 2 kp).codeLen 2 ≤ 64 := by
  unfold Issues; decide +kernel

/-- ld and st: the last aligned address of the bench, one that is not aligned, the first beyond the bench. -/
theorem witness_benchAccess :
    (let s := onCore 0 { kp with s := [(1, 0x3FFFF8)] }
     let a := ((s.core 0).sreg 1 + (0 : BitVec 32).signExtend 64).toNat
     Issues s 0 ∧ a < 4194304 ∧ a % 8 = 0 ∧ (s.core 0).hasSlot 11 a = true ∧ (s.core 0).stepping = false) ∧
    (let slots : Tab Word := [(31, 11 * 2 ^ 60)]
     let s := onCore 0 { kp with s := [(1, 0x3FFFF8)], stepping := true, stop := some .debugHalt, rota := slots }
     Issues s 0 ∧ (s.core 0).hasSlot 11 0x3FFFF8 = true ∧ (s.core 0).stepping = true ∧ (s.core 0).slotAt s.calendar (benchBank 0x3FFFF8) ≠ pKp) ∧
    (let s := onCore 2 kp
     Issues s 2 ∧ (s.core 2).launch = none ∧ s.partOfCore 2 = none ∧
     ((s.core 2).sreg 1 + (1 : BitVec 32).signExtend 64).toNat % 8 ≠ 0 ∧
     4194304 ≤ ((s.core 2).sreg 2 + (0 : BitVec 32).signExtend 64).toNat) := by
  unfold Issues; decide +kernel

theorem witness_rotaStaging :
    Issues (onCore 0 kp) 0 ∧ reservedSlots (kp.sreg 0) = false ∧ (onCore 0 kp).alive = true ∧ live.calendar = 0 ∧
    ({ live with cycles := 5 } : State).calendar ≠ 0 ∧ (∀ c n, ((live.core c).engOf (cartUnit n)).phase ≠ .running) ∧
    ((onCore 0 { kp with pendingRota := some [] }).core 0).pendingRota = some [] := by
  unfold Issues; decide +kernel

/-- A post and a take on a peg whose count is 0, a dec, a take that the count covers. -/
theorem witness_pegs :
    (let s := objects
     Issues s 0 ∧ s.partOf 0 = some 0 ∧ s.pegRef 0 (s.core 0).ctx 1 = some 1 ∧ (s.core 0).stepping = false ∧
     (s.peg 1).waiters = [] ∧ (s.peg 1).count.toNat < (1 : BitVec 16).toNat) ∧
    (let s := { objects with pegs := [(1, { count := 65535 })] }
     Issues s 0 ∧ s.partOf 0 = some 0 ∧ s.pegRef 0 (s.core 0).ctx 1 = some 1 ∧ (s.peg 1).waiters = [] ∧
     65535 < (s.peg 1).count.toNat + (1 : BitVec 16).toNat ∧ (1 : BitVec 16).toNat ≤ (s.peg 1).count.toNat) := by
  unfold Issues; decide +kernel

theorem witness_tallies :
    let s := { objects with tallies := [(1, { value := 3 })] }
    Issues s 0 ∧ s.partOf 0 = some 0 ∧ s.tallyRef 0 (s.core 0).ctx 1 = some (.local_ 1) ∧ (s.core 0).stepping = false ∧
    (∀ e ∈ s.tallies, e.2.waiters = []) ∧ ((s.core 0).sreg 3).toNat ≤ (s.tally 1).value.toNat ∧
    (s.tally 1).value.toNat < ((s.core 0).sreg 1).toNat ∧ (s.tally 1).consEn = false := by
  unfold Issues; decide +kernel

theorem witness_advancePastDepth :
    let s := { objects with tallies := [(1, { depth := 2, consEn := true, cons := 2 })] }
    let g := s.tally 1
    let value := g.value + (s.core 0).sreg 3
    Issues s 0 ∧ s.partOf 0 = some 0 ∧ s.tallyRef 0 (s.core 0).ctx 1 = some (.local_ 1) ∧
    (∀ e ∈ s.tallies, e.2.waiters = []) ∧ g.consEn = true ∧ g.depth ≠ 0 ∧
    (g.depth.toNat : Int) < (value - (if g.cons.toNat = 1 then value else (s.tally g.cons.toNat).value)).toInt := by
  unfold Issues; decide +kernel

/-- The first participant and the last; a kingpost that a stop finds waiting. -/
theorem witness_bellsAndWithdrawal :
    (let s := objects
     Issues s 0 ∧ s.partOf 0 = some 0 ∧ s.bellRef 0 (s.core 0).ctx 1 = some 1 ∧ (s.core 0).stepping = false ∧
     (s.core 0).arrived = none ∧ (s.bell 1).count = 0 ∧ (s.bell 1).arrived = 0 ∧ (s.bell 1).waiters = []) ∧
    (let s := { objects with bells := [(1, { count := 4096, arrived := 4095 })] }
     Issues s 0 ∧ s.partOf 0 = some 0 ∧ s.bellRef 0 (s.core 0).ctx 1 = some 1 ∧
     (s.bell 1).count.toNat = (4096 : BitVec 16).toNat ∧ (s.bell 1).arrived + 1 = (s.bell 1).count ∧ (s.bell 1).waiters = []) ∧
    (let w : SyncWait := { kind := .pegTake, id := 1, phys := 1, need := 1, rd := 0, gen := 0, satisfied := false, value := 0, txn := none }
     let s : State := { onCore 0 { kp with wait := some w, stopReq := some .preempt } with
       pegs := [(1, { waiters := [{ who := .kingpost 0, kind := .pegTake, need := 1 }] })] }
     s.alive = true ∧ (s.core 0).stopReq = some .preempt ∧ (s.core 0).wait = some w ∧
     (∀ u ∈ allUnits, (s.core 0).engOf u = {}) ∧ (s.peg w.phys.toNat).waiters.map Waiter.who = [.kingpost 0]) := by
  unfold Issues; decide +kernel

/-- Queues with room for each unit; a full plane queue. -/
theorem witness_pushes :
    (let s := onCore 0 kp
     Issues s 0 ∧ three.length = 3 ∧ seven.length = 7 ∧ (∀ u ∈ allUnits, (s.core 0).full u = false) ∧
     (s.core 0).reservedValues 0x80 seven = [] ∧ (s.core 0).reservedValues 0x90 three = []) ∧
    (let x : Cmd := { opc := 0x90, h := hdr, w := three }
     let s := onCore 0 (kp.setQueue .plane0 (List.replicate 32 x))
     Issues s 0 ∧ (s.core 0).full (planeUnit (unitOf hdr)) = true ∧ (s.core 0).stepping = false) ∧
    (let t := onCore 0 { kp with stalled := some { opc := 0x90, h := hdr, w := three } }
     t.alive = true ∧ kp.full (planeUnit (unitOf hdr)) = false ∧ kp.stop = none) := by
  unfold Issues; decide +kernel

/-- A plane add of 64 FP32 elements at 0, 256 and 512. -/
def addCmd : Cmd := { opc := 0x90, h := hdr, w := [256 * 2 ^ 22, 512, 64] }
def copyCmd : Cmd := { opc := 0xC0, h := hdr, w := [0, 0, 64] }
def badCmd : Cmd := { opc := 0x90, h := hdr, w := [0, 0, 64 + 15 * 2 ^ 32] }
def atHead (u : EngineUnit) (x : Cmd) (ph : EngPhase) : State := onCore 2 ((kp.setQueue u [x]).setEng u { phase := ph })

theorem witness_commandsStart :
    (let s := atHead .plane0 addCmd .idle
     s.alive = true ∧ (s.core 2).queueOf .plane0 = addCmd :: [] ∧ ((s.core 2).engOf .plane0).phase = .idle ∧
     ((s.core 2).engOf .plane0).stopped = false ∧ (s.core 2).stop = none ∧ s.badPegs 2 addCmd = false ∧
     addCmd.h.takeEn = false) ∧
    (let x := { addCmd with h := { hdr with takeEn := true, takePeg := 1 } }
     let s := { objects with cores := [(0, kp.setQueue .plane0 [x])] }
     (s.core 0).queueOf .plane0 = x :: [] ∧ ((s.core 0).engOf .plane0).phase = .idle ∧ s.badPegs 0 x = false ∧
     s.corePeg 0 x.h.takePeg = some 1 ∧ (s.peg 1).waiters = [] ∧ (s.peg 1).count = 0 ∧
     (({ s with pegs := [(1, { count := 1 })] } : State).peg 1).count ≠ 0) ∧
    (let s := atHead .plane0 addCmd .ready
     ((s.core 2).engOf .plane0).phase = .ready ∧ (s.core 2).stop = none ∧ checkCmd (s.core 2) .plane0 addCmd = none) ∧
    (let s := atHead .plane0 badCmd .ready
     (s.core 2).launch = none ∧ s.partOfCore 2 = none ∧ badCmd.h.postEn = false ∧
     (checkCmd (s.core 2) .plane0 badCmd).isSome = true) ∧
    (let s := atHead .cart0 copyCmd .ready
     s.alive = true ∧ (s.core 2).queueOf (cartUnit 0) = copyCmd :: [] ∧ ((s.core 2).engOf (cartUnit 0)).phase = .ready ∧
     checkCart (s.core 2) 0 copyCmd = none) := by
  decide +kernel

def running (u : EngineUnit) (e : Eng) (k : Core := kp) : State := onCore 0 (k.setEng u e)

theorem witness_commandsFinish :
    (let s := running .plane0 { phase := .running, cmd := some addCmd }
     let e := (s.core 0).engOf .plane0
     s.alive = true ∧ flagEngine .plane0 = some 1 ∧ e.cmd = some addCmd ∧ e.phase = .running ∧ e.stopped = false ∧
     e.early = none ∧ e.limit = none ∧ addCmd.h.postEn = false ∧ (s.runOut 0 .plane0 addCmd).stop = none) ∧
    (let s := running .cart0 { phase := .running, cmd := some copyCmd, done := 1 }
     let e := (s.core 0).engOf (cartUnit 0)
     s.alive = true ∧ e.cmd = some copyCmd ∧ e.phase = .running ∧ e.stopped = false ∧ e.cartDone = true ∧ e.early = none) := by
  decide +kernel

theorem witness_enginesStopAndResume :
    (let s := onCore 0 { kp with stop := some .preempt }
     s.alive = true ∧ (s.core 0).stop = some .preempt ∧ ((s.core 0).engOf .beam).stopped = false ∧
     ((s.core 0).engOf .beam).cmd = none) ∧
    (onCore 0 { kp with stop := some .abort }).alive = true ∧
    (let x := { addCmd with w := [8192 * 2 ^ 22, 16384, 2048] }
     let s := running .plane0 { phase := .running, cmd := some x, limit := some 1 } { kp with stop := some .preempt }
     let e := (s.core 0).engOf .plane0
     e.cmd = some x ∧ e.early = none ∧ e.limit = some 1 ∧ laterStop (s.core 0) .plane0 x 1 0 < unitsOfCmd (s.core 0) .plane0 x ∧
     (workOf (s.core 0) .plane0 x s.coreCycle s.duty 1).stop = none) ∧
    live.dutyCount = 0 ∧ ({ live with cycles := 5 } : State).dutyCount ≠ 0 ∧
    (let s := running .plane1 { stopped := true }
     s.alive = true ∧ (s.core 0).stop = none ∧ ((s.core 0).engOf .plane1).stopped = true) := by
  decide +kernel

def req (id : Nat) (kind : MemKind) (addr len : Nat) (data : List Byte) : MemReq :=
  { id := id, src := 0, tag := 0, part := some 0, addr := addr, kind := kind, len := len, data := data }
def resp (id : Nat) (st : BitVec 16) (data : List Byte) : MemResp := { req := req id .read 0 64 [], status := st, data := data }

theorem witness_instructionFetch :
    (let s := onCore 0 kp
     Issues s 0 ∧ (s.core 0).cached 5 = false ∧ (s.core 0).fills = [] ∧ (s.core 0).stepping = false) ∧
    (let s := { onCore 0 { kp with fills := [(5, [7, 8])] } with responses := [resp 7 0 [1], resp 8 0 [2]] }
     s.alive = true ∧ ((s.readyFill 0).map (fun x => (x.1, x.2.1))) = some (5, [resp 7 0 [1], resp 8 0 [2]])) ∧
    (let s := { onCore 0 { kp with fills := [(5, [7, 8])] } with responses := [resp 7 0 [1], resp 8 0x101 []] }
     ((s.readyFill 0).map (fun x => x.2.1)) = some [resp 7 0 [1], resp 8 0x101 []] ∧
     [resp 7 0 [1], resp 8 0x101 []].find? (fun r => decide (r.status ≠ 0)) = some (resp 8 0x101 [])) ∧
    (let s := onCore 2 { kp with needLine := some 5, badLines := [(5, 0x101)] }
     s.alive = true ∧ (s.core 2).launch = none ∧ s.partOfCore 2 = none ∧ (s.core 2).run = .running ∧
     (s.core 2).needLine = some 5 ∧ (s.core 2).badLines.find? (fun b => b.1 == 5) = some (5, 0x101)) := by
  unfold Issues; decide +kernel

def key0 : ImageKey := { va := 0, crc := 1 }
def wait0 : LoadWait := { part := 0, ctx := 0, key := key0, ring := none }
def image0 : Image :=
  { key := { va := 0, crc := 2 }, entry := 0, codeLen := 8, nativeBase := 0, nativeSize := 8, malformed := false, lastUse := 0 }
def launch0 : Launch := { ring := 0, seq := 16, tag := 1, part := 0, ctx := 0, cores := [0], key := image0.key }
/-- An image in memory, at address 0 of context 0: four tables and one page. -/
def inMemory : State := { tab (oPT_ROOT 0 0) 0x10000 live with
  mem := [(0x10000, 1), (0x10002, 2), (0x20000, 1), (0x20002, 3), (0x30000, 1), (0x30002, 4), (0x40000, 3), (0x40002, 5),
    (0x50000, 0x50), (0x50001, 0x56), (0x50002, 0x49), (0x50003, 0x31), (0x50004, 1), (0x50008, 8)]
  loadQueue := [wait0] }
def inMemoryOn : State := [0x10000, 0x20000, 0x30000, 0x40000, 0x50000, 0x50040].foldl
  (fun s a => put (oCH_STAT (chanOf a)) 1 (put (oCH_CTL (chanOf a)) 1 s)) inMemory

theorem witness_launchesAndImages :
    (let s := { onCore 0 { kp with run := .ended, launch := some { ring := 0, seq := 16, tag := 1 } } with launches := [launch0] }
     s.alive = true ∧ s.launches.find? (fun l => decide (l.ring = 0) && decide (l.seq = 16)) = some launch0 ∧
     s.alive = true ∧ launch0.cancelled = false ∧ s.belongs launch0 0 = true ∧ s.launchIn launch0 = false ∧
     (let t := { s with parts := [(0, { running := some 0 })] }
      t.launchIn launch0 = true ∧ t.launchOver launch0 = true)) ∧
    (let s := { live with parts := [(0, { images := [image0] })], launches := [launch0], loadQueue := [wait0] }
     s.loadJob = none ∧ s.loadQueue = wait0 :: [] ∧ wait0.parked = false ∧ s.mustPark wait0 = true ∧ s.stalls = []) ∧
    (let s := { live with parts := [(0, { images := [{ image0 with key := key0 }] })], loadQueue := [wait0] }
     s.mustPark wait0 = false ∧ s.isLoaded wait0 = true) ∧
    (let s0 := { inMemory with loadQueue := [] }
     inMemory.mustPark wait0 = false ∧ inMemory.isLoaded wait0 = false ∧ (s0.takeImage wait0).stalls = [] ∧
     (s0.readVa (s0.launchReads 0 0 (wait0.desc s0)) 0 64).2.1 ≠ 0) ∧
    (let s0 := { inMemoryOn with loadQueue := [] }
     let x := s0.launchReads 0 0 (wait0.desc s0)
     let h := s0.readVa x 0 64
     (s0.takeImage wait0).stalls = [] ∧ h.2.1 = 0 ∧ (h.2.2.drop 24).any (fun b => b != 0) = false ∧ badHeader h.2.2 = false ∧
     h.1.isLoaded { wait0 with key := { key0 with crc := BitVec.ofNat 32 (fieldLe h.2.2 12 4) } } = false ∧
     (h.1.readVa x 64 (fieldLe h.2.2 8 4)).2.1 = 0) ∧
    (let s := [0x10000, 0x20000, 0x30000, 0x40000, 0x50000, 0x50040].foldl (fun s a => put (oCH_STAT (chanOf a)) 2 s) inMemoryOn
     s.nextImage.stalls ≠ []) := by
  decide +kernel

/-- A translation that ends: refused, set aside, and one whose partition's native code area lies in its memory. -/
theorem witness_translationEnds :
    (let j : LoadJob := { wait := wait0, code := List.replicate 8 0, entry := 0, refused := none }
     let s := { live with loadJob := some j }
     s.alive = true ∧ s.loadJob = some j ∧ ({ j with refused := some 0x16 } : LoadJob).refused = some 0x16 ∧
     ({ s with loadJob := none } : State).mustPark wait0 = false ∧
     ({ live with parts := [(0, { images := [image0] })], launches := [launch0] } : State).mustPark wait0 = true) ∧
    (let s := tab (oPT_NCA 0) (2 ^ 41) live
     s.inRanges 0 (s.ncaBase 0) (s.ncaSize 0) = true) ∧
    (let s := tab (oPT_NCA 0) (2 ^ 41 + 2 ^ 40) live
     s.inRanges 0 (s.ncaBase 0) (s.ncaSize 0) = false) ∧
    live.alive = true ∧ live.imageAt 0 0 = none ∧
    live.stalls = [] := by
  decide +kernel

def gchan (c : Chan) : State := { live with chans := [(32, c)] }

theorem witness_granaryModes :
    (let s := gchan {}
     s.alive = true ∧ (0 : BitVec 16).getLsbD 0 = procBit (s.gchan 0).mode ∧ (1 : BitVec 16).getLsbD 0 = true ∧
     (s.gchan 0).openBanks = [] ∧ (s.gchan 0).queue = [] ∧ (s.grindingIn 0).length < 24 ∧ s.bit (oQPROG_STAT (granChan 0)) 0 = false) ∧
    ((gchan { queue := [req 1 .read 0 64 []] }).gchan 0).queue ≠ [] ∧
    (let s := gchan { openBanks := [1] }
     procBit (s.gchan 0).mode = false ∧ (s.gchan 0).openBanks ≠ []) ∧
    (let s := gchan { mode := .processor }
     procBit (s.gchan 0).mode = true ∧ s.running 0 = [] ∧ ({ s with querns := [(quernKey 0 0, { status := 1 })] } : State).running 0 ≠ []) ∧
    ((gchan { mode := .toProcessor, viol := true }).gchan 0).mode = .toProcessor ∧
    ((gchan { mode := .toProcessor, viol := true }).gchan 0).viol = true ∧
    ((gchan { mode := .toMemory }).gchan 0).mode = .toMemory ∧
    (let s := gchan { actWait := [(3, 0), (5, 0), (1, 1)] }
     let due := (s.gchan 0).actWait.filter (fun x => decide (x.2 ≤ s.cycles / 20))
     due.find? (fun y => y.1 == 3) = some (3, 0) ∧ (∀ y ∈ due, 3 ≤ y.1) ∧
     ((s.gchan 0).actGrants.filter (fun t => decide (s.cycles / 20 < t + 16))).length < 8) ∧
    ((gchan {}).gchan 0).actWait = [] ∧
    (let s := gchan { actWait := [(3, 0)], actGrants := List.replicate 8 0 }
     8 ≤ ((s.gchan 0).actGrants.filter (fun t => decide (s.cycles / 20 < t + 16))).length) := by
  decide +kernel

theorem witness_quernStores :
    (gchan {}).alive = true ∧ (List.replicate 64 (0 : Byte)).length = 64 ∧ ((gchan {}).gchan 0).mode = .memory ∧
    ((gchan { mode := .processor }).gchan 0).mode ≠ .memory ∧ (gchan {}).power.configReady = true ∧ (gchan {}).ready = true ∧
    asGran (granChan 0) = some 0 ∧ (gchan {}).bit (oQPROG_STAT (granChan 0)) 0 = false := by
  decide +kernel

/-- A quern in RUN at the first instruction of the store, which is `w`. -/
def quern (w : BitVec 32) (q : Quern) : State :=
  { live with chans := [(32, { mode := .processor, store := [(0, w)] })], querns := [(quernKey 0 0, { q with status := 1 })] }
def idleQuerns : State := gchan { mode := .processor }

theorem witness_quernLines :
    idleQuerns.alive = true ∧ (List.replicate 64 (7 : Byte)).length = 64 ∧ (idleQuerns.gchan 0).mode = .processor ∧
    (∀ r : Fin 16, (idleQuerns.quern 0 r).running = false) ∧ ((quern 0 {}).quern 0 0).running = true := by
  decide +kernel

theorem witness_quernsStartAndStop :
    idleQuerns.alive = true ∧ (idleQuerns.gchan 0).mode = .processor ∧
    (∀ p : Fin 16, (idleQuerns.gchan 0).gqmask.getLsbD p.val = true → (idleQuerns.quern 0 p).running = false) ∧
    (let s := quern 0 {}
     s.alive = true ∧ (s.gchan 0).mode = .processor ∧ (s.gchan 0).gqmask.getLsbD 0 = true ∧
     (s.quern 0 0).running = true ∧ s.running 0 ≠ []) := by
  decide +kernel

theorem witness_quernStatusWords : idleQuerns.alive = true ∧ (idleQuerns.gchan 0).mode = .processor := by decide +kernel

/-- One word for each opcode of R172 that the statement names; nblk with entries left and with none. -/
theorem witness_quernControl :
    (∀ op ∈ [0x05, 0x06, 0x07, 0x08, 0x09, 0x0A], let s := quern (BitVec.ofNat 32 (op * 2 ^ 26)) {}
      s.alive = true ∧ s.qRuns 0 0 = true ∧ qOp (s.qWord 0 0) = op ∧ qD (s.qWord 0 0) = 0 ∧ qA (s.qWord 0 0) = 0 ∧
      qB (s.qWord 0 0) = 0 ∧ s.qWord 0 0 % 2 ^ 18 = 0) ∧
    (∀ op ∈ [0x00, 0x01, 0x02, 0x03, 0x04, 0x0D], let s := quern (BitVec.ofNat 32 (op * 2 ^ 26)) {}
      s.qRuns 0 0 = true ∧ qOp (s.qWord 0 0) = op ∧ qA (s.qWord 0 0) = 0 ∧ s.qWord 0 0 % 256 = 0 ∧ (s.quern 0 0).nb ≤ 0) ∧
    (let q := (quern 0x34000000 { cmdArea := [(8, 1)] }).quern 0 0
     q.btp.toNat < q.nb) ∧
    (let s := quern 0xFC000000 {}
     s.qRuns 0 0 = true ∧ s.qWord 0 0 = (0xFC000000 : BitVec 32).toNat ∧ qDefined (qOp (0xFC000000 : BitVec 32).toNat) = false) ∧
    (let s := quern 0 { past := true }
     (s.gchan 0).mode = .processor ∧ (s.quern 0 0).status = 1 ∧ (s.quern 0 0).past = true) := by
  decide +kernel

/-- The last word of local storage, an address that is not aligned, the first beyond it. -/
theorem witness_quernLocalStorage :
    (∀ op ∈ [0x0B, 0x0C, 0x10], let s := quern (BitVec.ofNat 32 (op * 2 ^ 26)) { g := [(0, 0x1FFC)] }
      s.alive = true ∧ s.qRuns 0 0 = true ∧ qOp (s.qWord 0 0) = op ∧ qA (s.qWord 0 0) = 0 ∧ qD (s.qWord 0 0) = 0 ∧
      qB (s.qWord 0 0) = 0 ∧ s.qWord 0 0 % 2 ^ 14 = 0 ∧ ((s.quern 0 0).reg 0 + (0 : BitVec 14).signExtend 32).toNat % 4 = 0 ∧
      ((s.quern 0 0).reg 0 + (0 : BitVec 14).signExtend 32).toNat < 0x2000 ∧ (s.quern 0 0).qn ≤ 8) ∧
    (((quern 0 { g := [(0, 1)] }).quern 0 0).reg 0 + (0 : BitVec 14).signExtend 32).toNat % 4 ≠ 0 ∧
    0x2000 ≤ (((quern 0 { g := [(0, 0x2000)] }).quern 0 0).reg 0 + (0 : BitVec 14).signExtend 32).toNat := by
  decide +kernel

theorem witness_quernStreams :
    (∀ op ∈ [0x11, 0x12, 0x13, 0x14], let s := quern (BitVec.ofNat 32 (op * 2 ^ 26)) { bn := 32, cmdArea := [(0, 8)] }
      s.alive = true ∧ s.qRuns 0 0 = true ∧ qOp (s.qWord 0 0) = op ∧ qA (s.qWord 0 0) = 0 ∧ qB (s.qWord 0 0) = 0 ∧
      bitsOf (s.qWord 0 0) 10 8 = 0 ∧ bitOf (s.qWord 0 0) 11 = false ∧ (s.quern 0 0).qn ≤ 8 ∧
      ((s.quern 0 0).reg 0).toNat + (s.quern 0 0).rc * (s.quern 0 0).halfRows false ≤ 1572864 ∧
      (∀ i, i < (s.quern 0 0).rc * (s.quern 0 0).halfRows false → s.errorsIn (pairLineAddr 0 0 (0 + i) / 64) = 0)) ∧
    (let s := quern 0x54040000 { g := [(1, 1572862)] }
     s.qRuns 0 0 = true ∧ qOp (s.qWord 0 0) = 0x15 ∧ qA (s.qWord 0 0) = 1 ∧ qB (s.qWord 0 0) = 0 ∧
     ((s.quern 0 0).reg 1).toNat + (s.quern 0 0).rc ≤ 1572864 ∧ ((s.quern 0 0).reg 0).toNat + (s.quern 0 0).rc ≤ ((s.quern 0 0).reg 1).toNat) := by
  decide +kernel

/-- One block of one token in bank pair 0 of channel 0, one query. -/
def grindCmd : Cmd := { opc := 0xD0, h := hdr, w := [4, 2 ^ 44, 4096, 1, 0, 0, 0] }
def grindOn : State := tab (oPT_GRAN 0 0) 0xFFFFFFFF (put (oQPROG_STAT (granChan 0)) 2 (atHead .grind grindCmd .ready))
def job0 : GrindJob := mkJob 0 kp grindCmd none

theorem witness_grindJobs :
    (let s := { grindOn with cores := [(0, (kp.setQueue .grind [grindCmd]).setEng .grind { phase := .ready })] }
     s.alive = true ∧ grindCmd.h.postEn = false ∧ (s.core 0).queueOf .grind = grindCmd :: [] ∧
     ((s.core 0).engOf .grind).phase = .ready ∧ ((s.core 0).engOf .grind).stopped = false ∧ (s.core 0).stop = none ∧
     (s.checkGrind 0 (s.partOf 0) grindCmd).1 = none ∧ s.queueOfGranary 0 = []) ∧
    ((grindOn.core 2).queueOf .grind = grindCmd :: [] ∧ (grindOn.checkGrind 2 (grindOn.partOf 2) grindCmd).1.isSome = true) ∧
    (let s := { live with admission := [(0, [job0])] }
     s.alive = true ∧ s.queueOfGranary 0 = job0 :: [] ∧ job0.granary = 0 ∧ s.mayAdmit job0 = true ∧
     s.unserved (job0.drain.getD (s.toDrain job0)) = [] ∧
     (let t := { s with chans := [(32, { queue := [req 1 .read 2048 64 []] })] }
      t.mayAdmit job0 = true ∧ t.unserved (job0.drain.getD (t.toDrain job0)) ≠ []) ∧
     ({ s with chans := [(32, { mode := .toMemory })] } : State).mayAdmit job0 = false) ∧
    (let j := { job0 with phase := .admitted }
     let s := { idleQuerns with jobs := [j] }
     s.jobOf 0 = some j ∧ j.phase = .admitted ∧ (∀ n ∈ j.chans, (s.gchan (asChan n)).mode = .processor) ∧ j.chans.Nodup ∧
     ∀ n ∈ j.chans, n < 128) ∧
    (let j := { job0 with phase := .running }
     let s := { idleQuerns with jobs := [j], querns := [(quernKey 0 0, { status := 2 })], cores := [(0, kp)] }
     s.jobOf 0 = some j ∧ j.core = 0 ∧ j.phase = .running ∧ j.desc = none ∧ j.cmd.h.postEn = false ∧
     s.queueOfGranary j.granary = [] ∧ (∀ b ∈ j.allQuerns, (s.quern (asChan b.1) b.2).running = false) ∧
     (∀ b ∈ j.allQuerns, (s.quern (asChan b.1) b.2).status = 2) ∧ (s.core 0).rangeSlots pGrind 4096 528 = true ∧
     ∃ b ∈ j.allQuerns, (({ s with querns := [] } : State).quern (asChan b.1) b.2).status ≠ 2) := by
  decide +kernel


def onPart (q : Part) (s : State := live) : State := { s with parts := [(0, q)] }

theorem witness_watchmanAndObjects :
    (let s := put (oWM_QUIET 0) 65536 (onPart { running := some 0 })
     s.alive = true ∧ s.fld (oWM_QUIET 0) 16 0 = 65536 ∧ s.bit (oWM_CTL 0) 0 = true ∧ (s.part 0).running.isSome = true ∧
     (s.part 0).halted = false) ∧
    (let s := onPart { snapshot := some [natLe 64 0, natLe 32 0] }
     (s.part 0).snapshot = some (natLe 64 0 :: [natLe 32 0]) ∧ s.snapBase 0 = 0 ∧ [natLe 32 0].length ≤ 896) ∧
    (live.power.configReady = true ∧ live.ready = true ∧ (3 : Word).toNat < 4 ∧
     live.forceOk (live.pegOwner 1) = false ∧ live.forceOk (live.tallyOwner 1) = false ∧
     live.forceOk (live.bellOwner 1) = false ∧ (0 : Word).getLsbD 62 = false) ∧
    (let s := onPart { halted := true }
     let v : Word := 0x4000000000001000
     v.getLsbD 62 = true ∧ (∀ e ∈ s.tallies, e.2.waiters = []) ∧ (s.peg 15).waiters = [] ∧ (s.bell 15).waiters = [] ∧
     s.forceOk (s.pegOwner 15) = true ∧ s.forceOk (s.tallyOwner 15) = true ∧ s.forceOk (s.bellOwner 15) = true ∧
     getBits v 25 13 < getBits v 12 0 ∧ getBits (v + 0x2000000) 12 0 ≤ getBits (v + 0x2000000) 25 13) := by
  decide +kernel

/-- A channel that is enabled and active. -/
def channel (n : ChanId) (c : Chan) (s : State := live) : State :=
  { put (oCH_STAT n) 1 (put (oCH_CTL n) 1 s) with chans := [(n.val, c)] }
def flying (id : Nat) (a : CartAcc) : Core := kp.setEng .cart0 { phase := .running, cmd := some copyCmd, flying := [(id, a)], done := 1 }
def acc0 (toDram : Bool) : CartAcc := { va := 0, bench := 0, len := 64, toDram := toDram, zero := false, ends := 1 }

theorem witness_requestsAreServed :
    (let r := req 1 .read (2 ^ 47) 64 []
     ({ live with inFlight := [r] } : State).inFlight.find? (fun x => decide (x.src = 0)) = some r ∧ addrHole r.addr = true) ∧
    (let r := req 1 .read 0 64 []
     let s := { channel 0 {} with inFlight := [r] }
     s.alive = true ∧ s.inFlight.find? (fun x => decide (x.src = 0)) = some r ∧ addrHole r.addr = false ∧
     live.chEnabled (chanOf r.addr) = false ∧ s.chEnabled (chanOf r.addr) = true ∧ s.hasEntry (chanOf r.addr) r = true ∧
     s.pstate (chanOf r.addr) = 1 ∧
     (channel 0 { queue := List.replicate 128 r }).hasEntry (chanOf r.addr) r = false) ∧
    (∀ r ∈ [req 1 .read 0 64 [], req 1 .write 60 4 [1, 2, 3, 4]],
     let s := { channel 0 { queue := [r] } with cores := [(0, flying 1 (acc0 false))] }
     s.alive = true ∧ s.pstate 0 = 1 ∧ (0 : Fin 64).val = s.cycles / 8 % 64 ∧ (1 : Fin 64).val ≠ s.cycles / 8 % 64 ∧
     (s.chan 0).mode = .memory ∧ (s.chan 0).lastCmd ≠ some (s.cycles / 8) ∧ s.pickReq 0 = some r ∧ s.errorsIn (r.addr / 64) = 0 ∧
     r.mask = none ∧ r.len ≤ 64 - r.addr % 64 ∧ r.data.length = (if r.kind = .write then r.len else 0) ∧
     s.hcWaiting r.id = none ∧ s.serving = [] ∧ s.claimed r.id = true) := by
  decide +kernel

theorem witness_linesAreProtected :
    (let r := req 1 .read 0 64 []
     let s := fun (n : Nat) => { live with lineErr := [(0, n)] }
     r.kind = .read ∧ r.len ≤ 64 - r.addr % 64 ∧ chanOf (64 * (r.addr / 64)) = 0 ∧
     ((s 1).errorsIn 0 = 1 ∧ (s 2).errorsIn 0 = 2 ∧ (s 3).errorsIn 0 = 3 ∧ (s 6).errorsIn 0 = 6)) ∧
    (let s := channel 32 { copies := [{ bank := 0, row := none }] }
     s.alive = true ∧ (s.chan 32).copies = { bank := 0, row := none } :: [] ∧ s.lineErr = [] ∧ (32 : ChanId).val / 32 % 2 = 1) ∧
    (let s := channel 0 { queue := [req 1 .read 0 64 []] }
     (s.chan 0).queue ≠ [] ∧ s.drainOf 0 = none) ∧
    (let s := { gchan { queue := [req 1 .read 2048 64 []] } with admission := [(0, [{ job0 with drain := some [1] }])] }
     s.drainOf 32 = some [1] ∧ s.pickReq 32 = some (req 1 .read 2048 64 [])) := by
  decide +kernel

theorem witness_channelUpkeep :
    (let s := channel 0 {}
     s.alive = true ∧ s.pstate 0 = 1 ∧ s.bit (oCH_CTL 0) 1 = false ∧ (s.chan 0).queue = [] ∧ (s.chan 0).mode = .memory ∧
     (put (oCH_STAT 0) 3 s).pstate 0 = 3 ∧ s.lineErr = [] ∧ (s.chan 0).copies = [] ∧ s.power.configReady = true ∧
     s.ready = true ∧ live.chEnabled 0 = false ∧ s.chEnabled 0 = true ∧ (127 : Word).toNat < 128) ∧
    (let s := channel 0 { queue := [req 1 .read 0 64 []] }
     (s.chan 0).queue ≠ [] ∧ (s.chan 0).deferrals < 16 ∧ (s.chan 0).mode ≠ .processor) ∧
    ((channel 0 { mode := .toMemory }).chan 0).queue = [] ∧
    16 ≤ ((channel 0 { queue := [req 1 .read 0 64 []], deferrals := 16 }).chan 0).deferrals := by
  decide +kernel

theorem witness_stopsAndDebug :
    (let s := onPart { running := some 0 } (onCore 0 { kp with haltReq := true })
     s.alive = true ∧ s.nextStop 0 .preempt = false ∧ s.nextStop 0 .debugHalt = true ∧ (s.core 0).wait = none ∧
     (∀ u ∈ allUnits, ((s.core 0).engOf u).phase = .idle ∧ ((s.core 0).engOf u).stopped = false)) ∧
    (onPart { abort := some .register } (onCore 0 kp)).wantsStop 0 .abort = true ∧
    (let w : SyncWait := { kind := .pegTake, id := 1, phys := 1, need := 1, rd := 0, gen := 0, satisfied := false, value := 0, txn := none }
     let s := onPart { running := some 0 } (onCore 0 { kp with haltReq := true, wait := some w })
     s.nextStop 0 .debugHalt = true ∧ (s.core 0).wait.isSome = true) ∧
    (let s := onPart { running := some 0 } (onCore 0 kp)
     s.power.configReady = true ∧ s.ready = true ∧ s.partOfCore 0 = some 0 ∧ (s.part 0).running.isSome = true) ∧
    (let s := onCore 0 { kp with stop := some .debugHalt, eng := (allUnits.zipIdx.map (fun u => (u.2, { stopped := true }))) }
     (s.core 0).run = .running ∧ ((allUnits.foldl (fun k u => k.setEng u { stopped := true }) (s.core 0)).halted = true)) := by
  decide +kernel

/-- A slot of 64 bytes. -/
def slot (l : Tab Byte) : List Byte := (List.range 64).map (fun i => tabGet zeroByte i l)
def desc0 (l : Tab Byte) (stage : Stage) (ring : RingId := 0) : Desc := { ring := ring, seq := 16, bytes := slot l, stage := stage }
def withDesc (d : Desc) (s : State := live) : State := onPart { running := some 0, descs := [d] } s

/-- Ring 1 belongs to context 1: its LAUNCH waits while context 0 is in. -/
def waiting (q : Part) : State := tab (oRT_CTL 1) (0x10001) { live with parts := [(0, { q with descs := [desc0 [(0, 4), (26, 1)] .fetched 1] })] }

theorem witness_contextsAndAborts :
    (let s := waiting { running := some 0 }
     s.alive = true ∧ (s.part 0).maySwitch = true ∧ s.nextCtx 0 = some 1 ∧ (s.part 0).running = some 0 ∧ s.ctxBusy 0 0 = false) ∧
    (let s := waiting {}
     (s.part 0).maySwitch = true ∧ s.nextCtx 0 = some 1 ∧ (s.part 0).running = none) ∧
    (onPart { running := some 0 }).nextCtx 0 = none ∧
    (let k : Core := allUnits.foldl (fun k u => k.setEng u { stopped := true }) { kp with stop := some .preempt }
     let s := { onPart { running := some 0, switch := some { phase := .stopping, target := 1 } } with cores := [(0, k), (1, k)] }
     (s.part 0).switch = some { phase := .stopping, target := 1 } ∧ (s.part 0).halted = false ∧
     (∀ d ∈ s.coreList 0, (s.core d).preempted = true) ∧
     (let t := tab (oPT_CTL 0) 0 s
      t.coreList 0 = [] ∧ (t.part 0).switch = (s.part 0).switch ∧ (t.saveDone 0 0).stalls = [])) ∧
    (let s := onPart { switch := some { phase := .restoring, target := 1 } }
     (s.part 0).switch = some { phase := .restoring, target := 1 } ∧ (s.ctxIn 0 1).stalls = []) ∧
    ((live.part 0).joints = [] ∧ live.power.configReady = true ∧ live.ready = true ∧ (live.part 0).abort = none ∧
     (live.part 0).closing = false ∧ live.hostCarts = []) ∧
    ((onPart { closing := true }).part 0).closing = true ∧ ((onPart { abort := some (.rollback 0) }).part 0).abort = some (.rollback 0) ∧
    (let l : HostLine := { fn := partFn 0, addr := 0, bytes := [], vector := none, desc := none, covered := true, closes := true }
     let s := { onPart { closing := true } with
       hostLines := [l], hostReads := [{ id := 3, addr := 0, len := 0, purpose := .flushing (partFn 0) }] }
     s.alive = true ∧ s.held = false ∧ (s.part 0).closing = true ∧ s.descs 0 = [] ∧ s.hostLines = [l] ∧
     s.hostReads.any (fun r => decide (r.purpose = .flushing (partFn 0))) = true) ∧
    (let s := onPart { abort := some .register }
     (s.part 0).abort = some .register ∧ s.abortReady 0 = false) ∧
    (let k : Core := allUnits.foldl (fun k u => k.setEng u { stopped := true }) { kp with stop := some .abort }
     let s := tab (oPT_RINGS 0) 0 { onPart { abort := some .register } with cores := [(0, k), (1, k)] }
     s.abortReady 0 = true ∧ s.ringsOf 0 = [] ∧ s.descs 0 = [] ∧ (s.part 0).running = none ∧ s.keeps 0 = true) := by
  decide +kernel

def walk0 : Walk := { id := 1, level := 3, entry := 0x10000, va := 0, write := false, ctx := 0 }
def walker (data : List Byte) : State :=
  { onCore 0 (kp.setEng .cart0 { phase := .running, cmd := some copyCmd, walk := some walk0 }) with responses := [resp 1 0 data] }

theorem witness_cartsAndWalks :
    (let s := walker (natLe 8 0x20001)
     s.alive = true ∧ ((s.core 0).engOf (cartUnit 0)).walk = some walk0 ∧ s.partOf 0 = some 0 ∧
     s.responses.find? (fun r => r.req.id == walk0.id) = some (resp 1 0 (natLe 8 0x20001)) ∧
     eReserved (BitVec.ofNat 64 (leNat (natLe 8 0x20001))) = false ∧ ((s.core 0).engOf (cartUnit 0)).early = none ∧
     (match s.walkOn 0 walk0 (resp 1 0 (natLe 8 0x20001)) with | .read w => w.level == 2 | _ => false) = true ∧
     (match s.walkOn 0 walk0 (resp 1 0 (natLe 8 0)) with | .fail _ _ => true | _ => false) = true ∧
     (match s.walkOn 0 { walk0 with level := 0 } (resp 1 0 (natLe 8 0x50003)) with | .leaf _ => true | _ => false) = true) ∧
    live.hostCarts = [] ∧ live.cores = [] ∧
    (∀ b ∈ [false, true], let s := { onCore 0 (flying 1 (acc0 b)) with responses := [resp 1 0 (natLe 64 5)] }
     let e := (s.core 0).engOf (cartUnit 0)
     e.cmd = some copyCmd ∧ (cartJob copyCmd).rows ≤ e.done ∧ e.todo = [] ∧ e.flying = [(1, acc0 b)] ∧ e.early = none ∧
     (acc0 b).zero = false ∧ s.responses.find? (fun r => r.req.id == 1) = some (resp 1 0 (natLe 64 5)) ∧
     (s.core 0).rangeSlots (cartPort 0) 0 64 = true ∧ (natLe 64 5).length = 64) := by
  decide +kernel

def jointed (opc : Byte) (x : Joint) (acted : Bool := false) : State :=
  onPart { descs := [{ desc0 [(0, opc), (1, 4), (3, 1)] .started with acted := acted }], joints := [(1, x)] }

theorem witness_joints :
    (∀ opc ∈ [0x0B, 0x0C, 0x0D], ∀ st ∈ [JointState.free, .open_, .committing, .aborted],
     let s := jointed opc { st := st, openTag := 1 }
     let d := desc0 [(0, opc), (1, 4), (3, 1)] .started
     s.alive = true ∧ s.descOf 0 16 = some (0, d) ∧ s.opTurn 0 d = true ∧ d.acted = false ∧ s.membersOf 0 d.jid = [] ∧
     (∀ x ∈ s.descs 0, x.wantsJoint = false ∨ x.resolved = true) ∧ d.opc = opc.toNat ∧ d.jid = 1 ∧ (s.joint 0 1).st = st) ∧
    (let s := jointed 0x0C { st := .committing, commit := some (0, 16) } true
     (s.joint 0 1).commit = some (0, 16) ∧ (s.desc 0 16).isSome = true ∧ (s.joint 0 1).st = .committing ∧
     s.commitReady 0 1 = true ∧ (s.commitOn 0 1 (0, 16)).stalls = [] ∧ s.membersOf 0 1 = [] ∧ (s.joint 0 1).dirty = [] ∧
     (s.joint 0 1).log = []) ∧
    ((jointed 0x0D { st := .open_ }).joint 0 1).commit = none := by
  decide +kernel

/-- A commit with a member that still runs, and one with a member that failed. -/
theorem witness_jointMembers :
    let m := fun (st : Stage) (code : BitVec 16) => { desc0 [(0, 1), (1, 4), (3, 1)] st with seq := 15, member := true, resolved := true, status := code }
    let s := fun (d : Desc) => onPart { descs := [d, { desc0 [(0, 0x0C), (1, 4), (3, 1)] .started with acted := true }],
                                        joints := [(1, { st := .committing, commit := some (0, 16) })] }
    (s (m .running 0)).commitReady 0 1 = false ∧ (s (m .completed 0x0101)).commitReady 0 1 = true ∧
    (s (m .completed 0x0101)).withheld 0 1 = [m .completed 0x0101] ∧ (m .completed 0x0101).status ≠ 0 := by
  decide +kernel

def page0 : DirtyPage := { leafAt := 0x40000, page := 0x50000, shadow := 0x60000, mirrored := false }
def write0 (j : Nat) : JointWrite := { joint := j, req := req 1 .write 0x50000 64 (natLe 64 1), leafAt := 0x40000, entry := 0x5000B }
def writing (j : Nat) (x : Joint) : State :=
  put (oJT_POOL 0) (0x60000 + 2) (onPart { joints := [(1, x)], jointWrites := [write0 j] })

theorem witness_jointPages :
    (let s := channel (chanOf 0x40000) {}
     page0.leafAt % 8 = 0 ∧ addrHole page0.leafAt = false ∧ s.chEnabled (chanOf page0.leafAt) = true ∧ s.errorsIn (page0.leafAt / 64) = 0) ∧
    ((writing 0 {}).alive = true ∧ ((writing 0 {}).part 0).jointWrites = write0 0 :: [] ∧ ((writing 0 {}).part 0).shadowWait = none ∧
     ((writing 1 {}).joint 0 1).st = .free ∧ ((writing 1 { st := .aborted }).joint 0 1).st = .aborted) ∧
    (((writing 1 { st := .open_, dirty := [page0] }).joint 0 1).dirty.find? (fun d => d.leafAt == (write0 1).leafAt) = some page0) ∧
    (let s := writing 1 { st := .open_ }
     (s.joint 0 1).st = .open_ ∧ (s.joint 0 1).dirty = [] ∧ s.otherWriter 0 1 0x40000 = none ∧ s.freePages 0 ≠ [] ∧
     s.isClass0 0 = false ∧ ∀ a ∈ s.freePages 0, s.inRanges 0 a 65536 = true) ∧
    (let s := onPart { joints := [(1, { st := .open_, dirty := [page0] })], shadowWait := some (write0 1) }
     (s.part 0).shadowWait = some (write0 1) ∧ (s.joint 0 1).dirty.find? (fun d => d.leafAt == 0x40000) = some page0) ∧
    memWf live = true ∧ live.lineErr = [] := by
  decide +kernel

/-- A pool whose page an access still reaches, a page that another joint holds, a leaf whose channel is in self-refresh, a copy. -/
theorem witness_jointConflicts :
    (let s := writing 1 { st := .open_ }
     (∃ a ∈ s.freePages 0, s.pageBusy a 65536 = false) ∧
     (let t := { s with inFlight := (s.freePages 0).map (fun a => req 9 .write a 64 []) }
      ∀ a ∈ t.freePages 0, (t.modPart 0 (fun q => { q with jointWrites := [] })).pageBusy a 65536 = true)) ∧
    (writing 1 {}).alive = true ∧ (onPart { joints := [(1, { st := .open_ })], jointWrites := [write0 1] }).freePages 0 = [] ∧
    (let s := onPart { joints := [(1, { st := .open_ }), (2, { st := .open_, dirty := [page0] })], jointWrites := [write0 1] }
     s.otherWriter 0 1 0x40000 = some 2 ∧ (s.joint 0 1).st = .open_ ∧ (s.joint 0 2).st = .open_) ∧
    (let s := put (oCH_STAT (chanOf 0x40000)) 2 (put (oCH_CTL (chanOf 0x40000)) 1
       (jointed 0x0C { st := .committing, commit := some (0, 16), dirty := [page0] } true))
     s.commitReady 0 1 = true ∧ (s.commitOn 0 1 (0, 16)).stalls ≠ []) ∧
    (let s := channel (chanOf 0x40000) {}
     s.stalls = [] ∧ (State.swapPage 0 s page0).stalls = []) ∧
    (let s := onPart { joints := [(1, { st := .open_, dirty := [page0] })], shadowWait := some (write0 1) }
     let t := s.modPart 0 (fun q => { q with shadowWait := none })
     s.stalls = [] ∧ (s.joint 0 1).aborting = false ∧
     (let u := (List.range 64).foldl (fun s i => put (oCH_STAT (chanOf (0x50000 + 2048 * i))) 1 (put (oCH_CTL (chanOf (0x50000 + 2048 * i))) 1 s)) t
      u.reachPage 0x50000 = (u, 0) ∧ u.reachPage 0x60000 = (u, 0))) ∧
    ((onPart { joints := [(1, { st := .aborted, aborting := true, dirty := [page0] })] }).joint 0 1).aborting = true := by
  decide +kernel

theorem witness_windowsAndFlushes :
    (live.alive = true ∧ live.power.configReady = true ∧ live.ready = true ∧ (0 : Nat) < 64 ∧ (natLe 64 1).length = 64 ∧
     live.inBar2 (64 * 2 ^ 30 - 64) 64 = true ∧ live.bar2Addr (64 * 2 ^ 30 - 64) % 64 + 64 ≤ 64 ∧
     (put oBOOT_STAT 0 live).ready = false ∧ (put oING_CTL 1 live).bit oING_CTL 0 = true ∧
     (put oING_CTL 1 live).ingAddr 0 % 64 + 64 ≤ 64 ∧ (0xFFFFFFC0 : BitVec 32).toNat + 64 ≤ 2 ^ 32 ∧
     live.inBar2 (64 * 2 ^ 30) 0 = true ∧ live.bit oING_CTL 0 = false) ∧
    (let w : FlushWait := { fn := 0, writes := [], words := [] }
     ({ live with flushWaits := [w] } : State).flushWaits.find? (fun w => decide (w.fn = 0)) = some w ∧ w.writes = [] ∧
     ({ w with writes := [1] } : FlushWait).writes ≠ []) := by
  decide +kernel

def reading (p : HostPurpose) : HostRead := { id := 3, addr := 0x1000, len := 64, purpose := p }

theorem witness_hostReadsAreAnswered :
    (∀ p ∈ [HostPurpose.tail 0, .beatLine, .slots 0 16 1, .mapEntries 0 16],
     let s := { withDesc (desc0 [(0, 0x0A)] .running) with hostReads := [reading p] }
     s.alive = true ∧ s.hostReads.find? (fun r => r.id == 3 && r.issued) = some (reading p) ∧ (∀ x ∈ s.hostReads, x.issued = true) ∧ s.held = false ∧ (reading p).purpose = p) ∧
    (put oHL_STAT 0x100 live).held = true ∧
    (let d := desc0 [(0, 0x0A)] .running
     (withDesc d).descOf 0 16 = some (0, d) ∧ d.stage = .running ∧ d.status = 0) := by
  decide +kernel

theorem witness_linkAndResets :
    live.alive = true ∧ (put oHL_STAT 5 live).linkSpeed ≠ 0 ∧ live.power.ltssm = true ∧ live.linkSpeed = 0 ∧
    (let s := put oTW_STAT 2 (put oHL_STAT 0x100 live)
     s.held = true ∧ s.twState = 2) ∧
    live.held = false ∧ live.power.configReady = true ∧ (live.part 0).abort = none ∧ (live.part 0).joints = [] ∧
    live.hostCarts = [] ∧ live.hostLines = [] ∧ State.reset.alive = true ∧ State.reset.power.configReady = false ∧
    ((onPart { abort := some .register }).part 0).abort = some .register ∧
    (let s := { put oHL_STAT 0x100 live with failed := true }
     s.power.pwrgd = true ∧ s.held = true ∧ s.alive = false) := by
  decide +kernel

theorem witness_ringPolls :
    (live.alive = true ∧ live.held = false ∧ live.ready = true ∧ 1024 * live.fld oDB_SUMMARY 63 10 = 0 ∧
     1024 * (put oDB_SUMMARY 0x400 live).fld oDB_SUMMARY 63 10 ≠ 0 ∧ live.beginPoll.ringClass 0 = 0 ∧
     live.power.configReady = true ∧ (8191 : Word).toNat < 8192 ∧ live.polled 0 = true ∧
     fnPart 2 = some 1 ∧ live.partOfRing 0 ≠ some 1) ∧
    (let s := put (oRT_STAT 0) (16 + 16 * 2 ^ 32) { live with hostReads := [reading (.tail 0)] }
     s.hostReads.find? (fun x => decide (x.purpose = .tail 0) && x.issued) = some (reading (.tail 0)) ∧
     ((32 : BitVec 32) - s.fetched 0).toInt = 16 ∧ ¬ BitVec.ofNat 32 (s.ringSize 0) < (32 : BitVec 32) - s.retired 0 ∧
     BitVec.ofNat 32 (s.ringSize 0) < (33 : BitVec 32) - s.retired 0 ∧ ((15 : BitVec 32) - s.fetched 0).toInt < 0) ∧
    (let s := put (oRT_SIZE 0) 64 (put (oRT_CTL 0) 0 live)
     let w := mergeWrite (fieldsAt (oRT_CTL 0)) (s.reg (oRT_CTL 0)) .full 1 noField
     s.bit (oRT_CTL 0) 0 = false ∧ s.enRefused 0 w = false ∧ (put (oRT_SIZE 0) 0 s).enRefused 0 w = true) := by
  decide +kernel

theorem witness_descriptorsAreFetched :
    (let s := put (oRT_STAT 0) (16 + 16 * 2 ^ 32) { live with rings := [(0, { tail := 18, readySince := some 0 })] }
     s.alive = true ∧ s.partOfRing 0 = some 0 ∧ s.nextGrant = some (0, false) ∧ s.held = false) ∧
    (let h := slot [(8, 16)]
     let s := put (oRT_STAT 0) (16 + 16 * 2 ^ 32) { live with hostReads := [reading (.slots 0 16 1)] }
     let d : Desc := { ring := 0, seq := s.fetched 0, bytes := h }
     h.length = 64 ∧ s.slotsAsked 0 = 1 ∧ (s.ring 0).arrived = [] ∧ fieldLe h 2 1 % 4 = 0 ∧ (∀ p ∈ allParts, s.descs p = []) ∧
     fieldLe h 8 4 = (s.fetched 0).toNat ∧ s.checkDesc 0 d = none ∧ badJoint d = false ∧ d.jointFlag = false ∧
     s.bit (oRT_CANCEL 0) 32 = false ∧ d.opc ≠ 0x0F ∧ fieldLe (slot [(8, 17)]) 8 4 ≠ (s.fetched 0).toNat ∧ (s.ring 0).reread = false) ∧
    (let d := desc0 [] .fetched
     let s := withDesc d
     s.descOf 0 16 = some (0, d) ∧ s.nextDesc 0 0 = some d ∧ s.startable 0 d = true ∧ d.fenced = false ∧
     s.fabric_ ≤ d.readyAt + 10000000 ∧ d.cartDir = none ∧
     (onPart { descs := [d], spareWanted := some 0 }).startable 0 d = false) ∧
    (let d := desc0 [(0, 1)] .fetched
     let s := withDesc d
     d.cartDir = some 0 ∧ s.startable 0 d = true ∧ (s.freeCart 0 (s.cartClass d)).isSome = true ∧
     s.cartTurn 0 (s.cartClass d) = some 0 ∧
     ({ s with hostCarts := (List.range 8).map (fun i => (i, { desc := some (0, 15) })) } : State).freeCart 0 (s.cartClass d) = none) := by
  decide +kernel

theorem witness_descriptorsComplete :
    (let d := desc0 [(1, 16)] .ended
     let s := withDesc d
     s.descOf 0 16 = some (0, d) ∧ d.stage = .ended ∧ (s.part 0).abort = none ∧ d.opc ≤ 0x07 ∧ d.member = false ∧
     d.released = false ∧ s.held = false ∧ s.ownFlush d = false ∧ s.followsJoint 0 d = false ∧ d.irq = false) ∧
    (let d := desc0 [] .ended
     let s := { withDesc d with flushed := [(oHL_CTL, 1)] }
     s.descOf 0 16 = some (0, d) ∧ s.held = false ∧ s.ownFlush d = true) ∧
    (let d := { desc0 [(0, 1), (1, 4), (3, 1)] .ended with member := true }
     let s := onPart { descs := [d], joints := [(1, { st := .open_ })] }
     (s.joint 0 d.jid).st = .open_ ∧ d.status = 0) ∧
    (let d := desc0 [] .completed
     let l : HostLine := { fn := 1, addr := 64, bytes := natLe 16 0, vector := none, desc := some (0, 16), covered := true }
     let s := { withDesc d with hostLines := [l], hostReads := [reading (.flushing 1)] }
     s.hostReads.any (fun r => decide (r.purpose = .flushing (partFn 0))) = true ∧ l.fn = partFn 0 ∧ l.desc = some (d.ring, d.seq) ∧
     s.descOf d.ring d.seq = some (0, d) ∧ d.irq = false ∧ (s.part 0).closing = false) := by
  decide +kernel


/-- NOP, FENCE, FLUSH, CANCEL, TIMESTAMP, ABORT_PARTITION; a fence behind an open descriptor, one that names a foreign ring. -/
theorem witness_orderingDescriptors :
    (∀ opc ∈ [0x00, 0x07, 0x08, 0x0F, 0x11, 0x10],
     let d := desc0 [(0, opc)] .started
     let s := withDesc d
     s.alive = true ∧ s.descOf 0 16 = some (0, d) ∧ d.stage = .started ∧ d.opc = opc.toNat ∧ d.fences = [] ∧
     s.ringDone 0 d = true ∧ earlier (s.descs 0) d = [] ∧ d.f 16 8 = 0 ∧ s.cfg (oRT_CTL 0) 1 1 = 0 ∧
     (tab (oRT_CTL 0) 3 s).cfg (oRT_CTL 0) 1 1 = 1 ∧ (s.part 0).abort = none ∧ (s.part 0).closing = false ∧ (s.part 0).joints = [] ∧ s.hostCarts = [] ∧
     ((onPart { descs := [d], closing := true }).part 0).closing = true) ∧
    (let d := desc0 [(0, 7), (16, 1), (24, 9)] .started
     d.fences = [(9, 0)] ∧ live.partOfRing 9 ≠ some 0) ∧
    (let d := desc0 [(0, 7)] .started
     let s := onPart { descs := [{ desc0 [] .running with seq := 15 }, d] }
     s.descOf 0 16 = some (0, d) ∧ s.ringDone 0 d = false) ∧
    (let d := desc0 [(0, 0x0F), (20, 16)] .started
     let e := { desc0 [] .running with seq := 15 }
     earlier [e, d] d = [e] ∧ e.ring = d.target ∧ before e.seq d.bound = true ∧ e.done = false) := by
  decide +kernel

theorem witness_ingressFences :
    (let d := desc0 [(0, 9), (16, 0xFF), (17, 0xFF), (18, 0xFF), (19, 0xFF)] .started
     let s := withDesc d
     s.descOf 0 16 = some (0, d) ∧ d.opc = 0x09 ∧ s.stalls = [] ∧ d.f 16 4 = 2 ^ 32 - 1 ∧ s.ingressWaits = [] ∧
     d.covered.filter (fun i => s.ingress.any (fun x => x.req == i)) = [] ∧
     [4].filter (fun i => ({ s with ingress := [{ req := 4, off := 0, data := [] }] } : State).ingress.any (fun x => x.req == i)) ≠ []) ∧
    (let d := desc0 [(0, 9)] .running
     let s := { withDesc d with ingressWaits := [{ ring := 0, seq := 16, marker := some (0, 1), covered := [] }] }
     s.descOf 0 16 = some (0, d) ∧ d.stage = .running ∧ s.awaitsMarker d = true) := by
  decide +kernel

/-- The state of `objects` with a descriptor on object `id` by `amount`. -/
def onObject (opc kind id amount : Byte) (st : Stage := .started) : State :=
  withDesc (desc0 [(0, opc), (16, kind), (18, id), (20, 1), (24, amount)] st) objects

theorem witness_syncDescriptors :
    (∀ kind ∈ [0, 1, 2, 3], let d := desc0 [(0, 5), (16, kind), (18, 1), (20, 1), (24, 2)] .started
     let s := onObject 5 kind 1 2
     s.alive = true ∧ s.descOf 0 16 = some (0, d) ∧ d.member = false ∧ (∀ e ∈ s.tallies, e.2.waiters = []) ∧
     (s.peg 1).waiters = [] ∧ (s.bell 1).waiters = [] ∧ d.stage = .started ∧ d.opc = 0x05 ∧ d.kind = kind.toNat ∧
     d.amount.toNat = 2 ∧ (s.peg 1).count.toNat + 2 ≤ 65535 ∧ (s.peg 1).count.toNat < 2 ∧ (s.bell 1).count = 0 ∧ (s.bell 1).arrived = 0) ∧
    (objects.ringCtx 0 = 0 ∧ objects.pegRef 0 0 1 = some 1 ∧ objects.pegRef 0 0 2 = none ∧
     objects.tallyRef 0 0 1 = some (.local_ 1) ∧ objects.bellRef 0 0 1 = some 1) := by
  decide +kernel

/-- A peg at its bound overflows, the joining forms of R52's commands. -/
theorem witness_syncDescriptors_bounds :
    (desc0 [(0, 5), (16, 3), (18, 1)] .started).amount.toNat = 0 ∧
    (let s := { onObject 5 0 1 2 with pegs := [(1, { count := 65534 })] }
     65535 < (s.peg 1).count.toNat + 2 ∧ 2 ≤ (s.peg 1).count.toNat) ∧
    (let d := desc0 [(0, 6), (16, 0), (18, 1), (20, 1), (24, 2)] .started
     (onObject 6 0 1 2).descOf 0 16 = some (0, d) ∧ d.opc = 0x06 ∧ d.kind = 0) ∧
    (let s := { onObject 6 0 1 2 .running with pegs := [(1, { waiters := [{ who := .descriptor 0 16, kind := .pegTake, need := 2 }] })] }
     s.pegs = [(1, s.peg 1)] ∧ (s.peg 1).waiters.map Waiter.who = [.descriptor 0 16] ∧ s.tallies = [] ∧ s.bells = [] ∧
     s.fabric.requests = [] ∧ (desc0 [(0, 6), (20, 1)] .running).f 20 4 ≠ 0 ∧ (desc0 [(0, 6)] .running).f 20 4 = 0) := by
  decide +kernel

theorem witness_transferDescriptors :
    (∀ opc ∈ [0x01, 0x02], let d := desc0 [(0, opc), (32, 64), (40, 1)] .started
     let s := { withDesc d with hostCarts := [(0, { desc := some (0, 16) })] }
     s.alive = true ∧ s.descOf 0 16 = some (0, d) ∧ d.stage = .started ∧ s.hcOf 0 16 = some 0 ∧
     s.hcart 0 = { desc := some (0, 16) } ∧ s.jointHeld 0 (hcSrc 0) = false ∧ s.held = false ∧ d.opc = opc.toNat ∧ d.f 36 1 % 4 = 0 ∧
     0 < d.f 32 4 ∧ d.f 16 8 % 512 + d.f 32 4 ≤ 512 ∧ 0 < d.f 40 4) ∧
    (let d := desc0 [(0, 3), (16, 1)] .started
     (withDesc d).descOf 0 16 = some (0, d) ∧ d.opc = 0x03 ∧ (desc0 [(0, 0x11), (16, 1)] .started).f 16 8 ≠ 0 ∧
     (({ live with hostCarts := [(16, { desc := some (0, 15) })] } : State).hcart (inlineUnit 0)).desc.isSome = true) := by
  decide +kernel

theorem witness_maps :
    (let d := desc0 [(0, 0x0A), (28, 1)] .started
     (withDesc d).descOf 0 16 = some (0, d) ∧ d.opc = 0x0A ∧ d.acted = false ∧
     ¬ 2 ^ 52 < (d.mapVa / rangeSize d.mapLevel + d.mapCount) * rangeSize d.mapLevel ∧ d.f 32 8 = 0 ∧
     (desc0 [(0, 0x0A), (28, 1), (32, 8)] .started).f 32 8 ≠ 0 ∧ d.words = [] ∧ 0 < d.mapCount ∧ d.pages = []) ∧
    (let d := desc0 [(0, 0x0A), (18, 0xFF), (19, 0xFF), (20, 0xFF), (21, 0xFF), (22, 0x0F), (28, 2)] .started
     2 ^ 52 < (d.mapVa / rangeSize d.mapLevel + d.mapCount) * rangeSize d.mapLevel) ∧
    (let d := { desc0 [(0, 0x0A)] .running with acted := true }
     (withDesc d).descOf 0 16 = some (0, d) ∧ d.stage = .running ∧ d.acted = true) := by
  decide +kernel

/-- A MAP whose context has no root table writes nothing; one whose table's channel is in self-refresh waits for it. -/
theorem witness_mapsWait :
    let d := desc0 [(0, 0x0A), (28, 1)] .started
    let s := withDesc d
    let t := put (oCH_STAT (chanOf 0x10000)) 2 (withDesc d inMemoryOn)
    s.stalls = [] ∧ (s.writeMap 0 d).stalls = [] ∧ d.f 32 8 = 0 ∧ t.stalls = [] ∧ (t.writeMap 0 d).stalls ≠ [] := by
  decide +kernel

theorem witness_coreDescriptors :
    (∀ opc ∈ [0x04, 0x0E], let d := desc0 [(0, opc), (16, 2), (26, 3)] .started
     let s := withDesc d
     s.alive = true ∧ s.descOf 0 16 = some (0, d) ∧ d.stage = .started ∧ d.opc = opc.toNat ∧ s.stalls = [] ∧ s.nCores 0 < d.first + d.count ∧
     s.nCores 0 < d.f 16 1 + 1) ∧
    (let d := desc0 [(0, 4), (26, 2)] .started
     let s := withDesc d inMemoryOn
     s.coreRefusal 0 0 (d.first + d.count) = none ∧ (s.imageKey 0 d).2 = (0, { va := 0, crc := 0 }) ∧
     (s.imageKey 0 d).1.stalls = [] ∧ ((s.imageKey 0 d).1.part 0).images = [] ∧
     (let t := onPart { running := some 0, descs := [d], images := [{ image0 with key := { va := 0, crc := 0 } }] } inMemoryOn
      t.imageKey 0 d = ((t.imageKey 0 d).1, 0, { va := 0, crc := 0 }) ∧
      (((t.imageKey 0 d).1.part 0).images.find? (fun i => decide (i.key = { va := 0, crc := 0 }))).isSome = true) ∧
     s.coresOpen 0 0 = true ∧ (∀ c ∈ s.launchCores 0 d, (s.core c).finished = true) ∧
     ((s.imageKey 0 d).1.launchCores 0 d).Nodup) ∧
    (let d := desc0 [(0, 0x0E), (24, 4), (37, 0x10), (41, 0x10), (48, 1)] .started
     let s := withDesc d (tab (oPT_GRAN 0 0) 0xFFFFFFFF (put (oQPROG_STAT (granChan 0)) 2 live))
     s.coreRefusal 0 0 (d.f 16 1 + 1) = none ∧ s.coresOpen 0 0 = true ∧ (s.core 0).launch = none ∧
     ((s.core 0).engOf .grind).phase = .idle ∧ (s.checkGrind 0 (some 0) d.grindCmd).1 = none) := by
  decide +kernel

theorem witness_guardedRegisters :
    live.alive = true ∧ live.power.configReady = true ∧ live.ready = true ∧ fieldsAt (oPT 0 0x48) ≠ [] ∧ (0x48 : BitVec 11).toNat ≠ 0x7F8 ∧
    fieldsAt (oPT 0 0) ≠ [] ∧
    (let s : State := { live with regs := [(65536, 1), (131080, 4)], tables := [] }
     let new := mergeWrite (fieldsAt (oPT 0 0)) (s.reg (oPT 0 0)) .full 8589960192 noField
     s.alive = true ∧ s.power.configReady = true ∧ s.ready = true ∧ s.ptRefused 0 0 (s.reg (oPT 0 0)) new = false) ∧
    (1200 ≤ getBits (1200 : Word) 11 0) ∧ getBits (1199 : Word) 11 0 < 1200 ∧ live.fld oPWR_CAP 11 0 ≤ 2500 ∧
    (0x7FFFFF : BitVec 23).toNat % 4 ≠ 0 := by
  decide +kernel

theorem witness_rangesAreBounded :
    let s := put (oTW_MIN 15) (1 * 2 ^ 41) (put (oTW_MIN 0) (57344 * 2 ^ 41) live)
    s.alive = true ∧ s.power.configReady = true ∧ s.ready = true ∧ (1 : Word).getLsbD 0 = true ∧
    57344 < ((List.range 16).map (fun n => s.fld (oTW_MIN n) 60 41)).foldl (· + ·) 0 := by
  decide +kernel

/-- A module with twin protection on, fabric address 3, partner 5, in a state. -/
def twin (st : Nat) (t : Twin := {}) : State :=
  put oTW_STAT (BitVec.ofNat 64 st) (put oTW_CTL (1 + 5 * 16) (put oFB_ADDR 3 (put oFB_CTL 1 { live with twin := t })))

theorem witness_twinsPair :
    (live.twOn = false ∧ live.outLen ≤ 57344 ∧ live.inLen ≤ 57344) ∧
    (∀ st ∈ [0, 1, 2, 3, 4], (twin st).alive = true ∧ (twin st).twOn = true ∧ (twin st).fabricOn = true ∧ (twin st).twState = st ∧
     (twin st).fab = 3 ∧ (twin st).fld oTW_CTL 15 4 = 5 ∧ (twin st).paired = (st == 1 || st == 2) ∧ (twin st).linksLost = true) ∧
    ((∀ p ∈ allParts, (twin 1).atBoundary p = true) ∧ (twin 1).bit oTW_STAT 3 = false ∧ (twin 1).twin.resync = [] ∧
     (twin 1 { resync := [(0, 0, 64)] }).twin.resync ≠ [] ∧
     (let s := tab (oPT_CTL 0) 8589960196 (onPart { joints := [(1, { st := .open_ })] } (twin 1))
      s.protected_ 0 = true ∧ s.atBoundary 0 = false ∧ (s.part 0).mirroring = false)) ∧
    (let s := tab (oPT_CTL 0) 8589960194 (put (oTW_ADOPT 1) 1 (twin 2))
     s.bit (oTW_ADOPT 1) 0 = true ∧ s.fld (oTW_ADOPT 1) 5 1 = 0 ∧ s.cfg (oPT_CTL 0) 1 1 = 1 ∧ s.contexts 0 = 0 :: [1] ∧
     (put (oTW_ADOPT 1) 63 (twin 2)).contexts 31 = []) ∧
    (({ twin 2 with hostReads := [reading .beatLine, reading .ownBeat] } : State).hostReads.find? (fun r => decide (r.purpose = .beatLine) && r.issued) =
       some (reading .beatLine) ∧
     ({ twin 2 with hostReads := [reading .beatLine, reading .ownBeat] } : State).hostReads.any (fun r => decide (r.purpose = .ownBeat)) = true ∧
     3 ≤ (twin 2 { still := 3 }).twin.still ∧ (twin 2).twin.still < 3) := by
  decide +kernel

def record0 : RecoveryRecord := { partition := 1, points := [(0, 20)], pegs := [], tallies := [], bells := [] }

theorem witness_twinsTakeOver :
    ((twin 3).alive = true ∧ (twin 3).twState = 3 ∧ (twin 3).bit oTW_STAT 3 = false ∧ (twin 11).bit oTW_STAT 3 = true ∧
     (twin 11).twState = 3 ∧ (∀ e ∈ (twin 3 { joints := [(1, { writes := [(0, [1])] })] }).twin.joints, e.2.prepared = none)) ∧
    (let s := tab (oPT_CTL 0) 8589960194 (put (oTW_ADOPT 1) 1 (twin 11 { records := [{ record := record0, logAt := 0, restored := true }] }))
     s.partOfRing 0 = some 0 ∧ s.adopts 0 = true ∧ s.isStandby 0 0 = true ∧ (s.ring 0).adopted = false ∧
     s.twin.records.find? (fun x => (pointOf x.record 0).isSome) = some { record := record0, logAt := 0, restored := true } ∧
     pointOf record0 0 = some 20) ∧
    ((twin 2).alive = true ∧ (twin 2).paired = true ∧ (∀ e ∈ (twin 2).twin.joints, e.2.prepared = none) ∧
     (twin 2).fab < (twin 2).fld oTW_CTL 15 4 ∧ (put oFB_ADDR 5 (twin 2)).fld oTW_CTL 15 4 ≤ (put oFB_ADDR 5 (twin 2)).fab) ∧
    (let s := onPart { joints := [(1, { st := .committing, asked := true })], recovery := some record0 } (twin 2)
     s.alive = true ∧ s.paired = true ∧ (s.joint 0 1).asked = true ∧ s.stalls = [] ∧ (s.part 0).unacked = []) ∧
    ((onPart { unacked := [some record0] } (twin 2)).part 0).unacked = some record0 :: [] ∧
    (let s := put (oTW_MIN 0) (2 ^ 41) (twin 2)
     s.takeStream 0 = none ∧ s.inbound (2 ^ 21 - 64) 64 = true ∧ s.inbound (2 ^ 21 - 63) 64 = false ∧ (s.twinJoint 1).prepared = none) := by
  decide +kernel

theorem witness_coresAreSpared :
    (let s := onCore 0 { kp with corrected := 14 }
     s.alive = true ∧ s.partOfCore 0 = some 0 ∧ (s.core 0).corrected < 15 ∧ 15 ≤ ((onCore 0 { kp with corrected := 15 }).core 0).corrected ∧
     0 < s.spares 0 ∧ (s.part 0).spareWanted = none ∧ (s.part 0).abort = none ∧ (s.part 0).joints = [] ∧ s.hostCarts = [] ∧
     s.protected_ 0 = false ∧ (tab (oPT_CTL 0) 8589960196 s).protected_ 0 = true) ∧
    (let s := onPart { spareWanted := some 0 }
     (s.part 0).spareWanted = some 0 ∧ s.spareReady 0 = true) ∧
    (let s := put oMOD_STAT 0xA8 (twin 2)
     s.spares 0 = 0 ∧ s.twState = 2) := by
  decide +kernel

/-- A link that is UP, with its state. -/
def linked (k : Link) : State :=
  put (oBL_STAT 0) (2 + 0xFF * 2 ^ 10) { put oFB_ADDR 3 (put oFB_CTL 1 live) with links := [(0, k)] }
def frame0 (bad : Byte) (payload : List Byte) : List Byte :=
  let f := mkFrame 0 0 false 0 0xFF 0 payload
  f.take 248 ++ [f.getD 248 0 + bad] ++ f.drop 249
def packet (type dst : Nat) (addr : Nat := 0) (body : List Byte := []) : List Byte := mkPacket type 1 false dst 7 9 addr 1 body

/-- Frames: a good idle one, a good one that holds a packet, one whose CRC fails, one out of order. -/
theorem witness_beloraLinks :
    ((linked {}).alive = true ∧ (linked {}).linkLive 0 = true ∧ (frame0 0 []).length = 256 ∧
     crc32c ((frame0 0 []).take 248) = fieldLe (frame0 0 []) 248 4 ∧ ¬ crc32c ((frame0 1 []).take 248) = fieldLe (frame0 1 []) 248 4 ∧
     BitVec.ofNat 12 (fieldLe (frame0 0 []) 0 2) = ((linked {}).link 0).rxSeq ∧ sliceBytes (frame0 0 []) 24 224 = List.replicate 224 0 ∧
     sliceBytes (frame0 0 []) 8 16 = List.replicate 16 0 ∧ ¬ BitVec.ofNat 12 (fieldLe (frame0 0 []) 0 2) = ((linked { rxSeq := 1 }).link 0).rxSeq) ∧
    (let f := frame0 0 (packet 0x01 3)
     crc32c (f.take 248) = fieldLe f 248 4 ∧ sliceBytes f 24 224 = List.replicate 224 0 ∧ pType (sliceBytes f 8 16) = 0x01) ∧
    (let s := linked { unacked := [(0, [])], resends := 7 }
     (s.link 0).unacked ≠ [] ∧ 7 ≤ (s.link 0).resends ∧ ((linked { unacked := [(0, [])] }).link 0).resends < 7 ∧ ((linked {}).link 0).unacked = []) ∧
    (bitOf ((linked {}).rxLanes 0) 7 = true ∧ (linked {}).rxLanes 0 ≠ 2 ^ 7 ∧ (linked {}).fld (oBL_STAT 0) 1 0 ≠ 0 ∧
     (put (oBL_STAT 0) (2 + 2 ^ 17) (linked {})).rxLanes 0 = 2 ^ 7 ∧ bitOf ((put (oBL_STAT 0) (2 + 2 ^ 17) (linked {})).rxLanes 0) 0 = false) ∧
    (live.power.locked = true ∧ live.bit (oBL_CTL 0) 0 = true ∧ live.fld (oBL_STAT 0) 1 0 < 2 ∧ live.bit oFB_CTL 0 = false ∧
     (put oFB_ADDR 0xFFF live).fabRefused = true ∧ (put oFB_ADDR 3 live).fabRefused = false) ∧
    (let p := packet 0xC8 0xFFF 0 (aliasBody 5 7 1)
     let s := linked { packets := [p] }
     s.fabricOn = true ∧ (s.link 0).packets = p :: [] ∧ pType p = 0xC8 ∧ s.adoptSeen p = false ∧ s.bit (oFB_ALIAS 63) 40 = false ∧
     (linked {}).adoptSeen (packet 0xC8 0xFFF 0 (aliasBody 5 3 1)) = true) ∧
    (let p := packet 0xC9 0xFFF 0 (aliasBody 5 7 1)
     let s := put (oFB_ALIAS 0) (5 + 2 ^ 40) (linked { packets := [p] })
     pType p = 0xC9 ∧ s.aliasEntry (aliasFrom p) = some 0 ∧ (linked {}).aliasEntry (aliasFrom p) = none) := by
  decide +kernel

theorem witness_peerRequests :
    (∀ type ∈ [0x01, 0x02, 0x03, 0x04],
     let p := packet type 3 1 (natLe 1 4 ++ natLe 88 0)
     let s := { linked { packets := [p] } with tallies := [(1, { peerEn := true, peerFab := 7 })] }
     s.alive = true ∧ (s.link 0).packets = p :: [] ∧ s.fabricOn = true ∧ s.answersTo (pDst p) = true ∧
     s.fabric.marked.contains (flowOf p) = false ∧ pType p = type ∧ (0 : LinkId).val < 16 ∧ s.mirrorScope p = false ∧ pDst p = s.fab ∧
     (s.tally (topTally p)).peerEn = true ∧ (s.tally (topTally p)).peerFab.toNat = pSrc p ∧ topOp p = 4 ∧
     (live.tally (topTally p)).peerEn = false) ∧
    (let p := packet 0x04 3 1 (natLe 1 1 ++ natLe 15 0)
     topOp p = 1 ∧ (linked {}).twState ≠ 2) ∧
    (let p := packet 0x02 3 0 (natLe 64 0)
     ({ put (oTW_MOUT 0) (2 ^ 41) (twin 2) with links := [(0, { packets := [p] })] } : State).mirrorScope p = true) ∧
    (let p := packet 0x01 3
     let s := put oFB_CTL 0 (linked { packets := [p] })
     s.fabricOn = false ∧ (linked {}).answersTo (pDst (packet 0x01 4)) = false ∧ flowOf (packet 0x01 4) ∉ (linked {}).fabric.marked ∧
     0 < pHops (packet 0x01 4) ∧ unitsOf (packet 0x7F 3) = none) := by
  decide +kernel

def asked (unit : PeerUnit) (mem : Option MemReq) : PeerReq := { txn := 9, unit := unit, dst := 7, bytes := packet 0x01 7, mem := mem, op := 2 }
def waitsFor (k : Core) (q : PeerReq) (p : List Byte) : State :=
  { linked { packets := [p] } with cores := [(0, k)], fabric := { requests := [q] } }
def remote : SyncWait := { kind := .tallyWait, id := 1, phys := 1, need := 1, rd := 0, gen := 0, satisfied := false, value := 0, txn := some 9 }

theorem witness_peerResponses :
    (∀ type ∈ [0x81, 0x82], let r := req 1 .read 0 64 []
     let q := asked (.cart 0 0) (some r)
     let p := packet type 3 0 (natLe 64 0)
     let s := waitsFor (flying 1 (acc0 false)) q p
     s.alive = true ∧ (s.link 0).packets = p :: [] ∧ s.fabricOn = true ∧ s.answersTo (pDst p) = true ∧
     s.fabric.marked.contains (flowOf p) = false ∧ s.reqOf (pTxn p) = some q ∧ q.mem = some r ∧ s.hcWaiting r.id = none ∧
     s.serving = [] ∧ s.claimed r.id = true ∧ pType p = type) ∧
    (∀ type ∈ [0x84, 0x8E, 0x8F], let q := asked (.kingpost 0) none
     let p := packet type 3 2 (natLe 16 0)
     let s := waitsFor { kp with wait := some remote } q p
     s.reqOf (pTxn p) = some q ∧ q.op ≠ 1 ∧ q.withdrawn = false ∧ (s.core 0).wait = some remote ∧ remote.txn = some q.txn ∧
     pStatus p ≠ 1 ∧ pStatus p ≠ 0 ∧ pType p = type ∧ q.refused = false ∧ q.answered = false ∧ q.mem = none ∧
     pStatus (packet type 3 1 []) = 1) ∧
    (let q := asked (.kingpost 0) none
     let b := packet 0x04 7 0 (natLe 16 0)
     let s := { linked {} with fabric := { requests := [q], held := [(none, b)] } }
     s.fabric.held.find? (fun e => decide (pTxn e.2 = q.txn) && !s.answersTo (pDst e.2)) = some (none, b) ∧ pRsp b = false ∧ pTxn b = q.txn) ∧
    (let q := { asked (.kingpost 0) none with refused := true, answered := true }
     let s := { linked {} with fabric := { requests := [q] } }
     s.reqOf q.txn = some q ∧ q.refused = true ∧ q.answered = true ∧ q.op = 2 ∧
     ((s.fabric.requests.dropWhile (fun x => decide (x.txn ≠ q.txn))).drop 1).all (fun x => !x.refused) = true) := by
  decide +kernel

theorem witness_power :
    (let s : State := {}
     s.power.rails = .up ∧ s.power.pwrgd = true ∧ s.power.locked = false ∧ s.alive = true ∧ s.power.perst = true ∧
     s.power.configReady = false) ∧
    (let s : State := { power := { rails := .rising, inRegulation := 6, pwrgd := false } }
     s.power.rails = .rising ∧ s.power.inRegulation = (6 : Fin 7).val ∧ ({ s.power with inRegulation := 5 } : Power).inRegulation = (5 : Fin 7).val) ∧
    (let s : State := { power := { rails := .down, pwrgd := false, input := .charging, holdoff := true } }
     s.power.pwrgd = false ∧ s.power.rails ≠ .rising ∧ s.power.rails = .down ∧ s.power.input = .charging ∧ s.power.holdoff = true) ∧
    live.power.pwrgd = true ∧ live.power.locked = true := by
  decide +kernel

theorem witness_bringUp :
    (∀ st ∈ [1, 2, 3, 5], (put oBOOT_STAT (BitVec.ofNat 64 st) live).bootState = st) ∧ live.power.configReady = true ∧
    ({ live with power := { live.power with configReady := false } } : State).power.locked = true ∧ live.boot.busMaster = false ∧
    ({ live with boot := { busMaster := true } } : State).boot.busMaster = true ∧ live.bootState ≠ 1 ∧ live.bootState ≠ 5 ∧
    fieldLe [0] 0 4 ≠ 0x315A5747 ∧ fieldLe (natLe 4 0x315A5747) 0 4 = 0x315A5747 ∧ fieldLe (natLe 4 0x315A5747) 4 1 ≠ 0xB1 := by
  decide +kernel

def reading0 (die : BitVec 16) : ThermalReading :=
  { dieTemps := [die, 0, 0, 0], stackTemps := [0, 0, 0, 0, 0, 0, 0, 0], power := 0, vin := 0 }

/-- 95 degrees is no warning, a sixteenth more is; 110 is below the limit, a sixteenth more is not. -/
theorem witness_managementAndTemperature :
    (reading0 1520).wf = true ∧ (reading0 1521).wf = true ∧ (reading0 1760).wf = true ∧ (reading0 1761).wf = true ∧ live.alive = true ∧ live.power.locked = true ∧
    thermalWarm (reading0 1520) = false ∧ thermalWarm (reading0 1521) = true ∧ thermalLimit (reading0 1760) = false ∧
    thermalLimit (reading0 1761) = true ∧ live.power.hot = false ∧
    ({ live with power := { live.power with hot := true } } : State).alive = true ∧ live.managed = true ∧ live.i3c.addr = none ∧
    ({ live with i3c := { addr := some 9 } } : State).i3c.addr.isSome = true ∧ (natLe 4 8).length = 4 ∧ leNat (natLe 4 8) % 8 = 0 ∧
    leNat (natLe 4 9) % 8 ≠ 0 := by
  decide +kernel

end Sys2Proof.Tests
end

section
/-! PROOFS. Bytes sent over a channel's data bus read back as the numbers they encode; the quern status words (R179). -/

namespace Sys2Proof.Machine

/-! ### Little-endian bytes and slices of byte lists -/

@[simp] theorem natLe_length (n v : Nat) : (natLe n v).length = n := by
  induction n generalizing v with
  | zero => rfl
  | succ n ih => simp [natLe, ih]

/-- Bytes written and read back little-endian keep the number modulo the width (R3). -/
theorem leNat_natLe (n v : Nat) : leNat (natLe n v) = v % 256 ^ n := by
  induction n generalizing v with
  | zero => simp [natLe, leNat, Nat.mod_one]
  | succ n ih => rw [natLe, leNat, ih, BitVec.toNat_ofNat, pow_succ' 256 n, Nat.mod_mul]

/-- A slice inside a list is what `drop` and `take` cut out of it. -/
theorem sliceBytes_eq_take_drop (l : List Byte) (o n : Nat) (h : o + n ≤ l.length) :
    sliceBytes l o n = (l.drop o).take n := by
  induction n generalizing o with
  | zero => rfl
  | succ n ih =>
    have ho : o < l.length := by omega
    rw [sliceBytes, ih (o + 1) (by omega), List.drop_eq_getElem_cons ho, List.take_succ_cons,
      List.getElem?_eq_getElem ho, Option.getD_some]

/-- Of pieces of `n` bytes laid end to end, the bytes from `n * i` are piece `i`. -/
theorem take_drop_flatMap {α : Type} (f : α → List Byte) (n : Nat) (hf : ∀ a, (f a).length = n) (xs : List α) (i : Nat)
    (hi : i < xs.length) : ((xs.flatMap f).drop (n * i)).take n = f xs[i] := by
  induction xs generalizing i with
  | nil => simp at hi
  | cons x xs ih =>
    cases i with
    | zero => simp [← hf x]
    | succ i =>
      have hskip : n * (i + 1) = (f x).length + n * i := by rw [hf x, Nat.mul_succ, Nat.add_comm]
      rw [List.flatMap_cons, hskip, List.drop_length_add_append, List.getElem_cons_succ]
      exact ih i (by simpa using hi)

theorem flatMap_length_of_const {α : Type} (f : α → List Byte) (n : Nat) (hf : ∀ a, (f a).length = n) (xs : List α) :
    (xs.flatMap f).length = n * xs.length := by
  simp [List.length_flatMap, hf, Nat.mul_comm]

/-- Of `n`-byte words laid end to end, the field at `n * i` is word `i`. -/
theorem fieldLe_flatMap_natLe {α : Type} (n : Nat) (f : α → Nat) (xs : List α) (i : Nat) (hi : i < xs.length) :
    fieldLe (xs.flatMap (fun a => natLe n (f a))) (n * i) n = f xs[i] % 256 ^ n := by
  have hlen : ∀ a, (natLe n (f a)).length = n := fun a => natLe_length n (f a)
  have hin : n * i + n ≤ (xs.flatMap (fun a => natLe n (f a))).length := by
    rw [flatMap_length_of_const _ n hlen, ← Nat.mul_succ]
    exact Nat.mul_le_mul_left n hi
  rw [fieldLe, sliceBytes_eq_take_drop _ _ _ hin, take_drop_flatMap _ n hlen xs i hi, leNat_natLe]

/-! ### The status word of a quern (R179) -/

/-- LINE as the status word shows it: zero unless the status is ADDR, UE or PAR. -/
def Quern.shownLine (q : Quern) : Nat := if q.status = 4 ∨ q.status = 5 ∨ q.status = 9 then q.line.toNat else 0

theorem Quern.shownLine_lt (q : Quern) : q.shownLine < 2 ^ 21 := by
  unfold Quern.shownLine
  split
  · exact q.line.isLt
  · decide

theorem boolNat_le_one (b : Bool) : boolNat b ≤ 1 := by cases b <;> decide

theorem Quern.statusWord_eq (q : Quern) :
    q.statusWord = q.status.toNat + q.flags.toNat * 16 + q.shownLine * 1024 + boolNat q.ce * 2 ^ 31 := rfl

theorem Quern.statusWord_lt (q : Quern) : q.statusWord < 256 ^ 4 := by
  have hs := q.status.isLt
  have hf := q.flags.isLt
  have hl := q.shownLine_lt
  have hc := boolNat_le_one q.ce
  rw [q.statusWord_eq]
  omega

theorem Quern.statusWord_status (q : Quern) : bitsOf q.statusWord 3 0 = q.status.toNat := by
  have hs := q.status.isLt
  rw [bitsOf, Nat.shiftRight_eq_div_pow, q.statusWord_eq]
  omega

theorem Quern.statusWord_flags (q : Quern) : bitsOf q.statusWord 9 4 = q.flags.toNat := by
  have hs := q.status.isLt
  have hf := q.flags.isLt
  rw [bitsOf, Nat.shiftRight_eq_div_pow, q.statusWord_eq]
  omega

theorem Quern.statusWord_line (q : Quern) : bitsOf q.statusWord 30 10 = q.shownLine := by
  have hs := q.status.isLt
  have hf := q.flags.isLt
  have hl := q.shownLine_lt
  rw [bitsOf, Nat.shiftRight_eq_div_pow, q.statusWord_eq]
  omega

theorem Quern.statusWord_ce (q : Quern) : bitOf q.statusWord 31 = q.ce := by
  have hs := q.status.isLt
  have hf := q.flags.isLt
  have hl := q.shownLine_lt
  have htop : q.statusWord >>> 31 % 2 = boolNat q.ce := by
    have hc := boolNat_le_one q.ce
    rw [Nat.shiftRight_eq_div_pow, q.statusWord_eq]
    omega
  rw [bitOf, htop]
  cases q.ce <;> rfl

/-! ### QST -/

/-- A command accepted in the channel's present mode has its effect. -/
theorem State.inModes_of_mem (s t : State) (g : GranChan) (ms : List GMode) (h : (s.gchan g).mode ∈ ms) :
    s.inModes g ms t = t := by
  simp [State.inModes, h]

/-- The 64 bytes that QST returns: the status words of the querns of a channel, in the order of the bank pairs. -/
def State.statusBytes (s : State) (g : GranChan) : List Byte :=
  (List.finRange 16).flatMap (fun p => natLe 4 (s.quern g p).statusWord)

theorem State.statusBytes_length (s : State) (g : GranChan) : (s.statusBytes g).length = 64 := by
  rw [State.statusBytes, flatMap_length_of_const _ 4 (fun _ => natLe_length 4 _), List.length_finRange]

theorem State.fieldLe_statusBytes (s : State) (g : GranChan) (p : Fin 16) :
    fieldLe (s.statusBytes g) (4 * p.val) 4 = (s.quern g p).statusWord := by
  rw [State.statusBytes, fieldLe_flatMap_natLe 4 _ _ p.val (by simp), List.getElem_finRange,
    Nat.mod_eq_of_lt (Quern.statusWord_lt _)]
  rfl

theorem exec_qst (g : GranChan) (s : State) :
    exec (.qst g) s = whenever true s (s.inModes g [.processor] (s.toController g (s.statusBytes g))) := rfl

/-- QST in processor mode sends the status bytes to the controller and changes nothing else (R176). -/
theorem exec_qst_processor (s : State) (g : GranChan) (ha : s.alive = true) (hm : (s.gchan g).mode = .processor) :
    exec (.qst g) s = .next (s.send (.channelData (granChan g) (s.statusBytes g))) := by
  have haccepted : (s.gchan g).mode ∈ [GMode.processor] := by simp [hm]
  rw [exec_qst, State.inModes_of_mem _ _ _ _ haccepted, whenever, ha]
  rfl

/-- Settles O29: QST sends the status bytes, whose word p is the status word of quern p; each field of that word is read
back by its own lemma. -/
theorem quernStatusWords : Obligations.quernStatusWords := by
  intro s g ha hm
  refine ⟨_, exec_qst_processor s g ha hm, s.statusBytes g, s.statusBytes_length g, rfl, fun p => ?_⟩
  simp only [s.fieldLe_statusBytes g p]
  let q := s.quern g p
  exact ⟨q.statusWord_status, q.statusWord_flags, q.statusWord_ce, q.statusWord_line⟩

end Sys2Proof.Machine
end

section
/-! PROOFS. An advance of a producer tally beyond its depth is performed, marked and logged (R222). -/

namespace Sys2Proof.Machine

variable (s : State)

/-! ### Tables whose values share a property -/

section Tables

variable {α : Type} {d : Nat → α} {P : α → Prop}

/-- What holds of the default and of every value listed holds of every value read. -/
theorem tabGet_of_forall (k : Nat) (hd : P (d k)) (m : Tab α) (hm : ∀ e ∈ m, P e.2) : P (tabGet d k m) := by
  induction m with
  | nil => exact hd
  | cons e r ih =>
    obtain ⟨he, hr⟩ := List.forall_mem_cons.1 hm
    rw [tabGet]
    split_ifs
    · exact hd
    · exact he
    · exact ih hr

/-- A write of a value that has the property leaves it to every value listed. -/
theorem forall_tabSet [DecidableEq α] (k : Nat) (v : α) (hv : P v) (m : Tab α) (hm : ∀ e ∈ m, P e.2) :
    ∀ e ∈ tabSet d k v m, P e.2 := by
  induction m with
  | nil => rw [tabSet]; split_ifs <;> simp [hv]
  | cons e r ih =>
    obtain ⟨he, hr⟩ := List.forall_mem_cons.1 hm
    rw [tabSet]
    split_ifs
    · exact hm
    · exact List.forall_mem_cons.2 ⟨hv, hm⟩
    · exact fun x hx => hr x (List.dropWhile_subset _ hx)
    · exact List.forall_mem_cons.2 ⟨hv, hr⟩
    · exact List.forall_mem_cons.2 ⟨he, ih hr⟩

end Tables

/-! ### What a log entry, a mark on a launch and a change of an object leave -/

theorem State.tally_congr {s t : State} (h : t.tallies = s.tallies) (n : Nat) : t.tally n = s.tally n :=
  congrArg (tabGet _ n) h

theorem State.core_congr {s t : State} (h : t.cores = s.cores) (c : CoreId) : t.core c = s.core c :=
  congrArg (tabGet _ c.val) h

@[simp] theorem State.logPart_tallies (p : PartId) (e : Entry) : (s.logPart p e).tallies = s.tallies := by
  simp only [State.logPart]; split <;> rfl

@[simp] theorem State.logPart_cores (p : PartId) (e : Entry) : (s.logPart p e).cores = s.cores := by
  simp only [State.logPart]; split <;> rfl

/-- A tally plays no part in an entry of a fault log. -/
theorem State.logPart_setTally (n : Nat) (g : Tally) (p : PartId) (e : Entry) :
    (s.setTally n g).logPart p e = (s.logPart p e).setTally n g := by
  simp only [State.logPart]
  rw [apply_ite (fun t : State => t.setTally n g)]
  rfl

@[simp] theorem State.modLaunch_tallies (c : CoreId) (f : Launch → Launch) : (s.modLaunch c f).tallies = s.tallies := by
  rw [State.modLaunch]; split <;> rfl

@[simp] theorem State.modLaunch_cores (c : CoreId) (f : Launch → Launch) : (s.modLaunch c f).cores = s.cores := by
  rw [State.modLaunch]; split <;> rfl

@[simp] theorem State.modLaunch_faultLog (c : CoreId) (f : Launch → Launch) :
    (s.modLaunch c f).faultLog = s.faultLog := by
  rw [State.modLaunch]; split <;> rfl

@[simp] theorem State.touched_tallies (p : Option PartId) : (s.touched p).tallies = s.tallies := by cases p <;> rfl

@[simp] theorem State.touched_cores (p : Option PartId) : (s.touched p).cores = s.cores := by cases p <;> rfl

@[simp] theorem State.touched_faultLog (p : Option PartId) : (s.touched p).faultLog = s.faultLog := by cases p <;> rfl

/-! ### A synchronisation fault of a kingpost (R219) -/

/-- The log entry of a fault that a kingpost's operation meets at an object. -/
def State.kingpostEntry (c : CoreId) (pc : BitVec 48) (reason phys : Nat) : Entry :=
  { type := 0x03, reason := reason, core := c.val, unit := 0, ctx := (s.core c).ctx.toNat, tag := s.launchTag c, d1 := phys
    d2 := pc.toNat }

/-- The fault is logged for the partition of the core and marks the core's launch. -/
theorem State.syncFault_kingpost {c : CoreId} {p : PartId} (hp : s.partOf c = some p) (pc : BitVec 48)
    (owner : Option PartId) (reason phys : Nat) :
    s.syncFault (.kingpost c pc) owner reason phys =
      (s.logPart p (s.kingpostEntry c pc reason phys)).modLaunch c (fun l => { l with syncFault := true }) := by
  simp [State.syncFault, State.logAny, State.kingpostEntry, hp]

/-! ### The advance (R221, R222) -/

/-- Where nobody waits at a tally, the examination of the waiters changes nothing. -/
theorem State.serveTallies_of_no_waiters (h : ∀ e ∈ s.tallies, e.2.waiters = []) : s.serveTallies = s := by
  have hnone : s.tallies.filter (fun e => !e.2.waiters.isEmpty) = [] :=
    List.filter_eq_nil_iff.2 (fun e he => by simp [h e he])
  rw [State.serveTallies, hnone, List.foldl_nil]

theorem State.tally_waiters_of_no_waiters (h : ∀ e ∈ s.tallies, e.2.waiters = []) (n : Nat) : (s.tally n).waiters = [] :=
  tabGet_of_forall (P := fun g : Tally => g.waiters = []) n rfl s.tallies h

theorem State.setTally_no_waiters (n : Nat) (g : Tally) (hg : g.waiters = []) (h : ∀ e ∈ s.tallies, e.2.waiters = []) :
    ∀ e ∈ (s.setTally n g).tallies, e.2.waiters = [] :=
  forall_tabSet (P := fun x : Tally => x.waiters = []) n g hg s.tallies h

/-- The state once a tally has been advanced and its DEPTHF set. -/
def State.overrun (n : Nat) (amount : Word) : State :=
  let g := { s.tally n with value := (s.tally n).value + amount }
  (s.setTally n g).setTally n { g with depthF := true }

theorem State.overrun_tally (n m : Nat) (amount : Word) :
    (s.overrun n amount).tally m =
      if m = n then { s.tally n with value := (s.tally n).value + amount, depthF := true } else s.tally m := by
  by_cases h : m = n <;> simp [State.overrun, h]

@[simp] theorem State.overrun_partOf (n : Nat) (amount : Word) (c : CoreId) : (s.overrun n amount).partOf c = s.partOf c := rfl

@[simp] theorem State.overrun_kingpostEntry (n : Nat) (amount : Word) (c : CoreId) (pc : BitVec 48) (reason phys : Nat) :
    (s.overrun n amount).kingpostEntry c pc reason phys = s.kingpostEntry c pc reason phys := rfl

@[simp] theorem State.overrun_logPart_faultLog (n : Nat) (amount : Word) (p : PartId) (e : Entry) :
    ((s.overrun n amount).logPart p e).faultLog = (s.logPart p e).faultLog := by
  rw [State.overrun, State.logPart_setTally, State.logPart_setTally]
  rfl

theorem State.overrun_no_waiters (n : Nat) (amount : Word) (h : ∀ e ∈ s.tallies, e.2.waiters = []) :
    ∀ e ∈ (s.overrun n amount).tallies, e.2.waiters = [] := by
  have hn : (s.tally n).waiters = [] := s.tally_waiters_of_no_waiters h n
  exact State.setTally_no_waiters _ n _ hn (s.setTally_no_waiters n _ hn h)

/-- The difference from the consumer once VALUE has changed: a tally that is its own consumer has none. -/
theorem State.tallyDiff_setTally_value (n : Nat) (v : Word) :
    (s.setTally n { s.tally n with value := v }).tallyDiff n =
      v - (if (s.tally n).cons.toNat = n then v else (s.tally (s.tally n).cons.toNat).value) := by
  by_cases h : (s.tally n).cons.toNat = n <;> simp [State.tallyDiff, h]

/-- An advance past the depth: performed, marked with DEPTHF and logged for the core's partition (R222). -/
theorem State.tallyAdv_kingpost_past_depth {c : CoreId} {p : PartId} {n : Nat} (pc : BitVec 48) (amount : Word)
    (hp : s.partOf c = some p) (hw : ∀ e ∈ s.tallies, e.2.waiters = []) (hb : (s.tally n).bounded = true)
    (hpast : ((s.tally n).depth.toNat : Int) <
      ((s.setTally n { s.tally n with value := (s.tally n).value + amount }).tallyDiff n).toInt) :
    s.tallyAdv (.kingpost c pc) n amount =
      (((s.overrun n amount).logPart p (s.kingpostEntry c pc 0x0B n)).modLaunch c
        (fun l => { l with syncFault := true })).touched (if amount = 0 then none else s.tallyOwner n) := by
  have hmarked : (s.overrun n amount).syncFault (.kingpost c pc) (s.tallyOwner n) 0x0B n =
      ((s.overrun n amount).logPart p (s.kingpostEntry c pc 0x0B n)).modLaunch c
        (fun l => { l with syncFault := true }) :=
    State.syncFault_kingpost _ (by simpa using hp) pc _ _ _
  rw [← State.serveTallies_of_no_waiters (State.modLaunch _ c _) (by simpa using s.overrun_no_waiters n amount hw),
    ← hmarked]
  simp [State.tallyAdv, State.overrun, hb, hpast]

/-! ### The instruction -/

/-- An instruction of 8 bytes that has issued. -/
theorem Core.retire_eq_issued (k : Core) : k.retire 8 = k.issued (k.pc + 8) := by
  cases h : k.stepping <;> simp [Core.retire, Core.stepDone, Core.issued, h]

theorem exec_tallyAdv (c : CoreId) (id : BitVec 12) (ra : SReg) : exec (.tallyAdv c id ra) s = execTallyAdv c id ra s := rfl

/-- tally.adv on a tally of the module. -/
theorem exec_tallyAdv_local {c : CoreId} {p : PartId} {id : BitVec 12} {n : Nat} (ra : SReg) (hi : Issues s c)
    (hp : s.partOf c = some p) (hn : s.tallyRef p (s.core c).ctx id.toNat = some (.local_ n)) :
    exec (.tallyAdv c id ra) s =
      .next ((s.tallyAdv (.kingpost c (s.core c).pc) n ((s.core c).sreg ra)).modCore c (fun k => k.retire 8)) := by
  obtain ⟨halive, hissue⟩ := hi
  simp [exec_tallyAdv, execTallyAdv, syncOp, whenever, halive, hissue, hp, hn]

/-- Settles O17: the advance that leaves diff above DEPTH is the branch of `State.tallyAdv` that keeps the new VALUE, sets
DEPTHF and logs; nobody waits, so nothing else changes. -/
theorem advancePastDepth : Obligations.advancePastDepth := by
  intro s c p id ra n hi hp hn hw k g value diff entry hcons hdepth hpast
  have hbounded : g.bounded = true := by rw [Tally.bounded, hcons, decide_eq_true hdepth]; rfl
  have hdiff : (g.depth.toNat : Int) < ((s.setTally n { g with value := value }).tallyDiff n).toInt := by
    rw [State.tallyDiff_setTally_value]
    exact hpast
  let amount := k.sreg ra
  let u := s.tallyAdv (.kingpost c k.pc) n amount
  have hu : u = _ := s.tallyAdv_kingpost_past_depth k.pc amount hp hw hbounded hdiff
  have htally (m : Nat) : u.tally m = (s.overrun n amount).tally m := State.tally_congr (by simp [hu]) m
  have hcore : u.core c = k := State.core_congr (s := s.overrun n amount) (by simp [hu]) c
  refine ⟨_, exec_tallyAdv_local s ra hi hp hn, ?_, ?_, ?_, fun m hm => ?_, ?_⟩
  · exact (htally n).trans ((s.overrun_tally n n amount).trans (if_pos rfl))
  · change u.faultLog = _
    rw [hu, State.touched_faultLog, State.modLaunch_faultLog, State.overrun_logPart_faultLog]
    rfl
  · rw [State.modCore, State.core_setCore, if_pos rfl]
    exact (Core.retire_eq_issued _).trans (by rw [hcore])
  · exact (htally m).trans ((s.overrun_tally n m amount).trans (if_neg hm))
  · rw [State.modCore_mem, State.tallyAdv_mem]

end Sys2Proof.Machine
end

section
/-! PROOFS. A write of EN that R311 refuses: the refused field keeps its bits, and the write is logged (R373). -/

namespace Sys2Proof.Machine

/-! ### The bits that a write of a register leaves (R6, R373) -/

/-- The bits of a field are those from its lowest to its highest. -/
theorem Field.mask_getLsbD (f : Field) (i : Nat) (hi : i < 64) : f.mask.getLsbD i = decide (f.lo ≤ i ∧ i ≤ f.hi) := by
  rw [Field.mask, setBits_getLsbD _ _ _ _ _ hi]
  split_ifs with h
  · simp only [h, Nat.testBit_two_pow_sub_one, and_self, decide_true, decide_eq_true_eq]
    omega
  · simp [h]

/-- What a write does to one field leaves the bits outside it, whatever the field's access code. -/
theorem Field.apply_getLsbD_outside (f : Field) (x m w : Word) {i : Nat} (hi : i < 64)
    (hout : f.mask.getLsbD i = false) : (f.apply x m w).getLsbD i = w.getLsbD i := by
  have hcovered : (f.mask &&& m).getLsbD i = false := by rw [BitVec.getLsbD_and, hout, Bool.false_and]
  unfold Field.apply
  cases f.access with
  | rw => simp only [BitVec.getLsbD_or, BitVec.getLsbD_and, BitVec.getLsbD_not, hcovered, hi, decide_true, Bool.not_false,
      Bool.and_true, Bool.and_false, Bool.or_false]
  | w1c => simp only [BitVec.getLsbD_and, BitVec.getLsbD_not, hcovered, hi, decide_true, Bool.not_false, Bool.and_true,
      Bool.and_false]
  | w1s => simp only [BitVec.getLsbD_or, BitVec.getLsbD_and, hcovered, Bool.and_false, Bool.or_false]
  | ro => rfl
  | wo => rfl
  | rc => rfl

/-- A bit of which every field that names it is refused or not writable survives the write. -/
theorem mergeWrite_getLsbD_of_refused (fs : List Field) (old : Word) (a : Acc) (v : Word) (no : Field → Bool) {i : Nat}
    (hi : i < 64) (hno : ∀ f ∈ fs, f.writable = true → no f = false → f.mask.getLsbD i = false) :
    (mergeWrite fs old a v no).getLsbD i = old.getLsbD i := by
  have hkept : ∀ f ∈ fs.filter (fun f => f.writable && !no f), f.mask.getLsbD i = false := by
    intro f hf
    obtain ⟨hmem, hact⟩ := List.mem_filter.1 hf
    obtain ⟨hw, hn⟩ := Bool.and_eq_true_iff.1 hact
    exact hno f hmem hw (by simpa using hn)
  unfold mergeWrite
  generalize fs.filter (fun f => f.writable && !no f) = written at hkept
  induction written generalizing old with
  | nil => rfl
  | cons f written ih =>
    obtain ⟨hf, hrest⟩ := List.forall_mem_cons.1 hkept
    rw [List.foldl_cons, ih _ hrest, Field.apply_getLsbD_outside _ _ _ _ hi hf]

/-- A one-bit field is the bit of the word. -/
theorem State.bit_eq_getLsbD (s : State) (o i : Nat) : s.bit o i = (s.reg o).getLsbD i := by
  rw [State.bit, State.fld, getBits_eq, Nat.add_sub_cancel_left, pow_one, ← BitVec.testBit_toNat,
    Nat.testBit_eq_decide_div_mod_eq]
  rfl

/-! ### What an entry of the module error log leaves -/

section Log

variable (s : State)

theorem State.logModule_reg (e : Entry) {o : Nat} (ho : o ≠ oMEL_PTR) : (s.logModule e).reg o = s.reg o := by
  simp only [State.logModule]
  split
  · exact (s.reg_setFld _ _ _ _ _).trans (if_neg ho)
  · exact (s.reg_setFld _ _ _ _ _).trans (if_neg ho)

@[simp] theorem State.logModule_twin (e : Entry) : (s.logModule e).twin = s.twin := by
  simp only [State.logModule]
  split <;> rfl

theorem State.logAccess_reg (off : Nat) (fn : FnId) (kind : Nat) (data : Word) {o : Nat} (ho : o ≠ oMEL_PTR) :
    (s.logAccess off fn kind data).reg o = s.reg o :=
  s.logModule_reg _ ho

@[simp] theorem State.logAccess_twin (off : Nat) (fn : FnId) (kind : Nat) (data : Word) :
    (s.logAccess off fn kind data).twin = s.twin :=
  s.logModule_twin _

theorem State.noteWrite_reg (fn : FnId) (l : Nat) (fs : List Field) (a : Acc) (v : Word) (no : Field → Bool) {o : Nat}
    (ho : o ≠ oMEL_PTR) : (s.noteWrite fn l fs a v no).reg o = s.reg o := by
  unfold State.noteWrite
  split_ifs <;> simp only [State.logAccess_reg _ _ _ _ _ ho]

@[simp] theorem State.noteWrite_twin (fn : FnId) (l : Nat) (fs : List Field) (a : Acc) (v : Word) (no : Field → Bool) :
    (s.noteWrite fn l fs a v no).twin = s.twin := by
  unfold State.noteWrite
  split_ifs <;> simp only [State.logAccess_twin]

/-- A write that reaches a writable field which a rule refuses is logged with kind 1, after the entry for reserved bits. -/
theorem State.noteWrite_of_refused (fn : FnId) (l : Nat) {fs : List Field} {a : Acc} (v : Word) {no : Field → Bool}
    {f : Field} (hf : f ∈ fs) (hw : f.writable = true) (ht : f.touched a = true) (hno : no f = true) :
    s.noteWrite fn l fs a v no =
      (if accWord a v &&& reservedBits fs ≠ 0 then s.logAccess l fn 0 v else s).logAccess l fn 1 v := by
  have hany : fs.any (fun f => f.writable && f.touched a && no f) = true :=
    List.any_eq_true.2 ⟨f, hf, by rw [hw, ht, hno]; rfl⟩
  rw [State.noteWrite, hany, Bool.or_true, if_pos rfl]

end Log

/-! ### A write by PF0 -/

/-- Once the module is READY, a write by PF0 takes effect and is counted. -/
theorem bar0Write_pf0 {s : State} (ha : s.alive = true) (hc : s.power.configReady = true) (hr : s.ready = true) (o : Nat)
    (v : Word) (f : Nat → State) : bar0Write s 0 o v f = .next ((f o).countWrite 0) := by
  simp only [bar0Write, whenever, ha, hc, hr]
  rfl

/-- Outside the tables that act after a FLUSH, a write of a word is its log entries and the merged word. -/
theorem State.wordWrite_of_not_table (s : State) (fn : FnId) (l : Nat) {o : Nat} (ho : isTable o = false) (fs : List Field)
    (a : Acc) (v : Word) (no : Field → Bool) :
    s.wordWrite fn l o fs a v no = (s.noteWrite fn l fs a v no).setReg o (mergeWrite fs (s.reg o) a v no) := by
  simp [State.wordWrite, ho]

/-! ### TW_CTL (R310, R311) -/

theorem isTable_TW_CTL : isTable oTW_CTL = false := by decide

/-- An access of TW_CTL that covers its low half reaches EN. -/
theorem EN_touched {a : Acc} (ha : a ≠ .hi) : (rw 0 0).touched a = true := by
  cases a with
  | full => decide
  | lo => decide
  | hi => exact absurd rfl ha

/-- The fields of TW_CTL that a refused write of EN does not write: EN, and PARTNER_FAB while twin protection is on. -/
def State.twCtlRefuses (s : State) (f : Field) : Bool := f.lo == 0 || (f.lo == 4 && s.twOn)

/-- The state after a refused write of EN by PF0, but for the count of writes. -/
def State.twCtlRefused (s : State) (acc : Acc) (v : Word) : State :=
  (s.noteWrite 0 oTW_CTL (fieldsAt oTW_CTL) acc v s.twCtlRefuses).setReg oTW_CTL
    (mergeWrite (fieldsAt oTW_CTL) (s.reg oTW_CTL) acc v s.twCtlRefuses)

theorem exec_twCtlWrite (fn : FnId) (acc : Acc) (v : Word) (s : State) :
    exec (.twCtlWrite fn acc v) s = execTwCtlWrite fn acc v s := rfl

/-- A refused write of EN is a write of the word with EN refused, and nothing more. -/
theorem exec_twCtlWrite_refused {s : State} {acc : Acc} {v : Word} (ha : s.alive = true)
    (hc : s.power.configReady = true) (hr : s.ready = true) (hacc : acc ≠ .hi)
    (hrefused : s.twEnRefused (v.getLsbD 0) = true) :
    exec (.twCtlWrite 0 acc v) s = .next ((s.twCtlRefused acc v).countWrite 0) := by
  have hlow : (acc != .hi) = true := by simpa using hacc
  rw [exec_twCtlWrite, execTwCtlWrite, bar0Write_pf0 ha hc hr]
  simp only [hlow, hrefused, Bool.and_true, Bool.or_true, if_true, State.wordWrite_of_not_table _ _ _ isTable_TW_CTL]
  rfl

section Refused

variable (s : State) (acc : Acc) (v : Word)

/-- EN keeps its value: PARTNER_FAB, the only field that may be written, does not hold it. -/
theorem State.twCtlRefused_twOn : (s.twCtlRefused acc v).twOn = s.twOn := by
  have hkept : ∀ f ∈ fieldsAt oTW_CTL, f.writable = true → s.twCtlRefuses f = false → f.mask.getLsbD 0 = false := by
    rw [fieldsAt_TW_CTL]
    intro f hf _ hno
    obtain rfl | rfl : f = rw 0 0 ∨ f = rw 15 4 := by simpa using hf
    · exact absurd hno (by simp [State.twCtlRefuses, rw])
    · rw [Field.mask_getLsbD _ _ (by decide)]; rfl
  rw [State.twOn, State.bit_eq_getLsbD, State.twCtlRefused, State.reg_setReg, if_pos rfl,
    mergeWrite_getLsbD_of_refused _ _ _ _ _ (by decide) hkept, ← State.bit_eq_getLsbD, State.twOn]

theorem State.twCtlRefused_twState : (s.twCtlRefused acc v).twState = s.twState := by
  simp only [State.twState, State.fld, State.twCtlRefused, State.reg_setReg]
  rw [if_neg (by decide), State.noteWrite_reg _ _ _ _ _ _ _ (by decide)]

theorem State.twCtlRefused_moduleLog (hacc : acc ≠ .hi) :
    (s.twCtlRefused acc v).moduleLog =
      ((if accWord acc v &&& reservedBits (fieldsAt oTW_CTL) ≠ 0 then s.logAccess oTW_CTL 0 0 v else s).logAccess
        oTW_CTL 0 1 v).moduleLog := by
  have hEN : rw 0 0 ∈ fieldsAt oTW_CTL := by simp [fieldsAt_TW_CTL]
  rw [State.twCtlRefused, State.setReg_moduleLog,
    State.noteWrite_of_refused _ _ _ _ hEN (by decide) (EN_touched hacc) (by rfl)]

end Refused

/-- Settles O53: ranges that are too large refuse EN, so the write is one of the word with EN refused, which changes
TW_CTL outside EN at most and adds the entries of the log. -/
theorem rangesAreBounded : Obligations.rangesAreBounded := by
  intro s acc v ha hc hr hacc hEN sum hlarge noted
  have hrefused : s.twEnRefused (v.getLsbD 0) = true := by
    rw [hEN, State.twEnRefused, if_pos rfl, Bool.or_eq_true, decide_eq_true_eq, decide_eq_true_eq]
    exact hlarge
  refine ⟨_, exec_twCtlWrite_refused ha hc hr hacc hrefused, ?_, ?_, ?_, ?_, ?_⟩
  · exact s.twCtlRefused_twOn acc v
  · exact s.twCtlRefused_twState acc v
  · simp [State.countWrite, State.twCtlRefused]
  · simp [State.twCtlRefused]
  · exact s.twCtlRefused_moduleLog acc v hacc

end Sys2Proof.Machine
end

section
/-! PROOFS. What a command can answer: a well-formed command answers a next state, which is the state as it was where the
module is dead, but for the commands of power and management. Memory, and the queue of commands. -/

namespace Sys2Proof.Machine

/-! ### The shapes of an answer -/

/-- The command acts only while the module is alive. -/
def Acts (s : State) (r : Res) : Prop := ∃ b t, r = whenever b s t

theorem acts_whenever (s t : State) (b : Bool) : Acts s (whenever b s t) := ⟨b, t, rfl⟩

theorem acts_next (s : State) : Acts s (.next s) := ⟨false, s, rfl⟩

theorem acts_onDesc (s : State) (r : RingId) (q : BitVec 32) (opc : Nat) (f : PartId → Desc → State) :
    Acts s (onDesc s r q opc f) := by
  unfold onDesc
  split
  · exact acts_next s
  · exact acts_whenever _ _ _

theorem acts_onRunning (s : State) (r : RingId) (q : BitVec 32) (opc : Nat) (f : PartId → Desc → State) :
    Acts s (onRunning s r q opc f) := by
  unfold onRunning
  split
  · exact acts_next s
  · exact acts_whenever _ _ _

theorem acts_onJoint (s : State) (r : RingId) (q : BitVec 32) (opc : Nat) (f : PartId → Desc → State) :
    Acts s (onJoint s r q opc f) := by
  unfold onJoint
  split
  · exact acts_next s
  · exact acts_whenever _ _ _

theorem acts_onPacket (s : State) (l : LinkId) (type : Nat) (f : State → List Byte → State) :
    Acts s (onPacket s l type f) := by
  unfold onPacket
  split
  · exact acts_next s
  · exact acts_whenever _ _ _

theorem acts_onFlood (s : State) (l : LinkId) (type : Nat) (f : State → List Byte → State) :
    Acts s (onFlood s l type f) := by
  unfold onFlood
  split
  · exact acts_next s
  · exact acts_whenever _ _ _

theorem acts_onResponse (s : State) (l : LinkId) (type : Nat) (f : State → List Byte → PeerReq → State) :
    Acts s (onResponse s l type f) := acts_onPacket _ _ _ _

/-- A well-formed command that does not act always acts only while the module is alive. -/
theorem exec_acts (i : Instr) (s : State) (hw : i.wf = true) (ha : actsAlways i = false) : Acts s (exec i s) := by
  cases i
  all_goals first
    | exact Bool.noConfusion ha
    | exact acts_whenever _ _ _
    | simp only [exec, checked, checkedIf, hw, if_true,
    execNativeSkip, execSyncAnswer, execSyncWithdraw, execBeamMm, execBeamLoad, execBeamAcc, execPlaneAdd,
    execPlaneSub, execPlaneMul, execPlaneFma, execPlaneMax, execPlaneMin, execPlaneAbs, execPlaneNeg,
    execPlaneCvt, execPlaneExp, execPlaneLog, execPlaneRecip, execPlaneRsqrt, execPlaneTanh, execPlaneSigmoid,
    execPlaneRsum, execPlaneRmax, execPlaneOsm, execPlaneLsemerge, execCartCopy, execCartGather,
    execCartScatter, execGrindJob, execPushAfterStall, execCommandAtHead, execCommandStart, execCommandFinish,
    execFetchLineArrive, execFetchError, execLaunchFinish, execPreemptSaveDone, execImageTranslated,
    execTableWalkRead, execCartReadData, execCartWriteAck, execPld, execQwr, execGrindCheck, execGrindStart,
    execGrindDeadline, execGrindMerge, execTitheSlot, execSelfRefreshExit, execRcFieldRead,
    execWatchmanSnapshot, execJointOpen, execJointCommit, execJointAbort, execJointCommitSwap,
    execJointPageWrite, execShadowCopyDone, execFlushReadComplete, execHostReadCompletion, execHostReadTimeout,
    execTailRead, execFetchGrant, execDescriptorFetch, execDescriptorStart, execDescriptorComplete,
    execNopDescriptor, execCopy, execCopyIndexed, execWriteInline, execLaunch, execSignal, execWait,
    execWaitTimeout, execFence, execFlush, execIngressFence, execIngressTimeout, execMap, execGrind,
    execCancel, execAbortPartition, execTimestamp, execContextSwitchDone, execPartitionAbortDone,
    execPartnerBeatRead, execRingAdoption, execRecordAck, execStreamedWrite, execCoreSpare, execSpareCopyDone,
    execFrameReceive, execRd, execWr, execWrm, execTop, execRdr, execWra, execTor, execNotrdy, execErr,
    execAdopt, execRelease, execUnknownPacket, execNotrdyBackoff, execPeerTimeout, execUnreachable,
    execTopProbe, execThermalSample]
  all_goals (repeat' split)
  all_goals first
    | exact acts_whenever _ _ _
    | exact acts_next _
    | exact acts_onDesc _ _ _ _ _
    | exact acts_onRunning _ _ _ _ _
    | exact acts_onJoint _ _ _ _ _
    | exact acts_onPacket _ _ _ _
    | exact acts_onFlood _ _ _ _
    | exact acts_onResponse _ _ _ _
    | contradiction

/-- A command that is not well formed is refused by its name. -/
theorem exec_of_not_wf (i : Instr) (s : State) (hw : i.wf = false) : ∃ n, exec i s = .refused (.illFormed n) := by
  cases i
  all_goals first
    | exact Bool.noConfusion hw
    | exact ⟨_, if_neg (Bool.eq_false_iff.mp hw)⟩

/-- The commands of power and management always answer a next state. -/
theorem exec_actsAlways (i : Instr) (s : State) (ha : actsAlways i = true) : ∃ t, exec i s = .next t := by
  cases i
  all_goals first
    | exact Bool.noConfusion ha
    | exact ⟨_, rfl⟩

/-- A well-formed command answers a next state. -/
theorem exec_of_wf (i : Instr) (s : State) (hw : i.wf = true) : ∃ t, exec i s = .next t := by
  cases ha : actsAlways i with
  | true => exact exec_actsAlways i s ha
  | false =>
    obtain ⟨b, t, e⟩ := exec_acts i s hw ha
    exact ⟨_, e⟩

theorem whenever_of_dead {s : State} (hd : s.alive = false) (b : Bool) (t : State) : whenever b s t = .next s := by
  simp [whenever, hd]

/-- Settles O4: a command that does not act always acts only while the module is alive. -/
theorem deadModuleDoesNothing : Obligations.deadModuleDoesNothing := by
  intro i s hd hw ha
  obtain ⟨b, t, e⟩ := exec_acts i s hw ha
  rw [e, whenever_of_dead hd]

/-! ### FAILED (R320) -/

@[simp] theorem failed_ite (c : Prop) [Decidable c] (s t : State) :
    (if c then s else t).failed = if c then s.failed else t.failed := apply_ite _ c s t

/-- A fold of operations that each keep it keeps the queue. -/
@[simp] theorem failed_foldl {α : Type} (f : State → α → State) (h : ∀ s a, (f s a).failed = s.failed) (l : List α) (s : State) :
    (l.foldl f s).failed = s.failed := by
  induction l generalizing s with
  | nil => rfl
  | cons a l ih => simp [List.foldl, ih, h]

@[simp] theorem failed_foldl_fst {α β : Type} (f : State × β → α → State × β) (h : ∀ x a, (f x a).1.failed = x.1.failed)
    (l : List α) (x : State × β) : (l.foldl f x).1.failed = x.1.failed := by
  induction l generalizing x with
  | nil => rfl
  | cons a l ih => simp [List.foldl, ih, h]

@[simp] theorem failed_foldl_snd {α β : Type} (f : β × State → α → β × State) (h : ∀ x a, (f x a).2.failed = x.2.failed)
    (l : List α) (x : β × State) : (l.foldl f x).2.failed = x.2.failed := by
  induction l generalizing x with
  | nil => rfl
  | cons a l ih => simp [List.foldl, ih, h]

@[simp] theorem State.setFld_failed (s : State) (a2 a3 a4 a5 : _) : (State.setFld s a2 a3 a4 a5).failed = s.failed := by
  simp [State.setFld]

@[simp] theorem State.incFld_failed (s : State) (a2 a3 a4 a5 : _) : (State.incFld s a2 a3 a4 a5).failed = s.failed := by
  simp [State.incFld]

@[simp] theorem State.satFld_failed (s : State) (a2 a3 a4 a5 : _) : (State.satFld s a2 a3 a4 a5).failed = s.failed := by
  simp [State.satFld]

@[simp] theorem State.setBoth_failed (s : State) (a2 a3 a4 a5 : _) : (State.setBoth s a2 a3 a4 a5).failed = s.failed := by
  simp [State.setBoth]

@[simp] theorem State.modCore_failed (s : State) (a2 a3 : _) : (State.modCore s a2 a3).failed = s.failed := by
  simp [State.modCore]

@[simp] theorem State.modPart_failed (s : State) (a2 a3 : _) : (State.modPart s a2 a3).failed = s.failed := by
  simp [State.modPart]

@[simp] theorem State.modRing_failed (s : State) (a2 a3 : _) : (State.modRing s a2 a3).failed = s.failed := by
  simp [State.modRing]

@[simp] theorem State.modLink_failed (s : State) (a2 a3 : _) : (State.modLink s a2 a3).failed = s.failed := by
  simp [State.modLink]

@[simp] theorem State.logPart_failed (s : State) (a2 a3 : _) : (State.logPart s a2 a3).failed = s.failed := by
  simp [State.logPart]

@[simp] theorem State.toHost_failed (s : State) (a2 : _) : (State.toHost s a2).failed = s.failed := by
  unfold State.toHost
  (repeat' split) <;> simp

@[simp] theorem State.hostReadIn_failed (s : State) (a2 a3 a4 a5 a6 : _) : (State.hostReadIn s a2 a3 a4 a5 a6).2.failed = s.failed := by
  simp [State.hostReadIn]

@[simp] theorem State.hostRead_failed (s : State) (a2 a3 a4 a5 : _) : (State.hostRead s a2 a3 a4 a5).2.failed = s.failed := by
  simp [State.hostRead]

@[simp] theorem State.pumpFlush_failed (s : State) (a2 : _) : (State.pumpFlush s a2).failed = s.failed := by
  unfold State.pumpFlush
  (repeat' split) <;> simp

@[simp] theorem State.eventLine_failed (s : State) (a2 a3 a4 a5 a6 : _) : (State.eventLine s a2 a3 a4 a5 a6).failed = s.failed := by
  simp [State.eventLine]

@[simp] theorem State.modDesc_failed (s : State) (a2 a3 a4 : _) : (State.modDesc s a2 a3 a4).failed = s.failed := by
  unfold State.modDesc
  split <;> simp

@[simp] theorem State.endDesc_failed (s : State) (a2 a3 a4 : _) : (State.endDesc s a2 a3 a4).failed = s.failed := by
  simp [State.endDesc]

@[simp] theorem State.sendFrame_failed (s : State) (a2 a3 a4 : _) : (State.sendFrame s a2 a3 a4).failed = s.failed := by
  simp [State.sendFrame]

@[simp] theorem State.pumpLink_failed (s : State) (a2 a3 : _) : (State.pumpLink s a2 a3).failed = s.failed := by
  induction a3 generalizing s with
  | zero => simp [State.pumpLink]
  | succ n ih =>
    unfold State.pumpLink
    dsimp only
    (repeat' split) <;> simp [ih]

@[simp] theorem State.transmit_failed (s : State) (a2 a3 : _) : (State.transmit s a2 a3).failed = s.failed := by
  simp [State.transmit]

@[simp] theorem State.route_failed (s : State) (a2 a3 a4 : _) : (State.route s a2 a3 a4).failed = s.failed := by
  simp [State.route] <;> (repeat' split) <;> simp

@[simp] theorem State.respond_failed (s : State) (a2 a3 a4 a5 a6 : _) : (State.respond s a2 a3 a4 a5 a6).failed = s.failed := by
  simp [State.respond]

@[simp] theorem State.respondTor_failed (s : State) (a2 a3 a4 : _) : (State.respondTor s a2 a3 a4).failed = s.failed := by
  simp [State.respondTor]

@[simp] theorem State.touched_failed (s : State) (a2 : _) : (State.touched s a2).failed = s.failed := by
  unfold State.touched
  split <;> simp

@[simp] theorem State.modEng_failed (s : State) (a2 a3 a4 : _) : (State.modEng s a2 a3 a4).failed = s.failed := by
  simp [State.modEng]

@[simp] theorem State.release_failed (s : State) (a2 a3 : _) : (State.release s a2 a3).failed = s.failed := by
  unfold State.release
  split <;> simp

@[simp] theorem State.releaseAll_failed (s : State) (a2 a3 : _) : (State.releaseAll s a2 a3).failed = s.failed := by
  simp [State.releaseAll]

@[simp] theorem State.servePeg_failed (s : State) (a2 : _) : (State.servePeg s a2).failed = s.failed := by
  simp [State.servePeg]

@[simp] theorem State.serveTally_failed (s : State) (a2 : _) : (State.serveTally s a2).failed = s.failed := by
  simp [State.serveTally]

@[simp] theorem State.serveTallies_failed (s : State) : (State.serveTallies s).failed = s.failed := by
  simp [State.serveTallies]

@[simp] theorem State.sendWithdraw_failed (s : State) (a2 : _) : (State.sendWithdraw s a2).failed = s.failed := by
  unfold State.sendWithdraw
  split <;> simp

@[simp] theorem State.statusLine_failed (s : State) (a2 : _) : (State.statusLine s a2).failed = s.failed := by
  simp [State.statusLine]

@[simp] theorem State.closeAbort_failed (s : State) (a2 : _) : (State.closeAbort s a2).failed = s.failed := by
  simp [State.closeAbort]

@[simp] theorem State.modJoint_failed (s : State) (a2 a3 a4 : _) : (State.modJoint s a2 a3 a4).failed = s.failed := by
  simp [State.modJoint]

@[simp] theorem State.dropWaits_failed (s : State) (a2 a3 : _) : (State.dropWaits s a2 a3).failed = s.failed := by
  unfold State.dropWaits
  dsimp only
  rw [failed_foldl _ (by intros; simp), failed_foldl _ (by intros; simp), failed_foldl _ (by intros; simp)]

@[simp] theorem State.withdrawRemote_failed (s : State) (a2 a3 : _) : (State.withdrawRemote s a2 a3).failed = s.failed := by
  unfold State.withdrawRemote
  split <;> simp

@[simp] theorem State.logResidue_failed (s : State) (a2 a3 : _) : (State.logResidue s a2 a3).failed = s.failed := by
  unfold State.logResidue
  split <;> simp

@[simp] theorem State.zeroBell_failed (s : State) (a2 : _) : (State.zeroBell s a2).failed = s.failed := by
  simp [State.zeroBell]

@[simp] theorem State.zeroObjects_failed (s : State) (a2 a3 : _) : (State.zeroObjects s a2 a3).failed = s.failed := by
  unfold State.zeroObjects
  dsimp only
  split
  · rfl
  · simp only [State.touched_failed, State.serveTallies_failed]
    rw [failed_foldl _ (by intros; simp), failed_foldl _ (by intros; simp), failed_foldl _ (by intros; simp)]

@[simp] theorem State.abortJoints_failed (s : State) (a2 : _) : (State.abortJoints s a2).failed = s.failed := by
  simp [State.abortJoints]

@[simp] theorem State.stopHostCarts_failed (s : State) (a2 : _) : (State.stopHostCarts s a2).failed = s.failed := by
  simp [State.stopHostCarts]

@[simp] theorem State.beginAbort_failed (s : State) (a2 a3 : _) : (State.beginAbort s a2 a3).failed = s.failed := by
  simp [State.beginAbort]

@[simp] theorem State.discardBut_failed (s : State) (a2 a3 : _) : (State.discardBut s a2 a3).failed = s.failed := by
  simp [State.discardBut]

@[simp] theorem State.discardDescs_failed (s : State) (a2 : _) : (State.discardDescs s a2).failed = s.failed := by
  simp [State.discardDescs]

@[simp] theorem State.retireRing_failed (s : State) (a2 : _) : (State.retireRing s a2).failed = s.failed := by
  simp [State.retireRing]

@[simp] theorem State.dropCores_failed (s : State) (a2 : _) : (State.dropCores s a2).failed = s.failed := by
  simp [State.dropCores]

@[simp] theorem State.dropContexts_failed (s : State) (a2 : _) : (State.dropContexts s a2).failed = s.failed := by
  unfold State.dropContexts
  (repeat' split) <;> simp

@[simp] theorem State.abortNotice_failed (s : State) (a2 a3 : _) : (State.abortNotice s a2 a3).failed = s.failed := by
  unfold State.abortNotice
  dsimp only
  generalize hs : (s.part a2).abort = r
  rcases r with _ | r
  · simp only [State.closeAbort_failed, State.modPart_failed]
  · cases r <;> simp only [State.endDesc_failed, State.eventLine_failed, State.closeAbort_failed, State.modPart_failed]

@[simp] theorem State.resetVf_failed (s : State) (a2 : _) : (State.resetVf s a2).failed = s.failed := by
  simp [State.resetVf]

@[simp] theorem State.resetEntries_failed (s : State) (a2 : _) : (State.resetEntries s a2).failed = s.failed := by
  simp [State.resetEntries]

@[simp] theorem State.afterReset_failed (s t : State) (p : PartId) (h : t.failed = s.failed) : (s.afterReset t p).failed = s.failed := by
  unfold State.afterReset
  split
  · simp [h]
  · split <;> simp [h]

@[simp] theorem State.endAbort_failed (s : State) (a2 : _) : (State.endAbort s a2).failed = s.failed := by
  simp [State.endAbort]

@[simp] theorem State.abortFor_failed (s : State) (a2 a3 : _) : (State.abortFor s a2 a3).failed = s.failed := by
  simp [State.abortFor]

@[simp] theorem State.abortNow_failed (s : State) (a2 : _) : (State.abortNow s a2).failed = s.failed := by
  simp [State.abortNow]

@[simp] theorem State.hostReset_failed (s : State) : (State.hostReset s).failed = s.failed := by
  simp [State.hostReset]

@[simp] theorem State.fresh_failed (s : State) : (State.fresh s).2.failed = s.failed := by
  simp [State.fresh]

@[simp] theorem State.logModule_failed (s : State) (a2 : _) : (State.logModule s a2).failed = s.failed := by
  simp [State.logModule]

theorem State.raiseRails_failed (s : State) : s.raiseRails.failed = s.failed := by
  unfold State.raiseRails
  split <;> rfl

theorem State.powerDown_pwrgd (s : State) : s.powerDown.power.pwrgd = false := by
  unfold State.powerDown
  dsimp only
  (repeat' split) <;> rfl

theorem State.railLost_pwrgd (s : State) : s.railLost.power.pwrgd = false := State.powerDown_pwrgd _

/-- The commands of power and management end FAILED only by taking PWRGD away. -/
theorem exec_actsAlways_failed (i : Instr) (s : State) (hf : s.failed = true) (ha : actsAlways i = true) :
    (stateOf s (exec i s)).failed = true ∨ (stateOf s (exec i s)).power.pwrgd = false := by
  cases i
  all_goals first
    | exact Bool.noConfusion ha
    | skip
  all_goals simp only [exec, execLinkDown2ms, execModEnRise, execModEnFall, execRailInRegulation, execRailFault,
    execInputRise, execBulkChargeDone, execInputOutOfRange, execModEnHoldoffEnd, execPllLoss, execEntdaa, execRstdaa,
    execSetnewda, execGetpid, execGetbcr, execGetdcr, execGetstatus, execGetmxds, execEnec, execDisec,
    execI3cPrivateWrite, execI3cPrivateRead, State.answerI3c, State.chainOut, stateOf_always]
  all_goals (repeat' split)
  all_goals simp [hf, State.raiseRails_failed, State.railLost_pwrgd, State.powerDown_pwrgd]

/-- Settles O5: in FAILED only the commands of power and management act. -/
theorem failedUntilPowerDown : Obligations.failedUntilPowerDown := by
  intro i s t hf ht
  have hd : s.alive = false := by simp [State.alive, hf]
  cases hw : i.wf with
  | false =>
    obtain ⟨n, e⟩ := exec_of_not_wf i s hw
    rw [e] at ht
    cases ht
  | true =>
    cases ha : actsAlways i with
    | false =>
      rw [deadModuleDoesNothing i s hd hw ha] at ht
      cases ht
      exact .inl hf
    | true =>
      have h := exec_actsAlways_failed i s hf ha
      rwa [stateOf_of_next ht] at h

end Sys2Proof.Machine
end

section
/-! PROOFS. A step, the module at reset, and device memory: what keeps it, and its canonical form. -/

namespace Sys2Proof.Machine

/-! ### A step, and the module at reset -/

/-- Settles O1: the second branch of `step`. -/
theorem stepRunsFront : Obligations.stepRunsFront := by
  intro s c rest h
  simp only [step, h]

/-- Settles O7: nothing is listed. -/
theorem resetMemoryIsWellFormed : Obligations.resetMemoryIsWellFormed := rfl

/-! ### Device memory -/

/-- The commands outside `mayStore` leave device memory as it is. -/
theorem exec_mem (i : Instr) (s : State) (h : mayStore i = false) : (stateOf s (exec i s)).mem = s.mem := by
  cases i <;> first | exact Bool.noConfusion h | simp [exec]

/-- Settles O6: memory as a whole is unchanged, so each of its bytes is. -/
theorem commandsWithoutStores : Obligations.commandsWithoutStores := by
  intro i s t h ht a
  have hm : t.mem = s.mem := by rw [← stateOf_of_next ht]; exact exec_mem i s h
  simp only [State.byte, hm]

/-- Every command keeps the canonical form of device memory. -/
theorem exec_memWf (i : Instr) (s : State) (h : memWf s = true) : memWf (stateOf s (exec i s)) = true := by
  unfold memWf at *
  cases i <;> simp [exec, h]

/-- Settles O8: a step is a command, which keeps the form, or a tick, which keeps it too. -/
theorem stepKeepsMemoryWellFormed : Obligations.stepKeepsMemoryWellFormed := by
  intro s t h ht
  cases hp : s.pending with
  | nil =>
    simp only [step, hp] at ht
    cases ht
    exact State.tick_wf s h
  | cons c rest =>
    rw [stepRunsFront s c rest hp] at ht
    have hk := exec_memWf c { s with pending := rest } h
    rw [stateOf_of_next ht] at hk
    exact hk

end Sys2Proof.Machine
end

section
/-! PROOFS. Where a command or a tick waits for a channel or a peer, the direct accesses note it in `stalls`, and
`State.settle` decides by that note (log entry 17). No other operation touches it, and it is empty afterwards. -/

namespace Sys2Proof.Machine

/-! ### The operations that note nothing -/

@[simp] theorem stalls_ite (c : Prop) [Decidable c] (s t : State) :
    (if c then s else t).stalls = if c then s.stalls else t.stalls := apply_ite _ c s t

/-- A fold of operations that each keep it keeps the queue. -/
@[simp] theorem stalls_foldl {α : Type} (f : State → α → State) (h : ∀ s a, (f s a).stalls = s.stalls) (l : List α) (s : State) :
    (l.foldl f s).stalls = s.stalls := by
  induction l generalizing s with
  | nil => rfl
  | cons a l ih => simp [List.foldl, ih, h]

@[simp] theorem stalls_foldl_fst {α β : Type} (f : State × β → α → State × β) (h : ∀ x a, (f x a).1.stalls = x.1.stalls)
    (l : List α) (x : State × β) : (l.foldl f x).1.stalls = x.1.stalls := by
  induction l generalizing x with
  | nil => rfl
  | cons a l ih => simp [List.foldl, ih, h]

@[simp] theorem stalls_foldl_snd {α β : Type} (f : β × State → α → β × State) (h : ∀ x a, (f x a).2.stalls = x.2.stalls)
    (l : List α) (x : β × State) : (l.foldl f x).2.stalls = x.2.stalls := by
  induction l generalizing x with
  | nil => rfl
  | cons a l ih => simp [List.foldl, ih, h]

@[simp] theorem State.setFld_stalls (s : State) (a2 a3 a4 a5 : _) : (State.setFld s a2 a3 a4 a5).stalls = s.stalls := by
  simp [State.setFld]

@[simp] theorem State.incFld_stalls (s : State) (a2 a3 a4 a5 : _) : (State.incFld s a2 a3 a4 a5).stalls = s.stalls := by
  simp [State.incFld]

@[simp] theorem State.satFld_stalls (s : State) (a2 a3 a4 a5 : _) : (State.satFld s a2 a3 a4 a5).stalls = s.stalls := by
  simp [State.satFld]

@[simp] theorem State.setBoth_stalls (s : State) (a2 a3 a4 a5 : _) : (State.setBoth s a2 a3 a4 a5).stalls = s.stalls := by
  simp [State.setBoth]

@[simp] theorem State.fresh_stalls (s : State) : (State.fresh s).2.stalls = s.stalls := by
  simp [State.fresh]

@[simp] theorem State.newId_stalls (s : State) : (State.newId s).2.stalls = s.stalls := by
  simp [State.newId]

@[simp] theorem State.inBand_stalls (s : State) (a2 : _) : (State.inBand s a2).stalls = s.stalls := by
  simp [State.inBand]

@[simp] theorem State.modCore_stalls (s : State) (a2 a3 : _) : (State.modCore s a2 a3).stalls = s.stalls := by
  simp [State.modCore]

@[simp] theorem State.modPart_stalls (s : State) (a2 a3 : _) : (State.modPart s a2 a3).stalls = s.stalls := by
  simp [State.modPart]

@[simp] theorem State.modChan_stalls (s : State) (a2 a3 : _) : (State.modChan s a2 a3).stalls = s.stalls := by
  simp [State.modChan]

@[simp] theorem State.modRing_stalls (s : State) (a2 a3 : _) : (State.modRing s a2 a3).stalls = s.stalls := by
  simp [State.modRing]

@[simp] theorem State.modLink_stalls (s : State) (a2 a3 : _) : (State.modLink s a2 a3).stalls = s.stalls := by
  simp [State.modLink]

@[simp] theorem State.logPart_stalls (s : State) (a2 a3 : _) : (State.logPart s a2 a3).stalls = s.stalls := by
  simp [State.logPart]

@[simp] theorem State.logModule_stalls (s : State) (a2 : _) : (State.logModule s a2).stalls = s.stalls := by
  simp [State.logModule]

@[simp] theorem State.logAny_stalls (s : State) (a2 a3 : _) : (State.logAny s a2 a3).stalls = s.stalls := by
  unfold State.logAny
  split <;> simp

@[simp] theorem State.logAccess_stalls (s : State) (a2 a3 a4 a5 : _) : (State.logAccess s a2 a3 a4 a5).stalls = s.stalls := by
  simp [State.logAccess]

@[simp] theorem State.logChan_stalls (s : State) (a2 a3 a4 a5 a6 a7 : _) : (State.logChan s a2 a3 a4 a5 a6 a7).stalls = s.stalls := by
  simp [State.logChan]

@[simp] theorem State.traceRec_stalls (s : State) (a2 a3 a4 a5 a6 a7 a8 a9 a10 : _) : (State.traceRec s a2 a3 a4 a5 a6 a7 a8 a9 a10).stalls = s.stalls := by
  unfold State.traceRec
  split <;> simp

@[simp] theorem State.countN_stalls (s : State) (a2 a3 a4 : _) : (State.countN s a2 a3 a4).stalls = s.stalls := by
  unfold State.countN
  split <;> simp

@[simp] theorem State.count_stalls (s : State) (a2 a3 : _) : (State.count s a2 a3).stalls = s.stalls := by
  simp [State.count]

@[simp] theorem State.toHost_stalls (s : State) (a2 : _) : (State.toHost s a2).stalls = s.stalls := by
  unfold State.toHost
  (repeat' split) <;> simp

@[simp] theorem State.hostReadIn_stalls (s : State) (a2 a3 a4 a5 a6 : _) : (State.hostReadIn s a2 a3 a4 a5 a6).2.stalls = s.stalls := by
  simp [State.hostReadIn]

@[simp] theorem State.hostRead_stalls (s : State) (a2 a3 a4 a5 : _) : (State.hostRead s a2 a3 a4 a5).2.stalls = s.stalls := by
  simp [State.hostRead]

@[simp] theorem State.issueRead_stalls (s : State) (a2 : _) : (State.issueRead s a2).stalls = s.stalls := by
  simp [State.issueRead]

@[simp] theorem State.issueReads_stalls (s : State) : (State.issueReads s).stalls = s.stalls := by
  simp [State.issueReads]

@[simp] theorem State.pumpFlush_stalls (s : State) (a2 : _) : (State.pumpFlush s a2).stalls = s.stalls := by
  unfold State.pumpFlush
  (repeat' split) <;> simp

@[simp] theorem State.eventLine_stalls (s : State) (a2 a3 a4 a5 a6 : _) : (State.eventLine s a2 a3 a4 a5 a6).stalls = s.stalls := by
  simp [State.eventLine]

@[simp] theorem State.raise_stalls (s : State) (a2 a3 a4 a5 : _) : (State.raise s a2 a3 a4 a5).stalls = s.stalls := by
  simp [State.raise]

@[simp] theorem State.modLaunch_stalls (s : State) (a2 a3 : _) : (State.modLaunch s a2 a3).stalls = s.stalls := by
  unfold State.modLaunch
  split <;> simp

@[simp] theorem State.kpSkip_stalls (s : State) (a2 a3 a4 : _) : (State.kpSkip s a2 a3 a4).stalls = s.stalls := by
  simp [State.kpSkip]

@[simp] theorem State.cmdSkip_stalls (s : State) (a2 a3 a4 a5 a6 a7 : _) : (State.cmdSkip s a2 a3 a4 a5 a6 a7).stalls = s.stalls := by
  simp [State.cmdSkip]

@[simp] theorem State.modDesc_stalls (s : State) (a2 a3 a4 : _) : (State.modDesc s a2 a3 a4).stalls = s.stalls := by
  unfold State.modDesc
  split <;> simp

@[simp] theorem State.endDesc_stalls (s : State) (a2 a3 a4 : _) : (State.endDesc s a2 a3 a4).stalls = s.stalls := by
  simp [State.endDesc]

@[simp] theorem State.flagDesc_stalls (s : State) (a2 a3 a4 : _) : (State.flagDesc s a2 a3 a4).stalls = s.stalls := by
  simp [State.flagDesc]

@[simp] theorem State.issue_stalls (s : State) (a2 a3 a4 a5 a6 a7 a8 : _) : (State.issue s a2 a3 a4 a5 a6 a7 a8).2.stalls = s.stalls := by
  simp [State.issue]

@[simp] theorem State.sendFrame_stalls (s : State) (a2 a3 a4 : _) : (State.sendFrame s a2 a3 a4).stalls = s.stalls := by
  simp [State.sendFrame]

@[simp] theorem State.freeBuffer_stalls (s : State) (a2 a3 : _) : (State.freeBuffer s a2 a3).stalls = s.stalls := by
  simp [State.freeBuffer]

@[simp] theorem State.pumpLink_stalls (s : State) (a2 a3 : _) : (State.pumpLink s a2 a3).stalls = s.stalls := by
  induction a3 generalizing s with
  | zero => simp [State.pumpLink]
  | succ n ih =>
    unfold State.pumpLink
    dsimp only
    (repeat' split) <;> simp [ih]

@[simp] theorem State.transmit_stalls (s : State) (a2 a3 : _) : (State.transmit s a2 a3).stalls = s.stalls := by
  simp [State.transmit]

@[simp] theorem State.route_stalls (s : State) (a2 a3 a4 : _) : (State.route s a2 a3 a4).stalls = s.stalls := by
  simp [State.route] <;> (repeat' split) <;> simp

@[simp] theorem State.routeHeld_stalls (s : State) : (State.routeHeld s).stalls = s.stalls := by
  simp [State.routeHeld]

@[simp] theorem State.respond_stalls (s : State) (a2 a3 a4 a5 a6 : _) : (State.respond s a2 a3 a4 a5 a6).stalls = s.stalls := by
  simp [State.respond]

@[simp] theorem State.respondErr_stalls (s : State) (a2 a3 : _) : (State.respondErr s a2 a3).stalls = s.stalls := by
  simp [State.respondErr]

@[simp] theorem State.reply_stalls (s : State) (a2 a3 a4 a5 a6 a7 : _) : (State.reply s a2 a3 a4 a5 a6 a7).stalls = s.stalls := by
  simp [State.reply]

@[simp] theorem State.respondTor_stalls (s : State) (a2 a3 a4 : _) : (State.respondTor s a2 a3 a4).stalls = s.stalls := by
  simp [State.respondTor]

@[simp] theorem State.request_stalls (s : State) (a2 a3 a4 a5 a6 a7 a8 a9 a10 : _) : (State.request s a2 a3 a4 a5 a6 a7 a8 a9 a10).2.stalls = s.stalls := by
  simp [State.request]

@[simp] theorem State.sendTwin_stalls (s : State) (a2 a3 a4 : _) : (State.sendTwin s a2 a3 a4).stalls = s.stalls := by
  simp [State.sendTwin]

@[simp] theorem State.sendTwinAll_stalls (s : State) (a2 a3 : _) : (State.sendTwinAll s a2 a3).stalls = s.stalls := by
  simp [State.sendTwinAll]

@[simp] theorem State.sendTwinOne_stalls (s : State) (a2 a3 : _) : (State.sendTwinOne s a2 a3).stalls = s.stalls := by
  unfold State.sendTwinOne
  split <;> simp

@[simp] theorem State.moduleFail_stalls (s : State) : (State.moduleFail s).stalls = s.stalls := by
  simp [State.moduleFail]

@[simp] theorem State.noteWrite_stalls (s : State) (a2 a3 a4 a5 a6 a7 : _) : (State.noteWrite s a2 a3 a4 a5 a6 a7).stalls = s.stalls := by
  simp [State.noteWrite]

@[simp] theorem State.countWrite_stalls (s : State) (a2 : _) : (State.countWrite s a2).stalls = s.stalls := by
  simp [State.countWrite]

@[simp] theorem State.ignored_stalls (s : State) : (State.ignored s).stalls = s.stalls := by
  simp [State.ignored]

@[simp] theorem bar0Write_stalls (s : State) (fn : FnId) (o : Nat) (v : Word) (f : Nat → State) (h : ∀ l, (f l).stalls = s.stalls) : (stateOf s (bar0Write s fn o v f)).stalls = s.stalls := by
  simp only [bar0Write]
  split <;> [simp; (split <;> simp [h])]

@[simp] theorem State.wordWrite_stalls (s : State) (a2 a3 a4 a5 a6 a7 a8 : _) : (State.wordWrite s a2 a3 a4 a5 a6 a7 a8).stalls = s.stalls := by
  simp [State.wordWrite]

@[simp] theorem State.refuseWrite_stalls (s : State) (a2 a3 a4 : _) : (State.refuseWrite s a2 a3 a4).stalls = s.stalls := by
  simp [State.refuseWrite]

@[simp] theorem State.setErrors_stalls (s : State) (a2 a3 : _) : (State.setErrors s a2 a3).stalls = s.stalls := by
  simp [State.setErrors]

@[simp] theorem State.acquire_stalls (s : State) (a2 : _) : (State.acquire s a2).stalls = s.stalls := by
  simp [State.acquire]

@[simp] theorem State.freshLine_stalls (s : State) : (State.freshLine s).2.stalls = s.stalls := by
  simp [State.freshLine]

@[simp] theorem State.peekLine_stalls (s : State) (a2 : _) : (State.peekLine s a2).2.stalls = s.stalls := by
  simp [State.peekLine] <;> (repeat' split) <;> simp

@[simp] theorem State.spareBank_stalls (s : State) (a2 a3 : _) : (State.spareBank s a2 a3).stalls = s.stalls := by
  simp [State.spareBank]

@[simp] theorem State.spareRow_stalls (s : State) (a2 : _) : (State.spareRow s a2).stalls = s.stalls := by
  simp [State.spareRow]

@[simp] theorem State.rowError_stalls (s : State) (a2 : _) : (State.rowError s a2).stalls = s.stalls := by
  simp [State.rowError]

@[simp] theorem State.readLine_stalls (s : State) (a2 : _) : (State.readLine s a2).2.stalls = s.stalls := by
  simp [State.readLine] <;> (repeat' split) <;> simp

@[simp] theorem State.writeLine_stalls (s : State) (a2 a3 : _) : (State.writeLine s a2 a3).stalls = s.stalls := by
  simp [State.writeLine]

@[simp] theorem State.copyLine_stalls (s : State) (a2 : _) : (State.copyLine s a2).stalls = s.stalls := by
  simp [State.copyLine]

@[simp] theorem execSpareCopyDone_stalls (s : State) (a1 : _) : (stateOf s (execSpareCopyDone a1 s)).stalls = s.stalls := by
  unfold execSpareCopyDone
  split <;> simp

@[simp] theorem State.refuseReq_stalls (s : State) (a2 a3 a4 a5 : _) : (State.refuseReq s a2 a3 a4 a5).1.stalls = s.stalls := by
  simp [State.refuseReq]

@[simp] theorem State.arrive_stalls (s : State) (a2 : _) : (State.arrive s a2).1.stalls = s.stalls := by
  simp [State.arrive] <;> (repeat' split) <;> simp

@[simp] theorem State.performReq_stalls (s : State) (a2 a3 : _) : (State.performReq s a2 a3).1.stalls = s.stalls := by
  simp [State.performReq] <;> (repeat' split) <;> simp

@[simp] theorem State.serveAt_stalls (s : State) (a2 a3 : _) : (State.serveAt s a2 a3).1.stalls = s.stalls := by
  unfold State.serveAt
  (repeat' split) <;> simp

@[simp] theorem execRefresh_stalls (s : State) (a1 : _) : (stateOf s (execRefresh a1 s)).stalls = s.stalls := by
  simp [execRefresh]

@[simp] theorem execSelfRefreshEntry_stalls (s : State) (a1 : _) : (stateOf s (execSelfRefreshEntry a1 s)).stalls = s.stalls := by
  simp [execSelfRefreshEntry]

@[simp] theorem State.moveLane_stalls (s : State) (a2 a3 a4 : _) : (State.moveLane s a2 a3 a4).1.stalls = s.stalls := by
  simp [State.moveLane]

@[simp] theorem State.calibrate_stalls (s : State) (a2 a3 : _) : (State.calibrate s a2 a3).stalls = s.stalls := by
  simp [State.calibrate]

@[simp] theorem execSelfRefreshExit_stalls (s : State) (a1 a2 : _) : (stateOf s (execSelfRefreshExit a1 a2 s)).stalls = s.stalls := by
  simp [execSelfRefreshExit]

@[simp] theorem State.scrubOne_stalls (s : State) (a2 a3 : _) : (State.scrubOne s a2 a3).stalls = s.stalls := by
  simp [State.scrubOne]

@[simp] theorem State.scrub_stalls (s : State) (a2 : _) : (State.scrub s a2).stalls = s.stalls := by
  simp [State.scrub]

@[simp] theorem execTitheSlot_stalls (s : State) (a1 a2 a3 : _) : (stateOf s (execTitheSlot a1 a2 a3 s)).stalls = s.stalls := by
  simp [execTitheSlot]

@[simp] theorem State.enableChan_stalls (s : State) (a2 : _) : (State.enableChan s a2).stalls = s.stalls := by
  simp [State.enableChan]

@[simp] theorem execChCtlWrite_stalls (s : State) (a1 a2 a3 a4 : _) : (stateOf s (execChCtlWrite a1 a2 a3 a4 s)).stalls = s.stalls := by
  simp [execChCtlWrite]

@[simp] theorem execElogPtrWrite_stalls (s : State) (a1 a2 a3 a4 : _) : (stateOf s (execElogPtrWrite a1 a2 a3 a4 s)).stalls = s.stalls := by
  simp [execElogPtrWrite]

@[simp] theorem State.logEntry_stalls (s : State) (a2 a3 a4 a5 a6 a7 a8 : _) : (State.logEntry s a2 a3 a4 a5 a6 a7 a8).stalls = s.stalls := by
  simp [State.logEntry]

@[simp] theorem State.logXlate_stalls (s : State) (a2 a3 a4 a5 a6 a7 a8 a9 : _) : (State.logXlate s a2 a3 a4 a5 a6 a7 a8 a9).stalls = s.stalls := by
  simp [State.logXlate]

@[simp] theorem State.access_stalls (s : State) (a2 a3 a4 a5 a6 a7 : _) : (State.access s a2 a3 a4 a5 a6 a7).2.stalls = s.stalls := by
  unfold State.access
  (repeat' split) <;> simp

theorem State.takeResp_stalls (s : State) (a2 : _) (x t : _) (h : State.takeResp s a2 = some (x, t)) : t.stalls = s.stalls := by
  unfold State.takeResp at h
  cases hf : s.responses.find? (fun r => r.req.id == a2) with
  | none => simp [hf] at h
  | some r => simp [hf] at h; obtain ⟨_, rfl⟩ := h; rfl

@[simp] theorem scalarOp_stalls (s : State) (c : CoreId) (f : Core → Core)  : (stateOf s (scalarOp s c f)).stalls = s.stalls := by
  simp [scalarOp]

@[simp] theorem branchOp_stalls (s : State) (c : CoreId) (imm : BitVec 32) (f : Core → Core) (taken : Core → Bool)  : (stateOf s (branchOp s c imm f taken)).stalls = s.stalls := by
  simp [branchOp]

@[simp] theorem execNop_stalls (s : State) (a1 : _) : (stateOf s (execNop a1 s)).stalls = s.stalls := by
  simp [execNop]

@[simp] theorem execEndProg_stalls (s : State) (a1 : _) : (stateOf s (execEndProg a1 s)).stalls = s.stalls := by
  simp [execEndProg]

@[simp] theorem execLi_stalls (s : State) (a1 a2 a3 : _) : (stateOf s (execLi a1 a2 a3 s)).stalls = s.stalls := by
  simp [execLi]

@[simp] theorem execLui_stalls (s : State) (a1 a2 a3 : _) : (stateOf s (execLui a1 a2 a3 s)).stalls = s.stalls := by
  simp [execLui]

@[simp] theorem execMov_stalls (s : State) (a1 a2 a3 : _) : (stateOf s (execMov a1 a2 a3 s)).stalls = s.stalls := by
  simp [execMov]

@[simp] theorem execTime_stalls (s : State) (a1 a2 : _) : (stateOf s (execTime a1 a2 s)).stalls = s.stalls := by
  simp [execTime]

@[simp] theorem binOp_stalls (s : State) (c : CoreId) (rd ra rb : SReg) (f : Word → Word → Word)  : (stateOf s (binOp s c rd ra rb f)).stalls = s.stalls := by
  simp [binOp]

@[simp] theorem immOp_stalls (s : State) (c : CoreId) (rd ra : SReg) (imm : BitVec 32) (f : Word → Word → Word)  : (stateOf s (immOp s c rd ra imm f)).stalls = s.stalls := by
  simp [immOp]

@[simp] theorem execAdd_stalls (s : State) (a1 a2 a3 a4 : _) : (stateOf s (execAdd a1 a2 a3 a4 s)).stalls = s.stalls := by
  simp [execAdd]

@[simp] theorem execSub_stalls (s : State) (a1 a2 a3 a4 : _) : (stateOf s (execSub a1 a2 a3 a4 s)).stalls = s.stalls := by
  simp [execSub]

@[simp] theorem execAnd_stalls (s : State) (a1 a2 a3 a4 : _) : (stateOf s (execAnd a1 a2 a3 a4 s)).stalls = s.stalls := by
  simp [execAnd]

@[simp] theorem execOr_stalls (s : State) (a1 a2 a3 a4 : _) : (stateOf s (execOr a1 a2 a3 a4 s)).stalls = s.stalls := by
  simp [execOr]

@[simp] theorem execXor_stalls (s : State) (a1 a2 a3 a4 : _) : (stateOf s (execXor a1 a2 a3 a4 s)).stalls = s.stalls := by
  simp [execXor]

@[simp] theorem execShl_stalls (s : State) (a1 a2 a3 a4 : _) : (stateOf s (execShl a1 a2 a3 a4 s)).stalls = s.stalls := by
  simp [execShl]

@[simp] theorem execShr_stalls (s : State) (a1 a2 a3 a4 : _) : (stateOf s (execShr a1 a2 a3 a4 s)).stalls = s.stalls := by
  simp [execShr]

@[simp] theorem execSra_stalls (s : State) (a1 a2 a3 a4 : _) : (stateOf s (execSra a1 a2 a3 a4 s)).stalls = s.stalls := by
  simp [execSra]

@[simp] theorem execAddi_stalls (s : State) (a1 a2 a3 a4 : _) : (stateOf s (execAddi a1 a2 a3 a4 s)).stalls = s.stalls := by
  simp [execAddi]

@[simp] theorem execShli_stalls (s : State) (a1 a2 a3 a4 : _) : (stateOf s (execShli a1 a2 a3 a4 s)).stalls = s.stalls := by
  simp [execShli]

@[simp] theorem execShri_stalls (s : State) (a1 a2 a3 a4 : _) : (stateOf s (execShri a1 a2 a3 a4 s)).stalls = s.stalls := by
  simp [execShri]

@[simp] theorem execSrai_stalls (s : State) (a1 a2 a3 a4 : _) : (stateOf s (execSrai a1 a2 a3 a4 s)).stalls = s.stalls := by
  simp [execSrai]

@[simp] theorem execAndi_stalls (s : State) (a1 a2 a3 a4 : _) : (stateOf s (execAndi a1 a2 a3 a4 s)).stalls = s.stalls := by
  simp [execAndi]

@[simp] theorem execOri_stalls (s : State) (a1 a2 a3 a4 : _) : (stateOf s (execOri a1 a2 a3 a4 s)).stalls = s.stalls := by
  simp [execOri]

@[simp] theorem execMul_stalls (s : State) (a1 a2 a3 a4 : _) : (stateOf s (execMul a1 a2 a3 a4 s)).stalls = s.stalls := by
  simp [execMul]

@[simp] theorem execMulhu_stalls (s : State) (a1 a2 a3 a4 : _) : (stateOf s (execMulhu a1 a2 a3 a4 s)).stalls = s.stalls := by
  simp [execMulhu]

@[simp] theorem cmpOp_stalls (s : State) (c : CoreId) (n : CmpReg) (ra rb : SReg) (f : Word → Word → Bool)  : (stateOf s (cmpOp s c n ra rb f)).stalls = s.stalls := by
  simp [cmpOp]

@[simp] theorem execCmpEq_stalls (s : State) (a1 a2 a3 a4 : _) : (stateOf s (execCmpEq a1 a2 a3 a4 s)).stalls = s.stalls := by
  simp [execCmpEq]

@[simp] theorem execCmpNe_stalls (s : State) (a1 a2 a3 a4 : _) : (stateOf s (execCmpNe a1 a2 a3 a4 s)).stalls = s.stalls := by
  simp [execCmpNe]

@[simp] theorem execCmpLt_stalls (s : State) (a1 a2 a3 a4 : _) : (stateOf s (execCmpLt a1 a2 a3 a4 s)).stalls = s.stalls := by
  simp [execCmpLt]

@[simp] theorem execCmpLtu_stalls (s : State) (a1 a2 a3 a4 : _) : (stateOf s (execCmpLtu a1 a2 a3 a4 s)).stalls = s.stalls := by
  simp [execCmpLtu]

@[simp] theorem execCmpGe_stalls (s : State) (a1 a2 a3 a4 : _) : (stateOf s (execCmpGe a1 a2 a3 a4 s)).stalls = s.stalls := by
  simp [execCmpGe]

@[simp] theorem execCmpGeu_stalls (s : State) (a1 a2 a3 a4 : _) : (stateOf s (execCmpGeu a1 a2 a3 a4 s)).stalls = s.stalls := by
  simp [execCmpGeu]

@[simp] theorem execBr_stalls (s : State) (a1 a2 : _) : (stateOf s (execBr a1 a2 s)).stalls = s.stalls := by
  simp [execBr]

@[simp] theorem execBc_stalls (s : State) (a1 a2 a3 : _) : (stateOf s (execBc a1 a2 a3 s)).stalls = s.stalls := by
  simp [execBc]

@[simp] theorem execBnc_stalls (s : State) (a1 a2 a3 : _) : (stateOf s (execBnc a1 a2 a3 s)).stalls = s.stalls := by
  simp [execBnc]

@[simp] theorem execLcbr_stalls (s : State) (a1 a2 a3 : _) : (stateOf s (execLcbr a1 a2 a3 s)).stalls = s.stalls := by
  simp [execLcbr]

@[simp] theorem execLcset_stalls (s : State) (a1 a2 a3 : _) : (stateOf s (execLcset a1 a2 a3 s)).stalls = s.stalls := by
  simp [execLcset]

@[simp] theorem execLcseti_stalls (s : State) (a1 a2 a3 : _) : (stateOf s (execLcseti a1 a2 a3 s)).stalls = s.stalls := by
  simp [execLcseti]

@[simp] theorem execLcmov_stalls (s : State) (a1 a2 a3 : _) : (stateOf s (execLcmov a1 a2 a3 s)).stalls = s.stalls := by
  simp [execLcmov]

@[simp] theorem benchOp_stalls (s : State) (c : CoreId) (ra : SReg) (imm : BitVec 32) (f : Nat → Core → Core)  : (stateOf s (benchOp s c ra imm f)).stalls = s.stalls := by
  simp only [benchOp]
  split <;> simp

@[simp] theorem execLd_stalls (s : State) (a1 a2 a3 a4 : _) : (stateOf s (execLd a1 a2 a3 a4 s)).stalls = s.stalls := by
  simp [execLd]

@[simp] theorem execSt_stalls (s : State) (a1 a2 a3 a4 : _) : (stateOf s (execSt a1 a2 a3 a4 s)).stalls = s.stalls := by
  simp [execSt]

@[simp] theorem execFlagsRd_stalls (s : State) (a1 a2 a3 : _) : (stateOf s (execFlagsRd a1 a2 a3 s)).stalls = s.stalls := by
  simp [execFlagsRd]

@[simp] theorem execFlagsClr_stalls (s : State) (a1 a2 : _) : (stateOf s (execFlagsClr a1 a2 s)).stalls = s.stalls := by
  simp [execFlagsClr]

@[simp] theorem execRotaSet_stalls (s : State) (a1 a2 a3 a4 : _) : (stateOf s (execRotaSet a1 a2 a3 a4 s)).stalls = s.stalls := by
  simp [execRotaSet]

@[simp] theorem execNativeSkip_stalls (s : State) (a1 a2 : _) : (stateOf s (execNativeSkip a1 a2 s)).stalls = s.stalls := by
  simp [execNativeSkip]

@[simp] theorem execEndOfCode_stalls (s : State) (a1 : _) : (stateOf s (execEndOfCode a1 s)).stalls = s.stalls := by
  simp [execEndOfCode]

@[simp] theorem State.touched_stalls (s : State) (a2 : _) : (State.touched s a2).stalls = s.stalls := by
  unfold State.touched
  split <;> simp

@[simp] theorem State.syncFault_stalls (s : State) (a2 a3 a4 a5 : _) : (State.syncFault s a2 a3 a4 a5).stalls = s.stalls := by
  unfold State.syncFault
  split <;> simp

@[simp] theorem State.modEng_stalls (s : State) (a2 a3 a4 : _) : (State.modEng s a2 a3 a4).stalls = s.stalls := by
  simp [State.modEng]

@[simp] theorem State.release_stalls (s : State) (a2 a3 : _) : (State.release s a2 a3).stalls = s.stalls := by
  unfold State.release
  split <;> simp

@[simp] theorem State.releaseAll_stalls (s : State) (a2 a3 : _) : (State.releaseAll s a2 a3).stalls = s.stalls := by
  simp [State.releaseAll]

@[simp] theorem State.servePeg_stalls (s : State) (a2 : _) : (State.servePeg s a2).stalls = s.stalls := by
  simp [State.servePeg]

@[simp] theorem State.pegTake_stalls (s : State) (a2 a3 a4 : _) : (State.pegTake s a2 a3 a4).stalls = s.stalls := by
  simp [State.pegTake]

@[simp] theorem State.pegPost_stalls (s : State) (a2 a3 a4 : _) : (State.pegPost s a2 a3 a4).stalls = s.stalls := by
  simp [State.pegPost]

@[simp] theorem State.pegDec_stalls (s : State) (a2 a3 a4 : _) : (State.pegDec s a2 a3 a4).stalls = s.stalls := by
  simp [State.pegDec]

@[simp] theorem State.serveTally_stalls (s : State) (a2 : _) : (State.serveTally s a2).stalls = s.stalls := by
  simp [State.serveTally]

@[simp] theorem State.serveTallies_stalls (s : State) : (State.serveTallies s).stalls = s.stalls := by
  simp [State.serveTallies]

@[simp] theorem State.tallyAwait_stalls (s : State) (a2 a3 : _) : (State.tallyAwait s a2 a3).stalls = s.stalls := by
  simp [State.tallyAwait]

@[simp] theorem State.tallyAdv_stalls (s : State) (a2 a3 a4 : _) : (State.tallyAdv s a2 a3 a4).stalls = s.stalls := by
  simp [State.tallyAdv]

@[simp] theorem State.bellRelease_stalls (s : State) (a2 : _) : (State.bellRelease s a2).stalls = s.stalls := by
  simp [State.bellRelease]

@[simp] theorem State.bellArrive_stalls (s : State) (a2 a3 a4 a5 : _) : (State.bellArrive s a2 a3 a4 a5).stalls = s.stalls := by
  simp [State.bellArrive]

@[simp] theorem State.startWait_stalls (s : State) (a2 a3 : _) : (State.startWait s a2 a3).stalls = s.stalls := by
  simp [State.startWait]

@[simp] theorem State.dropRequest_stalls (s : State) (a2 a3 : _) : (State.dropRequest s a2 a3).stalls = s.stalls := by
  unfold State.dropRequest
  split <;> simp

@[simp] theorem State.giveUp_stalls (s : State) (a2 a3 : _) : (State.giveUp s a2 a3).stalls = s.stalls := by
  simp [State.giveUp]

@[simp] theorem State.stepWait_stalls (s : State) (a2 : _) : (State.stepWait s a2).stalls = s.stalls := by
  simp [State.stepWait] <;> (repeat' split) <;> simp

@[simp] theorem State.syncSkip_stalls (s : State) (a2 : _) : (State.syncSkip s a2).stalls = s.stalls := by
  simp [State.syncSkip]

@[simp] theorem syncOp_stalls (s : State) (c : CoreId) (f : PartId → Core → State) (h : ∀ p k, (f p k).stalls = s.stalls) : (stateOf s (syncOp s c f)).stalls = s.stalls := by
  simp only [syncOp]
  split <;> simp [h]

@[simp] theorem State.remoteWait_stalls (s : State) (a2 a3 a4 a5 a6 a7 a8 : _) : (State.remoteWait s a2 a3 a4 a5 a6 a7 a8).stalls = s.stalls := by
  simp [State.remoteWait]

@[simp] theorem execPegTake_stalls (s : State) (a1 a2 a3 a4 a5 : _) : (stateOf s (execPegTake a1 a2 a3 a4 a5 s)).stalls = s.stalls := by
  refine syncOp_stalls s _ _ ?_
  intro p k
  try dsimp only
  (repeat' split) <;> simp

@[simp] theorem execPegDec_stalls (s : State) (a1 a2 a3 a4 a5 : _) : (stateOf s (execPegDec a1 a2 a3 a4 a5 s)).stalls = s.stalls := by
  refine syncOp_stalls s _ _ ?_
  intro p k
  try dsimp only
  (repeat' split) <;> simp

@[simp] theorem execPegPost_stalls (s : State) (a1 a2 a3 a4 a5 : _) : (stateOf s (execPegPost a1 a2 a3 a4 a5 s)).stalls = s.stalls := by
  refine syncOp_stalls s _ _ ?_
  intro p k
  try dsimp only
  (repeat' split) <;> simp

@[simp] theorem execPegRead_stalls (s : State) (a1 a2 a3 : _) : (stateOf s (execPegRead a1 a2 a3 s)).stalls = s.stalls := by
  refine syncOp_stalls s _ _ ?_
  intro p k
  try dsimp only
  (repeat' split) <;> simp

@[simp] theorem execTallyAdv_stalls (s : State) (a1 a2 a3 : _) : (stateOf s (execTallyAdv a1 a2 a3 s)).stalls = s.stalls := by
  refine syncOp_stalls s _ _ ?_
  intro p k
  try dsimp only
  (repeat' split) <;> simp

@[simp] theorem execTallyWait_stalls (s : State) (a1 a2 a3 : _) : (stateOf s (execTallyWait a1 a2 a3 s)).stalls = s.stalls := by
  refine syncOp_stalls s _ _ ?_
  intro p k
  try dsimp only
  (repeat' split) <;> simp

@[simp] theorem execTallyRoom_stalls (s : State) (a1 a2 : _) : (stateOf s (execTallyRoom a1 a2 s)).stalls = s.stalls := by
  refine syncOp_stalls s _ _ ?_
  intro p k
  try dsimp only
  (repeat' split) <;> simp

@[simp] theorem execTallyRead_stalls (s : State) (a1 a2 a3 : _) : (stateOf s (execTallyRead a1 a2 a3 s)).stalls = s.stalls := by
  refine syncOp_stalls s _ _ ?_
  intro p k
  try dsimp only
  (repeat' split) <;> simp

@[simp] theorem State.bellAgain_stalls (s : State) (a2 a3 a4 a5 : _) : (State.bellAgain s a2 a3 a4 a5).stalls = s.stalls := by
  simp [State.bellAgain]

@[simp] theorem execBellArrive_stalls (s : State) (a1 a2 a3 a4 a5 : _) : (stateOf s (execBellArrive a1 a2 a3 a4 a5 s)).stalls = s.stalls := by
  refine syncOp_stalls s _ _ ?_
  intro p k
  try dsimp only
  (repeat' split) <;> simp

@[simp] theorem State.logOperands_stalls (s : State) (a2 a3 a4 : _) : (State.logOperands s a2 a3 a4).stalls = s.stalls := by
  simp [State.logOperands]

@[simp] theorem State.enqueue_stalls (s : State) (a2 a3 : _) : (State.enqueue s a2 a3).stalls = s.stalls := by
  simp [State.enqueue]

@[simp] theorem pushOp_stalls (s : State) (a2 a3 a4 a5 : _) : (stateOf s (pushOp s a2 a3 a4 a5)).stalls = s.stalls := by
  simp [pushOp]

@[simp] theorem execBeamMm_stalls (s : State) (a1 a2 a3 : _) : (stateOf s (execBeamMm a1 a2 a3 s)).stalls = s.stalls := by
  simp [execBeamMm]

@[simp] theorem execBeamLoad_stalls (s : State) (a1 a2 a3 : _) : (stateOf s (execBeamLoad a1 a2 a3 s)).stalls = s.stalls := by
  simp [execBeamLoad]

@[simp] theorem execBeamAcc_stalls (s : State) (a1 a2 a3 : _) : (stateOf s (execBeamAcc a1 a2 a3 s)).stalls = s.stalls := by
  simp [execBeamAcc]

@[simp] theorem execPlaneAdd_stalls (s : State) (a1 a2 a3 : _) : (stateOf s (execPlaneAdd a1 a2 a3 s)).stalls = s.stalls := by
  simp [execPlaneAdd]

@[simp] theorem execPlaneSub_stalls (s : State) (a1 a2 a3 : _) : (stateOf s (execPlaneSub a1 a2 a3 s)).stalls = s.stalls := by
  simp [execPlaneSub]

@[simp] theorem execPlaneMul_stalls (s : State) (a1 a2 a3 : _) : (stateOf s (execPlaneMul a1 a2 a3 s)).stalls = s.stalls := by
  simp [execPlaneMul]

@[simp] theorem execPlaneFma_stalls (s : State) (a1 a2 a3 : _) : (stateOf s (execPlaneFma a1 a2 a3 s)).stalls = s.stalls := by
  simp [execPlaneFma]

@[simp] theorem execPlaneMax_stalls (s : State) (a1 a2 a3 : _) : (stateOf s (execPlaneMax a1 a2 a3 s)).stalls = s.stalls := by
  simp [execPlaneMax]

@[simp] theorem execPlaneMin_stalls (s : State) (a1 a2 a3 : _) : (stateOf s (execPlaneMin a1 a2 a3 s)).stalls = s.stalls := by
  simp [execPlaneMin]

@[simp] theorem execPlaneAbs_stalls (s : State) (a1 a2 a3 : _) : (stateOf s (execPlaneAbs a1 a2 a3 s)).stalls = s.stalls := by
  simp [execPlaneAbs]

@[simp] theorem execPlaneNeg_stalls (s : State) (a1 a2 a3 : _) : (stateOf s (execPlaneNeg a1 a2 a3 s)).stalls = s.stalls := by
  simp [execPlaneNeg]

@[simp] theorem execPlaneCvt_stalls (s : State) (a1 a2 a3 : _) : (stateOf s (execPlaneCvt a1 a2 a3 s)).stalls = s.stalls := by
  simp [execPlaneCvt]

@[simp] theorem execPlaneExp_stalls (s : State) (a1 a2 a3 : _) : (stateOf s (execPlaneExp a1 a2 a3 s)).stalls = s.stalls := by
  simp [execPlaneExp]

@[simp] theorem execPlaneLog_stalls (s : State) (a1 a2 a3 : _) : (stateOf s (execPlaneLog a1 a2 a3 s)).stalls = s.stalls := by
  simp [execPlaneLog]

@[simp] theorem execPlaneRecip_stalls (s : State) (a1 a2 a3 : _) : (stateOf s (execPlaneRecip a1 a2 a3 s)).stalls = s.stalls := by
  simp [execPlaneRecip]

@[simp] theorem execPlaneRsqrt_stalls (s : State) (a1 a2 a3 : _) : (stateOf s (execPlaneRsqrt a1 a2 a3 s)).stalls = s.stalls := by
  simp [execPlaneRsqrt]

@[simp] theorem execPlaneTanh_stalls (s : State) (a1 a2 a3 : _) : (stateOf s (execPlaneTanh a1 a2 a3 s)).stalls = s.stalls := by
  simp [execPlaneTanh]

@[simp] theorem execPlaneSigmoid_stalls (s : State) (a1 a2 a3 : _) : (stateOf s (execPlaneSigmoid a1 a2 a3 s)).stalls = s.stalls := by
  simp [execPlaneSigmoid]

@[simp] theorem execPlaneRsum_stalls (s : State) (a1 a2 a3 : _) : (stateOf s (execPlaneRsum a1 a2 a3 s)).stalls = s.stalls := by
  simp [execPlaneRsum]

@[simp] theorem execPlaneRmax_stalls (s : State) (a1 a2 a3 : _) : (stateOf s (execPlaneRmax a1 a2 a3 s)).stalls = s.stalls := by
  simp [execPlaneRmax]

@[simp] theorem execPlaneOsm_stalls (s : State) (a1 a2 a3 : _) : (stateOf s (execPlaneOsm a1 a2 a3 s)).stalls = s.stalls := by
  simp [execPlaneOsm]

@[simp] theorem execPlaneLsemerge_stalls (s : State) (a1 a2 a3 : _) : (stateOf s (execPlaneLsemerge a1 a2 a3 s)).stalls = s.stalls := by
  simp [execPlaneLsemerge]

@[simp] theorem execCartCopy_stalls (s : State) (a1 a2 a3 : _) : (stateOf s (execCartCopy a1 a2 a3 s)).stalls = s.stalls := by
  simp [execCartCopy]

@[simp] theorem execCartGather_stalls (s : State) (a1 a2 a3 : _) : (stateOf s (execCartGather a1 a2 a3 s)).stalls = s.stalls := by
  simp [execCartGather]

@[simp] theorem execCartScatter_stalls (s : State) (a1 a2 a3 : _) : (stateOf s (execCartScatter a1 a2 a3 s)).stalls = s.stalls := by
  simp [execCartScatter]

@[simp] theorem execGrindJob_stalls (s : State) (a1 a2 a3 : _) : (stateOf s (execGrindJob a1 a2 a3 s)).stalls = s.stalls := by
  simp [execGrindJob]

@[simp] theorem execPushAfterStall_stalls (s : State) (a1 : _) : (stateOf s (execPushAfterStall a1 s)).stalls = s.stalls := by
  unfold execPushAfterStall
  split <;> simp

@[simp] theorem State.cartEarly_stalls (s : State) (a2 a3 a4 : _) : (State.cartEarly s a2 a3 a4).stalls = s.stalls := by
  simp [State.cartEarly]

@[simp] theorem State.cartXlateFail_stalls (s : State) (a2 a3 a4 a5 a6 : _) : (State.cartXlateFail s a2 a3 a4 a5 a6).stalls = s.stalls := by
  simp [State.cartXlateFail]

@[simp] theorem State.cartWalkRead_stalls (s : State) (a2 a3 a4 a5 : _) : (State.cartWalkRead s a2 a3 a4 a5).stalls = s.stalls := by
  simp [State.cartWalkRead]

@[simp] theorem State.cartStore_stalls (s : State) (a2 a3 a4 a5 : _) : (State.cartStore s a2 a3 a4 a5).stalls = s.stalls := by
  simp [State.cartStore] <;> (repeat' split) <;> simp

@[simp] theorem State.cartDrain_stalls (s : State) (a2 a3 a4 : _) : (State.cartDrain s a2 a3 a4).stalls = s.stalls := by
  induction a4 generalizing s with
  | zero => simp [State.cartDrain]
  | succ n ih =>
    unfold State.cartDrain
    (repeat' split) <;> simp [ih]

@[simp] theorem State.cartIssue_stalls (s : State) (a2 a3 a4 a5 a6 : _) : (State.cartIssue s a2 a3 a4 a5 a6).stalls = s.stalls := by
  simp [State.cartIssue] <;> (repeat' split) <;> simp

@[simp] theorem State.cartSteps_stalls (s : State) (a2 a3 a4 a5 a6 : _) : (State.cartSteps s a2 a3 a4 a5 a6).stalls = s.stalls := by
  induction a6 generalizing s with
  | zero => simp [State.cartSteps]
  | succ n ih =>
    unfold State.cartSteps
    dsimp only
    (repeat' split) <;> simp [ih] <;> (repeat' split) <;> simp

@[simp] theorem State.cartPump_stalls (s : State) (a2 a3 : _) : (State.cartPump s a2 a3).stalls = s.stalls := by
  unfold State.cartPump
  split <;> simp

@[simp] theorem State.cartWrap_stalls (s : State) (a2 a3 : _) : (State.cartWrap s a2 a3).stalls = s.stalls := by
  simp [State.cartWrap]

@[simp] theorem execCartReadData_stalls (s : State) (a1 a2 : _) : (stateOf s (execCartReadData a1 a2 s)).stalls = s.stalls := by
  unfold execCartReadData
  split
  · rfl
  · split
    · rfl
    · rename_i h
      have := State.takeResp_stalls _ _ _ _ h
      dsimp only [stateOf_whenever]
      (repeat' split) <;> simp [this]

@[simp] theorem execCartWriteAck_stalls (s : State) (a1 a2 : _) : (stateOf s (execCartWriteAck a1 a2 s)).stalls = s.stalls := by
  unfold execCartWriteAck
  split
  · rfl
  · split
    · rfl
    · rename_i h
      have := State.takeResp_stalls _ _ _ _ h
      dsimp only [stateOf_whenever]
      (repeat' split) <;> simp [this]

@[simp] theorem State.cartWalkData_stalls (s : State) (a2 a3 a4 a5 a6 : _) : (State.cartWalkData s a2 a3 a4 a5 a6).stalls = s.stalls := by
  unfold State.cartWalkData
  (repeat' split) <;> simp

@[simp] theorem State.cartWalkBack_stalls (s : State) (a2 a3 : _) : (State.cartWalkBack s a2 a3).stalls = s.stalls := by
  unfold State.cartWalkBack
  (repeat' split) <;> first | rfl | (rename_i h; simp [State.takeResp_stalls _ _ _ _ h])

@[simp] theorem State.cartRewalk_stalls (s : State) (a2 a3 : _) : (State.cartRewalk s a2 a3).stalls = s.stalls := by
  unfold State.cartRewalk
  (repeat' split) <;> simp

@[simp] theorem State.traceCmd_stalls (s : State) (a2 a3 a4 a5 a6 a7 : _) : (State.traceCmd s a2 a3 a4 a5 a6 a7).stalls = s.stalls := by
  simp [State.traceCmd]

@[simp] theorem State.post_stalls (s : State) (a2 a3 a4 : _) : (State.post s a2 a3 a4).stalls = s.stalls := by
  unfold State.post
  (repeat' split) <;> simp

@[simp] theorem State.popQueue_stalls (s : State) (a2 a3 : _) : (State.popQueue s a2 a3).stalls = s.stalls := by
  simp [State.popQueue]

@[simp] theorem State.atHead_stalls (s : State) (a2 a3 a4 : _) : (State.atHead s a2 a3 a4).stalls = s.stalls := by
  unfold State.atHead
  (repeat' split) <;> simp

@[simp] theorem execCommandAtHead_stalls (s : State) (a1 a2 : _) : (stateOf s (execCommandAtHead a1 a2 s)).stalls = s.stalls := by
  simp [execCommandAtHead] <;> (repeat' split) <;> simp

@[simp] theorem State.skipHead_stalls (s : State) (a2 a3 a4 a5 a6 : _) : (State.skipHead s a2 a3 a4 a5 a6).stalls = s.stalls := by
  simp [State.skipHead]

@[simp] theorem State.startCmd_stalls (s : State) (a2 a3 a4 : _) : (State.startCmd s a2 a3 a4).stalls = s.stalls := by
  unfold State.startCmd
  split <;> simp

@[simp] theorem execCommandStart_stalls (s : State) (a1 a2 : _) : (stateOf s (execCommandStart a1 a2 s)).stalls = s.stalls := by
  simp [execCommandStart] <;> (repeat' split) <;> simp

@[simp] theorem State.endCmd_stalls (s : State) (a2 a3 a4 a5 : _) : (State.endCmd s a2 a3 a4 a5).stalls = s.stalls := by
  unfold State.endCmd
  split <;> simp

@[simp] theorem State.workDone_stalls (s : State) (a2 a3 : _) : (State.workDone s a2 a3).stalls = s.stalls := by
  simp [State.workDone]

@[simp] theorem State.finishWork_stalls (s : State) (a2 a3 a4 : _) : (State.finishWork s a2 a3 a4).stalls = s.stalls := by
  simp [State.finishWork] <;> (repeat' split) <;> simp

@[simp] theorem State.engineCycle_stalls (s : State) (a2 a3 : _) : (State.engineCycle s a2 a3).stalls = s.stalls := by
  simp [State.engineCycle] <;> (repeat' split) <;> simp

@[simp] theorem State.engineTick_stalls (s : State) : (State.engineTick s).stalls = s.stalls := by
  unfold State.engineTick
  refine stalls_foldl _ ?_ _ _
  intro s a
  split
  · exact stalls_foldl _ (by intros; simp) _ _
  · rfl

@[simp] theorem execCommandFinish_stalls (s : State) (a1 a2 : _) : (stateOf s (execCommandFinish a1 a2 s)).stalls = s.stalls := by
  simp [execCommandFinish] <;> (repeat' split) <;> simp

@[simp] theorem State.markStopped_stalls (s : State) (a2 a3 : _) : (State.markStopped s a2 a3).stalls = s.stalls := by
  simp [State.markStopped]

@[simp] theorem State.stopAfter_stalls (s : State) (a2 a3 a4 a5 : _) : (State.stopAfter s a2 a3 a4 a5).stalls = s.stalls := by
  simp [State.stopAfter] <;> (repeat' split) <;> simp

@[simp] theorem State.resumeBeam_stalls (s : State) (a2 : _) : (State.resumeBeam s a2).stalls = s.stalls := by
  simp [State.resumeBeam] <;> (repeat' split) <;> simp

@[simp] theorem execEngineResume_stalls (s : State) (a1 a2 : _) : (stateOf s (execEngineResume a1 a2 s)).stalls = s.stalls := by
  unfold execEngineResume
  split <;> simp

@[simp] theorem State.mapCores_stalls (s : State) (a2 : _) : (State.mapCores s a2).stalls = s.stalls := by
  simp [State.mapCores]

@[simp] theorem State.wrapCarts_stalls (s : State) : (State.wrapCarts s).stalls = s.stalls := by
  unfold State.wrapCarts
  refine stalls_foldl _ ?_ _ _
  intro s a
  split <;> simp

@[simp] theorem execCalendarWrap_stalls (s : State) : (stateOf s (execCalendarWrap s)).stalls = s.stalls := by
  simp [execCalendarWrap]

@[simp] theorem execDutyWrap_stalls (s : State) : (stateOf s (execDutyWrap s)).stalls = s.stalls := by
  simp [execDutyWrap]

@[simp] theorem State.modG_stalls (s : State) (a2 a3 : _) : (State.modG s a2 a3).stalls = s.stalls := by
  simp [State.modG]

@[simp] theorem State.logOwn_stalls (s : State) (a2 a3 a4 a5 a6 : _) : (State.logOwn s a2 a3 a4 a5 a6).stalls = s.stalls := by
  simp [State.logOwn]

@[simp] theorem State.viol_stalls (s : State) (a2 : _) : (State.viol s a2).stalls = s.stalls := by
  simp [State.viol]

@[simp] theorem State.inModes_stalls (s : State) (g : GranChan) (ms : List GMode) (t : State) (h : t.stalls = s.stalls) :
    (s.inModes g ms t).stalls = s.stalls := by
  simp [State.inModes, h]

@[simp] theorem State.toProcessor_stalls (s : State) (a2 : _) : (State.toProcessor s a2).stalls = s.stalls := by
  simp [State.toProcessor]

@[simp] theorem State.toMemory_stalls (s : State) (a2 : _) : (State.toMemory s a2).stalls = s.stalls := by
  simp [State.toMemory]

@[simp] theorem execMrwGmode_stalls (s : State) (a1 a2 : _) : (stateOf s (execMrwGmode a1 a2 s)).stalls = s.stalls := by
  simp [execMrwGmode]

@[simp] theorem execMrwGqmask_stalls (s : State) (a1 a2 : _) : (stateOf s (execMrwGqmask a1 a2 s)).stalls = s.stalls := by
  simp [execMrwGqmask]

@[simp] theorem execMrwGstat_stalls (s : State) (a1 a2 : _) : (stateOf s (execMrwGstat a1 a2 s)).stalls = s.stalls := by
  simp [execMrwGstat]

@[simp] theorem State.toController_stalls (s : State) (a2 a3 : _) : (State.toController s a2 a3).stalls = s.stalls := by
  simp [State.toController]

@[simp] theorem execMrr_stalls (s : State) (a1 a2 : _) : (stateOf s (execMrr a1 a2 s)).stalls = s.stalls := by
  simp [execMrr]

@[simp] theorem execPld_stalls (s : State) (a1 a2 a3 : _) : (stateOf s (execPld a1 a2 a3 s)).stalls = s.stalls := by
  simp [execPld]

@[simp] theorem State.loadStore_stalls (s : State) (a2 : _) : (State.loadStore s a2).stalls = s.stalls := by
  simp [State.loadStore]

@[simp] theorem State.requestLoad_stalls (s : State) (a2 : _) : (State.requestLoad s a2).stalls = s.stalls := by
  simp [State.requestLoad]

@[simp] theorem execQprogLoad_stalls (s : State) (a1 a2 : _) : (stateOf s (execQprogLoad a1 a2 s)).stalls = s.stalls := by
  unfold execQprogLoad
  split <;> simp

@[simp] theorem State.readGstat_stalls (s : State) (a2 : _) : (State.readGstat s a2).stalls = s.stalls := by
  simp [State.readGstat]

@[simp] theorem State.switchDone_stalls (s : State) (a2 : _) : (State.switchDone s a2).stalls = s.stalls := by
  unfold State.switchDone
  split <;> simp

@[simp] theorem execModeSwitchDone_stalls (s : State) (a1 : _) : (stateOf s (execModeSwitchDone a1 s)).stalls = s.stalls := by
  simp [execModeSwitchDone]

@[simp] theorem execQwr_stalls (s : State) (a1 a2 a3 a4 a5 a6 : _) : (stateOf s (execQwr a1 a2 a3 a4 a5 a6 s)).stalls = s.stalls := by
  simp only [execQwr, stateOf_checked, stateOf_whenever]
  split
  · split
    · refine State.inModes_stalls _ _ _ _ ((apply_ite _ _ _ _).trans ?_)
      rw [State.viol_stalls, stalls_foldl _ (by intros; simp), ite_self]
    · rfl
  · rfl

@[simp] theorem State.qgo_stalls (s : State) (a2 a3 : _) : (State.qgo s a2 a3).stalls = s.stalls := by
  unfold State.qgo
  dsimp only
  rw [stalls_foldl _ (by intro s a; split <;> simp)]
  simp

@[simp] theorem execQgo_stalls (s : State) (a1 a2 : _) : (stateOf s (execQgo a1 a2 s)).stalls = s.stalls := by
  simp [execQgo]

@[simp] theorem execQrd_stalls (s : State) (a1 a2 a3 a4 : _) : (stateOf s (execQrd a1 a2 a3 a4 s)).stalls = s.stalls := by
  simp [execQrd]

@[simp] theorem execQst_stalls (s : State) (a1 : _) : (stateOf s (execQst a1 s)).stalls = s.stalls := by
  simp [execQst]

@[simp] theorem State.qstop_stalls (s : State) (a2 : _) : (State.qstop s a2).stalls = s.stalls := by
  unfold State.qstop
  simp only [State.readGstat_stalls]
  exact stalls_foldl _ (by intro s a; simp) _ _

@[simp] theorem execQstop_stalls (s : State) (a1 : _) : (stateOf s (execQstop a1 s)).stalls = s.stalls := by
  simp [execQstop]

@[simp] theorem execQuernTimeout_stalls (s : State) (a1 : _) : (stateOf s (execQuernTimeout a1 s)).stalls = s.stalls := by
  simp [execQuernTimeout]

@[simp] theorem State.grantActivate_stalls (s : State) (a2 : _) : (State.grantActivate s a2).stalls = s.stalls := by
  simp [State.grantActivate] <;> (repeat' split) <;> simp

@[simp] theorem execActivateGrant_stalls (s : State) (a1 : _) : (stateOf s (execActivateGrant a1 s)).stalls = s.stalls := by
  simp [execActivateGrant]

@[simp] theorem quernOp_stalls (s : State) (g : GranChan) (p : Fin 16) (op : Nat) (f : Nat → Bool) (t : State) (h : t.stalls = s.stalls) : (stateOf s (quernOp s g p op f t)).stalls = s.stalls := by
  simp [quernOp, h]

@[simp] theorem State.stopOpen_stalls (s : State) (a2 a3 a4 : _) : (State.stopOpen s a2 a3 a4).stalls = s.stalls := by
  simp [State.stopOpen]

@[simp] theorem regOp_stalls (s : State) (g : GranChan) (p : QuernStep) (op : Nat) (f : Nat → Bool) (e : Quern → Quern) :
    (stateOf s (regOp s g p op f e)).stalls = s.stalls := by
  simp only [regOp]
  exact quernOp_stalls s g p.pair op f _ (by split <;> simp)

@[simp] theorem execQHalt_stalls (s : State) (a1 a2 : _) : (stateOf s (execQHalt a1 a2 s)).stalls = s.stalls := by
  simp [execQHalt]

@[simp] theorem execQJmp_stalls (s : State) (a1 a2 a3 : _) : (stateOf s (execQJmp a1 a2 a3 s)).stalls = s.stalls := by
  simp [execQJmp]

@[simp] theorem execQBz_stalls (s : State) (a1 a2 a3 a4 : _) : (stateOf s (execQBz a1 a2 a3 a4 s)).stalls = s.stalls := by
  simp [execQBz]

@[simp] theorem execQBnz_stalls (s : State) (a1 a2 a3 a4 : _) : (stateOf s (execQBnz a1 a2 a3 a4 s)).stalls = s.stalls := by
  simp [execQBnz]

@[simp] theorem execQLoop_stalls (s : State) (a1 a2 a3 a4 : _) : (stateOf s (execQLoop a1 a2 a3 a4 s)).stalls = s.stalls := by
  simp [execQLoop]

@[simp] theorem execQLi_stalls (s : State) (a1 a2 a3 a4 : _) : (stateOf s (execQLi a1 a2 a3 a4 s)).stalls = s.stalls := by
  simp [execQLi]

@[simp] theorem execQLui_stalls (s : State) (a1 a2 a3 a4 : _) : (stateOf s (execQLui a1 a2 a3 a4 s)).stalls = s.stalls := by
  simp [execQLui]

@[simp] theorem execQAddi_stalls (s : State) (a1 a2 a3 a4 a5 : _) : (stateOf s (execQAddi a1 a2 a3 a4 a5 s)).stalls = s.stalls := by
  simp [execQAddi]

@[simp] theorem execQAdd_stalls (s : State) (a1 a2 a3 a4 a5 : _) : (stateOf s (execQAdd a1 a2 a3 a4 a5 s)).stalls = s.stalls := by
  simp [execQAdd]

@[simp] theorem execQSub_stalls (s : State) (a1 a2 a3 a4 a5 : _) : (stateOf s (execQSub a1 a2 a3 a4 a5 s)).stalls = s.stalls := by
  simp [execQSub]

@[simp] theorem execLdcw_stalls (s : State) (a1 a2 a3 a4 : _) : (stateOf s (execLdcw a1 a2 a3 a4 s)).stalls = s.stalls := by
  simp [execLdcw]

@[simp] theorem execLw_stalls (s : State) (a1 a2 a3 a4 a5 : _) : (stateOf s (execLw a1 a2 a3 a4 a5 s)).stalls = s.stalls := by
  simp [execLw]

@[simp] theorem execSw_stalls (s : State) (a1 a2 a3 a4 a5 : _) : (stateOf s (execSw a1 a2 a3 a4 a5 s)).stalls = s.stalls := by
  simp [execSw]

@[simp] theorem execNblk_stalls (s : State) (a1 a2 a3 a4 : _) : (stateOf s (execNblk a1 a2 a3 a4 s)).stalls = s.stalls := by
  simp [execNblk]

@[simp] theorem execAcci_stalls (s : State) (a1 a2 : _) : (stateOf s (execAcci a1 a2 s)).stalls = s.stalls := by
  simp [execAcci]

@[simp] theorem State.askActivates_stalls (s : State) (a2 a3 a4 a5 : _) : (State.askActivates s a2 a3 a4 a5).stalls = s.stalls := by
  simp [State.askActivates]

theorem BankRead.line_stalls (r : BankRead) (g : GranChan) (p : Fin 16) (l : Nat) : (r.line g p l).st.stalls = r.st.stalls := by
  unfold BankRead.line
  split
  · rfl
  · dsimp only
    split <;> simp
theorem BankRead.fold_stalls (g : GranChan) (p : Fin 16) (f : Nat → Nat) (l : List Nat) (r : BankRead) :
    (l.foldl (fun r i => r.line g p (f i)) r).st.stalls = r.st.stalls := by
  induction l generalizing r with
  | nil => rfl
  | cons a l ih => simp [List.foldl, ih, BankRead.line_stalls]
@[simp] theorem State.bankRead_stalls (s : State) (g : GranChan) (p : Fin 16) (l n : Nat) : (s.bankRead g p l n).st.stalls = s.stalls :=
  BankRead.fold_stalls g p _ _ _
@[simp] theorem State.stream_stalls (s : State) (g : GranChan) (p : Fin 16) (l n : Nat) (ok par : Bool) (errs : LineErrors)
    (f : List Byte → Quern → Quern) : (s.stream g p l n ok par errs f).stalls = s.stalls := by
  unfold State.stream
  dsimp only
  (repeat' split) <;> simp

@[simp] theorem execKdot_stalls (s : State) (a1 a2 a3 a4 a5 a6 : _) : (stateOf s (execKdot a1 a2 a3 a4 a5 a6 s)).stalls = s.stalls := by
  simp [execKdot]

@[simp] theorem execQuernOsm_stalls (s : State) (a1 a2 : _) : (stateOf s (execQuernOsm a1 a2 s)).stalls = s.stalls := by
  simp [execQuernOsm]

@[simp] theorem execVacc_stalls (s : State) (a1 a2 a3 a4 a5 a6 : _) : (stateOf s (execVacc a1 a2 a3 a4 a5 a6 s)).stalls = s.stalls := by
  simp [execVacc]

@[simp] theorem execMvec_stalls (s : State) (a1 a2 a3 a4 a5 a6 a7 a8 : _) : (stateOf s (execMvec a1 a2 a3 a4 a5 a6 a7 a8 s)).stalls = s.stalls := by
  simp [execMvec]

@[simp] theorem State.bankWrite_stalls (s : State) (a2 a3 a4 a5 a6 : _) : (State.bankWrite s a2 a3 a4 a5 a6).stalls = s.stalls := by
  simp [State.bankWrite]

@[simp] theorem execKvapp_stalls (s : State) (a1 a2 a3 a4 a5 : _) : (stateOf s (execKvapp a1 a2 a3 a4 a5 s)).stalls = s.stalls := by
  simp [execKvapp]

@[simp] theorem execBadop_stalls (s : State) (a1 a2 a3 : _) : (stateOf s (execBadop a1 a2 a3 s)).stalls = s.stalls := by
  simp [execBadop]

@[simp] theorem execQuernPcOverrun_stalls (s : State) (a1 a2 : _) : (stateOf s (execQuernPcOverrun a1 a2 s)).stalls = s.stalls := by
  simp [execQuernPcOverrun]

@[simp] theorem State.logList_stalls (s : State) (a2 a3 a4 : _) : (State.logList s a2 a3 a4).stalls = s.stalls := by
  simp [State.logList]

@[simp] theorem State.setGranaryQueue_stalls (s : State) (a2 a3 : _) : (State.setGranaryQueue s a2 a3).stalls = s.stalls := by
  simp [State.setGranaryQueue]

@[simp] theorem State.checkGrind_stalls (s : State) (a2 a3 a4 : _) : (State.checkGrind s a2 a3 a4).2.stalls = s.stalls := by
  simp [State.checkGrind] <;> (repeat' split) <;> simp

@[simp] theorem State.enterGranary_stalls (s : State) (a2 : _) : (State.enterGranary s a2).stalls = s.stalls := by
  simp [State.enterGranary]

@[simp] theorem execGrindCheck_stalls (s : State) (a1 : _) : (stateOf s (execGrindCheck a1 s)).stalls = s.stalls := by
  simp [execGrindCheck] <;> (repeat' split) <;> simp

@[simp] theorem State.takeChan_stalls (s : State) (a2 : _) : (State.takeChan s a2).stalls = s.stalls := by
  simp [State.takeChan]

@[simp] theorem State.admitJob_stalls (s : State) (a2 a3 : _) : (State.admitJob s a2 a3).stalls = s.stalls := by
  simp [State.admitJob]

@[simp] theorem State.admitHead_stalls (s : State) (a2 : _) : (State.admitHead s a2).stalls = s.stalls := by
  unfold State.admitHead
  (repeat' split) <;> simp

@[simp] theorem execGrindAdmit_stalls (s : State) (a1 : _) : (stateOf s (execGrindAdmit a1 s)).stalls = s.stalls := by
  simp [execGrindAdmit]

@[simp] theorem State.dropJob_stalls (s : State) (a2 : _) : (State.dropJob s a2).stalls = s.stalls := by
  simp [State.dropJob]

@[simp] theorem State.fillers_stalls (s : State) (a2 : _) : (State.fillers s a2).2.stalls = s.stalls := by
  induction a2 generalizing s with
  | zero => simp [State.fillers]
  | succ n ih => simp [State.fillers, ih]

@[simp] theorem State.setUpQuern_stalls (s : State) (a1 a2 a4 : _) : (State.setUpQuern a1 a2 s a4).stalls = s.stalls := by
  simp [State.setUpQuern]

@[simp] theorem State.broadcastSetUp_stalls (s : State) (a1 a2 : _) : (State.broadcastSetUp a1 a2 s).stalls = s.stalls := by
  unfold State.broadcastSetUp
  dsimp only
  exact stalls_foldl _ (by intros; simp) _ _

@[simp] theorem State.startChan_stalls (s : State) (a1 a3 : _) : (State.startChan a1 s a3).stalls = s.stalls := by
  simp [State.startChan]

@[simp] theorem State.setJobPhase_stalls (s : State) (a2 a3 : _) : (State.setJobPhase s a2 a3).stalls = s.stalls := by
  simp [State.setJobPhase]

@[simp] theorem execGrindStart_stalls (s : State) (a1 : _) : (stateOf s (execGrindStart a1 s)).stalls = s.stalls := by
  unfold execGrindStart
  split <;> simp

@[simp] theorem execGrindDeadline_stalls (s : State) (a1 : _) : (stateOf s (execGrindDeadline a1 s)).stalls = s.stalls := by
  unfold execGrindDeadline
  split <;> simp

@[simp] theorem State.endJob_stalls (s : State) (a2 a3 a4 a5 : _) : (State.endJob s a2 a3 a4 a5).stalls = s.stalls := by
  unfold State.endJob
  (repeat' split) <;> simp

@[simp] theorem State.logQuerns_stalls (s : State) (a2 a3 : _) : (State.logQuerns s a2 a3).stalls = s.stalls := by
  simp [State.logQuerns]

@[simp] theorem State.mergeJob_stalls (s : State) (a2 : _) : (State.mergeJob s a2).stalls = s.stalls := by
  simp [State.mergeJob] <;> (repeat' split) <;> simp

@[simp] theorem execGrindMerge_stalls (s : State) (a1 : _) : (stateOf s (execGrindMerge a1 s)).stalls = s.stalls := by
  unfold execGrindMerge
  split <;> simp

@[simp] theorem State.leaveGranary_stalls (s : State) (a2 : _) : (State.leaveGranary s a2).stalls = s.stalls := by
  simp [State.leaveGranary]

@[simp] theorem State.putBackJob_stalls (s : State) (a2 : _) : (State.putBackJob s a2).stalls = s.stalls := by
  unfold State.putBackJob
  split <;> simp

@[simp] theorem State.killJob_stalls (s : State) (a2 : _) : (State.killJob s a2).stalls = s.stalls := by
  simp [State.killJob]

@[simp] theorem State.holdGrind_stalls (s : State) (a2 a3 : _) : (State.holdGrind s a2 a3).stalls = s.stalls := by
  unfold State.holdGrind
  split <;> simp

@[simp] theorem State.dropTake_stalls (s : State) (a2 a3 : _) : (State.dropTake s a2 a3).stalls = s.stalls := by
  unfold State.dropTake
  (repeat' split) <;> simp

@[simp] theorem State.holdEngine_stalls (s : State) (a2 a3 a4 : _) : (State.holdEngine s a2 a3 a4).stalls = s.stalls := by
  simp [State.holdEngine] <;> (repeat' split) <;> simp

@[simp] theorem State.takeStop_stalls (s : State) (a2 a3 : _) : (State.takeStop s a2 a3).stalls = s.stalls := by
  simp [State.takeStop]

@[simp] theorem execStopRequest_stalls (s : State) (a1 a2 : _) : (stateOf s (execStopRequest a1 a2 s)).stalls = s.stalls := by
  simp [execStopRequest]

@[simp] theorem State.takePending_stalls (s : State) (a2 : _) : (State.takePending s a2).stalls = s.stalls := by
  unfold State.takePending
  split <;> simp

@[simp] theorem execSyncAnswer_stalls (s : State) (a1 : _) : (stateOf s (execSyncAnswer a1 s)).stalls = s.stalls := by
  unfold execSyncAnswer
  split <;> simp

@[simp] theorem State.sendWithdraw_stalls (s : State) (a2 : _) : (State.sendWithdraw s a2).stalls = s.stalls := by
  unfold State.sendWithdraw
  split <;> simp

@[simp] theorem State.withdraw_stalls (s : State) (a2 a3 a4 : _) : (State.withdraw s a2 a3 a4).stalls = s.stalls := by
  unfold State.withdraw
  (repeat' split) <;> simp

@[simp] theorem execSyncWithdraw_stalls (s : State) (a1 : _) : (stateOf s (execSyncWithdraw a1 s)).stalls = s.stalls := by
  unfold execSyncWithdraw
  split <;> simp

@[simp] theorem State.stopGrind_stalls (s : State) (a2 : _) : (State.stopGrind s a2).stalls = s.stalls := by
  unfold State.stopGrind
  split <;> simp

@[simp] theorem execEngineStopped_stalls (s : State) (a1 a2 a3 : _) : (stateOf s (execEngineStopped a1 a2 a3 s)).stalls = s.stalls := by
  simp [execEngineStopped] <;> (repeat' split) <;> simp

@[simp] theorem State.haltPart_stalls (s : State) (a2 : _) : (State.haltPart s a2).stalls = s.stalls := by
  simp [State.haltPart]

@[simp] theorem State.resumePart_stalls (s : State) (a2 : _) : (State.resumePart s a2).stalls = s.stalls := by
  simp [State.resumePart]

@[simp] theorem debugWrite_stalls (s : State) (fn : FnId) (c : CoreId) (v : Word) (f : PartId → State) (h : ∀ p, (f p).stalls = s.stalls) : (stateOf s (debugWrite s fn c v f)).stalls = s.stalls := by
  exact bar0Write_stalls s fn _ v _ (by intro l; split <;> simp [h])

@[simp] theorem execDebugHalt_stalls (s : State) (a1 a2 : _) : (stateOf s (execDebugHalt a1 a2 s)).stalls = s.stalls := by
  simp [execDebugHalt]

@[simp] theorem execDebugResume_stalls (s : State) (a1 a2 : _) : (stateOf s (execDebugResume a1 a2 s)).stalls = s.stalls := by
  simp [execDebugResume]

@[simp] theorem execDebugStep_stalls (s : State) (a1 a2 : _) : (stateOf s (execDebugStep a1 a2 s)).stalls = s.stalls := by
  simp [execDebugStep]

@[simp] theorem State.requestLine_stalls (s : State) (a2 a3 : _) : (State.requestLine s a2 a3).stalls = s.stalls := by
  simp [State.requestLine]

@[simp] theorem State.fetchAhead_stalls (s : State) (a2 a3 : _) : (State.fetchAhead s a2 a3).stalls = s.stalls := by
  simp [State.fetchAhead]

@[simp] theorem State.missLine_stalls (s : State) (a2 a3 : _) : (State.missLine s a2 a3).stalls = s.stalls := by
  simp [State.missLine]

@[simp] theorem execFetchMiss_stalls (s : State) (a1 a2 : _) : (stateOf s (execFetchMiss a1 a2 s)).stalls = s.stalls := by
  simp [execFetchMiss]

theorem State.takeAll_stalls (s : State) (a2 : _) (x t : _) (h : State.takeAll s a2 = some (x, t)) : t.stalls = s.stalls := by
  induction a2 generalizing s x t with
  | nil => simp [State.takeAll] at h; obtain ⟨_, rfl⟩ := h; rfl
  | cons i is ih =>
    unfold State.takeAll at h
    split at h
    · simp at h
    · rename_i r u hu
      cases hr : u.takeAll is with
      | none => simp [hr] at h
      | some y =>
        obtain ⟨y1, y2⟩ := y
        simp [hr] at h
        obtain ⟨_, rfl⟩ := h
        rw [ih u y1 y2 hr, State.takeResp_stalls _ _ _ _ hu]

theorem State.readyFill_stalls (s : State) (a2 : _) (x y t : _) (h : State.readyFill s a2 = some (x, y, t)) : t.stalls = s.stalls := by
  unfold State.readyFill at h
  obtain ⟨f, _, hf⟩ := List.exists_of_findSome?_eq_some h
  cases hr : s.takeAll f.2 with
  | none => simp [hr] at hf
  | some y =>
    obtain ⟨y1, y2⟩ := y
    simp [hr] at hf
    obtain ⟨_, _, rfl⟩ := hf
    exact State.takeAll_stalls _ _ _ _ hr

@[simp] theorem State.fetchOn_stalls (s : State) (a2 : _) : (State.fetchOn s a2).stalls = s.stalls := by
  simp [State.fetchOn] <;> (repeat' split) <;> simp

@[simp] theorem execFetchLineArrive_stalls (s : State) (a1 : _) : (stateOf s (execFetchLineArrive a1 s)).stalls = s.stalls := by
  unfold execFetchLineArrive
  split
  · rfl
  · rename_i h
    have := State.readyFill_stalls _ _ _ _ _ h
    simp [this]

@[simp] theorem State.fetchFail_stalls (s : State) (a2 a3 : _) : (State.fetchFail s a2 a3).stalls = s.stalls := by
  simp [State.fetchFail]

@[simp] theorem execFetchError_stalls (s : State) (a1 : _) : (stateOf s (execFetchError a1 s)).stalls = s.stalls := by
  simp [execFetchError] <;> (repeat' split) <;> simp

@[simp] theorem State.arrange_stalls (s : State) (a2 : _) : (State.arrange s a2).stalls = s.stalls := by
  unfold State.arrange
  split <;> simp

@[simp] theorem State.refuseImage_stalls (s : State) (a2 a3 : _) : (State.refuseImage s a2 a3).stalls = s.stalls := by
  unfold State.refuseImage
  split <;> simp

@[simp] theorem State.logLoad_stalls (s : State) (a2 a3 a4 : _) : (State.logLoad s a2 a3 a4).stalls = s.stalls := by
  simp [State.logLoad]

@[simp] theorem State.giveImage_stalls (s : State) (a2 : _) : (State.giveImage s a2).stalls = s.stalls := by
  unfold State.giveImage
  split <;> simp

@[simp] theorem State.logCode_stalls (s : State) (a2 a3 : _) : (State.logCode s a2 a3).stalls = s.stalls := by
  simp [State.logCode]

@[simp] theorem State.noteImage_stalls (s : State) (a2 : _) : (State.noteImage s a2).stalls = s.stalls := by
  simp [State.noteImage]

@[simp] theorem State.unpark_stalls (s : State) (a2 a3 : _) : (State.unpark s a2 a3).stalls = s.stalls := by
  simp [State.unpark]

@[simp] theorem execImageIdle_stalls (s : State) (a1 a2 : _) : (stateOf s (execImageIdle a1 a2 s)).stalls = s.stalls := by
  simp [execImageIdle]

@[simp] theorem State.statusLine_stalls (s : State) (a2 : _) : (State.statusLine s a2).stalls = s.stalls := by
  simp [State.statusLine]

@[simp] theorem State.setRetired_stalls (s : State) (a2 a3 : _) : (State.setRetired s a2 a3).stalls = s.stalls := by
  simp [State.setRetired]

@[simp] theorem State.retire_stalls (s : State) (a2 a3 : _) : (State.retire s a2 a3).stalls = s.stalls := by
  simp [State.retire]

@[simp] theorem State.dropDesc_stalls (s : State) (a2 a3 : _) : (State.dropDesc s a2 a3).stalls = s.stalls := by
  simp [State.dropDesc]

@[simp] theorem State.closeAbort_stalls (s : State) (a2 : _) : (State.closeAbort s a2).stalls = s.stalls := by
  simp [State.closeAbort]

@[simp] theorem State.writeRecord_stalls (s : State) (a2 a3 a4 a5 : _) : (State.writeRecord s a2 a3 a4 a5).stalls = s.stalls := by
  simp [State.writeRecord]

@[simp] theorem State.publish_stalls (s : State) (a2 a3 : _) : (State.publish s a2 a3).stalls = s.stalls := by
  simp [State.publish]

@[simp] theorem State.publishAll_stalls (s : State) (a2 a3 : _) : (State.publishAll s a2 a3).stalls = s.stalls := by
  simp [State.publishAll]

@[simp] theorem State.writeLine__stalls (s : State) (a2 : _) : (State.writeLine_ s a2).stalls = s.stalls := by
  unfold State.writeLine_
  (repeat' split) <;> simp

@[simp] theorem State.releaseLine_stalls (s : State) (a2 : _) : (State.releaseLine s a2).stalls = s.stalls := by
  unfold State.releaseLine
  (repeat' split) <;> simp

@[simp] theorem State.resumeLines_stalls (s : State) : (State.resumeLines s).stalls = s.stalls := by
  simp [State.resumeLines]

@[simp] theorem State.flushed__stalls (s : State) (a2 : _) : (State.flushed_ s a2).stalls = s.stalls := by
  simp [State.flushed_]

@[simp] theorem execFlushingReadDone_stalls (s : State) (a1 : _) : (stateOf s (execFlushingReadDone a1 s)).stalls = s.stalls := by
  simp [execFlushingReadDone]

@[simp] theorem State.modHc_stalls (s : State) (a2 a3 : _) : (State.modHc s a2 a3).stalls = s.stalls := by
  simp [State.modHc]

@[simp] theorem State.hcXlateFail_stalls (s : State) (a2 a3 a4 a5 a6 a7 : _) : (State.hcXlateFail s a2 a3 a4 a5 a6 a7).stalls = s.stalls := by
  simp [State.hcXlateFail]

@[simp] theorem State.hcWalkRead_stalls (s : State) (a2 a3 a4 a5 : _) : (State.hcWalkRead s a2 a3 a4 a5).stalls = s.stalls := by
  simp [State.hcWalkRead]

@[simp] theorem State.hcTranslate_stalls (s : State) (a2 a3 a4 a5 a6 : _) : (State.hcTranslate s a2 a3 a4 a5 a6).1.stalls = s.stalls := by
  unfold State.hcTranslate
  dsimp only
  (repeat' split) <;> simp

@[simp] theorem State.hcWrites_stalls (s : State) (a2 a3 a4 a5 : _) : (State.hcWrites s a2 a3 a4 a5).stalls = s.stalls := by
  induction a5 generalizing s with
  | zero => simp [State.hcWrites]
  | succ k ih =>
    unfold State.hcWrites
    split
    · rfl
    · rename_i va bs rest _
      split
      · rfl
      · have h := State.hcTranslate_stalls s a2 a3 a4 va true
        split <;> rename_i ht <;> simp only [ht] at h
        · exact h
        · rw [ih]; simp [h]

@[simp] theorem State.hcReads_stalls (s : State) (a2 a3 a4 a5 : _) : (State.hcReads s a2 a3 a4 a5).stalls = s.stalls := by
  induction a5 generalizing s with
  | zero => simp [State.hcReads]
  | succ k ih =>
    unfold State.hcReads
    dsimp only
    split
    · rfl
    · split
      · rfl
      · split
        · split <;> simp [ih]
        · split
          · simp [ih]
          · split <;> rename_i ht <;> have e := congrArg (fun x => x.1.stalls) ht <;> simp at e
            · exact e.symm
            · rw [ih]; simp [e]

@[simp] theorem State.hcDrain_stalls (s : State) (a2 a3 : _) : (State.hcDrain s a2 a3).stalls = s.stalls := by
  induction a3 generalizing s with
  | zero => simp [State.hcDrain]
  | succ k ih =>
    unfold State.hcDrain
    dsimp only
    (repeat' split) <;> simp [ih]

@[simp] theorem State.hcIndex_stalls (s : State) (a2 a3 : _) : (State.hcIndex s a2 a3).stalls = s.stalls := by
  simp [State.hcIndex]

@[simp] theorem State.hcEnd_stalls (s : State) (a2 a3 : _) : (State.hcEnd s a2 a3).stalls = s.stalls := by
  simp [State.hcEnd]

@[simp] theorem State.hcPump_stalls (s : State) (a2 : _) : (State.hcPump s a2).stalls = s.stalls := by
  unfold State.hcPump
  split <;> simp

@[simp] theorem State.hcArrive_stalls (s : State) (a2 a3 a4 a5 : _) : (State.hcArrive s a2 a3 a4 a5).stalls = s.stalls := by
  simp [State.hcArrive]

@[simp] theorem State.hcAcked_stalls (s : State) (a2 a3 a4 : _) : (State.hcAcked s a2 a3 a4).stalls = s.stalls := by
  simp [State.hcAcked]

@[simp] theorem State.hcDeliver_stalls (s : State) (a2 a3 : _) : (State.hcDeliver s a2 a3).stalls = s.stalls := by
  unfold State.hcDeliver
  split <;> simp

@[simp] theorem State.hcIndexed_stalls (s : State) (a2 a3 a4 a5 : _) : (State.hcIndexed s a2 a3 a4 a5).stalls = s.stalls := by
  simp [State.hcIndexed]

@[simp] theorem State.hcWalkData_stalls (s : State) (a2 a3 a4 a5 a6 : _) : (State.hcWalkData s a2 a3 a4 a5 a6).stalls = s.stalls := by
  unfold State.hcWalkData
  (repeat' split) <;> simp

@[simp] theorem State.hcWalkBack_stalls (s : State) (a2 : _) : (State.hcWalkBack s a2).stalls = s.stalls := by
  unfold State.hcWalkBack
  split
  · rfl
  · split
    · rename_i h _
      have := State.takeResp_stalls _ _ _ _ h
      split <;> simp [this]
    · rfl

@[simp] theorem State.hcRewalk_stalls (s : State) (a2 : _) : (State.hcRewalk s a2).stalls = s.stalls := by
  unfold State.hcRewalk
  (repeat' split) <;> simp

@[simp] theorem State.cartRewalkIf_stalls (s : State) (a1 a3 a4 : _) : (State.cartRewalkIf a1 s a3 a4).stalls = s.stalls := by
  unfold State.cartRewalkIf
  split <;> simp

@[simp] theorem State.rewalk_stalls (s : State) (a2 : _) : (State.rewalk s a2).stalls = s.stalls := by
  unfold State.rewalk
  dsimp only
  rw [stalls_foldl _ (by intro s a; split <;> [(split <;> simp); rfl]), stalls_foldl _ (by intro s a; split <;> simp)]

@[simp] theorem execTableWalkRead_stalls (s : State) (a1 : _) : (stateOf s (execTableWalkRead a1 s)).stalls = s.stalls := by
  unfold execTableWalkRead
  split <;> simp

@[simp] theorem execTranslationSweep_stalls (s : State) : (stateOf s (execTranslationSweep s)).stalls = s.stalls := by
  simp [execTranslationSweep]

@[simp] theorem onDesc_stalls (s : State) (r : RingId) (seq : BitVec 32) (opc : Nat) (f : PartId → Desc → State) (h : ∀ p d, (f p d).stalls = s.stalls) : (stateOf s (onDesc s r seq opc f)).stalls = s.stalls := by
  unfold onDesc
  split <;> simp [h]

@[simp] theorem State.running__stalls (s : State) (a2 a3 : _) : (State.running_ s a2 a3).stalls = s.stalls := by
  simp [State.running_]

@[simp] theorem State.hcBegin_stalls (s : State) (a2 a3 a4 a5 : _) : (State.hcBegin s a2 a3 a4 a5).stalls = s.stalls := by
  unfold State.hcBegin
  split <;> simp

@[simp] theorem execCopy_stalls (s : State) (a1 a2 : _) : (stateOf s (execCopy a1 a2 s)).stalls = s.stalls := by
  simp [execCopy]

@[simp] theorem execCopyIndexed_stalls (s : State) (a1 a2 : _) : (stateOf s (execCopyIndexed a1 a2 s)).stalls = s.stalls := by
  simp [execCopyIndexed]

@[simp] theorem State.inline_stalls (s : State) (a2 a3 a4 a5 : _) : (State.inline s a2 a3 a4 a5).stalls = s.stalls := by
  simp [State.inline]

@[simp] theorem execWriteInline_stalls (s : State) (a1 a2 : _) : (stateOf s (execWriteInline a1 a2 s)).stalls = s.stalls := by
  simp [execWriteInline]

@[simp] theorem execTimestamp_stalls (s : State) (a1 a2 : _) : (stateOf s (execTimestamp a1 a2 s)).stalls = s.stalls := by
  simp [execTimestamp]

@[simp] theorem State.bar2Done_stalls (s : State) (a2 : _) : (State.bar2Done s a2).stalls = s.stalls := by
  simp [State.bar2Done]

@[simp] theorem State.settleIngress_stalls (s : State) : (State.settleIngress s).stalls = s.stalls := by
  simp [State.settleIngress]

@[simp] theorem State.ingressDone_stalls (s : State) (a2 : _) : (State.ingressDone s a2).stalls = s.stalls := by
  simp [State.ingressDone]

@[simp] theorem State.ingressDropped_stalls (s : State) (a2 a3 : _) : (State.ingressDropped s a2 a3).stalls = s.stalls := by
  unfold State.ingressDropped
  (repeat' split) <;> simp

@[simp] theorem State.served_stalls (s : State) (a2 : _) : (State.served s a2).stalls = s.stalls := by
  unfold State.served
  split <;> simp

@[simp] theorem State.serveOn_stalls (s : State) (a2 a3 : _) : (State.serveOn s a2 a3).stalls = s.stalls := by
  simp [State.serveOn]

@[simp] theorem State.serveAll_stalls (s : State) (a2 a3 a4 a5 a6 a7 a8 : _) : (State.serveAll s a2 a3 a4 a5 a6 a7 a8).stalls = s.stalls := by
  simp [State.serveAll]

@[simp] theorem State.deliver_stalls (s : State) (a2 : _) : (State.deliver s a2).stalls = s.stalls := by
  unfold State.deliver
  split <;> simp

@[simp] theorem deliverOpt_stalls (x : State × Option MemResp) : (deliverOpt x).stalls = x.1.stalls := by
  unfold deliverOpt
  split <;> simp
@[simp] theorem execMemRequestArrive_stalls (s : State) (src : BitVec 16) : (stateOf s (execMemRequestArrive src s)).stalls = s.stalls := by
  simp [execMemRequestArrive]

@[simp] theorem execMemRequestServe_stalls (s : State) (a1 a2 a3 : _) : (stateOf s (execMemRequestServe a1 a2 a3 s)).stalls = s.stalls := by
  simp [execMemRequestServe]

@[simp] theorem State.modJoint_stalls (s : State) (a2 a3 a4 : _) : (State.modJoint s a2 a3 a4).stalls = s.stalls := by
  simp [State.modJoint]

@[simp] theorem State.dropWaits_stalls (s : State) (a2 a3 : _) : (State.dropWaits s a2 a3).stalls = s.stalls := by
  unfold State.dropWaits
  dsimp only
  rw [stalls_foldl _ (by intros; simp), stalls_foldl _ (by intros; simp), stalls_foldl _ (by intros; simp)]

@[simp] theorem State.withdrawRemote_stalls (s : State) (a2 a3 : _) : (State.withdrawRemote s a2 a3).stalls = s.stalls := by
  unfold State.withdrawRemote
  split <;> simp

@[simp] theorem State.stopDescJob_stalls (s : State) (a2 a3 : _) : (State.stopDescJob s a2 a3).stalls = s.stalls := by
  simp [State.stopDescJob] <;> (repeat' split) <;> simp

@[simp] theorem State.cancelLaunch_stalls (s : State) (a2 a3 : _) : (State.cancelLaunch s a2 a3).stalls = s.stalls := by
  simp [State.cancelLaunch]

@[simp] theorem State.markStatus_stalls (s : State) (a2 a3 a4 : _) : (State.markStatus s a2 a3 a4).stalls = s.stalls := by
  simp [State.markStatus]

@[simp] theorem State.stopRunning_stalls (s : State) (a2 a3 : _) : (State.stopRunning s a2 a3).stalls = s.stalls := by
  simp [State.stopRunning] <;> (repeat' split) <;> simp

@[simp] theorem State.stopDesc_stalls (s : State) (a2 a3 a4 : _) : (State.stopDesc s a2 a3 a4).stalls = s.stalls := by
  unfold State.stopDesc
  split <;> simp

@[simp] theorem State.failWithheld_stalls (s : State) (a2 a3 a4 : _) : (State.failWithheld s a2 a3 a4).stalls = s.stalls := by
  simp [State.failWithheld]

@[simp] theorem State.releaseMembers_stalls (s : State) (a2 a3 : _) : (State.releaseMembers s a2 a3).stalls = s.stalls := by
  simp [State.releaseMembers]

@[simp] theorem State.publishMembers_stalls (s : State) (a2 a3 : _) : (State.publishMembers s a2 a3).stalls = s.stalls := by
  simp [State.publishMembers]

@[simp] theorem State.endAborting_stalls (s : State) (a2 a3 : _) : (State.endAborting s a2 a3).stalls = s.stalls := by
  simp [State.endAborting] <;> (repeat' split) <;> simp

@[simp] theorem State.haltMember_stalls (s : State) (a1 a3 : _) : (State.haltMember a1 s a3).stalls = s.stalls := by
  unfold State.haltMember
  split <;> simp

@[simp] theorem State.failJoint_stalls (s : State) (a2 a3 a4 : _) : (State.failJoint s a2 a3 a4).stalls = s.stalls := by
  unfold State.failJoint
  (repeat' split) <;> simp

@[simp] theorem State.freeJoint_stalls (s : State) (a2 a3 : _) : (State.freeJoint s a2 a3).stalls = s.stalls := by
  simp [State.freeJoint]

@[simp] theorem State.meetJoint_stalls (s : State) (a2 a3 : _) : (State.meetJoint s a2 a3).stalls = s.stalls := by
  simp [State.meetJoint] <;> (repeat' split) <;> simp

theorem resolveOne_stalls (p : PartId) (x : State × List Nat) (key : RingId × BitVec 32) :
    (resolveOne p x key).1.stalls = x.1.stalls := by
  unfold resolveOne
  (repeat' split) <;> simp
@[simp] theorem State.resolveJoints_stalls (s : State) (p : PartId) : (s.resolveJoints p).stalls = s.stalls := by
  unfold State.resolveJoints
  rw [stalls_foldl_fst _ (fun x a => resolveOne_stalls p x a)]

@[simp] theorem onJoint_stalls (s : State) (r : RingId) (seq : BitVec 32) (opc : Nat) (f : PartId → Desc → State) (h : ∀ p d, (f p d).stalls = s.stalls) : (stateOf s (onJoint s r seq opc f)).stalls = s.stalls := by
  unfold onJoint
  split <;> simp [h]

@[simp] theorem execJointOpen_stalls (s : State) (a1 a2 : _) : (stateOf s (execJointOpen a1 a2 s)).stalls = s.stalls := by
  simp [execJointOpen]

@[simp] theorem execJointCommit_stalls (s : State) (a1 a2 : _) : (stateOf s (execJointCommit a1 a2 s)).stalls = s.stalls := by
  refine onJoint_stalls s _ _ _ _ ?_
  intro p d
  try dsimp only
  (repeat' split) <;> simp

@[simp] theorem execJointAbort_stalls (s : State) (a1 a2 : _) : (stateOf s (execJointAbort a1 a2 s)).stalls = s.stalls := by
  refine onJoint_stalls s _ _ _ _ ?_
  intro p d
  try dsimp only
  (repeat' split) <;> simp

@[simp] theorem State.streamWrite_stalls (s : State) (a2 a3 a4 : _) : (State.streamWrite s a2 a3 a4).stalls = s.stalls := by
  unfold State.streamWrite
  dsimp only
  split <;> simp

@[simp] theorem State.wake_stalls (s : State) (a2 a3 : _) : (State.wake s a2 a3).stalls = s.stalls := by
  simp [State.wake]

@[simp] theorem State.answerWrite_stalls (s : State) (a2 a3 a4 : _) : (State.answerWrite s a2 a3 a4).stalls = s.stalls := by
  simp [State.answerWrite]

@[simp] theorem State.toShadow_stalls (s : State) (a2 a3 a4 : _) : (State.toShadow s a2 a3 a4).stalls = s.stalls := by
  simp [State.toShadow]

@[simp] theorem State.class0Check_stalls (s : State) (a2 a3 a4 : _) : (State.class0Check s a2 a3 a4).stalls = s.stalls := by
  simp [State.class0Check]

@[simp] theorem State.firstWrite_stalls (s : State) (a2 a3 : _) : (State.firstWrite s a2 a3).stalls = s.stalls := by
  simp [State.firstWrite]

@[simp] theorem State.memberWrite_stalls (s : State) (a2 a3 : _) : (State.memberWrite s a2 a3).stalls = s.stalls := by
  unfold State.memberWrite
  (repeat' split) <;> simp

@[simp] theorem State.pageWrite_stalls (s : State) (a2 a3 : _) : (State.pageWrite s a2 a3).stalls = s.stalls := by
  unfold State.pageWrite
  (repeat' split) <;> simp

@[simp] theorem execJointPageWrite_stalls (s : State) (a1 : _) : (stateOf s (execJointPageWrite a1 s)).stalls = s.stalls := by
  unfold execJointPageWrite
  split <;> simp

@[simp] theorem State.copyPage_stalls (s : State) (a2 a3 : _) : (State.copyPage s a2 a3).stalls = s.stalls := by
  simp [State.copyPage]

@[simp] theorem State.dropLeaves_stalls (s : State) (a2 : _) : (State.dropLeaves s a2).stalls = s.stalls := by
  simp [State.dropLeaves]

@[simp] theorem State.remoteTally_stalls (s : State) (a2 a3 a4 a5 a6 a7 a8 : _) : (State.remoteTally s a2 a3 a4 a5 a6 a7 a8).stalls = s.stalls := by
  simp [State.remoteTally]

@[simp] theorem State.applyHeld_stalls (s : State) (a1 a3 : _) : (State.applyHeld a1 s a3).stalls = s.stalls := by
  simp [State.applyHeld] <;> (repeat' split) <;> simp

@[simp] theorem State.requeue_stalls (s : State) (a2 : _) : (State.requeue s a2).stalls = s.stalls := by
  unfold State.requeue
  split
  · split <;> rfl
  · rfl

@[simp] theorem State.freeBody_stalls (s : State) : (State.freeBody s).2.stalls = s.stalls := by
  simp [State.freeBody]

@[simp] theorem State.askTwin_stalls (s : State) (a2 a3 : _) : (State.askTwin s a2 a3).stalls = s.stalls := by
  simp [State.askTwin]

@[simp] theorem State.noteBusy_stalls (s : State) (a2 a3 : _) : (State.noteBusy s a2 a3).stalls = s.stalls := by
  simp [State.noteBusy]

@[simp] theorem State.logResidue_stalls (s : State) (a2 a3 : _) : (State.logResidue s a2 a3).stalls = s.stalls := by
  unfold State.logResidue
  split <;> simp

@[simp] theorem State.noteIdle_stalls (s : State) (a2 a3 : _) : (State.noteIdle s a2 a3).stalls = s.stalls := by
  simp [State.noteIdle]

@[simp] theorem State.noteLate_stalls (s : State) (a2 a3 : _) : (State.noteLate s a2 a3).stalls = s.stalls := by
  simp [State.noteLate]

@[simp] theorem State.beginLaunch_stalls (s : State) (a2 a3 a4 : _) : (State.beginLaunch s a2 a3 a4).stalls = s.stalls := by
  simp [State.beginLaunch]

@[simp] theorem State.awaitImage_stalls (s : State) (a2 a3 a4 : _) : (State.awaitImage s a2 a3 a4).stalls = s.stalls := by
  simp [State.awaitImage]

@[simp] theorem State.dropSaved_stalls (s : State) (a2 : _) : (State.dropSaved s a2).stalls = s.stalls := by
  simp [State.dropSaved]

@[simp] theorem State.endLaunch_stalls (s : State) (a2 : _) : (State.endLaunch s a2).stalls = s.stalls := by
  simp [State.endLaunch]

@[simp] theorem execLaunchFinish_stalls (s : State) (a1 a2 : _) : (stateOf s (execLaunchFinish a1 a2 s)).stalls = s.stalls := by
  unfold execLaunchFinish
  split <;> simp

@[simp] theorem State.actGrind_stalls (s : State) (a2 a3 : _) : (State.actGrind s a2 a3).stalls = s.stalls := by
  unfold State.actGrind
  dsimp only
  split
  · simp
  · split
    · rfl
    · have h := State.checkGrind_stalls s (s.coreOfRank a2 (a3.f 16 1)) (some a2) a3.grindCmd
      split <;> rename_i ht <;> simp only [ht] at h <;> simp [h]

@[simp] theorem execGrind_stalls (s : State) (a1 a2 : _) : (stateOf s (execGrind a1 a2 s)).stalls = s.stalls := by
  simp [execGrind]

@[simp] theorem execNopDescriptor_stalls (s : State) (a1 a2 : _) : (stateOf s (execNopDescriptor a1 a2 s)).stalls = s.stalls := by
  simp [execNopDescriptor]

@[simp] theorem State.holdUpdate_stalls (s : State) (a2 a3 : _) : (State.holdUpdate s a2 a3).stalls = s.stalls := by
  simp [State.holdUpdate]

@[simp] theorem State.signalPeg_stalls (s : State) (a2 a3 : _) : (State.signalPeg s a2 a3).stalls = s.stalls := by
  simp [State.signalPeg]

@[simp] theorem State.signal_stalls (s : State) (a2 a3 : _) : (State.signal s a2 a3).stalls = s.stalls := by
  simp [State.signal] <;> (repeat' split) <;> simp

@[simp] theorem execSignal_stalls (s : State) (a1 a2 : _) : (stateOf s (execSignal a1 a2 s)).stalls = s.stalls := by
  simp [execSignal]

@[simp] theorem State.await_stalls (s : State) (a2 a3 : _) : (State.await s a2 a3).stalls = s.stalls := by
  simp [State.await] <;> (repeat' split) <;> simp

@[simp] theorem execWait_stalls (s : State) (a1 a2 : _) : (stateOf s (execWait a1 a2 s)).stalls = s.stalls := by
  simp [execWait]

@[simp] theorem onRunning_stalls (s : State) (r : RingId) (seq : BitVec 32) (opc : Nat) (f : PartId → Desc → State) (h : ∀ p d, (f p d).stalls = s.stalls) : (stateOf s (onRunning s r seq opc f)).stalls = s.stalls := by
  unfold onRunning
  split <;> simp [h]

@[simp] theorem execWaitTimeout_stalls (s : State) (a1 a2 : _) : (stateOf s (execWaitTimeout a1 a2 s)).stalls = s.stalls := by
  simp [execWaitTimeout]

@[simp] theorem execFence_stalls (s : State) (a1 a2 : _) : (stateOf s (execFence a1 a2 s)).stalls = s.stalls := by
  refine onDesc_stalls s _ _ _ _ ?_
  intro p d
  try dsimp only
  (repeat' split) <;> simp

@[simp] theorem execFlush_stalls (s : State) (a1 a2 : _) : (stateOf s (execFlush a1 a2 s)).stalls = s.stalls := by
  simp [execFlush]

@[simp] theorem execCancel_stalls (s : State) (a1 a2 : _) : (stateOf s (execCancel a1 a2 s)).stalls = s.stalls := by
  simp [execCancel]

@[simp] theorem State.coverIngress_stalls (s : State) (a2 a3 : _) : (State.coverIngress s a2 a3).stalls = s.stalls := by
  simp [State.coverIngress]

@[simp] theorem execIngressTimeout_stalls (s : State) (a1 a2 : _) : (stateOf s (execIngressTimeout a1 a2 s)).stalls = s.stalls := by
  simp [execIngressTimeout]

@[simp] theorem State.readMap_stalls (s : State) (a2 : _) : (State.readMap s a2).stalls = s.stalls := by
  simp [State.readMap]

@[simp] theorem State.endMap_stalls (s : State) (a2 : _) : (State.endMap s a2).stalls = s.stalls := by
  simp [State.endMap]

@[simp] theorem State.mapArrived_stalls (s : State) (a2 a3 a4 : _) : (State.mapArrived s a2 a3 a4).stalls = s.stalls := by
  unfold State.mapArrived
  (repeat' split) <;> simp

@[simp] theorem State.dueLine_stalls (s : State) (a2 : _) : (State.dueLine s a2).stalls = s.stalls := by
  simp [State.dueLine]

@[simp] theorem State.beginPoll_stalls (s : State) : (State.beginPoll s).stalls = s.stalls := by
  simp [State.beginPoll]

@[simp] theorem State.readTail_stalls (s : State) (a1 a3 : _) : (State.readTail a1 s a3).stalls = s.stalls := by
  unfold State.readTail
  (repeat' split) <;> simp

@[simp] theorem execSummaryPoll_stalls (s : State) : (stateOf s (execSummaryPoll s)).stalls = s.stalls := by
  simp [execSummaryPoll]

@[simp] theorem State.gotSummary_stalls (s : State) (a2 a3 : _) : (State.gotSummary s a2 a3).stalls = s.stalls := by
  simp [State.gotSummary]

@[simp] theorem execClass0TailPoll_stalls (s : State) : (stateOf s (execClass0TailPoll s)).stalls = s.stalls := by
  simp [execClass0TailPoll]

@[simp] theorem State.nudge_stalls (s : State) (a2 : _) : (State.nudge s a2).stalls = s.stalls := by
  simp [State.nudge]

@[simp] theorem execNudge_stalls (s : State) (a1 a2 a3 : _) : (stateOf s (execNudge a1 a2 a3 s)).stalls = s.stalls := by
  unfold execNudge
  (repeat' split) <;> simp

@[simp] theorem State.ringError_stalls (s : State) (a2 : _) : (State.ringError s a2).stalls = s.stalls := by
  unfold State.ringError
  (repeat' split) <;> simp

@[simp] theorem State.setTail_stalls (s : State) (a2 a3 a4 : _) : (State.setTail s a2 a3 a4).stalls = s.stalls := by
  simp [State.setTail]

@[simp] theorem State.takeTail_stalls (s : State) (a2 a3 a4 : _) : (State.takeTail s a2 a3 a4).stalls = s.stalls := by
  simp [State.takeTail]

@[simp] theorem execTailRead_stalls (s : State) (a1 a2 : _) : (stateOf s (execTailRead a1 a2 s)).stalls = s.stalls := by
  unfold execTailRead
  split <;> simp

@[simp] theorem State.grant_stalls (s : State) (a2 a3 a4 : _) : (State.grant s a2 a3 a4).stalls = s.stalls := by
  simp [State.grant]

@[simp] theorem execFetchGrant_stalls (s : State) : (stateOf s (execFetchGrant s)).stalls = s.stalls := by
  unfold execFetchGrant
  (repeat' split) <;> simp

@[simp] theorem State.logDesc_stalls (s : State) (a2 a3 a4 a5 a6 : _) : (State.logDesc s a2 a3 a4 a5 a6).stalls = s.stalls := by
  simp [State.logDesc]

@[simp] theorem State.logReserved_stalls (s : State) (a2 a3 : _) : (State.logReserved s a2 a3).stalls = s.stalls := by
  simp [State.logReserved]

@[simp] theorem State.admitDesc_stalls (s : State) (a2 a3 a4 : _) : (State.admitDesc s a2 a3 a4).stalls = s.stalls := by
  unfold State.admitDesc
  (repeat' split) <;> simp

@[simp] theorem State.takeSlots_stalls (s : State) (a2 a3 a4 a5 : _) : (State.takeSlots s a2 a3 a4 a5).stalls = s.stalls := by
  induction a4 generalizing s a5 with
  | zero => simp [State.takeSlots]
  | succ n ih =>
    cases a5 with
    | nil => simp [State.takeSlots]
    | cons h rest =>
      unfold State.takeSlots
      dsimp only
      split
      · rfl
      · split
        · simp
        · rw [ih]; simp

@[simp] theorem State.afterFetch_stalls (s : State) (a2 : _) : (State.afterFetch s a2).stalls = s.stalls := by
  simp [State.afterFetch]

@[simp] theorem State.endFetch_stalls (s : State) (a2 : _) : (State.endFetch s a2).stalls = s.stalls := by
  simp [State.endFetch]

@[simp] theorem State.takeBatch_stalls (s : State) (a2 : _) : (State.takeBatch s a2).stalls = s.stalls := by
  unfold State.takeBatch
  (repeat' split) <;> simp

@[simp] theorem State.cancelOne_stalls (s : State) (a2 a3 : _) : (State.cancelOne s a2 a3).stalls = s.stalls := by
  unfold State.cancelOne
  (repeat' split) <;> simp

@[simp] theorem State.applyCancel_stalls (s : State) (a2 a3 : _) : (State.applyCancel s a2 a3).stalls = s.stalls := by
  unfold State.applyCancel
  dsimp only
  split
  · simp
  · rw [stalls_foldl _ (by intro s a; split <;> simp)]
    simp

@[simp] theorem State.applyCancels_stalls (s : State) (a2 : _) : (State.applyCancels s a2).stalls = s.stalls := by
  unfold State.applyCancels
  exact stalls_foldl _ (by intro s a; split <;> [split <;> simp; rfl]) _ _

@[simp] theorem State.fetchAll_stalls (s : State) (a2 : _) : (State.fetchAll s a2).stalls = s.stalls := by
  simp [State.fetchAll]

@[simp] theorem execDescriptorFetch_stalls (s : State) (a1 : _) : (stateOf s (execDescriptorFetch a1 s)).stalls = s.stalls := by
  simp [execDescriptorFetch]

@[simp] theorem State.gotSlots_stalls (s : State) (a2 a3 a4 : _) : (State.gotSlots s a2 a3 a4).stalls = s.stalls := by
  simp [State.gotSlots]

@[simp] theorem State.lostSlots_stalls (s : State) (a2 : _) : (State.lostSlots s a2).stalls = s.stalls := by
  simp [State.lostSlots]

@[simp] theorem State.takeCart_stalls (s : State) (a2 a3 a4 : _) : (State.takeCart s a2 a3 a4).stalls = s.stalls := by
  simp [State.takeCart]

@[simp] theorem State.boundary_stalls (s : State) (a2 a3 : _) : (State.boundary s a2 a3).stalls = s.stalls := by
  simp [State.boundary]

@[simp] theorem State.startDesc_stalls (s : State) (a2 a3 : _) : (State.startDesc s a2 a3).stalls = s.stalls := by
  simp [State.startDesc]

@[simp] theorem State.startRing_stalls (s : State) (a2 a3 : _) : (State.startRing s a2 a3).stalls = s.stalls := by
  unfold State.startRing
  (repeat' split) <;> simp

@[simp] theorem execDescriptorStart_stalls (s : State) (a1 : _) : (stateOf s (execDescriptorStart a1 s)).stalls = s.stalls := by
  unfold execDescriptorStart
  split <;> simp

@[simp] theorem State.complete_stalls (s : State) (a2 a3 : _) : (State.complete s a2 a3).stalls = s.stalls := by
  unfold State.complete
  (repeat' split) <;> simp

@[simp] theorem execDescriptorComplete_stalls (s : State) (a1 a2 : _) : (stateOf s (execDescriptorComplete a1 a2 s)).stalls = s.stalls := by
  unfold execDescriptorComplete
  split <;> simp

@[simp] theorem State.written_stalls (s : State) : (State.written s).stalls = s.stalls := by
  simp [State.written]

@[simp] theorem State.enableRing_stalls (s : State) (a2 : _) : (State.enableRing s a2).stalls = s.stalls := by
  simp [State.enableRing] <;> (repeat' split) <;> simp

@[simp] theorem execRtCtlWrite_stalls (s : State) (a1 a2 a3 a4 : _) : (stateOf s (execRtCtlWrite a1 a2 a3 a4 s)).stalls = s.stalls := by
  simp [execRtCtlWrite]

@[simp] theorem State.beginSwitch_stalls (s : State) (a2 a3 : _) : (State.beginSwitch s a2 a3).stalls = s.stalls := by
  simp [State.beginSwitch]

@[simp] theorem execQuantumEnd_stalls (s : State) (a1 : _) : (stateOf s (execQuantumEnd a1 s)).stalls = s.stalls := by
  unfold execQuantumEnd
  split <;> simp

@[simp] theorem execContextSwitch_stalls (s : State) (a1 : _) : (stateOf s (execContextSwitch a1 s)).stalls = s.stalls := by
  unfold execContextSwitch
  (repeat' split) <;> simp

@[simp] theorem State.zeroBell_stalls (s : State) (a2 : _) : (State.zeroBell s a2).stalls = s.stalls := by
  simp [State.zeroBell]

@[simp] theorem State.zeroObjects_stalls (s : State) (a2 a3 : _) : (State.zeroObjects s a2 a3).stalls = s.stalls := by
  unfold State.zeroObjects
  dsimp only
  split
  · rfl
  · simp only [State.touched_stalls, State.serveTallies_stalls]
    rw [stalls_foldl _ (by intros; simp), stalls_foldl _ (by intros; simp), stalls_foldl _ (by intros; simp)]

@[simp] theorem State.restoreContext_stalls (s : State) (a2 a3 : _) : (State.restoreContext s a2 a3).stalls = s.stalls := by
  simp [State.restoreContext]

@[simp] theorem State.abortJoints_stalls (s : State) (a2 : _) : (State.abortJoints s a2).stalls = s.stalls := by
  simp [State.abortJoints]

@[simp] theorem State.stopHostCarts_stalls (s : State) (a2 : _) : (State.stopHostCarts s a2).stalls = s.stalls := by
  simp [State.stopHostCarts]

@[simp] theorem State.beginAbort_stalls (s : State) (a2 a3 : _) : (State.beginAbort s a2 a3).stalls = s.stalls := by
  simp [State.beginAbort]

@[simp] theorem State.askAbort_stalls (s : State) (a2 : _) : (State.askAbort s a2).stalls = s.stalls := by
  unfold State.askAbort
  split <;> simp

@[simp] theorem execPtAbortGo_stalls (s : State) (a1 a2 : _) : (stateOf s (execPtAbortGo a1 a2 s)).stalls = s.stalls := by
  simp [execPtAbortGo]

@[simp] theorem execAbortPartition_stalls (s : State) (a1 a2 : _) : (stateOf s (execAbortPartition a1 a2 s)).stalls = s.stalls := by
  simp [execAbortPartition]

@[simp] theorem State.discardBut_stalls (s : State) (a2 a3 : _) : (State.discardBut s a2 a3).stalls = s.stalls := by
  simp [State.discardBut]

@[simp] theorem State.discardDescs_stalls (s : State) (a2 : _) : (State.discardDescs s a2).stalls = s.stalls := by
  simp [State.discardDescs]

@[simp] theorem State.retireRing_stalls (s : State) (a2 : _) : (State.retireRing s a2).stalls = s.stalls := by
  simp [State.retireRing]

@[simp] theorem State.dropCores_stalls (s : State) (a2 : _) : (State.dropCores s a2).stalls = s.stalls := by
  simp [State.dropCores]

@[simp] theorem State.dropContexts_stalls (s : State) (a2 : _) : (State.dropContexts s a2).stalls = s.stalls := by
  unfold State.dropContexts
  (repeat' split) <;> simp

@[simp] theorem State.abortNotice_stalls (s : State) (a2 a3 : _) : (State.abortNotice s a2 a3).stalls = s.stalls := by
  unfold State.abortNotice
  dsimp only
  generalize hs : (s.part a2).abort = r
  rcases r with _ | r
  · simp only [State.closeAbort_stalls, State.modPart_stalls]
  · cases r <;> simp only [State.endDesc_stalls, State.eventLine_stalls, State.closeAbort_stalls, State.modPart_stalls]

@[simp] theorem State.resetVf_stalls (s : State) (a2 : _) : (State.resetVf s a2).stalls = s.stalls := by
  simp [State.resetVf]

@[simp] theorem State.resetEntries_stalls (s : State) (a2 : _) : (State.resetEntries s a2).stalls = s.stalls := by
  simp [State.resetEntries]

@[simp] theorem State.afterReset_stalls (s t : State) (p : PartId) (h : t.stalls = s.stalls) : (s.afterReset t p).stalls = s.stalls := by
  unfold State.afterReset
  split
  · simp [h]
  · split <;> simp [h]

@[simp] theorem State.endAbort_stalls (s : State) (a2 : _) : (State.endAbort s a2).stalls = s.stalls := by
  simp [State.endAbort]

@[simp] theorem State.storeQuantum_stalls (s : State) (a2 a3 a4 a5 : _) : (State.storeQuantum s a2 a3 a4 a5).stalls = s.stalls := by
  simp [State.storeQuantum]

@[simp] theorem execPartitionTableWrite_stalls (s : State) (a1 a2 a3 a4 a5 : _) : (stateOf s (execPartitionTableWrite a1 a2 a3 a4 a5 s)).stalls = s.stalls := by
  simp [execPartitionTableWrite]

@[simp] theorem execHcCtlWrite_stalls (s : State) (a1 a2 a3 : _) : (stateOf s (execHcCtlWrite a1 a2 a3 s)).stalls = s.stalls := by
  simp [execHcCtlWrite]

@[simp] theorem execPwrCapWrite_stalls (s : State) (a1 a2 a3 : _) : (stateOf s (execPwrCapWrite a1 a2 a3 s)).stalls = s.stalls := by
  simp [execPwrCapWrite]

@[simp] theorem execBar2Read_stalls (s : State) (a1 a2 : _) : (stateOf s (execBar2Read a1 a2 s)).stalls = s.stalls := by
  simp [execBar2Read]

@[simp] theorem execBar2Write_stalls (s : State) (a1 a2 : _) : (stateOf s (execBar2Write a1 a2 s)).stalls = s.stalls := by
  simp [execBar2Write]

@[simp] theorem execBar2MapWrite_stalls (s : State) (a1 a2 a3 : _) : (stateOf s (execBar2MapWrite a1 a2 a3 s)).stalls = s.stalls := by
  simp [execBar2MapWrite]

@[simp] theorem execBar2Resize_stalls (s : State) (a1 : _) : (stateOf s (execBar2Resize a1 s)).stalls = s.stalls := by
  simp [execBar2Resize]

@[simp] theorem State.logIngress_stalls (s : State) (a2 : _) : (State.logIngress s a2).stalls = s.stalls := by
  simp [State.logIngress]

@[simp] theorem State.dropIngress_stalls (s : State) (a2 : _) : (State.dropIngress s a2).stalls = s.stalls := by
  simp [State.dropIngress]

@[simp] theorem State.takeIngress_stalls (s : State) (a2 a3 : _) : (State.takeIngress s a2 a3).stalls = s.stalls := by
  simp [State.takeIngress]

@[simp] theorem execBar4Write_stalls (s : State) (a1 a2 : _) : (stateOf s (execBar4Write a1 a2 s)).stalls = s.stalls := by
  simp [execBar4Write]

@[simp] theorem execBar4Read_stalls (s : State) (a1 a2 : _) : (stateOf s (execBar4Read a1 a2 s)).stalls = s.stalls := by
  simp [execBar4Read]

@[simp] theorem execFlushRead_stalls (s : State) (a1 : _) : (stateOf s (execFlushRead a1 s)).stalls = s.stalls := by
  simp [execFlushRead]

@[simp] theorem State.endFlush_stalls (s : State) (a2 : _) : (State.endFlush s a2).stalls = s.stalls := by
  simp [State.endFlush]

@[simp] theorem execFlushReadComplete_stalls (s : State) (a1 : _) : (stateOf s (execFlushReadComplete a1 s)).stalls = s.stalls := by
  unfold execFlushReadComplete
  split <;> simp

@[simp] theorem State.logHost_stalls (s : State) (a2 a3 : _) : (State.logHost s a2 a3).stalls = s.stalls := by
  simp [State.logHost]

@[simp] theorem State.gotBeat_stalls (s : State) (a2 : _) : (State.gotBeat s a2).stalls = s.stalls := by
  simp [State.gotBeat]

@[simp] theorem State.hostGood_stalls (s : State) (a2 a3 : _) : (State.hostGood s a2 a3).stalls = s.stalls := by
  unfold State.hostGood
  (repeat' split) <;> simp

@[simp] theorem State.hostBad_stalls (s : State) (a2 a3 : _) : (State.hostBad s a2 a3).stalls = s.stalls := by
  unfold State.hostBad
  (repeat' split) <;> simp

@[simp] theorem execHostReadCompletion_stalls (s : State) (a1 a2 : _) : (stateOf s (execHostReadCompletion a1 a2 s)).stalls = s.stalls := by
  unfold execHostReadCompletion
  (repeat' split) <;> simp

@[simp] theorem execHostReadTimeout_stalls (s : State) (a1 : _) : (stateOf s (execHostReadTimeout a1 s)).stalls = s.stalls := by
  unfold execHostReadTimeout
  split <;> simp

@[simp] theorem execLinkDown_stalls (s : State) : (stateOf s (execLinkDown s)).stalls = s.stalls := by
  simp [execLinkDown]

@[simp] theorem execLinkDown100us_stalls (s : State) : (stateOf s (execLinkDown100us s)).stalls = s.stalls := by
  simp [execLinkDown100us]

@[simp] theorem State.abortFor_stalls (s : State) (a2 a3 : _) : (State.abortFor s a2 a3).stalls = s.stalls := by
  simp [State.abortFor]

@[simp] theorem State.abortNow_stalls (s : State) (a2 : _) : (State.abortNow s a2).stalls = s.stalls := by
  simp [State.abortNow]

@[simp] theorem State.hostReset_stalls (s : State) : (State.hostReset s).stalls = s.stalls := by
  simp [State.hostReset]

@[simp] theorem execLinkDown2ms_stalls (s : State) : (stateOf s (execLinkDown2ms s)).stalls = s.stalls := by
  simp [execLinkDown2ms]

@[simp] theorem execLinkUp_stalls (s : State) (a1 a2 a3 : _) : (stateOf s (execLinkUp a1 a2 a3 s)).stalls = s.stalls := by
  simp [execLinkUp]

@[simp] theorem execFlrVf_stalls (s : State) (a1 : _) : (stateOf s (execFlrVf a1 s)).stalls = s.stalls := by
  simp [execFlrVf]

@[simp] theorem execFlrPf0_stalls (s : State) : (stateOf s (execFlrPf0 s)).stalls = s.stalls := by
  simp [execFlrPf0]

@[simp] theorem State.writeConfig_stalls (s : State) (a2 a3 a4 : _) : (State.writeConfig s a2 a3 a4).stalls = s.stalls := by
  simp [State.writeConfig]

@[simp] theorem execConfigRequest_stalls (s : State) (a1 a2 a3 : _) : (stateOf s (execConfigRequest a1 a2 a3 s)).stalls = s.stalls := by
  unfold execConfigRequest
  (repeat' split) <;> simp

@[simp] theorem State.watch_stalls (s : State) (a2 : _) : (State.watch s a2).stalls = s.stalls := by
  simp [State.watch]

@[simp] theorem execWatchmanFire_stalls (s : State) (a1 : _) : (stateOf s (execWatchmanFire a1 s)).stalls = s.stalls := by
  simp [execWatchmanFire]

@[simp] theorem execWmCtlWrite_stalls (s : State) (a1 a2 a3 a4 : _) : (stateOf s (execWmCtlWrite a1 a2 a3 a4 s)).stalls = s.stalls := by
  simp [execWmCtlWrite]

@[simp] theorem State.logForce_stalls (s : State) (a2 a3 a4 : _) : (State.logForce s a2 a3 a4).stalls = s.stalls := by
  unfold State.logForce
  (repeat' split) <;> simp

@[simp] theorem execPegWrite_stalls (s : State) (a1 a2 a3 a4 : _) : (stateOf s (execPegWrite a1 a2 a3 a4 s)).stalls = s.stalls := by
  simp [execPegWrite]

@[simp] theorem execTallyValWrite_stalls (s : State) (a1 a2 a3 a4 : _) : (stateOf s (execTallyValWrite a1 a2 a3 a4 s)).stalls = s.stalls := by
  simp [execTallyValWrite]

@[simp] theorem State.reexamineBell_stalls (s : State) (a2 a3 : _) : (State.reexamineBell s a2 a3).stalls = s.stalls := by
  simp [State.reexamineBell]

@[simp] theorem execBellWrite_stalls (s : State) (a1 a2 a3 a4 : _) : (stateOf s (execBellWrite a1 a2 a3 a4 s)).stalls = s.stalls := by
  simp [execBellWrite]

@[simp] theorem State.resend_stalls (s : State) (a2 : _) : (State.resend s a2).stalls = s.stalls := by
  unfold State.resend
  simp only [State.incFld_stalls]
  exact stalls_foldl _ (by intros; simp) _ _

@[simp] theorem State.idleFrame_stalls (s : State) (a2 a3 : _) : (State.idleFrame s a2 a3).stalls = s.stalls := by
  simp [State.idleFrame]

@[simp] theorem State.logBelora_stalls (s : State) (a2 a3 : _) : (State.logBelora s a2 a3).stalls = s.stalls := by
  simp [State.logBelora]

@[simp] theorem State.refusePkt_stalls (s : State) (a2 a3 : _) : (State.refusePkt s a2 a3).stalls = s.stalls := by
  simp [State.refusePkt]

@[simp] theorem State.forward_stalls (s : State) (a2 a3 : _) : (State.forward s a2 a3).stalls = s.stalls := by
  simp [State.forward]

@[simp] theorem State.gotPacket_stalls (s : State) (a1 a3 : _) : (State.gotPacket a1 s a3).stalls = s.stalls := by
  simp [State.gotPacket]

@[simp] theorem State.frameHead_stalls (s : State) (a2 a3 : _) : (State.frameHead s a2 a3).stalls = s.stalls := by
  simp [State.frameHead]

@[simp] theorem State.framePayload_stalls (s : State) (a2 a3 : _) : (State.framePayload s a2 a3).stalls = s.stalls := by
  simp [State.framePayload]

@[simp] theorem State.gotFrame_stalls (s : State) (a2 a3 : _) : (State.gotFrame s a2 a3).stalls = s.stalls := by
  simp [State.gotFrame]

@[simp] theorem execFrameReceive_stalls (s : State) (a1 a2 : _) : (stateOf s (execFrameReceive a1 a2 s)).stalls = s.stalls := by
  simp [execFrameReceive]

@[simp] theorem execReplayTimeout_stalls (s : State) (a1 : _) : (stateOf s (execReplayTimeout a1 s)).stalls = s.stalls := by
  simp [execReplayTimeout]

@[simp] theorem State.resendTwin_stalls (s : State) (a2 : _) : (State.resendTwin s a2).stalls = s.stalls := by
  unfold State.resendTwin
  (repeat' split) <;> simp

@[simp] theorem State.downLink_stalls (s : State) (a2 : _) : (State.downLink s a2).stalls = s.stalls := by
  simp [State.downLink]

@[simp] theorem execLaneRemove_stalls (s : State) (a1 a2 : _) : (stateOf s (execLaneRemove a1 a2 s)).stalls = s.stalls := by
  simp [execLaneRemove]

@[simp] theorem execLaneRejoin_stalls (s : State) (a1 a2 : _) : (stateOf s (execLaneRejoin a1 a2 s)).stalls = s.stalls := by
  simp [execLaneRejoin]

@[simp] theorem execLinkLanesLost_stalls (s : State) (a1 : _) : (stateOf s (execLinkLanesLost a1 s)).stalls = s.stalls := by
  simp [execLinkLanesLost]

@[simp] theorem State.linkUpDone_stalls (s : State) (a2 : _) : (State.linkUpDone s a2).stalls = s.stalls := by
  simp [State.linkUpDone]

@[simp] theorem execLinkTrainingDone_stalls (s : State) (a1 : _) : (stateOf s (execLinkTrainingDone a1 s)).stalls = s.stalls := by
  simp [execLinkTrainingDone]

@[simp] theorem State.setHold_stalls (s : State) (a2 : _) : (State.setHold s a2).stalls = s.stalls := by
  simp [State.setHold]

@[simp] theorem execFbCtlWrite_stalls (s : State) (a1 a2 a3 : _) : (stateOf s (execFbCtlWrite a1 a2 a3 s)).stalls = s.stalls := by
  simp [execFbCtlWrite]

theorem State.takePkt_stalls (s : State) (a2 a3 : _) (x y t : _) (h : State.takePkt s a2 a3 = some (x, y, t)) : t.stalls = s.stalls := by
  have own : ∀ x, ((s.fabric.held.find? (fun e => s.answersTo (pDst e.2) && a3 e.2)).map (fun e =>
      (e.2, true, ({ s with fabric := { s.fabric with held := s.fabric.held.erase e } } : State)))) = some x → x.2.2.stalls = s.stalls := by
    intro x h
    cases hf : s.fabric.held.find? (fun e => s.answersTo (pDst e.2) && a3 e.2) with
    | none => simp [hf] at h
    | some r => simp [hf] at h; subst h; rfl
  unfold State.takePkt at h
  dsimp only at h
  split at h
  · split at h
    · simp at h; obtain ⟨_, _, rfl⟩ := h; simp
    · exact own _ h
  · exact own _ h

@[simp] theorem State.admitPkt_stalls (s : State) (l : LinkId) (own : Bool) (p : List Byte) (f : State → List Byte → State)
    (h : ∀ t p, (f t p).stalls = t.stalls) : (s.admitPkt l own p f).stalls = s.stalls := by
  unfold State.admitPkt
  dsimp only
  (repeat' split) <;> simp [h]

@[simp] theorem onPacket_stalls (s : State) (l : LinkId) (type : Nat) (f : State → List Byte → State) (h : ∀ t p, (f t p).stalls = t.stalls) : (stateOf s (onPacket s l type f)).stalls = s.stalls := by
  unfold onPacket
  split
  · rfl
  · rename_i hp
    have := State.takePkt_stalls _ _ _ _ _ _ hp
    simp [h, this]

@[simp] theorem State.peerServe_stalls (s : State) (a2 a3 a4 a5 : _) : (State.peerServe s a2 a3 a4 a5).stalls = s.stalls := by
  simp [State.peerServe]

@[simp] theorem execRd_stalls (s : State) (a1 : _) : (stateOf s (execRd a1 s)).stalls = s.stalls := by
  simp [execRd]

@[simp] theorem State.resyncWrite_stalls (s : State) (a2 a3 : _) : (State.resyncWrite s a2 a3).stalls = s.stalls := by
  simp [State.resyncWrite]

@[simp] theorem execWr_stalls (s : State) (a1 : _) : (stateOf s (execWr a1 s)).stalls = s.stalls := by
  simp [execWr]

@[simp] theorem execWrm_stalls (s : State) (a1 : _) : (stateOf s (execWrm a1 s)).stalls = s.stalls := by
  simp [execWrm]

@[simp] theorem State.topAwait_stalls (s : State) (a2 a3 a4 : _) : (State.topAwait s a2 a3 a4).stalls = s.stalls := by
  simp [State.topAwait]

@[simp] theorem State.topAdv_stalls (s : State) (a2 a3 : _) : (State.topAdv s a2 a3).stalls = s.stalls := by
  unfold State.topAdv
  (repeat' split) <;> simp

@[simp] theorem State.topServe_stalls (s : State) (a2 : _) : (State.topServe s a2).stalls = s.stalls := by
  simp [State.topServe]

@[simp] theorem execTop_stalls (s : State) (a1 : _) : (stateOf s (execTop a1 s)).stalls = s.stalls := by
  simp [execTop]

@[simp] theorem State.peerSkip_stalls (s : State) (a2 a3 a4 : _) : (State.peerSkip s a2 a3 a4).stalls = s.stalls := by
  simp [State.peerSkip]

@[simp] theorem State.endKpPeer_stalls (s : State) (a2 a3 a4 a5 : _) : (State.endKpPeer s a2 a3 a4 a5).stalls = s.stalls := by
  unfold State.endKpPeer
  (repeat' split) <;> simp

@[simp] theorem State.logTwin_stalls (s : State) (a2 a3 : _) : (State.logTwin s a2 a3).stalls = s.stalls := by
  simp [State.logTwin]

@[simp] theorem State.streamFailed_stalls (s : State) (a2 a3 a4 : _) : (State.streamFailed s a2 a3 a4).stalls = s.stalls := by
  simp [State.streamFailed]

@[simp] theorem State.endPeer_stalls (s : State) (a2 a3 a4 a5 a6 : _) : (State.endPeer s a2 a3 a4 a5 a6).stalls = s.stalls := by
  unfold State.endPeer
  (repeat' split) <;> simp

@[simp] theorem State.modReq_stalls (s : State) (a2 a3 : _) : (State.modReq s a2 a3).stalls = s.stalls := by
  simp [State.modReq]

@[simp] theorem onResponse_stalls (s : State) (l : LinkId) (type : Nat) (f : State → List Byte → PeerReq → State) (h : ∀ t p q, (f t p q).stalls = t.stalls) : (stateOf s (onResponse s l type f)).stalls = s.stalls := by
  refine onPacket_stalls s l type _ ?_
  intro t p
  split <;> simp [h]

@[simp] theorem execRdr_stalls (s : State) (a1 : _) : (stateOf s (execRdr a1 s)).stalls = s.stalls := by
  simp [execRdr]

@[simp] theorem execWra_stalls (s : State) (a1 : _) : (stateOf s (execWra a1 s)).stalls = s.stalls := by
  simp [execWra]

@[simp] theorem State.interimTor_stalls (s : State) (a2 : _) : (State.interimTor s a2).stalls = s.stalls := by
  unfold State.interimTor
  split <;> simp

@[simp] theorem execTor_stalls (s : State) (a1 : _) : (stateOf s (execTor a1 s)).stalls = s.stalls := by
  simp [execTor]

@[simp] theorem execErr_stalls (s : State) (a1 : _) : (stateOf s (execErr a1 s)).stalls = s.stalls := by
  simp [execErr]

@[simp] theorem execNotrdy_stalls (s : State) (a1 : _) : (stateOf s (execNotrdy a1 s)).stalls = s.stalls := by
  unfold execNotrdy
  split
  · rfl
  · rename_i h
    have := State.takePkt_stalls _ _ _ _ _ _ h
    simp only [stateOf_whenever]
    (repeat' split) <;> simp [this]

@[simp] theorem State.sendAgain_stalls (s : State) (a2 a3 : _) : (State.sendAgain s a2 a3).stalls = s.stalls := by
  unfold State.sendAgain
  (repeat' split) <;> simp

@[simp] theorem State.backoff_stalls (s : State) (a2 : _) : (State.backoff s a2).stalls = s.stalls := by
  simp [State.backoff]

@[simp] theorem execNotrdyBackoff_stalls (s : State) (a1 a2 : _) : (stateOf s (execNotrdyBackoff a1 a2 s)).stalls = s.stalls := by
  unfold execNotrdyBackoff
  split <;> simp

@[simp] theorem execPeerTimeout_stalls (s : State) (a1 : _) : (stateOf s (execPeerTimeout a1 s)).stalls = s.stalls := by
  unfold execPeerTimeout
  split <;> simp

@[simp] theorem State.endHeld_stalls (s : State) (a2 : _) : (State.endHeld s a2).stalls = s.stalls := by
  simp [State.endHeld] <;> (repeat' split) <;> simp

@[simp] theorem execUnreachable_stalls (s : State) (a1 : _) : (stateOf s (execUnreachable a1 s)).stalls = s.stalls := by
  unfold execUnreachable
  split <;> simp

@[simp] theorem execTopProbe_stalls (s : State) (a1 : _) : (stateOf s (execTopProbe a1 s)).stalls = s.stalls := by
  unfold execTopProbe
  split <;> simp

@[simp] theorem State.flood_stalls (s : State) (a2 a3 : _) : (State.flood s a2 a3).stalls = s.stalls := by
  simp [State.flood]

@[simp] theorem State.resendTo_stalls (s : State) (a2 : _) : (State.resendTo s a2).stalls = s.stalls := by
  simp [State.resendTo]

@[simp] theorem State.recordAlias_stalls (s : State) (a2 : _) : (State.recordAlias s a2).stalls = s.stalls := by
  simp [State.recordAlias] <;> (repeat' split) <;> simp

@[simp] theorem onFlood_stalls (s : State) (l : LinkId) (type : Nat) (f : State → List Byte → State) (h : ∀ t p, (f t p).stalls = t.stalls) : (stateOf s (onFlood s l type f)).stalls = s.stalls := by
  unfold onFlood
  split
  · rfl
  · rename_i hp
    have := State.takePkt_stalls _ _ _ _ _ _ hp
    simp [h, this]

@[simp] theorem State.floodOn_stalls (s : State) (a2 a3 : _) : (State.floodOn s a2 a3).stalls = s.stalls := by
  simp [State.floodOn]

@[simp] theorem execAdopt_stalls (s : State) (a1 : _) : (stateOf s (execAdopt a1 s)).stalls = s.stalls := by
  simp [execAdopt]

@[simp] theorem execRelease_stalls (s : State) (a1 : _) : (stateOf s (execRelease a1 s)).stalls = s.stalls := by
  refine onFlood_stalls s _ _ _ ?_
  intro t p
  split <;> simp

@[simp] theorem execUnknownPacket_stalls (s : State) (a1 : _) : (stateOf s (execUnknownPacket a1 s)).stalls = s.stalls := by
  unfold execUnknownPacket
  split
  · rfl
  · rename_i h
    have := State.takePkt_stalls _ _ _ _ _ _ h
    simp only [stateOf_whenever]
    (repeat' split) <;> simp [this]

@[simp] theorem State.raiseTwin_stalls (s : State) (a2 : _) : (State.raiseTwin s a2).stalls = s.stalls := by
  simp [State.raiseTwin]

@[simp] theorem State.retireAll_stalls (s : State) : (State.retireAll s).stalls = s.stalls := by
  simp [State.retireAll]

@[simp] theorem State.stopMirroring_stalls (s : State) (a2 : _) : (State.stopMirroring s a2).stalls = s.stalls := by
  simp [State.stopMirroring]

@[simp] theorem State.declare_stalls (s : State) : (State.declare s).stalls = s.stalls := by
  simp [State.declare]

@[simp] theorem State.enterFailed_stalls (s : State) : (State.enterFailed s).stalls = s.stalls := by
  simp [State.enterFailed]

@[simp] theorem execTwCtlWrite_stalls (s : State) (a1 a2 a3 : _) : (stateOf s (execTwCtlWrite a1 a2 a3 s)).stalls = s.stalls := by
  simp [execTwCtlWrite]

@[simp] theorem execHelloSend_stalls (s : State) : (stateOf s (execHelloSend s)).stalls = s.stalls := by
  simp [execHelloSend]

@[simp] theorem State.syncLeft_stalls (s : State) : (State.syncLeft s).stalls = s.stalls := by
  rfl

@[simp] theorem State.startSync_stalls (s : State) : (State.startSync s).stalls = s.stalls := by
  simp [State.startSync]

@[simp] theorem execHello_stalls (s : State) (a1 a2 a3 : _) : (stateOf s (execHello a1 a2 a3 s)).stalls = s.stalls := by
  simp [execHello]

@[simp] theorem State.floodAlias_stalls (s : State) (a2 : _) : (State.floodAlias s a2).stalls = s.stalls := by
  simp [State.floodAlias]

@[simp] theorem State.enterPaired_stalls (s : State) : (State.enterPaired s).stalls = s.stalls := by
  simp [State.enterPaired]

@[simp] theorem execResyncDone_stalls (s : State) : (stateOf s (execResyncDone s)).stalls = s.stalls := by
  simp [execResyncDone]

@[simp] theorem State.sendBeat_stalls (s : State) : (State.sendBeat s).stalls = s.stalls := by
  simp [State.sendBeat]

@[simp] theorem execBeatSend_stalls (s : State) : (stateOf s (execBeatSend s)).stalls = s.stalls := by
  simp [execBeatSend]

@[simp] theorem execBeat_stalls (s : State) (a1 : _) : (stateOf s (execBeat a1 s)).stalls = s.stalls := by
  simp [execBeat]

@[simp] theorem execPartnerBeatRead_stalls (s : State) (a1 : _) : (stateOf s (execPartnerBeatRead a1 s)).stalls = s.stalls := by
  unfold execPartnerBeatRead
  split <;> simp

@[simp] theorem execBeatTimeout_stalls (s : State) : (stateOf s (execBeatTimeout s)).stalls = s.stalls := by
  simp [execBeatTimeout]

@[simp] theorem execSelfFence_stalls (s : State) : (stateOf s (execSelfFence s)).stalls = s.stalls := by
  simp [execSelfFence]

@[simp] theorem execFatalNotice_stalls (s : State) : (stateOf s (execFatalNotice s)).stalls = s.stalls := by
  simp [execFatalNotice]

@[simp] theorem execFenceOff_stalls (s : State) (a1 : _) : (stateOf s (execFenceOff a1 s)).stalls = s.stalls := by
  simp [execFenceOff]

@[simp] theorem execModuleFatal_stalls (s : State) (a1 : _) : (stateOf s (execModuleFatal a1 s)).stalls = s.stalls := by
  simp [execModuleFatal]

@[simp] theorem execAdoptFabricAddress_stalls (s : State) : (stateOf s (execAdoptFabricAddress s)).stalls = s.stalls := by
  simp [execAdoptFabricAddress]

@[simp] theorem State.setTwinJoint_stalls (s : State) (a2 a3 : _) : (State.setTwinJoint s a2 a3).stalls = s.stalls := by
  simp [State.setTwinJoint]

@[simp] theorem State.replayRecord_stalls (s : State) (a2 : _) : (State.replayRecord s a2).stalls = s.stalls := by
  simp [State.replayRecord]

@[simp] theorem State.restoreObjects_stalls (s : State) (a2 a3 : _) : (State.restoreObjects s a2 a3).stalls = s.stalls := by
  unfold State.restoreObjects
  dsimp only
  simp only [State.touched_stalls, State.serveTallies_stalls]
  rw [stalls_foldl _ (by intro s a; split <;> simp), stalls_foldl _ (by intro s a; split <;> simp),
    stalls_foldl _ (by intro s a; split <;> simp)]

@[simp] theorem State.placeRing_stalls (s : State) (a2 a3 : _) : (State.placeRing s a2 a3).stalls = s.stalls := by
  simp [State.placeRing]

@[simp] theorem State.storeRecord_stalls (s : State) (a2 : _) : (State.storeRecord s a2).stalls = s.stalls := by
  simp [State.storeRecord]

@[simp] theorem execPrepareAck_stalls (s : State) (a1 a2 : _) : (stateOf s (execPrepareAck a1 a2 s)).stalls = s.stalls := by
  simp [execPrepareAck]

@[simp] theorem execRecoveryRecord_stalls (s : State) (a1 : _) : (stateOf s (execRecoveryRecord a1 s)).stalls = s.stalls := by
  simp [execRecoveryRecord]

@[simp] theorem State.answerTor_stalls (s : State) (a2 : _) : (State.answerTor s a2).stalls = s.stalls := by
  unfold State.answerTor
  split <;> simp

@[simp] theorem execRecordAck_stalls (s : State) (a1 : _) : (stateOf s (execRecordAck a1 s)).stalls = s.stalls := by
  unfold execRecordAck
  split <;> simp

theorem State.takeStream_stalls (s : State) (a2 : _) (x y t : _) (h : State.takeStream s a2 = some (x, y, t)) : t.stalls = s.stalls := by
  unfold State.takeStream at h
  obtain ⟨l, _, hl⟩ := List.exists_of_findSome?_eq_some h
  split at hl
  · split at hl
    · simp at hl; obtain ⟨_, _, rfl⟩ := hl; simp
    · simp at hl
  · simp at hl

@[simp] theorem State.answerStream_stalls (s : State) (a2 a3 : _) : (State.answerStream s a2 a3).stalls = s.stalls := by
  unfold State.answerStream
  split
  · rfl
  · rename_i h
    have := State.takeStream_stalls _ _ _ _ _ h
    dsimp only
    split <;> simp [this]

@[simp] theorem execTallyLog_stalls (s : State) (a1 a2 a3 a4 : _) : (stateOf s (execTallyLog a1 a2 a3 a4 s)).stalls = s.stalls := by
  simp [execTallyLog]

@[simp] theorem execTwinImageNotice_stalls (s : State) (a1 a2 a3 : _) : (stateOf s (execTwinImageNotice a1 a2 a3 s)).stalls = s.stalls := by
  simp [execTwinImageNotice] <;> (repeat' split) <;> simp

@[simp] theorem State.spareCore_stalls (s : State) (a2 : _) : (State.spareCore s a2).stalls = s.stalls := by
  simp [State.spareCore]

@[simp] theorem execCoreFaultCorrected_stalls (s : State) (a1 : _) : (stateOf s (execCoreFaultCorrected a1 s)).stalls = s.stalls := by
  unfold execCoreFaultCorrected
  split <;> simp

@[simp] theorem State.goOn_stalls (s : State) (a2 : _) : (State.goOn s a2).stalls = s.stalls := by
  simp [State.goOn]

@[simp] theorem execCoreSpare_stalls (s : State) (a1 : _) : (stateOf s (execCoreSpare a1 s)).stalls = s.stalls := by
  unfold execCoreSpare
  split <;> simp

@[simp] theorem execCoreHardFault_stalls (s : State) (a1 : _) : (stateOf s (execCoreHardFault a1 s)).stalls = s.stalls := by
  unfold execCoreHardFault
  split <;> simp

@[simp] theorem State.rollRing_stalls (s : State) (a2 a3 : _) : (State.rollRing s a2 a3).stalls = s.stalls := by
  simp [State.rollRing]

@[simp] theorem State.endRollback_stalls (s : State) (a2 a3 : _) : (State.endRollback s a2 a3).stalls = s.stalls := by
  simp [State.endRollback] <;> (repeat' split) <;> simp

@[simp] theorem execPartitionAbortDone_stalls (s : State) (a1 : _) : (stateOf s (execPartitionAbortDone a1 s)).stalls = s.stalls := by
  unfold execPartitionAbortDone
  split <;> simp

@[simp] theorem State.clearRc_stalls (s : State) (a2 a3 a4 : _) : (State.clearRc s a2 a3 a4).stalls = s.stalls := by
  simp [State.clearRc]

@[simp] theorem State.answerRead_stalls (s : State) (a2 a3 : _) : (State.answerRead s a2 a3).stalls = s.stalls := by
  simp [State.answerRead]

@[simp] theorem State.readAt_stalls (s : State) (a2 a3 a4 a5 : _) : (State.readAt s a2 a3 a4 a5).stalls = s.stalls := by
  simp [State.readAt] <;> (repeat' split) <;> simp

@[simp] theorem execRcFieldRead_stalls (s : State) (a1 a2 a3 : _) : (stateOf s (execRcFieldRead a1 a2 a3 s)).stalls = s.stalls := by
  simp [execRcFieldRead] <;> (repeat' split) <;> simp

@[simp] theorem State.raiseRails_stalls (s : State) : (State.raiseRails s).stalls = s.stalls := by
  simp [State.raiseRails]

@[simp] theorem execModEnRise_stalls (s : State) : (stateOf s (execModEnRise s)).stalls = s.stalls := by
  simp [execModEnRise]

@[simp] theorem execRailInRegulation_stalls (s : State) (a1 : _) : (stateOf s (execRailInRegulation a1 s)).stalls = s.stalls := by
  simp [execRailInRegulation]

@[simp] theorem execInputRise_stalls (s : State) : (stateOf s (execInputRise s)).stalls = s.stalls := by
  simp [execInputRise]

@[simp] theorem execBulkChargeDone_stalls (s : State) : (stateOf s (execBulkChargeDone s)).stalls = s.stalls := by
  simp [execBulkChargeDone]

@[simp] theorem execModEnHoldoffEnd_stalls (s : State) : (stateOf s (execModEnHoldoffEnd s)).stalls = s.stalls := by
  simp [execModEnHoldoffEnd]

@[simp] theorem execRootLock_stalls (s : State) : (stateOf s (execRootLock s)).stalls = s.stalls := by
  simp [execRootLock]

@[simp] theorem execPllLoss_stalls (s : State) : (stateOf s (execPllLoss s)).stalls = s.stalls := by
  simp [execPllLoss]

@[simp] theorem State.bootStat_stalls (s : State) (a2 a3 a4 : _) : (State.bootStat s a2 a3 a4).stalls = s.stalls := by
  simp [State.bootStat]

@[simp] theorem State.bootError_stalls (s : State) (a2 a3 : _) : (State.bootError s a2 a3).stalls = s.stalls := by
  simp [State.bootError]

@[simp] theorem execConfigSpaceReady_stalls (s : State) : (stateOf s (execConfigSpaceReady s)).stalls = s.stalls := by
  simp [execConfigSpaceReady]

@[simp] theorem execPerstDeassert_stalls (s : State) : (stateOf s (execPerstDeassert s)).stalls = s.stalls := by
  simp [execPerstDeassert]

@[simp] theorem State.bootLoad_stalls (s : State) : (State.bootLoad s).stalls = s.stalls := by
  simp [State.bootLoad]

@[simp] theorem execBootGo_stalls (s : State) (a1 : _) : (stateOf s (execBootGo a1 s)).stalls = s.stalls := by
  simp [execBootGo]

@[simp] theorem State.checkDelays_stalls (s : State) (a2 a3 : _) : (State.checkDelays s a2 a3).stalls = s.stalls := by
  simp [State.checkDelays] <;> (repeat' split) <;> simp

@[simp] theorem State.bootFetched_stalls (s : State) (a2 a3 : _) : (State.bootFetched s a2 a3).stalls = s.stalls := by
  simp [State.bootFetched] <;> (repeat' split) <;> simp

@[simp] theorem execBootFetchDone_stalls (s : State) (a1 a2 : _) : (stateOf s (execBootFetchDone a1 a2 s)).stalls = s.stalls := by
  simp [execBootFetchDone]

@[simp] theorem State.bootChan_stalls (s : State) (a2 : _) : (State.bootChan s a2).stalls = s.stalls := by
  simp [State.bootChan]

@[simp] theorem State.prepareMemory_stalls (s : State) : (State.prepareMemory s).stalls = s.stalls := by
  simp [State.prepareMemory]

@[simp] theorem State.becomeReady_stalls (s : State) : (State.becomeReady s).stalls = s.stalls := by
  rfl

@[simp] theorem execFwReady_stalls (s : State) (a1 : _) : (stateOf s (execFwReady a1 s)).stalls = s.stalls := by
  unfold execFwReady
  split <;> simp

@[simp] theorem execFwStartTimeout_stalls (s : State) (a1 : _) : (stateOf s (execFwStartTimeout a1 s)).stalls = s.stalls := by
  simp [execFwStartTimeout]

@[simp] theorem State.takeReadings_stalls (s : State) (a2 : _) : (State.takeReadings s a2).stalls = s.stalls := by
  simp [State.takeReadings]

@[simp] theorem State.warn_stalls (s : State) : (State.warn s).stalls = s.stalls := by
  simp [State.warn]

@[simp] theorem State.chainOut_stalls (s : State) (a2 : _) : (State.chainOut s a2).stalls = s.stalls := by
  simp [State.chainOut]

@[simp] theorem execEntdaa_stalls (s : State) (a1 a2 : _) : (stateOf s (execEntdaa a1 a2 s)).stalls = s.stalls := by
  simp [execEntdaa]

@[simp] theorem execRstdaa_stalls (s : State) : (stateOf s (execRstdaa s)).stalls = s.stalls := by
  simp [execRstdaa]

@[simp] theorem execSetnewda_stalls (s : State) (a1 : _) : (stateOf s (execSetnewda a1 s)).stalls = s.stalls := by
  simp [execSetnewda]

@[simp] theorem State.answerI3c_stalls (s : State) (a2 a3 : _) : (State.answerI3c s a2 a3).stalls = s.stalls := by
  simp [State.answerI3c]

@[simp] theorem execGetpid_stalls (s : State) : (stateOf s (execGetpid s)).stalls = s.stalls := by
  simp [execGetpid]

@[simp] theorem execGetbcr_stalls (s : State) : (stateOf s (execGetbcr s)).stalls = s.stalls := by
  simp [execGetbcr]

@[simp] theorem execGetdcr_stalls (s : State) : (stateOf s (execGetdcr s)).stalls = s.stalls := by
  simp [execGetdcr]

@[simp] theorem execGetstatus_stalls (s : State) : (stateOf s (execGetstatus s)).stalls = s.stalls := by
  simp [execGetstatus]

@[simp] theorem execGetmxds_stalls (s : State) : (stateOf s (execGetmxds s)).stalls = s.stalls := by
  simp [execGetmxds]

@[simp] theorem execEnec_stalls (s : State) (a1 : _) : (stateOf s (execEnec a1 s)).stalls = s.stalls := by
  simp [execEnec]

@[simp] theorem execDisec_stalls (s : State) (a1 : _) : (stateOf s (execDisec a1 s)).stalls = s.stalls := by
  simp [execDisec]

@[simp] theorem execI3cPrivateWrite_stalls (s : State) (a1 : _) : (stateOf s (execI3cPrivateWrite a1 s)).stalls = s.stalls := by
  simp [execI3cPrivateWrite]

@[simp] theorem execI3cPrivateRead_stalls (s : State) (a1 : _) : (stateOf s (execI3cPrivateRead a1 s)).stalls = s.stalls := by
  simp [execI3cPrivateRead]

@[simp] theorem State.debugCtl_stalls (s : State) (a2 a3 a4 a5 a6 : _) : (State.debugCtl s a2 a3 a4 a5 a6).stalls = s.stalls := by
  simp [State.debugCtl] <;> (repeat' split) <;> simp

@[simp] theorem State.request1_stalls (s : State) (fn : FnId) (o l : Nat) (a : Acc) (v : Word) (r : State → Res)
    (h : ∀ t, (stateOf t (r t)).stalls = t.stalls) : (s.request1 fn o l a v r).stalls = s.stalls := by
  simp only [State.request1]
  split <;> simp [h]

theorem State.rowWrite_stalls (s : State) (a2 a3 a4 a5 : _) (t : _) (h : State.rowWrite s a2 a3 a4 a5 = some t) : t.stalls = s.stalls := by
  revert h t
  unfold State.rowWrite
  dsimp only
  iterate 14 refine iteSome (fun t => t.stalls = s.stalls) _ _ _ (by simp) ?_
  intro t h
  cases h

theorem State.bitWrite_stalls (s : State) (a2 a3 a4 a5 a6 : _) (t : _) (h : State.bitWrite s a2 a3 a4 a5 a6 = some t) : t.stalls = s.stalls := by
  unfold State.bitWrite at h
  dsimp only at h
  (repeat' split at h) <;> first | (cases h; simp; done) | cases h

@[simp] theorem State.setView_stalls (s : State) (a2 a3 : _) : (State.setView s a2 a3).stalls = s.stalls := by
  simp [State.setView]

@[simp] theorem State.linkEnable_stalls (s : State) (a2 a3 : _) : (State.linkEnable s a2 a3).stalls = s.stalls := by
  simp [State.linkEnable]

@[simp] theorem State.afterWrite_stalls (s : State) (a2 a3 : _) : (State.afterWrite s a2 a3).stalls = s.stalls := by
  simp [State.afterWrite]

@[simp] theorem State.plainWrite_stalls (s : State) (a2 a3 a4 a5 a6 a7 : _) : (State.plainWrite s a2 a3 a4 a5 a6 a7).stalls = s.stalls := by
  simp [State.plainWrite]

@[simp] theorem State.writeAt_stalls (s : State) (a2 a3 a4 a5 a6 a7 : _) : (State.writeAt s a2 a3 a4 a5 a6 a7).stalls = s.stalls := by
  unfold State.writeAt
  split
  · simp
  · split
    · rename_i h; exact State.rowWrite_stalls _ _ _ _ _ _ h
    · split
      · rename_i h
        have := State.bitWrite_stalls _ _ _ _ _ _ _ h
        split <;> simp [this]
      · simp

@[simp] theorem State.writeBar0_stalls (s : State) (a2 a3 a4 a5 a6 : _) : (State.writeBar0 s a2 a3 a4 a5 a6).stalls = s.stalls := by
  simp [State.writeBar0] <;> (repeat' split) <;> simp

@[simp] theorem execRegisterWrite_stalls (s : State) (a1 a2 a3 a4 : _) : (stateOf s (execRegisterWrite a1 a2 a3 a4 s)).stalls = s.stalls := by
  simp [execRegisterWrite] <;> (repeat' split) <;> simp

@[simp] theorem State.countModes_stalls (s : State) (a2 : _) : (State.countModes s a2).stalls = s.stalls := by
  simp [State.countModes]

@[simp] theorem State.tickPart_stalls (s : State) (a2 : _) : (State.tickPart s a2).stalls = s.stalls := by
  simp [State.tickPart]

/-! ### The commands and ticks that settle -/

/-- What is settled notes nothing: either nothing had been noted, or what is waited for is arranged. -/
theorem State.settle_stalls (s t : State) (h : s.stalls = []) : (s.settle t).stalls = [] := by
  unfold State.settle
  split
  next ht => exact List.isEmpty_iff.mp ht
  next => rw [stalls_foldl _ (by simp), h]

theorem State.powerDown_stalls (s : State) : s.powerDown.stalls = [] := by
  unfold State.powerDown
  dsimp only
  (repeat' split) <;> rfl

theorem State.railLost_stalls (s : State) : s.railLost.stalls = [] := State.powerDown_stalls _

theorem State.fabricTick_stalls (s : State) (h : s.stalls = []) : s.fabricTick.stalls = [] := by
  unfold State.fabricTick
  dsimp only
  have e : ∀ l : List Nat, (l.foldl (fun u n => if h : n < 32 then u.tickPart ⟨n, h⟩ else u) s).stalls = [] :=
    fun l => by rw [stalls_foldl _ (by intro s a; split <;> simp), h]
  split
  · exact State.settle_stalls _ _ (e _)
  · exact e _

theorem State.tick_stalls (s : State) (h : s.stalls = []) : s.tick.stalls = [] := by
  unfold State.tick
  split
  · exact h
  · dsimp only
    split
    · exact State.fabricTick_stalls _ (by split <;> simp [h])
    · split <;> simp [h]

/-- No command leaves a note. -/
theorem exec_stalls (i : Instr) (s : State) (h : s.stalls = []) : (stateOf s (exec i s)).stalls = [] := by
  cases i
  all_goals simp [exec, h]
  all_goals simp only [execPreemptSaveDone, execLoaderTakeImage, execImageTranslated, execWatchmanSnapshot,
    execJointCommitSwap, execShadowCopyDone, execLaunch, onDesc, execIngressFence, execMap, execContextSwitchDone,
    execPartnerJointResolve, execRingAdoption, execPrepare, execStreamedWrite, execModEnFall, execRailFault,
    execInputOutOfRange, execThermalSample]
  all_goals (repeat' split)
  all_goals simp [h, State.settle_stalls, State.powerDown_stalls, State.railLost_stalls]

/-! ### Completion -/

/-- No command changes the queue of the commands that wait. -/
theorem exec_pending (i : Instr) (s : State) : (stateOf s (exec i s)).pending = s.pending := by
  cases i <;> simp [exec]

theorem step_stalls {s t : State} (h : s.stalls = []) (ht : step s = .next t) : t.stalls = [] := by
  cases hp : s.pending with
  | nil =>
    simp only [step, hp] at ht
    cases ht
    exact State.tick_stalls s h
  | cons c rest =>
    rw [stepRunsFront s c rest hp] at ht
    have e := exec_stalls c { s with pending := rest } h
    rwa [stateOf_of_next ht] at e

/-- Settles O3: a command answers by its shape, the queue is in no operation's reach, and what is noted is settled. -/
theorem wellFormedCommandsComplete : Obligations.wellFormedCommandsComplete := by
  refine ⟨fun i s => ⟨exec_of_wf i s, exec_of_not_wf i s⟩, fun i s t ht => ?_, fun s t h ht => step_stalls h ht⟩
  rw [← stateOf_of_next ht]
  exact exec_pending i s

end Sys2Proof.Machine
end

section
/-! PROOFS. The instructions of the kingpost that touch nothing but their core: moves, arithmetic, comparisons, branches,
loop counters, flag words (R22, R51, R52). -/

namespace Sys2Proof.Machine

/-! ### A command that completes -/

theorem completes_of_eq {i : Instr} {s t : State} {P : State → Prop} (h : exec i s = .next t) (hP : P t) :
    Completes i s P := ⟨t, h, hP⟩

theorem whenever_of_alive {s : State} (ha : s.alive = true) {b : Bool} (hb : b = true) (t : State) :
    whenever b s t = .next t := by
  simp [whenever, ha, hb]

theorem whenever_false (s t : State) : whenever false s t = .next s := rfl

/-! ### One core changes -/

@[simp] theorem State.core_modCore (s : State) (c d : CoreId) (f : Core → Core) :
    (s.modCore c f).core d = if d = c then f (s.core c) else s.core d := by
  simp [State.modCore]

theorem onlyCore_setCore (s : State) (c : CoreId) (k : Core) : OnlyCore c s (s.setCore c k) :=
  ⟨rfl, fun d hd => by simp [hd]⟩

theorem onlyCore_modCore (s : State) (c : CoreId) (f : Core → Core) : OnlyCore c s (s.modCore c f) :=
  onlyCore_setCore s c _

/-! ### The program counter after an instruction -/

theorem Core.stepDone_two_eq_issued (k : Core) (pc : BitVec 48) :
    ({ k with pc := pc } : Core).stepDone 2 = k.issued pc := by
  cases h : k.stepping <;> simp [Core.stepDone, Core.issued, h]

theorem Core.retire_eq (k : Core) (n : Nat) : k.retire n = k.issued (k.pc + BitVec.ofNat 48 n) :=
  k.stepDone_two_eq_issued _

theorem simm_setWidth (imm : BitVec 32) : (simm imm).setWidth 48 = imm.signExtend 48 := by
  unfold simm
  ext i hi
  rw [BitVec.getElem_setWidth, BitVec.getLsbD_signExtend, BitVec.getElem_signExtend]
  by_cases h : i < 32
  · simp [h, BitVec.getLsbD_eq_getElem, show i < 64 by omega]
  · simp [h, show i < 64 by omega]

theorem Core.branch_eq (k : Core) (imm : BitVec 32) : k.branch imm = k.issued (k.pc + imm.signExtend 48) := by
  rw [← simm_setWidth]
  exact k.stepDone_two_eq_issued _

/-! ### The shapes of a scalar instruction -/

/-- An instruction of 8 bytes has its effect on the core, which goes on with the next instruction. -/
theorem scalarOp_eq {s : State} {c : CoreId} (hi : Issues s c) (f : Core → Core) :
    scalarOp s c f = .next (s.modCore c (fun k => (f k).retire 8)) := whenever_of_alive hi.1 hi.2 _

theorem retired_completes {i : Instr} {s : State} {c : CoreId} {f : Core → Core}
    (he : exec i s = .next (s.modCore c (fun k => (f k).retire 8))) :
    Completes i s (fun t => OnlyCore c s t ∧ t.core c = (f (s.core c)).issued ((f (s.core c)).pc + 8)) :=
  completes_of_eq he ⟨onlyCore_modCore _ _ _, by simp [Core.retire_eq]⟩

theorem scalarOp_completes {i : Instr} {s : State} {c : CoreId} {f : Core → Core} (hi : Issues s c)
    (he : exec i s = scalarOp s c f) :
    Completes i s (fun t => OnlyCore c s t ∧ t.core c = (f (s.core c)).issued ((f (s.core c)).pc + 8)) :=
  retired_completes (he.trans (scalarOp_eq hi f))

/-- A branch leaves its effect in the core, which goes on at the target or with the next instruction. -/
theorem branchOp_completes {i : Instr} {s : State} {c : CoreId} {imm : BitVec 32} {f : Core → Core} {taken : Core → Bool}
    (hi : Issues s c) (he : exec i s = branchOp s c imm f taken) :
    Completes i s (fun t => OnlyCore c s t ∧ t.core c = (f (s.core c)).issued
      (if taken (s.core c) then (f (s.core c)).pc + imm.signExtend 48 else (f (s.core c)).pc + 8)) := by
  refine completes_of_eq
    (t := s.modCore c (fun k => if taken k then (f k).branch imm else (f k).retire 8)) ?_ ⟨onlyCore_modCore _ _ _, ?_⟩
  · rw [he]
    exact whenever_of_alive hi.1 hi.2 _
  · cases h : taken (s.core c) <;> simp [Core.retire_eq, Core.branch_eq, h]

/-- A branch that writes nothing. -/
theorem jump_completes {i : Instr} {s : State} {c : CoreId} {imm : BitVec 32} {taken : Core → Bool} {b : Bool}
    (hi : Issues s c) (he : exec i s = branchOp s c imm id taken) (hb : taken (s.core c) = b) :
    Completes i s (fun t => OnlyCore c s t ∧
      t.core c = (s.core c).issued (if b then (s.core c).pc + imm.signExtend 48 else (s.core c).pc + 8)) :=
  hb ▸ branchOp_completes hi he

/-- An instruction that writes a scalar register. -/
theorem retired_setS_completes {i : Instr} {s : State} {c : CoreId} {rd : SReg} {g : Core → Word} {v : Word}
    (he : exec i s = .next (s.modCore c (fun k => (k.setS rd (g k)).retire 8))) (hv : g (s.core c) = v) :
    Completes i s (fun t =>
      OnlyCore c s t ∧ t.core c = ({ s.core c with s := (t.core c).s } : Core).issued ((s.core c).pc + 8) ∧
      (t.core c).sreg rd = v ∧ ∀ q, q ≠ rd → (t.core c).sreg q = (s.core c).sreg q) := by
  obtain ⟨t, ht, honly, hk⟩ := retired_completes (f := fun k => k.setS rd (g k)) he
  have hs : ∀ q, (t.core c).sreg q = ((s.core c).setS rd (g (s.core c))).sreg q := fun q => by rw [hk]; rfl
  refine completes_of_eq ht ⟨honly, by rw [hk]; rfl, ?_, fun q hq => ?_⟩
  · rw [hs, Core.sreg_setS, if_pos rfl, hv]
  · rw [hs, Core.sreg_setS, if_neg hq]

theorem setS_completes {i : Instr} {s : State} {c : CoreId} {rd : SReg} {g : Core → Word} {v : Word} (hi : Issues s c)
    (he : exec i s = scalarOp s c (fun k => k.setS rd (g k))) (hv : g (s.core c) = v) :
    Completes i s (fun t =>
      OnlyCore c s t ∧ t.core c = ({ s.core c with s := (t.core c).s } : Core).issued ((s.core c).pc + 8) ∧
      (t.core c).sreg rd = v ∧ ∀ q, q ≠ rd → (t.core c).sreg q = (s.core c).sreg q) :=
  retired_setS_completes (he.trans (scalarOp_eq hi _)) hv

@[simp] theorem Core.cmpBit_setCmp (k : Core) (n m : CmpReg) (b : Bool) :
    (k.setCmp n b).cmpBit m = if m = n then b else k.cmpBit m := by
  unfold Core.setCmp Core.cmpBit
  cases b <;> fin_cases n <;> fin_cases m <;> simp

/-- An instruction that writes a comparator bit. -/
theorem setCmp_completes {i : Instr} {s : State} {c : CoreId} {n : CmpReg} {g : Core → Bool} {v : Bool} (hi : Issues s c)
    (he : exec i s = scalarOp s c (fun k => k.setCmp n (g k))) (hv : g (s.core c) = v) :
    Completes i s (fun t =>
      OnlyCore c s t ∧ t.core c = ({ s.core c with cmp := (t.core c).cmp } : Core).issued ((s.core c).pc + 8) ∧
      (t.core c).cmpBit n = v ∧ ∀ m, m ≠ n → (t.core c).cmpBit m = (s.core c).cmpBit m) := by
  obtain ⟨t, ht, honly, hk⟩ := scalarOp_completes hi he
  have hs : ∀ m, (t.core c).cmpBit m = ((s.core c).setCmp n (g (s.core c))).cmpBit m := fun m => by rw [hk]; rfl
  refine completes_of_eq ht ⟨honly, by rw [hk]; rfl, ?_, fun m hm => ?_⟩
  · rw [hs, Core.cmpBit_setCmp, if_pos rfl, hv]
  · rw [hs, Core.cmpBit_setCmp, if_neg hm]

/-- An instruction that writes a loop counter. -/
theorem setLc_completes {i : Instr} {s : State} {c : CoreId} {n : LcReg} {g : Core → BitVec 32} {v : BitVec 32} (hi : Issues s c)
    (he : exec i s = scalarOp s c (fun k => k.setLc n (g k))) (hv : g (s.core c) = v) :
    Completes i s (fun t =>
      OnlyCore c s t ∧ t.core c = ({ s.core c with lc := (t.core c).lc } : Core).issued ((s.core c).pc + 8) ∧
      (t.core c).lcreg n = v ∧ ∀ m, m ≠ n → (t.core c).lcreg m = (s.core c).lcreg m) := by
  obtain ⟨t, ht, honly, hk⟩ := scalarOp_completes hi he
  have hs : ∀ m, (t.core c).lcreg m = ((s.core c).setLc n (g (s.core c))).lcreg m := fun m => by rw [hk]; rfl
  refine completes_of_eq ht ⟨honly, by rw [hk]; rfl, ?_, fun m hm => ?_⟩
  · rw [hs, Core.lcreg_setLc, if_pos rfl, hv]
  · rw [hs, Core.lcreg_setLc, if_neg hm]

/-! ### Moves, arithmetic, comparisons, branches -/

/-- Settles O10: every move and operation writes one register, every comparison one comparator bit. -/
theorem scalarResults : Obligations.scalarResults := by
  refine ⟨fun s c rd ra rb imm hi => ?_, fun s c n ra rb hi => ?_⟩
  · simp only [List.forall_mem_cons]
    refine ⟨?_, ?_, ?_, ?_, ?_, ?_, ?_, ?_, ?_, ?_, ?_, ?_, ?_, ?_, ?_, ?_, ?_, ?_, ?_, ?_,
      fun _ h => absurd h List.not_mem_nil⟩
    all_goals exact setS_completes hi rfl rfl
  · simp only [List.forall_mem_cons]
    refine ⟨?_, ?_, ?_, ?_, ?_, ?_, fun _ h => absurd h List.not_mem_nil⟩
    all_goals exact setCmp_completes hi rfl rfl

/-- Settles O11: a branch changes the program counter alone, the loop-counter branch its counter too. -/
theorem branches : Obligations.branches := by
  refine ⟨fun s c n imm hi => ?_, fun s c n imm hi => ?_⟩
  · simp only [List.forall_mem_cons]
    exact ⟨jump_completes (taken := fun _ => true) hi rfl rfl, jump_completes (taken := fun k => k.cmpBit n) hi rfl rfl,
      jump_completes (taken := fun k => !k.cmpBit n) hi rfl rfl, fun _ h => absurd h List.not_mem_nil⟩
  · intro k v
    obtain ⟨t, ht, honly, hk⟩ := branchOp_completes (i := .lcbr c n imm) hi rfl
    have hl : ∀ m, (t.core c).lcreg m = (k.setLc n v).lcreg m := fun m => by rw [hk]; rfl
    have hn : (t.core c).lcreg n = v := by rw [hl, Core.lcreg_setLc, if_pos rfl]
    have hpc : t.core c = ({ k with lc := (t.core c).lc } : Core).issued
        (if v ≠ 0 then k.pc + imm.signExtend 48 else k.pc + 8) := by
      rw [hk]
      simp only [decide_eq_true_eq]
      rfl
    refine completes_of_eq ht ⟨honly, hpc, hn, fun h0 => ?_, fun m hm => ?_⟩
    · have hv : v = 0xFFFFFFFF#32 := by simp [v, h0]
      refine ⟨hn.trans hv, ?_⟩
      rw [hpc, hv]
      rfl
    · rw [hl, Core.lcreg_setLc, if_neg hm]

end Sys2Proof.Machine
end

section
/-! PROOFS. The bench, the ends of a program, and the staging of rotas (R24, R51, R53, R54, R62, R67). -/

namespace Sys2Proof.Machine

/-! ### Bytes written and read back -/

@[simp] theorem readBytes_length (m : List Host.Cell) (a n : Nat) : (readBytes m a n).length = n := by
  induction n generalizing a with
  | zero => rfl
  | succ n ih => simp [readBytes, ih]

/-- Two memories that agree on a range read the same bytes from it. -/
theorem readBytes_congr {m m' : List Host.Cell} {a n : Nat}
    (h : ∀ j, a ≤ j → j < a + n → tabGet zeroByte j m = tabGet zeroByte j m') : readBytes m a n = readBytes m' a n := by
  induction n generalizing a with
  | zero => rfl
  | succ n ih =>
    rw [readBytes, readBytes, h a (by omega) (by omega), ih (fun j h1 h2 => h j (by omega) (by omega))]

/-- What has been written reads back. -/
theorem readBytes_writeBytes_self (m : List Host.Cell) (a : Nat) (bs : List Byte) :
    readBytes (writeBytes m a bs) a bs.length = bs := by
  induction bs generalizing m a with
  | nil => rfl
  | cons b bs ih =>
    have hb : tabGet zeroByte a (writeBytes (tabSet zeroByte a b m) (a + 1) bs) = b := by
      rw [readByte_writeBytes_outside _ _ _ _ (by omega), tabGet_tabSet_self]
    rw [writeBytes, List.length_cons, readBytes, hb, ih]

/-- A range apart from the one written reads as before. -/
theorem readBytes_writeBytes_apart (m : List Host.Cell) (a b n : Nat) (bs : List Byte)
    (h : b + n ≤ a ∨ a + bs.length ≤ b) : readBytes (writeBytes m a bs) b n = readBytes m b n :=
  readBytes_congr fun j h1 h2 => readByte_writeBytes_outside bs m a j (by omega)

/-- A number written little-endian reads back modulo its width. -/
theorem leNat_readBytes_writeLe (m : List Host.Cell) (a n v : Nat) :
    leNat (readBytes (writeLe m a n v) a n) = v % 256 ^ n := by
  have h := readBytes_writeBytes_self m a (natLe n v)
  rw [natLe_length] at h
  rw [writeLe, h, leNat_natLe]

/-! ### What a log entry and a skip leave -/

@[simp] theorem State.logModule_cores (s : State) (e : Entry) : (s.logModule e).cores = s.cores := by
  unfold State.logModule
  dsimp only
  split <;> rfl

@[simp] theorem State.logAny_cores (s : State) (p : Option PartId) (e : Entry) : (s.logAny p e).cores = s.cores := by
  cases p <;> simp [State.logAny]

@[simp] theorem State.kpSkip_cores (s : State) (c : CoreId) (r st : Nat) : (s.kpSkip c r st).cores = s.cores := by
  simp [State.kpSkip]

@[simp] theorem State.logModule_core (s : State) (e : Entry) (c : CoreId) : (s.logModule e).core c = s.core c :=
  State.core_congr (s.logModule_cores e) c

@[simp] theorem State.logAny_core (s : State) (p : Option PartId) (e : Entry) (c : CoreId) :
    (s.logAny p e).core c = s.core c := State.core_congr (s.logAny_cores p e) c

@[simp] theorem State.kpSkip_core (s : State) (c : CoreId) (r st : Nat) (d : CoreId) :
    (s.kpSkip c r st).core d = s.core d := State.core_congr (s.kpSkip_cores c r st) d

/-- The entry of an instruction that a kingpost skips, where no launch runs on its core. -/
def State.skipEntry (s : State) (c : CoreId) (reason : Nat) : Entry :=
  { type := 0x01, reason := reason, core := c.val, unit := 0, ctx := (s.core c).ctx.toNat, d1 := (s.core c).pc.toNat }

/-- The skip of an instruction on a core without launch and partition is an entry of the module error log. -/
theorem State.kpSkip_of_free (s : State) (c : CoreId) (r : Nat) (hl : (s.core c).launch = none)
    (hp : s.partOfCore c = none) : s.kpSkip c r = s.logModule (s.skipEntry c r) := by
  simp [State.kpSkip, State.partOf, State.launchOf, State.launchTag, hl, hp, State.logAny, State.modLaunch, State.skipEntry]

/-! ### Loop counters, flag words, ends -/

/-- An instruction that writes a sticky flag word. -/
theorem setFlagWord_completes {i : Instr} {s : State} {c : CoreId} {n : Nat} {v : BitVec 6} (hi : Issues s c)
    (he : exec i s = scalarOp s c (fun k => k.setFlagWord n v)) :
    Completes i s (fun t =>
      OnlyCore c s t ∧ t.core c = ({ s.core c with flags := (t.core c).flags } : Core).issued ((s.core c).pc + 8) ∧
      (t.core c).flagWord n = v ∧ ∀ m, m ≠ n → (t.core c).flagWord m = (s.core c).flagWord m) := by
  obtain ⟨t, ht, honly, hk⟩ := scalarOp_completes hi he
  have hs : ∀ m, (t.core c).flagWord m = ((s.core c).setFlagWord n v).flagWord m := fun m => by rw [hk]; rfl
  refine completes_of_eq ht ⟨honly, by rw [hk]; rfl, ?_, fun m hm => ?_⟩
  · rw [hs, Core.flagWord_setFlagWord, if_pos rfl]
  · rw [hs, Core.flagWord_setFlagWord, if_neg hm]

/-- A native skip passes the length of the malformed instruction. -/
theorem exec_nativeSkip {s : State} {c : CoreId} {n : Nat} (hi : Issues s c) (hn : n = 8 ∨ n = 32 ∨ n = 64) :
    exec (.nativeSkip c n) s = .next (s.modCore c (fun k => k.retire n)) := by
  have hw : (Instr.nativeSkip c n).wf = true := by rcases hn with rfl | rfl | rfl <;> rfl
  exact (if_pos hw).trans (whenever_of_alive hi.1 hi.2 _)

/-- The program ends where it runs past its code. -/
theorem exec_endOfCode {s : State} {c : CoreId} (hi : Issues s c) (hpc : s.codeLen c ≤ (s.core c).pc.toNat) :
    exec (.endOfCode c) s =
      .next ((s.kpSkip c 0x0E).setCore c (({ s.core c with run := .ended } : Core).issued (s.core c).pc)) := by
  have hcan : ((s.core c).canIssue && decide (s.codeLen c ≤ (s.core c).pc.toNat)) = true := by
    rw [hi.2, decide_eq_true hpc]; rfl
  refine (whenever_of_alive hi.1 hcan _).trans ?_
  rw [State.modCore, State.kpSkip_core]
  exact congrArg (fun k => Host.Outcome.next (State.setCore _ c k))
    (Core.stepDone_two_eq_issued ({ s.core c with run := .ended } : Core) _)

/-- Settles O12: each instruction by the lemma of its shape; the end of the code by its skip. -/
theorem countersFlagsAndEnds : Obligations.countersFlagsAndEnds := by
  refine ⟨?_, ?_, ?_, ?_⟩
  · intro s c n ra rd imm hi
    refine ⟨?_, setS_completes hi rfl rfl⟩
    simp only [List.forall_mem_cons]
    exact ⟨setLc_completes hi rfl rfl, setLc_completes (g := fun _ => imm) hi rfl rfl, fun _ h => absurd h List.not_mem_nil⟩
  · intro s c rd imm hi
    exact ⟨setS_completes hi rfl rfl, setFlagWord_completes hi rfl⟩
  · intro s c n hi
    refine ⟨scalarOp_completes (f := id) hi rfl, scalarOp_completes (f := fun k => { k with run := .ended }) hi rfl,
      fun hn => completes_of_eq (exec_nativeSkip hi hn) ⟨onlyCore_modCore _ _ _, ?_⟩⟩
    simp [Core.retire_eq]
  · intro s c hi k hpc e
    refine ⟨completes_of_eq (exec_endOfCode hi hpc) ⟨?_, fun d hd => ?_, ?_⟩, fun hl hp => ?_⟩
    · simp [Core.issued, k]
    · simp [hd]
    · simp
    · rw [exec_endOfCode hi hpc, s.kpSkip_of_free c _ hl hp]
      rfl

/-! ### Loads and stores -/

theorem exec_ld (c : CoreId) (rd ra : SReg) (imm : BitVec 32) (s : State) : exec (.ld c rd ra imm) s =
    benchOp s c ra imm (fun a k => k.setS rd (BitVec.ofNat 64 (readLe k.bench a 8))) := rfl

theorem exec_st (c : CoreId) (ra rb : SReg) (imm : BitVec 32) (s : State) : exec (.st c ra rb imm) s =
    benchOp s c ra imm (fun a k => { k with bench := writeLe k.bench a 8 (k.sreg rb).toNat }) := rfl

/-- An ld or st that reaches a bench byte and has its slot. -/
theorem benchOp_of_slot {s : State} {c : CoreId} {ra : SReg} {imm : BitVec 32} {f : Nat → Core → Core} (hi : Issues s c)
    (ha : (s.core c).benchFault ((s.core c).benchAddr ra imm) = none)
    (hs : s.stepsBeforeSlot c ((s.core c).benchAddr ra imm) = false) :
    benchOp s c ra imm f = .next (s.modCore c (fun k => (f ((s.core c).benchAddr ra imm) k).retire 8)) := by
  unfold benchOp
  simp only [ha, hs]
  exact whenever_of_alive hi.1 hi.2 _

/-- A stepped ld or st whose slot is not due. -/
theorem benchOp_of_step {s : State} {c : CoreId} {ra : SReg} {imm : BitVec 32} {f : Nat → Core → Core} (hi : Issues s c)
    (ha : (s.core c).benchFault ((s.core c).benchAddr ra imm) = none)
    (hs : s.stepsBeforeSlot c ((s.core c).benchAddr ra imm) = true) :
    benchOp s c ra imm f = .next (s.modCore c (fun k => k.stepDone 3)) := by
  unfold benchOp
  simp only [ha, hs]
  exact whenever_of_alive hi.1 hi.2 _

/-- An ld or st with a fault is skipped. -/
theorem benchOp_of_fault {s : State} {c : CoreId} {ra : SReg} {imm : BitVec 32} {f : Nat → Core → Core} {r : Nat}
    (hi : Issues s c) (ha : (s.core c).benchFault ((s.core c).benchAddr ra imm) = some r) :
    benchOp s c ra imm f = .next ((s.kpSkip c r).setCore c ((s.core c).issued ((s.core c).pc + 8))) := by
  unfold benchOp
  simp only [ha]
  refine (whenever_of_alive hi.1 hi.2 _).trans ?_
  rw [State.modCore, State.kpSkip_core, Core.retire_eq_issued]

theorem Core.benchFault_of_slot {k : Core} {a : Nat} (h1 : a < 4194304) (h2 : a % 8 = 0) (h3 : k.hasSlot 11 a = true) :
    k.benchFault a = none := by
  have hs : k.hasSlot pKp a = true := h3
  simp [Core.benchFault, benchSize, show ¬ 4194304 ≤ a by omega, h2, hs]

theorem Core.benchFault_of_outside {k : Core} {a : Nat} (h : 4194304 ≤ a ∨ a % 8 ≠ 0) :
    k.benchFault a = some (if 4194304 ≤ a then 0x02 else 0x03) := by
  by_cases h1 : 4194304 ≤ a
  · simp [Core.benchFault, benchSize, h1]
  · have h2 : a % 8 ≠ 0 := h.resolve_left h1
    simp [Core.benchFault, benchSize, h1, h2]

/-- Settles O13: by the address's check and its slot, as `benchOp` decides. -/
theorem benchAccess : Obligations.benchAccess := by
  refine ⟨?_, ?_, ?_⟩
  · intro s c rd ra rb imm hi k a h1 h2 h3 h4
    have hf : k.benchFault a = none := Core.benchFault_of_slot h1 h2 h3
    have hs : s.stepsBeforeSlot c a = false := by
      rcases h4 with h4 | h4
      · simp [State.stepsBeforeSlot, show (s.core c).stepping = false from h4]
      · simp [State.stepsBeforeSlot, show (s.core c).slotAt s.calendar (benchBank a) = pKp from h4]
    refine ⟨retired_setS_completes (g := fun k => BitVec.ofNat 64 (readLe k.bench a 8))
      ((exec_ld c rd ra imm s).trans (benchOp_of_slot hi hf hs)) rfl, ?_⟩
    obtain ⟨t, ht, honly, hk⟩ := retired_completes (i := .st c ra rb imm)
      (f := fun k => { k with bench := writeLe k.bench a 8 (k.sreg rb).toNat }) ((exec_st c ra rb imm s).trans (benchOp_of_slot hi hf hs))
    have hb : (t.core c).bench = writeLe k.bench a 8 (k.sreg rb).toNat := by rw [hk]; rfl
    refine completes_of_eq ht ⟨honly, by rw [hk]; rfl, ?_, fun b h => ?_⟩
    · rw [hb, leNat_readBytes_writeLe]
      exact Nat.mod_eq_of_lt (k.sreg rb).isLt
    · rw [hb]
      exact readByte_writeBytes_outside _ _ _ _ (by simpa using h)
  · intro s c rd ra rb imm hi k a h1 h2 h3 h4 h5
    have hf : k.benchFault a = none := Core.benchFault_of_slot h1 h2 h3
    have hs : s.stepsBeforeSlot c a = true := by
      simp [State.stepsBeforeSlot, show (s.core c).stepping = true from h4,
        show (s.core c).slotAt s.calendar (benchBank a) ≠ pKp from h5]
    have hc : ∀ i : Instr, exec i s = .next (s.modCore c (fun k => k.stepDone 3)) →
        Completes i s (fun t => OnlyCore c s t ∧ t.core c = { k with stepping := false, stopCause := 3 }) := fun i he =>
      completes_of_eq he ⟨onlyCore_modCore _ _ _, by simp [Core.stepDone, show (s.core c).stepping = true from h4, k]⟩
    simp only [List.forall_mem_cons]
    exact ⟨hc _ ((exec_ld c rd ra imm s).trans (benchOp_of_step hi hf hs)),
      hc _ ((exec_st c ra rb imm s).trans (benchOp_of_step hi hf hs)), fun _ h => absurd h List.not_mem_nil⟩
  · intro s c rd ra rb imm hi k a h e
    have hf : k.benchFault a = some e.reason := Core.benchFault_of_outside h
    have hc : ∀ i : Instr, exec i s = .next ((s.kpSkip c e.reason).setCore c (k.issued (k.pc + 8))) →
        Completes i s (fun t => t.core c = ({ k with launch := (t.core c).launch } : Core).issued (k.pc + 8) ∧
          (∀ d, d ≠ c → t.core d = s.core d) ∧ t.mem = s.mem) ∧
        (k.launch = none → s.partOfCore c = none → exec i s = .next ((s.logModule e).setCore c (k.issued (k.pc + 8)))) := by
      intro i he
      refine ⟨completes_of_eq he ⟨?_, fun d hd => ?_, ?_⟩, fun hl hp => ?_⟩
      · simp [Core.issued]
      · simp [hd]
      · simp
      · rw [he, s.kpSkip_of_free c _ hl hp]
        rfl
    simp only [List.forall_mem_cons]
    exact ⟨hc _ ((exec_ld c rd ra imm s).trans (benchOp_of_fault hi hf)),
      hc _ ((exec_st c ra rb imm s).trans (benchOp_of_fault hi hf)), fun _ h => absurd h List.not_mem_nil⟩

/-! ### Rotas -/

/-- Nothing but the cores differs. -/
def CoresOnly (s t : State) : Prop := t = { s with cores := t.cores }

theorem CoresOnly.refl (s : State) : CoresOnly s s := rfl

theorem CoresOnly.trans {s t u : State} (h : CoresOnly s t) (h' : CoresOnly t u) : CoresOnly s u := by
  unfold CoresOnly at *
  rw [h', h]

theorem coresOnly_modCore (s : State) (c : CoreId) (f : Core → Core) : CoresOnly s (s.modCore c f) := rfl

theorem coresOnly_foldl {α : Type} (f : State → α → State) (h : ∀ s a, CoresOnly s (f s a)) (l : List α) (s : State) :
    CoresOnly s (l.foldl f s) := by
  induction l generalizing s with
  | nil => exact CoresOnly.refl s
  | cons a l ih => exact (h s a).trans (ih _)

/-- A fold that changes each listed core once. -/
theorem core_foldl_modCore (f : Core → Core) (l : List CoreId) (hl : l.Nodup) (s : State) (c : CoreId) :
    (l.foldl (fun t c => t.modCore c f) s).core c = if c ∈ l then f (s.core c) else s.core c := by
  induction l generalizing s with
  | nil => rfl
  | cons a l ih =>
    obtain ⟨ha, hl⟩ := List.nodup_cons.mp hl
    rw [List.foldl_cons, ih hl, State.core_modCore]
    by_cases hc : c = a
    · subst hc; simp [ha]
    · simp [hc]

@[simp] theorem State.core_mapCores (s : State) (f : Core → Core) (c : CoreId) :
    (s.mapCores f).core c = f (s.core c) := by
  rw [State.mapCores, core_foldl_modCore f _ (List.nodup_finRange 128)]
  simp

theorem coresOnly_mapCores (s : State) (f : Core → Core) : CoresOnly s (s.mapCores f) :=
  coresOnly_foldl _ (fun s c => coresOnly_modCore s c f) _ s

/-- The core without its engines. -/
def Core.sansEng (k : Core) : Core := { k with eng := [] }

theorem Core.fields_of_sansEng {k l : Core} (h : k.sansEng = l.sansEng) :
    k.s = l.s ∧ k.bench = l.bench ∧ k.rota = l.rota ∧ k.pendingRota = l.pendingRota :=
  have field {α : Type} (f : Core → α) : f k.sansEng = f l.sansEng := congrArg f h
  ⟨field Core.s, field Core.bench, field Core.rota, field Core.pendingRota⟩

theorem State.core_modEng_sansEng (s : State) (c : CoreId) (u : EngineUnit) (f : Eng → Eng) (d : CoreId) :
    ((s.modEng c u f).core d).sansEng = (s.core d).sansEng := by
  rw [State.modEng, State.core_modCore]
  split
  next h => subst h; rfl
  next => rfl

theorem State.core_cartWrap_sansEng (s : State) (c : CoreId) (u : Fin 2) (d : CoreId) :
    ((s.cartWrap c u).core d).sansEng = (s.core d).sansEng := by
  unfold State.cartWrap
  dsimp only
  split
  · exact s.core_modEng_sansEng _ _ _ _
  · rfl

theorem State.core_wrapCarts_sansEng (s : State) (d : CoreId) : (s.wrapCarts.core d).sansEng = (s.core d).sansEng := by
  unfold State.wrapCarts
  generalize s.cores.map Prod.fst = l
  induction l generalizing s with
  | nil => rfl
  | cons n l ih =>
    rw [List.foldl_cons, ih]
    split
    · rw [State.core_cartWrap_sansEng, State.core_cartWrap_sansEng]
    · rfl

theorem coresOnly_cartEarly (s : State) (c : CoreId) (u : Fin 2) (e : EarlyEnd) : CoresOnly s (s.cartEarly c u e) := by
  unfold State.cartEarly State.modEng
  exact coresOnly_modCore _ _ _

theorem coresOnly_cartWrap (s : State) (c : CoreId) (u : Fin 2) : CoresOnly s (s.cartWrap c u) := by
  unfold State.cartWrap
  dsimp only
  split
  · exact coresOnly_cartEarly _ _ _ _
  · exact CoresOnly.refl s

theorem coresOnly_wrapCarts (s : State) : CoresOnly s s.wrapCarts := by
  refine coresOnly_foldl _ (fun s n => ?_) _ s
  split
  · exact (coresOnly_cartWrap _ _ _).trans (coresOnly_cartWrap _ _ _)
  · exact CoresOnly.refl s

theorem Core.wrap_fields (k : Core) : k.wrap.s = k.s ∧ k.wrap.bench = k.bench ∧
    k.wrap.rota = k.pendingRota.getD k.rota ∧ k.wrap.pendingRota = none := by
  unfold Core.wrap
  cases h : k.pendingRota <;> simp [h]

@[simp] theorem Core.stagedOf_stageRota (k : Core) (b m : Nat) (rota : Word) (commit : Bool) :
    (k.stageRota b rota commit).stagedOf m = if m = b then rota else k.stagedOf m := tabGet_tabSet b m rota _

/-- rota.set: the entry of a word with reserved slot codes, then the staging. -/
theorem exec_rotaSet {s : State} {c : CoreId} {ra rb : SReg} {imm : BitVec 32} (hi : Issues s c) : ∃ u : State,
    (reservedSlots ((s.core c).sreg ra) = false → u = s) ∧ u.cores = s.cores ∧ u.mem = s.mem ∧
    exec (.rotaSet c ra rb imm) s = .next (u.setCore c
      (((s.core c).stageRota (((s.core c).sreg rb).toNat % 32) ((s.core c).sreg ra) (imm.getLsbD 0)).issued
        ((s.core c).pc + 8))) := by
  cases hr : reservedSlots ((s.core c).sreg ra) with
  | false =>
    refine ⟨s, fun _ => rfl, rfl, rfl, ?_⟩
    simp only [exec, execRotaSet, hr]
    refine (whenever_of_alive hi.1 hi.2 _).trans ?_
    simp only [State.modCore, Core.retire_eq_issued]
    rfl
  | true =>
    refine ⟨s.logAny (s.partOf c)
      { type := 0x09, reason := 0x10, core := c.val, unit := 0, ctx := (s.core c).ctx.toNat, tag := s.launchTag c,
        d1 := (s.core c).pc.toNat, d2 := ((s.core c).sreg ra).toNat }, (absurd · (by decide)), by simp, by simp, ?_⟩
    simp only [exec, execRotaSet, hr]
    refine (whenever_of_alive hi.1 hi.2 _).trans ?_
    simp only [State.modCore, Core.retire_eq_issued, State.logAny_core, if_true]
    rfl

/-- Settles O14: rota.set stages and commits in its core, whatever is logged; the wrap puts what is pending in force. -/
theorem rotaStaging : Obligations.rotaStaging := by
  refine ⟨?_, ?_⟩
  · intro s c ra rb imm hi k b
    obtain ⟨u, hus, hcores, hmem, he⟩ := exec_rotaSet (ra := ra) (rb := rb) (imm := imm) hi
    have hstaged : ∀ m, ((k.stageRota b (k.sreg ra) (imm.getLsbD 0)).issued (k.pc + 8)).stagedOf m =
        if m = b then k.sreg ra else k.stagedOf m := 
      fun m => k.stagedOf_stageRota b m (k.sreg ra) (imm.getLsbD 0)
    refine completes_of_eq he ⟨fun h => ?_, fun d hd => ?_, hmem, ?_, ?_, fun m hm => ?_, ?_⟩
    · rw [hus h]
      exact onlyCore_setCore _ _ _
    · rw [State.core_setCore, if_neg hd]
      exact State.core_congr hcores d
    all_goals rw [State.core_setCore, if_pos rfl]
    · rfl
    · rw [hstaged, if_pos rfl]
    · rw [hstaged, if_neg hm]
    · rfl
  · intro s ha
    have he : exec .calendarWrap s = whenever (decide (s.calendar = 0)) s (s.mapCores Core.wrap).wrapCarts := rfl
    refine ⟨fun h => by rw [he, decide_eq_false h, whenever_false], fun h => ?_⟩
    rw [whenever_of_alive ha (decide_eq_true h)] at he
    refine completes_of_eq he ⟨fun _ => ?_, by simp, fun c => ?_⟩
    · exact (coresOnly_mapCores _ _).trans (coresOnly_wrapCarts _)
    · obtain ⟨hs, hbench, hrota, hpending⟩ :=
        Core.fields_of_sansEng ((s.mapCores Core.wrap).core_wrapCarts_sansEng c)
      rw [hs, hbench, hrota, hpending, State.core_mapCores]
      exact (s.core c).wrap_fields

end Sys2Proof.Machine
end

section
/-! PROOFS. The synchronisation instructions of the kingpost, and the answer that lets one go on (R55, R56, R218 to R224). -/

namespace Sys2Proof.Machine

/-! ### What logs and marks leave -/

/-- The state without registers, logs, launches and the typed parts of partitions. -/
def State.sansLogs (s : State) : State :=
  { s with regs := [], faultLog := [], moduleLog := [], launches := [], parts := [] }

theorem State.fields_of_sansLogs {s t : State} (h : t.sansLogs = s.sansLogs) :
    t.cores = s.cores ∧ t.pegs = s.pegs ∧ t.tallies = s.tallies ∧ t.bells = s.bells ∧ t.mem = s.mem ∧
      t.alive = s.alive := by
  have field {α : Type} (f : State → α) : f t.sansLogs = f s.sansLogs := congrArg f h
  exact ⟨field State.cores, field State.pegs, field State.tallies, field State.bells, field State.mem, field State.alive⟩

@[simp] theorem State.logPart_sansLogs (s : State) (p : PartId) (e : Entry) : (s.logPart p e).sansLogs = s.sansLogs := by
  unfold State.logPart
  dsimp only
  split <;> rfl

@[simp] theorem State.logModule_sansLogs (s : State) (e : Entry) : (s.logModule e).sansLogs = s.sansLogs := by
  unfold State.logModule
  dsimp only
  split <;> rfl

@[simp] theorem State.logAny_sansLogs (s : State) (p : Option PartId) (e : Entry) : (s.logAny p e).sansLogs = s.sansLogs := by
  cases p <;> simp [State.logAny]

@[simp] theorem State.modLaunch_sansLogs (s : State) (c : CoreId) (f : Launch → Launch) :
    (s.modLaunch c f).sansLogs = s.sansLogs := by
  unfold State.modLaunch
  split <;> rfl

@[simp] theorem State.touched_sansLogs (s : State) (p : Option PartId) : (s.touched p).sansLogs = s.sansLogs := by
  cases p <;> rfl

@[simp] theorem State.syncFault_kingpost_sansLogs (s : State) (c : CoreId) (pc : BitVec 48) (o : Option PartId) (r n : Nat) :
    (s.syncFault (.kingpost c pc) o r n).sansLogs = s.sansLogs := by
  simp [State.syncFault]

/-! ### The shape of a synchronisation instruction -/

theorem syncOp_eq {s : State} {c : CoreId} {p : PartId} (hi : Issues s c) (hp : s.partOf c = some p)
    (f : PartId → Core → State) : syncOp s c f = .next (f p (s.core c)) := by
  unfold syncOp
  rw [whenever_of_alive hi.1 hi.2, hp]

/-- An operation that does not wait: `u` is the state it leaves, but for the core that goes on. -/
theorem posted_completes {i : Instr} {s u : State} {c : CoreId} {P : State → Prop}
    (he : exec i s = .next (u.modCore c (fun k => k.retire 8))) (hu : u.cores = s.cores)
    (hP : ∀ t : State, t = { u with cores := t.cores } → t.core c = (s.core c).issued ((s.core c).pc + 8) → P t) :
    Completes i s P := by
  refine completes_of_eq he (hP _ rfl ?_)
  rw [State.core_modCore, if_pos rfl, Core.retire_eq_issued, State.core_congr hu]

/-! ### Pegs -/

theorem State.peg_congr {s t : State} (h : t.pegs = s.pegs) (n : Nat) : t.peg n = s.peg n := by
  rw [State.peg, State.peg, h]

/-- Where nobody waits at a peg, the examination of its waiters leaves it. -/
theorem State.servePeg_of_no_waiters {s : State} {n : Nat} (h : (s.peg n).waiters = []) :
    s.servePeg n = s.setPeg n (s.peg n) := by
  have hp : ({ s.peg n with waiters := [] } : Peg) = s.peg n := by rw [← h]
  have hs : s.servePeg n = s.setPeg n { s.peg n with waiters := [] } := by
    simp [State.servePeg, h, serveTakes, State.releaseAll]
  rw [hs, hp]

/-- The peg after a post on which nobody waits. -/
def Peg.posted (g : Peg) (q : BitVec 16) : Peg :=
  if 65535 < g.count.toNat + q.toNat then { g with ovf := true } else { g with count := g.count + q }

/-- The peg after a decrement. -/
def Peg.lowered (g : Peg) (q : BitVec 16) : Peg :=
  if g.count.toNat < q.toNat then { g with udf := true } else { g with count := g.count - q }

/-- A change of one peg alone. -/
def OnlyPeg (n : Nat) (g : Peg) (s u : State) : Prop :=
  u.cores = s.cores ∧ (∀ m, u.peg m = if m = n then g else s.peg m) ∧ u.tallies = s.tallies ∧ u.bells = s.bells ∧ u.mem = s.mem

theorem onlyPeg_setPeg (n : Nat) (g : Peg) (s : State) : OnlyPeg n g s (s.setPeg n g) :=
  ⟨rfl, fun m => s.peg_setPeg n m g, rfl, rfl, rfl⟩

theorem OnlyPeg.of_sansLogs {n : Nat} {g : Peg} {s t u : State} (h : OnlyPeg n g s t) (hu : u.sansLogs = t.sansLogs) :
    OnlyPeg n g s u := by
  obtain ⟨hc, hp, ht, hb, hm⟩ := h
  obtain ⟨hc', hp', ht', hb', hm', _⟩ := State.fields_of_sansLogs hu
  exact ⟨hc'.trans hc, fun m => (State.peg_congr hp' m).trans (hp m), ht'.trans ht, hb'.trans hb, hm'.trans hm⟩

theorem State.pegPost_kingpost {s : State} {n : Nat} (h : (s.peg n).waiters = []) (c : CoreId) (pc : BitVec 48)
    (q : BitVec 16) : OnlyPeg n ((s.peg n).posted q) s (s.pegPost (.kingpost c pc) n q.toNat) := by
  unfold State.pegPost Peg.posted
  dsimp only
  split
  · exact (onlyPeg_setPeg n _ s).of_sansLogs (by simp)
  · refine OnlyPeg.of_sansLogs (t := s.setPeg n { s.peg n with count := (s.peg n).count + q } |>.servePeg n) ?_ (by simp)
    rw [State.servePeg_of_no_waiters (by simp [h])]
    refine ⟨rfl, fun m => ?_, rfl, rfl, rfl⟩
    by_cases hm : m = n <;> simp [hm]

theorem State.pegDec_kingpost (s : State) (n : Nat) (c : CoreId) (pc : BitVec 48) (q : BitVec 16) :
    OnlyPeg n ((s.peg n).lowered q) s (s.pegDec (.kingpost c pc) n q.toNat) := by
  unfold State.pegDec Peg.lowered
  dsimp only
  split
  · exact (onlyPeg_setPeg n _ s).of_sansLogs (by simp)
  · exact (onlyPeg_setPeg n _ s).of_sansLogs (by simp)

theorem exec_pegPost {s : State} {c : CoreId} {p : PartId} {id : BitVec 12} {n : Nat} (hi : Issues s c)
    (hp : s.partOf c = some p) (hn : s.pegRef p (s.core c).ctx id.toNat = some n) (rcnt : Bool) (ra : SReg) (cnt : BitVec 16) :
    exec (.pegPost c id rcnt ra cnt) s = .next ((s.pegPost (.kingpost c (s.core c).pc) n
      ((s.core c).count rcnt ra cnt).toNat).modCore c (fun k => k.retire 8)) := by
  simp only [exec, execPegPost, syncOp_eq hi hp, hn]

theorem exec_pegDec {s : State} {c : CoreId} {p : PartId} {id : BitVec 12} {n : Nat} (hi : Issues s c)
    (hp : s.partOf c = some p) (hn : s.pegRef p (s.core c).ctx id.toNat = some n) (rcnt : Bool) (ra : SReg) (cnt : BitVec 16) :
    exec (.pegDec c id rcnt ra cnt) s = .next ((s.pegDec (.kingpost c (s.core c).pc) n
      ((s.core c).count rcnt ra cnt).toNat).modCore c (fun k => k.retire 8)) := by
  simp only [exec, execPegDec, syncOp_eq hi hp, hn]


theorem OnlyPeg.completes {i : Instr} {s u : State} {c : CoreId} {n : Nat} {g : Peg}
    (he : exec i s = .next (u.modCore c (fun k => k.retire 8))) (h : OnlyPeg n g s u) :
    Completes i s (fun t => t.core c = (s.core c).issued ((s.core c).pc + 8) ∧ (∀ m, t.peg m = if m = n then g else s.peg m) ∧
      t.tallies = s.tallies ∧ t.bells = s.bells ∧ t.mem = s.mem) := by
  obtain ⟨hc, hp, ht, hb, hm⟩ := h
  refine posted_completes he hc fun t htu hk => ⟨hk, fun m => ?_, ?_, ?_, ?_⟩
  · rw [htu]; exact hp m
  · rw [htu]; exact ht
  · rw [htu]; exact hb
  · rw [htu]; exact hm

/-! ### A take and a read -/

/-- A take that nobody waits before and that the count covers is satisfied at once. -/
theorem State.pegTake_served {s : State} {n : Nat} {need : Word} {c : CoreId} (h : (s.peg n).waiters = [])
    (hn : need.toNat ≤ (s.peg n).count.toNat) : ∃ p, s.pegTake n need (.kingpost c) =
      (((s.setPeg n { s.peg n with waiters := [{ who := .kingpost c, kind := .pegTake, need := need }] }).setPeg n
        { s.peg n with count := BitVec.ofNat 16 ((s.peg n).count.toNat - need.toNat), waiters := [] }).modCore c (fun k =>
        { k with wait := k.wait.map (fun x => { x with satisfied := true, value := 0 }) })).touched p := by
  by_cases h0 : (s.peg n).count.toNat - need.toNat = (s.peg n).count.toNat
  · exact ⟨none, by simp [State.pegTake, State.servePeg, h, serveTakes, hn, State.releaseAll, State.release, h0, State.touched]⟩
  · exact ⟨_, by
      simp only [State.pegTake, State.servePeg, h, List.nil_append, State.peg_setPeg, if_true, serveTakes, hn, State.releaseAll,
        State.release, h0, if_false, List.foldl_cons, List.foldl_nil]; rfl⟩

/-- A take that the count does not cover waits. -/
theorem State.pegTake_waits {s : State} {n : Nat} {need : Word} {c : CoreId} (h : (s.peg n).waiters = [])
    (hn : (s.peg n).count.toNat < need.toNat) : s.pegTake n need (.kingpost c) =
      (s.setPeg n { s.peg n with waiters := [{ who := .kingpost c, kind := .pegTake, need := need }] }).setPeg n
        { s.peg n with waiters := [{ who := .kingpost c, kind := .pegTake, need := need }] } := by
  simp [State.pegTake, State.servePeg, h, serveTakes, Nat.not_le.mpr hn, State.releaseAll]

theorem exec_pegTake {s : State} {c : CoreId} {p : PartId} {id : BitVec 12} {n : Nat} (hi : Issues s c)
    (hp : s.partOf c = some p) (hn : s.pegRef p (s.core c).ctx id.toNat = some n) (rcnt : Bool) (ra : SReg) (cnt : BitVec 16) :
    exec (.pegTake c id rcnt ra cnt) s = .next
      (((s.startWait c (newWait .pegTake id n (((s.core c).count rcnt ra cnt).setWidth 64))).pegTake n
        (((s.core c).count rcnt ra cnt).setWidth 64) (.kingpost c)).stepWait c) := by
  simp only [exec, execPegTake, syncOp_eq hi hp, hn]

theorem exec_pegRead {s : State} {c : CoreId} {p : PartId} {id : BitVec 12} {n : Nat} (hi : Issues s c)
    (hp : s.partOf c = some p) (hn : s.pegRef p (s.core c).ctx id.toNat = some n) (rd : SReg) :
    exec (.pegRead c rd id) s = .next (s.startWait c
      { newWait .pegRead id n 0 with rd := rd, satisfied := true, value := (s.peg n).count.setWidth 64 }) := by
  simp only [exec, execPegRead, syncOp_eq hi hp, hn]

/-- An instruction that is not stepped waits. -/
theorem State.stepWait_of_running {s : State} {c : CoreId} (h : (s.core c).stepping = false) : s.stepWait c = s := by
  unfold State.stepWait
  cases hw : (s.core c).wait <;> simp [h, hw]

end Sys2Proof.Machine
end

section
/-! PROOFS. What the operations of the model leave of the cores. -/

namespace Sys2Proof.Machine

@[simp] theorem cores_ite (c : Prop) [Decidable c] (s t : State) :
    (if c then s else t).cores = if c then s.cores else t.cores := apply_ite _ c s t

@[simp] theorem cores_foldl {α : Type} (f : State → α → State) (h : ∀ s a, (f s a).cores = s.cores) (l : List α) (s : State) :
    (l.foldl f s).cores = s.cores := by
  induction l generalizing s with
  | nil => rfl
  | cons a l ih => simp [List.foldl, ih, h]

@[simp] theorem cores_foldl_snd {α β : Type} (f : β × State → α → β × State) (h : ∀ x a, (f x a).2.cores = x.2.cores)
    (l : List α) (x : β × State) : (l.foldl f x).2.cores = x.2.cores := by
  induction l generalizing x with
  | nil => rfl
  | cons a l ih => simp [List.foldl, ih, h]

@[simp] theorem State.setFld_cores (s : State) (a2 a3 a4 a5 : _) : (State.setFld s a2 a3 a4 a5).cores = s.cores := by
  simp [State.setFld]

@[simp] theorem State.incFld_cores (s : State) (a2 a3 a4 a5 : _) : (State.incFld s a2 a3 a4 a5).cores = s.cores := by
  simp [State.incFld]

@[simp] theorem State.satFld_cores (s : State) (a2 a3 a4 a5 : _) : (State.satFld s a2 a3 a4 a5).cores = s.cores := by
  simp [State.satFld]

@[simp] theorem State.fresh_cores (s : State) : (State.fresh s).2.cores = s.cores := by
  simp [State.fresh]

@[simp] theorem State.newId_cores (s : State) : (State.newId s).2.cores = s.cores := by
  simp [State.newId]

@[simp] theorem State.inBand_cores (s : State) (a2 : _) : (State.inBand s a2).cores = s.cores := by
  simp [State.inBand]

@[simp] theorem State.modPart_cores (s : State) (a2 a3 : _) : (State.modPart s a2 a3).cores = s.cores := by
  simp [State.modPart]

@[simp] theorem State.modChan_cores (s : State) (a2 a3 : _) : (State.modChan s a2 a3).cores = s.cores := by
  simp [State.modChan]

@[simp] theorem State.modLink_cores (s : State) (a2 a3 : _) : (State.modLink s a2 a3).cores = s.cores := by
  simp [State.modLink]

@[simp] theorem State.logChan_cores (s : State) (a2 a3 a4 a5 a6 a7 : _) : (State.logChan s a2 a3 a4 a5 a6 a7).cores = s.cores := by
  simp [State.logChan]

@[simp] theorem State.traceRec_cores (s : State) (a2 a3 a4 a5 a6 a7 a8 a9 a10 : _) : (State.traceRec s a2 a3 a4 a5 a6 a7 a8 a9 a10).cores = s.cores := by
  unfold State.traceRec
  split <;> simp

@[simp] theorem State.countN_cores (s : State) (a2 a3 a4 : _) : (State.countN s a2 a3 a4).cores = s.cores := by
  unfold State.countN
  split <;> simp

@[simp] theorem State.count_cores (s : State) (a2 a3 : _) : (State.count s a2 a3).cores = s.cores := by
  simp [State.count]

@[simp] theorem State.toHost_cores (s : State) (a2 : _) : (State.toHost s a2).cores = s.cores := by
  unfold State.toHost
  (repeat' split) <;> simp

@[simp] theorem State.hostReadIn_cores (s : State) (a2 a3 a4 a5 a6 : _) : (State.hostReadIn s a2 a3 a4 a5 a6).2.cores = s.cores := by
  simp [State.hostReadIn]

@[simp] theorem State.hostRead_cores (s : State) (a2 a3 a4 a5 : _) : (State.hostRead s a2 a3 a4 a5).2.cores = s.cores := by
  simp [State.hostRead]

@[simp] theorem State.pumpFlush_cores (s : State) (a2 : _) : (State.pumpFlush s a2).cores = s.cores := by
  unfold State.pumpFlush
  (repeat' split) <;> simp

@[simp] theorem State.eventLine_cores (s : State) (a2 a3 a4 a5 a6 : _) : (State.eventLine s a2 a3 a4 a5 a6).cores = s.cores := by
  simp [State.eventLine]

@[simp] theorem State.raise_cores (s : State) (a2 a3 a4 a5 : _) : (State.raise s a2 a3 a4 a5).cores = s.cores := by
  simp [State.raise]

@[simp] theorem State.cmdSkip_cores (s : State) (a2 a3 a4 a5 a6 a7 : _) : (State.cmdSkip s a2 a3 a4 a5 a6 a7).cores = s.cores := by
  simp [State.cmdSkip]

@[simp] theorem State.modDesc_cores (s : State) (a2 a3 a4 : _) : (State.modDesc s a2 a3 a4).cores = s.cores := by
  unfold State.modDesc
  split <;> simp

@[simp] theorem State.endDesc_cores (s : State) (a2 a3 a4 : _) : (State.endDesc s a2 a3 a4).cores = s.cores := by
  simp [State.endDesc]

@[simp] theorem State.flagDesc_cores (s : State) (a2 a3 a4 : _) : (State.flagDesc s a2 a3 a4).cores = s.cores := by
  simp [State.flagDesc]

@[simp] theorem State.issue_cores (s : State) (a2 a3 a4 a5 a6 a7 a8 : _) : (State.issue s a2 a3 a4 a5 a6 a7 a8).2.cores = s.cores := by
  simp [State.issue]

@[simp] theorem State.sendFrame_cores (s : State) (a2 a3 a4 : _) : (State.sendFrame s a2 a3 a4).cores = s.cores := by
  simp [State.sendFrame]

@[simp] theorem State.pumpLink_cores (s : State) (a2 a3 : _) : (State.pumpLink s a2 a3).cores = s.cores := by
  induction a3 generalizing s with
  | zero => simp [State.pumpLink]
  | succ n ih =>
    unfold State.pumpLink
    dsimp only
    (repeat' split) <;> simp [ih]

@[simp] theorem State.transmit_cores (s : State) (a2 a3 : _) : (State.transmit s a2 a3).cores = s.cores := by
  simp [State.transmit]

@[simp] theorem State.route_cores (s : State) (a2 a3 a4 : _) : (State.route s a2 a3 a4).cores = s.cores := by
  simp [State.route] <;> (repeat' split) <;> simp

@[simp] theorem State.routeHeld_cores (s : State) : (State.routeHeld s).cores = s.cores := by
  simp [State.routeHeld]

@[simp] theorem State.respond_cores (s : State) (a2 a3 a4 a5 a6 : _) : (State.respond s a2 a3 a4 a5 a6).cores = s.cores := by
  simp [State.respond]

@[simp] theorem State.respondTor_cores (s : State) (a2 a3 a4 : _) : (State.respondTor s a2 a3 a4).cores = s.cores := by
  simp [State.respondTor]

@[simp] theorem State.request_cores (s : State) (a2 a3 a4 a5 a6 a7 a8 a9 a10 : _) : (State.request s a2 a3 a4 a5 a6 a7 a8 a9 a10).2.cores = s.cores := by
  simp [State.request]

@[simp] theorem State.sendTwin_cores (s : State) (a2 a3 a4 : _) : (State.sendTwin s a2 a3 a4).cores = s.cores := by
  simp [State.sendTwin]

@[simp] theorem State.sendTwinAll_cores (s : State) (a2 a3 : _) : (State.sendTwinAll s a2 a3).cores = s.cores := by
  simp [State.sendTwinAll]

@[simp] theorem State.moduleFail_cores (s : State) : (State.moduleFail s).cores = s.cores := by
  simp [State.moduleFail]

@[simp] theorem State.setErrors_cores (s : State) (a2 a3 : _) : (State.setErrors s a2 a3).cores = s.cores := by
  simp [State.setErrors]

@[simp] theorem State.freshLine_cores (s : State) : (State.freshLine s).2.cores = s.cores := by
  simp [State.freshLine]

@[simp] theorem State.peekLine_cores (s : State) (a2 : _) : (State.peekLine s a2).2.cores = s.cores := by
  simp [State.peekLine] <;> (repeat' split) <;> simp

@[simp] theorem State.spareBank_cores (s : State) (a2 a3 : _) : (State.spareBank s a2 a3).cores = s.cores := by
  simp [State.spareBank]

@[simp] theorem State.spareRow_cores (s : State) (a2 : _) : (State.spareRow s a2).cores = s.cores := by
  simp [State.spareRow]

@[simp] theorem State.rowError_cores (s : State) (a2 : _) : (State.rowError s a2).cores = s.cores := by
  simp [State.rowError]

@[simp] theorem State.readLine_cores (s : State) (a2 : _) : (State.readLine s a2).2.cores = s.cores := by
  simp [State.readLine] <;> (repeat' split) <;> simp

@[simp] theorem State.writeLine_cores (s : State) (a2 a3 : _) : (State.writeLine s a2 a3).cores = s.cores := by
  simp [State.writeLine]

@[simp] theorem State.performReq_cores (s : State) (a2 a3 : _) : (State.performReq s a2 a3).1.cores = s.cores := by
  simp [State.performReq] <;> (repeat' split) <;> simp

@[simp] theorem State.logXlate_cores (s : State) (a2 a3 a4 a5 a6 a7 a8 a9 : _) : (State.logXlate s a2 a3 a4 a5 a6 a7 a8 a9).cores = s.cores := by
  simp [State.logXlate]

@[simp] theorem State.access_cores (s : State) (a2 a3 a4 a5 a6 a7 : _) : (State.access s a2 a3 a4 a5 a6 a7).2.cores = s.cores := by
  unfold State.access
  (repeat' split) <;> simp

theorem State.takeResp_cores (s : State) (a2 : _) (x t : _) (h : State.takeResp s a2 = some (x, t)) : t.cores = s.cores := by
  unfold State.takeResp at h
  cases hf : s.responses.find? (fun r => r.req.id == a2) with
  | none => simp [hf] at h
  | some r => simp [hf] at h; obtain ⟨_, rfl⟩ := h; rfl

@[simp] theorem State.logOperands_cores (s : State) (a2 a3 a4 : _) : (State.logOperands s a2 a3 a4).cores = s.cores := by
  simp [State.logOperands]

@[simp] theorem State.traceCmd_cores (s : State) (a2 a3 a4 a5 a6 a7 : _) : (State.traceCmd s a2 a3 a4 a5 a6 a7).cores = s.cores := by
  simp [State.traceCmd]

@[simp] theorem State.modG_cores (s : State) (a2 a3 : _) : (State.modG s a2 a3).cores = s.cores := by
  simp [State.modG]

@[simp] theorem State.logOwn_cores (s : State) (a2 a3 a4 a5 a6 : _) : (State.logOwn s a2 a3 a4 a5 a6).cores = s.cores := by
  simp [State.logOwn]

@[simp] theorem State.toProcessor_cores (s : State) (a2 : _) : (State.toProcessor s a2).cores = s.cores := by
  simp [State.toProcessor]

@[simp] theorem State.toMemory_cores (s : State) (a2 : _) : (State.toMemory s a2).cores = s.cores := by
  simp [State.toMemory]

@[simp] theorem State.readGstat_cores (s : State) (a2 : _) : (State.readGstat s a2).cores = s.cores := by
  simp [State.readGstat]

@[simp] theorem State.qstop_cores (s : State) (a2 : _) : (State.qstop s a2).cores = s.cores := by
  unfold State.qstop
  simp only [State.readGstat_cores]
  exact cores_foldl _ (by intro s a; simp) _ _

@[simp] theorem State.setGranaryQueue_cores (s : State) (a2 a3 : _) : (State.setGranaryQueue s a2 a3).cores = s.cores := by
  simp [State.setGranaryQueue]

@[simp] theorem State.takeChan_cores (s : State) (a2 : _) : (State.takeChan s a2).cores = s.cores := by
  simp [State.takeChan]

theorem State.takeAll_cores (s : State) (a2 : _) (x t : _) (h : State.takeAll s a2 = some (x, t)) : t.cores = s.cores := by
  induction a2 generalizing s x t with
  | nil => simp [State.takeAll] at h; obtain ⟨_, rfl⟩ := h; rfl
  | cons i is ih =>
    unfold State.takeAll at h
    split at h
    · simp at h
    · rename_i r u hu
      cases hr : u.takeAll is with
      | none => simp [hr] at h
      | some y =>
        obtain ⟨y1, y2⟩ := y
        simp [hr] at h
        obtain ⟨_, rfl⟩ := h
        rw [ih u y1 y2 hr, State.takeResp_cores _ _ _ _ hu]

theorem State.readyFill_cores (s : State) (a2 : _) (x y t : _) (h : State.readyFill s a2 = some (x, y, t)) : t.cores = s.cores := by
  unfold State.readyFill at h
  obtain ⟨f, _, hf⟩ := List.exists_of_findSome?_eq_some h
  cases hr : s.takeAll f.2 with
  | none => simp [hr] at hf
  | some y =>
    obtain ⟨y1, y2⟩ := y
    simp [hr] at hf
    obtain ⟨_, _, rfl⟩ := hf
    exact State.takeAll_cores _ _ _ _ hr

@[simp] theorem State.stall_cores (s : State) (a2 : _) : (State.stall s a2).cores = s.cores := by
  simp [State.stall]

@[simp] theorem State.arrange_cores (s : State) (a2 : _) : (State.arrange s a2).cores = s.cores := by
  unfold State.arrange
  split <;> simp

@[simp] theorem State.settle_cores (s t : State) (h : t.cores = s.cores) : (s.settle t).cores = s.cores := by
  unfold State.settle
  split
  · exact h
  · exact cores_foldl _ (fun s a => State.arrange_cores s a) _ _

@[simp] theorem State.direct_cores (s : State) (a2 a3 a4 a5 a6 : _) : (State.direct s a2 a3 a4 a5 a6).1.cores = s.cores := by
  simp [State.direct] <;> (repeat' split) <;> simp

@[simp] theorem State.modHc_cores (s : State) (a2 a3 : _) : (State.modHc s a2 a3).cores = s.cores := by
  simp [State.modHc]

@[simp] theorem State.hcXlateFail_cores (s : State) (a2 a3 a4 a5 a6 a7 : _) : (State.hcXlateFail s a2 a3 a4 a5 a6 a7).cores = s.cores := by
  simp [State.hcXlateFail]

@[simp] theorem State.hcWalkRead_cores (s : State) (a2 a3 a4 a5 : _) : (State.hcWalkRead s a2 a3 a4 a5).cores = s.cores := by
  simp [State.hcWalkRead]

@[simp] theorem State.hcTranslate_cores (s : State) (a2 a3 a4 a5 a6 : _) : (State.hcTranslate s a2 a3 a4 a5 a6).1.cores = s.cores := by
  unfold State.hcTranslate
  dsimp only
  (repeat' split) <;> simp

@[simp] theorem State.hcWrites_cores (s : State) (a2 a3 a4 a5 : _) : (State.hcWrites s a2 a3 a4 a5).cores = s.cores := by
  induction a5 generalizing s with
  | zero => simp [State.hcWrites]
  | succ k ih =>
    unfold State.hcWrites
    split
    · rfl
    · rename_i va bs rest _
      split
      · rfl
      · have h := State.hcTranslate_cores s a2 a3 a4 va true
        split <;> rename_i ht <;> simp only [ht] at h
        · exact h
        · rw [ih]; simp [h]

@[simp] theorem State.hcReads_cores (s : State) (a2 a3 a4 a5 : _) : (State.hcReads s a2 a3 a4 a5).cores = s.cores := by
  induction a5 generalizing s with
  | zero => simp [State.hcReads]
  | succ k ih =>
    unfold State.hcReads
    dsimp only
    split
    · rfl
    · split
      · rfl
      · split
        · split <;> simp [ih]
        · split
          · simp [ih]
          · split <;> rename_i ht <;> have e := congrArg (fun x => x.1.cores) ht <;> simp at e
            · exact e.symm
            · rw [ih]; simp [e]

@[simp] theorem State.hcDrain_cores (s : State) (a2 a3 : _) : (State.hcDrain s a2 a3).cores = s.cores := by
  induction a3 generalizing s with
  | zero => simp [State.hcDrain]
  | succ k ih =>
    unfold State.hcDrain
    dsimp only
    (repeat' split) <;> simp [ih]

@[simp] theorem State.hcIndex_cores (s : State) (a2 a3 : _) : (State.hcIndex s a2 a3).cores = s.cores := by
  simp [State.hcIndex]

@[simp] theorem State.hcEnd_cores (s : State) (a2 a3 : _) : (State.hcEnd s a2 a3).cores = s.cores := by
  simp [State.hcEnd]

@[simp] theorem State.hcPump_cores (s : State) (a2 : _) : (State.hcPump s a2).cores = s.cores := by
  unfold State.hcPump
  split <;> simp

@[simp] theorem State.hcRewalk_cores (s : State) (a2 : _) : (State.hcRewalk s a2).cores = s.cores := by
  unfold State.hcRewalk
  (repeat' split) <;> simp

@[simp] theorem State.running__cores (s : State) (a2 a3 : _) : (State.running_ s a2 a3).cores = s.cores := by
  simp [State.running_]

@[simp] theorem State.freeBody_cores (s : State) : (State.freeBody s).2.cores = s.cores := by
  simp [State.freeBody]

@[simp] theorem State.noteBusy_cores (s : State) (a2 a3 : _) : (State.noteBusy s a2 a3).cores = s.cores := by
  simp [State.noteBusy]

@[simp] theorem State.logResidue_cores (s : State) (a2 a3 : _) : (State.logResidue s a2 a3).cores = s.cores := by
  unfold State.logResidue
  split <;> simp

@[simp] theorem State.noteIdle_cores (s : State) (a2 a3 : _) : (State.noteIdle s a2 a3).cores = s.cores := by
  simp [State.noteIdle]

@[simp] theorem State.noteLate_cores (s : State) (a2 a3 : _) : (State.noteLate s a2 a3).cores = s.cores := by
  simp [State.noteLate]

@[simp] theorem State.watch_cores (s : State) (a2 : _) : (State.watch s a2).cores = s.cores := by
  simp [State.watch]

@[simp] theorem State.resendTwin_cores (s : State) (a2 : _) : (State.resendTwin s a2).cores = s.cores := by
  unfold State.resendTwin
  (repeat' split) <;> simp

@[simp] theorem State.peerSkip_cores (s : State) (a2 a3 a4 : _) : (State.peerSkip s a2 a3 a4).cores = s.cores := by
  simp [State.peerSkip]

@[simp] theorem State.sendAgain_cores (s : State) (a2 a3 : _) : (State.sendAgain s a2 a3).cores = s.cores := by
  unfold State.sendAgain
  (repeat' split) <;> simp

@[simp] theorem State.flood_cores (s : State) (a2 a3 : _) : (State.flood s a2 a3).cores = s.cores := by
  simp [State.flood]

@[simp] theorem State.resendTo_cores (s : State) (a2 : _) : (State.resendTo s a2).cores = s.cores := by
  simp [State.resendTo]

@[simp] theorem State.floodOn_cores (s : State) (a2 a3 : _) : (State.floodOn s a2 a3).cores = s.cores := by
  simp [State.floodOn]

@[simp] theorem State.enterFailed_cores (s : State) : (State.enterFailed s).cores = s.cores := by
  simp [State.enterFailed]

@[simp] theorem State.syncLeft_cores (s : State) : (State.syncLeft s).cores = s.cores := by
  rfl

@[simp] theorem State.resyncStep_cores (s : State) : (State.resyncStep s).cores = s.cores := by
  simp [State.resyncStep] <;> (repeat' split) <;> simp

@[simp] theorem State.warn_cores (s : State) : (State.warn s).cores = s.cores := by
  simp [State.warn]

@[simp] theorem State.countModes_cores (s : State) (a2 : _) : (State.countModes s a2).cores = s.cores := by
  simp [State.countModes]

@[simp] theorem State.tickPart_cores (s : State) (a2 : _) : (State.tickPart s a2).cores = s.cores := by
  simp [State.tickPart]

@[simp] theorem State.fabricTick_cores (s : State) : (State.fabricTick s).cores = s.cores := by
  unfold State.fabricTick
  dsimp only
  have h : ∀ (l : List Nat), (l.foldl (fun u n => if h : n < 32 then u.tickPart ⟨n, h⟩ else u) s).cores = s.cores :=
    fun l => cores_foldl _ (by intro s a; split <;> simp) l s
  split <;> simp [h]

end Sys2Proof.Machine
end

section
/-! PROOFS. What the operations of the model leave of the registers. -/

namespace Sys2Proof.Machine

@[simp] theorem regs_ite (c : Prop) [Decidable c] (s t : State) :
    (if c then s else t).regs = if c then s.regs else t.regs := apply_ite _ c s t

@[simp] theorem regs_foldl {α : Type} (f : State → α → State) (h : ∀ s a, (f s a).regs = s.regs) (l : List α) (s : State) :
    (l.foldl f s).regs = s.regs := by
  induction l generalizing s with
  | nil => rfl
  | cons a l ih => simp [List.foldl, ih, h]

@[simp] theorem regs_foldl_snd {α β : Type} (f : β × State → α → β × State) (h : ∀ x a, (f x a).2.regs = x.2.regs)
    (l : List α) (x : β × State) : (l.foldl f x).2.regs = x.2.regs := by
  induction l generalizing x with
  | nil => rfl
  | cons a l ih => simp [List.foldl, ih, h]

@[simp] theorem State.fresh_regs (s : State) : (State.fresh s).2.regs = s.regs := by
  simp [State.fresh]

@[simp] theorem State.inBand_regs (s : State) (a2 : _) : (State.inBand s a2).regs = s.regs := by
  simp [State.inBand]

@[simp] theorem State.modPart_regs (s : State) (a2 a3 : _) : (State.modPart s a2 a3).regs = s.regs := by
  simp [State.modPart]

@[simp] theorem State.modRing_regs (s : State) (a2 a3 : _) : (State.modRing s a2 a3).regs = s.regs := by
  simp [State.modRing]

@[simp] theorem State.modLink_regs (s : State) (a2 a3 : _) : (State.modLink s a2 a3).regs = s.regs := by
  simp [State.modLink]

@[simp] theorem State.toHost_regs (s : State) (a2 : _) : (State.toHost s a2).regs = s.regs := by
  unfold State.toHost
  (repeat' split) <;> simp

@[simp] theorem State.hostReadIn_regs (s : State) (a2 a3 a4 a5 a6 : _) : (State.hostReadIn s a2 a3 a4 a5 a6).2.regs = s.regs := by
  simp [State.hostReadIn]

@[simp] theorem State.hostRead_regs (s : State) (a2 a3 a4 a5 : _) : (State.hostRead s a2 a3 a4 a5).2.regs = s.regs := by
  simp [State.hostRead]

@[simp] theorem State.pumpFlush_regs (s : State) (a2 : _) : (State.pumpFlush s a2).regs = s.regs := by
  unfold State.pumpFlush
  (repeat' split) <;> simp

@[simp] theorem State.eventLine_regs (s : State) (a2 a3 a4 a5 a6 : _) : (State.eventLine s a2 a3 a4 a5 a6).regs = s.regs := by
  simp [State.eventLine]

@[simp] theorem State.raise_regs (s : State) (a2 a3 a4 a5 : _) : (State.raise s a2 a3 a4 a5).regs = s.regs := by
  simp [State.raise]

@[simp] theorem State.modDesc_regs (s : State) (a2 a3 a4 : _) : (State.modDesc s a2 a3 a4).regs = s.regs := by
  unfold State.modDesc
  split <;> simp

@[simp] theorem State.endDesc_regs (s : State) (a2 a3 a4 : _) : (State.endDesc s a2 a3 a4).regs = s.regs := by
  simp [State.endDesc]

@[simp] theorem State.sendFrame_regs (s : State) (a2 a3 a4 : _) : (State.sendFrame s a2 a3 a4).regs = s.regs := by
  simp [State.sendFrame]

@[simp] theorem State.pumpLink_regs (s : State) (a2 a3 : _) : (State.pumpLink s a2 a3).regs = s.regs := by
  induction a3 generalizing s with
  | zero => simp [State.pumpLink]
  | succ n ih =>
    unfold State.pumpLink
    dsimp only
    (repeat' split) <;> simp [ih]

@[simp] theorem State.transmit_regs (s : State) (a2 a3 : _) : (State.transmit s a2 a3).regs = s.regs := by
  simp [State.transmit]

@[simp] theorem State.route_regs (s : State) (a2 a3 a4 : _) : (State.route s a2 a3 a4).regs = s.regs := by
  simp [State.route] <;> (repeat' split) <;> simp

@[simp] theorem State.routeHeld_regs (s : State) : (State.routeHeld s).regs = s.regs := by
  simp [State.routeHeld]

@[simp] theorem State.respond_regs (s : State) (a2 a3 a4 a5 a6 : _) : (State.respond s a2 a3 a4 a5 a6).regs = s.regs := by
  simp [State.respond]

@[simp] theorem State.respondTor_regs (s : State) (a2 a3 a4 : _) : (State.respondTor s a2 a3 a4).regs = s.regs := by
  simp [State.respondTor]

@[simp] theorem State.sendTwin_regs (s : State) (a2 a3 a4 : _) : (State.sendTwin s a2 a3 a4).regs = s.regs := by
  simp [State.sendTwin]

@[simp] theorem State.sendTwinAll_regs (s : State) (a2 a3 : _) : (State.sendTwinAll s a2 a3).regs = s.regs := by
  simp [State.sendTwinAll]

@[simp] theorem State.setErrors_regs (s : State) (a2 a3 : _) : (State.setErrors s a2 a3).regs = s.regs := by
  simp [State.setErrors]

@[simp] theorem State.freshLine_regs (s : State) : (State.freshLine s).2.regs = s.regs := by
  simp [State.freshLine]

@[simp] theorem State.statusLine_regs (s : State) (a2 : _) : (State.statusLine s a2).regs = s.regs := by
  simp [State.statusLine]

@[simp] theorem State.freeBody_regs (s : State) : (State.freeBody s).2.regs = s.regs := by
  simp [State.freeBody]

@[simp] theorem State.ringError_regs (s : State) (a2 : _) : (State.ringError s a2).regs = s.regs := by
  unfold State.ringError
  (repeat' split) <;> simp

@[simp] theorem State.idleFrame_regs (s : State) (a2 a3 : _) : (State.idleFrame s a2 a3).regs = s.regs := by
  simp [State.idleFrame]

@[simp] theorem State.resendTwin_regs (s : State) (a2 : _) : (State.resendTwin s a2).regs = s.regs := by
  unfold State.resendTwin
  (repeat' split) <;> simp

@[simp] theorem State.sendAgain_regs (s : State) (a2 a3 : _) : (State.sendAgain s a2 a3).regs = s.regs := by
  unfold State.sendAgain
  (repeat' split) <;> simp

@[simp] theorem State.flood_regs (s : State) (a2 a3 : _) : (State.flood s a2 a3).regs = s.regs := by
  simp [State.flood]

@[simp] theorem State.resendTo_regs (s : State) (a2 : _) : (State.resendTo s a2).regs = s.regs := by
  simp [State.resendTo]

@[simp] theorem State.floodOn_regs (s : State) (a2 a3 : _) : (State.floodOn s a2 a3).regs = s.regs := by
  simp [State.floodOn]

@[simp] theorem State.raiseTwin_regs (s : State) (a2 : _) : (State.raiseTwin s a2).regs = s.regs := by
  simp [State.raiseTwin]

end Sys2Proof.Machine
end

section
/-! PROOFS. What the operations of the model leave of the pegs. -/

namespace Sys2Proof.Machine

@[simp] theorem pegs_ite (c : Prop) [Decidable c] (s t : State) :
    (if c then s else t).pegs = if c then s.pegs else t.pegs := apply_ite _ c s t

@[simp] theorem pegs_foldl {α : Type} (f : State → α → State) (h : ∀ s a, (f s a).pegs = s.pegs) (l : List α) (s : State) :
    (l.foldl f s).pegs = s.pegs := by
  induction l generalizing s with
  | nil => rfl
  | cons a l ih => simp [List.foldl, ih, h]

@[simp] theorem pegs_foldl_snd {α β : Type} (f : β × State → α → β × State) (h : ∀ x a, (f x a).2.pegs = x.2.pegs)
    (l : List α) (x : β × State) : (l.foldl f x).2.pegs = x.2.pegs := by
  induction l generalizing x with
  | nil => rfl
  | cons a l ih => simp [List.foldl, ih, h]

@[simp] theorem State.setFld_pegs (s : State) (a2 a3 a4 a5 : _) : (State.setFld s a2 a3 a4 a5).pegs = s.pegs := by
  simp [State.setFld]

@[simp] theorem State.incFld_pegs (s : State) (a2 a3 a4 a5 : _) : (State.incFld s a2 a3 a4 a5).pegs = s.pegs := by
  simp [State.incFld]

@[simp] theorem State.satFld_pegs (s : State) (a2 a3 a4 a5 : _) : (State.satFld s a2 a3 a4 a5).pegs = s.pegs := by
  simp [State.satFld]

@[simp] theorem State.fresh_pegs (s : State) : (State.fresh s).2.pegs = s.pegs := by
  simp [State.fresh]

@[simp] theorem State.inBand_pegs (s : State) (a2 : _) : (State.inBand s a2).pegs = s.pegs := by
  simp [State.inBand]

@[simp] theorem State.modCore_pegs (s : State) (a2 a3 : _) : (State.modCore s a2 a3).pegs = s.pegs := by
  simp [State.modCore]

@[simp] theorem State.modPart_pegs (s : State) (a2 a3 : _) : (State.modPart s a2 a3).pegs = s.pegs := by
  simp [State.modPart]

@[simp] theorem State.modChan_pegs (s : State) (a2 a3 : _) : (State.modChan s a2 a3).pegs = s.pegs := by
  simp [State.modChan]

@[simp] theorem State.modLink_pegs (s : State) (a2 a3 : _) : (State.modLink s a2 a3).pegs = s.pegs := by
  simp [State.modLink]

@[simp] theorem State.logChan_pegs (s : State) (a2 a3 a4 a5 a6 a7 : _) : (State.logChan s a2 a3 a4 a5 a6 a7).pegs = s.pegs := by
  simp [State.logChan]

@[simp] theorem State.countN_pegs (s : State) (a2 a3 a4 : _) : (State.countN s a2 a3 a4).pegs = s.pegs := by
  unfold State.countN
  split <;> simp

@[simp] theorem State.modDesc_pegs (s : State) (a2 a3 a4 : _) : (State.modDesc s a2 a3 a4).pegs = s.pegs := by
  unfold State.modDesc
  split <;> simp

@[simp] theorem State.sendFrame_pegs (s : State) (a2 a3 a4 : _) : (State.sendFrame s a2 a3 a4).pegs = s.pegs := by
  simp [State.sendFrame]

@[simp] theorem State.pumpLink_pegs (s : State) (a2 a3 : _) : (State.pumpLink s a2 a3).pegs = s.pegs := by
  induction a3 generalizing s with
  | zero => simp [State.pumpLink]
  | succ n ih =>
    unfold State.pumpLink
    dsimp only
    (repeat' split) <;> simp [ih]

@[simp] theorem State.transmit_pegs (s : State) (a2 a3 : _) : (State.transmit s a2 a3).pegs = s.pegs := by
  simp [State.transmit]

@[simp] theorem State.route_pegs (s : State) (a2 a3 a4 : _) : (State.route s a2 a3 a4).pegs = s.pegs := by
  simp [State.route] <;> (repeat' split) <;> simp

@[simp] theorem State.request_pegs (s : State) (a2 a3 a4 a5 a6 a7 a8 a9 a10 : _) : (State.request s a2 a3 a4 a5 a6 a7 a8 a9 a10).2.pegs = s.pegs := by
  simp [State.request]

@[simp] theorem State.moduleFail_pegs (s : State) : (State.moduleFail s).pegs = s.pegs := by
  simp [State.moduleFail]

@[simp] theorem State.setErrors_pegs (s : State) (a2 a3 : _) : (State.setErrors s a2 a3).pegs = s.pegs := by
  simp [State.setErrors]

@[simp] theorem State.freshLine_pegs (s : State) : (State.freshLine s).2.pegs = s.pegs := by
  simp [State.freshLine]

@[simp] theorem State.peekLine_pegs (s : State) (a2 : _) : (State.peekLine s a2).2.pegs = s.pegs := by
  simp [State.peekLine] <;> (repeat' split) <;> simp

@[simp] theorem State.spareBank_pegs (s : State) (a2 a3 : _) : (State.spareBank s a2 a3).pegs = s.pegs := by
  simp [State.spareBank]

@[simp] theorem State.spareRow_pegs (s : State) (a2 : _) : (State.spareRow s a2).pegs = s.pegs := by
  simp [State.spareRow]

@[simp] theorem State.rowError_pegs (s : State) (a2 : _) : (State.rowError s a2).pegs = s.pegs := by
  simp [State.rowError]

@[simp] theorem State.readLine_pegs (s : State) (a2 : _) : (State.readLine s a2).2.pegs = s.pegs := by
  simp [State.readLine] <;> (repeat' split) <;> simp

@[simp] theorem State.writeLine_pegs (s : State) (a2 a3 : _) : (State.writeLine s a2 a3).pegs = s.pegs := by
  simp [State.writeLine]

@[simp] theorem State.performReq_pegs (s : State) (a2 a3 : _) : (State.performReq s a2 a3).1.pegs = s.pegs := by
  simp [State.performReq] <;> (repeat' split) <;> simp

@[simp] theorem State.modEng_pegs (s : State) (a2 a3 a4 : _) : (State.modEng s a2 a3 a4).pegs = s.pegs := by
  simp [State.modEng]

@[simp] theorem State.popQueue_pegs (s : State) (a2 a3 : _) : (State.popQueue s a2 a3).pegs = s.pegs := by
  simp [State.popQueue]

@[simp] theorem State.workDone_pegs (s : State) (a2 a3 : _) : (State.workDone s a2 a3).pegs = s.pegs := by
  simp [State.workDone]

@[simp] theorem State.engineCycle_pegs (s : State) (a2 a3 : _) : (State.engineCycle s a2 a3).pegs = s.pegs := by
  simp [State.engineCycle] <;> (repeat' split) <;> simp

@[simp] theorem State.engineTick_pegs (s : State) : (State.engineTick s).pegs = s.pegs := by
  unfold State.engineTick
  refine pegs_foldl _ ?_ _ _
  intro s a
  split
  · exact pegs_foldl _ (by intros; simp) _ _
  · rfl

@[simp] theorem State.modG_pegs (s : State) (a2 a3 : _) : (State.modG s a2 a3).pegs = s.pegs := by
  simp [State.modG]

@[simp] theorem State.toProcessor_pegs (s : State) (a2 : _) : (State.toProcessor s a2).pegs = s.pegs := by
  simp [State.toProcessor]

@[simp] theorem State.setGranaryQueue_pegs (s : State) (a2 a3 : _) : (State.setGranaryQueue s a2 a3).pegs = s.pegs := by
  simp [State.setGranaryQueue]

@[simp] theorem State.takeChan_pegs (s : State) (a2 : _) : (State.takeChan s a2).pegs = s.pegs := by
  simp [State.takeChan]

@[simp] theorem State.stall_pegs (s : State) (a2 : _) : (State.stall s a2).pegs = s.pegs := by
  simp [State.stall]

@[simp] theorem State.arrange_pegs (s : State) (a2 : _) : (State.arrange s a2).pegs = s.pegs := by
  unfold State.arrange
  split <;> simp

@[simp] theorem State.settle_pegs (s t : State) (h : t.pegs = s.pegs) : (s.settle t).pegs = s.pegs := by
  unfold State.settle
  split
  · exact h
  · exact pegs_foldl _ (fun s a => State.arrange_pegs s a) _ _

@[simp] theorem State.direct_pegs (s : State) (a2 a3 a4 a5 a6 : _) : (State.direct s a2 a3 a4 a5 a6).1.pegs = s.pegs := by
  simp [State.direct] <;> (repeat' split) <;> simp

@[simp] theorem State.running__pegs (s : State) (a2 a3 : _) : (State.running_ s a2 a3).pegs = s.pegs := by
  simp [State.running_]

@[simp] theorem State.watch_pegs (s : State) (a2 : _) : (State.watch s a2).pegs = s.pegs := by
  simp [State.watch]

@[simp] theorem State.syncLeft_pegs (s : State) : (State.syncLeft s).pegs = s.pegs := by
  rfl

@[simp] theorem State.resyncStep_pegs (s : State) : (State.resyncStep s).pegs = s.pegs := by
  simp [State.resyncStep] <;> (repeat' split) <;> simp

@[simp] theorem State.countModes_pegs (s : State) (a2 : _) : (State.countModes s a2).pegs = s.pegs := by
  simp [State.countModes]

@[simp] theorem State.tickPart_pegs (s : State) (a2 : _) : (State.tickPart s a2).pegs = s.pegs := by
  simp [State.tickPart]

@[simp] theorem State.fabricTick_pegs (s : State) : (State.fabricTick s).pegs = s.pegs := by
  unfold State.fabricTick
  dsimp only
  have h : ∀ (l : List Nat), (l.foldl (fun u n => if h : n < 32 then u.tickPart ⟨n, h⟩ else u) s).pegs = s.pegs :=
    fun l => pegs_foldl _ (by intro s a; split <;> simp) l s
  split <;> simp [h]

@[simp] theorem State.tick_pegs (s : State) : (State.tick s).pegs = s.pegs := by
  unfold State.tick
  split
  · rfl
  · dsimp only
    (repeat' split) <;> simp

end Sys2Proof.Machine
end

section
/-! PROOFS. What the operations of the model leave of the partitions. -/

namespace Sys2Proof.Machine

@[simp] theorem parts_ite (c : Prop) [Decidable c] (s t : State) :
    (if c then s else t).parts = if c then s.parts else t.parts := apply_ite _ c s t

@[simp] theorem parts_foldl {α : Type} (f : State → α → State) (h : ∀ s a, (f s a).parts = s.parts) (l : List α) (s : State) :
    (l.foldl f s).parts = s.parts := by
  induction l generalizing s with
  | nil => rfl
  | cons a l ih => simp [List.foldl, ih, h]

@[simp] theorem parts_foldl_fst {α β : Type} (f : State × β → α → State × β) (h : ∀ x a, (f x a).1.parts = x.1.parts)
    (l : List α) (x : State × β) : (l.foldl f x).1.parts = x.1.parts := by
  induction l generalizing x with
  | nil => rfl
  | cons a l ih => simp [List.foldl, ih, h]

@[simp] theorem parts_foldl_snd {α β : Type} (f : β × State → α → β × State) (h : ∀ x a, (f x a).2.parts = x.2.parts)
    (l : List α) (x : β × State) : (l.foldl f x).2.parts = x.2.parts := by
  induction l generalizing x with
  | nil => rfl
  | cons a l ih => simp [List.foldl, ih, h]

@[simp] theorem State.setFld_parts (s : State) (a2 a3 a4 a5 : _) : (State.setFld s a2 a3 a4 a5).parts = s.parts := by
  simp [State.setFld]

@[simp] theorem State.incFld_parts (s : State) (a2 a3 a4 a5 : _) : (State.incFld s a2 a3 a4 a5).parts = s.parts := by
  simp [State.incFld]

@[simp] theorem State.satFld_parts (s : State) (a2 a3 a4 a5 : _) : (State.satFld s a2 a3 a4 a5).parts = s.parts := by
  simp [State.satFld]

@[simp] theorem State.fresh_parts (s : State) : (State.fresh s).2.parts = s.parts := by
  simp [State.fresh]

@[simp] theorem State.inBand_parts (s : State) (a2 : _) : (State.inBand s a2).parts = s.parts := by
  simp [State.inBand]

@[simp] theorem State.modCore_parts (s : State) (a2 a3 : _) : (State.modCore s a2 a3).parts = s.parts := by
  simp [State.modCore]

@[simp] theorem State.modChan_parts (s : State) (a2 a3 : _) : (State.modChan s a2 a3).parts = s.parts := by
  simp [State.modChan]

@[simp] theorem State.modRing_parts (s : State) (a2 a3 : _) : (State.modRing s a2 a3).parts = s.parts := by
  simp [State.modRing]

@[simp] theorem State.modLink_parts (s : State) (a2 a3 : _) : (State.modLink s a2 a3).parts = s.parts := by
  simp [State.modLink]

@[simp] theorem State.logPart_parts (s : State) (a2 a3 : _) : (State.logPart s a2 a3).parts = s.parts := by
  simp [State.logPart]

@[simp] theorem State.logModule_parts (s : State) (a2 : _) : (State.logModule s a2).parts = s.parts := by
  simp [State.logModule]

@[simp] theorem State.logAny_parts (s : State) (a2 a3 : _) : (State.logAny s a2 a3).parts = s.parts := by
  unfold State.logAny
  split <;> simp

@[simp] theorem State.logChan_parts (s : State) (a2 a3 a4 a5 a6 a7 : _) : (State.logChan s a2 a3 a4 a5 a6 a7).parts = s.parts := by
  simp [State.logChan]

@[simp] theorem State.countN_parts (s : State) (a2 a3 a4 : _) : (State.countN s a2 a3 a4).parts = s.parts := by
  unfold State.countN
  split <;> simp

@[simp] theorem State.count_parts (s : State) (a2 a3 : _) : (State.count s a2 a3).parts = s.parts := by
  simp [State.count]

@[simp] theorem State.toHost_parts (s : State) (a2 : _) : (State.toHost s a2).parts = s.parts := by
  unfold State.toHost
  (repeat' split) <;> simp

@[simp] theorem State.hostReadIn_parts (s : State) (a2 a3 a4 a5 a6 : _) : (State.hostReadIn s a2 a3 a4 a5 a6).2.parts = s.parts := by
  simp [State.hostReadIn]

@[simp] theorem State.hostRead_parts (s : State) (a2 a3 a4 a5 : _) : (State.hostRead s a2 a3 a4 a5).2.parts = s.parts := by
  simp [State.hostRead]

@[simp] theorem State.issueRead_parts (s : State) (a2 : _) : (State.issueRead s a2).parts = s.parts := by
  simp [State.issueRead]

@[simp] theorem State.issueReads_parts (s : State) : (State.issueReads s).parts = s.parts := by
  simp [State.issueReads]

@[simp] theorem State.pumpFlush_parts (s : State) (a2 : _) : (State.pumpFlush s a2).parts = s.parts := by
  unfold State.pumpFlush
  (repeat' split) <;> simp

@[simp] theorem State.sendFrame_parts (s : State) (a2 a3 a4 : _) : (State.sendFrame s a2 a3 a4).parts = s.parts := by
  simp [State.sendFrame]

@[simp] theorem State.pumpLink_parts (s : State) (a2 a3 : _) : (State.pumpLink s a2 a3).parts = s.parts := by
  induction a3 generalizing s with
  | zero => simp [State.pumpLink]
  | succ n ih =>
    unfold State.pumpLink
    dsimp only
    (repeat' split) <;> simp [ih]

@[simp] theorem State.transmit_parts (s : State) (a2 a3 : _) : (State.transmit s a2 a3).parts = s.parts := by
  simp [State.transmit]

@[simp] theorem State.route_parts (s : State) (a2 a3 a4 : _) : (State.route s a2 a3 a4).parts = s.parts := by
  simp [State.route] <;> (repeat' split) <;> simp

@[simp] theorem State.respond_parts (s : State) (a2 a3 a4 a5 a6 : _) : (State.respond s a2 a3 a4 a5 a6).parts = s.parts := by
  simp [State.respond]

@[simp] theorem State.respondTor_parts (s : State) (a2 a3 a4 : _) : (State.respondTor s a2 a3 a4).parts = s.parts := by
  simp [State.respondTor]

@[simp] theorem State.request_parts (s : State) (a2 a3 a4 a5 a6 a7 a8 a9 a10 : _) : (State.request s a2 a3 a4 a5 a6 a7 a8 a9 a10).2.parts = s.parts := by
  simp [State.request]

@[simp] theorem State.sendTwin_parts (s : State) (a2 a3 a4 : _) : (State.sendTwin s a2 a3 a4).parts = s.parts := by
  simp [State.sendTwin]

@[simp] theorem State.sendTwinAll_parts (s : State) (a2 a3 : _) : (State.sendTwinAll s a2 a3).parts = s.parts := by
  simp [State.sendTwinAll]

@[simp] theorem State.moduleFail_parts (s : State) : (State.moduleFail s).parts = s.parts := by
  simp [State.moduleFail]

@[simp] theorem State.setErrors_parts (s : State) (a2 a3 : _) : (State.setErrors s a2 a3).parts = s.parts := by
  simp [State.setErrors]

@[simp] theorem State.freshLine_parts (s : State) : (State.freshLine s).2.parts = s.parts := by
  simp [State.freshLine]

@[simp] theorem State.peekLine_parts (s : State) (a2 : _) : (State.peekLine s a2).2.parts = s.parts := by
  simp [State.peekLine] <;> (repeat' split) <;> simp

@[simp] theorem State.spareBank_parts (s : State) (a2 a3 : _) : (State.spareBank s a2 a3).parts = s.parts := by
  simp [State.spareBank]

@[simp] theorem State.spareRow_parts (s : State) (a2 : _) : (State.spareRow s a2).parts = s.parts := by
  simp [State.spareRow]

@[simp] theorem State.rowError_parts (s : State) (a2 : _) : (State.rowError s a2).parts = s.parts := by
  simp [State.rowError]

@[simp] theorem State.readLine_parts (s : State) (a2 : _) : (State.readLine s a2).2.parts = s.parts := by
  simp [State.readLine] <;> (repeat' split) <;> simp

@[simp] theorem State.writeLine_parts (s : State) (a2 a3 : _) : (State.writeLine s a2 a3).parts = s.parts := by
  simp [State.writeLine]

@[simp] theorem State.performReq_parts (s : State) (a2 a3 : _) : (State.performReq s a2 a3).1.parts = s.parts := by
  simp [State.performReq] <;> (repeat' split) <;> simp

@[simp] theorem State.popQueue_parts (s : State) (a2 a3 : _) : (State.popQueue s a2 a3).parts = s.parts := by
  simp [State.popQueue]

@[simp] theorem State.modG_parts (s : State) (a2 a3 : _) : (State.modG s a2 a3).parts = s.parts := by
  simp [State.modG]

@[simp] theorem State.toProcessor_parts (s : State) (a2 : _) : (State.toProcessor s a2).parts = s.parts := by
  simp [State.toProcessor]

@[simp] theorem State.setGranaryQueue_parts (s : State) (a2 a3 : _) : (State.setGranaryQueue s a2 a3).parts = s.parts := by
  simp [State.setGranaryQueue]

@[simp] theorem State.takeChan_parts (s : State) (a2 : _) : (State.takeChan s a2).parts = s.parts := by
  simp [State.takeChan]

@[simp] theorem State.stall_parts (s : State) (a2 : _) : (State.stall s a2).parts = s.parts := by
  simp [State.stall]

@[simp] theorem State.arrange_parts (s : State) (a2 : _) : (State.arrange s a2).parts = s.parts := by
  unfold State.arrange
  split <;> simp

@[simp] theorem State.direct_parts (s : State) (a2 a3 a4 a5 a6 : _) : (State.direct s a2 a3 a4 a5 a6).1.parts = s.parts := by
  simp [State.direct] <;> (repeat' split) <;> simp

@[simp] theorem State.writeFree_parts (s : State) (a2 a3 a4 : _) : (State.writeFree s a2 a3 a4).1.parts = s.parts := by
  unfold State.writeFree
  refine parts_foldl_fst _ ?_ _ _
  intro x a
  dsimp only
  split
  · rfl
  · simp

@[simp] theorem State.noteImage_parts (s : State) (a2 : _) : (State.noteImage s a2).parts = s.parts := by
  simp [State.noteImage]

@[simp] theorem State.statusLine_parts (s : State) (a2 : _) : (State.statusLine s a2).parts = s.parts := by
  simp [State.statusLine]

@[simp] theorem State.setRetired_parts (s : State) (a2 a3 : _) : (State.setRetired s a2 a3).parts = s.parts := by
  simp [State.setRetired]

@[simp] theorem State.retire_parts (s : State) (a2 a3 : _) : (State.retire s a2 a3).parts = s.parts := by
  simp [State.retire]

@[simp] theorem State.freeBody_parts (s : State) : (State.freeBody s).2.parts = s.parts := by
  simp [State.freeBody]

@[simp] theorem State.logDesc_parts (s : State) (a2 a3 a4 a5 a6 : _) : (State.logDesc s a2 a3 a4 a5 a6).parts = s.parts := by
  simp [State.logDesc]

@[simp] theorem State.logReserved_parts (s : State) (a2 a3 : _) : (State.logReserved s a2 a3).parts = s.parts := by
  simp [State.logReserved]

@[simp] theorem State.retireAll_parts (s : State) : (State.retireAll s).parts = s.parts := by
  simp [State.retireAll]

@[simp] theorem State.syncLeft_parts (s : State) : (State.syncLeft s).parts = s.parts := by
  rfl

end Sys2Proof.Machine
end

section
/-! PROOFS. What the operations of the model leave of the rings. -/

namespace Sys2Proof.Machine

@[simp] theorem rings_ite (c : Prop) [Decidable c] (s t : State) :
    (if c then s else t).rings = if c then s.rings else t.rings := apply_ite _ c s t

@[simp] theorem rings_foldl {α : Type} (f : State → α → State) (h : ∀ s a, (f s a).rings = s.rings) (l : List α) (s : State) :
    (l.foldl f s).rings = s.rings := by
  induction l generalizing s with
  | nil => rfl
  | cons a l ih => simp [List.foldl, ih, h]

@[simp] theorem rings_foldl_snd {α β : Type} (f : β × State → α → β × State) (h : ∀ x a, (f x a).2.rings = x.2.rings)
    (l : List α) (x : β × State) : (l.foldl f x).2.rings = x.2.rings := by
  induction l generalizing x with
  | nil => rfl
  | cons a l ih => simp [List.foldl, ih, h]

@[simp] theorem State.setFld_rings (s : State) (a2 a3 a4 a5 : _) : (State.setFld s a2 a3 a4 a5).rings = s.rings := by
  simp [State.setFld]

@[simp] theorem State.incFld_rings (s : State) (a2 a3 a4 a5 : _) : (State.incFld s a2 a3 a4 a5).rings = s.rings := by
  simp [State.incFld]

@[simp] theorem State.satFld_rings (s : State) (a2 a3 a4 a5 : _) : (State.satFld s a2 a3 a4 a5).rings = s.rings := by
  simp [State.satFld]

@[simp] theorem State.fresh_rings (s : State) : (State.fresh s).2.rings = s.rings := by
  simp [State.fresh]

@[simp] theorem State.inBand_rings (s : State) (a2 : _) : (State.inBand s a2).rings = s.rings := by
  simp [State.inBand]

@[simp] theorem State.modCore_rings (s : State) (a2 a3 : _) : (State.modCore s a2 a3).rings = s.rings := by
  simp [State.modCore]

@[simp] theorem State.modPart_rings (s : State) (a2 a3 : _) : (State.modPart s a2 a3).rings = s.rings := by
  simp [State.modPart]

@[simp] theorem State.modChan_rings (s : State) (a2 a3 : _) : (State.modChan s a2 a3).rings = s.rings := by
  simp [State.modChan]

@[simp] theorem State.logChan_rings (s : State) (a2 a3 a4 a5 a6 a7 : _) : (State.logChan s a2 a3 a4 a5 a6 a7).rings = s.rings := by
  simp [State.logChan]

@[simp] theorem State.toHost_rings (s : State) (a2 : _) : (State.toHost s a2).rings = s.rings := by
  unfold State.toHost
  (repeat' split) <;> simp

@[simp] theorem State.hostReadIn_rings (s : State) (a2 a3 a4 a5 a6 : _) : (State.hostReadIn s a2 a3 a4 a5 a6).2.rings = s.rings := by
  simp [State.hostReadIn]

@[simp] theorem State.hostRead_rings (s : State) (a2 a3 a4 a5 : _) : (State.hostRead s a2 a3 a4 a5).2.rings = s.rings := by
  simp [State.hostRead]

@[simp] theorem State.pumpFlush_rings (s : State) (a2 : _) : (State.pumpFlush s a2).rings = s.rings := by
  unfold State.pumpFlush
  (repeat' split) <;> simp

@[simp] theorem State.eventLine_rings (s : State) (a2 a3 a4 a5 a6 : _) : (State.eventLine s a2 a3 a4 a5 a6).rings = s.rings := by
  simp [State.eventLine]

@[simp] theorem State.raise_rings (s : State) (a2 a3 a4 a5 : _) : (State.raise s a2 a3 a4 a5).rings = s.rings := by
  simp [State.raise]

@[simp] theorem State.moduleFail_rings (s : State) : (State.moduleFail s).rings = s.rings := by
  simp [State.moduleFail]

@[simp] theorem State.setErrors_rings (s : State) (a2 a3 : _) : (State.setErrors s a2 a3).rings = s.rings := by
  simp [State.setErrors]

@[simp] theorem State.freshLine_rings (s : State) : (State.freshLine s).2.rings = s.rings := by
  simp [State.freshLine]

@[simp] theorem State.peekLine_rings (s : State) (a2 : _) : (State.peekLine s a2).2.rings = s.rings := by
  simp [State.peekLine] <;> (repeat' split) <;> simp

@[simp] theorem State.spareBank_rings (s : State) (a2 a3 : _) : (State.spareBank s a2 a3).rings = s.rings := by
  simp [State.spareBank]

@[simp] theorem State.spareRow_rings (s : State) (a2 : _) : (State.spareRow s a2).rings = s.rings := by
  simp [State.spareRow]

@[simp] theorem State.rowError_rings (s : State) (a2 : _) : (State.rowError s a2).rings = s.rings := by
  simp [State.rowError]

@[simp] theorem State.readLine_rings (s : State) (a2 : _) : (State.readLine s a2).2.rings = s.rings := by
  simp [State.readLine] <;> (repeat' split) <;> simp

@[simp] theorem State.writeLine_rings (s : State) (a2 a3 : _) : (State.writeLine s a2 a3).rings = s.rings := by
  simp [State.writeLine]

@[simp] theorem State.performReq_rings (s : State) (a2 a3 : _) : (State.performReq s a2 a3).1.rings = s.rings := by
  simp [State.performReq] <;> (repeat' split) <;> simp

@[simp] theorem State.popQueue_rings (s : State) (a2 a3 : _) : (State.popQueue s a2 a3).rings = s.rings := by
  simp [State.popQueue]

@[simp] theorem State.modG_rings (s : State) (a2 a3 : _) : (State.modG s a2 a3).rings = s.rings := by
  simp [State.modG]

@[simp] theorem State.toProcessor_rings (s : State) (a2 : _) : (State.toProcessor s a2).rings = s.rings := by
  simp [State.toProcessor]

@[simp] theorem State.setGranaryQueue_rings (s : State) (a2 a3 : _) : (State.setGranaryQueue s a2 a3).rings = s.rings := by
  simp [State.setGranaryQueue]

@[simp] theorem State.takeChan_rings (s : State) (a2 : _) : (State.takeChan s a2).rings = s.rings := by
  simp [State.takeChan]

@[simp] theorem State.stall_rings (s : State) (a2 : _) : (State.stall s a2).rings = s.rings := by
  simp [State.stall]

@[simp] theorem State.direct_rings (s : State) (a2 a3 a4 a5 a6 : _) : (State.direct s a2 a3 a4 a5 a6).1.rings = s.rings := by
  simp [State.direct] <;> (repeat' split) <;> simp

@[simp] theorem State.statusLine_rings (s : State) (a2 : _) : (State.statusLine s a2).rings = s.rings := by
  simp [State.statusLine]

@[simp] theorem State.syncLeft_rings (s : State) : (State.syncLeft s).rings = s.rings := by
  rfl

end Sys2Proof.Machine
end

section
/-! PROOFS. What the operations of the model leave of the links. -/

namespace Sys2Proof.Machine

@[simp] theorem links_ite (c : Prop) [Decidable c] (s t : State) :
    (if c then s else t).links = if c then s.links else t.links := apply_ite _ c s t

@[simp] theorem links_foldl {α : Type} (f : State → α → State) (h : ∀ s a, (f s a).links = s.links) (l : List α) (s : State) :
    (l.foldl f s).links = s.links := by
  induction l generalizing s with
  | nil => rfl
  | cons a l ih => simp [List.foldl, ih, h]

@[simp] theorem links_foldl_snd {α β : Type} (f : β × State → α → β × State) (h : ∀ x a, (f x a).2.links = x.2.links)
    (l : List α) (x : β × State) : (l.foldl f x).2.links = x.2.links := by
  induction l generalizing x with
  | nil => rfl
  | cons a l ih => simp [List.foldl, ih, h]

@[simp] theorem State.setFld_links (s : State) (a2 a3 a4 a5 : _) : (State.setFld s a2 a3 a4 a5).links = s.links := by
  simp [State.setFld]

@[simp] theorem State.incFld_links (s : State) (a2 a3 a4 a5 : _) : (State.incFld s a2 a3 a4 a5).links = s.links := by
  simp [State.incFld]

@[simp] theorem State.satFld_links (s : State) (a2 a3 a4 a5 : _) : (State.satFld s a2 a3 a4 a5).links = s.links := by
  simp [State.satFld]

@[simp] theorem State.fresh_links (s : State) : (State.fresh s).2.links = s.links := by
  simp [State.fresh]

@[simp] theorem State.inBand_links (s : State) (a2 : _) : (State.inBand s a2).links = s.links := by
  simp [State.inBand]

@[simp] theorem State.modCore_links (s : State) (a2 a3 : _) : (State.modCore s a2 a3).links = s.links := by
  simp [State.modCore]

@[simp] theorem State.modPart_links (s : State) (a2 a3 : _) : (State.modPart s a2 a3).links = s.links := by
  simp [State.modPart]

@[simp] theorem State.modChan_links (s : State) (a2 a3 : _) : (State.modChan s a2 a3).links = s.links := by
  simp [State.modChan]

@[simp] theorem State.logModule_links (s : State) (a2 : _) : (State.logModule s a2).links = s.links := by
  simp [State.logModule]

@[simp] theorem State.logChan_links (s : State) (a2 a3 a4 a5 a6 a7 : _) : (State.logChan s a2 a3 a4 a5 a6 a7).links = s.links := by
  simp [State.logChan]

@[simp] theorem State.moduleFail_links (s : State) : (State.moduleFail s).links = s.links := by
  simp [State.moduleFail]

@[simp] theorem State.setErrors_links (s : State) (a2 a3 : _) : (State.setErrors s a2 a3).links = s.links := by
  simp [State.setErrors]

@[simp] theorem State.freshLine_links (s : State) : (State.freshLine s).2.links = s.links := by
  simp [State.freshLine]

@[simp] theorem State.peekLine_links (s : State) (a2 : _) : (State.peekLine s a2).2.links = s.links := by
  simp [State.peekLine] <;> (repeat' split) <;> simp

@[simp] theorem State.spareBank_links (s : State) (a2 a3 : _) : (State.spareBank s a2 a3).links = s.links := by
  simp [State.spareBank]

@[simp] theorem State.spareRow_links (s : State) (a2 : _) : (State.spareRow s a2).links = s.links := by
  simp [State.spareRow]

@[simp] theorem State.rowError_links (s : State) (a2 : _) : (State.rowError s a2).links = s.links := by
  simp [State.rowError]

@[simp] theorem State.readLine_links (s : State) (a2 : _) : (State.readLine s a2).2.links = s.links := by
  simp [State.readLine] <;> (repeat' split) <;> simp

@[simp] theorem State.writeLine_links (s : State) (a2 a3 : _) : (State.writeLine s a2 a3).links = s.links := by
  simp [State.writeLine]

@[simp] theorem State.performReq_links (s : State) (a2 a3 : _) : (State.performReq s a2 a3).1.links = s.links := by
  simp [State.performReq] <;> (repeat' split) <;> simp

@[simp] theorem State.popQueue_links (s : State) (a2 a3 : _) : (State.popQueue s a2 a3).links = s.links := by
  simp [State.popQueue]

@[simp] theorem State.modG_links (s : State) (a2 a3 : _) : (State.modG s a2 a3).links = s.links := by
  simp [State.modG]

@[simp] theorem State.toProcessor_links (s : State) (a2 : _) : (State.toProcessor s a2).links = s.links := by
  simp [State.toProcessor]

@[simp] theorem State.setGranaryQueue_links (s : State) (a2 a3 : _) : (State.setGranaryQueue s a2 a3).links = s.links := by
  simp [State.setGranaryQueue]

@[simp] theorem State.takeChan_links (s : State) (a2 : _) : (State.takeChan s a2).links = s.links := by
  simp [State.takeChan]

@[simp] theorem State.stall_links (s : State) (a2 : _) : (State.stall s a2).links = s.links := by
  simp [State.stall]

@[simp] theorem State.direct_links (s : State) (a2 a3 a4 a5 a6 : _) : (State.direct s a2 a3 a4 a5 a6).1.links = s.links := by
  simp [State.direct] <;> (repeat' split) <;> simp

@[simp] theorem State.resend_links (s : State) (a2 : _) : (State.resend s a2).links = s.links := by
  unfold State.resend
  simp only [State.incFld_links]
  exact links_foldl _ (by intros; simp) _ _

@[simp] theorem State.logTwin_links (s : State) (a2 a3 : _) : (State.logTwin s a2 a3).links = s.links := by
  simp [State.logTwin]

@[simp] theorem State.syncLeft_links (s : State) : (State.syncLeft s).links = s.links := by
  rfl

end Sys2Proof.Machine
end

section
/-! PROOFS. What the operations of the model leave of the launches. -/

namespace Sys2Proof.Machine

@[simp] theorem launches_ite (c : Prop) [Decidable c] (s t : State) :
    (if c then s else t).launches = if c then s.launches else t.launches := apply_ite _ c s t

@[simp] theorem launches_foldl {α : Type} (f : State → α → State) (h : ∀ s a, (f s a).launches = s.launches) (l : List α) (s : State) :
    (l.foldl f s).launches = s.launches := by
  induction l generalizing s with
  | nil => rfl
  | cons a l ih => simp [List.foldl, ih, h]

@[simp] theorem launches_foldl_snd {α β : Type} (f : β × State → α → β × State) (h : ∀ x a, (f x a).2.launches = x.2.launches)
    (l : List α) (x : β × State) : (l.foldl f x).2.launches = x.2.launches := by
  induction l generalizing x with
  | nil => rfl
  | cons a l ih => simp [List.foldl, ih, h]

@[simp] theorem State.setFld_launches (s : State) (a2 a3 a4 a5 : _) : (State.setFld s a2 a3 a4 a5).launches = s.launches := by
  simp [State.setFld]

@[simp] theorem State.incFld_launches (s : State) (a2 a3 a4 a5 : _) : (State.incFld s a2 a3 a4 a5).launches = s.launches := by
  simp [State.incFld]

@[simp] theorem State.satFld_launches (s : State) (a2 a3 a4 a5 : _) : (State.satFld s a2 a3 a4 a5).launches = s.launches := by
  simp [State.satFld]

@[simp] theorem State.fresh_launches (s : State) : (State.fresh s).2.launches = s.launches := by
  simp [State.fresh]

@[simp] theorem State.inBand_launches (s : State) (a2 : _) : (State.inBand s a2).launches = s.launches := by
  simp [State.inBand]

@[simp] theorem State.modCore_launches (s : State) (a2 a3 : _) : (State.modCore s a2 a3).launches = s.launches := by
  simp [State.modCore]

@[simp] theorem State.modPart_launches (s : State) (a2 a3 : _) : (State.modPart s a2 a3).launches = s.launches := by
  simp [State.modPart]

@[simp] theorem State.modChan_launches (s : State) (a2 a3 : _) : (State.modChan s a2 a3).launches = s.launches := by
  simp [State.modChan]

@[simp] theorem State.logPart_launches (s : State) (a2 a3 : _) : (State.logPart s a2 a3).launches = s.launches := by
  simp [State.logPart]

@[simp] theorem State.logChan_launches (s : State) (a2 a3 a4 a5 a6 a7 : _) : (State.logChan s a2 a3 a4 a5 a6 a7).launches = s.launches := by
  simp [State.logChan]

@[simp] theorem State.countN_launches (s : State) (a2 a3 a4 : _) : (State.countN s a2 a3 a4).launches = s.launches := by
  unfold State.countN
  split <;> simp

@[simp] theorem State.count_launches (s : State) (a2 a3 : _) : (State.count s a2 a3).launches = s.launches := by
  simp [State.count]

@[simp] theorem State.modDesc_launches (s : State) (a2 a3 a4 : _) : (State.modDesc s a2 a3 a4).launches = s.launches := by
  unfold State.modDesc
  split <;> simp

@[simp] theorem State.flagDesc_launches (s : State) (a2 a3 a4 : _) : (State.flagDesc s a2 a3 a4).launches = s.launches := by
  simp [State.flagDesc]

@[simp] theorem State.moduleFail_launches (s : State) : (State.moduleFail s).launches = s.launches := by
  simp [State.moduleFail]

@[simp] theorem State.setErrors_launches (s : State) (a2 a3 : _) : (State.setErrors s a2 a3).launches = s.launches := by
  simp [State.setErrors]

@[simp] theorem State.freshLine_launches (s : State) : (State.freshLine s).2.launches = s.launches := by
  simp [State.freshLine]

@[simp] theorem State.peekLine_launches (s : State) (a2 : _) : (State.peekLine s a2).2.launches = s.launches := by
  simp [State.peekLine] <;> (repeat' split) <;> simp

@[simp] theorem State.spareBank_launches (s : State) (a2 a3 : _) : (State.spareBank s a2 a3).launches = s.launches := by
  simp [State.spareBank]

@[simp] theorem State.spareRow_launches (s : State) (a2 : _) : (State.spareRow s a2).launches = s.launches := by
  simp [State.spareRow]

@[simp] theorem State.rowError_launches (s : State) (a2 : _) : (State.rowError s a2).launches = s.launches := by
  simp [State.rowError]

@[simp] theorem State.readLine_launches (s : State) (a2 : _) : (State.readLine s a2).2.launches = s.launches := by
  simp [State.readLine] <;> (repeat' split) <;> simp

@[simp] theorem State.writeLine_launches (s : State) (a2 a3 : _) : (State.writeLine s a2 a3).launches = s.launches := by
  simp [State.writeLine]

@[simp] theorem State.performReq_launches (s : State) (a2 a3 : _) : (State.performReq s a2 a3).1.launches = s.launches := by
  simp [State.performReq] <;> (repeat' split) <;> simp

@[simp] theorem State.popQueue_launches (s : State) (a2 a3 : _) : (State.popQueue s a2 a3).launches = s.launches := by
  simp [State.popQueue]

@[simp] theorem State.modG_launches (s : State) (a2 a3 : _) : (State.modG s a2 a3).launches = s.launches := by
  simp [State.modG]

@[simp] theorem State.toProcessor_launches (s : State) (a2 : _) : (State.toProcessor s a2).launches = s.launches := by
  simp [State.toProcessor]

@[simp] theorem State.setGranaryQueue_launches (s : State) (a2 a3 : _) : (State.setGranaryQueue s a2 a3).launches = s.launches := by
  simp [State.setGranaryQueue]

@[simp] theorem State.takeChan_launches (s : State) (a2 : _) : (State.takeChan s a2).launches = s.launches := by
  simp [State.takeChan]

@[simp] theorem State.stall_launches (s : State) (a2 : _) : (State.stall s a2).launches = s.launches := by
  simp [State.stall]

@[simp] theorem State.direct_launches (s : State) (a2 a3 a4 a5 a6 : _) : (State.direct s a2 a3 a4 a5 a6).1.launches = s.launches := by
  simp [State.direct] <;> (repeat' split) <;> simp

@[simp] theorem State.running__launches (s : State) (a2 a3 : _) : (State.running_ s a2 a3).launches = s.launches := by
  simp [State.running_]

@[simp] theorem State.logResidue_launches (s : State) (a2 a3 : _) : (State.logResidue s a2 a3).launches = s.launches := by
  unfold State.logResidue
  split <;> simp

@[simp] theorem State.noteIdle_launches (s : State) (a2 a3 : _) : (State.noteIdle s a2 a3).launches = s.launches := by
  simp [State.noteIdle]

@[simp] theorem State.noteLate_launches (s : State) (a2 a3 : _) : (State.noteLate s a2 a3).launches = s.launches := by
  simp [State.noteLate]

@[simp] theorem State.syncLeft_launches (s : State) : (State.syncLeft s).launches = s.launches := by
  rfl

end Sys2Proof.Machine
end

section
/-! PROOFS. What the operations of the model leave of the image being loaded. -/

namespace Sys2Proof.Machine

@[simp] theorem loadJob_ite (c : Prop) [Decidable c] (s t : State) :
    (if c then s else t).loadJob = if c then s.loadJob else t.loadJob := apply_ite _ c s t

@[simp] theorem loadJob_foldl {α : Type} (f : State → α → State) (h : ∀ s a, (f s a).loadJob = s.loadJob) (l : List α) (s : State) :
    (l.foldl f s).loadJob = s.loadJob := by
  induction l generalizing s with
  | nil => rfl
  | cons a l ih => simp [List.foldl, ih, h]

@[simp] theorem loadJob_foldl_fst {α β : Type} (f : State × β → α → State × β) (h : ∀ x a, (f x a).1.loadJob = x.1.loadJob)
    (l : List α) (x : State × β) : (l.foldl f x).1.loadJob = x.1.loadJob := by
  induction l generalizing x with
  | nil => rfl
  | cons a l ih => simp [List.foldl, ih, h]

@[simp] theorem loadJob_foldl_snd {α β : Type} (f : β × State → α → β × State) (h : ∀ x a, (f x a).2.loadJob = x.2.loadJob)
    (l : List α) (x : β × State) : (l.foldl f x).2.loadJob = x.2.loadJob := by
  induction l generalizing x with
  | nil => rfl
  | cons a l ih => simp [List.foldl, ih, h]

@[simp] theorem State.setFld_loadJob (s : State) (a2 a3 a4 a5 : _) : (State.setFld s a2 a3 a4 a5).loadJob = s.loadJob := by
  simp [State.setFld]

@[simp] theorem State.incFld_loadJob (s : State) (a2 a3 a4 a5 : _) : (State.incFld s a2 a3 a4 a5).loadJob = s.loadJob := by
  simp [State.incFld]

@[simp] theorem State.satFld_loadJob (s : State) (a2 a3 a4 a5 : _) : (State.satFld s a2 a3 a4 a5).loadJob = s.loadJob := by
  simp [State.satFld]

@[simp] theorem State.fresh_loadJob (s : State) : (State.fresh s).2.loadJob = s.loadJob := by
  simp [State.fresh]

@[simp] theorem State.inBand_loadJob (s : State) (a2 : _) : (State.inBand s a2).loadJob = s.loadJob := by
  simp [State.inBand]

@[simp] theorem State.modCore_loadJob (s : State) (a2 a3 : _) : (State.modCore s a2 a3).loadJob = s.loadJob := by
  simp [State.modCore]

@[simp] theorem State.modPart_loadJob (s : State) (a2 a3 : _) : (State.modPart s a2 a3).loadJob = s.loadJob := by
  simp [State.modPart]

@[simp] theorem State.modChan_loadJob (s : State) (a2 a3 : _) : (State.modChan s a2 a3).loadJob = s.loadJob := by
  simp [State.modChan]

@[simp] theorem State.modLink_loadJob (s : State) (a2 a3 : _) : (State.modLink s a2 a3).loadJob = s.loadJob := by
  simp [State.modLink]

@[simp] theorem State.logPart_loadJob (s : State) (a2 a3 : _) : (State.logPart s a2 a3).loadJob = s.loadJob := by
  simp [State.logPart]

@[simp] theorem State.logChan_loadJob (s : State) (a2 a3 a4 a5 a6 a7 : _) : (State.logChan s a2 a3 a4 a5 a6 a7).loadJob = s.loadJob := by
  simp [State.logChan]

@[simp] theorem State.modDesc_loadJob (s : State) (a2 a3 a4 : _) : (State.modDesc s a2 a3 a4).loadJob = s.loadJob := by
  unfold State.modDesc
  split <;> simp

@[simp] theorem State.sendFrame_loadJob (s : State) (a2 a3 a4 : _) : (State.sendFrame s a2 a3 a4).loadJob = s.loadJob := by
  simp [State.sendFrame]

@[simp] theorem State.pumpLink_loadJob (s : State) (a2 a3 : _) : (State.pumpLink s a2 a3).loadJob = s.loadJob := by
  induction a3 generalizing s with
  | zero => simp [State.pumpLink]
  | succ n ih =>
    unfold State.pumpLink
    dsimp only
    (repeat' split) <;> simp [ih]

@[simp] theorem State.transmit_loadJob (s : State) (a2 a3 : _) : (State.transmit s a2 a3).loadJob = s.loadJob := by
  simp [State.transmit]

@[simp] theorem State.route_loadJob (s : State) (a2 a3 a4 : _) : (State.route s a2 a3 a4).loadJob = s.loadJob := by
  simp [State.route] <;> (repeat' split) <;> simp

@[simp] theorem State.request_loadJob (s : State) (a2 a3 a4 a5 a6 a7 a8 a9 a10 : _) : (State.request s a2 a3 a4 a5 a6 a7 a8 a9 a10).2.loadJob = s.loadJob := by
  simp [State.request]

@[simp] theorem State.moduleFail_loadJob (s : State) : (State.moduleFail s).loadJob = s.loadJob := by
  simp [State.moduleFail]

@[simp] theorem State.setErrors_loadJob (s : State) (a2 a3 : _) : (State.setErrors s a2 a3).loadJob = s.loadJob := by
  simp [State.setErrors]

@[simp] theorem State.freshLine_loadJob (s : State) : (State.freshLine s).2.loadJob = s.loadJob := by
  simp [State.freshLine]

@[simp] theorem State.peekLine_loadJob (s : State) (a2 : _) : (State.peekLine s a2).2.loadJob = s.loadJob := by
  simp [State.peekLine] <;> (repeat' split) <;> simp

@[simp] theorem State.spareBank_loadJob (s : State) (a2 a3 : _) : (State.spareBank s a2 a3).loadJob = s.loadJob := by
  simp [State.spareBank]

@[simp] theorem State.spareRow_loadJob (s : State) (a2 : _) : (State.spareRow s a2).loadJob = s.loadJob := by
  simp [State.spareRow]

@[simp] theorem State.rowError_loadJob (s : State) (a2 : _) : (State.rowError s a2).loadJob = s.loadJob := by
  simp [State.rowError]

@[simp] theorem State.readLine_loadJob (s : State) (a2 : _) : (State.readLine s a2).2.loadJob = s.loadJob := by
  simp [State.readLine] <;> (repeat' split) <;> simp

@[simp] theorem State.writeLine_loadJob (s : State) (a2 a3 : _) : (State.writeLine s a2 a3).loadJob = s.loadJob := by
  simp [State.writeLine]

@[simp] theorem State.performReq_loadJob (s : State) (a2 a3 : _) : (State.performReq s a2 a3).1.loadJob = s.loadJob := by
  simp [State.performReq] <;> (repeat' split) <;> simp

@[simp] theorem State.popQueue_loadJob (s : State) (a2 a3 : _) : (State.popQueue s a2 a3).loadJob = s.loadJob := by
  simp [State.popQueue]

@[simp] theorem State.modG_loadJob (s : State) (a2 a3 : _) : (State.modG s a2 a3).loadJob = s.loadJob := by
  simp [State.modG]

@[simp] theorem State.toProcessor_loadJob (s : State) (a2 : _) : (State.toProcessor s a2).loadJob = s.loadJob := by
  simp [State.toProcessor]

@[simp] theorem State.setGranaryQueue_loadJob (s : State) (a2 a3 : _) : (State.setGranaryQueue s a2 a3).loadJob = s.loadJob := by
  simp [State.setGranaryQueue]

@[simp] theorem State.takeChan_loadJob (s : State) (a2 : _) : (State.takeChan s a2).loadJob = s.loadJob := by
  simp [State.takeChan]

@[simp] theorem State.stall_loadJob (s : State) (a2 : _) : (State.stall s a2).loadJob = s.loadJob := by
  simp [State.stall]

@[simp] theorem State.arrange_loadJob (s : State) (a2 : _) : (State.arrange s a2).loadJob = s.loadJob := by
  unfold State.arrange
  split <;> simp

@[simp] theorem State.direct_loadJob (s : State) (a2 a3 a4 a5 a6 : _) : (State.direct s a2 a3 a4 a5 a6).1.loadJob = s.loadJob := by
  simp [State.direct] <;> (repeat' split) <;> simp

@[simp] theorem State.writeFree_loadJob (s : State) (a2 a3 a4 : _) : (State.writeFree s a2 a3 a4).1.loadJob = s.loadJob := by
  unfold State.writeFree
  refine loadJob_foldl_fst _ ?_ _ _
  intro x a
  dsimp only
  split
  · rfl
  · simp

@[simp] theorem State.logLoad_loadJob (s : State) (a2 a3 a4 : _) : (State.logLoad s a2 a3 a4).loadJob = s.loadJob := by
  simp [State.logLoad]

@[simp] theorem State.giveImage_loadJob (s : State) (a2 : _) : (State.giveImage s a2).loadJob = s.loadJob := by
  unfold State.giveImage
  split <;> simp

@[simp] theorem State.logCode_loadJob (s : State) (a2 a3 : _) : (State.logCode s a2 a3).loadJob = s.loadJob := by
  simp [State.logCode]

@[simp] theorem State.noteImage_loadJob (s : State) (a2 : _) : (State.noteImage s a2).loadJob = s.loadJob := by
  simp [State.noteImage]

@[simp] theorem State.syncLeft_loadJob (s : State) : (State.syncLeft s).loadJob = s.loadJob := by
  rfl

end Sys2Proof.Machine
end

section
/-! PROOFS. What the operations of the model leave of the waiting images. -/

namespace Sys2Proof.Machine

@[simp] theorem loadQueue_ite (c : Prop) [Decidable c] (s t : State) :
    (if c then s else t).loadQueue = if c then s.loadQueue else t.loadQueue := apply_ite _ c s t

@[simp] theorem loadQueue_foldl {α : Type} (f : State → α → State) (h : ∀ s a, (f s a).loadQueue = s.loadQueue) (l : List α) (s : State) :
    (l.foldl f s).loadQueue = s.loadQueue := by
  induction l generalizing s with
  | nil => rfl
  | cons a l ih => simp [List.foldl, ih, h]

@[simp] theorem loadQueue_foldl_snd {α β : Type} (f : β × State → α → β × State) (h : ∀ x a, (f x a).2.loadQueue = x.2.loadQueue)
    (l : List α) (x : β × State) : (l.foldl f x).2.loadQueue = x.2.loadQueue := by
  induction l generalizing x with
  | nil => rfl
  | cons a l ih => simp [List.foldl, ih, h]

@[simp] theorem State.setFld_loadQueue (s : State) (a2 a3 a4 a5 : _) : (State.setFld s a2 a3 a4 a5).loadQueue = s.loadQueue := by
  simp [State.setFld]

@[simp] theorem State.incFld_loadQueue (s : State) (a2 a3 a4 a5 : _) : (State.incFld s a2 a3 a4 a5).loadQueue = s.loadQueue := by
  simp [State.incFld]

@[simp] theorem State.satFld_loadQueue (s : State) (a2 a3 a4 a5 : _) : (State.satFld s a2 a3 a4 a5).loadQueue = s.loadQueue := by
  simp [State.satFld]

@[simp] theorem State.fresh_loadQueue (s : State) : (State.fresh s).2.loadQueue = s.loadQueue := by
  simp [State.fresh]

@[simp] theorem State.inBand_loadQueue (s : State) (a2 : _) : (State.inBand s a2).loadQueue = s.loadQueue := by
  simp [State.inBand]

@[simp] theorem State.modCore_loadQueue (s : State) (a2 a3 : _) : (State.modCore s a2 a3).loadQueue = s.loadQueue := by
  simp [State.modCore]

@[simp] theorem State.modPart_loadQueue (s : State) (a2 a3 : _) : (State.modPart s a2 a3).loadQueue = s.loadQueue := by
  simp [State.modPart]

@[simp] theorem State.modChan_loadQueue (s : State) (a2 a3 : _) : (State.modChan s a2 a3).loadQueue = s.loadQueue := by
  simp [State.modChan]

@[simp] theorem State.modLink_loadQueue (s : State) (a2 a3 : _) : (State.modLink s a2 a3).loadQueue = s.loadQueue := by
  simp [State.modLink]

@[simp] theorem State.logChan_loadQueue (s : State) (a2 a3 a4 a5 a6 a7 : _) : (State.logChan s a2 a3 a4 a5 a6 a7).loadQueue = s.loadQueue := by
  simp [State.logChan]

@[simp] theorem State.sendFrame_loadQueue (s : State) (a2 a3 a4 : _) : (State.sendFrame s a2 a3 a4).loadQueue = s.loadQueue := by
  simp [State.sendFrame]

@[simp] theorem State.pumpLink_loadQueue (s : State) (a2 a3 : _) : (State.pumpLink s a2 a3).loadQueue = s.loadQueue := by
  induction a3 generalizing s with
  | zero => simp [State.pumpLink]
  | succ n ih =>
    unfold State.pumpLink
    dsimp only
    (repeat' split) <;> simp [ih]

@[simp] theorem State.transmit_loadQueue (s : State) (a2 a3 : _) : (State.transmit s a2 a3).loadQueue = s.loadQueue := by
  simp [State.transmit]

@[simp] theorem State.route_loadQueue (s : State) (a2 a3 a4 : _) : (State.route s a2 a3 a4).loadQueue = s.loadQueue := by
  simp [State.route] <;> (repeat' split) <;> simp

@[simp] theorem State.request_loadQueue (s : State) (a2 a3 a4 a5 a6 a7 a8 a9 a10 : _) : (State.request s a2 a3 a4 a5 a6 a7 a8 a9 a10).2.loadQueue = s.loadQueue := by
  simp [State.request]

@[simp] theorem State.moduleFail_loadQueue (s : State) : (State.moduleFail s).loadQueue = s.loadQueue := by
  simp [State.moduleFail]

@[simp] theorem State.setErrors_loadQueue (s : State) (a2 a3 : _) : (State.setErrors s a2 a3).loadQueue = s.loadQueue := by
  simp [State.setErrors]

@[simp] theorem State.freshLine_loadQueue (s : State) : (State.freshLine s).2.loadQueue = s.loadQueue := by
  simp [State.freshLine]

@[simp] theorem State.peekLine_loadQueue (s : State) (a2 : _) : (State.peekLine s a2).2.loadQueue = s.loadQueue := by
  simp [State.peekLine] <;> (repeat' split) <;> simp

@[simp] theorem State.spareBank_loadQueue (s : State) (a2 a3 : _) : (State.spareBank s a2 a3).loadQueue = s.loadQueue := by
  simp [State.spareBank]

@[simp] theorem State.spareRow_loadQueue (s : State) (a2 : _) : (State.spareRow s a2).loadQueue = s.loadQueue := by
  simp [State.spareRow]

@[simp] theorem State.rowError_loadQueue (s : State) (a2 : _) : (State.rowError s a2).loadQueue = s.loadQueue := by
  simp [State.rowError]

@[simp] theorem State.readLine_loadQueue (s : State) (a2 : _) : (State.readLine s a2).2.loadQueue = s.loadQueue := by
  simp [State.readLine] <;> (repeat' split) <;> simp

@[simp] theorem State.writeLine_loadQueue (s : State) (a2 a3 : _) : (State.writeLine s a2 a3).loadQueue = s.loadQueue := by
  simp [State.writeLine]

@[simp] theorem State.performReq_loadQueue (s : State) (a2 a3 : _) : (State.performReq s a2 a3).1.loadQueue = s.loadQueue := by
  simp [State.performReq] <;> (repeat' split) <;> simp

@[simp] theorem State.popQueue_loadQueue (s : State) (a2 a3 : _) : (State.popQueue s a2 a3).loadQueue = s.loadQueue := by
  simp [State.popQueue]

@[simp] theorem State.modG_loadQueue (s : State) (a2 a3 : _) : (State.modG s a2 a3).loadQueue = s.loadQueue := by
  simp [State.modG]

@[simp] theorem State.toProcessor_loadQueue (s : State) (a2 : _) : (State.toProcessor s a2).loadQueue = s.loadQueue := by
  simp [State.toProcessor]

@[simp] theorem State.setGranaryQueue_loadQueue (s : State) (a2 a3 : _) : (State.setGranaryQueue s a2 a3).loadQueue = s.loadQueue := by
  simp [State.setGranaryQueue]

@[simp] theorem State.takeChan_loadQueue (s : State) (a2 : _) : (State.takeChan s a2).loadQueue = s.loadQueue := by
  simp [State.takeChan]

@[simp] theorem State.stall_loadQueue (s : State) (a2 : _) : (State.stall s a2).loadQueue = s.loadQueue := by
  simp [State.stall]

@[simp] theorem State.arrange_loadQueue (s : State) (a2 : _) : (State.arrange s a2).loadQueue = s.loadQueue := by
  unfold State.arrange
  split <;> simp

@[simp] theorem State.direct_loadQueue (s : State) (a2 a3 a4 a5 a6 : _) : (State.direct s a2 a3 a4 a5 a6).1.loadQueue = s.loadQueue := by
  simp [State.direct] <;> (repeat' split) <;> simp

@[simp] theorem State.syncLeft_loadQueue (s : State) : (State.syncLeft s).loadQueue = s.loadQueue := by
  rfl

end Sys2Proof.Machine
end

section
/-! PROOFS. What the operations of the model leave of the fabric. -/

namespace Sys2Proof.Machine

@[simp] theorem fabric_ite (c : Prop) [Decidable c] (s t : State) :
    (if c then s else t).fabric = if c then s.fabric else t.fabric := apply_ite _ c s t

@[simp] theorem fabric_foldl {α : Type} (f : State → α → State) (h : ∀ s a, (f s a).fabric = s.fabric) (l : List α) (s : State) :
    (l.foldl f s).fabric = s.fabric := by
  induction l generalizing s with
  | nil => rfl
  | cons a l ih => simp [List.foldl, ih, h]

@[simp] theorem fabric_foldl_snd {α β : Type} (f : β × State → α → β × State) (h : ∀ x a, (f x a).2.fabric = x.2.fabric)
    (l : List α) (x : β × State) : (l.foldl f x).2.fabric = x.2.fabric := by
  induction l generalizing x with
  | nil => rfl
  | cons a l ih => simp [List.foldl, ih, h]

@[simp] theorem State.setFld_fabric (s : State) (a2 a3 a4 a5 : _) : (State.setFld s a2 a3 a4 a5).fabric = s.fabric := by
  simp [State.setFld]

@[simp] theorem State.incFld_fabric (s : State) (a2 a3 a4 a5 : _) : (State.incFld s a2 a3 a4 a5).fabric = s.fabric := by
  simp [State.incFld]

@[simp] theorem State.satFld_fabric (s : State) (a2 a3 a4 a5 : _) : (State.satFld s a2 a3 a4 a5).fabric = s.fabric := by
  simp [State.satFld]

@[simp] theorem State.fresh_fabric (s : State) : (State.fresh s).2.fabric = s.fabric := by
  simp [State.fresh]

@[simp] theorem State.inBand_fabric (s : State) (a2 : _) : (State.inBand s a2).fabric = s.fabric := by
  simp [State.inBand]

@[simp] theorem State.modCore_fabric (s : State) (a2 a3 : _) : (State.modCore s a2 a3).fabric = s.fabric := by
  simp [State.modCore]

@[simp] theorem State.modPart_fabric (s : State) (a2 a3 : _) : (State.modPart s a2 a3).fabric = s.fabric := by
  simp [State.modPart]

@[simp] theorem State.modChan_fabric (s : State) (a2 a3 : _) : (State.modChan s a2 a3).fabric = s.fabric := by
  simp [State.modChan]

@[simp] theorem State.logPart_fabric (s : State) (a2 a3 : _) : (State.logPart s a2 a3).fabric = s.fabric := by
  simp [State.logPart]

@[simp] theorem State.logModule_fabric (s : State) (a2 : _) : (State.logModule s a2).fabric = s.fabric := by
  simp [State.logModule]

@[simp] theorem State.logAny_fabric (s : State) (a2 a3 : _) : (State.logAny s a2 a3).fabric = s.fabric := by
  unfold State.logAny
  split <;> simp

@[simp] theorem State.logChan_fabric (s : State) (a2 a3 a4 a5 a6 a7 : _) : (State.logChan s a2 a3 a4 a5 a6 a7).fabric = s.fabric := by
  simp [State.logChan]

@[simp] theorem State.traceRec_fabric (s : State) (a2 a3 a4 a5 a6 a7 a8 a9 a10 : _) : (State.traceRec s a2 a3 a4 a5 a6 a7 a8 a9 a10).fabric = s.fabric := by
  unfold State.traceRec
  split <;> simp

@[simp] theorem State.modLaunch_fabric (s : State) (a2 a3 : _) : (State.modLaunch s a2 a3).fabric = s.fabric := by
  unfold State.modLaunch
  split <;> simp

@[simp] theorem State.modDesc_fabric (s : State) (a2 a3 a4 : _) : (State.modDesc s a2 a3 a4).fabric = s.fabric := by
  unfold State.modDesc
  split <;> simp

@[simp] theorem State.endDesc_fabric (s : State) (a2 a3 a4 : _) : (State.endDesc s a2 a3 a4).fabric = s.fabric := by
  simp [State.endDesc]

@[simp] theorem State.moduleFail_fabric (s : State) : (State.moduleFail s).fabric = s.fabric := by
  simp [State.moduleFail]

@[simp] theorem State.setErrors_fabric (s : State) (a2 a3 : _) : (State.setErrors s a2 a3).fabric = s.fabric := by
  simp [State.setErrors]

@[simp] theorem State.freshLine_fabric (s : State) : (State.freshLine s).2.fabric = s.fabric := by
  simp [State.freshLine]

@[simp] theorem State.peekLine_fabric (s : State) (a2 : _) : (State.peekLine s a2).2.fabric = s.fabric := by
  simp [State.peekLine] <;> (repeat' split) <;> simp

@[simp] theorem State.spareBank_fabric (s : State) (a2 a3 : _) : (State.spareBank s a2 a3).fabric = s.fabric := by
  simp [State.spareBank]

@[simp] theorem State.spareRow_fabric (s : State) (a2 : _) : (State.spareRow s a2).fabric = s.fabric := by
  simp [State.spareRow]

@[simp] theorem State.rowError_fabric (s : State) (a2 : _) : (State.rowError s a2).fabric = s.fabric := by
  simp [State.rowError]

@[simp] theorem State.readLine_fabric (s : State) (a2 : _) : (State.readLine s a2).2.fabric = s.fabric := by
  simp [State.readLine] <;> (repeat' split) <;> simp

@[simp] theorem State.writeLine_fabric (s : State) (a2 a3 : _) : (State.writeLine s a2 a3).fabric = s.fabric := by
  simp [State.writeLine]

@[simp] theorem State.performReq_fabric (s : State) (a2 a3 : _) : (State.performReq s a2 a3).1.fabric = s.fabric := by
  simp [State.performReq] <;> (repeat' split) <;> simp

@[simp] theorem State.touched_fabric (s : State) (a2 : _) : (State.touched s a2).fabric = s.fabric := by
  unfold State.touched
  split <;> simp

@[simp] theorem State.modEng_fabric (s : State) (a2 a3 a4 : _) : (State.modEng s a2 a3 a4).fabric = s.fabric := by
  simp [State.modEng]

@[simp] theorem State.traceCmd_fabric (s : State) (a2 a3 a4 a5 a6 a7 : _) : (State.traceCmd s a2 a3 a4 a5 a6 a7).fabric = s.fabric := by
  simp [State.traceCmd]

@[simp] theorem State.popQueue_fabric (s : State) (a2 a3 : _) : (State.popQueue s a2 a3).fabric = s.fabric := by
  simp [State.popQueue]

@[simp] theorem State.markStopped_fabric (s : State) (a2 a3 : _) : (State.markStopped s a2 a3).fabric = s.fabric := by
  simp [State.markStopped]

@[simp] theorem State.modG_fabric (s : State) (a2 a3 : _) : (State.modG s a2 a3).fabric = s.fabric := by
  simp [State.modG]

@[simp] theorem State.logOwn_fabric (s : State) (a2 a3 a4 a5 a6 : _) : (State.logOwn s a2 a3 a4 a5 a6).fabric = s.fabric := by
  simp [State.logOwn]

@[simp] theorem State.toProcessor_fabric (s : State) (a2 : _) : (State.toProcessor s a2).fabric = s.fabric := by
  simp [State.toProcessor]

@[simp] theorem State.toMemory_fabric (s : State) (a2 : _) : (State.toMemory s a2).fabric = s.fabric := by
  simp [State.toMemory]

@[simp] theorem State.readGstat_fabric (s : State) (a2 : _) : (State.readGstat s a2).fabric = s.fabric := by
  simp [State.readGstat]

@[simp] theorem State.qstop_fabric (s : State) (a2 : _) : (State.qstop s a2).fabric = s.fabric := by
  unfold State.qstop
  simp only [State.readGstat_fabric]
  exact fabric_foldl _ (by intro s a; simp) _ _

@[simp] theorem State.setGranaryQueue_fabric (s : State) (a2 a3 : _) : (State.setGranaryQueue s a2 a3).fabric = s.fabric := by
  simp [State.setGranaryQueue]

@[simp] theorem State.takeChan_fabric (s : State) (a2 : _) : (State.takeChan s a2).fabric = s.fabric := by
  simp [State.takeChan]

@[simp] theorem State.admitJob_fabric (s : State) (a2 a3 : _) : (State.admitJob s a2 a3).fabric = s.fabric := by
  simp [State.admitJob]

@[simp] theorem State.admitHead_fabric (s : State) (a2 : _) : (State.admitHead s a2).fabric = s.fabric := by
  unfold State.admitHead
  (repeat' split) <;> simp

@[simp] theorem State.dropJob_fabric (s : State) (a2 : _) : (State.dropJob s a2).fabric = s.fabric := by
  simp [State.dropJob]

@[simp] theorem State.leaveGranary_fabric (s : State) (a2 : _) : (State.leaveGranary s a2).fabric = s.fabric := by
  simp [State.leaveGranary]

@[simp] theorem State.putBackJob_fabric (s : State) (a2 : _) : (State.putBackJob s a2).fabric = s.fabric := by
  unfold State.putBackJob
  split <;> simp

@[simp] theorem State.killJob_fabric (s : State) (a2 : _) : (State.killJob s a2).fabric = s.fabric := by
  simp [State.killJob]

@[simp] theorem State.holdGrind_fabric (s : State) (a2 a3 : _) : (State.holdGrind s a2 a3).fabric = s.fabric := by
  unfold State.holdGrind
  split <;> simp

@[simp] theorem State.stall_fabric (s : State) (a2 : _) : (State.stall s a2).fabric = s.fabric := by
  simp [State.stall]

@[simp] theorem State.direct_fabric (s : State) (a2 a3 a4 a5 a6 : _) : (State.direct s a2 a3 a4 a5 a6).1.fabric = s.fabric := by
  simp [State.direct] <;> (repeat' split) <;> simp

@[simp] theorem State.peerSkip_fabric (s : State) (a2 a3 a4 : _) : (State.peerSkip s a2 a3 a4).fabric = s.fabric := by
  simp [State.peerSkip]

@[simp] theorem State.syncLeft_fabric (s : State) : (State.syncLeft s).fabric = s.fabric := by
  rfl

end Sys2Proof.Machine
end

section
/-! PROOFS. What the operations of the model leave of the twin logic. -/

namespace Sys2Proof.Machine

@[simp] theorem twin_ite (c : Prop) [Decidable c] (s t : State) :
    (if c then s else t).twin = if c then s.twin else t.twin := apply_ite _ c s t

@[simp] theorem twin_foldl {α : Type} (f : State → α → State) (h : ∀ s a, (f s a).twin = s.twin) (l : List α) (s : State) :
    (l.foldl f s).twin = s.twin := by
  induction l generalizing s with
  | nil => rfl
  | cons a l ih => simp [List.foldl, ih, h]

@[simp] theorem twin_foldl_fst {α β : Type} (f : State × β → α → State × β) (h : ∀ x a, (f x a).1.twin = x.1.twin)
    (l : List α) (x : State × β) : (l.foldl f x).1.twin = x.1.twin := by
  induction l generalizing x with
  | nil => rfl
  | cons a l ih => simp [List.foldl, ih, h]

@[simp] theorem twin_foldl_snd {α β : Type} (f : β × State → α → β × State) (h : ∀ x a, (f x a).2.twin = x.2.twin)
    (l : List α) (x : β × State) : (l.foldl f x).2.twin = x.2.twin := by
  induction l generalizing x with
  | nil => rfl
  | cons a l ih => simp [List.foldl, ih, h]

@[simp] theorem State.setFld_twin (s : State) (a2 a3 a4 a5 : _) : (State.setFld s a2 a3 a4 a5).twin = s.twin := by
  simp [State.setFld]

@[simp] theorem State.incFld_twin (s : State) (a2 a3 a4 a5 : _) : (State.incFld s a2 a3 a4 a5).twin = s.twin := by
  simp [State.incFld]

@[simp] theorem State.satFld_twin (s : State) (a2 a3 a4 a5 : _) : (State.satFld s a2 a3 a4 a5).twin = s.twin := by
  simp [State.satFld]

@[simp] theorem State.fresh_twin (s : State) : (State.fresh s).2.twin = s.twin := by
  simp [State.fresh]

@[simp] theorem State.inBand_twin (s : State) (a2 : _) : (State.inBand s a2).twin = s.twin := by
  simp [State.inBand]

@[simp] theorem State.modPart_twin (s : State) (a2 a3 : _) : (State.modPart s a2 a3).twin = s.twin := by
  simp [State.modPart]

@[simp] theorem State.modChan_twin (s : State) (a2 a3 : _) : (State.modChan s a2 a3).twin = s.twin := by
  simp [State.modChan]

@[simp] theorem State.modLink_twin (s : State) (a2 a3 : _) : (State.modLink s a2 a3).twin = s.twin := by
  simp [State.modLink]

@[simp] theorem State.logChan_twin (s : State) (a2 a3 a4 a5 a6 a7 : _) : (State.logChan s a2 a3 a4 a5 a6 a7).twin = s.twin := by
  simp [State.logChan]

@[simp] theorem State.toHost_twin (s : State) (a2 : _) : (State.toHost s a2).twin = s.twin := by
  unfold State.toHost
  (repeat' split) <;> simp

@[simp] theorem State.hostReadIn_twin (s : State) (a2 a3 a4 a5 a6 : _) : (State.hostReadIn s a2 a3 a4 a5 a6).2.twin = s.twin := by
  simp [State.hostReadIn]

@[simp] theorem State.hostRead_twin (s : State) (a2 a3 a4 a5 : _) : (State.hostRead s a2 a3 a4 a5).2.twin = s.twin := by
  simp [State.hostRead]

@[simp] theorem State.sendFrame_twin (s : State) (a2 a3 a4 : _) : (State.sendFrame s a2 a3 a4).twin = s.twin := by
  simp [State.sendFrame]

@[simp] theorem State.pumpLink_twin (s : State) (a2 a3 : _) : (State.pumpLink s a2 a3).twin = s.twin := by
  induction a3 generalizing s with
  | zero => simp [State.pumpLink]
  | succ n ih =>
    unfold State.pumpLink
    dsimp only
    (repeat' split) <;> simp [ih]

@[simp] theorem State.transmit_twin (s : State) (a2 a3 : _) : (State.transmit s a2 a3).twin = s.twin := by
  simp [State.transmit]

@[simp] theorem State.route_twin (s : State) (a2 a3 a4 : _) : (State.route s a2 a3 a4).twin = s.twin := by
  simp [State.route] <;> (repeat' split) <;> simp

@[simp] theorem State.request_twin (s : State) (a2 a3 a4 a5 a6 a7 a8 a9 a10 : _) : (State.request s a2 a3 a4 a5 a6 a7 a8 a9 a10).2.twin = s.twin := by
  simp [State.request]

@[simp] theorem State.sendTwin_twin (s : State) (a2 a3 a4 : _) : (State.sendTwin s a2 a3 a4).twin = s.twin := by
  simp [State.sendTwin]

@[simp] theorem State.sendTwinAll_twin (s : State) (a2 a3 : _) : (State.sendTwinAll s a2 a3).twin = s.twin := by
  simp [State.sendTwinAll]

@[simp] theorem State.sendTwinOne_twin (s : State) (a2 a3 : _) : (State.sendTwinOne s a2 a3).twin = s.twin := by
  unfold State.sendTwinOne
  split <;> simp

@[simp] theorem State.moduleFail_twin (s : State) : (State.moduleFail s).twin = s.twin := by
  simp [State.moduleFail]

@[simp] theorem State.setErrors_twin (s : State) (a2 a3 : _) : (State.setErrors s a2 a3).twin = s.twin := by
  simp [State.setErrors]

@[simp] theorem State.freshLine_twin (s : State) : (State.freshLine s).2.twin = s.twin := by
  simp [State.freshLine]

@[simp] theorem State.peekLine_twin (s : State) (a2 : _) : (State.peekLine s a2).2.twin = s.twin := by
  simp [State.peekLine] <;> (repeat' split) <;> simp

@[simp] theorem State.spareBank_twin (s : State) (a2 a3 : _) : (State.spareBank s a2 a3).twin = s.twin := by
  simp [State.spareBank]

@[simp] theorem State.spareRow_twin (s : State) (a2 : _) : (State.spareRow s a2).twin = s.twin := by
  simp [State.spareRow]

@[simp] theorem State.rowError_twin (s : State) (a2 : _) : (State.rowError s a2).twin = s.twin := by
  simp [State.rowError]

@[simp] theorem State.readLine_twin (s : State) (a2 : _) : (State.readLine s a2).2.twin = s.twin := by
  simp [State.readLine] <;> (repeat' split) <;> simp

@[simp] theorem State.writeLine_twin (s : State) (a2 a3 : _) : (State.writeLine s a2 a3).twin = s.twin := by
  simp [State.writeLine]

@[simp] theorem State.performReq_twin (s : State) (a2 a3 : _) : (State.performReq s a2 a3).1.twin = s.twin := by
  simp [State.performReq] <;> (repeat' split) <;> simp

@[simp] theorem State.stall_twin (s : State) (a2 : _) : (State.stall s a2).twin = s.twin := by
  simp [State.stall]

@[simp] theorem State.arrange_twin (s : State) (a2 : _) : (State.arrange s a2).twin = s.twin := by
  unfold State.arrange
  split <;> simp

@[simp] theorem State.direct_twin (s : State) (a2 a3 a4 a5 a6 : _) : (State.direct s a2 a3 a4 a5 a6).1.twin = s.twin := by
  simp [State.direct] <;> (repeat' split) <;> simp

@[simp] theorem State.writePhys_twin (s : State) (a2 a3 a4 : _) : (State.writePhys s a2 a3 a4).1.twin = s.twin := by
  unfold State.writePhys
  refine twin_foldl_fst _ ?_ _ _
  intro x a
  dsimp only
  split <;> simp

@[simp] theorem State.freeBody_twin (s : State) : (State.freeBody s).2.twin = s.twin := by
  simp [State.freeBody]

@[simp] theorem State.logTwin_twin (s : State) (a2 a3 : _) : (State.logTwin s a2 a3).twin = s.twin := by
  simp [State.logTwin]

@[simp] theorem State.syncLeft_twin (s : State) : (State.syncLeft s).twin = s.twin := by
  rfl

end Sys2Proof.Machine
end

section
/-! PROOFS. What the operations of the model leave of the host reads. -/

namespace Sys2Proof.Machine

@[simp] theorem hostReads_ite (c : Prop) [Decidable c] (s t : State) :
    (if c then s else t).hostReads = if c then s.hostReads else t.hostReads := apply_ite _ c s t

@[simp] theorem hostReads_foldl_snd {α β : Type} (f : β × State → α → β × State) (h : ∀ x a, (f x a).2.hostReads = x.2.hostReads)
    (l : List α) (x : β × State) : (l.foldl f x).2.hostReads = x.2.hostReads := by
  induction l generalizing x with
  | nil => rfl
  | cons a l ih => simp [List.foldl, ih, h]

@[simp] theorem State.setFld_hostReads (s : State) (a2 a3 a4 a5 : _) : (State.setFld s a2 a3 a4 a5).hostReads = s.hostReads := by
  simp [State.setFld]

@[simp] theorem State.incFld_hostReads (s : State) (a2 a3 a4 a5 : _) : (State.incFld s a2 a3 a4 a5).hostReads = s.hostReads := by
  simp [State.incFld]

@[simp] theorem State.satFld_hostReads (s : State) (a2 a3 a4 a5 : _) : (State.satFld s a2 a3 a4 a5).hostReads = s.hostReads := by
  simp [State.satFld]

@[simp] theorem State.fresh_hostReads (s : State) : (State.fresh s).2.hostReads = s.hostReads := by
  simp [State.fresh]

@[simp] theorem State.inBand_hostReads (s : State) (a2 : _) : (State.inBand s a2).hostReads = s.hostReads := by
  simp [State.inBand]

@[simp] theorem State.modPart_hostReads (s : State) (a2 a3 : _) : (State.modPart s a2 a3).hostReads = s.hostReads := by
  simp [State.modPart]

@[simp] theorem State.modChan_hostReads (s : State) (a2 a3 : _) : (State.modChan s a2 a3).hostReads = s.hostReads := by
  simp [State.modChan]

@[simp] theorem State.logModule_hostReads (s : State) (a2 : _) : (State.logModule s a2).hostReads = s.hostReads := by
  simp [State.logModule]

@[simp] theorem State.logAccess_hostReads (s : State) (a2 a3 a4 a5 : _) : (State.logAccess s a2 a3 a4 a5).hostReads = s.hostReads := by
  simp [State.logAccess]

@[simp] theorem State.logChan_hostReads (s : State) (a2 a3 a4 a5 a6 a7 : _) : (State.logChan s a2 a3 a4 a5 a6 a7).hostReads = s.hostReads := by
  simp [State.logChan]

@[simp] theorem State.toHost_hostReads (s : State) (a2 : _) : (State.toHost s a2).hostReads = s.hostReads := by
  unfold State.toHost
  (repeat' split) <;> simp

@[simp] theorem State.modDesc_hostReads (s : State) (a2 a3 a4 : _) : (State.modDesc s a2 a3 a4).hostReads = s.hostReads := by
  unfold State.modDesc
  split <;> simp

@[simp] theorem State.endDesc_hostReads (s : State) (a2 a3 a4 : _) : (State.endDesc s a2 a3 a4).hostReads = s.hostReads := by
  simp [State.endDesc]

@[simp] theorem State.moduleFail_hostReads (s : State) : (State.moduleFail s).hostReads = s.hostReads := by
  simp [State.moduleFail]

@[simp] theorem State.setErrors_hostReads (s : State) (a2 a3 : _) : (State.setErrors s a2 a3).hostReads = s.hostReads := by
  simp [State.setErrors]

@[simp] theorem State.freshLine_hostReads (s : State) : (State.freshLine s).2.hostReads = s.hostReads := by
  simp [State.freshLine]

@[simp] theorem State.peekLine_hostReads (s : State) (a2 : _) : (State.peekLine s a2).2.hostReads = s.hostReads := by
  simp [State.peekLine] <;> (repeat' split) <;> simp

@[simp] theorem State.spareBank_hostReads (s : State) (a2 a3 : _) : (State.spareBank s a2 a3).hostReads = s.hostReads := by
  simp [State.spareBank]

@[simp] theorem State.spareRow_hostReads (s : State) (a2 : _) : (State.spareRow s a2).hostReads = s.hostReads := by
  simp [State.spareRow]

@[simp] theorem State.rowError_hostReads (s : State) (a2 : _) : (State.rowError s a2).hostReads = s.hostReads := by
  simp [State.rowError]

@[simp] theorem State.readLine_hostReads (s : State) (a2 : _) : (State.readLine s a2).2.hostReads = s.hostReads := by
  simp [State.readLine] <;> (repeat' split) <;> simp

@[simp] theorem State.writeLine_hostReads (s : State) (a2 a3 : _) : (State.writeLine s a2 a3).hostReads = s.hostReads := by
  simp [State.writeLine]

@[simp] theorem State.performReq_hostReads (s : State) (a2 a3 : _) : (State.performReq s a2 a3).1.hostReads = s.hostReads := by
  simp [State.performReq] <;> (repeat' split) <;> simp

@[simp] theorem State.stall_hostReads (s : State) (a2 : _) : (State.stall s a2).hostReads = s.hostReads := by
  simp [State.stall]

@[simp] theorem State.direct_hostReads (s : State) (a2 a3 a4 a5 a6 : _) : (State.direct s a2 a3 a4 a5 a6).1.hostReads = s.hostReads := by
  simp [State.direct] <;> (repeat' split) <;> simp

@[simp] theorem State.syncLeft_hostReads (s : State) : (State.syncLeft s).hostReads = s.hostReads := by
  rfl

end Sys2Proof.Machine
end

section
/-! PROOFS. What the operations of the model leave of the host lines. -/

namespace Sys2Proof.Machine

@[simp] theorem hostLines_ite (c : Prop) [Decidable c] (s t : State) :
    (if c then s else t).hostLines = if c then s.hostLines else t.hostLines := apply_ite _ c s t

@[simp] theorem hostLines_foldl {α : Type} (f : State → α → State) (h : ∀ s a, (f s a).hostLines = s.hostLines) (l : List α) (s : State) :
    (l.foldl f s).hostLines = s.hostLines := by
  induction l generalizing s with
  | nil => rfl
  | cons a l ih => simp [List.foldl, ih, h]

@[simp] theorem hostLines_foldl_snd {α β : Type} (f : β × State → α → β × State) (h : ∀ x a, (f x a).2.hostLines = x.2.hostLines)
    (l : List α) (x : β × State) : (l.foldl f x).2.hostLines = x.2.hostLines := by
  induction l generalizing x with
  | nil => rfl
  | cons a l ih => simp [List.foldl, ih, h]

@[simp] theorem State.setFld_hostLines (s : State) (a2 a3 a4 a5 : _) : (State.setFld s a2 a3 a4 a5).hostLines = s.hostLines := by
  simp [State.setFld]

@[simp] theorem State.incFld_hostLines (s : State) (a2 a3 a4 a5 : _) : (State.incFld s a2 a3 a4 a5).hostLines = s.hostLines := by
  simp [State.incFld]

@[simp] theorem State.satFld_hostLines (s : State) (a2 a3 a4 a5 : _) : (State.satFld s a2 a3 a4 a5).hostLines = s.hostLines := by
  simp [State.satFld]

@[simp] theorem State.fresh_hostLines (s : State) : (State.fresh s).2.hostLines = s.hostLines := by
  simp [State.fresh]

@[simp] theorem State.inBand_hostLines (s : State) (a2 : _) : (State.inBand s a2).hostLines = s.hostLines := by
  simp [State.inBand]

@[simp] theorem State.modPart_hostLines (s : State) (a2 a3 : _) : (State.modPart s a2 a3).hostLines = s.hostLines := by
  simp [State.modPart]

@[simp] theorem State.modChan_hostLines (s : State) (a2 a3 : _) : (State.modChan s a2 a3).hostLines = s.hostLines := by
  simp [State.modChan]

@[simp] theorem State.modRing_hostLines (s : State) (a2 a3 : _) : (State.modRing s a2 a3).hostLines = s.hostLines := by
  simp [State.modRing]

@[simp] theorem State.logChan_hostLines (s : State) (a2 a3 a4 a5 a6 a7 : _) : (State.logChan s a2 a3 a4 a5 a6 a7).hostLines = s.hostLines := by
  simp [State.logChan]

@[simp] theorem State.countN_hostLines (s : State) (a2 a3 a4 : _) : (State.countN s a2 a3 a4).hostLines = s.hostLines := by
  unfold State.countN
  split <;> simp

@[simp] theorem State.count_hostLines (s : State) (a2 a3 : _) : (State.count s a2 a3).hostLines = s.hostLines := by
  simp [State.count]

@[simp] theorem State.toHost_hostLines (s : State) (a2 : _) : (State.toHost s a2).hostLines = s.hostLines := by
  unfold State.toHost
  (repeat' split) <;> simp

@[simp] theorem State.hostReadIn_hostLines (s : State) (a2 a3 a4 a5 a6 : _) : (State.hostReadIn s a2 a3 a4 a5 a6).2.hostLines = s.hostLines := by
  simp [State.hostReadIn]

@[simp] theorem State.hostRead_hostLines (s : State) (a2 a3 a4 a5 : _) : (State.hostRead s a2 a3 a4 a5).2.hostLines = s.hostLines := by
  simp [State.hostRead]

@[simp] theorem State.issueRead_hostLines (s : State) (a2 : _) : (State.issueRead s a2).hostLines = s.hostLines := by
  simp [State.issueRead]

@[simp] theorem State.issueReads_hostLines (s : State) : (State.issueReads s).hostLines = s.hostLines := by
  simp [State.issueReads]

@[simp] theorem State.moduleFail_hostLines (s : State) : (State.moduleFail s).hostLines = s.hostLines := by
  simp [State.moduleFail]

@[simp] theorem State.setErrors_hostLines (s : State) (a2 a3 : _) : (State.setErrors s a2 a3).hostLines = s.hostLines := by
  simp [State.setErrors]

@[simp] theorem State.freshLine_hostLines (s : State) : (State.freshLine s).2.hostLines = s.hostLines := by
  simp [State.freshLine]

@[simp] theorem State.peekLine_hostLines (s : State) (a2 : _) : (State.peekLine s a2).2.hostLines = s.hostLines := by
  simp [State.peekLine] <;> (repeat' split) <;> simp

@[simp] theorem State.spareBank_hostLines (s : State) (a2 a3 : _) : (State.spareBank s a2 a3).hostLines = s.hostLines := by
  simp [State.spareBank]

@[simp] theorem State.spareRow_hostLines (s : State) (a2 : _) : (State.spareRow s a2).hostLines = s.hostLines := by
  simp [State.spareRow]

@[simp] theorem State.rowError_hostLines (s : State) (a2 : _) : (State.rowError s a2).hostLines = s.hostLines := by
  simp [State.rowError]

@[simp] theorem State.readLine_hostLines (s : State) (a2 : _) : (State.readLine s a2).2.hostLines = s.hostLines := by
  simp [State.readLine] <;> (repeat' split) <;> simp

@[simp] theorem State.writeLine_hostLines (s : State) (a2 a3 : _) : (State.writeLine s a2 a3).hostLines = s.hostLines := by
  simp [State.writeLine]

@[simp] theorem State.performReq_hostLines (s : State) (a2 a3 : _) : (State.performReq s a2 a3).1.hostLines = s.hostLines := by
  simp [State.performReq] <;> (repeat' split) <;> simp

@[simp] theorem State.stall_hostLines (s : State) (a2 : _) : (State.stall s a2).hostLines = s.hostLines := by
  simp [State.stall]

@[simp] theorem State.direct_hostLines (s : State) (a2 a3 a4 a5 a6 : _) : (State.direct s a2 a3 a4 a5 a6).1.hostLines = s.hostLines := by
  simp [State.direct] <;> (repeat' split) <;> simp

@[simp] theorem State.statusLine_hostLines (s : State) (a2 : _) : (State.statusLine s a2).hostLines = s.hostLines := by
  simp [State.statusLine]

@[simp] theorem State.setRetired_hostLines (s : State) (a2 a3 : _) : (State.setRetired s a2 a3).hostLines = s.hostLines := by
  simp [State.setRetired]

@[simp] theorem State.retire_hostLines (s : State) (a2 a3 : _) : (State.retire s a2 a3).hostLines = s.hostLines := by
  simp [State.retire]

@[simp] theorem State.dropDesc_hostLines (s : State) (a2 a3 : _) : (State.dropDesc s a2 a3).hostLines = s.hostLines := by
  simp [State.dropDesc]

@[simp] theorem State.syncLeft_hostLines (s : State) : (State.syncLeft s).hostLines = s.hostLines := by
  rfl

end Sys2Proof.Machine
end

section
/-! PROOFS. What the operations of the model leave of the outbox. -/

namespace Sys2Proof.Machine

@[simp] theorem outbox_ite (c : Prop) [Decidable c] (s t : State) :
    (if c then s else t).outbox = if c then s.outbox else t.outbox := apply_ite _ c s t

@[simp] theorem outbox_foldl {α : Type} (f : State → α → State) (h : ∀ s a, (f s a).outbox = s.outbox) (l : List α) (s : State) :
    (l.foldl f s).outbox = s.outbox := by
  induction l generalizing s with
  | nil => rfl
  | cons a l ih => simp [List.foldl, ih, h]

@[simp] theorem State.setFld_outbox (s : State) (a2 a3 a4 a5 : _) : (State.setFld s a2 a3 a4 a5).outbox = s.outbox := by
  simp [State.setFld]

@[simp] theorem State.incFld_outbox (s : State) (a2 a3 a4 a5 : _) : (State.incFld s a2 a3 a4 a5).outbox = s.outbox := by
  simp [State.incFld]

@[simp] theorem State.satFld_outbox (s : State) (a2 a3 a4 a5 : _) : (State.satFld s a2 a3 a4 a5).outbox = s.outbox := by
  simp [State.satFld]

@[simp] theorem State.modPart_outbox (s : State) (a2 a3 : _) : (State.modPart s a2 a3).outbox = s.outbox := by
  simp [State.modPart]

@[simp] theorem State.modRing_outbox (s : State) (a2 a3 : _) : (State.modRing s a2 a3).outbox = s.outbox := by
  simp [State.modRing]

@[simp] theorem State.logPart_outbox (s : State) (a2 a3 : _) : (State.logPart s a2 a3).outbox = s.outbox := by
  simp [State.logPart]

@[simp] theorem State.logModule_outbox (s : State) (a2 : _) : (State.logModule s a2).outbox = s.outbox := by
  simp [State.logModule]

@[simp] theorem State.logAny_outbox (s : State) (a2 a3 : _) : (State.logAny s a2 a3).outbox = s.outbox := by
  unfold State.logAny
  split <;> simp

@[simp] theorem State.countN_outbox (s : State) (a2 a3 a4 : _) : (State.countN s a2 a3 a4).outbox = s.outbox := by
  unfold State.countN
  split <;> simp

@[simp] theorem State.count_outbox (s : State) (a2 a3 : _) : (State.count s a2 a3).outbox = s.outbox := by
  simp [State.count]

@[simp] theorem State.modDesc_outbox (s : State) (a2 a3 a4 : _) : (State.modDesc s a2 a3 a4).outbox = s.outbox := by
  unfold State.modDesc
  split <;> simp

@[simp] theorem State.endDesc_outbox (s : State) (a2 a3 a4 : _) : (State.endDesc s a2 a3 a4).outbox = s.outbox := by
  simp [State.endDesc]

@[simp] theorem State.issue_outbox (s : State) (a2 a3 a4 a5 a6 a7 a8 : _) : (State.issue s a2 a3 a4 a5 a6 a7 a8).2.outbox = s.outbox := by
  simp [State.issue]

@[simp] theorem State.setErrors_outbox (s : State) (a2 a3 : _) : (State.setErrors s a2 a3).outbox = s.outbox := by
  simp [State.setErrors]

@[simp] theorem State.logXlate_outbox (s : State) (a2 a3 a4 a5 a6 a7 a8 a9 : _) : (State.logXlate s a2 a3 a4 a5 a6 a7 a8 a9).outbox = s.outbox := by
  simp [State.logXlate]

@[simp] theorem State.dropDesc_outbox (s : State) (a2 a3 : _) : (State.dropDesc s a2 a3).outbox = s.outbox := by
  simp [State.dropDesc]

@[simp] theorem State.closeAbort_outbox (s : State) (a2 : _) : (State.closeAbort s a2).outbox = s.outbox := by
  simp [State.closeAbort]

@[simp] theorem State.modHc_outbox (s : State) (a2 a3 : _) : (State.modHc s a2 a3).outbox = s.outbox := by
  simp [State.modHc]

@[simp] theorem State.hcXlateFail_outbox (s : State) (a2 a3 a4 a5 a6 a7 : _) : (State.hcXlateFail s a2 a3 a4 a5 a6 a7).outbox = s.outbox := by
  simp [State.hcXlateFail]

@[simp] theorem State.hcWalkRead_outbox (s : State) (a2 a3 a4 a5 : _) : (State.hcWalkRead s a2 a3 a4 a5).outbox = s.outbox := by
  simp [State.hcWalkRead]

@[simp] theorem State.hcTranslate_outbox (s : State) (a2 a3 a4 a5 a6 : _) : (State.hcTranslate s a2 a3 a4 a5 a6).1.outbox = s.outbox := by
  unfold State.hcTranslate
  dsimp only
  (repeat' split) <;> simp

@[simp] theorem State.hcEnd_outbox (s : State) (a2 a3 : _) : (State.hcEnd s a2 a3).outbox = s.outbox := by
  simp [State.hcEnd]

@[simp] theorem State.logIngress_outbox (s : State) (a2 : _) : (State.logIngress s a2).outbox = s.outbox := by
  simp [State.logIngress]

@[simp] theorem State.syncLeft_outbox (s : State) : (State.syncLeft s).outbox = s.outbox := by
  rfl

end Sys2Proof.Machine
end

section
/-! PROOFS. What the operations of the model leave of the held output. -/

namespace Sys2Proof.Machine

@[simp] theorem heldOut_ite (c : Prop) [Decidable c] (s t : State) :
    (if c then s else t).heldOut = if c then s.heldOut else t.heldOut := apply_ite _ c s t

@[simp] theorem heldOut_foldl_snd {α β : Type} (f : β × State → α → β × State) (h : ∀ x a, (f x a).2.heldOut = x.2.heldOut)
    (l : List α) (x : β × State) : (l.foldl f x).2.heldOut = x.2.heldOut := by
  induction l generalizing x with
  | nil => rfl
  | cons a l ih => simp [List.foldl, ih, h]

@[simp] theorem State.setFld_heldOut (s : State) (a2 a3 a4 a5 : _) : (State.setFld s a2 a3 a4 a5).heldOut = s.heldOut := by
  simp [State.setFld]

@[simp] theorem State.incFld_heldOut (s : State) (a2 a3 a4 a5 : _) : (State.incFld s a2 a3 a4 a5).heldOut = s.heldOut := by
  simp [State.incFld]

@[simp] theorem State.satFld_heldOut (s : State) (a2 a3 a4 a5 : _) : (State.satFld s a2 a3 a4 a5).heldOut = s.heldOut := by
  simp [State.satFld]

@[simp] theorem State.fresh_heldOut (s : State) : (State.fresh s).2.heldOut = s.heldOut := by
  simp [State.fresh]

@[simp] theorem State.inBand_heldOut (s : State) (a2 : _) : (State.inBand s a2).heldOut = s.heldOut := by
  simp [State.inBand]

@[simp] theorem State.modPart_heldOut (s : State) (a2 a3 : _) : (State.modPart s a2 a3).heldOut = s.heldOut := by
  simp [State.modPart]

@[simp] theorem State.modChan_heldOut (s : State) (a2 a3 : _) : (State.modChan s a2 a3).heldOut = s.heldOut := by
  simp [State.modChan]

@[simp] theorem State.logChan_heldOut (s : State) (a2 a3 a4 a5 a6 a7 : _) : (State.logChan s a2 a3 a4 a5 a6 a7).heldOut = s.heldOut := by
  simp [State.logChan]

@[simp] theorem State.moduleFail_heldOut (s : State) : (State.moduleFail s).heldOut = s.heldOut := by
  simp [State.moduleFail]

@[simp] theorem State.setErrors_heldOut (s : State) (a2 a3 : _) : (State.setErrors s a2 a3).heldOut = s.heldOut := by
  simp [State.setErrors]

@[simp] theorem State.freshLine_heldOut (s : State) : (State.freshLine s).2.heldOut = s.heldOut := by
  simp [State.freshLine]

@[simp] theorem State.peekLine_heldOut (s : State) (a2 : _) : (State.peekLine s a2).2.heldOut = s.heldOut := by
  simp [State.peekLine] <;> (repeat' split) <;> simp

@[simp] theorem State.spareBank_heldOut (s : State) (a2 a3 : _) : (State.spareBank s a2 a3).heldOut = s.heldOut := by
  simp [State.spareBank]

@[simp] theorem State.spareRow_heldOut (s : State) (a2 : _) : (State.spareRow s a2).heldOut = s.heldOut := by
  simp [State.spareRow]

@[simp] theorem State.rowError_heldOut (s : State) (a2 : _) : (State.rowError s a2).heldOut = s.heldOut := by
  simp [State.rowError]

@[simp] theorem State.readLine_heldOut (s : State) (a2 : _) : (State.readLine s a2).2.heldOut = s.heldOut := by
  simp [State.readLine] <;> (repeat' split) <;> simp

@[simp] theorem State.writeLine_heldOut (s : State) (a2 a3 : _) : (State.writeLine s a2 a3).heldOut = s.heldOut := by
  simp [State.writeLine]

@[simp] theorem State.performReq_heldOut (s : State) (a2 a3 : _) : (State.performReq s a2 a3).1.heldOut = s.heldOut := by
  simp [State.performReq] <;> (repeat' split) <;> simp

@[simp] theorem State.stall_heldOut (s : State) (a2 : _) : (State.stall s a2).heldOut = s.heldOut := by
  simp [State.stall]

@[simp] theorem State.direct_heldOut (s : State) (a2 a3 a4 a5 a6 : _) : (State.direct s a2 a3 a4 a5 a6).1.heldOut = s.heldOut := by
  simp [State.direct] <;> (repeat' split) <;> simp

@[simp] theorem State.syncLeft_heldOut (s : State) : (State.syncLeft s).heldOut = s.heldOut := by
  rfl

end Sys2Proof.Machine
end

section
/-! PROOFS. What the operations of the model leave of the accesses in flight. -/

namespace Sys2Proof.Machine

@[simp] theorem inFlight_ite (c : Prop) [Decidable c] (s t : State) :
    (if c then s else t).inFlight = if c then s.inFlight else t.inFlight := apply_ite _ c s t

@[simp] theorem inFlight_foldl {α : Type} (f : State → α → State) (h : ∀ s a, (f s a).inFlight = s.inFlight) (l : List α) (s : State) :
    (l.foldl f s).inFlight = s.inFlight := by
  induction l generalizing s with
  | nil => rfl
  | cons a l ih => simp [List.foldl, ih, h]

@[simp] theorem inFlight_foldl_snd {α β : Type} (f : β × State → α → β × State) (h : ∀ x a, (f x a).2.inFlight = x.2.inFlight)
    (l : List α) (x : β × State) : (l.foldl f x).2.inFlight = x.2.inFlight := by
  induction l generalizing x with
  | nil => rfl
  | cons a l ih => simp [List.foldl, ih, h]

@[simp] theorem State.setFld_inFlight (s : State) (a2 a3 a4 a5 : _) : (State.setFld s a2 a3 a4 a5).inFlight = s.inFlight := by
  simp [State.setFld]

@[simp] theorem State.incFld_inFlight (s : State) (a2 a3 a4 a5 : _) : (State.incFld s a2 a3 a4 a5).inFlight = s.inFlight := by
  simp [State.incFld]

@[simp] theorem State.satFld_inFlight (s : State) (a2 a3 a4 a5 : _) : (State.satFld s a2 a3 a4 a5).inFlight = s.inFlight := by
  simp [State.satFld]

@[simp] theorem State.fresh_inFlight (s : State) : (State.fresh s).2.inFlight = s.inFlight := by
  simp [State.fresh]

@[simp] theorem State.inBand_inFlight (s : State) (a2 : _) : (State.inBand s a2).inFlight = s.inFlight := by
  simp [State.inBand]

@[simp] theorem State.modPart_inFlight (s : State) (a2 a3 : _) : (State.modPart s a2 a3).inFlight = s.inFlight := by
  simp [State.modPart]

@[simp] theorem State.modChan_inFlight (s : State) (a2 a3 : _) : (State.modChan s a2 a3).inFlight = s.inFlight := by
  simp [State.modChan]

@[simp] theorem State.logModule_inFlight (s : State) (a2 : _) : (State.logModule s a2).inFlight = s.inFlight := by
  simp [State.logModule]

@[simp] theorem State.logChan_inFlight (s : State) (a2 a3 a4 a5 a6 a7 : _) : (State.logChan s a2 a3 a4 a5 a6 a7).inFlight = s.inFlight := by
  simp [State.logChan]

@[simp] theorem State.modDesc_inFlight (s : State) (a2 a3 a4 : _) : (State.modDesc s a2 a3 a4).inFlight = s.inFlight := by
  unfold State.modDesc
  split <;> simp

@[simp] theorem State.endDesc_inFlight (s : State) (a2 a3 a4 : _) : (State.endDesc s a2 a3 a4).inFlight = s.inFlight := by
  simp [State.endDesc]

@[simp] theorem State.moduleFail_inFlight (s : State) : (State.moduleFail s).inFlight = s.inFlight := by
  simp [State.moduleFail]

@[simp] theorem State.setErrors_inFlight (s : State) (a2 a3 : _) : (State.setErrors s a2 a3).inFlight = s.inFlight := by
  simp [State.setErrors]

@[simp] theorem State.freshLine_inFlight (s : State) : (State.freshLine s).2.inFlight = s.inFlight := by
  simp [State.freshLine]

@[simp] theorem State.peekLine_inFlight (s : State) (a2 : _) : (State.peekLine s a2).2.inFlight = s.inFlight := by
  simp [State.peekLine] <;> (repeat' split) <;> simp

@[simp] theorem State.spareBank_inFlight (s : State) (a2 a3 : _) : (State.spareBank s a2 a3).inFlight = s.inFlight := by
  simp [State.spareBank]

@[simp] theorem State.spareRow_inFlight (s : State) (a2 : _) : (State.spareRow s a2).inFlight = s.inFlight := by
  simp [State.spareRow]

@[simp] theorem State.rowError_inFlight (s : State) (a2 : _) : (State.rowError s a2).inFlight = s.inFlight := by
  simp [State.rowError]

@[simp] theorem State.readLine_inFlight (s : State) (a2 : _) : (State.readLine s a2).2.inFlight = s.inFlight := by
  simp [State.readLine] <;> (repeat' split) <;> simp

@[simp] theorem State.writeLine_inFlight (s : State) (a2 a3 : _) : (State.writeLine s a2 a3).inFlight = s.inFlight := by
  simp [State.writeLine]

@[simp] theorem State.performReq_inFlight (s : State) (a2 a3 : _) : (State.performReq s a2 a3).1.inFlight = s.inFlight := by
  simp [State.performReq] <;> (repeat' split) <;> simp

@[simp] theorem State.stall_inFlight (s : State) (a2 : _) : (State.stall s a2).inFlight = s.inFlight := by
  simp [State.stall]

@[simp] theorem State.direct_inFlight (s : State) (a2 a3 a4 a5 a6 : _) : (State.direct s a2 a3 a4 a5 a6).1.inFlight = s.inFlight := by
  simp [State.direct] <;> (repeat' split) <;> simp

@[simp] theorem State.settleIngress_inFlight (s : State) : (State.settleIngress s).inFlight = s.inFlight := by
  simp [State.settleIngress]

@[simp] theorem State.logIngress_inFlight (s : State) (a2 : _) : (State.logIngress s a2).inFlight = s.inFlight := by
  simp [State.logIngress]

@[simp] theorem State.syncLeft_inFlight (s : State) : (State.syncLeft s).inFlight = s.inFlight := by
  rfl

end Sys2Proof.Machine
end

section
/-! PROOFS. What the operations of the model leave of the responses. -/

namespace Sys2Proof.Machine

@[simp] theorem responses_ite (c : Prop) [Decidable c] (s t : State) :
    (if c then s else t).responses = if c then s.responses else t.responses := apply_ite _ c s t

@[simp] theorem responses_foldl_snd {α β : Type} (f : β × State → α → β × State) (h : ∀ x a, (f x a).2.responses = x.2.responses)
    (l : List α) (x : β × State) : (l.foldl f x).2.responses = x.2.responses := by
  induction l generalizing x with
  | nil => rfl
  | cons a l ih => simp [List.foldl, ih, h]

@[simp] theorem State.setFld_responses (s : State) (a2 a3 a4 a5 : _) : (State.setFld s a2 a3 a4 a5).responses = s.responses := by
  simp [State.setFld]

@[simp] theorem State.incFld_responses (s : State) (a2 a3 a4 a5 : _) : (State.incFld s a2 a3 a4 a5).responses = s.responses := by
  simp [State.incFld]

@[simp] theorem State.satFld_responses (s : State) (a2 a3 a4 a5 : _) : (State.satFld s a2 a3 a4 a5).responses = s.responses := by
  simp [State.satFld]

@[simp] theorem State.fresh_responses (s : State) : (State.fresh s).2.responses = s.responses := by
  simp [State.fresh]

@[simp] theorem State.inBand_responses (s : State) (a2 : _) : (State.inBand s a2).responses = s.responses := by
  simp [State.inBand]

@[simp] theorem State.modPart_responses (s : State) (a2 a3 : _) : (State.modPart s a2 a3).responses = s.responses := by
  simp [State.modPart]

@[simp] theorem State.modChan_responses (s : State) (a2 a3 : _) : (State.modChan s a2 a3).responses = s.responses := by
  simp [State.modChan]

@[simp] theorem State.logChan_responses (s : State) (a2 a3 a4 a5 a6 a7 : _) : (State.logChan s a2 a3 a4 a5 a6 a7).responses = s.responses := by
  simp [State.logChan]

@[simp] theorem State.moduleFail_responses (s : State) : (State.moduleFail s).responses = s.responses := by
  simp [State.moduleFail]

@[simp] theorem State.setErrors_responses (s : State) (a2 a3 : _) : (State.setErrors s a2 a3).responses = s.responses := by
  simp [State.setErrors]

@[simp] theorem State.freshLine_responses (s : State) : (State.freshLine s).2.responses = s.responses := by
  simp [State.freshLine]

@[simp] theorem State.peekLine_responses (s : State) (a2 : _) : (State.peekLine s a2).2.responses = s.responses := by
  simp [State.peekLine] <;> (repeat' split) <;> simp

@[simp] theorem State.spareBank_responses (s : State) (a2 a3 : _) : (State.spareBank s a2 a3).responses = s.responses := by
  simp [State.spareBank]

@[simp] theorem State.spareRow_responses (s : State) (a2 : _) : (State.spareRow s a2).responses = s.responses := by
  simp [State.spareRow]

@[simp] theorem State.rowError_responses (s : State) (a2 : _) : (State.rowError s a2).responses = s.responses := by
  simp [State.rowError]

@[simp] theorem State.readLine_responses (s : State) (a2 : _) : (State.readLine s a2).2.responses = s.responses := by
  simp [State.readLine] <;> (repeat' split) <;> simp

@[simp] theorem State.writeLine_responses (s : State) (a2 a3 : _) : (State.writeLine s a2 a3).responses = s.responses := by
  simp [State.writeLine]

@[simp] theorem State.performReq_responses (s : State) (a2 a3 : _) : (State.performReq s a2 a3).1.responses = s.responses := by
  simp [State.performReq] <;> (repeat' split) <;> simp

@[simp] theorem State.stall_responses (s : State) (a2 : _) : (State.stall s a2).responses = s.responses := by
  simp [State.stall]

@[simp] theorem State.direct_responses (s : State) (a2 a3 a4 a5 a6 : _) : (State.direct s a2 a3 a4 a5 a6).1.responses = s.responses := by
  simp [State.direct] <;> (repeat' split) <;> simp

@[simp] theorem State.syncLeft_responses (s : State) : (State.syncLeft s).responses = s.responses := by
  rfl

end Sys2Proof.Machine
end

section
/-! PROOFS. What the operations of the model leave of the power. -/

namespace Sys2Proof.Machine

@[simp] theorem power_ite (c : Prop) [Decidable c] (s t : State) :
    (if c then s else t).power = if c then s.power else t.power := apply_ite _ c s t

@[simp] theorem power_foldl {α : Type} (f : State → α → State) (h : ∀ s a, (f s a).power = s.power) (l : List α) (s : State) :
    (l.foldl f s).power = s.power := by
  induction l generalizing s with
  | nil => rfl
  | cons a l ih => simp [List.foldl, ih, h]

@[simp] theorem power_foldl_snd {α β : Type} (f : β × State → α → β × State) (h : ∀ x a, (f x a).2.power = x.2.power)
    (l : List α) (x : β × State) : (l.foldl f x).2.power = x.2.power := by
  induction l generalizing x with
  | nil => rfl
  | cons a l ih => simp [List.foldl, ih, h]

@[simp] theorem State.setFld_power (s : State) (a2 a3 a4 a5 : _) : (State.setFld s a2 a3 a4 a5).power = s.power := by
  simp [State.setFld]

@[simp] theorem State.incFld_power (s : State) (a2 a3 a4 a5 : _) : (State.incFld s a2 a3 a4 a5).power = s.power := by
  simp [State.incFld]

@[simp] theorem State.satFld_power (s : State) (a2 a3 a4 a5 : _) : (State.satFld s a2 a3 a4 a5).power = s.power := by
  simp [State.satFld]

@[simp] theorem State.fresh_power (s : State) : (State.fresh s).2.power = s.power := by
  simp [State.fresh]

@[simp] theorem State.inBand_power (s : State) (a2 : _) : (State.inBand s a2).power = s.power := by
  simp [State.inBand]

@[simp] theorem State.modPart_power (s : State) (a2 a3 : _) : (State.modPart s a2 a3).power = s.power := by
  simp [State.modPart]

@[simp] theorem State.modChan_power (s : State) (a2 a3 : _) : (State.modChan s a2 a3).power = s.power := by
  simp [State.modChan]

@[simp] theorem State.logChan_power (s : State) (a2 a3 a4 a5 a6 a7 : _) : (State.logChan s a2 a3 a4 a5 a6 a7).power = s.power := by
  simp [State.logChan]

@[simp] theorem State.toHost_power (s : State) (a2 : _) : (State.toHost s a2).power = s.power := by
  unfold State.toHost
  (repeat' split) <;> simp

@[simp] theorem State.hostReadIn_power (s : State) (a2 a3 a4 a5 a6 : _) : (State.hostReadIn s a2 a3 a4 a5 a6).2.power = s.power := by
  simp [State.hostReadIn]

@[simp] theorem State.hostRead_power (s : State) (a2 a3 a4 a5 : _) : (State.hostRead s a2 a3 a4 a5).2.power = s.power := by
  simp [State.hostRead]

@[simp] theorem State.pumpFlush_power (s : State) (a2 : _) : (State.pumpFlush s a2).power = s.power := by
  unfold State.pumpFlush
  (repeat' split) <;> simp

@[simp] theorem State.eventLine_power (s : State) (a2 a3 a4 a5 a6 : _) : (State.eventLine s a2 a3 a4 a5 a6).power = s.power := by
  simp [State.eventLine]

@[simp] theorem State.raise_power (s : State) (a2 a3 a4 a5 : _) : (State.raise s a2 a3 a4 a5).power = s.power := by
  simp [State.raise]

@[simp] theorem State.moduleFail_power (s : State) : (State.moduleFail s).power = s.power := by
  simp [State.moduleFail]

@[simp] theorem State.setErrors_power (s : State) (a2 a3 : _) : (State.setErrors s a2 a3).power = s.power := by
  simp [State.setErrors]

@[simp] theorem State.freshLine_power (s : State) : (State.freshLine s).2.power = s.power := by
  simp [State.freshLine]

@[simp] theorem State.peekLine_power (s : State) (a2 : _) : (State.peekLine s a2).2.power = s.power := by
  simp [State.peekLine] <;> (repeat' split) <;> simp

@[simp] theorem State.spareBank_power (s : State) (a2 a3 : _) : (State.spareBank s a2 a3).power = s.power := by
  simp [State.spareBank]

@[simp] theorem State.spareRow_power (s : State) (a2 : _) : (State.spareRow s a2).power = s.power := by
  simp [State.spareRow]

@[simp] theorem State.rowError_power (s : State) (a2 : _) : (State.rowError s a2).power = s.power := by
  simp [State.rowError]

@[simp] theorem State.readLine_power (s : State) (a2 : _) : (State.readLine s a2).2.power = s.power := by
  simp [State.readLine] <;> (repeat' split) <;> simp

@[simp] theorem State.writeLine_power (s : State) (a2 a3 : _) : (State.writeLine s a2 a3).power = s.power := by
  simp [State.writeLine]

@[simp] theorem State.performReq_power (s : State) (a2 a3 : _) : (State.performReq s a2 a3).1.power = s.power := by
  simp [State.performReq] <;> (repeat' split) <;> simp

@[simp] theorem State.stall_power (s : State) (a2 : _) : (State.stall s a2).power = s.power := by
  simp [State.stall]

@[simp] theorem State.direct_power (s : State) (a2 a3 a4 a5 a6 : _) : (State.direct s a2 a3 a4 a5 a6).1.power = s.power := by
  simp [State.direct] <;> (repeat' split) <;> simp

@[simp] theorem State.syncLeft_power (s : State) : (State.syncLeft s).power = s.power := by
  rfl

@[simp] theorem State.warn_power (s : State) : (State.warn s).power = s.power := by
  simp [State.warn]

end Sys2Proof.Machine
end

section
/-! PROOFS. What the operations of the model leave of the saved contexts. -/

namespace Sys2Proof.Machine

@[simp] theorem saved_ite (c : Prop) [Decidable c] (s t : State) :
    (if c then s else t).saved = if c then s.saved else t.saved := apply_ite _ c s t

@[simp] theorem saved_foldl {α : Type} (f : State → α → State) (h : ∀ s a, (f s a).saved = s.saved) (l : List α) (s : State) :
    (l.foldl f s).saved = s.saved := by
  induction l generalizing s with
  | nil => rfl
  | cons a l ih => simp [List.foldl, ih, h]

@[simp] theorem saved_foldl_fst {α β : Type} (f : State × β → α → State × β) (h : ∀ x a, (f x a).1.saved = x.1.saved)
    (l : List α) (x : State × β) : (l.foldl f x).1.saved = x.1.saved := by
  induction l generalizing x with
  | nil => rfl
  | cons a l ih => simp [List.foldl, ih, h]

@[simp] theorem saved_foldl_snd {α β : Type} (f : β × State → α → β × State) (h : ∀ x a, (f x a).2.saved = x.2.saved)
    (l : List α) (x : β × State) : (l.foldl f x).2.saved = x.2.saved := by
  induction l generalizing x with
  | nil => rfl
  | cons a l ih => simp [List.foldl, ih, h]

@[simp] theorem State.setFld_saved (s : State) (a2 a3 a4 a5 : _) : (State.setFld s a2 a3 a4 a5).saved = s.saved := by
  simp [State.setFld]

@[simp] theorem State.incFld_saved (s : State) (a2 a3 a4 a5 : _) : (State.incFld s a2 a3 a4 a5).saved = s.saved := by
  simp [State.incFld]

@[simp] theorem State.satFld_saved (s : State) (a2 a3 a4 a5 : _) : (State.satFld s a2 a3 a4 a5).saved = s.saved := by
  simp [State.satFld]

@[simp] theorem State.fresh_saved (s : State) : (State.fresh s).2.saved = s.saved := by
  simp [State.fresh]

@[simp] theorem State.inBand_saved (s : State) (a2 : _) : (State.inBand s a2).saved = s.saved := by
  simp [State.inBand]

@[simp] theorem State.modCore_saved (s : State) (a2 a3 : _) : (State.modCore s a2 a3).saved = s.saved := by
  simp [State.modCore]

@[simp] theorem State.modPart_saved (s : State) (a2 a3 : _) : (State.modPart s a2 a3).saved = s.saved := by
  simp [State.modPart]

@[simp] theorem State.modChan_saved (s : State) (a2 a3 : _) : (State.modChan s a2 a3).saved = s.saved := by
  simp [State.modChan]

@[simp] theorem State.modLink_saved (s : State) (a2 a3 : _) : (State.modLink s a2 a3).saved = s.saved := by
  simp [State.modLink]

@[simp] theorem State.logChan_saved (s : State) (a2 a3 a4 a5 a6 a7 : _) : (State.logChan s a2 a3 a4 a5 a6 a7).saved = s.saved := by
  simp [State.logChan]

@[simp] theorem State.modDesc_saved (s : State) (a2 a3 a4 : _) : (State.modDesc s a2 a3 a4).saved = s.saved := by
  unfold State.modDesc
  split <;> simp

@[simp] theorem State.endDesc_saved (s : State) (a2 a3 a4 : _) : (State.endDesc s a2 a3 a4).saved = s.saved := by
  simp [State.endDesc]

@[simp] theorem State.sendFrame_saved (s : State) (a2 a3 a4 : _) : (State.sendFrame s a2 a3 a4).saved = s.saved := by
  simp [State.sendFrame]

@[simp] theorem State.pumpLink_saved (s : State) (a2 a3 : _) : (State.pumpLink s a2 a3).saved = s.saved := by
  induction a3 generalizing s with
  | zero => simp [State.pumpLink]
  | succ n ih =>
    unfold State.pumpLink
    dsimp only
    (repeat' split) <;> simp [ih]

@[simp] theorem State.transmit_saved (s : State) (a2 a3 : _) : (State.transmit s a2 a3).saved = s.saved := by
  simp [State.transmit]

@[simp] theorem State.route_saved (s : State) (a2 a3 a4 : _) : (State.route s a2 a3 a4).saved = s.saved := by
  simp [State.route] <;> (repeat' split) <;> simp

@[simp] theorem State.respond_saved (s : State) (a2 a3 a4 a5 a6 : _) : (State.respond s a2 a3 a4 a5 a6).saved = s.saved := by
  simp [State.respond]

@[simp] theorem State.respondTor_saved (s : State) (a2 a3 a4 : _) : (State.respondTor s a2 a3 a4).saved = s.saved := by
  simp [State.respondTor]

@[simp] theorem State.request_saved (s : State) (a2 a3 a4 a5 a6 a7 a8 a9 a10 : _) : (State.request s a2 a3 a4 a5 a6 a7 a8 a9 a10).2.saved = s.saved := by
  simp [State.request]

@[simp] theorem State.moduleFail_saved (s : State) : (State.moduleFail s).saved = s.saved := by
  simp [State.moduleFail]

@[simp] theorem State.setErrors_saved (s : State) (a2 a3 : _) : (State.setErrors s a2 a3).saved = s.saved := by
  simp [State.setErrors]

@[simp] theorem State.freshLine_saved (s : State) : (State.freshLine s).2.saved = s.saved := by
  simp [State.freshLine]

@[simp] theorem State.peekLine_saved (s : State) (a2 : _) : (State.peekLine s a2).2.saved = s.saved := by
  simp [State.peekLine] <;> (repeat' split) <;> simp

@[simp] theorem State.spareBank_saved (s : State) (a2 a3 : _) : (State.spareBank s a2 a3).saved = s.saved := by
  simp [State.spareBank]

@[simp] theorem State.spareRow_saved (s : State) (a2 : _) : (State.spareRow s a2).saved = s.saved := by
  simp [State.spareRow]

@[simp] theorem State.rowError_saved (s : State) (a2 : _) : (State.rowError s a2).saved = s.saved := by
  simp [State.rowError]

@[simp] theorem State.readLine_saved (s : State) (a2 : _) : (State.readLine s a2).2.saved = s.saved := by
  simp [State.readLine] <;> (repeat' split) <;> simp

@[simp] theorem State.writeLine_saved (s : State) (a2 a3 : _) : (State.writeLine s a2 a3).saved = s.saved := by
  simp [State.writeLine]

@[simp] theorem State.performReq_saved (s : State) (a2 a3 : _) : (State.performReq s a2 a3).1.saved = s.saved := by
  simp [State.performReq] <;> (repeat' split) <;> simp

@[simp] theorem State.touched_saved (s : State) (a2 : _) : (State.touched s a2).saved = s.saved := by
  unfold State.touched
  split <;> simp

@[simp] theorem State.modEng_saved (s : State) (a2 a3 a4 : _) : (State.modEng s a2 a3 a4).saved = s.saved := by
  simp [State.modEng]

@[simp] theorem State.release_saved (s : State) (a2 a3 : _) : (State.release s a2 a3).saved = s.saved := by
  unfold State.release
  split <;> simp

@[simp] theorem State.releaseAll_saved (s : State) (a2 a3 : _) : (State.releaseAll s a2 a3).saved = s.saved := by
  simp [State.releaseAll]

@[simp] theorem State.serveTally_saved (s : State) (a2 : _) : (State.serveTally s a2).saved = s.saved := by
  simp [State.serveTally]

@[simp] theorem State.serveTallies_saved (s : State) : (State.serveTallies s).saved = s.saved := by
  simp [State.serveTallies]

@[simp] theorem State.stall_saved (s : State) (a2 : _) : (State.stall s a2).saved = s.saved := by
  simp [State.stall]

@[simp] theorem State.arrange_saved (s : State) (a2 : _) : (State.arrange s a2).saved = s.saved := by
  unfold State.arrange
  split <;> simp

@[simp] theorem State.direct_saved (s : State) (a2 a3 a4 a5 a6 : _) : (State.direct s a2 a3 a4 a5 a6).1.saved = s.saved := by
  simp [State.direct] <;> (repeat' split) <;> simp

@[simp] theorem State.writeFree_saved (s : State) (a2 a3 a4 : _) : (State.writeFree s a2 a3 a4).1.saved = s.saved := by
  unfold State.writeFree
  refine saved_foldl_fst _ ?_ _ _
  intro x a
  dsimp only
  split
  · rfl
  · simp

@[simp] theorem State.zeroBell_saved (s : State) (a2 : _) : (State.zeroBell s a2).saved = s.saved := by
  simp [State.zeroBell]

@[simp] theorem State.zeroObjects_saved (s : State) (a2 a3 : _) : (State.zeroObjects s a2 a3).saved = s.saved := by
  unfold State.zeroObjects
  dsimp only
  split
  · rfl
  · simp only [State.touched_saved, State.serveTallies_saved]
    rw [saved_foldl _ (by intros; simp), saved_foldl _ (by intros; simp), saved_foldl _ (by intros; simp)]

@[simp] theorem State.syncLeft_saved (s : State) : (State.syncLeft s).saved = s.saved := by
  rfl

end Sys2Proof.Machine
end

section
/-! PROOFS. What the operations of the model leave of the host carts. -/

namespace Sys2Proof.Machine

@[simp] theorem hostCarts_ite (c : Prop) [Decidable c] (s t : State) :
    (if c then s else t).hostCarts = if c then s.hostCarts else t.hostCarts := apply_ite _ c s t

@[simp] theorem hostCarts_foldl_snd {α β : Type} (f : β × State → α → β × State) (h : ∀ x a, (f x a).2.hostCarts = x.2.hostCarts)
    (l : List α) (x : β × State) : (l.foldl f x).2.hostCarts = x.2.hostCarts := by
  induction l generalizing x with
  | nil => rfl
  | cons a l ih => simp [List.foldl, ih, h]

@[simp] theorem State.setFld_hostCarts (s : State) (a2 a3 a4 a5 : _) : (State.setFld s a2 a3 a4 a5).hostCarts = s.hostCarts := by
  simp [State.setFld]

@[simp] theorem State.incFld_hostCarts (s : State) (a2 a3 a4 a5 : _) : (State.incFld s a2 a3 a4 a5).hostCarts = s.hostCarts := by
  simp [State.incFld]

@[simp] theorem State.satFld_hostCarts (s : State) (a2 a3 a4 a5 : _) : (State.satFld s a2 a3 a4 a5).hostCarts = s.hostCarts := by
  simp [State.satFld]

@[simp] theorem State.fresh_hostCarts (s : State) : (State.fresh s).2.hostCarts = s.hostCarts := by
  simp [State.fresh]

@[simp] theorem State.inBand_hostCarts (s : State) (a2 : _) : (State.inBand s a2).hostCarts = s.hostCarts := by
  simp [State.inBand]

@[simp] theorem State.modPart_hostCarts (s : State) (a2 a3 : _) : (State.modPart s a2 a3).hostCarts = s.hostCarts := by
  simp [State.modPart]

@[simp] theorem State.modChan_hostCarts (s : State) (a2 a3 : _) : (State.modChan s a2 a3).hostCarts = s.hostCarts := by
  simp [State.modChan]

@[simp] theorem State.logChan_hostCarts (s : State) (a2 a3 a4 a5 a6 a7 : _) : (State.logChan s a2 a3 a4 a5 a6 a7).hostCarts = s.hostCarts := by
  simp [State.logChan]

@[simp] theorem State.modDesc_hostCarts (s : State) (a2 a3 a4 : _) : (State.modDesc s a2 a3 a4).hostCarts = s.hostCarts := by
  unfold State.modDesc
  split <;> simp

@[simp] theorem State.moduleFail_hostCarts (s : State) : (State.moduleFail s).hostCarts = s.hostCarts := by
  simp [State.moduleFail]

@[simp] theorem State.setErrors_hostCarts (s : State) (a2 a3 : _) : (State.setErrors s a2 a3).hostCarts = s.hostCarts := by
  simp [State.setErrors]

@[simp] theorem State.freshLine_hostCarts (s : State) : (State.freshLine s).2.hostCarts = s.hostCarts := by
  simp [State.freshLine]

@[simp] theorem State.peekLine_hostCarts (s : State) (a2 : _) : (State.peekLine s a2).2.hostCarts = s.hostCarts := by
  simp [State.peekLine] <;> (repeat' split) <;> simp

@[simp] theorem State.spareBank_hostCarts (s : State) (a2 a3 : _) : (State.spareBank s a2 a3).hostCarts = s.hostCarts := by
  simp [State.spareBank]

@[simp] theorem State.spareRow_hostCarts (s : State) (a2 : _) : (State.spareRow s a2).hostCarts = s.hostCarts := by
  simp [State.spareRow]

@[simp] theorem State.rowError_hostCarts (s : State) (a2 : _) : (State.rowError s a2).hostCarts = s.hostCarts := by
  simp [State.rowError]

@[simp] theorem State.readLine_hostCarts (s : State) (a2 : _) : (State.readLine s a2).2.hostCarts = s.hostCarts := by
  simp [State.readLine] <;> (repeat' split) <;> simp

@[simp] theorem State.writeLine_hostCarts (s : State) (a2 a3 : _) : (State.writeLine s a2 a3).hostCarts = s.hostCarts := by
  simp [State.writeLine]

@[simp] theorem State.performReq_hostCarts (s : State) (a2 a3 : _) : (State.performReq s a2 a3).1.hostCarts = s.hostCarts := by
  simp [State.performReq] <;> (repeat' split) <;> simp

@[simp] theorem State.stall_hostCarts (s : State) (a2 : _) : (State.stall s a2).hostCarts = s.hostCarts := by
  simp [State.stall]

@[simp] theorem State.direct_hostCarts (s : State) (a2 a3 a4 a5 a6 : _) : (State.direct s a2 a3 a4 a5 a6).1.hostCarts = s.hostCarts := by
  simp [State.direct] <;> (repeat' split) <;> simp

@[simp] theorem State.running__hostCarts (s : State) (a2 a3 : _) : (State.running_ s a2 a3).hostCarts = s.hostCarts := by
  simp [State.running_]

@[simp] theorem State.syncLeft_hostCarts (s : State) : (State.syncLeft s).hostCarts = s.hostCarts := by
  rfl

end Sys2Proof.Machine
end

section
/-! PROOFS. What the operations of the model leave of the ingress writes. -/

namespace Sys2Proof.Machine

@[simp] theorem ingress_ite (c : Prop) [Decidable c] (s t : State) :
    (if c then s else t).ingress = if c then s.ingress else t.ingress := apply_ite _ c s t

@[simp] theorem ingress_foldl {α : Type} (f : State → α → State) (h : ∀ s a, (f s a).ingress = s.ingress) (l : List α) (s : State) :
    (l.foldl f s).ingress = s.ingress := by
  induction l generalizing s with
  | nil => rfl
  | cons a l ih => simp [List.foldl, ih, h]

@[simp] theorem ingress_foldl_snd {α β : Type} (f : β × State → α → β × State) (h : ∀ x a, (f x a).2.ingress = x.2.ingress)
    (l : List α) (x : β × State) : (l.foldl f x).2.ingress = x.2.ingress := by
  induction l generalizing x with
  | nil => rfl
  | cons a l ih => simp [List.foldl, ih, h]

@[simp] theorem State.setFld_ingress (s : State) (a2 a3 a4 a5 : _) : (State.setFld s a2 a3 a4 a5).ingress = s.ingress := by
  simp [State.setFld]

@[simp] theorem State.incFld_ingress (s : State) (a2 a3 a4 a5 : _) : (State.incFld s a2 a3 a4 a5).ingress = s.ingress := by
  simp [State.incFld]

@[simp] theorem State.satFld_ingress (s : State) (a2 a3 a4 a5 : _) : (State.satFld s a2 a3 a4 a5).ingress = s.ingress := by
  simp [State.satFld]

@[simp] theorem State.fresh_ingress (s : State) : (State.fresh s).2.ingress = s.ingress := by
  simp [State.fresh]

@[simp] theorem State.inBand_ingress (s : State) (a2 : _) : (State.inBand s a2).ingress = s.ingress := by
  simp [State.inBand]

@[simp] theorem State.modPart_ingress (s : State) (a2 a3 : _) : (State.modPart s a2 a3).ingress = s.ingress := by
  simp [State.modPart]

@[simp] theorem State.modChan_ingress (s : State) (a2 a3 : _) : (State.modChan s a2 a3).ingress = s.ingress := by
  simp [State.modChan]

@[simp] theorem State.logModule_ingress (s : State) (a2 : _) : (State.logModule s a2).ingress = s.ingress := by
  simp [State.logModule]

@[simp] theorem State.logChan_ingress (s : State) (a2 a3 a4 a5 a6 a7 : _) : (State.logChan s a2 a3 a4 a5 a6 a7).ingress = s.ingress := by
  simp [State.logChan]

@[simp] theorem State.modDesc_ingress (s : State) (a2 a3 a4 : _) : (State.modDesc s a2 a3 a4).ingress = s.ingress := by
  unfold State.modDesc
  split <;> simp

@[simp] theorem State.endDesc_ingress (s : State) (a2 a3 a4 : _) : (State.endDesc s a2 a3 a4).ingress = s.ingress := by
  simp [State.endDesc]

@[simp] theorem State.moduleFail_ingress (s : State) : (State.moduleFail s).ingress = s.ingress := by
  simp [State.moduleFail]

@[simp] theorem State.setErrors_ingress (s : State) (a2 a3 : _) : (State.setErrors s a2 a3).ingress = s.ingress := by
  simp [State.setErrors]

@[simp] theorem State.freshLine_ingress (s : State) : (State.freshLine s).2.ingress = s.ingress := by
  simp [State.freshLine]

@[simp] theorem State.peekLine_ingress (s : State) (a2 : _) : (State.peekLine s a2).2.ingress = s.ingress := by
  simp [State.peekLine] <;> (repeat' split) <;> simp

@[simp] theorem State.spareBank_ingress (s : State) (a2 a3 : _) : (State.spareBank s a2 a3).ingress = s.ingress := by
  simp [State.spareBank]

@[simp] theorem State.spareRow_ingress (s : State) (a2 : _) : (State.spareRow s a2).ingress = s.ingress := by
  simp [State.spareRow]

@[simp] theorem State.rowError_ingress (s : State) (a2 : _) : (State.rowError s a2).ingress = s.ingress := by
  simp [State.rowError]

@[simp] theorem State.readLine_ingress (s : State) (a2 : _) : (State.readLine s a2).2.ingress = s.ingress := by
  simp [State.readLine] <;> (repeat' split) <;> simp

@[simp] theorem State.writeLine_ingress (s : State) (a2 a3 : _) : (State.writeLine s a2 a3).ingress = s.ingress := by
  simp [State.writeLine]

@[simp] theorem State.performReq_ingress (s : State) (a2 a3 : _) : (State.performReq s a2 a3).1.ingress = s.ingress := by
  simp [State.performReq] <;> (repeat' split) <;> simp

@[simp] theorem State.stall_ingress (s : State) (a2 : _) : (State.stall s a2).ingress = s.ingress := by
  simp [State.stall]

@[simp] theorem State.direct_ingress (s : State) (a2 a3 a4 a5 a6 : _) : (State.direct s a2 a3 a4 a5 a6).1.ingress = s.ingress := by
  simp [State.direct] <;> (repeat' split) <;> simp

@[simp] theorem State.settleIngress_ingress (s : State) : (State.settleIngress s).ingress = s.ingress := by
  simp [State.settleIngress]

@[simp] theorem State.logIngress_ingress (s : State) (a2 : _) : (State.logIngress s a2).ingress = s.ingress := by
  simp [State.logIngress]

@[simp] theorem State.syncLeft_ingress (s : State) : (State.syncLeft s).ingress = s.ingress := by
  rfl

end Sys2Proof.Machine
end

section
/-! PROOFS. What the operations of the model leave of the boot state. -/

namespace Sys2Proof.Machine

@[simp] theorem boot_ite (c : Prop) [Decidable c] (s t : State) :
    (if c then s else t).boot = if c then s.boot else t.boot := apply_ite _ c s t

@[simp] theorem boot_foldl {α : Type} (f : State → α → State) (h : ∀ s a, (f s a).boot = s.boot) (l : List α) (s : State) :
    (l.foldl f s).boot = s.boot := by
  induction l generalizing s with
  | nil => rfl
  | cons a l ih => simp [List.foldl, ih, h]

@[simp] theorem boot_foldl_snd {α β : Type} (f : β × State → α → β × State) (h : ∀ x a, (f x a).2.boot = x.2.boot)
    (l : List α) (x : β × State) : (l.foldl f x).2.boot = x.2.boot := by
  induction l generalizing x with
  | nil => rfl
  | cons a l ih => simp [List.foldl, ih, h]

@[simp] theorem State.setFld_boot (s : State) (a2 a3 a4 a5 : _) : (State.setFld s a2 a3 a4 a5).boot = s.boot := by
  simp [State.setFld]

@[simp] theorem State.incFld_boot (s : State) (a2 a3 a4 a5 : _) : (State.incFld s a2 a3 a4 a5).boot = s.boot := by
  simp [State.incFld]

@[simp] theorem State.satFld_boot (s : State) (a2 a3 a4 a5 : _) : (State.satFld s a2 a3 a4 a5).boot = s.boot := by
  simp [State.satFld]

@[simp] theorem State.fresh_boot (s : State) : (State.fresh s).2.boot = s.boot := by
  simp [State.fresh]

@[simp] theorem State.inBand_boot (s : State) (a2 : _) : (State.inBand s a2).boot = s.boot := by
  simp [State.inBand]

@[simp] theorem State.modChan_boot (s : State) (a2 a3 : _) : (State.modChan s a2 a3).boot = s.boot := by
  simp [State.modChan]

@[simp] theorem State.logChan_boot (s : State) (a2 a3 a4 a5 a6 a7 : _) : (State.logChan s a2 a3 a4 a5 a6 a7).boot = s.boot := by
  simp [State.logChan]

@[simp] theorem State.moduleFail_boot (s : State) : (State.moduleFail s).boot = s.boot := by
  simp [State.moduleFail]

@[simp] theorem State.setErrors_boot (s : State) (a2 a3 : _) : (State.setErrors s a2 a3).boot = s.boot := by
  simp [State.setErrors]

@[simp] theorem State.freshLine_boot (s : State) : (State.freshLine s).2.boot = s.boot := by
  simp [State.freshLine]

@[simp] theorem State.peekLine_boot (s : State) (a2 : _) : (State.peekLine s a2).2.boot = s.boot := by
  simp [State.peekLine] <;> (repeat' split) <;> simp

@[simp] theorem State.spareBank_boot (s : State) (a2 a3 : _) : (State.spareBank s a2 a3).boot = s.boot := by
  simp [State.spareBank]

@[simp] theorem State.spareRow_boot (s : State) (a2 : _) : (State.spareRow s a2).boot = s.boot := by
  simp [State.spareRow]

@[simp] theorem State.rowError_boot (s : State) (a2 : _) : (State.rowError s a2).boot = s.boot := by
  simp [State.rowError]

@[simp] theorem State.readLine_boot (s : State) (a2 : _) : (State.readLine s a2).2.boot = s.boot := by
  simp [State.readLine] <;> (repeat' split) <;> simp

@[simp] theorem State.writeLine_boot (s : State) (a2 a3 : _) : (State.writeLine s a2 a3).boot = s.boot := by
  simp [State.writeLine]

@[simp] theorem State.performReq_boot (s : State) (a2 a3 : _) : (State.performReq s a2 a3).1.boot = s.boot := by
  simp [State.performReq] <;> (repeat' split) <;> simp

@[simp] theorem State.enableChan_boot (s : State) (a2 : _) : (State.enableChan s a2).boot = s.boot := by
  simp [State.enableChan]

@[simp] theorem State.stall_boot (s : State) (a2 : _) : (State.stall s a2).boot = s.boot := by
  simp [State.stall]

@[simp] theorem State.direct_boot (s : State) (a2 a3 a4 a5 a6 : _) : (State.direct s a2 a3 a4 a5 a6).1.boot = s.boot := by
  simp [State.direct] <;> (repeat' split) <;> simp

@[simp] theorem State.syncLeft_boot (s : State) : (State.syncLeft s).boot = s.boot := by
  rfl

@[simp] theorem State.bootChan_boot (s : State) (a2 : _) : (State.bootChan s a2).boot = s.boot := by
  simp [State.bootChan]

end Sys2Proof.Machine
end

section
/-! PROOFS. What the operations of the model leave of the management bus. -/

namespace Sys2Proof.Machine

@[simp] theorem i3c_ite (c : Prop) [Decidable c] (s t : State) :
    (if c then s else t).i3c = if c then s.i3c else t.i3c := apply_ite _ c s t

@[simp] theorem i3c_foldl_snd {α β : Type} (f : β × State → α → β × State) (h : ∀ x a, (f x a).2.i3c = x.2.i3c)
    (l : List α) (x : β × State) : (l.foldl f x).2.i3c = x.2.i3c := by
  induction l generalizing x with
  | nil => rfl
  | cons a l ih => simp [List.foldl, ih, h]

@[simp] theorem State.setFld_i3c (s : State) (a2 a3 a4 a5 : _) : (State.setFld s a2 a3 a4 a5).i3c = s.i3c := by
  simp [State.setFld]

@[simp] theorem State.incFld_i3c (s : State) (a2 a3 a4 a5 : _) : (State.incFld s a2 a3 a4 a5).i3c = s.i3c := by
  simp [State.incFld]

@[simp] theorem State.satFld_i3c (s : State) (a2 a3 a4 a5 : _) : (State.satFld s a2 a3 a4 a5).i3c = s.i3c := by
  simp [State.satFld]

@[simp] theorem State.fresh_i3c (s : State) : (State.fresh s).2.i3c = s.i3c := by
  simp [State.fresh]

@[simp] theorem State.inBand_i3c (s : State) (a2 : _) : (State.inBand s a2).i3c = s.i3c := by
  simp [State.inBand]

@[simp] theorem State.modChan_i3c (s : State) (a2 a3 : _) : (State.modChan s a2 a3).i3c = s.i3c := by
  simp [State.modChan]

@[simp] theorem State.logModule_i3c (s : State) (a2 : _) : (State.logModule s a2).i3c = s.i3c := by
  simp [State.logModule]

@[simp] theorem State.logChan_i3c (s : State) (a2 a3 a4 a5 a6 a7 : _) : (State.logChan s a2 a3 a4 a5 a6 a7).i3c = s.i3c := by
  simp [State.logChan]

@[simp] theorem State.moduleFail_i3c (s : State) : (State.moduleFail s).i3c = s.i3c := by
  simp [State.moduleFail]

@[simp] theorem State.setErrors_i3c (s : State) (a2 a3 : _) : (State.setErrors s a2 a3).i3c = s.i3c := by
  simp [State.setErrors]

@[simp] theorem State.freshLine_i3c (s : State) : (State.freshLine s).2.i3c = s.i3c := by
  simp [State.freshLine]

@[simp] theorem State.peekLine_i3c (s : State) (a2 : _) : (State.peekLine s a2).2.i3c = s.i3c := by
  simp [State.peekLine] <;> (repeat' split) <;> simp

@[simp] theorem State.spareBank_i3c (s : State) (a2 a3 : _) : (State.spareBank s a2 a3).i3c = s.i3c := by
  simp [State.spareBank]

@[simp] theorem State.spareRow_i3c (s : State) (a2 : _) : (State.spareRow s a2).i3c = s.i3c := by
  simp [State.spareRow]

@[simp] theorem State.rowError_i3c (s : State) (a2 : _) : (State.rowError s a2).i3c = s.i3c := by
  simp [State.rowError]

@[simp] theorem State.readLine_i3c (s : State) (a2 : _) : (State.readLine s a2).2.i3c = s.i3c := by
  simp [State.readLine] <;> (repeat' split) <;> simp

@[simp] theorem State.writeLine_i3c (s : State) (a2 a3 : _) : (State.writeLine s a2 a3).i3c = s.i3c := by
  simp [State.writeLine]

@[simp] theorem State.performReq_i3c (s : State) (a2 a3 : _) : (State.performReq s a2 a3).1.i3c = s.i3c := by
  simp [State.performReq] <;> (repeat' split) <;> simp

@[simp] theorem State.stall_i3c (s : State) (a2 : _) : (State.stall s a2).i3c = s.i3c := by
  simp [State.stall]

@[simp] theorem State.direct_i3c (s : State) (a2 a3 a4 a5 a6 : _) : (State.direct s a2 a3 a4 a5 a6).1.i3c = s.i3c := by
  simp [State.direct] <;> (repeat' split) <;> simp

@[simp] theorem State.syncLeft_i3c (s : State) : (State.syncLeft s).i3c = s.i3c := by
  rfl

end Sys2Proof.Machine
end

section
/-! PROOFS. What the operations of the model leave of the line errors. -/

namespace Sys2Proof.Machine

@[simp] theorem lineErr_ite (c : Prop) [Decidable c] (s t : State) :
    (if c then s else t).lineErr = if c then s.lineErr else t.lineErr := apply_ite _ c s t

@[simp] theorem State.setFld_lineErr (s : State) (a2 a3 a4 a5 : _) : (State.setFld s a2 a3 a4 a5).lineErr = s.lineErr := by
  simp [State.setFld]

@[simp] theorem State.inBand_lineErr (s : State) (a2 : _) : (State.inBand s a2).lineErr = s.lineErr := by
  simp [State.inBand]

@[simp] theorem State.syncLeft_lineErr (s : State) : (State.syncLeft s).lineErr = s.lineErr := by
  rfl

end Sys2Proof.Machine
end

section
/-! PROOFS. What the operations of the model leave of the tallies. -/

namespace Sys2Proof.Machine

@[simp] theorem tallies_ite (c : Prop) [Decidable c] (s t : State) :
    (if c then s else t).tallies = if c then s.tallies else t.tallies := apply_ite _ c s t

@[simp] theorem tallies_foldl {α : Type} (f : State → α → State) (h : ∀ s a, (f s a).tallies = s.tallies) (l : List α) (s : State) :
    (l.foldl f s).tallies = s.tallies := by
  induction l generalizing s with
  | nil => rfl
  | cons a l ih => simp [List.foldl, ih, h]

@[simp] theorem tallies_foldl_snd {α β : Type} (f : β × State → α → β × State) (h : ∀ x a, (f x a).2.tallies = x.2.tallies)
    (l : List α) (x : β × State) : (l.foldl f x).2.tallies = x.2.tallies := by
  induction l generalizing x with
  | nil => rfl
  | cons a l ih => simp [List.foldl, ih, h]

@[simp] theorem State.setFld_tallies (s : State) (a2 a3 a4 a5 : _) : (State.setFld s a2 a3 a4 a5).tallies = s.tallies := by
  simp [State.setFld]

@[simp] theorem State.incFld_tallies (s : State) (a2 a3 a4 a5 : _) : (State.incFld s a2 a3 a4 a5).tallies = s.tallies := by
  simp [State.incFld]

@[simp] theorem State.satFld_tallies (s : State) (a2 a3 a4 a5 : _) : (State.satFld s a2 a3 a4 a5).tallies = s.tallies := by
  simp [State.satFld]

@[simp] theorem State.fresh_tallies (s : State) : (State.fresh s).2.tallies = s.tallies := by
  simp [State.fresh]

@[simp] theorem State.inBand_tallies (s : State) (a2 : _) : (State.inBand s a2).tallies = s.tallies := by
  simp [State.inBand]

@[simp] theorem State.modCore_tallies (s : State) (a2 a3 : _) : (State.modCore s a2 a3).tallies = s.tallies := by
  simp [State.modCore]

@[simp] theorem State.modPart_tallies (s : State) (a2 a3 : _) : (State.modPart s a2 a3).tallies = s.tallies := by
  simp [State.modPart]

@[simp] theorem State.modChan_tallies (s : State) (a2 a3 : _) : (State.modChan s a2 a3).tallies = s.tallies := by
  simp [State.modChan]

@[simp] theorem State.modLink_tallies (s : State) (a2 a3 : _) : (State.modLink s a2 a3).tallies = s.tallies := by
  simp [State.modLink]

@[simp] theorem State.logChan_tallies (s : State) (a2 a3 a4 a5 a6 a7 : _) : (State.logChan s a2 a3 a4 a5 a6 a7).tallies = s.tallies := by
  simp [State.logChan]

@[simp] theorem State.countN_tallies (s : State) (a2 a3 a4 : _) : (State.countN s a2 a3 a4).tallies = s.tallies := by
  unfold State.countN
  split <;> simp

@[simp] theorem State.sendFrame_tallies (s : State) (a2 a3 a4 : _) : (State.sendFrame s a2 a3 a4).tallies = s.tallies := by
  simp [State.sendFrame]

@[simp] theorem State.pumpLink_tallies (s : State) (a2 a3 : _) : (State.pumpLink s a2 a3).tallies = s.tallies := by
  induction a3 generalizing s with
  | zero => simp [State.pumpLink]
  | succ n ih =>
    unfold State.pumpLink
    dsimp only
    (repeat' split) <;> simp [ih]

@[simp] theorem State.transmit_tallies (s : State) (a2 a3 : _) : (State.transmit s a2 a3).tallies = s.tallies := by
  simp [State.transmit]

@[simp] theorem State.route_tallies (s : State) (a2 a3 a4 : _) : (State.route s a2 a3 a4).tallies = s.tallies := by
  simp [State.route] <;> (repeat' split) <;> simp

@[simp] theorem State.request_tallies (s : State) (a2 a3 a4 a5 a6 a7 a8 a9 a10 : _) : (State.request s a2 a3 a4 a5 a6 a7 a8 a9 a10).2.tallies = s.tallies := by
  simp [State.request]

@[simp] theorem State.sendTwin_tallies (s : State) (a2 a3 a4 : _) : (State.sendTwin s a2 a3 a4).tallies = s.tallies := by
  simp [State.sendTwin]

@[simp] theorem State.sendTwinOne_tallies (s : State) (a2 a3 : _) : (State.sendTwinOne s a2 a3).tallies = s.tallies := by
  unfold State.sendTwinOne
  split <;> simp

@[simp] theorem State.moduleFail_tallies (s : State) : (State.moduleFail s).tallies = s.tallies := by
  simp [State.moduleFail]

@[simp] theorem State.setErrors_tallies (s : State) (a2 a3 : _) : (State.setErrors s a2 a3).tallies = s.tallies := by
  simp [State.setErrors]

@[simp] theorem State.freshLine_tallies (s : State) : (State.freshLine s).2.tallies = s.tallies := by
  simp [State.freshLine]

@[simp] theorem State.peekLine_tallies (s : State) (a2 : _) : (State.peekLine s a2).2.tallies = s.tallies := by
  simp [State.peekLine] <;> (repeat' split) <;> simp

@[simp] theorem State.spareBank_tallies (s : State) (a2 a3 : _) : (State.spareBank s a2 a3).tallies = s.tallies := by
  simp [State.spareBank]

@[simp] theorem State.spareRow_tallies (s : State) (a2 : _) : (State.spareRow s a2).tallies = s.tallies := by
  simp [State.spareRow]

@[simp] theorem State.rowError_tallies (s : State) (a2 : _) : (State.rowError s a2).tallies = s.tallies := by
  simp [State.rowError]

@[simp] theorem State.readLine_tallies (s : State) (a2 : _) : (State.readLine s a2).2.tallies = s.tallies := by
  simp [State.readLine] <;> (repeat' split) <;> simp

@[simp] theorem State.writeLine_tallies (s : State) (a2 a3 : _) : (State.writeLine s a2 a3).tallies = s.tallies := by
  simp [State.writeLine]

@[simp] theorem State.performReq_tallies (s : State) (a2 a3 : _) : (State.performReq s a2 a3).1.tallies = s.tallies := by
  simp [State.performReq] <;> (repeat' split) <;> simp

@[simp] theorem State.modEng_tallies (s : State) (a2 a3 a4 : _) : (State.modEng s a2 a3 a4).tallies = s.tallies := by
  simp [State.modEng]

@[simp] theorem State.workDone_tallies (s : State) (a2 a3 : _) : (State.workDone s a2 a3).tallies = s.tallies := by
  simp [State.workDone]

@[simp] theorem State.engineCycle_tallies (s : State) (a2 a3 : _) : (State.engineCycle s a2 a3).tallies = s.tallies := by
  simp [State.engineCycle] <;> (repeat' split) <;> simp

@[simp] theorem State.engineTick_tallies (s : State) : (State.engineTick s).tallies = s.tallies := by
  unfold State.engineTick
  refine tallies_foldl _ ?_ _ _
  intro s a
  split
  · exact tallies_foldl _ (by intros; simp) _ _
  · rfl

@[simp] theorem State.stall_tallies (s : State) (a2 : _) : (State.stall s a2).tallies = s.tallies := by
  simp [State.stall]

@[simp] theorem State.arrange_tallies (s : State) (a2 : _) : (State.arrange s a2).tallies = s.tallies := by
  unfold State.arrange
  split <;> simp

@[simp] theorem State.settle_tallies (s t : State) (h : t.tallies = s.tallies) : (s.settle t).tallies = s.tallies := by
  unfold State.settle
  split
  · exact h
  · exact tallies_foldl _ (fun s a => State.arrange_tallies s a) _ _

@[simp] theorem State.direct_tallies (s : State) (a2 a3 a4 a5 a6 : _) : (State.direct s a2 a3 a4 a5 a6).1.tallies = s.tallies := by
  simp [State.direct] <;> (repeat' split) <;> simp

@[simp] theorem State.freeBody_tallies (s : State) : (State.freeBody s).2.tallies = s.tallies := by
  simp [State.freeBody]

@[simp] theorem State.watch_tallies (s : State) (a2 : _) : (State.watch s a2).tallies = s.tallies := by
  simp [State.watch]

@[simp] theorem State.syncLeft_tallies (s : State) : (State.syncLeft s).tallies = s.tallies := by
  rfl

@[simp] theorem State.resyncStep_tallies (s : State) : (State.resyncStep s).tallies = s.tallies := by
  simp [State.resyncStep] <;> (repeat' split) <;> simp

@[simp] theorem State.countModes_tallies (s : State) (a2 : _) : (State.countModes s a2).tallies = s.tallies := by
  simp [State.countModes]

@[simp] theorem State.tickPart_tallies (s : State) (a2 : _) : (State.tickPart s a2).tallies = s.tallies := by
  simp [State.tickPart]

@[simp] theorem State.fabricTick_tallies (s : State) : (State.fabricTick s).tallies = s.tallies := by
  unfold State.fabricTick
  dsimp only
  have h : ∀ (l : List Nat), (l.foldl (fun u n => if h : n < 32 then u.tickPart ⟨n, h⟩ else u) s).tallies = s.tallies :=
    fun l => tallies_foldl _ (by intro s a; split <;> simp) l s
  split <;> simp [h]

@[simp] theorem State.tick_tallies (s : State) : (State.tick s).tallies = s.tallies := by
  unfold State.tick
  split
  · rfl
  · dsimp only
    (repeat' split) <;> simp

end Sys2Proof.Machine
end

section
/-! PROOFS. What the operations of the model leave of the bells. -/

namespace Sys2Proof.Machine

@[simp] theorem bells_ite (c : Prop) [Decidable c] (s t : State) :
    (if c then s else t).bells = if c then s.bells else t.bells := apply_ite _ c s t

@[simp] theorem bells_foldl {α : Type} (f : State → α → State) (h : ∀ s a, (f s a).bells = s.bells) (l : List α) (s : State) :
    (l.foldl f s).bells = s.bells := by
  induction l generalizing s with
  | nil => rfl
  | cons a l ih => simp [List.foldl, ih, h]

@[simp] theorem bells_foldl_snd {α β : Type} (f : β × State → α → β × State) (h : ∀ x a, (f x a).2.bells = x.2.bells)
    (l : List α) (x : β × State) : (l.foldl f x).2.bells = x.2.bells := by
  induction l generalizing x with
  | nil => rfl
  | cons a l ih => simp [List.foldl, ih, h]

@[simp] theorem State.setFld_bells (s : State) (a2 a3 a4 a5 : _) : (State.setFld s a2 a3 a4 a5).bells = s.bells := by
  simp [State.setFld]

@[simp] theorem State.incFld_bells (s : State) (a2 a3 a4 a5 : _) : (State.incFld s a2 a3 a4 a5).bells = s.bells := by
  simp [State.incFld]

@[simp] theorem State.satFld_bells (s : State) (a2 a3 a4 a5 : _) : (State.satFld s a2 a3 a4 a5).bells = s.bells := by
  simp [State.satFld]

@[simp] theorem State.fresh_bells (s : State) : (State.fresh s).2.bells = s.bells := by
  simp [State.fresh]

@[simp] theorem State.inBand_bells (s : State) (a2 : _) : (State.inBand s a2).bells = s.bells := by
  simp [State.inBand]

@[simp] theorem State.modCore_bells (s : State) (a2 a3 : _) : (State.modCore s a2 a3).bells = s.bells := by
  simp [State.modCore]

@[simp] theorem State.modPart_bells (s : State) (a2 a3 : _) : (State.modPart s a2 a3).bells = s.bells := by
  simp [State.modPart]

@[simp] theorem State.modChan_bells (s : State) (a2 a3 : _) : (State.modChan s a2 a3).bells = s.bells := by
  simp [State.modChan]

@[simp] theorem State.modLink_bells (s : State) (a2 a3 : _) : (State.modLink s a2 a3).bells = s.bells := by
  simp [State.modLink]

@[simp] theorem State.logChan_bells (s : State) (a2 a3 a4 a5 a6 a7 : _) : (State.logChan s a2 a3 a4 a5 a6 a7).bells = s.bells := by
  simp [State.logChan]

@[simp] theorem State.countN_bells (s : State) (a2 a3 a4 : _) : (State.countN s a2 a3 a4).bells = s.bells := by
  unfold State.countN
  split <;> simp

@[simp] theorem State.sendFrame_bells (s : State) (a2 a3 a4 : _) : (State.sendFrame s a2 a3 a4).bells = s.bells := by
  simp [State.sendFrame]

@[simp] theorem State.pumpLink_bells (s : State) (a2 a3 : _) : (State.pumpLink s a2 a3).bells = s.bells := by
  induction a3 generalizing s with
  | zero => simp [State.pumpLink]
  | succ n ih =>
    unfold State.pumpLink
    dsimp only
    (repeat' split) <;> simp [ih]

@[simp] theorem State.transmit_bells (s : State) (a2 a3 : _) : (State.transmit s a2 a3).bells = s.bells := by
  simp [State.transmit]

@[simp] theorem State.route_bells (s : State) (a2 a3 a4 : _) : (State.route s a2 a3 a4).bells = s.bells := by
  simp [State.route] <;> (repeat' split) <;> simp

@[simp] theorem State.request_bells (s : State) (a2 a3 a4 a5 a6 a7 a8 a9 a10 : _) : (State.request s a2 a3 a4 a5 a6 a7 a8 a9 a10).2.bells = s.bells := by
  simp [State.request]

@[simp] theorem State.moduleFail_bells (s : State) : (State.moduleFail s).bells = s.bells := by
  simp [State.moduleFail]

@[simp] theorem State.setErrors_bells (s : State) (a2 a3 : _) : (State.setErrors s a2 a3).bells = s.bells := by
  simp [State.setErrors]

@[simp] theorem State.freshLine_bells (s : State) : (State.freshLine s).2.bells = s.bells := by
  simp [State.freshLine]

@[simp] theorem State.peekLine_bells (s : State) (a2 : _) : (State.peekLine s a2).2.bells = s.bells := by
  simp [State.peekLine] <;> (repeat' split) <;> simp

@[simp] theorem State.spareBank_bells (s : State) (a2 a3 : _) : (State.spareBank s a2 a3).bells = s.bells := by
  simp [State.spareBank]

@[simp] theorem State.spareRow_bells (s : State) (a2 : _) : (State.spareRow s a2).bells = s.bells := by
  simp [State.spareRow]

@[simp] theorem State.rowError_bells (s : State) (a2 : _) : (State.rowError s a2).bells = s.bells := by
  simp [State.rowError]

@[simp] theorem State.readLine_bells (s : State) (a2 : _) : (State.readLine s a2).2.bells = s.bells := by
  simp [State.readLine] <;> (repeat' split) <;> simp

@[simp] theorem State.writeLine_bells (s : State) (a2 a3 : _) : (State.writeLine s a2 a3).bells = s.bells := by
  simp [State.writeLine]

@[simp] theorem State.performReq_bells (s : State) (a2 a3 : _) : (State.performReq s a2 a3).1.bells = s.bells := by
  simp [State.performReq] <;> (repeat' split) <;> simp

@[simp] theorem State.modEng_bells (s : State) (a2 a3 a4 : _) : (State.modEng s a2 a3 a4).bells = s.bells := by
  simp [State.modEng]

@[simp] theorem State.workDone_bells (s : State) (a2 a3 : _) : (State.workDone s a2 a3).bells = s.bells := by
  simp [State.workDone]

@[simp] theorem State.engineCycle_bells (s : State) (a2 a3 : _) : (State.engineCycle s a2 a3).bells = s.bells := by
  simp [State.engineCycle] <;> (repeat' split) <;> simp

@[simp] theorem State.engineTick_bells (s : State) : (State.engineTick s).bells = s.bells := by
  unfold State.engineTick
  refine bells_foldl _ ?_ _ _
  intro s a
  split
  · exact bells_foldl _ (by intros; simp) _ _
  · rfl

@[simp] theorem State.stall_bells (s : State) (a2 : _) : (State.stall s a2).bells = s.bells := by
  simp [State.stall]

@[simp] theorem State.arrange_bells (s : State) (a2 : _) : (State.arrange s a2).bells = s.bells := by
  unfold State.arrange
  split <;> simp

@[simp] theorem State.settle_bells (s t : State) (h : t.bells = s.bells) : (s.settle t).bells = s.bells := by
  unfold State.settle
  split
  · exact h
  · exact bells_foldl _ (fun s a => State.arrange_bells s a) _ _

@[simp] theorem State.direct_bells (s : State) (a2 a3 a4 a5 a6 : _) : (State.direct s a2 a3 a4 a5 a6).1.bells = s.bells := by
  simp [State.direct] <;> (repeat' split) <;> simp

@[simp] theorem State.watch_bells (s : State) (a2 : _) : (State.watch s a2).bells = s.bells := by
  simp [State.watch]

@[simp] theorem State.syncLeft_bells (s : State) : (State.syncLeft s).bells = s.bells := by
  rfl

@[simp] theorem State.resyncStep_bells (s : State) : (State.resyncStep s).bells = s.bells := by
  simp [State.resyncStep] <;> (repeat' split) <;> simp

@[simp] theorem State.countModes_bells (s : State) (a2 : _) : (State.countModes s a2).bells = s.bells := by
  simp [State.countModes]

@[simp] theorem State.tickPart_bells (s : State) (a2 : _) : (State.tickPart s a2).bells = s.bells := by
  simp [State.tickPart]

@[simp] theorem State.fabricTick_bells (s : State) : (State.fabricTick s).bells = s.bells := by
  unfold State.fabricTick
  dsimp only
  have h : ∀ (l : List Nat), (l.foldl (fun u n => if h : n < 32 then u.tickPart ⟨n, h⟩ else u) s).bells = s.bells :=
    fun l => bells_foldl _ (by intro s a; split <;> simp) l s
  split <;> simp [h]

@[simp] theorem State.tick_bells (s : State) : (State.tick s).bells = s.bells := by
  unfold State.tick
  split
  · rfl
  · dsimp only
    (repeat' split) <;> simp

end Sys2Proof.Machine
end

section
/-! PROOFS. What the operations of the model leave of the jobs. -/

namespace Sys2Proof.Machine

@[simp] theorem jobs_ite (c : Prop) [Decidable c] (s t : State) :
    (if c then s else t).jobs = if c then s.jobs else t.jobs := apply_ite _ c s t

@[simp] theorem jobs_foldl_snd {α β : Type} (f : β × State → α → β × State) (h : ∀ x a, (f x a).2.jobs = x.2.jobs)
    (l : List α) (x : β × State) : (l.foldl f x).2.jobs = x.2.jobs := by
  induction l generalizing x with
  | nil => rfl
  | cons a l ih => simp [List.foldl, ih, h]

@[simp] theorem State.setFld_jobs (s : State) (a2 a3 a4 a5 : _) : (State.setFld s a2 a3 a4 a5).jobs = s.jobs := by
  simp [State.setFld]

@[simp] theorem State.incFld_jobs (s : State) (a2 a3 a4 a5 : _) : (State.incFld s a2 a3 a4 a5).jobs = s.jobs := by
  simp [State.incFld]

@[simp] theorem State.satFld_jobs (s : State) (a2 a3 a4 a5 : _) : (State.satFld s a2 a3 a4 a5).jobs = s.jobs := by
  simp [State.satFld]

@[simp] theorem State.fresh_jobs (s : State) : (State.fresh s).2.jobs = s.jobs := by
  simp [State.fresh]

@[simp] theorem State.inBand_jobs (s : State) (a2 : _) : (State.inBand s a2).jobs = s.jobs := by
  simp [State.inBand]

@[simp] theorem State.modChan_jobs (s : State) (a2 a3 : _) : (State.modChan s a2 a3).jobs = s.jobs := by
  simp [State.modChan]

@[simp] theorem State.logChan_jobs (s : State) (a2 a3 a4 a5 a6 a7 : _) : (State.logChan s a2 a3 a4 a5 a6 a7).jobs = s.jobs := by
  simp [State.logChan]

@[simp] theorem State.moduleFail_jobs (s : State) : (State.moduleFail s).jobs = s.jobs := by
  simp [State.moduleFail]

@[simp] theorem State.setErrors_jobs (s : State) (a2 a3 : _) : (State.setErrors s a2 a3).jobs = s.jobs := by
  simp [State.setErrors]

@[simp] theorem State.freshLine_jobs (s : State) : (State.freshLine s).2.jobs = s.jobs := by
  simp [State.freshLine]

@[simp] theorem State.peekLine_jobs (s : State) (a2 : _) : (State.peekLine s a2).2.jobs = s.jobs := by
  simp [State.peekLine] <;> (repeat' split) <;> simp

@[simp] theorem State.spareBank_jobs (s : State) (a2 a3 : _) : (State.spareBank s a2 a3).jobs = s.jobs := by
  simp [State.spareBank]

@[simp] theorem State.spareRow_jobs (s : State) (a2 : _) : (State.spareRow s a2).jobs = s.jobs := by
  simp [State.spareRow]

@[simp] theorem State.rowError_jobs (s : State) (a2 : _) : (State.rowError s a2).jobs = s.jobs := by
  simp [State.rowError]

@[simp] theorem State.readLine_jobs (s : State) (a2 : _) : (State.readLine s a2).2.jobs = s.jobs := by
  simp [State.readLine] <;> (repeat' split) <;> simp

@[simp] theorem State.writeLine_jobs (s : State) (a2 a3 : _) : (State.writeLine s a2 a3).jobs = s.jobs := by
  simp [State.writeLine]

@[simp] theorem State.performReq_jobs (s : State) (a2 a3 : _) : (State.performReq s a2 a3).1.jobs = s.jobs := by
  simp [State.performReq] <;> (repeat' split) <;> simp

@[simp] theorem State.stall_jobs (s : State) (a2 : _) : (State.stall s a2).jobs = s.jobs := by
  simp [State.stall]

@[simp] theorem State.direct_jobs (s : State) (a2 a3 a4 a5 a6 : _) : (State.direct s a2 a3 a4 a5 a6).1.jobs = s.jobs := by
  simp [State.direct] <;> (repeat' split) <;> simp

@[simp] theorem State.syncLeft_jobs (s : State) : (State.syncLeft s).jobs = s.jobs := by
  rfl

end Sys2Proof.Machine
end

section
/-! PROOFS. What the operations of the model leave of the channels. -/

namespace Sys2Proof.Machine

@[simp] theorem chans_ite (c : Prop) [Decidable c] (s t : State) :
    (if c then s else t).chans = if c then s.chans else t.chans := apply_ite _ c s t

@[simp] theorem State.setFld_chans (s : State) (a2 a3 a4 a5 : _) : (State.setFld s a2 a3 a4 a5).chans = s.chans := by
  simp [State.setFld]

@[simp] theorem State.inBand_chans (s : State) (a2 : _) : (State.inBand s a2).chans = s.chans := by
  simp [State.inBand]

@[simp] theorem State.setErrors_chans (s : State) (a2 a3 : _) : (State.setErrors s a2 a3).chans = s.chans := by
  simp [State.setErrors]

@[simp] theorem State.syncLeft_chans (s : State) : (State.syncLeft s).chans = s.chans := by
  rfl

end Sys2Proof.Machine
end

section
/-! PROOFS. What the operations of the model leave of the querns. -/

namespace Sys2Proof.Machine

@[simp] theorem querns_ite (c : Prop) [Decidable c] (s t : State) :
    (if c then s else t).querns = if c then s.querns else t.querns := apply_ite _ c s t

@[simp] theorem querns_foldl {α : Type} (f : State → α → State) (h : ∀ s a, (f s a).querns = s.querns) (l : List α) (s : State) :
    (l.foldl f s).querns = s.querns := by
  induction l generalizing s with
  | nil => rfl
  | cons a l ih => simp [List.foldl, ih, h]

@[simp] theorem querns_foldl_snd {α β : Type} (f : β × State → α → β × State) (h : ∀ x a, (f x a).2.querns = x.2.querns)
    (l : List α) (x : β × State) : (l.foldl f x).2.querns = x.2.querns := by
  induction l generalizing x with
  | nil => rfl
  | cons a l ih => simp [List.foldl, ih, h]

@[simp] theorem State.setFld_querns (s : State) (a2 a3 a4 a5 : _) : (State.setFld s a2 a3 a4 a5).querns = s.querns := by
  simp [State.setFld]

@[simp] theorem State.incFld_querns (s : State) (a2 a3 a4 a5 : _) : (State.incFld s a2 a3 a4 a5).querns = s.querns := by
  simp [State.incFld]

@[simp] theorem State.satFld_querns (s : State) (a2 a3 a4 a5 : _) : (State.satFld s a2 a3 a4 a5).querns = s.querns := by
  simp [State.satFld]

@[simp] theorem State.fresh_querns (s : State) : (State.fresh s).2.querns = s.querns := by
  simp [State.fresh]

@[simp] theorem State.inBand_querns (s : State) (a2 : _) : (State.inBand s a2).querns = s.querns := by
  simp [State.inBand]

@[simp] theorem State.modCore_querns (s : State) (a2 a3 : _) : (State.modCore s a2 a3).querns = s.querns := by
  simp [State.modCore]

@[simp] theorem State.modPart_querns (s : State) (a2 a3 : _) : (State.modPart s a2 a3).querns = s.querns := by
  simp [State.modPart]

@[simp] theorem State.modChan_querns (s : State) (a2 a3 : _) : (State.modChan s a2 a3).querns = s.querns := by
  simp [State.modChan]

@[simp] theorem State.modLink_querns (s : State) (a2 a3 : _) : (State.modLink s a2 a3).querns = s.querns := by
  simp [State.modLink]

@[simp] theorem State.logChan_querns (s : State) (a2 a3 a4 a5 a6 a7 : _) : (State.logChan s a2 a3 a4 a5 a6 a7).querns = s.querns := by
  simp [State.logChan]

@[simp] theorem State.countN_querns (s : State) (a2 a3 a4 : _) : (State.countN s a2 a3 a4).querns = s.querns := by
  unfold State.countN
  split <;> simp

@[simp] theorem State.sendFrame_querns (s : State) (a2 a3 a4 : _) : (State.sendFrame s a2 a3 a4).querns = s.querns := by
  simp [State.sendFrame]

@[simp] theorem State.pumpLink_querns (s : State) (a2 a3 : _) : (State.pumpLink s a2 a3).querns = s.querns := by
  induction a3 generalizing s with
  | zero => simp [State.pumpLink]
  | succ n ih =>
    unfold State.pumpLink
    dsimp only
    (repeat' split) <;> simp [ih]

@[simp] theorem State.transmit_querns (s : State) (a2 a3 : _) : (State.transmit s a2 a3).querns = s.querns := by
  simp [State.transmit]

@[simp] theorem State.route_querns (s : State) (a2 a3 a4 : _) : (State.route s a2 a3 a4).querns = s.querns := by
  simp [State.route] <;> (repeat' split) <;> simp

@[simp] theorem State.request_querns (s : State) (a2 a3 a4 a5 a6 a7 a8 a9 a10 : _) : (State.request s a2 a3 a4 a5 a6 a7 a8 a9 a10).2.querns = s.querns := by
  simp [State.request]

@[simp] theorem State.moduleFail_querns (s : State) : (State.moduleFail s).querns = s.querns := by
  simp [State.moduleFail]

@[simp] theorem State.setErrors_querns (s : State) (a2 a3 : _) : (State.setErrors s a2 a3).querns = s.querns := by
  simp [State.setErrors]

@[simp] theorem State.freshLine_querns (s : State) : (State.freshLine s).2.querns = s.querns := by
  simp [State.freshLine]

@[simp] theorem State.peekLine_querns (s : State) (a2 : _) : (State.peekLine s a2).2.querns = s.querns := by
  simp [State.peekLine] <;> (repeat' split) <;> simp

@[simp] theorem State.spareBank_querns (s : State) (a2 a3 : _) : (State.spareBank s a2 a3).querns = s.querns := by
  simp [State.spareBank]

@[simp] theorem State.spareRow_querns (s : State) (a2 : _) : (State.spareRow s a2).querns = s.querns := by
  simp [State.spareRow]

@[simp] theorem State.rowError_querns (s : State) (a2 : _) : (State.rowError s a2).querns = s.querns := by
  simp [State.rowError]

@[simp] theorem State.readLine_querns (s : State) (a2 : _) : (State.readLine s a2).2.querns = s.querns := by
  simp [State.readLine] <;> (repeat' split) <;> simp

@[simp] theorem State.writeLine_querns (s : State) (a2 a3 : _) : (State.writeLine s a2 a3).querns = s.querns := by
  simp [State.writeLine]

@[simp] theorem State.performReq_querns (s : State) (a2 a3 : _) : (State.performReq s a2 a3).1.querns = s.querns := by
  simp [State.performReq] <;> (repeat' split) <;> simp

@[simp] theorem State.modEng_querns (s : State) (a2 a3 a4 : _) : (State.modEng s a2 a3 a4).querns = s.querns := by
  simp [State.modEng]

@[simp] theorem State.workDone_querns (s : State) (a2 a3 : _) : (State.workDone s a2 a3).querns = s.querns := by
  simp [State.workDone]

@[simp] theorem State.engineCycle_querns (s : State) (a2 a3 : _) : (State.engineCycle s a2 a3).querns = s.querns := by
  simp [State.engineCycle] <;> (repeat' split) <;> simp

@[simp] theorem State.engineTick_querns (s : State) : (State.engineTick s).querns = s.querns := by
  unfold State.engineTick
  refine querns_foldl _ ?_ _ _
  intro s a
  split
  · exact querns_foldl _ (by intros; simp) _ _
  · rfl

@[simp] theorem State.stall_querns (s : State) (a2 : _) : (State.stall s a2).querns = s.querns := by
  simp [State.stall]

@[simp] theorem State.arrange_querns (s : State) (a2 : _) : (State.arrange s a2).querns = s.querns := by
  unfold State.arrange
  split <;> simp

@[simp] theorem State.settle_querns (s t : State) (h : t.querns = s.querns) : (s.settle t).querns = s.querns := by
  unfold State.settle
  split
  · exact h
  · exact querns_foldl _ (fun s a => State.arrange_querns s a) _ _

@[simp] theorem State.direct_querns (s : State) (a2 a3 a4 a5 a6 : _) : (State.direct s a2 a3 a4 a5 a6).1.querns = s.querns := by
  simp [State.direct] <;> (repeat' split) <;> simp

@[simp] theorem State.watch_querns (s : State) (a2 : _) : (State.watch s a2).querns = s.querns := by
  simp [State.watch]

@[simp] theorem State.syncLeft_querns (s : State) : (State.syncLeft s).querns = s.querns := by
  rfl

@[simp] theorem State.resyncStep_querns (s : State) : (State.resyncStep s).querns = s.querns := by
  simp [State.resyncStep] <;> (repeat' split) <;> simp

@[simp] theorem State.countModes_querns (s : State) (a2 : _) : (State.countModes s a2).querns = s.querns := by
  simp [State.countModes]

@[simp] theorem State.tickPart_querns (s : State) (a2 : _) : (State.tickPart s a2).querns = s.querns := by
  simp [State.tickPart]

@[simp] theorem State.fabricTick_querns (s : State) : (State.fabricTick s).querns = s.querns := by
  unfold State.fabricTick
  dsimp only
  have h : ∀ (l : List Nat), (l.foldl (fun u n => if h : n < 32 then u.tickPart ⟨n, h⟩ else u) s).querns = s.querns :=
    fun l => querns_foldl _ (by intro s a; split <;> simp) l s
  split <;> simp [h]

@[simp] theorem State.tick_querns (s : State) : (State.tick s).querns = s.querns := by
  unfold State.tick
  split
  · rfl
  · dsimp only
    (repeat' split) <;> simp

end Sys2Proof.Machine
end

section
/-! PROOFS. What the operations of the model leave of the cycle count. -/

namespace Sys2Proof.Machine

@[simp] theorem cycles_ite (c : Prop) [Decidable c] (s t : State) :
    (if c then s else t).cycles = if c then s.cycles else t.cycles := apply_ite _ c s t

@[simp] theorem cycles_foldl {α : Type} (f : State → α → State) (h : ∀ s a, (f s a).cycles = s.cycles) (l : List α) (s : State) :
    (l.foldl f s).cycles = s.cycles := by
  induction l generalizing s with
  | nil => rfl
  | cons a l ih => simp [List.foldl, ih, h]

@[simp] theorem cycles_foldl_snd {α β : Type} (f : β × State → α → β × State) (h : ∀ x a, (f x a).2.cycles = x.2.cycles)
    (l : List α) (x : β × State) : (l.foldl f x).2.cycles = x.2.cycles := by
  induction l generalizing x with
  | nil => rfl
  | cons a l ih => simp [List.foldl, ih, h]

@[simp] theorem State.setFld_cycles (s : State) (a2 a3 a4 a5 : _) : (State.setFld s a2 a3 a4 a5).cycles = s.cycles := by
  simp [State.setFld]

@[simp] theorem State.incFld_cycles (s : State) (a2 a3 a4 a5 : _) : (State.incFld s a2 a3 a4 a5).cycles = s.cycles := by
  simp [State.incFld]

@[simp] theorem State.satFld_cycles (s : State) (a2 a3 a4 a5 : _) : (State.satFld s a2 a3 a4 a5).cycles = s.cycles := by
  simp [State.satFld]

@[simp] theorem State.fresh_cycles (s : State) : (State.fresh s).2.cycles = s.cycles := by
  simp [State.fresh]

@[simp] theorem State.inBand_cycles (s : State) (a2 : _) : (State.inBand s a2).cycles = s.cycles := by
  simp [State.inBand]

@[simp] theorem State.modCore_cycles (s : State) (a2 a3 : _) : (State.modCore s a2 a3).cycles = s.cycles := by
  simp [State.modCore]

@[simp] theorem State.modPart_cycles (s : State) (a2 a3 : _) : (State.modPart s a2 a3).cycles = s.cycles := by
  simp [State.modPart]

@[simp] theorem State.modChan_cycles (s : State) (a2 a3 : _) : (State.modChan s a2 a3).cycles = s.cycles := by
  simp [State.modChan]

@[simp] theorem State.modLink_cycles (s : State) (a2 a3 : _) : (State.modLink s a2 a3).cycles = s.cycles := by
  simp [State.modLink]

@[simp] theorem State.logChan_cycles (s : State) (a2 a3 a4 a5 a6 a7 : _) : (State.logChan s a2 a3 a4 a5 a6 a7).cycles = s.cycles := by
  simp [State.logChan]

@[simp] theorem State.countN_cycles (s : State) (a2 a3 a4 : _) : (State.countN s a2 a3 a4).cycles = s.cycles := by
  unfold State.countN
  split <;> simp

@[simp] theorem State.modDesc_cycles (s : State) (a2 a3 a4 : _) : (State.modDesc s a2 a3 a4).cycles = s.cycles := by
  unfold State.modDesc
  split <;> simp

@[simp] theorem State.sendFrame_cycles (s : State) (a2 a3 a4 : _) : (State.sendFrame s a2 a3 a4).cycles = s.cycles := by
  simp [State.sendFrame]

@[simp] theorem State.pumpLink_cycles (s : State) (a2 a3 : _) : (State.pumpLink s a2 a3).cycles = s.cycles := by
  induction a3 generalizing s with
  | zero => simp [State.pumpLink]
  | succ n ih =>
    unfold State.pumpLink
    dsimp only
    (repeat' split) <;> simp [ih]

@[simp] theorem State.transmit_cycles (s : State) (a2 a3 : _) : (State.transmit s a2 a3).cycles = s.cycles := by
  simp [State.transmit]

@[simp] theorem State.route_cycles (s : State) (a2 a3 a4 : _) : (State.route s a2 a3 a4).cycles = s.cycles := by
  simp [State.route] <;> (repeat' split) <;> simp

@[simp] theorem State.request_cycles (s : State) (a2 a3 a4 a5 a6 a7 a8 a9 a10 : _) : (State.request s a2 a3 a4 a5 a6 a7 a8 a9 a10).2.cycles = s.cycles := by
  simp [State.request]

@[simp] theorem State.moduleFail_cycles (s : State) : (State.moduleFail s).cycles = s.cycles := by
  simp [State.moduleFail]

@[simp] theorem State.setErrors_cycles (s : State) (a2 a3 : _) : (State.setErrors s a2 a3).cycles = s.cycles := by
  simp [State.setErrors]

@[simp] theorem State.freshLine_cycles (s : State) : (State.freshLine s).2.cycles = s.cycles := by
  simp [State.freshLine]

@[simp] theorem State.peekLine_cycles (s : State) (a2 : _) : (State.peekLine s a2).2.cycles = s.cycles := by
  simp [State.peekLine] <;> (repeat' split) <;> simp

@[simp] theorem State.spareBank_cycles (s : State) (a2 a3 : _) : (State.spareBank s a2 a3).cycles = s.cycles := by
  simp [State.spareBank]

@[simp] theorem State.spareRow_cycles (s : State) (a2 : _) : (State.spareRow s a2).cycles = s.cycles := by
  simp [State.spareRow]

@[simp] theorem State.rowError_cycles (s : State) (a2 : _) : (State.rowError s a2).cycles = s.cycles := by
  simp [State.rowError]

@[simp] theorem State.readLine_cycles (s : State) (a2 : _) : (State.readLine s a2).2.cycles = s.cycles := by
  simp [State.readLine] <;> (repeat' split) <;> simp

@[simp] theorem State.writeLine_cycles (s : State) (a2 a3 : _) : (State.writeLine s a2 a3).cycles = s.cycles := by
  simp [State.writeLine]

@[simp] theorem State.performReq_cycles (s : State) (a2 a3 : _) : (State.performReq s a2 a3).1.cycles = s.cycles := by
  simp [State.performReq] <;> (repeat' split) <;> simp

@[simp] theorem State.modEng_cycles (s : State) (a2 a3 a4 : _) : (State.modEng s a2 a3 a4).cycles = s.cycles := by
  simp [State.modEng]

@[simp] theorem State.workDone_cycles (s : State) (a2 a3 : _) : (State.workDone s a2 a3).cycles = s.cycles := by
  simp [State.workDone]

@[simp] theorem State.engineCycle_cycles (s : State) (a2 a3 : _) : (State.engineCycle s a2 a3).cycles = s.cycles := by
  simp [State.engineCycle] <;> (repeat' split) <;> simp

@[simp] theorem State.engineTick_cycles (s : State) : (State.engineTick s).cycles = s.cycles := by
  unfold State.engineTick
  refine cycles_foldl _ ?_ _ _
  intro s a
  split
  · exact cycles_foldl _ (by intros; simp) _ _
  · rfl

@[simp] theorem State.stall_cycles (s : State) (a2 : _) : (State.stall s a2).cycles = s.cycles := by
  simp [State.stall]

@[simp] theorem State.arrange_cycles (s : State) (a2 : _) : (State.arrange s a2).cycles = s.cycles := by
  unfold State.arrange
  split <;> simp

@[simp] theorem State.settle_cycles (s t : State) (h : t.cycles = s.cycles) : (s.settle t).cycles = s.cycles := by
  unfold State.settle
  split
  · exact h
  · exact cycles_foldl _ (fun s a => State.arrange_cycles s a) _ _

@[simp] theorem State.direct_cycles (s : State) (a2 a3 a4 a5 a6 : _) : (State.direct s a2 a3 a4 a5 a6).1.cycles = s.cycles := by
  simp [State.direct] <;> (repeat' split) <;> simp

@[simp] theorem State.watch_cycles (s : State) (a2 : _) : (State.watch s a2).cycles = s.cycles := by
  simp [State.watch]

@[simp] theorem State.syncLeft_cycles (s : State) : (State.syncLeft s).cycles = s.cycles := by
  rfl

@[simp] theorem State.resyncStep_cycles (s : State) : (State.resyncStep s).cycles = s.cycles := by
  simp [State.resyncStep] <;> (repeat' split) <;> simp

@[simp] theorem State.countModes_cycles (s : State) (a2 : _) : (State.countModes s a2).cycles = s.cycles := by
  simp [State.countModes]

@[simp] theorem State.tickPart_cycles (s : State) (a2 : _) : (State.tickPart s a2).cycles = s.cycles := by
  simp [State.tickPart]

@[simp] theorem State.fabricTick_cycles (s : State) : (State.fabricTick s).cycles = s.cycles := by
  unfold State.fabricTick
  dsimp only
  have h : ∀ (l : List Nat), (l.foldl (fun u n => if h : n < 32 then u.tickPart ⟨n, h⟩ else u) s).cycles = s.cycles :=
    fun l => cycles_foldl _ (by intro s a; split <;> simp) l s
  split <;> simp [h]

end Sys2Proof.Machine
end

section
/-! PROOFS. -/
namespace Sys2Proof.Machine
/-! ### What a stop leaves of a core's program -/

/-- The registers, the program counter and the bench of a core, and whether its kingpost waits. -/
def Core.program (k : Core) : Tab Word × BitVec 48 × Tab Byte × Bool := (k.s, k.pc, k.bench, k.wait.isNone)

def State.programs (s : State) (c : CoreId) : Tab Word × BitVec 48 × Tab Byte × Bool := (s.core c).program

theorem State.programs_of_cores {s t : State} (h : t.cores = s.cores) : t.programs = s.programs := by
  funext c
  rw [State.programs, State.programs, State.core_congr h]

theorem State.programs_modCore (s : State) (c : CoreId) (f : Core → Core) (h : ∀ k, (f k).program = k.program) :
    (s.modCore c f).programs = s.programs := by
  funext d
  rw [State.programs, State.core_modCore]
  split
  next hd => subst hd; exact h _
  next => rfl

theorem State.programs_foldl {α : Type} (f : State → α → State) (h : ∀ s a, (f s a).programs = s.programs) (l : List α)
    (s : State) : (l.foldl f s).programs = s.programs := by
  induction l generalizing s with
  | nil => rfl
  | cons a l ih => rw [List.foldl_cons, ih, h]

@[simp] theorem State.programs_modEng (s : State) (c : CoreId) (u : EngineUnit) (f : Eng → Eng) :
    (s.modEng c u f).programs = s.programs := State.programs_modCore _ _ _ fun _ => rfl

@[simp] theorem Core.program_joinFlags (k : Core) (u : EngineUnit) (f : BitVec 6) : (k.joinFlags u f).program = k.program := by
  unfold Core.joinFlags
  split <;> rfl

@[simp] theorem State.programs_release (s : State) (w : Waiter) (v : Word) : (s.release w v).programs = s.programs := by
  unfold State.release
  split
  · exact State.programs_modCore _ _ _ fun k => by simp [Core.program]
  · simp
  · exact State.programs_of_cores (by simp)
  · exact State.programs_of_cores (by simp)

@[simp] theorem State.programs_releaseAll (s : State) (ws : List Waiter) (v : Word) :
    (s.releaseAll ws v).programs = s.programs := State.programs_foldl _ (by simp) _ _

@[simp] theorem State.programs_touched (s : State) (p : Option PartId) : (s.touched p).programs = s.programs :=
  State.programs_of_cores (by simp)

@[simp] theorem State.programs_setPeg (s : State) (n : Nat) (g : Peg) : (s.setPeg n g).programs = s.programs := rfl

@[simp] theorem State.programs_servePeg (s : State) (n : Nat) : (s.servePeg n).programs = s.programs := by
  unfold State.servePeg
  dsimp only
  split <;> simp

@[simp] theorem State.programs_dropTake (s : State) (c : CoreId) (u : EngineUnit) : (s.dropTake c u).programs = s.programs := by
  unfold State.dropTake
  (repeat' split) <;> simp

@[simp] theorem State.programs_leaveGranary (s : State) (j : GrindJob) : (s.leaveGranary j).programs = s.programs := by
  rw [State.leaveGranary, State.programs_modEng]
  exact State.programs_of_cores (by simp)

@[simp] theorem State.programs_putBackJob (s : State) (j : GrindJob) : (s.putBackJob j).programs = s.programs := by
  unfold State.putBackJob
  dsimp only
  split
  · rw [State.programs_of_cores (State.modDesc_cores _ _ _ _), State.programs_leaveGranary]
  · refine Eq.trans (State.programs_modCore _ _ _ ?_) (s.programs_leaveGranary j)
    exact fun _ => rfl

@[simp] theorem State.programs_admitHead (s : State) (q : Fin 4) : (s.admitHead q).programs = s.programs := by
  unfold State.admitHead
  (repeat' split)
  · rfl
  · rfl
  next j _ _ _ _ _ =>
    refine (State.programs_of_cores (State.traceCmd_cores _ _ _ _ _ _ _)).trans ?_
    refine Eq.trans (State.programs_of_cores (cores_foldl _ (by simp) _ _)) ?_
    refine (State.programs_of_cores (State.setGranaryQueue_cores _ _ _)).trans ?_
    split
    · exact State.programs_modCore _ _ _ fun _ => rfl
    · rfl
  · exact State.programs_of_cores (by simp)

@[simp] theorem State.programs_dropJob (s : State) (j : GrindJob) : (s.dropJob j).programs = s.programs := by
  refine Eq.trans (State.programs_foldl _ (fun t n => ?_) _ _) (State.programs_admitHead _ _)
  split
  · rfl
  · exact State.programs_of_cores (by simp)

@[simp] theorem State.programs_killJob (s : State) (j : GrindJob) : (s.killJob j).programs = s.programs := by
  unfold State.killJob
  dsimp only
  rw [State.programs_dropJob]
  refine Eq.trans (State.programs_modCore _ _ _ ?_) ?_
  · exact fun k => k.program_joinFlags _ _
  · exact State.programs_of_cores (cores_foldl _ (by intro s a; split <;> simp) _ _)

@[simp] theorem State.programs_holdGrind (s : State) (c : CoreId) (b : Bool) : (s.holdGrind c b).programs = s.programs := by
  unfold State.holdGrind
  (repeat' split) <;> simp

@[simp] theorem State.programs_markStopped (s : State) (c : CoreId) (u : EngineUnit) :
    (s.markStopped c u).programs = s.programs := by
  unfold State.markStopped
  dsimp only
  split
  · refine State.programs_modCore s c (fun k => (k.joinFlags u (k.engOf u).flags).setEng u { stopped := true }) fun k => ?_
    exact k.program_joinFlags _ _
  · exact State.programs_modCore s c (fun k => k.setEng u _) fun k => rfl

@[simp] theorem State.programs_holdEngine (s : State) (c : CoreId) (k : StopKind) (u : EngineUnit) :
    (s.holdEngine c k u).programs = s.programs := by
  unfold State.holdEngine
  dsimp only
  (repeat' split)
  all_goals first
    | rfl
    | exact State.programs_modCore _ _ _ fun _ => rfl
    | simp

/-- A stop leaves the registers, program counter and bench of every core, and starts no wait. -/
@[simp] theorem State.programs_takeStop (s : State) (c : CoreId) (k : StopKind) : (s.takeStop c k).programs = s.programs := by
  unfold State.takeStop
  dsimp only
  have hold : ∀ u : State, (allUnits.foldl (fun t u => t.holdEngine c k u) u).programs = u.programs :=
    State.programs_foldl _ (fun t u => t.programs_holdEngine c k u) _
  split
  · refine Eq.trans (State.programs_modCore _ _ _ ?_) ((hold _).trans (State.programs_modCore _ _ _ ?_))
    · exact fun _ => rfl
    · exact fun _ => rfl
  · refine (hold _).trans (State.programs_modCore _ _ _ ?_)
    exact fun _ => rfl

@[simp] theorem State.programs_takePending (s : State) (c : CoreId) : (s.takePending c).programs = s.programs := by
  unfold State.takePending
  split <;> simp

/-! ### The answer -/

/-- The instruction whose request is satisfied issues. -/
theorem syncAnswer_completes {t : State} {c : CoreId} {w : SyncWait} {P : State → Prop} (ha : t.alive = true)
    (hw : (t.core c).wait = some w) (hs : w.satisfied = true)
    (hP : ∀ u : State, (u.core c).wait = none → (u.core c).pc = (t.core c).pc + 8 →
      (u.core c).s = ((t.core c).completeWait w).s → P u) : Completes (.syncAnswer c) t P := by
  refine completes_of_eq (t := (t.modCore c (fun k => k.completeWait w)).takePending c) ?_ ?_
  · simp only [exec, execSyncAnswer, hw]
    exact whenever_of_alive ha hs _
  · have h := congrFun (State.programs_takePending (t.modCore c (fun k => k.completeWait w)) c) c
    simp only [State.programs, State.core_modCore, if_true, Core.program, Prod.mk.injEq] at h
    obtain ⟨hregs, hpc, _, hwait⟩ := h
    have hc : ((t.core c).completeWait w).wait = none ∧ ((t.core c).completeWait w).pc = (t.core c).pc + 8 := by
      simp only [Core.completeWait, Core.retire_eq_issued]
      split <;> exact ⟨rfl, rfl⟩
    exact hP _ (Option.isNone_iff_eq_none.mp (by rw [hwait, hc.1]; rfl)) (hpc.trans hc.2) hregs


/-! ### Pegs -/

theorem Peg.posted_count (g : Peg) (q : BitVec 16) : (g.posted q).count =
    (if 65535 < g.count.toNat + q.toNat then g.count else g.count + q) ∧
    (g.posted q).ovf = (g.ovf || decide (65535 < g.count.toNat + q.toNat)) := by
  unfold Peg.posted
  split <;> simp_all

theorem Peg.lowered_count (g : Peg) (q : BitVec 16) : (g.lowered q).count =
    (if g.count.toNat < q.toNat then g.count else g.count - q) ∧
    (g.lowered q).udf = (g.udf || decide (g.count.toNat < q.toNat)) := by
  unfold Peg.lowered
  split <;> simp_all

theorem Completes.mono {i : Instr} {s : State} {P Q : State → Prop} (h : Completes i s P) (hPQ : ∀ t, P t → Q t) :
    Completes i s Q := by
  obtain ⟨t, ht, hP⟩ := h
  exact ⟨t, ht, hPQ t hP⟩

/-- What every peg operation that does not wait leaves, with what it states of its peg. -/
def PegStated (Q : Peg → Prop) (s : State) (c : CoreId) (n : Nat) (t : State) : Prop :=
  t.core c = (s.core c).issued ((s.core c).pc + 8) ∧ Q (t.peg n) ∧ (∀ m, m ≠ n → t.peg m = s.peg m) ∧
    t.tallies = s.tallies ∧ t.bells = s.bells ∧ t.mem = s.mem

theorem OnlyPeg.stated {i : Instr} {s u : State} {c : CoreId} {n : Nat} {g : Peg} (Q : Peg → Prop)
    (he : exec i s = .next (u.modCore c (fun k => k.retire 8))) (h : OnlyPeg n g s u) (hQ : Q g) :
    Completes i s (PegStated Q s c n) := by
  refine (h.completes he).mono fun t ⟨hk, hp, hrest⟩ => ⟨hk, ?_, fun m hm => ?_, hrest⟩
  · rwa [hp, if_pos rfl]
  · rw [hp, if_neg hm]

theorem toNat_setWidth_64 (q : BitVec 16) : (q.setWidth 64).toNat = q.toNat := by
  rw [BitVec.toNat_setWidth]
  exact Nat.mod_eq_of_lt (by omega)

/-- A satisfied take: the count is less, nobody waits, and the kingpost holds its satisfied request. -/
theorem State.pegTake_served_fields {s : State} {n : Nat} {need : Word} {c : CoreId} (h : (s.peg n).waiters = [])
    (hn : need.toNat ≤ (s.peg n).count.toNat) :
    (s.pegTake n need (.kingpost c)).alive = s.alive ∧
      (s.pegTake n need (.kingpost c)).peg n =
        { s.peg n with count := BitVec.ofNat 16 ((s.peg n).count.toNat - need.toNat), waiters := [] } ∧
      (s.pegTake n need (.kingpost c)).core c = { s.core c with wait := (s.core c).wait.map (fun x =>
        { x with satisfied := true, value := 0 }) } := by
  obtain ⟨o, ho⟩ := State.pegTake_served (c := c) h hn
  obtain ⟨hcores, hpegs, _, _, _, halive⟩ := State.fields_of_sansLogs (ho ▸ State.touched_sansLogs _ o)
  refine ⟨halive, (State.peg_congr hpegs n).trans ?_, (State.core_congr hcores c).trans ?_⟩
  · refine (State.peg_congr (State.setCore_pegs _ _ _) n).trans ?_
    rw [State.peg_setPeg, if_pos rfl]
  · rw [State.core_modCore, if_pos rfl]
    rfl

/-- The count after a take, in the width of a peg. -/
theorem ofNat_sub_eq {g q : BitVec 16} (h : q.toNat ≤ g.toNat) :
    BitVec.ofNat 16 (g.toNat - (q.setWidth 64).toNat) = g - q := by
  rw [toNat_setWidth_64]
  apply BitVec.eq_of_toNat_eq
  rw [BitVec.toNat_sub_of_le (by rwa [BitVec.le_def]), BitVec.toNat_ofNat]
  exact Nat.mod_eq_of_lt (by have := g.isLt; omega)

/-- The core that has executed a synchronisation instruction which waits. -/
theorem State.core_startWait (s : State) (c : CoreId) (w : SyncWait) :
    (s.startWait c w).core c = { s.core c with wait := some w } := by
  simp [State.startWait]

theorem pegPost_completes {s : State} {c : CoreId} {p : PartId} {id : BitVec 12} {rcnt : Bool} {ra : SReg}
    {cnt q : BitVec 16} {n : Nat} (hi : Issues s c) (hp : s.partOf c = some p)
    (hn : s.pegRef p (s.core c).ctx id.toNat = some n) (hq : (s.core c).count rcnt ra cnt = q)
    (hw : (s.peg n).waiters = []) : Completes (.pegPost c id rcnt ra cnt) s (PegStated (fun g =>
      g.count = (if 65535 < (s.peg n).count.toNat + q.toNat then (s.peg n).count else (s.peg n).count + q) ∧
      g.ovf = ((s.peg n).ovf || decide (65535 < (s.peg n).count.toNat + q.toNat))) s c n) := by
  subst hq
  exact (State.pegPost_kingpost hw c (s.core c).pc _).stated _ (exec_pegPost hi hp hn rcnt ra cnt) ((s.peg n).posted_count _)

theorem pegDec_completes {s : State} {c : CoreId} {p : PartId} {id : BitVec 12} {rcnt : Bool} {ra : SReg}
    {cnt q : BitVec 16} {n : Nat} (hi : Issues s c) (hp : s.partOf c = some p)
    (hn : s.pegRef p (s.core c).ctx id.toNat = some n) (hq : (s.core c).count rcnt ra cnt = q) :
    Completes (.pegDec c id rcnt ra cnt) s (PegStated (fun g =>
      g.count = (if (s.peg n).count.toNat < q.toNat then (s.peg n).count else (s.peg n).count - q) ∧
      g.udf = ((s.peg n).udf || decide ((s.peg n).count.toNat < q.toNat))) s c n) := by
  subst hq
  exact (s.pegDec_kingpost n c (s.core c).pc _).stated _ (exec_pegDec hi hp hn rcnt ra cnt) ((s.peg n).lowered_count _)

/-- What a kingpost is left with by a request that its object has satisfied, and what the answer then gives. -/
theorem answered_completes {s t : State} {c : CoreId} {w : SyncWait} {P : State → Prop} (ha : t.alive = true)
    (hw : t.core c = { s.core c with wait := some w }) (hs : w.satisfied = true)
    (hP : ∀ u : State, (u.core c).wait = none → (u.core c).pc = (s.core c).pc + 8 →
      (u.core c).s = (if w.kind = .pegRead ∨ w.kind = .tallyRead then ((s.core c).setS w.rd w.value).s else (s.core c).s) →
      P u) : Completes (.syncAnswer c) t P := by
  refine syncAnswer_completes ha (by rw [hw]) hs fun u hwait hpc hregs => hP u hwait (by rw [hpc, hw]) ?_
  rw [hregs, hw, Core.completeWait, Core.retire_eq_issued]
  dsimp only
  split <;> rfl

theorem pegTake_completes_served {s : State} {c : CoreId} {p : PartId} {id : BitVec 12} {rcnt : Bool} {ra : SReg}
    {cnt q : BitVec 16} {n : Nat} (hi : Issues s c) (hp : s.partOf c = some p)
    (hn : s.pegRef p (s.core c).ctx id.toNat = some n) (hstep : (s.core c).stepping = false)
    (hq : (s.core c).count rcnt ra cnt = q) (hw : (s.peg n).waiters = []) (hle : q.toNat ≤ (s.peg n).count.toNat) :
    Completes (.pegTake c id rcnt ra cnt) s (fun t =>
      (t.peg n).count = (s.peg n).count - q ∧ (t.peg n).waiters = [] ∧ (t.core c).pc = (s.core c).pc ∧
      (t.core c).s = (s.core c).s ∧
      Completes (.syncAnswer c) t (fun u =>
        (u.core c).wait = none ∧ (u.core c).pc = (s.core c).pc + 8 ∧ (u.core c).s = (s.core c).s)) := by
  subst hq
  obtain ⟨halive, hpeg, hcore⟩ := State.pegTake_served_fields
    (s := s.startWait c (newWait .pegTake id n (((s.core c).count rcnt ra cnt).setWidth 64)))
    (n := n) (need := ((s.core c).count rcnt ra cnt).setWidth 64) (c := c) hw (by rw [toNat_setWidth_64]; exact hle)
  rw [s.core_startWait] at hcore
  have he := exec_pegTake hi hp hn rcnt ra cnt
  rw [State.stepWait_of_running ((congrArg Core.stepping hcore).trans hstep)] at he
  refine completes_of_eq he ⟨?_, by rw [hpeg], by rw [hcore], by rw [hcore], ?_⟩
  · exact (congrArg Peg.count hpeg).trans (ofNat_sub_eq hle)
  · exact answered_completes (halive.trans hi.1) hcore rfl fun u hwait hpc hs => ⟨hwait, hpc, hs⟩

theorem State.core_setPeg (s : State) (n : Nat) (g : Peg) (c : CoreId) : (s.setPeg n g).core c = s.core c := rfl

theorem pegTake_completes_waits {s : State} {c : CoreId} {p : PartId} {id : BitVec 12} {rcnt : Bool} {ra : SReg}
    {cnt q : BitVec 16} {n : Nat} (hi : Issues s c) (hp : s.partOf c = some p)
    (hn : s.pegRef p (s.core c).ctx id.toNat = some n) (hstep : (s.core c).stepping = false)
    (hq : (s.core c).count rcnt ra cnt = q) (hw : (s.peg n).waiters = []) (hlt : (s.peg n).count.toNat < q.toNat) :
    Completes (.pegTake c id rcnt ra cnt) s (fun t =>
      (t.peg n).count = (s.peg n).count ∧ (t.peg n).waiters.map Waiter.who = [.kingpost c] ∧
      (t.core c).pc = (s.core c).pc ∧ (t.core c).canIssue = false) := by
  subst hq
  have hk := s.core_startWait c (newWait .pegTake id n (((s.core c).count rcnt ra cnt).setWidth 64))
  have he := exec_pegTake hi hp hn rcnt ra cnt
  rw [State.pegTake_waits (s := s.startWait c _) hw (by rw [toNat_setWidth_64]; exact hlt),
    State.stepWait_of_running (by exact (congrArg Core.stepping hk).trans hstep)] at he
  refine completes_of_eq he ⟨?_, ?_, ?_, ?_⟩
  · rw [State.peg_setPeg, if_pos rfl]; rfl
  · rw [State.peg_setPeg, if_pos rfl]; rfl
  · rw [State.core_setPeg, State.core_setPeg, hk]
  · rw [State.core_setPeg, State.core_setPeg, hk]
    simp [Core.canIssue]

/-- Settles O15: posts and decrements change one peg; a take and a read are satisfied by it and answered. -/
theorem pegs : Obligations.pegs := by
  refine ⟨?_, ?_⟩
  · intro s c p id rcnt ra cnt n hi hp hn k g q tooMany tooFew
    refine ⟨fun hw => (pegPost_completes hi hp hn rfl hw).mono fun t ht => ?_, (pegDec_completes hi hp hn rfl).mono fun t ht => ?_⟩
    all_goals obtain ⟨hk, ⟨hc, ho⟩, hrest⟩ := ht
    all_goals exact ⟨hk, hc, ho, hrest⟩
  · intro s c p id rcnt ra rd cnt n hi hp hn hstep k g q
    refine ⟨pegTake_completes_served hi hp hn hstep rfl, pegTake_completes_waits hi hp hn hstep rfl, ?_⟩
    refine completes_of_eq (exec_pegRead hi hp hn rd) ⟨rfl, ?_⟩
    refine answered_completes hi.1 (s.core_startWait c _) rfl fun u hwait hpc hs => ⟨hwait, hpc, ?_, fun x hx => ?_⟩
    · exact (congrArg (tabGet (fun _ => 0) rd.val) hs).trans (by exact ((s.core c).sreg_setS rd rd _).trans (if_pos rfl))
    · exact (congrArg (tabGet (fun _ => 0) x.val) hs).trans (by exact ((s.core c).sreg_setS rd x _).trans (if_neg hx))

end Sys2Proof.Machine
end

section
/-! PROOFS. Tallies, bells and the withdrawal of a wait (R56, R221 to R224). -/

namespace Sys2Proof.Machine

/-! ### Tallies -/

theorem State.core_setTally (s : State) (n : Nat) (g : Tally) (c : CoreId) : (s.setTally n g).core c = s.core c := rfl

/-- A change of one tally alone. -/
def OnlyTally (n : Nat) (g : Tally) (s u : State) : Prop :=
  u.cores = s.cores ∧ (∀ m, u.tally m = if m = n then g else s.tally m) ∧ u.pegs = s.pegs ∧ u.bells = s.bells ∧ u.mem = s.mem

theorem OnlyTally.of_sansLogs {n : Nat} {g : Tally} {s t u : State} (h : OnlyTally n g s t) (hu : u.sansLogs = t.sansLogs) :
    OnlyTally n g s u := by
  obtain ⟨hc, ht, hp, hb, hm⟩ := h
  obtain ⟨hc', hp', ht', hb', hm', _⟩ := State.fields_of_sansLogs hu
  exact ⟨hc'.trans hc, fun m => (State.tally_congr ht' m).trans (ht m), hp'.trans hp, hb'.trans hb, hm'.trans hm⟩

theorem onlyTally_setTally (n : Nat) (g : Tally) (s : State) : OnlyTally n g s (s.setTally n g) :=
  ⟨rfl, fun m => s.tally_setTally n m g, rfl, rfl, rfl⟩

theorem OnlyTally.setTally {n : Nat} {g : Tally} {s u : State} (h : OnlyTally n g s u) (x : Tally) :
    OnlyTally n x s (u.setTally n x) := by
  obtain ⟨hc, ht, hp, hb, hm⟩ := h
  refine ⟨hc, fun m => ?_, hp, hb, hm⟩
  rw [State.tally_setTally, ht m]
  split <;> rfl

/-- An advance where nobody waits changes the tally alone, where a fault of its operand only logs. -/
theorem State.tallyAdv_only {s : State} (h : ∀ e ∈ s.tallies, e.2.waiters = []) {who : SyncBy}
    (hlog : ∀ (u : State) (owner : Option PartId) (reason phys : Nat), (u.syncFault who owner reason phys).sansLogs = u.sansLogs)
    (n : Nat) (v : Word) : ∃ g : Tally, g.value = (s.tally n).value + v ∧ OnlyTally n g s (s.tallyAdv who n v) := by
  let g : Tally := { s.tally n with value := (s.tally n).value + v }
  have hg : g.waiters = [] := s.tally_waiters_of_no_waiters h n
  have hs1 := State.setTally_no_waiters s n g hg h
  unfold State.tallyAdv
  dsimp only
  split
  · refine ⟨{ g with depthF := true }, rfl, ?_⟩
    rw [State.serveTallies_of_no_waiters]
    · refine OnlyTally.of_sansLogs (t := (s.setTally n g).setTally n { (s.setTally n g).tally n with depthF := true }) ?_ (by simp [g, hlog])
      rw [State.tally_setTally, if_pos rfl]
      exact (onlyTally_setTally n g s).setTally _
    · rw [(State.fields_of_sansLogs (hlog _ _ _ _)).2.2.1]
      exact State.setTally_no_waiters _ n _ (by rw [State.tally_setTally, if_pos rfl]; exact hg) hs1
  · refine ⟨g, rfl, ?_⟩
    rw [State.serveTallies_of_no_waiters _ hs1]
    exact (onlyTally_setTally n g s).of_sansLogs (by simp [g])

theorem State.tallyAdv_kingpost {s : State} (h : ∀ e ∈ s.tallies, e.2.waiters = []) (c : CoreId) (pc : BitVec 48) (n : Nat)
    (v : Word) : ∃ g : Tally, g.value = (s.tally n).value + v ∧ OnlyTally n g s (s.tallyAdv (.kingpost c pc) n v) :=
  State.tallyAdv_only h (fun u => State.syncFault_kingpost_sansLogs u c pc) n v

/-- A wait whose condition holds is satisfied at once. -/
theorem State.tallyAwait_served {s : State} {n : Nat} {w : Waiter} {c : CoreId} (h : (s.tally n).waiters = [])
    (hw : w.who = .kingpost c)
    (hh : (s.setTally n { s.tally n with waiters := [w] }).tallyHolds n w = true) :
    s.tallyAwait n w = ((s.setTally n { s.tally n with waiters := [w] }).setTally n { s.tally n with waiters := [] }).modCore c
      (fun k => { k with wait := k.wait.map (fun x => { x with satisfied := true, value := (s.tally n).value }) }) := by
  simp [State.tallyAwait, State.serveTally, h, hh, State.releaseAll, State.release, hw]

/-- A wait whose condition does not hold waits at the tally. -/
theorem State.tallyAwait_waits {s : State} {n : Nat} {w : Waiter} (h : (s.tally n).waiters = [])
    (hh : (s.setTally n { s.tally n with waiters := [w] }).tallyHolds n w = false) :
    s.tallyAwait n w = (s.setTally n { s.tally n with waiters := [w] }).setTally n { s.tally n with waiters := [w] } := by
  simp [State.tallyAwait, State.serveTally, h, hh, State.releaseAll]

section
variable {s : State} {c : CoreId} {p : PartId} {id : BitVec 12} {n : Nat} (hi : Issues s c) (hp : s.partOf c = some p)
  (hn : s.tallyRef p (s.core c).ctx id.toNat = some (.local_ n))
include hi hp hn

theorem exec_tallyWait (ra : SReg) : exec (.tallyWait c id ra) s =
    .next (((s.startWait c (newWait .tallyWait id n ((s.core c).sreg ra))).tallyAwait n
      { who := .kingpost c, kind := .tallyWait, need := (s.core c).sreg ra }).stepWait c) := by
  simp only [exec, execTallyWait, syncOp_eq hi hp, hn]

theorem exec_tallyRoom : exec (.tallyRoom c id) s =
    .next (((s.startWait c (newWait .tallyRoom id n ((s.tally n).depth.setWidth 64))).tallyAwait n
      { who := .kingpost c, kind := .tallyRoom, need := (s.tally n).depth.setWidth 64 }).stepWait c) := by
  simp only [exec, execTallyRoom, syncOp_eq hi hp, hn]

theorem exec_tallyRead (rd : SReg) : exec (.tallyRead c rd id) s = .next (s.startWait c
    { newWait .tallyRead id n 0 with rd := rd, satisfied := true, value := (s.tally n).value }) := by
  simp only [exec, execTallyRead, syncOp_eq hi hp, hn]

end

/-- An instruction that the tally satisfies at once, and its answer. -/
theorem tallyAwait_completes_served {s : State} {c : CoreId} {n : Nat} {w : SyncWait} {x : Waiter} {i : Instr} (rd : SReg)
    (ha : s.alive = true) (hstep : (s.core c).stepping = false) (hwait : (s.tally n).waiters = [])
    (hx : x.who = .kingpost c) (hw : w.kind ≠ .pegRead ∧ w.kind ≠ .tallyRead)
    (hh : ((s.startWait c w).setTally n { s.tally n with waiters := [x] }).tallyHolds n x = true)
    (he : exec i s = .next (((s.startWait c w).tallyAwait n x).stepWait c)) :
    Completes i s (fun t => (t.tally n).value = (s.tally n).value ∧ (t.core c).pc = (s.core c).pc ∧
      Completes (.syncAnswer c) t (fun u => (u.core c).wait = none ∧ (u.core c).pc = (s.core c).pc + 8 ∧
        (u.core c).sreg rd = (s.core c).sreg rd)) := by
  have hserve := State.tallyAwait_served (s := s.startWait c w) hwait hx hh
  have hcore : ((s.startWait c w).tallyAwait n x).core c =
      { s.core c with wait := some { w with satisfied := true, value := (s.tally n).value } } := by
    rw [hserve, State.core_modCore, if_pos rfl, State.core_setTally, State.core_setTally,
      s.core_startWait]
    rfl
  rw [State.stepWait_of_running ((congrArg Core.stepping hcore).trans hstep)] at he
  refine completes_of_eq he ⟨?_, by rw [hcore], ?_⟩
  · rw [hserve]
    refine (congrArg Tally.value (State.tally_congr (State.setCore_tallies _ _ _) n)).trans ?_
    rw [State.tally_setTally, if_pos rfl]
    rfl
  · refine answered_completes ?_ hcore rfl fun u hnone hpc hs => ⟨hnone, hpc, ?_⟩
    · rw [hserve]; exact ha
    · rw [if_neg (by simp [hw])] at hs
      exact congrArg (tabGet (fun _ => 0) rd.val) hs

/-- Settles O16: an advance changes one tally; a read and a satisfied wait are answered; another wait stays. -/
theorem tallies : Obligations.tallies := by
  intro s c p id ra rd n hi hp hn hstep hnone k g answered
  have hw := s.tally_waiters_of_no_waiters hnone n
  refine ⟨?_, ?_, fun hle => ?_, fun hlt => ?_, fun hc => ?_⟩
  · obtain ⟨x, hx, hcores, ht, hpegs, hbells, hmem⟩ := State.tallyAdv_kingpost hnone c (s.core c).pc n ((s.core c).sreg ra)
    refine posted_completes (exec_tallyAdv_local s ra hi hp hn) hcores fun t htu hk => ⟨?_, hk, fun m hm => ?_, ?_, ?_, ?_⟩
    · exact (congrArg Tally.value ((State.tally_congr (by rw [htu]) n).trans ((ht n).trans (if_pos rfl)))).trans hx
    · exact (State.tally_congr (by rw [htu]) m).trans ((ht m).trans (if_neg hm))
    · rw [htu]; exact hpegs
    · rw [htu]; exact hbells
    · rw [htu]; exact hmem
  · refine completes_of_eq (exec_tallyRead hi hp hn rd) ⟨rfl, by rw [s.core_startWait], ?_⟩
    refine answered_completes hi.1 (s.core_startWait c _) rfl fun u hwait hpc hs => ⟨hwait, hpc, ?_⟩
    exact (congrArg (tabGet (fun _ => 0) rd.val) hs).trans (by exact ((s.core c).sreg_setS rd rd _).trans (if_pos rfl))
  · refine tallyAwait_completes_served rd hi.1 hstep hw rfl (by simp [newWait]) ?_ (exec_tallyWait hi hp hn ra)
    simpa [State.tallyHolds, newWait] using hle
  · have hh : ((s.startWait c (newWait .tallyWait id n (k.sreg ra))).setTally n
        { s.tally n with waiters := [{ who := .kingpost c, kind := .tallyWait, need := k.sreg ra }] }).tallyHolds n
        { who := .kingpost c, kind := .tallyWait, need := k.sreg ra } = false := by
      simpa [State.tallyHolds] using hlt
    have he := exec_tallyWait hi hp hn ra
    have hwaits := State.tallyAwait_waits (s := s.startWait c (newWait .tallyWait id n (k.sreg ra))) hw hh
    have hcore : ((s.startWait c (newWait .tallyWait id n (k.sreg ra))).tallyAwait n
        { who := .kingpost c, kind := .tallyWait, need := k.sreg ra }).core c =
        { s.core c with wait := some (newWait .tallyWait id n (k.sreg ra)) } := by
      rw [hwaits]
      exact s.core_startWait c _
    rw [State.stepWait_of_running ((congrArg Core.stepping hcore).trans hstep)] at he
    refine completes_of_eq he ⟨?_, ?_, ?_⟩
    · rw [hwaits, State.tally_setTally, if_pos rfl]; rfl
    · rw [hwaits, State.tally_setTally, if_pos rfl]; rfl
    · rw [hcore]
      simp [Core.canIssue]
  · refine tallyAwait_completes_served rd hi.1 hstep hw rfl (by simp [newWait]) ?_ (exec_tallyRoom hi hp hn)
    simp [State.tallyHolds, State.roomWaits, Tally.bounded]
    exact .inl (.inl hc)

/-! ### Bells -/

theorem State.bell_congr {s t : State} (h : t.bells = s.bells) (n : Nat) : t.bell n = s.bell n := by
  rw [State.bell, State.bell, h]

theorem State.core_setBell (s : State) (n : Nat) (b : Bell) (c : CoreId) : (s.setBell n b).core c = s.core c := rfl

/-- The bell at which a kingpost has arrived, under a participant count, and waits. -/
def Bell.arrivedAt (b : Bell) (stored : BitVec 13) (c : CoreId) : Bell :=
  { b with count := stored, arrived := b.arrived + 1, waiters := [{ who := .kingpost c, kind := .bellArrive, need := stored.setWidth 64 }] }

/-- The arrival of a kingpost at a bell on which nobody waits, under the bell's own participant count. -/
theorem State.bellArrive_eq {s : State} {c : CoreId} {pc : BitVec 48} {n count : Nat} (stored : BitVec 13)
    (hs : (if (s.bell n).count = 0 then BitVec.ofNat 13 count else (s.bell n).count) = stored) (hc : stored.toNat = count)
    (hw : (s.bell n).waiters = []) : s.bellArrive (.kingpost c pc) n count (some (.kingpost c)) =
      (if (s.bell n).arrived + 1 = stored then (s.setBell n ((s.bell n).arrivedAt stored c)).bellRelease n
        else s.setBell n ((s.bell n).arrivedAt stored c)).touched (s.bellOwner n) := by
  simp only [State.bellArrive, hs, hw, List.nil_append]
  rw [if_neg (not_not_intro hc)]
  rfl

/-- An arrival that is not the last one waits at the bell. -/
theorem State.bellArrive_waits {s : State} {c : CoreId} {pc : BitVec 48} {n count : Nat} (stored : BitVec 13)
    (hs : (if (s.bell n).count = 0 then BitVec.ofNat 13 count else (s.bell n).count) = stored) (hc : stored.toNat = count)
    (hw : (s.bell n).waiters = []) (hmore : (s.bell n).arrived + 1 ≠ stored) :
    (s.bellArrive (.kingpost c pc) n count (some (.kingpost c))).bell n = (s.bell n).arrivedAt stored c ∧
      (s.bellArrive (.kingpost c pc) n count (some (.kingpost c))).core c = s.core c := by
  rw [State.bellArrive_eq stored hs hc hw, if_neg hmore]
  obtain ⟨hcores, _, _, hbells, _⟩ :=
    State.fields_of_sansLogs (State.touched_sansLogs (s.setBell n ((s.bell n).arrivedAt stored c)) (s.bellOwner n))
  refine ⟨(State.bell_congr hbells n).trans ?_, State.core_congr hcores c⟩
  rw [State.bell_setBell, if_pos rfl]

/-- The last arrival releases the bell and the kingpost that brought it. -/
theorem State.bellArrive_last {s : State} {c : CoreId} {pc : BitVec 48} {n count : Nat} (stored : BitVec 13)
    (hs : (if (s.bell n).count = 0 then BitVec.ofNat 13 count else (s.bell n).count) = stored) (hc : stored.toNat = count)
    (hw : (s.bell n).waiters = []) (hlast : (s.bell n).arrived + 1 = stored) :
    let t := s.bellArrive (.kingpost c pc) n count (some (.kingpost c))
    t.bell n = { count := 0, arrived := 0, gen := (s.bell n).gen + 1, waiters := [] } ∧ t.alive = s.alive ∧
      t.core c = { s.core c with wait := (s.core c).wait.map (fun x => { x with satisfied := true, value := 0 }) } := by
  intro t
  have ht : t = _ := (State.bellArrive_eq stored hs hc hw).trans (by rw [if_pos hlast])
  obtain ⟨hcores, _, _, hbells, _, halive⟩ := State.fields_of_sansLogs (ht ▸ State.touched_sansLogs _ _)
  have hrel : (s.setBell n ((s.bell n).arrivedAt stored c)).bellRelease n =
      ((s.setBell n ((s.bell n).arrivedAt stored c)).setBell n
        { count := 0, arrived := 0, gen := (s.bell n).gen + 1, waiters := [] }).modCore c
        (fun k => { k with wait := k.wait.map (fun x => { x with satisfied := true, value := 0 }) }) := by
    simp only [State.bellRelease, State.bell_setBell, if_true, Bell.arrivedAt, State.releaseAll, List.foldl_cons, List.foldl_nil,
      State.release]
  rw [hrel] at hcores hbells halive
  refine ⟨(State.bell_congr hbells n).trans ?_, halive, (State.core_congr hcores c).trans ?_⟩
  · refine (State.bell_congr (State.setCore_bells _ _ _) n).trans ?_
    rw [State.bell_setBell, if_pos rfl]
  · rw [State.core_modCore, if_pos rfl]
    rfl

section
variable {s : State} {c : CoreId} {p : PartId} {id : BitVec 12} {n : Nat} (hi : Issues s c) (hp : s.partOf c = some p)
  (hn : s.bellRef p (s.core c).ctx id.toNat = some n)
include hi hp hn

theorem exec_bellArrive {ra : SReg} {cnt : BitVec 16} (harr : (s.core c).arrived = none) (h0 : 0 < cnt.toNat)
    (h1 : cnt.toNat ≤ 4096) : exec (.bellArrive c id false ra cnt) s =
      .next (((s.startWait c { newWait .bellArrive id n (BitVec.ofNat 64 cnt.toNat) with gen := (s.bell n).gen }).bellArrive
        (.kingpost c (s.core c).pc) n cnt.toNat (some (.kingpost c))).stepWait c) := by
  have hc : (s.core c).count false ra cnt = cnt := rfl
  have hno : ¬ (cnt.toNat = 0 ∨ 4096 < cnt.toNat) := by omega
  simp only [exec, execBellArrive, syncOp_eq hi hp, hn, harr, hc, Option.filter_none, if_neg hno]

end

/-! ### The withdrawal -/

/-- A stop that is not an abort leaves an idle engine as it is. -/
theorem State.holdEngine_of_idle {s : State} {c : CoreId} {k : StopKind} {u : EngineUnit} (h : (s.core c).engOf u = {}) :
    s.holdEngine c k u = s := by
  unfold State.holdEngine
  dsimp only
  rw [h]
  cases k <;> simp

/-- A core that has taken a stop, its engines and queues left aside. -/
def Core.stoppedBy (x : Core) (k : StopKind) : Core :=
  { x with
    stop := some k, stopReq := none, stalled := none, needLine := none, stepping := false
    stopCause := if k = .debugHalt then 1 else x.stopCause }

/-- A core whose engines are idle takes a stop: it stops, and an abort discards its commands. -/
theorem State.takeStop_of_idle {s : State} {c : CoreId} (h : ∀ u, (s.core c).engOf u = {}) (k : StopKind) :
    s.takeStop c k = if k = .abort then (s.modCore c (fun x => x.stoppedBy k)).modCore c (fun x => { x with queues := [] })
      else s.modCore c (fun x => x.stoppedBy k) := by
  have hidle (u : EngineUnit) : ((s.modCore c (fun x => x.stoppedBy k)).core c).engOf u = {} := by
    rw [State.core_modCore, if_pos rfl]
    exact h u
  have hhold (l : List EngineUnit) : l.foldl (fun t u => t.holdEngine c k u) (s.modCore c (fun x => x.stoppedBy k)) =
      s.modCore c (fun x => x.stoppedBy k) := by
    induction l with
    | nil => rfl
    | cons u l ih => rw [List.foldl_cons, State.holdEngine_of_idle (hidle u), ih]
  exact congrArg (fun t => if k = .abort then State.modCore t c (fun x => { x with queues := [] }) else t) (hhold allUnits)

theorem dropWaiter_of_who {who : WaiterId} {ws : List Waiter} (h : ws.map Waiter.who = [who]) : dropWaiter who ws = [] := by
  refine List.filter_eq_nil_iff.mpr fun w hw => ?_
  have hmem := List.mem_map_of_mem (f := Waiter.who) hw
  rw [h, List.mem_singleton] at hmem
  simp [hmem]

/-- The peg drops the only kingpost that waits at it. -/
theorem State.dropRequest_pegTake {s : State} {c : CoreId} {w : SyncWait} (hk : w.kind = .pegTake)
    (hw : (s.peg w.phys.toNat).waiters.map Waiter.who = [.kingpost c]) :
    s.dropRequest c w = (s.setPeg w.phys.toNat { s.peg w.phys.toNat with waiters := [] }).setPeg w.phys.toNat
      { s.peg w.phys.toNat with waiters := [] } := by
  simp only [State.dropRequest, hk, dropWaiter_of_who hw]
  rw [State.servePeg_of_no_waiters (by rw [State.peg_setPeg, if_pos rfl]), State.peg_setPeg, if_pos rfl]

theorem syncWithdraw_completes {s : State} {c : CoreId} {w : SyncWait} {k : StopKind} (ha : s.alive = true)
    (hr : (s.core c).stopReq = some k) (hwait : (s.core c).wait = some w) (hk : w.kind = .pegTake)
    (hs : w.satisfied = false) (ht : w.txn = none) (hab : k ≠ .abort) (hidle : ∀ u, (s.core c).engOf u = {})
    (hw : (s.peg w.phys.toNat).waiters.map Waiter.who = [.kingpost c]) :
    Completes (.syncWithdraw c) s (fun t =>
      (t.peg w.phys.toNat).waiters = [] ∧ (t.peg w.phys.toNat).count = (s.peg w.phys.toNat).count ∧
      (t.core c).stop = some k ∧ (t.core c).stopReq = none ∧ (t.core c).wait = none ∧ (t.core c).pc = (s.core c).pc) := by
  let g : Peg := { s.peg w.phys.toNat with waiters := [] }
  let f := fun x : Core => ({ x with wait := none, arrived := if w.kind = .bellArrive then some (w.phys, w.gen) else x.arrived } : Core)
  have hgive : s.giveUp c w = ((s.setPeg w.phys.toNat g).setPeg w.phys.toNat g).modCore c f := by
    rw [State.giveUp, State.dropRequest_pegTake hk hw]
  have hcore : (s.giveUp c w).core c = f (s.core c) := by
    rw [hgive, State.core_modCore, if_pos rfl]
    rfl
  have he : exec (.syncWithdraw c) s = .next ((s.giveUp c w).modCore c (fun x => x.stoppedBy k)) := by
    have hstop := State.takeStop_of_idle (s := s.giveUp c w) (c := c) (by rw [hcore]; exact hidle) k
    rw [if_neg hab] at hstop
    simp only [exec, execSyncWithdraw, hr, hwait, whenever_of_alive ha rfl, State.withdraw, hs, ht, hstop]
    rfl
  have hpeg : ((s.giveUp c w).modCore c (fun x => x.stoppedBy k)).peg w.phys.toNat = g := by
    rw [hgive]
    refine (State.peg_congr ((State.setCore_pegs _ _ _).trans (State.setCore_pegs _ _ _)) _).trans ?_
    rw [State.peg_setPeg, if_pos rfl]
  refine completes_of_eq he ⟨by rw [hpeg], by rw [hpeg], ?_⟩
  rw [State.core_modCore, if_pos rfl, hcore]
  exact ⟨rfl, rfl, rfl, rfl⟩

/-- Settles O18: the bell stores the count of the first arrival and is released by the last; a stop withdraws a take. -/
theorem bellsAndWithdrawal : Obligations.bellsAndWithdrawal := by
  refine ⟨?_, fun s c w k ha hr hwait hk hs ht hab hidle hw => syncWithdraw_completes ha hr hwait hk hs ht hab hidle hw⟩
  intro s c p id ra cnt n hi hp hn hstep harr h0 h1 k b
  let w : SyncWait := { newWait .bellArrive id n (BitVec.ofNat 64 cnt.toNat) with gen := b.gen }
  have he := exec_bellArrive (ra := ra) hi hp hn harr h0 h1
  refine ⟨fun hcount harrived hwaiters hmore => ?_, fun hcount harrived hwaiters => ?_⟩
  · have hst : (BitVec.ofNat 13 cnt.toNat).toNat = cnt.toNat := by
      rw [BitVec.toNat_ofNat]; exact Nat.mod_eq_of_lt (by omega)
    obtain ⟨hbell, hcore⟩ := State.bellArrive_waits (s := s.startWait c w) (c := c) (pc := k.pc) (n := n)
      (BitVec.ofNat 13 cnt.toNat) (if_pos hcount) hst hwaiters (by
        intro h
        have hz : ((s.startWait c w).bell n).arrived = 0 := harrived
        have hone := congrArg BitVec.toNat h
        rw [hst, hz] at hone
        exact absurd hone (by simp; omega))
    rw [s.core_startWait] at hcore
    rw [State.stepWait_of_running (by exact (congrArg Core.stepping hcore).trans hstep)] at he
    refine completes_of_eq he ⟨?_, ?_, ?_, ?_, ?_, ?_⟩
    · rw [hbell]; exact hst
    · rw [hbell]; exact congrArg (· + 1) harrived
    · rw [hbell]; rfl
    · rw [hbell]; rfl
    · rw [hcore]
    · rw [hcore]; simp [Core.canIssue]
  · have hne : b.count ≠ 0 := fun h => by simp [h] at hcount; omega
    obtain ⟨hbell, halive, hcore⟩ := State.bellArrive_last (s := s.startWait c w) (c := c) (pc := k.pc) (n := n)
      (count := cnt.toNat) b.count (if_neg hne) hcount hwaiters harrived
    rw [s.core_startWait] at hcore
    rw [State.stepWait_of_running (by exact (congrArg Core.stepping hcore).trans hstep)] at he
    refine completes_of_eq he ⟨hbell, ?_⟩
    exact answered_completes (halive.trans hi.1) hcore rfl fun u hnone hpc _ => ⟨hnone, hpc⟩

end Sys2Proof.Machine
end

section
/-! PROOFS. A command instruction enters its queue or stalls (R29 to R31, R34, R63). -/

namespace Sys2Proof.Machine

theorem checked_of_wf {i : Instr} {n : String} {r : Res} (h : i.wf = true) : checked i n r = r := by
  rw [checked, checkedIf, h, if_pos rfl]

/-- A core whose kingpost issues has no stalled instruction. -/
theorem Core.stalled_of_canIssue {k : Core} (h : k.canIssue = true) : k.stalled = none := by
  simp only [Core.canIssue, Bool.and_eq_true, Option.isNone_iff_eq_none] at h
  obtain ⟨⟨⟨_, hs⟩, _⟩, _⟩ := h
  exact hs

theorem pushOp_of_room {s : State} {c : CoreId} {opc : BitVec 8} {h : CmdHdr} {w : List Word} (hi : Issues s c)
    (hroom : (s.core c).full (cmdUnit opc.toNat h) = false) :
    pushOp s c opc h w = .next (s.enqueue c { opc := opc, h := h, w := w }) := by
  simp only [pushOp, whenever_of_alive hi.1 hi.2, hroom, Bool.false_eq_true, if_false]

/-- The core after a push. -/
theorem State.core_enqueue (s : State) (c : CoreId) (x : Cmd) (d : CoreId) : (s.enqueue c x).core d =
    if d = c then (({ (s.core c).setQueue (cmdUnit x.opc.toNat x.h)
        ((s.core c).queueOf (cmdUnit x.opc.toNat x.h) ++
          [{ x with h := { x.h with tag := s.cmdTag c x.h.tag }, w := x.w.map (s.core c).operand }]) with
      lastTag := s.cmdTag c x.h.tag, stalled := none } : Core).issued
        ((s.core c).pc + BitVec.ofNat 48 (cmdSize x.opc.toNat)))
    else s.core d := by
  have hlog : (s.logOperands c x (s.cmdTag c x.h.tag)).cores = s.cores := by simp
  rw [State.enqueue, State.core_modCore, State.core_congr hlog]
  split
  · rw [Core.retire_eq]
    rfl
  · exact State.core_congr hlog d

/-- What a push into a queue with room leaves. -/
def Pushed (s : State) (c : CoreId) (opc : BitVec 8) (h : CmdHdr) (u : EngineUnit) (w : List Word) (n : Nat) (t : State) : Prop :=
  let k := s.core c
  let tag := if h.tag = 0 then BitVec.ofNat 16 (s.launchTag c) else h.tag
  (k.reservedValues opc.toNat w = [] → OnlyCore c s t) ∧ (∀ d, d ≠ c → t.core d = s.core d) ∧ t.mem = s.mem ∧
    t.core c = ({ k with queues := (t.core c).queues, lastTag := tag } : Core).issued (k.pc + BitVec.ofNat 48 n) ∧
    (t.core c).queueOf u = k.queueOf u ++ [{ opc := opc, h := { h with tag := tag }, w := w.map k.operand }] ∧
    ∀ v, v ≠ u → (t.core c).queueOf v = k.queueOf v

theorem State.enqueue_pushed {s : State} {c : CoreId} {opc : BitVec 8} {h : CmdHdr} {w : List Word}
    (hi : (s.core c).stalled = none) :
    Pushed s c opc h (cmdUnit opc.toNat h) w (cmdSize opc.toNat) (s.enqueue c { opc := opc, h := h, w := w }) := by
  have hcore := s.core_enqueue c { opc := opc, h := h, w := w }
  have hc := hcore c
  rw [if_pos rfl] at hc
  refine ⟨fun hr => ?_, fun d hd => ?_, by simp [State.enqueue], ?_, ?_, fun v hv => ?_⟩
  · have hlog : s.logOperands c { opc := opc, h := h, w := w } (s.cmdTag c h.tag) = s := by
      simp only [State.logOperands, hr, List.foldl_nil]
    rw [State.enqueue, hlog]
    exact onlyCore_modCore _ _ _
  · rw [hcore d, if_neg hd]
  · rw [hc]
    simp only [Core.issued, Core.setQueue, ← hi]
    rfl
  · rw [hc]
    exact ((s.core c).queueOf_setQueue _ _ _).trans (if_pos rfl)
  · rw [hc]
    exact ((s.core c).queueOf_setQueue _ _ _).trans (if_neg hv)

theorem push_completes {i : Instr} {s : State} {c : CoreId} {opc : BitVec 8} {h : CmdHdr} {u : EngineUnit} {w : List Word}
    {n : Nat} (hi : Issues s c) (he : exec i s = pushOp s c opc h w) (hu : cmdUnit opc.toNat h = u)
    (hn : cmdSize opc.toNat = n) (hroom : (s.core c).full u = false) : Completes i s (Pushed s c opc h u w n) := by
  subst hu hn
  exact completes_of_eq (he.trans (pushOp_of_room hi hroom)) (State.enqueue_pushed (Core.stalled_of_canIssue hi.2))

/-- Settles O19: one lemma for every command instruction; a stalled push is the same push later. -/
theorem pushes : Obligations.pushes := by
  refine ⟨?_, ?_⟩
  · intro s c h w3 w7 hi h3 h7 k tag plane cart
    have e3 {i : Instr} {n : String} {r : Res} (hw : i.wf = narrowOperands w3) : checked i n r = r :=
      checked_of_wf (hw.trans (decide_eq_true h3))
    have e7 {i : Instr} {n : String} {r : Res} (hw : i.wf = wideOperands w7) : checked i n r = r :=
      checked_of_wf (hw.trans (decide_eq_true h7))
    simp only [List.forall_mem_cons]
    exact ⟨push_completes hi (e7 rfl) rfl rfl, push_completes hi (e3 rfl) rfl rfl, push_completes hi (e3 rfl) rfl rfl,
      push_completes hi (e3 rfl) rfl rfl, push_completes hi (e3 rfl) rfl rfl, push_completes hi (e3 rfl) rfl rfl,
      push_completes hi (e3 rfl) rfl rfl, push_completes hi (e3 rfl) rfl rfl, push_completes hi (e3 rfl) rfl rfl,
      push_completes hi (e3 rfl) rfl rfl, push_completes hi (e3 rfl) rfl rfl, push_completes hi (e3 rfl) rfl rfl,
      push_completes hi (e3 rfl) rfl rfl, push_completes hi (e3 rfl) rfl rfl, push_completes hi (e3 rfl) rfl rfl,
      push_completes hi (e3 rfl) rfl rfl, push_completes hi (e3 rfl) rfl rfl, push_completes hi (e3 rfl) rfl rfl,
      push_completes hi (e3 rfl) rfl rfl, push_completes hi (e3 rfl) rfl rfl, push_completes hi (e3 rfl) rfl rfl,
      push_completes hi (e3 rfl) rfl rfl, push_completes hi (e3 rfl) rfl rfl, push_completes hi (e7 rfl) rfl rfl,
      push_completes hi (e7 rfl) rfl rfl, push_completes hi (e7 rfl) rfl rfl, fun _ h => absurd h List.not_mem_nil⟩
  · intro s c h w hi hw hstep k u x
    refine ⟨fun hfull => ?_, fun t ha hc hroom hstop => ?_⟩
    · have he : exec (.planeAdd c h w) s = .next (s.modCore c (fun k => if k.stepping then k.stepDone 3 else { k with stalled := some x })) := by
        refine (checked_of_wf (i := .planeAdd c h w) (decide_eq_true hw)).trans ?_
        exact (whenever_of_alive hi.1 hi.2 _).trans (congrArg _ (if_pos hfull))
      have hk : (s.modCore c (fun k => if k.stepping then k.stepDone 3 else { k with stalled := some x })).core c =
          { s.core c with stalled := some x } := by
        rw [State.core_modCore, if_pos rfl, if_neg (by simp [hstep])]
      refine completes_of_eq he ⟨onlyCore_modCore _ _ _, hk, ?_⟩
      rw [hk]
      simp [Core.canIssue]
    · have he : exec (.pushAfterStall c) t = .next (t.enqueue c x) := by
        simp only [exec, execPushAfterStall, hc]
        refine whenever_of_alive ha ?_ _
        exact (by simp [hstop]; exact hroom)
      have hcore := t.core_enqueue c x c
      rw [if_pos rfl, hc] at hcore
      refine completes_of_eq he ⟨?_, ?_, ?_⟩
      · rw [hcore]
        exact (Core.queueOf_setQueue _ _ _ _).trans (if_pos rfl)
      · rw [hcore]; rfl
      · rw [hcore]; rfl

end Sys2Proof.Machine
end

section
/-! PROOFS. What the schedule of the beam and of the planes leaves of a core (R52, R69, R90, R126). -/

namespace Sys2Proof.Machine

/-- A core without bench, tile and engines, and the commands of its engines: what the work of an engine leaves. -/
def Core.sansWork (k : Core) : Core × (EngineUnit → Option Cmd) :=
  ({ k with bench := [], tile := {}, eng := [] }, fun u => (k.engOf u).cmd)

/-- What two cores have in common that differ in the work of engines alone. -/
theorem Core.fields_of_sansWork {k l : Core} (h : k.sansWork = l.sansWork) :
    k.s = l.s ∧ k.pc = l.pc ∧ k.queues = l.queues ∧ k.flags = l.flags ∧ k.stop = l.stop := by
  have field {α : Type} (f : Core → α) : f k.sansWork.1 = f l.sansWork.1 := congrArg (fun x => f x.1) h
  exact ⟨field Core.s, field Core.pc, field Core.queues, field Core.flags, field Core.stop⟩

theorem Core.cmd_of_sansWork {k l : Core} (h : k.sansWork = l.sansWork) (u : EngineUnit) : (k.engOf u).cmd = (l.engOf u).cmd :=
  congrArg (fun x => x.2 u) h

@[simp] theorem Core.sansWork_setEng (k : Core) (u : EngineUnit) (e : Eng) (h : e.cmd = (k.engOf u).cmd) :
    (k.setEng u e).sansWork = k.sansWork := by
  refine Prod.ext rfl (funext fun v => ?_)
  change ((k.setEng u e).engOf v).cmd = (k.engOf v).cmd
  rw [Core.engOf_setEng]
  split
  next hv => rw [hv, h]
  next => rfl

@[simp] theorem Core.sansWork_modEng (k : Core) (u : EngineUnit) (f : Eng → Eng) (h : ∀ e, (f e).cmd = e.cmd) :
    (k.modEng u f).sansWork = k.sansWork := k.sansWork_setEng u _ (h _)

@[simp] theorem Core.sansWork_store (k : Core) (a : Nat) (bs : List Byte) : (k.store a bs).sansWork = k.sansWork := rfl

@[simp] theorem Core.sansWork_tile (k : Core) (tile : Tile) : ({ k with tile := tile } : Core).sansWork = k.sansWork := rfl

@[simp] theorem Core.sansWork_bench (k : Core) (bench : Tab Byte) : ({ k with bench := bench } : Core).sansWork = k.sansWork := rfl

theorem Core.sansWork_foldl {α : Type} (f : Core → α → Core) (h : ∀ k a, (f k a).sansWork = k.sansWork) (l : List α)
    (k : Core) : (l.foldl f k).sansWork = k.sansWork := by
  induction l generalizing k with
  | nil => rfl
  | cons a l ih => rw [List.foldl_cons, ih, h]

/-! ### The planes -/

@[simp] theorem Core.sansWork_planeWrites (k : Core) (port : Nat) (u : EngineUnit) (t : Nat) :
    (k.planeWrites port u t).sansWork = k.sansWork := by
  unfold Core.planeWrites
  dsimp only
  refine (Core.sansWork_modEng _ _ _ ?_).trans (Core.sansWork_foldl _ ?_ _ _)
  · exact fun _ => rfl
  · exact fun k o => by simp

@[simp] theorem PlaneJob.ask_cmd (j : PlaneJob) (e : Eng) (t lim : Nat) : (j.ask e t lim).cmd = e.cmd := by
  unfold PlaneJob.ask
  split <;> rfl

@[simp] theorem PlaneJob.issue_cmd (j : PlaneJob) (e : Eng) (t : Nat) : (j.issue e t).cmd = e.cmd := by
  unfold PlaneJob.issue
  dsimp only
  split <;> rfl

@[simp] theorem Core.planeReads_cmd (k : Core) (port : Nat) (e : Eng) (t : Nat) : (k.planeReads port e t).cmd = e.cmd := by
  unfold Core.planeReads
  split <;> rfl

@[simp] theorem planeCycle_sansWork (k : Core) (u : EngineUnit) (c : Cmd) (t lim : Nat) :
    (planeCycle k u c t lim).core.sansWork = k.sansWork := by
  unfold planeCycle
  dsimp only
  split
  · simp
  · rw [Core.sansWork_planeWrites, Core.sansWork_setEng]
    split <;> simp

/-! ### The beam -/

@[simp] theorem BeamJob.writeRow_sansWork (j : BeamJob) (k : Core) (r : RowOut) (l : Nat) :
    (j.writeRow k r l).sansWork = k.sansWork := by simp [BeamJob.writeRow]

@[simp] theorem BeamJob.writes_sansWork (j : BeamJob) (t w : Nat) (banks : List Nat) (k : Core) :
    (j.writes t w banks k).sansWork = k.sansWork := by
  induction w generalizing banks k with
  | zero => rfl
  | succ w ih =>
    unfold BeamJob.writes
    split
    · rfl
    · split
      · rw [ih]; simp
      · rfl

@[simp] theorem BeamJob.accReads_sansWork (j : BeamJob) (t w : Nat) (banks : List Nat) (k : Core) :
    (j.accReads t w banks k).sansWork = k.sansWork := by
  induction w generalizing banks k with
  | zero => rfl
  | succ w ih =>
    unfold BeamJob.accReads
    split
    · rfl
    · split
      · rw [ih]; simp
      · rfl

@[simp] theorem BeamJob.askRow_sansWork (j : BeamJob) (k : Core) (i : Nat) : (j.askRow k i).core.sansWork = k.sansWork := by
  unfold BeamJob.askRow
  dsimp only
  (repeat' split) <;> simp

@[simp] theorem BeamJob.rowCycle_sansWork (j : BeamJob) (k : Core) (l : TileLoad) (i t : Nat) :
    (j.rowCycle k l i t).sansWork = k.sansWork := by
  unfold BeamJob.rowCycle
  dsimp only
  split <;> simp

@[simp] theorem BeamJob.inputs_sansWork (j : BeamJob) (t duty lim n w : Nat) (banks : List Nat) (wk : Work) :
    (j.inputs t duty lim n w banks wk).core.sansWork = wk.core.sansWork := by
  induction n generalizing w banks wk with
  | zero => rfl
  | succ n ih =>
    unfold BeamJob.inputs
    dsimp only
    (repeat' split) <;> simp [ih]

@[simp] theorem Core.sansWork_weights (k : Core) (t : Nat) : (k.weights t).sansWork = k.sansWork := by
  unfold Core.weights
  dsimp only
  (repeat' split) <;> simp

@[simp] theorem beamLoadCycle_sansWork (k : Core) (c : Cmd) (t : Nat) : (beamLoadCycle k c t).core.sansWork = k.sansWork := by
  unfold beamLoadCycle
  dsimp only
  (repeat' split) <;> simp

@[simp] theorem beamCycle_sansWork (k : Core) (c : Cmd) (t duty lim : Nat) :
    (beamCycle k c t duty lim).core.sansWork = k.sansWork := by
  unfold beamCycle
  dsimp only
  (repeat' split) <;> simp

/-! ### The schedule -/

@[simp] theorem workCycle_sansWork (k : Core) (u : EngineUnit) (x : Cmd) (t duty lim : Nat) :
    (workCycle k u x t duty lim).core.sansWork = k.sansWork := by
  cases u <;> simp [workCycle]

@[simp] theorem workRun_sansWork (u : EngineUnit) (x : Cmd) (duty lim n t : Nat) (k : Core) (rows : Nat) :
    (workRun u x duty lim n t k rows).core.sansWork = k.sansWork := by
  induction n generalizing t k rows with
  | zero => rfl
  | succ n ih =>
    unfold workRun
    dsimp only
    (repeat' split) <;> simp [ih]

@[simp] theorem workOf_sansWork (k : Core) (u : EngineUnit) (x : Cmd) (t duty lim : Nat) :
    (workOf k u x t duty lim).core.sansWork = k.sansWork := workRun_sansWork _ _ _ _ _ _ _ _

end Sys2Proof.Machine
end

section
/-! PROOFS. Commands finish; engines stop and resume (R32, R38, R52, R92 to R95, R135). -/

namespace Sys2Proof.Machine

/-! ### The flags of a command that ends -/

theorem Core.joinFlags_of_engine {u : EngineUnit} {f : Nat} (h : flagEngine u = some f) (k : Core) (x : BitVec 6) :
    k.joinFlags u x = k.setFlagWord f (k.flagWord f ||| x) := by
  rw [Core.joinFlags, h]
  rfl

theorem Core.joinFlags_cart (k : Core) (n : Fin 2) (x : BitVec 6) : k.joinFlags (cartUnit n) x = k := by
  fin_cases n <;> rfl

/-- The sticky words after an engine's flags have joined. -/
theorem Core.flagWord_joinFlags {u : EngineUnit} {f : Nat} (h : flagEngine u = some f) (k : Core) (x : BitVec 6) (m : Nat) :
    (k.joinFlags u x).flagWord m = if m = f then k.flagWord f ||| x else k.flagWord m := by
  rw [Core.joinFlags_of_engine h, Core.flagWord_setFlagWord]

/-! ### The end of a command -/

/-- A trace record touches registers and the trace. -/
theorem State.traceRec_eq (s : State) (p : Option PartId) (kind unit core ctx tag opc reason val : Nat) :
    let t := s.traceRec p kind unit core ctx tag opc reason val
    t = { s with regs := t.regs, trace := t.trace } := by
  unfold State.traceRec
  dsimp only
  split
  · rfl
  · (repeat' split) <;> rfl

theorem State.traceCmd_eq (s : State) (c : CoreId) (u : EngineUnit) (x : Cmd) (kind reason val : Nat) :
    let t := s.traceCmd c u x kind reason val
    t = { s with regs := t.regs, trace := t.trace } := State.traceRec_eq _ _ _ _ _ _ _ _ _ _

/-- A record of a command of a core, whose core has changed too. -/
theorem onlyCore_traceCmd (s : State) (c : CoreId) (f : Core → Core) (u : EngineUnit) (x : Cmd) (kind reason val : Nat) :
    let t := (s.modCore c f).traceCmd c u x kind reason val
    OnlyCore c { s with regs := t.regs, trace := t.trace } t := by
  intro t
  have hcores : t.cores = (s.modCore c f).cores := State.traceCmd_cores _ _ _ _ _ _ _
  have ht : t = { s.modCore c f with regs := t.regs, trace := t.trace } := State.traceCmd_eq _ _ _ _ _ _ _
  refine ⟨?_, fun d hd => ?_⟩
  · rw [hcores]
    exact ht
  · rw [State.core_congr hcores, State.core_modCore, if_neg hd]
    rfl

/-- A core whose engine has ended its command. -/
def Core.ended (k : Core) (u : EngineUnit) : Core := (k.joinFlags u (k.engOf u).flags).modEng u Eng.cleared

/-- A command without a post that has done all of its work. -/
theorem State.endCmd_none {s : State} {c : CoreId} {u : EngineUnit} {x : Cmd} (hpost : x.h.postEn = false) :
    s.endCmd c u x none = (s.modCore c (fun k => (k.joinFlags u ((s.core c).engOf u).flags).modEng u Eng.cleared)).traceCmd
      c u x 2 0 ((s.core c).engOf u).lines := by
  simp [State.endCmd, State.post, hpost]

theorem State.core_endCmd_none {s : State} {c : CoreId} {u : EngineUnit} {x : Cmd} (hpost : x.h.postEn = false) (d : CoreId) :
    (s.endCmd c u x none).core d = if d = c then (s.core c).ended u else s.core d := by
  rw [State.endCmd_none hpost, State.core_congr (State.traceCmd_cores _ _ _ _ _ _ _), State.core_modCore]
  rfl

theorem Core.engOf_modEng (k : Core) (u v : EngineUnit) (f : Eng → Eng) :
    (k.modEng u f).engOf v = if v = u then f (k.engOf u) else k.engOf v := k.engOf_setEng u v _

theorem Core.engOf_joinFlags (k : Core) (u v : EngineUnit) (x : BitVec 6) : (k.joinFlags u x).engOf v = k.engOf v := by
  unfold Core.joinFlags
  split <;> rfl

theorem Core.engOf_ended (k : Core) (u v : EngineUnit) :
    (k.ended u).engOf v = if v = u then (k.engOf u).cleared else k.engOf v := by
  rw [Core.ended, Core.engOf_modEng, Core.engOf_joinFlags, Core.engOf_joinFlags]

/-- A core without flags and engines: what the end of a command leaves. -/
def Core.sansEnd (k : Core) : Core := { k with flags := [], eng := [] }

theorem Core.fields_of_sansEnd {k l : Core} (h : k.sansEnd = l.sansEnd) :
    k.s = l.s ∧ k.queues = l.queues ∧ k.bench = l.bench ∧ k.tile = l.tile := by
  have field {α : Type} (f : Core → α) : f k.sansEnd = f l.sansEnd := congrArg f h
  exact ⟨field Core.s, field Core.queues, field Core.bench, field Core.tile⟩

theorem Core.sansEnd_joinFlags (k : Core) (u : EngineUnit) (x : BitVec 6) : (k.joinFlags u x).sansEnd = k.sansEnd := by
  unfold Core.joinFlags
  split <;> rfl

theorem Core.sansEnd_ended (k : Core) (u : EngineUnit) : (k.ended u).sansEnd = k.sansEnd :=
  k.sansEnd_joinFlags u _

/-! ### Commands finish -/

/-- The state once the work of an engine stands in its core. -/
theorem State.core_workDone (s : State) (c : CoreId) (w : Work) (d : CoreId) :
    (s.workDone c w).core d = if d = c then w.core else s.core d := by
  rw [State.workDone, State.core_congr (State.countN_cores _ _ _ _), State.core_setCore]

/-- A running beam or plane command that nothing holds runs its schedule out and ends. -/
theorem State.finishWork_of_done {s : State} {c : CoreId} {u : EngineUnit} {x : Cmd} (he : ((s.core c).engOf u).early = none)
    (hs : (s.runOut c u x).stop = none) :
    s.finishWork c u x = (s.workDone c (s.runOut c u x)).endCmd c u x none := by
  simp only [State.finishWork, he, hs, Option.map_none]

theorem exec_commandFinish_work {s : State} {c : CoreId} {u : EngineUnit} {x : Cmd} (ha : s.alive = true)
    (hu : u = .beam ∨ u = .plane0 ∨ u = .plane1) (hx : ((s.core c).engOf u).cmd = some x)
    (hr : ((s.core c).engOf u).phase = .running) (hs : ((s.core c).engOf u).stopped = false)
    (hl : ((s.core c).engOf u).limit = none) :
    exec (.commandFinish c u) s = .next (s.finishWork c u x) := by
  have hm : s.mayFinish c u x = true := by simp [State.mayFinish, hl]
  simp only [exec, execCommandFinish, hx]
  refine (whenever_of_alive ha (by simp [hr, hs]) _).trans ?_
  obtain rfl | rfl | rfl := hu <;> simp [hm]

theorem exec_commandFinish_cart {s : State} {c : CoreId} {n : Fin 2} {x : Cmd} (ha : s.alive = true)
    (hx : ((s.core c).engOf (cartUnit n)).cmd = some x) (hr : ((s.core c).engOf (cartUnit n)).phase = .running)
    (hs : ((s.core c).engOf (cartUnit n)).stopped = false) (hd : ((s.core c).engOf (cartUnit n)).cartDone = true)
    (he : ((s.core c).engOf (cartUnit n)).early = none) :
    exec (.commandFinish c (cartUnit n)) s = .next (s.endCmd c (cartUnit n) x none) := by
  simp only [exec, execCommandFinish, hx]
  refine (whenever_of_alive ha (by simp [hr, hs]) _).trans ?_
  fin_cases n
  · exact congrArg _ ((if_pos hd).trans (congrArg _ he))
  · exact congrArg _ ((if_pos hd).trans (congrArg _ he))

/-- What a finished command leaves, for the work `w` that ran it out. -/
theorem commandFinish_work_completes {s : State} {c : CoreId} {u : EngineUnit} {x : Cmd} {f : Nat} {w : Work}
    (he : exec (.commandFinish c u) s = .next ((s.workDone c w).endCmd c u x none)) (hf : flagEngine u = some f)
    (hpost : x.h.postEn = false) (hsans : w.core.sansWork = (s.core c).sansWork) :
    Completes (.commandFinish c u) s (fun t =>
      ((t.core c).engOf u).phase = .idle ∧ ((t.core c).engOf u).cmd = none ∧ (t.core c).bench = w.core.bench ∧
      (t.core c).tile = w.core.tile ∧ (t.core c).s = (s.core c).s ∧ (t.core c).queues = (s.core c).queues ∧
      (t.core c).flagWord f = (s.core c).flagWord f ||| (w.core.engOf u).flags ∧
      (∀ m, m ≠ f → (t.core c).flagWord m = (s.core c).flagWord m) ∧ t.mem = s.mem ∧ ∀ d, d ≠ c → t.core d = s.core d) := by
  have hcore (d : CoreId) : ((s.workDone c w).endCmd c u x none).core d = if d = c then w.core.ended u else s.core d := by
    rw [State.core_endCmd_none hpost, State.core_workDone, if_pos rfl, State.core_workDone]
    split <;> rfl
  have hc := (hcore c).trans (if_pos rfl)
  obtain ⟨hregs, _, hqueues, hflags, _⟩ := Core.fields_of_sansWork hsans
  obtain ⟨es, eq, eb, et⟩ := Core.fields_of_sansEnd (w.core.sansEnd_ended u)
  have hword (m : Nat) : w.core.flagWord m = (s.core c).flagWord m := congrArg (tabGet (fun _ => 0) m) hflags
  have hend (m : Nat) : (w.core.ended u).flagWord m = (w.core.joinFlags u (w.core.engOf u).flags).flagWord m := rfl
  refine completes_of_eq he ?_
  rw [hc, Core.engOf_ended, if_pos rfl]
  refine ⟨rfl, rfl, eb, et, es.trans hregs, eq.trans hqueues, ?_, fun m hm => ?_, ?_, fun d hd => ?_⟩
  · rw [hend, Core.flagWord_joinFlags hf, if_pos rfl, hword]
  · rw [hend, Core.flagWord_joinFlags hf, if_neg hm, hword]
  · simp [State.workDone]
  · rw [hcore, if_neg hd]

theorem State.runOut_sansWork (s : State) (c : CoreId) (u : EngineUnit) (x : Cmd) :
    (s.runOut c u x).core.sansWork = (s.core c).sansWork := workOf_sansWork _ _ _ _ _ _

/-- Settles O21: the schedule touches bench, tile and engines, and the end of the command its flags and engine. -/
theorem commandsFinish : Obligations.commandsFinish := by
  refine ⟨?_, ?_⟩
  · intro s c u x f ha hu hf k e hx hr hs he hl hpost w hw
    have hrun := (exec_commandFinish_work ha hu hx hr hs hl).trans (congrArg _ (State.finishWork_of_done he hw))
    exact commandFinish_work_completes hrun hf hpost (s.runOut_sansWork c u x)
  · intro s c n x ha k u e hx hr hs hd he hpost
    refine completes_of_eq (exec_commandFinish_cart ha hx hr hs hd he) ?_
    have hcore := State.core_endCmd_none (s := s) (c := c) (u := u) (x := x) hpost
    refine ⟨?_, ?_⟩
    · rw [State.endCmd_none hpost]
      exact onlyCore_traceCmd _ _ _ _ _ _ _ _
    · rw [hcore, if_pos rfl, Core.ended, Core.joinFlags_cart]
      rfl

/-! ### Engines stop -/

/-- The engine that has stopped with its record. -/
theorem State.markStopped_keep {s : State} {c : CoreId} {u : EngineUnit} (h : (s.core c).stop ≠ some .abort) :
    s.markStopped c u = s.setCore c ((s.core c).setEng u { (s.core c).engOf u with
      stopped := true, flow := {}, idx := none
      record := match ((s.core c).engOf u).cmd with
        | some x => runRecord (s.core c) u x ((s.core c).engOf u)
        | none => idleRecord (s.core c) u }) := by
  simp only [State.markStopped, if_neg h] <;> rfl

/-- The engine that an abort has stopped. -/
theorem State.markStopped_abort {s : State} {c : CoreId} {u : EngineUnit} (h : (s.core c).stop = some .abort) :
    s.markStopped c u = s.setCore c (((s.core c).joinFlags u ((s.core c).engOf u).flags).setEng u { stopped := true }) := by
  simp only [State.markStopped, if_pos h]

theorem exec_engineStopped_idle {s : State} {c : CoreId} {u : EngineUnit} {kind : StopKind} (n : Nat) (ha : s.alive = true)
    (hk : (s.core c).stop = some kind) (hs : ((s.core c).engOf u).stopped = false) (hx : ((s.core c).engOf u).cmd = none)
    (hu : u ≠ .grind) : exec (.engineStopped c u n) s = .next (s.markStopped c u) := by
  simp only [exec, execEngineStopped]
  refine (whenever_of_alive ha (by simp [hk, hs]) _).trans (congrArg _ ?_)
  rw [hx]
  cases u with
  | grind => exact absurd rfl hu
  | _ => rfl

theorem exec_engineStopped_work {s : State} {c : CoreId} {u : EngineUnit} {kind : StopKind} {x : Cmd} {n l : Nat}
    (ha : s.alive = true) (hk : (s.core c).stop = some kind) (hs : ((s.core c).engOf u).stopped = false)
    (hu : u = .beam ∨ u = .plane0 ∨ u = .plane1) (hx : ((s.core c).engOf u).cmd = some x)
    (he : ((s.core c).engOf u).early = none) (hl : ((s.core c).engOf u).limit = some l)
    (hlim : laterStop (s.core c) u x l n < unitsOfCmd (s.core c) u x)
    (hw : (workOf (s.core c) u x s.coreCycle s.duty (laterStop (s.core c) u x l n)).stop = none) :
    exec (.engineStopped c u n) s = .next
      ((s.workDone c (workOf (s.core c) u x s.coreCycle s.duty (laterStop (s.core c) u x l n))).markStopped c u) := by
  have hafter : s.stopAfter c u x (laterStop (s.core c) u x l n) =
      (s.workDone c (workOf (s.core c) u x s.coreCycle s.duty (laterStop (s.core c) u x l n))).markStopped c u := by
    simp only [State.stopAfter, hw]
  have hgo : (((s.core c).engOf u).early.isNone && decide (laterStop (s.core c) u x l n < unitsOfCmd (s.core c) u x)) = true := by
    simp [he, hlim]
  simp only [exec, execEngineStopped]
  refine (whenever_of_alive ha (by simp [hk, hs]) _).trans (congrArg _ ?_)
  rw [← hafter, hx]
  obtain rfl | rfl | rfl := hu <;> simp only [hl, hgo, if_true]

theorem exec_engineResume_other {s : State} {c : CoreId} {u : EngineUnit} (ha : s.alive = true)
    (hu : u = .plane0 ∨ u = .plane1 ∨ u = .grind) (hk : (s.core c).stop = none) (hs : ((s.core c).engOf u).stopped = true) :
    exec (.engineResume c u) s = .next (s.modEng c u (fun e => { e with stopped := false, limit := none })) := by
  simp only [exec, execEngineResume]
  refine (whenever_of_alive ha (by simp [hk, hs]) _).trans ?_
  obtain rfl | rfl | rfl := hu <;> rfl

/-- What an engine leaves that has stopped after the work `w`. -/
theorem engineStopped_work_completes {s : State} {c : CoreId} {u : EngineUnit} {kind : StopKind} {w : Work} {x : Cmd} {n : Nat}
    (he : exec (.engineStopped c u n) s = .next ((s.workDone c w).markStopped c u))
    (hk : (s.core c).stop = some kind) (hsans : w.core.sansWork = (s.core c).sansWork) (hx : (w.core.engOf u).cmd = some x) :
    Completes (.engineStopped c u n) s (fun t =>
      (t.core c).bench = w.core.bench ∧ (t.core c).s = (s.core c).s ∧ t.mem = s.mem ∧ (∀ d, d ≠ c → t.core d = s.core d) ∧
      (kind ≠ .abort → (t.core c).engOf u = { w.core.engOf u with
        stopped := true, record := runRecord w.core u x (w.core.engOf u), flow := {}, idx := none }) ∧
      (kind = .abort → (t.core c).engOf u = { stopped := true } ∧
        ∀ f, flagEngine u = some f → (t.core c).flagWord f = (s.core c).flagWord f ||| (w.core.engOf u).flags)) := by
  obtain ⟨hregs, _, _, hflags, hstop⟩ := Core.fields_of_sansWork hsans
  have hc : (s.workDone c w).core c = w.core := (s.core_workDone c w c).trans (if_pos rfl)
  have hd (d : CoreId) (h : d ≠ c) : (s.workDone c w).core d = s.core d := (s.core_workDone c w d).trans (if_neg h)
  have hmem : ((s.workDone c w).markStopped c u).mem = s.mem := by simp [State.workDone]
  by_cases hab : kind = .abort
  · subst hab
    have hm := State.markStopped_abort (s := s.workDone c w) (c := c) (u := u) (by rw [hc, hstop, hk])
    rw [hc] at hm
    obtain ⟨es, _, eb, _⟩ := Core.fields_of_sansEnd (w.core.sansEnd_joinFlags u (w.core.engOf u).flags)
    refine completes_of_eq he ?_
    rw [hmem, hm, State.core_setCore, if_pos rfl]
    refine ⟨eb, es.trans hregs, rfl, fun d h => ?_, fun h => absurd rfl h, fun _ => ⟨?_, fun f hf => ?_⟩⟩
    · rw [State.core_setCore, if_neg h, hd d h]
    · rw [Core.engOf_setEng, if_pos rfl]
    · have hword : w.core.flagWord f = (s.core c).flagWord f := congrArg (tabGet (fun _ => 0) f) hflags
      rw [← hword]
      exact (w.core.flagWord_joinFlags hf _ f).trans (if_pos rfl)
  · have hm := State.markStopped_keep (s := s.workDone c w) (c := c) (u := u) (by rw [hc, hstop, hk]; simpa using hab)
    rw [hc, hx] at hm
    refine completes_of_eq he ?_
    rw [hmem, hm, State.core_setCore, if_pos rfl]
    refine ⟨rfl, hregs, rfl, fun d h => ?_, fun _ => ?_, fun h => absurd h hab⟩
    · rw [State.core_setCore, if_neg h, hd d h]
    · rw [Core.engOf_setEng, if_pos rfl]

/-! ### The duty -/

theorem dutyOf_lt (cap : Nat) : dutyOf cap < 2 ^ 7 := by
  unfold dutyOf
  omega

/-- Settles O22: an engine stops where it is idle or at its stop point, and a duty wrap writes one field. -/
theorem enginesStopAndResume : Obligations.enginesStopAndResume := by
  refine ⟨?_, ?_, ?_⟩
  · intro s c u n kind x ha k e hk hs
    refine ⟨fun hx hu hab => ?_, fun hx hu hab => ?_, ?_⟩
    · have hstop := State.markStopped_keep (s := s) (c := c) (u := u) (by rw [hk]; simpa using hab)
      refine completes_of_eq ((exec_engineStopped_idle n ha hk hs hx hu).trans (congrArg _ hstop)) ⟨onlyCore_setCore _ _ _, ?_⟩
      rw [State.core_setCore, if_pos rfl]
      exact congrArg (fun o => k.setEng u { e with
        stopped := true, flow := {}, idx := none
        record := match (o : Option Cmd) with | some x => runRecord k u x e | none => idleRecord k u }) hx
    · have hstop := State.markStopped_abort (s := s) (c := c) (u := u) (by rw [hk, hab])
      refine completes_of_eq ((exec_engineStopped_idle n ha hk hs hx hu).trans (congrArg _ hstop)) ⟨onlyCore_setCore _ _ _, ?_⟩
      rw [State.core_setCore, if_pos rfl]
    · intro hu hx he l hl lim hlim w g hw
      have hrun := exec_engineStopped_work ha hk hs hu hx he hl hlim hw
      have hsans := workOf_sansWork k u x s.coreCycle s.duty lim
      exact engineStopped_work_completes hrun hk hsans ((Core.cmd_of_sansWork hsans u).trans hx)
  · intro s c u ha hu k hk hs
    exact completes_of_eq (exec_engineResume_other ha hu hk hs) ⟨onlyCore_modCore _ _ _, by rw [State.modEng, State.core_modCore, if_pos rfl]; rfl⟩
  · intro s ha
    refine ⟨fun h => ?_, fun h => ?_⟩
    · simp [exec, execDutyWrap, whenever, h]
    · have he : exec .dutyWrap s = .next (s.setFld oPWR_DUTY 6 0 (dutyOf (s.fld oPWR_CAP 11 0))) :=
        whenever_of_alive ha (decide_eq_true h) _
      refine completes_of_eq he ⟨?_, fun o ho => ?_, rfl⟩
      · refine (State.fld_setFld_self _ _ _ _ _ (by decide)).trans ?_
        exact Nat.mod_eq_of_lt (dutyOf_lt _)
      · rw [State.reg_setFld, if_neg ho]

end Sys2Proof.Machine
end

section
/-! PROOFS. A command at the head of its queue (R32, R33, R49, R57, R87, R381). -/

namespace Sys2Proof.Machine

theorem State.core_modEng (s : State) (c : CoreId) (u : EngineUnit) (f : Eng → Eng) (d : CoreId) :
    (s.modEng c u f).core d = if d = c then (s.core c).modEng u f else s.core d := State.core_modCore _ _ _ _

/-! ### The take -/

theorem exec_commandAtHead {s : State} {c : CoreId} {u : EngineUnit} {x : Cmd} {q : List Cmd} (ha : s.alive = true)
    (hq : (s.core c).queueOf u = x :: q) (hp : ((s.core c).engOf u).phase = .idle)
    (hs : ((s.core c).engOf u).stopped = false) (hk : (s.core c).stop = none) :
    exec (.commandAtHead c u) s = .next (s.atHead c u x) := by
  simp only [exec, execCommandAtHead, hq]
  exact whenever_of_alive ha (by simp [hp, hs, hk]) _

/-- The phase of an engine has changed, and nothing else of its core. -/
theorem Core.phase_of_modEng (k : Core) (u : EngineUnit) (ph : EngPhase) :
    ((k.modEng u (fun e => { e with phase := ph })).engOf u).phase = ph := by
  rw [Core.engOf_modEng, if_pos rfl]

theorem serveTakes_one {w : Waiter} {count : Nat} (h : w.need.toNat ≤ count) :
    serveTakes count [w] = (count - w.need.toNat, [w], []) := by
  simp [serveTakes, h]

/-- A take of a covered number on which nobody waits. -/
theorem State.pegTake_one {s : State} {n : Nat} {need : Word} {who : WaiterId} (h : (s.peg n).waiters = [])
    (hn : need.toNat ≤ (s.peg n).count.toNat) (h0 : (s.peg n).count.toNat - need.toNat ≠ (s.peg n).count.toNat) :
    s.pegTake n need who = (((s.setPeg n { s.peg n with waiters := [{ who := who, kind := .pegTake, need := need }] }).setPeg n
      { s.peg n with count := BitVec.ofNat 16 ((s.peg n).count.toNat - need.toNat), waiters := [] }).release
        { who := who, kind := .pegTake, need := need } 0).touched (s.pegOwner n) := by
  have hs := serveTakes_one (w := { who := who, kind := .pegTake, need := need }) hn
  simp only [State.pegTake, State.servePeg, h, List.nil_append, State.peg_setPeg, if_true, hs, if_neg h0, State.releaseAll,
    List.foldl_cons, List.foldl_nil]
  rfl

/-- A take of a number that the count does not cover waits. -/
theorem State.pegTake_short {s : State} {n : Nat} {need : Word} {who : WaiterId} (h : (s.peg n).waiters = [])
    (hn : (s.peg n).count.toNat < need.toNat) :
    s.pegTake n need who = (s.setPeg n { s.peg n with waiters := [{ who := who, kind := .pegTake, need := need }] }).setPeg n
      { s.peg n with waiters := [{ who := who, kind := .pegTake, need := need }] } := by
  simp [State.pegTake, State.servePeg, h, serveTakes, Nat.not_le.mpr hn, State.releaseAll]

/-- A take by a command that the count covers is satisfied at once. -/
theorem State.pegTake_command_served {s : State} {n : Nat} {c : CoreId} {u : EngineUnit} (h : (s.peg n).waiters = [])
    (hn : (s.peg n).count ≠ 0) :
    let t := s.pegTake n 1 (.command c u)
    (∀ m, t.peg m = if m = n then { s.peg n with count := (s.peg n).count - 1, waiters := [] } else s.peg m) ∧
      t.core c = (s.core c).modEng u (fun e => { e with phase := .ready }) := by
  intro t
  have hpos : 1 ≤ (s.peg n).count.toNat := by
    have h0 : (s.peg n).count.toNat ≠ 0 := fun h => hn (BitVec.eq_of_toNat_eq h)
    omega
  have hone : (1 : Word).toNat = 1 := rfl
  have hcount : BitVec.ofNat 16 ((s.peg n).count.toNat - (1 : Word).toNat) = (s.peg n).count - 1 :=
    ofNat_sub_eq (g := (s.peg n).count) (q := 1) hpos
  have ht := State.pegTake_one (s := s) (n := n) (need := 1) (who := .command c u) h hpos (by rw [hone]; omega)
  obtain ⟨hcores, hpegs, _⟩ := State.fields_of_sansLogs (ht ▸ State.touched_sansLogs _ _)
  refine ⟨fun m => (State.peg_congr hpegs m).trans ?_, (State.core_congr hcores c).trans ?_⟩
  · refine (State.peg_congr (State.setCore_pegs _ _ _) m).trans ?_
    rw [State.peg_setPeg, State.peg_setPeg, hcount]
    split <;> rfl
  · refine (State.core_modEng _ c u _ c).trans (if_pos rfl)

/-- What sending a take to its peg leaves of a core besides the phase of its engine. -/
theorem Core.sansEng_modEng (k : Core) (u : EngineUnit) (f : Eng → Eng) : (k.modEng u f).sansEng = k.sansEng := rfl

/-- The head command is taken up: its engine's phase changes alone. -/
def TakenUp (s : State) (c : CoreId) (u : EngineUnit) (x : Cmd) (q : List Cmd) (ph : EngPhase) (t : State) : Prop :=
  ((t.core c).engOf u).phase = ph ∧ (t.core c).queueOf u = x :: q ∧ (t.core c).s = (s.core c).s ∧
    (t.core c).bench = (s.core c).bench ∧ t.mem = s.mem

theorem TakenUp.of_core {s t : State} {c : CoreId} {u : EngineUnit} {x : Cmd} {q : List Cmd} {ph : EngPhase} {k : Core}
    (hk : k.sansEng = (s.core c).sansEng) (hq : (s.core c).queueOf u = x :: q)
    (ht : t.core c = k.modEng u (fun e => { e with phase := ph })) (hm : t.mem = s.mem) : TakenUp s c u x q ph t := by
  have field {α : Type} (f : Core → α) : f k.sansEng = f (s.core c).sansEng := congrArg f hk
  rw [TakenUp, ht]
  refine ⟨Core.phase_of_modEng _ _ _, ?_, field Core.s, field Core.bench, hm⟩
  rw [← hq]
  exact congrArg (tabGet (fun _ => []) (unitCode u)) (field Core.queues)

/-! ### The start -/

theorem exec_commandStart {s : State} {c : CoreId} {u : EngineUnit} {x : Cmd} {q : List Cmd} (ha : s.alive = true)
    (hq : (s.core c).queueOf u = x :: q) (hp : ((s.core c).engOf u).phase = .ready)
    (hs : ((s.core c).engOf u).stopped = false) (hk : (s.core c).stop = none) (hu : u ≠ .grind) :
    exec (.commandStart c u) s = .next (match checkCmd (s.core c) u x with
      | some r => s.skipHead c u x r 0
      | none => s.startCmd c u x) := by
  simp only [exec, execCommandStart, hq]
  exact whenever_of_alive ha (by simp [hp, hs, hk, hu]) _

/-- The core of a command that starts, before its engine acts on it. -/
def Core.started (k : Core) (u : EngineUnit) (x : Cmd) : Core :=
  (k.setQueue u ((k.queueOf u).drop 1)).modEng u (fun e => { e.cleared with phase := .running, cmd := some x })

/-- The start of a command but for what its engine then does. -/
def State.begun (s : State) (c : CoreId) (u : EngineUnit) (x : Cmd) : State :=
  ((s.popQueue c u).modEng c u (fun e => { e.cleared with phase := .running, cmd := some x })).traceCmd c u x 1 0 (x.word 1).toNat

theorem State.core_begun (s : State) (c : CoreId) (u : EngineUnit) (x : Cmd) (d : CoreId) :
    (s.begun c u x).core d = if d = c then (s.core c).started u x else s.core d := by
  rw [State.begun, State.core_congr (State.traceCmd_cores _ _ _ _ _ _ _), State.core_modEng, State.popQueue,
    State.core_modCore, State.core_modCore]
  by_cases hd : d = c
  · simp only [hd, if_true]
    rfl
  · simp only [hd, if_false]

theorem State.begun_mem (s : State) (c : CoreId) (u : EngineUnit) (x : Cmd) : (s.begun c u x).mem = s.mem := by
  simp [State.begun, State.popQueue]

theorem State.startCmd_beam (s : State) (c : CoreId) (x : Cmd) :
    s.startCmd c .beam x = (s.begun c .beam x).modCore c (fun k => beamStarted k x) := rfl

theorem State.startCmd_plane {u : EngineUnit} (hu : u = .plane0 ∨ u = .plane1) (s : State) (c : CoreId) (x : Cmd) :
    s.startCmd c u x = s.begun c u x := by
  obtain rfl | rfl := hu <;> rfl

theorem State.startCmd_cart (s : State) (c : CoreId) (n : Fin 2) (x : Cmd) :
    s.startCmd c (cartUnit n) x = (s.begun c (cartUnit n) x).cartPump c n := by
  fin_cases n <;> rfl

theorem Core.queueOf_started (k : Core) (u v : EngineUnit) (x : Cmd) :
    (k.started u x).queueOf v = if v = u then (k.queueOf u).drop 1 else k.queueOf v := k.queueOf_setQueue u v _

theorem Core.engOf_started (k : Core) (u v : EngineUnit) (x : Cmd) :
    (k.started u x).engOf v = if v = u then { (k.engOf u).cleared with phase := .running, cmd := some x } else k.engOf v :=
  Core.engOf_modEng _ _ _ _

/-- The beam's part in the start of its command: the tile it drops, and its flow. -/
theorem beamStarted_fields (k : Core) (x : Cmd) :
    (beamStarted k x).s = k.s ∧ (beamStarted k x).bench = k.bench ∧ (beamStarted k x).flags = k.flags ∧
      (beamStarted k x).queues = k.queues ∧ (beamStarted k x).tile = (if x.opc ≠ 0x82 then {} else k.tile) ∧
      (∀ v, v ≠ .beam → (beamStarted k x).engOf v = k.engOf v) ∧
      ∃ f, (beamStarted k x).engOf .beam = { k.engOf .beam with flow := f } := by
  have heng (l : Core) (f : Flow) : (∀ v, v ≠ .beam → (l.modEng .beam (fun e => { e with flow := f })).engOf v = l.engOf v) ∧
      ∃ g, (l.modEng .beam (fun e => { e with flow := f })).engOf .beam = { l.engOf .beam with flow := g } :=
    ⟨fun v hv => by rw [Core.engOf_modEng, if_neg hv], f, by rw [Core.engOf_modEng, if_pos rfl]⟩
  by_cases h : x.opc = 0x82
  · have hb : beamStarted k x = k.modEng .beam (fun e => { e with flow := beamFlow k x false }) := by
      simp only [beamStarted, if_pos h]
    rw [hb, if_neg (not_not_intro h)]
    exact ⟨rfl, rfl, rfl, rfl, rfl, heng k _⟩
  · have hb : beamStarted k x = ({ k with tile := {} } : Core).modEng .beam (fun e =>
        { e with flow := beamFlow k x false }) := by
      simp only [beamStarted, if_neg h]
    rw [hb, if_pos h]
    exact ⟨rfl, rfl, rfl, rfl, rfl, heng { k with tile := {} } _⟩

/-- What the start of a beam or plane command leaves. -/
def Started (s : State) (c : CoreId) (u : EngineUnit) (x : Cmd) (q : List Cmd) (t : State) : Prop :=
  let k := s.core c
  (t.core c).queueOf u = q ∧ ((t.core c).engOf u).phase = .running ∧ ((t.core c).engOf u).cmd = some x ∧
    ((t.core c).engOf u).done = 0 ∧ ((t.core c).engOf u).flags = 0 ∧ (t.core c).s = k.s ∧ (t.core c).bench = k.bench ∧
    (t.core c).flags = k.flags ∧ t.mem = s.mem ∧ (t.core c).tile = (if u = .beam ∧ x.opc ≠ 0x82 then {} else k.tile) ∧
    (∀ v, v ≠ u → (t.core c).queueOf v = k.queueOf v ∧ (t.core c).engOf v = k.engOf v) ∧ ∀ d, d ≠ c → t.core d = s.core d

theorem State.startCmd_started {s : State} {c : CoreId} {u : EngineUnit} {x : Cmd} {q : List Cmd}
    (hq : (s.core c).queueOf u = x :: q) (hu : u = .beam ∨ u = .plane0 ∨ u = .plane1) : Started s c u x q (s.startCmd c u x) := by
  rcases hu with rfl | hu
  · have hcore (d : CoreId) : (s.startCmd c .beam x).core d =
        if d = c then beamStarted ((s.core c).started .beam x) x else s.core d := by
      rw [State.startCmd_beam, State.core_modCore, State.core_begun, if_pos rfl, State.core_begun]
      split <;> rfl
    have hmem : (s.startCmd c .beam x).mem = s.mem := by rw [State.startCmd_beam, State.modCore_mem, State.begun_mem]
    obtain ⟨hs, hb, hf, hqs, ht, ho, f, he⟩ := beamStarted_fields ((s.core c).started .beam x) x
    have hqueue (v : EngineUnit) : (beamStarted ((s.core c).started .beam x) x).queueOf v =
        ((s.core c).started .beam x).queueOf v := congrArg (tabGet (fun _ => []) (unitCode v)) hqs
    rw [Core.engOf_started, if_pos rfl] at he
    rw [Started, hmem, (hcore c).trans (if_pos rfl), he, hqueue, Core.queueOf_started, if_pos rfl, hq]
    refine ⟨rfl, rfl, rfl, rfl, rfl, hs, hb, hf, rfl, ht.trans ?_, fun v hv => ⟨?_, ?_⟩, fun d hd => (hcore d).trans (if_neg hd)⟩
    · simp [Core.started, Core.modEng, Core.setEng, Core.setQueue]
    · rw [hqueue, Core.queueOf_started, if_neg hv]
    · rw [ho v hv, Core.engOf_started, if_neg hv]
  · have hc : (s.startCmd c u x).core c = (s.core c).started u x := by
      rw [State.startCmd_plane hu, State.core_begun, if_pos rfl]
    have hne : u ≠ .beam := by obtain rfl | rfl := hu <;> decide
    rw [Started, hc, Core.engOf_started, if_pos rfl, Core.queueOf_started, if_pos rfl, hq, if_neg fun h => hne h.1]
    refine ⟨rfl, rfl, rfl, rfl, rfl, rfl, rfl, rfl, ?_, rfl, fun v hv => ⟨?_, ?_⟩, fun d hd => ?_⟩
    · rw [State.startCmd_plane hu, State.begun_mem]
    · rw [Core.queueOf_started, if_neg hv]
    · rw [Core.engOf_started, if_neg hv]
    · rw [State.startCmd_plane hu, State.core_begun, if_neg hd]

/-! ### The skip -/

/-- The skip of a command on a core without launch and partition is an entry of the module error log. -/
theorem State.cmdSkip_of_free {s : State} {c : CoreId} (u : EngineUnit) (tag r : Nat) (hl : (s.core c).launch = none)
    (hp : s.partOfCore c = none) : s.cmdSkip c u tag r 0 0 = (s.logModule { type := 0x01, reason := r, core := c.val, unit := unitCode u, ctx := (s.core c).ctx.toNat, tag := tag }).count none 3 := by
  simp [State.cmdSkip, State.partOf, State.launchOf, hl, hp, State.logAny, State.modLaunch]

/-- A core whose head command has been skipped. -/
theorem State.core_skipHead {s : State} {c : CoreId} {u : EngineUnit} {x : Cmd} (r : Nat) (hpost : x.h.postEn = false)
    (d : CoreId) : (s.skipHead c u x r 0).core d =
      if d = c then ((s.core c).setQueue u (((s.core c).queueOf u).drop 1)).modEng u Eng.cleared else s.core d := by
  have hcores : (s.cmdSkip c u x.h.tag.toNat r 0 0).cores = s.cores := State.cmdSkip_cores _ _ _ _ _ _ _
  have hpre : s.skipHead c u x r 0 = (((s.cmdSkip c u x.h.tag.toNat r 0 0).popQueue c u).modEng c u Eng.cleared).traceCmd
      c u x 3 r 0 := by
    simp [State.skipHead, State.post, hpost]
  rw [hpre, State.core_congr (State.traceCmd_cores _ _ _ _ _ _ _), State.core_modEng, State.popQueue, State.core_modCore,
    State.core_modCore, State.core_congr hcores, State.core_congr hcores]
  by_cases hd : d = c
  · simp only [hd, if_true]
  · simp only [hd, if_false]

theorem State.skipHead_moduleLog {s : State} {c : CoreId} {u : EngineUnit} {x : Cmd} (r : Nat) (hpost : x.h.postEn = false)
    (hl : (s.core c).launch = none) (hp : s.partOfCore c = none) : (s.skipHead c u x r 0).moduleLog =
      (s.logModule { type := 0x01, reason := r, core := c.val, unit := unitCode u, ctx := (s.core c).ctx.toNat, tag := x.h.tag.toNat }).moduleLog := by
  have hpre : s.skipHead c u x r 0 = (((s.cmdSkip c u x.h.tag.toNat r 0 0).popQueue c u).modEng c u Eng.cleared).traceCmd
      c u x 3 r 0 := by
    simp [State.skipHead, State.post, hpost]
  have htrace := congrArg State.moduleLog (State.traceCmd_eq
    (((s.cmdSkip c u x.h.tag.toNat r 0 0).popQueue c u).modEng c u Eng.cleared) c u x 3 r 0)
  rw [hpre, htrace, State.cmdSkip_of_free u _ r hl hp]
  rfl

/-! ### A cart that starts -/

/-- What a cart changes of its core as it goes on: bench, translations and its engine; and what its engine keeps. -/
def Core.cartKept (k : Core) (u : EngineUnit) : Core × EngPhase × Option Cmd :=
  ({ k with bench := [], eng := [], tlb := [] }, (k.engOf u).phase, (k.engOf u).cmd)

theorem Core.cartKept_modEng (k : Core) (u : EngineUnit) (f : Eng → Eng)
    (h : (f (k.engOf u)).phase = (k.engOf u).phase ∧ (f (k.engOf u)).cmd = (k.engOf u).cmd) :
    (k.modEng u f).cartKept u = k.cartKept u := by
  obtain ⟨hp, hc⟩ := h
  rw [Core.cartKept, Core.engOf_modEng, if_pos rfl, hp, hc]
  rfl

theorem Core.fields_of_cartKept {k l : Core} {u : EngineUnit} (h : k.cartKept u = l.cartKept u) :
    k.s = l.s ∧ k.flags = l.flags ∧ k.queues = l.queues ∧ (k.engOf u).phase = (l.engOf u).phase ∧
      (k.engOf u).cmd = (l.engOf u).cmd := by
  have field {α : Type} (f : Core → α) : f (k.cartKept u).1 = f (l.cartKept u).1 := congrArg (fun x => f x.1) h
  exact ⟨field Core.s, field Core.flags, field Core.queues, congrArg (fun x => x.2.1) h, congrArg (fun x => x.2.2) h⟩

def State.cartKept (s : State) (c : CoreId) (n : Fin 2) : Core × EngPhase × Option Cmd := (s.core c).cartKept (cartUnit n)

theorem State.cartKept_of_cores {s t : State} (h : t.cores = s.cores) (c : CoreId) (n : Fin 2) :
    t.cartKept c n = s.cartKept c n := by
  rw [State.cartKept, State.core_congr h]
  rfl

theorem State.cartKept_modEng (s : State) (c : CoreId) (n : Fin 2) (f : Eng → Eng)
    (h : ∀ e, (f e).phase = e.phase ∧ (f e).cmd = e.cmd) : (s.modEng c (cartUnit n) f).cartKept c n = s.cartKept c n := by
  rw [State.cartKept, State.core_modEng, if_pos rfl]
  exact Core.cartKept_modEng _ _ _ (h _)

theorem State.cartKept_tlb (s : State) (c : CoreId) (n : Fin 2) (tlb : Core → List TlbEntry) :
    (s.modCore c (fun k => { k with tlb := tlb k })).cartKept c n = s.cartKept c n := by
  rw [State.cartKept, State.core_modCore, if_pos rfl]
  rfl

@[simp] theorem State.cartKept_cartEarly (s : State) (c : CoreId) (n : Fin 2) (e : EarlyEnd) :
    (s.cartEarly c n e).cartKept c n = s.cartKept c n := State.cartKept_modEng _ _ _ _ fun _ => ⟨rfl, rfl⟩

@[simp] theorem State.cartKept_cartXlateFail (s : State) (c : CoreId) (n : Fin 2) (va st : Nat) (e : Word) :
    (s.cartXlateFail c n va st e).cartKept c n = s.cartKept c n := by
  rw [State.cartXlateFail, State.cartKept_cartEarly]
  exact State.cartKept_of_cores (by simp) _ _

@[simp] theorem State.cartKept_cartWalkRead (s : State) (c : CoreId) (n : Fin 2) (p : PartId) (w : Walk) :
    (s.cartWalkRead c n p w).cartKept c n = s.cartKept c n := by
  refine (State.cartKept_modEng _ _ _ _ ?_).trans (State.cartKept_of_cores ?_ _ _)
  · exact fun _ => ⟨rfl, rfl⟩
  · simp

@[simp] theorem State.cartKept_cartStore (s : State) (c : CoreId) (n : Fin 2) (a : CartAcc) (bs : List Byte) :
    (s.cartStore c n a bs).cartKept c n = s.cartKept c n := by
  have hstore (b : List Byte) (f : Eng → Eng) (h : ∀ e, (f e).phase = e.phase ∧ (f e).cmd = e.cmd) :
      (s.setCore c (((s.core c).store a.bench b).modEng (cartUnit n) f)).cartKept c n = s.cartKept c n := by
    rw [State.cartKept, State.core_setCore, if_pos rfl, Core.cartKept_modEng _ _ _ (h _)]
    rfl
  unfold State.cartStore
  dsimp only
  split
  · rfl
  · split
    · rw [State.cartKept_cartEarly]
      exact hstore _ _ fun _ => ⟨rfl, rfl⟩
    · exact hstore _ _ fun _ => ⟨rfl, rfl⟩

@[simp] theorem State.cartKept_cartDrain (s : State) (c : CoreId) (n : Fin 2) (m : Nat) :
    (s.cartDrain c n m).cartKept c n = s.cartKept c n := by
  induction m generalizing s with
  | zero => rfl
  | succ m ih =>
    unfold State.cartDrain
    split
    · split
      · rw [ih, State.cartKept_cartStore]
        refine State.cartKept_modEng _ _ _ _ ?_
        exact fun _ => ⟨rfl, rfl⟩
      · rfl
    · rfl

/-- An access joins those in flight. -/
theorem State.cartKept_fly (s : State) (c : CoreId) (n : Fin 2) (rest : List CartAcc) (x : Nat × CartAcc) :
    (s.modEng c (cartUnit n) (fun g => { g with todo := rest, flying := g.flying ++ [x] })).cartKept c n = s.cartKept c n :=
  State.cartKept_modEng _ _ _ _ fun _ => ⟨rfl, rfl⟩

@[simp] theorem State.cartKept_cartIssue (s : State) (c : CoreId) (n : Fin 2) (p : PartId) (a : CartAcc) (rest : List CartAcc) :
    (s.cartIssue c n p a rest).cartKept c n = s.cartKept c n := by
  unfold State.cartIssue
  dsimp only
  split
  · rw [State.cartKept_cartDrain, State.cartKept_fly]
    exact State.cartKept_of_cores (by simp) _ _
  · split
    · split <;> simp
    · have htlb := fun tlb : List TlbEntry => s.cartKept_tlb c n fun _ => tlb
      split
      · exact (State.cartKept_cartXlateFail _ _ _ _ _ _).trans (htlb _)
      · split
        · split
          · exact (State.cartKept_cartEarly _ _ _ _).trans (htlb _)
          · exact (State.cartKept_fly _ _ _ _ _).trans ((State.cartKept_of_cores (State.access_cores _ _ _ _ _ _ _) _ _).trans (htlb _))
        · exact (State.cartKept_fly _ _ _ _ _).trans ((State.cartKept_of_cores (State.access_cores _ _ _ _ _ _ _) _ _).trans (htlb _))

@[simp] theorem State.cartKept_cartSteps (s : State) (c : CoreId) (n : Fin 2) (p : PartId) (j : CartJob) (m : Nat) :
    (s.cartSteps c n p j m).cartKept c n = s.cartKept c n := by
  induction m generalizing s with
  | zero => rfl
  | succ m ih =>
    unfold State.cartSteps
    dsimp only
    split
    · rfl
    · split
      · rw [ih, State.cartKept_cartIssue]
      · split
        · rfl
        · split
          · split <;> simp
          · refine (ih _).trans (State.cartKept_modEng _ _ _ _ ?_)
            exact fun _ => ⟨rfl, rfl⟩

@[simp] theorem State.cartKept_cartPump (s : State) (c : CoreId) (n : Fin 2) :
    (s.cartPump c n).cartKept c n = s.cartKept c n := by
  unfold State.cartPump
  split <;> simp

/-- Settles O20: a command at its head takes its peg; one that passes its check starts, another is skipped. -/
theorem commandsStart : Obligations.commandsStart := by
  refine ⟨?_, ?_, ?_, ?_⟩
  · intro s c u x q n ha k hq hp hs hk hbad taken
    have he := exec_commandAtHead ha hq hp hs hk
    have htook {ph : EngPhase} {t : State} (h : TakenUp s c u x q ph t) : taken ph t := h
    refine ⟨fun htake => ?_, ?_⟩
    · have hat : s.atHead c u x = s.modEng c u (fun e => { e with phase := .ready }) := by
        rw [State.atHead, hbad, if_neg Bool.false_ne_true, if_neg]
        rcases htake with h | h <;> simp [h]
      refine completes_of_eq (he.trans (congrArg _ hat)) ⟨htook (TakenUp.of_core (k := k) rfl hq ?_ rfl), rfl⟩
      exact (State.core_modEng _ _ _ _ _).trans (if_pos rfl)
    · intro htake hdone hn hw g
      have hat : s.atHead c u x = (s.modEng c u (fun e => { e with phase := .taking })).pegTake n 1 (.command c u) := by
        rw [State.atHead, hbad, if_neg Bool.false_ne_true, if_pos (by simp [htake, hdone]), hn]
      have hk1 := (s.core_modEng c u (fun e => { e with phase := .taking }) c).trans (if_pos rfl)
      rw [hat] at he
      refine ⟨fun hcount => ?_, fun hcount => ?_⟩
      · obtain ⟨hpegs, hcore⟩ := State.pegTake_command_served (s := s.modEng c u (fun e => { e with phase := .taking }))
          (c := c) (u := u) hw hcount
        rw [hk1] at hcore
        refine completes_of_eq he ⟨htook (TakenUp.of_core (Core.sansEng_modEng _ _ _) hq hcore (by simp)), ?_, ?_, fun m hm => ?_⟩
        · rw [hpegs n, if_pos rfl]; rfl
        · rw [hpegs n, if_pos rfl]
        · rw [hpegs m, if_neg hm]; rfl
      · have hshort := State.pegTake_short (s := s.modEng c u (fun e => { e with phase := .taking })) (n := n) (need := 1)
          (who := .command c u) hw (by exact (congrArg BitVec.toNat hcount).trans_lt (by decide))
        rw [hshort] at he
        refine completes_of_eq he ⟨htook (TakenUp.of_core rfl hq hk1 rfl), ?_, ?_, fun m hm => ?_⟩
        · rw [State.peg_setPeg, if_pos rfl]; exact hcount
        · rw [State.peg_setPeg, if_pos rfl]; rfl
        · rw [State.peg_setPeg, if_neg hm, State.peg_setPeg, if_neg hm]; rfl
  · intro s c u x q ha hu k hq hp hs hk hcheck
    have he := exec_commandStart ha hq hp hs hk (by obtain rfl | rfl | rfl := hu <;> decide)
    rw [hcheck] at he
    exact completes_of_eq he (State.startCmd_started hq hu)
  · intro s c u x q r ha hu hl hpart hpost k hq hp hs hk hcheck e
    have he := exec_commandStart ha hq hp hs hk hu
    rw [hcheck] at he
    have hcore := State.core_skipHead (s := s) (c := c) (u := u) r hpost
    refine completes_of_eq he ?_
    rw [(hcore c).trans (if_pos rfl), Core.engOf_modEng, if_pos rfl]
    refine ⟨?_, rfl, rfl, rfl, rfl, rfl, rfl, ?_, State.skipHead_moduleLog r hpost hl hpart, fun d hd => ?_⟩
    · exact ((k.queueOf_setQueue u u _).trans (if_pos rfl)).trans (by rw [hq]; rfl)
    · simp [State.skipHead, State.popQueue]
    · rw [hcore, if_neg hd]
  · intro s c n x q ha k u hq hp hs hk hcheck
    have he := exec_commandStart ha hq hp hs hk (by fin_cases n <;> decide)
    have hc : checkCmd k u x = none := by
      rw [← hcheck]
      fin_cases n <;> rfl
    rw [hc] at he
    have hkept := (s.startCmd_cart c n x ▸ State.cartKept_cartPump (s.begun c u x) c n :
      (s.startCmd c u x).cartKept c n = (s.begun c u x).cartKept c n)
    obtain ⟨hregs, hflags, hqueues, hphase, hcmd⟩ := Core.fields_of_cartKept hkept
    rw [State.core_begun, if_pos rfl] at hregs hflags hqueues hphase hcmd
    rw [Core.engOf_started, if_pos rfl] at hphase hcmd
    refine completes_of_eq he ⟨?_, hphase, hcmd, hregs, hflags, ?_⟩
    · refine (congrArg (tabGet (fun _ => []) (unitCode u)) hqueues).trans ?_
      exact (Core.queueOf_started _ _ _ _).trans ((if_pos rfl).trans (by rw [hq]; rfl))
    · rw [State.startCmd_cart, State.cartPump_mem, State.begun_mem]

end Sys2Proof.Machine
end

section
/-! PROOFS. Instruction fetch: a miss, a line that arrives, a line that met an error (R25 to R27, R401). -/

namespace Sys2Proof.Machine

/-! ### Requests for lines -/

theorem State.core_requestLine (s : State) (c : CoreId) (line : Nat) (d : CoreId) : ∃ ids, (s.requestLine c line).core d =
    if d = c then { s.core c with fills := if (s.core c).absent line = true ∧ (s.core c).fills.length < 8
      then (s.core c).fills ++ [(line, ids)] else (s.core c).fills } else s.core d := by
  unfold State.requestLine
  split
  next h =>
    have hno : ¬ ((s.core c).absent line = true ∧ (s.core c).fills.length < 8) := by
      simp only [Bool.or_eq_true, Bool.not_eq_true', decide_eq_true_eq] at h
      rintro ⟨ha, hl⟩
      rcases h with h | h
      · rw [ha] at h; exact Bool.noConfusion h
      · omega
    refine ⟨[], ?_⟩
    rw [if_neg hno]
    by_cases hd : d = c
    · subst hd; rw [if_pos rfl]
    · rw [if_neg hd]
  next h =>
    have hyes : (s.core c).absent line = true ∧ (s.core c).fills.length < 8 := by
      simpa using h
    let a := s.issue (srcFetch c) 0 (s.partOf c) (128 * line) .read 64 []
    let b := a.2.issue (srcFetch c) 0 (s.partOf c) (128 * line + 64) .read 64 []
    refine ⟨[a.1, b.1], ?_⟩
    rw [if_pos hyes]
    exact State.core_modCore b.2 c d _

/-- A line that is not being filled is absent as it was when it was first asked for. -/
theorem Core.absent_of_not_filling {k : Core} {fills : List (Nat × List Nat)} {line : Nat} (hk : k.fills = [])
    (h : line ∉ fills.map Prod.fst) : ({ k with fills := fills } : Core).absent line = k.absent line := by
  have hany : fills.any (fun f => f.1 == line) = false := by
    rw [List.any_eq_false]
    intro f hf he
    exact h (List.mem_map.mpr ⟨f, hf, eq_of_beq he⟩)
  simp only [Core.absent, hany, hk, List.any_nil]
  rfl

/-- Requests change the fills of their core alone. -/
theorem State.core_requests (s : State) (c : CoreId) (ls : List Nat) (d : CoreId) : ∃ more,
    (ls.foldl (fun t l => t.requestLine c l) s).core d =
      if d = c then { s.core c with fills := (s.core c).fills ++ more } else s.core d := by
  induction ls generalizing s with
  | nil =>
    refine ⟨[], ?_⟩
    by_cases hd : d = c
    · subst hd; rw [if_pos rfl, List.append_nil]; rfl
    · rw [if_neg hd]; rfl
  | cons l ls ih =>
    obtain ⟨more, hm⟩ := ih (s.requestLine c l)
    obtain ⟨ids, hc⟩ := s.core_requestLine c l c
    obtain ⟨ids', hd⟩ := s.core_requestLine c l d
    rw [if_pos rfl] at hc
    rw [List.foldl_cons, hm, hc]
    by_cases h : d = c
    · simp only [h, if_true]
      split
      · exact ⟨[(l, ids)] ++ more, by rw [List.append_assoc]⟩
      · exact ⟨more, rfl⟩
    · simp only [h, if_false]
      rw [hd, if_neg h]
      exact ⟨[], rfl⟩

/-- The lines that a miss requests: the absent ones of the nine, in order, eight at most. -/
theorem State.fills_requests {s : State} {c : CoreId} {line : Nat} (h0 : (s.core c).fills = []) (n : Nat) :
    ∃ fills, ((List.range n).foldl (fun t i => t.requestLine c (line + i)) s).core c = { s.core c with fills := fills } ∧
      fills.map Prod.fst = (((List.range n).map (line + ·)).filter (s.core c).absent).take 8 := by
  induction n with
  | zero => exact ⟨[], by rw [← h0]; rfl, rfl⟩
  | succ n ih =>
    obtain ⟨fills, hc, hf⟩ := ih
    obtain ⟨ids, hr⟩ := State.core_requestLine ((List.range n).foldl (fun t i => t.requestLine c (line + i)) s) c (line + n) c
    have hnew : line + n ∉ fills.map Prod.fst := by
      intro h
      rw [hf] at h
      have hmem := List.mem_of_mem_filter (List.mem_of_mem_take h)
      obtain ⟨i, hi, he⟩ := List.mem_map.mp hmem
      rw [List.mem_range] at hi
      omega
    have hlen : fills.length = ((((List.range n).map (line + ·)).filter (s.core c).absent).take 8).length := by
      rw [← hf, List.length_map]
    rw [if_pos rfl, hc, Core.absent_of_not_filling h0 hnew] at hr
    rw [List.range_succ, List.foldl_append, List.foldl_cons, List.foldl_nil, hr, List.map_append, List.filter_append]
    refine ⟨_, rfl, ?_⟩
    rw [List.map_cons, List.map_nil, List.filter_cons, List.filter_nil]
    by_cases ha : (s.core c).absent (line + n) = true
    · rw [if_pos ha]
      by_cases hl : fills.length < 8
      · rw [if_pos ⟨ha, hl⟩, List.map_append, hf]
        rw [hlen, List.length_take] at hl
        rw [List.take_of_length_le (by omega), List.take_of_length_le (by rw [List.length_append]; simp; omega)]
        rfl
      · rw [if_neg fun h => hl h.2, hf]
        rw [hlen, List.length_take] at hl
        exact (List.take_append_of_le_length (by omega)).symm
    · rw [if_neg fun h => ha h.1, if_neg ha, List.append_nil, hf]

/-! ### The miss -/

theorem fetchMiss_completes {s : State} {c : CoreId} {line : BitVec 41} (hi : Issues s c)
    (hm : (s.core c).cached line.toNat = false) (h0 : (s.core c).fills = []) (hstep : (s.core c).stepping = false) :
    Completes (.fetchMiss c line) s (fun t =>
      (t.core c).needLine = some line.toNat ∧ (t.core c).canIssue = false ∧ (t.core c).pc = (s.core c).pc ∧
      (t.core c).s = (s.core c).s ∧
      (t.core c).fills.map Prod.fst = (((List.range 9).map (line.toNat + ·)).filter (s.core c).absent).take 8 ∧
      (t.core c).icache = (s.core c).icache ∧ t.mem = s.mem) := by
  obtain ⟨fills, hc, hf⟩ := State.fills_requests (line := line.toNat) h0 9
  have he : exec (.fetchMiss c line) s = .next (s.missLine c line.toNat) := by
    simp only [exec, execFetchMiss]
    exact whenever_of_alive hi.1 (by rw [hi.2, hm]; rfl) _
  have hcore : (s.missLine c line.toNat).core c =
      { s.core c with fills := fills, fetchAt := some line.toNat, needLine := some line.toNat } := by
    rw [State.missLine, State.core_modCore, if_pos rfl, State.fetchAhead, hc]
    simp only [hstep, Bool.false_and, Bool.false_eq_true, if_false]
  refine completes_of_eq he ⟨by rw [hcore], ?_, by rw [hcore], by rw [hcore], by rw [hcore]; exact hf, by rw [hcore], ?_⟩
  · rw [hcore]
    simp [Core.canIssue]
  · simp [State.missLine]

/-! ### A line arrives -/

/-- What is asked for once a line has arrived changes the fills alone. -/
theorem State.core_fetchOn (s : State) (c d : CoreId) : ∃ more, (s.fetchOn c).core d =
    if d = c then { s.core c with fills := (s.core c).fills ++ more } else s.core d := by
  unfold State.fetchOn
  dsimp only
  split
  · split
    · obtain ⟨more, hm⟩ := s.core_requests c ((List.range 9).map (_ + ·)) d
      rw [List.foldl_map] at hm
      exact ⟨more, hm⟩
    · refine ⟨[], ?_⟩
      by_cases hd : d = c
      · subst hd; rw [if_pos rfl, List.append_nil]
      · rw [if_neg hd]
  · refine ⟨[], ?_⟩
    by_cases hd : d = c
    · subst hd; rw [if_pos rfl, List.append_nil]
    · rw [if_neg hd]

theorem State.core_lineArrives {s t : State} {c : CoreId} {line : Nat} {rs : List MemResp}
    (h : s.readyFill c = some (line, rs, t)) : ∃ more,
      ((t.modCore c (fun k => k.fillLine line rs)).fetchOn c).core c =
        { (s.core c).fillLine line rs with fills := ((s.core c).fillLine line rs).fills ++ more } := by
  obtain ⟨more, hm⟩ := State.core_fetchOn (t.modCore c (fun k => k.fillLine line rs)) c c
  rw [if_pos rfl, State.core_modCore, if_pos rfl, State.core_congr (State.readyFill_cores _ _ _ _ _ h)] at hm
  exact ⟨more, hm⟩

theorem exec_fetchLineArrive {s t : State} {c : CoreId} {line : Nat} {rs : List MemResp} (ha : s.alive = true)
    (h : s.readyFill c = some (line, rs, t)) :
    exec (.fetchLineArrive c) s = .next ((t.modCore c (fun k => k.fillLine line rs)).fetchOn c) := by
  simp only [exec, execFetchLineArrive, h]
  exact whenever_of_alive ha rfl _

theorem State.lineArrives_mem {s t : State} {c : CoreId} {line : Nat} {rs : List MemResp}
    (h : s.readyFill c = some (line, rs, t)) : ((t.modCore c (fun k => k.fillLine line rs)).fetchOn c).mem = s.mem := by
  simp [State.readyFill_mem _ _ _ _ _ h]

theorem fetchLineArrive_good {s t0 : State} {c : CoreId} {line : Nat} {rs : List MemResp} (ha : s.alive = true)
    (h : s.readyFill c = some (line, rs, t0)) (hok : ∀ r ∈ rs, r.status = 0) :
    Completes (.fetchLineArrive c) s (fun t =>
      (t.core c).cached line = true ∧ ((s.core c).needLine = some line → (t.core c).needLine = none) ∧
      (∃ more, (t.core c).fills = (s.core c).fills.filter (fun f => f.1 != line) ++ more) ∧ (t.core c).s = (s.core c).s ∧
      (t.core c).pc = (s.core c).pc ∧ t.mem = s.mem) := by
  obtain ⟨more, hm⟩ := State.core_lineArrives h
  have hnone : rs.find? (fun r => decide (r.status ≠ 0)) = none := by
    rw [List.find?_eq_none]
    intro r hr
    simp [hok r hr]
  have hfill : (s.core c).fillLine line rs = { s.core c with
      fills := (s.core c).fills.filter (fun f => f.1 != line)
      icache := tabSet (fun _ => 0) (line % 512) (line + 1) (s.core c).icache
      needLine := if (s.core c).needLine = some line then none else (s.core c).needLine } := by
    simp only [Core.fillLine, hnone]
  rw [hfill] at hm
  refine completes_of_eq (exec_fetchLineArrive ha h) ?_
  rw [State.lineArrives_mem h, hm]
  refine ⟨?_, fun hn => if_pos hn, ⟨more, rfl⟩, rfl, rfl, rfl⟩
  simp [Core.cached]

theorem fetchLineArrive_bad {s t0 : State} {c : CoreId} {line : Nat} {rs : List MemResp} {r : MemResp} (ha : s.alive = true)
    (h : s.readyFill c = some (line, rs, t0)) (hr : rs.find? (fun r => decide (r.status ≠ 0)) = some r) :
    Completes (.fetchLineArrive c) s (fun t =>
      (t.core c).icache = (s.core c).icache ∧ tabGet (fun _ => 0) line (t.core c).badLines = r.status ∧
      (t.core c).needLine = (s.core c).needLine ∧ (t.core c).s = (s.core c).s ∧ t.mem = s.mem) := by
  obtain ⟨more, hm⟩ := State.core_lineArrives h
  have hfill : (s.core c).fillLine line rs = { s.core c with
      fills := (s.core c).fills.filter (fun f => f.1 != line)
      badLines := tabSet (fun _ => 0) line r.status (s.core c).badLines } := by
    simp only [Core.fillLine, hr]
  rw [hfill] at hm
  refine completes_of_eq (exec_fetchLineArrive ha h) ?_
  rw [State.lineArrives_mem h, hm]
  exact ⟨rfl, tabGet_tabSet_self _ _ _, rfl, rfl, rfl⟩

/-! ### A line that met an error -/

/-- The core of a kingpost that stops fetching. -/
def Core.fetchEnded (k : Core) : Core := ({ k with run := .ended, needLine := none } : Core).stepDone 3

theorem Core.fetchEnded_eq (k : Core) : k.fetchEnded =
    { k with run := .ended, needLine := none, stepping := false, stopCause := if k.stepping then 3 else k.stopCause } := by
  cases h : k.stepping <;> simp [Core.fetchEnded, Core.stepDone, h]

theorem exec_fetchError {s : State} {c : CoreId} {line : Nat} {b : Nat × BitVec 16} (ha : s.alive = true)
    (hr : (s.core c).run = .running) (hn : (s.core c).needLine = some line)
    (hb : (s.core c).badLines.find? (fun b => b.1 == line) = some b) :
    exec (.fetchError c) s = .next (s.fetchFail c b.2) := by
  simp only [exec, execFetchError, hn, hb]
  exact whenever_of_alive ha (decide_eq_true hr) _

theorem State.core_fetchFail (s : State) (c : CoreId) (code : BitVec 16) (d : CoreId) :
    (s.fetchFail c code).core d = if d = c then (s.core c).fetchEnded else s.core d := by
  rw [State.fetchFail, State.core_modCore, State.core_congr (State.modLaunch_cores _ _ _), State.core_congr (State.modLaunch_cores _ _ _),
    State.kpSkip_core, State.kpSkip_core]
  rfl

/-- The skip with an error code on a core without launch and partition. -/
theorem State.fetchFail_of_free {s : State} {c : CoreId} (code : BitVec 16) (hl : (s.core c).launch = none)
    (hp : s.partOfCore c = none) : s.fetchFail c code =
      (s.logModule { type := 0x01, reason := 0x14, core := c.val, unit := 0, ctx := (s.core c).ctx.toNat, status := code.toNat, d1 := (s.core c).pc.toNat }).modCore c Core.fetchEnded := by
  have hskip : s.kpSkip c 0x14 code.toNat =
      s.logModule { type := 0x01, reason := 0x14, core := c.val, unit := 0, ctx := (s.core c).ctx.toNat, status := code.toNat, d1 := (s.core c).pc.toNat } := by
    simp [State.kpSkip, State.partOf, State.launchOf, State.launchTag, hl, hp, State.logAny, State.modLaunch]
  have hfree : (s.logModule { type := 0x01, reason := 0x14, core := c.val, unit := 0, ctx := (s.core c).ctx.toNat, status := code.toNat, d1 := (s.core c).pc.toNat }).modLaunch c
      (fun l => { l with errors := tabSet (fun _ => 0) c.val code l.errors }) = s.logModule
        { type := 0x01, reason := 0x14, core := c.val, unit := 0, ctx := (s.core c).ctx.toNat, status := code.toNat, d1 := (s.core c).pc.toNat } := by
    simp [State.modLaunch, hl]
  rw [State.fetchFail, hskip, hfree]
  rfl

/-- Settles O23: requests add fills in order; an arrival fills one line or keeps its error; the error ends the program. -/
theorem instructionFetch : Obligations.instructionFetch := by
  refine ⟨?_, ?_, ?_⟩
  · intro s c line hi k hm h0 hstep
    exact fetchMiss_completes hi hm h0 hstep
  · intro s t0 c line rs ha h k
    exact ⟨fetchLineArrive_good ha h, fun r hr => fetchLineArrive_bad ha h hr⟩
  · intro s c line b ha k hr hn hb e over_
    have he := exec_fetchError ha hr hn hb
    have hcore := s.core_fetchFail c b.2
    have hover : (s.core c).fetchEnded = over_ := Core.fetchEnded_eq _
    refine ⟨completes_of_eq he ⟨?_, fun d hd => ?_, ?_⟩, fun hl hp => ?_⟩
    · rw [hcore, if_pos rfl, hover]
    · rw [hcore, if_neg hd]
    · simp [State.fetchFail]
    · rw [he, State.fetchFail_of_free b.2 hl hp, State.modCore, State.core_congr (State.logModule_cores _ _), hover]

end Sys2Proof.Machine
end

section
/-! PROOFS. Granary channels: modes, mode registers, the activate scheduler, the store (R157 to R163, R169, R170, R177, R197). -/

namespace Sys2Proof.Machine

/-! ### One channel -/

theorem granChan_inj {g h : GranChan} : granChan g = granChan h ↔ g = h := by
  constructor
  · intro e
    have hv := congrArg Fin.val e
    simp only [granChan] at hv
    exact Fin.ext (by omega)
  · rintro rfl
    rfl

theorem onlyChan_modG (s : State) (g : GranChan) (f : Chan → Chan) : OnlyChan (granChan g) s (s.modG g f) := by
  refine ⟨rfl, fun m hm => ?_⟩
  rw [State.modG, State.modChan, State.chan_setChan, if_neg hm]

@[simp] theorem State.gchan_modG (s : State) (g : GranChan) (f : Chan → Chan) : (s.modG g f).gchan g = f (s.gchan g) := by
  rw [State.modG, State.modChan, State.gchan, State.chan_setChan, if_pos rfl]
  rfl

theorem State.gchan_congr {s t : State} (h : t.chans = s.chans) (g : GranChan) : t.gchan g = s.gchan g := by
  rw [State.gchan, State.gchan, State.chan, State.chan, h]

/-- A command of a channel that changes the channel alone. -/
theorem modG_completes {i : Instr} {s : State} {g : GranChan} {f : Chan → Chan} (he : exec i s = .next (s.modG g f)) :
    Completes i s (fun t => OnlyChan (granChan g) s t ∧ t.gchan g = f (s.gchan g)) :=
  completes_of_eq he ⟨onlyChan_modG _ _ _, s.gchan_modG _ _⟩

/-! ### GMODE -/

theorem exec_mrwGmode {g : GranChan} {v : BitVec 16} {s : State} (ha : s.alive = true) {t : State}
    (h : (if v.getLsbD 0 = procBit (s.gchan g).mode then s
     else if v.getLsbD 0 then
       if !(s.gchan g).queue.isEmpty then s
       else if !(s.gchan g).openBanks.isEmpty || (!s.grinding g && decide (24 ≤ (s.grindingIn (g.val / 32)).length)) then s.viol g
       else s.toProcessor g
     else if !(s.running g).isEmpty then s.viol g
     else s.toMemory g) = t) : exec (.mrwGmode g v) s = .next t :=
  (whenever_of_alive ha rfl _).trans (congrArg _ h)

/-! ### The end of a switch -/

/-- The controller's read of GSTAT touches VIOL of the channel, registers and the channel log. -/
theorem State.logOwn_chans (s : State) (n : ChanId) (type detail loc tag : Nat) : (s.logOwn n type detail loc tag).chans = s.chans := by
  unfold State.logOwn State.logChan
  dsimp only
  split <;> rfl

theorem State.logOwn_querns (s : State) (n : ChanId) (type detail loc tag : Nat) :
    (s.logOwn n type detail loc tag).querns = s.querns := by
  unfold State.logOwn State.logChan
  dsimp only
  split <;> rfl

theorem State.gchan_readGstat (s : State) (g : GranChan) : (s.readGstat g).gchan g = { s.gchan g with viol := false } := by
  unfold State.readGstat
  split
  next h =>
    have hv : (s.gchan g).viol = false := by simpa using h
    rw [← hv]
  next h =>
    refine (State.gchan_congr (State.logOwn_chans _ _ _ _ _ _) g).trans ?_
    rw [State.gchan_modG]

theorem State.readGstat_querns (s : State) (g : GranChan) : (s.readGstat g).querns = s.querns := by
  unfold State.readGstat
  split
  · rfl
  · exact State.logOwn_querns _ _ _ _ _ _

theorem State.readGstat_viol {s : State} {g : GranChan} (h : (s.gchan g).viol = true) :
    (s.readGstat g).bit (oGRAN_VIOL (granChan g)) 0 = true := by
  unfold State.readGstat
  rw [h]
  rw [if_neg (by simp), State.bit, State.fld_setFld_self _ _ _ _ _ (by decide)]
  rfl

theorem exec_modeSwitchDone {s : State} {g : GranChan} (ha : s.alive = true) :
    exec (.modeSwitchDone g) s = .next (s.switchDone g) := whenever_of_alive ha rfl _

theorem State.switchDone_toProcessor {s : State} {g : GranChan} (h : (s.gchan g).mode = .toProcessor) :
    s.switchDone g = (s.modG g (fun c => { c with mode := .processor })).readGstat g := by
  simp only [State.switchDone, h]

theorem State.switchDone_toMemory {s : State} {g : GranChan} (h : (s.gchan g).mode = .toMemory)
    (hq : s.bit (oQPROG_STAT (granChan g)) 0 = false) :
    s.switchDone g = (s.modG g (fun c => { c with
      mode := .memory, backAt := s.cycles + 10000, dwell := c.queue.map (fun r => r.id) })).readGstat g := by
  simp only [State.switchDone, h, hq, Bool.false_eq_true, if_false]

/-! ### The activate scheduler -/

theorem lowestPair_eq {a : Nat} {l : List Nat} (hm : a ∈ l) (hle : ∀ b ∈ l, a ≤ b) : lowestPair l = some a := by
  induction l with
  | nil => exact absurd hm List.not_mem_nil
  | cons b l ih =>
    have hb := hle b List.mem_cons_self
    have htail : ∀ c ∈ l, a ≤ c := fun c hc => hle c (List.mem_cons_of_mem _ hc)
    rcases List.mem_cons.mp hm with rfl | hin
    · have hall : ∀ {l : List Nat}, (∀ c ∈ l, a ≤ c) → ∀ c, lowestPair l = some c → a ≤ c := by
        intro l
        induction l with
        | nil => exact fun _ c hc => absurd hc (by simp [lowestPair])
        | cons x l ihl =>
          intro h c hc
          have hx := h x List.mem_cons_self
          have hl := ihl (fun y hy => h y (List.mem_cons_of_mem _ hy))
          simp only [lowestPair] at hc
          split at hc
          next y hy =>
            have := hl y hy
            simp only [Option.some.injEq] at hc
            omega
          next =>
            simp only [Option.some.injEq] at hc
            omega
      simp only [lowestPair]
      split
      next c hc => rw [Nat.min_eq_left (hall htail c hc)]
      next => rfl
    · simp only [lowestPair, ih hin htail, Nat.min_eq_right hb]

theorem exec_activateGrant {s : State} {g : GranChan} (ha : s.alive = true) :
    exec (.activateGrant g) s = .next (s.grantActivate g) := whenever_of_alive ha rfl _

/-- The pairs whose activate is due. -/
def State.dueActivates (s : State) (g : GranChan) : List (Nat × Nat) :=
  (s.gchan g).actWait.filter (fun x => decide (x.2 ≤ s.grainCycle))

/-- The activate that the scheduler would grant. -/
theorem State.grantActivate_eq {s : State} {g : GranChan} {x : Nat × Nat}
    (hx : (s.dueActivates g).find? (fun y => y.1 == x.1) = some x) (hle : ∀ y ∈ s.dueActivates g, x.1 ≤ y.1) :
    s.grantActivate g = if 8 ≤ ((s.gchan g).actGrants.filter (fun t => decide (s.grainCycle < t + 16))).length then s
      else s.modG g (fun c => { c with
        actWait := c.actWait.erase x
        actGrants := (s.gchan g).actGrants.filter (fun t => decide (s.grainCycle < t + 16)) ++ [s.grainCycle] }) := by
  have hlow : lowestPair ((s.dueActivates g).map Prod.fst) = some x.1 := by
    refine lowestPair_eq (List.mem_map_of_mem (List.mem_of_find?_eq_some hx)) fun b hb => ?_
    obtain ⟨y, hy, rfl⟩ := List.mem_map.mp hb
    exact hle y hy
  have hfind : (lowestPair ((s.dueActivates g).map Prod.fst)).bind
      (fun p => (s.dueActivates g).find? (fun x => x.1 == p)) = some x := by
    rw [hlow, Option.bind_some, hx]
  unfold State.grantActivate
  dsimp only
  split
  next h => exact absurd (hfind.symm.trans h) (by simp)
  next y h =>
    obtain rfl := Option.some.inj (hfind.symm.trans h)
    rfl

theorem State.grantActivate_of_none {s : State} {g : GranChan} (h : s.dueActivates g = []) : s.grantActivate g = s := by
  have hfind : (lowestPair ((s.dueActivates g).map Prod.fst)).bind
      (fun p => (s.dueActivates g).find? (fun x => x.1 == p)) = none := by
    rw [h]
    rfl
  unfold State.grantActivate
  dsimp only
  split
  next => rfl
  next y h => exact absurd (hfind.symm.trans h) (by simp)

/-- Settles O25: each command is one change of its channel; the end of a switch also reads GSTAT. -/
theorem granaryModes : Obligations.granaryModes := by
  refine ⟨?_, ?_, ?_, ?_⟩
  · intro s g v ha c into
    have hinto {f : Chan → Chan} (h : exec (.mrwGmode g v) s = .next (s.modG g f)) : into (f c) := modG_completes h
    refine ⟨fun h => exec_mrwGmode ha (if_pos h), fun hv hp hq => ?_, fun hv hp hq ho => ?_, fun hv hp hq ho hg => ?_,
      fun hv hp hr => ?_, fun hv hp hr => ?_⟩
    all_goals have hne : ¬ v.getLsbD 0 = procBit c.mode := by rw [hv, hp]; decide
    · exact exec_mrwGmode ha (by rw [if_neg hne, if_pos hv, if_pos (by simpa using hq)])
    · exact hinto (f := fun c => { c with viol := true }) (exec_mrwGmode ha (by rw [if_neg hne, if_pos hv, if_neg (by simp [hq, c]), if_pos (by simp [ho, c])]; rfl))
    · refine hinto (f := fun c => { c with mode := .toProcessor }) (exec_mrwGmode ha ?_)
      have hfree : ¬ (!c.openBanks.isEmpty || (!s.grinding g && decide (24 ≤ (s.grindingIn (g.val / 32)).length))) = true := by
        rcases hg with hg | hg <;> simp [ho, hg]
      rw [if_neg hne, if_pos hv, if_neg (by simp [hq, c]), if_neg hfree]
      rfl
    · exact hinto (f := fun c => { c with viol := true }) (exec_mrwGmode ha (by rw [if_neg hne, if_neg (by rw [hv]; exact Bool.false_ne_true), if_pos (by simpa using hr)]; rfl))
    · exact hinto (f := fun c => { c with mode := .toMemory, actWait := [] }) (exec_mrwGmode ha (by rw [if_neg hne, if_neg (by rw [hv]; exact Bool.false_ne_true), if_neg (by simp [hr])]; rfl))
  · intro s g ha hq c
    have he := exec_modeSwitchDone (g := g) ha
    refine ⟨fun hm => ?_, fun hm => ?_, fun hv hm => ?_⟩
    · rw [State.switchDone_toProcessor hm] at he
      refine completes_of_eq he ⟨?_, by simp, ?_⟩
      · rw [State.gchan_readGstat, State.gchan_modG]
      · rw [State.readGstat_querns]; rfl
    · rw [State.switchDone_toMemory hm hq] at he
      refine completes_of_eq he ⟨?_, by simp, ?_⟩
      · rw [State.gchan_readGstat, State.gchan_modG]
      · rw [State.readGstat_querns]; rfl
    · rcases hm with hm | hm
      · rw [State.switchDone_toProcessor hm] at he
        exact completes_of_eq he (State.readGstat_viol (by rw [State.gchan_modG]; exact hv))
      · rw [State.switchDone_toMemory hm hq] at he
        exact completes_of_eq he (State.readGstat_viol (by rw [State.gchan_modG]; exact hv))
  · intro s g v ha c bus
    have hmrr (n : BitVec 8) {t : State} (h : (if n = 0x40 then s.toController g (natLe 2 (boolNat (procBit c.mode)))
       else if n = 0x41 then s.toController g (natLe 2 c.gqmask.toNat)
       else if n = 0x42 then
         (s.modG g (fun c => { c with viol := false })).toController g (natLe 2 (gStateCode c.mode + 4 * boolNat c.viol))
       else s) = t) : exec (.mrr g n) s = .next t := (whenever_of_alive ha rfl _).trans (congrArg _ h)
    refine ⟨modG_completes (f := fun c => { c with gqmask := v }) (whenever_of_alive ha rfl _),
      modG_completes (f := fun c => { c with viol := true }) (whenever_of_alive ha rfl _),
      completes_of_eq (hmrr 0x40 rfl) rfl, completes_of_eq (hmrr 0x41 rfl) rfl, completes_of_eq (hmrr 0x42 rfl) ⟨rfl, ?_, rfl⟩⟩
    exact (State.gchan_congr (s := s.modG g (fun c => { c with viol := false })) rfl g).trans (s.gchan_modG g _)
  · intro s g ha c now recent due
    have he := exec_activateGrant (g := g) ha
    refine ⟨fun hd => he.trans (congrArg _ (State.grantActivate_of_none hd)), fun x hx hle => ?_⟩
    have hgrant := State.grantActivate_eq (s := s) (g := g) hx hle
    refine ⟨fun hr => ?_, fun hr => ?_⟩
    · exact modG_completes (he.trans (congrArg _ (hgrant.trans (if_neg (Nat.not_le.mpr hr)))))
    · exact he.trans (congrArg _ (hgrant.trans (if_pos hr)))

/-! ### The store -/

/-- A table into which a list of keys has been written, each with its own value. -/
theorem tabGet_foldl_tabSet {α β : Type} [DecidableEq α] (d : Nat → α) (key : β → Nat) (val : β → α) (l : List β) (m : Tab α)
    (hinj : ∀ x ∈ l, ∀ y ∈ l, key x = key y → x = y) (k : Nat) :
    (∀ x ∈ l, key x = k → tabGet d k (l.foldl (fun t x => tabSet d (key x) (val x) t) m) = val x) ∧
      ((∀ x ∈ l, key x ≠ k) → tabGet d k (l.foldl (fun t x => tabSet d (key x) (val x) t) m) = tabGet d k m) := by
  induction l generalizing m with
  | nil => exact ⟨fun x hx => absurd hx List.not_mem_nil, fun _ => rfl⟩
  | cons y l ih =>
    obtain ⟨hin, hout⟩ := ih (tabSet d (key y) (val y) m)
      (fun x hx z hz => hinj x (List.mem_cons_of_mem _ hx) z (List.mem_cons_of_mem _ hz))
    refine ⟨fun x hx hk => ?_, fun h => ?_⟩
    · by_cases hl : ∃ z ∈ l, key z = k
      · obtain ⟨z, hz, hzk⟩ := hl
        have hxz : x = z := hinj x hx z (List.mem_cons_of_mem _ hz) (hk.trans hzk.symm)
        rw [List.foldl_cons, hxz]
        exact hin z hz hzk
      · have hno : ∀ z ∈ l, key z ≠ k := fun z hz h => hl ⟨z, hz, h⟩
        have hxy : x = y := (List.mem_cons.mp hx).resolve_right fun h => hno x h hk
        rw [List.foldl_cons, hout hno, hxy, ← hk, hxy, tabGet_tabSet_self]
    · rw [List.foldl_cons, hout fun x hx => h x (List.mem_cons_of_mem _ hx),
        tabGet_tabSet_ne _ _ (h y List.mem_cons_self).symm]

/-- The store after a PLD: the line's sixteen instructions, and the others as before. -/
theorem tabGet_loadStoreLine (m : Tab (BitVec 32)) (ln : Nat) (bs : List Byte) :
    (∀ i, i < 16 → tabGet (fun _ => (0 : BitVec 32)) (16 * ln + i) (loadStoreLine m ln bs) = BitVec.ofNat 32 (fieldLe bs (4 * i) 4)) ∧
      ∀ n, n < 16 * ln ∨ 16 * ln + 16 ≤ n →
        tabGet (fun _ => (0 : BitVec 32)) n (loadStoreLine m ln bs) = tabGet (fun _ => 0) n m := by
  have h := tabGet_foldl_tabSet (fun _ => (0 : BitVec 32)) (fun i => 16 * ln + i)
    (fun i => BitVec.ofNat 32 (fieldLe bs (4 * i) 4)) (List.range 16) m (fun x _ y _ hxy => by omega)
  refine ⟨fun i hi => (h _).1 i (List.mem_range.mpr hi) rfl, fun n hn => (h n).2 fun x hx hk => ?_⟩
  rw [List.mem_range] at hx
  omega

theorem fieldLe_lt (bs : List Byte) (o n : Nat) : fieldLe bs o n < 256 ^ n := by
  induction n generalizing o with
  | zero => exact Nat.one_pos
  | succ n ih =>
    have hb := (bs[o]?.getD 0).isLt
    have htail : leNat (sliceBytes bs (o + 1) n) < 256 ^ n := ih (o + 1)
    rw [fieldLe, sliceBytes, leNat, Nat.pow_succ]
    omega

theorem exec_pld {s : State} {g : GranChan} {line : Fin 16} {data : List Byte} (ha : s.alive = true) (hl : data.length = 64) :
    exec (.pld g line data) s = .next (s.inModes g [.memory] (s.modG g (fun c => { c with
      store := loadStoreLine c.store line.val data }))) :=
  (checked_of_wf (i := .pld g line data) (decide_eq_true hl)).trans (whenever_of_alive ha rfl _)

theorem State.inModes_of_not_mem (s t : State) (g : GranChan) (ms : List GMode) (h : (s.gchan g).mode ∉ ms) :
    s.inModes g ms t = s.viol g := by
  simp [State.inModes, h]

/-- The store that the controller loads from QPROG_STAGE. -/
def State.stagedStore (s : State) (g : GranChan) : Tab (BitVec 32) :=
  (List.range 256).foldl (fun t i => tabSet (fun _ => 0) i ((s.reg (oQPROG_STAGE (granChan g).val i)).setWidth 32) t) []

theorem State.tabGet_stagedStore (s : State) (g : GranChan) {i : Nat} (hi : i < 256) :
    tabGet (fun _ => (0 : BitVec 32)) i (s.stagedStore g) = (s.reg (oQPROG_STAGE (granChan g).val i)).setWidth 32 :=
  (tabGet_foldl_tabSet (fun _ => (0 : BitVec 32)) id (fun i => (s.reg (oQPROG_STAGE (granChan g).val i)).setWidth 32) (List.range 256) []
    (fun _ _ _ _ h => h) i).1 i (List.mem_range.mpr hi) rfl

theorem State.loadStore_eq (s : State) (g : GranChan) : s.loadStore g =
    (((s.modG g (fun c => { c with store := s.stagedStore g })).setFld (oQPROG_STAT (granChan g).val) 0 0 0).setFld
      (oQPROG_STAT (granChan g).val) 1 1 1).setFld (oQPROG_STAT (granChan g).val) 63 32 (crc32c (storeBytes (s.stagedStore g))) := rfl

theorem granChan_of_asGran {ch : ChanId} {g : GranChan} (h : asGran ch = some g) : granChan g = ch := by
  unfold asGran at h
  split at h
  next hc =>
    obtain rfl := Option.some.inj h
    refine Fin.ext ?_
    simp only [granChan]
    omega
  next => exact absurd h (by simp)

theorem State.countWrite_fld (s : State) (fn : FnId) (o a b : Nat) : (s.countWrite fn).fld o a b = s.fld o a b := rfl

theorem State.countWrite_gchan (s : State) (fn : FnId) (g : GranChan) : (s.countWrite fn).gchan g = s.gchan g := rfl

theorem State.setFld_gchan (s : State) (o hi lo v : Nat) (g : GranChan) : (s.setFld o hi lo v).gchan g = s.gchan g := rfl

/-- Settles O26: a PLD writes one line of the store, a load all of it. -/
theorem quernStores : Obligations.quernStores := by
  refine ⟨?_, ?_⟩
  · intro s g line data ha hlen c instr
    have he := exec_pld (g := g) (line := line) ha hlen
    refine ⟨fun hm => ?_, fun hm => ?_⟩
    · rw [State.inModes_of_mem _ _ _ _ (by rw [hm]; exact List.mem_singleton_self _)] at he
      obtain ⟨hin, hout⟩ := tabGet_loadStoreLine c.store line.val data
      refine (modG_completes he).mono fun t ⟨honly, ht⟩ => ?_
      have hstore : (t.gchan g).store = loadStoreLine c.store line.val data := by rw [ht]
      refine ⟨honly, by rw [ht], fun i hi => ?_, fun n hn => ?_⟩
      · change (tabGet _ _ (t.gchan g).store).toNat = _
        rw [hstore, hin i hi, BitVec.toNat_ofNat]
        exact Nat.mod_eq_of_lt (fieldLe_lt data (4 * i) 4)
      · change tabGet _ n (t.gchan g).store = _
        rw [hstore, hout n hn]
    · rw [State.inModes_of_not_mem _ _ _ _ (by simpa using hm)] at he
      exact modG_completes he
  · intro s g ch ha hc hr hg hm hq
    have hch := granChan_of_asGran hg
    have he : exec (.qprogLoad 0 ch) s = .next ((s.loadStore g).countWrite 0) := by
      have hshape : exec (.qprogLoad 0 ch) s = execQprogLoad 0 ch s := rfl
      rw [hshape, execQprogLoad, bar0Write_pf0 ha hc hr, hg]
      simp only [State.requestLoad, hch, hq, hm, Bool.false_eq_true, if_false, if_true]
    have hchan : ((s.loadStore g).countWrite 0).gchan g = { s.gchan g with store := s.stagedStore g } := by
      rw [State.countWrite_gchan, State.loadStore_eq, State.setFld_gchan, State.setFld_gchan, State.setFld_gchan,
        State.gchan_modG]
    have hstore : (((s.loadStore g).countWrite 0).gchan g).store = s.stagedStore g := by rw [hchan]
    have hstat (a b : Nat) : ((s.loadStore g).countWrite 0).fld (oQPROG_STAT ch) a b =
        ((((s.modG g (fun c => { c with store := s.stagedStore g })).setFld (oQPROG_STAT ch) 0 0 0).setFld
          (oQPROG_STAT ch) 1 1 1).setFld (oQPROG_STAT ch) 63 32 (crc32c (storeBytes (s.stagedStore g)))).fld (oQPROG_STAT ch) a b := by
      rw [State.countWrite_fld, State.loadStore_eq, hch]
    refine completes_of_eq he ⟨fun i hi => ?_, ?_, ?_, ?_, ?_⟩
    · rw [hstore, State.tabGet_stagedStore s g hi, hch]
    · rw [State.bit, hstat, State.fld_setFld_apart _ _ _ _ _ _ _ (by decide) (by decide),
        State.fld_setFld_self _ _ _ _ _ (by decide)]
      rfl
    · rw [State.bit, hstat, State.fld_setFld_apart _ _ _ _ _ _ _ (by decide) (by decide),
        State.fld_setFld_apart _ _ _ _ _ _ _ (by decide) (by decide), State.fld_setFld_self _ _ _ _ _ (by decide)]
      rfl
    · rw [hstat, hstore, State.fld_setFld_self _ _ _ _ _ (by decide)]
    · simp

end Sys2Proof.Machine
end

section
/-! PROOFS. Querns: their lines, their starts and stops (R166, R167, R176, R178, R179, R191). -/

namespace Sys2Proof.Machine

/-! ### Changes of several querns of a channel -/

/-- The two states differ in nothing but the querns. -/
def State.QuernsOnly (s t : State) : Prop := t = { s with querns := t.querns }

/-- Each quern of a list is changed once. -/
theorem State.foldl_setQuern (s : State) (g : GranChan) (f : Fin 16 → Quern → Quern) (ps : List (Fin 16)) (hn : ps.Nodup) :
    let t := ps.foldl (fun t p => t.setQuern g p (f p (t.quern g p))) s
    s.QuernsOnly t ∧
      ∀ r, t.quern g r = if r ∈ ps then f r (s.quern g r) else s.quern g r := by
  induction ps generalizing s with
  | nil => exact ⟨rfl, fun r => rfl⟩
  | cons p ps ih =>
    obtain ⟨hp, hps⟩ := List.nodup_cons.mp hn
    obtain ⟨ht, hq⟩ := ih (s.setQuern g p (f p (s.quern g p))) hps
    refine ⟨ht, fun r => (hq r).trans ?_⟩
    by_cases hr : r = p
    · subst hr
      rw [if_neg hp, State.quern_setQuern, if_pos ⟨rfl, rfl⟩, if_pos List.mem_cons_self]
    · have hkeep : (s.setQuern g p (f p (s.quern g p))).quern g r = s.quern g r := by
        rw [State.quern_setQuern, if_neg fun h => hr h.2]
      simp only [hkeep, List.mem_cons, hr, false_or]

/-- A state in which the querns alone differ keeps channels and memory. -/
theorem State.QuernsOnly.gchan {s t : State} (h : s.QuernsOnly t) (g : GranChan) : t.gchan g = s.gchan g := by
  rw [State.QuernsOnly] at h
  rw [h]
  rfl

theorem State.QuernsOnly.mem {s t : State} (h : s.QuernsOnly t) : t.mem = s.mem := by
  rw [State.QuernsOnly] at h
  rw [h]

theorem State.quern_modG (s : State) (g h : GranChan) (f : Chan → Chan) (p : Fin 16) : (s.modG g f).quern h p = s.quern h p := rfl

theorem State.quern_congr {s t : State} (h : t.querns = s.querns) (g : GranChan) (p : Fin 16) : t.quern g p = s.quern g p := by
  rw [State.quern, State.quern, h]

/-! ### Lines -/

/-- The querns that a QWR names. -/
def qwrNames (bc : Bool) (p : Fin 16) : List (Fin 16) := if bc then List.finRange 16 else [p]

theorem mem_qwrNames {bc : Bool} {p r : Fin 16} : r ∈ qwrNames bc p ↔ bc = true ∨ r = p := by
  cases bc <;> simp [qwrNames, List.mem_finRange]

theorem qwrNames_nodup (bc : Bool) (p : Fin 16) : (qwrNames bc p).Nodup := by
  cases bc
  · exact List.nodup_singleton p
  · exact List.nodup_finRange 16

section
variable {s : State} {g : GranChan} {line : BitVec 7} {bc : Bool} {p : Fin 16} {data : List Byte} (ha : s.alive = true)
  (hl : data.length = 64) (hm : (s.gchan g).mode = .processor)
include ha hl hm

theorem exec_qwr (sp : BitVec 1) : exec (.qwr g sp line bc p data) s = .next
    (if (qwrNames bc p).any (fun p => (s.quern g p).running) then s.viol g
     else (qwrNames bc p).foldl (fun t p => t.setQuern g p ((t.quern g p).writeLine sp.toNat line.toNat data)) s) := by
  have hmem : (s.gchan g).mode ∈ [GMode.processor] := by rw [hm]; exact List.mem_singleton_self _
  refine (checked_of_wf (i := .qwr g sp line bc p data) (decide_eq_true hl)).trans ?_
  exact (whenever_of_alive ha rfl _).trans (congrArg _ (State.inModes_of_mem _ _ _ _ hmem))

omit hl in
theorem exec_qrd (sp : BitVec 1) : exec (.qrd g sp line p) s = .next
    (s.toController g ((s.quern g p).readLine sp.toNat line.toNat)) := by
  have hmem : (s.gchan g).mode ∈ [GMode.processor] := by rw [hm]; exact List.mem_singleton_self _
  exact (whenever_of_alive ha rfl _).trans (congrArg _ (State.inModes_of_mem _ _ _ _ hmem))

/-- A QWR that is not refused writes the line of each quern it names. -/
theorem qwr_completes (sp : BitVec 1) (hfree : ∀ r, (bc = true ∨ r = p) → (s.quern g r).running = false) :
    Completes (.qwr g sp line bc p data) s (fun t =>
      t = { s with querns := t.querns } ∧
      ∀ r, t.quern g r = if bc = true ∨ r = p then (s.quern g r).writeLine sp.toNat line.toNat data else s.quern g r) := by
  have hno : (qwrNames bc p).any (fun p => (s.quern g p).running) = false := by
    rw [List.any_eq_false]
    intro r hr
    rw [hfree r (mem_qwrNames.mp hr)]
    exact Bool.false_ne_true
  have he := exec_qwr (bc := bc) (p := p) (line := line) ha hl hm sp
  rw [hno, if_neg Bool.false_ne_true] at he
  obtain ⟨ht, hq⟩ := s.foldl_setQuern g (fun _ q => q.writeLine sp.toNat line.toNat data) (qwrNames bc p) (qwrNames_nodup bc p)
  refine completes_of_eq he ⟨ht, fun r => (hq r).trans ?_⟩
  simp only [mem_qwrNames]

end

theorem Quern.writeLine_local (q : Quern) (ln : Nat) (bs : List Byte) :
    q.writeLine 0 ln bs = { q with local_ := writeBytes q.local_ (64 * ln) bs } := rfl

theorem Quern.writeLine_cmd {ln : Nat} (h : ln ≤ 8) (q : Quern) (bs : List Byte) :
    q.writeLine 1 ln bs = { q with cmdArea := writeBytes q.cmdArea (64 * ln) bs } := by
  rw [Quern.writeLine, if_neg (by decide), if_pos h]

theorem Quern.writeLine_beyond {ln : Nat} (h : 8 < ln) (q : Quern) (bs : List Byte) : q.writeLine 1 ln bs = q := by
  rw [Quern.writeLine, if_neg (by decide), if_neg (by omega)]

/-- Settles O27: a write is one write of each named quern's line, a read leaves the querns. -/
theorem quernLines : Obligations.quernLines := by
  intro s g line bc p data ha hl hm named
  have hself (m : Tab Byte) : readBytes (writeBytes m (64 * line.toNat) data) (64 * line.toNat) 64 = data := by
    have h := readBytes_writeBytes_self m (64 * line.toNat) data
    rwa [hl] at h
  refine ⟨fun ⟨r, hr, hrun⟩ sp => ?_, fun hfree => ⟨?_, ?_⟩, ?_, ?_⟩
  · have hany : (qwrNames bc p).any (fun p => (s.quern g p).running) = true :=
      List.any_eq_true.mpr ⟨r, mem_qwrNames.mpr hr, hrun⟩
    have he := exec_qwr (bc := bc) (p := p) (line := line) ha hl hm sp
    rw [hany, if_pos rfl] at he
    exact completes_of_eq he ⟨rfl, congrArg Chan.viol (s.gchan_modG g _), rfl⟩
  · refine (qwr_completes (line := line) ha hl hm 0 hfree).mono fun t ⟨ht, hq⟩ => ⟨ht, fun r hr => ?_, fun r hr => ?_⟩
    · have hqr := (hq r).trans (if_pos hr)
      rw [hqr]
      exact ⟨hself _, rfl⟩
    · exact (hq r).trans (if_neg hr)
  · refine (qwr_completes (line := line) ha hl hm 1 hfree).mono fun t ⟨ht, hq⟩ =>
      ⟨ht, fun r hr h8 => ?_, fun r hr h8 => ?_, fun r hr => (hq r).trans (if_neg hr)⟩
    · rw [(hq r).trans (if_pos hr)]
      exact (congrArg (fun q => readBytes q.cmdArea (64 * line.toNat) 64) (Quern.writeLine_cmd h8 _ _)).trans (hself _)
    · exact ((hq r).trans (if_pos hr)).trans (Quern.writeLine_beyond h8 _ _)
  · exact completes_of_eq (exec_qrd ha hm 0) rfl
  · exact completes_of_eq (exec_qrd ha hm 1) rfl

/-! ### Starts -/

theorem exec_qgo {s : State} {g : GranChan} {entry : BitVec 8} (ha : s.alive = true) (hm : (s.gchan g).mode = .processor) :
    exec (.qgo g entry) s = .next
      (if (s.running g).any (fun p => (s.gchan g).gqmask.getLsbD p.val) then s.viol g else s.qgo g entry) := by
  have hmem : (s.gchan g).mode ∈ [GMode.processor] := by rw [hm]; exact List.mem_singleton_self _
  exact (whenever_of_alive ha rfl _).trans (congrArg _ (State.inModes_of_mem _ _ _ _ hmem))

/-- The quern after a QGO, by the mask. -/
def Quern.started (q : Quern) (sel : Bool) (entry : BitVec 8) : Quern :=
  if sel then q.go entry else { q with status := 0, line := 0 }

/-- A QGO counts and starts or idles every quern of its channel. -/
theorem State.qgo_effect (s : State) (g : GranChan) (entry : BitVec 8) :
    ((s.qgo g entry).gchan g).starts = (s.gchan g).starts + 1 ∧ (s.qgo g entry).mem = s.mem ∧
      ∀ p, (s.qgo g entry).quern g p = (s.quern g p).started ((s.gchan g).gqmask.getLsbD p.val) entry := by
  obtain ⟨ht, hq⟩ := (s.modG g (fun c => { c with starts := c.starts + 1 })).foldl_setQuern g
    (fun p q => q.started ((s.gchan g).gqmask.getLsbD p.val) entry) (List.finRange 16) (List.nodup_finRange 16)
  refine ⟨?_, ?_, fun p => (hq p).trans (if_pos (List.mem_finRange p))⟩
  · refine (congrArg Chan.starts (ht.gchan g)).trans ?_
    rw [State.gchan_modG]
  · exact ht.mem

theorem Quern.go_fields (q : Quern) (entry : BitVec 8) :
    (∀ a, (q.go entry).reg a = 0) ∧ (q.go entry).pc = entry ∧ (q.go entry).btp = 0 ∧ (q.go entry).bn = 0 ∧
      (q.go entry).flags = 0 ∧ (q.go entry).ce = false ∧
      (q.go entry).status = if q.qn = 0 ∨ 8 < q.qn ∨ 128 < q.nb ∨ q.dfmt = 3 then 8 else 1 :=
  ⟨fun _ => rfl, rfl, rfl, rfl, rfl, rfl, rfl⟩

theorem State.mem_running {s : State} {g : GranChan} {p : Fin 16} : p ∈ s.running g ↔ (s.quern g p).running = true := by
  simp [State.running, List.mem_finRange]

/-! ### Stops -/

/-- The querns after a QSTOP. -/
theorem State.qstop_effect (s : State) (g : GranChan) :
    (∀ p, (s.qstop g).quern g p = if (s.quern g p).running then { s.quern g p with status := 6 } else s.quern g p) ∧
      ((s.qstop g).gchan g).viol = false := by
  obtain ⟨_, hq⟩ := s.foldl_setQuern g (fun _ q => { q with status := 6 }) (s.running g)
    ((List.nodup_finRange 16).filter _)
  refine ⟨fun p => ?_, ?_⟩
  · rw [State.qstop, State.quern_congr (State.readGstat_querns _ _), hq p]
    simp only [State.mem_running]
  · rw [State.qstop, State.gchan_readGstat]

/-- Settles O28: a QGO starts the querns of the mask, a QSTOP stops those in RUN. -/
theorem quernsStartAndStop : Obligations.quernsStartAndStop := by
  refine ⟨?_, ?_⟩
  · intro s g entry ha hm c
    have he := exec_qgo (entry := entry) ha hm
    refine ⟨fun ⟨p, hp, hrun⟩ => ?_, fun hfree => ?_⟩
    · rw [List.any_eq_true.mpr ⟨p, State.mem_running.mpr hrun, hp⟩, if_pos rfl] at he
      exact modG_completes (f := fun c => { c with viol := true }) he
    · have hno : (s.running g).any (fun p => c.gqmask.getLsbD p.val) = false := by
        rw [List.any_eq_false]
        intro p hp hsel
        exact Bool.noConfusion ((hfree p hsel).symm.trans (State.mem_running.mp hp))
      rw [hno, if_neg Bool.false_ne_true] at he
      obtain ⟨hs, hmem, hq⟩ := s.qgo_effect g entry
      refine completes_of_eq he ⟨hs, hmem, ?_⟩
      intro p q r
      have hr : r = q.started (c.gqmask.getLsbD p.val) entry := hq p
      cases hsel : c.gqmask.getLsbD p.val with
      | false =>
        rw [hr, hsel]
        exact ⟨rfl, rfl, fun _ => rfl, fun h => absurd h Bool.false_ne_true⟩
      | true =>
        rw [hr, hsel]
        exact ⟨rfl, rfl, fun h => absurd h.symm Bool.false_ne_true, fun _ => q.go_fields entry⟩
  · intro s g ha hm
    refine ⟨completes_of_eq (exec_qst_processor s g ha hm) rfl, ?_⟩
    intro stopped
    obtain ⟨hq, hv⟩ := s.qstop_effect g
    have hmem : (s.gchan g).mode ∈ [GMode.processor] := by rw [hm]; exact List.mem_singleton_self _
    have he : exec (.qstop g) s = .next ((s.qstop g).readGstat g) :=
      (whenever_of_alive ha rfl _).trans (congrArg (fun t => Host.Outcome.next (State.readGstat t g)) (State.inModes_of_mem _ _ _ _ hmem))
    refine ⟨completes_of_eq he ⟨fun p => ?_, ?_, by simp⟩, fun hrun => ?_⟩
    · rw [State.quern_congr (State.readGstat_querns _ _), hq p]
    · rw [State.gchan_readGstat]
    · have hgo : (decide ((s.gchan g).mode = .processor) && !(s.running g).isEmpty) = true := by
        simp [hm, hrun]
      exact completes_of_eq (whenever_of_alive ha hgo _) ⟨hq, hv, by simp⟩

end Sys2Proof.Machine
end

section
/-! PROOFS. Quern instructions of registers, branches and local storage (R172, R173). -/

namespace Sys2Proof.Machine

/-! ### One instruction of a quern -/

theorem quernOp_of_runs {s : State} {g : GranChan} {p : Fin 16} {op : Nat} {f : Nat → Bool} (t : State) (hr : s.qRuns g p = true)
    (hop : qOp (s.qWord g p) = op) (hf : f (s.qWord g p) = true) (ha : s.alive = true) : quernOp s g p op f t = .next t :=
  whenever_of_alive ha (by rw [hr, hop, hf]; simp) t

theorem regOp_of_runs {s : State} {g : GranChan} {p : Fin 16} {op : Nat} {f : Nat → Bool} (e : Quern → Quern)
    (ha : s.alive = true) (hr : s.qRuns g p = true) (hop : qOp (s.qWord g p) = op) (hf : f (s.qWord g p) = true) :
    regOp s g ⟨p, false⟩ op f e = .next (s.setQuern g p (e (s.quern g p))) :=
  quernOp_of_runs _ hr hop hf ha

theorem regOp_of_par {s : State} {g : GranChan} {p : Fin 16} {op : Nat} {f : Nat → Bool} (e : Quern → Quern)
    (ha : s.alive = true) (hr : s.qRuns g p = true) (hop : qOp (s.qWord g p) = op) (hf : f (s.qWord g p) = true) :
    regOp s g ⟨p, true⟩ op f e = .next (s.stopOpen g p 9) :=
  quernOp_of_runs _ hr hop hf ha

theorem State.quern_setQuern_self (s : State) (g : GranChan) (p : Fin 16) (q : Quern) : (s.setQuern g p q).quern g p = q := by
  rw [State.quern_setQuern, if_pos ⟨rfl, rfl⟩]

theorem State.quern_setQuern_other {g h : GranChan} {p r : Fin 16} (hn : h ≠ g ∨ r ≠ p) (s : State) (q : Quern) :
    (s.setQuern g p q).quern h r = s.quern h r := by
  rw [State.quern_setQuern, if_neg]
  rintro ⟨rfl, rfl⟩
  exact hn.elim (fun k => k rfl) (fun k => k rfl)

theorem onlyQuern_setQuern (s : State) (g : GranChan) (p : Fin 16) (q : Quern) : OnlyQuern g p s (s.setQuern g p q) :=
  ⟨rfl, fun _ _ h => State.quern_setQuern_other h s q⟩

theorem Quern.reg_setReg (q : Quern) (d r : GReg) (v : BitVec 32) : (q.setReg d v).reg r = if r = d then v else q.reg r := by
  rw [Quern.reg, Quern.setReg, tabGet_tabSet]
  simp only [Fin.ext_iff, Quern.reg]

theorem Quern.reg_setReg_self (q : Quern) (d : GReg) (v : BitVec 32) : (q.setReg d v).reg d = v := by
  rw [Quern.reg_setReg, if_pos rfl]

theorem Quern.reg_setReg_other {d r : GReg} (h : r ≠ d) (q : Quern) (v : BitVec 32) : (q.setReg d v).reg r = q.reg r := by
  rw [Quern.reg_setReg, if_neg h]

/-- An instruction that sets one register and goes on to the next one. -/
theorem setReg_completes {s : State} {g : GranChan} {p : Fin 16} {d : GReg} {v : BitVec 32} {i : Instr}
    (h : exec i s = .next (s.setQuern g p ((s.quern g p).setReg d v).next)) :
    Completes i s (fun t =>
      OnlyQuern g p s t ∧
      t.quern g p = { s.quern g p with g := (t.quern g p).g, pc := (s.quern g p).pc + 1, past := decide ((s.quern g p).pc = 255) } ∧
      (t.quern g p).reg d = v ∧ ∀ r, r ≠ d → (t.quern g p).reg r = (s.quern g p).reg r) := by
  refine completes_of_eq h ⟨onlyQuern_setQuern _ _ _ _, ?_⟩
  rw [State.quern_setQuern_self]
  exact ⟨rfl, (s.quern g p).reg_setReg_self d v, fun r hr => Quern.reg_setReg_other hr _ v⟩

/-- An instruction that ends with an open LINE keeps the quern but for status and LINE. -/
theorem stopOpen_completes {s : State} {g : GranChan} {p : Fin 16} {n : BitVec 4} {i : Instr}
    (h : exec i s = .next (s.stopOpen g p n)) :
    Completes i s (fun t =>
      t = { s with querns := t.querns, freeIdx := t.freeIdx } ∧
      t.quern g p = { s.quern g p with status := n, line := (t.quern g p).line } ∧
      ∀ h r, (h ≠ g ∨ r ≠ p) → t.quern h r = s.quern h r) := by
  refine completes_of_eq h ⟨rfl, ?_, fun k r hn => ?_⟩
  · rw [State.stopOpen, State.quern_setQuern_self]
    rfl
  · exact State.quern_setQuern_other (s := s.fresh.2) hn _

theorem sub_one_eq_zero_iff (v : BitVec 32) : v - 1 = 0 ↔ v = 1 := sub_eq_zero

/-! ### Registers and control -/

/-- Two numbers of an instruction word are as the command names them. -/
theorem beq_and_beq {a b c d : Nat} (h : a = b) (k : c = d) : (a == b && c == d) = true := by
  rw [h, k, beq_self_eq_true, beq_self_eq_true]
  rfl

theorem beq_and_beq_and_beq {a b c d e f : Nat} (h : a = b) (k : c = d) (l : e = f) : (a == b && c == d && e == f) = true := by
  rw [beq_and_beq h k, l, beq_self_eq_true]
  rfl

theorem Quern.nextBlock_entry {q : Quern} (h : q.btp.toNat < q.nb) (d : GReg) (imm8 : BitVec 8) :
    q.nextBlock d imm8 = ({ q.setReg d (BitVec.ofNat 32 (readLe q.cmdArea (64 + 4 * q.btp.toNat) 4 % 2 ^ 21)) with
      bn := BitVec.ofNat 7 (bitsOf (readLe q.cmdArea (64 + 4 * q.btp.toNat) 4) 26 21 + 1)
      btp := q.btp + 1 } : Quern).next := if_pos h

theorem Quern.nextBlock_none {q : Quern} (h : q.nb ≤ q.btp.toNat) (d : GReg) (imm8 : BitVec 8) :
    q.nextBlock d imm8 = q.goto imm8 := if_neg (Nat.not_lt.mpr h)

/-- The N of a block-table entry. -/
theorem toNat_blockCount (e : Nat) : (BitVec.ofNat 7 (bitsOf e 26 21 + 1)).toNat = e / 2 ^ 21 % 64 + 1 := by
  rw [BitVec.toNat_ofNat, bitsOf, Nat.shiftRight_eq_div_pow]
  omega

section
variable {s : State} {g : GranChan} {p : Fin 16} (ha : s.alive = true) (hr : s.qRuns g p = true)
include ha hr

/-- The register instructions. -/
theorem quernControl_registers (d a b : GReg) (imm18 : BitVec 18) (imm14 : BitVec 14) (imm8 : BitVec 8) :
    let w := s.qWord g p
    let q := s.quern g p
    ∀ x ∈ [(Instr.qLi g ⟨p, false⟩ d imm18, 0x05, w % 2 ^ 18 = imm18.toNat, imm18.setWidth 32),
        (.qLui g ⟨p, false⟩ d imm14, 0x06, w % 2 ^ 14 = imm14.toNat, imm14 ++ (q.reg d).setWidth 18),
        (.qAddi g ⟨p, false⟩ d a imm14, 0x07, qA w = a.val ∧ w % 2 ^ 14 = imm14.toNat, q.reg a + imm14.signExtend 32),
        (.qAdd g ⟨p, false⟩ d a b, 0x08, qA w = a.val ∧ qB w = b.val, q.reg a + q.reg b),
        (.qSub g ⟨p, false⟩ d a b, 0x09, qA w = a.val ∧ qB w = b.val, q.reg a - q.reg b),
        (.ldcw g ⟨p, false⟩ d imm8, 0x0A, w % 256 = imm8.toNat, BitVec.ofNat 32 (q.cw (imm8.toNat % 16)))],
      qOp w = x.2.1 → qD w = d.val → x.2.2.1 → exec x.1 s = .next (s.setQuern g p (q.setReg d x.2.2.2).next) := by
  intro w q x hx hop hd hc
  simp only [List.mem_cons, List.not_mem_nil, or_false] at hx
  rcases hx with rfl | rfl | rfl | rfl | rfl | rfl
  · show execQLi g _ d imm18 s = _
    refine regOp_of_runs _ ha hr hop ?_
    exact (beq_and_beq hd hc)
  · show execQLui g _ d imm14 s = _
    refine regOp_of_runs _ ha hr hop ?_
    exact (beq_and_beq hd hc)
  · show execQAddi g _ d a imm14 s = _
    refine regOp_of_runs _ ha hr hop ?_
    exact (beq_and_beq_and_beq hd hc.1 hc.2)
  · show execQAdd g _ d a b s = _
    refine regOp_of_runs _ ha hr hop ?_
    exact (beq_and_beq_and_beq hd hc.1 hc.2)
  · show execQSub g _ d a b s = _
    refine regOp_of_runs _ ha hr hop ?_
    exact (beq_and_beq_and_beq hd hc.1 hc.2)
  · show execLdcw g _ d imm8 s = _
    refine regOp_of_runs _ ha hr hop ?_
    exact (beq_and_beq hd hc)

/-- The branches. -/
theorem quernControl_branches (a : GReg) (imm8 : BitVec 8) :
    let w := s.qWord g p
    let q := s.quern g p
    w % 256 = imm8.toNat →
    ∀ x ∈ [(Instr.qJmp g ⟨p, false⟩ imm8, 0x01, true, q), (.qBz g ⟨p, false⟩ a imm8, 0x02, decide (q.reg a = 0), q),
        (.qBnz g ⟨p, false⟩ a imm8, 0x03, decide (q.reg a ≠ 0), q),
        (.qLoop g ⟨p, false⟩ a imm8, 0x04, decide (q.reg a ≠ 1), q.setReg a (q.reg a - 1))],
      qOp w = x.2.1 → (x.2.1 ≠ 0x01 → qA w = a.val) →
      exec x.1 s = .next (s.setQuern g p (if x.2.2.1 then x.2.2.2.goto imm8 else x.2.2.2.next)) := by
  intro w q hw x hx hop hra
  simp only [List.mem_cons, List.not_mem_nil, or_false] at hx
  rcases hx with rfl | rfl | rfl | rfl
  · show execQJmp g _ imm8 s = _
    refine regOp_of_runs _ ha hr hop ?_
    exact (beq_iff_eq.mpr hw)
  · show execQBz g _ a imm8 s = _
    refine Eq.trans (regOp_of_runs _ ha hr hop ?_) ?_
    · exact beq_and_beq (hra (by simp)) hw
    · simp only [decide_eq_true_eq, q]
  · show execQBnz g _ a imm8 s = _
    refine Eq.trans (regOp_of_runs _ ha hr hop ?_) ?_
    · exact beq_and_beq (hra (by simp)) hw
    · simp only [decide_eq_true_eq, q]
  · show execQLoop g _ a imm8 s = _
    refine Eq.trans (regOp_of_runs _ ha hr hop ?_) ?_
    · exact beq_and_beq (hra (by simp)) hw
    · have hz : q.reg a - 1 ≠ 0 ↔ q.reg a ≠ 1 := not_congr sub_eq_zero
      simp only [hz, decide_eq_true_eq, q]

/-- A parity error stops the quern whatever the instruction. -/
theorem quernControl_parity (d a b : GReg) (imm18 : BitVec 18) (imm14 : BitVec 14) (imm8 : BitVec 8) :
    let w := s.qWord g p
    qD w = d.val → qA w = a.val → qB w = b.val → w % 2 ^ 18 = imm18.toNat → w % 2 ^ 14 = imm14.toNat →
    w % 256 = imm8.toNat →
    ∀ x ∈ [(Instr.qHalt g ⟨p, true⟩, 0x00), (.qJmp g ⟨p, true⟩ imm8, 0x01), (.qBz g ⟨p, true⟩ a imm8, 0x02),
        (.qBnz g ⟨p, true⟩ a imm8, 0x03), (.qLoop g ⟨p, true⟩ a imm8, 0x04), (.qLi g ⟨p, true⟩ d imm18, 0x05),
        (.qLui g ⟨p, true⟩ d imm14, 0x06), (.qAddi g ⟨p, true⟩ d a imm14, 0x07), (.qAdd g ⟨p, true⟩ d a b, 0x08),
        (.qSub g ⟨p, true⟩ d a b, 0x09), (.ldcw g ⟨p, true⟩ d imm8, 0x0A), (.lw g ⟨p, true⟩ d a imm14, 0x0B),
        (.sw g ⟨p, true⟩ b a imm14, 0x0C), (.nblk g ⟨p, true⟩ d imm8, 0x0D), (.acci g ⟨p, true⟩, 0x10),
        (.quernOsm g ⟨p, true⟩, 0x12), (.kvapp g p a b true, 0x15)],
      qOp w = x.2 → exec x.1 s = .next (s.stopOpen g p 9) := by
  intro w hd hra hrb h18 h14 h8 x hx hop
  simp only [List.mem_cons, List.not_mem_nil, or_false] at hx
  rcases hx with rfl | rfl | rfl | rfl | rfl | rfl | rfl | rfl | rfl | rfl | rfl | rfl | rfl | rfl | rfl | rfl | rfl
  · show execQHalt g _ s = _
    refine regOp_of_par _ ha hr hop ?_
    exact rfl
  · show execQJmp g _ imm8 s = _
    refine regOp_of_par _ ha hr hop ?_
    exact (beq_iff_eq.mpr h8)
  · show execQBz g _ a imm8 s = _
    refine regOp_of_par _ ha hr hop ?_
    exact (beq_and_beq hra h8)
  · show execQBnz g _ a imm8 s = _
    refine regOp_of_par _ ha hr hop ?_
    exact (beq_and_beq hra h8)
  · show execQLoop g _ a imm8 s = _
    refine regOp_of_par _ ha hr hop ?_
    exact (beq_and_beq hra h8)
  · show execQLi g _ d imm18 s = _
    refine regOp_of_par _ ha hr hop ?_
    exact (beq_and_beq hd h18)
  · show execQLui g _ d imm14 s = _
    refine regOp_of_par _ ha hr hop ?_
    exact (beq_and_beq hd h14)
  · show execQAddi g _ d a imm14 s = _
    refine regOp_of_par _ ha hr hop ?_
    exact (beq_and_beq_and_beq hd hra h14)
  · show execQAdd g _ d a b s = _
    refine regOp_of_par _ ha hr hop ?_
    exact (beq_and_beq_and_beq hd hra hrb)
  · show execQSub g _ d a b s = _
    refine regOp_of_par _ ha hr hop ?_
    exact (beq_and_beq_and_beq hd hra hrb)
  · show execLdcw g _ d imm8 s = _
    refine regOp_of_par _ ha hr hop ?_
    exact (beq_and_beq hd h8)
  · show execLw g _ d a imm14 s = _
    refine regOp_of_par _ ha hr hop ?_
    exact (beq_and_beq_and_beq hd hra h14)
  · show execSw g _ b a imm14 s = _
    refine regOp_of_par _ ha hr hop ?_
    exact (beq_and_beq_and_beq hrb hra h14)
  · show execNblk g _ d imm8 s = _
    refine regOp_of_par _ ha hr hop ?_
    exact (beq_and_beq hd h8)
  · show execAcci g _ s = _
    refine regOp_of_par _ ha hr hop ?_
    exact rfl
  · show execQuernOsm g _ s = _
    refine regOp_of_par _ ha hr hop ?_
    exact rfl
  · show execKvapp g p a b true s = _
    rw [execKvapp]
    dsimp only
    rw [if_pos rfl]
    refine quernOp_of_runs _ hr hop ?_ ha
    exact beq_and_beq hra hrb

end

/-- Settles O30: each instruction is one change of its quern; a branch or a stop sets no register. -/
theorem quernControl : Obligations.quernControl := by
  refine ⟨?_, ?_, ?_, ?_, ?_⟩
  · intro s g p d a b imm18 imm14 imm8 ha hr w q x hx hop hd hc
    exact setReg_completes (quernControl_registers ha hr d a b imm18 imm14 imm8 x hx hop hd hc)
  · intro s g p a imm8 ha hr w q hw x hx hop hra
    have hpc : x.2.2.2.pc = q.pc := by
      simp only [List.mem_cons, List.not_mem_nil, or_false] at hx
      rcases hx with rfl | rfl | rfl | rfl <;> rfl
    refine (quernControl_branches ha hr a imm8 hw x hx hop hra).trans ?_
    rw [Quern.next, hpc]
    rfl
  · intro s g p d imm8 ha hr w q e hop hd hw
    have he : exec (.nblk g ⟨p, false⟩ d imm8) s = .next (s.setQuern g p (q.nextBlock d imm8)) := by
      show execNblk g _ d imm8 s = _
      exact regOp_of_runs _ ha hr hop (beq_and_beq hd hw)
    refine completes_of_eq he ⟨onlyQuern_setQuern _ _ _ _, fun hlt => ?_, fun hle => ?_⟩
    · rw [State.quern_setQuern_self, Quern.nextBlock_entry hlt]
      exact ⟨q.reg_setReg_self d _, toNat_blockCount e, rfl, rfl, rfl, fun r hn => Quern.reg_setReg_other hn q _⟩
    · rw [State.quern_setQuern_self, Quern.nextBlock_none hle]
      rfl
  · intro s g p ha q stopped
    refine ⟨fun hr hop => ?_, fun hr w hw hdef => ?_, fun hm hs hp => ?_⟩
    · show execQHalt g _ s = _
      exact regOp_of_runs _ ha hr hop rfl
    · refine whenever_of_alive ha ?_ _
      rw [hr, hw, hdef, beq_self_eq_true]
      rfl
    · refine whenever_of_alive ha ?_ _
      rw [decide_eq_true hm, Quern.running, hs, hp]
      rfl
  · intro s g p d a b imm18 imm14 imm8 ha hr w q hd hra hrb h18 h14 h8 x hx hop
    exact stopOpen_completes (quernControl_parity ha hr d a b imm18 imm14 imm8 hd hra hrb h18 h14 h8 x hx hop)

/-! ### Local storage -/

theorem Quern.access_ok {q : Quern} {a : Nat} (h4 : a % 4 = 0) (hlt : a < 0x2000) (f : Quern → Quern) :
    q.access a f = (f q).next := if_neg (by omega)

theorem Quern.access_bad {q : Quern} {a : Nat} (h : a % 4 ≠ 0 ∨ 0x2000 ≤ a) (f : Quern → Quern) :
    q.access a f = q.stop 4 a := if_pos h

/-- A record written for each of the first `n` queries. -/
def putRecords (bs : List Byte) (m : Tab Byte) (n : Nat) : Tab Byte :=
  (List.range n).foldl (fun m i => writeBytes m (recAddr i) bs) m

theorem foldl_put (l : List Nat) (a : Nat → Nat) (bs : List Byte) (q : Quern) :
    l.foldl (fun t i => t.put (a i) bs) q = { q with local_ := l.foldl (fun m i => writeBytes m (a i) bs) q.local_ } := by
  induction l generalizing q with
  | nil => rfl
  | cons i l ih => exact ih (q.put (a i) bs)

theorem Quern.acci_eq (q : Quern) :
    q.acci = ({ q with local_ := putRecords (natLe 4 0xFF800000 ++ natLe 524 0) q.local_ q.qn } : Quern).next :=
  congrArg Quern.next (foldl_put (List.range q.qn) recAddr _ q)

theorem putRecords_succ (bs : List Byte) (m : Tab Byte) (n : Nat) :
    putRecords bs m (n + 1) = writeBytes (putRecords bs m n) (recAddr n) bs := by
  rw [putRecords, List.range_succ, List.foldl_append]
  rfl

theorem natLe_append_length (m n v w : Nat) : (natLe m v ++ natLe n w).length = m + n := by
  rw [List.length_append, natLe_length, natLe_length]

section
variable {bs : List Byte} (hl : bs.length = 528) (m : Tab Byte) (n : Nat)
include hl

theorem tabGet_putRecords (y : Nat) (h : y < 0xC00 ∨ 0xC00 + 528 * n ≤ y) :
    tabGet zeroByte y (putRecords bs m n) = tabGet zeroByte y m := by
  induction n with
  | zero => rfl
  | succ n ih =>
    rw [putRecords_succ, readByte_writeBytes_outside]
    · exact ih (by omega)
    · rw [hl, recAddr]
      omega

theorem readBytes_putRecords (i : Nat) (h : i < n) : readBytes (putRecords bs m n) (0xC00 + 528 * i) 528 = bs := by
  induction n with
  | zero => omega
  | succ n ih =>
    rw [putRecords_succ]
    by_cases hi : i = n
    · subst hi
      have h := readBytes_writeBytes_self (putRecords bs m i) (recAddr i) bs
      rwa [hl] at h
    · rw [readBytes_writeBytes_apart]
      · exact ih (by omega)
      · rw [hl, recAddr]
        omega

end

/-- Settles O31: a load or store is one access of local storage; acci writes one empty record a query. -/
theorem quernLocalStorage : Obligations.quernLocalStorage := by
  refine ⟨?_, ?_⟩
  · intro s g p d a b imm14 ha hr w q x hra h14
    have hlw (hop : qOp w = 0x0B) (hd : qD w = d.val) : exec (.lw g ⟨p, false⟩ d a imm14) s = .next (s.setQuern g p
        (q.access x (fun q => q.setReg d (BitVec.ofNat 32 (readLe q.local_ x 4))))) := by
      show execLw g _ d a imm14 s = _
      exact regOp_of_runs _ ha hr hop (beq_and_beq_and_beq hd hra h14)
    have hsw (hop : qOp w = 0x0C) (hb : qB w = b.val) : exec (.sw g ⟨p, false⟩ b a imm14) s = .next (s.setQuern g p
        (q.access x (fun q => { q with local_ := writeLe q.local_ x 4 (q.reg b).toNat }))) := by
      show execSw g _ b a imm14 s = _
      exact regOp_of_runs _ ha hr hop (beq_and_beq_and_beq hb hra h14)
    refine ⟨fun hop hd h4 hlt => ?_, fun hop hb h4 hlt => ?_, fun hbad => ⟨fun hop hd => ?_, fun hop hb => ?_⟩⟩
    · have he := hlw hop hd
      rw [Quern.access_ok h4 hlt] at he
      exact setReg_completes he
    · have he := hsw hop hb
      rw [Quern.access_ok h4 hlt] at he
      refine completes_of_eq he ⟨onlyQuern_setQuern _ _ _ _, ?_⟩
      rw [State.quern_setQuern_self]
      refine ⟨rfl, ?_, fun y hy => readByte_writeBytes_outside _ _ _ _ ?_⟩
      · refine (leNat_readBytes_writeLe q.local_ x 4 (q.reg b).toNat).trans (Nat.mod_eq_of_lt ?_)
        exact (q.reg b).isLt
      · rw [natLe_length]
        exact hy
    · rw [hlw hop hd, Quern.access_bad hbad]
      rfl
    · rw [hsw hop hb, Quern.access_bad hbad]
      rfl
  · intro s g p ha hr hop q _
    have he : exec (.acci g ⟨p, false⟩) s = .next (s.setQuern g p q.acci) := by
      show execAcci g _ s = _
      exact regOp_of_runs _ ha hr hop rfl
    refine completes_of_eq he ⟨onlyQuern_setQuern _ _ _ _, ?_⟩
    rw [State.quern_setQuern_self, Quern.acci_eq]
    exact ⟨rfl, readBytes_putRecords (natLe_append_length 4 524 _ _) _ _, tabGet_putRecords (natLe_append_length 4 524 _ _) _ _⟩

end Sys2Proof.Machine
end

section
/-! PROOFS. The stream instructions of a quern and the append (R173, R174). -/

namespace Sys2Proof.Machine

theorem beq_and_beq_bool {a b : Nat} {c d : Bool} (h : a = b) (k : c = d) : (a == b && c == d) = true := by
  rw [h, k, beq_self_eq_true, beq_self_eq_true]
  rfl

/-! ### Lines of a bank pair -/

theorem pairLineAddr_aligned (g : GranChan) (p l : Nat) : 64 * (pairLineAddr g p l / 64) = pairLineAddr g p l := by
  unfold pairLineAddr
  omega

/-- Two pair lines do not meet. -/
theorem pairLineAddr_apart {l m : Nat} (g : GranChan) (p : Nat) (h : l ≠ m) :
    pairLineAddr g p l + 64 ≤ pairLineAddr g p m ∨ pairLineAddr g p m + 64 ≤ pairLineAddr g p l := by
  unfold pairLineAddr
  omega

theorem pairLine_ne {l m : Nat} (g : GranChan) (p : Nat) (h : l ≠ m) : pairLineAddr g p l / 64 ≠ pairLineAddr g p m / 64 := by
  have := pairLineAddr_apart g p h
  omega

theorem State.readLine_sound {s : State} {line : Nat} (h : s.errorsIn line = 0) :
    s.readLine line = ({ bytes := readBytes s.mem (64 * line) 64 }, s) := by
  simp only [State.readLine, State.peekLine, if_pos h]
  rfl

theorem State.pairBytes_succ (s : State) (g : GranChan) (p : Fin 16) (l n : Nat) :
    s.pairBytes g p l (n + 1) = s.pairBytes g p l n ++ readBytes s.mem (pairLineAddr g p.val (l + n)) 64 := by
  simp only [State.pairBytes, List.range_succ, List.flatMap_append, List.flatMap_cons, List.flatMap_nil, List.append_nil]

/-- Sound lines are read as memory holds them, and nothing changes. -/
theorem State.bankRead_sound {s : State} {g : GranChan} {p : Fin 16} {l n : Nat} (h : s.pairSound g p l n) :
    s.bankRead g p l n = { st := s, bytes := s.pairBytes g p l n } := by
  induction n with
  | zero => rfl
  | succ n ih =>
    have hn : s.bankRead g p l (n + 1) = (s.bankRead g p l n).line g p (l + n) := by
      rw [State.bankRead, List.range_succ, List.foldl_append]
      rfl
    rw [hn, ih fun i hi => h i (by omega), BankRead.line, State.pairBytes_succ]
    dsimp only
    rw [State.readLine_sound (h n (by omega)), pairLineAddr_aligned]
    rfl

/-- Activates are the stack logic's alone. -/
theorem State.askActivates_eq (s : State) (g : GranChan) (p : Fin 16) (l n : Nat) :
    s.askActivates g p l n = { s with chans := (s.askActivates g p l n).chans } := by
  rw [State.askActivates]
  split
  · rfl
  · rfl

/-- What a stream instruction on sound lines does. -/
theorem State.stream_sound {s : State} {g : GranChan} {p : Fin 16} {l n : Nat} (f : List Byte → Quern → Quern)
    (hr : l + n ≤ pairLimit) (hs : s.pairSound g p l n) :
    s.stream g p l n true false [] f =
      (s.askActivates g p l n).setQuern g p (f (s.pairBytes g p l n) (s.quern g p)).next := by
  have hin : (!true || decide (n ≠ 0 ∧ pairLimit < l + n)) = false := by
    rw [decide_eq_false fun h => by omega]
    rfl
  have he := s.askActivates_eq g p l n
  have hsound : (s.askActivates g p l n).pairSound g p l n := by
    rw [he]
    exact hs
  have hbytes : (s.askActivates g p l n).pairBytes g p l n = s.pairBytes g p l n := by
    rw [he]
    rfl
  have hq : (s.askActivates g p l n).quern g p = s.quern g p := by
    rw [he]
    rfl
  have hacq : s.acquire [] = s := rfl
  rw [State.stream, if_neg Bool.false_ne_true, hin, if_neg Bool.false_ne_true, hacq, State.bankRead_sound hsound]
  dsimp only
  rw [hbytes, hq, Bool.or_false]

/-- The state after a stream instruction on sound lines keeps memory and cores. -/
theorem State.askActivates_setQuern (s : State) (g : GranChan) (p : Fin 16) (l n : Nat) (q : Quern) :
    ((s.askActivates g p l n).setQuern g p q).mem = s.mem ∧ ((s.askActivates g p l n).setQuern g p q).cores = s.cores ∧
      ((s.askActivates g p l n).setQuern g p q).quern g p = q := by
  refine ⟨?_, ?_, State.quern_setQuern_self _ g p q⟩
  · rw [s.askActivates_eq]
    rfl
  · rw [s.askActivates_eq]
    rfl

/-! ### Changes of local storage and flags -/

/-- The second quern differs from the first in nothing but flags and local storage, and not there where `P` holds. -/
def Quern.Keeps (P : Nat → Prop) (q t : Quern) : Prop :=
  t = { q with local_ := t.local_, flags := t.flags } ∧ ∀ y, P y → tabGet zeroByte y t.local_ = tabGet zeroByte y q.local_

section
variable {P : Nat → Prop}

theorem Quern.Keeps.refl (q : Quern) : q.Keeps P q := ⟨rfl, fun _ _ => rfl⟩

theorem Quern.Keeps.trans {q t u : Quern} (h : q.Keeps P t) (k : t.Keeps P u) : q.Keeps P u := by
  obtain ⟨ht, hl⟩ := h
  obtain ⟨hu, hm⟩ := k
  refine ⟨?_, fun y hy => (hm y hy).trans (hl y hy)⟩
  rw [ht] at hu
  exact hu

theorem Quern.Keeps.orFlags {q t : Quern} (h : q.Keeps P t) (f : BitVec 6) : q.Keeps P (t.orFlags f) :=
  h.trans ⟨rfl, fun _ _ => rfl⟩

theorem Quern.Keeps.put {q t : Quern} (h : q.Keeps P t) {a : Nat} {bs : List Byte}
    (hp : ∀ y, P y → y < a ∨ a + bs.length ≤ y) : q.Keeps P (t.put a bs) :=
  h.trans ⟨rfl, fun y hy => readByte_writeBytes_outside bs t.local_ a y (hp y hy)⟩

theorem Quern.Keeps.foldl {α : Type} {f : Quern → α → Quern} (l : List α) (hf : ∀ t : Quern, ∀ a ∈ l, t.Keeps P (f t a)) (q : Quern) :
    q.Keeps P (l.foldl f q) := by
  induction l generalizing q with
  | nil => exact .refl q
  | cons a l ih =>
    exact (hf q a List.mem_cons_self).trans (ih (fun t b hb => hf t b (List.mem_cons_of_mem a hb)) _)

/-- What such a change and the step past the rows leave. -/
theorem Quern.Keeps.pastRows {q t : Quern} (h : q.Keeps P t) (a : GReg) (n : Nat) :
    (t.pastRows a n).next.reg a = q.reg a + BitVec.ofNat 32 (n * q.rc) ∧
      (t.pastRows a n).next.pc = q.pc + 1 ∧ (t.pastRows a n).next.status = q.status ∧
      (t.pastRows a n).next.cmdArea = q.cmdArea ∧ (∀ r, r ≠ a → (t.pastRows a n).next.reg r = q.reg r) ∧
      ∀ y, P y → tabGet zeroByte y (t.pastRows a n).next.local_ = tabGet zeroByte y q.local_ := by
  obtain ⟨ht, hl⟩ := h
  have hreg (r : GReg) : t.reg r = q.reg r := by
    rw [ht]
    rfl
  have hrc : t.rc = q.rc := by
    rw [ht]
    rfl
  refine ⟨?_, ?_, ?_, ?_, fun r hr => (Quern.reg_setReg_other hr t _).trans (hreg r), hl⟩
  · refine (Quern.reg_setReg_self t a _).trans ?_
    rw [hreg, hrc]
  · exact (congrArg (fun q : Quern => q.pc + 1) ht :)
  · exact (congrArg Quern.status ht :)
  · exact (congrArg Quern.cmdArea ht :)

end

theorem f32Bytes_length (l : List Nat) : (f32Bytes l).length = 4 * l.length :=
  flatMap_length_of_const _ 4 (fun v => natLe_length 4 v) l

/-! ### Scores -/

/-- The scores of one query. -/
def Quern.scoreList (q : Quern) (bs : List Byte) (n i : Nat) : List Nat :=
  ((List.range 32).map (fun t => q.score bs n i t)).map Prod.fst

theorem Quern.scoreList_length (q : Quern) (bs : List Byte) (n i : Nat) : (q.scoreList bs n i).length = 32 := by
  simp [Quern.scoreList]

/-- The scores of one query written. -/
def Quern.scored (q : Quern) (bs : List Byte) (n : Nat) (u : Quern) (i : Nat) : Quern :=
  (u.put (sAddr i 0) (f32Bytes (q.scoreList bs n i))).orFlags
    (((List.range 32).map (fun t => q.score bs n i t)).foldl (fun f x => f ||| x.2) 0)

/-- The scores of the first `m` queries. -/
def Quern.scores (q : Quern) (bs : List Byte) (n m : Nat) : Quern := (List.range m).foldl (q.scored bs n) q

theorem Quern.kdot_eq (q : Quern) (a : GReg) (n : Nat) (bs : List Byte) :
    q.kdot a n bs = (q.scores bs n q.qn).pastRows a 32 := rfl

theorem Quern.scored_local (q : Quern) (bs : List Byte) (n : Nat) (u : Quern) (i : Nat) :
    (q.scored bs n u i).local_ = writeBytes u.local_ (sAddr i 0) (f32Bytes (q.scoreList bs n i)) := by
  rw [Quern.scored, Quern.orFlags, Quern.put]

theorem Quern.scores_succ (q : Quern) (bs : List Byte) (n m : Nat) :
    (q.scores bs n (m + 1)).local_ = writeBytes (q.scores bs n m).local_ (sAddr m 0) (f32Bytes (q.scoreList bs n m)) := by
  rw [Quern.scores, List.range_succ (n := m), List.foldl_append, List.foldl_cons, List.foldl_nil, Quern.scored_local,
    Quern.scores]

theorem Quern.scores_keeps (q : Quern) (bs : List Byte) (n : Nat) {m : Nat} (hm : m ≤ 8) :
    q.Keeps (fun y => y < 0x800 ∨ 0xC00 ≤ y) (q.scores bs n m) := by
  refine .foldl _ (fun t i hi => ?_) q
  have hi8 := List.mem_range.mp hi
  refine (Quern.Keeps.put (.refl t) fun y hy => ?_).orFlags _
  rw [f32Bytes_length, Quern.scoreList_length, sAddr]
  omega

theorem readBytes_getElem? (m : Tab Byte) (a : Nat) {n k : Nat} (h : k < n) :
    (readBytes m a n)[k]? = some (tabGet zeroByte (a + k) m) := by
  induction n generalizing a k with
  | zero => omega
  | succ n ih =>
    cases k with
    | zero => rfl
    | succ k => rw [readBytes, List.getElem?_cons_succ, ih (a + 1) (by omega), Nat.add_right_comm, Nat.add_assoc]

/-- A slice of bytes that were read. -/
theorem sliceBytes_readBytes (m : Tab Byte) (a : Nat) {o n N : Nat} (h : o + n ≤ N) :
    sliceBytes (readBytes m a N) o n = readBytes m (a + o) n := by
  induction n generalizing o with
  | zero => rfl
  | succ n ih =>
    rw [sliceBytes, readBytes_getElem? m a (by omega), ih (by omega)]
    rfl

/-- A field of bytes that were written. -/
theorem readLe_writeBytes_inside (m : Tab Byte) (a : Nat) {o n : Nat} {bs : List Byte} (h : o + n ≤ bs.length) :
    readLe (writeBytes m a bs) (a + o) n = fieldLe bs o n := by
  rw [readLe, ← sliceBytes_readBytes _ a h, readBytes_writeBytes_self, fieldLe]

/-- The score of a query and a token, once the query's scores are written. -/
theorem Quern.f32_scores (q : Quern) (bs : List Byte) (n : Nat) {m i j : Nat} (hi : i < m) (hj : j < 32) :
    (q.scores bs n m).f32 (0x800 + 4 * (32 * i + j)) = (q.score bs n i j).1 % 2 ^ 32 := by
  rw [Quern.f32]
  induction m with
  | zero => omega
  | succ m ih =>
    rw [Quern.scores_succ]
    by_cases him : i = m
    · subst him
      have haddr : 0x800 + 4 * (32 * i + j) = sAddr i 0 + 4 * j := by
        rw [sAddr]
        omega
      have hlen : j < (q.scoreList bs n i).length := by rw [Quern.scoreList_length]; exact hj
      rw [haddr, readLe_writeBytes_inside, f32Bytes, fieldLe_flatMap_natLe 4 (fun v => v) _ j hlen]
      · simp [Quern.scoreList]
      · rw [f32Bytes_length, Quern.scoreList_length]
        omega
    · rw [readLe, readBytes_writeBytes_apart, ← readLe]
      · exact ih (by omega)
      · rw [f32Bytes_length, Quern.scoreList_length, sAddr]
        omega

/-! ### Accumulators -/

theorem Quern.vaccRow_keeps (q : Quern) (bs : List Byte) (i t : Nat) : q.Keeps (fun y => y < 0xC00) (q.vaccRow bs i t) := by
  refine (Quern.Keeps.put (.refl q) fun y hy => ?_).orFlags _
  rw [recAddr]
  omega

/-- The rows joined to the accumulators of every query. -/
def Quern.accumulated (q : Quern) (bs : List Byte) (n : Nat) : Quern :=
  (List.range q.qn).foldl (fun u i => (List.range n).foldl (fun v t => v.vaccRow bs i t) u) q

theorem Quern.vacc_eq (q : Quern) (a : GReg) (n : Nat) (bs : List Byte) : q.vacc a n bs = (q.accumulated bs n).pastRows a 32 := rfl

theorem Quern.accumulated_keeps (q : Quern) (bs : List Byte) (n : Nat) : q.Keeps (fun y => y < 0xC00) (q.accumulated bs n) :=
  .foldl _ (fun t i _ => .foldl _ (fun u j _ => u.vaccRow_keeps bs i j) t) q

/-- The elements of O32 of a matrix. -/
def Quern.products (q : Quern) (bs : List Byte) (i : Nat) (x : Bool) (n : Nat) : Quern :=
  (List.range n).foldl (fun t j => t.mvecOne bs i x j) q

theorem Quern.products_keeps (q : Quern) (bs : List Byte) (i : Nat) (x : Bool) (n : Nat) :
    q.Keeps (fun y => y < 0xC00 ∨ 0xC00 + 4 * n ≤ y) (q.products bs i x n) := by
  refine .foldl _ (fun t j hj => ?_) q
  have hjn := List.mem_range.mp hj
  refine (Quern.Keeps.put (.refl t) fun y hy => ?_).orFlags _
  rw [natLe_length, o32Addr]
  omega

theorem codesOf_length (fmt : Nat) (bs : List Byte) (len : Nat) : (codesOf fmt bs len).length = len := by
  simp [codesOf]

theorem Quern.osmOne_keeps (q : Quern) {i n : Nat} (hi : i < n) (hn : n ≤ 8) :
    q.Keeps (fun y => y < 0x800 ∨ (0x800 + 128 * n ≤ y ∧ y < 0xC00)) (q.osmOne i) := by
  refine ((((Quern.Keeps.refl q).put fun y hy => ?_).put fun y hy => ?_).put fun y hy => ?_).orFlags _
  · rw [f32Bytes_length, List.length_map, sAddr]
    have hlen : (osmRow (readBytes q.local_ (sAddr i 0) 128) (readBytes q.local_ (recAddr i) 8 ++ natLe 8 0)).1.length = 32 :=
      codesOf_length _ _ _
    rw [sAddr] at hlen
    rw [hlen]
    omega
  · rw [recAddr]
    omega
  · rw [recAddr]
    omega

/-- The accumulators of every query rescaled. -/
def Quern.rescaled (q : Quern) : Quern := (List.range q.qn).foldl (fun t i => t.osmOne i) q

theorem Quern.rescaled_keeps {q : Quern} (h : q.qn ≤ 8) :
    q.Keeps (fun y => y < 0x800 ∨ (0x800 + 128 * q.qn ≤ y ∧ y < 0xC00)) q.rescaled :=
  .foldl _ (fun t i hi => t.osmOne_keeps (List.mem_range.mp hi) h) q

/-! ### Lines written -/

theorem State.bankWrite_succ (s : State) (g : GranChan) (p : Fin 16) (l n : Nat) (bs : List Byte) :
    s.bankWrite g p l (n + 1) bs =
      (s.bankWrite g p l n bs).writeLine (pairLineAddr g p.val (l + n) / 64) (sliceBytes bs (64 * n) 64) := by
  rw [State.bankWrite, List.range_succ, List.foldl_append]
  rfl

theorem State.bankWrite_eq (s : State) (g : GranChan) (p : Fin 16) (l n : Nat) (bs : List Byte) :
    s.bankWrite g p l n bs =
      { s with mem := (s.bankWrite g p l n bs).mem, lineErr := (s.bankWrite g p l n bs).lineErr } := by
  induction n with
  | zero => rfl
  | succ n ih =>
    rw [State.bankWrite_succ, State.writeLine, State.setErrors]
    generalize s.bankWrite g p l n bs = t at ih ⊢
    rw [ih]

@[simp] theorem sliceBytes_length (l : List Byte) (o n : Nat) : (sliceBytes l o n).length = n := by
  induction n generalizing o with
  | zero => rfl
  | succ n ih => rw [sliceBytes, List.length_cons, ih]

theorem State.writeLine_mem (s : State) (line : Nat) (bs : List Byte) :
    (s.writeLine line bs).mem = writeBytes s.mem (64 * line) bs := rfl

theorem State.writeLine_errorsIn (s : State) (line k : Nat) (bs : List Byte) :
    (s.writeLine line bs).errorsIn k = if k = line then 0 else s.errorsIn k := by
  rw [State.errorsIn, State.writeLine, State.setErrors, tabGet_tabSet]
  rfl

section
variable (s : State) (g : GranChan) (p : Fin 16) (l n : Nat) (bs : List Byte)

/-- A byte in none of the lines reads as before. -/
theorem State.bankWrite_byte {y : Nat}
    (h : ∀ i, i < n → ¬ (pairLineAddr g p.val (l + i) ≤ y ∧ y < pairLineAddr g p.val (l + i) + 64)) :
    (s.bankWrite g p l n bs).byte y = s.byte y := by
  induction n with
  | zero => rfl
  | succ n ih =>
    rw [State.bankWrite_succ, State.byte, State.writeLine_mem, readByte_writeBytes_outside]
    · exact ih fun i hi => h i (by omega)
    · have hn := h n (by omega)
      rw [pairLineAddr_aligned, sliceBytes_length]
      omega

/-- Each line then holds its part of the bytes. -/
theorem State.readBytes_bankWrite {i : Nat} (hi : i < n) :
    readBytes (s.bankWrite g p l n bs).mem (pairLineAddr g p.val (l + i)) 64 = sliceBytes bs (64 * i) 64 := by
  induction n with
  | zero => omega
  | succ n ih =>
    rw [State.bankWrite_succ, State.writeLine_mem, pairLineAddr_aligned]
    by_cases hin : i = n
    · subst hin
      have h := readBytes_writeBytes_self (s.bankWrite g p l i bs).mem (pairLineAddr g p.val (l + i)) (sliceBytes bs (64 * i) 64)
      rwa [sliceBytes_length] at h
    · have hap := pairLineAddr_apart (l := l + i) (m := l + n) g p.val (by omega)
      rw [readBytes_writeBytes_apart]
      · exact ih (by omega)
      · rw [sliceBytes_length]
        exact hap

/-- Each line then has sound check bits, and a line that had them keeps them. -/
theorem State.bankWrite_errorsIn {k : Nat} (h : s.errorsIn k = 0 ∨ ∃ i, i < n ∧ k = pairLineAddr g p.val (l + i) / 64) :
    (s.bankWrite g p l n bs).errorsIn k = 0 := by
  induction n with
  | zero => exact h.resolve_right fun ⟨i, hi, _⟩ => absurd hi (Nat.not_lt_zero i)
  | succ n ih =>
    rw [State.bankWrite_succ, State.writeLine_errorsIn]
    by_cases hk : k = pairLineAddr g p.val (l + n) / 64
    · rw [if_pos hk]
    · rw [if_neg hk]
      refine ih (h.imp_right fun ⟨i, hi, hki⟩ => ⟨i, ?_, hki⟩)
      have : i ≠ n := fun hin => hk (hin ▸ hki)
      omega

end

theorem readBytes_add (m : Tab Byte) (a n k : Nat) : readBytes m a (n + k) = readBytes m a n ++ readBytes m (a + n) k := by
  induction n generalizing a with
  | zero => rw [Nat.zero_add, Nat.add_zero]; rfl
  | succ n ih => rw [Nat.succ_add, readBytes, readBytes, ih, List.cons_append, Nat.add_right_comm, Nat.add_assoc a n 1]

/-- The lines read back what was written to them. -/
theorem State.pairBytes_of_lines {t : State} {g : GranChan} {p : Fin 16} {l n : Nat} {m : Tab Byte} {a : Nat}
    (h : ∀ i, i < n → readBytes t.mem (pairLineAddr g p.val (l + i)) 64 = readBytes m (a + 64 * i) 64) :
    t.pairBytes g p l n = readBytes m a (64 * n) := by
  induction n with
  | zero => rfl
  | succ n ih =>
    rw [State.pairBytes_succ, ih fun i hi => h i (by omega), h n (by omega), Nat.mul_succ, readBytes_add]

/-! ### The statement -/

section
variable {s : State} {g : GranChan} {p : Fin 16} {a : GReg} {x : Bool} (ha : s.alive = true) (hr : s.qRuns g p = true)
include ha hr

theorem exec_kdot_sound (hop : qOp (s.qWord g p) = 0x11) (hra : qA (s.qWord g p) = a.val) (hx : bitOf (s.qWord g p) 11 = x)
    (hlim : ((s.quern g p).reg a).toNat + (s.quern g p).rc * (s.quern g p).halfRows x ≤ pairLimit)
    (hs : s.pairSound g p ((s.quern g p).reg a).toNat ((s.quern g p).rc * (s.quern g p).halfRows x)) :
    exec (.kdot g p a x [] false) s = .next
      ((s.askActivates g p ((s.quern g p).reg a).toNat ((s.quern g p).rc * (s.quern g p).halfRows x)).setQuern g p
        ((s.quern g p).kdot a ((s.quern g p).halfRows x)
          (s.pairBytes g p ((s.quern g p).reg a).toNat ((s.quern g p).rc * (s.quern g p).halfRows x))).next) := by
  show execKdot g p a x [] false s = _
  rw [execKdot]
  rw [State.stream_sound _ hlim hs]
  exact quernOp_of_runs _ hr hop (beq_and_beq_bool hra hx) ha

theorem exec_vacc_sound (hop : qOp (s.qWord g p) = 0x13) (hra : qA (s.qWord g p) = a.val) (hx : bitOf (s.qWord g p) 11 = x)
    (hlim : ((s.quern g p).reg a).toNat + (s.quern g p).rc * (s.quern g p).halfRows x ≤ pairLimit)
    (hs : s.pairSound g p ((s.quern g p).reg a).toNat ((s.quern g p).rc * (s.quern g p).halfRows x)) :
    exec (.vacc g p a x [] false) s = .next
      ((s.askActivates g p ((s.quern g p).reg a).toNat ((s.quern g p).rc * (s.quern g p).halfRows x)).setQuern g p
        ((s.quern g p).vacc a ((s.quern g p).halfRows x)
          (s.pairBytes g p ((s.quern g p).reg a).toNat ((s.quern g p).rc * (s.quern g p).halfRows x))).next) := by
  show execVacc g p a x [] false s = _
  rw [execVacc]
  rw [State.stream_sound _ hlim hs]
  exact quernOp_of_runs _ hr hop (beq_and_beq_bool hra hx) ha

theorem exec_mvec_sound {b : GReg} {i : Fin 8} (hop : qOp (s.qWord g p) = 0x14) (hra : qA (s.qWord g p) = a.val)
    (hrb : qB (s.qWord g p) = b.val) (hi : bitsOf (s.qWord g p) 10 8 = i.val) (hx : bitOf (s.qWord g p) 11 = x)
    (hn : ((s.quern g p).reg b).toNat ≤ 1056)
    (hlim : ((s.quern g p).reg a).toNat + (s.quern g p).rc * ((s.quern g p).reg b).toNat ≤ pairLimit)
    (hs : s.pairSound g p ((s.quern g p).reg a).toNat ((s.quern g p).rc * ((s.quern g p).reg b).toNat)) :
    exec (.mvec g p a b i x [] false) s = .next
      ((s.askActivates g p ((s.quern g p).reg a).toNat ((s.quern g p).rc * ((s.quern g p).reg b).toNat)).setQuern g p
        (((s.quern g p).products
          (s.pairBytes g p ((s.quern g p).reg a).toNat ((s.quern g p).rc * ((s.quern g p).reg b).toNat)) i.val x
          ((s.quern g p).reg b).toNat).pastRows a ((s.quern g p).reg b).toNat).next) := by
  show execMvec g p a b i x [] false s = _
  rw [execMvec]
  rw [decide_eq_true hn, State.stream_sound _ hlim hs]
  refine quernOp_of_runs _ hr hop ?_ ha
  rw [beq_and_beq_and_beq hra hrb hi, hx, beq_self_eq_true]
  rfl

theorem exec_quernOsm (hop : qOp (s.qWord g p) = 0x12) :
    exec (.quernOsm g ⟨p, false⟩) s = .next (s.setQuern g p (s.quern g p).rescaled.next) := by
  show execQuernOsm g _ s = _
  exact regOp_of_runs _ ha hr hop rfl

theorem exec_kvapp_sound {b : GReg} (hop : qOp (s.qWord g p) = 0x15) (hra : qA (s.qWord g p) = a.val)
    (hrb : qB (s.qWord g p) = b.val) (hla : ((s.quern g p).reg a).toNat + (s.quern g p).rc ≤ pairLimit)
    (hlb : ((s.quern g p).reg b).toNat + (s.quern g p).rc ≤ pairLimit) :
    exec (.kvapp g p a b false) s = .next
      (((((s.askActivates g p ((s.quern g p).reg a).toNat (s.quern g p).rc).askActivates g p ((s.quern g p).reg b).toNat
          (s.quern g p).rc).bankWrite g p ((s.quern g p).reg a).toNat (s.quern g p).rc
            (readBytes (s.quern g p).local_ 0x1C80 (64 * (s.quern g p).rc))).bankWrite g p ((s.quern g p).reg b).toNat
              (s.quern g p).rc (readBytes (s.quern g p).local_ 0x1D80 (64 * (s.quern g p).rc))).setQuern g p
        (s.quern g p).next) := by
  show execKvapp g p a b false s = _
  rw [execKvapp]
  dsimp only
  rw [if_neg Bool.false_ne_true, if_neg (not_or.mpr ⟨Nat.not_lt.mpr hla, Nat.not_lt.mpr hlb⟩)]
  exact quernOp_of_runs _ hr hop (beq_and_beq hra hrb) ha

end

/-- Two rows written to a bank pair that do not meet. -/
theorem State.bankWrite_twice (s : State) (g : GranChan) (p : Fin 16) {la lb n : Nat} (m : Tab Byte) (a b : Nat)
    (hap : la + n ≤ lb ∨ lb + n ≤ la) :
    let t := (s.bankWrite g p la n (readBytes m a (64 * n))).bankWrite g p lb n (readBytes m b (64 * n))
    t.pairBytes g p la n = readBytes m a (64 * n) ∧ t.pairBytes g p lb n = readBytes m b (64 * n) ∧
      t.pairSound g p la n ∧ t.pairSound g p lb n ∧
      ∀ y, (¬ ∃ i, i < n ∧ pairLineAddr g p.val (la + i) ≤ y ∧ y < pairLineAddr g p.val (la + i) + 64) →
        (¬ ∃ i, i < n ∧ pairLineAddr g p.val (lb + i) ≤ y ∧ y < pairLineAddr g p.val (lb + i) + 64) → t.byte y = s.byte y := by
  intro t
  refine ⟨State.pairBytes_of_lines fun i hi => ?_, State.pairBytes_of_lines fun i hi => ?_, fun i hi => ?_, fun i hi => ?_,
    fun y hya hyb => ?_⟩
  · have hkeep : readBytes t.mem (pairLineAddr g p.val (la + i)) 64 =
        readBytes (s.bankWrite g p la n (readBytes m a (64 * n))).mem (pairLineAddr g p.val (la + i)) 64 := by
      refine readBytes_congr fun y hlo hhi => State.bankWrite_byte _ g p lb n _ fun j hj hy => ?_
      have := pairLineAddr_apart (l := la + i) (m := lb + j) g p.val (by omega)
      omega
    rw [hkeep, State.readBytes_bankWrite _ g p la n _ hi]
    exact sliceBytes_readBytes m a (by omega)
  · rw [State.readBytes_bankWrite _ g p lb n _ hi]
    exact sliceBytes_readBytes m b (by omega)
  · exact State.bankWrite_errorsIn _ g p lb n _ (.inl (State.bankWrite_errorsIn s g p la n _ (.inr ⟨i, hi, rfl⟩)))
  · exact State.bankWrite_errorsIn _ g p lb n _ (.inr ⟨i, hi, rfl⟩)
  · rw [State.bankWrite_byte _ g p lb n _ fun i hi h => hyb ⟨i, hi, h⟩]
    exact State.bankWrite_byte s g p la n _ fun i hi h => hya ⟨i, hi, h⟩

theorem State.pairBytes_setQuern (s : State) (g : GranChan) (p : Fin 16) (q : Quern) (l n : Nat) :
    (s.setQuern g p q).pairBytes g p l n = s.pairBytes g p l n := rfl

theorem State.pairSound_setQuern {s : State} {g : GranChan} {p : Fin 16} {l n : Nat} (h : s.pairSound g p l n) (q : Quern) :
    (s.setQuern g p q).pairSound g p l n := h

theorem State.byte_setQuern (s : State) (g : GranChan) (p : Fin 16) (q : Quern) (y : Nat) :
    (s.setQuern g p q).byte y = s.byte y := rfl

theorem State.byte_askActivates (s : State) (g : GranChan) (p : Fin 16) (l n y : Nat) :
    (s.askActivates g p l n).byte y = s.byte y := by
  rw [s.askActivates_eq]
  rfl

section
variable {s : State} {g : GranChan} {p : Fin 16} {a b : GReg} {x : Bool} (ha : s.alive = true) (hr : s.qRuns g p = true)
include ha hr

theorem kdot_completes :
    let w := s.qWord g p
    let q := s.quern g p
    let n := q.halfRows x
    let l := (q.reg a).toNat
    qOp w = 0x11 → qA w = a.val → bitOf w 11 = x → q.qn ≤ 8 → l + q.rc * n ≤ 1572864 → s.pairSound g p l (q.rc * n) →
    Completes (.kdot g p a x [] false) s (fun t =>
      t.mem = s.mem ∧ t.cores = s.cores ∧ (t.quern g p).reg a = q.reg a + BitVec.ofNat 32 (32 * q.rc) ∧
      (t.quern g p).pc = q.pc + 1 ∧ (t.quern g p).status = q.status ∧ (t.quern g p).cmdArea = q.cmdArea ∧
      (∀ r, r ≠ a → (t.quern g p).reg r = q.reg r) ∧
      (∀ i j, i < q.qn → n ≤ j → j < 32 → (t.quern g p).f32 (0x800 + 4 * (32 * i + j)) = 0xFF800000) ∧
      (∀ i j, i < q.qn → j < n → (t.quern g p).f32 (0x800 + 4 * (32 * i + j)) =
        (q.score (s.pairBytes g p l (q.rc * n)) n i j).1 % 2 ^ 32) ∧
      ∀ y, y < 0x800 ∨ 0xC00 ≤ y → tabGet zeroByte y (t.quern g p).local_ = tabGet zeroByte y q.local_) := by
  intro w q n l hop hra hx hqn hlim hs
  obtain ⟨hmem, hcores, hq⟩ := s.askActivates_setQuern g p l (q.rc * n) (q.kdot a n (s.pairBytes g p l (q.rc * n))).next
  obtain ⟨hreg, hpc, hst, hcmd, hother, hlocal⟩ := (q.scores_keeps (s.pairBytes g p l (q.rc * n)) n hqn).pastRows a 32
  have hscore (i j : Nat) (hi : i < q.qn) (hj : j < 32) :
      (q.kdot a n (s.pairBytes g p l (q.rc * n))).next.f32 (0x800 + 4 * (32 * i + j)) =
        (q.score (s.pairBytes g p l (q.rc * n)) n i j).1 % 2 ^ 32 := q.f32_scores _ n hi hj
  refine completes_of_eq (exec_kdot_sound ha hr hop hra hx hlim hs) ⟨hmem, hcores, ?_⟩
  rw [hq]
  refine ⟨hreg, hpc, hst, hcmd, hother, fun i j hi hn hj => ?_, fun i j hi hj => ?_, hlocal⟩
  · rw [hscore i j hi hj, Quern.score, if_pos hn]
    exact Nat.mod_eq_of_lt (by decide)
  · have hn32 : n ≤ 32 := Nat.min_le_left _ _
    exact hscore i j hi (by omega)

theorem vacc_completes :
    let w := s.qWord g p
    let q := s.quern g p
    let l := (q.reg a).toNat
    qOp w = 0x13 → qA w = a.val → bitOf w 11 = x → l + q.rc * q.halfRows x ≤ 1572864 →
    s.pairSound g p l (q.rc * q.halfRows x) →
    Completes (.vacc g p a x [] false) s (fun t =>
      (t.mem = s.mem ∧ t.cores = s.cores ∧ (t.quern g p).pc = q.pc + 1 ∧ (t.quern g p).status = q.status ∧
        (t.quern g p).cmdArea = q.cmdArea) ∧
      (t.quern g p).reg a = q.reg a + BitVec.ofNat 32 (32 * q.rc) ∧
      (∀ r, r ≠ a → (t.quern g p).reg r = q.reg r) ∧
      ∀ y, y < 0xC00 → tabGet zeroByte y (t.quern g p).local_ = tabGet zeroByte y q.local_) := by
  intro w q l hop hra hx hlim hs
  obtain ⟨hmem, hcores, hq⟩ := s.askActivates_setQuern g p l (q.rc * q.halfRows x)
    (q.vacc a (q.halfRows x) (s.pairBytes g p l (q.rc * q.halfRows x))).next
  obtain ⟨hreg, hpc, hst, hcmd, hother, hlocal⟩ :=
    (q.accumulated_keeps (s.pairBytes g p l (q.rc * q.halfRows x)) (q.halfRows x)).pastRows a 32
  refine completes_of_eq (exec_vacc_sound ha hr hop hra hx hlim hs) ⟨⟨hmem, hcores, ?_⟩, ?_⟩
  · rw [hq]
    exact ⟨hpc, hst, hcmd⟩
  · rw [hq]
    exact ⟨hreg, hother, hlocal⟩

theorem mvec_completes {i : Fin 8} :
    let w := s.qWord g p
    let q := s.quern g p
    let l := (q.reg a).toNat
    let n := (q.reg b).toNat
    qOp w = 0x14 → qA w = a.val → qB w = b.val → bitsOf w 10 8 = i.val → bitOf w 11 = x → n ≤ 1056 →
    l + q.rc * n ≤ 1572864 → s.pairSound g p l (q.rc * n) →
    Completes (.mvec g p a b i x [] false) s (fun t =>
      (t.mem = s.mem ∧ t.cores = s.cores ∧ (t.quern g p).pc = q.pc + 1 ∧ (t.quern g p).status = q.status ∧
        (t.quern g p).cmdArea = q.cmdArea) ∧
      (t.quern g p).reg a = q.reg a + BitVec.ofNat 32 (n * q.rc) ∧
      (∀ r, r ≠ a → (t.quern g p).reg r = q.reg r) ∧
      ∀ y, y < 0xC00 ∨ 0xC00 + 4 * n ≤ y → tabGet zeroByte y (t.quern g p).local_ = tabGet zeroByte y q.local_) := by
  intro w q l n hop hra hrb hi hx hn hlim hs
  obtain ⟨hmem, hcores, hq⟩ := s.askActivates_setQuern g p l (q.rc * n)
    ((q.products (s.pairBytes g p l (q.rc * n)) i.val x n).pastRows a n).next
  obtain ⟨hreg, hpc, hst, hcmd, hother, hlocal⟩ :=
    (q.products_keeps (s.pairBytes g p l (q.rc * n)) i.val x n).pastRows a n
  refine completes_of_eq (exec_mvec_sound ha hr hop hra hrb hi hx hn hlim hs) ⟨⟨hmem, hcores, ?_⟩, ?_⟩
  · rw [hq]
    exact ⟨hpc, hst, hcmd⟩
  · rw [hq]
    exact ⟨hreg, hother, hlocal⟩

theorem quernOsm_completes :
    let w := s.qWord g p
    let q := s.quern g p
    qOp w = 0x12 → q.qn ≤ 8 → Completes (.quernOsm g ⟨p, false⟩) s (fun t =>
      (t.mem = s.mem ∧ t.cores = s.cores ∧ (t.quern g p).pc = q.pc + 1 ∧ (t.quern g p).status = q.status ∧
        (t.quern g p).cmdArea = q.cmdArea) ∧
      OnlyQuern g p s t ∧ (t.quern g p).g = q.g ∧
      ∀ y, y < 0x800 ∨ (0x800 + 128 * q.qn ≤ y ∧ y < 0xC00) →
        tabGet zeroByte y (t.quern g p).local_ = tabGet zeroByte y q.local_) := by
  intro w q hop hqn
  obtain ⟨hrest, hlocal⟩ := Quern.rescaled_keeps hqn
  refine completes_of_eq (exec_quernOsm ha hr hop) ⟨⟨rfl, rfl, ?_⟩, onlyQuern_setQuern _ _ _ _, ?_⟩
  · rw [State.quern_setQuern_self]
    generalize (s.quern g p).rescaled = t at hrest
    rw [hrest]
    exact ⟨rfl, rfl, rfl⟩
  · rw [State.quern_setQuern_self]
    refine ⟨?_, hlocal⟩
    generalize (s.quern g p).rescaled = t at hrest
    rw [hrest]
    rfl

theorem kvapp_completes :
    let w := s.qWord g p
    let q := s.quern g p
    let la := (q.reg a).toNat
    let lb := (q.reg b).toNat
    qOp w = 0x15 → qA w = a.val → qB w = b.val → la + q.rc ≤ 1572864 → lb + q.rc ≤ 1572864 →
    la + q.rc ≤ lb ∨ lb + q.rc ≤ la →
    let row := fun (l y : Nat) => ∃ i, i < q.rc ∧ pairLineAddr g p.val (l + i) ≤ y ∧ y < pairLineAddr g p.val (l + i) + 64
    Completes (.kvapp g p a b false) s (fun t =>
      t.pairBytes g p la q.rc = readBytes q.local_ 0x1C80 (64 * q.rc) ∧
      t.pairBytes g p lb q.rc = readBytes q.local_ 0x1D80 (64 * q.rc) ∧
      t.pairSound g p la q.rc ∧ t.pairSound g p lb q.rc ∧
      (∀ y, ¬ row la y → ¬ row lb y → t.byte y = s.byte y) ∧
      t.quern g p = { q with pc := q.pc + 1, past := decide (q.pc = 255) }) := by
  intro w q la lb hop hra hrb hla hlb hap row
  obtain ⟨hpa, hpb, hsa, hsb, hbyte⟩ := State.bankWrite_twice
    ((s.askActivates g p la q.rc).askActivates g p lb q.rc) g p q.local_ 0x1C80 0x1D80 hap
  refine completes_of_eq (exec_kvapp_sound ha hr hop hra hrb hla hlb) ⟨?_, ?_, ?_, ?_, fun y hya hyb => ?_, ?_⟩
  · rw [State.pairBytes_setQuern]
    exact hpa
  · rw [State.pairBytes_setQuern]
    exact hpb
  · exact State.pairSound_setQuern hsa _
  · exact State.pairSound_setQuern hsb _
  · rw [State.byte_setQuern]
    exact (hbyte y hya hyb).trans ((State.byte_askActivates _ g p lb q.rc y).trans (s.byte_askActivates g p la q.rc y))
  · exact State.quern_setQuern_self _ _ _ _

end

/-- Settles O32: a stream changes local storage where its results stand, an append the two rows of the bank. -/
theorem quernStreams : Obligations.quernStreams := by
  refine ⟨fun s g p a x ha hr => kdot_completes ha hr, fun s g p a b i x ha hr => ?_,
    fun s g p a b ha hr => kvapp_completes ha hr⟩
  intro w q l n frame
  exact ⟨fun hop hra hx _ => vacc_completes ha hr hop hra hx, mvec_completes ha hr, quernOsm_completes ha hr⟩

end Sys2Proof.Machine
end

section
/-! PROOFS. What logs, counters, traces and what goes to the host leave of the module: everything but these. -/

namespace Sys2Proof.Machine

/-! ### Logs, counters and traces -/

/-- The state without registers, logs, launches and the count of free values. -/
def State.sansBooks (s : State) : State :=
  { s with regs := [], faultLog := [], moduleLog := [], channelLog := [], trace := [], freeIdx := 0, launches := [] }

/-- What reads none of these is the same of two states that differ in these alone. -/
theorem State.same_of_sansBooks {α : Type} {s t : State} (h : t.sansBooks = s.sansBooks) (f : State → α)
    (hf : ∀ s : State, f s.sansBooks = f s := by exact fun _ => rfl) : f t = f s :=
  (hf t).symm.trans ((congrArg f h).trans (hf s))

@[simp] theorem State.setFld_sansBooks (s : State) (o hi lo v : Nat) : (s.setFld o hi lo v).sansBooks = s.sansBooks := rfl
@[simp] theorem State.incFld_sansBooks (s : State) (o hi lo n : Nat) : (s.incFld o hi lo n).sansBooks = s.sansBooks := rfl
@[simp] theorem State.satFld_sansBooks (s : State) (o hi lo n : Nat) : (s.satFld o hi lo n).sansBooks = s.sansBooks := rfl
@[simp] theorem State.fresh_sansBooks (s : State) : s.fresh.2.sansBooks = s.sansBooks := rfl

@[simp] theorem State.logPart_sansBooks (s : State) (p : PartId) (e : Entry) : (s.logPart p e).sansBooks = s.sansBooks := by
  unfold State.logPart
  dsimp only
  split <;> rfl

@[simp] theorem State.logModule_sansBooks (s : State) (e : Entry) : (s.logModule e).sansBooks = s.sansBooks := by
  unfold State.logModule
  dsimp only
  split <;> rfl

@[simp] theorem State.logAny_sansBooks (s : State) (p : Option PartId) (e : Entry) : (s.logAny p e).sansBooks = s.sansBooks := by
  cases p with
  | none => exact s.logModule_sansBooks e
  | some q => exact s.logPart_sansBooks q e

@[simp] theorem State.logAccess_sansBooks (s : State) (off : Nat) (fn : FnId) (kind : Nat) (data : Word) :
    (s.logAccess off fn kind data).sansBooks = s.sansBooks := s.logModule_sansBooks _

@[simp] theorem State.logChan_sansBooks (s : State) (n : ChanId) (type detail loc src tag : Nat) :
    (s.logChan n type detail loc src tag).sansBooks = s.sansBooks := by
  unfold State.logChan
  dsimp only
  split <;> rfl

@[simp] theorem State.logOwn_sansBooks (s : State) (n : ChanId) (type detail loc tag : Nat) :
    (s.logOwn n type detail loc tag).sansBooks = s.sansBooks :=
  (s.fresh.2.logChan_sansBooks n type detail loc _ tag).trans s.fresh_sansBooks

@[simp] theorem State.traceRec_sansBooks (s : State) (p : Option PartId) (kind unit core ctx tag opc reason val : Nat) :
    (s.traceRec p kind unit core ctx tag opc reason val).sansBooks = s.sansBooks :=
  (congrArg State.sansBooks (s.traceRec_eq p kind unit core ctx tag opc reason val)).trans rfl

@[simp] theorem State.traceCmd_sansBooks (s : State) (c : CoreId) (u : EngineUnit) (x : Cmd) (kind reason val : Nat) :
    (s.traceCmd c u x kind reason val).sansBooks = s.sansBooks := s.traceRec_sansBooks _ _ _ _ _ _ _ _ _

@[simp] theorem State.count_sansBooks (s : State) (p : Option PartId) (k : Nat) : (s.count p k).sansBooks = s.sansBooks := by
  cases p <;> rfl

@[simp] theorem State.modLaunch_sansBooks (s : State) (c : CoreId) (f : Launch → Launch) :
    (s.modLaunch c f).sansBooks = s.sansBooks := by
  unfold State.modLaunch
  split <;> rfl

@[simp] theorem State.kpSkip_sansBooks (s : State) (c : CoreId) (reason status : Nat) :
    (s.kpSkip c reason status).sansBooks = s.sansBooks := by
  rw [State.kpSkip, State.modLaunch_sansBooks, State.logAny_sansBooks]

@[simp] theorem State.cmdSkip_sansBooks (s : State) (c : CoreId) (u : EngineUnit) (tag reason status d2 : Nat) :
    (s.cmdSkip c u tag reason status d2).sansBooks = s.sansBooks := by
  rw [State.cmdSkip, State.count_sansBooks, State.modLaunch_sansBooks, State.logAny_sansBooks]

/-! ### What goes to the host, and the events of partitions -/

/-- The state without these, the typed parts of partitions, and what is for the host. -/
def State.sansNotes (s : State) : State :=
  { s.sansBooks with parts := [], outbox := [], heldOut := [], hostReads := [], hostLines := [], nextId := 0 }

theorem State.same_of_sansNotes {α : Type} {s t : State} (h : t.sansNotes = s.sansNotes) (f : State → α)
    (hf : ∀ s : State, f s.sansNotes = f s := by exact fun _ => rfl) : f t = f s :=
  (hf t).symm.trans ((congrArg f h).trans (hf s))

theorem State.sansNotes_of_sansBooks {s t : State} (h : t.sansBooks = s.sansBooks) : t.sansNotes = s.sansNotes := by
  rw [State.sansNotes, State.sansNotes, h]

@[simp] theorem State.send_sansNotes (s : State) (o : Out) : (s.send o).sansNotes = s.sansNotes := rfl

@[simp] theorem State.inBand_sansNotes (s : State) (b : Byte) : (s.inBand b).sansNotes = s.sansNotes := by
  unfold State.inBand
  split <;> rfl

@[simp] theorem State.toHost_sansNotes (s : State) (o : Out) : (s.toHost o).sansNotes = s.sansNotes := by
  unfold State.toHost
  split
  · rfl
  · split
    · split <;> rfl
    · rfl

@[simp] theorem State.hostReadIn_sansNotes (s : State) (poll : Nat) (fn : FnId) (addr len : Nat) (p : HostPurpose) :
    (s.hostReadIn poll fn addr len p).2.sansNotes = s.sansNotes := by
  unfold State.hostReadIn
  dsimp only
  split
  · rw [State.toHost_sansNotes]
    rfl
  · rfl

@[simp] theorem State.hostRead_sansNotes (s : State) (fn : FnId) (addr len : Nat) (p : HostPurpose) :
    (s.hostRead fn addr len p).2.sansNotes = s.sansNotes := s.hostReadIn_sansNotes 0 fn addr len p

@[simp] theorem State.issueRead_sansNotes (s : State) (r : HostRead) : (s.issueRead r).sansNotes = s.sansNotes :=
  State.toHost_sansNotes _ _

theorem State.sansNotes_foldl {α : Type} {f : State → α → State} (h : ∀ s a, (f s a).sansNotes = s.sansNotes) (l : List α)
    (s : State) : (l.foldl f s).sansNotes = s.sansNotes := by
  induction l generalizing s with
  | nil => rfl
  | cons a l ih => exact (ih (f s a)).trans (h s a)

theorem State.sansBooks_foldl {α : Type} {f : State → α → State} (h : ∀ s a, (f s a).sansBooks = s.sansBooks) (l : List α)
    (s : State) : (l.foldl f s).sansBooks = s.sansBooks := by
  induction l generalizing s with
  | nil => rfl
  | cons a l ih => exact (ih (f s a)).trans (h s a)

@[simp] theorem State.issueReads_sansNotes (s : State) : s.issueReads.sansNotes = s.sansNotes :=
  State.sansNotes_foldl State.issueRead_sansNotes _ s

@[simp] theorem State.pumpFlush_sansNotes (s : State) (fn : FnId) : (s.pumpFlush fn).sansNotes = s.sansNotes := by
  unfold State.pumpFlush
  split
  · rfl
  · split
    · rfl
    · exact State.hostRead_sansNotes s fn _ _ _

@[simp] theorem State.eventLine_sansNotes (s : State) (p : PartId) (cause ctx ring : Nat) (closes : Bool) :
    (s.eventLine p cause ctx ring closes).sansNotes = s.sansNotes := State.pumpFlush_sansNotes _ _

@[simp] theorem State.raise_sansNotes (s : State) (p : PartId) (cause ctx ring : Nat) :
    (s.raise p cause ctx ring).sansNotes = s.sansNotes := s.eventLine_sansNotes p cause ctx ring false

@[simp] theorem State.modPart_sansNotes (s : State) (p : PartId) (f : Part → Part) : (s.modPart p f).sansNotes = s.sansNotes := rfl

@[simp] theorem State.modDesc_sansNotes (s : State) (r : RingId) (q : BitVec 32) (f : Desc → Desc) :
    (s.modDesc r q f).sansNotes = s.sansNotes := by
  unfold State.modDesc
  split <;> rfl

@[simp] theorem State.endDesc_sansNotes (s : State) (r : RingId) (q : BitVec 32) (n : Nat) :
    (s.endDesc r q n).sansNotes = s.sansNotes := s.modDesc_sansNotes r q _

@[simp] theorem State.flagDesc_sansNotes (s : State) (r : RingId) (q : BitVec 32) (b : BitVec 16) :
    (s.flagDesc r q b).sansNotes = s.sansNotes := s.modDesc_sansNotes r q _

end Sys2Proof.Machine
end

section
/-! PROOFS. Grind jobs (R164, R181, R185 to R191, R193, R194, R197). -/

namespace Sys2Proof.Machine

/-! ### What channel operations leave -/

/-- The state without channels and querns, and what `sansBooks` leaves out. -/
def State.sansChans (s : State) : State := { s.sansBooks with chans := [], querns := [] }

theorem State.same_of_sansChans {α : Type} {s t : State} (h : t.sansChans = s.sansChans) (f : State → α)
    (hf : ∀ s : State, f s.sansChans = f s := by exact fun _ => rfl) : f t = f s :=
  (hf t).symm.trans ((congrArg f h).trans (hf s))

theorem State.sansChans_of_sansBooks {s t : State} (h : t.sansBooks = s.sansBooks) : t.sansChans = s.sansChans := by
  rw [State.sansChans, State.sansChans, h]

theorem State.sansChans_foldl {α : Type} {f : State → α → State} (h : ∀ s a, (f s a).sansChans = s.sansChans) (l : List α)
    (s : State) : (l.foldl f s).sansChans = s.sansChans := by
  induction l generalizing s with
  | nil => rfl
  | cons a l ih => exact (ih (f s a)).trans (h s a)

@[simp] theorem State.modG_sansChans (s : State) (g : GranChan) (f : Chan → Chan) : (s.modG g f).sansChans = s.sansChans := rfl

@[simp] theorem State.setQuern_sansChans (s : State) (g : GranChan) (p : Fin 16) (q : Quern) :
    (s.setQuern g p q).sansChans = s.sansChans := rfl

@[simp] theorem State.takeChan_sansChans (s : State) (n : Nat) : (s.takeChan n).sansChans = s.sansChans := by
  unfold State.takeChan
  dsimp only
  split
  · split <;> rfl
  · rfl

@[simp] theorem State.readGstat_sansChans (s : State) (g : GranChan) : (s.readGstat g).sansChans = s.sansChans := by
  unfold State.readGstat
  split
  · rfl
  · rw [State.sansChans_of_sansBooks (State.setFld_sansBooks _ _ _ _ _),
      State.sansChans_of_sansBooks (State.logOwn_sansBooks _ _ _ _ _ _), State.modG_sansChans]

@[simp] theorem State.qstop_sansChans (s : State) (g : GranChan) : (s.qstop g).sansChans = s.sansChans :=
  (State.readGstat_sansChans _ g).trans (State.sansChans_foldl (fun t p => t.setQuern_sansChans g p _) _ s)

@[simp] theorem State.qgo_sansChans (s : State) (g : GranChan) (entry : BitVec 8) : (s.qgo g entry).sansChans = s.sansChans :=
  State.sansChans_foldl (fun t p => t.setQuern_sansChans g p _) _ (s.modG g _)

theorem State.fillers_sansBooks (s : State) (n : Nat) : (s.fillers n).2.sansBooks = s.sansBooks := by
  induction n generalizing s with
  | zero => rfl
  | succ n ih => exact ih s.fresh.2

@[simp] theorem State.setUpQuern_sansChans (j : GrindJob) (n : Nat) (s : State) (p : Fin 16) :
    (State.setUpQuern j n s p).sansChans = s.sansChans :=
  (State.setQuern_sansChans _ _ _ _).trans (State.sansChans_of_sansBooks (s.fillers_sansBooks _))

@[simp] theorem State.startChan_sansChans (j : GrindJob) (s : State) (n : Nat) : (State.startChan j s n).sansChans = s.sansChans := by
  rw [State.startChan, State.qgo_sansChans, State.sansChans_foldl (State.setUpQuern_sansChans j n)]
  exact State.sansChans_foldl (fun t p => t.setQuern_sansChans _ p _) _ _

/-! ### The check -/

theorem State.logList_sansBooks (s : State) (c : CoreId) (tag : Nat) (es : List (BitVec 32)) :
    (s.logList c tag es).sansBooks = s.sansBooks := State.sansBooks_foldl (fun t e => t.logAny_sansBooks _ _) _ s

theorem State.checkGrind_sansBooks (s : State) (c : CoreId) (p : Option PartId) (x : Cmd) :
    (s.checkGrind c p x).2.sansBooks = s.sansBooks := by
  unfold State.checkGrind
  dsimp only
  split
  · rfl
  · exact s.logList_sansBooks c _ _

/-- A job goes behind every job that entered earlier, and behind those of the same cycle with lower cores. -/
theorem placeJob_last {j : GrindJob} {l : List GrindJob} (h : ∀ y ∈ l, y.enteredAt = j.enteredAt → y.core.val ≤ j.core.val) :
    placeJob j l = l ++ [j] := by
  induction l with
  | nil => rfl
  | cons x l ih =>
    rw [placeJob, if_neg, ih fun y hy => h y (List.mem_cons_of_mem x hy)]
    · rfl
    · rintro ⟨he, hlt⟩
      exact absurd hlt (Nat.not_lt.mpr (h x List.mem_cons_self he))

theorem State.queueOfGranary_setGranaryQueue (s : State) (g h : Fin 4) (l : List GrindJob) :
    (s.setGranaryQueue g l).queueOfGranary h = if h = g then l else s.queueOfGranary h := by
  rw [State.queueOfGranary, State.setGranaryQueue, tabGet_tabSet]
  simp only [Fin.ext_iff, State.queueOfGranary]

theorem exec_grindCheck {s : State} {c : CoreId} {x : Cmd} {q : List Cmd} (ha : s.alive = true)
    (hq : (s.core c).queueOf .grind = x :: q) (hr : ((s.core c).engOf .grind).phase = .ready)
    (hs : ((s.core c).engOf .grind).stopped = false) (hstop : (s.core c).stop = none) :
    exec (.grindCheck c) s = .next (match (s.checkGrind c (s.partOf c) x).1 with
      | some why => (s.checkGrind c (s.partOf c) x).2.skipHead c .grind x why 0
      | none => (s.checkGrind c (s.partOf c) x).2.enterGranary (mkJob c (s.core c) x none)) := by
  show execGrindCheck c s = _
  rw [execGrindCheck, hq]
  refine whenever_of_alive ha ?_ _
  rw [hr, hs, hstop]
  rfl

theorem Core.queueOf_modEng (k : Core) (u v : EngineUnit) (f : Eng → Eng) : (k.modEng u f).queueOf v = k.queueOf v := rfl

theorem Core.engOf_setQueue (k : Core) (u v : EngineUnit) (q : List Cmd) : (k.setQueue u q).engOf v = k.engOf v := rfl

/-- A job enters the admission queue of its granary. -/
theorem State.enterGranary_effect {s : State} {j : GrindJob}
    (hlast : ∀ y ∈ s.queueOfGranary j.granary, y.enteredAt = s.fabric_ → y.core.val ≤ j.core.val) :
    let t := s.enterGranary j
    t.core j.core = (s.core j.core).modEng .grind (fun e => { e.cleared with phase := .running, cmd := some j.cmd }) ∧
      t.queueOfGranary j.granary = s.queueOfGranary j.granary ++ [{ j with enteredAt := s.fabric_ }] ∧
      (∀ h, h ≠ j.granary → t.queueOfGranary h = s.queueOfGranary h) ∧ t.mem = s.mem := by
  intro t
  have hplace := placeJob_last (j := { j with enteredAt := s.fabric_ }) hlast
  have hqueue (h : Fin 4) : t.queueOfGranary h =
      if h = j.granary then s.queueOfGranary j.granary ++ [{ j with enteredAt := s.fabric_ }] else s.queueOfGranary h := by
    have hset := s.queueOfGranary_setGranaryQueue j.granary h
      (placeJob { j with enteredAt := s.fabric_ } (s.queueOfGranary j.granary))
    rw [hplace] at hset
    refine Eq.trans ?_ hset
    rw [← hplace]
    rfl
  refine ⟨?_, (hqueue _).trans (if_pos rfl), fun h hh => (hqueue h).trans (if_neg hh), rfl⟩
  exact (State.core_modCore _ _ _ _).trans (if_pos rfl)

theorem grindCheck_enters {s : State} {c : CoreId} {x : Cmd} {q : List Cmd} (ha : s.alive = true)
    (hq : (s.core c).queueOf .grind = x :: q) (hr : ((s.core c).engOf .grind).phase = .ready)
    (hs : ((s.core c).engOf .grind).stopped = false) (hstop : (s.core c).stop = none)
    (hpass : (s.checkGrind c (s.partOf c) x).1 = none)
    (hlast : ∀ y ∈ s.queueOfGranary (grindOps x).quad, y.enteredAt = s.fabric_ → y.core.val ≤ c.val) :
    Completes (.grindCheck c) s (fun t =>
      (t.core c).queueOf .grind = x :: q ∧ ((t.core c).engOf .grind).phase = .running ∧
      ((t.core c).engOf .grind).cmd = some x ∧
      t.queueOfGranary (grindOps x).quad =
        s.queueOfGranary (grindOps x).quad ++ [{ mkJob c (s.core c) x none with enteredAt := s.fabric_ }] ∧
      (∀ h, h ≠ (grindOps x).quad → t.queueOfGranary h = s.queueOfGranary h) ∧ (t.core c).bench = (s.core c).bench ∧
      t.mem = s.mem) := by
  have he := exec_grindCheck ha hq hr hs hstop
  rw [hpass] at he
  have hbooks := s.checkGrind_sansBooks c (s.partOf c) x
  generalize (s.checkGrind c (s.partOf c) x).2 = u at he hbooks
  have hadm : u.admission = s.admission := (State.same_of_sansBooks hbooks State.admission)
  have hqueue (h : Fin 4) : u.queueOfGranary h = s.queueOfGranary h := by
    rw [State.queueOfGranary, State.queueOfGranary, hadm]
  have hfab : u.fabric_ = s.fabric_ := State.same_of_sansBooks hbooks State.fabric_
  have hcore : u.core c = s.core c := State.core_congr (State.same_of_sansBooks hbooks State.cores) c
  have hlast' : ∀ y ∈ u.queueOfGranary (mkJob c (s.core c) x none).granary, y.enteredAt = u.fabric_ → y.core.val ≤ c.val := by
    rw [hqueue, hfab]
    exact hlast
  obtain ⟨hk, hmine, hothers, hmem⟩ := State.enterGranary_effect hlast'
  refine completes_of_eq he ?_
  have hk' : (u.enterGranary (mkJob c (s.core c) x none)).core c = _ := hk
  rw [hk', hmem, Core.engOf_modEng, if_pos rfl]
  refine ⟨?_, rfl, rfl, ?_, fun h hh => (hothers h hh).trans (hqueue h), ?_, (State.same_of_sansBooks hbooks State.mem)⟩
  · refine Eq.trans ?_ hq
    rw [← hcore]
    rfl
  · rw [← hqueue, ← hfab]
    exact hmine
  · rw [← hcore]
    rfl

/-- A skip leaves everything but the core, the logs and the counters. -/
theorem State.skipHead_sansBooks {s : State} {c : CoreId} {u : EngineUnit} {x : Cmd} (hpost : x.h.postEn = false) (r n : Nat) :
    (s.skipHead c u x r n).sansBooks = { s.sansBooks with cores := (s.skipHead c u x r n).cores } := by
  have hpre : s.skipHead c u x r n =
      (((s.cmdSkip c u x.h.tag.toNat r n 0).popQueue c u).modEng c u Eng.cleared).traceCmd c u x 3 r 0 := by
    rw [State.skipHead, State.post, hpost]
    rfl
  have htrace := State.traceCmd_sansBooks (((s.cmdSkip c u x.h.tag.toNat r n 0).popQueue c u).modEng c u Eng.cleared) c u x 3 r 0
  rw [← hpre] at htrace
  have hskip := s.cmdSkip_sansBooks c u x.h.tag.toNat r n 0
  have hcores : (s.skipHead c u x r n).cores =
      (((s.cmdSkip c u x.h.tag.toNat r n 0).popQueue c u).modEng c u Eng.cleared).cores := State.same_of_sansBooks htrace State.cores
  rw [htrace, hcores, ← hskip]
  rfl

theorem grindCheck_skips {s : State} {c : CoreId} {x : Cmd} {q : List Cmd} {why : Nat} (ha : s.alive = true)
    (hpost : x.h.postEn = false)
    (hq : (s.core c).queueOf .grind = x :: q) (hr : ((s.core c).engOf .grind).phase = .ready)
    (hs : ((s.core c).engOf .grind).stopped = false) (hstop : (s.core c).stop = none)
    (hfail : (s.checkGrind c (s.partOf c) x).1 = some why) :
    Completes (.grindCheck c) s (fun t =>
      (t.core c).queueOf .grind = q ∧ (t.core c).engOf .grind = ((s.core c).engOf .grind).cleared ∧
      t.admission = s.admission ∧ t.jobs = s.jobs ∧ (t.core c).bench = (s.core c).bench ∧ t.mem = s.mem) := by
  have he := exec_grindCheck ha hq hr hs hstop
  rw [hfail] at he
  have hbooks := s.checkGrind_sansBooks c (s.partOf c) x
  generalize (s.checkGrind c (s.partOf c) x).2 = u at he hbooks
  have hcore : u.core c = s.core c := State.core_congr (State.same_of_sansBooks hbooks State.cores) c
  have hskip := u.skipHead_sansBooks (c := c) (u := .grind) hpost why 0
  have hk := State.core_skipHead (s := u) (c := c) (u := .grind) why hpost c
  rw [if_pos rfl, hcore] at hk
  refine completes_of_eq he ⟨?_, ?_, ?_, ?_, ?_, ?_⟩
  · rw [hk, Core.queueOf_modEng, hq, Core.queueOf_setQueue, if_pos rfl]
    rfl
  · rw [hk, Core.engOf_modEng, if_pos rfl, Core.engOf_setQueue]
  · exact (congrArg State.admission hskip).trans (State.same_of_sansBooks hbooks State.admission)
  · exact (congrArg State.jobs hskip).trans (State.same_of_sansBooks hbooks State.jobs)
  · rw [hk]
    rfl
  · exact (congrArg State.mem hskip).trans (State.same_of_sansBooks hbooks State.mem)

/-! ### Admission -/

/-- The channel after a job has taken it. -/
def Chan.taken (c : Chan) : Chan := if c.mode = .memory then { c with openBanks := [], mode := .toProcessor } else c

theorem State.gchan_takeChan (s : State) (n : Nat) (g : GranChan) :
    (s.takeChan n).gchan g = if g = asChan n then (s.gchan g).taken else s.gchan g := by
  have hother (f h : Chan → Chan) (hg : g ≠ asChan n) : (((s.modG (asChan n) f).modG (asChan n) h)).gchan g = s.gchan g := by
    have hne : granChan g ≠ granChan (asChan n) := fun he => hg (granChan_inj.mp he)
    exact ((onlyChan_modG _ _ _).2 _ hne).trans ((onlyChan_modG _ _ _).2 _ hne)
  have hset (t : State) (o hi lo v : Nat) : (t.setFld o hi lo v).gchan g = t.gchan g := rfl
  unfold State.takeChan Chan.taken
  dsimp only
  by_cases hg : g = asChan n
  · subst hg
    rw [if_pos rfl]
    split
    · split <;> simp [State.toProcessor, hset]
    · rfl
  · rw [if_neg hg]
    split
    · split
      · exact (hset _ _ _ _ _).trans (hother _ _ hg)
      · exact hother _ _ hg
    · rfl

theorem Chan.taken_taken (c : Chan) : c.taken.taken = c.taken := by
  unfold Chan.taken
  by_cases h : c.mode = .memory
  · rw [if_pos h]
    rfl
  · rw [if_neg h, if_neg h]

/-- Every channel of a list is taken once. -/
theorem State.gchan_takeChans (s : State) (l : List Nat) (g : GranChan) :
    (l.foldl State.takeChan s).gchan g = if ∃ n ∈ l, g = asChan n then (s.gchan g).taken else s.gchan g := by
  induction l generalizing s with
  | nil => simp
  | cons n l ih =>
    rw [List.foldl_cons, ih, State.gchan_takeChan]
    by_cases hg : g = asChan n
    · simp [hg, Chan.taken_taken]
    · simp [hg]

theorem exec_grindAdmit {s : State} (ha : s.alive = true) (g : Fin 4) : exec (.grindAdmit g) s = .next (s.admitHead g) :=
  whenever_of_alive ha rfl _

section
variable {s : State} {g : Fin 4} {j : GrindJob} {rest : List GrindJob} (hq : s.queueOfGranary g = j :: rest)
include hq

theorem State.admitHead_waits (h : s.mayAdmit j = false) : s.admitHead g = s := by
  rw [State.admitHead, hq]
  exact if_pos (by rw [h]; rfl)

theorem State.admitHead_drains (h : s.mayAdmit j = true) (hl : s.unserved (j.drain.getD (s.toDrain j)) ≠ []) :
    s.admitHead g = s.setGranaryQueue g ({ j with drain := some (s.unserved (j.drain.getD (s.toDrain j))) } :: rest) := by
  rw [State.admitHead, hq]
  dsimp only
  rw [if_neg (by rw [h]; decide)]
  split
  next hnil => exact absurd hnil hl
  next => rfl

theorem State.admitHead_admits (h : s.mayAdmit j = true) (hl : s.unserved (j.drain.getD (s.toDrain j)) = []) :
    s.admitHead g = s.admitJob j rest := by
  rw [State.admitHead, hq]
  dsimp only
  rw [if_neg (by rw [h]; decide), hl]

end

/-- The state before an admitted job takes its channels. -/
def State.admitting (s : State) (j : GrindJob) (rest : List GrindJob) : State :=
  (if j.desc.isNone then s.popQueue j.core .grind else s).setGranaryQueue j.granary rest

theorem State.admitting_core (s : State) (j : GrindJob) (rest : List GrindJob) :
    ((s.admitting j rest).core j.core).queueOf .grind =
      if j.desc = none then ((s.core j.core).queueOf .grind).drop 1 else (s.core j.core).queueOf .grind := by
  have hset (t : State) : ((t.setGranaryQueue j.granary rest).core j.core) = t.core j.core := rfl
  rw [State.admitting, hset]
  cases hd : j.desc with
  | none => simp [State.popQueue]
  | some x => simp

theorem State.admitting_chans (s : State) (j : GrindJob) (rest : List GrindJob) : (s.admitting j rest).chans = s.chans := by
  unfold State.admitting
  split <;> rfl

theorem State.admitting_jobs (s : State) (j : GrindJob) (rest : List GrindJob) : (s.admitting j rest).jobs = s.jobs := by
  unfold State.admitting
  split <;> rfl

theorem State.admitting_mem (s : State) (j : GrindJob) (rest : List GrindJob) : (s.admitting j rest).mem = s.mem := by
  unfold State.admitting
  split <;> rfl

/-- An admitted job. -/
theorem State.admitJob_effect (s : State) (j : GrindJob) (rest : List GrindJob) :
    let t := s.admitJob j rest
    t.queueOfGranary j.granary = rest ∧ t.cores = (s.admitting j rest).cores ∧
      t.jobs = s.jobs ++ [{ j with phase := .admitted, admittedAt := s.cycles }] ∧
      (∀ g, t.gchan g = if ∃ n ∈ j.chans, g = asChan n then (s.gchan g).taken else s.gchan g) ∧ t.mem = s.mem := by
  intro t
  have hbooks : t.sansBooks = State.sansBooks
      { j.chans.foldl State.takeChan (s.admitting j rest) with
        jobs := (j.chans.foldl State.takeChan (s.admitting j rest)).jobs ++ [{ j with phase := .admitted, admittedAt := s.cycles }] } :=
    State.traceCmd_sansBooks _ _ _ _ _ _ _
  have hgchan := State.gchan_takeChans (s.admitting j rest) j.chans
  have htake : (j.chans.foldl State.takeChan (s.admitting j rest)).sansChans = (s.admitting j rest).sansChans :=
    State.sansChans_foldl State.takeChan_sansChans _ _
  generalize j.chans.foldl State.takeChan (s.admitting j rest) = u at hbooks htake hgchan
  refine ⟨?_, ?_, ?_, fun g => ?_, ?_⟩
  · refine (State.same_of_sansBooks hbooks (fun t => t.queueOfGranary j.granary)).trans ?_
    refine (State.same_of_sansChans htake (fun t => t.queueOfGranary j.granary)).trans ?_
    exact (State.queueOfGranary_setGranaryQueue _ _ _ _).trans (if_pos rfl)
  · exact (State.same_of_sansBooks hbooks State.cores).trans (State.same_of_sansChans htake State.cores)
  · refine (State.same_of_sansBooks hbooks State.jobs).trans ?_
    have hjobs : u.jobs = s.jobs := (State.same_of_sansChans htake State.jobs).trans (s.admitting_jobs j rest)
    exact congrArg (· ++ [{ j with phase := .admitted, admittedAt := s.cycles }]) hjobs
  · refine (State.same_of_sansBooks hbooks (fun t => t.gchan g)).trans ((hgchan g).trans ?_)
    rw [State.gchan_congr (s.admitting_chans j rest)]
  · exact (State.same_of_sansBooks hbooks State.mem).trans
      ((State.same_of_sansChans htake State.mem).trans (s.admitting_mem j rest))

theorem grindAdmit_admits {s : State} {g : Fin 4} {j : GrindJob} {rest : List GrindJob} (ha : s.alive = true)
    (hq : s.queueOfGranary g = j :: rest) (hg : j.granary = g) (h : s.mayAdmit j = true)
    (hl : s.unserved (j.drain.getD (s.toDrain j)) = []) :
    Completes (.grindAdmit g) s (fun t =>
      t.queueOfGranary g = rest ∧
      (t.core j.core).queueOf .grind =
        (if j.desc = none then ((s.core j.core).queueOf .grind).drop 1 else (s.core j.core).queueOf .grind) ∧
      t.jobs = s.jobs ++ [{ j with phase := .admitted, admittedAt := s.cycles }] ∧
      (∀ n ∈ j.chans, (s.gchan (asChan n)).mode = .memory →
        (t.gchan (asChan n)).mode = .toProcessor ∧ (t.gchan (asChan n)).openBanks = []) ∧ t.mem = s.mem) := by
  subst hg
  obtain ⟨hqueue, hcores, hjobs, hchan, hmem⟩ := s.admitJob_effect j rest
  have he := exec_grindAdmit ha j.granary
  rw [State.admitHead_admits hq h hl] at he
  refine completes_of_eq he ⟨hqueue, ?_, hjobs, fun n hn hm => ?_, hmem⟩
  · rw [State.core_congr hcores]
    exact s.admitting_core j rest
  · rw [hchan, if_pos ⟨n, hn, rfl⟩, Chan.taken, if_pos hm]
    exact ⟨rfl, rfl⟩

/-! ### The start -/

theorem asChan_inj {m n : Nat} (hm : m < 128) (hn : n < 128) (h : asChan m = asChan n) : m = n := by
  have hv := congrArg Fin.val h
  simp only [asChan] at hv
  omega

theorem State.foldl_chans {α : Type} {f : State → α → State} (h : ∀ s a, (f s a).chans = s.chans) (l : List α) (s : State) :
    (l.foldl f s).chans = s.chans := by
  induction l generalizing s with
  | nil => rfl
  | cons a l ih => exact (ih (f s a)).trans (h s a)

/-- The channel after a job has started it. -/
def Chan.begun (c : Chan) (m : BitVec 16) : Chan := { c with gqmask := m, starts := c.starts + 1 }

theorem State.chans_setQuern (s : State) (g : GranChan) (p : Fin 16) (q : Quern) : (s.setQuern g p q).chans = s.chans := rfl

theorem State.chans_setUpQuern (j : GrindJob) (n : Nat) (s : State) (p : Fin 16) :
    (State.setUpQuern j n s p).chans = s.chans :=
  State.same_of_sansBooks (s.fillers_sansBooks ((16 - (j.entriesOf n p).length % 16) % 16)) State.chans

theorem State.chans_qgo (s : State) (g : GranChan) (entry : BitVec 8) :
    (s.qgo g entry).chans = (s.modG g (fun c => { c with starts := c.starts + 1 })).chans :=
  State.foldl_chans (fun t p => t.chans_setQuern g p _) _ _

theorem State.gchan_modG_other {g h : GranChan} (hn : h ≠ g) (s : State) (f : Chan → Chan) : (s.modG g f).gchan h = s.gchan h :=
  (onlyChan_modG s g f).2 _ fun he => hn (granChan_inj.mp he)

theorem State.gchan_startChan (j : GrindJob) (s : State) (n : Nat) (h : GranChan) :
    (State.startChan j s n).gchan h = if h = asChan n then (s.gchan h).begun (j.mask n) else s.gchan h := by
  have hpre : ((j.querns n).foldl (State.setUpQuern j n)
      ((s.modG (asChan n) (fun c => { c with gqmask := j.mask n })).broadcastSetUp j n)).chans =
      (s.modG (asChan n) (fun c => { c with gqmask := j.mask n })).chans :=
    (State.foldl_chans (State.chans_setUpQuern j n) _ _).trans (State.foldl_chans (fun t p => t.chans_setQuern _ p _) _ _)
  rw [State.startChan, State.gchan_congr (State.chans_qgo _ _ _)]
  by_cases hh : h = asChan n
  · subst hh
    rw [if_pos rfl, State.gchan_modG, State.gchan_congr hpre, State.gchan_modG]
    rfl
  · rw [if_neg hh, State.gchan_modG_other hh, State.gchan_congr hpre, State.gchan_modG_other hh]

/-- Every channel of a job is started once. -/
theorem State.gchan_startChans (j : GrindJob) {l : List Nat} (hn : l.Nodup) (hl : ∀ n ∈ l, n < 128) (s : State) :
    ∀ n ∈ l, (l.foldl (State.startChan j) s).gchan (asChan n) = (s.gchan (asChan n)).begun (j.mask n) := by
  have hkeep (m : List Nat) (t : State) (n : Nat) (hm : ∀ k ∈ m, asChan n ≠ asChan k) :
      (m.foldl (State.startChan j) t).gchan (asChan n) = t.gchan (asChan n) := by
    induction m generalizing t with
    | nil => rfl
    | cons k m ih =>
      rw [List.foldl_cons, ih _ (fun i hi => hm i (List.mem_cons_of_mem k hi)), State.gchan_startChan,
        if_neg (hm k List.mem_cons_self)]
  induction l generalizing s with
  | nil => intro n hnil; exact absurd hnil List.not_mem_nil
  | cons k l ih =>
    obtain ⟨hk, hnd⟩ := List.nodup_cons.mp hn
    have hk128 := hl k List.mem_cons_self
    have hl' : ∀ n ∈ l, n < 128 := fun n hm => hl n (List.mem_cons_of_mem k hm)
    have hap (n : Nat) (hm : n ∈ l) : asChan k ≠ asChan n := fun he => hk (asChan_inj hk128 (hl' n hm) he ▸ hm)
    intro n hmem
    rw [List.foldl_cons]
    rcases List.mem_cons.mp hmem with rfl | hm
    · rw [hkeep l _ n hap, State.gchan_startChan, if_pos rfl]
    · rw [ih hnd hl' _ n hm, State.gchan_startChan, if_neg fun he => hap n hm he.symm]

theorem grindStart_completes {s : State} {c : CoreId} {j : GrindJob} (ha : s.alive = true) (hj : s.jobOf c = some j)
    (hph : j.phase = .admitted) (hm : ∀ n ∈ j.chans, (s.gchan (asChan n)).mode = .processor) (hn : j.chans.Nodup)
    (hl : ∀ n ∈ j.chans, n < 128) :
    Completes (.grindStart c) s (fun t =>
      t.jobs = s.jobs.map (fun i => if i.core = c then { i with phase := .running } else i) ∧
      (∀ n ∈ j.chans, (t.gchan (asChan n)).gqmask = j.mask n ∧
        (t.gchan (asChan n)).starts = (s.gchan (asChan n)).starts + 1) ∧
      t.mem = s.mem ∧ t.cores = s.cores) := by
  have hgo : (decide (j.phase = .admitted) && j.chans.all (fun n => decide ((s.gchan (asChan n)).mode = .processor))) = true := by
    rw [decide_eq_true hph, Bool.true_and, List.all_eq_true]
    exact fun n hn => decide_eq_true (hm n hn)
  have he : exec (.grindStart c) s = .next ((j.chans.foldl (State.startChan j) s).setJobPhase c .running) := by
    show execGrindStart c s = _
    rw [execGrindStart, hj]
    exact whenever_of_alive ha hgo _
  have hchan := State.gchan_startChans j hn hl s
  have hrest : (j.chans.foldl (State.startChan j) s).sansChans = s.sansChans :=
    State.sansChans_foldl (State.startChan_sansChans j) _ _
  refine completes_of_eq he ⟨?_, fun n hn => ?_, State.same_of_sansChans hrest State.mem, State.same_of_sansChans hrest State.cores⟩
  · exact congrArg (List.map _) (State.same_of_sansChans hrest State.jobs)
  · have h := hchan n hn
    exact ⟨congrArg Chan.gqmask h, congrArg Chan.starts h⟩

/-! ### The deadline -/

/-- The quern after a stop. -/
def Quern.halted (q : Quern) : Quern := if q.running then { q with status := 6 } else q

theorem Quern.halted_halted (q : Quern) : q.halted.halted = q.halted := by
  unfold Quern.halted
  by_cases h : q.running = true
  · rw [if_pos h]
    rfl
  · rw [if_neg h, if_neg h]

theorem Quern.halted_running (q : Quern) : q.halted.running = false := by
  unfold Quern.halted
  by_cases h : q.running = true
  · rw [if_pos h]
    rfl
  · rw [if_neg h]
    exact Bool.eq_false_iff.mpr h

theorem State.foldl_setQuern_other (g h : GranChan) (f : Fin 16 → Quern → Quern) (ps : List (Fin 16)) (s : State) (hn : h ≠ g)
    (r : Fin 16) : (ps.foldl (fun t p => t.setQuern g p (f p (t.quern g p))) s).quern h r = s.quern h r := by
  induction ps generalizing s with
  | nil => rfl
  | cons p ps ih => exact (ih _).trans (State.quern_setQuern_other (.inl hn) s _)

theorem State.quern_qstop (s : State) (g h : GranChan) (r : Fin 16) :
    (s.qstop g).quern h r = if h = g then (s.quern h r).halted else s.quern h r := by
  by_cases hh : h = g
  · subst hh
    rw [if_pos rfl]
    exact (s.qstop_effect h).1 r
  · rw [if_neg hh, State.qstop, State.quern_congr (State.readGstat_querns _ _)]
    exact State.foldl_setQuern_other g h (fun _ q => { q with status := 6 }) _ s hh r

/-- QSTOP of a channel that has a quern in RUN. -/
def State.stopChan (s : State) (n : Nat) : State := if (s.running (asChan n)).isEmpty then s else s.qstop (asChan n)

theorem State.quern_stopChan (s : State) (n : Nat) (h : GranChan) (r : Fin 16) :
    (s.stopChan n).quern h r = if h = asChan n then (s.quern h r).halted else s.quern h r := by
  unfold State.stopChan
  split
  next hnone =>
    have hrun (p : Fin 16) : (s.quern (asChan n) p).running = false := by
      rw [Bool.eq_false_iff]
      intro hp
      exact absurd (State.mem_running.mpr hp) (by rw [List.isEmpty_iff.mp hnone]; exact List.not_mem_nil)
    by_cases hh : h = asChan n
    · subst hh
      rw [if_pos rfl, Quern.halted, hrun, if_neg Bool.false_ne_true]
    · rw [if_neg hh]
  next => exact s.quern_qstop _ h r

theorem State.stopChan_sansChans (s : State) (n : Nat) : (s.stopChan n).sansChans = s.sansChans := by
  unfold State.stopChan
  split
  · rfl
  · exact s.qstop_sansChans _

theorem State.quern_stopChans (s : State) (l : List Nat) (h : GranChan) (r : Fin 16) :
    (l.foldl State.stopChan s).quern h r = if ∃ n ∈ l, h = asChan n then (s.quern h r).halted else s.quern h r := by
  induction l generalizing s with
  | nil => simp
  | cons n l ih =>
    rw [List.foldl_cons, ih, State.quern_stopChan]
    by_cases hh : h = asChan n
    · simp [hh, Quern.halted_halted]
    · simp [hh]

theorem grindDeadline_completes {s : State} {c : CoreId} {j : GrindJob} (ha : s.alive = true) (hj : s.jobOf c = some j)
    (hph : j.phase = .running) :
    Completes (.grindDeadline c) s (fun t =>
      (∀ n ∈ j.chans, t.running (asChan n) = []) ∧
      (∀ n ∈ j.chans, ∀ p, (s.quern (asChan n) p).running = true →
        t.quern (asChan n) p = { s.quern (asChan n) p with status := 6 }) ∧
      t.mem = s.mem ∧ t.cores = s.cores ∧ t.jobs = s.jobs) := by
  have he : exec (.grindDeadline c) s = .next (j.chans.foldl State.stopChan s) := by
    show execGrindDeadline c s = _
    rw [execGrindDeadline, hj]
    exact whenever_of_alive ha (decide_eq_true hph) _
  have hq := s.quern_stopChans j.chans
  have hrest : (j.chans.foldl State.stopChan s).sansChans = s.sansChans :=
    State.sansChans_foldl State.stopChan_sansChans _ _
  refine completes_of_eq he ⟨fun n hn => ?_, fun n hn p hrun => ?_, State.same_of_sansChans hrest State.mem,
    State.same_of_sansChans hrest State.cores, State.same_of_sansChans hrest State.jobs⟩
  · rw [State.running, List.filter_eq_nil_iff]
    intro p _
    rw [hq, if_pos ⟨n, hn, rfl⟩, Quern.halted_running]
    exact Bool.false_ne_true
  · rw [hq, if_pos ⟨n, hn, rfl⟩, Quern.halted, if_pos hrun]

/-! ### The end of a job -/

theorem State.admitHead_empty {s : State} {g : Fin 4} (h : s.queueOfGranary g = []) : s.admitHead g = s := by
  rw [State.admitHead, h]

/-- A job that is over, with no job behind it in its granary. -/
theorem State.dropJob_sansChans {s : State} {j : GrindJob} (h : s.queueOfGranary j.granary = []) :
    (s.dropJob j).sansChans = ({ s with jobs := s.jobs.filter (fun x => decide (x.core ≠ j.core)) } : State).sansChans := by
  have hq : ({ s with jobs := s.jobs.filter (fun x => decide (x.core ≠ j.core)) } : State).queueOfGranary j.granary = [] := h
  rw [State.dropJob, State.admitHead_empty hq]
  refine State.sansChans_foldl (fun t n => ?_) j.chans _
  split
  · rfl
  · rfl

theorem State.post_disabled {x : Cmd} (h : x.h.postEn = false) (s : State) (c : CoreId) (u : EngineUnit) : s.post c u x = s := by
  rw [State.post, h]
  rfl

/-- What the end of a job leaves, but for logs, counters and traces. -/
theorem State.endJob_sansBooks {s : State} {j : GrindJob} (hd : j.desc = none) (hpost : j.cmd.h.postEn = false)
    (flags : BitVec 6) (lines : Nat) (fail : Option (Nat × Nat × Nat)) :
    (s.endJob j flags lines fail).sansBooks =
      ((s.modCore j.core (fun k => (k.joinFlags .grind flags).modEng .grind Eng.cleared)).dropJob j).sansBooks := by
  unfold State.endJob
  rw [hd]
  cases fail with
  | none =>
    dsimp only
    rw [State.traceCmd_sansBooks, State.post_disabled hpost]
  | some f =>
    dsimp only
    rw [State.traceCmd_sansBooks, State.post_disabled hpost, State.cmdSkip_sansBooks]

theorem State.endJob_effect {s : State} {j : GrindJob} (hd : j.desc = none) (hpost : j.cmd.h.postEn = false)
    (hq : s.queueOfGranary j.granary = []) (flags : BitVec 6) (lines : Nat) (fail : Option (Nat × Nat × Nat)) :
    let t := s.endJob j flags lines fail
    (t.core j.core).engOf .grind = ((s.core j.core).engOf .grind).cleared ∧ t.jobOf j.core = none ∧ t.mem = s.mem ∧
      (t.core j.core).bench = (s.core j.core).bench := by
  intro t
  have hbooks := State.endJob_sansBooks (s := s) hd hpost flags lines fail
  have hdrop := State.dropJob_sansChans (s := s.modCore j.core (fun k => (k.joinFlags .grind flags).modEng .grind Eng.cleared)) hq
  have hcore : t.core j.core = ((s.core j.core).joinFlags .grind flags).modEng .grind Eng.cleared := by
    refine (State.same_of_sansBooks hbooks (fun t => t.core j.core)).trans ?_
    refine (State.same_of_sansChans hdrop (fun t => t.core j.core)).trans ?_
    exact (State.core_modCore s j.core j.core (fun k => (k.joinFlags .grind flags).modEng .grind Eng.cleared)).trans (if_pos rfl)
  have hjobs : t.jobs = s.jobs.filter (fun x => decide (x.core ≠ j.core)) :=
    (State.same_of_sansBooks hbooks State.jobs).trans (State.same_of_sansChans hdrop State.jobs)
  refine ⟨?_, ?_, (State.same_of_sansBooks hbooks State.mem).trans (State.same_of_sansChans hdrop State.mem), ?_⟩
  · rw [hcore, Core.engOf_modEng, if_pos rfl, Core.engOf_joinFlags]
  · rw [State.jobOf, hjobs, List.find?_eq_none]
    intro x hx
    obtain ⟨_, hne⟩ := List.mem_filter.mp hx
    exact fun he => of_decide_eq_true hne (of_decide_eq_true he)
  · rw [hcore]
    rfl

theorem State.logQuerns_sansBooks (s : State) (j : GrindJob) (bad : List (Nat × Fin 16)) :
    (s.logQuerns j bad).sansBooks = s.sansBooks := State.sansBooks_foldl (fun t b => t.logOwn_sansBooks _ _ _ _ _) _ s

section
variable {s : State} {c : CoreId} {j : GrindJob} (ha : s.alive = true) (hj : s.jobOf c = some j) (hc : j.core = c)
  (hph : j.phase = .running) (hd : j.desc = none) (hpost : j.cmd.h.postEn = false) (hq : s.queueOfGranary j.granary = [])
  (hrun : ∀ b ∈ j.allQuerns, (s.quern (asChan b.1) b.2).running = false)

section
include ha hj hph hrun

theorem exec_grindMerge : exec (.grindMerge c) s = .next (s.mergeJob j) := by
  show execGrindMerge c s = _
  rw [execGrindMerge, hj]
  refine whenever_of_alive ha ?_ _
  rw [decide_eq_true hph, Bool.true_and, List.all_eq_true]
  intro b hb
  rw [hrun b hb]
  rfl

end

/-- A job all of whose querns are done writes its records. -/
theorem State.mergeJob_done (hdone : ∀ b ∈ j.allQuerns, (s.quern (asChan b.1) b.2).status = 2)
    (hslots : (s.core j.core).rangeSlots pGrind (grindOps j.cmd).result (528 * (grindOps j.cmd).qn) = true) :
    ∃ fl, s.mergeJob j = (s.setCore j.core ((s.core j.core).store (grindOps j.cmd).result
      ((List.range (grindOps j.cmd).qn).flatMap (fun i => (s.grindRecord j i).1)))).endJob j fl
        (lineCount (grindOps j.cmd).result (528 * (grindOps j.cmd).qn)) none := by
  have hbad : j.allQuerns.filter (fun b => decide ((s.quern (asChan b.1) b.2).status ≠ 2)) = [] := by
    rw [List.filter_eq_nil_iff]
    intro b hb hne
    exact of_decide_eq_true hne (hdone b hb)
  rw [State.mergeJob]
  dsimp only
  rw [hbad]
  dsimp only
  rw [hslots, if_neg (by decide), List.flatMap_map]
  exact ⟨_, rfl⟩

/-- A job one of whose querns is not done writes nothing. -/
theorem State.mergeJob_failed (hfail : ∃ b ∈ j.allQuerns, (s.quern (asChan b.1) b.2).status ≠ 2) :
    ∃ bad fail, s.mergeJob j = (s.logQuerns j bad).endJob j (s.startFlags j) 0 fail := by
  obtain ⟨b, hb, hne⟩ := hfail
  rw [State.mergeJob]
  dsimp only
  split
  next => exact ⟨_, _, rfl⟩
  next hnil =>
    rw [List.filter_eq_nil_iff] at hnil
    exact absurd (decide_eq_true hne) (hnil b hb)

include ha hj hc hph hd hpost hq hrun

theorem grindMerge_done (hdone : ∀ b ∈ j.allQuerns, (s.quern (asChan b.1) b.2).status = 2)
    (hslots : (s.core c).rangeSlots pGrind (grindOps j.cmd).result (528 * (grindOps j.cmd).qn) = true) :
    let records := (List.range (grindOps j.cmd).qn).flatMap (fun i => (s.grindRecord j i).1)
    Completes (.grindMerge c) s (fun t =>
      ((t.core c).engOf .grind = ((s.core c).engOf .grind).cleared ∧ t.jobOf c = none ∧ t.mem = s.mem) ∧
      readBytes (t.core c).bench (grindOps j.cmd).result records.length = records ∧
      ∀ a, a < (grindOps j.cmd).result ∨ (grindOps j.cmd).result + records.length ≤ a →
        tabGet zeroByte a (t.core c).bench = tabGet zeroByte a (s.core c).bench) := by
  intro records
  subst hc
  obtain ⟨fl, hm⟩ := State.mergeJob_done hdone hslots
  have he := (exec_grindMerge ha hj hph hrun).trans (congrArg _ hm)
  obtain ⟨heng, hjob, hmem, hbench⟩ := State.endJob_effect
    (s := s.setCore j.core ((s.core j.core).store (grindOps j.cmd).result records)) hd hpost hq fl
    (lineCount (grindOps j.cmd).result (528 * (grindOps j.cmd).qn)) none
  rw [State.core_setCore, if_pos rfl] at heng hbench
  refine completes_of_eq he ⟨⟨heng, hjob, hmem⟩, ?_, fun a ha => ?_⟩
  · rw [hbench]
    exact readBytes_writeBytes_self _ _ _
  · rw [hbench]
    exact readByte_writeBytes_outside _ _ _ _ ha

theorem grindMerge_failed (hfail : ∃ b ∈ j.allQuerns, (s.quern (asChan b.1) b.2).status ≠ 2) :
    Completes (.grindMerge c) s (fun t =>
      ((t.core c).engOf .grind = ((s.core c).engOf .grind).cleared ∧ t.jobOf c = none ∧ t.mem = s.mem) ∧
      (t.core c).bench = (s.core c).bench) := by
  subst hc
  obtain ⟨bad, fail, hm⟩ := State.mergeJob_failed hfail
  have he := (exec_grindMerge ha hj hph hrun).trans (congrArg _ hm)
  have hlog := s.logQuerns_sansBooks j bad
  have hq' : (s.logQuerns j bad).queueOfGranary j.granary = [] :=
    (State.same_of_sansBooks hlog (fun t => t.queueOfGranary j.granary)).trans hq
  obtain ⟨heng, hjob, hmem, hbench⟩ := State.endJob_effect (s := s.logQuerns j bad) hd hpost hq' (s.startFlags j) 0 fail
  have hcore : (s.logQuerns j bad).core j.core = s.core j.core := State.same_of_sansBooks hlog (fun t => t.core j.core)
  rw [hcore] at heng hbench
  exact completes_of_eq he ⟨⟨heng, hjob, hmem.trans (State.same_of_sansBooks hlog State.mem)⟩, hbench⟩

end

/-- Settles O33: check, admission, start, deadline and merge, each by what it leaves of cores, channels and querns. -/
theorem grindJobs : Obligations.grindJobs := by
  refine ⟨?_, ?_, ?_, ?_, ?_⟩
  · intro s c x q ha hpost k hq hr hs hstop r g
    exact ⟨grindCheck_enters ha hq hr hs hstop, fun why hfail => grindCheck_skips ha hpost hq hr hs hstop hfail⟩
  · intro s g j rest ha hq hg left
    have he := exec_grindAdmit ha g
    refine ⟨fun h hl => ?_, fun h hl => grindAdmit_admits ha hq hg h hl, fun h => ?_⟩
    · rw [State.admitHead_drains hq h hl] at he
      exact completes_of_eq he rfl
    · rwa [State.admitHead_waits hq h] at he
  · intro s c j ha hj hph hm hn hl
    exact grindStart_completes ha hj hph hm hn hl
  · intro s c j ha hj hph
    exact grindDeadline_completes ha hj hph
  · intro s c j ha hj hc hph hd hpost hq hrun k o records over_
    refine ⟨fun hdone hslots => grindMerge_done ha hj hc hph hd hpost hq hrun hdone hslots, fun hfail => ?_⟩
    exact grindMerge_failed ha hj hc hph hd hpost hq hrun hfail

end Sys2Proof.Machine
end

section
/-! PROOFS. The watchman's snapshot (R229, R230). -/

namespace Sys2Proof.Machine

/-- Without an area the snapshot is written nowhere, and nothing is waited for. -/
theorem State.writeSnapshot_stalls {s : State} {p : PartId} (hdr : List Byte) (es : List (List Byte)) (h : s.snapBase p = 0) :
    (s.writeSnapshot p hdr es).stalls = s.stalls := by
  simp [State.writeSnapshot, h]

/-- A module with a snapshot to write and a note that the channel 0 is waited for, which no step leaves behind. -/
def snapshotAndStall : State :=
  ({ State.reset with stalls := [.channel 0] } : State).modPart 0 (fun q => { q with snapshot := some [[]] })

theorem snapshotAndStall_part : (snapshotAndStall.part 0).snapshot = some [[]] := rfl

/-- The command then starts only what it waits for. -/
theorem exec_watchmanSnapshot_stalled : exec (.watchmanSnapshot 0) snapshotAndStall = .next snapshotAndStall := by
  have hst : (snapshotAndStall.writeSnapshot 0 [] []).stalls = [.channel 0] := State.writeSnapshot_stalls [] [] (by decide)
  have hsettle : snapshotAndStall.settle (snapshotAndStall.writeSnapshot 0 [] []) = snapshotAndStall := by
    rw [State.settle, hst, if_neg (by decide), List.foldl_cons, List.foldl_nil, State.arrange, if_neg (by decide)]
  show execWatchmanSnapshot 0 snapshotAndStall = _
  rw [execWatchmanSnapshot, snapshotAndStall_part]
  dsimp only
  rw [hsettle]
  exact whenever_of_alive (by decide) rfl _

/-- Refutes O34: it speaks of every state, also of one whose `stalls` is not empty; there the snapshot's writing starts only
what is waited for, and the snapshot stays unwritten. -/
theorem not_watchmanAndObjects : ¬ Obligations.watchmanAndObjects := by
  rintro ⟨h, -, -⟩
  obtain ⟨t, he, hP⟩ := (h snapshotAndStall 0 (by decide)).2 [] [] snapshotAndStall_part (by decide) (by decide)
  obtain ⟨-, -, -, -, hsnap, -⟩ := hP
  have hts : snapshotAndStall = t := Host.Outcome.next.inj (exec_watchmanSnapshot_stalled.symm.trans he)
  rw [← hts, snapshotAndStall_part] at hsnap
  exact Option.some_ne_none _ hsnap

end Sys2Proof.Machine
end

section
/-! PROOFS. Memory requests at their channels: arrival, service, errors of lines, copies, order (R200 to R205, R212, R327). -/

namespace Sys2Proof.Machine

/-! ### Arrival -/

section
variable {s : State} {src : BitVec 16} {r : MemReq} (ha : s.alive = true)
  (hf : s.inFlight.find? (fun x => decide (x.src = src)) = some r)
include hf

theorem State.arrive_eq : s.arrive src =
    (let t : State := { s with inFlight := s.inFlight.filter (fun x => x.id != r.id) }
     if addrHole r.addr then t.refuseReq (holeChan r.addr) r 0x0102 4
     else if !s.chEnabled (chanOf r.addr) then t.refuseReq (chanOf r.addr) r 0x0103 5
     else if !s.hasEntry (chanOf r.addr) r then (s, none)
     else
       let u := t.modChan (chanOf r.addr) (fun c => { c with queue := c.queue ++ [{ r with since := s.memCycle }] })
       (if s.pstate (chanOf r.addr) = 2 then u.setFld (oCH_STAT (chanOf r.addr)) 1 0 3 else u, none)) := by
  rw [State.arrive, hf]

theorem arrive_src : r.src = src := of_decide_eq_true (List.find?_some hf :)

include ha

omit hf in
theorem exec_memRequestArrive : exec (.memRequestArrive src) s = .next (deliverOpt (s.arrive src)) :=
  whenever_of_alive ha rfl _

theorem exec_memRequestArrive_hole (h : addrHole r.addr = true) : exec (.memRequestArrive src) s = .next
    ((({ s with inFlight := s.inFlight.filter (fun x => x.id != r.id) } : State).logChan (holeChan r.addr) 4 0 0 src.toNat
      r.tag.toNat).deliver { req := r, status := 0x0102, data := [] }) := by
  rw [exec_memRequestArrive ha, State.arrive_eq hf, h, ← arrive_src hf]
  rfl

theorem exec_memRequestArrive_disabled (h : addrHole r.addr = false) (he : s.chEnabled (chanOf r.addr) = false) :
    exec (.memRequestArrive src) s = .next
      ((({ s with inFlight := s.inFlight.filter (fun x => x.id != r.id) } : State).logChan (chanOf r.addr) 5 0 0 src.toNat
        r.tag.toNat).deliver { req := r, status := 0x0103, data := [] }) := by
  rw [exec_memRequestArrive ha, State.arrive_eq hf, h, he, ← arrive_src hf]
  rfl

theorem exec_memRequestArrive_full (h : addrHole r.addr = false) (he : s.chEnabled (chanOf r.addr) = true)
    (hn : s.hasEntry (chanOf r.addr) r = false) : exec (.memRequestArrive src) s = .next s := by
  rw [exec_memRequestArrive ha, State.arrive_eq hf, h, he, hn]
  rfl

theorem exec_memRequestArrive_enters (h : addrHole r.addr = false) (he : s.chEnabled (chanOf r.addr) = true)
    (hn : s.hasEntry (chanOf r.addr) r = true) :
    let u := ({ s with inFlight := s.inFlight.filter (fun x => x.id != r.id) } : State).modChan (chanOf r.addr)
      (fun c => { c with queue := c.queue ++ [{ r with since := s.cycles / 8 }] })
    exec (.memRequestArrive src) s =
      .next (if s.pstate (chanOf r.addr) = 2 then u.setFld (oCH_STAT (chanOf r.addr)) 1 0 3 else u) := by
  intro u
  rw [exec_memRequestArrive ha, State.arrive_eq hf, h, he, hn]
  rfl

end

theorem State.chan_modChan (s : State) (n m : ChanId) (f : Chan → Chan) :
    (s.modChan n f).chan m = if m = n then f (s.chan m) else s.chan m := by
  rw [State.modChan, State.chan_setChan]
  by_cases h : m = n
  · rw [if_pos h, if_pos h, h]
  · rw [if_neg h, if_neg h]

theorem memRequestArrive_enters {s : State} {src : BitVec 16} {r : MemReq} (ha : s.alive = true)
    (hf : s.inFlight.find? (fun x => decide (x.src = src)) = some r) (h : addrHole r.addr = false)
    (he : s.chEnabled (chanOf r.addr) = true) (hn : s.hasEntry (chanOf r.addr) r = true) :
    let n := chanOf r.addr
    let s1 : State := { s with inFlight := s.inFlight.filter (fun x => x.id != r.id) }
    let enters := fun (t : State) =>
      t.chan n = { s.chan n with queue := (s.chan n).queue ++ [{ r with since := s.cycles / 8 }] } ∧
      (∀ m, m ≠ n → t.chan m = s.chan m) ∧ t.inFlight = s1.inFlight ∧ t.mem = s.mem
    (s.pstate n ≠ 2 → Completes (.memRequestArrive src) s (fun t => t = { s1 with chans := t.chans } ∧ enters t)) ∧
    (s.pstate n = 2 → Completes (.memRequestArrive src) s (fun t => t.pstate n = 3 ∧ enters t)) := by
  intro n s1 enters
  have hexec := exec_memRequestArrive_enters ha hf h he hn
  have hchan := State.chan_modChan s1 n (f := fun c => { c with queue := c.queue ++ [{ r with since := s.cycles / 8 }] })
  refine ⟨fun hp => ?_, fun hp => ?_⟩
  · refine completes_of_eq (hexec.trans (congrArg _ (if_neg hp))) ⟨rfl, (hchan n).trans (if_pos rfl), fun m hm => ?_, rfl, rfl⟩
    exact (hchan m).trans (if_neg hm)
  · refine completes_of_eq (hexec.trans (congrArg _ (if_pos hp))) ⟨?_, (hchan n).trans (if_pos rfl), fun m hm => ?_, rfl, rfl⟩
    · exact State.fld_setFld_self _ _ _ _ _ (by decide)
    · exact (hchan m).trans (if_neg hm)

/-! ### Service -/

theorem State.serveAt_noSlot {s : State} {n : ChanId} (h : s.noSlot n = true) : s.serveAt n [] = (s, none) := by
  rw [State.serveAt, h]
  rfl

theorem State.serveAt_picks {s : State} {n : ChanId} {r : MemReq} (h : s.noSlot n = false) (hp : s.pickReq n = some r) :
    s.serveAt n [] = (((s.modChan n (s.took n r)).performReq n r).1, some ((s.modChan n (s.took n r)).performReq n r).2) := by
  rw [State.serveAt, h, hp]
  rfl

theorem exec_memRequestServe_idle {s : State} {n : ChanId} {pos : Fin 64}
    (h : s.pstate n ≠ 1 ∨ (s.chan n).mode ≠ .memory ∨ (s.chan n).lastCmd = some (s.cycles / 8) ∨ pos.val ≠ s.cycles / 8 % 64) :
    exec (.memRequestServe n pos []) s = .next s := by
  show whenever (decide (pos = s.wheelPos)) s (deliverOpt (s.serveAt n [])) = _
  rcases h with h | h | h | h
  · have hs : s.noSlot n = true := by simp [State.noSlot, h]
    rw [State.serveAt_noSlot hs, deliverOpt, whenever, ite_self]
  · have hs : s.noSlot n = true := by simp [State.noSlot, h]
    rw [State.serveAt_noSlot hs, deliverOpt, whenever, ite_self]
  · have hs : s.noSlot n = true := by simp [State.noSlot, State.memCycle, h]
    rw [State.serveAt_noSlot hs, deliverOpt, whenever, ite_self]
  · have hp : decide (pos = s.wheelPos) = false := decide_eq_false fun he => h (congrArg Fin.val he)
    rw [hp, whenever, if_neg (by simp)]

/-- The state in which a request is performed on a line. -/
theorem exec_memRequestServe_picks {s : State} {n : ChanId} {pos : Fin 64} {r : MemReq} (ha : s.alive = true) (hp1 : s.pstate n = 1)
    (hpos : pos.val = s.cycles / 8 % 64) (hm : (s.chan n).mode = .memory) (hl : (s.chan n).lastCmd ≠ some (s.cycles / 8))
    (hp : s.pickReq n = some r) :
    exec (.memRequestServe n pos []) s = .next
      (((s.modChan n (s.took n r)).performReq n r).1.deliver ((s.modChan n (s.took n r)).performReq n r).2) := by
  have hs : s.noSlot n = false := by simp [State.noSlot, State.memCycle, hp1, hm, hl]
  have hw : decide (pos = s.wheelPos) = true := decide_eq_true (Fin.ext hpos)
  show whenever (decide (pos = s.wheelPos)) s (deliverOpt (s.serveAt n [])) = _
  rw [State.serveAt_picks hs hp]
  exact whenever_of_alive ha hw _

/-- A response to a unit that takes its responses itself. -/
theorem State.deliver_claimed {s : State} {x : MemResp} (hc : s.hcWaiting x.req.id = none) (hs : s.serving = [])
    (h : s.claimed x.req.id = true) : s.deliver x = { s with responses := s.responses ++ [x] } := by
  rw [State.deliver, hc, hs]
  exact if_pos h

theorem sliceBytes_line (m : Tab Byte) (a : Nat) {n : Nat} (h : n ≤ 64 - a % 64) :
    sliceBytes (readBytes m (64 * (a / 64)) 64) (a % 64) n = readBytes m a n := by
  rw [sliceBytes_readBytes m _ (by omega), Nat.div_add_mod]

/-- A read of a sound line. -/
theorem State.performReq_read {s : State} {n : ChanId} {r : MemReq} (hk : r.kind = .read) (he : s.errorsIn (r.addr / 64) = 0)
    (hlen : r.len ≤ 64 - r.addr % 64) :
    s.performReq n r = (s.incFld (oTM_READS n) 63 0 1, { req := r, status := 0, data := readBytes s.mem r.addr r.len }) := by
  have hread := State.readLine_sound (s := s.incFld (oTM_READS n) 63 0 1) he
  simp only [State.performReq, hk, hread]
  rw [if_neg (by simp), sliceBytes_line _ _ hlen]
  rfl

theorem putBytes_eq {l bs : List Byte} {o : Nat} (h : o + bs.length ≤ l.length) :
    putBytes l o bs = l.take o ++ (bs ++ l.drop (o + bs.length)) := by
  have hlen : (bs ++ l.drop (o + bs.length)).length ≤ l.length - o := by
    rw [List.length_append, List.length_drop]
    omega
  rw [putBytes, List.take_of_length_le hlen]

theorem putBytes_getElem? (l bs : List Byte) {o i : Nat} (h : o + bs.length ≤ l.length) :
    (putBytes l o bs)[i]? = if o ≤ i ∧ i < o + bs.length then bs[i - o]? else l[i]? := by
  have hlen : (l.take o).length = o := List.length_take_of_le (by omega)
  rw [putBytes_eq h]
  by_cases h1 : i < o
  · rw [List.getElem?_append_left (by omega), List.getElem?_take_of_lt h1, if_neg (by omega)]
  · rw [List.getElem?_append_right (by omega), hlen]
    by_cases h2 : i < o + bs.length
    · rw [List.getElem?_append_left (by omega), if_pos ⟨by omega, h2⟩]
    · rw [List.getElem?_append_right (by omega), List.getElem?_drop, if_neg (by omega)]
      congr 1
      omega

theorem putBytes_length (l bs : List Byte) {o : Nat} (h : o + bs.length ≤ l.length) : (putBytes l o bs).length = l.length := by
  rw [putBytes_eq h, List.length_append, List.length_append, List.length_take_of_le (by omega), List.length_drop]
  omega

theorem tabGet_writeBytes (m : Tab Byte) (a : Nat) (bs : List Byte) (y : Nat) :
    tabGet zeroByte y (writeBytes m a bs) = if a ≤ y ∧ y < a + bs.length then bs[y - a]?.getD 0 else tabGet zeroByte y m := by
  by_cases h : a ≤ y ∧ y < a + bs.length
  · rw [if_pos h]
    obtain ⟨h1, h2⟩ := h
    have hread := readBytes_getElem? (writeBytes m a bs) a (n := bs.length) (k := y - a) (by omega)
    rw [readBytes_writeBytes_self, Nat.add_sub_cancel' h1] at hread
    rw [hread]
    rfl
  · rw [if_neg h]
    exact readByte_writeBytes_outside bs m a y (by omega)

/-- A line rewritten with some of its bytes replaced is a write of these bytes. -/
theorem tabGet_writeBytes_putBytes (m : Tab Byte) (a : Nat) (bs : List Byte) (h : bs.length ≤ 64 - a % 64) (y : Nat) :
    tabGet zeroByte y (writeBytes m (64 * (a / 64)) (putBytes (readBytes m (64 * (a / 64)) 64) (a % 64) bs)) =
      tabGet zeroByte y (writeBytes m a bs) := by
  have hin : a % 64 + bs.length ≤ (readBytes m (64 * (a / 64)) 64).length := by
    rw [readBytes_length]
    omega
  rw [tabGet_writeBytes, tabGet_writeBytes, putBytes_length _ _ hin, readBytes_length, putBytes_getElem? _ _ hin]
  have hdm := Nat.div_add_mod a 64
  by_cases h1 : a ≤ y ∧ y < a + bs.length
  · rw [if_pos (by omega), if_pos (by omega), if_pos h1]
    congr 2
    omega
  · rw [if_neg h1]
    by_cases h2 : 64 * (a / 64) ≤ y ∧ y < 64 * (a / 64) + 64
    · rw [if_pos h2, if_neg (by omega), readBytes_getElem? m _ (by omega), Nat.add_sub_cancel' h2.1]
      rfl
    · rw [if_neg h2]

/-- A write to a sound line: success, and the bytes stored. -/
theorem State.performReq_write {s : State} {n : ChanId} {r : MemReq} (hk : r.kind = .write) (he : s.errorsIn (r.addr / 64) = 0)
    (hm : r.mask = none) (hlen : r.len ≤ 64 - r.addr % 64) (hd : r.data.length = r.len) :
    (s.performReq n r).2 = { req := r, status := 0, data := [] } ∧
      (∀ y, (s.performReq n r).1.byte y = tabGet zeroByte y (writeBytes s.mem r.addr r.data)) ∧
      ∃ regs mem errs, (s.performReq n r).1 = { s with regs := regs, mem := mem, lineErr := errs } := by
  have hread := State.readLine_sound (s := s.incFld (oTM_WRITES n) 63 0 1) he
  by_cases hw : r.whole = true
  · have hfull : r.len = 64 := by
      rw [MemReq.whole, hm] at hw
      exact of_decide_eq_true hw
    have haddr : 64 * (r.addr / 64) = r.addr := by omega
    have hp : s.performReq n r =
        ((s.incFld (oTM_WRITES n) 63 0 1).writeLine (r.addr / 64) r.data, { req := r, status := 0, data := [] }) := by
      simp only [State.performReq, hk, hw]
      rfl
    rw [hp]
    refine ⟨rfl, fun y => ?_, _, _, _, rfl⟩
    rw [State.byte, State.writeLine_mem, haddr]
    rfl
  · have hp : s.performReq n r =
        ((s.incFld (oTM_WRITES n) 63 0 1).writeLine (r.addr / 64)
          (putBytes (readBytes s.mem (64 * (r.addr / 64)) 64) (r.addr % 64) r.data), { req := r, status := 0, data := [] }) := by
      simp only [State.performReq, hk, if_neg hw, hread, MemReq.merge, hm]
      rfl
    rw [hp]
    refine ⟨rfl, fun y => ?_, _, _, _, rfl⟩
    rw [State.byte, State.writeLine_mem]
    exact tabGet_writeBytes_putBytes s.mem r.addr r.data (by omega) y

/-- Settles O35: an arrival and a service, each by the branch of R202 and R212 that the state is in. -/
theorem requestsAreServed : Obligations.requestsAreServed := by
  refine ⟨?_, ?_, ?_⟩
  · intro s src r ha hf n s1 refused
    exact ⟨exec_memRequestArrive_hole ha hf, exec_memRequestArrive_disabled ha hf, exec_memRequestArrive_full ha hf,
      memRequestArrive_enters ha hf⟩
  · intro s n pos h
    exact exec_memRequestServe_idle h
  · intro s n pos r ha hp1 hpos hm hl hp he hmask hlen hdata hw hs hc
    have hexec := exec_memRequestServe_picks ha hp1 hpos hm hl hp
    have hqueue : ((s.modChan n (s.took n r)).chan n).queue = (s.chan n).queue.filter (fun x => x.id != r.id) := by
      rw [State.chan_modChan, if_pos rfl]
      rfl
    refine ⟨fun hk => ?_, fun hk => ?_⟩
    · have hdel := State.deliver_claimed (s := (s.modChan n (s.took n r)).incFld (oTM_READS n) 63 0 1)
        (x := { req := r, status := 0, data := readBytes s.mem r.addr r.len }) hw hs hc
      rw [State.performReq_read (s := s.modChan n (s.took n r)) hk he hlen] at hexec
      replace hexec := hexec.trans (congrArg _ hdel)
      exact completes_of_eq hexec ⟨rfl, rfl, hqueue⟩
    · rw [if_pos hk] at hdata
      obtain ⟨hresp, hbyte, regs, mem, errs, hstate⟩ := State.performReq_write (s := s.modChan n (s.took n r)) (n := n) hk he
        hmask hlen hdata
      rw [hresp, hstate] at hexec
      rw [hstate] at hbyte
      have hdel := State.deliver_claimed (s := { s.modChan n (s.took n r) with regs := regs, mem := mem, lineErr := errs })
        (x := { req := r, status := 0, data := [] }) hw hs hc
      rw [hdel] at hexec
      refine completes_of_eq hexec ⟨rfl, ?_, fun a ha => ?_, hqueue⟩
      · have hread : readBytes mem r.addr r.len = readBytes (writeBytes s.mem r.addr r.data) r.addr r.len :=
          readBytes_congr fun y _ _ => hbyte y
        refine hread.trans ?_
        rw [← hdata]
        exact readBytes_writeBytes_self _ _ _
      · refine (hbyte a).trans (readByte_writeBytes_outside _ _ _ _ ?_)
        rw [hdata]
        exact ha

end Sys2Proof.Machine
end

section
/-! PROOFS. Errors of lines, copies to spares, and the order in which a channel serves (R200, R201, R204, R327). -/

namespace Sys2Proof.Machine

/-! ### Registers that spares and logs leave -/

theorem State.moduleFail_reg {o : Nat} (h : o ≠ oTW_STAT) (s : State) : s.moduleFail.reg o = s.reg o := by
  have hin : ((s.send .fatalNotice).inBand 0x04).reg o = s.reg o := by
    unfold State.inBand
    split <;> rfl
  refine Eq.trans ?_ hin
  exact (State.reg_setFld _ _ _ _ _ _).trans (if_neg h)

theorem State.spareRow_reg {o : Nat} (h : o ≠ oTW_STAT) (s : State) (line : Nat) : (s.spareRow line).reg o = s.reg o := by
  unfold State.spareRow State.spareBank
  dsimp only
  split
  · rfl
  · split
    · split
      · exact State.moduleFail_reg h s
      · rfl
    · rfl

theorem State.rowError_reg {o : Nat} (h : o ≠ oTW_STAT) (s : State) (line : Nat) : (s.rowError line).reg o = s.reg o := by
  unfold State.rowError
  dsimp only
  split
  · exact State.spareRow_reg h _ line
  · rfl

theorem State.logChan_reg {o : Nat} {n : ChanId} (h : o ≠ oELOG_PTR n) (s : State) (type detail loc src tag : Nat) :
    (s.logChan n type detail loc src tag).reg o = s.reg o := by
  unfold State.logChan
  dsimp only
  split
  · exact (State.reg_setFld _ _ _ _ _ _).trans (if_neg h)
  · exact (State.reg_setFld s (oELOG_PTR n) _ _ _ o).trans (if_neg h)

theorem State.fld_of_reg {s t : State} {o : Nat} (h : t.reg o = s.reg o) (hi lo : Nat) : t.fld o hi lo = s.fld o hi lo := by
  rw [State.fld, State.fld, h]

theorem State.fld_incFld_self (s : State) (o hi lo n : Nat) (h : hi < 64) :
    (s.incFld o hi lo n).fld o hi lo = (s.fld o hi lo + n) % 2 ^ (hi + 1 - lo) := by
  rw [State.incFld, State.fld_setFld_self _ _ _ _ _ h, Nat.mod_mod]

theorem State.fld_incFld_other {o p : Nat} (h : p ≠ o) (s : State) (hi lo n a b : Nat) :
    (s.incFld o hi lo n).fld p a b = s.fld p a b := State.fld_setFld_other _ _ _ _ _ _ _ _ h

/-! ### Reads of lines with errors -/

theorem State.readLine_corrected {s : State} {line : Nat} (h1 : 1 ≤ s.errorsIn line) (h2 : s.errorsIn line ≤ 2) :
    s.readLine line = ({ bytes := readBytes s.mem (64 * line) 64, corrected := true },
      (s.incFld (oTM_CE (chanOf (64 * line))) 63 0 1).rowError line) := by
  have h0 : s.errorsIn line ≠ 0 := by omega
  simp only [State.readLine, State.peekLine, if_neg h0, if_pos h2]
  rfl

theorem State.readLine_uncorrectable {s : State} {line : Nat} (h3 : 3 ≤ s.errorsIn line) (h6 : s.errorsIn line ≤ 6) :
    s.readLine line = ({ ue := true, detail := s.errorsIn line, bytes := [] },
      (s.incFld (oTM_UE (chanOf (64 * line))) 63 0 1).spareRow line) := by
  have h0 : s.errorsIn line ≠ 0 := by omega
  have h2 : ¬ s.errorsIn line ≤ 2 := by omega
  simp only [State.readLine, State.peekLine, if_neg h0, if_neg h2, if_pos h6]
  rfl

section
variable {s : State} {n : ChanId} {r : MemReq} (hk : r.kind = .read) (hn : chanOf (64 * (r.addr / 64)) = n)
include hk hn

theorem performReq_corrected (hlen : r.len ≤ 64 - r.addr % 64) (h1 : 1 ≤ s.errorsIn (r.addr / 64))
    (h2 : s.errorsIn (r.addr / 64) ≤ 2) :
    let x := s.performReq n r
    x.2 = { req := r, status := 0, data := readBytes s.mem r.addr r.len } ∧
      x.1.fld (oTM_CE n) 63 0 = (s.fld (oTM_CE n) 63 0 + 1) % 2 ^ 64 ∧ x.1.mem = s.mem := by
  intro x
  have hread := State.readLine_corrected (s := s.incFld (oTM_READS n) 63 0 1) h1 h2
  rw [hn] at hread
  have hx : x = (((s.incFld (oTM_READS n) 63 0 1).incFld (oTM_CE n) 63 0 1).rowError (r.addr / 64),
      { req := r, status := 0, data := readBytes s.mem r.addr r.len }) := by
    simp only [x, State.performReq, hk, hread]
    have hmem : (s.incFld (oTM_READS n) 63 0 1).mem = s.mem := rfl
    rw [if_neg (by simp), hmem, sliceBytes_line s.mem r.addr hlen]
  rw [hx]
  refine ⟨rfl, ?_, by simp⟩
  have htw : oTM_CE n ≠ oTW_STAT := by
    simp only [oTM_CE, oCH, oTW_STAT]
    omega
  have hother : oTM_CE n ≠ oTM_READS n := by simp only [oTM_CE, oTM_READS, oCH]; omega
  rw [State.fld_of_reg (State.rowError_reg htw _ _), State.fld_incFld_self _ _ _ _ _ (by decide), State.fld_incFld_other hother]

theorem performReq_uncorrectable (h3 : 3 ≤ s.errorsIn (r.addr / 64)) (h6 : s.errorsIn (r.addr / 64) ≤ 6) :
    let x := s.performReq n r
    x.2 = { req := r, status := 0x0101, data := [] } ∧
      x.1.fld (oTM_UE n) 63 0 = (s.fld (oTM_UE n) 63 0 + 1) % 2 ^ 64 ∧ x.1.mem = s.mem := by
  intro x
  have hread := State.readLine_uncorrectable (s := s.incFld (oTM_READS n) 63 0 1) h3 h6
  rw [hn] at hread
  have hx : x = ((((s.incFld (oTM_READS n) 63 0 1).incFld (oTM_UE n) 63 0 1).spareRow (r.addr / 64)).logChan n 1
      (s.errorsIn (r.addr / 64)) (lineLoc r.addr) r.src.toNat r.tag.toNat, { req := r, status := 0x0101, data := [] }) := by
    simp only [x, State.performReq, hk, hread]
    rfl
  rw [hx]
  refine ⟨rfl, ?_, by simp⟩
  have hlog : oTM_UE n ≠ oELOG_PTR n := by simp only [oTM_UE, oELOG_PTR, oCH]; omega
  have htw : oTM_UE n ≠ oTW_STAT := by
    simp only [oTM_UE, oCH, oTW_STAT]
    omega
  have hother : oTM_UE n ≠ oTM_READS n := by simp only [oTM_UE, oTM_READS, oCH]; omega
  rw [State.fld_of_reg (State.logChan_reg hlog _ _ _ _ _ _), State.fld_of_reg (State.spareRow_reg htw _ _),
    State.fld_incFld_self _ _ _ _ _ (by decide), State.fld_incFld_other hother]

end

/-! ### The end of a copy -/

theorem exec_spareCopyDone {s : State} {n : ChanId} {c : SpareCopy} {rest : List SpareCopy} (ha : s.alive = true)
    (hc : (s.chan n).copies = c :: rest) (he : s.lineErr = []) :
    exec (.spareCopyDone n) s = .next (s.modChan n (fun k => { k with
      copies := rest
      rowErrors := match c.row with | some r => tabSet (fun _ => 0) (32768 * c.bank + r) 0 k.rowErrors | none => k.rowErrors
      barred := if c.row.isNone && n.val / 32 % 2 == 1 then 16 * pairLines n else k.barred })) := by
  have hlines : s.copiedLines n c = [] := by
    rw [State.copiedLines, he]
    rfl
  show execSpareCopyDone n s = _
  rw [execSpareCopyDone, hc]
  dsimp only
  rw [hlines]
  exact whenever_of_alive ha rfl _

theorem onlyChan_modChan (s : State) (n : ChanId) (f : Chan → Chan) : OnlyChan n s (s.modChan n f) :=
  ⟨rfl, fun m hm => (State.chan_modChan s n m f).trans (if_neg hm)⟩

/-! ### The order of a source -/

/-- A permitted request is the oldest of its source. -/
theorem find?_of_mem_permittedFrom {seen : List (BitVec 16)} {q : List MemReq} {r : MemReq} (h : r ∈ permittedFrom seen q) :
    r.src ∉ seen ∧ q.find? (fun x => decide (x.src = r.src)) = some r := by
  induction q generalizing seen with
  | nil => exact absurd h List.not_mem_nil
  | cons x q ih =>
    rw [permittedFrom] at h
    by_cases hx : seen.contains x.src = true
    · rw [if_pos hx] at h
      obtain ⟨hr, hf⟩ := ih h
      have hne : x.src ≠ r.src := fun he => hr (he ▸ List.contains_iff_mem.mp hx)
      exact ⟨hr, by rw [List.find?_cons_of_neg (by simpa using hne), hf]⟩
    · rw [if_neg hx] at h
      rcases List.mem_cons.mp h with rfl | hq
      · exact ⟨fun hm => hx (List.contains_iff_mem.mpr hm), List.find?_cons_of_pos (by simp)⟩
      · obtain ⟨hr, hf⟩ := ih hq
        have hne : x.src ≠ r.src := fun he => hr (he ▸ List.mem_cons_self)
        exact ⟨fun hm => hr (List.mem_cons_of_mem _ hm), by rw [List.find?_cons_of_neg (by simpa using hne), hf]⟩

/-- Of a queue that holds a request some request is permitted. -/
theorem permitted_ne_nil {q : List MemReq} (h : q ≠ []) : permitted q ≠ [] := by
  cases q with
  | nil => exact absurd rfl h
  | cons x q =>
    rw [permitted, permittedFrom]
    exact List.cons_ne_nil _ _

theorem participant_lt (p : Option PartId) : participant p < 33 := by
  cases p with
  | none => exact Nat.lt_succ_self 32
  | some p => exact Nat.lt_succ_of_lt p.isLt

/-- The participants, from one of them on, in turn. -/
def turnFrom (o : Nat) : List Nat := (List.range 33).map (fun i => (o + i) % 33)

theorem mem_turnFrom (o : Nat) {k : Nat} (h : k < 33) : k ∈ turnFrom o := by
  rw [turnFrom, List.mem_map]
  exact ⟨(k + 33 - o % 33) % 33, List.mem_range.mpr (Nat.mod_lt _ (by decide)), by omega⟩

/-- The request of the first participant that has one. -/
def inTurn (ready : List MemReq) (o : Nat) : Option MemReq :=
  (turnFrom o).findSome? (fun k => ready.find? (fun r => participant r.part == k))

theorem inTurn_isSome {ready : List MemReq} (h : ready ≠ []) (o : Nat) : (inTurn ready o).isSome = true := by
  obtain ⟨r, hr⟩ := List.exists_mem_of_ne_nil ready h
  rw [Option.isSome_iff_ne_none, inTurn, ne_eq, List.findSome?_eq_none_iff]
  intro hnone
  have := hnone (participant r.part) (mem_turnFrom o (participant_lt r.part))
  rw [List.find?_eq_none] at this
  exact this r hr (beq_self_eq_true _)

theorem mem_of_inTurn {ready : List MemReq} {o : Nat} {r : MemReq} (h : inTurn ready o = some r) : r ∈ ready := by
  obtain ⟨k, _, hk⟩ := List.exists_of_findSome?_eq_some h
  exact List.mem_of_find?_eq_some hk

/-- What the wheel picks: a late request of no partition, or that of the next participant in turn. -/
theorem State.pickFrom_eq (s : State) (n : ChanId) (q : List MemReq) :
    ∃ (late : Option MemReq) (c0 : Bool) (o : Nat), (∀ r, late = some r → r ∈ permitted q) ∧
      s.pickFrom n q = match late with
        | some r => if c0 then inTurn (permitted q) o else some r
        | none => inTurn (permitted q) o :=
  ⟨(permitted q).find? (fun r => r.part.isNone && decide (r.since + 64 ≤ s.memCycle)), _, _,
    fun _ h => List.mem_of_find?_eq_some h, rfl⟩

theorem State.mem_of_pickFrom {s : State} {n : ChanId} {q : List MemReq} {r : MemReq} (h : s.pickFrom n q = some r) :
    r ∈ permitted q := by
  obtain ⟨late, c0, o, hlate, he⟩ := s.pickFrom_eq n q
  rw [he] at h
  cases late with
  | none => exact mem_of_inTurn h
  | some x =>
    cases c0 with
    | true => exact mem_of_inTurn h
    | false => exact hlate r h

theorem State.pickFrom_isSome (s : State) (n : ChanId) {q : List MemReq} (hq : q ≠ []) : (s.pickFrom n q).isSome = true := by
  obtain ⟨late, c0, o, _, he⟩ := s.pickFrom_eq n q
  have hturn := inTurn_isSome (permitted_ne_nil hq) o
  rw [he]
  cases late with
  | none => exact hturn
  | some x =>
    cases c0 with
    | true => exact hturn
    | false => rfl

theorem State.find?_of_pickFrom {s : State} {n : ChanId} {q : List MemReq} {r : MemReq} (h : s.pickFrom n q = some r) :
    q.find? (fun x => decide (x.src = r.src)) = some r := (find?_of_mem_permittedFrom (State.mem_of_pickFrom h)).2

/-- Settles O36: errors are counted where the line's channel counts them, and a pick is permitted by R204. -/
theorem linesAreProtected : Obligations.linesAreProtected := by
  refine ⟨?_, ?_, ?_⟩
  · intro s n r hk hlen hn e x
    exact ⟨fun h1 h2 => performReq_corrected hk hn hlen h1 h2, fun h3 h6 => performReq_uncorrectable hk hn h3 h6⟩
  · intro s n c rest ha hc he
    have hchan := fun f => (State.chan_modChan s n n f).trans (if_pos rfl)
    refine completes_of_eq (exec_spareCopyDone ha hc he) ⟨onlyChan_modChan _ _ _, ?_, ?_, fun hrow hodd => ?_⟩
    · rw [hchan]
    · rw [hchan]
    · rw [hchan, hrow, hodd]
      rfl
  · intro s n
    refine ⟨fun hd => ⟨fun hq => ?_, fun r hp => ?_⟩, fun ids hd r hp => ?_⟩
    · rw [State.pickReq, hd]
      exact s.pickFrom_isSome n hq
    · rw [State.pickReq, hd] at hp
      exact State.find?_of_pickFrom hp
    · rw [State.pickReq, hd] at hp
      exact State.find?_of_pickFrom hp

end Sys2Proof.Machine
end

section
/-! PROOFS. Registers written whole: the bits that the accepted fields take, and what is logged (R6, R373). -/

namespace Sys2Proof.Machine

/-! ### Bits of fields -/

theorem Field.apply_rw_getLsbD {f : Field} (hf : f.access = .rw) (v w : Word) {i : Nat} (hi : i < 64) :
    (f.apply v (accMask .full) w).getLsbD i = if f.lo ≤ i ∧ i ≤ f.hi then v.getLsbD i else w.getLsbD i := by
  have hmask : (f.mask &&& accMask .full).getLsbD i = decide (f.lo ≤ i ∧ i ≤ f.hi) := by
    have hall : (accMask .full).getLsbD i = true := by
      have : accMask .full = BitVec.allOnes 64 := by decide
      rw [this, BitVec.getLsbD_allOnes, decide_eq_true hi]
    rw [BitVec.getLsbD_and, hall, Bool.and_true, Field.mask_getLsbD f i hi]
  rw [Field.apply, hf]
  simp only [BitVec.getLsbD_or, BitVec.getLsbD_and, BitVec.getLsbD_not, hmask, hi, decide_true, Bool.true_and]
  by_cases h : f.lo ≤ i ∧ i ≤ f.hi
  · rw [if_pos h, decide_eq_true h]
    simp
  · rw [if_neg h, decide_eq_false h]
    simp

/-- A field that a write accepts. -/
def Field.accepted (no : Field → Bool) (f : Field) : Bool := f.writable && !no f

/-- A bit that an accepted field holds. -/
def heldBy (fs : List Field) (no : Field → Bool) (i : Nat) : Bool :=
  fs.any (fun f => f.accepted no && decide (f.lo ≤ i ∧ i ≤ f.hi))

/-- Of a register written whole the accepted fields take the bits written, and the others keep theirs. -/
theorem mergeWrite_getLsbD {fs : List Field} {no : Field → Bool} (hrw : ∀ f ∈ fs, f.accepted no = true → f.access = .rw)
    (old v : Word) {i : Nat} (hi : i < 64) :
    (mergeWrite fs old .full v no).getLsbD i = if heldBy fs no i = true then v.getLsbD i else old.getLsbD i := by
  unfold mergeWrite
  induction fs generalizing old with
  | nil => rfl
  | cons f fs ih =>
    obtain ⟨hf, hrest⟩ := List.forall_mem_cons.mp hrw
    have hany : heldBy (f :: fs) no i = ((f.accepted no && decide (f.lo ≤ i ∧ i ≤ f.hi)) || heldBy fs no i) := rfl
    by_cases ha : f.accepted no = true
    · have hfilter : (f :: fs).filter (fun f => f.writable && !no f) = f :: fs.filter (fun f => f.writable && !no f) :=
        List.filter_cons_of_pos ha
      rw [hfilter, List.foldl_cons, ih hrest, hany, ha, Bool.true_and]
      by_cases hh : heldBy fs no i = true
      · rw [if_pos hh, if_pos (by rw [hh, Bool.or_true])]
      · rw [if_neg hh, Bool.eq_false_iff.mpr hh, Bool.or_false]
        refine (Field.apply_rw_getLsbD (hf ha) v old hi).trans ?_
        simp only [decide_eq_true_eq]
    · have hfilter : (f :: fs).filter (fun f => f.writable && !no f) = fs.filter (fun f => f.writable && !no f) :=
        List.filter_cons_of_neg ha
      rw [hfilter, ih hrest, hany, Bool.eq_false_iff.mpr ha, Bool.false_and, Bool.false_or]

/-- Two words that agree on the bits of a field have the same field. -/
theorem getBits_congr {w v : Word} {hi lo : Nat} (h : ∀ i, lo ≤ i → i ≤ hi → w.getLsbD i = v.getLsbD i) :
    getBits w hi lo = getBits v hi lo := by
  refine Nat.eq_of_testBit_eq fun i => ?_
  rw [getBits_testBit, getBits_testBit]
  by_cases hi' : i < hi + 1 - lo
  · rw [h (lo + i) (by omega) (by omega)]
  · simp [hi']

/-- A field all of whose bits an accepted field holds takes the value written. -/
theorem getBits_mergeWrite_held {fs : List Field} {no : Field → Bool} (hrw : ∀ f ∈ fs, f.accepted no = true → f.access = .rw)
    (old v : Word) {hi lo : Nat} (h64 : hi < 64) (h : ∀ i, lo ≤ i → i ≤ hi → heldBy fs no i = true) :
    getBits (mergeWrite fs old .full v no) hi lo = getBits v hi lo :=
  getBits_congr fun i hl hh => by rw [mergeWrite_getLsbD hrw old v (by omega), if_pos (h i hl hh)]

/-- A field none of whose bits an accepted field holds is kept. -/
theorem getBits_mergeWrite_kept {fs : List Field} {no : Field → Bool} (hrw : ∀ f ∈ fs, f.accepted no = true → f.access = .rw)
    (old v : Word) {hi lo : Nat} (h64 : hi < 64) (h : ∀ i, lo ≤ i → i ≤ hi → heldBy fs no i = false) :
    getBits (mergeWrite fs old .full v no) hi lo = getBits old hi lo :=
  getBits_congr fun i hl hh => by rw [mergeWrite_getLsbD hrw old v (by omega), h i hl hh]; rfl

theorem getBits_of_lt {v : Word} {hi : Nat} (h : v.toNat < 2 ^ (hi + 1)) : getBits v hi 0 = v.toNat := by
  rw [getBits_eq, pow_zero, Nat.div_one, Nat.sub_zero, Nat.mod_eq_of_lt h]

/-! ### The log of a write -/

/-- A write that names no reserved bit and no refused field is not logged. -/
theorem State.noteWrite_silent (s : State) (fn : FnId) (l : Nat) {fs : List Field} {a : Acc} {v : Word} {no : Field → Bool}
    (hr : accWord a v &&& reservedBits fs = 0) (hw : fs.any Field.writable = true)
    (hn : ∀ f ∈ fs, (f.writable && f.touched a && no f) = false) : s.noteWrite fn l fs a v no = s := by
  have hnone : fs.any (fun f => f.writable && f.touched a && no f) = false := by
    rw [List.any_eq_false]
    intro f hf
    rw [hn f hf]
    exact Bool.false_ne_true
  rw [State.noteWrite, hw, hnone]
  simp [hr]

/-- A small number and a number without low bits have no bit in common. -/
theorem and_eq_zero_of_lt {v c : Word} {k : Nat} (hv : v.toNat < 2 ^ k) (hc : c.toNat % 2 ^ k = 0) : v &&& c = 0 := by
  refine BitVec.eq_of_toNat_eq (Nat.eq_of_testBit_eq fun i => ?_)
  rw [BitVec.toNat_and, Nat.testBit_and]
  by_cases hi : i < k
  · have hci : c.toNat.testBit i = false := by
      have := Nat.testBit_mod_two_pow c.toNat k i
      rw [hc, Nat.zero_testBit, decide_eq_true hi, Bool.true_and] at this
      exact this.symm
    rw [hci, Bool.and_false]
    simp
  · have hvi : v.toNat.testBit i = false :=
      Nat.testBit_lt_two_pow (lt_of_lt_of_le hv (Nat.pow_le_pow_right (by decide) (by omega)))
    rw [hvi, Bool.false_and]
    simp

/-! ### The state after a write -/

theorem State.noteWrite_sansBooks (s : State) (fn : FnId) (l : Nat) (fs : List Field) (a : Acc) (v : Word) (no : Field → Bool) :
    (s.noteWrite fn l fs a v no).sansBooks = s.sansBooks := by
  unfold State.noteWrite
  split_ifs <;> simp only [State.logAccess_sansBooks]

section
variable (s : State) (fn : FnId) (l : Nat) {o : Nat} (fs : List Field) (a : Acc) (v : Word) (no : Field → Bool)

theorem State.wordWrite_reg_self (fn : FnId) (l o : Nat) :
    (s.wordWrite fn l o fs a v no).reg o = mergeWrite fs (s.reg o) a v no := by
  have hset : ((s.noteWrite fn l fs a v no).setReg o (mergeWrite fs (s.reg o) a v no)).reg o = mergeWrite fs (s.reg o) a v no :=
    (State.reg_setReg _ _ _ _).trans (if_pos rfl)
  unfold State.wordWrite
  dsimp only
  split
  · exact hset
  · exact hset

theorem State.wordWrite_reg_other {p : Nat} (hp : p ≠ o) (hm : p ≠ oMEL_PTR) : (s.wordWrite fn l o fs a v no).reg p = s.reg p := by
  have hset : ((s.noteWrite fn l fs a v no).setReg o (mergeWrite fs (s.reg o) a v no)).reg p = s.reg p :=
    ((State.reg_setReg _ _ _ _).trans (if_neg hp)).trans (State.noteWrite_reg s fn l fs a v no hm)
  unfold State.wordWrite
  dsimp only
  split
  · exact hset
  · exact hset

end

theorem State.countWrite_reg (s : State) (fn : FnId) (o : Nat) : (s.countWrite fn).reg o = s.reg o := rfl

end Sys2Proof.Machine
end

section
/-! PROOFS. The upkeep of channels: refresh, self-refresh, tithe slots and channel registers (R158, R206 to R210, R214). -/

namespace Sys2Proof.Machine

/-! ### Refresh -/

theorem tabGet_tabModAll {α : Type} [DecidableEq α] (d : Nat → α) (f : Nat → α → α) {ks : List Nat} (hn : ks.Nodup) (m : Tab α)
    (j : Nat) : tabGet d j (tabModAll d ks f m) = if j ∈ ks then f j (tabGet d j m) else tabGet d j m := by
  induction ks generalizing m with
  | nil => rfl
  | cons k ks ih =>
    obtain ⟨hk, hks⟩ := List.nodup_cons.mp hn
    refine (ih hks (tabMod d k (f k) m)).trans ?_
    by_cases hj : j = k
    · subst hj
      rw [if_neg hk, if_pos List.mem_cons_self, tabMod, tabGet_tabSet, if_pos rfl]
    · have hget : tabGet d j (tabMod d k (f k) m) = tabGet d j m := by rw [tabMod, tabGet_tabSet, if_neg hj]
      simp only [hget, List.mem_cons, hj, false_or]

/-- The channels of a stack. -/
def stackChans (k : Fin 8) : List Nat := (List.range 32).map (fun i => 32 * k.val + i)

theorem stackChans_nodup (k : Fin 8) : (stackChans k).Nodup :=
  List.Nodup.map (fun _ _ h => Nat.add_left_cancel h) List.nodup_range

theorem mem_stackChans {k : Fin 8} {n : Nat} : n ∈ stackChans k ↔ n / 32 = k.val := by
  simp only [stackChans, List.mem_map, List.mem_range]
  constructor
  · rintro ⟨i, hi, rfl⟩
    omega
  · intro h
    exact ⟨n % 32, by omega, by omega⟩

theorem refresh_completes {s : State} (ha : s.alive = true) (k : Fin 8) :
    Completes (.refresh k) s (fun t =>
      t = { s with chans := t.chans } ∧
      ∀ n : ChanId, t.chan n = if n.val / 32 = k.val then { s.chan n with openBanks := [] } else s.chan n) := by
  have he : exec (.refresh k) s = .next { s with
      chans := tabModAll (fun _ => {}) (stackChans k) (fun _ c => { c with openBanks := [] }) s.chans } := by
    show execRefresh k s = _
    rw [execRefresh]
    exact whenever_of_alive ha rfl _
  have hget (n : ChanId) := tabGet_tabModAll (fun _ => ({} : Chan)) (fun _ c => { c with openBanks := [] }) (stackChans_nodup k)
    s.chans n.val
  simp only [mem_stackChans] at hget
  generalize tabModAll (fun _ => ({} : Chan)) (stackChans k) (fun _ c => { c with openBanks := [] }) s.chans = cs at he hget
  exact completes_of_eq he ⟨rfl, hget⟩

/-! ### A sample that moves nothing -/

theorem setBits_getBits (w : Word) (hi lo : Nat) : setBits w hi lo (getBits w hi lo) = w := by
  refine BitVec.eq_of_getLsbD_eq fun i hi64 => ?_
  rw [setBits_getLsbD _ _ _ _ _ hi64]
  split_ifs with h
  · rw [getBits_testBit, decide_eq_true (by omega), Bool.true_and, Nat.add_sub_cancel' h.1]
  · rfl

/-- The two states have the same words in their registers, and differ in nothing else. -/
def State.SameWords (s t : State) : Prop := (∀ o, t.reg o = s.reg o) ∧ t = { s with regs := t.regs }

theorem State.SameWords.refl (s : State) : s.SameWords s := ⟨fun _ => rfl, rfl⟩

theorem State.SameWords.trans {s t u : State} (h : s.SameWords t) (k : t.SameWords u) : s.SameWords u := by
  obtain ⟨hr, hs⟩ := h
  obtain ⟨kr, ks⟩ := k
  refine ⟨fun o => (kr o).trans (hr o), ?_⟩
  rw [hs] at ks
  exact ks

theorem State.SameWords.setFld_self {s t : State} (h : s.SameWords t) (o hi lo : Nat) :
    s.SameWords (t.setFld o hi lo (s.fld o hi lo)) := by
  refine h.trans ⟨fun p => ?_, rfl⟩
  rw [State.reg_setFld]
  split_ifs with hp
  · rw [hp, State.fld, ← h.1 o, setBits_getBits]
  · rfl

/-- The sample of nine lanes that measures no move. -/
def stillSample : DriftSample := List.replicate 9 (1, 1)

theorem stillSample_lane (k : Nat) : stillSample[k]?.getD (1, 1) = (1, 1) := by
  rw [stillSample, List.getElem?_replicate]
  split_ifs <;> rfl

theorem moveDelay_still (load now : Nat) : moveDelay load now 1 = (now, false) := by
  rw [moveDelay]
  exact (if_neg (by decide)).trans (if_neg (by decide))

theorem State.moveLane_still (s : State) (n : ChanId) (k : Nat) :
    s.moveLane n k (1, 1) = ((s.setFld (oDLY_LANE n k) 22 16 (s.fld (oDLY_LANE n k) 22 16)).setFld (oDLY_LANE n k) 30 24
      (s.fld (oDLY_LANE n k) 30 24), false) := by
  rw [State.moveLane]
  simp only [moveDelay_still]
  rfl

/-- One lane of a still sample. -/
def stillLane (n : ChanId) (r : State × Bool) (k : Nat) : State × Bool :=
  let x := r.1.moveLane n k (stillSample[k]?.getD (1, 1))
  (x.1, r.2 || x.2)

theorem stillLane_same {s : State} {n : ChanId} {r : State × Bool} (k : Nat) (h : s.SameWords r.1) (hr : r.2 = false) :
    s.SameWords (stillLane n r k).1 ∧ (stillLane n r k).2 = false := by
  rw [stillLane, stillSample_lane, State.moveLane_still, hr]
  exact ⟨h.trans (((State.SameWords.refl r.1).setFld_self _ _ _).setFld_self _ _ _), rfl⟩

theorem stillLanes_same {s : State} {n : ChanId} (ks : List Nat) {r : State × Bool} (h : s.SameWords r.1) (hr : r.2 = false) :
    s.SameWords (ks.foldl (stillLane n) r).1 ∧ (ks.foldl (stillLane n) r).2 = false := by
  induction ks generalizing r with
  | nil => exact ⟨h, hr⟩
  | cons k ks ih =>
    obtain ⟨hs, hb⟩ := stillLane_same k h hr
    exact ih hs hb

/-- A still sample clears the drift bit and moves nothing. -/
theorem State.calibrate_still (s : State) (n : ChanId) :
    ∃ t, s.SameWords t ∧ s.calibrate n stillSample = t.setFld (oCH_STAT n) 2 2 0 := by
  obtain ⟨hsame, hheld⟩ := stillLanes_same (n := n) (List.range 9) (State.SameWords.refl s) (r := (s, false)) rfl
  have hcal : s.calibrate n stillSample =
      (let r := (List.range 9).foldl (stillLane n) (s, false)
      let u := r.1.setFld (oCH_STAT n) 2 2 (boolNat r.2)
      if r.2 && !s.bit (oCH_STAT n) 2 then u.logChan n 6 0 0 (srcScrub n).toNat 0 else u) := rfl
  generalize (List.range 9).foldl (stillLane n) (s, false) = r at hsame hheld hcal
  refine ⟨r.1, hsame, hcal.trans ?_⟩
  dsimp only
  rw [hheld]
  rfl

/-! ### Self-refresh -/

theorem selfRefreshEntry_completes {s : State} {n : ChanId} (ha : s.alive = true) (hp : s.pstate n = 1)
    (hdis : s.bit (oCH_CTL n) 1 = false) (hq : (s.chan n).queue = []) (hm : (s.chan n).mode = .memory) :
    Completes (.selfRefreshEntry n) s (fun t =>
      t.pstate n = 2 ∧ t = { s with regs := t.regs } ∧ ∀ o, o ≠ oCH_STAT n → t.reg o = s.reg o) := by
  have hgo : (s.pstate n == 1 && !s.bit (oCH_CTL n) 1 && (s.chan n).queue.isEmpty && decide ((s.chan n).mode = .memory)) = true := by
    rw [hp, hdis, hq, hm]
    rfl
  have he : exec (.selfRefreshEntry n) s = .next (s.setFld (oCH_STAT n) 1 0 2) := whenever_of_alive ha hgo _
  refine completes_of_eq he ⟨State.fld_setFld_self _ _ _ _ _ (by decide), rfl, fun o ho => ?_⟩
  rw [State.reg_setFld, if_neg ho]

theorem State.SameWords.fld {s t : State} (h : s.SameWords t) (o hi lo : Nat) : t.fld o hi lo = s.fld o hi lo :=
  State.fld_of_reg (h.1 o) hi lo

theorem State.SameWords.rest {s t : State} (h : s.SameWords t) {α : Type} (f : State → α)
    (hf : ∀ s : State, ∀ r, f { s with regs := r } = f s := by exact fun _ _ => rfl) : f t = f s := by
  rw [h.2]
  exact hf _ _

theorem laneOffset_ne_stat (n k : Nat) : oDLY_LANE n k ≠ oCH_STAT n := by
  simp only [oDLY_LANE, oCH_STAT, oCH]
  omega

theorem selfRefreshExit_completes {s : State} {n : ChanId} (ha : s.alive = true) (hp : s.pstate n = 3) :
    Completes (.selfRefreshExit n (List.replicate 9 (1, 1))) s (fun t =>
      t.pstate n = 1 ∧ t.bit (oCH_STAT n) 2 = false ∧ t.mem = s.mem ∧
      ∀ k, k < 9 → t.fld (oDLY_LANE n k) 22 16 = s.fld (oDLY_LANE n k) 22 16 ∧
        t.fld (oDLY_LANE n k) 30 24 = s.fld (oDLY_LANE n k) 30 24) := by
  obtain ⟨u, hu, hcal⟩ := (s.setFld (oCH_STAT n) 1 0 1).calibrate_still n
  have he : exec (.selfRefreshExit n stillSample) s = .next (u.setFld (oCH_STAT n) 2 2 0) := by
    refine (checked_of_wf (i := .selfRefreshExit n stillSample) (n := "SELF_REFRESH_EXIT") rfl).trans ?_
    rw [hcal]
    exact whenever_of_alive ha (beq_iff_eq.mpr hp) _
  have hlane (k hi lo : Nat) : (u.setFld (oCH_STAT n) 2 2 0).fld (oDLY_LANE n k) hi lo = s.fld (oDLY_LANE n k) hi lo := by
    rw [State.fld_setFld_other _ _ _ _ _ _ _ _ (laneOffset_ne_stat n k), hu.fld,
      State.fld_setFld_other _ _ _ _ _ _ _ _ (laneOffset_ne_stat n k)]
  refine completes_of_eq he ⟨?_, ?_, hu.rest State.mem, fun k _ => ⟨hlane k _ _, hlane k _ _⟩⟩
  · rw [State.pstate, State.fld_setFld_apart _ _ _ _ _ _ _ (by decide) (by decide), hu.fld,
      State.fld_setFld_self _ _ _ _ _ (by decide)]
    rfl
  · rw [State.bit, State.fld_setFld_self _ _ _ _ _ (by decide)]
    rfl

/-! ### The tithe slot -/

/-- On a channel without erroneous lines the scrub reads and changes nothing. -/
theorem State.scrubOne_sound {s : State} (h : s.lineErr = []) (n : ChanId) (line : Nat) : s.scrubOne n line = s := by
  have he : s.errorsIn line = 0 := by
    rw [State.errorsIn, h]
    rfl
  simp only [State.scrubOne, State.readLine_sound he, if_pos he]
  exact if_neg Bool.false_ne_true

theorem State.scrubLines_sound {s : State} (h : s.lineErr = []) (n : ChanId) (l : Nat → Nat) (ks : List Nat) :
    ks.foldl (fun t k => t.scrubOne n (l k)) s = s := by
  induction ks with
  | nil => rfl
  | cons k ks ih => rw [List.foldl_cons, State.scrubOne_sound h, ih]

theorem State.fld_modChan (s : State) (n : ChanId) (f : Chan → Chan) (o hi lo : Nat) : (s.modChan n f).fld o hi lo = s.fld o hi lo :=
  State.fld_of_reg (congrArg (tabGet regReset o) (rfl : (s.modChan n f).regs = s.regs)) hi lo

theorem pairLines_le (n : ChanId) : 16 * pairLines n ≤ 2 ^ 25 := by
  rw [pairLines]
  split_ifs <;> decide

/-- Where the scrub goes on, and where it starts again. -/
theorem State.scrub_sound {s : State} (h : s.lineErr = []) (n : ChanId) {i : Nat} (hi : s.fld (oSCRUB_STAT n) 24 0 = i) :
    (s.scrub n).mem = s.mem ∧ ((s.scrub n).chan n).deferrals = (s.chan n).deferrals ∧
      (s.scrub n).fld (oSCRUB_STAT n) 24 0 = (if i + 8 < 16 * pairLines n then i + 8 else 0) ∧
      (s.scrub n).fld (oSCRUB_STAT n) 63 32 =
        (if i + 8 < 16 * pairLines n then s.fld (oSCRUB_STAT n) 63 32 else (s.fld (oSCRUB_STAT n) 63 32 + 1) % 2 ^ 32) := by
  have hu : s.scrub n = if i + 8 < 16 * pairLines n then (s.modChan n (fun c => { c with barred := c.barred - 8 })).setFld
        (oSCRUB_STAT n) 24 0 (i + 8)
      else (((s.modChan n (fun c => { c with barred := c.barred - 8 })).setFld (oSCRUB_STAT n) 24 0 0).incFld
        (oSCRUB_STAT n) 63 32 1).modChan n (fun c => { c with rowErrors := [] }) := by
    have hlines := State.scrubLines_sound h n (fun k => scrubLine n (i + k)) (List.range 8)
    show (if s.fld (oSCRUB_STAT n) 24 0 + 8 < 16 * pairLines n then _ else _) = _
    rw [hi, hlines]
  have hdef (u : State) (f : Chan → Chan) (hf : ∀ c, (f c).deferrals = c.deferrals) :
      ((u.modChan n f).chan n).deferrals = (u.chan n).deferrals := by
    rw [State.chan_modChan, if_pos rfl, hf]
  have hle := pairLines_le n
  rw [hu]
  by_cases hi : i + 8 < 16 * pairLines n
  · simp only [if_pos hi]
    refine ⟨rfl, ?_, ?_, ?_⟩
    · exact hdef s (fun c => { c with barred := c.barred - 8 }) fun _ => rfl
    · rw [State.fld_setFld_self _ _ _ _ _ (by decide)]
      exact Nat.mod_eq_of_lt (by omega)
    · rw [State.fld_setFld_apart _ _ _ _ _ _ _ (by decide) (by decide), State.fld_modChan]
  · simp only [if_neg hi]
    refine ⟨rfl, ?_, ?_, ?_⟩
    · exact (hdef _ (fun c => { c with rowErrors := [] }) fun _ => rfl).trans (hdef s (fun c => { c with barred := c.barred - 8 }) fun _ => rfl)
    · rw [State.fld_modChan, State.incFld, State.fld_setFld_apart _ _ _ _ _ _ _ (by decide) (by decide),
        State.fld_setFld_self _ _ _ _ _ (by decide), Nat.zero_mod]
    · rw [State.fld_modChan, State.fld_incFld_self _ _ _ _ _ (by decide), State.fld_setFld_apart _ _ _ _ _ _ _ (by decide) (by decide), State.fld_modChan]

/-- A tithe slot of an active channel with a still sample. -/
theorem exec_titheSlot {s : State} {n : ChanId} (ha : s.alive = true) (hp : s.pstate n = 1) :
    exec (.titheSlot n stillSample []) s = .next
      (let c := s.chan n
       let t := if c.mode.switching then s else s.calibrate n stillSample
       if !c.queue.isEmpty && decide (c.deferrals < 16) && decide (c.mode ≠ .processor) then
         (t.incFld (oTM_SCRUB_DEFER n) 63 0 1).modChan n (fun k => { k with deferrals := k.deferrals + 1 })
       else if c.mode.switching then t
       else
         let u := t.modChan n (fun k => { k with deferrals := 0 })
         if c.copies.isEmpty then u.scrub n else u) := by
  refine (checked_of_wf (i := .titheSlot n stillSample []) (n := "TITHE_SLOT") rfl).trans ?_
  exact whenever_of_alive ha (beq_iff_eq.mpr hp) _

/-- The state a slot works on: that of before, but for the drift bit. -/
theorem State.sampled (s : State) (n : ChanId) (b : Bool) :
    let t := if b then s else s.calibrate n stillSample
    t.mem = s.mem ∧ t.chans = s.chans ∧ t.lineErr = s.lineErr ∧
      ∀ o, o ≠ oCH_STAT n → ∀ hi lo, t.fld o hi lo = s.fld o hi lo := by
  cases b with
  | true => exact ⟨rfl, rfl, rfl, fun _ _ _ _ => rfl⟩
  | false =>
    obtain ⟨u, hu, hcal⟩ := s.calibrate_still n
    rw [if_neg Bool.false_ne_true, hcal]
    refine ⟨hu.rest State.mem, hu.rest State.chans, hu.rest State.lineErr, fun o ho hi lo => ?_⟩
    rw [State.fld_setFld_other _ _ _ _ _ _ _ _ ho, hu.fld]

theorem State.chan_congr {s t : State} (h : t.chans = s.chans) (n : ChanId) : t.chan n = s.chan n := by
  rw [State.chan, State.chan, h]

/-- The scrub of a slot, once the deferrals are back at zero. -/
theorem State.scrub_undeferred {t : State} (hlerr : t.lineErr = []) (n : ChanId) {i : Nat} (hi : t.fld (oSCRUB_STAT n) 24 0 = i) :
    let u := (t.modChan n (fun k => { k with deferrals := 0 })).scrub n
    (u.chan n).deferrals = 0 ∧ u.mem = t.mem ∧
      u.fld (oSCRUB_STAT n) 24 0 = (if i + 8 < 16 * pairLines n then i + 8 else 0) ∧
      u.fld (oSCRUB_STAT n) 63 32 =
        (if i + 8 < 16 * pairLines n then t.fld (oSCRUB_STAT n) 63 32 else (t.fld (oSCRUB_STAT n) 63 32 + 1) % 2 ^ 32) := by
  have hl : (t.modChan n (fun k => { k with deferrals := 0 })).lineErr = [] := hlerr
  have hf : (t.modChan n (fun k => { k with deferrals := 0 })).fld (oSCRUB_STAT n) 24 0 = i := (State.fld_modChan _ _ _ _ _ _).trans hi
  obtain ⟨h1, h2, h3, h4⟩ := State.scrub_sound hl n hf
  have hd : ((t.modChan n (fun k => { k with deferrals := 0 })).chan n).deferrals = 0 := by
    rw [State.chan_modChan, if_pos rfl]
  rw [State.fld_modChan] at h4
  exact ⟨h2.trans hd, h1, h3, h4⟩

section
variable {s : State} {n : ChanId} (ha : s.alive = true) (hp : s.pstate n = 1)
include ha hp

theorem titheSlot_defers (hq : (s.chan n).queue ≠ []) (hd : (s.chan n).deferrals < 16) (hm : (s.chan n).mode ≠ .processor) :
    Completes (.titheSlot n stillSample []) s (fun t =>
      (t.chan n).deferrals = (s.chan n).deferrals + 1 ∧
      t.fld (oTM_SCRUB_DEFER n) 63 0 = (s.fld (oTM_SCRUB_DEFER n) 63 0 + 1) % 2 ^ 64 ∧
      t.fld (oSCRUB_STAT n) 24 0 = s.fld (oSCRUB_STAT n) 24 0 ∧ t.mem = s.mem) := by
  have hgo : (!(s.chan n).queue.isEmpty && decide ((s.chan n).deferrals < 16) && decide ((s.chan n).mode ≠ .processor)) = true := by
    simp [hq, hd, hm]
  have he := exec_titheSlot ha hp
  dsimp only at he
  rw [if_pos hgo] at he
  obtain ⟨hmem, hchans, _, hfld⟩ := s.sampled n (s.chan n).mode.switching
  generalize (if (s.chan n).mode.switching = true then s else s.calibrate n stillSample) = t at he hmem hchans hfld
  have hs : oTM_SCRUB_DEFER n ≠ oCH_STAT n := by simp only [oTM_SCRUB_DEFER, oCH_STAT, oCH]; omega
  have hs' : oSCRUB_STAT n ≠ oCH_STAT n := by simp only [oSCRUB_STAT, oCH_STAT, oCH]; omega
  have hs'' : oSCRUB_STAT n ≠ oTM_SCRUB_DEFER n := by simp only [oSCRUB_STAT, oTM_SCRUB_DEFER, oCH]; omega
  refine completes_of_eq he ⟨?_, ?_, ?_, hmem⟩
  · rw [State.chan_modChan, if_pos rfl]
    exact congrArg (fun c : Chan => c.deferrals + 1) (State.chan_congr hchans n)
  · refine (State.fld_incFld_self _ _ _ _ _ (by decide)).trans ?_
    rw [hfld _ hs]
  · exact (State.fld_incFld_other hs'' _ _ _ _ _ _).trans (hfld _ hs' _ _)

theorem titheSlot_switching (hq : (s.chan n).queue = [] ∨ 16 ≤ (s.chan n).deferrals)
    (hm : (s.chan n).mode = .toProcessor ∨ (s.chan n).mode = .toMemory) :
    exec (.titheSlot n stillSample []) s = .next s := by
  have hno : (!(s.chan n).queue.isEmpty && decide ((s.chan n).deferrals < 16) && decide ((s.chan n).mode ≠ .processor)) = false := by
    rcases hq with h | h
    · simp [h]
    · simp [Nat.not_lt.mpr h]
  have hsw : (s.chan n).mode.switching = true := by rcases hm with h | h <;> rw [h] <;> rfl
  have he := exec_titheSlot ha hp
  dsimp only at he
  rwa [hno, if_neg Bool.false_ne_true, if_pos hsw, if_pos hsw] at he

theorem titheSlot_scrubs (herr : s.lineErr = []) (hc : (s.chan n).copies = [])
    (hm : ((s.chan n).mode = .memory ∧ ((s.chan n).queue = [] ∨ 16 ≤ (s.chan n).deferrals)) ∨ (s.chan n).mode = .processor) :
    let i := s.fld (oSCRUB_STAT n) 24 0
    Completes (.titheSlot n stillSample []) s (fun t =>
      (t.chan n).deferrals = 0 ∧ t.mem = s.mem ∧
      t.fld (oSCRUB_STAT n) 24 0 = (if i + 8 < 16 * pairLines n then i + 8 else 0) ∧
      t.fld (oSCRUB_STAT n) 63 32 =
        (if i + 8 < 16 * pairLines n then s.fld (oSCRUB_STAT n) 63 32 else (s.fld (oSCRUB_STAT n) 63 32 + 1) % 2 ^ 32)) := by
  intro i
  have hno : (!(s.chan n).queue.isEmpty && decide ((s.chan n).deferrals < 16) && decide ((s.chan n).mode ≠ .processor)) = false := by
    rcases hm with ⟨_, h | h⟩ | h
    · simp [h]
    · simp [Nat.not_lt.mpr h]
    · simp [h]
  have hsw : (s.chan n).mode.switching = false := by rcases hm with ⟨h, _⟩ | h <;> rw [h] <;> rfl
  have he := exec_titheSlot ha hp
  dsimp only at he
  rw [hno, if_neg Bool.false_ne_true, hsw, if_neg Bool.false_ne_true, if_neg Bool.false_ne_true, hc, List.isEmpty_nil, if_pos rfl] at he
  obtain ⟨hmem, _, hlerr, hfld⟩ := s.sampled n false
  rw [if_neg Bool.false_ne_true] at hmem hlerr hfld
  have hs : oSCRUB_STAT n ≠ oCH_STAT n := by simp only [oSCRUB_STAT, oCH_STAT, oCH]; omega
  obtain ⟨h1, h2, h3, h4⟩ := State.scrub_undeferred (hlerr.trans herr) n (hfld _ hs 24 0)
  rw [hfld _ hs 63 32] at h4
  exact completes_of_eq he ⟨h1, h2.trans hmem, h3, h4⟩

end

/-! ### Channel registers -/

/-- The delays of one lane take their loaded values. -/
def loadLane (n : ChanId) (t : State) (k : Nat) : State :=
  (t.setFld (oDLY_LANE n k) 22 16 (t.fld (oDLY_LANE n k) 6 0)).setFld (oDLY_LANE n k) 30 24 (t.fld (oDLY_LANE n k) 14 8)

theorem loadLane_fld (n : ChanId) (t : State) (k : Nat) {o hi lo : Nat} (hhi : hi < 64)
    (ho : o ≠ oDLY_LANE n k ∨ (hi < 16 ∧ hi < 24)) : (loadLane n t k).fld o hi lo = t.fld o hi lo := by
  rw [loadLane]
  by_cases h : o = oDLY_LANE n k
  · subst h
    have hlt : hi < 16 ∧ hi < 24 := ho.resolve_left (· rfl)
    rw [State.fld_setFld_apart _ _ _ _ _ _ _ hhi (.inl hlt.2), State.fld_setFld_apart _ _ _ _ _ _ _ hhi (.inl hlt.1)]
  · rw [State.fld_setFld_other _ _ _ _ _ _ _ _ h, State.fld_setFld_other _ _ _ _ _ _ _ _ h]

theorem fld_mod_width (s : State) (o hi lo : Nat) : s.fld o hi lo % 2 ^ (hi + 1 - lo) = s.fld o hi lo := by
  rw [State.fld, getBits_eq, Nat.mod_mod]

theorem loadLane_self (n : ChanId) (t : State) (k : Nat) :
    (loadLane n t k).fld (oDLY_LANE n k) 22 16 = t.fld (oDLY_LANE n k) 6 0 ∧
      (loadLane n t k).fld (oDLY_LANE n k) 30 24 = t.fld (oDLY_LANE n k) 14 8 := by
  rw [loadLane]
  constructor
  · rw [State.fld_setFld_apart _ _ _ _ _ _ _ (by decide) (by decide), State.fld_setFld_self _ _ _ _ _ (by decide)]
    exact fld_mod_width t _ 6 0
  · rw [State.fld_setFld_self _ _ _ _ _ (by decide)]
    exact fld_mod_width t _ 14 8

theorem loadLanes_fld (n : ChanId) (ks : List Nat) (t : State) {o hi lo : Nat} (hhi : hi < 64)
    (ho : (∀ k ∈ ks, o ≠ oDLY_LANE n k) ∨ (hi < 16 ∧ hi < 24)) : (ks.foldl (loadLane n) t).fld o hi lo = t.fld o hi lo := by
  induction ks generalizing t with
  | nil => rfl
  | cons k ks ih =>
    rw [List.foldl_cons, ih (loadLane n t k) (ho.imp_left fun h j hj => h j (List.mem_cons_of_mem k hj)),
      loadLane_fld n t k hhi (ho.imp_left fun h => h k List.mem_cons_self)]

theorem loadLanes_loaded (n : ChanId) {ks : List Nat} (hn : ks.Nodup) (t : State) {k : Nat} (hk : k ∈ ks) :
    (ks.foldl (loadLane n) t).fld (oDLY_LANE n k) 22 16 = t.fld (oDLY_LANE n k) 6 0 ∧
      (ks.foldl (loadLane n) t).fld (oDLY_LANE n k) 30 24 = t.fld (oDLY_LANE n k) 14 8 := by
  induction ks generalizing t with
  | nil => exact absurd hk List.not_mem_nil
  | cons j ks ih =>
    obtain ⟨hj, hks⟩ := List.nodup_cons.mp hn
    rw [List.foldl_cons]
    rcases List.mem_cons.mp hk with rfl | hk
    · have hout : ∀ i ∈ ks, oDLY_LANE n k ≠ oDLY_LANE n i := by
        intro i hi he
        have : k = i := by simp only [oDLY_LANE, oCH] at he; omega
        exact hj (this ▸ hi)
      rw [loadLanes_fld n ks _ (by decide) (.inl hout), loadLanes_fld n ks _ (by decide) (.inl hout)]
      exact loadLane_self n t k
    · obtain ⟨h1, h2⟩ := ih hks (loadLane n t j) hk
      exact ⟨h1.trans (loadLane_fld n t j (by decide) (.inr (by decide))),
        h2.trans (loadLane_fld n t j (by decide) (.inr (by decide)))⟩

/-- A channel that is enabled is active with its delays at their loaded values. -/
theorem State.enableChan_fld (s : State) (n : ChanId) :
    (s.enableChan n).pstate n = 1 ∧
      (∀ i, (s.enableChan n).bit (oCH_CTL n) i = s.bit (oCH_CTL n) i ∨ 64 ≤ i) ∧
      ∀ k, k < 9 → (s.enableChan n).fld (oDLY_LANE n k) 22 16 = s.fld (oDLY_LANE n k) 6 0 ∧
        (s.enableChan n).fld (oDLY_LANE n k) 30 24 = s.fld (oDLY_LANE n k) 14 8 := by
  have hshape : s.enableChan n = ((List.range 9).foldl (loadLane n) s).setFld (oCH_STAT n) 1 0 1 := rfl
  have hctl : ∀ k ∈ List.range 9, oCH_CTL n ≠ oDLY_LANE n k := by
    intro k _
    simp only [oCH_CTL, oDLY_LANE, oCH]
    omega
  have hload {k : Nat} (hk : k < 9) := loadLanes_loaded n List.nodup_range s (List.mem_range.mpr hk)
  have hkeep (i : Nat) (hi : i < 64) := loadLanes_fld n (List.range 9) s (o := oCH_CTL n) (lo := i) hi (.inl hctl)
  rw [hshape]
  generalize (List.range 9).foldl (loadLane n) s = t at hload hkeep
  have hstat : oCH_CTL n ≠ oCH_STAT n := by simp only [oCH_CTL, oCH_STAT, oCH]; omega
  refine ⟨State.fld_setFld_self _ _ _ _ _ (by decide), fun i => ?_, fun k hk => ?_⟩
  · by_cases hi : i < 64
    · left
      rw [State.bit, State.bit, State.fld_setFld_other _ _ _ _ _ _ _ _ hstat, hkeep i hi]
    · exact .inr (Nat.le_of_not_lt hi)
  · rw [State.fld_setFld_other _ _ _ _ _ _ _ _ (laneOffset_ne_stat n k),
      State.fld_setFld_other _ _ _ _ _ _ _ _ (laneOffset_ne_stat n k)]
    exact hload hk

theorem chanFields_rw (b : Bool) : ∀ f ∈ [rw 0 0, rw 1 1], f.accepted (fieldIf b [0]) = true → f.access = .rw := by
  intro f hf _
  simp only [List.mem_cons, List.not_mem_nil, or_false] at hf
  rcases hf with rfl | rfl <;> rfl

/-- The bits of CH_CTL after a write of the whole register. -/
theorem State.wordWrite_CH_CTL (s : State) (n : ChanId) (l : Nat) (v : Word) (b : Bool) {i : Nat} (hi : i < 2) :
    (s.wordWrite 0 l (oCH_CTL n) (fieldsAt (oCH_CTL n)) .full v (fieldIf b [0])).bit (oCH_CTL n) i =
      if b = true ∧ i = 0 then s.bit (oCH_CTL n) 0 else v.getLsbD i := by
  rw [State.bit_eq_getLsbD, State.wordWrite_reg_self, fieldsAt_CH_CTL, mergeWrite_getLsbD (chanFields_rw b) _ _ (by omega),
    State.bit_eq_getLsbD]
  rcases (by omega : i = 0 ∨ i = 1) with rfl | rfl <;> cases b <;> rfl

theorem State.wordWrite_stat (s : State) (n : ChanId) (l : Nat) (v : Word) (no : Field → Bool) {k : Nat} (hk : k < 0x1000)
    (h0 : k ≠ 0) (fs : List Field) (hi lo : Nat) :
    (s.wordWrite 0 l (oCH_CTL n) fs .full v no).fld (oCH n k) hi lo = s.fld (oCH n k) hi lo := by
  refine State.fld_of_reg (State.wordWrite_reg_other (s := s) (fn := 0) (l := l) (fs := fs) (a := .full) (v := v) (no := no) ?_ ?_) hi lo
  · simp only [oCH_CTL, oCH]
    omega
  · simp only [oMEL_PTR, oCH]
    omega

/-- A write of CH_CTL to the whole register clears EN of an enabled channel: it is refused. -/
def State.clearsEn (s : State) (n : ChanId) (v : Word) : Bool := s.chEnabled n && Acc.full != .hi && !v.getLsbD 0

/-- What follows the write of CH_CTL. -/
def State.afterCtl (s : State) (n : ChanId) (t : State) : State :=
  let u := if !s.chEnabled n && t.chEnabled n then t.enableChan n else t
  if !s.bit (oCH_CTL n) 1 && u.bit (oCH_CTL n) 1 && u.pstate n == 2 then u.setFld (oCH_STAT n) 1 0 3 else u

/-- The write of CH_CTL itself. -/
def State.ctlWritten (s : State) (n : ChanId) (v : Word) : State :=
  s.wordWrite 0 (oCH_CTL n) (oCH_CTL n) (fieldsAt (oCH_CTL n)) .full v (fieldIf (s.clearsEn n v) [0])

theorem State.ctlWritten_bit (s : State) (n : ChanId) (v : Word) {i : Nat} (hi : i < 2) :
    (s.ctlWritten n v).bit (oCH_CTL n) i = if s.clearsEn n v = true ∧ i = 0 then s.bit (oCH_CTL n) 0 else v.getLsbD i :=
  s.wordWrite_CH_CTL n _ v _ hi

theorem State.ctlWritten_lane (s : State) (n : ChanId) (v : Word) {k : Nat} (hk : k < 9) (hi lo : Nat) :
    (s.ctlWritten n v).fld (oDLY_LANE n k) hi lo = s.fld (oDLY_LANE n k) hi lo :=
  s.wordWrite_stat n _ v _ (by omega) (by omega) _ hi lo

theorem State.ctlWritten_mem (s : State) (n : ChanId) (v : Word) : (s.ctlWritten n v).mem = s.mem := State.wordWrite_mem ..

theorem State.afterCtl_enables {s t : State} {n : ChanId} (hen : s.chEnabled n = false) (h0 : t.chEnabled n = true)
    (h1 : t.bit (oCH_CTL n) 1 = false) : s.afterCtl n t = t.enableChan n := by
  obtain ⟨-, hkeep, -⟩ := t.enableChan_fld n
  have hkept := (hkeep 1).resolve_right (by decide)
  have hgo : (!s.chEnabled n && t.chEnabled n) = true := by rw [hen, h0]; rfl
  rw [State.afterCtl, if_pos hgo]
  generalize t.enableChan n = u at hkept
  rw [hkept, h1, Bool.and_false, Bool.false_and]
  exact if_neg Bool.false_ne_true

theorem State.afterCtl_of_enabled {s t : State} {n : ChanId} (hen : s.chEnabled n = true)
    (h1 : t.bit (oCH_CTL n) 1 = false) : s.afterCtl n t = t := by
  have hno : (!s.chEnabled n && t.chEnabled n) = false := by rw [hen]; rfl
  rw [State.afterCtl, hno, if_neg Bool.false_ne_true, h1, Bool.and_false, Bool.false_and]
  exact if_neg Bool.false_ne_true

theorem chCtl_completes {s u : State} {n : ChanId} {v : Word}
    (he : exec (.chCtlWrite 0 n .full v) s = .next (u.countWrite 0)) (h0 : u.chEnabled n = true) (hst : u.pstate n = 1)
    (hload : ∀ k, k < 9 → u.fld (oDLY_LANE n k) 22 16 = s.fld (oDLY_LANE n k) 6 0 ∧
      u.fld (oDLY_LANE n k) 30 24 = s.fld (oDLY_LANE n k) 14 8) (hmem : u.mem = s.mem) :
    Completes (.chCtlWrite 0 n .full v) s (fun t =>
      t.chEnabled n = true ∧ t.pstate n = 1 ∧
      (∀ k, k < 9 → t.fld (oDLY_LANE n k) 22 16 = s.fld (oDLY_LANE n k) 6 0 ∧
        t.fld (oDLY_LANE n k) 30 24 = s.fld (oDLY_LANE n k) 14 8) ∧ t.mem = s.mem) :=
  completes_of_eq he ⟨h0, hst, hload, hmem⟩

section
variable {s : State} {n : ChanId} {v : Word} (ha : s.alive = true) (hc : s.power.configReady = true) (hr : s.ready = true)
include ha hc hr

theorem exec_chCtlWrite : exec (.chCtlWrite 0 n .full v) s = .next ((s.afterCtl n (s.ctlWritten n v)).countWrite 0) := by
  show execChCtlWrite 0 n .full v s = _
  rw [execChCtlWrite, bar0Write_pf0 ha hc hr]
  rfl

theorem chCtlWrite_enables (hen : s.chEnabled n = false) :
    Completes (.chCtlWrite 0 n .full 1) s (fun t =>
      t.chEnabled n = true ∧ t.pstate n = 1 ∧
      (∀ k, k < 9 → t.fld (oDLY_LANE n k) 22 16 = s.fld (oDLY_LANE n k) 6 0 ∧
        t.fld (oDLY_LANE n k) 30 24 = s.fld (oDLY_LANE n k) 14 8) ∧ t.mem = s.mem) := by
  have he := exec_chCtlWrite (n := n) (v := 1) ha hc hr
  have hoff : s.clearsEn n 1 = false := by rw [State.clearsEn, hen]; rfl
  have hb0 : (s.ctlWritten n 1).chEnabled n = true := (s.ctlWritten_bit n 1 (by decide : 0 < 2)).trans (by rw [hoff]; rfl)
  have hb1 : (s.ctlWritten n 1).bit (oCH_CTL n) 1 = false :=
    (s.ctlWritten_bit n 1 (by decide : 1 < 2)).trans (by rw [hoff]; rfl)
  obtain ⟨hst, hkeep, hload⟩ := (s.ctlWritten n 1).enableChan_fld n
  have hmem := ((s.ctlWritten n 1).enableChan_mem n).trans (s.ctlWritten_mem n 1)
  have hlane {k : Nat} (hk : k < 9) (hi lo : Nat) := s.ctlWritten_lane n 1 hk hi lo
  rw [State.afterCtl_enables hen hb0 hb1] at he
  refine chCtl_completes he (((hkeep 0).resolve_right (by decide)).trans hb0) hst (fun k hk => ?_) hmem
  obtain ⟨h1, h2⟩ := hload k hk
  exact ⟨h1.trans (hlane hk _ _), h2.trans (hlane hk _ _)⟩

theorem chCtlWrite_refuses (hen : s.chEnabled n = true) :
    Completes (.chCtlWrite 0 n .full 0) s (fun t =>
      t.chEnabled n = true ∧ t.bit (oCH_CTL n) 1 = false ∧ t.mem = s.mem) := by
  have he := exec_chCtlWrite (n := n) (v := 0) ha hc hr
  have hoff : s.clearsEn n 0 = true := by rw [State.clearsEn, hen]; rfl
  have hb0 : (s.ctlWritten n 0).chEnabled n = true := (s.ctlWritten_bit n 0 (by decide : 0 < 2)).trans (by rw [hoff]; exact hen)
  have hb1 : (s.ctlWritten n 0).bit (oCH_CTL n) 1 = false :=
    (s.ctlWritten_bit n 0 (by decide : 1 < 2)).trans (by rw [hoff]; rfl)
  rw [State.afterCtl_of_enabled hen hb1] at he
  exact completes_of_eq he ⟨hb0, hb1, s.ctlWritten_mem n 0⟩

theorem elogPtrWrite_completes (hv : v.toNat < 128) :
    Completes (.elogPtrWrite 0 n .full v) s (fun t =>
      t.fld (oELOG_PTR n) 6 0 = v.toNat ∧ t.fld (oELOG_PTR n) 14 8 = s.fld (oELOG_PTR n) 14 8 ∧
      (∀ o, o ≠ oELOG_PTR n → t.reg o = s.reg o) ∧ t.mem = s.mem) := by
  have hrw : ∀ f ∈ [rw 6 0, ro 14 8, rc 31 16], f.accepted noField = true → f.access = .rw := by
    intro f hf ha
    simp only [List.mem_cons, List.not_mem_nil, or_false] at hf
    rcases hf with rfl | rfl | rfl
    · rfl
    · exact absurd ha (by decide)
    · exact absurd ha (by decide)
  have hnote : s.noteWrite 0 (oELOG_PTR n) [rw 6 0, ro 14 8, rc 31 16] .full v noField = s :=
    s.noteWrite_silent 0 _ (and_eq_zero_of_lt (v := v) (k := 7) hv (by decide)) (by decide) fun _ _ => Bool.and_false _
  have htab : isTable (oELOG_PTR n) = false := by
    have := n.isLt
    simp only [isTable, oELOG_PTR, oTR_CTL, oHL_CTL, oCH, Bool.or_eq_false_iff, Bool.and_eq_false_iff, decide_eq_false_iff_not,
      beq_eq_false_iff_ne]
    exact ⟨⟨.inr (decide_eq_false (by omega)), by omega⟩, by omega⟩
  have he : exec (.elogPtrWrite 0 n .full v) s = .next ((s.setReg (oELOG_PTR n)
      (mergeWrite [rw 6 0, ro 14 8, rc 31 16] (s.reg (oELOG_PTR n)) .full v noField)).countWrite 0) := by
    show execElogPtrWrite 0 n .full v s = _
    rw [execElogPtrWrite, bar0Write_pf0 ha hc hr, fieldsAt_ELOG_PTR, State.wordWrite_of_not_table s 0 _ htab, hnote]
  have hreg (p : Nat) := State.reg_setReg s (oELOG_PTR n)
    p (mergeWrite [rw 6 0, ro 14 8, rc 31 16] (s.reg (oELOG_PTR n)) .full v noField)
  have hself := (hreg (oELOG_PTR n)).trans (if_pos rfl)
  refine completes_of_eq he ⟨?_, ?_, fun o ho => (hreg o).trans (if_neg ho), rfl⟩
  · refine (congrArg (getBits · 6 0) hself :).trans ((getBits_mergeWrite_held hrw _ _ (by decide) ?_).trans (getBits_of_lt hv))
    intro i _ hi
    interval_cases i <;> rfl
  · refine (congrArg (getBits · 14 8) hself :).trans (getBits_mergeWrite_kept hrw _ _ (by decide) ?_)
    intro i hl hi
    interval_cases i <;> rfl

end

/-- Settles O37: each kind of upkeep in turn. -/
theorem channelUpkeep : Obligations.channelUpkeep := by
  unfold Obligations.channelUpkeep
  refine ⟨fun s k ha => refresh_completes ha k, ?_, ?_, ?_⟩
  · intro s n ha
    exact ⟨fun hp hd hq hm => selfRefreshEntry_completes ha hp hd hq hm, fun hp => selfRefreshExit_completes ha hp⟩
  · intro s n ha hp herr hcop
    exact ⟨fun hq hd hm => titheSlot_defers ha hp hq hd hm, fun hq hm => titheSlot_switching ha hp hq hm,
      fun hm => titheSlot_scrubs ha hp herr hcop hm⟩
  · intro s n v ha hc hr
    refine ⟨fun hen hv => ?_, fun hen hv => ?_, fun hv => elogPtrWrite_completes ha hc hr hv⟩
    · subst hv
      exact chCtlWrite_enables ha hc hr hen
    · subst hv
      exact chCtlWrite_refuses ha hc hr hen

end Sys2Proof.Machine
end

section
/-! PROOFS. Stops of kingposts in their order, and debug halt, resume and step (R36, R37, R40, R42). -/

namespace Sys2Proof.Machine

/-! ### A stop and idle engines -/

/-- An engine without a command that has not stopped is left alone by every stop. -/
theorem State.holdEngine_of_phase {s : State} {c : CoreId} {u : EngineUnit} (hp : ((s.core c).engOf u).phase = .idle)
    (hs : ((s.core c).engOf u).stopped = false) (k : StopKind) : s.holdEngine c k u = s := by
  unfold State.holdEngine
  dsimp only
  rw [hp, hs]
  cases k <;> simp

/-- A core whose engines have no command takes a stop: it stops, and an abort discards its commands. -/
theorem State.takeStop_of_phase {s : State} {c : CoreId}
    (h : ∀ u, ((s.core c).engOf u).phase = .idle ∧ ((s.core c).engOf u).stopped = false) (k : StopKind) :
    OnlyCore c s (s.takeStop c k) ∧
      (s.takeStop c k).core c = { (s.core c).stoppedBy k with queues := if k = .abort then [] else (s.core c).queues } := by
  have hidle (u : EngineUnit) : ((s.modCore c (fun x => x.stoppedBy k)).core c).engOf u = (s.core c).engOf u := by
    rw [State.core_modCore, if_pos rfl]
    rfl
  have hhold (l : List EngineUnit) : l.foldl (fun t u => t.holdEngine c k u) (s.modCore c (fun x => x.stoppedBy k)) =
      s.modCore c (fun x => x.stoppedBy k) := by
    induction l with
    | nil => rfl
    | cons u l ih =>
      rw [List.foldl_cons, State.holdEngine_of_phase (by rw [hidle]; exact (h u).1) (by rw [hidle]; exact (h u).2), ih]
  have hshape : s.takeStop c k = if k = .abort then (s.modCore c (fun x => x.stoppedBy k)).modCore c (fun x => { x with queues := [] })
      else s.modCore c (fun x => x.stoppedBy k) :=
    congrArg (fun t => if k = .abort then State.modCore t c (fun x => { x with queues := [] }) else t) (hhold allUnits)
  have hstopped (d : CoreId) := State.core_modCore s c d (fun x => x.stoppedBy k)
  rw [hshape]
  by_cases hk : k = .abort
  · simp only [if_pos hk]
    refine ⟨⟨rfl, fun d hd => ?_⟩, ?_⟩
    · rw [State.core_modCore, if_neg hd, hstopped, if_neg hd]
    · rw [State.core_modCore, if_pos rfl, hstopped, if_pos rfl]
  · simp only [if_neg hk]
    refine ⟨onlyCore_modCore _ _ _, ?_⟩
    rw [hstopped, if_pos rfl]
    rfl

theorem outranked_of_abort {s : State} {c : CoreId} (h : s.wantsStop c .abort = true) {k : StopKind} (hk : stopRank k < 2) :
    s.nextStop c k = false := by
  have hall : [StopKind.abort, .debugHalt, .preempt].all (fun x => !(decide (stopRank k < stopRank x) && s.wantsStop c x)) = false := by
    refine List.all_eq_false.mpr ⟨.abort, List.mem_cons_self, ?_⟩
    rw [h, decide_eq_true (show stopRank k < stopRank .abort from hk)]
    exact Bool.false_ne_true
  rw [State.nextStop, hall, Bool.and_false]

/-! ### One partition changes -/

theorem State.part_modPart (s : State) (p r : PartId) (f : Part → Part) :
    (s.modPart p f).part r = if r = p then f (s.part p) else s.part r := by
  refine (tabGet_tabSet (d := fun _ => ({} : Part)) p.val r.val (f (s.part p)) s.parts).trans ?_
  simp only [Fin.val_inj]
  rfl

theorem State.part_modPart_self (s : State) (p : PartId) (f : Part → Part) : (s.modPart p f).part p = f (s.part p) := by
  rw [State.part_modPart, if_pos rfl]

/-! ### All cores of a list change alike -/

/-- The cores after each of a list has been changed, as often as the list names it. -/
theorem State.core_foldl_modCore (f : Core → Core) (l : List CoreId) (s : State) (d : CoreId) :
    (l.foldl (fun t c => t.modCore c f) s).core d = f^[l.count d] (s.core d) := by
  induction l generalizing s with
  | nil => rfl
  | cons c l ih =>
    rw [List.foldl_cons, ih, State.core_modCore, List.count_cons]
    by_cases hd : d = c
    · rw [if_pos hd, hd, beq_self_eq_true, if_pos rfl, Function.iterate_succ_apply]
    · rw [if_neg hd, if_neg (by simpa using fun h => hd h.symm), Nat.add_zero]

theorem State.foldl_modCore_rest (f : Core → Core) (l : List CoreId) (s : State) :
    ∃ cs, l.foldl (fun t c => t.modCore c f) s = { s with cores := cs } := by
  induction l generalizing s with
  | nil => exact ⟨s.cores, rfl⟩
  | cons c l ih => exact ih (s.modCore c f)

/-- What a change keeps of a core, any number of the same change keeps. -/
theorem iterate_keeps {α β : Type} {f : α → α} {g : α → β} (h : ∀ x, g (f x) = g x) (n : Nat) (x : α) : g (f^[n] x) = g x := by
  induction n with
  | zero => rfl
  | succ n ih => rw [Function.iterate_succ_apply', h, ih]

/-- What a change always brings about holds after any number of it but none. -/
theorem iterate_brings {α : Type} {f : α → α} {P : α → Prop} (h : ∀ x, P (f x)) {n : Nat} (hn : n ≠ 0) (x : α) : P (f^[n] x) := by
  obtain ⟨m, rfl⟩ := Nat.exists_eq_succ_of_ne_zero hn
  rw [Function.iterate_succ_apply']
  exact h _

/-- A core of a partition that RESUME releases. -/
def Core.resumed (k : Core) : Core :=
  if k.stop = some .debugHalt then { k with haltReq := false, stop := none, stepping := false, stopCause := 0 }
  else { k with haltReq := false, stopReq := if k.stopReq = some .debugHalt then none else k.stopReq }

theorem Core.resumed_programs (k : Core) : (k.resumed.s, k.resumed.pc, k.resumed.bench) = (k.s, k.pc, k.bench) := by
  rw [Core.resumed]
  split_ifs <;> rfl

theorem Core.resumed_released (k : Core) : k.resumed.haltReq = false ∧ k.resumed.stop ≠ some .debugHalt := by
  rw [Core.resumed]
  by_cases h : k.stop = some .debugHalt
  · rw [if_pos h]
    exact ⟨rfl, fun h => nomatch h⟩
  · rw [if_neg h]
    exact ⟨rfl, h⟩

theorem Core.resumed_stop {k : Core} (h : k.stop ≠ some .debugHalt) : k.resumed.stop = k.stop := by
  rw [Core.resumed, if_neg h]

theorem iterate_resumed_stop {k : Core} (h : k.stop ≠ some .debugHalt) (n : Nat) : (Core.resumed^[n] k).stop = k.stop := by
  induction n with
  | zero => rfl
  | succ n ih => rw [Function.iterate_succ_apply', Core.resumed_stop (by rw [ih]; exact h), ih]

theorem triple_eq {α β γ : Type} {a a' : α} {b b' : β} {c c' : γ} (h : (a, b, c) = (a', b', c')) : a = a' ∧ b = b' ∧ c = c' := by
  simpa only [Prod.mk.injEq] using h

section
variable {s : State} {c : CoreId} {p : PartId} (ha : s.alive = true) (hc : s.power.configReady = true) (hr : s.ready = true)
  (hp : s.partOfCore c = some p)
include ha hc hr hp

theorem debugHalt_completes : Completes (.debugHalt 0 c) s (fun t =>
    (t.mem = s.mem ∧ t.regs = s.regs ∧ ∀ d, (t.core d).s = (s.core d).s ∧ (t.core d).pc = (s.core d).pc ∧
      (t.core d).bench = (s.core d).bench) ∧
    (t.part p).halted = true ∧ (∀ d ∈ s.coreList p, (t.core d).haltReq = true) ∧
    ∀ d, d ∉ s.coreList p → t.core d = s.core d) := by
  have he : exec (.debugHalt 0 c) s = .next ((s.haltPart p).countWrite 0) := by
    show debugWrite s 0 c 1 s.haltPart = _
    rw [debugWrite, bar0Write_pf0 ha hc hr, hp]
  have hcore (d : CoreId) := State.core_foldl_modCore (fun k => { k with haltReq := true }) (s.coreList p)
    (s.modPart p (fun q => { q with halted := true })) d
  obtain ⟨cs, hcs⟩ := State.foldl_modCore_rest (fun k => { k with haltReq := true }) (s.coreList p)
    (s.modPart p (fun q => { q with halted := true }))
  have hshape : s.haltPart p = (s.coreList p).foldl (fun t c => t.modCore c (fun k => { k with haltReq := true }))
    (s.modPart p (fun q => { q with halted := true })) := rfl
  rw [hshape, hcs] at he
  rw [hcs] at hcore
  refine completes_of_eq he ⟨⟨rfl, rfl, fun d => ?_⟩, ?_, fun d hd => ?_, fun d hd => ?_⟩
  · exact triple_eq ((congrArg (fun k : Core => (k.s, k.pc, k.bench)) (hcore d)).trans
      (iterate_keeps (f := fun k : Core => { k with haltReq := true }) (g := fun k : Core => (k.s, k.pc, k.bench)) (fun _ => rfl) _ _))
  · exact congrArg Part.halted (State.part_modPart_self s p (fun q => { q with halted := true }))
  · exact (congrArg Core.haltReq (hcore d)).trans
      (iterate_brings (f := fun k : Core => { k with haltReq := true }) (P := fun k : Core => k.haltReq = true) (fun _ => rfl) (by simpa [List.count_eq_zero] using hd) _)
  · refine (hcore d).trans ?_
    rw [List.count_eq_zero.mpr hd]
    rfl

theorem debugResume_completes : Completes (.debugResume 0 c) s (fun t =>
    (t.mem = s.mem ∧ t.regs = s.regs ∧ ∀ d, (t.core d).s = (s.core d).s ∧ (t.core d).pc = (s.core d).pc ∧
      (t.core d).bench = (s.core d).bench) ∧
    (t.part p).halted = false ∧
    (∀ d ∈ s.coreList p, (t.core d).haltReq = false ∧ (t.core d).stop ≠ some .debugHalt ∧
      ((s.core d).stop ≠ some .debugHalt → (t.core d).stop = (s.core d).stop)) ∧
    ∀ d, d ∉ s.coreList p → t.core d = s.core d) := by
  have he : exec (.debugResume 0 c) s = .next ((s.resumePart p).countWrite 0) := by
    show debugWrite s 0 c 2 s.resumePart = _
    rw [debugWrite, bar0Write_pf0 ha hc hr, hp]
  have hshape : s.resumePart p =
      (s.coreList p).foldl (fun t c => t.modCore c Core.resumed) (s.modPart p (fun q => { q with halted := false })) := rfl
  have hcore (d : CoreId) := State.core_foldl_modCore Core.resumed (s.coreList p)
    (s.modPart p (fun q => { q with halted := false })) d
  obtain ⟨cs, hcs⟩ := State.foldl_modCore_rest Core.resumed (s.coreList p) (s.modPart p (fun q => { q with halted := false }))
  rw [hshape, hcs] at he
  rw [hcs] at hcore
  refine completes_of_eq he ⟨⟨rfl, rfl, fun d => ?_⟩, ?_, fun d hd => ?_, fun d hd => ?_⟩
  · exact triple_eq ((congrArg (fun k : Core => (k.s, k.pc, k.bench)) (hcore d)).trans
      (iterate_keeps (g := fun k : Core => (k.s, k.pc, k.bench)) Core.resumed_programs _ _))
  · exact congrArg Part.halted (State.part_modPart_self s p (fun q => { q with halted := false }))
  · have hn : (s.coreList p).count d ≠ 0 := by simpa [List.count_eq_zero] using hd
    obtain ⟨h1, h2⟩ := iterate_brings (P := fun k : Core => k.haltReq = false ∧ k.stop ≠ some .debugHalt)
      Core.resumed_released hn (s.core d)
    exact ⟨(congrArg Core.haltReq (hcore d)).trans h1, fun h => h2 ((congrArg Core.stop (hcore d)).symm.trans h),
      fun h => (congrArg Core.stop (hcore d)).trans (iterate_resumed_stop h _)⟩
  · refine (hcore d).trans ?_
    rw [List.count_eq_zero.mpr hd]
    rfl

omit hp in
theorem debugStep_completes (hh : (s.core c).halted = true) (hrun : (s.core c).run = .running) :
    Completes (.debugStep 0 c) s (fun t =>
      (t.mem = s.mem ∧ t.regs = s.regs ∧ ∀ d, (t.core d).s = (s.core d).s ∧ (t.core d).pc = (s.core d).pc ∧
        (t.core d).bench = (s.core d).bench) ∧
      t.core c = { s.core c with stepping := true } ∧ ∀ d, d ≠ c → t.core d = s.core d) := by
  have he : exec (.debugStep 0 c) s =
      .next ((s.modCore c (fun k => { k with stepping := decide (k.run = .running) })).countWrite 0) := by
    show execDebugStep 0 c s = _
    rw [execDebugStep, bar0Write_pf0 ha hc hr, if_pos hh]
  have hcore (d : CoreId) := State.core_modCore s c d (fun k => { k with stepping := decide (k.run = .running) })
  refine completes_of_eq he ⟨⟨rfl, rfl, fun d => triple_eq ?_⟩, ?_, fun d hd => (hcore d).trans (if_neg hd)⟩
  · refine (congrArg (fun k : Core => (k.s, k.pc, k.bench)) (hcore d)).trans ?_
    split_ifs with hd
    · rw [hd]
    · rfl
  · exact (hcore c).trans ((if_pos rfl).trans (congrArg (fun b => ({ s.core c with stepping := b } : Core)) (decide_eq_true hrun)))

end

theorem exec_stopRequest {s : State} {c : CoreId} {x : StopKind} (ha : s.alive = true) (hn : s.nextStop c x = true) :
    exec (.stopRequest c x) s = .next
      (if (s.core c).wait.isSome then s.modCore c (fun k => { k with stopReq := some x }) else s.takeStop c x) :=
  whenever_of_alive ha hn _

/-- Settles O38: stops in their order, then the three debug commands. -/
theorem stopsAndDebug : Obligations.stopsAndDebug := by
  unfold Obligations.stopsAndDebug
  refine ⟨?_, ?_⟩
  · intro s c x ha k
    refine ⟨fun hn => ?_, fun hw => ⟨outranked_of_abort hw (by decide), outranked_of_abort hw (by decide)⟩, fun hn hw => ?_,
      fun hn hw hidle => ?_⟩
    · show execStopRequest c x s = _
      rw [execStopRequest, hn]
      exact whenever_false _ _
    · have he := exec_stopRequest ha hn
      rw [if_pos hw] at he
      exact completes_of_eq he ⟨onlyCore_modCore _ _ _, by rw [State.core_modCore, if_pos rfl]⟩
    · have he := exec_stopRequest ha hn
      rw [show (s.core c).wait.isSome = false by rw [hw]; rfl, if_neg Bool.false_ne_true] at he
      exact completes_of_eq he (State.takeStop_of_phase hidle x)
  · intro s c p ha hc hr hp kept
    exact ⟨debugHalt_completes ha hc hr hp, debugResume_completes ha hc hr hp, fun hh hrun => debugStep_completes ha hc hr hh hrun⟩

end Sys2Proof.Machine
end

section
/-! PROOFS. Walks of carts, sweeps of translations and the data of carts (R141, R144, R149 to R151, R154, R155). -/

namespace Sys2Proof.Machine

/-! ### The walk of a cart -/

/-- The response to a request that has arrived is taken. -/
def State.sansResp (s : State) (id : Nat) : State := { s with responses := s.responses.filter (fun x => x.req.id != id) }

theorem State.takeResp_of_find {s : State} {id : Nat} {r : MemResp} (h : s.responses.find? (fun r => r.req.id == id) = some r) :
    s.takeResp id = some (r, s.sansResp id) := by
  rw [State.takeResp, h]
  rfl

/-- A walk whose read has returned is over, and leads to what the entry says. -/
def State.walkedOn (s : State) (c : CoreId) (n : Fin 2) (p : PartId) (w : Walk) : WalkRes → State
  | .read w' => s.cartWalkRead c n p w'
  | .fail st en => s.cartXlateFail c n w.va st en
  | .leaf t => (s.modCore c (fun k => { k with tlb := tlbAdd 512 k.tlb w.va t })).cartPump c n

section
variable {s : State} {c : CoreId} {n : Fin 2} {p : PartId} {w : Walk} {r : MemResp} (ha : s.alive = true)
  (hw : ((s.core c).engOf (cartUnit n)).walk = some w) (hp : s.partOf c = some p)
  (hfind : s.responses.find? (fun r => r.req.id == w.id) = some r)
  (he : eReserved (BitVec.ofNat 64 (leNat r.data)) = false)
include ha hw hp hfind he

theorem exec_tableWalkRead : exec (.tableWalkRead (.cart c n)) s = .next
    (((s.sansResp w.id).modEng c (cartUnit n) (fun g => { g with walk := none })).walkedOn c n p w (s.walkOn p w r)) := by
  have hback : s.cartWalkBack c n = (s.sansResp w.id).cartWalkData c n p w r := by
    have hwalk : (s.cartEng c n).walk = some w := hw
    rw [State.cartWalkBack, hwalk, hp]
    simp only [State.takeResp_of_find hfind]
  have hlog (t : State) (q : Nat) (g : Nat) : t.logEntry p q g w.ctx (t.cartEng c n).tag w.va (BitVec.ofNat 64 (leNat r.data)) = t := by
    rw [State.logEntry, he]
    rfl
  have hon : (s.sansResp w.id).walkOn p w r = s.walkOn p w r := rfl
  have hstep : exec (.tableWalkRead (.cart c n)) s = .next (s.cartWalkBack c n) := whenever_of_alive ha rfl _
  rw [hstep, hback, State.cartWalkData]
  simp only [hlog, ite_self, hon]
  cases s.walkOn p w r <;> rfl

theorem tableWalkRead_reads {w' : Walk} (hon : s.walkOn p w r = .read w') :
    Completes (.tableWalkRead (.cart c n)) s (fun t =>
      ((t.core c).engOf (cartUnit n)).walk = some { w' with id := s.nextId } ∧ t.nextId = s.nextId + 1 ∧
      t.inFlight.map (fun x => (x.id, x.src, x.addr, x.kind, x.len)) =
        s.inFlight.map (fun x => (x.id, x.src, x.addr, x.kind, x.len)) ++ [(s.nextId, srcCart c n, w'.entry, .read, 8)] ∧
      (t.core c).tlb = (s.core c).tlb ∧ (t.core c).bench = (s.core c).bench ∧ t.mem = s.mem) := by
  have hx := exec_tableWalkRead ha hw hp hfind he
  rw [hon] at hx
  have hcore : ((((s.sansResp w.id).modEng c (cartUnit n) (fun g => { g with walk := none })).cartWalkRead c n p w').core c) =
      ((s.core c).modEng (cartUnit n) (fun g => { g with walk := none })).modEng (cartUnit n)
        (fun g => { g with walk := some { w' with id := s.nextId } }) := by
    rw [State.cartWalkRead]
    refine (State.core_modEng _ _ _ _ _).trans ((if_pos rfl).trans ?_)
    refine congrArg (fun k : Core => k.modEng (cartUnit n) (fun g => { g with walk := some { w' with id := s.nextId } })) ?_
    exact (State.core_modEng (s.sansResp w.id) c (cartUnit n) _ c).trans (if_pos rfl)
  refine completes_of_eq hx ⟨?_, rfl, ?_, (congrArg Core.tlb hcore :), (congrArg Core.bench hcore :), rfl⟩
  · refine (congrArg (fun k : Core => (k.engOf (cartUnit n)).walk) hcore).trans ?_
    rw [Core.engOf_modEng, if_pos rfl]
  · exact List.map_append

theorem tableWalkRead_fails {st : Nat} {e : Word} (hon : s.walkOn p w r = .fail st e)
    (hearly : ((s.core c).engOf (cartUnit n)).early = none) :
    Completes (.tableWalkRead (.cart c n)) s (fun t =>
      ((t.core c).engOf (cartUnit n)).early = some { reason := 0x11, status := BitVec.ofNat 16 st, detail := BitVec.ofNat 64 w.va } ∧
      ((t.core c).engOf (cartUnit n)).todo = [] ∧ (t.core c).bench = (s.core c).bench ∧ t.mem = s.mem) := by
  have hx := exec_tableWalkRead ha hw hp hfind he
  rw [hon] at hx
  have hstep : ((s.sansResp w.id).modEng c (cartUnit n) (fun g => { g with walk := none })).core c =
      (s.core c).modEng (cartUnit n) (fun g => { g with walk := none }) :=
    (State.core_modEng (s.sansResp w.id) c (cartUnit n) _ c).trans (if_pos rfl)
  have hmem : ((s.sansResp w.id).modEng c (cartUnit n) (fun g => { g with walk := none })).mem = s.mem := rfl
  generalize (s.sansResp w.id).modEng c (cartUnit n) (fun g => { g with walk := none }) = t at hx hstep hmem
  have hcore : (t.cartXlateFail c n w.va st e).core c = ((s.core c).modEng (cartUnit n) (fun g => { g with walk := none })).modEng
      (cartUnit n) (fun g => { g with
        early := match g.early with
          | some x => some x
          | none => some { reason := 0x11, status := BitVec.ofNat 16 st, detail := BitVec.ofNat 64 w.va }
        todo := [] }) := by
    rw [State.cartXlateFail, State.cartEarly, State.core_modEng, if_pos rfl, State.core_congr (State.logXlate_cores ..), hstep] <;> rfl
  refine completes_of_eq hx ⟨?_, ?_, (congrArg Core.bench hcore :), (State.cartXlateFail_mem ..).trans hmem⟩
  · refine (congrArg (fun k : Core => (k.engOf (cartUnit n)).early) hcore).trans ?_
    rw [Core.engOf_modEng, if_pos rfl, Core.engOf_modEng, if_pos rfl]
    dsimp only
    rw [hearly]
  · refine (congrArg (fun k : Core => (k.engOf (cartUnit n)).todo) hcore).trans ?_
    rw [Core.engOf_modEng, if_pos rfl]

end

/-! ### A sweep -/

theorem State.mapCores_rest (s : State) (f : Core → Core) : ∃ cs, s.mapCores f = { s with cores := cs } :=
  State.foldl_modCore_rest f _ s

theorem State.cartRewalkIf_of_no_walk {s : State} {c : CoreId} {n : Fin 2} (h : ((s.core c).engOf (cartUnit n)).walk = none)
    (f : Walk → Bool) : s.cartRewalkIf f c n = s := by
  have hw : (s.cartEng c n).walk = none := h
  rw [State.cartRewalkIf, hw]

/-- Where no walk is under way, none starts again. -/
theorem State.rewalk_of_no_walk {s : State} (hc : ∀ c u, ((s.core c).engOf u).walk = none) (hh : ∀ n, (s.hcart n).walk = none)
    (f : Walk → Bool) : s.rewalk f = s := by
  have hcores (l : List Nat) : l.foldl (fun t n =>
      if h : n < 128 then State.cartRewalkIf f (State.cartRewalkIf f t ⟨n, h⟩ 0) ⟨n, h⟩ 1 else t) s = s := by
    induction l with
    | nil => rfl
    | cons n l ih =>
      rw [List.foldl_cons]
      by_cases h : n < 128
      · rw [dif_pos h, State.cartRewalkIf_of_no_walk (hc _ _), State.cartRewalkIf_of_no_walk (hc _ _), ih]
      · rw [dif_neg h, ih]
  have hcarts (l : List Nat) : l.foldl (fun t n =>
      match (State.hcart t n).walk with | some w => if f w then State.hcRewalk t n else t | none => t) s = s := by
    induction l with
    | nil => rfl
    | cons n l ih =>
      rw [List.foldl_cons, hh n]
      exact ih
  rw [State.rewalk]
  exact (congrArg (fun t => (List.range 48).foldl (fun t n =>
    match (State.hcart t n).walk with | some w => if f w then State.hcRewalk t n else t | none => t) t) (hcores _)).trans (hcarts _)

theorem translationSweep_completes {s : State} (ha : s.alive = true) (hc : ∀ c u, ((s.core c).engOf u).walk = none)
    (hh : ∀ n, (s.hcart n).walk = none) : Completes .translationSweep s (fun t =>
      t.hostTlb = [] ∧ (∀ c, t.core c = { s.core c with tlb := [] }) ∧ t.mem = s.mem ∧ t.regs = s.regs) := by
  have hx : exec .translationSweep s = .next
      (({ s.mapCores (fun k => { k with tlb := [] }) with hostTlb := [] } : State).rewalk (fun _ => true)) :=
    whenever_of_alive ha rfl _
  have hcore (d : CoreId) := s.core_mapCores (fun k => { k with tlb := [] }) d
  obtain ⟨cs, hcs⟩ := s.mapCores_rest (fun k => { k with tlb := [] })
  rw [hcs] at hx hcore
  rw [State.rewalk_of_no_walk] at hx
  · exact completes_of_eq hx ⟨rfl, hcore, rfl, rfl⟩
  · intro c u
    exact (congrArg (fun k : Core => (k.engOf u).walk) (hcore c)).trans (hc c u)
  · exact hh

/-! ### Data and acknowledgements of carts -/

/-- A cart whose rows are all moved and issued does not go on. -/
theorem State.cartSteps_of_rows {s : State} {c : CoreId} {n : Fin 2} (p : PartId) {j : CartJob}
    (ht : ((s.core c).engOf (cartUnit n)).todo = []) (hr : j.rows ≤ ((s.core c).engOf (cartUnit n)).done) (m : Nat) :
    s.cartSteps c n p j m = s := by
  have htodo : (s.cartEng c n).todo = [] := ht
  have hdone : (decide (j.rows ≤ (s.cartEng c n).done) || (s.cartEng c n).atLimit) = true := by
    rw [decide_eq_true (show j.rows ≤ (s.cartEng c n).done from hr), Bool.true_or]
  cases m with
  | zero => rfl
  | succ m =>
    rw [State.cartSteps]
    dsimp only
    rw [htodo]
    dsimp only
    rw [hdone, if_pos rfl, ite_self]

/-- What the pump of a finished cart may still change is its engine's early end. -/
theorem State.cartPump_of_rows {s : State} {c : CoreId} {n : Fin 2} {x : Cmd} (hx : ((s.core c).engOf (cartUnit n)).cmd = some x)
    (ht : ((s.core c).engOf (cartUnit n)).todo = []) (hr : (cartJob x).rows ≤ ((s.core c).engOf (cartUnit n)).done) :
    s.cartPump c n = s ∨ s.cartPump c n = s.cartEarly c n { reason := 0x11, status := 0, detail := 0 } := by
  have hcmd : (s.cartEng c n).cmd = some x := hx
  rw [State.cartPump, hcmd]
  cases s.partOf c with
  | none => exact .inr rfl
  | some p => exact .inl (State.cartSteps_of_rows p ht hr _)

/-- The part of a core that a cart's early end does not touch. -/
def Core.sansEarly (k : Core) (u : EngineUnit) : List (Nat × CartAcc) × Nat × Tab Byte × Tab Word :=
  ((k.engOf u).flying, (k.engOf u).lines, k.bench, k.s)

theorem State.cartPump_of_rows_keeps {s : State} {c : CoreId} {n : Fin 2} {x : Cmd}
    (hx : ((s.core c).engOf (cartUnit n)).cmd = some x) (ht : ((s.core c).engOf (cartUnit n)).todo = [])
    (hr : (cartJob x).rows ≤ ((s.core c).engOf (cartUnit n)).done) :
    ((s.cartPump c n).core c).sansEarly (cartUnit n) = (s.core c).sansEarly (cartUnit n) ∧ (s.cartPump c n).mem = s.mem ∧
      ∀ d, d ≠ c → (s.cartPump c n).core d = s.core d := by
  rcases State.cartPump_of_rows hx ht hr with h | h
  · rw [h]
    exact ⟨rfl, rfl, fun _ _ => rfl⟩
  · rw [h, State.cartEarly]
    refine ⟨?_, rfl, fun d hd => ?_⟩
    · rw [State.core_modEng, if_pos rfl, Core.sansEarly, Core.engOf_modEng, if_pos rfl]
      rfl
    · rw [State.core_modEng, if_neg hd]

/-- Data for lines that all have a slot is stored whole. -/
theorem State.cartStore_slotted {s : State} {c : CoreId} {n : Fin 2} {a : CartAcc} {bs : List Byte}
    (hearly : ((s.core c).engOf (cartUnit n)).early = none) (hslots : (s.core c).rangeSlots (cartPort n) a.bench a.len = true)
    (hlen : bs.length = a.len) :
    s.cartStore c n a bs = s.setCore c (((s.core c).store a.bench bs).modEng (cartUnit n) (fun g =>
      { g with lines := g.lines + min a.ends (linesOf a.bench a.len).length })) := by
  have hok : (linesOf a.bench a.len).takeWhile (fun l => (s.core c).hasSlot (cartPort n) (64 * l)) = linesOf a.bench a.len :=
    List.takeWhile_eq_self_iff.mpr (List.all_eq_true.mp hslots)
  unfold State.cartStore
  dsimp only
  rw [hearly]
  dsimp only
  rw [hok, List.getElem?_eq_none (Nat.le_refl _), if_neg (Nat.lt_irrefl _)]
  dsimp only
  rw [← hlen, List.take_length]

section
variable {s : State} {c : CoreId} {n : Fin 2} {id : Nat} {a : CartAcc} {r : MemResp} {x : Cmd} (ha : s.alive = true)
  (hx : ((s.core c).engOf (cartUnit n)).cmd = some x) (hr : (cartJob x).rows ≤ ((s.core c).engOf (cartUnit n)).done)
  (ht : ((s.core c).engOf (cartUnit n)).todo = []) (hf : ((s.core c).engOf (cartUnit n)).flying = [(id, a)])
  (hfind : s.responses.find? (fun r => r.req.id == id) = some r) (hst : r.status = 0)
include ha hx hr ht hf hfind hst

theorem cartReadData_completes (hearly : ((s.core c).engOf (cartUnit n)).early = none) (hd : a.toDram = false)
    (hslots : (s.core c).rangeSlots (cartPort n) a.bench a.len = true) (hlen : r.data.length = a.len) :
    Completes (.cartReadData c n) s (fun t =>
      readBytes (t.core c).bench a.bench a.len = r.data ∧
      (∀ b, b < a.bench ∨ a.bench + a.len ≤ b → tabGet zeroByte b (t.core c).bench = tabGet zeroByte b (s.core c).bench) ∧
      ((t.core c).engOf (cartUnit n)).flying = [] ∧ (t.core c).s = (s.core c).s ∧ t.mem = s.mem ∧
      ∀ d, d ≠ c → t.core d = s.core d) := by
  let k1 := (s.core c).modEng (cartUnit n) (fun g => { g with flying := [] })
  have hcore1 (d : CoreId) : ((s.sansResp id).modEng c (cartUnit n) (fun g => { g with flying := [] })).core d =
      if d = c then k1 else s.core d := State.core_modEng (s.sansResp id) c (cartUnit n) _ d
  have heng1 : k1.engOf (cartUnit n) = { (s.core c).engOf (cartUnit n) with flying := [] } := by
    rw [Core.engOf_modEng, if_pos rfl]
  have hmem1 : ((s.sansResp id).modEng c (cartUnit n) (fun g => { g with flying := [] })).mem = s.mem := rfl
  have he : exec (.cartReadData c n) s = .next
      ((((s.sansResp id).modEng c (cartUnit n) (fun g => { g with flying := [] })).cartStore c n a r.data).cartPump c n) := by
    have hfly : (s.cartEng c n).flying = [(id, a)] := hf
    show execCartReadData c n s = _
    rw [execCartReadData, hfly]
    simp only [State.takeResp_of_find hfind, hst, ne_eq, not_true_eq_false, if_false]
    exact whenever_of_alive ha (by rw [hd]; rfl) _
  generalize (s.sansResp id).modEng c (cartUnit n) (fun g => { g with flying := [] }) = t at he hcore1 hmem1
  have hself := (hcore1 c).trans (if_pos rfl)
  let k2 := (k1.store a.bench r.data).modEng (cartUnit n) (fun g =>
    { g with lines := g.lines + min a.ends (linesOf a.bench a.len).length })
  have hstore : t.cartStore c n a r.data = t.setCore c k2 := by
    rw [State.cartStore_slotted (by rw [hself, heng1]; exact hearly) (by rw [hself]; exact hslots) hlen, hself]
  have hcore2 (d : CoreId) : (t.setCore c k2).core d = if d = c then k2 else s.core d := by
    rw [State.core_setCore]
    by_cases hdc : d = c
    · rw [if_pos hdc, if_pos hdc]
    · rw [if_neg hdc, if_neg hdc, hcore1, if_neg hdc]
  have heng2 : k2.engOf (cartUnit n) = { (s.core c).engOf (cartUnit n) with
      flying := [], lines := ((s.core c).engOf (cartUnit n)).lines + min a.ends (linesOf a.bench a.len).length } := by
    rw [Core.engOf_modEng, if_pos rfl]
    exact congrArg (fun g : Eng => { g with lines := g.lines + min a.ends (linesOf a.bench a.len).length }) heng1
  have hmem2 : (t.setCore c k2).mem = s.mem := hmem1
  rw [hstore] at he
  generalize t.setCore c k2 = u at he hcore2 hmem2
  have hself2 := (hcore2 c).trans (if_pos rfl)
  obtain ⟨hkeep, hmem3, hothers⟩ := State.cartPump_of_rows_keeps (s := u) (c := c) (n := n) (x := x)
    (by rw [hself2, heng2]; exact hx) (by rw [hself2, heng2]; exact ht) (by rw [hself2, heng2]; exact hr)
  have hbench : ((u.cartPump c n).core c).bench = writeBytes (s.core c).bench a.bench r.data :=
    (congrArg (fun y => y.2.2.1) hkeep).trans (congrArg Core.bench hself2)
  refine completes_of_eq he ⟨?_, fun b hb => ?_, ?_, ?_, hmem3.trans hmem2, fun d hd => ?_⟩
  · rw [hbench, ← hlen]
    exact readBytes_writeBytes_self _ _ _
  · rw [hbench, tabGet_writeBytes, if_neg (by omega)]
  · exact (congrArg (fun y => y.1) hkeep).trans (by rw [Core.sansEarly, hself2, heng2])
  · exact (congrArg (fun y => y.2.2.2) hkeep).trans (congrArg Core.s hself2)
  · rw [hothers d hd, hcore2, if_neg hd]

theorem cartWriteAck_completes (hd : a.toDram = true) :
    Completes (.cartWriteAck c n) s (fun t =>
      ((t.core c).engOf (cartUnit n)).flying = [] ∧
      ((t.core c).engOf (cartUnit n)).lines = ((s.core c).engOf (cartUnit n)).lines + a.ends ∧
      (t.core c).bench = (s.core c).bench ∧ (t.core c).s = (s.core c).s ∧ t.mem = s.mem ∧
      ∀ d, d ≠ c → t.core d = s.core d) := by
  let f : Eng → Eng := fun g => { g with
    flying := g.flying.filter (fun f => f.1 != id), lines := if r.status = 0 then g.lines + a.ends else g.lines }
  have hacked : s.ackedWrite (s.cartEng c n) = some (id, a) := by
    have hany : s.responses.any (fun r => r.req.id == id) = true := by
      obtain ⟨hp, hm⟩ := And.intro (List.find?_some hfind) (List.mem_of_find?_eq_some hfind)
      exact List.any_eq_true.mpr ⟨r, hm, hp⟩
    have hfly : (s.cartEng c n).flying = [(id, a)] := hf
    rw [State.ackedWrite, hfly]
    exact List.find?_cons_of_pos (by dsimp only; rw [hd, hany]; rfl)
  have he : exec (.cartWriteAck c n) s = .next (((s.sansResp id).modEng c (cartUnit n) f).cartPump c n) := by
    show execCartWriteAck c n s = _
    rw [execCartWriteAck, hacked]
    simp only [State.takeResp_of_find hfind, hst, ne_eq, not_true_eq_false, if_false]
    refine (whenever_of_alive ha rfl _).trans ?_
    simp only [f, hst]
  have hcore (d : CoreId) := State.core_modEng (s.sansResp id) c (cartUnit n) f d
  have hmem : ((s.sansResp id).modEng c (cartUnit n) f).mem = s.mem := rfl
  generalize (s.sansResp id).modEng c (cartUnit n) f = u at he hcore hmem
  have hself : u.core c = (s.core c).modEng (cartUnit n) f := (hcore c).trans (if_pos rfl)
  have heng : (u.core c).engOf (cartUnit n) = { (s.core c).engOf (cartUnit n) with
      flying := [], lines := ((s.core c).engOf (cartUnit n)).lines + a.ends } := by
    rw [hself, Core.engOf_modEng, if_pos rfl]
    simp only [f, hf, if_pos hst, List.filter_cons, List.filter_nil, bne_self_eq_false, Bool.false_eq_true, if_false]
  obtain ⟨hkeep, hmem3, hothers⟩ := State.cartPump_of_rows_keeps (s := u) (c := c) (n := n) (x := x)
    (by rw [heng]; exact hx) (by rw [heng]; exact ht) (by rw [heng]; exact hr)
  refine completes_of_eq he ⟨?_, ?_, ?_, ?_, hmem3.trans hmem, fun d hd => ?_⟩
  · exact (congrArg (fun y => y.1) hkeep).trans (by rw [Core.sansEarly, heng])
  · exact (congrArg (fun y => y.2.1) hkeep).trans (by rw [Core.sansEarly, heng])
  · exact (congrArg (fun y => y.2.2.1) hkeep).trans (congrArg Core.bench hself)
  · exact (congrArg (fun y => y.2.2.2) hkeep).trans (congrArg Core.s hself)
  · exact (hothers d hd).trans ((hcore d).trans (if_neg hd))

end

/-- Settles O40: the walk of a cart by what its entry leads to, a sweep, and the two answers. -/
theorem cartsAndWalks : Obligations.cartsAndWalks := by
  unfold Obligations.cartsAndWalks
  refine ⟨?_, fun s ha hc hh => translationSweep_completes ha hc hh, ?_⟩
  · intro s c n p w r ha u hw hp hfind hst he t0
    refine ⟨fun w' hon => tableWalkRead_reads ha hw hp hfind he hon, fun l hon => ?_,
      fun st e hon hearly => tableWalkRead_fails ha hw hp hfind he hon hearly⟩
    have hx := exec_tableWalkRead ha hw hp hfind he
    rw [hon] at hx
    exact hx
  · intro s c n id a r x ha k u e hx hr ht hf hearly hz hfind hst
    exact ⟨fun hd hslots hlen => cartReadData_completes ha hx hr ht hf hfind hst hearly hd hslots hlen,
      fun hd => cartWriteAck_completes ha hx hr ht hf hfind hst hd⟩

end Sys2Proof.Machine
end

section
/-! PROOFS. Descriptors and joints: what an operation on a descriptor or a joint leaves of the others (R233, R234, R237). -/

namespace Sys2Proof.Machine

/-! ### Descriptors of a partition -/

/-- Every descriptor of a partition changes. -/
def State.mapDescs (s : State) (p : PartId) (g : Desc → Desc) : State :=
  s.modPart p (fun q => { q with descs := q.descs.map g })

theorem State.descOf_iff {s : State} {r : RingId} {q : BitVec 32} {p : PartId} {d : Desc} :
    s.descOf r q = some (p, d) ↔ s.partOfRing r = some p ∧ (s.descs p).find? (fun d => d.named r q) = some d := by
  rw [State.descOf]
  cases s.partOfRing r with
  | none => simp
  | some o => simp only [Option.map_eq_some_iff, Prod.mk.injEq, Option.some.injEq, exists_eq_right_right]; grind

theorem State.desc_of_descOf {s : State} {r : RingId} {q : BitVec 32} {p : PartId} {d : Desc} (h : s.descOf r q = some (p, d)) :
    s.desc r q = some d := by
  obtain ⟨hp, hd⟩ := State.descOf_iff.mp h
  rw [State.desc, hp]
  exact hd

theorem State.descOf_of_desc {s : State} {r : RingId} {q : BitVec 32} {d : Desc} (h : s.desc r q = some d) :
    ∃ p, s.descOf r q = some (p, d) := by
  rw [State.desc] at h
  cases hp : s.partOfRing r with
  | none => rw [hp] at h; exact nomatch h
  | some p => rw [hp] at h; exact ⟨p, State.descOf_iff.mpr ⟨hp, h⟩⟩

theorem State.modDesc_eq_mapDescs {s : State} {r : RingId} {p : PartId} (h : s.partOfRing r = some p) (q : BitVec 32)
    (f : Desc → Desc) : s.modDesc r q f = s.mapDescs p (fun d => if d.ring = r ∧ d.seq = q then f d else d) := by
  rw [State.modDesc, h]
  rfl

theorem State.descs_mapDescs (s : State) (p o : PartId) (g : Desc → Desc) :
    (s.mapDescs p g).descs o = if o = p then (s.descs p).map g else s.descs o := by
  rw [State.descs, State.mapDescs, State.part_modPart]
  split_ifs <;> rfl

theorem State.partOfRing_mapDescs (s : State) (p : PartId) (g : Desc → Desc) (r : RingId) :
    (s.mapDescs p g).partOfRing r = s.partOfRing r := rfl

/-- A change that names no other descriptor is found under the same name. -/
theorem State.descOf_mapDescs {s : State} {p : PartId} {g : Desc → Desc} (hg : ∀ d, (g d).ring = d.ring ∧ (g d).seq = d.seq)
    {r : RingId} {q : BitVec 32} {o : PartId} {d : Desc} (h : s.descOf r q = some (o, d)) :
    (s.mapDescs p g).descOf r q = some (o, if o = p then g d else d) := by
  obtain ⟨ho, hd⟩ := State.descOf_iff.mp h
  refine State.descOf_iff.mpr ⟨ho, ?_⟩
  rw [State.descs_mapDescs]
  split_ifs with hop
  · subst hop
    have hnamed : (fun x : Desc => x.named r q) ∘ g = fun x => x.named r q := by
      funext x
      rw [Function.comp_apply, Desc.named, Desc.named, (hg x).1, (hg x).2]
    rw [List.find?_map, hnamed, hd]
    rfl
  · exact hd

theorem named_iff {d : Desc} {r : RingId} {q : BitVec 32} : d.named r q = true ↔ d.ring = r ∧ d.seq = q := by
  rw [Desc.named, Bool.and_eq_true, decide_eq_true_iff, decide_eq_true_iff]

/-- The descriptor that is named changes, and is found under the same name. -/
theorem State.descOf_modDesc {s : State} {r : RingId} {q : BitVec 32} {p : PartId} {d : Desc} (h : s.descOf r q = some (p, d))
    {f : Desc → Desc} (hf : ∀ x, (f x).ring = x.ring ∧ (f x).seq = x.seq) :
    (s.modDesc r q f).descOf r q = some (p, f d) := by
  obtain ⟨hp, hd⟩ := State.descOf_iff.mp h
  have hkeep (x : Desc) : ((if x.ring = r ∧ x.seq = q then f x else x).ring = x.ring) ∧
      (if x.ring = r ∧ x.seq = q then f x else x).seq = x.seq := by
    split_ifs
    · exact hf x
    · exact ⟨rfl, rfl⟩
  have hnamed : d.ring = r ∧ d.seq = q := named_iff.mp (List.find?_some (p := fun d : Desc => d.named r q) hd)
  rw [State.modDesc_eq_mapDescs hp, State.descOf_mapDescs hkeep h, if_pos rfl, if_pos hnamed]

/-- What a descriptor becomes when its operation ends with a status. -/
def Desc.endedWith (st : Nat) (d : Desc) : Desc :=
  if d.stage = .ended ∨ d.stage = .completed then d
  else { d with stage := .ended, status := if d.status = 0 then BitVec.ofNat 16 st else d.status }

theorem Desc.endedWith_names (st : Nat) (d : Desc) : (d.endedWith st).ring = d.ring ∧ (d.endedWith st).seq = d.seq := by
  rw [Desc.endedWith]
  split_ifs <;> exact ⟨rfl, rfl⟩

theorem State.endDesc_eq (s : State) (r : RingId) (q : BitVec 32) (st : Nat) :
    s.endDesc r q st = s.modDesc r q (Desc.endedWith st) := rfl

theorem Desc.endedWith_of_open {d : Desc} (h : d.stage ≠ .ended ∧ d.stage ≠ .completed) (st : Nat) :
    (d.endedWith st).stage = .ended ∧ (d.endedWith st).status = if d.status = 0 then BitVec.ofNat 16 st else d.status := by
  rw [Desc.endedWith, if_neg (not_or.mpr h)]
  exact ⟨rfl, rfl⟩

/-- A descriptor under way ends with a status. -/
theorem State.ended_endDesc {s : State} {r : RingId} {q : BitVec 32} {p : PartId} {d : Desc} (h : s.descOf r q = some (p, d))
    (ho : d.stage ≠ .ended ∧ d.stage ≠ .completed) (st : Nat) : (s.endDesc r q st).Ended r q d st := by
  obtain ⟨hs, hst⟩ := Desc.endedWith_of_open ho st
  exact ⟨p, d.endedWith st, State.descOf_modDesc h (Desc.endedWith_names st), hs, hst⟩

/-! ### Joints of a partition -/

theorem State.joint_modPart_of {f : Part → Part} (hf : ∀ q, (f q).joints = q.joints) (s : State) (o p : PartId) (i : Nat) :
    (s.modPart o f).joint p i = s.joint p i := by
  rw [State.joint, State.joint, State.part_modPart]
  split_ifs with h
  · rw [Part.joint, Part.joint, hf, h]
  · rfl

theorem State.joint_mapDescs (s : State) (o : PartId) (g : Desc → Desc) (p : PartId) (i : Nat) :
    (s.mapDescs o g).joint p i = s.joint p i := State.joint_modPart_of (f := fun q => { q with descs := q.descs.map g }) (fun _ => rfl) s o p i

theorem State.joint_modDesc (s : State) (r : RingId) (q : BitVec 32) (f : Desc → Desc) (p : PartId) (i : Nat) :
    (s.modDesc r q f).joint p i = s.joint p i := by
  cases h : s.partOfRing r with
  | none => rw [State.modDesc, h]
  | some o => rw [State.modDesc_eq_mapDescs h, State.joint_mapDescs]

theorem State.joint_modJoint (s : State) (p : PartId) (j i : Nat) (f : Joint → Joint) :
    (s.modJoint p j f).joint p i = if i = j then f (s.joint p j) else s.joint p i := by
  rw [State.joint, State.modJoint, State.part_modPart_self, Part.joint, tabMod]
  exact tabGet_tabSet ..

theorem State.part_congr {s t : State} (h : t.parts = s.parts) (p : PartId) : t.part p = s.part p := by
  rw [State.part, State.part, h]

theorem State.joint_congr {s t : State} (h : t.parts = s.parts) (p : PartId) (i : Nat) : t.joint p i = s.joint p i := by
  rw [State.joint, State.joint, State.part_congr h]

theorem State.descs_congr {s t : State} (h : t.parts = s.parts) (p : PartId) : t.descs p = s.descs p := by
  rw [State.descs, State.descs, State.part_congr h]

theorem State.descs_modJoint (s : State) (p o : PartId) (j : Nat) (f : Joint → Joint) :
    (s.modJoint p j f).descs o = s.descs o := by
  rw [State.descs, State.descs, State.modJoint, State.part_modPart]
  split_ifs with h
  · rw [h]
  · rfl

theorem State.descOf_modJoint (s : State) (p : PartId) (j : Nat) (f : Joint → Joint) (r : RingId) (q : BitVec 32) :
    (s.modJoint p j f).descOf r q = s.descOf r q := by
  have hp : (s.modJoint p j f).partOfRing r = s.partOfRing r := rfl
  rw [State.descOf, State.descOf, hp]
  cases s.partOfRing r with
  | none => rfl
  | some o => simp only [State.descs_modJoint]

/-! ### Membership -/

/-- No fetched descriptor of a partition waits for its joint. -/
def State.JointsResolved (s : State) (p : PartId) : Prop := ∀ x ∈ s.descs p, x.wantsJoint = false ∨ x.resolved = true

theorem State.JointsResolved.congr {s t : State} {p : PartId} (h : s.JointsResolved p) (ht : t.descs p = s.descs p) :
    t.JointsResolved p := by
  rw [State.JointsResolved, ht]
  exact h

theorem State.JointsResolved.mapDescs {s : State} {p : PartId} (h : s.JointsResolved p) (o : PartId) {g : Desc → Desc}
    (hg : ∀ d, (g d).bytes = d.bytes ∧ (g d).resolved = d.resolved) : (s.mapDescs o g).JointsResolved p := by
  rw [State.JointsResolved, State.descs_mapDescs]
  split_ifs with hp
  · subst hp
    intro x hx
    obtain ⟨d, hd, rfl⟩ := List.mem_map.mp hx
    obtain ⟨hb, hr⟩ := hg d
    have hw : (g d).wantsJoint = d.wantsJoint := by
      simp only [Desc.wantsJoint, Desc.jointFlag, Desc.flagBit, Desc.opc, Desc.jid, Desc.f, hb] <;> rfl
    rw [hw, hr]
    exact h d hd
  · exact h

theorem State.JointsResolved.modDesc {s : State} {p : PartId} (h : s.JointsResolved p) (r : RingId) (q : BitVec 32) {f : Desc → Desc}
    (hf : ∀ d, (f d).bytes = d.bytes ∧ (f d).resolved = d.resolved) : (s.modDesc r q f).JointsResolved p := by
  cases ho : s.partOfRing r with
  | none => rw [State.modDesc, ho]; exact h
  | some o =>
    rw [State.modDesc_eq_mapDescs ho]
    refine h.mapDescs o fun d => ?_
    split_ifs
    · exact hf d
    · exact ⟨rfl, rfl⟩

theorem State.JointsResolved.endDesc {s : State} {p : PartId} (h : s.JointsResolved p) (r : RingId) (q : BitVec 32) (st : Nat) :
    (s.endDesc r q st).JointsResolved p := by
  refine h.modDesc r q fun d => ?_
  split_ifs <;> exact ⟨rfl, rfl⟩

theorem State.JointsResolved.modJoint {s : State} {p : PartId} (h : s.JointsResolved p) (j : Nat) (f : Joint → Joint) :
    (s.modJoint p j f).JointsResolved p := h.congr (s.descs_modJoint p p j f)

theorem resolveOne_of_resolved {s : State} {p : PartId} (h : s.JointsResolved p) (hold : List Nat) (key : RingId × BitVec 32) :
    (resolveOne p (s, hold) key).1 = s := by
  rw [resolveOne]
  dsimp only
  cases hd : (s.descs p).find? (fun d => d.named key.1 key.2) with
  | none => rfl
  | some d =>
    have hno : (d.wantsJoint && !d.resolved && decide (d.stage = .fetched) && !hold.contains d.jid) = false := by
      rcases h d (List.mem_of_find?_eq_some hd) with hw | hr
      · rw [hw]; rfl
      · rw [hr, Bool.not_true, Bool.and_false]; rfl
    dsimp only
    rw [hno, if_neg Bool.false_ne_true]
    split_ifs <;> rfl

/-- Where no fetched descriptor waits for its joint, none meets it. -/
theorem State.resolveJoints_of_resolved {s : State} {p : PartId} (h : s.JointsResolved p) : s.resolveJoints p = s := by
  have hfold (ks : List (RingId × BitVec 32)) (hold : List Nat) : (ks.foldl (resolveOne p) (s, hold)).1 = s := by
    induction ks generalizing hold with
    | nil => rfl
    | cons k ks ih =>
      have hone := resolveOne_of_resolved h hold k
      rw [List.foldl_cons]
      generalize resolveOne p (s, hold) k = x at hone
      obtain ⟨t, held⟩ := x
      dsimp only at hone
      subst hone
      exact ih held
  exact hfold _ _

theorem State.membersOf_congr {s t : State} {p : PartId} (h : t.descs p = s.descs p) (j : Nat) : t.membersOf p j = s.membersOf p j := by
  rw [State.membersOf, State.membersOf, h]

theorem State.membersOf_mapDescs {s : State} {p : PartId} {j : Nat} (h : s.membersOf p j = []) (o : PartId) {g : Desc → Desc}
    (hg : ∀ d, (g d).bytes = d.bytes ∧ (g d).member = d.member ∧ (g d).released = d.released) :
    (s.mapDescs o g).membersOf p j = [] := by
  rw [State.membersOf, State.descs_mapDescs]
  split_ifs with hp
  · subst hp
    rw [List.filter_map]
    have hsame : (fun d : Desc => d.member && d.jid == j && !d.released) ∘ g = fun d => d.member && d.jid == j && !d.released := by
      funext d
      obtain ⟨hb, hm, hr⟩ := hg d
      simp only [Function.comp_apply, Desc.jid, Desc.f, hb, hm, hr]
    rw [hsame]
    exact congrArg (List.map g) h
  · exact h

theorem State.membersOf_modDesc {s : State} {p : PartId} {j : Nat} (h : s.membersOf p j = []) (r : RingId) (q : BitVec 32)
    {f : Desc → Desc} (hf : ∀ d, (f d).bytes = d.bytes ∧ (f d).member = d.member ∧ (f d).released = d.released) :
    (s.modDesc r q f).membersOf p j = [] := by
  cases ho : s.partOfRing r with
  | none => rw [State.modDesc, ho]; exact h
  | some o =>
    rw [State.modDesc_eq_mapDescs ho]
    refine State.membersOf_mapDescs h o fun d => ?_
    split_ifs
    · exact hf d
    · exact ⟨rfl, rfl, rfl⟩

theorem State.withheld_of_no_members {s : State} {p : PartId} {j : Nat} (h : s.membersOf p j = []) : s.withheld p j = [] := by
  rw [State.withheld, h]
  rfl

end Sys2Proof.Machine
end

section
/-! PROOFS. Joints: their operations and their commits (R233, R234, R237, R244, R247). -/

namespace Sys2Proof.Machine

/-! ### JOINT_OPEN, JOINT_COMMIT, JOINT_ABORT -/

section
variable {s : State} {r : RingId} {q : BitVec 32} {p : PartId} {d : Desc} (ha : s.alive = true)
  (hd : s.descOf r q = some (p, d)) (hturn : s.opTurn p d = true) (hst : d.stage = .started)
  (hres : s.JointsResolved p)

theorem notOver_of_started {d : Desc} (h : d.stage = .started) : d.stage ≠ .ended ∧ d.stage ≠ .completed := by
  rw [h]
  decide

include ha hd hturn in
theorem onJoint_acts {opc : Nat} (ho : d.opc = opc) (f : PartId → Desc → State) :
    onJoint s r q opc f = .next ((f p d).resolveJoints p) := by
  rw [onJoint, hd]
  exact whenever_of_alive ha (by rw [ho, beq_self_eq_true, hturn]; rfl) _

/-- What an operation on a joint leaves: the other joints, memory and cores. -/
def State.OtherJoints (s : State) (p : PartId) (j : Nat) (t : State) : Prop :=
  (∀ i, i ≠ j → t.joint p i = s.joint p i) ∧ t.mem = s.mem ∧ t.cores = s.cores

include hd hst hres in
/-- An operation that only ends with a status leaves every joint. -/
theorem refused_effect (j st : Nat) :
    ((s.endDesc r q st).resolveJoints p).Ended r q d st ∧
      ((s.endDesc r q st).resolveJoints p).joint p j = s.joint p j ∧ s.OtherJoints p j ((s.endDesc r q st).resolveJoints p) := by
  rw [State.resolveJoints_of_resolved (hres.endDesc r q st)]
  refine ⟨State.ended_endDesc hd (notOver_of_started hst) st, State.joint_modDesc .., fun i _ => State.joint_modDesc .., ?_, ?_⟩
  · exact State.endDesc_mem ..
  · exact State.endDesc_cores ..

include hd hst hres in
/-- An operation that changes its joint and ends. -/
theorem jointEnded_effect (j st : Nat) (f : Joint → Joint) :
    (((s.modJoint p j f).endDesc r q st).resolveJoints p).Ended r q d st ∧
      (((s.modJoint p j f).endDesc r q st).resolveJoints p).joint p j = f (s.joint p j) ∧
      s.OtherJoints p j (((s.modJoint p j f).endDesc r q st).resolveJoints p) := by
  have hd' : (s.modJoint p j f).descOf r q = some (p, d) := (s.descOf_modJoint p j f r q).trans hd
  rw [State.resolveJoints_of_resolved ((hres.modJoint j f).endDesc r q st)]
  refine ⟨State.ended_endDesc hd' (notOver_of_started hst) st, ?_, fun i hi => ?_, ?_, ?_⟩
  · exact (State.joint_modDesc ..).trans (by rw [State.joint_modJoint, if_pos rfl])
  · exact (State.joint_modDesc ..).trans (by rw [State.joint_modJoint, if_neg hi])
  · exact State.endDesc_mem ..
  · exact State.endDesc_cores ..

include ha hd hturn hst hres

theorem jointOpen_opens (ho : d.opc = 0x0B) (hx : (s.joint p d.jid).st = .free) :
    Completes (.jointOpen r q) s (fun t =>
      t.Ended r q d 0 ∧ t.joint p d.jid = { st := .open_, openTag := BitVec.ofNat 16 d.tag } ∧ s.OtherJoints p d.jid t) := by
  have he : exec (.jointOpen r q) s = _ := onJoint_acts ha hd hturn ho _
  rw [if_pos hx] at he
  exact completes_of_eq he (jointEnded_effect hd hst hres d.jid 0 _)

theorem jointOpen_refused (ho : d.opc = 0x0B) (hx : (s.joint p d.jid).st ≠ .free) :
    Completes (.jointOpen r q) s (fun t =>
      t.Ended r q d 0x0304 ∧ t.joint p d.jid = s.joint p d.jid ∧ s.OtherJoints p d.jid t) := by
  have he : exec (.jointOpen r q) s = _ := onJoint_acts ha hd hturn ho _
  rw [if_neg hx] at he
  exact completes_of_eq he (refused_effect hd hst hres d.jid 0x0304)

theorem jointCommit_commits (ho : d.opc = 0x0C) (hx : (s.joint p d.jid).st = .open_) :
    Completes (.jointCommit r q) s (fun t =>
      t.joint p d.jid = { s.joint p d.jid with st := .committing, commit := some (r, q) } ∧ s.OtherJoints p d.jid t ∧
      t.descOf r q = some (p, { d with acted := true })) := by
  have he : exec (.jointCommit r q) s = _ := onJoint_acts ha hd hturn ho _
  rw [hx] at he
  dsimp only at he
  have hres' := (hres.modJoint d.jid (fun x => { x with st := .committing, commit := some (r, q) })).modDesc r q
    (f := fun x => { x with acted := true }) fun _ => ⟨rfl, rfl⟩
  have hd' := (s.descOf_modJoint p d.jid (fun x => { x with st := .committing, commit := some (r, q) }) r q).trans hd
  rw [State.resolveJoints_of_resolved hres'] at he
  refine completes_of_eq he ⟨?_, ⟨fun i hi => ?_, State.modDesc_mem .., State.modDesc_cores ..⟩, ?_⟩
  · exact (State.joint_modDesc ..).trans (by rw [State.joint_modJoint, if_pos rfl])
  · exact (State.joint_modDesc ..).trans (by rw [State.joint_modJoint, if_neg hi])
  · exact State.descOf_modDesc hd' fun _ => ⟨rfl, rfl⟩

theorem jointCommit_freed (ho : d.opc = 0x0C) (hx : (s.joint p d.jid).st = .aborted) :
    Completes (.jointCommit r q) s (fun t =>
      t.Ended r q d (s.joint p d.jid).lastStatus.toNat ∧ t.joint p d.jid = { s.joint p d.jid with st := .free } ∧
      s.OtherJoints p d.jid t) := by
  have he : exec (.jointCommit r q) s = _ := onJoint_acts ha hd hturn ho _
  rw [hx] at he
  exact completes_of_eq he (jointEnded_effect hd hst hres d.jid _ _)

theorem jointCommit_refused (ho : d.opc = 0x0C) (hx : (s.joint p d.jid).st = .free ∨ (s.joint p d.jid).st = .committing) :
    Completes (.jointCommit r q) s (fun t =>
      t.Ended r q d 0x0304 ∧ t.joint p d.jid = s.joint p d.jid ∧ s.OtherJoints p d.jid t) := by
  have he : exec (.jointCommit r q) s = _ := onJoint_acts ha hd hturn ho _
  rcases hx with hx | hx <;>
  · rw [hx] at he
    exact completes_of_eq he (refused_effect hd hst hres d.jid 0x0304)

theorem jointAbort_freed (ho : d.opc = 0x0D) (hx : (s.joint p d.jid).st = .aborted) :
    Completes (.jointAbort r q) s (fun t =>
      t.Ended r q d (s.joint p d.jid).lastStatus.toNat ∧ t.joint p d.jid = { s.joint p d.jid with st := .free } ∧
      s.OtherJoints p d.jid t) := by
  have he : exec (.jointAbort r q) s = _ := onJoint_acts ha hd hturn ho _
  dsimp only at he
  rw [hx] at he
  exact completes_of_eq he (jointEnded_effect hd hst hres d.jid _ _)

theorem jointAbort_refused (ho : d.opc = 0x0D) (hx : (s.joint p d.jid).st = .free ∨ (s.joint p d.jid).st = .committing) :
    Completes (.jointAbort r q) s (fun t =>
      t.Ended r q d 0x0304 ∧ t.joint p d.jid = s.joint p d.jid ∧ s.OtherJoints p d.jid t) := by
  have he : exec (.jointAbort r q) s = _ := onJoint_acts ha hd hturn ho _
  dsimp only at he
  rcases hx with hx | hx <;>
  · rw [hx] at he
    exact completes_of_eq he (refused_effect hd hst hres d.jid 0x0304)

end

/-! ### The abort of a joint without members -/

/-- The joint that an abort cause has reached. -/
def Joint.failed (st : Nat) (x : Joint) : Joint :=
  { x with st := .aborted, aborting := true, asked := false, prepared := false, lastStatus := BitVec.ofNat 16 st }

/-- The joint once the abort that a JOINT_ABORT asked for is done. -/
def Joint.gone (x : Joint) : Joint :=
  { x with st := .free, dirty := [], log := [], commit := none, abortBy := none, aborting := false }

/-- A descriptor of a joint is its member no longer. -/
def Desc.releasedFrom (j : Nat) (d : Desc) : Desc := if d.member && d.jid == j then { d with released := true } else d

theorem Desc.releasedFrom_keeps (j : Nat) (d : Desc) :
    (d.releasedFrom j).ring = d.ring ∧ (d.releasedFrom j).seq = d.seq ∧ (d.releasedFrom j).stage = d.stage ∧
      (d.releasedFrom j).status = d.status ∧ (d.releasedFrom j).bytes = d.bytes ∧ (d.releasedFrom j).resolved = d.resolved := by
  rw [Desc.releasedFrom]
  split_ifs <;> exact ⟨rfl, rfl, rfl, rfl, rfl, rfl⟩

theorem State.releaseMembers_eq (s : State) (p : PartId) (j : Nat) : s.releaseMembers p j = s.mapDescs p (Desc.releasedFrom j) := rfl

/-- The abort of a joint without members that its JOINT_ABORT asked for is done at once. -/
theorem State.failJoint_without_members {s : State} {p : PartId} {j : Nat} (hm : s.membersOf p j = []) {c : RingId × BitVec 32}
    (hc : (s.joint p j).commit = none) (hby : (s.joint p j).abortBy = some c) (st : Nat) :
    s.failJoint p j st = ((((s.modJoint p j (Joint.failed st)).incFld (oJT_COUNT p.val) 63 32 1).modJoint p j Joint.gone).mapDescs p
      (Desc.releasedFrom j)).endDesc c.1 c.2 0 := by
  have hparts : ((s.modJoint p j (Joint.failed st)).incFld (oJT_COUNT p.val) 63 32 1).parts = (s.modJoint p j (Joint.failed st)).parts :=
    State.incFld_parts ..
  have hdescs : ((s.modJoint p j (Joint.failed st)).incFld (oJT_COUNT p.val) 63 32 1).descs p = s.descs p :=
    (State.descs_congr hparts p).trans (s.descs_modJoint p p j _)
  have hm' : ((s.modJoint p j (Joint.failed st)).incFld (oJT_COUNT p.val) 63 32 1).membersOf p j = [] :=
    (State.membersOf_congr hdescs j).trans hm
  have hj : ((s.modJoint p j (Joint.failed st)).incFld (oJT_COUNT p.val) 63 32 1).joint p j = (s.joint p j).failed st :=
    (State.joint_congr hparts p j).trans (by rw [State.joint_modJoint, if_pos rfl])
  have hshape : s.failJoint p j st = ((s.membersOf p j).foldl (State.haltMember st)
      ((s.modJoint p j (Joint.failed st)).incFld (oJT_COUNT p.val) 63 32 1) |>.failWithheld p j st).endAborting p j := rfl
  rw [hm, List.foldl_nil] at hshape
  rw [hshape]
  generalize (s.modJoint p j (Joint.failed st)).incFld (oJT_COUNT p.val) 63 32 1 = t at hm' hj
  rw [State.failWithheld, State.withheld_of_no_members hm', List.foldl_nil, State.endAborting]
  dsimp only
  rw [hm', hj]
  have hstop : (!((s.joint p j).failed st).aborting || !([] : List Desc).all (fun d => decide (d.stage = .completed))) = false := rfl
  have hcom : ((s.joint p j).failed st).commit = none := hc
  have hask : ((s.joint p j).failed st).abortBy = some c := hby
  rw [hstop, if_neg Bool.false_ne_true, hcom, hask]
  rfl

section
variable {s : State} {r : RingId} {q : BitVec 32} {p : PartId} {d : Desc} (ha : s.alive = true)
  (hd : s.descOf r q = some (p, d)) (hturn : s.opTurn p d = true) (hst : d.stage = .started)
  (hres : s.JointsResolved p)
include ha hd hturn hst hres

theorem jointAbort_aborts (ho : d.opc = 0x0D) (hm : s.membersOf p d.jid = []) (hx : (s.joint p d.jid).st = .open_)
    (hc : (s.joint p d.jid).commit = none) :
    Completes (.jointAbort r q) s (fun t =>
      t.Ended r q d 0 ∧ (t.joint p d.jid).st = .free ∧ (t.joint p d.jid).dirty = [] ∧ (t.joint p d.jid).log = [] ∧
      t.fld (oJT_COUNT p.val) 63 32 = (s.fld (oJT_COUNT p.val) 63 32 + 1) % 2 ^ 32 ∧ s.OtherJoints p d.jid t) := by
  have he : exec (.jointAbort r q) s = _ := onJoint_acts ha hd hturn ho _
  dsimp only at he
  rw [hx] at he
  dsimp only at he
  let by_ : Joint → Joint := fun x => { x with abortBy := some (r, q) }
  let act : Desc → Desc := fun x => { x with acted := true }
  have hd1 : ((s.modJoint p d.jid by_).modDesc r q act).descOf r q = some (p, act d) :=
    State.descOf_modDesc ((s.descOf_modJoint p d.jid by_ r q).trans hd) fun _ => ⟨rfl, rfl⟩
  have hm1 : ((s.modJoint p d.jid by_).modDesc r q act).membersOf p d.jid = [] :=
    State.membersOf_modDesc ((State.membersOf_congr (s.descs_modJoint p p d.jid by_) d.jid).trans hm) r q fun _ => ⟨rfl, rfl, rfl⟩
  have hj1 (i : Nat) : ((s.modJoint p d.jid by_).modDesc r q act).joint p i =
      if i = d.jid then by_ (s.joint p d.jid) else s.joint p i :=
    (State.joint_modDesc ..).trans (s.joint_modJoint p d.jid i by_)
  have hres1 : ((s.modJoint p d.jid by_).modDesc r q act).JointsResolved p :=
    (hres.modJoint d.jid by_).modDesc r q fun _ => ⟨rfl, rfl⟩
  have hregs1 : ((s.modJoint p d.jid by_).modDesc r q act).regs = s.regs := State.modDesc_regs ..
  have hmem1 : ((s.modJoint p d.jid by_).modDesc r q act).mem = s.mem := State.modDesc_mem ..
  have hcores1 : ((s.modJoint p d.jid by_).modDesc r q act).cores = s.cores := State.modDesc_cores ..
  generalize (s.modJoint p d.jid by_).modDesc r q act = t at he hd1 hm1 hj1 hres1 hregs1 hmem1 hcores1
  have hself := (hj1 d.jid).trans (if_pos rfl)
  rw [State.failJoint_without_members hm1 (by rw [hself]; exact hc) (by rw [hself])] at he
  have hfail : ((t.modJoint p d.jid (Joint.failed 0x0302)).incFld (oJT_COUNT p.val) 63 32 1).parts =
      (t.modJoint p d.jid (Joint.failed 0x0302)).parts := State.incFld_parts ..
  have hd2 : ((((t.modJoint p d.jid (Joint.failed 0x0302)).incFld (oJT_COUNT p.val) 63 32 1).modJoint p d.jid Joint.gone).mapDescs p
      (Desc.releasedFrom d.jid)).descOf r q = some (p, (act d).releasedFrom d.jid) := by
    refine (State.descOf_mapDescs (d := act d) (o := p) (fun x => ?_) ?_).trans (by rw [if_pos rfl])
    · exact ⟨(x.releasedFrom_keeps d.jid).1, (x.releasedFrom_keeps d.jid).2.1⟩
    · exact ((State.descOf_modJoint ..).trans (State.descOf_modJoint t p d.jid (Joint.failed 0x0302) r q)).trans hd1
  have hres2 : ((((t.modJoint p d.jid (Joint.failed 0x0302)).incFld (oJT_COUNT p.val) 63 32 1).modJoint p d.jid Joint.gone).mapDescs p
      (Desc.releasedFrom d.jid)).JointsResolved p := by
    refine State.JointsResolved.mapDescs (State.JointsResolved.modJoint ?_ _ _) p fun x => ?_
    · exact (hres1.modJoint d.jid (Joint.failed 0x0302)).congr (State.descs_congr hfail p)
    · obtain ⟨-, -, -, -, hb, hr⟩ := x.releasedFrom_keeps d.jid
      exact ⟨hb, hr⟩
  have hj2 (i : Nat) : ((((t.modJoint p d.jid (Joint.failed 0x0302)).incFld (oJT_COUNT p.val) 63 32 1).modJoint p d.jid Joint.gone).mapDescs p
      (Desc.releasedFrom d.jid)).joint p i =
        if i = d.jid then ((by_ (s.joint p d.jid)).failed 0x0302).gone else s.joint p i := by
    rw [State.joint_mapDescs, State.joint_modJoint, State.joint_congr hfail, State.joint_congr hfail, State.joint_modJoint,
      State.joint_modJoint, if_pos rfl, hself]
    split_ifs with hi
    · rfl
    · rw [hj1, if_neg hi]
  have hfld2 : ((((t.modJoint p d.jid (Joint.failed 0x0302)).incFld (oJT_COUNT p.val) 63 32 1).modJoint p d.jid Joint.gone).mapDescs p
      (Desc.releasedFrom d.jid)).fld (oJT_COUNT p.val) 63 32 = (s.fld (oJT_COUNT p.val) 63 32 + 1) % 2 ^ 32 := by
    have hbefore : (t.modJoint p d.jid (Joint.failed 0x0302)).fld (oJT_COUNT p.val) 63 32 = s.fld (oJT_COUNT p.val) 63 32 :=
      State.fld_of_reg (congrArg (tabGet regReset _) hregs1) 63 32
    exact (State.fld_incFld_self _ _ _ _ _ (by decide)).trans (by rw [hbefore])
  have hmem2 : ((((t.modJoint p d.jid (Joint.failed 0x0302)).incFld (oJT_COUNT p.val) 63 32 1).modJoint p d.jid Joint.gone).mapDescs p
      (Desc.releasedFrom d.jid)).mem = s.mem := hmem1
  have hcores2 : ((((t.modJoint p d.jid (Joint.failed 0x0302)).incFld (oJT_COUNT p.val) 63 32 1).modJoint p d.jid Joint.gone).mapDescs p
      (Desc.releasedFrom d.jid)).cores = s.cores := hcores1
  generalize (((t.modJoint p d.jid (Joint.failed 0x0302)).incFld (oJT_COUNT p.val) 63 32 1).modJoint p d.jid Joint.gone).mapDescs p
    (Desc.releasedFrom d.jid) = u at he hd2 hres2 hj2 hfld2 hmem2 hcores2
  rw [State.resolveJoints_of_resolved (hres2.endDesc r q 0)] at he
  obtain ⟨-, -, hstage, hstatus, -, -⟩ := (act d).releasedFrom_keeps d.jid
  have hopen : ((act d).releasedFrom d.jid).stage ≠ .ended ∧ ((act d).releasedFrom d.jid).stage ≠ .completed := by
    rw [hstage]
    exact notOver_of_started hst
  have hended := State.ended_endDesc hd2 hopen 0
  have hje (i : Nat) : (u.endDesc r q 0).joint p i = _ := (State.joint_modDesc ..).trans (hj2 i)
  have hjself := (hje d.jid).trans (if_pos rfl)
  rw [State.Ended, hstatus] at hended
  refine completes_of_eq he ⟨hended, ?_, ?_, ?_, ?_, fun i hi => (hje i).trans (if_neg hi), (State.endDesc_mem ..).trans hmem2,
    (State.endDesc_cores ..).trans hcores2⟩
  · rw [hjself]; rfl
  · rw [hjself]; rfl
  · rw [hjself]; rfl
  · exact (State.fld_of_reg (congrArg (tabGet regReset _) (State.endDesc_regs ..)) 63 32).trans hfld2

end

/-! ### Commits -/

theorem State.settle_of_no_stalls (s : State) {t : State} (h : t.stalls = []) : s.settle t = t := by
  rw [State.settle, h]
  rfl

/-- A command that met a stall only starts what it waits for. -/
theorem State.settle_of_stalls (s : State) {t : State} (h : t.stalls ≠ []) :
    (s.settle t).parts = s.parts ∧ (s.settle t).mem = s.mem ∧ (s.settle t).cores = s.cores := by
  have hne : t.stalls.isEmpty = false := by simpa using h
  rw [State.settle, hne, if_neg Bool.false_ne_true]
  exact ⟨parts_foldl _ State.arrange_parts _ _, mem_foldl _ State.arrange_mem _ _, cores_foldl _ State.arrange_cores _ _⟩

theorem ringStat_ne_jointCount (r : RingId) (p : PartId) : oJT_COUNT p.val ≠ oRT_STAT r.val := by
  simp only [oJT_COUNT, oRT_STAT, oJT, oRT]
  omega

/-- Retiring a ring changes no register but its own status. -/
theorem State.retire_fld (s : State) (p : PartId) (r : RingId) {o : Nat} (ho : o ≠ oRT_STAT r.val) (hi lo : Nat) :
    (s.retire p r).fld o hi lo = s.fld o hi lo := by
  rw [State.retire, State.setRetired]
  split_ifs
  · rfl
  · refine (State.fld_of_reg (congrArg (tabGet regReset o) ((State.modRing_regs ..).trans (State.statusLine_regs ..))) hi lo).trans ?_
    exact State.fld_setFld_other _ _ _ _ _ _ _ _ ho

theorem State.retireRings_fld (s : State) (p : PartId) (rs : List RingId) {o : Nat} (ho : ∀ r : RingId, o ≠ oRT_STAT r.val) (hi lo : Nat) :
    (rs.foldl (fun t r => t.retire p r) s).fld o hi lo = s.fld o hi lo := by
  induction rs generalizing s with
  | nil => rfl
  | cons r rs ih => rw [List.foldl_cons, ih, State.retire_fld s p r (ho r)]

theorem State.partOfRing_congr {s t : State} (h : t.tables = s.tables) (r : RingId) : t.partOfRing r = s.partOfRing r := by
  have hc : t.cfg = s.cfg := by
    funext o hi lo
    rw [State.cfg, State.cfg, h]
  unfold State.partOfRing
  rw [hc]

theorem State.toHost_tables (s : State) (o : Out) : (s.toHost o).tables = s.tables := by
  unfold State.toHost
  split_ifs
  · rfl
  · cases o with
    | msix f v =>
      dsimp only
      split_ifs <;> rfl
    | _ => rfl

theorem State.statusLine_tables (s : State) (r : RingId) : (s.statusLine r).tables = s.tables := by
  rw [State.statusLine]
  exact State.toHost_tables ..

theorem State.modRing_tables (s : State) (r : RingId) (f : Ring → Ring) : (s.modRing r f).tables = s.tables := rfl

theorem State.setFld_tables (s : State) (o hi lo v : Nat) : (s.setFld o hi lo v).tables = s.tables := rfl

theorem State.partOfRing_retire (s : State) (p : PartId) (r x : RingId) : (s.retire p r).partOfRing x = s.partOfRing x := by
  rw [State.retire, State.setRetired]
  split_ifs
  · rfl
  · refine State.partOfRing_congr ?_ x
    rw [State.modRing_tables, State.statusLine_tables, State.setFld_tables]

theorem State.retireRings_descOf (s : State) (p : PartId) (rs : List RingId) (r : RingId) (q : BitVec 32) :
    (rs.foldl (fun t r => t.retire p r) s).descOf r q = s.descOf r q := by
  induction rs generalizing s with
  | nil => rfl
  | cons x rs ih =>
    rw [List.foldl_cons, ih, State.descOf, State.descOf, State.partOfRing_retire]
    cases s.partOfRing r with
    | none => rfl
    | some o => simp only [State.descs_congr (s.retire_parts p x)]

/-- The joint once its commit is done. -/
def Joint.committed (x : Joint) : Joint :=
  { x with st := .free, dirty := [], log := [], commit := none, asked := false, prepared := false }

/-- The end of a commit that has nothing to swap, to apply or to publish. -/
def State.emptyCommit (s : State) (p : PartId) (j : Nat) (c : RingId × BitVec 32) : State :=
  (((s.modJoint p j Joint.committed).mapDescs p (Desc.releasedFrom j)).incFld (oJT_COUNT p.val) 31 0 1).endDesc c.1 c.2 0

theorem State.commitJoint_empty {s : State} {p : PartId} {j : Nat} (hm : s.membersOf p j = []) (hdirty : (s.joint p j).dirty = [])
    (hlog : (s.joint p j).log = []) (c : RingId × BitVec 32) :
    s.commitJoint p j c = (((s.emptyCommit p j c).ringsOf p).filter (s.emptyCommit p j c).ringOn).foldl (fun t r => t.retire p r)
      (s.emptyCommit p j c) := by
  rw [State.commitJoint]
  dsimp only
  rw [hdirty, hlog]
  dsimp only [List.foldl_nil]
  rw [State.withheld_of_no_members hm]
  rfl

/-- What the end of an empty commit leaves and changes. -/
theorem State.emptyCommit_effect {s : State} {p : PartId} {j : Nat} {c : RingId × BitVec 32} {d : Desc}
    (hd : s.desc c.1 c.2 = some d) (hst : d.stage = .started) :
    (s.emptyCommit p j c).joint p j = (s.joint p j).committed ∧
      (s.emptyCommit p j c).fld (oJT_COUNT p.val) 31 0 = (s.fld (oJT_COUNT p.val) 31 0 + 1) % 2 ^ 32 ∧
      (∃ o e, (s.emptyCommit p j c).descOf c.1 c.2 = some (o, e) ∧ e.stage = .ended) ∧
      (s.JointsResolved p → (s.emptyCommit p j c).JointsResolved p) := by
  obtain ⟨o, hof⟩ := State.descOf_of_desc hd
  have hj : ((s.modJoint p j Joint.committed).mapDescs p (Desc.releasedFrom j)).joint p j = (s.joint p j).committed := by
    rw [State.joint_mapDescs, State.joint_modJoint, if_pos rfl]
  have hof1 := State.descOf_mapDescs (p := p) (g := Desc.releasedFrom j)
    (fun x => ⟨(x.releasedFrom_keeps j).1, (x.releasedFrom_keeps j).2.1⟩)
    ((s.descOf_modJoint p j Joint.committed c.1 c.2).trans hof)
  have hres1 (h : s.JointsResolved p) : ((s.modJoint p j Joint.committed).mapDescs p (Desc.releasedFrom j)).JointsResolved p := by
    refine State.JointsResolved.mapDescs (h.modJoint j Joint.committed) p fun x => ?_
    obtain ⟨-, -, -, -, hb, hr⟩ := x.releasedFrom_keeps j
    exact ⟨hb, hr⟩
  have hregs : ((s.modJoint p j Joint.committed).mapDescs p (Desc.releasedFrom j)).regs = s.regs := rfl
  have hstage : (if o = p then d.releasedFrom j else d).stage = .started := by
    split_ifs
    · exact (d.releasedFrom_keeps j).2.2.1.trans hst
    · exact hst
  rw [State.emptyCommit]
  generalize (if o = p then d.releasedFrom j else d) = e at hof1 hstage
  generalize (s.modJoint p j Joint.committed).mapDescs p (Desc.releasedFrom j) = t at hj hof1 hres1 hregs
  have hparts : (t.incFld (oJT_COUNT p.val) 31 0 1).parts = t.parts := State.incFld_parts ..
  have hof2 : (t.incFld (oJT_COUNT p.val) 31 0 1).descOf c.1 c.2 = some (o, e) := hof1
  refine ⟨?_, ?_, ⟨o, e.endedWith 0, State.descOf_modDesc hof2 (Desc.endedWith_names 0),
    (Desc.endedWith_of_open (notOver_of_started hstage) 0).1⟩, fun h => ?_⟩
  · exact (State.joint_modDesc ..).trans ((State.joint_congr hparts p j).trans hj)
  · refine (State.fld_of_reg (congrArg (tabGet regReset _) (State.endDesc_regs ..)) 31 0).trans
      ((State.fld_incFld_self _ _ _ _ _ (by decide)).trans ?_)
    rw [State.fld_of_reg (congrArg (tabGet regReset _) hregs) 31 0]
  · exact ((hres1 h).congr (State.descs_congr hparts p)).endDesc c.1 c.2 0

section
variable {s : State} {p : PartId} {j : Fin 64} {c : RingId × BitVec 32} {d : Desc} (ha : s.alive = true)
  (hc : (s.joint p (j.val + 1)).commit = some c) (hd : s.desc c.1 c.2 = some d) (hx : (s.joint p (j.val + 1)).st = .committing)
  (hst : d.stage = .started)

include hc hd in
theorem jointCommitSwap_waits (hr : s.commitReady p (j.val + 1) = false) : exec (.jointCommitSwap p j) s = .next s := by
  show execJointCommitSwap p j s = _
  rw [execJointCommitSwap]
  rw [hc]
  dsimp only
  rw [hd]
  dsimp only
  rw [hr, Bool.and_false]
  exact whenever_false _ _

include ha hc hd hx hst

theorem exec_jointCommitSwap (hr : s.commitReady p (j.val + 1) = true) :
    exec (.jointCommitSwap p j) s = .next (s.settle (s.commitOn p (j.val + 1) c)) := by
  show execJointCommitSwap p j s = _
  rw [execJointCommitSwap]
  rw [hc]
  dsimp only
  rw [hd]
  dsimp only
  exact whenever_of_alive ha (by rw [hr, hx, hst]; rfl) _

theorem jointCommitSwap_settles (hr : s.commitReady p (j.val + 1) = true) (hs : (s.commitOn p (j.val + 1) c).stalls = []) :
    exec (.jointCommitSwap p j) s = .next (s.commitOn p (j.val + 1) c) := by
  rw [exec_jointCommitSwap ha hc hd hx hst hr, State.settle_of_no_stalls s hs]

omit ha hc hd hx hst in
theorem State.commitOn_fails (h : ∃ e ∈ s.withheld p (j.val + 1), e.status ≠ 0) :
    s.commitOn p (j.val + 1) c = (s.failJoint p (j.val + 1) 0x0302).resolveJoints p := by
  obtain ⟨e, he, hne⟩ := h
  have hany : (s.withheld p (j.val + 1)).any (fun d => decide (d.status ≠ 0)) = true :=
    List.any_eq_true.mpr ⟨e, he, decide_eq_true hne⟩
  rw [State.commitOn, hany]
  rfl

omit ha hc hd hx hst in
theorem State.commitOn_commits (h : ∀ e ∈ s.withheld p (j.val + 1), e.status = 0)
    (hm : ∀ e ∈ (s.joint p (j.val + 1)).dirty, e.mirrored = false) :
    s.commitOn p (j.val + 1) c = (s.commitJoint p (j.val + 1) c).resolveJoints p := by
  have hany : (s.withheld p (j.val + 1)).any (fun d => decide (d.status ≠ 0)) = false :=
    List.any_eq_false.mpr fun e he => by simpa using h e he
  have hmir : (s.joint p (j.val + 1)).dirty.any DirtyPage.mirrored = false :=
    List.any_eq_false.mpr fun e he => by rw [hm e he]; exact Bool.false_ne_true
  rw [State.commitOn]
  rw [hany, hmir]
  rfl

theorem jointCommitSwap_empty (hr : s.commitReady p (j.val + 1) = true) (hs : (s.commitOn p (j.val + 1) c).stalls = [])
    (hm : s.membersOf p (j.val + 1) = []) (hdirty : (s.joint p (j.val + 1)).dirty = []) (hlog : (s.joint p (j.val + 1)).log = [])
    (hres : s.JointsResolved p) :
    Completes (.jointCommitSwap p j) s (fun t =>
      (t.joint p (j.val + 1)).st = .free ∧ (t.joint p (j.val + 1)).commit = none ∧
      t.fld (oJT_COUNT p.val) 31 0 = (s.fld (oJT_COUNT p.val) 31 0 + 1) % 2 ^ 32 ∧ t.mem = s.mem ∧
      ∃ o e, t.descOf c.1 c.2 = some (o, e) ∧ e.stage = .ended) := by
  have he := jointCommitSwap_settles ha hc hd hx hst hr hs
  rw [State.commitOn_commits (by rw [State.withheld_of_no_members hm]; exact fun _ h => nomatch h)
    (by rw [hdirty]; exact fun _ h => nomatch h), State.commitJoint_empty hm hdirty hlog] at he
  obtain ⟨hj, hfld, hof, hkeep⟩ := State.emptyCommit_effect (p := p) (j := j.val + 1) hd hst
  have hmem : (s.emptyCommit p (j.val + 1) c).mem = s.mem := State.endDesc_mem ..
  have hres' := hkeep hres
  generalize ((s.emptyCommit p (j.val + 1) c).ringsOf p).filter (s.emptyCommit p (j.val + 1) c).ringOn = rs at he
  generalize s.emptyCommit p (j.val + 1) c = t at he hj hfld hof hmem hres'
  have hparts : (rs.foldl (fun t r => t.retire p r) t).parts = t.parts := parts_foldl _ (fun u r => u.retire_parts p r) _ _
  have hfld' := t.retireRings_fld p rs (fun r => ringStat_ne_jointCount r p) 31 0
  have hof' := t.retireRings_descOf p rs c.1 c.2
  have hmem' : (rs.foldl (fun t r => t.retire p r) t).mem = t.mem := mem_foldl _ (fun u r => u.retire_mem p r) _ _
  rw [State.resolveJoints_of_resolved (hres'.congr (State.descs_congr hparts p))] at he
  have hj' := State.joint_congr hparts p (j.val + 1)
  generalize rs.foldl (fun t r => t.retire p r) t = u at he hfld' hof' hmem' hj'
  refine completes_of_eq he ⟨?_, ?_, hfld'.trans hfld, hmem'.trans hmem, ?_⟩
  · rw [hj', hj]; rfl
  · rw [hj', hj]; rfl
  · rw [hof']
    exact hof

end

/-- Settles O41: the three operations by the state of their joint, then the commit. -/
theorem joints : Obligations.joints := by
  unfold Obligations.joints
  refine ⟨?_, ?_⟩
  · intro s r q p d ha hd hturn hst _ hm hres j x others refused freed
    refine ⟨fun ho => ⟨fun hx => jointOpen_opens ha hd hturn hst hres ho hx, fun hx => jointOpen_refused ha hd hturn hst hres ho hx⟩,
      fun ho => ⟨fun hx => jointCommit_commits ha hd hturn hst hres ho hx, fun hx => jointCommit_freed ha hd hturn hst hres ho hx,
        fun hx => jointCommit_refused ha hd hturn hst hres ho hx⟩,
      fun ho => ⟨fun hx hc => jointAbort_aborts ha hd hturn hst hres ho hm hx hc,
        fun hx => jointAbort_freed ha hd hturn hst hres ho hx, fun hx => jointAbort_refused ha hd hturn hst hres ho hx⟩⟩
  · intro s p j c d ha n x hc hd hx hst
    refine ⟨fun hr => jointCommitSwap_waits hc hd hr, fun hr hs => ?_, fun hr hs hf => ?_, fun hr hs hok hmir => ?_,
      fun hr hs hm hdirty hlog hres => jointCommitSwap_empty ha hc hd hx hst hr hs hm hdirty hlog hres⟩
    · exact completes_of_eq (exec_jointCommitSwap ha hc hd hx hst hr) (s.settle_of_stalls hs)
    · rw [jointCommitSwap_settles ha hc hd hx hst hr hs, State.commitOn_fails hf]
    · rw [jointCommitSwap_settles ha hc hd hx hst hr hs, State.commitOn_commits hok hmir]

end Sys2Proof.Machine
end

section
/-! PROOFS. Pages of a joint: swaps, writes and shadow copies (R239 to R244, R248). -/

namespace Sys2Proof.Machine

/-! ### Tables with rising keys -/

section
variable {α : Type} {d : Nat → α}

theorem tabGet_of_mem {m : Tab α} (hm : m.Pairwise (fun a b => a.1 < b.1)) {c : Nat × α} (hc : c ∈ m) : tabGet d c.1 m = c.2 := by
  induction m with
  | nil => exact nomatch hc
  | cons e m ih =>
    obtain ⟨he, hm⟩ := List.pairwise_cons.mp hm
    rcases List.mem_cons.mp hc with rfl | hc
    · rw [tabGet, if_neg (Nat.lt_irrefl _), if_pos rfl]
    · have hlt := he c hc
      rw [tabGet, if_neg (by omega), if_neg (by omega), ih hm hc]

theorem tabGet_of_not_mem {m : Tab α} {k : Nat} (h : ∀ c ∈ m, c.1 ≠ k) : tabGet d k m = d k := by
  induction m with
  | nil => rfl
  | cons e m ih =>
    have hne := h e List.mem_cons_self
    rw [tabGet]
    split_ifs with h1 h2
    · rfl
    · exact absurd h2.symm hne
    · exact ih fun c hc => h c (List.mem_cons_of_mem e hc)

/-- A part of a table that its keys tell. -/
theorem tabGet_filter {m : Tab α} (hm : m.Pairwise (fun a b => a.1 < b.1)) (P : Nat → Bool) (k : Nat) :
    tabGet d k (m.filter (fun c => P c.1)) = if P k = true then tabGet d k m else d k := by
  by_cases hk : ∃ c ∈ m, c.1 = k
  · obtain ⟨c, hc, rfl⟩ := hk
    split_ifs with hP
    · rw [tabGet_of_mem hm hc]
      exact tabGet_of_mem (hm.filter _) (List.mem_filter.mpr ⟨hc, hP⟩)
    · refine tabGet_of_not_mem fun e he heq => hP ?_
      rw [← heq]
      exact (List.mem_filter.mp he).2
  · have hno : ∀ c ∈ m, c.1 ≠ k := fun c hc h => hk ⟨c, hc, h⟩
    rw [tabGet_of_not_mem hno, tabGet_of_not_mem fun c hc => hno c (List.mem_filter.mp hc).1, ite_self]

variable [DecidableEq α]

theorem tabGet_foldl_tabSet_other (f : Nat → Nat) {l : List (Nat × α)} {y : Nat} (h : ∀ c ∈ l, f c.1 ≠ y) (t : Tab α) :
    tabGet d y (l.foldl (fun t c => tabSet d (f c.1) c.2 t) t) = tabGet d y t := by
  induction l generalizing t with
  | nil => rfl
  | cons c l ih =>
    rw [List.foldl_cons, ih (fun e he => h e (List.mem_cons_of_mem c he)),
      tabGet_tabSet_ne _ _ (h c List.mem_cons_self).symm]

theorem tabGet_foldl_tabSet_self (f : Nat → Nat) {l : List (Nat × α)} (hl : l.Pairwise (fun a b => f a.1 ≠ f b.1)) {c : Nat × α}
    (hc : c ∈ l) (t : Tab α) : tabGet d (f c.1) (l.foldl (fun t c => tabSet d (f c.1) c.2 t) t) = c.2 := by
  induction l generalizing t with
  | nil => exact nomatch hc
  | cons e l ih =>
    obtain ⟨he, hl⟩ := List.pairwise_cons.mp hl
    rw [List.foldl_cons]
    rcases List.mem_cons.mp hc with rfl | hc
    · rw [tabGet_foldl_tabSet_other f (fun x hx => (he x hx).symm), tabGet_tabSet_self]
    · exact ih hl hc _

end

/-! ### The copy of a page -/

section
variable {m : List Host.Cell} (hm : m.Pairwise (fun a b => a.1 < b.1)) (a b : Nat)
include hm

theorem copyCells_outside (n : Nat) {y : Nat} (hy : y < b ∨ b + n ≤ y) :
    tabGet zeroByte y (copyCells m a b n) = tabGet zeroByte y m := by
  have hout : ∀ c ∈ m.filter (fun c => decide (a ≤ c.1) && decide (c.1 < a + n)), b + (c.1 - a) ≠ y := by
    intro c hc
    obtain ⟨-, hin⟩ := List.mem_filter.mp hc
    rw [Bool.and_eq_true, decide_eq_true_iff, decide_eq_true_iff] at hin
    omega
  have hkept : (!(decide (b ≤ y) && decide (y < b + n))) = true := by
    rw [Bool.not_eq_true', Bool.and_eq_false_iff, decide_eq_false_iff_not, decide_eq_false_iff_not]
    omega
  rw [copyCells, tabGet_foldl_tabSet_other (fun x => b + (x - a)) hout,
    tabGet_filter hm (fun x => !(decide (b ≤ x) && decide (x < b + n))), if_pos hkept]

theorem copyCells_inside (n : Nat) {i : Nat} (hi : i < n) :
    tabGet zeroByte (b + i) (copyCells m a b n) = tabGet zeroByte (a + i) m := by
  have hin (c : Host.Cell) : c ∈ m.filter (fun c => decide (a ≤ c.1) && decide (c.1 < a + n)) ↔ c ∈ m ∧ a ≤ c.1 ∧ c.1 < a + n := by
    rw [List.mem_filter, Bool.and_eq_true, decide_eq_true_iff, decide_eq_true_iff]
  by_cases hk : ∃ c ∈ m, c.1 = a + i
  · obtain ⟨c, hc, hci⟩ := hk
    have hpair : (m.filter (fun c => decide (a ≤ c.1) && decide (c.1 < a + n))).Pairwise
        (fun x y => b + (x.1 - a) ≠ b + (y.1 - a)) := by
      refine (hm.filter _).imp_of_mem fun {x y} hx hy hlt => ?_
      have hax := ((hin x).mp hx).2.1
      omega
    have hself := tabGet_foldl_tabSet_self (d := zeroByte) (fun x => b + (x - a)) hpair ((hin c).mpr ⟨hc, by omega, by omega⟩)
      (m.filter (fun c => !(decide (b ≤ c.1) && decide (c.1 < b + n))))
    rw [hci, Nat.add_sub_cancel_left] at hself
    rw [copyCells, hself, ← hci, tabGet_of_mem hm hc]
  · have hno : ∀ c ∈ m, c.1 ≠ a + i := fun c hc h => hk ⟨c, hc, h⟩
    have hout : ∀ c ∈ m.filter (fun c => decide (a ≤ c.1) && decide (c.1 < a + n)), b + (c.1 - a) ≠ b + i := by
      intro c hc
      obtain ⟨hcm, hac, -⟩ := (hin c).mp hc
      have := hno c hcm
      omega
    have hgone : (!(decide (b ≤ b + i) && decide (b + i < b + n))) = false := by
      rw [decide_eq_true (by omega), decide_eq_true (by omega)]
      rfl
    rw [copyCells, tabGet_foldl_tabSet_other (fun x => b + (x - a)) hout,
      tabGet_filter hm (fun x => !(decide (b ≤ x) && decide (x < b + n))), if_neg (by rw [hgone]; exact Bool.false_ne_true),
      tabGet_of_not_mem hno]
    rfl

end

theorem State.copyPage_mem_sound {s : State} (h : s.lineErr = []) (a b : Nat) : (s.copyPage a b).mem = copyCells s.mem a b 65536 := by
  rw [State.copyPage, h]
  rfl

theorem copyPage_copies (s : State) (a b : Nat) (hwf : memWf s = true) (h : s.lineErr = []) :
    (∀ i, i < 65536 → (s.copyPage a b).byte (b + i) = s.byte (a + i)) ∧
      ∀ y, y < b ∨ b + 65536 ≤ y → (s.copyPage a b).byte y = s.byte y := by
  have hm := (tabWf_head s.mem hwf).1
  have hmem := State.copyPage_mem_sound h a b
  refine ⟨fun i hi => ?_, fun y hy => ?_⟩
  · rw [State.byte, hmem]
    exact copyCells_inside hm a b 65536 hi
  · rw [State.byte, hmem]
    exact copyCells_outside hm a b 65536 hy

/-! ### Direct accesses of a line -/

/-- The request of a direct access. -/
def State.directReq (s : State) (part : Option PartId) (a : Nat) (kind : MemKind) (len : Nat) (data : List Byte) : MemReq :=
  { id := s.nextId, src := srcManagement, tag := 0, part := part, addr := a, kind := kind, len := len, data := data
    since := s.memCycle }

section
variable {s : State} {part : Option PartId} {a : Nat} {kind : MemKind} {len : Nat} {data : List Byte}

/-- A direct access adds to what the command waits for, or nothing. -/
theorem State.stalls_of_direct (h : (s.direct part a kind len data).1.stalls = []) : s.stalls = [] := by
  unfold State.direct at h
  dsimp only at h
  split_ifs at h
  · rwa [State.logChan_stalls] at h
  · rwa [State.logChan_stalls] at h
  · exact (List.append_eq_nil_iff.mp h).1
  · rwa [State.performReq_stalls] at h

/-- A direct access that waits for nothing is performed. -/
theorem State.direct_performs (hole : addrHole a = false) (hen : s.chEnabled (chanOf a) = true)
    (h : (s.direct part a kind len data).1.stalls = []) :
    s.direct part a kind len data = s.performReq (chanOf a) (s.directReq part a kind len data) := by
  unfold State.direct at h ⊢
  dsimp only at h ⊢
  rw [hole, hen] at h ⊢
  simp only [Bool.false_eq_true, if_false, Bool.not_true] at h ⊢
  split_ifs at h ⊢
  · exact absurd (List.append_eq_nil_iff.mp h).2 (List.cons_ne_nil _ _)
  · rfl

end

theorem linePieces_word {a : Nat} (h : a % 8 = 0) : linePieces a 8 = [(a, 8)] := by
  have hlines : linesOf a 8 = [a / 64] := by
    rw [linesOf, if_neg (by decide), show (a + 8 - 1) / 64 - a / 64 + 1 = 1 by omega]
    rfl
  rw [linePieces, hlines, List.map_singleton]
  simp only [List.cons.injEq, Prod.mk.injEq, and_true]
  omega

end Sys2Proof.Machine
end

section
/-! PROOFS. The swap of a page and the writes at a joint unit (R239 to R244, R248). -/

namespace Sys2Proof.Machine

/-! ### A word of a sound line -/

theorem oTM_READS_ne (n m : Nat) : oCH_CTL m ≠ oTM_READS n := by
  simp only [oCH_CTL, oTM_READS, oCH]
  omega

section
variable {s : State} {p : Option PartId} {a : Nat}

theorem State.readPhys_word (h8 : a % 8 = 0) :
    s.readPhys p a 8 = ((s.direct p a .read 8 []).1, (s.direct p a .read 8 []).2.status.toNat, (s.direct p a .read 8 []).2.data) := by
  rw [State.readPhys, linePieces_word h8, List.foldl_cons, List.foldl_nil]
  rfl

theorem State.writePhys_word (h8 : a % 8 = 0) {bs : List Byte} (hlen : bs.length = 8) :
    (s.writePhys p a bs).1 = (s.direct p a .write 8 bs).1 := by
  have hall : sliceBytes bs (a - a) 8 = bs := by
    rw [Nat.sub_self, ← hlen]
    rw [sliceBytes_eq_take_drop bs 0 bs.length (by omega), List.drop_zero, List.take_length]
  rw [State.writePhys, hlen, linePieces_word h8, List.foldl_cons, List.foldl_nil]
  dsimp only
  rw [hall]
  rfl

variable (h8 : a % 8 = 0) (hole : addrHole a = false) (hen : s.chEnabled (chanOf a) = true) (herr : s.errorsIn (a / 64) = 0)
include h8 hole hen herr

theorem State.readPhys_sound (hst : (s.readPhys p a 8).1.stalls = []) :
    s.readPhys p a 8 = (s.incFld (oTM_READS (chanOf a)) 63 0 1, 0, readBytes s.mem a 8) := by
  rw [State.readPhys_word h8] at hst ⊢
  rw [State.direct_performs hole hen hst,
    State.performReq_read (s := s) (n := chanOf a) (r := s.directReq p a .read 8 []) rfl herr (by simp only [State.directReq]; omega)]
  rfl

theorem State.writePhys_sound {bs : List Byte} (hlen : bs.length = 8) (hst : (s.writePhys p a bs).1.stalls = []) :
    (∀ y, (s.writePhys p a bs).1.byte y = tabGet zeroByte y (writeBytes s.mem a bs)) ∧
      ∃ regs mem errs, (s.writePhys p a bs).1 = { s with regs := regs, mem := mem, lineErr := errs } := by
  rw [State.writePhys_word h8 hlen] at hst ⊢
  rw [State.direct_performs hole hen hst]
  obtain ⟨-, hbyte, hrest⟩ := State.performReq_write (s := s) (n := chanOf a) (r := s.directReq p a .write 8 bs) rfl herr rfl
    (by simp only [State.directReq]; omega) hlen
  exact ⟨hbyte, hrest⟩

end

/-! ### What walks that start again leave -/

theorem State.programs_cartRewalk (s : State) (c : CoreId) (n : Fin 2) : (s.cartRewalk c n).programs = s.programs := by
  unfold State.cartRewalk
  split
  · dsimp only
    split
    · exact (State.programs_modEng ..).trans ((State.programs_of_cores rfl).trans (State.programs_modEng ..))
    · exact (State.programs_modEng ..).trans ((State.programs_of_cores (State.logXlate_cores ..)).trans (State.programs_modEng ..))
    · exact State.programs_modEng ..
  · rfl

theorem State.programs_cartRewalkIf (f : Walk → Bool) (s : State) (c : CoreId) (n : Fin 2) :
    (s.cartRewalkIf f c n).programs = s.programs := by
  unfold State.cartRewalkIf
  split
  · split_ifs
    · exact s.programs_cartRewalk c n
    · rfl
  · rfl

theorem State.programs_rewalk (s : State) (f : Walk → Bool) : (s.rewalk f).programs = s.programs := by
  rw [State.rewalk]
  refine (State.programs_foldl _ (fun t n => ?_) _ _).trans (State.programs_foldl _ (fun t n => ?_) _ _)
  · split
    · split_ifs
      · exact State.programs_of_cores (State.hcRewalk_cores ..)
      · rfl
    · rfl
  · split_ifs
    · exact (State.programs_cartRewalkIf ..).trans (State.programs_cartRewalkIf ..)
    · rfl

theorem State.programs_dropLeaves (s : State) (f : TlbEntry → Bool) : (s.dropLeaves f).programs = s.programs := by
  have hcores : (s.dropLeaves f).cores = (s.mapCores (fun k => { k with tlb := k.tlb.filter (fun e => !f e) })).cores := by
    rw [State.dropLeaves]
  rw [State.programs_of_cores hcores]
  funext c
  rw [State.programs, State.core_mapCores]
  rfl

/-! ### The swap of a page -/

/-- The word of a leaf that names a shadow. -/
def leafWord (bs : List Byte) (shadow : Nat) : Word := setBits (BitVec.ofNat 64 (leNat bs)) 40 8 (shadow / 256)

theorem State.swapPage_eq (s : State) (p : PartId) (d : DirtyPage) : State.swapPage p s d =
    (((((s.readPhys (some p) d.leafAt 8).1.writePhys (some p) d.leafAt
      (natLe 8 (leafWord (s.readPhys (some p) d.leafAt 8).2.2 d.shadow).toNat)).1.dropLeaves (fun t => t.at_ == d.leafAt)).rewalk
        (fun w => w.level == 0 && w.entry == d.leafAt)).modPart p (fun q => q.swapPage d.page d.shadow)) := rfl

theorem swapPage_effect (s : State) (p : PartId) (d : DirtyPage) (h8 : d.leafAt % 8 = 0) (hole : addrHole d.leafAt = false)
    (hen : s.chEnabled (chanOf d.leafAt) = true) (herr : s.errorsIn (d.leafAt / 64) = 0) (hst : (State.swapPage p s d).stalls = []) :
    readBytes (State.swapPage p s d).mem d.leafAt 8 = natLe 8 (leafWord (readBytes s.mem d.leafAt 8) d.shadow).toNat ∧
      (∀ a, a < d.leafAt ∨ d.leafAt + 8 ≤ a → (State.swapPage p s d).byte a = s.byte a) ∧
      (∀ c, ((State.swapPage p s d).core c).s = (s.core c).s ∧ ((State.swapPage p s d).core c).bench = (s.core c).bench) := by
  have hshape := s.swapPage_eq p d
  have hlen (v : Nat) : (natLe 8 v).length = 8 := natLe_length 8 v
  generalize State.swapPage p s d = t at hst hshape ⊢
  have hwst : ((s.readPhys (some p) d.leafAt 8).1.writePhys (some p) d.leafAt
      (natLe 8 (leafWord (s.readPhys (some p) d.leafAt 8).2.2 d.shadow).toNat)).1.stalls = [] := by
    rwa [hshape, State.modPart_stalls, State.rewalk_stalls, State.dropLeaves_stalls] at hst
  have hrst : (s.readPhys (some p) d.leafAt 8).1.stalls = [] := by
    rw [State.writePhys_word h8 (hlen _)] at hwst
    exact State.stalls_of_direct hwst
  rw [State.readPhys_sound h8 hole hen herr hrst] at hshape hwst
  dsimp only at hshape hwst
  generalize leafWord (readBytes s.mem d.leafAt 8) d.shadow = e at hshape hwst ⊢
  have hen' : (s.incFld (oTM_READS (chanOf d.leafAt)) 63 0 1).chEnabled (chanOf d.leafAt) = true := by
    rw [State.chEnabled, State.bit, State.fld_incFld_other (oTM_READS_ne _ _)]
    exact hen
  obtain ⟨hbyte, regs, mem, errs, hrest⟩ := State.writePhys_sound (s := s.incFld (oTM_READS (chanOf d.leafAt)) 63 0 1) (p := some p)
    h8 hole hen' herr (hlen e.toNat) hwst
  generalize ((s.incFld (oTM_READS (chanOf d.leafAt)) 63 0 1).writePhys (some p) d.leafAt (natLe 8 e.toNat)).1 = u at hshape hbyte hrest
  have hmem : t.mem = u.mem := by rw [hshape, State.modPart_mem, State.rewalk_mem, State.dropLeaves_mem]
  have hbyte' (y : Nat) : tabGet zeroByte y t.mem = tabGet zeroByte y (writeBytes s.mem d.leafAt (natLe 8 e.toNat)) := by
    rw [hmem]
    exact hbyte y
  have hprog : t.programs = s.programs := by
    have hu : u.programs = s.programs := by
      rw [hrest]
      rfl
    rw [hshape, State.programs_of_cores (State.modPart_cores ..), State.programs_rewalk, State.programs_dropLeaves, hu]
  refine ⟨?_, fun y hy => ?_, fun c => ?_⟩
  · rw [readBytes_congr fun j _ _ => hbyte' j]
    have := readBytes_writeBytes_self s.mem d.leafAt (natLe 8 e.toNat)
    rwa [hlen] at this
  · rw [State.byte, hbyte', tabGet_writeBytes, if_neg (by rw [hlen]; omega)]
    rfl
  · have h := congrFun hprog c
    simp only [State.programs, Core.program, Prod.mk.injEq] at h
    obtain ⟨h1, -, h3, -⟩ := h
    exact ⟨h1, h3⟩

/-! ### Writes at the joint unit -/

section
variable {s : State} {p : PartId} {w : JointWrite} {rest : List JointWrite} (ha : s.alive = true)
  (hw : (s.part p).jointWrites = w :: rest) (hs : (s.part p).shadowWait = none)

/-- The write at the head of the joint unit is taken up. -/
def State.writeTaken (s : State) (p : PartId) (rest : List JointWrite) : State := s.modPart p (fun q => { q with jointWrites := rest })

theorem State.joint_writeTaken (s : State) (p : PartId) (rest : List JointWrite) (i : Nat) :
    (s.writeTaken p rest).joint p i = s.joint p i :=
  State.joint_modPart_of (f := fun q => { q with jointWrites := rest }) (fun _ => rfl) s p p i

theorem State.part_writeTaken (s : State) (p : PartId) (rest : List JointWrite) :
    (s.writeTaken p rest).part p = { s.part p with jointWrites := rest } := State.part_modPart_self ..

theorem State.otherWriter_writeTaken (s : State) (p : PartId) (rest : List JointWrite) (j l : Nat) :
    (s.writeTaken p rest).otherWriter p j l = s.otherWriter p j l := by
  rw [State.otherWriter, State.part_writeTaken]
  rfl

theorem State.freePages_writeTaken (s : State) (p : PartId) (rest : List JointWrite) :
    (s.writeTaken p rest).freePages p = s.freePages p := by
  rw [State.freePages, State.part_writeTaken]
  rfl

include ha hw hs in
theorem exec_jointPageWrite : exec (.jointPageWrite p) s = .next ((s.writeTaken p rest).pageWrite p w) := by
  show execJointPageWrite p s = _
  rw [execJointPageWrite, hw, hs]
  exact whenever_of_alive ha rfl _

theorem State.pageWrite_outside (h : w.joint = 0) (t : State) : t.pageWrite p w = t.answerWrite p w.req 0x0305 := by
  rw [State.pageWrite, if_pos h]

theorem State.pageWrite_gone {t : State} (h : w.joint ≠ 0) (hx : (t.joint p w.joint).st = .free ∨ (t.joint p w.joint).st = .aborted) :
    t.pageWrite p w = t.answerWrite p w.req 0 := by
  rw [State.pageWrite, if_neg h]
  rcases hx with hx | hx <;> rw [hx]

theorem State.pageWrite_member {t : State}
    (h : w.joint ≠ 0 ∧ ((t.joint p w.joint).st = .open_ ∨ (t.joint p w.joint).st = .committing)) :
    t.pageWrite p w = t.memberWrite p w := by
  obtain ⟨h0, hx⟩ := h
  rw [State.pageWrite, if_neg h0]
  rcases hx with hx | hx <;> rw [hx]

end

/-- The pages of the pool that no access still reaches. -/
def State.restingPages (s : State) (p : PartId) : List Nat := (s.freePages p).filter (fun a => !s.pageBusy a 65536)

/-- The page that a first write takes as its shadow. -/
def State.shadowChoice (s : State) (p : PartId) : Nat := (s.restingPages p).getD (s.fresh.1.toNat % (s.restingPages p).length) 0

theorem State.shadowChoice_mem {s : State} {p : PartId} (h : s.restingPages p ≠ []) :
    s.shadowChoice p ∈ s.freePages p ∧ s.pageBusy (s.shadowChoice p) 65536 = false := by
  have hpos : 0 < (s.restingPages p).length := List.length_pos_of_ne_nil h
  have hlt := Nat.mod_lt s.fresh.1.toNat hpos
  have hmem : s.shadowChoice p ∈ s.restingPages p := by
    rw [State.shadowChoice, List.getD_eq_getElem _ _ hlt]
    exact List.getElem_mem hlt
  obtain ⟨hf, hb⟩ := List.mem_filter.mp hmem
  exact ⟨hf, by simpa using hb⟩

section
variable {s : State} {p : PartId} {w : JointWrite}

theorem State.firstWrite_full (h : 1024 ≤ (s.joint p w.joint).dirty.length ∨ s.freePages p = []) :
    s.firstWrite p w = (s.failJoint p w.joint 0x0303).answerWrite p w.req 0 := by
  rw [State.firstWrite]
  exact if_pos h

variable (hd : (s.joint p w.joint).dirty.length < 1024) (hf : s.freePages p ≠ [])
include hd hf

theorem State.firstWrite_waits (hb : ∀ a ∈ s.freePages p, s.pageBusy a 65536 = true) :
    s.firstWrite p w = s.modPart p (fun q => { q with jointWrites := w :: q.jointWrites }) := by
  have hnone : (s.freePages p).filter (fun a => !s.pageBusy a 65536) = [] :=
    List.filter_eq_nil_iff.mpr fun a ha => by rw [hb a ha]; exact Bool.false_ne_true
  rw [State.firstWrite]
  dsimp only
  rw [if_neg (by rintro (h | h); exacts [absurd h (by omega), hf h]), hnone, if_pos rfl]

theorem State.firstWrite_takes (hrest : s.restingPages p ≠ []) (hin : s.inRanges p (s.shadowChoice p) 65536 = true)
    (hc : s.isClass0 p = false) :
    s.firstWrite p w = ((s.fresh.2.modJoint p w.joint (fun x => { x with
      dirty := x.dirty ++ [{ leafAt := w.leafAt, page := eAddr w.entry, shadow := s.shadowChoice p, mirrored := eClass w.entry == 2 }] })
      ).modPart p (fun q => { q with shadowWait := some w })) := by
  have hin' : (!s.fresh.2.inRanges p (s.shadowChoice p) 65536) = false := by
    rw [show s.fresh.2.inRanges p (s.shadowChoice p) 65536 = s.inRanges p (s.shadowChoice p) 65536 from rfl, hin]
    rfl
  have hcheck (f : Joint → Joint) (m : Bool) : (s.fresh.2.modJoint p w.joint f).class0Check p w.joint m = s.fresh.2.modJoint p w.joint f := by
    rw [State.class0Check, show (s.fresh.2.modJoint p w.joint f).isClass0 p = s.isClass0 p from rfl, hc, Bool.and_false, Bool.false_and]
    exact if_neg Bool.false_ne_true
  have hshape : s.firstWrite p w =
      if 1024 ≤ (s.joint p w.joint).dirty.length ∨ s.freePages p = [] then
        (s.failJoint p w.joint 0x0303).answerWrite p w.req 0
      else if s.restingPages p = [] then s.modPart p (fun q => { q with jointWrites := w :: q.jointWrites })
      else if !s.fresh.2.inRanges p (s.shadowChoice p) 65536 then s.fresh.2.answerWrite p w.req 0x0102
      else ((s.fresh.2.modJoint p w.joint (fun x => { x with
        dirty := x.dirty ++ [{ leafAt := w.leafAt, page := eAddr w.entry, shadow := s.shadowChoice p, mirrored := eClass w.entry == 2 }] })
        ).class0Check p w.joint (eClass w.entry == 2)).modPart p (fun q => { q with shadowWait := some w }) := rfl
  rw [hshape, if_neg (by rintro (h | h); exacts [absurd h (by omega), hf h]), if_neg hrest, hin', if_neg Bool.false_ne_true, hcheck]

end

section
variable {s : State} {p : PartId} {w : JointWrite}

theorem State.memberWrite_dirty {d : DirtyPage} (h : (s.joint p w.joint).dirty.find? (fun d => d.leafAt == w.leafAt) = some d) :
    s.memberWrite p w = s.toShadow p w d := by
  rw [State.memberWrite, h]

variable (h : (s.joint p w.joint).dirty.find? (fun d => d.leafAt == w.leafAt) = none)
include h

theorem State.memberWrite_first (ho : s.otherWriter p w.joint w.leafAt = none) : s.memberWrite p w = s.firstWrite p w := by
  rw [State.memberWrite, h]
  dsimp only
  rw [ho]

theorem State.memberWrite_conflict {k : Nat} (ho : s.otherWriter p w.joint w.leafAt = some k) :
    s.memberWrite p w =
      if (s.joint p w.joint).st = .committing ∧ (s.joint p k).st = .open_ then (s.failJoint p k 0x0301).firstWrite p w
      else (s.failJoint p w.joint 0x0301).answerWrite p w.req 0 := by
  rw [State.memberWrite, h]
  dsimp only
  rw [ho]

end

/-! ### A write to a page that its joint does not yet hold -/

theorem State.jointWrites_modJoint (s : State) (p : PartId) (j : Nat) (f : Joint → Joint) :
    ((s.modJoint p j f).part p).jointWrites = (s.part p).jointWrites := by
  rw [State.modJoint, State.part_modPart_self]

section
variable {s : State} {p : PartId} {w : JointWrite} {rest : List JointWrite} (ha : s.alive = true)
  (hw : (s.part p).jointWrites = w :: rest) (hs : (s.part p).shadowWait = none)
  (hmay : w.joint ≠ 0 ∧ ((s.joint p w.joint).st = .open_ ∨ (s.joint p w.joint).st = .committing))
include ha hw hs hmay

theorem jointPageWrite_member : exec (.jointPageWrite p) s = .next ((s.writeTaken p rest).memberWrite p w) := by
  rw [exec_jointPageWrite ha hw hs, State.pageWrite_member (by rw [State.joint_writeTaken]; exact hmay)]

variable (hnew : (s.joint p w.joint).dirty.find? (fun d => d.leafAt == w.leafAt) = none)
include hnew

theorem jointPageWrite_conflict {k : Nat} (ho : s.otherWriter p w.joint w.leafAt = some k) :
    exec (.jointPageWrite p) s = .next
      (if (s.joint p w.joint).st = .committing ∧ (s.joint p k).st = .open_ then
        ((s.writeTaken p rest).failJoint p k 0x0301).firstWrite p w
      else ((s.writeTaken p rest).failJoint p w.joint 0x0301).answerWrite p w.req 0) := by
  rw [jointPageWrite_member ha hw hs hmay, State.memberWrite_conflict (by rw [State.joint_writeTaken]; exact hnew)
    ((s.otherWriter_writeTaken p rest _ _).trans ho), State.joint_writeTaken, State.joint_writeTaken]

variable (ho : s.otherWriter p w.joint w.leafAt = none)
include ho

theorem jointPageWrite_first : exec (.jointPageWrite p) s = .next ((s.writeTaken p rest).firstWrite p w) := by
  rw [jointPageWrite_member ha hw hs hmay, State.memberWrite_first (by rw [State.joint_writeTaken]; exact hnew)
    ((s.otherWriter_writeTaken p rest _ _).trans ho)]

theorem jointPageWrite_full (hfull : 1024 ≤ (s.joint p w.joint).dirty.length ∨ s.freePages p = []) :
    exec (.jointPageWrite p) s = .next (((s.writeTaken p rest).failJoint p w.joint 0x0303).answerWrite p w.req 0) := by
  rw [jointPageWrite_first ha hw hs hmay hnew ho, State.firstWrite_full]
  rwa [State.joint_writeTaken, State.freePages_writeTaken]

variable (hlen : (s.joint p w.joint).dirty.length < 1024)
include hlen

theorem jointPageWrite_waits (hf : s.freePages p ≠ []) (hb : ∀ a ∈ s.freePages p, (s.writeTaken p rest).pageBusy a 65536 = true) :
    Completes (.jointPageWrite p) s (fun t => t.part p = s.part p ∧ t.mem = s.mem ∧ t.cores = s.cores) := by
  have he := jointPageWrite_first ha hw hs hmay hnew ho
  rw [State.firstWrite_waits (by rw [State.joint_writeTaken]; exact hlen) (by rwa [State.freePages_writeTaken])
    (by rw [State.freePages_writeTaken]; exact hb)] at he
  refine completes_of_eq he ⟨?_, rfl, rfl⟩
  rw [State.part_modPart_self, State.part_writeTaken, ← hw]

theorem jointPageWrite_takes (hfree : ∃ a ∈ s.freePages p, (s.writeTaken p rest).pageBusy a 65536 = false)
    (hc : s.isClass0 p = false) (hin : ∀ a ∈ s.freePages p, s.inRanges p a 65536 = true) :
    Completes (.jointPageWrite p) s (fun t =>
      (t.part p).shadowWait = some w ∧ (t.part p).jointWrites = rest ∧ t.mem = s.mem ∧
      ∃ e, (t.joint p w.joint).dirty = (s.joint p w.joint).dirty ++ [e] ∧ e.leafAt = w.leafAt ∧ e.page = eAddr w.entry ∧
        e.copied = false ∧ e.shadow ∈ s.freePages p ∧ (s.writeTaken p rest).pageBusy e.shadow 65536 = false) := by
  have he := jointPageWrite_first ha hw hs hmay hnew ho
  have hpages := s.freePages_writeTaken p rest
  have hjoint := s.joint_writeTaken p rest w.joint
  have hpart := s.part_writeTaken p rest
  have hmem : (s.writeTaken p rest).mem = s.mem := rfl
  have hranges (a : Nat) : (s.writeTaken p rest).inRanges p a 65536 = s.inRanges p a 65536 := rfl
  have hclass : (s.writeTaken p rest).isClass0 p = s.isClass0 p := rfl
  generalize s.writeTaken p rest = t at he hfree hpages hjoint hpart hmem hranges hclass ⊢
  have hrest : t.restingPages p ≠ [] := by
    obtain ⟨a, ha, hb⟩ := hfree
    exact List.ne_nil_of_mem (List.mem_filter.mpr ⟨hpages ▸ ha, by rw [hb]; rfl⟩)
  obtain ⟨hchoice, hidle⟩ := State.shadowChoice_mem hrest
  rw [hpages] at hchoice
  have hne : t.freePages p ≠ [] := by
    rw [hpages]
    exact List.ne_nil_of_mem hchoice
  rw [State.firstWrite_takes (by rw [hjoint]; exact hlen) hne hrest ((hranges _).trans (hin _ hchoice)) (hclass.trans hc)] at he
  generalize t.shadowChoice p = sh at he hchoice hidle
  let e : DirtyPage := { leafAt := w.leafAt, page := eAddr w.entry, shadow := sh, mirrored := eClass w.entry == 2 }
  have hj := t.fresh.2.joint_modJoint p w.joint w.joint (fun x => { x with dirty := x.dirty ++ [e] })
  have hp := t.fresh.2.jointWrites_modJoint p w.joint (fun x => { x with dirty := x.dirty ++ [e] })
  refine completes_of_eq he ⟨?_, ?_, hmem, e, ?_, rfl, rfl, rfl, hchoice, hidle⟩
  · rw [State.part_modPart_self]
  · rw [State.part_modPart_self]
    exact hp.trans (congrArg Part.jointWrites hpart)
  · refine (congrArg Joint.dirty ((State.joint_modPart_of (f := fun q => { q with shadowWait := some w }) (fun _ => rfl) _ p p w.joint).trans
      (hj.trans (if_pos rfl)))).trans ?_
    exact congrArg (fun x : Joint => x.dirty ++ [e]) hjoint

end

/-! ### The end of a copy -/

section
variable {s : State} {p : PartId} {w : JointWrite} {d : DirtyPage} (ha : s.alive = true)
  (hw : (s.part p).shadowWait = some w)
  (hd : (s.joint p w.joint).dirty.find? (fun d => d.leafAt == w.leafAt) = some d)

include ha hw in
theorem exec_shadowCopyDone : exec (.shadowCopyDone p) s = .next (s.settle (s.copyDone p w)) := by
  show execShadowCopyDone p s = _
  rw [execShadowCopyDone, hw]
  exact whenever_of_alive ha rfl _

include hd in
theorem State.copyDone_aborted (hab : (s.joint p w.joint).aborting = true) :
    s.copyDone p w = (s.modPart p (fun q => { q with shadowWait := none })).answerWrite p w.req 0 := by
  rw [State.copyDone]
  dsimp only
  rw [hd, hab]

include hd in
theorem State.copyDone_performs (hab : (s.joint p w.joint).aborting = false)
    (h1 : (s.modPart p (fun q => { q with shadowWait := none })).reachPage d.page = (s.modPart p (fun q => { q with shadowWait := none }), 0))
    (h2 : (s.modPart p (fun q => { q with shadowWait := none })).reachPage d.shadow =
      (s.modPart p (fun q => { q with shadowWait := none }), 0)) :
    s.copyDone p w = ((((s.modPart p (fun q => { q with shadowWait := none })).copyPage d.page d.shadow).modJoint p w.joint (fun x =>
      { x with dirty := x.dirty.map (fun y => if y.leafAt == w.leafAt then { y with copied := true } else y) })).toShadow p w d) := by
  rw [State.copyDone]
  dsimp only
  rw [hd, hab]
  dsimp only
  rw [h1]
  simp only [if_true, h2]
  rfl

end

/-- Settles O42: the swap, the write at the joint unit by what it meets, and the end of the copy. -/
theorem jointPages : Obligations.jointPages := by
  unfold Obligations.jointPages
  refine ⟨fun s p d h8 hole hen herr _ hst => swapPage_effect s p d h8 hole hen herr hst, ?_, ?_, ?_⟩
  · intro s p w rest ha hw hs x s1 may
    refine ⟨fun h0 => ?_, fun h0 hx => ?_, fun hmay d hd => ?_, fun hmay hnew ho => ⟨fun hfull => ?_, fun hlen hf hb => ?_,
      fun hlen hfree hc hin => ?_⟩, fun hmay hnew k ho => ⟨fun hx => ?_, fun hx hk => ?_⟩⟩
    · rw [exec_jointPageWrite ha hw hs, State.pageWrite_outside h0]
      rfl
    · rw [exec_jointPageWrite ha hw hs, State.pageWrite_gone h0 (by rw [State.joint_writeTaken]; exact hx)]
      rfl
    · rw [jointPageWrite_member ha hw hs hmay, State.memberWrite_dirty (by rw [State.joint_writeTaken]; exact hd)]
      rfl
    · exact jointPageWrite_full ha hw hs hmay hnew ho hfull
    · exact jointPageWrite_waits ha hw hs hmay hnew ho hlen hf hb
    · exact jointPageWrite_takes ha hw hs hmay hnew ho hlen hfree hc hin
    · rw [jointPageWrite_conflict ha hw hs hmay hnew ho, if_neg]
      · rfl
      · rintro ⟨h1, h2⟩
        rcases hx with hx | hx
        · exact absurd (hx.symm.trans h1) (by decide)
        · exact hx h2
    · rw [jointPageWrite_conflict ha hw hs hmay hnew ho, if_pos ⟨hx, hk⟩]
      rfl
  · intro s p w d ha hst hw hd t
    have hthrough {u : State} (hu : s.copyDone p w = u) (hs : u.stalls = s.stalls) : exec (.shadowCopyDone p) s = .next u := by
      rw [exec_shadowCopyDone ha hw, hu, State.settle_of_no_stalls s (hs.trans hst)]
    refine ⟨fun hab => hthrough (State.copyDone_aborted hd hab) ?_, fun hab h1 h2 => hthrough (State.copyDone_performs hd hab h1 h2) ?_,
      fun hne => ?_⟩
    · rw [State.answerWrite_stalls, State.modPart_stalls]
    · rw [State.toShadow_stalls, State.modJoint_stalls, State.copyPage_stalls, State.modPart_stalls]
    · obtain ⟨hp, hm, -⟩ := s.settle_of_stalls hne
      exact completes_of_eq (exec_shadowCopyDone ha hw) ⟨hp, hm⟩
  · intro s a b hwf herr _ t
    exact copyPage_copies s a b hwf herr

end Sys2Proof.Machine
end

section
/-! PROOFS. The windows of device memory, FLUSH reads and the answers to host reads (R254, R256, R257, R259, R262 to R264). -/

namespace Sys2Proof.Machine

/-! ### An access of one line -/

theorem linePieces_line {a len : Nat} (h0 : 0 < len) (h : a % 64 + len ≤ 64) : linePieces a len = [(a, len)] := by
  have hlines : linesOf a len = [a / 64] := by
    rw [linesOf, if_neg (by omega), show (a + len - 1) / 64 - a / 64 + 1 = 1 by omega]
    rfl
  rw [linePieces, hlines, List.map_singleton]
  simp only [List.cons.injEq, Prod.mk.injEq, and_true]
  omega

theorem slices_line {a len : Nat} (h0 : 0 < len) (h : a % 64 + len ≤ 64) (data : List Byte) :
    slices a data len = [(a, data.take len, len)] := by
  rw [slices, linePieces_line h0 h, List.map_singleton, Nat.sub_self, List.drop_zero]

theorem slices_empty (a : Nat) (data : List Byte) : slices a data 0 = [] := rfl

/-- The access of one line is one request, in flight, that is waited for. -/
def State.Asked (s : State) (who : ServeFor) (at_ : Nat) (kind : MemKind) (len : Nat) (bytes : List Byte) (t : State) : Prop :=
  t.inFlight.map (fun x => (x.id, x.src, x.addr, x.kind, x.len, x.data)) =
    s.inFlight.map (fun x => (x.id, x.src, x.addr, x.kind, x.len, x.data)) ++ [(s.nextId, srcBar2 0, at_, kind, len, bytes)] ∧
  t.serving = s.serving ++ [{ who := who, kind := kind, ids := [s.nextId], waiting := [s.nextId] }] ∧
  t.mem = s.mem ∧ t.regs = s.regs

theorem State.serveAll_line (s : State) (who : ServeFor) (kind : MemKind) (a len : Nat) (bytes : List Byte) :
    s.Asked who a kind len bytes (s.serveAll who kind (srcBar2 0) 0 none none [(a, bytes, len)]) ∧
      (s.serveAll who kind (srcBar2 0) 0 none none [(a, bytes, len)]).ingress = s.ingress := by
  refine ⟨⟨?_, rfl, rfl, rfl⟩, rfl⟩
  show ((s.inFlight ++ [_]).map (fun q : MemReq => if q.id = s.nextId then { q with mask := none } else q)).map _ = _
  rw [List.map_map, List.map_append, List.map_singleton]
  congr 1
  · refine List.map_congr_left fun q _ => ?_
    simp only [Function.comp_apply]
    split_ifs <;> rfl
  · simp only [Function.comp_apply, if_true]

/-! ### BAR2 -/

section
variable {s : State} {off : BitVec 39} {len : Nat} {data : List Byte} (ha : s.alive = true) (hc : s.power.configReady = true)
  (hin : s.inBar2 off.toNat len = true)
include ha hc hin

theorem exec_bar2Read : exec (.bar2Read off len) s = .next
    (if !s.ready then s.ignored.send (.pcie 0 .completerAbort [])
     else s.serveAll (.bar2 0) .read (srcBar2 0) 0 none none (slices (s.bar2Addr off.toNat) [] len)) := by
  show execBar2Read off len s = _
  rw [execBar2Read]
  exact whenever_of_alive ha (by rw [hc, hin]; rfl) _

variable (hlen : data.length = len)
include hlen

theorem exec_bar2Write : exec (.bar2Write off data) s = .next
    (if !s.ready then s.ignored
     else s.serveAll (.bar2 0) .write (srcBar2 0) 0 none none (slices (s.bar2Addr off.toNat) data len)) := by
  show execBar2Write off data s = _
  rw [execBar2Write, hlen]
  exact whenever_of_alive ha (by rw [hc, hin]; rfl) _

theorem bar2_asks (hr : s.ready = true) (h0 : 0 < len) (hline : s.bar2Addr off.toNat % 64 + len ≤ 64) :
    Completes (.bar2Read off len) s (s.Asked (.bar2 0) (s.bar2Addr off.toNat) .read len []) ∧
      Completes (.bar2Write off data) s (s.Asked (.bar2 0) (s.bar2Addr off.toNat) .write len data) := by
  have hready : (!s.ready) = false := by rw [hr]; rfl
  constructor
  · have he := exec_bar2Read ha hc hin
    rw [hready, if_neg Bool.false_ne_true, slices_line h0 hline, List.take_nil] at he
    exact completes_of_eq he (s.serveAll_line _ _ _ _ _).1
  · have he := exec_bar2Write ha hc hin hlen
    rw [hready, if_neg Bool.false_ne_true, slices_line h0 hline, ← hlen, List.take_length] at he
    refine completes_of_eq he ?_
    rw [← hlen]
    exact (s.serveAll_line _ _ _ _ _).1

theorem bar2_beforeReady (hr : s.ready = false) :
    Completes (.bar2Read off len) s (fun t => t.outbox = s.outbox ++ [.pcie 0 .completerAbort []] ∧ t.mem = s.mem) ∧
      exec (.bar2Write off data) s = .next s.ignored := by
  have hready : (!s.ready) = true := by rw [hr]; rfl
  constructor
  · have he := exec_bar2Read ha hc hin
    rw [hready, if_pos rfl] at he
    exact completes_of_eq he ⟨rfl, rfl⟩
  · have he := exec_bar2Write ha hc hin hlen
    rwa [hready, if_pos rfl] at he

theorem bar2_empty (hr : s.ready = true) (h0 : len = 0) :
    Completes (.bar2Read off len) s (fun t =>
      t.outbox = s.outbox ++ [.pcie 0 .success []] ∧ t.inFlight = s.inFlight ∧ t.mem = s.mem) ∧
      Completes (.bar2Write off data) s (fun t => t.outbox = s.outbox ∧ t.inFlight = s.inFlight ∧ t.mem = s.mem) := by
  have hready : (!s.ready) = false := by rw [hr]; rfl
  subst h0
  constructor
  · have he := exec_bar2Read ha hc hin
    rw [hready, if_neg Bool.false_ne_true, slices_empty] at he
    exact completes_of_eq he ⟨rfl, rfl, rfl⟩
  · have he := exec_bar2Write ha hc hin hlen
    rw [hready, if_neg Bool.false_ne_true, slices_empty] at he
    exact completes_of_eq he ⟨rfl, rfl, rfl⟩

end

/-! ### BAR4 -/

section
variable {s : State} {low : BitVec 32} {data : List Byte} (ha : s.alive = true) (hc : s.power.configReady = true)
include ha hc

theorem exec_bar4Write (hl : low.toNat + data.length ≤ 2 ^ 32) : exec (.bar4Write low data) s = .next
    (if !s.ready || !s.bit oING_CTL 0 then s.dropIngress low.toNat else s.takeIngress low.toNat data) := by
  show execBar4Write low data s = _
  rw [execBar4Write]
  exact whenever_of_alive ha (by rw [hc, decide_eq_true hl]; rfl) _

theorem exec_bar4Write_taken (hl : low.toNat + data.length ≤ 2 ^ 32) (hr : s.ready = true) (hen : s.bit oING_CTL 0 = true) :
    exec (.bar4Write low data) s = .next (s.takeIngress low.toNat data) := by
  rw [exec_bar4Write ha hc hl, hr, hen]
  rfl

theorem bar4Write_asks (hr : s.ready = true) (hen : s.bit oING_CTL 0 = true) (h0 : 0 < data.length)
    (hl : low.toNat + data.length ≤ 2 ^ 32) (hline : s.ingAddr low.toNat % 64 + data.length ≤ 64) :
    Completes (.bar4Write low data) s (fun t =>
      s.Asked .ingress (s.ingAddr low.toNat) .write data.length data t ∧
      t.ingress = s.ingress ++ [{ req := s.nextId, off := low.toNat, data := data }]) := by
  have he := exec_bar4Write_taken ha hc hl hr hen
  have hne : data.isEmpty = false := by
    cases data with
    | nil => exact absurd h0 (Nat.lt_irrefl 0)
    | cons => rfl
  rw [State.takeIngress, slices_line h0 hline, List.take_length] at he
  obtain ⟨⟨hfly, hserv, hmem, hregs⟩, hing⟩ := s.serveAll_line .ingress .write (s.ingAddr low.toNat) data.length data
  generalize s.serveAll .ingress .write (srcBar2 0) 0 none none [(s.ingAddr low.toNat, data, data.length)] = t at he hfly hserv hmem hregs hing
  rw [hne, if_neg Bool.false_ne_true] at he
  exact completes_of_eq he ⟨⟨hfly, hserv, hmem, hregs⟩, congrArg (· ++ [_]) hing⟩

theorem bar4Write_drops (hl : low.toNat + data.length ≤ 2 ^ 32) (hen : s.bit oING_CTL 0 = false) :
    Completes (.bar4Write low data) s (fun t =>
      t.fld oING_STAT 31 0 = (s.fld oING_STAT 31 0 + 1) % 2 ^ 32 ∧ t.inFlight = s.inFlight ∧ t.ingress = s.ingress ∧ t.mem = s.mem) := by
  have he := exec_bar4Write ha hc hl
  rw [hen, Bool.not_false, Bool.or_true, if_pos rfl] at he
  refine completes_of_eq he ⟨?_, ?_, ?_, ?_⟩
  · refine Eq.trans ?_ (State.fld_incFld_self s _ _ _ _ (by decide))
    unfold State.dropIngress
    dsimp only
    split_ifs
    · rfl
    · exact State.fld_of_reg ((State.logModule_reg _ _ (by decide))) 31 0
  · unfold State.dropIngress
    dsimp only
    split_ifs
    · rfl
    · exact State.logIngress_inFlight _ _
  · unfold State.dropIngress
    dsimp only
    split_ifs
    · rfl
    · exact State.logIngress_ingress _ _
  · unfold State.dropIngress
    dsimp only
    split_ifs
    · rfl
    · exact State.logIngress_mem _ _

end

/-- An empty write of BAR4 reaches no memory. -/
theorem takeIngress_empty (s : State) (off : Nat) :
    (s.takeIngress off []).inFlight = s.inFlight ∧ (s.takeIngress off []).ingress = s.ingress ∧ (s.takeIngress off []).mem = s.mem := by
  have hserve : s.serveAll .ingress .write (srcBar2 0) 0 none none (slices (s.ingAddr off) [] ([] : List Byte).length) = s.ingressDone [] := rfl
  have hall : s.ingress.filter (fun i => !([] : List Nat).contains i.req) = s.ingress :=
    List.filter_eq_self.mpr fun _ _ => rfl
  have hing : (s.ingressDone []).ingress = s.ingress := by
    rw [State.ingressDone, State.settleIngress_ingress]
    exact hall
  have hfly : (s.ingressDone []).inFlight = s.inFlight := by
    rw [State.ingressDone, State.settleIngress_inFlight]
  have hmem : (s.ingressDone []).mem = s.mem := State.ingressDone_mem ..
  rw [State.takeIngress, hserve]
  generalize s.ingressDone [] = t at hing hfly hmem
  exact ⟨hfly, hing, hmem⟩

theorem bar4Write_empty {s : State} {low : BitVec 32} (ha : s.alive = true) (hc : s.power.configReady = true) (hr : s.ready = true)
    (hen : s.bit oING_CTL 0 = true) :
    Completes (.bar4Write low []) s (fun t => t.inFlight = s.inFlight ∧ t.ingress = s.ingress ∧ t.mem = s.mem) :=
  completes_of_eq (exec_bar4Write_taken ha hc (by have := low.isLt; simp only [List.length_nil]; omega) hr hen)
    (takeIngress_empty s low.toNat)

theorem bar4Read_completes {s : State} {low : BitVec 32} {len : Nat} (ha : s.alive = true) (hc : s.power.configReady = true) :
    Completes (.bar4Read low len) s (fun t =>
      t.outbox = s.outbox ++ [.pcie 0 .unsupported []] ∧ t.inFlight = s.inFlight ∧ t.mem = s.mem) := by
  have he : exec (.bar4Read low len) s = .next ((s.logIngress low.toNat).send (.pcie 0 .unsupported [])) := whenever_of_alive ha hc _
  exact completes_of_eq he ⟨congrArg (· ++ [_]) (State.logIngress_outbox s _), State.logIngress_inFlight s _, State.logIngress_mem s _⟩

/-! ### FLUSH -/

theorem flushRead_completes {s : State} {fn : FnId} (ha : s.alive = true) (hc : s.power.configReady = true) :
    Completes (.flushRead fn) s (fun t =>
      t.flushWaits = s.flushWaits ++ [{
        fn := fn, writes := s.bar2Writes fn, words := (s.writers.filter (fun e => e.2 == fn.val + 1)).map (fun e => (e.1, s.reg e.1)) }] ∧
      t.writers = s.writers.filter (fun e => !(e.2 == fn.val + 1)) ∧ t.outbox = s.outbox ∧ t.mem = s.mem ∧ t.regs = s.regs) := by
  have he : exec (.flushRead fn) s = .next { s with
      flushWaits := s.flushWaits ++
        [{ fn := fn, writes := s.bar2Writes fn, words := (s.writers.filter (fun e => e.2 == fn.val + 1)).map (fun e => (e.1, s.reg e.1)) }]
      writers := s.writers.filter (fun e => !(e.2 == fn.val + 1)) } := whenever_of_alive ha hc _
  exact completes_of_eq he ⟨rfl, rfl, rfl, rfl, rfl⟩

section
variable {s : State} {fn : FnId} {w : FlushWait} (ha : s.alive = true)
  (hw : s.flushWaits.find? (fun w => decide (w.fn = fn)) = some w)

include hw in
theorem flushReadComplete_waits (h : w.writes ≠ []) : exec (.flushReadComplete fn) s = .next s := by
  have hne : w.writes.isEmpty = false := by simpa using h
  show execFlushReadComplete fn s = _
  rw [execFlushReadComplete, hw]
  dsimp only
  rw [hne]
  exact whenever_false _ _

include ha hw in
theorem flushReadComplete_answers (h : w.writes = []) :
    Completes (.flushReadComplete fn) s (fun t =>
      t.outbox = s.outbox ++ [.pcie fn .success (natLe 8 (tabGet (fun _ => 0) fn.val s.flushCount).toNat)] ∧
      t.flushWaits = s.flushWaits.erase w ∧ t.flushed = w.words.foldl (fun m x => tabSet regReset x.1 x.2 m) s.flushed ∧
      t.tables = s.tables ∧ t.mem = s.mem ∧ t.regs = s.regs) := by
  have hfn : w.fn = fn := of_decide_eq_true (List.find?_some (p := fun w : FlushWait => decide (w.fn = fn)) hw)
  have he : exec (.flushReadComplete fn) s = .next (s.endFlush w) := by
    show execFlushReadComplete fn s = _
    rw [execFlushReadComplete, hw]
    exact whenever_of_alive ha (by rw [h]; rfl) _
  refine completes_of_eq he ⟨?_, rfl, rfl, rfl, rfl, rfl⟩
  rw [← hfn]
  rfl

end

/-- Settles O43: the two windows, then the FLUSH read and its completion. -/
theorem windowsAndFlushes : Obligations.windowsAndFlushes := by
  unfold Obligations.windowsAndFlushes
  refine ⟨?_, ?_⟩
  · intro s off low len data ha hc hlen a b asked
    refine ⟨fun hr hin h0 hline => bar2_asks ha hc hin hlen hr h0 hline, fun hr hin => bar2_beforeReady ha hc hin hlen hr,
      fun hr hin h0 => bar2_empty ha hc hin hlen hr h0, fun hr hen h0 => ?_, fun hr hen h0 hl hline => ?_, fun hen hl => ?_,
      bar4Read_completes ha hc⟩
    · have hnil : data = [] := List.length_eq_zero_iff.mp (hlen.trans h0)
      subst hnil
      exact bar4Write_empty ha hc hr hen
    · subst hlen
      exact bar4Write_asks ha hc hr hen h0 hl hline
    · subst hlen
      exact bar4Write_drops ha hc hl hen
  · intro s fn ha mine
    exact ⟨fun hc => flushRead_completes ha hc, fun w hw => ⟨fun h => flushReadComplete_waits hw h,
      fun h => flushReadComplete_answers ha hw h⟩⟩

end Sys2Proof.Machine
end

section
/-! PROOFS. Answers to host reads, failures and time-outs (R254, R264). -/

namespace Sys2Proof.Machine

/-! ### What goes to the host -/

theorem State.toHost_rest (s : State) (x : Out) : ∃ o h, s.toHost x = { s with outbox := o, heldOut := h } := by
  unfold State.toHost
  split_ifs
  · exact ⟨s.outbox ++ [x], s.heldOut, rfl⟩
  · cases x with
    | msix f v =>
      dsimp only
      split_ifs
      · exact ⟨s.outbox, s.heldOut, rfl⟩
      · exact ⟨s.outbox, s.heldOut ++ [.msix f v], rfl⟩
    | _ => exact ⟨s.outbox, s.heldOut ++ [_], rfl⟩

/-- A read that goes out is outstanding under the same ID. -/
theorem State.issueRead_rest (s : State) (r : HostRead) :
    ∃ o h rs, s.issueRead r = { s with outbox := o, heldOut := h, hostReads := rs } ∧ rs.map HostRead.id = s.hostReads.map HostRead.id := by
  obtain ⟨o, h, hh⟩ := State.toHost_rest { s with hostReads := s.hostReads.map (fun x => if x.id = r.id then { x with issued := true } else x) }
    (.hostRead r.fn r.id r.addr r.len)
  refine ⟨o, h, _, hh, ?_⟩
  rw [List.map_map]
  refine List.map_congr_left fun x _ => ?_
  simp only [Function.comp_apply]
  split_ifs <;> rfl

theorem State.foldl_issueRead_rest (rs : List HostRead) (s : State) :
    ∃ o h l, rs.foldl State.issueRead s = { s with outbox := o, heldOut := h, hostReads := l } ∧
      l.map HostRead.id = s.hostReads.map HostRead.id := by
  induction rs generalizing s with
  | nil => exact ⟨s.outbox, s.heldOut, s.hostReads, rfl, rfl⟩
  | cons r rs ih =>
    obtain ⟨o, h, l, h1, hl⟩ := s.issueRead_rest r
    obtain ⟨o', h', l', h2, hl'⟩ := ih (s.issueRead r)
    refine ⟨o', h', l', ?_, ?_⟩
    · rw [List.foldl_cons, h2, h1]
    · rw [hl', h1]
      exact hl

/-- Reads that wait go out, and nothing else changes. -/
theorem State.issueReads_rest (s : State) :
    ∃ o h l, s.issueReads = { s with outbox := o, heldOut := h, hostReads := l } ∧ l.map HostRead.id = s.hostReads.map HostRead.id :=
  State.foldl_issueRead_rest _ s

theorem State.issueReads_of_issued {s : State} (h : ∀ x ∈ s.hostReads, x.issued = true) : s.issueReads = s := by
  have hnone : s.hostReads.filter (fun r => !r.issued) = [] :=
    List.filter_eq_nil_iff.mpr fun x hx => by rw [h x hx]; exact Bool.false_ne_true
  rw [State.issueReads, hnone, List.take_nil, List.foldl_nil]

/-! ### The answers -/

/-- The read is outstanding no longer. -/
def State.sansRead (s : State) (r : HostRead) : State := { s with hostReads := s.hostReads.erase r }

theorem State.gotBeat_twin (s : State) (n : Word) : (s.gotBeat n).twin.partnerBeat = n ∧
    (s.gotBeat n).twin.still = if n = s.twin.partnerBeat then s.twin.still + 1 else 0 := ⟨rfl, rfl⟩

section
variable {s : State} {id : Nat} {r : HostRead} (ha : s.alive = true)
  (hr : s.hostReads.find? (fun r => r.id == id && r.issued) = some r)

include hr in
theorem hostReadCompletion_held (hh : s.held = true) (a : HostAnswer) : exec (.hostReadCompletion id a) s = .next s := by
  show execHostReadCompletion id a s = _
  rw [execHostReadCompletion, hr]
  dsimp only
  rw [hh]
  exact whenever_false _ _

include ha hr

theorem hostReadCompletion_good (hh : s.held = false) (bs : List Byte) :
    exec (.hostReadCompletion id (.good bs)) s = .next (s.hostGood r bs).issueReads := by
  show execHostReadCompletion id (.good bs) s = _
  rw [execHostReadCompletion, hr]
  exact whenever_of_alive ha (by rw [hh]; rfl) _

/-- A read that fails, by whatever command, ends with its status. -/
theorem hostRead_fails {x : Instr × Nat}
    (hx : x ∈ [(Instr.hostReadCompletion id .ur, 0x0401), (.hostReadCompletion id .poison, 0x0402), (.hostReadTimeout id, 0x0403)])
    (hh : s.held = false ∨ x.1 = .hostReadTimeout id) : exec x.1 s = .next (s.hostBad r x.2).issueReads := by
  simp only [List.mem_cons, List.not_mem_nil, or_false] at hx
  rcases hx with rfl | rfl | rfl
  · have hheld : s.held = false := hh.resolve_right fun h => nomatch h
    show execHostReadCompletion id .ur s = _
    rw [execHostReadCompletion, hr]
    exact whenever_of_alive ha (by rw [hheld]; rfl) _
  · have hheld : s.held = false := hh.resolve_right fun h => nomatch h
    show execHostReadCompletion id .poison s = _
    rw [execHostReadCompletion, hr]
    exact whenever_of_alive ha (by rw [hheld]; rfl) _
  · show execHostReadTimeout id s = _
    rw [execHostReadTimeout, hr]
    exact whenever_of_alive ha rfl _

theorem hostReadCompletion_tail (hh : s.held = false) (bs : List Byte) {q : RingId} (hp : r.purpose = .tail q) :
    exec (.hostReadCompletion id (.good bs)) s =
      .next ((s.sansRead r).takeTail q r.poll (BitVec.ofNat 32 (fieldLe bs 0 4))).issueReads := by
  rw [hostReadCompletion_good ha hr hh, State.hostGood, hp]
  rfl

theorem hostReadCompletion_beat (hh : s.held = false) (bs : List Byte) (hp : r.purpose = .beatLine) :
    Completes (.hostReadCompletion id (.good bs)) s (fun t =>
      t.twin.partnerBeat = BitVec.ofNat 64 (fieldLe bs 0 8) ∧
      t.twin.still = (if BitVec.ofNat 64 (fieldLe bs 0 8) = s.twin.partnerBeat then s.twin.still + 1 else 0) ∧
      t.hostReads.map HostRead.id = (s.hostReads.erase r).map HostRead.id ∧ t.mem = s.mem ∧ t.regs = s.regs ∧
      ((∀ x ∈ s.hostReads, x.issued = true) → t = { s.sansRead r with twin := t.twin })) := by
  have hgood : s.hostGood r bs = (s.sansRead r).gotBeat (BitVec.ofNat 64 (fieldLe bs 0 8)) := by
    rw [State.hostGood, hp]
    rfl
  have he := hostReadCompletion_good ha hr hh bs
  rw [hgood] at he
  obtain ⟨hbeat, hstill⟩ := (s.sansRead r).gotBeat_twin (BitVec.ofNat 64 (fieldLe bs 0 8))
  have hreads : ((s.sansRead r).gotBeat (BitVec.ofNat 64 (fieldLe bs 0 8))).hostReads = s.hostReads.erase r := rfl
  have hmem : ((s.sansRead r).gotBeat (BitVec.ofNat 64 (fieldLe bs 0 8))).mem = s.mem := rfl
  have hregs : ((s.sansRead r).gotBeat (BitVec.ofNat 64 (fieldLe bs 0 8))).regs = s.regs := rfl
  have hself : (s.sansRead r).gotBeat (BitVec.ofNat 64 (fieldLe bs 0 8)) =
    { s.sansRead r with twin := ((s.sansRead r).gotBeat (BitVec.ofNat 64 (fieldLe bs 0 8))).twin } := rfl
  generalize (s.sansRead r).gotBeat (BitVec.ofNat 64 (fieldLe bs 0 8)) = u at he hbeat hstill hreads hmem hregs hself
  have hall (h : ∀ x ∈ s.hostReads, x.issued = true) : u.issueReads = u :=
    State.issueReads_of_issued fun x hx => h x (List.mem_of_mem_erase (hreads ▸ hx))
  obtain ⟨o, h, l, hrest, hl⟩ := u.issueReads_rest
  refine completes_of_eq he ⟨?_, ?_, ?_, ?_, ?_, fun h => ?_⟩
  · rw [hrest]
    exact hbeat
  · rw [hrest]
    exact hstill
  · rw [hrest, ← hreads]
    exact hl
  · rw [hrest]
    exact hmem
  · rw [hrest]
    exact hregs
  · rw [hall h]
    exact hself

variable {x : Instr × Nat}
  (hx : x ∈ [(Instr.hostReadCompletion id .ur, 0x0401), (.hostReadCompletion id .poison, 0x0402), (.hostReadTimeout id, 0x0403)])
  (hh : s.held = false ∨ x.1 = .hostReadTimeout id)
include hx hh

theorem hostRead_fails_map {q : RingId} {seq : BitVec 32} {p : PartId} {d : Desc} (hp : r.purpose = .mapEntries q seq)
    (hd : s.descOf q seq = some (p, d)) (hrun : d.stage = .running) (hok : d.status = 0) :
    Completes x.1 s (fun t =>
      t.descOf q seq = some (p, { d with stage := .ended, status := BitVec.ofNat 16 x.2 }) ∧
      t.hostReads.map HostRead.id = (s.hostReads.erase r).map HostRead.id ∧ t.mem = s.mem ∧
      t.moduleLog = (s.logModule { type := 0x11, status := x.2, d1 := x.2, d2 := r.addr }).moduleLog) := by
  have he := hostRead_fails ha hr hx hh
  have hbad : s.hostBad r x.2 = ((s.sansRead r).logHost r x.2).endDesc q seq x.2 := by
    rw [State.hostBad, hp]
    rfl
  rw [hbad] at he
  have hlog : ((s.sansRead r).logHost r x.2).moduleLog = (s.logModule { type := 0x11, status := x.2, d1 := x.2, d2 := r.addr }).moduleLog := by
    rw [State.logHost, State.logModule, State.logModule]
    dsimp only
    split_ifs with h1 h2 h2
    · rfl
    · exact absurd h1 h2
    · exact absurd h2 h1
    · rfl
  have hd1 : ((s.sansRead r).logHost r x.2).descOf q seq = some (p, d) := by
    rw [State.logHost, State.logModule]
    dsimp only
    split_ifs <;> exact hd
  have hreads : ((s.sansRead r).logHost r x.2).hostReads = s.hostReads.erase r := State.logModule_hostReads _ _
  have hmem : ((s.sansRead r).logHost r x.2).mem = s.mem := State.logModule_mem _ _
  generalize (s.sansRead r).logHost r x.2 = t at he hlog hd1 hreads hmem
  have hd2 := State.descOf_modDesc hd1 (Desc.endedWith_names x.2)
  have hended : d.endedWith x.2 = { d with stage := .ended, status := BitVec.ofNat 16 x.2 } := by
    rw [Desc.endedWith, if_neg (by rw [hrun]; decide), if_pos hok]
  rw [hended] at hd2
  have hlog2 : (t.endDesc q seq x.2).moduleLog = t.moduleLog := by
    rw [State.endDesc_eq, State.modDesc]
    split <;> rfl
  have hreads2 : (t.endDesc q seq x.2).hostReads = t.hostReads := State.endDesc_hostReads ..
  have hmem2 : (t.endDesc q seq x.2).mem = t.mem := State.endDesc_mem ..
  rw [State.endDesc_eq] at he hlog2 hreads2 hmem2
  generalize t.modDesc q seq (Desc.endedWith x.2) = u at he hd2 hlog2 hreads2 hmem2
  obtain ⟨o, h, l, hrest, hl⟩ := u.issueReads_rest
  rw [hrest] at he
  exact completes_of_eq he ⟨hd2, hl.trans (congrArg _ (hreads2.trans hreads)), hmem2.trans hmem, hlog2.trans hlog⟩

theorem hostRead_fails_slots {q : RingId} {f : BitVec 32} {n : Nat} (hp : r.purpose = .slots q f n) :
    Completes x.1 s (fun t =>
      (t.ring q).fetching = false ∧ (t.ring q).owed = false ∧ (t.ring q).tail = t.fetched q ∧ t.mem = s.mem) := by
  have he := hostRead_fails ha hr hx hh
  have hbad : s.hostBad r x.2 = ((s.sansRead r).logHost r x.2).lostSlots q := by
    rw [State.hostBad, hp]
    rfl
  rw [hbad] at he
  have hmem : ((s.sansRead r).logHost r x.2).mem = s.mem := State.logModule_mem _ _
  generalize (s.sansRead r).logHost r x.2 = t at he hmem
  have hring : (t.lostSlots q).ring q = { t.ring q with
      fetching := false, arrived := [], owed := false, tail := t.fetched q, readySince := none } := by
    rw [State.lostSlots, State.ring, State.modRing]
    exact (tabGet_tabSet ..).trans (if_pos rfl)
  have hfetched : (t.lostSlots q).fetched q = t.fetched q := rfl
  have hmem2 : (t.lostSlots q).mem = t.mem := rfl
  generalize t.lostSlots q = u at he hring hfetched hmem2
  obtain ⟨o, h, l, hrest, -⟩ := u.issueReads_rest
  rw [hrest] at he
  refine completes_of_eq he ⟨?_, ?_, ?_, hmem2.trans hmem⟩
  · exact congrArg Ring.fetching hring
  · exact congrArg Ring.owed hring
  · exact (congrArg Ring.tail hring).trans hfetched.symm

end

/-- Settles O44: the answers by what the read was for. -/
theorem hostReadsAreAnswered : Obligations.hostReadsAreAnswered := by
  unfold Obligations.hostReadsAreAnswered
  intro s id r bs ha hr t0 left
  refine ⟨fun hh a => hostReadCompletion_held hr hh a, fun hh q hp => hostReadCompletion_tail ha hr hh bs hp,
    fun hh hp => hostReadCompletion_beat ha hr hh bs hp, fun x hx hh => ⟨fun q seq p d hp hd hrun hok => ?_, fun q f n hp => ?_⟩⟩
  · exact hostRead_fails_map ha hr hx hh hp hd hrun hok
  · exact hostRead_fails_slots ha hr hx hh hp

end Sys2Proof.Machine
end

section
/-! PROOFS. Temperature samples and the management chain (R366 to R369). -/

namespace Sys2Proof.Machine

/-! ### Readings reach their registers (R369) -/

/-- A reading goes to the low 16 bits of the register of its place. -/
def State.putReading (o : Nat → Nat) (s : State) (x : BitVec 16 × Nat) : State := s.setFld (o x.2) 15 0 x.1.toNat

theorem State.takeReadings_eq (s : State) (r : ThermalReading) :
    s.takeReadings r = (((r.stackTemps.zipIdx.foldl (State.putReading oTEMP_STACK)
      (r.dieTemps.zipIdx.foldl (State.putReading oTEMP_DIE) s)).setFld oPWR_IN 15 0 r.power.toNat).setFld oPWR_IN 31 16
        r.vin.toNat) := rfl

theorem State.fld_putReadings_other {o : Nat → Nat} {p : Nat} (l : List (BitVec 16 × Nat)) (h : ∀ x ∈ l, p ≠ o x.2) (s : State)
    (hi lo : Nat) : (l.foldl (State.putReading o) s).fld p hi lo = s.fld p hi lo := by
  induction l generalizing s with
  | nil => rfl
  | cons x l ih =>
    rw [List.foldl_cons, ih (fun y hy => h y (List.mem_cons_of_mem _ hy))]
    exact State.fld_setFld_other _ _ _ _ _ _ _ _ (h x List.mem_cons_self)

theorem State.fld_putReadings {o : Nat → Nat} (ho : Function.Injective o) (l : List (BitVec 16)) {i : Nat} (hi : i < l.length)
    (n : Nat) (s : State) :
    ((l.zipIdx n).foldl (State.putReading o) s).fld (o (n + i)) 15 0 = (l.getD i 0).toNat := by
  induction l generalizing n i s with
  | nil => exact absurd hi (Nat.not_lt_zero i)
  | cons x l ih =>
    rw [List.zipIdx_cons, List.foldl_cons]
    cases i with
    | zero =>
      rw [State.fld_putReadings_other]
      · exact (State.fld_setFld_self _ _ _ _ _ (by decide)).trans (Nat.mod_eq_of_lt x.isLt)
      · intro y hy heq
        have hge := (List.mem_zipIdx hy).1
        have := ho heq
        omega
    | succ i =>
      have h := ih (Nat.lt_of_succ_lt_succ hi) (n + 1) (s.putReading o (x, n))
      rw [show n + 1 + i = n + (i + 1) by omega] at h
      exact h

theorem State.foldl_putReading_rest (o : Nat → Nat) (l : List (BitVec 16 × Nat)) (s : State) :
    ∃ g, l.foldl (State.putReading o) s = { s with regs := g } := by
  induction l generalizing s with
  | nil => exact ⟨s.regs, rfl⟩
  | cons x l ih =>
    obtain ⟨g, hg⟩ := ih (s.putReading o x)
    exact ⟨g, hg⟩

theorem State.takeReadings_rest (s : State) (r : ThermalReading) : ∃ g, s.takeReadings r = { s with regs := g } := by
  obtain ⟨g, hg⟩ := State.foldl_putReading_rest oTEMP_DIE r.dieTemps.zipIdx s
  obtain ⟨g', hg'⟩ := State.foldl_putReading_rest oTEMP_STACK r.stackTemps.zipIdx { s with regs := g }
  rw [State.takeReadings_eq, hg, hg']
  exact ⟨_, rfl⟩

section
variable {s : State} {r : ThermalReading}

theorem oTEMP_DIE_injective : Function.Injective oTEMP_DIE := by
  intro a b h
  simp only [oTEMP_DIE] at h
  omega

theorem oTEMP_STACK_injective : Function.Injective oTEMP_STACK := by
  intro a b h
  simp only [oTEMP_STACK] at h
  omega

theorem fld_takeReadings_die (hw : r.wf = true) : (s.takeReadings r).fld (oTEMP_DIE 0) 15 0 = (r.dieTemps.getD 0 0).toNat := by
  simp only [ThermalReading.wf, Bool.and_eq_true, decide_eq_true_eq] at hw
  obtain ⟨hdie, hstack⟩ := hw
  rw [State.takeReadings_eq, State.fld_setFld_other _ _ _ _ _ _ _ _ (by decide), State.fld_setFld_other _ _ _ _ _ _ _ _ (by decide),
    State.fld_putReadings_other]
  · exact State.fld_putReadings oTEMP_DIE_injective r.dieTemps (i := 0) (by omega) 0 s
  · intro x hx h
    simp only [oTEMP_DIE, oTEMP_STACK] at h
    omega

theorem fld_takeReadings_stack (hw : r.wf = true) :
    (s.takeReadings r).fld (oTEMP_STACK 7) 15 0 = (r.stackTemps.getD 7 0).toNat := by
  simp only [ThermalReading.wf, Bool.and_eq_true, decide_eq_true_eq] at hw
  obtain ⟨hdie, hstack⟩ := hw
  rw [State.takeReadings_eq, State.fld_setFld_other _ _ _ _ _ _ _ _ (by decide), State.fld_setFld_other _ _ _ _ _ _ _ _ (by decide)]
  have h := State.fld_putReadings oTEMP_STACK_injective r.stackTemps (i := 7) (by omega) 0
    (r.dieTemps.zipIdx.foldl (State.putReading oTEMP_DIE) s)
  exact h

theorem fld_takeReadings_power : (s.takeReadings r).fld oPWR_IN 15 0 = r.power.toNat := by
  rw [State.takeReadings_eq, State.fld_setFld_apart _ _ _ _ _ _ _ (by decide) (by decide)]
  exact (State.fld_setFld_self _ _ _ _ _ (by decide)).trans (Nat.mod_eq_of_lt r.power.isLt)

theorem fld_takeReadings_vin : (s.takeReadings r).fld oPWR_IN 31 16 = r.vin.toNat := by
  rw [State.takeReadings_eq]
  exact (State.fld_setFld_self _ _ _ _ _ (by decide)).trans (Nat.mod_eq_of_lt r.vin.isLt)

end

/-! ### Warnings (R369) -/

theorem State.part_raise (s : State) (p q : PartId) (cause ctx ring : Nat) :
    (s.raise p cause ctx ring).part q = if q = p then { s.part p with events := (s.part p).events + 1 } else s.part q := by
  have hparts : (s.raise p cause ctx ring).parts =
      (s.modPart p (fun k => { k with events := (s.part p).events + 1 })).parts := State.pumpFlush_parts _ _
  rw [State.part_congr hparts, State.part_modPart]

/-- The event of a warning in one partition. -/
def State.warnPart (s : State) (p : PartId) : State := s.raise p 0x0005 (s.ctxOf p) 0

theorem State.warn_eq (s : State) : s.warn = (allParts.foldl State.warnPart (s.setFld oTHERM_STAT 0 0 1)).inBand 0x01 := rfl

theorem State.events_foldl_warnPart {l : List PartId} (hl : l.Nodup) (s : State) (p : PartId) :
    ((l.foldl State.warnPart s).part p).events = (s.part p).events + if p ∈ l then 1 else 0 := by
  induction l generalizing s with
  | nil => simp
  | cons q l ih =>
    obtain ⟨hq, hl⟩ := List.nodup_cons.mp hl
    have hraise : ((s.warnPart q).part p).events = (s.part p).events + if p = q then 1 else 0 := by
      rw [State.warnPart, State.part_raise]
      split
      next h => rw [h]
      next h => simp
    rw [List.foldl_cons, ih hl, hraise]
    by_cases hpq : p = q
    · simp [hpq, hq]
    · simp [hpq]

theorem State.events_warn (s : State) (p : PartId) : (s.warn.part p).events = (s.part p).events + 1 := by
  rw [State.warn_eq, State.part_congr (State.inBand_parts _ _),
    State.events_foldl_warnPart (l := allParts) (List.nodup_finRange 32) _ p, if_pos (show p ∈ allParts from List.mem_finRange p)]
  rfl

theorem State.regs_warn (s : State) : s.warn.regs = (s.setFld oTHERM_STAT 0 0 1).regs := by
  rw [State.warn_eq, State.inBand_regs]
  exact regs_foldl (f := State.warnPart) (fun t p => by simp [State.warnPart]) allParts _

theorem State.bit_warn (s : State) : s.warn.bit oTHERM_STAT 0 = true := by
  rw [State.bit, State.fld, State.reg, State.regs_warn]
  exact congrArg (· == 1) (State.fld_setFld_self s oTHERM_STAT 0 0 1 (by decide))

theorem State.failed_warn (s : State) : s.warn.failed = s.failed := by
  have hin : ∀ t : State, ∀ b, (t.inBand b).failed = t.failed := fun t b => by
    unfold State.inBand
    split <;> rfl
  rw [State.warn_eq, hin]
  exact failed_foldl (f := State.warnPart) (fun t p => by simp [State.warnPart, State.raise]) allParts _

/-! ### Temperature samples -/

section
variable {s : State} {r : ThermalReading}

/-- The module with a sample in its registers. -/
def State.thermals (s : State) (r : ThermalReading) : State :=
  (s.takeReadings r).modPower (fun p => { p with hot := thermalLimit r })

theorem exec_thermalSample (hw : r.wf = true) (ha : s.alive = true) (hl : s.power.locked = true) :
    exec (.thermalSample r) s = .next
      (let u := if thermalWarm r then (s.thermals r).warn else s.thermals r
       if thermalLimit r && s.power.hot then ((u.inBand 0x02).moduleFail).powerDown else u) := by
  show execThermalSample r s = _
  rw [execThermalSample, checkedIf, if_pos hw]
  exact whenever_of_alive ha hl _

theorem State.thermals_power (s : State) (r : ThermalReading) :
    (s.thermals r).power = { s.power with hot := thermalLimit r } := by
  obtain ⟨g, hg⟩ := s.takeReadings_rest r
  rw [State.thermals, hg]
  rfl

theorem thermalSample_still (hw : r.wf = true) (ha : s.alive = true) (hl : s.power.locked = true) (hwarm : thermalWarm r = false)
    (hlim : thermalLimit r = false) :
    Completes (.thermalSample r) s (fun t =>
      t.fld (oTEMP_DIE 0) 15 0 = (r.dieTemps.getD 0 0).toNat ∧ t.fld (oTEMP_STACK 7) 15 0 = (r.stackTemps.getD 7 0).toNat ∧
      t.fld oPWR_IN 15 0 = r.power.toNat ∧ t.fld oPWR_IN 31 16 = r.vin.toNat ∧ t.power = { s.power with hot := false } ∧
      t = { s with regs := t.regs, power := t.power }) := by
  have he := exec_thermalSample hw ha hl
  rw [hwarm, hlim] at he
  refine completes_of_eq he ⟨fld_takeReadings_die hw, fld_takeReadings_stack hw, fld_takeReadings_power, fld_takeReadings_vin, ?_, ?_⟩
  · exact (s.thermals_power r).trans (by rw [hlim])
  · obtain ⟨g, hg⟩ := s.takeReadings_rest r
    show s.thermals r = { s with regs := (s.thermals r).regs, power := (s.thermals r).power }
    rw [State.thermals, hg]
    rfl

theorem thermalSample_warm (hw : r.wf = true) (ha : s.alive = true) (hl : s.power.locked = true) (hwarm : thermalWarm r = true)
    (hlim : thermalLimit r = false) :
    Completes (.thermalSample r) s (fun t =>
      t.bit oTHERM_STAT 0 = true ∧ t.power = { s.power with hot := false } ∧ t.mem = s.mem ∧ t.cores = s.cores ∧
      ∀ p, (t.part p).events = (s.part p).events + 1) := by
  have he := exec_thermalSample hw ha hl
  rw [hwarm, hlim] at he
  obtain ⟨g, hg⟩ := s.takeReadings_rest r
  have hpower := s.thermals_power r
  have hmem : (s.thermals r).mem = s.mem := by rw [State.thermals, hg]; rfl
  have hcores : (s.thermals r).cores = s.cores := by rw [State.thermals, hg]; rfl
  have hparts : (s.thermals r).parts = s.parts := by rw [State.thermals, hg]; rfl
  rw [hlim] at hpower
  generalize s.thermals r = u at he hpower hmem hcores hparts
  refine completes_of_eq he ⟨u.bit_warn, u.warn_power.trans hpower, u.warn_mem.trans hmem, u.warn_cores.trans hcores,
    fun p => ?_⟩
  exact (u.events_warn p).trans (by rw [State.part_congr hparts])

theorem thermalSample_hot (hw : r.wf = true) (ha : s.alive = true) (hl : s.power.locked = true) (hlim : thermalLimit r = true)
    (hhot : s.power.hot = false) :
    Completes (.thermalSample r) s (fun t => t.power = { s.power with hot := true } ∧ t.failed = false) := by
  have he := exec_thermalSample hw ha hl
  rw [hlim, hhot] at he
  obtain ⟨g, hg⟩ := s.takeReadings_rest r
  have hpower := s.thermals_power r
  have hfailed : (s.thermals r).failed = false := by
    rw [State.thermals, hg]
    rw [State.alive, Bool.and_eq_true, Bool.not_eq_true'] at ha
    exact ha.2
  rw [hlim] at hpower
  generalize s.thermals r = u at he hpower hfailed
  simp only [Bool.and_false, Bool.false_eq_true, if_false] at he
  refine completes_of_eq he ?_
  split
  · exact ⟨u.warn_power.trans hpower, u.failed_warn.trans hfailed⟩
  · exact ⟨hpower, hfailed⟩

/-- Power-down loses memory and what it has still to send is sent. -/
theorem State.powerDown_facts (s : State) :
    s.powerDown.power.pwrgd = false ∧ s.powerDown.power.rails = .falling ∧ s.powerDown.mem = [] ∧
      ∀ o ∈ s.outbox, o ∈ s.powerDown.outbox := by
  unfold State.powerDown
  dsimp only
  split_ifs <;> exact ⟨rfl, rfl, rfl, fun o ho => by simp [State.send, ho]⟩

theorem State.moduleFail_notice (s : State) : Out.fatalNotice ∈ s.moduleFail.outbox := by
  have h : Out.fatalNotice ∈ (s.send .fatalNotice).outbox := List.mem_append_right _ List.mem_cons_self
  have hin : Out.fatalNotice ∈ ((s.send .fatalNotice).inBand 0x04).outbox := by
    unfold State.inBand
    split
    · exact List.mem_append_left _ h
    · exact h
  exact hin

theorem thermalSample_down (hw : r.wf = true) (ha : s.alive = true) (hl : s.power.locked = true) (hlim : thermalLimit r = true)
    (hhot : s.power.hot = true) :
    Completes (.thermalSample r) s (fun t =>
      t.power.pwrgd = false ∧ t.power.rails = .falling ∧ t.mem = [] ∧ .fatalNotice ∈ t.outbox) := by
  have he := exec_thermalSample hw ha hl
  rw [hlim, hhot] at he
  generalize (if thermalWarm r then (s.thermals r).warn else s.thermals r) = u at he
  obtain ⟨hpwrgd, hrails, hmem, hout⟩ := ((u.inBand 0x02).moduleFail).powerDown_facts
  exact completes_of_eq he ⟨hpwrgd, hrails, hmem, hout _ (State.moduleFail_notice _)⟩

end

/-! ### The management chain (R366 to R368) -/

theorem always_true {b : Bool} (hb : b = true) (s t : State) : always b s t = .next t := by
  rw [always, if_pos hb]

section
variable {s : State} (hm : s.managed = true)
include hm

theorem entdaa_takes (a : BitVec 7) (ha : s.i3c.addr = none) :
    Completes (.entdaa a true) s (fun t =>
      t.i3c = { s.i3c with addr := some a, mchainIn := true, mchainOut := true } ∧ t = { s with i3c := t.i3c, outbox := t.outbox } ∧
      .i3cAck true ∈ t.outbox) := by
  have hc : (s.managed && s.i3c.addr.isNone && true) = true := by simp [hm, ha]
  refine ⟨_, (always_true (b := true) rfl s _ : exec (.entdaa a true) s = _), ?_⟩
  rw [if_pos hc, State.chainOut]
  split
  next h =>
    have hout : s.i3c.mchainOut = true := h
    refine ⟨?_, rfl, List.mem_append_right _ List.mem_cons_self⟩
    simp [State.modI3c, State.send, hout]
  next h => exact ⟨rfl, rfl, by simp [State.send, State.modI3c]⟩

theorem entdaa_passes (a : BitVec 7) (b : Bool) (h : s.i3c.addr.isSome = true ∨ b = false) :
    Completes (.entdaa a b) s (fun t =>
      t = { s with i3c := { s.i3c with mchainIn := b }, outbox := s.outbox ++ [.i3cAck false] }) := by
  have hc : ¬ (s.managed && s.i3c.addr.isNone && b) = true := by
    rcases h with h | h
    · cases ha : s.i3c.addr with
      | none => rw [ha] at h; cases h
      | some x => simp
    · simp [h]
  refine ⟨_, (always_true (b := true) rfl s _ : exec (.entdaa a b) s = _), ?_⟩
  rw [if_neg hc]
  rfl

theorem rstdaa_drops :
    Completes .rstdaa s (fun t =>
      t.i3c = { s.i3c with addr := none, mchainOut := false } ∧ t = { s with i3c := t.i3c, outbox := t.outbox }) := by
  refine ⟨_, (always_true hm s _ : exec .rstdaa s = _), ?_⟩
  rw [State.chainOut]
  split
  next h =>
    have hout : s.i3c.mchainOut = false := h
    refine ⟨?_, rfl⟩
    simp [State.modI3c, hout]
  next h => exact ⟨rfl, rfl⟩

theorem enec_enables : Completes (.enec { inBandInterrupt := true }) s (fun t => t = { s with i3c := { s.i3c with ibi := true } }) :=
  ⟨_, (always_true hm s _ : exec (.enec { inBandInterrupt := true }) s = _), rfl⟩

theorem disec_disables :
    Completes (.disec { inBandInterrupt := true }) s (fun t => t = { s with i3c := { s.i3c with ibi := false } }) :=
  ⟨_, (always_true hm s _ : exec (.disec { inBandInterrupt := true }) s = _), rfl⟩

end

theorem leNat_take_natLe (k n v : Nat) (h : k ≤ n) : leNat ((natLe n v).take k) = v % 256 ^ k := by
  induction k generalizing n v with
  | zero => simp [leNat, Nat.mod_one]
  | succ k ih =>
    cases n with
    | zero => omega
    | succ n =>
      rw [natLe, List.take_succ_cons, leNat, ih n (v / 256) (by omega), Nat.pow_succ', Nat.mod_mul]
      simp

section
variable {s : State} (hd : s.addressed = true)
include hd

/-- The unique ID's low word is that of the provisioned ID. -/
theorem getpid_answers :
    Completes .getpid s (fun t => ∃ bs, bs.length = 6 ∧ fieldLe bs 0 4 = Config.uniqueId.toNat % 2 ^ 32 ∧
      t = { s with outbox := s.outbox ++ [.i3c bs] }) := by
  refine ⟨_, (always_true hd s _ : exec .getpid s = _), _, natLe_length 6 _, ?_, rfl⟩
  have hslice : ∀ v, sliceBytes (natLe 6 v) 0 4 = (natLe 6 v).take 4 := fun v => by
    rw [sliceBytes_eq_take_drop _ _ _ (by rw [natLe_length]; decide), List.drop_zero]
  rw [fieldLe, hslice, leNat_take_natLe 4 6 _ (by decide)]
  omega

theorem i3cPrivateWrite_sets {bs : List Byte} (hl : bs.length = 4) (h8 : leNat bs % 8 = 0) :
    Completes (.i3cPrivateWrite bs) s (fun t => t = { s with i3c := { s.i3c with off := leNat bs } }) := by
  refine ⟨_, (always_true hd s _ : exec (.i3cPrivateWrite bs) s = _), ?_⟩
  rw [if_pos ⟨hl, h8⟩]
  rfl

theorem i3cPrivateWrite_ignored {bs : List Byte} (h : bs.length ≠ 4 ∨ leNat bs % 8 ≠ 0) :
    Completes (.i3cPrivateWrite bs) s (fun t => t.i3c = s.i3c ∧ t.mem = s.mem) := by
  have hc : ¬ (bs.length = 4 ∧ leNat bs % 8 = 0) := fun ⟨h4, h8⟩ => h.elim (· h4) (· h8)
  refine ⟨_, (always_true hd s _ : exec (.i3cPrivateWrite bs) s = _), ?_⟩
  rw [if_neg hc]
  exact ⟨State.logModule_i3c _ _, State.logModule_mem _ _⟩

theorem i3cPrivateRead_answers (n : Nat) :
    Completes (.i3cPrivateRead n) s (fun t => ∃ bs, bs.length = min n 256 ∧
      t = { s with i3c := { s.i3c with off := s.i3c.off + min n 256 }, outbox := s.outbox ++ [.i3c bs] }) :=
  ⟨_, (always_true hd s _ : exec (.i3cPrivateRead n) s = _), (List.range (min n 256)).map (fun i => s.i3cByte (s.i3c.off + i)),
    by simp, rfl⟩

end

/-- Settles O60: samples by their limits, the management chain command by command. -/
theorem managementAndTemperature : Obligations.managementAndTemperature := by
  unfold Obligations.managementAndTemperature
  intro s
  refine ⟨fun r hw ha hl => ⟨thermalSample_still hw ha hl, thermalSample_warm hw ha hl, thermalSample_hot hw ha hl,
    thermalSample_down hw ha hl⟩, fun hm => ⟨entdaa_takes hm, entdaa_passes hm, rstdaa_drops hm, enec_enables hm,
    disec_disables hm, fun haddr => ?_⟩⟩
  intro tells
  have hd : s.addressed = true := by rw [State.addressed, hm, haddr]; rfl
  refine ⟨fun a => ⟨_, (always_true hd s _ : exec (.setnewda a) s = _), rfl⟩, getpid_answers hd, ?_, ?_, ?_, ?_,
    fun bs hl h8 => i3cPrivateWrite_sets hd hl h8, fun bs h => i3cPrivateWrite_ignored hd h, i3cPrivateRead_answers hd⟩
  · exact ⟨_, (always_true hd s _ : exec .getbcr s = _), _, natLe_length 1 _, rfl⟩
  · exact ⟨_, (always_true hd s _ : exec .getdcr s = _), _, natLe_length 1 _, rfl⟩
  · exact ⟨_, (always_true hd s _ : exec .getstatus s = _), _, natLe_length 2 _, rfl⟩
  · exact ⟨_, (always_true hd s _ : exec .getmxds s = _), _, natLe_length 2 _, rfl⟩

end Sys2Proof.Machine
end

section
/-! PROOFS. Power sequencing and bring-up (R354 to R363, R389, R390). -/

namespace Sys2Proof.Machine

/-! ### Rails and power-down (R356, R357, R389, R390) -/

/-- Power-down keeps nothing but the module's inputs, and announces PWRGD's fall. -/
theorem State.powerDown_down (s : State) :
    s.powerDown.power.pwrgd = false ∧ s.powerDown.power.rails = .falling ∧ s.powerDown.power.holdoff = true ∧
      s.powerDown.power.locked = false ∧ s.powerDown.regs = [] ∧ s.powerDown.mem = [] ∧ s.powerDown.cores = [] ∧
      s.powerDown.parts = [] ∧ s.powerDown.i3c.addr = none ∧ s.powerDown.failed = false ∧
      (s.power.pwrgd = true → .pwrgd false ∈ s.powerDown.outbox) := by
  unfold State.powerDown
  dsimp only
  split_ifs with hm hp hp <;> refine ⟨rfl, rfl, rfl, rfl, rfl, rfl, rfl, rfl, rfl, rfl, fun h => ?_⟩
  · simp [State.send]
  · exact absurd h hp
  · simp [State.send]
  · exact absurd h hp

theorem State.powerDown_kept (s : State) :
    s.powerDown.power.modEn = s.power.modEn ∧ ∃ xs, s.powerDown.outbox = s.outbox ++ xs := by
  unfold State.powerDown
  dsimp only
  split_ifs
  · exact ⟨rfl, [.pwrgd false, .mchainOut false], by simp [State.send]⟩
  · exact ⟨rfl, [.mchainOut false], rfl⟩
  · exact ⟨rfl, [.pwrgd false], rfl⟩
  · exact ⟨rfl, [], (List.append_nil _).symm⟩

/-- The levels of the rails after a start that the inputs allow. -/
theorem State.raiseRails_eq (s : State) :
    s.raiseRails = { s with power := if s.power.mayRise = true then { s.power with rails := .rising, inRegulation := 0 } else s.power } := by
  unfold State.raiseRails
  split <;> rfl

section
variable {s : State}

theorem modEnFall_up (h : s.power.rails = .up ∨ s.power.rails = .rising) :
    exec .modEnFall s = .next (s.modPower (fun p => { p with modEn := false })).powerDown := by
  show execModEnFall s = _
  rw [execModEnFall, if_pos h]
  rfl

theorem modEnFall_down (h : s.power.rails = .down ∨ s.power.rails = .falling) :
    exec .modEnFall s = .next { s with power := { s.power with modEn := false } } := by
  have hn : ¬ (s.power.rails = .up ∨ s.power.rails = .rising) := by
    rcases h with h | h <;> simp [h]
  show execModEnFall s = _
  rw [execModEnFall, if_neg hn]
  rfl

theorem railInRegulation_next {r : Fin 7} (hr : s.power.rails = .rising) (hn : s.power.inRegulation = r.val) :
    exec (.railInRegulation r) s = .next
      (if r.val + 1 = 7 then (({ s with power := { s.power with inRegulation := r.val + 1 } } : State).modPower
          (fun p => { p with rails := .up, pwrgd := true })).send (.pwrgd true)
       else { s with power := { s.power with inRegulation := r.val + 1 } }) := by
  show execRailInRegulation r s = _
  rw [execRailInRegulation, hn]
  exact always_true (by simp [hr]) _ _

theorem railInRegulation_other {r : Fin 7} (h : s.power.rails ≠ .rising ∨ s.power.inRegulation ≠ r.val) :
    exec (.railInRegulation r) s = .next s := by
  have hb : ¬ (decide (s.power.rails = .rising) && r.val == s.power.inRegulation) = true := by
    rw [Bool.and_eq_true, decide_eq_true_eq, beq_iff_eq]
    exact fun ⟨h1, h2⟩ => h.elim (· h1) (· h2.symm)
  show execRailInRegulation r s = _
  rw [execRailInRegulation, always, if_neg hb]

/-- The commands that say that the input or a rail fails. -/
theorem railLost_of_fault (hp : s.power.pwrgd = true) {i : Instr}
    (hi : i ∈ [Instr.inputOutOfRange, .railFault 0, .railFault 1, .railFault 2, .railFault 3, .railFault 4, .railFault 5,
      .railFault 6]) : exec i s = .next s.railLost := by
  have hfault : ∀ r, exec (.railFault r) s = .next s.railLost := fun r => always_true hp _ _
  simp only [List.mem_cons, List.not_mem_nil, or_false] at hi
  rcases hi with rfl | rfl | rfl | rfl | rfl | rfl | rfl | rfl
  · exact always_true hp _ _
  all_goals exact hfault _

theorem State.railLost_outbox (ht : s.twState = 2) (hf : s.failed = false) :
    ∃ xs, s.railLost.outbox = s.outbox ++ .fatalNotice :: xs := by
  obtain ⟨-, xs, hxs⟩ := (s.send .fatalNotice).powerDown_kept
  refine ⟨xs, ?_⟩
  rw [State.railLost, if_pos ⟨ht, by rw [hf]; rfl⟩, hxs]
  simp [State.send]

/-- What a module that loses a rail keeps, as one that sends its notice first. -/
theorem State.railLost_eq (s : State) : ∃ u : State, s.railLost = u.powerDown ∧ u.power = s.power := by
  unfold State.railLost
  split
  · exact ⟨_, rfl, rfl⟩
  · exact ⟨_, rfl, rfl⟩

end

/-! ### The root clock -/

theorem oBL_STAT_injective {l m : LinkId} (h : oBL_STAT l = oBL_STAT m) : l = m := by
  simp only [oBL_STAT, oBL] at h
  exact Fin.ext (by omega)

/-- An enabled link starts to train. -/
def State.trainLink (s : State) (l : LinkId) : State := if s.bit (oBL_CTL l) 0 then s.setFld (oBL_STAT l) 1 0 1 else s

theorem State.trainLink_reg (s : State) (l : LinkId) {o : Nat} (h : o ≠ oBL_STAT l) : (s.trainLink l).reg o = s.reg o := by
  unfold State.trainLink
  split
  · rw [State.reg_setFld, if_neg h]
  · rfl

theorem State.trainLink_trains {s : State} {l : LinkId} (h : s.bit (oBL_CTL l) 0 = true) :
    (s.trainLink l).fld (oBL_STAT l) 1 0 = 1 := by
  rw [State.trainLink, if_pos h]
  exact State.fld_setFld_self _ _ _ _ _ (by decide)

theorem State.foldl_trainLink_reg (ls : List LinkId) (s : State) {o : Nat} (h : ∀ l ∈ ls, o ≠ oBL_STAT l) :
    (ls.foldl State.trainLink s).reg o = s.reg o := by
  induction ls generalizing s with
  | nil => rfl
  | cons l ls ih =>
    rw [List.foldl_cons, ih _ fun m hm => h m (List.mem_cons_of_mem l hm), s.trainLink_reg l (h l List.mem_cons_self)]

theorem oBL_CTL_ne_stat (l m : LinkId) : oBL_CTL l ≠ oBL_STAT m := by
  simp only [oBL_CTL, oBL_STAT, oBL]
  omega

theorem State.foldl_trainLink_trains {ls : List LinkId} (hn : ls.Nodup) {s : State} {l : LinkId} (hl : l ∈ ls)
    (h : s.bit (oBL_CTL l) 0 = true) : (ls.foldl State.trainLink s).fld (oBL_STAT l) 1 0 = 1 := by
  induction ls generalizing s with
  | nil => exact absurd hl List.not_mem_nil
  | cons m ls ih =>
    obtain ⟨hm, hn⟩ := List.nodup_cons.mp hn
    rw [List.foldl_cons]
    rcases List.mem_cons.mp hl with rfl | hl
    · rw [State.fld_of_reg (State.foldl_trainLink_reg ls _ fun k hk hkl => by
        rw [oBL_STAT_injective hkl] at hm
        exact hm hk)]
      exact State.trainLink_trains h
    · refine ih hn hl ?_
      rw [State.bit, State.fld_of_reg (s.trainLink_reg m (oBL_CTL_ne_stat l m))]
      exact h

theorem State.foldl_trainLink_rest (ls : List LinkId) (s : State) : ∃ g, ls.foldl State.trainLink s = { s with regs := g } := by
  induction ls generalizing s with
  | nil => exact ⟨s.regs, rfl⟩
  | cons l ls ih =>
    obtain ⟨g, hg⟩ := ih (s.trainLink l)
    have hl : ∃ g, s.trainLink l = { s with regs := g } := by
      unfold State.trainLink
      split
      · exact ⟨_, rfl⟩
      · exact ⟨s.regs, rfl⟩
    obtain ⟨g', hg'⟩ := hl
    exact ⟨g, by rw [List.foldl_cons, hg, hg']⟩

/-- The epoch: the root clock has locked, and the cycles count from 0. -/
def State.epoch (s : State) : State := { s.modPower (fun p => { p with locked := true }) with cycles := 0 }

theorem rootLock_locks {s : State} (ha : s.alive = true) (hl : s.power.locked = false) :
    Completes .rootLock s (fun t =>
      t.power.locked = true ∧ t.cycles = 0 ∧ t.bit oCLK_STAT 0 = true ∧ t.mem = s.mem ∧
      ∀ l : LinkId, s.bit (oBL_CTL l) 0 = true → t.fld (oBL_STAT l) 1 0 = 1) := by
  have he : exec .rootLock s = .next (((List.finRange 18).foldl State.trainLink s.epoch).setFld oCLK_STAT 0 0 1) := by
    show execRootLock s = _
    rw [execRootLock]
    exact whenever_of_alive ha (by rw [hl]; rfl) _
  have htrain : ∀ l : LinkId, s.bit (oBL_CTL l) 0 = true →
      ((List.finRange 18).foldl State.trainLink s.epoch).fld (oBL_STAT l) 1 0 = 1 := fun l h =>
    State.foldl_trainLink_trains (List.nodup_finRange 18) (s := s.epoch) (List.mem_finRange l) h
  obtain ⟨g, hg⟩ := State.foldl_trainLink_rest (List.finRange 18) s.epoch
  rw [hg] at he htrain
  refine completes_of_eq he ⟨rfl, rfl, ?_, rfl, fun l h => ?_⟩
  · exact congrArg (· == 1) (State.fld_setFld_self _ _ _ _ _ (by decide))
  · have hne : oBL_STAT l ≠ oCLK_STAT := by simp only [oBL_STAT, oBL, oCLK_STAT]; omega
    rw [State.fld_setFld_other _ _ _ _ _ _ _ _ hne]
    exact htrain l h

/-! ### BOOT_STAT -/

theorem State.bootStat_state (s : State) {a : Nat} (b c : Nat) (h : a < 16) : (s.bootStat a b c).bootState = a := by
  rw [State.bootState, State.bootStat, State.fld_setFld_apart _ _ _ _ _ _ _ (by decide) (by decide),
    State.fld_setFld_apart _ _ _ _ _ _ _ (by decide) (by decide), State.fld_setFld_self _ _ _ _ _ (by decide)]
  exact Nat.mod_eq_of_lt h

theorem State.bootStat_error (s : State) (a : Nat) {b : Nat} (c : Nat) (h : b < 256) :
    (s.bootStat a b c).fld oBOOT_STAT 15 8 = b := by
  rw [State.bootStat, State.fld_setFld_apart _ _ _ _ _ _ _ (by decide) (by decide), State.fld_setFld_self _ _ _ _ _ (by decide)]
  exact Nat.mod_eq_of_lt h

theorem State.bootStat_detail (s : State) (a b : Nat) {c : Nat} (h : c < 2 ^ 32) :
    (s.bootStat a b c).fld oBOOT_STAT 63 32 = c := by
  rw [State.bootStat, State.fld_setFld_self _ _ _ _ _ (by decide)]
  exact Nat.mod_eq_of_lt h

theorem State.bootStat_rest (s : State) (a b c : Nat) : s.bootStat a b c = { s with regs := (s.bootStat a b c).regs } := rfl

theorem State.bootStat_reg (s : State) (a b c : Nat) {o : Nat} (h : o ≠ oBOOT_STAT) : (s.bootStat a b c).reg o = s.reg o := by
  rw [State.bootStat, State.reg_setFld, if_neg h, State.reg_setFld, if_neg h, State.reg_setFld, if_neg h]

theorem State.bootError_facts (s : State) {code detail : Nat} (hc : code < 256) (hd : detail < 2 ^ 32) :
    (s.bootError code detail).bootState = 5 ∧ (s.bootError code detail).fld oBOOT_STAT 15 8 = code ∧
      (s.bootError code detail).fld oBOOT_STAT 63 32 = detail ∧ (s.bootError code detail).mem = s.mem ∧
      (s.bootError code detail).boot = s.boot := by
  have hreg : ∀ o, (s.bootError code detail).reg o = (s.bootStat 5 code detail).reg o := fun o => by
    rw [State.bootError, State.reg, State.inBand_regs, State.reg]
  refine ⟨?_, ?_, ?_, State.inBand_mem _ _, State.inBand_boot _ _⟩
  · exact (State.fld_of_reg (hreg _) 3 0).trans (State.bootStat_state s _ _ (by decide))
  · exact (State.fld_of_reg (hreg _) 15 8).trans (State.bootStat_error s _ _ hc)
  · exact (State.fld_of_reg (hreg _) 63 32).trans (State.bootStat_detail s _ _ hd)

/-! ### GO (R358, R359) -/

/-- What a read of host memory asks for. -/
def HostRead.asked (x : HostRead) : Nat × Nat × Nat × HostPurpose × FnId := (x.id, x.addr, x.len, x.purpose, x.fn)

theorem State.hostRead_rest (s : State) (fn : FnId) (addr len : Nat) (p : HostPurpose) :
    ∃ o h rs, (s.hostRead fn addr len p).2 = { s with outbox := o, heldOut := h, nextId := s.nextId + 1, hostReads := rs } ∧
      rs.map HostRead.asked = s.hostReads.map HostRead.asked ++ [(s.nextId, addr, len, p, fn)] := by
  let r : HostRead := { id := s.nextId, addr := addr, len := len, purpose := p, fn := fn, poll := 0, issued := decide (0 < s.readRoom) }
  let t : State := { s with nextId := s.nextId + 1, hostReads := s.hostReads ++ [r] }
  have hasked : (s.hostReads ++ [r]).map HostRead.asked = s.hostReads.map HostRead.asked ++ [(s.nextId, addr, len, p, fn)] := by
    rw [List.map_append]
    rfl
  have hread : (s.hostRead fn addr len p).2 =
      if decide (0 < s.readRoom) then t.toHost (.hostRead fn s.nextId addr len) else t := rfl
  rw [hread]
  split
  · obtain ⟨o, h, hrest⟩ := t.toHost_rest (.hostRead fn s.nextId addr len)
    exact ⟨o, h, _, hrest, hasked⟩
  · exact ⟨s.outbox, s.heldOut, _, rfl, hasked⟩

section
variable {s : State} (ha : s.alive = true) (hc : s.power.configReady = true)
include ha hc

theorem exec_bootGo : exec (.bootGo 0) s = .next
    ((if s.bootState = 1 ∨ s.bootState = 5 then s.bootLoad else s.ignored).countWrite 0) := by
  show execBootGo 0 s = _
  rw [execBootGo, bar0Write, if_neg (by simp [oBOOT_CTL])]
  exact whenever_of_alive ha hc _

theorem bootGo_loads (hb : s.bootState = 1 ∨ s.bootState = 5) (hm : s.boot.busMaster = true) :
    Completes (.bootGo 0) s (fun t =>
      t.bootState = 2 ∧ t.fld oBOOT_STAT 15 8 = 0 ∧
      t.hostReads.map HostRead.asked = s.hostReads.map HostRead.asked ++
        [(s.nextId, 64 * s.fld oIMG_ADDR 63 6, s.imgLen, .firmware, 0),
         (s.nextId + 1, 64 * s.fld oDLY_ADDR 63 6, s.dlyLen, .firmware, 0)] ∧ t.mem = s.mem) := by
  have he := exec_bootGo ha hc
  have hload : s.bootLoad = (((s.bootStat 2 0 0).hostRead 0 (64 * s.fld oIMG_ADDR 63 6) s.imgLen .firmware).2.hostRead 0
      (64 * s.fld oDLY_ADDR 63 6) s.dlyLen .firmware).2 := by
    rw [State.bootLoad, hm]
    rfl
  rw [if_pos hb, hload] at he
  have hstate := s.bootStat_state 0 0 (a := 2) (by decide)
  have herr := s.bootStat_error 2 (b := 0) 0 (by decide)
  have hrest := s.bootStat_rest 2 0 0
  generalize s.bootStat 2 0 0 = t at he hstate herr hrest
  obtain ⟨o, h, rs, ht, hrs⟩ := t.hostRead_rest 0 (64 * s.fld oIMG_ADDR 63 6) s.imgLen .firmware
  have hid : t.nextId = s.nextId := (congrArg State.nextId hrest :)
  have hreads : t.hostReads = s.hostReads := (congrArg State.hostReads hrest :)
  have hmem : t.mem = s.mem := (congrArg State.mem hrest :)
  rw [ht] at he
  obtain ⟨o', h', rs', hu, hrs'⟩ := State.hostRead_rest { t with outbox := o, heldOut := h, nextId := t.nextId + 1, hostReads := rs }
    0 (64 * s.fld oDLY_ADDR 63 6) s.dlyLen .firmware
  rw [hu] at he
  refine completes_of_eq he ⟨hstate, herr, ?_, hmem⟩
  exact hrs'.trans (by rw [hrs, hid, hreads, List.append_assoc]; rfl)

theorem bootGo_without_master (hb : s.bootState = 1 ∨ s.bootState = 5) (hm : s.boot.busMaster = false) :
    Completes (.bootGo 0) s (fun t =>
      t.bootState = 5 ∧ t.fld oBOOT_STAT 15 8 = 0x08 ∧ t.fld oBOOT_STAT 63 32 = 0 ∧ t.mem = s.mem ∧ t.boot = s.boot) := by
  have he := exec_bootGo ha hc
  have hload : s.bootLoad = s.bootError 0x08 0 := by
    rw [State.bootLoad, hm]
    rfl
  rw [if_pos hb, hload] at he
  exact completes_of_eq he (s.bootError_facts (by decide) (by decide))

theorem bootGo_elsewhere (h1 : s.bootState ≠ 1) (h5 : s.bootState ≠ 5) :
    exec (.bootGo 0) s = .next (s.ignored.countWrite 0) := by
  rw [exec_bootGo ha hc, if_neg (not_or.mpr ⟨h1, h5⟩)]

end

/-! ### The end of the fetches (R359, R361) -/

/-- The module once its fetches of firmware have been answered. -/
def State.sansFirmware (s : State) : State := { s with hostReads := s.hostReads.filter (fun r => decide (r.purpose ≠ .firmware)) }

section
variable {s : State} (ha : s.alive = true) (hb : s.bootState = 2)
include ha hb

theorem exec_bootFetchDone (a b : HostAnswer) : exec (.bootFetchDone a b) s = .next (s.sansFirmware.bootFetched a b) := by
  show execBootFetchDone a b s = _
  rw [execBootFetchDone]
  exact whenever_of_alive ha (by rw [hb]; rfl) _

theorem bootFetchDone_error {a b : HostAnswer} {code detail : Nat} (h : s.sansFirmware.bootFetched a b = s.sansFirmware.bootError code detail)
    (hc : code < 256) (hd : detail < 2 ^ 32) :
    Completes (.bootFetchDone a b) s (fun t =>
      t.bootState = 5 ∧ t.fld oBOOT_STAT 15 8 = code ∧ t.fld oBOOT_STAT 63 32 = detail ∧ t.mem = s.mem ∧ t.boot = s.boot) := by
  have he := exec_bootFetchDone ha hb a b
  rw [h] at he
  exact completes_of_eq he (s.sansFirmware.bootError_facts hc hd)

theorem bootFetchDone_fails {x : HostAnswer × Nat} (hx : x ∈ [(HostAnswer.ur, 0x0401), (.poison, 0x0402)]) (img : List Byte)
    (b : HostAnswer) :
    Completes (.bootFetchDone x.1 b) s (fun t => t.bootState = 5 ∧ t.fld oBOOT_STAT 15 8 = 0x07 ∧
      t.fld oBOOT_STAT 63 32 = x.2 ∧ t.mem = s.mem ∧ t.boot = s.boot) ∧
    Completes (.bootFetchDone (.good img) x.1) s (fun t => t.bootState = 5 ∧ t.fld oBOOT_STAT 15 8 = 0x07 ∧
      t.fld oBOOT_STAT 63 32 = x.2 ∧ t.mem = s.mem ∧ t.boot = s.boot) := by
  simp only [List.mem_cons, List.not_mem_nil, or_false] at hx
  rcases hx with rfl | rfl
  · exact ⟨bootFetchDone_error ha hb rfl (by decide) (by decide), bootFetchDone_error ha hb rfl (by decide) (by decide)⟩
  · exact ⟨bootFetchDone_error ha hb rfl (by decide) (by decide), bootFetchDone_error ha hb rfl (by decide) (by decide)⟩

theorem bootFetchDone_bad {img dly : List Byte} {f : Nat × Nat} (h : imageFault img s.imgLen = some f) (hc : f.1 < 256)
    (hd : f.2 < 2 ^ 32) :
    Completes (.bootFetchDone (.good img) (.good dly)) s (fun t =>
      t.bootState = 5 ∧ t.fld oBOOT_STAT 15 8 = f.1 ∧ t.fld oBOOT_STAT 63 32 = f.2 ∧ t.mem = s.mem ∧ t.boot = s.boot) := by
  refine bootFetchDone_error ha hb ?_ hc hd
  have hi : imageFault img s.sansFirmware.imgLen = some f := h
  rw [State.bootFetched, hi]

theorem bootFetchDone_checked {img dly : List Byte} (hi : imageFault img s.imgLen = none) (hl : s.dlyLen = 8256)
    (hd : delayFaults dly = []) :
    exec (.bootFetchDone (.good img) (.good dly)) s = .next
      (if delayForeign dly then s.sansFirmware.bootError 0x06 0
       else { s.sansFirmware.bootStat 3 0 0 with boot := { s.boot with image := img, delays := dly } }) := by
  have hi' : imageFault img s.sansFirmware.imgLen = none := hi
  have hl' : ¬ s.sansFirmware.dlyLen ≠ delaySize := not_not_intro hl
  rw [exec_bootFetchDone ha hb, State.bootFetched, hi']
  dsimp only
  rw [State.checkDelays, if_neg hl', hd]
  rfl

end

/-! ### The firmware's start (R362) -/

/-- A lane's delays as the delay file gives them. -/
def bootLane (n : ChanId) (rec_ : List Byte) (t : State) (k : Nat) : State :=
  (t.setFld (oDLY_LANE n k) 6 0 (fieldLe rec_ (2 * k) 1 % 128)).setFld (oDLY_LANE n k) 14 8 (fieldLe rec_ (2 * k + 1) 1 % 128)

theorem bootLanes_fld (n : ChanId) (rec_ : List Byte) (ks : List Nat) (t : State) {o : Nat} (h : ∀ k ∈ ks, o ≠ oDLY_LANE n k)
    (hi lo : Nat) : (ks.foldl (bootLane n rec_) t).fld o hi lo = t.fld o hi lo := by
  induction ks generalizing t with
  | nil => rfl
  | cons k ks ih =>
    have hk := h k List.mem_cons_self
    rw [List.foldl_cons, ih _ fun j hj => h j (List.mem_cons_of_mem k hj), bootLane, State.fld_setFld_other _ _ _ _ _ _ _ _ hk,
      State.fld_setFld_other _ _ _ _ _ _ _ _ hk]

theorem bootLanes_rest (n : ChanId) (rec_ : List Byte) (ks : List Nat) (t : State) :
    ∃ g, ks.foldl (bootLane n rec_) t = { t with regs := g } := by
  induction ks generalizing t with
  | nil => exact ⟨t.regs, rfl⟩
  | cons k ks ih =>
    obtain ⟨g, hg⟩ := ih (bootLane n rec_ t k)
    exact ⟨g, hg⟩

/-- The delay file's record of a channel. -/
def State.delayRecord (s : State) (n : ChanId) : List Byte := sliceBytes s.boot.delays (64 + 32 * n.val) 32

theorem State.bootChan_eq (s : State) (n : ChanId) :
    s.bootChan n = (((((List.range 9).foldl (bootLane n (s.delayRecord n)) s).setFld (oDLY_CA n) 6 0
      (fieldLe (s.delayRecord n) 18 1 % 128)).setFld (oCH_CTL n) 0 0 1)).enableChan n := rfl

/-- The channel is enabled and active. -/
def State.channelUp (n : ChanId) (s : State) : Prop := s.chEnabled n = true ∧ s.pstate n = 1

theorem State.bootChan_up (s : State) (n : ChanId) : State.channelUp n (s.bootChan n) := by
  rw [State.bootChan_eq]
  generalize (((List.range 9).foldl (bootLane n (s.delayRecord n)) s).setFld (oDLY_CA n) 6 0
    (fieldLe (s.delayRecord n) 18 1 % 128)) = t
  obtain ⟨hp, hctl, -⟩ := State.enableChan_fld (t.setFld (oCH_CTL n) 0 0 1) n
  refine ⟨?_, hp⟩
  rw [State.chEnabled, (hctl 0).resolve_right (by decide)]
  exact congrArg (· == 1) (State.fld_setFld_self _ _ _ _ _ (by decide))

theorem oCH_ne {m n : ChanId} (h : m ≠ n) {j k : Nat} (hj : j < 0x1000) (hk : k < 0x1000) : oCH m j ≠ oCH n k := by
  intro he
  simp only [oCH] at he
  exact h (Fin.ext (by omega))

/-- The boot of a channel leaves the registers of the others. -/
theorem State.bootChan_fld (s : State) {m n : ChanId} (h : m ≠ n) {j : Nat} (hj : j < 0x1000) {hi : Nat} (hhi : hi < 64) (lo : Nat) :
    (s.bootChan n).fld (oCH m j) hi lo = s.fld (oCH m j) hi lo := by
  have hlane : ∀ k ∈ List.range 9, oCH m j ≠ oDLY_LANE n k := fun k hk =>
    oCH_ne h hj (by have := List.mem_range.mp hk; omega)
  have henable : ∀ t : State, t.enableChan n = ((List.range 9).foldl (loadLane n) t).setFld (oCH_STAT n) 1 0 1 := fun _ => rfl
  have hstat : oCH m j ≠ oCH_STAT n := oCH_ne h hj (by decide)
  have hctl : oCH m j ≠ oCH_CTL n := oCH_ne h hj (by decide)
  have hca : oCH m j ≠ oDLY_CA n := oCH_ne h hj (by decide)
  rw [State.bootChan_eq, henable, State.fld_setFld_other _ _ _ _ _ _ _ _ hstat, loadLanes_fld n _ _ hhi (.inl hlane),
    State.fld_setFld_other _ _ _ _ _ _ _ _ hctl, State.fld_setFld_other _ _ _ _ _ _ _ _ hca, bootLanes_fld n _ _ s hlane]

theorem State.channelUp_bootChan {s : State} {n : ChanId} (m : ChanId) (h : State.channelUp n s) : State.channelUp n (s.bootChan m) := by
  by_cases hm : n = m
  · rw [← hm]
    exact s.bootChan_up n
  · obtain ⟨hen, hp⟩ := h
    refine ⟨?_, (s.bootChan_fld hm (j := 8) (by decide) (by decide) 0).trans hp⟩
    exact (congrArg (· == 1) (s.bootChan_fld hm (j := 0) (by decide) (by decide) 0)).trans hen

theorem State.channelUp_foldl_bootChan {ls : List ChanId} {n : ChanId} {s : State} (h : n ∈ ls ∨ State.channelUp n s) :
    State.channelUp n (ls.foldl State.bootChan s) := by
  induction ls generalizing s with
  | nil =>
    rw [List.foldl_nil]
    exact h.resolve_left List.not_mem_nil
  | cons m ls ih =>
    have hm : n ∈ ls ∨ State.channelUp n (s.bootChan m) := by
      rcases h with h | h
      · rcases List.mem_cons.mp h with hnm | h
        · rw [hnm]
          exact .inr (s.bootChan_up m)
        · exact .inl h
      · exact .inr (State.channelUp_bootChan m h)
    rw [List.foldl_cons]
    exact ih hm

theorem State.foldl_bootChan_boot (ls : List ChanId) (s : State) : (ls.foldl State.bootChan s).boot = s.boot :=
  boot_foldl State.bootChan (fun t n => State.bootChan_boot t n) ls s

/-- A listed word that is kept reads as before, whatever else leaves the table. -/
theorem tabGet_filter_of_listed {α : Type} {d : Nat → α} {P : Nat → Bool} {k : Nat} (hk : P k = true) {m : Tab α}
    (h : tabGet d k m ≠ d k) : tabGet d k (m.filter (fun e => P e.1)) = tabGet d k m := by
  induction m with
  | nil => rfl
  | cons e m ih =>
    rw [tabGet] at h
    split_ifs at h with hlt heq
    · exact absurd rfl h
    · subst heq
      rw [List.filter_cons_of_pos (by exact hk), tabGet, tabGet]
      simp
    · rw [show tabGet d k (e :: m) = tabGet d k m from by rw [tabGet, if_neg hlt, if_neg heq]]
      rw [← ih h, List.filter_cons]
      split
      · rw [tabGet, if_neg hlt, if_neg heq]
      · rfl

theorem regReset_CH_CTL (n : ChanId) : regReset (oCH_CTL n) = 0 := by
  have := n.isLt
  rw [regReset, show oCH_CTL n = oCH n 0 from rfl, regAt_channel n 0 (by omega)]
  unfold regsChannels
  rw [List.find?_cons_of_pos (by simp [RegSpec.holds, oCH])]
  rfl

theorem regReset_CH_STAT (n : ChanId) : getBits (regReset (oCH_STAT n)) 1 0 = 0 := by
  have := n.isLt
  rw [regReset, show oCH_STAT n = oCH n 8 from rfl, regAt_channel n 8 (by omega)]
  unfold regsChannels
  repeat (rw [List.find?_cons_of_neg (by simp [RegSpec.holds, oCH]; omega)])
  rw [List.find?_cons_of_pos (by simp [RegSpec.holds, oCH])]
  rfl

theorem State.fld_of_filtered {s t : State} {P : Nat → Bool} (ht : t.regs = s.regs.filter (fun e => P e.1)) {o : Nat}
    (hP : P o = true) (hl : s.reg o ≠ regReset o) (hi lo : Nat) : t.fld o hi lo = s.fld o hi lo := by
  rw [State.fld, State.reg, ht]
  exact congrArg (fun w => getBits w hi lo) (tabGet_filter_of_listed hP hl)

theorem channelTally_ctl (n : ChanId) : channelTally (oCH_CTL n) = false := by
  have h : oCH_CTL n % 0x1000 = 0 := by
    simp only [oCH_CTL, oCH]
    omega
  simp [channelTally, h]

theorem channelTally_stat (n : ChanId) : channelTally (oCH_STAT n) = false := by
  have h : oCH_STAT n % 0x1000 = 8 := by
    simp only [oCH_STAT, oCH]
    omega
  simp [channelTally, h]

/-- A channel that is up stays so when counters and logs are cleared. -/
theorem State.channelUp_of_filtered {s t : State} {n : ChanId} (ht : t.regs = s.regs.filter (fun e => !channelTally e.1))
    (h : State.channelUp n s) : State.channelUp n t := by
  obtain ⟨hen, hp⟩ := h
  have hctl : s.reg (oCH_CTL n) ≠ regReset (oCH_CTL n) := by
    intro he
    rw [State.chEnabled, State.bit, State.fld, he, regReset_CH_CTL] at hen
    exact absurd hen (by decide)
  have hstat : s.reg (oCH_STAT n) ≠ regReset (oCH_STAT n) := by
    intro he
    rw [State.pstate, State.fld, he, regReset_CH_STAT] at hp
    exact absurd hp (by decide)
  refine ⟨?_, ?_⟩
  · exact (congrArg (· == 1) (State.fld_of_filtered (P := fun o => !channelTally o) ht (by simp [channelTally_ctl]) hctl 0 0)).trans hen
  · exact (State.fld_of_filtered (P := fun o => !channelTally o) ht (by simp [channelTally_stat]) hstat 1 0).trans hp

theorem State.prepareMemory_facts (s : State) :
    s.prepareMemory.mem = [] ∧ s.prepareMemory.lineErr = [] ∧ s.prepareMemory.boot = s.boot ∧
      ∀ n, State.channelUp n s.prepareMemory := by
  have hup : ∀ n, State.channelUp n ((List.finRange 256).foldl State.bootChan s) := fun n =>
    State.channelUp_foldl_bootChan (.inl (List.mem_finRange n))
  have hboot := State.foldl_bootChan_boot (List.finRange 256) s
  unfold State.prepareMemory
  generalize (List.finRange 256).foldl State.bootChan s = t at hup hboot
  exact ⟨rfl, rfl, hboot, fun n => State.channelUp_of_filtered rfl (hup n)⟩

theorem State.channelUp_congr {s t : State} {n : ChanId} (hc : t.reg (oCH_CTL n) = s.reg (oCH_CTL n))
    (hs : t.reg (oCH_STAT n) = s.reg (oCH_STAT n)) (h : State.channelUp n s) : State.channelUp n t := by
  obtain ⟨hen, hp⟩ := h
  exact ⟨(congrArg (· == 1) (State.fld_of_reg hc 0 0)).trans hen, (State.fld_of_reg hs 1 0).trans hp⟩

/-- The word of FW_ID for the image that runs. -/
def State.firmwareId (s : State) : Word := BitVec.ofNat 64 (fieldLe s.boot.image 8 4 + fieldLe s.boot.image 16 4 * 2 ^ 32)

theorem State.firmwareId_fields (s : State) :
    getBits s.firmwareId 31 0 = fieldLe s.boot.image 8 4 ∧ getBits s.firmwareId 63 32 = fieldLe s.boot.image 16 4 := by
  have h1 := fieldLe_lt s.boot.image 8 4
  have h2 := fieldLe_lt s.boot.image 16 4
  simp only [getBits, bitsOf, State.firmwareId, BitVec.toNat_ofNat]
  omega

theorem State.becomeReady_reg (s : State) (o : Nat) :
    s.becomeReady.reg o = if o = oFW_ID then s.firmwareId else (s.bootStat 4 0 0).reg o :=
  State.reg_setReg _ _ _ _

theorem fwReady_ready {s : State} (ha : s.alive = true) (hb : s.bootState = 3) :
    Completes (.fwReady none) s (fun t =>
      t.bootState = 4 ∧ t.mem = [] ∧ t.lineErr = [] ∧ (∀ n : ChanId, t.chEnabled n = true ∧ t.pstate n = 1) ∧
      t.fld oFW_ID 31 0 = fieldLe s.boot.image 8 4 ∧ t.fld oFW_ID 63 32 = fieldLe s.boot.image 16 4) := by
  have he : exec (.fwReady none) s = .next s.prepareMemory.becomeReady := by
    show execFwReady none s = _
    rw [execFwReady]
    exact whenever_of_alive ha (by rw [hb]; rfl) _
  obtain ⟨hmem, herr, hboot, hup⟩ := s.prepareMemory_facts
  generalize s.prepareMemory = t at he hmem herr hboot hup
  obtain ⟨hlo, hhi⟩ := t.firmwareId_fields
  rw [hboot] at hlo hhi
  have hself : t.becomeReady.reg oFW_ID = t.firmwareId := (t.becomeReady_reg _).trans (if_pos rfl)
  have hother : ∀ {o}, o ≠ oFW_ID → o ≠ oBOOT_STAT → t.becomeReady.reg o = t.reg o := fun h1 h2 =>
    (t.becomeReady_reg _).trans ((if_neg h1).trans (t.bootStat_reg 4 0 0 h2))
  refine completes_of_eq he ⟨?_, hmem, herr, fun n => ?_, ?_, ?_⟩
  · exact (State.fld_of_reg ((t.becomeReady_reg _).trans (if_neg (by decide))) 3 0).trans
      (t.bootStat_state 0 0 (a := 4) (by decide))
  · exact State.channelUp_congr (hother (by simp only [oCH_CTL, oCH, oFW_ID]; omega) (by simp only [oCH_CTL, oCH, oBOOT_STAT]; omega))
      (hother (by simp only [oCH_STAT, oCH, oFW_ID]; omega) (by simp only [oCH_STAT, oCH, oBOOT_STAT]; omega)) (hup n)
  · rw [State.fld, hself, hlo]
  · rw [State.fld, hself, hhi]

theorem fwReady_bad {s : State} (ha : s.alive = true) (hb : s.bootState = 3) (n : ChanId) :
    Completes (.fwReady (some n)) s (fun t =>
      t.bootState = 5 ∧ t.fld oBOOT_STAT 15 8 = 0x09 ∧ t.fld oBOOT_STAT 63 32 = n.val) := by
  have he : exec (.fwReady (some n)) s = .next (s.prepareMemory.bootError 0x09 n.val) := by
    show execFwReady (some n) s = _
    rw [execFwReady]
    exact whenever_of_alive ha (by rw [hb]; rfl) _
  generalize s.prepareMemory = t at he
  obtain ⟨hst, herr, hdet, -⟩ := t.bootError_facts (code := 9) (detail := n.val) (by decide) (by omega)
  exact completes_of_eq he ⟨hst, herr, hdet⟩

theorem fwStartTimeout_error {s : State} (ha : s.alive = true) (hb : s.bootState = 3) (d : BitVec 32) :
    Completes (.fwStartTimeout d) s (fun t =>
      t.bootState = 5 ∧ t.fld oBOOT_STAT 15 8 = 0x0A ∧ t.fld oBOOT_STAT 63 32 = d.toNat ∧ t.mem = s.mem ∧ t.boot = s.boot) := by
  have he : exec (.fwStartTimeout d) s = .next (s.bootError 0x0A d.toNat) := by
    show execFwStartTimeout d s = _
    rw [execFwStartTimeout]
    exact whenever_of_alive ha (by rw [hb]; rfl) _
  exact completes_of_eq he (s.bootError_facts (by decide) d.isLt)

/-! ### The statement -/

section
variable {s : State}

theorem railLost_down (hp : s.power.pwrgd = true) {i : Instr}
    (hi : i ∈ [Instr.inputOutOfRange, .railFault 0, .railFault 1, .railFault 2, .railFault 3, .railFault 4, .railFault 5,
      .railFault 6]) :
    Completes i s (fun t =>
      (t.power.pwrgd = false ∧ t.power.rails = .falling ∧ t.power.holdoff = true ∧ t.power.locked = false ∧ t.regs = [] ∧
        t.mem = [] ∧ t.cores = [] ∧ t.parts = [] ∧ t.i3c.addr = none ∧ t.failed = false ∧
        (s.power.pwrgd = true → .pwrgd false ∈ t.outbox)) ∧ t.power.modEn = s.power.modEn ∧
      (s.twState = 2 → s.failed = false → ∃ xs, t.outbox = s.outbox ++ .fatalNotice :: xs)) := by
  have he := railLost_of_fault hp hi
  have hout := State.railLost_outbox (s := s)
  obtain ⟨u, hu, hup⟩ := s.railLost_eq
  have hdown := u.powerDown_down
  obtain ⟨hmod, -⟩ := u.powerDown_kept
  rw [hu] at he hout
  rw [hup] at hdown hmod
  exact completes_of_eq he ⟨hdown, hmod, hout⟩

theorem pllLoss_fails (hp : s.power.pwrgd = true) (hl : s.power.locked = true) :
    Completes .pllLoss s (fun t =>
      t.failed = true ∧ t.power.locked = false ∧ t.twState = 5 ∧ t.outbox = s.outbox ∧ t.mem = s.mem ∧ t.cores = s.cores) :=
  completes_of_eq (always_true (by rw [hp, hl]; rfl) _ _ : exec .pllLoss s = _)
    ⟨rfl, rfl, State.fld_setFld_self (s.modPower (fun p => { p with locked := false })) oTW_STAT 2 0 5 (by decide), rfl, rfl, rfl⟩

end

/-- Settles O59: the rails, the root clock, the loader and the firmware's start, each with its command. -/
theorem powerAndBringUp : Obligations.powerAndBringUp := by
  unfold Obligations.powerAndBringUp
  refine ⟨fun s => ?_, fun s ha => ?_⟩
  · intro rises down
    refine ⟨?_, fun h => ?_, fun h => ⟨_, modEnFall_down h, rfl⟩, fun r hr hn => ⟨fun h6 => ?_, fun h6 => ?_⟩,
      fun r h => railInRegulation_other h, fun hp => ⟨fun i hi => railLost_down hp hi, pllLoss_fails hp⟩, fun hp => ?_,
      fun hp hr => ?_, fun hi => ?_, fun hh => ?_⟩
    · exact ⟨_, (always_true (b := true) rfl _ _ : exec .modEnRise s = _), State.raiseRails_eq _⟩
    · have hdown := (s.modPower (fun p => { p with modEn := false })).powerDown_down
      obtain ⟨hmod, -⟩ := (s.modPower (fun p => { p with modEn := false })).powerDown_kept
      exact completes_of_eq (modEnFall_up h) ⟨hdown, hmod⟩
    · exact completes_of_eq (railInRegulation_next hr hn) (if_neg (by omega))
    · have he := railInRegulation_next hr hn
      rw [if_pos (by omega), h6] at he
      exact completes_of_eq he ⟨rfl, rfl⟩
    · have hf : ∀ t, always s.power.pwrgd s t = .next s := fun t => by rw [always, hp]; rfl
      exact ⟨hf _, fun r => hf _⟩
    · exact ⟨_, (always_true (by simp [hp, hr]) _ _ : exec .inputRise s = _), rfl⟩
    · exact ⟨_, (always_true (by simp [hi]) _ _ : exec .bulkChargeDone s = _), State.raiseRails_eq _⟩
    · exact ⟨_, (always_true hh _ _ : exec .modEnHoldoffEnd s = _), State.raiseRails_eq _⟩
  · intro error
    refine ⟨rootLock_locks ha, fun hl hc => ?_, fun hp => ?_, fun hc => ⟨fun hb hm => bootGo_loads ha hc hb hm,
      fun hb hm => bootGo_without_master ha hc hb hm, bootGo_elsewhere ha hc⟩, fun hb img dly b => ⟨fun x hx => ?_, fun h => ?_,
      fun h1 h2 => ?_, fun hi hl hd => ⟨fun hf => ?_, fun hf => ?_⟩⟩, fun hb => ⟨fwReady_ready ha hb, fwReady_bad ha hb,
      fwStartTimeout_error ha hb⟩⟩
    · refine ⟨_, (whenever_of_alive ha (by rw [hl, hc]; rfl) _ : exec .configSpaceReady s = _), rfl, ?_, rfl⟩
      exact State.fld_setFld_self (s.modPower (fun p => { p with configReady := true })) oBOOT_STAT 3 0 1 (by decide)
    · exact ⟨_, (whenever_of_alive ha hp _ : exec .perstDeassert s = _), rfl⟩
    · exact bootFetchDone_fails ha hb hx img b
    · have hf : imageFault img s.imgLen = some (0x01, 0) := by
        rw [imageFault]
        exact if_pos h
      exact bootFetchDone_bad ha hb hf (by decide) (by decide)
    · have hf : imageFault img s.imgLen = some (0x02, fieldLe img 4 1) := by
        rw [imageFault]
        exact (if_neg (not_not_intro h1)).trans (if_pos h2)
      have hlt := fieldLe_lt img 4 1
      exact bootFetchDone_bad ha hb hf (show 2 < 256 by decide) (by simp only; omega)
    · have he := bootFetchDone_checked ha hb hi hl hd
      rw [hf, if_pos rfl] at he
      exact completes_of_eq he (s.sansFirmware.bootError_facts (by decide) (by decide))
    · have he := bootFetchDone_checked ha hb hi hl hd
      rw [hf, if_neg Bool.false_ne_true] at he
      exact completes_of_eq he ⟨s.sansFirmware.bootStat_state 0 0 (a := 3) (by decide), rfl, rfl⟩

end Sys2Proof.Machine
end

section
/-! PROOFS. The Belora links: frames, replay, lanes, training, hold and aliases (R333 to R336, R344, R351, R352). -/

namespace Sys2Proof.Machine

/-! ### Links -/

theorem State.link_modLink (s : State) (l m : LinkId) (f : Link → Link) :
    (s.modLink l f).link m = if m = l then f (s.link l) else s.link m :=
  State.link_setLink s l m _

theorem State.link_congr {s t : State} (h : t.links = s.links) (l : LinkId) : t.link l = s.link l := by
  rw [State.link, State.link, h]

theorem State.fld_congr {s t : State} (h : t.regs = s.regs) (o hi lo : Nat) : t.fld o hi lo = s.fld o hi lo := by
  rw [State.fld, State.fld, State.reg, State.reg, h]

theorem State.linkLive_congr {s t : State} (h : t.regs = s.regs) (l : LinkId) : t.linkLive l = s.linkLive l := by
  rw [State.linkLive, State.linkLive, State.fld_congr h]

/-- A link with what sending a frame makes of it. -/
def Link.framed (k : Link) (f : List Byte) : Link :=
  { k with
    txSeq := k.txSeq + 1
    owed := tabSet (fun _ => 0) (match k.owed with | [] => (0, 0) | e :: _ => e).1 0 k.owed
    unacked := k.unacked ++ [(k.txSeq, f)] }

/-- The frame that a link sends next. -/
def State.nextFrame (s : State) (l : LinkId) (nak : Bool) (payload : List Byte) : List Byte :=
  let k := s.link l
  let e := match k.owed with | [] => (0, 0) | e :: _ => e
  mkFrame k.txSeq (k.rxSeq - 1) nak e.1 (BitVec.ofNat 8 (s.fld (oBL_STAT l) 17 10)) e.2 payload

theorem State.sendFrame_eq (s : State) (l : LinkId) (nak : Bool) (payload : List Byte) :
    s.sendFrame l nak payload = (s.modLink l (fun k => k.framed (s.nextFrame l nak payload))).send
      (.frame l (s.nextFrame l nak payload)) := rfl

/-! ### What a link has received stays while it sends -/

/-- What a link has received: the SEQ it accepts next, the packet in progress, and the packets not yet acted on. -/
def Link.inbound (k : Link) : BitVec 12 × List Byte × List (List Byte) := (k.rxSeq, k.partial_, k.packets)

theorem State.inbound_modLink {s : State} {l : LinkId} {f : Link → Link} (h : ∀ k, (f k).inbound = k.inbound) (m : LinkId) :
    ((s.modLink l f).link m).inbound = (s.link m).inbound := by
  rw [State.link_modLink]
  split
  next hm => rw [h, hm]
  next => rfl

theorem State.inbound_sendFrame (s : State) (l : LinkId) (nak : Bool) (payload : List Byte) (m : LinkId) :
    ((s.sendFrame l nak payload).link m).inbound = (s.link m).inbound :=
  State.inbound_modLink (s := s) (f := fun k => k.framed (s.nextFrame l nak payload)) (fun _ => rfl) m

theorem State.inbound_idleFrame (s : State) (l : LinkId) (nak : Bool) (m : LinkId) :
    ((s.idleFrame l nak).link m).inbound = (s.link m).inbound := by
  unfold State.idleFrame
  split
  · rfl
  · exact s.inbound_sendFrame l nak [] m

theorem State.inbound_foldl_sendFrame (l : LinkId) (fs : List (List Byte)) (s : State) (m : LinkId) :
    ((fs.foldl (fun u f => u.sendFrame l false f) s).link m).inbound = (s.link m).inbound := by
  induction fs generalizing s with
  | nil => rfl
  | cons f fs ih => rw [List.foldl_cons, ih, State.inbound_sendFrame]

theorem State.inbound_pumpLink (l : LinkId) (n : Nat) (s : State) (m : LinkId) :
    ((s.pumpLink l n).link m).inbound = (s.link m).inbound := by
  induction n generalizing s with
  | zero => rfl
  | succ n ih =>
    unfold State.pumpLink
    dsimp only
    split
    · rfl
    · split
      · rfl
      · rw [ih, State.inbound_modLink (f := fun k => { k with sent := k.sent ++ [_] }) (fun _ => rfl),
          State.inbound_foldl_sendFrame, State.inbound_modLink (f := fun k => k.charge _ _) (fun _ => rfl)]

/-! ### Other links stay while one sends -/

theorem State.link_modLink_other (s : State) {l m : LinkId} (h : m ≠ l) (f : Link → Link) : (s.modLink l f).link m = s.link m := by
  rw [State.link_modLink, if_neg h]

theorem State.link_sendFrame_other (s : State) {l m : LinkId} (h : m ≠ l) (nak : Bool) (payload : List Byte) :
    (s.sendFrame l nak payload).link m = s.link m :=
  s.link_modLink_other h (fun k => k.framed (s.nextFrame l nak payload))

theorem State.link_foldl_sendFrame_other {l m : LinkId} (h : m ≠ l) (fs : List (List Byte)) (s : State) :
    (fs.foldl (fun u f => u.sendFrame l false f) s).link m = s.link m := by
  induction fs generalizing s with
  | nil => rfl
  | cons f fs ih => rw [List.foldl_cons, ih, State.link_sendFrame_other _ h]

theorem State.link_pumpLink_other {l m : LinkId} (h : m ≠ l) (n : Nat) (s : State) : (s.pumpLink l n).link m = s.link m := by
  induction n generalizing s with
  | zero => rfl
  | succ n ih =>
    unfold State.pumpLink
    dsimp only
    split
    · rfl
    · split
      · rfl
      · rw [ih, State.link_modLink_other _ h, State.link_foldl_sendFrame_other h, State.link_modLink_other _ h]

theorem State.link_transmit_other (s : State) {l m : LinkId} (h : m ≠ l) (t : TxPkt) : (s.transmit l t).link m = s.link m := by
  unfold State.transmit
  dsimp only
  rw [State.link_pumpLink_other h, State.link_modLink_other _ h]

theorem State.link_route_dead {s : State} {l : LinkId} (h : s.linkLive l = false) (i : Option LinkId) (part : Option PartId)
    (p : List Byte) : (s.route i part p).link l = s.link l := by
  unfold State.route
  dsimp only
  generalize (if s.answersTo _ then none else s.hop _) = g
  match g with
  | none => rfl
  | some (j, plus, wrap) =>
    dsimp only
    split
    · rfl
    next m hm =>
      have hlive := (List.mem_filter.mp (List.mem_of_getElem? hm)).2
      simp only [Bool.and_eq_true] at hlive
      refine State.link_transmit_other _ ?_ _
      rintro rfl
      rw [h] at hlive
      exact Bool.false_ne_true hlive.2

theorem State.link_resendTwin_dead {s : State} {l : LinkId} (h : s.linkLive l = false) (t : TxPkt) :
    (s.resendTwin t).link l = s.link l := by
  unfold State.resendTwin
  split
  · rfl
  next m ms hm =>
    have hmem : m ∈ s.twinLinks := by rw [hm]; exact List.mem_cons_self
    have hlive := (List.mem_filter.mp hmem).2
    refine State.link_transmit_other _ ?_ _
    rintro rfl
    rw [h] at hlive
    exact Bool.false_ne_true hlive

/-! ### A link goes down (R335, R344) -/

/-- A packet of a lost link takes another way. -/
def State.reroute (l : LinkId) (s : State) (x : TxPkt) : State :=
  if 16 ≤ l.val then s.resendTwin x else s.route x.input x.part x.bytes

theorem State.link_foldl_reroute {l : LinkId} (xs : List TxPkt) {s : State} (h : s.linkLive l = false) :
    (xs.foldl (State.reroute l) s).link l = s.link l ∧ (xs.foldl (State.reroute l) s).regs = s.regs := by
  induction xs generalizing s with
  | nil => exact ⟨rfl, rfl⟩
  | cons x xs ih =>
    have hregs : (s.reroute l x).regs = s.regs := by
      unfold State.reroute
      split
      · exact State.resendTwin_regs _ _
      · exact State.route_regs _ _ _ _
    have hlink : (s.reroute l x).link l = s.link l := by
      unfold State.reroute
      split
      · exact State.link_resendTwin_dead h x
      · exact State.link_route_dead h _ _ _
    obtain ⟨h1, h2⟩ := ih (s := s.reroute l x) ((State.linkLive_congr hregs l).trans h)
    exact ⟨h1.trans hlink, h2.trans hregs⟩

theorem State.fld_narrow {s : State} {o hi lo : Nat} (h : s.fld o hi 0 = 0) (hlo : lo ≤ hi) : s.fld o lo 0 = 0 := by
  simp only [State.fld, getBits, bitsOf] at h ⊢
  have hd : 2 ^ (lo + 1 - 0) ∣ 2 ^ (hi + 1 - 0) := Nat.pow_dvd_pow 2 (by omega)
  rw [← Nat.mod_mod_of_dvd _ hd, h, Nat.zero_mod]

theorem State.downLink_facts (s : State) (l : LinkId) :
    (s.downLink l).fld (oBL_STAT l) 17 0 = 0 ∧ (s.downLink l).link l = { packets := (s.link l).packets } ∧
      (s.downLink l).mem = s.mem := by
  let s1 := (s.setLink l { packets := (s.link l).packets }).setFld (oBL_STAT l) 17 0 0
  let s2 := if 16 ≤ l.val then s1.setFld oTW_STAT (l.val - 12) (l.val - 12) 0 else s1
  have hs2 : s2.fld (oBL_STAT l) 17 0 = 0 ∧ s2.link l = { packets := (s.link l).packets } := by
    have hfld : s1.fld (oBL_STAT l) 17 0 = 0 := State.fld_setFld_self _ _ _ _ _ (by decide)
    have hlink : s1.link l = { packets := (s.link l).packets } := (State.link_setLink s l l _).trans (if_pos rfl)
    simp only [s2]
    split
    · have hne : oBL_STAT l ≠ oTW_STAT := by simp only [oBL_STAT, oBL, oTW_STAT]; omega
      exact ⟨(State.fld_setFld_other _ _ _ _ _ _ _ _ hne).trans hfld, hlink⟩
    · exact ⟨hfld, hlink⟩
  have hdown : s.downLink l = ((s.link l).sent.map Prod.snd ++ (s.link l).tx).foldl (State.reroute l) s2 := rfl
  have hdead : s2.linkLive l = false := by
    rw [State.linkLive, State.fld_narrow hs2.1 (by decide)]
    rfl
  obtain ⟨hlink, hregs⟩ := State.link_foldl_reroute ((s.link l).sent.map Prod.snd ++ (s.link l).tx) hdead
  refine ⟨?_, ?_, State.downLink_mem s l⟩
  · rw [hdown, State.fld_congr hregs]
    exact hs2.1
  · rw [hdown, hlink]
    exact hs2.2

/-! ### Fields and units of frames (R333) -/

theorem fieldLe_append (x y : List Byte) (n v : Nat) : fieldLe (x ++ (natLe n v ++ y)) x.length n = v % 256 ^ n := by
  have hlen : x.length + n ≤ (x ++ (natLe n v ++ y)).length := by simp
  rw [fieldLe, sliceBytes_eq_take_drop _ _ _ hlen, List.drop_left' rfl, List.take_left' (natLe_length n v), leNat_natLe]

theorem sliceBytes_eq_map (l : List Byte) (o n : Nat) : sliceBytes l o n = (List.range n).map (fun i => l[o + i]?.getD 0) := by
  induction n generalizing o with
  | zero => rfl
  | succ n ih =>
    rw [sliceBytes, ih, List.range_succ_eq_map, List.map_cons, List.map_map]
    congr 1
    refine List.map_congr_left fun i _ => ?_
    rw [Function.comp_apply, Nat.succ_eq_add_one, show o + 1 + i = o + (i + 1) by omega]

/-- A part of zero bytes is zero bytes. -/
theorem sliceBytes_zeros {l : List Byte} {a N : Nat} (h : sliceBytes l a N = List.replicate N 0) {o n : Nat} (hon : o + n ≤ N) :
    sliceBytes l (a + o) n = List.replicate n 0 := by
  rw [sliceBytes_eq_map, List.eq_replicate_iff] at h
  rw [sliceBytes_eq_map, List.eq_replicate_iff]
  refine ⟨by simp, fun b hb => ?_⟩
  obtain ⟨i, hi, rfl⟩ := List.mem_map.mp hb
  have hi := List.mem_range.mp hi
  rw [Nat.add_assoc]
  exact h.2 _ (List.mem_map.mpr ⟨o + i, List.mem_range.mpr (by omega), rfl⟩)

/-- The 15 units of a frame's payload. -/
def frameUnits (f : List Byte) : List (List Byte) := (List.range 15).map (fun i => sliceBytes f (8 + 16 * i) 16)

theorem frameUnits_of_one {f : List Byte} (h : sliceBytes f 24 224 = List.replicate 224 0) :
    frameUnits f = sliceBytes f 8 16 :: List.replicate 14 (List.replicate 16 0) := by
  rw [frameUnits, List.range_succ_eq_map, List.map_cons, List.map_map]
  congr 1
  rw [List.eq_replicate_iff]
  refine ⟨by simp, fun u hu => ?_⟩
  obtain ⟨i, hi, rfl⟩ := List.mem_map.mp hu
  have hi := List.mem_range.mp hi
  rw [Function.comp_apply, show 8 + 16 * Nat.succ i = 24 + 16 * i by omega]
  exact sliceBytes_zeros h (by omega)

theorem takeUnit_padding (acc : List (List Byte)) : takeUnit ([], acc) (List.replicate 16 0) = ([], acc) := rfl

theorem foldl_takeUnit_padding (n : Nat) (acc : List (List Byte)) :
    (List.replicate n (List.replicate 16 (0 : Byte))).foldl takeUnit ([], acc) = ([], acc) := by
  induction n with
  | zero => rfl
  | succ n ih => rw [List.replicate_succ, List.foldl_cons, takeUnit_padding, ih]

theorem takeUnit_whole {u : List Byte} (hl : u.length = 16) (ht : pType u = 0x01) : takeUnit ([], []) u = ([], [u]) := by
  cases u with
  | nil => cases hl
  | cons b u =>
    have hb : b.toNat + 256 * 0 = 1 := ht
    have h0 : b ≠ 0 := by
      rintro rfl
      exact absurd hb (by decide)
    have hunits : unitsOf ([] ++ b :: u) = some 1 := by
      unfold unitsOf
      dsimp only
      exact if_pos ht
    have hc : ¬ (([] : List Byte).isEmpty && (b :: u).headD 0 == 0) = true := by simpa using h0
    unfold takeUnit
    dsimp only
    rw [if_neg hc, hunits, if_pos (by simpa using hl.ge)]
    rfl

/-! ### Frames arrive (R333, R334) -/

theorem State.nextFrame_nak (s : State) (l : LinkId) (nak : Bool) (payload : List Byte) :
    bitOf (fieldLe (s.nextFrame l nak payload) 2 2) 12 = nak := by
  have hack := ((s.link l).rxSeq - 1).isLt
  have hf : fieldLe (s.nextFrame l nak payload) 2 2 = (((s.link l).rxSeq - 1).toNat + 4096 * boolNat nak) % 256 ^ 2 := by
    unfold State.nextFrame
    dsimp only
    unfold mkFrame
    simp only [List.append_assoc]
    exact fieldLe_append (natLe 2 (s.link l).txSeq.toNat) _ 2 _
  rw [hf, bitOf, Nat.shiftRight_eq_div_pow]
  cases nak
  · rw [show boolNat false = 0 from rfl, beq_eq_false_iff_ne]
    omega
  · rw [show boolNat true = 1 from rfl, beq_iff_eq]
    omega

/-- An idle frame with NAK goes out where the window has room. -/
theorem State.idleFrame_nak {s : State} {l : LinkId} (h : (s.link l).unacked.length < 512) :
    ∃ x, .frame l x ∈ (s.idleFrame l true).outbox ∧ bitOf (fieldLe x 2 2) 12 = true := by
  refine ⟨s.nextFrame l true [], ?_, s.nextFrame_nak l true []⟩
  rw [State.idleFrame, if_neg (by omega), State.sendFrame_eq]
  exact List.mem_append_right _ List.mem_cons_self

theorem Link.inbound_acked (k : Link) (ack : BitVec 12) : (k.acked ack).inbound = k.inbound := by
  unfold Link.acked
  split <;> rfl

theorem Link.unacked_acked (k : Link) (ack : BitVec 12) : (k.acked ack).unacked.length ≤ k.unacked.length := by
  unfold Link.acked
  split
  · dsimp only
    rw [List.length_drop]
    exact (Nat.sub_le _ _).trans (List.dropWhile_sublist _).length_le
  · exact Nat.le_refl _

/-- What the header of a good frame makes of its link. -/
def Link.headed (f : List Byte) (k : Link) : Link :=
  { k.acked (BitVec.ofNat 12 (fieldLe f 2 2)) with
    used := tabMod (fun _ => 0) (fieldLe f 4 1 % 32) (fun n => n - fieldLe f 6 2) k.used
    peerLanes := BitVec.ofNat 8 (fieldLe f 5 1) }

theorem State.frameHead_link (s : State) (l m : LinkId) (f : List Byte) :
    (s.frameHead l f).link m = if m = l then (s.link l).headed f else s.link m := by
  unfold State.frameHead
  dsimp only
  split
  · exact (State.link_congr (State.resend_links _ _) m).trans (State.link_modLink s l m (Link.headed f))
  · exact State.link_modLink s l m (Link.headed f)

theorem State.frameHead_inbound (s : State) (l : LinkId) (f : List Byte) :
    ((s.frameHead l f).link l).inbound = (s.link l).inbound := by
  rw [s.frameHead_link, if_pos rfl]
  exact (s.link l).inbound_acked _

theorem State.frameHead_unacked (s : State) (l : LinkId) (f : List Byte) :
    ((s.frameHead l f).link l).unacked.length ≤ (s.link l).unacked.length := by
  rw [s.frameHead_link, if_pos rfl]
  exact (s.link l).unacked_acked _

theorem Link.inbound_eq {k j : Link} (h : k.inbound = j.inbound) :
    k.rxSeq = j.rxSeq ∧ k.partial_ = j.partial_ ∧ k.packets = j.packets := by
  simpa only [Link.inbound, Prod.mk.injEq] using h

section
variable {s : State} {l : LinkId} {f : List Byte} (ha : s.alive = true) (hl : s.linkLive l = true) (hf : f.length = 256)
include ha hl hf

theorem exec_frameReceive : exec (.frameReceive l f) s = .next (s.gotFrame l f) := by
  show execFrameReceive l f s = _
  rw [execFrameReceive, checked_of_wf (i := .frameReceive l f) (n := "FRAME_RECEIVE") (by simpa [Instr.wf] using hf)]
  exact whenever_of_alive ha hl _

theorem frameReceive_corrupt (hc : ¬ crc32c (f.take 248) = fieldLe f 248 4) (hu : (s.link l).unacked.length < 512) :
    Completes (.frameReceive l f) s (fun t =>
      (∃ x, .frame l x ∈ t.outbox ∧ bitOf (fieldLe x 2 2) 12 = true) ∧ (t.link l).rxSeq = (s.link l).rxSeq ∧
      (t.link l).packets = (s.link l).packets ∧
      t.fld (oBL_REPLAY l) 63 32 = (s.fld (oBL_REPLAY l) 63 32 + 1) % 2 ^ 32) := by
  have he := exec_frameReceive ha hl hf
  rw [State.gotFrame, if_pos hc] at he
  obtain ⟨hrx, -, hpk⟩ := Link.inbound_eq ((s.incFld (oBL_REPLAY l) 63 32 1).inbound_idleFrame l true l)
  refine completes_of_eq he ⟨State.idleFrame_nak (s := s.incFld (oBL_REPLAY l) 63 32 1) hu, hrx, hpk, ?_⟩
  rw [State.fld_congr (State.idleFrame_regs _ _ _)]
  exact State.fld_incFld_self _ _ _ _ _ (by decide)

variable (hc : crc32c (f.take 248) = fieldLe f 248 4)
include hc

theorem frameReceive_out_of_order (hn : ¬ BitVec.ofNat 12 (fieldLe f 0 2) = (s.link l).rxSeq)
    (hu : (s.link l).unacked.length < 512) :
    Completes (.frameReceive l f) s (fun t =>
      (∃ x, .frame l x ∈ t.outbox ∧ bitOf (fieldLe x 2 2) 12 = true) ∧ (t.link l).rxSeq = (s.link l).rxSeq ∧
      (t.link l).packets = (s.link l).packets) := by
  have he := exec_frameReceive ha hl hf
  rw [State.gotFrame, if_neg (not_not_intro hc)] at he
  dsimp only at he
  rw [if_pos hn] at he
  obtain ⟨hrx, -, hpk⟩ := Link.inbound_eq (((s.frameHead l f).inbound_idleFrame l true l).trans (s.frameHead_inbound l f))
  exact completes_of_eq he ⟨State.idleFrame_nak (lt_of_le_of_lt (s.frameHead_unacked l f) hu), hrx, hpk⟩

variable (hn : BitVec.ofNat 12 (fieldLe f 0 2) = (s.link l).rxSeq)
include hn

/-- What the link has received after the frame next in order is what its payload makes of it. -/
theorem frameReceive_next : ∃ t, exec (.frameReceive l f) s = .next t ∧
    (t.link l).inbound = (((s.frameHead l f).framePayload l f).link l).inbound := by
  have he := exec_frameReceive ha hl hf
  rw [State.gotFrame, if_neg (not_not_intro hc)] at he
  dsimp only at he
  rw [if_neg (not_not_intro hn)] at he
  refine ⟨_, he, ?_⟩
  split
  · rw [State.inbound_idleFrame, State.inbound_pumpLink]
  · rw [State.inbound_pumpLink]

omit ha hl hf hc hn in
/-- The payload of a frame with one unit that begins no packet in progress. -/
theorem State.framePayload_eq (hp : (s.link l).partial_ = []) (hz : sliceBytes f 24 224 = List.replicate 224 0) {ps : List (List Byte)}
    (hu : takeUnit ([], []) (sliceBytes f 8 16) = ([], ps)) :
    s.framePayload l f = ps.foldl (State.gotPacket l) (s.modLink l (fun k => { k with rxSeq := k.rxSeq + 1, partial_ := [] })) := by
  have hunits : (frameUnits f).foldl takeUnit ((s.link l).partial_, []) = ([], ps) := by
    rw [hp, frameUnits_of_one hz, List.foldl_cons, hu, foldl_takeUnit_padding]
  have hdef : s.framePayload l f = ((frameUnits f).foldl takeUnit ((s.link l).partial_, [])).2.foldl (State.gotPacket l)
      (s.modLink l (fun k => { k with
        rxSeq := k.rxSeq + 1
        partial_ := ((frameUnits f).foldl takeUnit ((s.link l).partial_, [])).1 })) := rfl
  rw [hdef, hunits]

theorem frameReceive_idle (hp : (s.link l).partial_ = []) (hz : sliceBytes f 24 224 = List.replicate 224 0)
    (h0 : sliceBytes f 8 16 = List.replicate 16 0) :
    Completes (.frameReceive l f) s (fun t => (t.link l).rxSeq = (s.link l).rxSeq + 1 ∧ (t.link l).packets = (s.link l).packets) := by
  obtain ⟨t, he, ht⟩ := frameReceive_next ha hl hf hc hn
  obtain ⟨hrx, hpa, hpk⟩ := Link.inbound_eq (s.frameHead_inbound l f)
  rw [State.framePayload_eq (hpa.trans hp) hz (ps := []) (by rw [h0]; rfl), List.foldl_nil, State.link_modLink, if_pos rfl] at ht
  obtain ⟨trx, -, tpk⟩ := Link.inbound_eq ht
  exact ⟨t, he, trx.trans (congrArg (· + 1) hrx), tpk.trans hpk⟩

theorem frameReceive_packet (hp : (s.link l).partial_ = []) (hz : sliceBytes f 24 224 = List.replicate 224 0)
    (ht : pType (sliceBytes f 8 16) = 0x01) :
    Completes (.frameReceive l f) s (fun t => (t.link l).rxSeq = (s.link l).rxSeq + 1 ∧
      (t.link l).packets = (s.link l).packets ++ [sliceBytes f 8 16]) := by
  obtain ⟨t, he, hi⟩ := frameReceive_next ha hl hf hc hn
  obtain ⟨hrx, hpa, hpk⟩ := Link.inbound_eq (s.frameHead_inbound l f)
  have hgot : ∀ u : State, State.gotPacket l u (sliceBytes f 8 16) =
      u.modLink l (fun k => { k with packets := k.packets ++ [sliceBytes f 8 16] }) := fun u => by
    rw [State.gotPacket, if_pos (by rw [ht]; rfl)]
  rw [State.framePayload_eq (hpa.trans hp) hz (takeUnit_whole (sliceBytes_length ..) ht), List.foldl_cons, List.foldl_nil, hgot,
    State.link_modLink, if_pos rfl, State.link_modLink, if_pos rfl] at hi
  obtain ⟨trx, -, tpk⟩ := Link.inbound_eq hi
  exact ⟨t, he, trx.trans (congrArg (· + 1) hrx), tpk.trans (congrArg (· ++ _) hpk)⟩

end

/-! ### Frames are sent again (R334) -/

theorem State.foldl_send_frames (l : LinkId) (fs : List (BitVec 12 × List Byte)) (s : State) :
    fs.foldl (fun t f => t.send (.frame l f.2)) s = { s with outbox := s.outbox ++ fs.map (fun e => .frame l e.2) } := by
  induction fs generalizing s with
  | nil => rw [List.foldl_nil, List.map_nil, List.append_nil]
  | cons f fs ih =>
    rw [List.foldl_cons, ih]
    simp only [State.send, List.map_cons, List.append_assoc, List.singleton_append]

theorem State.resend_eq (s : State) (l : LinkId) :
    s.resend l = ({ s with outbox := s.outbox ++ (s.link l).unacked.map (fun e => .frame l e.2) } : State).incFld
      (oBL_REPLAY l) 31 0 1 := by
  rw [State.resend, State.foldl_send_frames]

section
variable {s : State} {l : LinkId} (ha : s.alive = true) (hl : s.linkLive l = true)
include ha hl

theorem exec_replayTimeout (hu : (s.link l).unacked ≠ []) : exec (.replayTimeout l) s = .next
    (if 7 ≤ (s.link l).resends then (s.modLink l (fun k => { k with resends := 0 })).setFld (oBL_STAT l) 1 0 1
     else (s.modLink l (fun k => { k with resends := k.resends + 1 })).resend l) := by
  have hb : (s.linkLive l && !(s.link l).unacked.isEmpty) = true := by simpa [hl] using hu
  exact whenever_of_alive ha hb _

theorem replayTimeout_resends (hu : (s.link l).unacked ≠ []) (hr : (s.link l).resends < 7) :
    Completes (.replayTimeout l) s (fun t =>
      t.outbox = s.outbox ++ (s.link l).unacked.map (fun e => .frame l e.2) ∧
      t.link l = { s.link l with resends := (s.link l).resends + 1 } ∧
      t.fld (oBL_REPLAY l) 31 0 = (s.fld (oBL_REPLAY l) 31 0 + 1) % 2 ^ 32) := by
  have he := exec_replayTimeout ha hl hu
  rw [if_neg (by omega), State.resend_eq, State.link_modLink, if_pos rfl] at he
  refine completes_of_eq he ⟨rfl, ?_, State.fld_incFld_self _ _ _ _ _ (by decide)⟩
  exact (State.link_modLink s l l (fun k => { k with resends := k.resends + 1 })).trans (if_pos rfl)

theorem replayTimeout_retrains (hu : (s.link l).unacked ≠ []) (hr : 7 ≤ (s.link l).resends) :
    Completes (.replayTimeout l) s (fun t => t.fld (oBL_STAT l) 1 0 = 1 ∧ t.outbox = s.outbox) := by
  have he := exec_replayTimeout ha hl hu
  rw [if_pos hr] at he
  exact completes_of_eq he ⟨State.fld_setFld_self _ _ _ _ _ (by decide), rfl⟩

end

theorem replayTimeout_without_frames {s : State} {l : LinkId} (hu : (s.link l).unacked = []) :
    exec (.replayTimeout l) s = .next s := by
  have hb : (s.linkLive l && !(s.link l).unacked.isEmpty) = false := by simp [hu]
  show execReplayTimeout l s = _
  rw [execReplayTimeout, whenever, hb]
  rfl

/-! ### Lanes and training (R335, R344) -/

theorem State.rxLanes_lt (s : State) (l : LinkId) : s.rxLanes l < 256 := Nat.mod_lt _ (by decide)

theorem sub_lane_lt {r i : Nat} (hi : i < 8) (hr : r < 256) : (r - 2 ^ i) % 2 ^ (17 + 1 - 10) = r - 2 ^ i := by
  have := Nat.sub_le r (2 ^ i)
  exact Nat.mod_eq_of_lt (by omega)

/-- A lane that is not among those of a link joins them. -/
theorem add_lane_lt {r : Nat} {i : Fin 8} (hr : r < 256) (h : bitOf r i.val = false) :
    (r + 2 ^ i.val) % 2 ^ (17 + 1 - 10) = r + 2 ^ i.val := by
  rw [bitOf, Nat.shiftRight_eq_div_pow, beq_eq_false_iff_ne] at h
  refine Nat.mod_eq_of_lt ?_
  obtain ⟨i, hi⟩ := i
  dsimp only at h ⊢
  interval_cases i
  all_goals omega

/-- The lanes of a link change, and a count of them goes up. -/
def State.laned (s : State) (l : LinkId) (r hi lo : Nat) : State := (s.setFld (oBL_STAT l) 17 10 r).incFld (oBL_LANE l) hi lo 1

theorem oBL_LANE_ne_stat (l : LinkId) : oBL_LANE l ≠ oBL_STAT l := by
  simp only [oBL_LANE, oBL_STAT, oBL]
  omega

theorem State.laned_lanes (s : State) (l : LinkId) {r : Nat} (h : r % 2 ^ (17 + 1 - 10) = r) (hi lo : Nat) :
    (s.laned l r hi lo).rxLanes l = r := by
  rw [State.rxLanes, State.laned, State.fld_incFld_other (oBL_LANE_ne_stat l).symm, State.fld_setFld_self _ _ _ _ _ (by decide), h]

theorem State.laned_live (s : State) (l : LinkId) (r hi lo : Nat) : (s.laned l r hi lo).linkLive l = s.linkLive l := by
  rw [State.linkLive, State.linkLive, State.laned, State.fld_incFld_other (oBL_LANE_ne_stat l).symm,
    State.fld_setFld_apart _ _ _ _ _ _ _ (by decide) (by decide)]

theorem State.laned_count (s : State) (l : LinkId) (r : Nat) {hi lo : Nat} (h : hi < 64) :
    (s.laned l r hi lo).fld (oBL_LANE l) hi lo = (s.fld (oBL_LANE l) hi lo + 1) % 2 ^ (hi + 1 - lo) := by
  rw [State.laned, State.fld_incFld_self _ _ _ _ _ h, State.fld_setFld_other _ _ _ _ _ _ _ _ (oBL_LANE_ne_stat l)]

section
variable {s : State} {l : LinkId} (ha : s.alive = true)
include ha

theorem linkLanesLost_downs (h : s.fld (oBL_STAT l) 1 0 ≠ 0) :
    Completes (.linkLanesLost l) s (fun t => t.fld (oBL_STAT l) 17 0 = 0 ∧ t.link l = { packets := (s.link l).packets } ∧
      t.mem = s.mem) := by
  have he : exec (.linkLanesLost l) s = .next (s.downLink l) := whenever_of_alive ha (by simpa using h) _
  exact completes_of_eq he (s.downLink_facts l)

/-- What a link is after its training. -/
def State.trained (s : State) (l : LinkId) : State :=
  ((s.setFld (oBL_STAT l) 1 0 (if s.fabricOn then 3 else 2)).setFld (oBL_STAT l) 9 2 0xFF).setFld (oBL_STAT l) 17 10 0xFF

omit ha in
theorem State.trained_flds (s : State) (l : LinkId) :
    (s.trained l).fld (oBL_STAT l) 1 0 = (if s.fabricOn = true then 3 else 2) ∧ (s.trained l).rxLanes l = 0xFF ∧
      (s.trained l).fld (oBL_STAT l) 9 2 = 0xFF := by
  refine ⟨?_, State.fld_setFld_self _ _ _ _ _ (by decide), ?_⟩
  · rw [State.trained, State.fld_setFld_apart _ _ _ _ _ _ _ (by decide) (by decide),
      State.fld_setFld_apart _ _ _ _ _ _ _ (by decide) (by decide), State.fld_setFld_self _ _ _ _ _ (by decide)]
    split <;> rfl
  · rw [State.trained, State.fld_setFld_apart _ _ _ _ _ _ _ (by decide) (by decide)]
    exact State.fld_setFld_self _ _ _ _ _ (by decide)

omit ha in
/-- What a link sends after its training leaves its state. -/
theorem State.linkUpDone_stat (s : State) (l : LinkId) : (s.linkUpDone l).reg (oBL_STAT l) = (s.trained l).reg (oBL_STAT l) := by
  have hresend : ((s.trained l).resend l).reg (oBL_STAT l) = (s.trained l).reg (oBL_STAT l) := by
    have hne : oBL_STAT l ≠ oBL_REPLAY l := by simp only [oBL_STAT, oBL_REPLAY, oBL]; omega
    rw [State.resend_eq]
    exact (State.reg_setFld _ _ _ _ _ _).trans (if_neg hne)
  have hup : s.linkUpDone l = ((if s.fld (oBL_STAT l) 17 0 / 4 == 0 then
      (s.trained l).setLink l { packets := (s.link l).packets, tx := (s.link l).tx } else (s.trained l).resend l).pumpLink l
        (s.link l).tx.length).routeHeld := rfl
  rw [hup, State.reg, State.routeHeld_regs, State.pumpLink_regs]
  split
  · rfl
  · exact hresend

theorem linkTrainingDone_trains (hl : s.power.locked = true) (hen : s.bit (oBL_CTL l) 0 = true)
    (h2 : s.fld (oBL_STAT l) 1 0 < 2) :
    Completes (.linkTrainingDone l) s (fun t =>
      t.fld (oBL_STAT l) 1 0 = (if s.fabricOn = true then 3 else 2) ∧ t.rxLanes l = 0xFF ∧
      t.fld (oBL_STAT l) 9 2 = 0xFF ∧ t.mem = s.mem) := by
  have he : exec (.linkTrainingDone l) s = .next (s.linkUpDone l) :=
    whenever_of_alive ha (by rw [hl, hen, Bool.true_and, Bool.true_and]; exact decide_eq_true h2) _
  have hreg := s.linkUpDone_stat l
  obtain ⟨hst, hrx, hpeer⟩ := s.trained_flds l
  exact completes_of_eq he ⟨(State.fld_of_reg hreg 1 0).trans hst, (State.fld_of_reg hreg 17 10).trans hrx,
    (State.fld_of_reg hreg 9 2).trans hpeer, State.linkUpDone_mem s l⟩

variable (hl : s.linkLive l = true) {i : Fin 8}
include hl

theorem exec_laneRemove (hb : bitOf (s.rxLanes l) i.val = true) : exec (.laneRemove l i) s = .next
    (let t := s.laned l (s.rxLanes l - 2 ^ i.val) 31 0
     if s.rxLanes l = 2 ^ i.val then t.downLink l else t.idleFrame l false) :=
  whenever_of_alive ha (by rw [hl, hb]; rfl) _

theorem laneRemove_leaves (hb : bitOf (s.rxLanes l) i.val = true) (hne : s.rxLanes l ≠ 2 ^ i.val) :
    Completes (.laneRemove l i) s (fun t =>
      t.rxLanes l = s.rxLanes l - 2 ^ i.val ∧ t.linkLive l = true ∧
      t.fld (oBL_LANE l) 31 0 = (s.fld (oBL_LANE l) 31 0 + 1) % 2 ^ 32) := by
  have he := exec_laneRemove ha hl hb
  dsimp only at he
  rw [if_neg hne] at he
  have hlanes := s.laned_lanes l (sub_lane_lt i.isLt (s.rxLanes_lt l)) 31 0
  have hlive := (s.laned_live l (s.rxLanes l - 2 ^ i.val) 31 0).trans hl
  have hcount := s.laned_count l (s.rxLanes l - 2 ^ i.val) (hi := 31) (lo := 0) (by decide)
  generalize s.laned l (s.rxLanes l - 2 ^ i.val) 31 0 = t at he hlanes hlive hcount
  have hregs := State.idleFrame_regs t l false
  exact completes_of_eq he ⟨(State.fld_congr hregs _ 17 10).trans hlanes, (State.linkLive_congr hregs l).trans hlive,
    (State.fld_congr hregs _ 31 0).trans hcount⟩

theorem laneRemove_last (h : s.rxLanes l = 2 ^ i.val) :
    Completes (.laneRemove l i) s (fun t => t.fld (oBL_STAT l) 17 0 = 0 ∧ t.link l = { packets := (s.link l).packets } ∧
      t.mem = s.mem) := by
  have hb : bitOf (s.rxLanes l) i.val = true := by
    rw [h, bitOf, Nat.shiftRight_eq_div_pow, Nat.div_self (Nat.two_pow_pos _)]
    rfl
  have he := exec_laneRemove ha hl hb
  dsimp only at he
  rw [if_pos h] at he
  exact completes_of_eq he ((s.laned l (s.rxLanes l - 2 ^ i.val) 31 0).downLink_facts l)

theorem laneRejoin_joins (hb : bitOf (s.rxLanes l) i.val = false) :
    Completes (.laneRejoin l i) s (fun t =>
      t.rxLanes l = s.rxLanes l + 2 ^ i.val ∧ t.linkLive l = true ∧
      t.fld (oBL_LANE l) 63 32 = (s.fld (oBL_LANE l) 63 32 + 1) % 2 ^ 32) := by
  have he : exec (.laneRejoin l i) s = .next ((s.laned l (s.rxLanes l + 2 ^ i.val) 63 32).idleFrame l false) :=
    whenever_of_alive ha (by rw [hl, hb]; rfl) _
  have hlanes := s.laned_lanes l (add_lane_lt (s.rxLanes_lt l) hb) 63 32
  have hlive := (s.laned_live l (s.rxLanes l + 2 ^ i.val) 63 32).trans hl
  have hcount := s.laned_count l (s.rxLanes l + 2 ^ i.val) (hi := 63) (lo := 32) (by decide)
  generalize s.laned l (s.rxLanes l + 2 ^ i.val) 63 32 = t at he hlanes hlive hcount
  have hregs := State.idleFrame_regs t l false
  exact completes_of_eq he ⟨(State.fld_congr hregs _ 17 10).trans hlanes, (State.linkLive_congr hregs l).trans hlive,
    (State.fld_congr hregs _ 63 32).trans hcount⟩

end

/-! ### EN of FB_CTL (R336, R352) -/

/-- A link goes from HOLD to UP. -/
def State.liftLink (s : State) (l : LinkId) : State := if s.fld (oBL_STAT l) 1 0 = 2 then s.setFld (oBL_STAT l) 1 0 3 else s

theorem State.liftLink_reg (s : State) (l : LinkId) {o : Nat} (h : o ≠ oBL_STAT l) : (s.liftLink l).reg o = s.reg o := by
  unfold State.liftLink
  split
  · rw [State.reg_setFld, if_neg h]
  · rfl

theorem State.foldl_liftLink_reg (ls : List LinkId) (s : State) {o : Nat} (h : ∀ l ∈ ls, o ≠ oBL_STAT l) :
    (ls.foldl State.liftLink s).reg o = s.reg o := by
  induction ls generalizing s with
  | nil => rfl
  | cons l ls ih =>
    rw [List.foldl_cons, ih _ fun m hm => h m (List.mem_cons_of_mem l hm), s.liftLink_reg l (h l List.mem_cons_self)]

theorem State.foldl_liftLink_lifts {ls : List LinkId} (hn : ls.Nodup) (s : State) {l : LinkId} (hl : l ∈ ls) :
    (ls.foldl State.liftLink s).fld (oBL_STAT l) 1 0 = if s.fld (oBL_STAT l) 1 0 = 2 then 3 else s.fld (oBL_STAT l) 1 0 := by
  induction ls generalizing s with
  | nil => exact absurd hl List.not_mem_nil
  | cons m ls ih =>
    obtain ⟨hm, hn⟩ := List.nodup_cons.mp hn
    rw [List.foldl_cons]
    rcases List.mem_cons.mp hl with rfl | hl
    · rw [State.fld_of_reg (State.foldl_liftLink_reg ls _ fun k hk hkl => by
        rw [oBL_STAT_injective hkl] at hm
        exact hm hk)]
      unfold State.liftLink
      split
      · exact State.fld_setFld_self _ _ _ _ _ (by decide)
      · rfl
    · have hne : oBL_STAT l ≠ oBL_STAT m := fun h => by
        rw [oBL_STAT_injective h] at hl
        exact hm hl
      rw [ih hn _ hl, State.fld_of_reg (s.liftLink_reg m hne)]

theorem State.setHold_eq (s : State) : s.setHold true = (List.finRange 18).foldl State.liftLink s := rfl

section
variable {s : State} {v : Word} (ha : s.alive = true) (hc : s.power.configReady = true) (hr : s.ready = true)
include ha hc hr

/-- FB_CTL written whole, EN refused or not. -/
def State.fbWritten (s : State) (v : Word) (bad : Bool) : State :=
  s.wordWrite 0 oFB_CTL oFB_CTL (fieldsAt oFB_CTL) .full v (fieldIf bad [0])

omit ha hc hr in
theorem State.fbWritten_bit (s : State) (v : Word) (bad : Bool) :
    (s.fbWritten v bad).bit oFB_CTL 0 = if bad = true then s.bit oFB_CTL 0 else v.getLsbD 0 := by
  have hrw : ∀ f ∈ [rw 0 0], f.accepted (fieldIf bad [0]) = true → f.access = .rw := by
    intro f hf _
    rw [List.mem_singleton.mp hf]
    rfl
  rw [State.bit_eq_getLsbD, State.fbWritten, State.wordWrite_reg_self, fieldsAt_FB_CTL, mergeWrite_getLsbD hrw _ _ (by decide),
    State.bit_eq_getLsbD]
  cases bad <;> rfl

omit ha hc hr in
theorem State.fbWritten_stat (s : State) (v : Word) (bad : Bool) (m : LinkId) (hi lo : Nat) :
    (s.fbWritten v bad).fld (oBL_STAT m) hi lo = s.fld (oBL_STAT m) hi lo := by
  refine State.fld_of_reg (State.wordWrite_reg_other (s := s) (fn := 0) (l := oFB_CTL) (fs := fieldsAt oFB_CTL) (a := .full) (v := v)
    (no := fieldIf bad [0]) ?_ ?_) hi lo
  · simp only [oBL_STAT, oBL, oFB_CTL]
    omega
  · simp only [oBL_STAT, oBL, oMEL_PTR]
    omega

theorem exec_fbCtlWrite (hv : v.getLsbD 0 = true) : exec (.fbCtlWrite 0 .full v) s = .next
    ((let t := s.fbWritten v s.fabRefused
      if t.bit oFB_CTL 0 == s.bit oFB_CTL 0 then t
      else if t.bit oFB_CTL 0 then (t.setHold true).routeHeld else t.setHold false).countWrite 0) := by
  have hbad : (Acc.full != .hi && v.getLsbD 0 && s.fabRefused) = s.fabRefused := by
    rw [hv, Bool.and_true]
    rfl
  show execFbCtlWrite 0 .full v s = _
  rw [execFbCtlWrite, bar0Write_pf0 ha hc hr, hbad]
  rfl

theorem fbCtlWrite_refused (hen : s.bit oFB_CTL 0 = false) (hv : v.getLsbD 0 = true) (hf : s.fabRefused = true) :
    Completes (.fbCtlWrite 0 .full v) s (fun t =>
      t.fabricOn = false ∧ (∀ m : LinkId, t.fld (oBL_STAT m) 1 0 = s.fld (oBL_STAT m) 1 0) ∧ t.mem = s.mem) := by
  have he := exec_fbCtlWrite ha hc hr hv
  have hbit := s.fbWritten_bit v s.fabRefused
  have hstat := fun m => s.fbWritten_stat v s.fabRefused m 1 0
  have hmem : (s.fbWritten v s.fabRefused).mem = s.mem := State.wordWrite_mem ..
  rw [if_pos hf, hen] at hbit
  generalize s.fbWritten v s.fabRefused = t at he hbit hstat hmem
  dsimp only at he
  rw [hbit, hen, if_pos (beq_self_eq_true false)] at he
  have hoff : t.fabricOn = false := by rw [State.fabricOn, hbit, Bool.false_and]
  exact completes_of_eq he ⟨hoff, hstat, hmem⟩

theorem fbCtlWrite_enables (hen : s.bit oFB_CTL 0 = false) (hv : v.getLsbD 0 = true) (hf : s.fabRefused = false) :
    Completes (.fbCtlWrite 0 .full v) s (fun t =>
      t.bit oFB_CTL 0 = true ∧ t.mem = s.mem ∧ ∀ m : LinkId, t.fld (oBL_STAT m) 1 0 =
        (if s.fld (oBL_STAT m) 1 0 = 2 then 3 else s.fld (oBL_STAT m) 1 0)) := by
  have he := exec_fbCtlWrite ha hc hr hv
  have hbit := (s.fbWritten_bit v s.fabRefused).trans ((if_neg (by rw [hf]; exact Bool.false_ne_true)).trans hv)
  have hstat := fun m => s.fbWritten_stat v s.fabRefused m 1 0
  have hmem : (s.fbWritten v s.fabRefused).mem = s.mem := State.wordWrite_mem ..
  generalize s.fbWritten v s.fabRefused = t at he hbit hstat hmem
  dsimp only at he
  rw [hbit, hen, if_neg (show ¬ (true == false) = true by decide), if_pos rfl] at he
  have hkeep : (t.setHold true).reg oFB_CTL = t.reg oFB_CTL := by
    rw [State.setHold_eq]
    refine State.foldl_liftLink_reg _ t fun l _ => ?_
    simp only [oBL_STAT, oBL, oFB_CTL]
    omega
  have hlift : ∀ m : LinkId, (t.setHold true).fld (oBL_STAT m) 1 0 =
      (if t.fld (oBL_STAT m) 1 0 = 2 then 3 else t.fld (oBL_STAT m) 1 0) := fun m => by
    rw [State.setHold_eq]
    exact State.foldl_liftLink_lifts (List.nodup_finRange 18) t (List.mem_finRange m)
  have hmem' := (State.setHold_mem t true).trans hmem
  generalize t.setHold true = u at he hkeep hlift hmem'
  have hregs : u.routeHeld.regs = u.regs := State.routeHeld_regs u
  have hmem'' := (State.routeHeld_mem u).trans hmem'
  generalize u.routeHeld = r at he hregs hmem''
  refine completes_of_eq he ⟨?_, hmem'', fun m => ?_⟩
  · exact (congrArg (· == 1) ((State.fld_congr hregs _ 0 0).trans (State.fld_of_reg hkeep 0 0))).trans hbit
  · refine (State.fld_congr hregs _ 1 0).trans ?_
    rw [hlift m, hstat m]

end

/-! ### Aliases (R351) -/

theorem State.takePkt_of_first {s : State} {l : LinkId} {p : List Byte} {rest : List (List Byte)} {ok : List Byte → Bool}
    (h : (s.link l).packets = p :: rest) (hok : ok p = true) : s.takePkt l ok = some (p, false, s.taken l p) := by
  have htaken : s.taken l p = (s.modLink l (fun k => { k with packets := rest })).freeBuffer l p := by
    rw [State.taken, State.modLink, State.modLink, h]
    rfl
  rw [State.takePkt, h]
  dsimp only
  rw [if_pos hok, htaken]

theorem State.taken_regs (s : State) (l : LinkId) (p : List Byte) : (s.taken l p).regs = s.regs := rfl

theorem State.aliasEntry_congr {s t : State} (h : t.regs = s.regs) (x : Nat) : t.aliasEntry x = s.aliasEntry x := by
  simp only [State.aliasEntry, State.bit, State.fld_congr h]

theorem State.adoptSeen_congr {s t : State} (h : t.regs = s.regs) (p : List Byte) : t.adoptSeen p = s.adoptSeen p := by
  simp only [State.adoptSeen, State.fab, State.aliasEntry_congr h, State.fld_congr h]

theorem State.aliasOf_congr {s t : State} (h : t.regs = s.regs) (x : Nat) : t.aliasOf x = s.aliasOf x := by
  simp only [State.aliasOf, State.bit, State.fld_congr h]

/-- An alias entry is valid and of an address. -/
def State.aliases (s : State) (x i : Nat) : Bool := s.bit (oFB_ALIAS i) 40 && s.fld (oFB_ALIAS i) 11 0 == x

theorem State.aliasEntry_eq (s : State) (x : Nat) : s.aliasEntry x = (List.range 64).find? (s.aliases x) := rfl

theorem State.aliasOf_eq (s : State) (x : Nat) :
    s.aliasOf x = ((List.range 64).find? (s.aliases x)).map (fun i => s.fld (oFB_ALIAS i) 23 12) := rfl

/-- The word of an alias. -/
def aliasWord (p : List Byte) : Word := BitVec.ofNat 64 (fieldLe p 16 5 % 2 ^ 40 + 2 ^ 40)

theorem aliasWord_fields (p : List Byte) :
    getBits (aliasWord p) 40 40 = 1 ∧ getBits (aliasWord p) 11 0 = aliasFrom p ∧ getBits (aliasWord p) 23 12 = aliasTo p := by
  have h := fieldLe_lt p 16 5
  simp only [getBits, bitsOf, aliasWord, aliasFrom, aliasTo, BitVec.toNat_ofNat, Nat.shiftRight_eq_div_pow]
  omega

theorem oFB_ALIAS_injective : Function.Injective oFB_ALIAS := by
  intro i j h
  simp only [oFB_ALIAS] at h
  omega

/-- The entry that takes the alias of an ADOPT: that of its address, or the first free one. -/
def State.aliasPlace (s : State) (p : List Byte) : Option Nat :=
  match s.aliasEntry (aliasFrom p) with
  | some i => some i
  | none => (List.range 64).find? (fun i => !s.bit (oFB_ALIAS i) 40)

theorem State.aliases_setReg (s : State) (i j x : Nat) (w : Word) :
    (s.setReg (oFB_ALIAS i) w).aliases x j = if j = i then getBits w 40 40 == 1 && getBits w 11 0 == x else s.aliases x j := by
  have hreg : (s.setReg (oFB_ALIAS i) w).reg (oFB_ALIAS j) = if j = i then w else s.reg (oFB_ALIAS j) := by
    rw [State.reg_setReg]
    simp only [oFB_ALIAS_injective.eq_iff]
  simp only [State.aliases, State.bit, State.fld, hreg]
  split <;> rfl

/-- An entry that takes the alias of an ADOPT gives its address the new one. -/
theorem State.aliasOf_recorded {s : State} {p : List Byte} {i : Nat} (h : s.aliasPlace p = some i) :
    (s.setReg (oFB_ALIAS i) (aliasWord p)).aliasOf (aliasFrom p) = some (aliasTo p) := by
  obtain ⟨hvalid, hfrom, hto⟩ := aliasWord_fields p
  have hself : (s.setReg (oFB_ALIAS i) (aliasWord p)).aliases (aliasFrom p) i = true := by
    rw [State.aliases_setReg, if_pos rfl, hvalid, hfrom]
    simp
  have hother : ∀ j, j ≠ i → (s.setReg (oFB_ALIAS i) (aliasWord p)).aliases (aliasFrom p) j = s.aliases (aliasFrom p) j := fun j hj => by
    rw [State.aliases_setReg, if_neg hj]
  have hfind : (List.range 64).find? ((s.setReg (oFB_ALIAS i) (aliasWord p)).aliases (aliasFrom p)) = some i := by
    rw [State.aliasPlace] at h
    split at h
    next e he =>
      obtain rfl := Option.some.inj h
      rw [State.aliasEntry_eq, List.find?_range_eq_some] at he
      rw [List.find?_range_eq_some]
      obtain ⟨-, hmem, hbefore⟩ := he
      exact ⟨hself, hmem, fun j hj => by rw [hother j (Nat.ne_of_lt hj)]; exact hbefore j hj⟩
    next he =>
      rw [State.aliasEntry_eq, List.find?_range_eq_none] at he
      rw [List.find?_range_eq_some] at h ⊢
      obtain ⟨-, hmem, -⟩ := h
      refine ⟨hself, hmem, fun j hj => ?_⟩
      rw [hother j (Nat.ne_of_lt hj)]
      exact he j (by have := List.mem_range.mp hmem; omega)
  have hreg : (s.setReg (oFB_ALIAS i) (aliasWord p)).reg (oFB_ALIAS i) = aliasWord p :=
    (State.reg_setReg _ _ _ _).trans (if_pos rfl)
  rw [State.aliasOf_eq, hfind, Option.map_some, State.fld, hreg, hto]

theorem State.recordAlias_eq {s : State} {p : List Byte} {i : Nat} (h : s.aliasPlace p = some i) :
    s.recordAlias p = ((s.setReg (oFB_ALIAS i) (aliasWord p)).routeHeld).resendTo (aliasFrom p) := by
  have hplace : s.recordAlias p = match s.aliasPlace p with
      | none => s.logTwin 2 (aliasFrom p)
      | some i => ((s.setReg (oFB_ALIAS i) (aliasWord p)).routeHeld).resendTo (aliasFrom p) := rfl
  rw [hplace, h]

section
variable {s : State} {l : LinkId} {p : List Byte} (ha : s.alive = true) (hon : s.fabricOn = true)
  (hp : ∃ rest, (s.link l).packets = p :: rest)
include ha hon hp

theorem exec_adopt (ht : pType p = 0xC8) : exec (.adopt l) s = .next
    (if s.adoptSeen p then s.taken l p else ((s.taken l p).recordAlias p).floodOn l p) := by
  obtain ⟨rest, hrest⟩ := hp
  have htake := State.takePkt_of_first (ok := fun p => pType p == 0xC8) hrest (by rw [ht]; rfl)
  have hon' : (s.taken l p).fabricOn = true := hon
  show execAdopt l s = _
  rw [execAdopt, onFlood, htake]
  dsimp only
  rw [hon', State.adoptSeen_congr (s.taken_regs l p)]
  exact whenever_of_alive ha rfl _

theorem exec_release (ht : pType p = 0xC9) : exec (.release l) s = .next
    (match s.aliasEntry (aliasFrom p) with
     | none => s.taken l p
     | some i => ((s.taken l p).setReg (oFB_ALIAS i) 0).floodOn l p) := by
  obtain ⟨rest, hrest⟩ := hp
  have htake := State.takePkt_of_first (ok := fun p => pType p == 0xC9) hrest (by rw [ht]; rfl)
  have hon' : (s.taken l p).fabricOn = true := hon
  show execRelease l s = _
  rw [execRelease, onFlood, htake]
  dsimp only
  rw [hon', State.aliasEntry_congr (s.taken_regs l p)]
  exact whenever_of_alive ha rfl _

theorem adopt_records (ht : pType p = 0xC8) (hs : s.adoptSeen p = false)
    (h : (s.aliasEntry (aliasFrom p)).isSome = true ∨ ∃ i < 64, s.bit (oFB_ALIAS i) 40 = false) :
    Completes (.adopt l) s (fun t => t.aliasOf (aliasFrom p) = some (aliasTo p) ∧ t.mem = s.mem ∧ t.cores = s.cores) := by
  have he := exec_adopt ha hon hp ht
  have hplace : ∃ i, s.aliasPlace p = some i := by
    rw [State.aliasPlace]
    split
    next i _ => exact ⟨i, rfl⟩
    next hn =>
      rw [hn] at h
      obtain ⟨i, hi, hfree⟩ := h.resolve_left Bool.false_ne_true
      refine Option.isSome_iff_exists.mp (List.find?_isSome.mpr ⟨i, List.mem_range.mpr hi, ?_⟩)
      rw [hfree]
      rfl
  obtain ⟨i, hi⟩ := hplace
  have hi' : (s.taken l p).aliasPlace p = some i := hi
  rw [hs, if_neg Bool.false_ne_true, State.recordAlias_eq hi'] at he
  have halias := State.aliasOf_recorded hi'
  have hmem : ((s.taken l p).setReg (oFB_ALIAS i) (aliasWord p)).mem = s.mem := rfl
  have hcores : ((s.taken l p).setReg (oFB_ALIAS i) (aliasWord p)).cores = s.cores := rfl
  generalize (s.taken l p).setReg (oFB_ALIAS i) (aliasWord p) = t at he halias hmem hcores
  refine completes_of_eq he ⟨?_, ?_, ?_⟩
  · exact (State.aliasOf_congr (by rw [State.floodOn_regs, State.resendTo_regs, State.routeHeld_regs]) _).trans halias
  · rw [State.floodOn_mem, State.resendTo_mem, State.routeHeld_mem, hmem]
  · rw [State.floodOn_cores, State.resendTo_cores, State.routeHeld_cores, hcores]

theorem release_clears (ht : pType p = 0xC9) {i : Nat} (h : s.aliasEntry (aliasFrom p) = some i) :
    Completes (.release l) s (fun t => t.reg (oFB_ALIAS i) = 0 ∧ t.mem = s.mem ∧ t.cores = s.cores) := by
  have he := exec_release ha hon hp ht
  rw [h] at he
  have hreg : ((s.taken l p).setReg (oFB_ALIAS i) 0).reg (oFB_ALIAS i) = 0 := (State.reg_setReg _ _ _ _).trans (if_pos rfl)
  have hmem : ((s.taken l p).setReg (oFB_ALIAS i) 0).mem = s.mem := rfl
  have hcores : ((s.taken l p).setReg (oFB_ALIAS i) 0).cores = s.cores := rfl
  dsimp only at he
  generalize (s.taken l p).setReg (oFB_ALIAS i) 0 = t at he hreg hmem hcores
  refine completes_of_eq he ⟨?_, (State.floodOn_mem ..).trans hmem, (State.floodOn_cores ..).trans hcores⟩
  rw [State.reg, State.floodOn_regs]
  exact hreg

end

/-- Settles O57: frames and replay, lanes and training, EN, and aliases. -/
theorem beloraLinks : Obligations.beloraLinks := by
  unfold Obligations.beloraLinks
  refine ⟨fun s l f ha hl hf => ?_, fun s l ha => ?_, fun s l p ha hon hp => ?_⟩
  · intro k good next nak
    exact ⟨frameReceive_corrupt ha hl hf, frameReceive_out_of_order ha hl hf, fun hc hn hpart hz =>
      ⟨frameReceive_idle ha hl hf hc hn hpart hz, frameReceive_packet ha hl hf hc hn hpart hz⟩,
      replayTimeout_resends ha hl, replayTimeout_retrains ha hl, replayTimeout_without_frames⟩
  · intro down
    exact ⟨fun i hl => ⟨laneRemove_leaves ha hl, laneRemove_last ha hl, laneRejoin_joins ha hl⟩, linkLanesLost_downs ha,
      linkTrainingDone_trains ha, fun v hc hr hen hv => ⟨fbCtlWrite_refused ha hc hr hen hv, fbCtlWrite_enables ha hc hr hen hv⟩⟩
  · refine ⟨fun ht hs => ?_, adopt_records ha hon hp, fun i ht h => release_clears ha hon hp ht h, fun ht h => ?_⟩
    · rw [exec_adopt ha hon hp ht, if_pos hs]
    · rw [exec_release ha hon hp ht, h]

end Sys2Proof.Machine
end

section
/-! PROOFS. Requests of peers, and the ends of this module's requests (R336 to R349). -/

namespace Sys2Proof.Machine

/-! ### What sending a packet changes -/

/-- The module has sent something on its links, and nothing else has happened. -/
def State.Sent (s t : State) : Prop := ∃ k o, t = { s with links := k, outbox := s.outbox ++ o }

theorem State.Sent.refl (s : State) : s.Sent s := ⟨s.links, [], by rw [List.append_nil]⟩

theorem State.Sent.trans {s t u : State} (h : s.Sent t) (k : t.Sent u) : s.Sent u := by
  obtain ⟨l, o, rfl⟩ := h
  obtain ⟨l', o', rfl⟩ := k
  exact ⟨l', o ++ o', by rw [← List.append_assoc]⟩

theorem State.sent_modLink (s : State) (l : LinkId) (f : Link → Link) : s.Sent (s.modLink l f) :=
  ⟨(s.modLink l f).links, [], by rw [List.append_nil]; rfl⟩

theorem State.sent_sendFrame (s : State) (l : LinkId) (nak : Bool) (payload : List Byte) : s.Sent (s.sendFrame l nak payload) := by
  rw [State.sendFrame_eq]
  exact ⟨_, _, rfl⟩

theorem State.sent_foldl {α : Type} {f : State → α → State} (h : ∀ (s : State) (a : α), s.Sent (f s a)) (xs : List α) (s : State) :
    s.Sent (xs.foldl f s) := by
  induction xs generalizing s with
  | nil => exact State.Sent.refl s
  | cons x xs ih => exact (h s x).trans (ih (f s x))

theorem State.sent_pumpLink (l : LinkId) (n : Nat) (s : State) : s.Sent (s.pumpLink l n) := by
  induction n generalizing s with
  | zero => exact State.Sent.refl s
  | succ n ih =>
    unfold State.pumpLink
    dsimp only
    split
    · exact State.Sent.refl s
    · split
      · exact State.Sent.refl s
      · refine State.Sent.trans ?_ (ih _)
        refine State.Sent.trans ?_ (State.sent_modLink _ l (fun k => { k with sent := k.sent ++ [_] }))
        exact (State.sent_modLink s l _).trans (State.sent_foldl (fun u f => u.sent_sendFrame l false f) _ _)

theorem State.sent_transmit (s : State) (l : LinkId) (t : TxPkt) : s.Sent (s.transmit l t) :=
  (s.sent_modLink l (fun k => { k with tx := k.tx ++ [t] })).trans (State.sent_pumpLink l _ _)

/-- The module has sent or held packets, and nothing else has happened. -/
def State.Routed (s t : State) : Prop :=
  ∃ h k o, t = { s with fabric := { s.fabric with held := h }, links := k, outbox := s.outbox ++ o }

theorem State.Sent.routed {s t : State} (h : s.Sent t) : s.Routed t := by
  obtain ⟨k, o, rfl⟩ := h
  exact ⟨s.fabric.held, k, o, rfl⟩

theorem State.routed_route (s : State) (i : Option LinkId) (part : Option PartId) (p : List Byte) :
    s.Routed (s.route i part p) := by
  have hheld : s.Routed { s with fabric := { s.fabric with held := s.fabric.held ++ [(i, p)] } } :=
    ⟨s.fabric.held ++ [(i, p)], s.links, [], by rw [List.append_nil]⟩
  unfold State.route
  dsimp only
  generalize (if s.answersTo _ then none else s.hop _) = g
  match g with
  | none => exact hheld
  | some (j, plus, wrap) =>
    dsimp only
    split
    · exact hheld
    · exact (s.sent_transmit _ _).routed

theorem State.routed_respond (s : State) (req : List Byte) (type status lines : Nat) (data : List Byte) :
    s.Routed (s.respond req type status lines data) := s.routed_route _ _ _

theorem State.routed_reply (s : State) (l : LinkId) (req : List Byte) (type status lines : Nat) (data : List Byte) :
    s.Routed (s.reply l req type status lines data) := by
  unfold State.reply
  split
  · exact s.routed_respond _ _ _ _ _
  · exact (s.sent_transmit _ _).routed

/-! ### Packets that the module takes (R336, R342) -/

theorem State.taken_unmarked {s : State} {l : LinkId} {p : List Byte} (h : s.fabric.marked.contains (flowOf p) = false) :
    ({ s.taken l p with fabric := { (s.taken l p).fabric with marked := (s.taken l p).fabric.marked.erase (flowOf p) } } : State) =
      s.taken l p := by
  have hmem : flowOf p ∉ (s.taken l p).fabric.marked := by
    intro hm
    rw [List.contains_iff_mem.mpr (show flowOf p ∈ s.fabric.marked from hm)] at h
    cases h
  rw [List.erase_of_not_mem hmem]

theorem State.admitPkt_served {s : State} {l : LinkId} {p : List Byte} (h : s.Takes l p) (f : State → List Byte → State) :
    (s.taken l p).admitPkt l false p f = f (s.taken l p) p := by
  obtain ⟨-, -, hon, hto, hmark⟩ := h
  have hc : (!(s.taken l p).fabricOn || (s.taken l p).fabric.marked.contains (flowOf p) && !pRetry p) = false := by
    have hon' : (s.taken l p).fabricOn = true := hon
    have hmark' : (s.taken l p).fabric.marked.contains (flowOf p) = false := hmark
    rw [hon', hmark']
    rfl
  have hto' : (s.taken l p).answersTo (pDst p) = true := hto
  rw [State.admitPkt, if_neg Bool.false_ne_true]
  dsimp only
  rw [hc, if_neg Bool.false_ne_true, State.taken_unmarked hmark, if_pos hto']

section
variable {s : State} {l : LinkId} {p : List Byte}

theorem onPacket_first (ha : s.alive = true) (hp : ∃ rest, (s.link l).packets = p :: rest) {type : Nat} (ht : pType p = type)
    (f : State → List Byte → State) : onPacket s l type f = .next ((s.taken l p).admitPkt l false p f) := by
  obtain ⟨rest, hrest⟩ := hp
  rw [onPacket, State.takePkt_of_first (ok := fun p => pType p == type) hrest (beq_iff_eq.mpr ht)]
  exact whenever_of_alive ha rfl _

theorem onPacket_takes (h : s.Takes l p) {type : Nat} (ht : pType p = type) (f : State → List Byte → State) :
    onPacket s l type f = .next (f (s.taken l p) p) := by
  rw [onPacket_first h.1 h.2.1 ht, State.admitPkt_served h]

end

/-! ### Accesses that a request of a peer issues -/

/-- One line of an access: its request goes out under the next ID, with the mask of the access. -/
def State.askLine (src tag : BitVec 16) (part : Option PartId) (kind : MemKind) (mask : Option (BitVec 64))
    (r : List Nat × State) (x : Nat × List Byte × Nat) : List Nat × State :=
  (r.1 ++ [r.2.nextId], { (r.2.issue src tag part x.1 kind x.2.2 x.2.1).2 with
    inFlight := (r.2.issue src tag part x.1 kind x.2.2 x.2.1).2.inFlight.map (fun q =>
      if q.id = r.2.nextId then { q with mask := mask } else q) })

/-- A request of an access: where it goes and what it carries. -/
def MemReq.asks (q : MemReq) (kind : MemKind) (mask : Option (BitVec 64)) (x : Nat × List Byte × Nat) : Prop :=
  q.addr = x.1 ∧ q.kind = kind ∧ q.len = x.2.2 ∧ q.data = x.2.1 ∧ q.mask = mask

section
variable (src tag : BitVec 16) (part : Option PartId) (kind : MemKind) (mask : Option (BitVec 64))

theorem State.askLines_facts (xs : List (Nat × List Byte × Nat)) (ids : List Nat) (s : State) :
    let r := xs.foldl (State.askLine src tag part kind mask) (ids, s)
    r.1 = ids ++ (List.range xs.length).map (s.nextId + ·) ∧ r.2.serving = s.serving ∧ r.2.mem = s.mem ∧
      (∀ q ∈ s.inFlight, q.id < s.nextId → q ∈ r.2.inFlight) ∧
      ∀ i, (h : i < xs.length) → ∃ q ∈ r.2.inFlight, q.id = s.nextId + i ∧ q.asks kind mask xs[i] := by
  induction xs generalizing ids s with
  | nil => exact ⟨(List.append_nil _).symm, rfl, rfl, fun q hq _ => hq, fun i h => absurd h (Nat.not_lt_zero i)⟩
  | cons x xs ih =>
    intro r
    let y := State.askLine src tag part kind mask (ids, s) x
    obtain ⟨hids, hserving, hmem, hkept, hnew⟩ := ih y.1 y.2
    have hnext : y.2.nextId = s.nextId + 1 := rfl
    rw [hnext] at hids hkept hnew
    refine ⟨?_, hserving, hmem, fun q hq hlt => ?_, fun i hi => ?_⟩
    · have hrange : List.range (x :: xs).length = 0 :: (List.range xs.length).map Nat.succ := List.range_succ_eq_map
      rw [hrange, List.map_cons, List.map_map]
      refine hids.trans ?_
      rw [show y.1 = ids ++ [s.nextId] from rfl, List.append_assoc]
      congr 1
      refine congrArg (s.nextId :: ·) (List.map_congr_left fun i _ => ?_)
      rw [Function.comp_apply, Nat.succ_eq_add_one]
      omega
    · refine hkept q (List.mem_map.mpr ⟨q, List.mem_append_left _ hq, ?_⟩) (by omega)
      exact if_neg (Nat.ne_of_lt hlt)
    · cases i with
      | zero =>
        refine ⟨_, hkept _ (List.mem_map.mpr ⟨_, List.mem_append_right _ List.mem_cons_self, if_pos rfl⟩) (Nat.lt_succ_self _),
          rfl, rfl, rfl, rfl, rfl, rfl⟩
      | succ i =>
        obtain ⟨q, hq, hid, hasks⟩ := hnew i (Nat.lt_of_succ_lt_succ hi)
        exact ⟨q, hq, by omega, hasks⟩

/-- An access that waits for `n` requests of consecutive IDs. -/
def Serving.of (who : ServeFor) (kind : MemKind) (first n : Nat) : Serving :=
  { who := who, kind := kind, ids := (List.range n).map (first + ·), waiting := (List.range n).map (first + ·) }

/-- An access of some lines waits for the requests that it has issued. -/
theorem State.serveAll_issues (s : State) (who : ServeFor) {xs : List (Nat × List Byte × Nat)} (hx : xs ≠ []) :
    (s.serveAll who kind src tag part mask xs).serving = s.serving ++ [Serving.of who kind s.nextId xs.length] ∧
      (∀ i, (h : i < xs.length) → ∃ q ∈ (s.serveAll who kind src tag part mask xs).inFlight, q.id = s.nextId + i ∧
        q.asks kind mask xs[i]) ∧
      (s.serveAll who kind src tag part mask xs).mem = s.mem := by
  obtain ⟨hids, hserving, hmem, -, hnew⟩ := State.askLines_facts src tag part kind mask xs [] s
  have hall : s.serveAll who kind src tag part mask xs =
      (let r := xs.foldl (State.askLine src tag part kind mask) ([], s)
       let v : Serving := { who := who, kind := kind, ids := r.1, waiting := r.1 }
       if r.1.isEmpty then r.2.served v else { r.2 with serving := r.2.serving ++ [v] }) := rfl
  rw [List.nil_append] at hids
  have hne : ((List.range xs.length).map (s.nextId + ·)).isEmpty = false := by
    simpa [List.isEmpty_iff] using hx
  rw [hall]
  dsimp only
  rw [hids, hne, if_neg Bool.false_ne_true, hserving]
  exact ⟨rfl, hnew, hmem⟩

end

/-! ### Requests of peers (R338, R346 to R349) -/

section
variable {s : State} {l : LinkId} {p : List Byte} (h : s.Takes l p)
include h

/-- A request whose lines `xs` are issued. -/
theorem peerServe_completes {i : Instr} {kind : MemKind} {mask : Option (BitVec 64)} {xs : List (Nat × List Byte × Nat)}
    (he : exec i s = .next ((s.taken l p).peerServe p kind mask xs)) (hx : xs ≠ []) {n : Nat} (hn : xs.length = n)
    {data : Nat → List Byte} (hxs : ∀ i, (hi : i < xs.length) → xs[i] = (s.peerAddr p / 64 * 64 + 64 * i, data i, 64)) :
    Completes i s (fun t =>
      t.serving = s.serving ++ [Serving.of (.peer p) kind s.nextId n] ∧
      (∀ i, i < n → ∃ q ∈ t.inFlight, q.id = s.nextId + i ∧ q.addr = s.peerAddr p / 64 * 64 + 64 * i ∧ q.kind = kind ∧
        q.len = 64 ∧ q.data = data i ∧ q.mask = mask) ∧ t.mem = s.mem) := by
  obtain ⟨hserving, hasks, hmem⟩ := State.serveAll_issues (srcPeer (BitVec.ofNat 12 (pSrc p))) (pTxn p) none kind mask
    (s.taken l p) (.peer p) hx
  subst hn
  refine ⟨_, he, hserving, fun i hi => ?_, hmem⟩
  obtain ⟨q, hq, hid, haddr, hkind, hlen, hdata, hmask⟩ := hasks i hi
  rw [hxs i hi] at haddr hlen hdata
  exact ⟨q, hq, hid, haddr, hkind, hlen, hdata, hmask⟩

omit h in
theorem peerLines_length (t : State) (p : List Byte) : (t.peerLines p).length = pLines p := by
  rw [State.peerLines, List.length_map, List.length_range]

omit h in
theorem peerLines_getElem (t : State) (p : List Byte) {i : Nat} (hi : i < (t.peerLines p).length) :
    (t.peerLines p)[i] = t.peerAddr p / 64 * 64 + 64 * i := by
  simp [State.peerLines]

theorem rd_serves (ht : pType p = 0x01) :
    Completes (.rd l) s (fun t =>
      t.serving = s.serving ++ [Serving.of (.peer p) .read s.nextId (pLines p)] ∧
      (∀ i, i < pLines p → ∃ q ∈ t.inFlight, q.id = s.nextId + i ∧ q.addr = s.peerAddr p / 64 * 64 + 64 * i ∧ q.kind = .read ∧
        q.len = 64 ∧ q.data = [] ∧ q.mask = none) ∧ t.mem = s.mem) := by
  have hlen : ((s.peerLines p).map (fun a => (a, ([] : List Byte), 64))).length = pLines p := by
    rw [List.length_map, peerLines_length]
  have he : exec (.rd l) s = .next ((s.taken l p).peerServe p .read none ((s.peerLines p).map (fun a => (a, [], 64)))) :=
    onPacket_takes h ht (fun t p => t.peerServe p .read none ((t.peerLines p).map (fun a => (a, [], 64))))
  refine peerServe_completes h (xs := (s.peerLines p).map (fun a => (a, ([] : List Byte), 64))) (data := fun _ => [])
    he (fun hnil => ?_) hlen fun i hi => ?_
  · rw [hnil] at hlen
    simp [pLines] at hlen
  · rw [List.getElem_map, peerLines_getElem]

theorem wr_serves (ht : pType p = 0x02) (hl : l.val < 16) (hm : s.mirrorScope p = false) :
    Completes (.wr l) s (fun t =>
      t.serving = s.serving ++ [Serving.of (.peer p) .write s.nextId (pLines p)] ∧
      (∀ i, i < pLines p → ∃ q ∈ t.inFlight, q.id = s.nextId + i ∧ q.addr = s.peerAddr p / 64 * 64 + 64 * i ∧ q.kind = .write ∧
        q.len = 64 ∧ q.data = sliceBytes p (16 + 64 * i) 64 ∧ q.mask = none) ∧ t.mem = s.mem) := by
  let xs := (s.peerLines p).zipIdx.map (fun x => (x.1, sliceBytes p (16 + 64 * x.2) 64, 64))
  have hlen : xs.length = pLines p := by
    rw [List.length_map, List.length_zipIdx, peerLines_length]
  have hm' : ¬ s.mirrorScope p = true := by rw [hm]; exact Bool.false_ne_true
  have he : exec (.wr l) s = .next ((s.taken l p).peerServe p .write none xs) := by
    show execWr l s = _
    rw [execWr, onPacket_takes h ht, if_neg (by omega), if_neg (show ¬ (s.taken l p).mirrorScope p = true from hm')]
    rfl
  refine peerServe_completes h (xs := xs) (data := fun i => sliceBytes p (16 + 64 * i) 64) he (fun hnil => ?_) hlen fun i hi => ?_
  · rw [hnil] at hlen
    simp [pLines] at hlen
  · simp only [xs, List.getElem_map, List.getElem_zipIdx, peerLines_getElem, Nat.zero_add]

theorem wr_refused (ht : pType p = 0x02) (hl : l.val < 16) (hm : s.mirrorScope p = true) :
    exec (.wr l) s = .next ((s.taken l p).respondErr p 0x0108) := by
  show execWr l s = _
  rw [execWr, onPacket_takes h ht, if_neg (by omega), if_pos (show (s.taken l p).mirrorScope p = true from hm)]

theorem wrm_serves (ht : pType p = 0x03) (hl : l.val < 16) (hm : s.mirrorScope p = false) :
    Completes (.wrm l) s (fun t =>
      t.serving = s.serving ++ [Serving.of (.peer p) .write s.nextId 1] ∧
      (∀ i, i < 1 → ∃ q ∈ t.inFlight, q.id = s.nextId + i ∧ q.addr = s.peerAddr p / 64 * 64 + 64 * i ∧ q.kind = .write ∧
        q.len = 64 ∧ q.data = sliceBytes p 32 64 ∧ q.mask = some (BitVec.ofNat 64 (fieldLe p 16 8))) ∧ t.mem = s.mem) := by
  have hm' : ¬ s.mirrorScope p = true := by rw [hm]; exact Bool.false_ne_true
  have he : exec (.wrm l) s = .next ((s.taken l p).peerServe p .write (some (BitVec.ofNat 64 (fieldLe p 16 8)))
      [(s.peerAddr p / 64 * 64, sliceBytes p 32 64, 64)]) := by
    show execWrm l s = _
    rw [execWrm, if_neg (by omega), onPacket_takes h ht,
      if_neg (show ¬ (s.taken l p).mirrorScope p = true from hm')]
    rfl
  refine peerServe_completes h (data := fun _ => sliceBytes p 32 64) he (List.cons_ne_nil _ _) rfl fun i hi => ?_
  obtain rfl : i = 0 := Nat.lt_one_iff.mp hi
  rfl

variable (ht : pType p = 0x04) (hd : pDst p = s.fab)
include ht hd

theorem exec_top : exec (.top l) s = .next
    (let x := s.tally (topTally p)
     let t := s.taken l p
     if !x.peerEn || x.peerFab.toNat != pSrc p then t.respondErr p 0x0109
     else if topOp p = 1 then t.topAdv p (topTally p)
     else if topOp p = 2 then t.topAwait p (topTally p) .tallyWait
     else if topOp p = 3 then t.topAwait p (topTally p) .tallyRoom
     else if topOp p = 4 then t.respondTor p 0 x.value
     else if topOp p = 5 then
       (t.setTally (topTally p) { x with waiters := x.waiters.filter (fun w => !w.ofPeer p) }).respondTor p 0 x.value
     else t) := by
  have hd' : ¬ (pDst p ≠ (s.taken l p).fab ∧ (!(s.taken l p).adoptedTally (topTally p)) = true) := fun hn => hn.1 hd
  show execTop l s = _
  rw [execTop, onPacket_takes h ht, State.topServe]
  dsimp only
  rw [if_neg hd']
  rfl

omit h in
theorem peerAdmitted {x : Tally} (hen : x.peerEn = true) (hfab : x.peerFab.toNat = pSrc p) :
    (!x.peerEn || x.peerFab.toNat != pSrc p) = false := by
  rw [hen, hfab, bne_self_eq_false]
  rfl

theorem top_denied (hn : (s.tally (topTally p)).peerEn = false ∨ (s.tally (topTally p)).peerFab.toNat ≠ pSrc p) :
    exec (.top l) s = .next ((s.taken l p).respondErr p 0x0109) := by
  have hc : (!(s.tally (topTally p)).peerEn || (s.tally (topTally p)).peerFab.toNat != pSrc p) = true := by
    rcases hn with hn | hn
    · rw [hn]
      rfl
    · rw [bne_iff_ne.mpr hn, Bool.or_true]
  rw [exec_top h ht hd]
  dsimp only
  rw [if_pos hc]

variable (hen : (s.tally (topTally p)).peerEn = true) (hfab : (s.tally (topTally p)).peerFab.toNat = pSrc p)
include hen hfab

theorem top_reads (ho : topOp p = 4) : exec (.top l) s = .next ((s.taken l p).respondTor p 0 (s.tally (topTally p)).value) := by
  rw [exec_top h ht hd]
  dsimp only
  rw [peerAdmitted ht hd hen hfab, if_neg Bool.false_ne_true, ho]
  rfl

omit hen hfab ht in
/-- An advance of an unmirrored tally is answered with its value. -/
theorem State.topAdv_answers (htw : s.twState ≠ 2) (n : Nat) :
    (s.taken l p).topAdv p n = ((s.taken l p).tallyAdv .peer n (topOperand p)).respondTor p 0
      (((s.taken l p).tallyAdv .peer n (topOperand p)).tally n).value := by
  have hknown : ∀ b : Bool, ¬ (b && pDst p != (s.taken l p).fab) = true := fun b => by
    rw [show (s.taken l p).fab = pDst p from hd.symm, bne_self_eq_false, Bool.and_false]
    exact Bool.false_ne_true
  have htw' : ((s.taken l p).twState == 2) = false := beq_eq_false_iff_ne.mpr htw
  rw [State.topAdv]
  dsimp only
  rw [if_neg (hknown _)]
  split
  · rw [htw', Bool.and_false, if_neg Bool.false_ne_true]
  · rfl

theorem top_advances (ho : topOp p = 1) (hw : ∀ e ∈ s.tallies, e.2.waiters = []) (htw : s.twState ≠ 2) :
    ∃ t : State, exec (.top l) s = .next (t.respondTor p 0 ((s.tally (topTally p)).value + topOperand p)) ∧
      (t.tally (topTally p)).value = (s.tally (topTally p)).value + topOperand p ∧ t.mem = s.mem ∧ t.pegs = s.pegs ∧
      ∀ m, m ≠ topTally p → t.tally m = s.tally m := by
  obtain ⟨g, hg, -, htally, hpegs, -, hmem⟩ := State.tallyAdv_only (s := s.taken l p) hw (who := .peer)
    (fun u o r x => u.logAny_sansLogs o _) (topTally p) (topOperand p)
  have hself := (htally (topTally p)).trans (if_pos rfl)
  have he := exec_top h ht hd
  dsimp only at he
  rw [peerAdmitted ht hd hen hfab, if_neg Bool.false_ne_true, if_pos ho, State.topAdv_answers h hd htw, hself, hg] at he
  exact ⟨_, he, (congrArg Tally.value hself).trans hg, hmem, hpegs, fun m hm => (htally m).trans (if_neg hm)⟩

end

/-! ### Packets that the module does not serve -/

section
variable {s : State} {l : LinkId} {p : List Byte} (ha : s.alive = true) (hp : ∃ rest, (s.link l).packets = p :: rest)
include ha hp

theorem rd_refused (ht : pType p = 0x01) (hon : s.fabricOn = false) :
    Completes (.rd l) s (fun t =>
      flowOf p ∈ t.fabric.marked ∧ t.serving = s.serving ∧ t.inFlight = s.inFlight ∧
      t.fld oFB_STAT 31 0 = (s.fld oFB_STAT 31 0 + 1) % 2 ^ 32) := by
  have he : exec (.rd l) s = .next ((s.taken l p).refusePkt l p) := by
    have hon' : (s.taken l p).fabricOn = false := hon
    refine (onPacket_first ha hp ht _).trans ?_
    rw [State.admitPkt, if_neg Bool.false_ne_true, hon']
    rfl
  let m := if (s.taken l p).fabric.marked.contains (flowOf p) then (s.taken l p).fabric.marked
    else (s.taken l p).fabric.marked ++ [flowOf p]
  have hm : flowOf p ∈ m := by
    simp only [m]
    split
    next hc => exact List.contains_iff_mem.mp hc
    next => exact List.mem_append_right _ List.mem_cons_self
  let u : State := ({ s.taken l p with fabric := { (s.taken l p).fabric with marked := m } } : State).incFld oFB_STAT 31 0 1
  have hcount : u.fld oFB_STAT 31 0 = (s.fld oFB_STAT 31 0 + 1) % 2 ^ 32 := State.fld_incFld_self _ _ _ _ _ (by decide)
  obtain ⟨held, k, o, ht⟩ := u.routed_reply l p 0x8E 0 1 []
  have href : (s.taken l p).refusePkt l p = u.reply l p 0x8E 0 1 [] := rfl
  rw [href, ht] at he
  exact completes_of_eq he ⟨hm, rfl, rfl, hcount⟩

theorem rd_forwards (ht : pType p = 0x01) (hon : s.fabricOn = true) (hm : flowOf p ∉ s.fabric.marked)
    (hto : s.answersTo (pDst p) = false) (hl : l.val < 16) (hh : 0 < pHops p) :
    exec (.rd l) s = .next ((s.taken l p).route (some l) none (reHead p (pD p) (pHops p - 1) (pRetry p))) := by
  have hmark : s.fabric.marked.contains (flowOf p) = false := by
    simpa using hm
  have hc : (!(s.taken l p).fabricOn || (s.taken l p).fabric.marked.contains (flowOf p) && !pRetry p) = false := by
    have hon' : (s.taken l p).fabricOn = true := hon
    have hmark' : (s.taken l p).fabric.marked.contains (flowOf p) = false := hmark
    rw [hon', hmark']
    rfl
  have hto' : ¬ (s.taken l p).answersTo (pDst p) = true := by
    rw [show (s.taken l p).answersTo (pDst p) = false from hto]
    exact Bool.false_ne_true
  refine (onPacket_first ha hp ht _).trans ?_
  rw [State.admitPkt, if_neg Bool.false_ne_true]
  dsimp only
  rw [hc, if_neg Bool.false_ne_true, State.taken_unmarked hmark, if_neg hto', if_neg (by omega), State.forward, if_neg (by omega)]

theorem unknownPacket_logged (hu : unitsOf p = none) : exec (.unknownPacket l) s = .next ((s.taken l p).logBelora l p) := by
  obtain ⟨rest, hrest⟩ := hp
  have htake := State.takePkt_of_first (ok := fun p => (unitsOf p).isNone) hrest (by rw [hu]; rfl)
  show execUnknownPacket l s = _
  rw [execUnknownPacket, htake]
  exact whenever_of_alive ha rfl _

end

/-! ### The ends of this module's requests (R346, R349) -/

/-- The module without a request that has ended. -/
def State.sansReq (s : State) (q : PeerReq) : State :=
  { s with fabric := { s.fabric with requests := s.fabric.requests.filter (fun x => decide (x.txn ≠ q.txn)) } }

theorem State.endPeer_cart {s : State} {q : PeerReq} {c : CoreId} {u : Fin 2} {r : MemReq} (hq : q.unit = .cart c u)
    (hr : q.mem = some r) (st : Nat) (data : List Byte) (v : Word) (b : Bool) :
    s.endPeer q st data v b = (s.sansReq q).deliver { req := r, status := BitVec.ofNat 16 st, data := data } := by
  rw [State.endPeer, hq, hr]
  rfl

theorem State.endPeer_kingpost {s : State} {q : PeerReq} {c : CoreId} (hq : q.unit = .kingpost c) (st : Nat) (data : List Byte)
    (v : Word) (b : Bool) : s.endPeer q st data v b = (s.sansReq q).endKpPeer c q st v := by
  rw [State.endPeer, hq]
  rfl

/-- The module's requests to peers. -/
def State.peerRequests (s : State) : List PeerReq := s.fabric.requests

theorem State.peerRequests_of_fabric {s t : State} (h : t.fabric = s.fabric) : t.peerRequests = s.peerRequests := by
  rw [State.peerRequests, State.peerRequests, h]

theorem State.peerRequests_foldl {α : Type} {f : State → α → State} (h : ∀ s a, (f s a).peerRequests = s.peerRequests)
    (xs : List α) (s : State) : (xs.foldl f s).peerRequests = s.peerRequests := by
  induction xs generalizing s with
  | nil => rfl
  | cons x xs ih => rw [List.foldl_cons, ih, h]

theorem State.peerRequests_release (s : State) (w : Waiter) (v : Word) : (s.release w v).peerRequests = s.peerRequests := by
  unfold State.release
  split
  · rfl
  · rfl
  · exact State.peerRequests_of_fabric (State.endDesc_fabric ..)
  · obtain ⟨_, _, _, h⟩ := s.routed_respond _ 0x84 0 1 (natLe 8 0 ++ natLe 8 v.toNat)
    rw [State.respondTor, h]
    rfl

theorem State.peerRequests_servePeg (s : State) (n : Nat) : (s.servePeg n).peerRequests = s.peerRequests := by
  have hall : ∀ (t : State) (ws : List Waiter) (v : Word), (t.releaseAll ws v).peerRequests = t.peerRequests := fun t ws v =>
    State.peerRequests_foldl (f := fun t w => t.release w v) (fun t w => t.peerRequests_release w v) ws t
  unfold State.servePeg
  dsimp only
  split
  · exact hall _ _ _
  · exact (State.peerRequests_of_fabric (State.touched_fabric _ _)).trans (hall _ _ _)

theorem State.peerRequests_dropTake (s : State) (c : CoreId) (u : EngineUnit) : (s.dropTake c u).peerRequests = s.peerRequests := by
  unfold State.dropTake
  split
  · split
    · exact State.peerRequests_servePeg _ _
    · rfl
  · rfl

theorem State.peerRequests_holdEngine (s : State) (c : CoreId) (k : StopKind) (u : EngineUnit) :
    (s.holdEngine c k u).peerRequests = s.peerRequests := by
  unfold State.holdEngine
  dsimp only
  split
  · exact State.peerRequests_of_fabric (State.holdGrind_fabric _ _ _)
  · split
    · split <;> rfl
    · rfl
    · split
      · exact State.peerRequests_of_fabric (State.markStopped_fabric _ _ _)
      · rfl
    · rfl
    · rfl
    · exact s.peerRequests_dropTake c u
    · rfl
    · rfl
    · rfl

/-- A stop leaves the requests to peers. -/
theorem State.peerRequests_takePending (s : State) (c : CoreId) : (s.takePending c).peerRequests = s.peerRequests := by
  have hold : ∀ (k : StopKind) (t : State), (allUnits.foldl (fun t u => t.holdEngine c k u) t).peerRequests = t.peerRequests :=
    fun k t => State.peerRequests_foldl (fun t u => t.peerRequests_holdEngine c k u) allUnits t
  unfold State.takePending
  split
  next k _ =>
    unfold State.takeStop
    dsimp only
    split
    · refine (State.peerRequests_of_fabric (State.modCore_fabric _ _ _)).trans ((hold k _).trans ?_)
      exact State.peerRequests_of_fabric (State.modCore_fabric _ _ _)
    · exact (hold k _).trans (State.peerRequests_of_fabric (State.modCore_fabric _ _ _))
  next => rfl

section
variable {s : State} {c : CoreId} {w : SyncWait} {q : PeerReq} (ho : q.op ≠ 1) (hd : q.withdrawn = false)
  (hw : (s.core c).wait = some w) (ht : w.txn = some q.txn)
include ho hd hw ht

theorem State.endKpPeer_ok (v : Word) :
    s.endKpPeer c q 0 v = s.modCore c (fun k => { k with
      wait := k.wait.map (fun w => { w with satisfied := true, value := v }) }) := by
  rw [State.endKpPeer, if_neg ho, hw]
  rw [if_neg (show ¬ (!decide (w.txn = some q.txn)) = true by rw [decide_eq_true ht]; decide), hd, if_neg Bool.false_ne_true]
  rfl

theorem State.endKpPeer_error {st : Nat} (hst : st ≠ 0) (v : Word) :
    s.endKpPeer c q st v = ((s.peerSkip c q st).modCore c (fun k => ({ k with wait := none } : Core).retire 8)).takePending c := by
  rw [State.endKpPeer, if_neg ho, hw]
  rw [if_neg (show ¬ (!decide (w.txn = some q.txn)) = true by rw [decide_eq_true ht]; decide), hd, if_neg Bool.false_ne_true, if_neg hst]

/-- A remote instruction that ends with an error is skipped. -/
theorem State.endKpPeer_skips {st : Nat} (hst : st ≠ 0) (v : Word) :
    ((s.endKpPeer c q st v).core c).wait = none ∧ ((s.endKpPeer c q st v).core c).pc = (s.core c).pc + 8 ∧
      (s.endKpPeer c q st v).fabric.requests = s.fabric.requests ∧ (s.endKpPeer c q st v).mem = s.mem := by
  rw [State.endKpPeer_error ho hd hw ht hst]
  have hcores : (s.peerSkip c q st).cores = s.cores := State.peerSkip_cores ..
  have hmem : (s.peerSkip c q st).mem = s.mem := State.peerSkip_mem ..
  have hreq : (s.peerSkip c q st).peerRequests = s.peerRequests := State.peerRequests_of_fabric (State.peerSkip_fabric ..)
  generalize s.peerSkip c q st = t at hcores hmem hreq
  have h := congrFun (State.programs_takePending (t.modCore c (fun k => ({ k with wait := none } : Core).retire 8)) c) c
  simp only [State.programs, State.core_modCore, if_true, Core.program, Prod.mk.injEq, State.core_congr hcores] at h
  obtain ⟨-, hpc, -, hwait⟩ := h
  refine ⟨Option.isNone_iff_eq_none.mp ?_, hpc.trans ?_, (State.peerRequests_takePending _ c).trans hreq,
    (State.takePending_mem _ _).trans hmem⟩
  · rw [hwait, Core.retire_eq_issued]
    rfl
  · rw [Core.retire_eq_issued]
    rfl

end

section
variable {s : State} {l : LinkId} {p : List Byte} {q : PeerReq} (h : s.Answered l p q)
include h

theorem onResponse_answered {type : Nat} (ht : pType p = type) (f : State → List Byte → PeerReq → State) :
    onResponse s l type f = .next (f (s.taken l p) p q) := by
  obtain ⟨htakes, hreq⟩ := h
  have hreq' : (s.taken l p).reqOf (pTxn p) = some q := hreq
  rw [onResponse, onPacket_takes htakes ht, hreq']

theorem answered_txn : q.txn = pTxn p := by
  simpa using List.find?_some h.2

theorem modReq_txn (t : State) (f : PeerReq → PeerReq) :
    (t.modReq (pTxn p) f).fabric.requests = t.fabric.requests.map (fun x => if x.txn = q.txn then f x else x) := by
  rw [answered_txn h]
  rfl

section
variable {c : CoreId} {u : Fin 2} {r : MemReq} (hq : q.unit = .cart c u) (hr : q.mem = some r) (hw : s.hcWaiting r.id = none)
  (hs : s.serving = []) (hc : s.claimed r.id = true)
include hq hr hw hs hc

/-- The response to a cart's request reaches its cart. -/
theorem cart_gets {i : Instr} {data : List Byte} (he : exec i s = .next ((s.taken l p).endPeer q 0 data 0 false)) :
    Completes i s (fun t => t.responses = s.responses ++ [{ req := r, status := 0, data := data }] ∧
      t.fabric.requests = s.fabric.requests.filter (fun x => decide (x.txn ≠ q.txn)) ∧ t.mem = s.mem) := by
  rw [State.endPeer_cart hq hr,
    State.deliver_claimed (s := (s.taken l p).sansReq q) (x := { req := r, status := BitVec.ofNat 16 0, data := data }) hw hs hc] at he
  exact completes_of_eq he ⟨rfl, rfl, rfl⟩

theorem rdr_reaches (ht : pType p = 0x81) :
    Completes (.rdr l) s (fun t =>
      t.responses = s.responses ++ [{ req := r, status := 0, data := sliceBytes p (16 + r.addr % 64) r.len }] ∧
      t.fabric.requests = s.fabric.requests.filter (fun x => decide (x.txn ≠ q.txn)) ∧ t.mem = s.mem) := by
  refine cart_gets h hq hr hw hs hc ?_
  refine (onResponse_answered h ht _).trans ?_
  rw [hr]

theorem wra_reaches (ht : pType p = 0x82) :
    Completes (.wra l) s (fun t =>
      t.responses = s.responses ++ [{ req := r, status := 0, data := [] }] ∧
      t.fabric.requests = s.fabric.requests.filter (fun x => decide (x.txn ≠ q.txn)) ∧ t.mem = s.mem) :=
  cart_gets h hq hr hw hs hc (onResponse_answered h ht (fun t _ q => t.endPeer q 0 [] 0 false))

end

section
variable {c : CoreId} {w : SyncWait} (hq : q.unit = .kingpost c) (ho : q.op ≠ 1) (hd : q.withdrawn = false)
  (hw : (s.core c).wait = some w) (htx : w.txn = some q.txn)
include hq ho hd hw htx

theorem tor_satisfies (ht : pType p = 0x84) (hst : pStatus p ≠ 1) :
    Completes (.tor l) s (fun t =>
      OnlyCore c { s with links := t.links, fabric := t.fabric } t ∧
      t.fabric.requests = s.fabric.requests.filter (fun x => decide (x.txn ≠ q.txn)) ∧
      t.core c = { s.core c with wait := some { w with satisfied := true, value := BitVec.ofNat 64 (fieldLe p 24 8) } }) := by
  have he : exec (.tor l) s = .next ((s.taken l p).endPeer q 0 [] (BitVec.ofNat 64 (fieldLe p 24 8)) false) := by
    refine (onResponse_answered h ht _).trans ?_
    rw [if_neg hst]
  have hw' : (((s.taken l p).sansReq q).core c).wait = some w := hw
  rw [State.endPeer_kingpost hq, State.endKpPeer_ok ho hd hw' htx] at he
  refine completes_of_eq he ⟨⟨rfl, fun d hne => ?_⟩, rfl, ?_⟩
  · rw [State.core_modCore, if_neg hne]
    rfl
  · rw [State.core_modCore, if_pos rfl]
    simp only [show ((s.taken l p).sansReq q).core c = s.core c from rfl, hw, Option.map_some]

theorem err_skips (ht : pType p = 0x8F) (hst : pStatus p ≠ 0) :
    Completes (.err l) s (fun t =>
      (t.core c).wait = none ∧ (t.core c).pc = (s.core c).pc + 8 ∧
      t.fabric.requests = s.fabric.requests.filter (fun x => decide (x.txn ≠ q.txn)) ∧ t.mem = s.mem) := by
  have he : exec (.err l) s = .next ((s.taken l p).endPeer q (pStatus p) [] 0 true) :=
    onResponse_answered h ht (fun t p q => t.endPeer q (pStatus p) [] 0 true)
  have hw' : (((s.taken l p).sansReq q).core c).wait = some w := hw
  rw [State.endPeer_kingpost hq] at he
  obtain ⟨hwait, hpc, hreq, hmem⟩ := State.endKpPeer_skips ho hd hw' htx hst 0
  exact completes_of_eq he ⟨hwait, hpc, hreq, hmem⟩

end

theorem tor_interim (ht : pType p = 0x84) (hst : pStatus p = 1) (hstep : ∀ c, q.unit = .kingpost c → (s.core c).stepping = false) :
    Completes (.tor l) s (fun t =>
      t.fabric.requests = s.fabric.requests.map (fun x => if x.txn = q.txn then { x with answered := true } else x) ∧
      t.cores = s.cores ∧ t.mem = s.mem) := by
  have he : exec (.tor l) s = .next ((s.taken l p).interimTor q) := by
    refine (onResponse_answered h ht _).trans ?_
    rw [if_pos hst]
  have hint : (s.taken l p).interimTor q = (s.taken l p).modReq q.txn (fun x => { x with answered := true }) := by
    rw [State.interimTor]
    split
    next c hc =>
      have hn : (((s.taken l p).modReq q.txn (fun x => { x with answered := true })).core c).stepping = false := hstep c hc
      rw [hn, Bool.false_and, if_neg Bool.false_ne_true]
    next => rfl
  rw [hint] at he
  exact completes_of_eq he ⟨rfl, rfl, rfl⟩

theorem notrdy_refuses (ht : pType p = 0x8E) :
    Completes (.notrdy l) s (fun t =>
      t.fabric.requests = s.fabric.requests.map (fun x => if x.txn = q.txn then { x with refused := true } else x) ∧
      t.cores = s.cores ∧ t.mem = s.mem) := by
  have hreq := modReq_txn h (s.taken l p) (fun x => { x with refused := true })
  obtain ⟨⟨ha, ⟨rest, hrest⟩, -, hto, -⟩, -⟩ := h
  have htake := State.takePkt_of_first (ok := fun p => pType p == 0x8E) hrest (by rw [ht]; rfl)
  have hto' : (s.taken l p).answersTo (pDst p) = true := hto
  have he : exec (.notrdy l) s = .next ((s.taken l p).modReq (pTxn p) (fun x => { x with refused := true })) := by
    show execNotrdy l s = _
    rw [execNotrdy, htake]
    dsimp only
    rw [if_pos hto']
    exact whenever_of_alive ha rfl _
  exact completes_of_eq he ⟨hreq, rfl, rfl⟩

end

/-! ### Backoffs, time-outs and probes (R336, R346, R349) -/

section
variable {s : State} {q : PeerReq} (ha : s.alive = true) (hr : s.reqOf q.txn = some q)
include ha hr

theorem exec_notrdyBackoff (hf : q.refused = true) (b : Bool) :
    exec (.notrdyBackoff q.txn b) s = .next (if b then s.endPeer q 0x0105 [] 0 false else s.backoff q) := by
  show execNotrdyBackoff q.txn b s = _
  rw [execNotrdyBackoff, hr]
  exact whenever_of_alive ha hf _

theorem exec_peerTimeout (hf : q.refused = false) (hn : q.answered = false) :
    exec (.peerTimeout q.txn) s = .next (s.endPeer q 0x0107 [] 0 false) := by
  show execPeerTimeout q.txn s = _
  rw [execPeerTimeout, hr]
  exact whenever_of_alive ha (by rw [hf, hn]; rfl) _

omit ha in
theorem peerTimeout_waits (h : q.answered = true ∨ q.refused = true) : exec (.peerTimeout q.txn) s = .next s := by
  have hb : (!q.answered && !q.refused) = false := by
    rcases h with h | h <;> simp [h]
  show execPeerTimeout q.txn s = _
  rw [execPeerTimeout, hr]
  dsimp only
  rw [hb]
  rfl

theorem exec_unreachable {b : List Byte}
    (hh : s.fabric.held.find? (fun e => decide (pTxn e.2 = q.txn) && !s.answersTo (pDst e.2)) = some (none, b))
    (hrsp : pRsp b = false) (htxn : pTxn b = q.txn) :
    exec (.unreachable q.txn) s =
      .next (({ s with fabric := { s.fabric with held := s.fabric.held.erase (none, b) } } : State).endPeer q 0x0106 [] 0 false) := by
  have hend : s.endHeld (none, b) =
      ({ s with fabric := { s.fabric with held := s.fabric.held.erase (none, b) } } : State).endPeer q 0x0106 [] 0 false := by
    have hr' : ({ s with fabric := { s.fabric with held := s.fabric.held.erase (none, b) } } : State).reqOf q.txn = some q := hr
    rw [State.endHeld]
    dsimp only
    rw [hrsp, if_neg Bool.false_ne_true, htxn, hr', if_neg (by decide)]
  show execUnreachable q.txn s = _
  rw [execUnreachable, hh]
  dsimp only
  rw [hend]
  exact whenever_of_alive ha rfl _

theorem notrdyBackoff_again (hf : q.refused = true)
    (hl : ((s.fabric.requests.dropWhile (fun x => decide (x.txn ≠ q.txn))).drop 1).all (fun x => !x.refused) = true) :
    exec (.notrdyBackoff q.txn false) s =
      .next ((s.modReq q.txn (fun y => { y with refused := false, tries := y.tries + 1 })).sendAgain q true) := by
  have hnone : ((s.fabric.requests.dropWhile (fun x => decide (x.txn ≠ q.txn))).drop 1).filter
      (fun x => x.refused && decide (x.dst = q.dst) && pVc x.bytes == pVc q.bytes) = [] := by
    rw [List.filter_eq_nil_iff]
    intro x hx
    have hx := List.all_eq_true.mp hl x hx
    rw [Bool.not_eq_true'] at hx
    rw [hx]
    exact Bool.false_ne_true
  rw [exec_notrdyBackoff ha hr hf, if_neg Bool.false_ne_true, State.backoff]
  dsimp only
  rw [hnone]
  rfl

theorem topProbe_probes (hn : q.answered = true) (ho : q.op = 2 ∨ q.op = 3) (hd : q.withdrawn = false) :
    exec (.topProbe q.txn) s = .next (s.sendAgain q false) := by
  have hb : (q.answered && (q.op == 2 || q.op == 3) && !q.withdrawn) = true := by
    rcases ho with ho | ho <;> simp [hn, hd, ho]
  show execTopProbe q.txn s = _
  rw [execTopProbe, hr]
  exact whenever_of_alive ha hb _

section
variable {c : CoreId} {w : SyncWait} (hq : q.unit = .kingpost c) (ho : q.op ≠ 1) (hd : q.withdrawn = false)
  (hw : (s.core c).wait = some w) (htx : w.txn = some q.txn)
include hq ho hd hw htx

omit ha hr in
/-- A request that ends without success skips the instruction of its kingpost. -/
theorem kingpost_skips {i : Instr} {u : State} {st : Nat} (he : exec i s = .next (u.endPeer q st [] 0 false)) (hst : st ≠ 0)
    (hcores : u.cores = s.cores) (hreq : u.fabric.requests = s.fabric.requests) (hmem : u.mem = s.mem) :
    Completes i s (fun t => (t.core c).wait = none ∧ (t.core c).pc = (s.core c).pc + 8 ∧
      t.fabric.requests = s.fabric.requests.filter (fun x => decide (x.txn ≠ q.txn)) ∧ t.mem = s.mem) := by
  have hcore : (u.sansReq q).core c = s.core c := State.core_congr hcores c
  have hw' : ((u.sansReq q).core c).wait = some w := by rw [hcore, hw]
  obtain ⟨hwait, hpc, hreq', hmem'⟩ := State.endKpPeer_skips ho hd hw' htx hst 0
  rw [State.endPeer_kingpost hq] at he
  exact completes_of_eq he ⟨hwait, hpc.trans (by rw [hcore]), hreq'.trans (congrArg (List.filter _) hreq), hmem'.trans hmem⟩

end

end

/-- Settles O58: the requests of peers by what they ask, and the ends of this module's requests by their unit. -/
theorem beloraPeers : Obligations.beloraPeers := by
  unfold Obligations.beloraPeers
  refine ⟨fun s l p => ?_, fun s l p q => ?_⟩
  · intro line serves
    refine ⟨fun h => ⟨rd_serves h, wr_serves h, wr_refused h, wrm_serves h, fun ht hd => ?_⟩,
      fun ha hp => ⟨rd_refused ha hp, rd_forwards ha hp, unknownPacket_logged ha hp⟩⟩
    intro x
    exact ⟨top_denied h ht hd, top_reads h ht hd, fun hen hfab ho hw htw => top_advances h ht hd hen hfab ho hw htw⟩
  · intro rest
    refine ⟨fun h => ⟨fun c u r hq hr hw hs hc => ?_, fun c w hq ho hd hw htx => ⟨tor_satisfies h hq ho hd hw htx,
      err_skips h hq ho hd hw htx⟩, tor_interim h, notrdy_refuses h⟩, fun ha hr => ⟨fun c w hq hm ho hd hw htx => ?_,
      notrdyBackoff_again ha hr, topProbe_probes ha hr, peerTimeout_waits hr⟩⟩
    · intro gets
      exact ⟨rdr_reaches h hq hr hw hs hc, wra_reaches h hq hr hw hs hc⟩
    · intro skips
      refine ⟨fun hf => ?_, fun hf hn => ?_, fun b hh hrsp htxn => ?_⟩
      · exact kingpost_skips hq ho hd hw htx (exec_notrdyBackoff ha hr hf true) (by decide) rfl rfl rfl
      · exact kingpost_skips hq ho hd hw htx (exec_peerTimeout ha hr hf hn) (by decide) rfl rfl rfl
      · exact kingpost_skips hq ho hd hw htx (exec_unreachable ha hr hh hrsp htxn) (by decide) rfl rfl rfl

end Sys2Proof.Machine
end

section
/-! PROOFS. Repairs of cores: corrected faults, spares and rollback (R326). -/

namespace Sys2Proof.Machine

/-! ### Aborts of a partition without joints and host carts -/

/-- The partition once an abort has been taken. -/
def Part.aborting (src : AbortSource) (q : Part) : Part := { q with abort := some src, switch := none }

theorem State.beginAbort_eq {s : State} {p : PartId} (hj : (s.part p).joints = []) (hc : s.hostCarts = []) (src : AbortSource) :
    s.beginAbort p src = (s.setFld (oPT_ABORT p) 1 1 1).modPart p (Part.aborting src) := by
  have hjoints : (((s.setFld (oPT_ABORT p) 1 1 1).modPart p (Part.aborting src)).part p).joints = [] := by
    rw [State.part_modPart_self]
    exact hj
  have hcarts : ((s.setFld (oPT_ABORT p) 1 1 1).modPart p (Part.aborting src)).hostCarts = [] := hc
  have hbegin : s.beginAbort p src =
      (((s.setFld (oPT_ABORT p) 1 1 1).modPart p (Part.aborting src)).abortJoints p).stopHostCarts p := rfl
  rw [hbegin]
  generalize (s.setFld (oPT_ABORT p) 1 1 1).modPart p (Part.aborting src) = t at hjoints hcarts
  rw [State.abortJoints, hjoints]
  dsimp only
  rw [List.filter_nil, List.map_nil, List.foldl_nil, State.stopHostCarts, hcarts, List.filter_nil, ← hcarts]

theorem oPT_ABORT_ne_MOD_STAT (q : PartId) : oMOD_STAT ≠ oPT_ABORT q := by
  simp only [oMOD_STAT, oPT_ABORT, oPT]
  omega

/-! ### The spare of a core -/

theorem oMOD_STAT_ne_oTMM (k : Nat) : oMOD_STAT ≠ oTMM k := by
  simp only [oMOD_STAT, oTMM]
  omega

theorem State.spares_congr {s t : State} (h : t.reg oMOD_STAT = s.reg oMOD_STAT) (c : CoreId) : t.spares c = s.spares c :=
  State.fld_of_reg h _ _

theorem State.spares_lt (s : State) (c : CoreId) : s.spares c < 4 := by
  have h : 2 * (c.val / 32) + 1 + 1 - 2 * (c.val / 32) = 2 := by omega
  unfold State.spares
  rw [State.fld, getBits, bitsOf, h]
  exact Nat.mod_lt _ (by decide)

theorem State.spares_spareCore (s : State) (c : CoreId) : (s.spareCore c).spares c = s.spares c - 1 := by
  have hlt := s.spares_lt c
  have hc := c.isLt
  have h : 2 * (c.val / 32) + 1 + 1 - 2 * (c.val / 32) = 2 := by omega
  have hreg : (s.spareCore c).reg oMOD_STAT =
      (s.setFld oMOD_STAT (2 * (c.val / 32) + 1) (2 * (c.val / 32)) (s.spares c - 1)).reg oMOD_STAT :=
    (State.reg_setFld _ _ _ _ _ _).trans (if_neg (oMOD_STAT_ne_oTMM 5))
  rw [State.spares_congr hreg, State.spares, State.fld_setFld_self _ _ _ _ _ (by omega), h]
  exact Nat.mod_eq_of_lt (by omega)

/-- A core as its spare takes it over. -/
def Core.spared (k : Core) : Core := { k with corrected := 0, tlb := [], icache := [], fills := [], badLines := [] }

theorem State.spareCore_core (s : State) (c : CoreId) : (s.spareCore c).core c = (s.core c).spared :=
  (State.core_modCore _ c c Core.spared).trans (if_pos rfl)

theorem State.spareCore_part (s : State) (c : CoreId) (p : PartId) : (s.spareCore c).part p = s.part p := rfl

/-- A core that a preemption held goes on. -/
def Core.goesOn (k : Core) : Core := if k.stop = some .preempt then { k with stop := none } else k

/-- What a core keeps as it goes on. -/
def Core.work (k : Core) : Tab Word × Tab Byte × BitVec 48 × Nat := (k.s, k.bench, k.pc, k.corrected)

theorem Core.goesOn_work (k : Core) : k.goesOn.work = k.work := by
  unfold Core.goesOn
  split <;> rfl

theorem Core.goesOn_stop (k : Core) : k.goesOn.stop ≠ some .preempt := by
  unfold Core.goesOn
  split
  next => exact fun h => by cases h
  next h => exact h

theorem State.goOn_eq (s : State) (p : PartId) : s.goOn p = (s.coreList p).foldl (fun t c => t.modCore c Core.goesOn) s := rfl

theorem State.mem_coreList {s : State} {c : CoreId} {p : PartId} (h : s.partOfCore c = some p) : c ∈ s.coreList p := by
  rw [State.partOfCore] at h
  exact List.contains_iff_mem.mp (List.find?_some (p := fun p => (s.coreList p).contains c) h)

theorem State.goOn_core (s : State) {p : PartId} {c : CoreId} (hc : c ∈ s.coreList p) :
    ((s.goOn p).core c).work = (s.core c).work ∧ ((s.goOn p).core c).stop ≠ some .preempt := by
  rw [State.goOn_eq, State.core_foldl_modCore]
  exact ⟨iterate_keeps Core.goesOn_work _ _, iterate_brings (P := fun k : Core => k.stop ≠ some .preempt) Core.goesOn_stop
    (fun h => List.count_eq_zero.mp h hc) _⟩

/-! ### Faults and sparing (R326) -/

section
variable {s : State} {c : CoreId} {p : PartId} (ha : s.alive = true) (hp : s.partOfCore c = some p)
include ha hp

theorem exec_coreFaultCorrected : exec (.coreFaultCorrected c) s = .next
    (let t := s.modCore c (fun k => { k with corrected := k.corrected + 1 })
     let due := 16 ≤ (t.core c).corrected ∧ 0 < s.spares c
     if due ∧ (s.part p).spareWanted.isNone then t.modPart p (fun q => { q with spareWanted := some c }) else t) := by
  show execCoreFaultCorrected c s = _
  rw [execCoreFaultCorrected, hp]
  exact whenever_of_alive ha rfl _

theorem coreFaultCorrected_counts (h : (s.core c).corrected < 15) :
    Completes (.coreFaultCorrected c) s (fun t => OnlyCore c s t ∧
      t.core c = { s.core c with corrected := (s.core c).corrected + 1 }) := by
  have he := exec_coreFaultCorrected ha hp
  have hself : (s.modCore c (fun k => { k with corrected := k.corrected + 1 })).core c =
      { s.core c with corrected := (s.core c).corrected + 1 } := (State.core_modCore ..).trans (if_pos rfl)
  have hno : ¬ ((16 ≤ (s.core c).corrected + 1 ∧ 0 < s.spares c) ∧ (s.part p).spareWanted.isNone = true) := by omega
  dsimp only at he
  rw [hself, if_neg hno] at he
  exact completes_of_eq he ⟨onlyCore_modCore _ _ _, hself⟩

theorem coreFaultCorrected_asks (h : 15 ≤ (s.core c).corrected) (hs : 0 < s.spares c) (hw : (s.part p).spareWanted = none) :
    Completes (.coreFaultCorrected c) s (fun t => (t.part p).spareWanted = some c ∧ t.spares c = s.spares c ∧
      (t.core c).s = (s.core c).s ∧ (t.core c).bench = (s.core c).bench ∧ (t.core c).pc = (s.core c).pc ∧ t.mem = s.mem) := by
  have he := exec_coreFaultCorrected ha hp
  have hself : (s.modCore c (fun k => { k with corrected := k.corrected + 1 })).core c =
      { s.core c with corrected := (s.core c).corrected + 1 } := (State.core_modCore ..).trans (if_pos rfl)
  have hyes : (16 ≤ (s.core c).corrected + 1 ∧ 0 < s.spares c) ∧ (s.part p).spareWanted.isNone = true :=
    ⟨⟨by omega, hs⟩, by rw [hw]; rfl⟩
  dsimp only at he
  rw [hself, if_pos hyes] at he
  have hcore : ((s.modCore c (fun k => { k with corrected := k.corrected + 1 })).modPart p
      (fun q => { q with spareWanted := some c })).core c = { s.core c with corrected := (s.core c).corrected + 1 } := hself
  refine completes_of_eq he ⟨?_, rfl, ?_, ?_, ?_, rfl⟩
  · rw [State.part_modPart_self]
  · rw [hcore]
  · rw [hcore]
  · rw [hcore]

theorem coreSpare_spares (hw : (s.part p).spareWanted = some c) (hr : s.spareReady p = true) :
    Completes (.coreSpare c) s (fun t =>
      (t.part p).spareWanted = none ∧ t.spares c = s.spares c - 1 ∧ (t.core c).corrected = 0 ∧
      (t.core c).stop ≠ some .preempt ∧ (t.part p).events = (s.part p).events + 1 ∧
      (t.core c).s = (s.core c).s ∧ (t.core c).bench = (s.core c).bench ∧ (t.core c).pc = (s.core c).pc ∧ t.mem = s.mem) := by
  let f : Part → Part := fun q => { q with spareWanted := none }
  have he : exec (.coreSpare c) s = .next ((((s.spareCore c).modPart p f).goOn p).raise p 0x0013 (s.ctxOf p) 0) := by
    show execCoreSpare c s = _
    rw [execCoreSpare, hp]
    exact whenever_of_alive ha (by rw [hw, hr, decide_eq_true rfl]; rfl) _
  have hspares := s.spares_spareCore c
  have hcore := s.spareCore_core c
  have hmem : (s.spareCore c).mem = s.mem := rfl
  have hpart : (s.spareCore c).part p = s.part p := rfl
  have hlist : (s.spareCore c).coreList p = s.coreList p := rfl
  generalize s.spareCore c = t at he hspares hcore hmem hpart hlist
  obtain ⟨hwork, hstop⟩ := (t.modPart p f).goOn_core (p := p) (c := c) (by
    rw [show (t.modPart p f).coreList p = s.coreList p from hlist]
    exact State.mem_coreList hp)
  obtain ⟨cs, hrest⟩ := State.foldl_modCore_rest Core.goesOn ((t.modPart p f).coreList p) (t.modPart p f)
  rw [← State.goOn_eq] at hrest
  have hparts : ((t.modPart p f).goOn p).part p = f (s.part p) := by
    rw [hrest]
    exact (State.part_modPart_self t p f).trans (congrArg f hpart)
  have hregs : ((t.modPart p f).goOn p).regs = t.regs := by rw [hrest]; rfl
  have hmem' : ((t.modPart p f).goOn p).mem = s.mem := by rw [hrest]; exact hmem
  rw [show (t.modPart p f).core c = (s.core c).spared from hcore] at hwork
  simp only [Core.work, Prod.mk.injEq] at hwork
  generalize (t.modPart p f).goOn p = u at he hwork hstop hparts hregs hmem'
  obtain ⟨hs, hbench, hpc, hcorr⟩ := hwork
  have hraise : (u.raise p 0x0013 (s.ctxOf p) 0).part p = { u.part p with events := (u.part p).events + 1 } :=
    (State.part_raise ..).trans (if_pos rfl)
  have hcores : (u.raise p 0x0013 (s.ctxOf p) 0).core c = u.core c := State.core_congr (State.raise_cores ..) c
  have hreg : (u.raise p 0x0013 (s.ctxOf p) 0).regs = t.regs := (State.raise_regs ..).trans hregs
  have hmem'' := (State.raise_mem u p 0x0013 (s.ctxOf p) 0).trans hmem'
  generalize u.raise p 0x0013 (s.ctxOf p) 0 = r at he hraise hcores hreg hmem''
  rw [hparts] at hraise
  have hsp : r.spares c = t.spares c := State.spares_congr (by rw [State.reg, State.reg, hreg]) c
  refine completes_of_eq he ⟨?_, hsp.trans hspares, ?_, ?_, ?_, ?_, ?_, ?_, hmem''⟩
  · rw [hraise]
  · rw [hcores, hcorr]
    rfl
  · rw [hcores]
    exact hstop
  · rw [hraise]
  · rw [hcores, hs]
    rfl
  · rw [hcores, hbench]
    rfl
  · rw [hcores, hpc]
    rfl

theorem coreHardFault_without_spare (hs : s.spares c = 0) (ht : s.twState = 2) :
    Completes (.coreHardFault c) s (fun t => t.failed = true) := by
  have he : exec (.coreHardFault c) s = .next s.moduleFail := by
    show execCoreHardFault c s = _
    rw [execCoreHardFault, hs, ht]
    exact whenever_of_alive ha rfl _
  exact completes_of_eq he rfl

variable (hs : 0 < s.spares c) (hab : (s.part p).abort = none)
include hs hab

/-- With a spare left, an abort or a rollback of the partition begins. -/
theorem exec_coreHardFault : exec (.coreHardFault c) s = .next
    (if s.protected_ p then s.beginAbort p (.rollback c) else (s.spareCore c).beginAbort p .coreLost) := by
  have h0 : (s.spares c == 0) = false := beq_eq_false_iff_ne.mpr (by omega)
  show execCoreHardFault c s = _
  rw [execCoreHardFault, hp]
  dsimp only
  rw [h0, hab]
  simp only [Bool.false_and, Bool.false_eq_true, if_false, Bool.not_false, Bool.and_true, Option.isSome_none]
  exact whenever_of_alive ha rfl _

variable (hj : (s.part p).joints = []) (hc : s.hostCarts = [])
include hj hc

theorem coreHardFault_unprotected (hn : s.protected_ p = false) :
    Completes (.coreHardFault c) s (fun t =>
      (t.part p).abort = some .coreLost ∧ t.spares c = s.spares c - 1 ∧ t.mem = s.mem) := by
  have he := exec_coreHardFault ha hp hs hab
  have hj' : ((s.spareCore c).part p).joints = [] := hj
  rw [hn, if_neg Bool.false_ne_true, State.beginAbort_eq hj' hc] at he
  refine completes_of_eq he ⟨?_, ?_, rfl⟩
  · rw [State.part_modPart_self]
    rfl
  · have hreg : (((s.spareCore c).setFld (oPT_ABORT p) 1 1 1).modPart p (Part.aborting .coreLost)).reg oMOD_STAT =
        (s.spareCore c).reg oMOD_STAT := (State.reg_setFld _ _ _ _ _ _).trans (if_neg (oPT_ABORT_ne_MOD_STAT p))
    exact (State.spares_congr hreg c).trans (s.spares_spareCore c)

theorem coreHardFault_protected (hn : s.protected_ p = true) :
    Completes (.coreHardFault c) s (fun t =>
      (t.part p).abort = some (.rollback c) ∧ t.spares c = s.spares c ∧
      (t.core c).s = (s.core c).s ∧ (t.core c).bench = (s.core c).bench ∧ (t.core c).pc = (s.core c).pc ∧ t.mem = s.mem) := by
  have he := exec_coreHardFault ha hp hs hab
  rw [hn, if_pos rfl, State.beginAbort_eq hj hc] at he
  refine completes_of_eq he ⟨?_, ?_, rfl, rfl, rfl, rfl⟩
  · rw [State.part_modPart_self]
    rfl
  · have hreg : ((s.setFld (oPT_ABORT p) 1 1 1).modPart p (Part.aborting (.rollback c))).reg oMOD_STAT = s.reg oMOD_STAT :=
      (State.reg_setFld _ _ _ _ _ _).trans (if_neg (oPT_ABORT_ne_MOD_STAT p))
    exact State.spares_congr hreg c

end

/-- Settles O56: corrected faults, the sparing, and the hard fault with and without a spare. -/
theorem coresAreSpared : Obligations.coresAreSpared := by
  unfold Obligations.coresAreSpared
  intro s c p ha hp k same
  exact ⟨coreFaultCorrected_counts ha hp, coreFaultCorrected_asks ha hp, coreSpare_spares ha hp, coreHardFault_without_spare ha hp,
    fun hs hab hj hc => ⟨coreHardFault_unprotected ha hp hs hab hj hc, coreHardFault_protected ha hp hs hab hj hc⟩⟩

end Sys2Proof.Machine
end

section
/-! PROOFS. Pairing of twins, beats, declarations and the failure of a module (R309 to R311, R318 to R320, R329, R331). -/

namespace Sys2Proof.Machine

theorem State.twState_congr {s t : State} (h : t.reg oTW_STAT = s.reg oTW_STAT) : t.twState = s.twState := State.fld_of_reg h 2 0

theorem State.reg_congr {s t : State} (h : t.regs = s.regs) (o : Nat) : t.reg o = s.reg o := by
  rw [State.reg, State.reg, h]

theorem State.twState_setFld (s : State) {v : Nat} (h : v < 8) : (s.setFld oTW_STAT 2 0 v).twState = v :=
  (State.fld_setFld_self _ _ _ _ _ (by decide)).trans (Nat.mod_eq_of_lt h)

theorem State.logTwin_reg {o : Nat} (h : o ≠ oMEL_PTR) (s : State) (code fab : Nat) : (s.logTwin code fab).reg o = s.reg o :=
  State.logModule_reg _ _ h

/-! ### EN of TW_CTL (R309 to R311) -/

/-- The fields of TW_CTL that a write may not change: EN where a rule refuses it, the partner while protection is on. -/
def State.twKept (s : State) (bad : Bool) (f : Field) : Bool := (f.lo == 0 && bad) || (f.lo == 4 && s.twOn)

/-- TW_CTL written whole. -/
def State.twWritten (s : State) (v : Word) (bad : Bool) : State :=
  s.wordWrite 0 oTW_CTL oTW_CTL (fieldsAt oTW_CTL) .full v (s.twKept bad)

theorem State.twWritten_facts (s : State) (v : Word) (bad : Bool) :
    (s.twWritten v bad).twOn = (if bad = true then s.twOn else v.getLsbD 0) ∧
      (s.twOn = false → (s.twWritten v bad).fld oTW_CTL 15 4 = getBits v 15 4) ∧
      (s.twWritten v bad).twState = s.twState ∧ (s.twWritten v bad).mem = s.mem := by
  have hrw : ∀ f ∈ [rw 0 0, rw 15 4], f.accepted (s.twKept bad) = true → f.access = .rw := by
    intro f hf _
    simp only [List.mem_cons, List.not_mem_nil, or_false] at hf
    rcases hf with rfl | rfl <;> rfl
  refine ⟨?_, fun hoff => ?_, ?_, State.wordWrite_mem ..⟩
  · rw [State.twOn, State.bit_eq_getLsbD, State.twWritten, State.wordWrite_reg_self, fieldsAt_TW_CTL,
      mergeWrite_getLsbD hrw _ _ (by decide), State.twOn, State.bit_eq_getLsbD]
    have hheld : heldBy [rw 0 0, rw 15 4] (s.twKept bad) 0 = !bad := by
      cases bad <;> simp [heldBy, State.twKept, Field.accepted, Field.writable, rw]
    rw [hheld]
    cases bad <;> rfl
  · rw [State.fld, State.twWritten, State.wordWrite_reg_self, fieldsAt_TW_CTL]
    refine getBits_mergeWrite_held hrw _ _ (by decide) fun i hl hh => ?_
    simp [heldBy, State.twKept, hoff, Field.accepted, Field.writable, rw, hl, hh]
  · exact State.twState_congr (State.wordWrite_reg_other (s := s) (fn := 0) (l := oTW_CTL) (fs := fieldsAt oTW_CTL) (a := .full)
      (v := v) (no := s.twKept bad) (by decide) (by decide))

section
variable {s : State} {v : Word} (ha : s.alive = true) (hc : s.power.configReady = true) (hr : s.ready = true)
include ha hc hr

theorem exec_twCtlWrite_full : exec (.twCtlWrite 0 .full v) s = .next
    ((let bad := s.twEnRefused (v.getLsbD 0)
      let t := s.twWritten v bad
      if bad then t
      else
        let u : State := { t with twin := { t.twin with wrongLogged := false, heard := s.twOn && t.twin.heard } }
        if s.twOn && !t.twOn then u.setFld oTW_STAT 2 0 0 else u).countWrite 0) := by
  show execTwCtlWrite 0 .full v s = _
  rw [execTwCtlWrite, bar0Write_pf0 ha hc hr]
  rfl

theorem twCtlWrite_enables (hoff : s.twOn = false) (hv : v.getLsbD 0 = true) (ho : s.outLen ≤ 57344) (hi : s.inLen ≤ 57344) :
    Completes (.twCtlWrite 0 .full v) s (fun t =>
      t.twOn = true ∧ t.fld oTW_CTL 15 4 = getBits v 15 4 ∧ t.twState = s.twState ∧ t.mem = s.mem) := by
  have hbad : s.twEnRefused (v.getLsbD 0) = false := by
    rw [State.twEnRefused, hv, if_pos rfl, decide_eq_false (by omega), decide_eq_false (by omega)]
    rfl
  have he := exec_twCtlWrite_full (v := v) ha hc hr
  rw [hbad] at he
  obtain ⟨hon, hpart, hst, hmem⟩ := s.twWritten_facts v false
  rw [if_neg Bool.false_ne_true, hv] at hon
  have hpart := hpart hoff
  dsimp only at he
  generalize s.twWritten v false = t at he hon hpart hst hmem
  rw [if_neg Bool.false_ne_true, hoff, Bool.false_and, if_neg Bool.false_ne_true] at he
  exact completes_of_eq he ⟨hon, hpart, hst, hmem⟩

theorem twCtlWrite_kept (hon : s.twOn = true) (hv : v.getLsbD 0 = false) (hp : s.paired = true) :
    Completes (.twCtlWrite 0 .full v) s (fun t => t.twOn = true ∧ t.twState = s.twState ∧ t.mem = s.mem) := by
  have hbad : s.twEnRefused (v.getLsbD 0) = true := by
    rw [State.twEnRefused, hv, if_neg Bool.false_ne_true, hon, hp]
    rfl
  have he := exec_twCtlWrite_full (v := v) ha hc hr
  rw [hbad] at he
  obtain ⟨hon', -, hst, hmem⟩ := s.twWritten_facts v true
  rw [if_pos rfl, hon] at hon'
  dsimp only at he
  rw [if_pos rfl] at he
  exact completes_of_eq he ⟨hon', hst, hmem⟩

theorem twCtlWrite_disables (hon : s.twOn = true) (hv : v.getLsbD 0 = false) (hp : s.paired = false) :
    Completes (.twCtlWrite 0 .full v) s (fun t => t.twOn = false ∧ t.twState = 0 ∧ t.mem = s.mem) := by
  have hbad : s.twEnRefused (v.getLsbD 0) = false := by
    rw [State.twEnRefused, hv, if_neg Bool.false_ne_true, hp, Bool.and_false]
  have he := exec_twCtlWrite_full (v := v) ha hc hr
  rw [hbad] at he
  obtain ⟨hon', -, -, hmem⟩ := s.twWritten_facts v false
  rw [if_neg Bool.false_ne_true, hv] at hon'
  dsimp only at he
  generalize s.twWritten v false = t at he hon' hmem
  rw [if_neg Bool.false_ne_true, hon, hon', Bool.true_and, Bool.not_false, if_pos rfl] at he
  refine completes_of_eq he ⟨?_, State.twState_setFld _ (by decide), hmem⟩
  have hne : oTW_CTL ≠ oTW_STAT := by decide
  exact (congrArg (· == 1) (State.fld_setFld_other _ _ _ _ _ _ _ _ hne)).trans hon'

end

/-! ### Hellos (R329) -/

theorem State.startSync_facts (s : State) :
    s.startSync.twState = 1 ∧ s.startSync.twin.heard = true ∧ (s.twState = 4 → s.startSync.twin.resync = s.outCopies) ∧
      (s.twState = 3 → s.startSync.twin.resync = s.outCopies ++ inCopies) ∧ s.startSync.mem = s.mem ∧
      ∀ i, 4 ≤ i → i < 32 → s.startSync.bit oTW_STAT i = s.bit oTW_STAT i := by
  let copies := if s.twState = 3 then s.outCopies ++ inCopies
    else if s.twState = 4 then s.outCopies
    else if s.fresh.1.getLsbD 0 then s.outCopies else []
  let u : State := { s.fresh.2.setFld oTW_STAT 2 0 1 with twin := { s.fresh.2.twin with resync := copies, heard := true } }
  have hst : u.twState = 1 := s.fresh.2.twState_setFld (by decide)
  have hbits : ∀ i, 4 ≤ i → i < 32 → u.bit oTW_STAT i = s.bit oTW_STAT i := fun i h4 h32 =>
    congrArg (· == 1) (State.fld_setFld_apart s.fresh.2 oTW_STAT 2 0 1 i i (by omega) (by omega))
  have hsync : s.startSync = u.syncLeft := rfl
  have htwin : u.syncLeft.twin = u.twin := u.syncLeft_twin
  have hmem : u.syncLeft.mem = s.mem := u.syncLeft_mem
  have hkept : ∀ hi lo, hi < 32 → u.syncLeft.fld oTW_STAT hi lo = u.fld oTW_STAT hi lo := fun hi lo h =>
    State.fld_setFld_apart _ _ _ _ _ _ _ (by omega) (by omega)
  rw [hsync]
  refine ⟨(hkept 2 0 (by decide)).trans hst, ?_, fun h4 => ?_, fun h3 => ?_, hmem, fun i h4 h32 => ?_⟩
  · rw [htwin]
  · rw [htwin]
    simp only [u, copies, h4]
    rfl
  · rw [htwin]
    exact if_pos h3
  · exact (congrArg (· == 1) (hkept i i h32)).trans (hbits i h4 h32)

section
variable {s : State} (ha : s.alive = true) (hon : s.twOn = true) (hf : s.fabricOn = true) (l : Fin 2) {sender partner : BitVec 12}
include ha hon hf

theorem exec_hello : exec (.hello l sender partner) s = .next
    (if sender.toNat ≠ s.fld oTW_CTL 15 4 then
       (if s.twin.wrongLogged then s
        else ({ s with twin := { s.twin with wrongLogged := true } } : State).logTwin 1 sender.toNat)
     else if partner.toNat = s.fab ∧ !s.paired then s.startSync
     else s) := whenever_of_alive ha (by rw [hon, hf]; rfl) _

theorem hello_stranger (h : sender.toNat ≠ s.fld oTW_CTL 15 4) :
    Completes (.hello l sender partner) s (fun t =>
      t.twin.wrongLogged = true ∧ t.twState = s.twState ∧ t.mem = s.mem ∧ (s.twin.wrongLogged = true → t = s)) := by
  have he := exec_hello (sender := sender) (partner := partner) ha hon hf l
  rw [if_pos h] at he
  by_cases hw : s.twin.wrongLogged = true
  · rw [if_pos hw] at he
    exact completes_of_eq he ⟨hw, rfl, rfl, fun _ => rfl⟩
  · rw [if_neg hw] at he
    refine completes_of_eq he ⟨?_, State.twState_congr (State.logTwin_reg (by decide) _ _ _), State.logTwin_mem _ _ _, fun h => absurd h hw⟩
    rw [State.logTwin_twin]

theorem hello_partner (h : sender.toNat = s.fld oTW_CTL 15 4) (hp : partner.toNat = s.fab) (hn : s.paired = false) :
    Completes (.hello l sender partner) s (fun t =>
      t.twState = 1 ∧ t.twin.heard = true ∧ (s.twState = 4 → t.twin.resync = s.outCopies) ∧
      (s.twState = 3 → t.twin.resync = s.outCopies ++ inCopies) ∧ t.mem = s.mem) := by
  have he := exec_hello (sender := sender) (partner := partner) ha hon hf l
  rw [if_neg (not_not_intro h), if_pos ⟨hp, by rw [hn]; rfl⟩] at he
  obtain ⟨h1, h2, h3, h4, h5, -⟩ := s.startSync_facts
  exact completes_of_eq he ⟨h1, h2, h3, h4, h5⟩

theorem hello_other (h : sender.toNat = s.fld oTW_CTL 15 4) (hp : partner.toNat ≠ s.fab ∨ s.paired = true) :
    exec (.hello l sender partner) s = .next s := by
  rw [exec_hello ha hon hf l, if_neg (not_not_intro h), if_neg]
  rintro ⟨h1, h2⟩
  rcases hp with hp | hp
  · exact hp h1
  · rw [hp] at h2
    cases h2

end

/-! ### The end of the copy (R329) -/

/-- A partition mirrors. -/
def Part.mirrors (q : Part) : Part := { q with mirroring := true }

theorem State.foldl_mirrors_part (ps : List PartId) (s : State) (p : PartId) :
    ((ps.foldl (fun t p => t.modPart p Part.mirrors) s).part p).mirroring = (decide (p ∈ ps) || (s.part p).mirroring) := by
  induction ps generalizing s with
  | nil => rfl
  | cons q ps ih =>
    rw [List.foldl_cons, ih, State.part_modPart]
    by_cases hq : p = q
    · simp [hq, Part.mirrors]
    · simp [hq]

theorem State.foldl_modPart_rest (f : Part → Part) (ps : List PartId) (s : State) :
    ∃ xs, ps.foldl (fun t p => t.modPart p f) s = { s with parts := xs } := by
  induction ps generalizing s with
  | nil => exact ⟨s.parts, rfl⟩
  | cons p ps ih => exact ih (s.modPart p f)

/-- Events leave what a partition mirrors. -/
theorem State.mirroring_raise (s : State) (p q : PartId) (cause ctx ring : Nat) :
    ((s.raise p cause ctx ring).part q).mirroring = (s.part q).mirroring := by
  rw [State.part_raise]
  split
  next h => rw [h]
  next => rfl

theorem State.mirroring_raiseTwin (s : State) (cause : Nat) (q : PartId) :
    ((s.raiseTwin cause).part q).mirroring = (s.part q).mirroring := by
  unfold State.raiseTwin
  generalize allParts.filter _ = ps
  induction ps generalizing s with
  | nil => rfl
  | cons p ps ih => rw [List.foldl_cons, ih, State.mirroring_raise]

/-- The partitions that mirror once the copy has ended. -/
def State.mirrored (s : State) : State :=
  (allParts.filter s.atBoundary).foldl (fun t p => t.modPart p Part.mirrors) s

theorem State.mirrored_part (s : State) (p : PartId) :
    (s.mirrored.part p).mirroring = (s.atBoundary p || (s.part p).mirroring) := by
  have hmem : p ∈ allParts := List.mem_finRange p
  rw [State.mirrored, State.foldl_mirrors_part]
  congr 1
  simp [hmem]

section
variable {s : State} (ha : s.alive = true) (h1 : s.twState = 1)
include ha h1

theorem exec_resyncDone (hs : s.twin.resync = []) : exec .resyncDone s = .next
    (if allParts.all (fun p => !s.protected_ p || (s.mirrored.part p).mirroring) then s.mirrored.enterPaired else s.mirrored) := by
  have hp : s.paired = true := by rw [State.paired, h1]; rfl
  have he : exec .resyncDone s = .next
      (if s.twState = 1 ∧ allParts.all (fun p => !s.protected_ p || (s.mirrored.part p).mirroring) then s.mirrored.enterPaired
       else s.mirrored) := whenever_of_alive ha (by rw [hp, hs]; rfl) _
  rw [he]
  congr 1
  exact if_congr (and_iff_right h1) rfl rfl

omit h1 in
theorem resyncDone_copying (hs : s.twin.resync ≠ []) : exec .resyncDone s = .next s := by
  have hb : (s.paired && s.twin.resync.isEmpty) = false := by
    cases hr : s.twin.resync with
    | nil => exact absurd hr hs
    | cons x xs => exact Bool.and_false _
  show execResyncDone s = _
  rw [execResyncDone, hb]
  rfl

theorem resyncDone_pairs (hb : ∀ p, s.atBoundary p = true) (h3 : s.bit oTW_STAT 3 = false) (hs : s.twin.resync = []) :
    Completes .resyncDone s (fun t => t.twState = 2 ∧ (∀ p, (t.part p).mirroring = true) ∧ t.mem = s.mem) := by
  have he := exec_resyncDone ha h1 hs
  have hmir : ∀ p, (s.mirrored.part p).mirroring = true := fun p => by rw [s.mirrored_part, hb]; rfl
  have hall : allParts.all (fun p => !s.protected_ p || (s.mirrored.part p).mirroring) = true := by
    rw [List.all_eq_true]
    intro p _
    rw [hmir, Bool.or_true]
  obtain ⟨xs, hrest⟩ := State.foldl_modPart_rest Part.mirrors (allParts.filter s.atBoundary) s
  have hrest : s.mirrored = { s with parts := xs } := hrest
  have h3' : s.mirrored.bit oTW_STAT 3 = false := by rw [hrest]; exact h3
  have hmem : s.mirrored.mem = s.mem := by rw [hrest]
  rw [if_pos hall] at he
  generalize s.mirrored = t at he hmir h3' hmem
  have hpaired : t.enterPaired = (t.setFld oTW_STAT 2 0 2).raiseTwin 0x0012 := by
    rw [State.enterPaired, h3', if_neg Bool.false_ne_true]
  rw [hpaired] at he
  refine completes_of_eq he ⟨?_, fun p => ?_, (State.raiseTwin_mem _ _).trans hmem⟩
  · exact (State.twState_congr (State.reg_congr (State.raiseTwin_regs _ _) _)).trans (t.twState_setFld (by decide))
  · rw [State.mirroring_raiseTwin]
    exact hmir p

theorem resyncDone_waits (hs : s.twin.resync = [])
    (hw : ∃ p, s.protected_ p = true ∧ s.atBoundary p = false ∧ (s.part p).mirroring = false) :
    Completes .resyncDone s (fun t =>
      t.twState = 1 ∧ (∀ p, s.atBoundary p = true → (t.part p).mirroring = true) ∧ t.mem = s.mem) := by
  have he := exec_resyncDone ha h1 hs
  obtain ⟨p, hprot, hnb, hnm⟩ := hw
  have hnone : ¬ allParts.all (fun p => !s.protected_ p || (s.mirrored.part p).mirroring) = true := by
    intro hall
    have hp := List.all_eq_true.mp hall p (List.mem_finRange p)
    rw [s.mirrored_part, hprot, hnb, hnm] at hp
    cases hp
  obtain ⟨xs, hrest⟩ := State.foldl_modPart_rest Part.mirrors (allParts.filter s.atBoundary) s
  have hrest : s.mirrored = { s with parts := xs } := hrest
  rw [if_neg hnone] at he
  refine completes_of_eq he ⟨?_, fun q hq => ?_, by rw [hrest]⟩
  · rw [hrest]
    exact h1
  · rw [s.mirrored_part, hq]
    rfl

end

/-! ### Image notices (R314) -/

/-- The partition that adopts the work of one of the partner's. -/
def State.adopter (s : State) (p : PartId) : PartId := ⟨s.fld (oTW_ADOPT p.val) 5 1 % 32, Nat.mod_lt _ (by decide)⟩

section
variable {s : State} (ha : s.alive = true) (hon : s.twOn = true) {p : PartId} (had : s.bit (oTW_ADOPT p.val) 0 = true)
include ha hon had

theorem exec_twinImageNotice (va : BitVec 52) (crc : BitVec 32) : exec (.twinImageNotice p va crc) s = .next
    (match (s.contexts (s.adopter p)).filter (fun c => s.cfg (oPT_CTL (s.adopter p)) 1 1 == 1 ||
        (match s.ctxSlot c with | some (_, k) => s.cfg (oPT_CTX (s.adopter p) k) 10 10 == 1 | none => false)) with
     | c :: _ =>
       { s with
         nextId := s.nextId + 1
         loadQueue := queueLoad { part := s.adopter p, ctx := c, key := { va := va, crc := crc }, ring := none, order := s.nextId }
           s.loadQueue }
     | [] => s.logAny (some (s.adopter p)) { type := 0x02, d2 := va.toNat }) := by
  show execTwinImageNotice p va crc s = _
  rw [execTwinImageNotice]
  dsimp only
  rw [had, if_pos rfl]
  refine (whenever_of_alive ha hon _).trans (congrArg _ ?_)
  unfold State.adopter
  generalize List.filter _ (s.contexts _) = ctxs
  cases ctxs <;> rfl

theorem twinImageNotice_queues {va : BitVec 52} {crc : BitVec 32} {c : BitVec 8} {rest : List (BitVec 8)}
    (hctl : s.cfg (oPT_CTL (s.adopter p)) 1 1 = 1) (hc : s.contexts (s.adopter p) = c :: rest) :
    Completes (.twinImageNotice p va crc) s (fun t =>
      t = { s with
        nextId := s.nextId + 1
        loadQueue := queueLoad
          { part := s.adopter p, ctx := c, key := { va := va, crc := crc }, ring := none, order := s.nextId } s.loadQueue }) := by
  refine completes_of_eq (exec_twinImageNotice ha hon had va crc) ?_
  rw [hc, List.filter_cons_of_pos (by rw [hctl]; rfl)]

theorem twinImageNotice_logs {va : BitVec 52} {crc : BitVec 32} (hc : s.contexts (s.adopter p) = []) :
    exec (.twinImageNotice p va crc) s = .next (s.logAny (some (s.adopter p)) { type := 0x02, d2 := va.toNat }) := by
  rw [exec_twinImageNotice ha hon had va crc, hc, List.filter_nil]

end

/-! ### Beats (R318) -/

theorem State.mem_hostRead (s : State) (fn : FnId) (addr len : Nat) (q : HostPurpose) {x : HostRead} (hx : x ∈ s.hostReads) :
    x ∈ (s.hostRead fn addr len q).2.hostReads := by
  let r : HostRead := { id := s.nextId, addr := addr, len := len, purpose := q, fn := fn, poll := 0, issued := decide (0 < s.readRoom) }
  let t : State := { s with nextId := s.nextId + 1, hostReads := s.hostReads ++ [r] }
  have hread : (s.hostRead fn addr len q).2 =
      if decide (0 < s.readRoom) then t.toHost (.hostRead fn s.nextId addr len) else t := rfl
  rw [hread]
  split
  · rw [State.toHost_hostReads]
    exact List.mem_append_left _ hx
  · exact List.mem_append_left _ hx

theorem State.hostRead_asked (s : State) (fn : FnId) (addr len : Nat) (q : HostPurpose) :
    ∃ x ∈ (s.hostRead fn addr len q).2.hostReads, x.purpose = q := by
  obtain ⟨o, h, rs, hrest, hrs⟩ := s.hostRead_rest fn addr len q
  have hmem : (s.nextId, addr, len, q, fn) ∈ rs.map HostRead.asked := by
    rw [hrs]
    exact List.mem_append_right _ List.mem_cons_self
  obtain ⟨x, hx, hxq⟩ := List.mem_map.mp hmem
  refine ⟨x, by rw [hrest]; exact hx, ?_⟩
  simp only [HostRead.asked, Prod.mk.injEq] at hxq
  exact hxq.2.2.2.1

/-- The bit of a link on which beats arrive is marked. -/
theorem State.beatBit (s : State) (l : Fin 2) :
    (s.setFld oTW_STAT (4 + l.val) (4 + l.val) 1).bit oTW_STAT (4 + l.val) = true ∧
      (s.setFld oTW_STAT (4 + l.val) (4 + l.val) 1).twState = s.twState := by
  have hl := l.isLt
  constructor
  · rw [State.bit, State.fld_setFld_self _ _ _ _ _ (by omega), Nat.add_sub_cancel_left]
    rfl
  · exact State.fld_setFld_apart _ _ _ _ _ _ _ (by decide) (.inl (by omega))

section
variable {s : State} (ha : s.alive = true) (hon : s.twOn = true)
include ha hon

theorem helloSend_sends :
    Completes .helloSend s (fun t => t.regs = s.regs ∧ t.mem = s.mem ∧ t.twin = s.twin ∧ t.cores = s.cores) := by
  have he : exec .helloSend s = .next (s.freeBody.2.sendTwinAll 0xC0 s.freeBody.1) := whenever_of_alive ha hon _
  exact completes_of_eq he ⟨(State.sendTwinAll_regs ..).trans (State.freeBody_regs s), (State.sendTwinAll_mem ..).trans (State.freeBody_mem s),
    (State.sendTwinAll_twin ..).trans (State.freeBody_twin s), (State.sendTwinAll_cores ..).trans (State.freeBody_cores s)⟩

theorem beatSend_beats :
    Completes .beatSend s (fun t =>
      t.twin.ownBeat = s.twin.ownBeat + 1 ∧ (∃ x ∈ t.hostReads, x.purpose = .ownBeat) ∧
      (∃ x ∈ t.hostReads, x.purpose = .beatLine) ∧ t.regs = s.regs ∧ t.mem = s.mem) := by
  let s1 : State := { s.freeBody.2 with twin := { s.freeBody.2.twin with ownBeat := s.twin.ownBeat + 1 } }
  let own := 64 * s.fld oTW_BEAT 63 6
  let s2 := (s1.sendTwinAll 0xC1 s.freeBody.1).toHost (.hostWrite 0 own (s.freeBody.2.beatLine (s.twin.ownBeat + 1)) false)
  have he : exec .beatSend s = .next
      ((s2.hostRead 0 own 0 .ownBeat).2.hostRead 0 (64 * s.fld oTW_PBEAT 63 6) 64 .beatLine).2 := whenever_of_alive ha hon _
  have htwin : s2.twin.ownBeat = s.twin.ownBeat + 1 := by
    rw [State.toHost_twin, State.sendTwinAll_twin]
  have hregs : s2.regs = s.regs := by
    rw [State.toHost_regs, State.sendTwinAll_regs]
    exact State.freeBody_regs s
  have hmem : s2.mem = s.mem := by
    rw [State.toHost_mem, State.sendTwinAll_mem]
    exact State.freeBody_mem s
  generalize s2 = t at he htwin hregs hmem
  obtain ⟨x, hx, hxq⟩ := t.hostRead_asked 0 own 0 .ownBeat
  refine completes_of_eq he ⟨?_, ⟨x, State.mem_hostRead _ _ _ _ _ hx, hxq⟩, State.hostRead_asked _ _ _ _ _, ?_, ?_⟩
  · rw [State.hostRead_twin, State.hostRead_twin, htwin]
  · rw [State.hostRead_regs, State.hostRead_regs, hregs]
  · rw [State.hostRead_mem, State.hostRead_mem, hmem]

variable (l : Fin 2)

theorem beat_marks (h4 : s.twState ≠ 4) :
    Completes (.beat l) s (fun t =>
      t.bit oTW_STAT (4 + l.val) = true ∧ t.twState = s.twState ∧ t = { s with regs := t.regs }) := by
  have he : exec (.beat l) s = .next (if s.twState = 4 then (s.setFld oTW_STAT (4 + l.val) (4 + l.val) 1).startSync
      else s.setFld oTW_STAT (4 + l.val) (4 + l.val) 1) := whenever_of_alive ha hon _
  rw [if_neg h4] at he
  obtain ⟨hb, hst⟩ := s.beatBit l
  exact completes_of_eq he ⟨hb, hst, rfl⟩

theorem beat_synchronises (h4 : s.twState = 4) :
    Completes (.beat l) s (fun t => t.twState = 1 ∧ t.bit oTW_STAT (4 + l.val) = true) := by
  have he : exec (.beat l) s = .next (if s.twState = 4 then (s.setFld oTW_STAT (4 + l.val) (4 + l.val) 1).startSync
      else s.setFld oTW_STAT (4 + l.val) (4 + l.val) 1) := whenever_of_alive ha hon _
  rw [if_pos h4] at he
  obtain ⟨hb, -⟩ := s.beatBit l
  obtain ⟨hst, -, -, -, -, hbits⟩ := (s.setFld oTW_STAT (4 + l.val) (4 + l.val) 1).startSync_facts
  exact completes_of_eq he ⟨hst, (hbits _ (by omega) (by omega)).trans hb⟩

end

theorem partnerBeatRead_notes {s : State} (ha : s.alive = true) {n : Word} {x : HostRead}
    (hx : s.hostReads.find? (fun r => decide (r.purpose = .beatLine) && r.issued) = some x) :
    Completes (.partnerBeatRead n) s (fun t =>
      t.twin.partnerBeat = n ∧ t.twin.still = (if n = s.twin.partnerBeat then s.twin.still + 1 else 0) ∧
      t.hostReads.map HostRead.id = (s.hostReads.erase x).map HostRead.id ∧ t.mem = s.mem) := by
  let u : State := ({ s with hostReads := s.hostReads.erase x } : State).gotBeat n
  have he : exec (.partnerBeatRead n) s = .next u.issueReads := by
    show execPartnerBeatRead n s = _
    rw [execPartnerBeatRead, hx]
    exact whenever_of_alive ha rfl _
  obtain ⟨o, h, rs, hrest, hids⟩ := u.issueReads_rest
  rw [hrest] at he
  exact completes_of_eq he ⟨rfl, rfl, hids, rfl⟩

/-! ### Declarations and the loss of the partner (R319 to R321) -/

/-- A partition that mirrors no longer. -/
def Part.unmirrored (q : Part) : Part := { q with mirroring := false, points := [], unacked := [] }

theorem State.foldl_unmirrored (ps : List PartId) (s : State) {p : PartId} (hp : p ∈ ps ∨ (s.part p).mirroring = false) :
    ((ps.foldl (fun t p => t.modPart p Part.unmirrored) s).part p).mirroring = false := by
  induction ps generalizing s with
  | nil => exact hp.resolve_left List.not_mem_nil
  | cons q ps ih =>
    refine ih (s.modPart q Part.unmirrored) ?_
    rw [State.part_modPart]
    by_cases hq : p = q
    · right
      rw [if_pos hq]
      rfl
    · rw [if_neg hq]
      exact hp.imp_left fun h => (List.mem_cons.mp h).resolve_left hq

theorem oTW_STAT_ne_RT_STAT (r : RingId) : oTW_STAT ≠ oRT_STAT r.val := by
  have := r.isLt
  simp only [oTW_STAT, oRT_STAT, oRT]
  omega

/-- Retiring what waited for the twin changes its state and the partitions in nothing. -/
theorem State.retireAll_facts (s : State) : s.retireAll.twState = s.twState ∧ s.retireAll.parts = s.parts := by
  refine ⟨?_, State.retireAll_parts s⟩
  unfold State.retireAll
  generalize allParts.filter _ = ps
  induction ps generalizing s with
  | nil => rfl
  | cons p ps ih =>
    rw [List.foldl_cons, ih]
    exact State.retireRings_fld s p _ oTW_STAT_ne_RT_STAT 2 0

/-- The advances that waited for the twin are answered. -/
def State.answerTors (s : State) (ws : List (PartId × List Byte)) : State :=
  ws.foldl (fun t w => t.respondTor w.2 0 (t.tally (topTally w.2)).value) s

theorem State.answerTors_facts (s : State) (ws : List (PartId × List Byte)) :
    (s.answerTors ws).regs = s.regs ∧ (s.answerTors ws).parts = s.parts ∧ (s.answerTors ws).mem = s.mem :=
  ⟨regs_foldl _ (fun t w => State.respondTor_regs ..) _ _, parts_foldl _ (fun t w => State.respondTor_parts ..) _ _,
    mem_foldl _ (fun t w => State.respondTor_mem ..) _ _⟩

/-- A pair that takes a state without mirroring, its partitions first. -/
def State.unmirrored (s : State) (st : Nat) : State :=
  allParts.foldl (fun t p => t.modPart p Part.unmirrored) (s.setFld oTW_STAT 2 0 st)

/-- No streamed write is outstanding, and nothing is left to copy. -/
def State.unstreamed (s : State) : State :=
  { s with
    fabric := { s.fabric with requests := s.fabric.requests.filter (fun q => match q.unit with
      | .stream _ _ => false
      | .resync => false
      | _ => true) }
    twin := { s.twin with torWaits := [], resync := [] } }

theorem State.stopMirroring_eq (s : State) (st : Nat) :
    s.stopMirroring st =
      (((s.unmirrored st).unstreamed.answerTors (s.unmirrored st).twin.torWaits).setFld oTW_STAT 5 4 0).retireAll := by
  unfold State.stopMirroring State.unmirrored Part.unmirrored
  dsimp only
  generalize allParts.foldl _ (s.setFld oTW_STAT 2 0 st) = t
  rfl

/-- The pair takes a state without mirroring. -/
theorem State.stopMirroring_facts (s : State) {st : Nat} (h : st < 8) :
    (s.stopMirroring st).twState = st ∧ (∀ p, ((s.stopMirroring st).part p).mirroring = false) ∧
      (s.stopMirroring st).mem = s.mem := by
  have hoff : ∀ p, ((s.unmirrored st).part p).mirroring = false := fun p => State.foldl_unmirrored allParts _ (.inl (List.mem_finRange p))
  obtain ⟨xs, hrest⟩ := State.foldl_modPart_rest Part.unmirrored allParts (s.setFld oTW_STAT 2 0 st)
  have hrest : s.unmirrored st = { s.setFld oTW_STAT 2 0 st with parts := xs } := hrest
  have hst : (s.unmirrored st).twState = st := by
    rw [hrest]
    exact s.twState_setFld h
  have hmem : (s.unmirrored st).mem = s.mem := by
    rw [hrest]
    rfl
  rw [s.stopMirroring_eq st]
  generalize s.unmirrored st = s1 at hst hoff hmem
  obtain ⟨h1, h2, h3⟩ := s1.unstreamed.answerTors_facts s1.twin.torWaits
  generalize s1.unstreamed.answerTors s1.twin.torWaits = u at h1 h2 h3
  obtain ⟨hst', hparts⟩ := (u.setFld oTW_STAT 5 4 0).retireAll_facts
  refine ⟨?_, fun p => ?_, ?_⟩
  · rw [hst', ← hst]
    refine (State.fld_setFld_apart _ _ _ _ _ _ _ (by decide) (by decide)).trans ?_
    exact State.fld_congr h1 _ 2 0
  · rw [State.part_congr hparts, show (u.setFld oTW_STAT 5 4 0).part p = u.part p from rfl, State.part_congr h2]
    exact hoff p
  · rw [State.retireAll_mem]
    exact h3.trans hmem

theorem State.declare_facts (s : State) :
    s.declare.twState = 3 ∧ (∀ p, (s.declare.part p).mirroring = false) ∧ s.declare.mem = s.mem := by
  obtain ⟨hst, hoff, hmem⟩ := s.stopMirroring_facts (st := 3) (by decide)
  let t := s.stopMirroring 3
  let s2 := t.freeBody.2.sendTwinAll 0xC2 t.freeBody.1
  let s3 := s2.route none none (mkPacket 0xC2 4 false (s.fld oTW_CTL 15 4) s.fab 0 2 1 t.freeBody.1)
  let u := (s3.incFld oTW_STAT 31 16 1).incFld (oTMM 6) 63 0 1
  have hdecl : s.declare = u.raiseTwin 0x0010 := rfl
  have hregs : s3.regs = t.regs := by
    rw [State.route_regs, State.sendTwinAll_regs, State.freeBody_regs]
  have hparts : s3.parts = t.parts := by
    rw [State.route_parts, State.sendTwinAll_parts, State.freeBody_parts]
  have hust : u.twState = 3 := by
    have hne : oTW_STAT ≠ oTMM 6 := by decide
    refine (State.fld_incFld_other hne _ _ _ _ _ _).trans ?_
    refine (State.fld_setFld_apart _ _ _ _ _ _ _ (by decide) (by decide)).trans ?_
    exact (State.fld_congr hregs _ 2 0).trans hst
  have huoff : ∀ p, (u.part p).mirroring = false := fun p => by
    rw [show u.part p = s3.part p from rfl, State.part_congr hparts]
    exact hoff p
  have humem : u.mem = s.mem := by
    rw [show u.mem = s3.mem from rfl, State.route_mem, State.sendTwinAll_mem, State.freeBody_mem]
    exact hmem
  rw [hdecl]
  refine ⟨(State.fld_congr (State.raiseTwin_regs _ _) _ 2 0).trans hust, fun p => ?_, (State.raiseTwin_mem _ _).trans humem⟩
  rw [State.mirroring_raiseTwin]
  exact huoff p

section
variable {s : State} (ha : s.alive = true) (hp : s.paired = true)
include ha hp

theorem exec_beatTimeout : exec .beatTimeout s = .next
    (if 3 ≤ s.twin.still then s.declare else (s.stopMirroring 4).raiseTwin 0x0011) := whenever_of_alive ha hp _

theorem beatTimeout_declares (h : 3 ≤ s.twin.still) :
    Completes .beatTimeout s (fun t => t.twState = 3 ∧ (∀ p, (t.part p).mirroring = false) ∧ t.mem = s.mem) := by
  have he := exec_beatTimeout ha hp
  rw [if_pos h] at he
  exact completes_of_eq he s.declare_facts

theorem beatTimeout_degrades (h : s.twin.still < 3) :
    Completes .beatTimeout s (fun t => t.twState = 4 ∧ (∀ p, (t.part p).mirroring = false) ∧ t.mem = s.mem) := by
  have he := exec_beatTimeout ha hp
  rw [if_neg (Nat.not_le.mpr h)] at he
  obtain ⟨hst, hoff, hmem⟩ := s.stopMirroring_facts (st := 4) (by decide)
  refine completes_of_eq he ⟨(State.fld_congr (State.raiseTwin_regs _ _) _ 2 0).trans hst, fun p => ?_,
    (State.raiseTwin_mem _ _).trans hmem⟩
  rw [State.mirroring_raiseTwin]
  exact hoff p

theorem fatalNotice_declares :
    Completes .fatalNotice s (fun t => t.twState = 3 ∧ (∀ p, (t.part p).mirroring = false) ∧ t.mem = s.mem) :=
  completes_of_eq (whenever_of_alive ha hp _ : exec .fatalNotice s = _) s.declare_facts

end

/-! ### FAILED (R319, R320) -/

theorem State.enterFailed_facts (s : State) :
    s.enterFailed.failed = true ∧ s.enterFailed.twState = 5 ∧ s.enterFailed.mem = s.mem ∧ s.enterFailed.cores = s.cores :=
  ⟨rfl, (s.inBand 0x04).twState_setFld (by decide), s.enterFailed_mem, s.enterFailed_cores⟩

theorem State.moduleFail_facts (s : State) :
    s.moduleFail.failed = true ∧ s.moduleFail.twState = 5 ∧ s.moduleFail.mem = s.mem ∧ s.moduleFail.cores = s.cores :=
  ⟨rfl, ((s.send .fatalNotice).inBand 0x04).twState_setFld (by decide), s.moduleFail_mem, s.moduleFail_cores⟩

/-- Settles O54: pairing and hellos, the copy's end, image notices, beats, declarations and FAILED. -/
theorem twinsPair : Obligations.twinsPair := by
  unfold Obligations.twinsPair
  refine ⟨fun s ha => ⟨fun v hc hr => ⟨twCtlWrite_enables ha hc hr, twCtlWrite_kept ha hc hr, twCtlWrite_disables ha hc hr⟩,
    fun l a b hon hf => ⟨hello_stranger ha hon hf l, hello_partner ha hon hf l, hello_other ha hon hf l⟩,
    fun h1 hb h3 => ⟨resyncDone_pairs ha h1 hb h3, resyncDone_copying ha⟩, fun h1 => resyncDone_waits ha h1,
    fun p va crc c rest hon had => ?_, fun p va crc hon had => ?_⟩, fun s ha => ?_⟩
  · intro q hctl hc
    exact twinImageNotice_queues ha hon had hctl hc
  · intro q hc
    exact twinImageNotice_logs ha hon had hc
  · intro off
    refine ⟨helloSend_sends ha, beatSend_beats ha, fun l hon => ⟨beat_marks ha hon l, beat_synchronises ha hon l⟩,
      fun n x hx => partnerBeatRead_notes ha hx, beatTimeout_declares ha, beatTimeout_degrades ha, fatalNotice_declares ha,
      fun hp => ?_, ?_, fun h2 => ?_⟩
    · show whenever s.paired s s.declare = _
      rw [hp]
      rfl
    · intro dead
      refine ⟨fun hon hr => ?_, fun a hon haddr hl => ?_, fun c hc => ?_⟩
      · exact completes_of_eq (whenever_of_alive ha (by rw [hon, hr]; rfl) _ : exec .selfFence s = _) s.enterFailed_facts
      · exact completes_of_eq (whenever_of_alive ha (by rw [hon, haddr, hl, beq_self_eq_true]; rfl) _ : exec (.fenceOff a) s = _)
          s.enterFailed_facts
      · have hb : (decide (c ≠ .noSpare) || s.twState == 2) = true := by
          rcases hc with hc | hc
          · rw [decide_eq_true hc]
            rfl
          · rw [hc]
            exact Bool.or_true _
        exact completes_of_eq (whenever_of_alive ha hb _ : exec (.moduleFatal c) s = _) ⟨s.moduleFail_facts, s.moduleFail_notice⟩
    · have hb : (decide (FatalCause.noSpare ≠ .noSpare) || s.twState == 2) = false := by
        rw [beq_eq_false_iff_ne.mpr h2]
        rfl
      show execModuleFatal .noSpare s = _
      rw [execModuleFatal, hb]
      rfl

end Sys2Proof.Machine
end

section
/-! PROOFS. Mirroring, and the takeover of a failed partner (R246, R312, R315, R316, R321 to R323, R348). -/

namespace Sys2Proof.Machine

/-! ### The partner's address (R321, R351) -/

theorem State.Routed.refl (s : State) : s.Routed s := (State.Sent.refl s).routed

theorem State.Routed.trans {s t u : State} (h : s.Routed t) (k : t.Routed u) : s.Routed u := by
  obtain ⟨a, b, c, rfl⟩ := h
  obtain ⟨a', b', c', rfl⟩ := k
  exact ⟨a', b', c ++ c', by rw [← List.append_assoc]⟩

theorem State.routed_foldl {α : Type} {f : State → α → State} (h : ∀ (s : State) (a : α), s.Routed (f s a)) (xs : List α)
    (s : State) : s.Routed (xs.foldl f s) := by
  induction xs generalizing s with
  | nil => exact State.Routed.refl s
  | cons x xs ih => exact (h s x).trans (ih (f s x))

theorem State.routed_resendTwin (s : State) (x : TxPkt) : s.Routed (s.resendTwin x) := by
  unfold State.resendTwin
  split
  · exact State.Routed.refl s
  · exact (s.sent_transmit _ _).routed

theorem State.routed_sendAgain (s : State) (q : PeerReq) (retry : Bool) : s.Routed (s.sendAgain q retry) := by
  unfold State.sendAgain
  dsimp only
  generalize reHead q.bytes false 63 retry = b
  split
  · exact s.routed_resendTwin _
  · exact s.routed_resendTwin _
  · exact s.routed_route _ _ _

theorem State.routed_routeHeld (s : State) : s.Routed s.routeHeld := by
  have hcleared : s.Routed { s with fabric := { s.fabric with held := [] } } := ⟨[], s.links, [], by rw [List.append_nil]⟩
  rw [State.routeHeld]
  exact hcleared.trans (State.routed_foldl (fun t (e : Option LinkId × List Byte) => t.routed_route e.1 none e.2) s.fabric.held _)

/-- Telling the fabric of an address that moved, and sending to it again, only sends. -/
theorem State.routed_moved (s : State) (type x : Nat) : s.Routed (((s.floodAlias type).routeHeld).resendTo x) := by
  have hflood : s.Routed (s.floodAlias type) := (State.sent_foldl (fun t l => t.sent_transmit l _) _ s).routed
  exact (hflood.trans (State.routed_routeHeld _)).trans (State.routed_foldl (fun t q => t.routed_sendAgain q false) _ _)

section
variable {s : State} (ha : s.alive = true) (h3 : s.twState = 3)
include ha h3

theorem adoptFabricAddress_adopts (hb : s.bit oTW_STAT 3 = false) :
    Completes .adoptFabricAddress s (fun t =>
      t.bit oTW_STAT 3 = true ∧ t.twState = 3 ∧ t.fabric.epoch = s.fabric.epoch + 1 ∧ t.mem = s.mem ∧ t.cores = s.cores) := by
  let u : State := { s.setFld oTW_STAT 3 3 1 with fabric := { s.fabric with epoch := s.fabric.epoch + 1 } }
  have he : exec .adoptFabricAddress s = .next (((u.floodAlias 0xC8).routeHeld).resendTo (s.fld oTW_CTL 15 4)) :=
    whenever_of_alive ha (by rw [h3, hb]; rfl) _
  have hbit : u.fld oTW_STAT 3 3 = 1 := State.fld_setFld_self s oTW_STAT 3 3 1 (by decide)
  have hst : u.twState = 3 := (State.fld_setFld_apart s oTW_STAT 3 3 1 2 0 (by decide) (by decide)).trans h3
  obtain ⟨h, k, o, ht⟩ := u.routed_moved 0xC8 (s.fld oTW_CTL 15 4)
  rw [ht] at he
  refine completes_of_eq he ⟨?_, hst, rfl, rfl, rfl⟩
  exact beq_iff_eq.mpr hbit

omit h3 in
theorem adoptFabricAddress_once (hb : s.bit oTW_STAT 3 = true) : exec .adoptFabricAddress s = .next s := by
  show execAdoptFabricAddress s = _
  rw [execAdoptFabricAddress, hb, Bool.not_true, Bool.and_false]
  rfl

end

/-! ### Joints of the partner -/

theorem State.twinJoint_setTwinJoint (s : State) (j i : Nat) (x : TwinJoint) :
    (s.setTwinJoint j x).twinJoint i = if i = j then x else s.twinJoint i := tabGet_tabSet ..

theorem State.twinJoint_congr {s t : State} (h : t.twin = s.twin) (j : Nat) : t.twinJoint j = s.twinJoint j := by
  rw [State.twinJoint, State.twinJoint, h]

/-- No joint of the partner is prepared. -/
def State.Unprepared (s : State) : Prop := ∀ j, (s.twinJoint j).prepared = none

theorem State.unprepared_of_table {s : State} (h : ∀ e ∈ s.twin.joints, e.2.prepared = none) : s.Unprepared := by
  intro j
  rw [State.twinJoint]
  generalize s.twin.joints = m at h
  induction m with
  | nil => rfl
  | cons e m ih =>
    obtain ⟨a, x⟩ := e
    rw [tabGet]
    split_ifs
    · rfl
    · exact h _ List.mem_cons_self
    · exact ih fun e he => h e (List.mem_cons_of_mem _ he)

/-- A joint of the partner that is not prepared is discarded. -/
theorem State.resolveTwinJoint_of_unprepared {s : State} {j : Nat} (h : (s.twinJoint j).prepared = none) :
    s.resolveTwinJoint j = s.setTwinJoint j {} := by
  rw [State.resolveTwinJoint, h]
  rfl

theorem State.resolved_of_unprepared (js : List Nat) {s : State} (h : s.Unprepared) :
    let t := js.foldl State.resolveTwinJoint s
    (∀ j, t.twinJoint j = if j ∈ js then {} else s.twinJoint j) ∧ t = { s with twin := t.twin } := by
  induction js generalizing s with
  | nil => exact ⟨fun j => (if_neg List.not_mem_nil).symm, rfl⟩
  | cons j js ih =>
    have hset : ∀ i, (s.setTwinJoint j {}).twinJoint i = if i = j then {} else s.twinJoint i := fun i => s.twinJoint_setTwinJoint j i {}
    have hun : (s.setTwinJoint j {}).Unprepared := by
      intro i
      rw [hset]
      split
      · rfl
      · exact h i
    intro t
    have ht : t = js.foldl State.resolveTwinJoint (s.setTwinJoint j {}) := by
      rw [← State.resolveTwinJoint_of_unprepared (h j)]
      exact List.foldl_cons ..
    obtain ⟨hj, hrest⟩ := ih hun
    rw [ht]
    refine ⟨fun i => ?_, hrest⟩
    rw [hj, hset]
    by_cases hi : i = j <;> simp [hi]

theorem partnerJointResolve_discards {s : State} (ha : s.alive = true) (h3 : s.twState = 3) (hs : s.stalls = [])
    (h : ∀ e ∈ s.twin.joints, e.2.prepared = none) :
    Completes .partnerJointResolve s (fun t =>
      (∀ e ∈ s.twin.joints, t.twinJoint e.1 = {}) ∧ t.mem = s.mem ∧ t.outbox = s.outbox) := by
  have he : exec .partnerJointResolve s = .next (s.settle ((s.twin.joints.map Prod.fst).foldl State.resolveTwinJoint s)) :=
    whenever_of_alive ha (by rw [h3]; rfl) _
  obtain ⟨hj, hrest⟩ := State.resolved_of_unprepared (s.twin.joints.map Prod.fst) (State.unprepared_of_table h)
  generalize (s.twin.joints.map Prod.fst).foldl State.resolveTwinJoint s = t at he hj hrest
  rw [State.settle_of_no_stalls s (by rw [hrest]; exact hs)] at he
  refine completes_of_eq he ⟨fun e hm => ?_, by rw [hrest], by rw [hrest]⟩
  rw [hj, if_pos (List.mem_map_of_mem hm)]

/-! ### Adoption of rings (R322, R323) -/

theorem State.placeRing_stands (s : State) (r : RingId) (q : BitVec 32) :
    (s.placeRing r q).fetched r = q ∧ (s.placeRing r q).retired r = q ∧ (s.placeRing r q).ring r = s.ring r := by
  let t := (s.setFld (oRT_STAT r) 31 0 q.toNat).setFld (oRT_STAT r) 63 32 q.toNat
  have hplace : s.placeRing r q = t.statusLine r := rfl
  have hregs : (s.placeRing r q).regs = t.regs := by rw [hplace, State.statusLine_regs]
  have hrings : (s.placeRing r q).rings = s.rings := by
    rw [hplace, State.statusLine_rings]
    rfl
  have hlow : t.fld (oRT_STAT r) 31 0 = q.toNat :=
    ((State.fld_setFld_apart _ _ _ _ _ _ _ (by decide) (by decide)).trans (State.fld_setFld_self _ _ _ _ _ (by decide))).trans
      (Nat.mod_eq_of_lt q.isLt)
  have hhigh : t.fld (oRT_STAT r) 63 32 = q.toNat :=
    (State.fld_setFld_self _ _ _ _ _ (by decide)).trans (Nat.mod_eq_of_lt q.isLt)
  refine ⟨?_, ?_, ?_⟩
  · rw [State.fetched, State.fld_congr hregs, hlow, BitVec.ofNat_toNat, BitVec.setWidth_eq]
  · rw [State.retired, State.fld_congr hregs, hhigh, BitVec.ofNat_toNat, BitVec.setWidth_eq]
  · rw [State.ring, State.ring, hrings]

theorem State.ring_modRing_self (s : State) (r : RingId) (f : Ring → Ring) : (s.modRing r f).ring r = f (s.ring r) :=
  tabGet_tabSet_self ..

/-- A ring that the survivor has adopted. -/
def Ring.adoptedAt (q : BitVec 32) (k : Ring) : Ring :=
  { k with
    adopted := true, replayDue := true, replayTo := none, tail := q, readySince := none, owed := false, polls := []
    fetching := false, arrived := [] }

/-- What is known of the partner's ring: the stored record that names it. -/
def State.storedFor (s : State) (r : RingId) : Option StoredRecord :=
  s.twin.records.find? (fun x => (pointOf x.record r).isSome)

/-- The sequence at which a ring is adopted. -/
def State.adoptAt (s : State) (r : RingId) : BitVec 32 :=
  match (s.storedFor r).bind (fun x => pointOf x.record r) with | some q => q | none => s.fetched r

/-- The state in which a ring is adopted: the stored record has been restored. -/
def State.restoredFor (s : State) (p : PartId) (r : RingId) : State :=
  match s.storedFor r with | some x => s.restoreStored p x | none => s

theorem State.adoptRing_eq (s : State) (p : PartId) (r : RingId) :
    s.adoptRing p r = ((s.restoredFor p r).modRing r (Ring.adoptedAt (s.adoptAt r))).placeRing r (s.adoptAt r) := rfl

theorem ringAdoption_places {s : State} (ha : s.alive = true) (h3 : s.twState = 3) {r : RingId} {p : PartId}
    (hp : s.partOfRing r = some p) (hb : s.bit oTW_STAT 3 = true) (had : s.adopts p = true) (hst : s.isStandby p r = true)
    (hn : (s.ring r).adopted = false) (hstalls : (s.adoptRing p r).stalls = []) {q : BitVec 32} (hq : s.adoptAt r = q) :
    Completes (.ringAdoption r) s (fun t =>
      (t.ring r).adopted = true ∧ (t.ring r).tail = q ∧ t.fetched r = q ∧ t.retired r = q) := by
  have he : exec (.ringAdoption r) s = .next (s.settle (s.adoptRing p r)) := by
    show execRingAdoption r s = _
    rw [execRingAdoption, hp]
    exact whenever_of_alive ha (by rw [h3, hb, had, hst, hn]; rfl) _
  rw [State.settle_of_no_stalls s hstalls, State.adoptRing_eq, hq] at he
  obtain ⟨hf, hr, hring⟩ := ((s.restoredFor p r).modRing r (Ring.adoptedAt q)).placeRing_stands r q
  rw [State.ring_modRing_self] at hring
  exact completes_of_eq he ⟨by rw [hring]; rfl, by rw [hring]; rfl, hf, hr⟩

theorem State.adoptRing_stalls_of_restored {s : State} (hs : s.stalls = []) {p : PartId} {r : RingId}
    (h : s.restoredFor p r = s) : (s.adoptRing p r).stalls = [] := by
  rw [State.adoptRing_eq, State.placeRing_stalls, State.modRing_stalls, h, hs]

/-! ### Prepares and recovery records (R246, R312, R315, R316) -/

theorem State.finishTwinJoints_of_unprepared {s : State} (h : ∀ e ∈ s.twin.joints, e.2.prepared = none) :
    s.finishTwinJoints = s := by
  have hnil : s.twin.joints.filter (fun e => e.2.prepared.isSome) = [] := by
    rw [List.filter_eq_nil_iff]
    intro e he
    rw [h e he]
    exact Bool.false_ne_true
  rw [State.finishTwinJoints, hnil]
  rfl

/-- The records of the partner with a new one in place of its partition's last. -/
def State.recordsWith (s : State) (r : RecoveryRecord) : List StoredRecord :=
  s.twin.records.filter (fun x => decide (x.record.partition ≠ r.partition)) ++
    [{ record := r, logAt := s.twin.tallyLog.length }]

/-- A joint of the partner that has been prepared. -/
def TwinJoint.preparedWith (r : RecoveryRecord) (ws : List CplRecord) (x : TwinJoint) : TwinJoint :=
  { x with prepared := some r, withheld := ws, swapped := false }

/-- A prepare is kept and acknowledged. -/
def State.keepPrepare (s : State) (j : Nat) (r : RecoveryRecord) (ws : List CplRecord) : State :=
  let t := (s.setTwinJoint j ((s.twinJoint j).preparedWith r ws)).storeRecord r
  t.freeBody.2.sendTwinOne 0xC4 t.freeBody.1

theorem State.keepPrepare_facts (s : State) (j : Nat) (r : RecoveryRecord) (ws : List CplRecord) :
    (s.keepPrepare j r ws).twin.records = s.recordsWith r ∧
      (s.keepPrepare j r ws).twinJoint j = (s.twinJoint j).preparedWith r ws ∧ (s.keepPrepare j r ws).mem = s.mem ∧
      (s.keepPrepare j r ws).stalls = s.stalls := by
  let t := (s.setTwinJoint j ((s.twinJoint j).preparedWith r ws)).storeRecord r
  have hkeep : s.keepPrepare j r ws = t.freeBody.2.sendTwinOne 0xC4 t.freeBody.1 := rfl
  have htwin : (s.keepPrepare j r ws).twin = t.twin := by rw [hkeep, State.sendTwinOne_twin, State.freeBody_twin]
  refine ⟨?_, ?_, ?_, ?_⟩
  · rw [htwin]
    rfl
  · rw [State.twinJoint_congr htwin]
    exact (s.twinJoint_setTwinJoint j j _).trans (if_pos rfl)
  · rw [hkeep, State.sendTwinOne_mem, State.freeBody_mem]
    rfl
  · rw [hkeep, State.sendTwinOne_stalls, State.freeBody_stalls]
    rfl

theorem State.setTwinJoint_rest (s : State) (j : Nat) (x : TwinJoint) :
    (s.setTwinJoint j x).mem = s.mem ∧ (s.setTwinJoint j x).stalls = s.stalls ∧
      (s.setTwinJoint j x).twin.records = s.twin.records := ⟨rfl, rfl, rfl⟩

/-- The streamed writes of a joint reach device memory. -/
def State.writeTwin (s : State) (ws : List (Nat × List Byte)) : State := ws.foldl (fun t w => (t.writePhys none w.1 w.2).1) s

theorem State.writeTwin_twin (s : State) (ws : List (Nat × List Byte)) : (s.writeTwin ws).twin = s.twin :=
  twin_foldl (fun (t : State) (w : Nat × List Byte) => (t.writePhys none w.1 w.2).1) (fun t w => State.writePhys_twin t none w.1 w.2) ws s

/-- The swap of a partner joint that has not been swapped. -/
theorem State.swapTwin_facts {s : State} {j : Nat} (h : (s.twinJoint j).swapped = false) :
    (s.swapTwin j).twin.records = s.twin.records ∧
      (s.swapTwin j).twinJoint j = { s.twinJoint j with writes := [], swapped := true } ∧
      ((s.twinJoint j).writes = [] → (s.swapTwin j).stalls = s.stalls) := by
  have hswap : s.swapTwin j =
      (s.writeTwin (s.twinJoint j).writes).setTwinJoint j { s.twinJoint j with writes := [], swapped := true } := by
    rw [State.swapTwin]
    dsimp only
    rw [h, if_neg Bool.false_ne_true]
    rfl
  have htwin := s.writeTwin_twin (s.twinJoint j).writes
  have hnil : (s.twinJoint j).writes = [] → (s.writeTwin (s.twinJoint j).writes).stalls = s.stalls := fun hw => by rw [hw]; rfl
  rw [hswap]
  generalize s.writeTwin (s.twinJoint j).writes = u at htwin hnil
  refine ⟨?_, (u.twinJoint_setTwinJoint j j _).trans (if_pos rfl), fun hw => ?_⟩
  · exact (u.setTwinJoint_rest j _).2.2.trans (congrArg Twin.records htwin)
  · exact (u.setTwinJoint_rest j _).2.1.trans (hnil hw)

/-! ### Streamed writes, prepares and acknowledgements -/

/-- Whether a streamed write's packet is at hand is a matter of the links. -/
theorem State.takeStream_none {s t : State} (h : t.links = s.links) {a : Nat} (hs : s.takeStream a = none) : t.takeStream a = none := by
  rw [State.takeStream, List.findSome?_eq_none_iff] at hs ⊢
  intro l hl
  have := hs l hl
  rw [State.link_congr h]
  cases hk : (s.link l).packets with
  | nil => rfl
  | cons x xs =>
    rw [hk] at this
    dsimp only at this ⊢
    split at this
    · cases this
    next hc => rw [if_neg hc]

theorem State.answerStream_none {s : State} {a : Nat} (h : s.takeStream a = none) (ok : Bool) : s.answerStream a ok = s := by
  rw [State.answerStream, h]

section
variable {s : State} (ha : s.alive = true) (hp : s.paired = true) (hs : s.stalls = []) {j : Nat} {r : RecoveryRecord}
  {ws : List CplRecord}
include ha hp

theorem exec_prepare (h : ∀ e ∈ s.twin.joints, e.2.prepared = none) : exec (.prepare j r ws) s = .next
    (s.settle (if s.fab < s.fld oTW_CTL 15 4 then (s.keepPrepare j r ws).swapTwin j else s.keepPrepare j r ws)) := by
  have he : exec (.prepare j r ws) s = .next
      (s.settle (if s.fab < s.fld oTW_CTL 15 4 then (s.finishTwinJoints.keepPrepare j r ws).swapTwin j
        else s.finishTwinJoints.keepPrepare j r ws)) := whenever_of_alive ha hp _
  rw [State.finishTwinJoints_of_unprepared h] at he
  exact he

include hs in
theorem prepare_keeps (h : ∀ e ∈ s.twin.joints, e.2.prepared = none) (hf : s.fld oTW_CTL 15 4 ≤ s.fab) :
    Completes (.prepare j r ws) s (fun t =>
      t.twin.records = s.recordsWith r ∧ t.mem = s.mem ∧ t.twinJoint j = (s.twinJoint j).preparedWith r ws) := by
  have he := exec_prepare (j := j) (r := r) (ws := ws) ha hp h
  obtain ⟨hrec, hj, hmem, hst⟩ := s.keepPrepare_facts j r ws
  rw [if_neg (Nat.not_lt.mpr hf), State.settle_of_no_stalls s (hst.trans hs)] at he
  exact completes_of_eq he ⟨hrec, hmem, hj⟩

include hs in
theorem prepare_swaps (h : ∀ e ∈ s.twin.joints, e.2.prepared = none) (hf : s.fab < s.fld oTW_CTL 15 4) :
    Completes (.prepare j r ws) s (fun t =>
      (t.twin.records = s.recordsWith r ∧
        t.twinJoint j = { prepared := some r, withheld := ws, swapped := true, writes := [] }) ∨
      ((s.twinJoint j).writes ≠ [] ∧ t.twin = s.twin ∧ t.mem = s.mem)) := by
  have he := exec_prepare (j := j) (r := r) (ws := ws) ha hp h
  obtain ⟨hrec, hj, -, hst⟩ := s.keepPrepare_facts j r ws
  rw [if_pos hf] at he
  generalize s.keepPrepare j r ws = t at he hrec hj hst
  obtain ⟨hrec', hj', hst'⟩ := t.swapTwin_facts (j := j) (by rw [hj]; rfl)
  by_cases hn : (t.swapTwin j).stalls = []
  · rw [State.settle_of_no_stalls s hn] at he
    refine completes_of_eq he (.inl ⟨hrec'.trans hrec, ?_⟩)
    rw [hj', hj]
    rfl
  · obtain ⟨-, hmem, -⟩ := State.settle_of_stalls s hn
    refine completes_of_eq he (.inr ⟨fun hw => hn ?_, ?_, hmem⟩)
    · rw [hst' (by rw [hj]; exact hw), hst, hs]
    · have hne : (t.swapTwin j).stalls.isEmpty = false := by simpa using hn
      rw [State.settle, hne, if_neg Bool.false_ne_true]
      exact twin_foldl _ State.arrange_twin _ _

theorem recoveryRecord_keeps :
    Completes (.recoveryRecord r) s (fun t =>
      t.twin.records = s.recordsWith r ∧ t.twin.joints = s.twin.joints ∧ t.mem = s.mem) := by
  let t := s.storeRecord r
  have he : exec (.recoveryRecord r) s = .next (t.freeBody.2.sendTwinOne 0xC6 t.freeBody.1) := whenever_of_alive ha hp _
  have htwin : (t.freeBody.2.sendTwinOne 0xC6 t.freeBody.1).twin = t.twin := by rw [State.sendTwinOne_twin, State.freeBody_twin]
  refine completes_of_eq he ⟨by rw [htwin]; rfl, by rw [htwin]; rfl, ?_⟩
  rw [State.sendTwinOne_mem, State.freeBody_mem]
  rfl

/-! ### Acknowledgements -/

theorem prepareAck_prepares {p : PartId} {n : Fin 64} (hask : (s.joint p (n.val + 1)).asked = true) :
    Completes (.prepareAck p n) s (fun t =>
      t.joint p (n.val + 1) = { s.joint p (n.val + 1) with prepared := true } ∧
      (∀ i, i ≠ n.val + 1 → t.joint p i = s.joint p i) ∧ t = { s with parts := t.parts }) := by
  have he : exec (.prepareAck p n) s = .next (s.modJoint p (n.val + 1) (fun x => { x with prepared := true })) :=
    whenever_of_alive ha (by rw [hp, hask]; rfl) _
  refine completes_of_eq he ⟨?_, fun i hi => ?_, rfl⟩
  · rw [State.joint_modJoint, if_pos rfl]
  · rw [State.joint_modJoint, if_neg hi]

/-- A partition whose oldest record the twin has acknowledged. -/
def Part.acked (r : RecoveryRecord) (rest : List (Option RecoveryRecord)) (q : Part) : Part :=
  { q with unacked := rest, points := r.points, recoveryAcked := q.recoveryAcked || decide (q.recovery = some r) }

theorem recordAck_retires {p : PartId} {rest : List (Option RecoveryRecord)} (h : (s.part p).unacked = some r :: rest) :
    Completes (.recordAck p) s (fun t =>
      (t.part p).points = r.points ∧ (t.part p).unacked = rest ∧ t.mem = s.mem ∧
      (t.part p).recoveryAcked = ((s.part p).recoveryAcked || decide ((s.part p).recovery = some r))) := by
  let t := s.modPart p (Part.acked r rest)
  have he : exec (.recordAck p) s = .next (((t.ringsOf p).filter t.ringOn).foldl (fun t r => t.retire p r) t) := by
    show execRecordAck p s = _
    rw [execRecordAck, h]
    exact whenever_of_alive ha hp _
  have hpart : t.part p = (s.part p).acked r rest := (s.part_modPart_self p _)
  have hmem : t.mem = s.mem := rfl
  generalize t = u at he hpart hmem
  have hparts : ∀ x, (((u.ringsOf p).filter u.ringOn).foldl (fun t r => t.retire p r) u).part x = u.part x :=
    State.part_congr (parts_foldl _ (fun t r => State.retire_parts t p r) _ _)
  have hfold := mem_foldl (fun (t : State) r => t.retire p r) (fun t r => State.retire_mem t p r) ((u.ringsOf p).filter u.ringOn) u
  refine completes_of_eq he ⟨?_, ?_, hfold.trans hmem, ?_⟩
  all_goals
    rw [hparts, hpart]
    rfl

theorem recordAck_nothing {p : PartId} (h : (s.part p).unacked = []) : exec (.recordAck p) s = .next s := by
  show execRecordAck p s = _
  rw [execRecordAck, h]

variable {a : BitVec 41} {bs : List Byte} (hbs : bs ≠ []) (htake : s.takeStream a.toNat = none)
include hbs

theorem exec_streamedWrite : exec (.streamedWrite j a bs) s = .next (s.settle (s.shadowWrite j a.toNat bs)) := by
  have hwf : (Instr.streamedWrite j a bs).wf = true := decide_eq_true (List.length_pos_iff.mpr hbs)
  exact (checked_of_wf (i := .streamedWrite j a bs) (n := "STREAMED_WRITE") hwf).trans (whenever_of_alive ha hp _)

include htake hs

theorem streamedWrite_joins (hin : s.inbound a.toNat bs.length = true) (hnp : (s.twinJoint j).prepared = none) :
    Completes (.streamedWrite j a bs) s (fun t =>
      t.twinJoint j = { s.twinJoint j with writes := (s.twinJoint j).writes ++ [(a.toNat, bs)] } ∧
      (∀ i, i ≠ j → t.twinJoint i = s.twinJoint i) ∧ t.mem = s.mem) := by
  let t := s.setTwinJoint j { s.twinJoint j with writes := (s.twinJoint j).writes ++ [(a.toNat, bs)] }
  have he := exec_streamedWrite (j := j) ha hp hbs (a := a)
  have hshadow : s.shadowWrite j a.toNat bs = t := by
    have hnone : t.takeStream a.toNat = none := State.takeStream_none (s := s) (t := t) rfl htake
    rw [State.shadowWrite, hin, hnp]
    exact State.answerStream_none hnone true
  rw [hshadow, State.settle_of_no_stalls s (t := t) hs] at he
  exact completes_of_eq he ⟨(s.twinJoint_setTwinJoint j j _).trans (if_pos rfl),
    fun i hi => (s.twinJoint_setTwinJoint j i _).trans (if_neg hi), rfl⟩

theorem streamedWrite_refused (hin : s.inbound a.toNat bs.length = false) :
    Completes (.streamedWrite j a bs) s (fun t => t.twin = s.twin ∧ t.mem = s.mem) := by
  have he := exec_streamedWrite (j := j) ha hp hbs (a := a)
  have hnone : (s.logTwin 0 (s.fld oTW_CTL 15 4)).takeStream a.toNat = none :=
    State.takeStream_none (State.logTwin_links _ _ _) htake
  have hshadow : s.shadowWrite j a.toNat bs = s.logTwin 0 (s.fld oTW_CTL 15 4) := by
    rw [State.shadowWrite, hin, Bool.not_false, if_pos rfl]
    exact State.answerStream_none hnone false
  rw [hshadow, State.settle_of_no_stalls s ((State.logTwin_stalls _ _ _).trans hs)] at he
  exact completes_of_eq he ⟨State.logTwin_twin _ _ _, State.logTwin_mem _ _ _⟩

omit hbs htake hs in
theorem tallyLog_keeps (src : BitVec 12) (txn : BitVec 16) (n : BitVec 14) (amount : Word) :
    Completes (.tallyLog src txn n amount) s (fun t =>
      t.twin.tallyLog = s.twin.tallyLog ++ [(src, txn, n, amount)] ∧ t.tallies = s.tallies ∧ t.mem = s.mem) := by
  let t : State := { s with twin := { s.twin with tallyLog := s.twin.tallyLog ++ [(src, txn, n, amount)] } }
  have he : exec (.tallyLog src txn n amount) s = .next (t.freeBody.2.sendTwinOne 0xC6 t.freeBody.1) := whenever_of_alive ha hp _
  have htwin : (t.freeBody.2.sendTwinOne 0xC6 t.freeBody.1).twin = t.twin := by rw [State.sendTwinOne_twin, State.freeBody_twin]
  refine completes_of_eq he ⟨by rw [htwin], ?_, ?_⟩
  · rw [State.sendTwinOne_tallies, State.freeBody_tallies]
  · rw [State.sendTwinOne_mem, State.freeBody_mem]

end

/-- Settles O55: the partner's address and joints, the adoption of rings, prepares, records and streamed writes. -/
theorem twinsTakeOver : Obligations.twinsTakeOver := by
  unfold Obligations.twinsTakeOver
  refine ⟨fun s ha h3 hs => ⟨adoptFabricAddress_adopts ha h3, adoptFabricAddress_once ha, partnerJointResolve_discards ha h3 hs,
    fun r p hpart hb had hst hn => ?_⟩, fun s ha hp hs => ⟨fun j r ws hun => ?_, fun p j => prepareAck_prepares ha hp,
    fun p r rest => recordAck_retires ha hp, fun p => recordAck_nothing ha hp, fun j a bs hbs htake =>
      ⟨streamedWrite_joins ha hp hs hbs htake, streamedWrite_refused ha hp hs hbs htake⟩, tallyLog_keeps ha hp⟩⟩
  · intro placed
    refine ⟨fun hnone => ?_, fun x q hsome hst' hq => ?_⟩
    · have hstored : s.storedFor r = none := hnone
      refine ringAdoption_places ha h3 hpart hb had hst hn (State.adoptRing_stalls_of_restored hs ?_) ?_
      · rw [State.restoredFor, hstored]
      · rw [State.adoptAt, hstored]
        rfl
    · have hstored : s.storedFor r = some x := hsome
      have hat : s.adoptAt r = q := by
        rw [State.adoptAt, hstored, Option.bind_some, hq]
      refine ringAdoption_places ha h3 hpart hb had hst hn ?_ hat
      rcases hst' with hx | hx
      · refine State.adoptRing_stalls_of_restored hs ?_
        rw [State.restoredFor, hstored]
        exact if_pos hx
      · exact hx
  · intro kept
    exact ⟨prepare_keeps ha hp hs hun, prepare_swaps ha hp hs hun, recoveryRecord_keeps ha hp⟩

end Sys2Proof.Machine
end

section
/-! PROOFS. The ends of launches, and the image loader (R45, R46, R54, R62, R284). -/

namespace Sys2Proof.Machine

/-! ### The end of a launch (R54, R284) -/

/-- The cores of a launch that still belong to it. -/
def State.launchMembers (s : State) (l : Launch) : List CoreId := l.cores.filter (fun c => s.belongs l c)

/-- Its cores leave a launch. -/
def State.leaveCores (s : State) (l : Launch) : State :=
  (s.launchMembers l).foldl (fun t c => t.modCore c (fun k => k.leave l.cancelled)) s

/-- A launch is gone, and its LAUNCH ends. -/
def State.dropLaunch (s : State) (l : Launch) : State :=
  let t : State := { s with launches := s.launches.filter (fun x => !(decide (x.ring = l.ring) && decide (x.seq = l.seq))) }
  ((t.flagDesc l.ring l.seq (BitVec.ofNat 16 (2 * boolNat l.skipped + 4 * boolNat l.syncFault))).endDesc l.ring l.seq l.status).noteIdle
    l.part l.ctx

theorem State.dropLaunch_facts (s : State) (l : Launch) :
    (s.dropLaunch l).launches = s.launches.filter (fun x => !(decide (x.ring = l.ring) && decide (x.seq = l.seq))) ∧
      (s.dropLaunch l).mem = s.mem ∧ (s.dropLaunch l).cores = s.cores := by
  refine ⟨?_, ?_, ?_⟩
  · rw [State.dropLaunch, State.noteIdle_launches, State.endDesc, State.modDesc_launches, State.flagDesc, State.modDesc_launches]
  · rw [State.dropLaunch, State.noteIdle_mem, State.endDesc_mem, State.flagDesc, State.modDesc_mem]
  · rw [State.dropLaunch, State.noteIdle_cores, State.endDesc, State.modDesc_cores, State.flagDesc, State.modDesc_cores]

theorem State.endLaunch_in {s : State} {l : Launch} (h : s.launchIn l = true) : s.endLaunch l = (s.leaveCores l).dropLaunch l := by
  rw [State.endLaunch, h, if_pos rfl, State.leaveCores, State.launchMembers, List.foldl_filter]
  rfl

section
variable {s : State} {r : RingId} {q : BitVec 32} {l : Launch} (ha : s.alive = true)
  (hl : s.launches.find? (fun l => decide (l.ring = r) && decide (l.seq = q)) = some l)
include hl

theorem launch_names : l.ring = r ∧ l.seq = q := by
  have := List.find?_some hl
  simpa using this

theorem exec_launchFinish : exec (.launchFinish r q) s = whenever (s.launchOver l) s (s.endLaunch l) := by
  show execLaunchFinish r q s = _
  rw [execLaunchFinish, hl]

include ha

theorem launchFinish_completes (hin : s.launchIn l = true) (hover : s.launchOver l = true) (hc : l.cancelled = false) :
    Completes (.launchFinish r q) s (fun t =>
      t.launches = s.launches.filter (fun x => !(decide (x.ring = r) && decide (x.seq = q))) ∧
      (∀ c ∈ l.cores, s.belongs l c = true → (t.core c).launch = none ∧ (t.core c).run = .idle ∧
        (t.core c).s = (s.core c).s ∧ (t.core c).bench = (s.core c).bench ∧ (t.core c).tile = (s.core c).tile) ∧
      (∀ c, c ∉ l.cores → t.core c = s.core c) ∧ t.mem = s.mem) := by
  have he : exec (.launchFinish r q) s = .next ((s.leaveCores l).dropLaunch l) := by
    rw [exec_launchFinish hl, State.endLaunch_in hin]
    exact whenever_of_alive ha hover _
  obtain ⟨rfl, rfl⟩ := launch_names hl
  obtain ⟨hlaunch, hmem, hcores⟩ := (s.leaveCores l).dropLaunch_facts l
  obtain ⟨cs, hrest⟩ := State.foldl_modCore_rest (fun k => k.leave l.cancelled) (s.launchMembers l) s
  have hrest : s.leaveCores l = { s with cores := cs } := hrest
  have hcore (c : CoreId) := State.core_foldl_modCore (fun k => k.leave l.cancelled) (s.launchMembers l) s c
  have hkept : ∀ k : Core, (k.leave l.cancelled).s = k.s ∧ (k.leave l.cancelled).bench = k.bench ∧ (k.leave l.cancelled).tile = k.tile := by
    rw [hc]
    exact fun k => ⟨rfl, rfl, rfl⟩
  have hleft : ∀ k : Core, (k.leave l.cancelled).launch = none ∧ (k.leave l.cancelled).run = .idle := by
    rw [hc]
    exact fun k => ⟨rfl, rfl⟩
  refine completes_of_eq he ⟨?_, fun c hm hb => ?_, fun c hm => ?_, ?_⟩
  · rw [hlaunch, hrest]
  · have hcount : (s.launchMembers l).count c ≠ 0 := by
      rw [Ne, List.count_eq_zero, not_not]
      exact List.mem_filter.mpr ⟨hm, hb⟩
    rw [State.core_congr hcores, State.leaveCores, hcore]
    obtain ⟨h1, h2⟩ := iterate_brings (f := fun k : Core => k.leave l.cancelled) (P := fun k => k.launch = none ∧ k.run = .idle) hleft
      hcount (s.core c)
    exact ⟨h1, h2, iterate_keeps (g := Core.s) (fun k => (hkept k).1) _ _, iterate_keeps (g := Core.bench) (fun k => (hkept k).2.1) _ _,
      iterate_keeps (g := Core.tile) (fun k => (hkept k).2.2) _ _⟩
  · have hcount : (s.launchMembers l).count c = 0 := List.count_eq_zero.mpr fun h => hm (List.mem_filter.mp h).1
    rw [State.core_congr hcores, State.leaveCores, hcore, hcount]
    rfl
  · rw [hmem, hrest]

theorem launchFinish_cancelled (hin : s.launchIn l = false) (hc : l.cancelled = true) :
    Completes (.launchFinish r q) s (fun t =>
      t.launches = s.launches.filter (fun x => !(decide (x.ring = r) && decide (x.seq = q))) ∧ t.mem = s.mem) := by
  have hover : s.launchOver l = true := by
    rw [State.launchOver, hin, Bool.not_false, if_pos rfl, hc]
  have hshape : s.endLaunch l =
      ((s.launchMembers l).foldl (fun t c => t.modCore c (fun k => k.leave l.cancelled)) (s.dropSaved l)).dropLaunch l := by
    rw [State.endLaunch, hin, if_neg Bool.false_ne_true, State.launchMembers, List.foldl_filter]
    rfl
  have he : exec (.launchFinish r q) s = .next (s.endLaunch l) := by
    rw [exec_launchFinish hl]
    exact whenever_of_alive ha hover _
  obtain ⟨cs, hrest⟩ := State.foldl_modCore_rest (fun k => k.leave l.cancelled) (s.launchMembers l) (s.dropSaved l)
  rw [hshape, hrest] at he
  obtain ⟨rfl, rfl⟩ := launch_names hl
  obtain ⟨hlaunch, hmem, -⟩ := ({ s.dropSaved l with cores := cs } : State).dropLaunch_facts l
  exact completes_of_eq he ⟨hlaunch, hmem⟩

omit ha in
theorem launchFinish_waits (hin : s.launchIn l = false) (hc : l.cancelled = false) : exec (.launchFinish r q) s = .next s := by
  have hover : s.launchOver l = false := by
    rw [State.launchOver, hin, Bool.not_false, if_pos rfl, hc]
  rw [exec_launchFinish hl, hover, whenever_false]

end

/-! ### The loader takes up an image (R45, R46) -/

section
variable {s : State} {w : LoadWait} {rest : List LoadWait} (ha : s.alive = true) (hj : s.loadJob = none)
  (hq : s.loadQueue = w :: rest) (hw : w.parked = false)
include ha hj

theorem exec_loaderTakeImage : exec .loaderTakeImage s = .next (s.settle s.nextImage) :=
  whenever_of_alive ha (by rw [hj]; rfl) _

theorem loaderTakeImage_waits (h : s.nextImage.stalls ≠ []) :
    Completes .loaderTakeImage s (fun t =>
      t.loadQueue = s.loadQueue ∧ t.loadJob = none ∧ t.cores = s.cores ∧ t.mem = s.mem) := by
  obtain ⟨-, hmem, hcores⟩ := State.settle_of_stalls s h
  have hne : s.nextImage.stalls.isEmpty = false := by simpa using h
  have hshape : s.settle s.nextImage = s.nextImage.stalls.foldl State.arrange s := by
    rw [State.settle, hne, if_neg Bool.false_ne_true]
  refine completes_of_eq (exec_loaderTakeImage ha hj) ⟨?_, ?_, hcores, hmem⟩
  · rw [hshape]
    exact loadQueue_foldl _ State.arrange_loadQueue _ _
  · rw [hshape, ← hj]
    exact loadJob_foldl _ State.arrange_loadJob _ _

include hq hw
omit ha hj in
theorem State.nextImage_eq :
    s.nextImage =
      if s.mustPark w then { s with loadQueue := s.loadQueue.map (fun v => if v = w then { v with parked := true } else v) }
      else if s.isLoaded w then ({ s with loadQueue := rest } : State).giveImage w
      else { ({ s with loadQueue := rest } : State).takeImage w with loaderLines := [] } := by
  have hfind : s.loadQueue.find? (fun w => !w.parked) = some w := by
    rw [hq, List.find?_cons_of_pos (by rw [hw]; rfl)]
  have herase : s.loadQueue.erase w = rest := by rw [hq, List.erase_cons_head]
  rw [State.nextImage, hfind]
  dsimp only
  rw [herase]

theorem loaderTakeImage_parks (hp : s.mustPark w = true) (hs : s.stalls = []) :
    Completes .loaderTakeImage s (fun t =>
      t = { s with loadQueue := s.loadQueue.map (fun v => if v = w then { w with parked := true } else v) }) := by
  have he := exec_loaderTakeImage ha hj
  have hsame : (fun v : LoadWait => if v = w then { v with parked := true } else v) =
      fun v => if v = w then { w with parked := true } else v := by
    funext v
    split_ifs with h
    · rw [h]
    · rfl
  rw [State.nextImage_eq hq hw, hp, if_pos rfl, hsame] at he
  rw [State.settle_of_no_stalls s] at he
  · exact completes_of_eq he rfl
  · exact hs

theorem loaderTakeImage_gives (hp : s.mustPark w = false) (hl : s.isLoaded w = true) (hs : s.stalls = []) :
    exec .loaderTakeImage s = .next (({ s with loadQueue := rest } : State).giveImage w) := by
  rw [exec_loaderTakeImage ha hj, State.nextImage_eq hq hw, hp, if_neg Bool.false_ne_true, hl, if_pos rfl]
  rw [State.settle_of_no_stalls s]
  rw [State.giveImage_stalls]
  exact hs

theorem loaderTakeImage_reads (hp : s.mustPark w = false) (hl : s.isLoaded w = false)
    (hs : (({ s with loadQueue := rest } : State).takeImage w).stalls = []) :
    exec .loaderTakeImage s = .next { ({ s with loadQueue := rest } : State).takeImage w with loaderLines := [] } := by
  rw [exec_loaderTakeImage ha hj, State.nextImage_eq hq hw, hp, if_neg Bool.false_ne_true, hl, if_neg Bool.false_ne_true]
  rw [State.settle_of_no_stalls s]
  exact hs

end

/-- An image whose header cannot be read: its read's status stands. -/
theorem State.takeImage_unread {s : State} {w : LoadWait} {h : State × Nat × List Byte}
    (hh : s.readVa (s.launchReads w.part w.ctx (w.desc s)) w.key.va.toNat 64 = h) (hst : h.2.1 ≠ 0) :
    s.takeImage w = { h.1 with
      loadJob := some { wait := w, code := [], entry := 0, refused := some (BitVec.ofNat 16 h.2.1) } } := by
  rw [State.takeImage]
  dsimp only
  rw [hh, if_pos hst]

/-- The key of the image whose header has been read. -/
def LoadWait.withCrc (w : LoadWait) (h : List Byte) : LoadWait :=
  { w with key := { w.key with crc := BitVec.ofNat 32 (fieldLe h 12 4) } }

/-- An image with a sound header whose code can be read goes to the translation. -/
theorem State.takeImage_read {s : State} {w : LoadWait} {h c : State × Nat × List Byte}
    (hh : s.readVa (s.launchReads w.part w.ctx (w.desc s)) w.key.va.toNat 64 = h) (hst : h.2.1 = 0)
    (hres : (h.2.2.drop 24).any (fun b => b != 0) = false) (hbad : badHeader h.2.2 = false)
    (hc : h.1.readVa (s.launchReads w.part w.ctx (w.desc s)) (w.key.va.toNat + 64) (fieldLe h.2.2 8 4) = c)
    (hl : h.1.isLoaded (w.withCrc h.2.2) = false) (hcst : c.2.1 = 0) :
    s.takeImage w = { c.1 with
      loadJob := some {
        wait := w.withCrc h.2.2, code := c.2.2, entry := fieldLe h.2.2 16 8
        refused := if badCode h.2.2 c.2.2 then some 0x16 else none } } := by
  rw [State.takeImage]
  dsimp only
  rw [hh, if_neg (not_not_intro hst), hres, if_neg Bool.false_ne_true, hbad, if_neg Bool.false_ne_true]
  rw [LoadWait.withCrc] at hl
  rw [hl, if_neg Bool.false_ne_true, hc, if_neg (not_not_intro hcst)]
  rfl

/-! ### The end of a translation (R46, R62) -/

theorem State.images_modDesc (s : State) (r : RingId) (q : BitVec 32) (f : Desc → Desc) (p : PartId) :
    ((s.modDesc r q f).part p).images = (s.part p).images := by
  unfold State.modDesc
  split
  · rfl
  · rw [State.part_modPart]
    split_ifs with h
    · rw [h]
    · rfl

theorem State.images_giveImage (s : State) (w : LoadWait) (p : PartId) : ((s.giveImage w).part p).images = (s.part p).images := by
  unfold State.giveImage
  split
  · exact s.images_modDesc _ _ _ _
  · rfl

section
variable {s : State} {j : LoadJob} (ha : s.alive = true) (hj : s.loadJob = some j) (hs : s.stalls = [])
include ha hj

theorem exec_imageTranslated {t : State} (hend : s.endLoad j = t) (ht : t.stalls = []) : exec .imageTranslated s = .next t := by
  show execImageTranslated s = _
  rw [execImageTranslated, hj]
  dsimp only
  rw [hend, State.settle_of_no_stalls s ht]
  exact whenever_of_alive ha rfl _

include hs

theorem imageTranslated_refuses {st : BitVec 16} (h : j.refused = some st) :
    Completes .imageTranslated s (fun t => t = ({ s with loadJob := none } : State).refuseImage j.wait st.toNat) := by
  refine completes_of_eq (exec_imageTranslated ha hj (by rw [State.endLoad, h]) ?_) rfl
  rw [State.refuseImage_stalls]
  exact hs

theorem imageTranslated_parks (h : j.refused = none) (hp : ({ s with loadJob := none } : State).mustPark j.wait = true) :
    Completes .imageTranslated s (fun t =>
      t = { ({ s with loadJob := none } : State) with loadQueue := queueLoad { j.wait with parked := true } s.loadQueue }) := by
  refine completes_of_eq (exec_imageTranslated ha hj (by rw [State.endLoad, h]; exact if_pos hp) ?_) rfl
  exact hs

omit hs in
theorem imageTranslated_installs (h : j.refused = none) (hp : ({ s with loadJob := none } : State).mustPark j.wait = false) {t : State}
    (hi : ({ s with loadJob := none } : State).installImage j = t) (ht : t.stalls = []) : exec .imageTranslated s = .next t := by
  refine exec_imageTranslated ha hj ?_ ht
  rw [State.endLoad, h]
  dsimp only
  rw [hp, if_neg Bool.false_ne_true, hi]

end

section
variable (s : State) (j : LoadJob)

/-- The bytes of native code that an image becomes. -/
def LoadJob.len (j : LoadJob) : Nat := Config.nativeLen j.wait.key.va.toNat j.wait.key.crc.toNat % (2 * j.code.length) + 1

/-- The loaded images of other addresses. -/
def State.otherImages (s : State) (j : LoadJob) : List Image :=
  (s.part j.wait.part).images.filter (fun i => decide (i.key.va ≠ j.wait.key.va))

/-- The place that an image finds in its partition's native code area. -/
def State.roomFor (s : State) (j : LoadJob) : Option (List Image × Nat) :=
  s.makeRoom j.wait.part j.len (Config.nativePlace j.wait.key.va.toNat j.wait.key.crc.toNat) 65 (s.otherImages j)

/-- The image that a translation makes. -/
def State.newImage (s : State) (j : LoadJob) (base : Nat) : Image :=
  { key := j.wait.key, entry := BitVec.ofNat 48 j.entry, codeLen := j.code.length, nativeBase := base
    nativeSize := j.len, malformed := (codeStarts j.code).any (pviMalformed j.code (codeStarts j.code))
    lastUse := s.launchOrder }

theorem State.installImage_outside (h : s.inRanges j.wait.part (s.ncaBase j.wait.part) (s.ncaSize j.wait.part) = false) :
    s.installImage j = s.refuseImage j.wait 0x0102 := by
  rw [State.installImage]
  dsimp only
  rw [h, Bool.not_false, if_pos rfl]

variable (hin : s.inRanges j.wait.part (s.ncaBase j.wait.part) (s.ncaSize j.wait.part) = true)
include hin

theorem State.installImage_full (h : s.roomFor j = none) :
    s.installImage j = (s.modPart j.wait.part (fun q => { q with images := s.otherImages j })).refuseImage j.wait 0x17 := by
  rw [State.roomFor, LoadJob.len, State.otherImages] at h
  rw [State.installImage]
  dsimp only
  rw [hin, Bool.not_true, if_neg Bool.false_ne_true, h]
  rfl

theorem State.installImage_fits {keep : List Image} {base : Nat} (h : s.roomFor j = some (keep, base)) {z : State × Nat}
    (hz : (s.logCode j.wait j.code).writeFree (some j.wait.part) base j.len = z) :
    s.installImage j =
      if z.2 ≠ 0 then z.1.refuseImage j.wait z.2
      else ((z.1.modPart j.wait.part (fun q => { q with images := keep ++ [s.newImage j base] })).giveImage j.wait).noteImage j.wait := by
  rw [State.roomFor, LoadJob.len, State.otherImages] at h
  rw [LoadJob.len] at hz
  rw [State.installImage]
  dsimp only
  rw [hin, Bool.not_true, if_neg Bool.false_ne_true, h]
  dsimp only
  rw [hz]
  rfl

end

theorem imageIdle_unparks {s : State} (ha : s.alive = true) (p : PartId) (va : BitVec 52) :
    exec (.imageIdle p va) s = .next (s.unpark p va) := whenever_of_alive ha rfl _

/-- Settles O24: the ends of launches, the taking up of images and the ends of their translations. -/
theorem launchesAndImages : Obligations.launchesAndImages := by
  unfold Obligations.launchesAndImages
  refine ⟨fun s r q l ha hl => ?_, fun s w rest ha hj hq hw => ?_, fun s j ha hj hs => ?_, fun s p va ha => ?_⟩
  · exact ⟨launchFinish_completes ha hl, launchFinish_cancelled ha hl, launchFinish_waits hl⟩
  · refine ⟨loaderTakeImage_parks ha hj hq hw, loaderTakeImage_gives ha hj hq hw, fun hp hl hs => ?_, loaderTakeImage_waits ha hj⟩
    have he := loaderTakeImage_reads ha hj hq hw hp hl hs
    intro x h crc w1
    have hread : ({ s with loadQueue := rest } : State).readVa x w.key.va.toNat 64 = h := rfl
    clear_value h
    refine ⟨fun hst => ?_, fun hst hres hbad => ?_⟩
    · rw [State.takeImage_unread hread hst] at he
      exact completes_of_eq he rfl
    · intro c hlo hc
      have hcode : h.1.readVa x (w.key.va.toNat + 64) (fieldLe h.2.2 8 4) = c := rfl
      clear_value c
      rw [State.takeImage_read hread hst hres hbad hcode hlo hc] at he
      exact completes_of_eq he rfl
  · refine ⟨fun st => imageTranslated_refuses ha hj hs, imageTranslated_parks ha hj hs, fun hr hp => ?_⟩
    have hs0 : ({ s with loadJob := none } : State).stalls = [] := hs
    refine ⟨fun hout => ?_, fun hin hroom => ?_, fun hin keep base hroom hz => ?_⟩
    · refine imageTranslated_installs ha hj hr hp (State.installImage_outside _ j hout) ?_
      rw [State.refuseImage_stalls, hs0]
    · refine imageTranslated_installs ha hj hr hp (State.installImage_full _ j hin hroom) ?_
      rw [State.refuseImage_stalls, State.modPart_stalls, hs0]
    · have hfit := State.installImage_fits ({ s with loadJob := none } : State) j hin hroom rfl
      refine ⟨fun hst => ?_, fun hst => ?_⟩
      · exact imageTranslated_installs ha hj hr hp (hfit.trans (if_pos hst)) (by rw [State.refuseImage_stalls]; exact hz)
      · refine completes_of_eq (imageTranslated_installs ha hj hr hp (hfit.trans (if_neg (not_not_intro hst))) ?_) ⟨?_, ?_⟩
        · rw [State.noteImage_stalls, State.giveImage_stalls, State.modPart_stalls]
          exact hz
        · rw [State.noteImage_loadJob, State.giveImage_loadJob, State.modPart_loadJob, State.writeFree_loadJob, State.logCode_loadJob]
        · rw [State.part_congr (State.noteImage_parts _ _), State.images_giveImage, State.part_modPart_self]
          rfl
  · exact completes_of_eq (imageIdle_unparks ha p va) rfl

end Sys2Proof.Machine
end

section
/-! PROOFS. Loss and return of the host link, resets, configuration requests (R265, R266, R320, R364). -/

namespace Sys2Proof.Machine

/-! ### What goes out only joins what has gone out -/

/-- Everything that had gone out still has, in the same order. -/
def State.Outgrows (s t : State) : Prop := ∃ more, t.outbox = s.outbox ++ more

theorem State.Outgrows.of_eq {s t : State} (h : t.outbox = s.outbox) : s.Outgrows t := ⟨[], by rw [h, List.append_nil]⟩

theorem State.Outgrows.refl (s : State) : s.Outgrows s := .of_eq rfl

theorem State.Outgrows.trans {s t u : State} (h : s.Outgrows t) (k : t.Outgrows u) : s.Outgrows u := by
  obtain ⟨a, ha⟩ := h
  obtain ⟨b, hb⟩ := k
  exact ⟨a ++ b, by rw [hb, ha, List.append_assoc]⟩

theorem State.Routed.outgrows {s t : State} (h : s.Routed t) : s.Outgrows t := by
  obtain ⟨a, b, c, rfl⟩ := h
  exact ⟨c, rfl⟩

theorem State.outgrows_foldl {α : Type} {f : State → α → State} (h : ∀ (s : State) (a : α), s.Outgrows (f s a)) (xs : List α)
    (s : State) : s.Outgrows (xs.foldl f s) := by
  induction xs generalizing s with
  | nil => exact State.Outgrows.refl s
  | cons x xs ih => exact (h s x).trans (ih (f s x))

theorem State.outgrows_toHost (s : State) (x : Out) : s.Outgrows (s.toHost x) := by
  unfold State.toHost
  split_ifs
  · exact ⟨[x], rfl⟩
  · cases x with
    | msix f v =>
      dsimp only
      split_ifs
      · exact State.Outgrows.refl s
      · exact .of_eq rfl
    | _ => exact .of_eq rfl

theorem State.outgrows_hostRead (s : State) (fn : FnId) (addr len : Nat) (p : HostPurpose) :
    s.Outgrows (s.hostRead fn addr len p).2 := by
  rw [State.hostRead, State.hostReadIn]
  dsimp only
  split_ifs
  · exact State.Outgrows.trans (.of_eq rfl) (State.outgrows_toHost _ _)
  · exact .of_eq rfl

/-! ### Records and lines -/

theorem State.outgrows_pumpFlush (s : State) (fn : FnId) : s.Outgrows (s.pumpFlush fn) := by
  unfold State.pumpFlush
  split_ifs
  · exact State.Outgrows.refl s
  · split
    · exact State.Outgrows.refl s
    · exact (s.outgrows_hostRead _ _ _ _).trans (.of_eq rfl)

theorem State.outgrows_retire (s : State) (p : PartId) (r : RingId) : s.Outgrows (s.retire p r) := by
  rw [State.retire, State.setRetired, State.statusLine]
  split_ifs
  · exact State.Outgrows.refl s
  · exact State.Outgrows.trans (.of_eq (State.setFld_outbox ..)) ((State.outgrows_toHost _ _).trans (.of_eq (State.modRing_outbox ..)))

theorem State.outgrows_writeRecord (s : State) (p : PartId) (d : Desc) (unflushed relaxed : Bool) :
    s.Outgrows (s.writeRecord p d unflushed relaxed) := by
  have hvector : ∀ (b : Bool) (t : State) (x : Out), t.Outgrows (if b = true then t.toHost x else t) := fun b t x => by
    split_ifs
    · exact t.outgrows_toHost x
    · exact State.Outgrows.refl t
  have hclose : ∀ (c : Prop) [Decidable c] (t : State), t.Outgrows (if c then t.closeAbort p else t) := fun c _ t => by
    split_ifs
    · exact .of_eq (State.closeAbort_outbox ..)
    · exact State.Outgrows.refl t
  rw [State.writeRecord]
  refine State.Outgrows.trans ?_ (hclose _ _)
  refine State.Outgrows.trans ?_ (State.outgrows_retire _ _ _)
  refine State.Outgrows.trans ?_ (.of_eq ((State.dropDesc_outbox ..).trans (State.count_outbox ..)))
  exact (s.outgrows_toHost (.hostWrite _ _ _ _)).trans (hvector d.irq _ (.msix _ _))

theorem State.outgrows_writeLine (s : State) (l : HostLine) : s.Outgrows (s.writeLine_ l) := by
  unfold State.writeLine_
  split
  · split
    · exact s.outgrows_writeRecord _ _ _ _
    · exact State.Outgrows.refl s
  · have hvector : ∀ t : State, t.Outgrows (match l.vector with | some v => t.toHost (.msix l.fn v) | none => t) := fun t => by
      split
      · exact t.outgrows_toHost _
      · exact State.Outgrows.refl t
    refine ((s.outgrows_toHost (.hostWrite l.fn l.addr l.bytes false)).trans (hvector _)).trans ?_
    dsimp only
    split_ifs
    · exact .of_eq (State.closeAbort_outbox ..)
    · exact State.Outgrows.refl _

theorem State.outgrows_releaseLine (s : State) (l : HostLine) : s.Outgrows (s.releaseLine l) := by
  unfold State.releaseLine
  split
  · dsimp only
    split
    · split_ifs
      · exact State.Outgrows.refl s
      · exact State.Outgrows.trans (.of_eq rfl) (State.outgrows_writeLine _ _)
    · exact .of_eq rfl
  · exact State.Outgrows.refl s

theorem State.outgrows_resumeLines (s : State) : s.Outgrows s.resumeLines :=
  (State.outgrows_foldl State.outgrows_releaseLine _ _).trans (State.outgrows_foldl State.outgrows_pumpFlush _ _)

/-! ### Host carts -/

theorem State.outgrows_modHc (s : State) (n : Nat) (f : HostCart → HostCart) : s.Outgrows (s.modHc n f) := .of_eq rfl

theorem State.outgrows_request (s : State) (type vc dst addr lines : Nat) (data : List Byte) (u : PeerUnit) (part : Option PartId)
    (mem : Option MemReq) : s.Outgrows (s.request type vc dst addr lines data u part mem).2 := by
  rw [State.request]
  dsimp only
  exact State.Outgrows.trans (.of_eq rfl) (State.routed_route _ _ _ _).outgrows

theorem State.outgrows_access (s : State) (x : Accessor) (t : TlbEntry) (va : Nat) (kind : MemKind) (len : Nat) (data : List Byte) :
    s.Outgrows (s.access x t va kind len data).2 := by
  have hreq : ∀ type vc dst addr lines dat u part mem,
      s.Outgrows (({ s with nextId := s.nextId + 1 } : State).request type vc dst addr lines dat u part mem).2 :=
    fun _ _ _ _ _ _ _ _ _ => State.Outgrows.trans (.of_eq rfl) (State.outgrows_request _ _ _ _ _ _ _ _ _ _)
  unfold State.access
  dsimp only
  cases kind
  case read =>
    dsimp only
    split_ifs
    · exact hreq _ _ _ _ _ _ _ _ _
    · exact .of_eq rfl
    · exact .of_eq rfl
    · exact .of_eq rfl
  case write =>
    dsimp only
    split_ifs
    · exact hreq _ _ _ _ _ _ _ _ _
    · exact hreq _ _ _ _ _ _ _ _ _
    · exact .of_eq rfl
    · exact .of_eq rfl

theorem State.outgrows_hcTranslate {s : State} {n : Nat} {p : PartId} {d : Desc} {va : Nat} {w : Bool} {t : State}
    {l : Option TlbEntry} (h : s.hcTranslate n p d va w = (t, l)) : s.Outgrows t := by
  have := State.hcTranslate_outbox s n p d va w
  rw [h] at this
  exact .of_eq this

theorem State.outgrows_hcWrites (n : Nat) (p : PartId) (d : Desc) (k : Nat) (s : State) : s.Outgrows (s.hcWrites n p d k) := by
  induction k generalizing s with
  | zero => exact State.Outgrows.refl s
  | succ k ih =>
    unfold State.hcWrites
    split
    · exact State.Outgrows.refl s
    · split_ifs
      · exact State.Outgrows.refl s
      · split
        next ht => exact State.outgrows_hcTranslate ht
        next ht =>
          exact ((State.outgrows_hcTranslate ht).trans (State.outgrows_access _ _ _ _ _ _ _)).trans
            ((State.outgrows_modHc _ _ _).trans (ih _))

theorem State.outgrows_hcReads (n : Nat) (p : PartId) (d : Desc) (k : Nat) (s : State) : s.Outgrows (s.hcReads n p d k) := by
  induction k generalizing s with
  | zero => exact State.Outgrows.refl s
  | succ k ih =>
    have hgo : ∀ t f, s.Outgrows t → s.Outgrows ((t.modHc n f).hcReads n p d k) :=
      fun t f h => h.trans ((State.outgrows_modHc t n f).trans (ih _))
    unfold State.hcReads
    dsimp only
    split
    · exact State.Outgrows.refl s
    · split_ifs
      · exact State.Outgrows.refl s
      · exact State.Outgrows.refl s
      · exact hgo _ _ (s.outgrows_toHost _)
      · exact hgo _ _ (s.outgrows_hostRead _ _ _ _)
      all_goals
        split
        next ht => exact State.outgrows_hcTranslate ht
        next ht => exact hgo _ _ ((State.outgrows_hcTranslate ht).trans (State.outgrows_access _ _ _ _ _ _ _))

theorem State.outgrows_hcDrain (n : Nat) (k : Nat) (s : State) : s.Outgrows (s.hcDrain n k) := by
  induction k generalizing s with
  | zero => exact State.Outgrows.refl s
  | succ k ih =>
    have hmod : ∀ f, s.Outgrows (s.modHc n f) := s.outgrows_modHc n
    unfold State.hcDrain
    dsimp only
    split
    · exact hmod _
    · split
      · exact State.Outgrows.refl s
      · split
        · exact State.Outgrows.refl s
        · split_ifs
          · exact (hmod _).trans ((State.outgrows_modHc _ _ _).trans (ih _))
          · exact (hmod _).trans ((State.outgrows_toHost _ _).trans (ih _))
          · exact (hmod _).trans ((State.outgrows_modHc _ _ _).trans (ih _))

theorem State.outgrows_hcIndex (s : State) (n : Nat) (d : Desc) : s.Outgrows (s.hcIndex n d) := by
  unfold State.hcIndex
  dsimp only
  split_ifs
  · exact State.Outgrows.refl s
  · exact (s.outgrows_hostRead _ _ _ _).trans (State.outgrows_modHc _ _ _)

theorem State.outgrows_hcPump (s : State) (n : Nat) : s.Outgrows (s.hcPump n) := by
  have hreads : ∀ (c : Bool) (t : State) (p : PartId) (d : Desc), t.Outgrows (if c = true then t.hcReads n p d 1024 else t) :=
    fun c t p d => by
      split_ifs
      · exact State.outgrows_hcReads n p d 1024 t
      · exact State.Outgrows.refl t
  unfold State.hcPump
  split
  · exact State.Outgrows.refl s
  · split_ifs
    · exact State.Outgrows.refl s
    · refine State.Outgrows.trans ?_ (.of_eq (State.hcEnd_outbox ..))
      refine State.Outgrows.trans ?_ (State.outgrows_hcIndex _ _ _)
      exact ((State.outgrows_hcDrain _ _ _).trans (State.outgrows_hcWrites _ _ _ _ _)).trans (hreads _ _ _ _)

/-! ### The link returns (R265) -/

section
variable {s : State} (ha : s.alive = true)
include ha

/-- The registers and queues of a module whose link has returned. -/
def State.linked (s : State) (speed : BitVec 3) (width : BitVec 5) (us : BitVec 32) : State :=
  let longest := if s.held then max (s.fld oHL_DOWN 63 32) us.toNat else s.fld oHL_DOWN 63 32
  let t := ((s.setFld oHL_STAT 2 0 speed.toNat).setFld oHL_STAT 7 3 width.toNat).setFld oHL_DOWN 63 32 longest
  { t.setFld oHL_STAT 8 8 0 with outbox := t.outbox ++ t.heldOut, heldOut := [] }

theorem exec_linkUp {speed : BitVec 3} {width : BitVec 5} {us : BitVec 32} (hl : s.power.ltssm = true) (h0 : s.linkSpeed = 0)
    (hsp : speed ≠ 0) :
    exec (.linkUp speed width us) s = .next ((List.range 48).foldl State.hcPump (s.linked speed width us).resumeLines) := by
  have hb : (s.power.ltssm && s.linkSpeed == 0 && speed != 0) = true := by
    rw [hl, h0, Bool.true_and]
    simpa using hsp
  exact whenever_of_alive ha hb _

theorem linkUp_releases {speed : BitVec 3} {width : BitVec 5} {us : BitVec 32} (hl : s.power.ltssm = true) (h0 : s.linkSpeed = 0)
    (hsp : speed ≠ 0) : Completes (.linkUp speed width us) s (fun t =>
      t.mem = s.mem ∧ ∃ more, t.outbox = s.outbox ++ s.heldOut ++ more) := by
  have he := exec_linkUp (width := width) (us := us) ha hl h0 hsp
  have hmem := mem_foldl State.hcPump State.hcPump_mem (List.range 48) (s.linked speed width us).resumeLines
  have hout := (State.outgrows_resumeLines (s.linked speed width us)).trans (State.outgrows_foldl State.outgrows_hcPump (List.range 48) _)
  exact completes_of_eq he ⟨hmem.trans (State.resumeLines_mem _), hout⟩

omit ha in
theorem State.resumeLines_of_none {s : State} (h : s.hostLines = []) : s.resumeLines = s := by
  rw [State.resumeLines, h, List.foldl_nil, h]
  rfl

omit ha in
theorem State.foldl_hcPump_of_idle {s : State} (h : ∀ n, s.hcDesc n = none) (ns : List Nat) : ns.foldl State.hcPump s = s := by
  induction ns with
  | nil => rfl
  | cons n ns ih =>
    have hn : s.hcPump n = s := by rw [State.hcPump, h n]
    rw [List.foldl_cons, hn, ih]

omit ha in
theorem State.linked_facts (s : State) (speed : BitVec 3) (width : BitVec 5) (us : BitVec 32) :
    (s.linked speed width us).held = false ∧ (s.linked speed width us).linkSpeed = speed.toNat ∧
      (s.linked speed width us).fld oHL_STAT 7 3 = width.toNat ∧
      (s.held = true → (s.linked speed width us).fld oHL_DOWN 63 32 = max (s.fld oHL_DOWN 63 32) us.toNat) := by
  have hne : oHL_STAT ≠ oHL_DOWN := by decide
  let longest := if s.held then max (s.fld oHL_DOWN 63 32) us.toNat else s.fld oHL_DOWN 63 32
  let t1 := s.setFld oHL_STAT 2 0 speed.toNat
  let t2 := t1.setFld oHL_STAT 7 3 width.toNat
  let t3 := t2.setFld oHL_DOWN 63 32 longest
  have hfld : ∀ o hi lo, (s.linked speed width us).fld o hi lo = (t3.setFld oHL_STAT 8 8 0).fld o hi lo := fun _ _ _ => rfl
  refine ⟨?_, ?_, ?_, fun hh => ?_⟩
  · exact congrArg (· == 1) (State.fld_setFld_self t3 oHL_STAT 8 8 0 (by decide))
  · rw [State.linkSpeed, hfld, State.fld_setFld_apart _ _ _ _ _ _ _ (by decide) (by decide), State.fld_setFld_other _ _ _ _ _ _ _ _ hne,
      State.fld_setFld_apart _ _ _ _ _ _ _ (by decide) (by decide), State.fld_setFld_self _ _ _ _ _ (by decide)]
    exact Nat.mod_eq_of_lt speed.isLt
  · rw [hfld, State.fld_setFld_apart _ _ _ _ _ _ _ (by decide) (by decide), State.fld_setFld_other _ _ _ _ _ _ _ _ hne,
      State.fld_setFld_self _ _ _ _ _ (by decide)]
    exact Nat.mod_eq_of_lt width.isLt
  · have hlong : longest = max (s.fld oHL_DOWN 63 32) us.toNat := if_pos hh
    have hlt : s.fld oHL_DOWN 63 32 < 2 ^ 32 := getBits_lt _ _ _
    rw [hfld, State.fld_setFld_other _ _ _ _ _ _ _ _ hne.symm, State.fld_setFld_self _ _ _ _ _ (by decide), hlong]
    exact Nat.mod_eq_of_lt (Nat.max_lt.mpr ⟨hlt, us.isLt⟩)

theorem linkUp_idle {speed : BitVec 3} {width : BitVec 5} {us : BitVec 32} (hl : s.power.ltssm = true) (h0 : s.linkSpeed = 0)
    (hsp : speed ≠ 0) (hidle : ∀ n, s.hcDesc n = none) (hlines : s.hostLines = []) :
    Completes (.linkUp speed width us) s (fun t =>
      t.held = false ∧ t.linkSpeed = speed.toNat ∧ t.fld oHL_STAT 7 3 = width.toNat ∧
      t.outbox = s.outbox ++ s.heldOut ∧ t.heldOut = [] ∧ t.mem = s.mem ∧
      (s.held = true → t.fld oHL_DOWN 63 32 = max (s.fld oHL_DOWN 63 32) us.toNat)) := by
  have he := exec_linkUp (width := width) (us := us) ha hl h0 hsp
  have hidle' : ∀ n, (s.linked speed width us).hcDesc n = none := hidle
  rw [State.resumeLines_of_none (s := s.linked speed width us) hlines, State.foldl_hcPump_of_idle hidle'] at he
  obtain ⟨hheld, hspeed, hwidth, hlong⟩ := s.linked_facts speed width us
  exact completes_of_eq he ⟨hheld, hspeed, hwidth, rfl, rfl, rfl, hlong⟩

/-! ### The link is lost (R265, R320) -/

theorem linkDown_holds (h0 : s.linkSpeed ≠ 0) : Completes .linkDown s (fun t =>
    t.held = true ∧ t.linkSpeed = 0 ∧ t.fld oHL_STAT 7 3 = 0 ∧
    t.fld oHL_DOWN 31 0 = (s.fld oHL_DOWN 31 0 + 1) % 2 ^ 32 ∧ t = { s with regs := t.regs }) := by
  let t1 := s.setFld oHL_STAT 2 0 0
  let t2 := t1.setFld oHL_STAT 7 3 0
  let t3 := t2.setFld oHL_STAT 8 8 1
  have he : exec .linkDown s = .next (t3.incFld oHL_DOWN 31 0 1) := whenever_of_alive ha (bne_iff_ne.mpr h0) _
  have hne : oHL_STAT ≠ oHL_DOWN := by decide
  have hstat : ∀ hi lo, (t3.incFld oHL_DOWN 31 0 1).fld oHL_STAT hi lo = t3.fld oHL_STAT hi lo := fun hi lo =>
    State.fld_setFld_other _ _ _ _ _ _ _ _ hne
  have hdown : t3.fld oHL_DOWN 31 0 = s.fld oHL_DOWN 31 0 :=
    ((State.fld_setFld_other _ _ _ _ _ _ _ _ hne.symm).trans (State.fld_setFld_other _ _ _ _ _ _ _ _ hne.symm)).trans
      (State.fld_setFld_other _ _ _ _ _ _ _ _ hne.symm)
  refine completes_of_eq he ⟨?_, ?_, ?_, ?_, rfl⟩
  · exact congrArg (· == 1) ((hstat 8 8).trans (State.fld_setFld_self t2 oHL_STAT 8 8 1 (by decide)))
  · exact ((hstat 2 0).trans (State.fld_setFld_apart t2 oHL_STAT 8 8 1 2 0 (by decide) (by decide))).trans
      ((State.fld_setFld_apart t1 oHL_STAT 7 3 0 2 0 (by decide) (by decide)).trans (State.fld_setFld_self s oHL_STAT 2 0 0 (by decide)))
  · exact ((hstat 7 3).trans (State.fld_setFld_apart t2 oHL_STAT 8 8 1 7 3 (by decide) (by decide))).trans
      (State.fld_setFld_self t1 oHL_STAT 7 3 0 (by decide))
  · rw [← hdown]
    exact State.fld_incFld_self t3 oHL_DOWN 31 0 1 (by decide)

theorem linkDown100us_fails (hh : s.held = true) (h2 : s.twState = 2) : Completes .linkDown100us s (fun t => t.failed = true) :=
  completes_of_eq (whenever_of_alive ha (by rw [hh, h2]; rfl) _ : exec .linkDown100us s = .next s.moduleFail) s.moduleFail_facts.1

omit ha in
theorem linkDown100us_else (h : s.held = false ∨ s.twState ≠ 2) : exec .linkDown100us s = .next s := by
  have hb : (s.held && s.twState == 2) = false := by
    rcases h with h | h
    · rw [h, Bool.false_and]
    · rw [beq_eq_false_iff_ne.mpr h, Bool.and_false]
  show execLinkDown100us s = _
  rw [execLinkDown100us, hb, whenever_false]

/-! ### Function level resets (R266) -/

variable (hc : s.power.configReady = true)

include hc in
theorem flrVf_aborts (p : PartId) (hn : (s.part p).abort = none) (hj : (s.part p).joints = []) (hcarts : s.hostCarts = []) :
    Completes (.flrVf p) s (fun t =>
      (t.part p).abort = some .reset ∧ t.bit (oPT_ABORT p.val) 1 = true ∧ (∀ q, q ≠ p → t.part q = s.part q) ∧
      t.mem = s.mem ∧ t.cores = s.cores ∧ t.outbox = s.outbox) := by
  have habort : s.abortFor .reset p = (s.setFld (oPT_ABORT p) 1 1 1).modPart p (Part.aborting .reset) := by
    rw [State.abortFor, hn, Option.isSome_none, if_neg Bool.false_ne_true, State.beginAbort_eq hj hcarts]
  have he : exec (.flrVf p) s = .next ((s.setFld (oPT_ABORT p) 1 1 1).modPart p (Part.aborting .reset)) := by
    rw [← habort]
    exact whenever_of_alive ha hc _
  refine completes_of_eq he ⟨?_, ?_, fun q hq => ?_, rfl, rfl, rfl⟩
  · rw [State.part_modPart_self]
    rfl
  · exact congrArg (· == 1) (State.fld_setFld_self s (oPT_ABORT p) 1 1 1 (by decide))
  · rw [State.part_modPart, if_neg hq]
    rfl

include hc in
theorem flrVf_takes_over (p : PartId) {a : AbortSource} (hsome : (s.part p).abort = some a) :
    Completes (.flrVf p) s (fun t =>
      (t.part p).abort = some .reset ∧ (∀ q, q ≠ p → t.part q = s.part q) ∧ t.mem = s.mem ∧ t.regs = s.regs ∧ t.cores = s.cores) := by
  have habort : s.abortFor .reset p = s.modPart p (fun q => { q with abort := some .reset }) := by
    rw [State.abortFor, hsome, Option.isSome_some, if_pos rfl]
  have he : exec (.flrVf p) s = .next (s.modPart p (fun q => { q with abort := some .reset })) := by
    rw [← habort]
    exact whenever_of_alive ha hc _
  refine completes_of_eq he ⟨?_, fun q hq => ?_, rfl, rfl, rfl⟩
  · rw [State.part_modPart_self]
  · rw [State.part_modPart, if_neg hq]

/-! ### Configuration requests (R364) -/

omit ha in
/-- The low bytes of a number are those of what it leaves modulo their range. -/
theorem natLe_mod (n v : Nat) : natLe n (v % 256 ^ n) = natLe n v := by
  induction n generalizing v with
  | zero => rfl
  | succ n ih =>
    have hbyte : BitVec.ofNat 8 (v % 256 ^ (n + 1)) = BitVec.ofNat 8 v := by
      apply BitVec.eq_of_toNat_eq
      simp only [BitVec.toNat_ofNat]
      exact Nat.mod_mod_of_dvd v (Dvd.intro_left (256 ^ n) rfl)
    have hrest : v % 256 ^ (n + 1) / 256 = v / 256 % 256 ^ n := by
      rw [Nat.pow_succ, Nat.mul_comm, Nat.mod_mul_right_div_self]
    rw [natLe, natLe, hbyte, hrest, ih]

theorem configRequest_retried (hc : s.power.configReady = false) (fn : FnId) (reg : BitVec 12) (w : Option (BitVec 32)) :
    exec (.configRequest fn reg w) s = .next { s with outbox := s.outbox ++ [.pcie fn .retry []] } := by
  refine (whenever_of_alive ha rfl _).trans ?_
  rw [hc, Bool.not_false, if_pos rfl]
  rfl

include hc

theorem configRequest_written (fn : FnId) (reg : BitVec 12) (v : BitVec 32) :
    exec (.configRequest fn reg (some v)) s = .next ((s.writeConfig fn reg v).send (.pcie fn .success [])) := by
  refine (whenever_of_alive ha rfl _).trans ?_
  rw [hc, Bool.not_true, if_neg Bool.false_ne_true]

theorem configRequest_read (fn : FnId) (reg : BitVec 12) :
    exec (.configRequest fn reg none) s =
      .next { s with outbox := s.outbox ++ [.pcie fn .success (natLe 4 s.fresh.1.toNat)], freeIdx := s.freeIdx + 1 } := by
  refine (whenever_of_alive ha rfl _).trans ?_
  rw [hc, Bool.not_true, if_neg Bool.false_ne_true]
  rfl

omit ha hc in
theorem State.writeConfig_facts (s : State) (fn : FnId) (reg : BitVec 12) (v : BitVec 32) :
    (s.writeConfig fn reg v).outbox = s.outbox ∧ (s.writeConfig fn reg v).mem = s.mem ∧ (s.writeConfig fn reg v).regs = s.regs ∧
      (s.writeConfig fn reg v).boot.busMaster = if fn = 0 ∧ reg = 0x004 then v.getLsbD 2 else s.boot.busMaster := by
  unfold State.writeConfig
  split_ifs <;> exact ⟨rfl, rfl, rfl, rfl⟩

end

theorem linkDown2ms_always (s : State) (hp : s.power.pwrgd = true) :
    (s.held = true → exec .linkDown2ms s = .next s.hostReset) ∧ (s.held = false → exec .linkDown2ms s = .next s) := by
  refine ⟨fun h => always_true (by rw [hp, h]; rfl) s _, fun h => ?_⟩
  show execLinkDown2ms s = _
  rw [execLinkDown2ms, h, Bool.and_false]
  rfl

/-- Settles O45: loss and return of the link, resets, and configuration requests. -/
theorem linkAndResets : Obligations.linkAndResets := by
  unfold Obligations.linkAndResets
  refine ⟨linkDown2ms_always, fun s ha => ⟨linkDown_holds ha, fun speed width us hl h0 hsp =>
    ⟨linkUp_releases ha hl h0 hsp, linkUp_idle ha hl h0 hsp⟩, linkDown100us_fails ha, linkDown100us_else,
    fun hc => ⟨whenever_of_alive ha hc _, flrVf_aborts ha hc⟩, fun hc p a => flrVf_takes_over ha hc p, fun fn reg v =>
      ⟨fun hc w => completes_of_eq (configRequest_retried ha hc fn reg w) rfl, fun hc => ?_, fun hc => ?_⟩⟩⟩
  · obtain ⟨h1, h2, h3, h4⟩ := s.writeConfig_facts fn reg v
    exact completes_of_eq (configRequest_written ha hc fn reg v) ⟨congrArg (· ++ _) h1, h2, h3, h4⟩
  · have hlow : natLe 4 s.fresh.1.toNat = natLe 4 (s.fresh.1.setWidth 32).toNat := by
      rw [BitVec.toNat_setWidth]
      exact (natLe_mod 4 s.fresh.1.toNat).symm
    exact completes_of_eq (configRequest_read ha hc fn reg) ⟨s.fresh.1.setWidth 32, by rw [hlow]⟩

end Sys2Proof.Machine
end

section
/-! PROOFS. Context switches and partition aborts (R37, R38, R298, R299, R306 to R308). -/

namespace Sys2Proof.Machine

/-! ### Switches begin (R298) -/

section
variable {s : State} {p : PartId} {n : BitVec 8} (ha : s.alive = true)

theorem State.beginSwitch_facts (s : State) (p : PartId) (n : BitVec 8) :
    ((s.beginSwitch p n).part p).switch =
        some { phase := if (s.part p).running.isSome then .stopping else .restoring, target := n } ∧
      s.beginSwitch p n = { s with parts := (s.beginSwitch p n).parts } ∧ ∀ r, r ≠ p → (s.beginSwitch p n).part r = s.part r := by
  refine ⟨?_, rfl, fun r hr => ?_⟩
  · rw [State.beginSwitch, State.part_modPart_self]
  · rw [State.beginSwitch, State.part_modPart, if_neg hr]

include ha

theorem quantumEnd_begins (hm : (s.part p).maySwitch = true) (hn : s.nextCtx p = some n) (hr : (s.part p).running.isSome = true) :
    exec (.quantumEnd p) s = .next (s.beginSwitch p n) := by
  refine (whenever_of_alive ha (by rw [hm, hr]; rfl) _).trans ?_
  rw [hn]

theorem contextSwitch_begins (hm : (s.part p).maySwitch = true) (hn : s.nextCtx p = some n)
    (hidle : (match (s.part p).running with | some c => !s.ctxBusy p c | none => true) = true) :
    exec (.contextSwitch p) s = .next (s.beginSwitch p n) := by
  have hb : ((s.part p).maySwitch && (match (s.part p).running with | some c => !s.ctxBusy p c | none => true)) = true := by
    rw [hm, hidle]
    rfl
  refine (whenever_of_alive ha hb _).trans ?_
  rw [hn]

theorem quantumEnd_nothing (hr : (s.part p).running.isSome = true) (hn : s.nextCtx p = none) :
    exec (.quantumEnd p) s = .next s := by
  show execQuantumEnd p s = _
  rw [execQuantumEnd, hn]
  cases h : (s.part p).maySwitch && (s.part p).running.isSome
  · exact whenever_false _ _
  · exact whenever_of_alive ha rfl _

end

/-! ### What clearing a context's objects leaves of the partitions -/

/-- A part of a partition that is no matter of its descriptors or of the change of its objects. -/
def PartView {β : Type} (g : Part → β) : Prop :=
  (∀ q ds, g { q with descs := ds } = g q) ∧ ∀ q b, g { q with objectsChanged := b } = g q

section
variable {β : Type} {g : Part → β} (hg : PartView g)
include hg

theorem PartView.modDesc (s : State) (r : RingId) (q : BitVec 32) (f : Desc → Desc) (p : PartId) :
    g ((s.modDesc r q f).part p) = g (s.part p) := by
  unfold State.modDesc
  split
  · rfl
  · rw [State.part_modPart]
    split_ifs with h
    · rw [h]
      exact hg.1 _ _
    · rfl

theorem PartView.touched (s : State) (o : Option PartId) (p : PartId) : g ((s.touched o).part p) = g (s.part p) := by
  unfold State.touched
  split
  · rw [State.part_modPart]
    split_ifs with h
    · rw [h]
      exact hg.2 _ _
    · rfl
  · rfl

theorem PartView.release (s : State) (w : Waiter) (v : Word) (p : PartId) : g ((s.release w v).part p) = g (s.part p) := by
  unfold State.release
  split
  · rfl
  · rfl
  · exact hg.modDesc _ _ _ _ _
  · rw [State.part_congr (State.respondTor_parts _ _ _ _)]

omit hg in
theorem part_view_foldl {α : Type} {f : State → α → State} (h : ∀ s a p, g ((f s a).part p) = g (s.part p)) (xs : List α) (s : State)
    (p : PartId) : g ((xs.foldl f s).part p) = g (s.part p) := by
  induction xs generalizing s with
  | nil => rfl
  | cons x xs ih => exact (ih (f s x)).trans (h s x p)

theorem PartView.releaseAll (s : State) (ws : List Waiter) (v : Word) (p : PartId) :
    g ((s.releaseAll ws v).part p) = g (s.part p) := part_view_foldl (fun s w p => hg.release s w v p) ws s p

theorem PartView.serveTallies (s : State) (p : PartId) : g (s.serveTallies.part p) = g (s.part p) :=
  part_view_foldl (fun s (e : Nat × Tally) p => hg.releaseAll (s.setTally e.1 _) _ _ p) _ s p

theorem PartView.zeroBell (s : State) (n : Nat) (p : PartId) : g ((s.zeroBell n).part p) = g (s.part p) := by
  unfold State.zeroBell
  dsimp only
  split_ifs
  · rfl
  · exact hg.releaseAll _ _ _ _

theorem PartView.zeroObjects (s : State) (p : PartId) (c : BitVec 8) (q : PartId) :
    g ((s.zeroObjects p c).part q) = g (s.part q) := by
  unfold State.zeroObjects
  split_ifs
  · rfl
  · dsimp only
    rw [hg.touched, hg.serveTallies, part_view_foldl (fun s n p => hg.zeroBell s n p)]
    exact (part_view_foldl (g := g) (f := fun t n => t.setTally n { t.tally n with value := 0 }) (fun _ _ _ => rfl) _ _ _).trans
      (part_view_foldl (g := g) (f := fun t n => t.setPeg n { t.peg n with count := 0 }) (fun _ _ _ => rfl) _ _ _)

end

/-! ### Saves and restores (R38, R299) -/

section
variable {s : State} {p : PartId} {n : BitVec 8} (ha : s.alive = true)

/-- The state whose objects a save clears. -/
def State.coresSaved (s : State) (p : PartId) (c : BitVec 8) : State :=
  (s.coreList p).foldl (fun t c => t.modCore c (fun k => { k.bare with stop := some .preempt }))
    (({ s with saved := tabSet (fun _ => { cores := [] }) c.toNat { cores := (s.coreList p).map s.core } s.saved } : State).writeFree
      (some p) (s.saveArea c) (s.saveLen p)).1

theorem State.saveContext_eq (s : State) (p : PartId) (c : BitVec 8) : s.saveContext p c = (s.coresSaved p c).zeroObjects p c := rfl

theorem State.coresSaved_facts (s : State) (p : PartId) (c : BitVec 8) :
    (s.coresSaved p c).parts = s.parts ∧
      (s.coresSaved p c).saved = tabSet (fun _ => { cores := [] }) c.toNat { cores := (s.coreList p).map s.core } s.saved := by
  obtain ⟨cs, h⟩ := State.foldl_modCore_rest (fun k => { k.bare with stop := some .preempt }) (s.coreList p)
    (({ s with saved := tabSet (fun _ => { cores := [] }) c.toNat { cores := (s.coreList p).map s.core } s.saved } : State).writeFree
      (some p) (s.saveArea c) (s.saveLen p)).1
  have h : s.coresSaved p c = _ := h
  rw [h]
  exact ⟨State.writeFree_parts _ _ _ _, State.writeFree_saved _ _ _ _⟩

theorem State.saveDone_facts {s : State} {p : PartId} {c n : BitVec 8} (hw : (s.part p).switch = some { phase := .stopping, target := n }) :
    ((s.saveDone p c).part p).running = none ∧ ((s.saveDone p c).part p).switch = some { phase := .restoring, target := n } ∧
      tabGet (fun _ => { cores := [] }) c.toNat (s.saveDone p c).saved = { cores := (s.coreList p).map s.core } := by
  obtain ⟨hparts, hsaved⟩ := s.coresSaved_facts p c
  have hview : PartView Part.switch := ⟨fun _ _ => rfl, fun _ _ => rfl⟩
  have hswitch : ((s.saveContext p c).part p).switch = some { phase := .stopping, target := n } := by
    rw [State.saveContext_eq, hview.zeroObjects, State.part_congr hparts, hw]
  have hsaved' : (s.saveDone p c).saved = tabSet (fun _ => { cores := [] }) c.toNat { cores := (s.coreList p).map s.core } s.saved := by
    rw [State.saveDone, State.modPart_saved, State.saveContext_eq, State.zeroObjects_saved, hsaved]
  refine ⟨?_, ?_, ?_⟩
  · rw [State.saveDone, State.part_modPart_self]
  · rw [State.saveDone, State.part_modPart_self, hswitch]
    rfl
  · rw [hsaved']
    exact tabGet_tabSet_self ..

include ha

theorem exec_preemptSaveDone {c : BitVec 8} (hr : (s.part p).running = some c)
    (hw : (s.part p).switch = some { phase := .stopping, target := n }) (hh : (s.part p).halted = false)
    (hp : ∀ d ∈ s.coreList p, (s.core d).preempted = true) : exec (.preemptSaveDone p) s = .next (s.settle (s.saveDone p c)) := by
  have hall : (s.coreList p).all (fun c => (s.core c).preempted) = true := List.all_eq_true.mpr hp
  show execPreemptSaveDone p s = _
  rw [execPreemptSaveDone, hr, hw]
  exact whenever_of_alive ha (by rw [hh, hall]; rfl) _

theorem exec_contextSwitchDone (hw : (s.part p).switch = some { phase := .restoring, target := n }) (hs : (s.ctxIn p n).stalls = []) :
    exec (.contextSwitchDone p) s = .next (s.ctxIn p n) := by
  show execContextSwitchDone p s = _
  rw [execContextSwitchDone, hw]
  dsimp only
  rw [State.settle_of_no_stalls s hs]
  exact whenever_of_alive ha rfl _

omit ha in
/-- A partition whose cores a context has entered. -/
def Part.entered (n : BitVec 8) (q : Part) : Part :=
  { q with
    running := some n, switch := none
    everRun := if q.everRun.contains n then q.everRun else q.everRun ++ [n] }

omit ha in
theorem State.ctxIn_facts (s : State) (p : PartId) (n : BitVec 8) :
    ((s.ctxIn p n).part p).running = some n ∧ ((s.ctxIn p n).part p).switch = none ∧ (s.ctxIn p n).fld (oWM_QUIET p.val) 16 0 = 0 := by
  let t := ((s.readSyncTable p n).zeroObjects p n).restoreContext p n
  have hin : s.ctxIn p n = ((t.modPart p (Part.entered n)).setFld (oWM_QUIET p.val) 16 0 0).incFld (oTMP p.val 5) 63 0 1 := rfl
  rw [hin]
  have hne : oWM_QUIET p.val ≠ oTMP p.val 5 := by
    simp only [oWM_QUIET, oTMP, oWM]
    omega
  refine ⟨?_, ?_, ?_⟩
  · exact congrArg Part.running (State.part_modPart_self t p (Part.entered n))
  · exact congrArg Part.switch (State.part_modPart_self t p (Part.entered n))
  · exact (State.fld_incFld_other hne _ _ _ _ _ _).trans (State.fld_setFld_self _ _ _ _ _ (by decide))

end

/-! ### Aborts are asked for (R306) -/

section
variable {s : State} {p : PartId} (ha : s.alive = true) (hj : (s.part p).joints = []) (hc : s.power.configReady = true)
  (hr : s.ready = true)

include ha hc hr in
theorem exec_ptAbortGo : exec (.ptAbortGo 0 p) s = .next ((s.askAbort p).countWrite 0) := by
  show execPtAbortGo 0 p s = _
  rw [execPtAbortGo, bar0Write_pf0 ha hc hr]

include ha hj hc hr

theorem ptAbortGo_begins (hn : (s.part p).abort = none) (hcl : (s.part p).closing = false) (hcarts : s.hostCarts = []) :
    Completes (.ptAbortGo 0 p) s (fun t =>
      (t.part p).abort = some .register ∧ t.bit (oPT_ABORT p.val) 1 = true ∧ t.mem = s.mem ∧ t.cores = s.cores ∧
      ∀ q, q ≠ p → t.part q = s.part q) := by
  have hask : s.askAbort p = (s.setFld (oPT_ABORT p) 1 1 1).modPart p (Part.aborting .register) := by
    rw [State.askAbort, hn]
    dsimp only
    rw [hcl, if_neg Bool.false_ne_true, State.beginAbort_eq hj hcarts]
  have he := exec_ptAbortGo (p := p) ha hc hr
  rw [hask] at he
  refine completes_of_eq he ⟨?_, ?_, rfl, rfl, fun q hq => ?_⟩
  · exact congrArg Part.abort (State.part_modPart_self (s.setFld (oPT_ABORT p) 1 1 1) p (Part.aborting .register))
  · exact congrArg (· == 1) (State.fld_setFld_self s (oPT_ABORT p) 1 1 1 (by decide))
  · exact (State.part_modPart (s.setFld (oPT_ABORT p) 1 1 1) p q (Part.aborting .register)).trans (if_neg hq)

omit hj in
theorem ptAbortGo_closing (hn : (s.part p).abort = none) (hcl : (s.part p).closing = true) :
    exec (.ptAbortGo 0 p) s = .next (s.countWrite 0) := by
  rw [exec_ptAbortGo ha hc hr, State.askAbort, hn]
  dsimp only
  rw [hcl, if_pos rfl]

omit hj in
theorem ptAbortGo_in_progress {a : AbortSource} (hab : (s.part p).abort = some a) (hroll : ∀ c, a ≠ .rollback c) :
    exec (.ptAbortGo 0 p) s = .next (s.countWrite 0) := by
  rw [exec_ptAbortGo ha hc hr, State.askAbort, hab]
  cases a with
  | rollback c => exact absurd rfl (hroll c)
  | _ => rfl

omit hj in
theorem ptAbortGo_rollback {c : CoreId} (hab : (s.part p).abort = some (.rollback c)) :
    Completes (.ptAbortGo 0 p) s (fun t =>
      (t.part p).abort = some (.rollback c) ∧ (t.part p).abortNext = true ∧ t.bit (oPT_ABORT p.val) 1 = true ∧ t.mem = s.mem ∧
      t.cores = s.cores) := by
  have hask : s.askAbort p = (s.setFld (oPT_ABORT p) 1 1 1).modPart p (fun q => { q with abortNext := true }) := by
    rw [State.askAbort, hab]
  have he := exec_ptAbortGo (p := p) ha hc hr
  rw [hask] at he
  have hpart := State.part_modPart_self (s.setFld (oPT_ABORT p) 1 1 1) p (fun q => { q with abortNext := true })
  refine completes_of_eq he ⟨?_, ?_, ?_, rfl, rfl⟩
  · exact (congrArg Part.abort hpart).trans hab
  · exact congrArg Part.abortNext hpart
  · exact congrArg (· == 1) (State.fld_setFld_self s (oPT_ABORT p) 1 1 1 (by decide))

end

/-! ### Aborts end (R307, R308) -/

/-- Two states that differ in what an abort writes of its partition's log: nothing of its partitions, cores and tables. -/
def State.Logged (s t : State) (p : PartId) : Prop :=
  ∃ r f, t = { s with regs := r, faultLog := f } ∧ tabGet regReset (oPT_ABORT p.val) r = tabGet regReset (oPT_ABORT p.val) s.regs

theorem oPT_ABORT_ne_PFL_PTR (p : PartId) : oPT_ABORT p.val ≠ oPFL_PTR p.val := by
  have := p.isLt
  simp only [oPT_ABORT, oPFL_PTR, oPT]
  omega

theorem oPT_ABORT_ne_WM_QUIET (p : PartId) : oPT_ABORT p.val ≠ oWM_QUIET p.val := by
  have := p.isLt
  simp only [oPT_ABORT, oWM_QUIET, oPT, oWM]
  omega

theorem State.logged_logPart (s : State) (p : PartId) (e : Entry) : s.Logged (s.logPart p e) p := by
  have hreg : ∀ hi lo v, (s.setFld (oPFL_PTR p.val) hi lo v).reg (oPT_ABORT p.val) = s.reg (oPT_ABORT p.val) := fun hi lo v =>
    (State.reg_setFld _ _ _ _ _ _).trans (if_neg (oPT_ABORT_ne_PFL_PTR p))
  unfold State.logPart
  dsimp only
  split_ifs
  · exact ⟨_, s.faultLog, rfl, hreg _ _ _⟩
  · exact ⟨_, _, rfl, hreg _ _ _⟩

theorem State.logged_logResidue (s : State) (p : PartId) (c : BitVec 8) : s.Logged (s.logResidue p c) p := by
  unfold State.logResidue
  split
  · exact ⟨s.regs, s.faultLog, rfl, rfl⟩
  · split_ifs
    · exact s.logged_logPart p _
    · exact ⟨s.regs, s.faultLog, rfl, rfl⟩

/-- A core that an abort has cleared. -/
def Core.cleared (k : Core) : Core := { k.bare with haltReq := false }

/-- A partition that an abort has cleared. -/
def Part.dropped (q : Part) : Part :=
  { q with running := none, everRun := [], halted := false, jointWrites := [], shadowWait := none, snapshot := none }

theorem State.dropCores_facts (s : State) (p : PartId) :
    (s.dropCores p).part p = (s.part p).dropped ∧ (∀ c ∈ s.coreList p, (s.dropCores p).core c = (s.core c).cleared) ∧
      (∀ c, c ∉ s.coreList p → (s.dropCores p).core c = s.core c) ∧
      (s.dropCores p).reg (oPT_ABORT p.val) = s.reg (oPT_ABORT p.val) ∧ (s.dropCores p).tables = s.tables ∧ (s.dropCores p).mem = s.mem := by
  have hcore := State.core_foldl_modCore Core.cleared (s.coreList p) s
  obtain ⟨cs, hrest⟩ := State.foldl_modCore_rest Core.cleared (s.coreList p) s
  have hshape : ∃ sv, s.dropCores p = (({ (s.coreList p).foldl (fun t c => t.modCore c Core.cleared) s with saved := sv } : State).modPart p
      Part.dropped).setFld (oWM_QUIET p.val) 16 0 0 := ⟨_, rfl⟩
  obtain ⟨sv, hshape⟩ := hshape
  rw [hrest] at hshape hcore
  rw [hshape]
  refine ⟨State.part_modPart_self _ _ _, fun c hm => ?_, fun c hm => ?_, ?_, rfl, rfl⟩
  · refine (hcore c).trans ?_
    obtain ⟨m, hm'⟩ := Nat.exists_eq_succ_of_ne_zero (fun h => List.count_eq_zero.mp h hm)
    rw [hm', Function.iterate_succ_apply]
    exact Function.iterate_fixed rfl m
  · refine (hcore c).trans ?_
    rw [List.count_eq_zero.mpr hm]
    rfl
  · exact (State.reg_setFld _ _ _ _ _ _).trans (if_neg (oPT_ABORT_ne_WM_QUIET p))

/-- The contexts of a partition that keeps its running context's objects are dropped. -/
theorem State.dropContexts_facts {s : State} {p : PartId} (hk : ∀ c, (s.part p).running = some c → s.keeps c = true) :
    (s.dropContexts p).part p = (s.part p).dropped ∧ (∀ c ∈ s.coreList p, (s.dropContexts p).core c = (s.core c).cleared) ∧
      (∀ c, c ∉ s.coreList p → (s.dropContexts p).core c = s.core c) ∧
      (s.dropContexts p).reg (oPT_ABORT p.val) = s.reg (oPT_ABORT p.val) ∧ (s.dropContexts p).tables = s.tables ∧
      (s.dropContexts p).mem = s.mem := by
  have hshape : ∃ t, s.dropContexts p = t.dropCores p ∧ s.Logged t p := by
    cases hrun : (s.part p).running with
    | none =>
      refine ⟨s, ?_, s.regs, s.faultLog, rfl, rfl⟩
      rw [State.dropContexts, hrun]
    | some c =>
      refine ⟨if s.ctxRuns p c then s.logResidue p c else s, ?_, ?_⟩
      · rw [State.dropContexts, hrun]
        dsimp only
        rw [hk c hrun, Bool.not_true, if_neg Bool.false_ne_true]
      · split_ifs
        · exact s.logged_logResidue p c
        · exact ⟨s.regs, s.faultLog, rfl, rfl⟩
  obtain ⟨t, hdrop, r, f, rfl, hreg⟩ := hshape
  obtain ⟨h1, h2, h3, h4, h5, h6⟩ := ({ s with regs := r, faultLog := f } : State).dropCores_facts p
  rw [hdrop]
  exact ⟨h1, h2, h3, h4.trans hreg, h5, h6⟩

/-- A partition without descriptors has none to discard. -/
theorem State.discardDescs_facts {s : State} {p : PartId} (hd : s.descs p = []) :
    (s.discardDescs p).part p = s.part p ∧ (s.discardDescs p).cores = s.cores ∧ (s.discardDescs p).regs = s.regs ∧
      (s.discardDescs p).tables = s.tables ∧ (s.discardDescs p).mem = s.mem := by
  have hd' : (s.part p).descs = [] := hd
  rw [State.discardDescs, State.discardBut]
  dsimp only
  rw [hd, List.filter_nil, List.foldl_nil]
  let t := s.modPart p (fun q => { q with descs := q.descs.filter (s.outlives p) })
  have hkept : (s.part p).descs.filter (s.outlives p) = (s.part p).descs := by rw [hd', List.filter_nil]
  have ht : t.part p = s.part p :=
    (State.part_modPart_self s p _).trans (congrArg (fun ds => { s.part p with descs := ds }) hkept)
  exact ⟨(State.part_congr (s := t) rfl p).trans ht, rfl, rfl, rfl, rfl⟩

/-- A flushing read covers lines, and leaves what else is true of them. -/
theorem State.pumpFlush_line (s : State) (fn : FnId) {P : HostLine → Prop} (hP : ∀ l, P l → P { l with covered := true })
    (h : ∃ l ∈ s.hostLines, P l) : ∃ l ∈ (s.pumpFlush fn).hostLines, P l := by
  unfold State.pumpFlush
  split_ifs
  · exact h
  · split
    · exact h
    · obtain ⟨l, hl, hp⟩ := h
      refine ⟨_, List.mem_map_of_mem (by rw [State.hostRead_hostLines]; exact hl), ?_⟩
      split_ifs
      · exact hP l hp
      · exact hp

theorem State.ringsOf_congr {s t : State} (h : t.tables = s.tables) (p : PartId) : t.ringsOf p = s.ringsOf p := by
  simp only [State.ringsOf, State.cfg, h]

/-- The event line of an abort is ready to be written. -/
theorem State.abortNotice_facts {s : State} {p : PartId} (hab : (s.part p).abort = some .register) (ctx : Nat) :
    (∃ e, (s.abortNotice p ctx).part p = { s.part p with closing := true, events := e }) ∧
      (∃ l ∈ (s.abortNotice p ctx).hostLines, l.closes = true ∧ l.fn = partFn p) ∧ (s.abortNotice p ctx).cores = s.cores ∧
      (s.abortNotice p ctx).regs = s.regs ∧ (s.abortNotice p ctx).mem = s.mem := by
  let t := s.modPart p (fun q => { q with closing := true })
  have hshape : s.abortNotice p ctx = t.eventLine p 0x0004 ctx 0 true := by
    rw [State.abortNotice, hab]
  rw [hshape, State.eventLine]
  dsimp only
  refine ⟨⟨(t.part p).events + 1, ?_⟩, ?_, ?_, ?_, ?_⟩
  · rw [State.part_congr (State.pumpFlush_parts _ _)]
    refine (State.part_modPart_self t p (fun q => { q with events := (t.part p).events + 1 })).trans ?_
    rw [State.part_modPart_self]
  · exact State.pumpFlush_line _ (partFn p) (P := fun l => l.closes = true ∧ l.fn = partFn p) (fun _ h => h)
      ⟨_, List.mem_append_right _ List.mem_cons_self, rfl, rfl⟩
  · rw [State.pumpFlush_cores]
    rfl
  · rw [State.pumpFlush_regs]
    rfl
  · rw [State.pumpFlush_mem]
    rfl

section
variable {s : State} {p : PartId} (ha : s.alive = true) (hab : (s.part p).abort = some .register)
include hab

theorem exec_partitionAbortDone : exec (.partitionAbortDone p) s = whenever (s.abortReady p) s (s.endAbort p) := by
  show execPartitionAbortDone p s = _
  rw [execPartitionAbortDone, hab]

theorem partitionAbortDone_waits (h : s.abortReady p = false) : exec (.partitionAbortDone p) s = .next s := by
  rw [exec_partitionAbortDone hab, h, whenever_false]

include ha

theorem partitionAbortDone_ends (h : s.abortReady p = true) (hrings : s.ringsOf p = []) (hd : s.descs p = [])
    (hk : ∀ c, (s.part p).running = some c → s.keeps c = true) :
    Completes (.partitionAbortDone p) s (fun t =>
      (t.part p).abort = none ∧ (t.part p).running = none ∧ (t.part p).everRun = [] ∧ (t.part p).closing = true ∧
      t.bit (oPT_ABORT p.val) 1 = s.bit (oPT_ABORT p.val) 1 ∧ (∃ l ∈ t.hostLines, l.closes = true ∧ l.fn = partFn p) ∧
      (∀ c ∈ s.coreList p, t.core c =
        { tlb := (s.core c).tlb, corrected := (s.core c).corrected, lastTag := (s.core c).lastTag }) ∧
      (∀ c, c ∉ s.coreList p → t.core c = s.core c) ∧ t.mem = s.mem) := by
  obtain ⟨hpart, hcleared, hothers, hreg, htab, hmem⟩ := State.dropContexts_facts hk
  have hd1 : (s.dropContexts p).descs p = [] := by
    rw [State.descs, hpart]
    exact hd
  obtain ⟨hpart1, hcores1, hregs1, htab1, hmem1⟩ := State.discardDescs_facts hd1
  have hrings1 : ((s.dropContexts p).discardDescs p).ringsOf p = [] := (State.ringsOf_congr (htab1.trans htab) p).trans hrings
  have hab1 : (((s.dropContexts p).discardDescs p).part p).abort = some .register := by
    rw [hpart1, hpart]
    exact hab
  obtain ⟨⟨e, hpart2⟩, hline, hcores2, hregs2, hmem2⟩ := State.abortNotice_facts hab1 (s.ctxOf p)
  have hend : s.endAbort p = (((s.dropContexts p).discardDescs p).abortNotice p (s.ctxOf p)).modPart p
      (fun q => { q with abort := none, abortNext := false }) := by
    rw [State.endAbort, hrings1, List.foldl_nil, State.afterReset, hab, if_neg (show ¬ some AbortSource.register = some .reset from nofun),
      if_neg (show ¬ some AbortSource.register = some .hostReset from nofun)]
  have he : exec (.partitionAbortDone p) s = .next (s.endAbort p) := by
    rw [exec_partitionAbortDone hab]
    exact whenever_of_alive ha h _
  rw [hend] at he
  generalize ((s.dropContexts p).discardDescs p).abortNotice p (s.ctxOf p) = t at he hpart2 hline hcores2 hregs2 hmem2
  have hcore : ∀ c, t.core c = (s.dropContexts p).core c := State.core_congr (hcores2.trans hcores1)
  have hpart3 : (t.modPart p (fun q => { q with abort := none, abortNext := false })).part p =
      { (s.part p).dropped with closing := true, events := e, abort := none, abortNext := false } := by
    rw [State.part_modPart_self, hpart2, hpart1, hpart]
  refine completes_of_eq he ⟨?_, ?_, ?_, ?_, ?_, hline, fun c hc => ?_, fun c hc => ?_, ?_⟩
  · rw [hpart3]
  · rw [hpart3]
    rfl
  · rw [hpart3]
    rfl
  · rw [hpart3]
  · refine congrArg (· == 1) (State.fld_of_reg ?_ 1 1)
    exact (State.reg_congr (hregs2.trans hregs1) _).trans hreg
  · exact (hcore c).trans (hcleared c hc)
  · exact (hcore c).trans (hothers c hc)
  · exact (hmem2.trans hmem1).trans hmem

end

/-! ### The completion of an abort becomes visible (R307) -/

theorem State.closeAbort_closes {s : State} {p : PartId} (hcl : (s.part p).closing = true) (hd : s.descs p = []) :
    s.closeAbort p = ((s.setFld (oPT_ABORT p.val) 1 1 0).incFld (oPT_ABORT p.val) 31 16 1).modPart p (fun q => { q with closing := false }) := by
  let t := ((s.setFld (oPT_ABORT p.val) 1 1 0).incFld (oPT_ABORT p.val) 31 16 1).modPart p (fun q => { q with closing := false })
  have hd' : t.descs p = [] := by
    rw [State.descs, State.part_modPart_self]
    exact hd
  rw [State.closeAbort, hcl, Bool.not_true, if_neg Bool.false_ne_true]
  change List.foldl _ t ((t.descs p).filter _) = t
  rw [hd']
  rfl

theorem State.pumpFlush_of_no_lines {s : State} (h : s.hostLines = []) (fn : FnId) : s.pumpFlush fn = s := by
  unfold State.pumpFlush
  rw [h]
  split_ifs <;> rfl

theorem flushingReadDone_closes {s : State} (ha : s.alive = true) {p : PartId} {l : HostLine} (hh : s.held = false)
    (hcl : (s.part p).closing = true) (hd : s.descs p = [])
    (hread : s.hostReads.any (fun r => decide (r.purpose = .flushing (partFn p))) = true) (hlines : s.hostLines = [l])
    (hfn : l.fn = partFn p) (hcov : l.covered = true) (hdesc : l.desc = none) (hc : l.closes = true) :
    Completes (.flushingReadDone (partFn p)) s (fun t =>
      t.bit (oPT_ABORT p.val) 1 = false ∧
      t.fld (oPT_ABORT p.val) 31 16 = (s.fld (oPT_ABORT p.val) 31 16 + 1) % 2 ^ 16 ∧
      (t.part p).closing = false ∧ t.hostLines = [] ∧ t.mem = s.mem) := by
  let s0 : State := { s with hostLines := [], hostReads := s.hostReads.filter (fun r => decide (r.purpose ≠ .flushing (partFn p))) }
  have hmine : (decide (l.fn = partFn p) && l.covered) = true := by rw [hcov, decide_eq_true hfn]; rfl
  have hflushed : s.flushed_ (partFn p) = (s0.writeLine_ l).pumpFlush (partFn p) := by
    have hpos : [l].filter (fun l => decide (l.fn = partFn p) && l.covered) = [l] := List.filter_cons_of_pos hmine
    have hneg : [l].filter (fun l => !(decide (l.fn = partFn p) && l.covered)) = [] :=
      List.filter_cons_of_neg (by rw [hmine]; exact Bool.false_ne_true)
    rw [State.flushed_, hlines, hpos, hneg]
    rfl
  have hp : (⟨(l.fn.val - 1) % 32, Nat.mod_lt _ (by decide)⟩ : PartId) = p := by
    apply Fin.ext
    have := p.isLt
    simp only [hfn, partFn]
    omega
  have hwrite : ∃ o h, s0.writeLine_ l = ({ s0 with outbox := o, heldOut := h } : State).closeAbort p := by
    have hvector : ∃ o h, (match l.vector with
        | some v => (s0.toHost (.hostWrite l.fn l.addr l.bytes false)).toHost (.msix l.fn v)
        | none => s0.toHost (.hostWrite l.fn l.addr l.bytes false)) = { s0 with outbox := o, heldOut := h } := by
      obtain ⟨o, h, h1⟩ := s0.toHost_rest (.hostWrite l.fn l.addr l.bytes false)
      rw [h1]
      split
      next v _ =>
        obtain ⟨o', h', h2⟩ := ({ s0 with outbox := o, heldOut := h } : State).toHost_rest (.msix l.fn v)
        exact ⟨o', h', h2⟩
      next => exact ⟨o, h, rfl⟩
    obtain ⟨o, h, hv⟩ := hvector
    refine ⟨o, h, ?_⟩
    rw [State.writeLine_, hdesc]
    dsimp only
    rw [hc, if_pos rfl, hp, ← hv] <;> cases l.vector <;> rfl
  obtain ⟨o, h, hwrite⟩ := hwrite
  have hclose := State.closeAbort_closes (s := { s0 with outbox := o, heldOut := h }) (p := p) hcl hd
  have he : exec (.flushingReadDone (partFn p)) s = .next (s.flushed_ (partFn p)).issueReads :=
    whenever_of_alive ha (by rw [hread, hh]; rfl) _
  rw [hflushed, hwrite, hclose, State.pumpFlush_of_no_lines rfl] at he
  obtain ⟨o', h', rs, hrest, -⟩ := State.issueReads_rest
    (((({ s0 with outbox := o, heldOut := h } : State).setFld (oPT_ABORT p.val) 1 1 0).incFld (oPT_ABORT p.val) 31 16 1).modPart p
      (fun q => { q with closing := false }))
  rw [hrest] at he
  refine completes_of_eq he ⟨?_, ?_, ?_, rfl, rfl⟩
  · refine congrArg (· == 1) (?_ : State.fld _ (oPT_ABORT p.val) 1 1 = 0)
    exact (State.fld_setFld_apart _ _ _ _ _ _ _ (by decide) (by decide)).trans
      (State.fld_setFld_self s (oPT_ABORT p.val) 1 1 0 (by decide))
  · refine (State.fld_incFld_self (s.setFld (oPT_ABORT p.val) 1 1 0) (oPT_ABORT p.val) 31 16 1 (by decide)).trans ?_
    rw [State.fld_setFld_apart _ _ _ _ _ _ _ (by decide) (by decide)]
  · exact congrArg Part.closing (State.part_modPart_self
      ((s.setFld (oPT_ABORT p.val) 1 1 0).incFld (oPT_ABORT p.val) 31 16 1) p (fun q => { q with closing := false }))

/-- Settles O39: context switches, their saves and restores, and the aborts of partitions. -/
theorem contextsAndAborts : Obligations.contextsAndAborts := by
  unfold Obligations.contextsAndAborts
  refine ⟨fun s p n ha => ?_, fun s p ha hj => ⟨fun hc hr => ⟨ptAbortGo_begins ha hj hc hr, ptAbortGo_closing ha hc hr, fun a hab =>
    ⟨ptAbortGo_in_progress ha hc hr hab, ?_⟩⟩, fun hab => ⟨partitionAbortDone_waits hab, partitionAbortDone_ends ha hab⟩⟩,
    fun s p l ha hh hcl hd hread hlines => flushingReadDone_closes ha hh hcl hd hread hlines⟩
  · intro q begun
    refine ⟨fun hm hn => ⟨fun hr => ?_, fun hr => ?_, fun c hr hb => ?_⟩, quantumEnd_nothing ha, fun c hr hw hh hp => ⟨fun hs => ?_,
      fun hs => ?_⟩, fun hw hs => ⟨exec_contextSwitchDone ha hw hs, completes_of_eq (exec_contextSwitchDone ha hw hs) (s.ctxIn_facts p n)⟩⟩
    · exact completes_of_eq (quantumEnd_begins ha hm hn hr) (s.beginSwitch_facts p n)
    · exact completes_of_eq (contextSwitch_begins ha hm hn (by rw [show (s.part p).running = none from hr])) (s.beginSwitch_facts p n)
    · exact completes_of_eq (contextSwitch_begins ha hm hn (by rw [show (s.part p).running = some c from hr]; dsimp only; rw [hb]; rfl))
        (s.beginSwitch_facts p n)
    · have he := exec_preemptSaveDone ha hr hw hh hp
      rw [State.settle_of_no_stalls s hs] at he
      exact completes_of_eq he (State.saveDone_facts hw)
    · obtain ⟨hparts, hmem, hcores⟩ := State.settle_of_stalls s hs
      have hne : (s.saveDone p c).stalls.isEmpty = false := by simpa using hs
      refine completes_of_eq (exec_preemptSaveDone ha hr hw hh hp) ⟨hparts, ?_, hcores, hmem⟩
      rw [State.settle, hne, if_neg Bool.false_ne_true]
      exact saved_foldl _ State.arrange_saved _ _
  · rintro c rfl
    exact ptAbortGo_rollback ha hc hr hab

end Sys2Proof.Machine
end

section
/-! PROOFS. Polls, nudges, tail words and the enabling of rings (R271 to R277). -/

namespace Sys2Proof.Machine

/-! ### A poll begins (R273) -/

theorem State.dueLine_rest (s : State) (r : RingId) :
    ∃ o h rs, s.dueLine r = { s with outbox := o, heldOut := h, rings := rs } := by
  unfold State.dueLine
  split_ifs
  · obtain ⟨o, h, hl⟩ := s.toHost_rest (.hostWrite (match s.partOfRing r with | some p => partFn p | none => 0) (s.statusAddr r)
      (natLe 4 (s.retired r).toNat ++ natLe 4 (s.fetched r).toNat ++ natLe 4 (s.fld (oRT_OVERDUE r) 31 0) ++ natLe 52 0)
      (!s.service r (s.retired r)))
    have hl : s.statusLine r = { s with outbox := o, heldOut := h } := hl
    rw [hl]
    exact ⟨o, h, _, rfl⟩
  · exact ⟨s.outbox, s.heldOut, s.rings, rfl⟩

theorem State.foldl_dueLine_rest (es : List (Nat × Ring)) (s : State) :
    ∃ o h rs, es.foldl (fun u e => u.dueLine ⟨e.1 % 8192, Nat.mod_lt _ (by decide)⟩) s =
      { s with outbox := o, heldOut := h, rings := rs } := by
  induction es generalizing s with
  | nil => exact ⟨s.outbox, s.heldOut, s.rings, rfl⟩
  | cons e es ih =>
    obtain ⟨o, h, rs, he⟩ := s.dueLine_rest ⟨e.1 % 8192, Nat.mod_lt _ (by decide)⟩
    obtain ⟨o', h', rs', hes⟩ := ih { s with outbox := o, heldOut := h, rings := rs }
    rw [List.foldl_cons, he, hes]
    exact ⟨o', h', rs', rfl⟩

theorem State.beginPoll_rest (s : State) :
    ∃ o h rs hs, s.beginPoll =
      { s with tables := s.flushed, pollNo := s.pollNo + 1, outbox := o, heldOut := h, rings := rs, hostReads := hs } := by
  let t : State := { s with tables := s.flushed, pollNo := s.pollNo + 1 }
  obtain ⟨o, h, rs, hdue⟩ := State.foldl_dueLine_rest (t.rings.filter (fun e => e.2.lineDue)) t
  obtain ⟨o', h', hs, hiss, -⟩ := ({ t with outbox := o, heldOut := h, rings := rs } : State).issueReads_rest
  refine ⟨o', h', rs, hs, ?_⟩
  rw [← hdue] at hiss
  exact hiss.trans (by rw [hdue])

theorem State.toHost_of_open {s : State} (hh : s.held = false) (x : Out) : s.toHost x = s.send x := by
  unfold State.toHost
  rw [hh]
  exact if_pos rfl

/-- A read for a poll goes out, or waits for a tag. -/
theorem State.hostReadIn_open {s : State} (hh : s.held = false) (poll : Nat) (fn : FnId) (addr len : Nat) (q : HostPurpose) :
    (s.hostReadIn poll fn addr len q).2 =
      { s with
        nextId := s.nextId + 1
        hostReads := s.hostReads ++ [{ id := s.nextId, addr := addr, len := len, purpose := q, fn := fn, poll := poll, issued := decide (0 < s.readRoom) }]
        outbox := s.outbox ++ (if decide (0 < s.readRoom) = true then [.hostRead fn s.nextId addr len] else []) } := by
  rw [State.hostReadIn]
  dsimp only
  by_cases hroom : decide (0 < s.readRoom) = true
  · rw [if_pos hroom, if_pos hroom]
    refine State.toHost_of_open ?_ _
    exact hh
  · rw [if_neg hroom, if_neg hroom, List.append_nil]

/-- A read of host memory is added to those that the module has asked for. -/
theorem State.hostReadIn_rest (s : State) (poll : Nat) (fn : FnId) (addr len : Nat) (q : HostPurpose) :
    ∃ o h, (s.hostReadIn poll fn addr len q).2 =
      { s with
        outbox := o, heldOut := h, nextId := s.nextId + 1
        hostReads := s.hostReads ++ [{ id := s.nextId, addr := addr, len := len, purpose := q, fn := fn, poll := poll, issued := decide (0 < s.readRoom) }] } := by
  rw [State.hostReadIn]
  dsimp only
  split_ifs
  · obtain ⟨o, h, hr⟩ := State.toHost_rest
      { s with
        nextId := s.nextId + 1
        hostReads := s.hostReads ++ [{ id := s.nextId, addr := addr, len := len, purpose := q, fn := fn, poll := poll, issued := decide (0 < s.readRoom) }] }
      (.hostRead fn s.nextId addr len)
    exact ⟨o, h, hr⟩
  · exact ⟨s.outbox, s.heldOut, rfl⟩

/-- The module has asked for tails of rings, and done nothing else. -/
def State.AskedTails (s : State) (rs : List RingId) (t : State) : Prop :=
  ∃ o h n xs, t = { s with outbox := o, heldOut := h, nextId := n, hostReads := s.hostReads ++ xs } ∧
    ∀ r ∈ rs, s.polled r = true → ∃ x ∈ xs, x.purpose = .tail r

theorem State.askedTails_readTail (s : State) (poll : Nat) (r : RingId) : s.AskedTails [r] (s.readTail poll r) := by
  have hnothing : s.polled r = false → s.AskedTails [r] s := fun h =>
    ⟨s.outbox, s.heldOut, s.nextId, [], by rw [List.append_nil], fun x hx hp => by
      rw [List.mem_singleton.mp hx, h] at hp
      cases hp⟩
  unfold State.readTail
  split
  next h => exact hnothing (by rw [State.polled, h])
  next p h =>
    split_ifs with hp
    · exact hnothing (by simpa using hp)
    · obtain ⟨o, h', hr⟩ := s.hostReadIn_rest poll (partFn p) (s.doorbell p r + 4 * s.cfg (oRT_DB r) 9 0) 4 (.tail r)
      exact ⟨o, h', _, _, hr, fun x hx _ => ⟨_, List.mem_cons_self, by rw [List.mem_singleton.mp hx]⟩⟩

theorem State.askedTails_foldl (poll : Nat) (rs : List RingId) (s : State) : s.AskedTails rs (rs.foldl (State.readTail poll) s) := by
  induction rs generalizing s with
  | nil => exact ⟨s.outbox, s.heldOut, s.nextId, [], by rw [List.append_nil]; rfl, fun x hx => absurd hx List.not_mem_nil⟩
  | cons r rs ih =>
    obtain ⟨o, h, n, xs, hr, hfirst⟩ := s.askedTails_readTail poll r
    obtain ⟨o', h', n', ys, hrs, hrest⟩ := ih { s with outbox := o, heldOut := h, nextId := n, hostReads := s.hostReads ++ xs }
    refine ⟨o', h', n', xs ++ ys, ?_, fun x hx hp => ?_⟩
    · rw [List.foldl_cons, hr, hrs, ← List.append_assoc]
    · rcases List.mem_cons.mp hx with rfl | hx
      · obtain ⟨y, hy, hq⟩ := hfirst x List.mem_cons_self hp
        exact ⟨y, List.mem_append_left _ hy, hq⟩
      · obtain ⟨y, hy, hq⟩ := hrest x hx hp
        exact ⟨y, List.mem_append_right _ hy, hq⟩

/-! ### Rings that a poll serves -/

theorem regReset_RT_CTL (r : RingId) : getBits (regReset (oRT_CTL r)) 0 0 = 0 := by
  rw [regReset, show oRT_CTL r = oRT r 0 from rfl, regAt_ring r 0 (by decide)]
  unfold regsRings
  rw [List.find?_cons_of_pos (by simp [RegSpec.holds, oRT])]
  rfl

/-- A ring that a poll serves is one that the tables in force enable. -/
theorem State.mem_enabledRings {s : State} {r : RingId} (h : s.polled r = true) : r ∈ s.enabledRings := by
  refine List.mem_filter.mpr ⟨?_, h⟩
  have hr := r.isLt
  have hon : s.cfg (oRT_CTL r) 0 0 = 1 := by
    rw [State.polled] at h
    cases hp : s.partOfRing r with
    | none => rw [hp] at h; cases h
    | some p =>
      rw [hp] at h
      simp only [Bool.and_eq_true, beq_iff_eq] at h
      exact h.1.1
  have hlisted : ∃ e ∈ s.tables, e.1 = oRT_CTL r := by
    by_contra hno
    rw [State.cfg, tabGet_of_not_mem (fun c hc heq => hno ⟨c, hc, heq⟩), regReset_RT_CTL] at hon
    cases hon
  obtain ⟨e, he, hkey⟩ := hlisted
  have hkey' : e.1 = 0x100000 + 64 * r.val := by
    rw [hkey]
    rfl
  refine List.mem_filterMap.mpr ⟨e, he, ?_⟩
  refine (if_pos (by omega)).trans (congrArg some (Fin.ext ?_))
  show (e.1 - 0x100000) / 64 % 8192 = r.val
  omega

section
variable {s : State} (ha : s.alive = true) (hh : s.held = false)
include ha hh

theorem summaryPoll_reads (hr : s.ready = true) (hb : 1024 * s.fld oDB_SUMMARY 63 10 ≠ 0) :
    let b := s.beginPoll
    let now := decide (0 < b.readRoom)
    Completes .summaryPoll s (fun t =>
      t.tables = s.flushed ∧ t.pollNo = s.pollNo + 1 ∧
      t.outbox = b.outbox ++ (if now then [.hostRead 0 b.nextId (1024 * s.fld oDB_SUMMARY 63 10) 1024] else []) ∧
      t.hostReads = b.hostReads ++
        [{ id := b.nextId, addr := 1024 * s.fld oDB_SUMMARY 63 10, len := 1024, purpose := .summary, poll := b.pollNo, issued := now }] ∧
      t.fld oDB_POLLS 31 0 = (s.fld oDB_POLLS 31 0 + 1) % 2 ^ 32 ∧ t.mem = s.mem) := by
  intro b now
  have he : exec .summaryPoll s = .next
      ((b.hostReadIn b.pollNo 0 (1024 * s.fld oDB_SUMMARY 63 10) 1024 .summary).2.incFld oDB_POLLS 31 0 1) := by
    refine (whenever_of_alive ha (by rw [hr, hh]; rfl) _).trans ?_
    rw [if_neg hb]
  obtain ⟨o, h, rs, hs, hpoll⟩ := s.beginPoll_rest
  have hpoll : b = _ := hpoll
  have hopen : b.held = false := by rw [hpoll]; exact hh
  have htab : b.tables = s.flushed := by rw [hpoll]
  have hno : b.pollNo = s.pollNo + 1 := by rw [hpoll]
  have hfld : b.fld oDB_POLLS 31 0 = s.fld oDB_POLLS 31 0 := by rw [hpoll]; rfl
  have hmem : b.mem = s.mem := by rw [hpoll]
  rw [State.hostReadIn_open hopen] at he
  clear_value b
  refine completes_of_eq he ⟨htab, hno, rfl, rfl, ?_, hmem⟩
  rw [← hfld]
  exact State.fld_incFld_self _ oDB_POLLS 31 0 1 (by decide)

theorem summaryPoll_none (hr : s.ready = true) (hb : 1024 * s.fld oDB_SUMMARY 63 10 = 0) :
    exec .summaryPoll s = .next s.beginPoll := by
  refine (whenever_of_alive ha (by rw [hr, hh]; rfl) _).trans ?_
  rw [if_pos hb]

theorem class0TailPoll_reads (hr : s.ready = true) :
    Completes .class0TailPoll s (fun t =>
      t.tables = s.flushed ∧
      (∀ r, s.beginPoll.polled r = true → s.beginPoll.ringClass r = 0 → ∃ x ∈ t.hostReads, x.purpose = .tail r) ∧
      t.mem = s.mem ∧ t.regs = s.regs) := by
  let b := s.beginPoll
  have he : exec .class0TailPoll s = .next ((b.enabledRings.filter (fun r => b.ringClass r == 0)).foldl (State.readTail b.pollNo) b) :=
    whenever_of_alive ha (by rw [hr, hh]; rfl) _
  obtain ⟨o, h, rs, hs, hpoll⟩ := s.beginPoll_rest
  have hpoll : b = _ := hpoll
  have htab : b.tables = s.flushed := by rw [hpoll]
  have hmem : b.mem = s.mem := by rw [hpoll]
  have hregs : b.regs = s.regs := by rw [hpoll]
  obtain ⟨o', h', n', xs, hread, hasked⟩ := State.askedTails_foldl b.pollNo (b.enabledRings.filter (fun r => b.ringClass r == 0)) b
  rw [hread] at he
  refine completes_of_eq he ⟨htab, fun r hp hcl => ?_, hmem, hregs⟩
  obtain ⟨x, hx, hq⟩ := hasked r (List.mem_filter.mpr ⟨State.mem_enabledRings hp, beq_iff_eq.mpr hcl⟩) hp
  exact ⟨x, List.mem_append_right _ hx, hq⟩

end

/-! ### Nudges (R277) -/

section
variable {s : State} (ha : s.alive = true) (hc : s.power.configReady = true) {v : Word} (hv : v.toNat < 8192)
include ha hc

/-- A write in the first 192 KiB by PF0 takes effect, before READY as well. -/
theorem bar0Write_low {o : Nat} (ho : o < 0x30000) (v : Word) (f : Nat → State) :
    bar0Write s 0 o v f = .next ((f o).countWrite 0) := by
  have hlow : (!s.ready && decide (0x30000 ≤ o)) = false := by
    rw [decide_eq_false (Nat.not_le.mpr ho), Bool.and_false]
  refine (whenever_of_alive ha hc _).trans ?_
  rw [hlow, if_neg Bool.false_ne_true]
  rfl

include hv

omit ha hc in
theorem nudge_silent (fn : FnId) (l : Nat) : s.noteWrite fn l (fieldsAt oNUDGE) .full v noField = s := by
  rw [fieldsAt_NUDGE]
  refine State.noteWrite_silent s fn l ?_ rfl fun f _ => Bool.and_false _
  exact and_eq_zero_of_lt (k := 13) hv (by decide)

omit ha hc in
theorem nudged_ring : (⟨getBits v 12 0 % 8192, Nat.mod_lt _ (by decide)⟩ : RingId) = ⟨v.toNat % 8192, Nat.mod_lt _ (by decide)⟩ := by
  apply Fin.ext
  show getBits v 12 0 % 8192 = v.toNat % 8192
  rw [getBits_of_lt (hi := 12) hv]

theorem nudge_reads (hp : s.polled ⟨v.toNat % 8192, Nat.mod_lt _ (by decide)⟩ = true) :
    Completes (.nudge 0 .full v) s (fun t =>
      (∃ x ∈ t.hostReads, x.purpose = .tail ⟨v.toNat % 8192, Nat.mod_lt _ (by decide)⟩) ∧ t.mem = s.mem) := by
  let r : RingId := ⟨v.toNat % 8192, Nat.mod_lt _ (by decide)⟩
  have he : exec (.nudge 0 .full v) s = .next ((s.nudge r).countWrite 0) := by
    show execNudge 0 .full v s = _
    rw [execNudge, bar0Write_low ha hc (by decide)]
    dsimp only
    rw [nudge_silent hv, nudged_ring hv]
    rfl
  obtain ⟨o, h, n, xs, hread, hasked⟩ := State.askedTails_readTail { s with pollNo := s.pollNo + 1 } (s.pollNo + 1) r
  obtain ⟨x, hx, hq⟩ := hasked r List.mem_cons_self hp
  rw [State.nudge, hread] at he
  exact completes_of_eq he ⟨⟨x, List.mem_append_right _ hx, hq⟩, rfl⟩

theorem nudge_foreign {fn : FnId} {p : PartId} (hf : fnPart fn = some p)
    (hr : s.partOfRing ⟨v.toNat % 8192, Nat.mod_lt _ (by decide)⟩ ≠ some p) :
    Completes (.nudge fn .full v) s (fun t => t.hostReads = s.hostReads ∧ t.mem = s.mem) := by
  have hlow : (!s.ready && decide (0x30000 ≤ oNUDGE)) = false := by
    rw [decide_eq_false (by decide), Bool.and_false]
  have hexec : exec (.nudge fn .full v) s = .next
      (match s.viewOf fn oNUDGE with
       | none => s.logAccess oNUDGE fn 3 v
       | some l => (s.refuseWrite fn l v).countWrite fn) := by
    show execNudge fn .full v s = _
    rw [execNudge, bar0Write]
    refine (whenever_of_alive ha hc _).trans ?_
    rw [hlow, if_neg Bool.false_ne_true]
    cases s.viewOf fn oNUDGE with
    | none => rfl
    | some l =>
      dsimp only
      rw [nudge_silent hv, nudged_ring hv, hf, if_neg (by decide)]
      dsimp only
      rw [if_neg hr]
  cases hview : s.viewOf fn oNUDGE with
  | none =>
    rw [hview] at hexec
    exact completes_of_eq hexec ⟨State.logAccess_hostReads .., State.logAccess_mem ..⟩
  | some l =>
    rw [hview] at hexec
    exact completes_of_eq hexec ⟨State.logAccess_hostReads .., State.logAccess_mem ..⟩

end

/-! ### Tail words (R276) -/

theorem State.ringError_facts (s : State) (r : RingId) :
    (s.ringError r).regs = s.regs ∧ ((s.ringError r).ring r).tail = (s.ring r).tail ∧
      ∀ p, s.partOfRing r = some p → ((s.ringError r).ring r).errorRaised = true ∧
        ((s.ringError r).part p).events = if (s.ring r).errorRaised then (s.part p).events else (s.part p).events + 1 := by
  refine ⟨State.ringError_regs s r, ?_⟩
  cases hp : s.partOfRing r with
  | none =>
    rw [State.ringError, hp]
    exact ⟨rfl, fun p h => nomatch h⟩
  | some p =>
    have hsome : ∀ q, some p = some q → p = q := fun q h => Option.some.inj h
    rw [State.ringError, hp]
    dsimp only
    by_cases he : (s.ring r).errorRaised = true
    · rw [if_pos he]
      refine ⟨rfl, fun q hq => ⟨he, ?_⟩⟩
      rw [if_pos he]
    · rw [if_neg he]
      have hring : ∀ c x n, ((s.modRing r (fun k => { k with errorRaised := true })).raise p c x n).ring r =
          { s.ring r with errorRaised := true } := fun c x n => by
        rw [State.ring, State.raise_rings]
        exact State.ring_modRing_self s r _
      refine ⟨by rw [hring], fun q hq => ⟨by rw [hring], ?_⟩⟩
      rw [State.part_raise, if_neg he, hsome q hq, if_pos rfl]
      rfl

theorem State.ring_congr {s t : State} (h : t.rings = s.rings) (r : RingId) : t.ring r = s.ring r := by
  rw [State.ring, State.ring, h]

theorem State.fetched_congr {s t : State} (h : t.regs = s.regs) (r : RingId) : t.fetched r = s.fetched r := by
  rw [State.fetched, State.fetched, State.fld_congr h]

theorem State.setTail_facts (s : State) (r : RingId) (poll : Nat) (tail : BitVec 32) :
    ((s.setTail r poll tail).ring r).tail = tail ∧ ((s.setTail r poll tail).ring r).errorRaised = (s.ring r).errorRaised ∧
      ((s.setTail r poll tail).ring r).readySince.isSome = decide (tail ≠ s.fetched r) ∧
      s.setTail r poll tail = { s with rings := (s.setTail r poll tail).rings } := by
  rw [State.setTail, State.ring_modRing_self]
  refine ⟨rfl, rfl, ?_, rfl⟩
  dsimp only
  by_cases h : tail = s.fetched r
  · rw [if_pos h, decide_eq_false (not_not_intro h)]
    rfl
  · rw [if_neg h, decide_eq_true h]
    rfl

section
variable {s : State} {r : RingId} {tail : BitVec 32} {x : HostRead} (ha : s.alive = true)
  (hx : s.hostReads.find? (fun x => decide (x.purpose = .tail r) && x.issued) = some x)
include ha hx

/-- The state in which a tail word has been read. -/
def State.sansTail (s : State) (x : HostRead) : State := { s with hostReads := s.hostReads.erase x }

theorem exec_tailRead : exec (.tailRead r tail) s = .next ((s.sansTail x).takeTail r x.poll tail).issueReads := by
  show execTailRead r tail s = _
  rw [execTailRead, hx]
  exact whenever_of_alive ha rfl _

theorem tailRead_takes (hb : ¬ (tail - s.fetched r).toInt < 0) (hy : ¬ BitVec.ofNat 32 (s.ringSize r) < tail - s.retired r) :
    Completes (.tailRead r tail) s (fun t =>
      (t.hostReads.map HostRead.id = (s.hostReads.erase x).map HostRead.id ∧ t.mem = s.mem) ∧ (t.ring r).tail = tail ∧
      (t.ring r).readySince.isSome = decide (tail ≠ s.fetched r) ∧ t.parts = s.parts) := by
  have he := exec_tailRead (tail := tail) ha hx
  have htake : (s.sansTail x).takeTail r x.poll tail = (s.sansTail x).setTail r x.poll tail := by
    rw [State.takeTail]
    exact (if_neg hb).trans (if_neg hy)
  obtain ⟨h1, -, h2, h3⟩ := (s.sansTail x).setTail_facts r x.poll tail
  rw [htake] at he
  generalize (s.sansTail x).setTail r x.poll tail = t at he h1 h2 h3
  obtain ⟨o, h, l, hrest, hids⟩ := t.issueReads_rest
  rw [hrest] at he
  refine completes_of_eq he ⟨⟨hids.trans ?_, ?_⟩, h1, h2, ?_⟩
  · rw [h3]
    rfl
  · rw [h3]
    rfl
  · rw [h3]
    rfl

/-- A ring's error has been noted, and its partition's event raised once. -/
def State.RingRaised (s : State) (r : RingId) (t : State) : Prop :=
  ∀ p, s.partOfRing r = some p → (t.ring r).errorRaised = true ∧
    (t.part p).events = if (s.ring r).errorRaised then (s.part p).events else (s.part p).events + 1

theorem tailRead_clamps (hb : ¬ (tail - s.fetched r).toInt < 0) (hy : BitVec.ofNat 32 (s.ringSize r) < tail - s.retired r) :
    Completes (.tailRead r tail) s (fun t =>
      (t.ring r).tail = s.retired r + BitVec.ofNat 32 (s.ringSize r) ∧ s.RingRaised r t) := by
  have he := exec_tailRead (tail := tail) ha hx
  have htake : (s.sansTail x).takeTail r x.poll tail =
      ((s.sansTail x).ringError r).setTail r x.poll (s.retired r + BitVec.ofNat 32 (s.ringSize r)) := by
    rw [State.takeTail]
    exact (if_neg hb).trans (if_pos hy)
  obtain ⟨-, -, hraised⟩ := (s.sansTail x).ringError_facts r
  rw [htake] at he
  generalize (s.sansTail x).ringError r = u at he hraised
  obtain ⟨h1, h2, -, h3⟩ := u.setTail_facts r x.poll (s.retired r + BitVec.ofNat 32 (s.ringSize r))
  generalize u.setTail r x.poll (s.retired r + BitVec.ofNat 32 (s.ringSize r)) = t at he h1 h2 h3
  obtain ⟨o, h, l, hrest, -⟩ := t.issueReads_rest
  rw [hrest] at he
  refine completes_of_eq he ⟨h1, fun p hp => ?_⟩
  obtain ⟨he1, he2⟩ := hraised p hp
  refine ⟨h2.trans he1, ?_⟩
  have hparts : t.parts = u.parts := by rw [h3]
  exact (congrArg Part.events (State.part_congr hparts p)).trans he2

theorem tailRead_ignores (hb : (tail - s.fetched r).toInt < 0) :
    Completes (.tailRead r tail) s (fun t => (t.ring r).tail = (s.ring r).tail ∧ s.RingRaised r t) := by
  have he := exec_tailRead (tail := tail) ha hx
  have htake : (s.sansTail x).takeTail r x.poll tail = (s.sansTail x).ringError r := by
    rw [State.takeTail]
    exact if_pos hb
  obtain ⟨-, htail, hraised⟩ := (s.sansTail x).ringError_facts r
  rw [htake] at he
  generalize (s.sansTail x).ringError r = t at he htail hraised
  obtain ⟨o, h, l, hrest, -⟩ := t.issueReads_rest
  rw [hrest] at he
  exact completes_of_eq he ⟨htail, hraised⟩

end

/-! ### EN of a ring (R271, R272) -/

theorem fieldIf_false (los : List Nat) : fieldIf false los = noField := rfl

section
variable {s : State} {r : RingId} {v : Word} (ha : s.alive = true) (hc : s.power.configReady = true) (hr : s.ready = true)
  (hoff : s.bit (oRT_CTL r) 0 = false) (hv : v.getLsbD 0 = true)

/-- RT_CTL written whole, EN with it where no rule refuses it. -/
def State.ringWritten (s : State) (r : RingId) (v : Word) (no : Bool) : State :=
  (s.wordWrite 0 (oRT_CTL r) (oRT_CTL r) (fieldsAt (oRT_CTL r)) .full v (fieldIf no [0])).modRing r
    (fun k => { k with errorRaised := false })

theorem rtFields_rw (no : Bool) : ∀ f ∈ fieldsAt (oRT_CTL r), f.accepted (fieldIf no [0]) = true → f.access = .rw := by
  intro f hf hacc
  rw [fieldsAt_RT_CTL] at hf
  simp only [List.mem_cons, List.not_mem_nil, or_false] at hf
  rcases hf with rfl | rfl | rfl | rfl | rfl | rfl
  case inr.inr.inr.inl => cases hacc
  all_goals rfl

theorem State.ringWritten_en (s : State) (r : RingId) (v : Word) (no : Bool) :
    (s.ringWritten r v no).bit (oRT_CTL r) 0 = if no = true then s.bit (oRT_CTL r) 0 else v.getLsbD 0 := by
  have hbit : (s.ringWritten r v no).bit (oRT_CTL r) 0 =
      (s.wordWrite 0 (oRT_CTL r) (oRT_CTL r) (fieldsAt (oRT_CTL r)) .full v (fieldIf no [0])).bit (oRT_CTL r) 0 := rfl
  rw [hbit, State.bit_eq_getLsbD, State.wordWrite_reg_self, mergeWrite_getLsbD (rtFields_rw no) _ _ (by decide), fieldsAt_RT_CTL,
    State.bit_eq_getLsbD]
  have hheld : heldBy [rw 0 0, rw 1 1, rw 3 2, ro 12 8, rw 23 16, rw 34 24] (fieldIf no [0]) 0 = !no := by
    cases no <;> rfl
  rw [hheld]
  cases no <;> rfl

include ha hc hr hoff hv in
theorem exec_rtCtlWrite {w : Word} (hw : mergeWrite (fieldsAt (oRT_CTL r)) (s.reg (oRT_CTL r)) .full v noField = w) :
    exec (.rtCtlWrite 0 r .full v) s = .next
      ((if s.enRefused r w = true then s.ringWritten r v true else (s.ringWritten r v false).enableRing r).countWrite 0) := by
  have hbit : w.getLsbD 0 = true := by
    rw [← hw, ← fieldIf_false [0], mergeWrite_getLsbD (rtFields_rw false) _ _ (by decide), fieldsAt_RT_CTL]
    exact (if_pos rfl).trans hv
  show execRtCtlWrite 0 r .full v s = _
  rw [execRtCtlWrite, bar0Write_pf0 ha hc hr]
  dsimp only
  rw [hoff, fieldIf_false, hw]
  have hno : (!false && Acc.full != .hi && w.getLsbD 0 && s.enRefused r w) = s.enRefused r w := by
    rw [hbit]
    cases s.enRefused r w <;> rfl
  rw [hno]
  have hfields : (fun f => noField f || fieldIf (s.enRefused r w) [0] f) = fieldIf (s.enRefused r w) [0] := by
    funext f
    exact Bool.false_or _
  rw [hfields, if_neg (by decide : ¬ Acc.full = .hi)]
  have hshape : (s.wordWrite 0 (oRT_CTL r) (oRT_CTL r) (fieldsAt (oRT_CTL r)) .full v (fieldIf (s.enRefused r w) [0])).modRing r
      (fun k => { k with errorRaised := false }) = s.ringWritten r v (s.enRefused r w) := rfl
  rw [hshape, Bool.not_false, Bool.true_and, Bool.false_and, State.ringWritten_en, hoff, hv]
  cases s.enRefused r w <;> rfl

theorem oRT_CTL_ne_STAT (r : RingId) : oRT_CTL r ≠ oRT_STAT r := by
  simp only [oRT_CTL, oRT_STAT, oRT]
  omega

theorem oRT_CTL_ne_CANCEL (r : RingId) : oRT_CTL r ≠ oRT_CANCEL r := by
  simp only [oRT_CTL, oRT_CANCEL, oRT]
  omega

theorem oRT_STAT_ne_CANCEL (r : RingId) : oRT_STAT r ≠ oRT_CANCEL r := by
  simp only [oRT_STAT, oRT_CANCEL, oRT]
  omega

theorem oRT_ne {i j : Nat} (h : i ≠ j) : oRT r i ≠ oRT r j := by
  simp only [oRT]
  omega

theorem State.ringWritten_fld {s : State} {v : Word} {no : Bool} {k : Nat} (hk : k < 64) (h : k ≠ 0) (hi lo : Nat) :
    (s.ringWritten r v no).fld (oRT r k) hi lo = s.fld (oRT r k) hi lo := by
  have hlog : oRT r k ≠ oMEL_PTR := by
    have := r.isLt
    simp only [oRT, oMEL_PTR]
    omega
  exact State.fld_of_reg (State.wordWrite_reg_other (s := s) (fn := 0) (l := oRT_CTL r) (fs := fieldsAt (oRT_CTL r)) (a := .full)
    (v := v) (no := fieldIf no [0]) (o := oRT_CTL r) (oRT_ne h) hlog) hi lo

/-- A partition forgets what its recovery points said of a ring. -/
def State.voidPoints (s : State) (r : RingId) : State :=
  match s.partOfRing r with
  | some p => s.modPart p (fun x => { x with points := x.points.filter (fun y => decide (y.1 ≠ r)) })
  | none => s

theorem State.voidPoints_rest (s : State) (r : RingId) : ∃ ps, s.voidPoints r = { s with parts := ps } := by
  unfold State.voidPoints
  split
  · exact ⟨_, rfl⟩
  · exact ⟨s.parts, rfl⟩

/-- The registers of a ring that stands at a sequence with no cancel. -/
def State.seatWords (s : State) (r : RingId) (q : BitVec 32) : State :=
  (((s.setFld (oRT_STAT r) 31 0 q.toNat).setFld (oRT_STAT r) 63 32 q.toNat).setFld (oRT_CANCEL r) 31 0 0).setFld (oRT_CANCEL r) 32 32 0

/-- A ring that is new at a sequence. -/
def Ring.seated (q : BitVec 32) (due : Bool) (k : Ring) : Ring := { tail := q, adopted := k.adopted, lineDue := due }

theorem State.enableRing_eq (s : State) (r : RingId) :
    s.enableRing r = ((s.seatWords r (BitVec.ofNat 32 (s.fld (oRT_SIZE r) 63 32))).modRing r
      (Ring.seated (BitVec.ofNat 32 (s.fld (oRT_SIZE r) 63 32))
        (decide (s.retired r ≠ BitVec.ofNat 32 (s.fld (oRT_SIZE r) 63 32))))).voidPoints r := rfl

theorem State.modRing_parts_rest (s : State) (r : RingId) (f : Ring → Ring) (ps : Tab Part) :
    (∀ o hi lo, ({ s.modRing r f with parts := ps } : State).fld o hi lo = s.fld o hi lo) ∧
      ({ s.modRing r f with parts := ps } : State).mem = s.mem ∧
      ({ s.modRing r f with parts := ps } : State).ring r = f (s.ring r) :=
  ⟨fun _ _ _ => rfl, rfl, State.ring_modRing_self s r f⟩

theorem Ring.seated_tail (q : BitVec 32) (due : Bool) (k : Ring) : (Ring.seated q due k).tail = q := rfl

theorem State.seatWords_facts (s : State) (r : RingId) (q : BitVec 32) :
    (s.seatWords r q).fld (oRT_CTL r) 0 0 = s.fld (oRT_CTL r) 0 0 ∧ (s.seatWords r q).fld (oRT_STAT r) 31 0 = q.toNat ∧
      (s.seatWords r q).fld (oRT_STAT r) 63 32 = q.toNat ∧ (s.seatWords r q).fld (oRT_CANCEL r) 32 32 = 0 := by
  have hctl1 := oRT_CTL_ne_STAT r
  have hctl2 := oRT_CTL_ne_CANCEL r
  have hstat := oRT_STAT_ne_CANCEL r
  rw [State.seatWords]
  refine ⟨?_, ?_, ?_, ?_⟩
  · rw [State.fld_setFld_other _ _ _ _ _ _ _ _ hctl2, State.fld_setFld_other _ _ _ _ _ _ _ _ hctl2,
      State.fld_setFld_other _ _ _ _ _ _ _ _ hctl1, State.fld_setFld_other _ _ _ _ _ _ _ _ hctl1]
  · rw [State.fld_setFld_other _ _ _ _ _ _ _ _ hstat, State.fld_setFld_other _ _ _ _ _ _ _ _ hstat,
      State.fld_setFld_apart _ _ _ _ _ _ _ (by decide) (by decide), State.fld_setFld_self _ _ _ _ _ (by decide)]
    exact Nat.mod_eq_of_lt q.isLt
  · rw [State.fld_setFld_other _ _ _ _ _ _ _ _ hstat, State.fld_setFld_other _ _ _ _ _ _ _ _ hstat,
      State.fld_setFld_self _ _ _ _ _ (by decide)]
    exact Nat.mod_eq_of_lt q.isLt
  · exact State.fld_setFld_self _ _ _ _ _ (by decide)

/-- A ring that has been enabled stands at its start sequence. -/
theorem State.enableRing_facts {s : State} {r : RingId} {q : BitVec 32} (hq : BitVec.ofNat 32 (s.fld (oRT_SIZE r) 63 32) = q) :
    (s.enableRing r).bit (oRT_CTL r) 0 = s.bit (oRT_CTL r) 0 ∧ (s.enableRing r).fetched r = q ∧ (s.enableRing r).retired r = q ∧
      (s.enableRing r).bit (oRT_CANCEL r) 32 = false ∧ ((s.enableRing r).ring r).tail = q ∧ (s.enableRing r).mem = s.mem := by
  have hshape := s.enableRing_eq r
  rw [hq] at hshape
  obtain ⟨ps, hps⟩ := ((s.seatWords r q).modRing r (Ring.seated q (decide (s.retired r ≠ q)))).voidPoints_rest r
  rw [hshape, hps]
  obtain ⟨hctl, hlow, hhigh, hcancel⟩ := s.seatWords_facts r q
  have hmem : (s.seatWords r q).mem = s.mem := rfl
  have hfld : ∀ o hi lo,
      ({ (s.seatWords r q).modRing r (Ring.seated q (decide (s.retired r ≠ q))) with parts := ps } : State).fld o hi lo =
        (s.seatWords r q).fld o hi lo := (State.modRing_parts_rest _ _ _ _).1
  obtain ⟨-, hkept, hring⟩ := State.modRing_parts_rest (s.seatWords r q) r (Ring.seated q (decide (s.retired r ≠ q))) ps
  refine ⟨?_, ?_, ?_, ?_, ?_, hkept.trans hmem⟩
  · rw [State.bit, hfld, hctl, State.bit]
  · rw [State.fetched, hfld, hlow, BitVec.ofNat_toNat, BitVec.setWidth_eq]
  · rw [State.retired, hfld, hhigh, BitVec.ofNat_toNat, BitVec.setWidth_eq]
  · rw [State.bit, hfld, hcancel]
    rfl
  · rw [hring, Ring.seated_tail]

theorem State.ringWritten_mem (s : State) (r : RingId) (v : Word) (no : Bool) : (s.ringWritten r v no).mem = s.mem := by
  rw [State.ringWritten, State.modRing_mem, State.wordWrite_mem]

include ha hc hr hoff hv

theorem rtCtlWrite_enables
    (h : s.enRefused r (mergeWrite (fieldsAt (oRT_CTL r)) (s.reg (oRT_CTL r)) .full v noField) = false) :
    Completes (.rtCtlWrite 0 r .full v) s (fun t =>
      t.bit (oRT_CTL r) 0 = true ∧ t.fetched r = BitVec.ofNat 32 (s.fld (oRT_SIZE r) 63 32) ∧
      t.retired r = BitVec.ofNat 32 (s.fld (oRT_SIZE r) 63 32) ∧
      t.bit (oRT_CANCEL r) 32 = false ∧ (t.ring r).tail = BitVec.ofNat 32 (s.fld (oRT_SIZE r) 63 32) ∧ t.mem = s.mem) := by
  have he := exec_rtCtlWrite ha hc hr hoff hv rfl
  rw [h, if_neg Bool.false_ne_true] at he
  have hen := s.ringWritten_en r v false
  rw [if_neg Bool.false_ne_true, hv] at hen
  have hsize : (s.ringWritten r v false).fld (oRT_SIZE r) 63 32 = s.fld (oRT_SIZE r) 63 32 :=
    State.ringWritten_fld (by decide) (by decide) 63 32
  have hmem := s.ringWritten_mem r v false
  generalize s.ringWritten r v false = t at he hen hsize hmem
  obtain ⟨h1, h2, h3, h4, h5, h6⟩ := State.enableRing_facts (s := t) (r := r) (congrArg (BitVec.ofNat 32) hsize)
  exact completes_of_eq he ⟨h1.trans hen, h2, h3, h4, h5, h6.trans hmem⟩

theorem rtCtlWrite_refused
    (h : s.enRefused r (mergeWrite (fieldsAt (oRT_CTL r)) (s.reg (oRT_CTL r)) .full v noField) = true) :
    Completes (.rtCtlWrite 0 r .full v) s (fun t => t.bit (oRT_CTL r) 0 = false ∧ t.fetched r = s.fetched r ∧ t.mem = s.mem) := by
  have he := exec_rtCtlWrite ha hc hr hoff hv rfl
  rw [h, if_pos rfl] at he
  have hen := s.ringWritten_en r v true
  rw [if_pos rfl, hoff] at hen
  refine completes_of_eq he ⟨hen, ?_, s.ringWritten_mem r v true⟩
  exact congrArg (BitVec.ofNat 32) (State.ringWritten_fld (k := 0x28) (by decide) (by decide) 31 0)

end

/-- Settles O46: polls, nudges, tail words and the enabling of rings. -/
theorem ringPolls : Obligations.ringPolls := by
  unfold Obligations.ringPolls
  refine ⟨fun s ha hh => ?_, fun s r tail x ha hx => ?_, fun s r v ha hc hr hoff hv => ?_⟩
  · intro tails base b now
    exact ⟨fun hr => ⟨summaryPoll_reads ha hh hr, summaryPoll_none ha hh hr, class0TailPoll_reads ha hh hr⟩,
      fun hc v hv => ⟨nudge_reads ha hc hv, fun fn p hf hp => nudge_foreign ha hc hv hf hp⟩⟩
  · intro size behind beyond read raised
    exact ⟨tailRead_takes ha hx, tailRead_clamps ha hx, tailRead_ignores ha hx⟩
  · exact ⟨rtCtlWrite_enables ha hc hr hoff hv, rtCtlWrite_refused ha hc hr hoff hv⟩

end Sys2Proof.Machine
end

section
/-! PROOFS. A step on an empty queue is one root cycle (log entry 10). -/

namespace Sys2Proof.Machine

open Sys2Proof

/-- Between two states the cores differ in the work of their engines alone. -/
def State.OnlyWorks (s t : State) : Prop := ∀ c, (t.core c).sansWork = (s.core c).sansWork

theorem State.OnlyWorks.of_cores {s t : State} (h : t.cores = s.cores) : s.OnlyWorks t :=
  fun c => congrArg Core.sansWork (State.core_congr h c)

theorem State.OnlyWorks.trans {s t u : State} (h : s.OnlyWorks t) (k : t.OnlyWorks u) : s.OnlyWorks u :=
  fun c => (k c).trans (h c)

theorem State.OnlyWorks.foldl {α : Type} (f : State → α → State) (h : ∀ (s : State) a, s.OnlyWorks (f s a)) (l : List α) (s : State) :
    s.OnlyWorks (l.foldl f s) := by
  induction l generalizing s with
  | nil => exact .of_cores rfl
  | cons a l ih => exact (h s a).trans (ih _)

theorem State.onlyWorks_modCore (s : State) (c : CoreId) (f : Core → Core) (h : ∀ k, (f k).sansWork = k.sansWork) :
    s.OnlyWorks (s.modCore c f) := by
  intro d
  rw [State.core_modCore]
  split
  next hd => rw [h, hd]
  next => rfl

theorem State.onlyWorks_engineCycle (s : State) (c : CoreId) (u : EngineUnit) : s.OnlyWorks (s.engineCycle c u) := by
  unfold State.engineCycle
  dsimp only
  split
  · exact .of_cores rfl
  next x _ =>
    split
    · have hdone : ∀ w : Work, w.core.sansWork = (s.core c).sansWork → s.OnlyWorks (s.workDone c w) := by
        intro w hw d
        rw [State.workDone, State.core_congr (State.countN_cores ..) d, State.core_setCore]
        split
        next hd => rw [hw, hd]
        next => rfl
      have hwork := fun lim => hdone _ (workCycle_sansWork (s.core c) u x s.coreCycle s.duty lim)
      split
      · exact hwork _
      · exact (hwork _).trans (State.onlyWorks_modCore _ c _ (fun k => Core.sansWork_modEng k u _ (fun _ => rfl)))
    · exact .of_cores rfl

/-- A core cycle changes of the cores the work of their engines alone. -/
theorem State.onlyWorks_engineTick (s : State) : s.OnlyWorks s.engineTick := by
  refine State.OnlyWorks.foldl _ (fun t n => ?_) _ _
  split
  · exact State.OnlyWorks.foldl _ (fun t u => t.onlyWorks_engineCycle _ u) _ _
  · exact .of_cores rfl

/-- Where no engine has a command, a core cycle changes nothing. -/
theorem State.engineTick_of_no_commands {s : State} (h : ∀ c u, ((s.core c).engOf u).cmd = none) : s.engineTick = s := by
  have hcycle : ∀ c u, s.engineCycle c u = s := fun c u => by rw [State.engineCycle, h c u]
  have hunits : ∀ (c : CoreId) (us : List EngineUnit), us.foldl (fun t u => t.engineCycle c u) s = s := by
    intro c us
    induction us with
    | nil => rfl
    | cons u us ih => rw [List.foldl_cons, hcycle, ih]
  unfold State.engineTick
  generalize s.cores.map Prod.fst = l
  induction l with
  | nil => rfl
  | cons n l ih =>
    rw [List.foldl_cons]
    split
    · rw [hunits, ih]
    · exact ih

/-- A read of the module's own changes no memory. -/
theorem State.direct_read_mem (s : State) (part : Option PartId) (a len : Nat) (data : List Byte) :
    (s.direct part a .read len data).1.mem = s.mem := by
  unfold State.direct
  dsimp only
  split
  · exact State.logChan_mem ..
  split
  · exact State.logChan_mem ..
  split
  · rfl
  · rw [State.performReq]
    dsimp only
    split <;> simp

theorem State.settle_keeps_mem {s t : State} (h : t.mem = s.mem) : (s.settle t).mem = s.mem := by
  unfold State.settle
  split
  · exact h
  · exact mem_foldl _ (fun s a => State.arrange_mem s a) _ _

/-- The twin's copy reads memory and writes none. -/
theorem State.resyncStep_mem (s : State) : s.resyncStep.mem = s.mem := by
  refine State.settle_keeps_mem ?_
  split
  next a b n rest l _ _ _ =>
    have hread := s.direct_read_mem none a 64 []
    generalize s.direct none a .read 64 [] = r at hread
    obtain ⟨t, x⟩ := r
    dsimp only
    split
    · rw [State.syncLeft_mem]
      exact hread
    · rw [State.transmit_mem]
      refine Eq.trans ?_ hread
      exact State.syncLeft_mem _
  · rfl

theorem State.fabricTick_mem (s : State) : s.fabricTick.mem = s.mem := by
  unfold State.fabricTick
  have hparts : ∀ l : List Nat, (l.foldl (fun u n => if h : n < 32 then u.tickPart ⟨n, h⟩ else u) s).mem = s.mem :=
    fun l => mem_foldl _ (fun t n => by split <;> simp) l s
  dsimp only
  split
  · rw [State.resyncStep_mem, hparts]
  · exact hparts _

/-- One root cycle of a module that counts. -/
theorem State.tick_eq {s : State} (hlock : s.bit oCLK_STAT 0 = true) (hf : s.failed = false) :
    ∃ u : State, u.cores = s.cores ∧ u.mem = s.mem ∧ u.cycles = s.cycles + 1 ∧
      s.tick = (if (s.cycles + 1) % 10 = 0 then (if (s.cycles + 1) % 5 = 0 then u.engineTick else u).fabricTick
        else if (s.cycles + 1) % 5 = 0 then u.engineTick else u) := by
  refine ⟨({ s with cycles := s.cycles + 1 } : State).countModes (({ s with cycles := s.cycles + 1 } : State).memCycle - s.memCycle),
    ?_, ?_, ?_, ?_⟩
  · rw [State.countModes_cores]
  · rw [State.countModes_mem]
  · rw [State.countModes_cycles]
  · rw [State.tick, hlock, hf]
    rfl

theorem State.tick_counts {s : State} (hlock : s.bit oCLK_STAT 0 = true) (hf : s.failed = false) :
    s.tick.cycles = s.cycles + 1 ∧ s.tick.mem = s.mem ∧ s.OnlyWorks s.tick ∧
      ((s.cycles + 1) % 5 ≠ 0 ∨ (∀ c u, ((s.core c).engOf u).cmd = none) → s.tick.cores = s.cores) := by
  obtain ⟨u, hcores, hmem, hcyc, hu⟩ := State.tick_eq hlock hf
  obtain ⟨v, hv⟩ : ∃ v, v = (if (s.cycles + 1) % 5 = 0 then u.engineTick else u) := ⟨_, rfl⟩
  rw [← hv] at hu
  have hvmem : v.mem = s.mem := by rw [hv]; split <;> simp [hmem]
  have hvcyc : v.cycles = s.cycles + 1 := by rw [hv]; split <;> simp [hcyc]
  have hvwork : s.OnlyWorks v := by
    refine (State.OnlyWorks.of_cores hcores).trans ?_
    rw [hv]
    split
    · exact u.onlyWorks_engineTick
    · exact .of_cores rfl
  have hvcores : (s.cycles + 1) % 5 ≠ 0 ∨ (∀ c u, ((s.core c).engOf u).cmd = none) → v.cores = s.cores := by
    intro h
    rw [hv]
    split
    next h5 =>
      have hno := h.resolve_left (fun k => k h5)
      rw [State.engineTick_of_no_commands (fun c e => by rw [State.core_congr hcores c, hno]), hcores]
    next => exact hcores
  rw [hu]
  split
  · exact ⟨by rw [State.fabricTick_cycles, hvcyc], by rw [State.fabricTick_mem, hvmem],
      hvwork.trans (.of_cores (State.fabricTick_cores v)), fun h => (State.fabricTick_cores v).trans (hvcores h)⟩
  · exact ⟨hvcyc, hvmem, hvwork, hvcores⟩

/-- Settles O2: a step on an empty queue is one root cycle. -/
theorem idleTicks : Obligations.idleTicks := by
  unfold Obligations.idleTicks
  intro s hq
  have hstep : step s = .next s.tick := by rw [step, hq]
  refine ⟨fun h => ?_, fun hlock hf => ?_⟩
  · rw [hstep, State.tick, if_pos]
    rcases h with h | h <;> simp [h]
  · obtain ⟨hcyc, hmem, hwork, hcores⟩ := State.tick_counts hlock hf
    refine ⟨s.tick, hstep, hcyc, (State.tick_pending s).trans hq, hmem, State.tick_querns s, State.tick_pegs s,
      State.tick_tallies s, State.tick_bells s, fun c => ?_, hcores⟩
    obtain ⟨hs, hpc, -⟩ := Core.fields_of_sansWork (hwork c)
    exact ⟨hs, hpc⟩

end Sys2Proof.Machine
end

section
/-! PROOFS. Guarded registers and plain accesses of BAR0 (R6, R213, R257, R277, R295, R303, R372, R373, R375, R377, R379). -/

namespace Sys2Proof.Machine

open Sys2Proof

/-! ### Words of the partition table -/

theorem State.wordWrite_tables (s : State) (fn : FnId) (l o : Nat) (fs : List Field) (a : Acc) (v : Word) (no : Field → Bool) :
    (s.wordWrite fn l o fs a v no).tables = s.tables := by
  have hnote : (s.noteWrite fn l fs a v no).tables = s.tables :=
    State.same_of_sansBooks (s.noteWrite_sansBooks fn l fs a v no) State.tables
  unfold State.wordWrite
  dsimp only
  split <;> exact hnote

/-- The entries that a refused write leaves in the module error log. -/
def State.turnedDown (s : State) (fn : FnId) (l : Nat) (fs : List Field) (a : Acc) (v : Word) : State :=
  (if accWord a v &&& reservedBits fs ≠ 0 then s.logAccess l fn 0 v else s).refuseWrite fn l v

theorem State.turnedDown_facts (s : State) (fn : FnId) (l : Nat) (fs : List Field) (a : Acc) (v : Word) :
    (∀ o, o ≠ oMEL_PTR → (s.turnedDown fn l fs a v).reg o = s.reg o) ∧ (s.turnedDown fn l fs a v).mem = s.mem ∧
      (s.turnedDown fn l fs a v).tables = s.tables := by
  have hbooks : (s.turnedDown fn l fs a v).sansBooks = s.sansBooks := by
    unfold State.turnedDown State.refuseWrite
    split <;> simp only [State.logAccess_sansBooks]
  refine ⟨fun o ho => ?_, State.same_of_sansBooks hbooks State.mem, State.same_of_sansBooks hbooks State.tables⟩
  unfold State.turnedDown State.refuseWrite
  split <;> simp only [State.logAccess_reg _ _ _ _ _ ho]

section
variable {s : State} {v : Word} (ha : s.alive = true) (hc : s.power.configReady = true) (hr : s.ready = true)

section
variable {p : PartId} {off : BitVec 11} (hf : fieldsAt (oPT p.val off.toNat) ≠ []) (hoff : off.toNat ≠ 0x7F8)

theorem oPT_ne_MEL_PTR (p : PartId) (k : Nat) (h : k < 2048) : oPT p.val k ≠ oMEL_PTR := by
  have := p.isLt
  simp only [oPT, oMEL_PTR]
  omega

include ha hc hr hf hoff

/-- A write of the partition table by PF0. -/
theorem exec_partitionTableWrite : exec (.partitionTableWrite 0 p off .full v) s = .next
    ((if s.ptRefused p off.toNat (s.reg (oPT p.val off.toNat))
          (mergeWrite (fieldsAt (oPT p.val off.toNat)) (s.reg (oPT p.val off.toNat)) .full v noField) = true then
        s.turnedDown 0 (oPT p.val off.toNat) (fieldsAt (oPT p.val off.toNat)) .full v
      else if off.toNat = 0 then
        (s.wordWrite 0 (oPT p.val off.toNat) (oPT p.val off.toNat) (fieldsAt (oPT p.val off.toNat)) .full v noField).storeQuantum 0
          (oPT p.val off.toNat) p v
      else s.wordWrite 0 (oPT p.val off.toNat) (oPT p.val off.toNat) (fieldsAt (oPT p.val off.toNat)) .full v noField).countWrite
      0) := by
  show execPartitionTableWrite 0 p off .full v s = _
  rw [execPartitionTableWrite, bar0Write_pf0 ha hc hr]
  have hempty : (fieldsAt (oPT p.val off.toNat)).isEmpty = false := List.isEmpty_eq_false_iff.mpr hf
  dsimp only
  rw [if_neg hoff, hempty, if_neg Bool.false_ne_true]
  rfl

theorem partitionTableWrite_stores (h0 : off.toNat ≠ 0) :
    Completes (.partitionTableWrite 0 p off .full v) s (fun t =>
      t.reg (oPT p.val off.toNat) =
        (if s.ptRefused p off.toNat (s.reg (oPT p.val off.toNat))
            (mergeWrite (fieldsAt (oPT p.val off.toNat)) (s.reg (oPT p.val off.toNat)) .full v noField) = true
          then s.reg (oPT p.val off.toNat)
          else mergeWrite (fieldsAt (oPT p.val off.toNat)) (s.reg (oPT p.val off.toNat)) .full v noField) ∧
        t.mem = s.mem ∧ t.tables = s.tables) := by
  have he := exec_partitionTableWrite (v := v) ha hc hr hf hoff
  rw [if_neg h0] at he
  have hmel := oPT_ne_MEL_PTR p off.toNat off.isLt
  generalize oPT p.val off.toNat = o at he hmel ⊢
  generalize fieldsAt o = fs at he ⊢
  split at he
  next h =>
    rw [if_pos h]
    obtain ⟨hreg, hmem, htab⟩ := s.turnedDown_facts 0 o fs .full v
    exact completes_of_eq he ⟨hreg o hmel, hmem, htab⟩
  next h =>
    rw [if_neg h]
    exact completes_of_eq he ⟨State.wordWrite_reg_self s fs .full v noField 0 o o, State.wordWrite_mem s 0 o o fs .full v noField,
      s.wordWrite_tables 0 o o fs .full v noField⟩

theorem partitionTableWrite_foreign {fn : FnId} (hfn : fn ≠ 0) :
    Completes (.partitionTableWrite fn p off .full v) s (fun t =>
      t.reg (oPT p.val off.toNat) = s.reg (oPT p.val off.toNat) ∧ t.mem = s.mem) := by
  have hmel := oPT_ne_MEL_PTR p off.toNat off.isLt
  have hempty : (fieldsAt (oPT p.val off.toNat)).isEmpty = false := List.isEmpty_eq_false_iff.mpr hf
  have hpart : (fnPart fn).isSome = true := by
    have hval : fn.val ≠ 0 := fun h => hfn (Fin.ext h)
    rw [fnPart, dif_neg hval]
    rfl
  have he : exec (.partitionTableWrite fn p off .full v) s = .next
      (match s.viewOf fn (oPT p.val off.toNat) with
        | none => s.logAccess (oPT p.val off.toNat) fn 3 v
        | some l => (s.turnedDown fn l (fieldsAt (oPT p.val off.toNat)) .full v).countWrite fn) := by
    show execPartitionTableWrite fn p off .full v s = _
    rw [execPartitionTableWrite]
    dsimp only
    rw [bar0Write, hr, hempty, hpart]
    refine (whenever_of_alive ha hc _).trans (congrArg Host.Outcome.next ?_)
    simp only [if_neg hoff]
    rfl
  split at he
  · exact completes_of_eq he ⟨State.logAccess_reg s _ fn 3 v hmel, State.same_of_sansBooks (State.logAccess_sansBooks s _ fn 3 v) State.mem⟩
  next l _ =>
    obtain ⟨hreg, hmem, -⟩ := s.turnedDown_facts fn l (fieldsAt (oPT p.val off.toNat)) .full v
    exact completes_of_eq he ⟨hreg _ hmel, hmem⟩

end

/-! ### The quantum -/

theorem regAt_PT_CTL (p : PartId) : fieldsAt (oPT p.val 0) = [rw 0 0, rw 1 1, rw 3 2, rw 23 8 100, rw 39 32] := by
  have := p.isLt
  have ho : oPT p.val 0 = 0x180000 + 0x800 * p.val := rfl
  unfold fieldsAt
  rw [regAt_eq _ (by omega) (by omega)]
  simp only [List.append_assoc]
  rw [List.find?_append, find_outside regsRings 0x100000 0x17FFF8 _ (by decide) (by omega), Option.none_or, List.find?_append]
  unfold regsPartitions
  rw [List.find?_cons_of_pos (by simp [RegSpec.holds, oPT])]
  rfl

theorem State.storeQuantum_facts (s : State) (fn : FnId) (l : Nat) (p : PartId) (v : Word) :
    (s.storeQuantum fn l p v).fld (oPT_CTL p.val) 23 8 = max 100 (s.fld (oPT_CTL p.val) 23 8) ∧
      (s.storeQuantum fn l p v).fld (oPT_CTL p.val) 39 32 = s.fld (oPT_CTL p.val) 39 32 ∧ (s.storeQuantum fn l p v).mem = s.mem := by
  have hmel : oPT_CTL p.val ≠ oMEL_PTR := oPT_ne_MEL_PTR p 0 (by decide)
  have hmem : (s.storeQuantum fn l p v).mem = s.mem := State.storeQuantum_mem ..
  rw [State.storeQuantum] at *
  split
  next h =>
    have hreg := State.logAccess_reg (s.setFld (oPT_CTL p.val) 23 8 100) l fn 1 v hmel
    refine ⟨?_, ?_, ?_⟩
    · exact (State.fld_of_reg hreg 23 8).trans ((State.fld_setFld_self s _ 23 8 100 (by decide)).trans
        (Nat.max_eq_left (by omega)).symm)
    · exact (State.fld_of_reg hreg 39 32).trans (State.fld_setFld_apart s _ 23 8 100 39 32 (by decide) (by decide))
    · rw [if_pos h] at hmem
      exact hmem
  next h => exact ⟨(Nat.max_eq_right (by omega)).symm, rfl, rfl⟩

include ha hc hr

theorem partitionTableWrite_quantum {p : PartId} {off : BitVec 11} (h0 : off.toNat = 0)
    (h : s.ptRefused p 0 (s.reg (oPT p.val off.toNat))
      (mergeWrite (fieldsAt (oPT p.val off.toNat)) (s.reg (oPT p.val off.toNat)) .full v noField) = false) :
    Completes (.partitionTableWrite 0 p off .full v) s (fun t =>
      t.fld (oPT p.val off.toNat) 23 8 =
          max 100 (getBits (mergeWrite (fieldsAt (oPT p.val off.toNat)) (s.reg (oPT p.val off.toNat)) .full v noField) 23 8) ∧
        t.fld (oPT p.val off.toNat) 39 32 =
          getBits (mergeWrite (fieldsAt (oPT p.val off.toNat)) (s.reg (oPT p.val off.toNat)) .full v noField) 39 32 ∧
        t.mem = s.mem) := by
  have he := exec_partitionTableWrite (v := v) (p := p) (off := off) ha hc hr
    (by rw [h0, regAt_PT_CTL]; exact List.cons_ne_nil _ _) (by omega)
  rw [h0] at h he ⊢
  rw [h, if_neg Bool.false_ne_true, if_pos rfl] at he
  have hself := State.wordWrite_reg_self s (fieldsAt (oPT p.val 0)) .full v noField 0 (oPT p.val 0) (oPT p.val 0)
  have hmem := State.wordWrite_mem s 0 (oPT p.val 0) (oPT p.val 0) (fieldsAt (oPT p.val 0)) .full v noField
  generalize s.wordWrite 0 (oPT p.val 0) (oPT p.val 0) (fieldsAt (oPT p.val 0)) .full v noField = t at he hself hmem
  obtain ⟨h1, h2, h3⟩ := t.storeQuantum_facts 0 (oPT p.val 0) p v
  refine completes_of_eq he ⟨h1.trans ?_, h2.trans ?_, h3.trans hmem⟩
  · exact congrArg (fun w => max 100 (getBits w 23 8)) hself
  · exact congrArg (fun w => getBits w 39 32) hself

/-! ### Registers of one field -/

omit ha hc hr in
/-- The field of a register with one field, after a write of the whole register. -/
theorem fld_of_single {t : State} {o hi lo d : Nat} {no : Bool} (h64 : hi < 64)
    (hself : t.reg o = mergeWrite [rw hi lo d] (s.reg o) .full v (fieldIf no [lo])) :
    t.fld o hi lo = if no = true then s.fld o hi lo else getBits v hi lo := by
  have hrw : ∀ f ∈ [rw hi lo d], f.accepted (fieldIf no [lo]) = true → f.access = .rw := by
    intro f hf _
    rw [List.mem_singleton.mp hf]
    rfl
  have hheld : ∀ i, lo ≤ i → i ≤ hi → heldBy [rw hi lo d] (fieldIf no [lo]) i = !no := by
    intro i h1 h2
    have hin : decide (lo ≤ i ∧ i ≤ hi) = true := decide_eq_true ⟨h1, h2⟩
    have hcon : [lo].contains lo = true := by simp
    simp only [heldBy, List.any_cons, List.any_nil, Bool.or_false, Field.accepted, fieldIf]
    show ((true && !(no && [lo].contains lo)) && decide (lo ≤ i ∧ i ≤ hi)) = !no
    rw [hin, hcon, Bool.and_true, Bool.and_true, Bool.true_and]
  rw [State.fld, hself]
  cases no
  · exact getBits_mergeWrite_held hrw _ _ h64 hheld
  · exact getBits_mergeWrite_kept hrw _ _ h64 hheld

theorem hcCtlWrite_takes :
    Completes (.hcCtlWrite 0 .full v) s (fun t =>
      t.fld oHC_CTL 2 0 =
          (if 4 < getBits v 2 0 ∨ 0 < s.ringsWhere (fun r => s.fld (oRT_CTL r.val) 3 2 == 0) then s.fld oHC_CTL 2 0
            else getBits v 2 0) ∧ t.mem = s.mem) := by
  obtain ⟨no, hno⟩ : ∃ no, no = (decide (4 < getBits v 2 0) ||
    decide (0 < s.ringsWhere (fun r => s.fld (oRT_CTL r.val) 3 2 == 0))) := ⟨_, rfl⟩
  have he : exec (.hcCtlWrite 0 .full v) s =
      .next ((s.wordWrite 0 oHC_CTL oHC_CTL [rw 2 0] .full v (fieldIf no [0])).countWrite 0) := by
    show execHcCtlWrite 0 .full v s = _
    rw [execHcCtlWrite, bar0Write_pf0 ha hc hr, hno]
    rfl
  have hself := State.wordWrite_reg_self s [rw 2 0] .full v (fieldIf no [0]) 0 oHC_CTL oHC_CTL
  refine completes_of_eq he ⟨(fld_of_single (by decide) hself).trans ?_, State.wordWrite_mem ..⟩
  rw [hno]
  simp only [Bool.or_eq_true, decide_eq_true_eq]

theorem bar2MapWrite_takes :
    Completes (.bar2MapWrite 0 .full v) s (fun t =>
      t.fld oBAR2_MAP 40 36 =
          (if badBase s.bar2Gib (getBits v 40 36) = true then s.fld oBAR2_MAP 40 36 else getBits v 40 36) ∧ t.mem = s.mem) := by
  have he : exec (.bar2MapWrite 0 .full v) s = .next ((s.wordWrite 0 oBAR2_MAP oBAR2_MAP [rw 40 36] .full v
      (fieldIf (badBase s.bar2Gib (getBits v 40 36)) [36])).countWrite 0) := by
    show execBar2MapWrite 0 .full v s = _
    rw [execBar2MapWrite, bar0Write_pf0 ha hc hr]
    rfl
  have hself := State.wordWrite_reg_self s [rw 40 36] .full v (fieldIf (badBase s.bar2Gib (getBits v 40 36)) [36]) 0 oBAR2_MAP oBAR2_MAP
  exact completes_of_eq he ⟨fld_of_single (by decide) hself, State.wordWrite_mem ..⟩

omit hr in
theorem bar2Resize_takes (k : Fin 4) :
    Completes (.bar2Resize k) s (fun t =>
      t.bar2Gib = 64 * 2 ^ k.val ∧ t.mem = s.mem ∧
        t.fld oBAR2_MAP 40 36 = (if 64 * 2 ^ k.val = s.bar2Gib then s.fld oBAR2_MAP 40 36 else 0)) := by
  have he : exec (.bar2Resize k) s = .next (if 64 * 2 ^ k.val = s.bar2Gib then s
      else { s.setFld oBAR2_MAP 40 36 0 with bar2Gib := 64 * 2 ^ k.val }) := whenever_of_alive ha hc _
  split at he
  next h =>
    rw [if_pos h]
    exact completes_of_eq he ⟨h.symm, rfl, rfl⟩
  next h =>
    rw [if_neg h]
    exact completes_of_eq he ⟨rfl, rfl, State.fld_setFld_self s oBAR2_MAP 40 36 0 (by decide)⟩

/-- A write of PWR_CAP: its field takes what is written, where that is not too small, and at most 2500. -/
theorem pwrCapWrite_takes {n : Nat} (hn : (if getBits v 11 0 < 1200 then s.fld oPWR_CAP 11 0 else getBits v 11 0) = n) :
    Completes (.pwrCapWrite 0 .full v) s (fun t => t.fld oPWR_CAP 11 0 = min 2500 n ∧ t.mem = s.mem) := by
  have hself := State.wordWrite_reg_self s [rw 11 0 2500] .full v (fieldIf (decide (getBits v 11 0 < 1200)) [0]) 0 oPWR_CAP oPWR_CAP
  have hfld := fld_of_single (s := s) (v := v) (by decide) hself
  simp only [decide_eq_true_eq] at hfld
  rw [hn] at hfld
  have hmem := State.wordWrite_mem s 0 oPWR_CAP oPWR_CAP [rw 11 0 2500] .full v (fieldIf (decide (getBits v 11 0 < 1200)) [0])
  have he : exec (.pwrCapWrite 0 .full v) s = .next
      ((fun t : State => if 2500 < t.fld oPWR_CAP 11 0 then t.setFld oPWR_CAP 11 0 2500 else t)
        (s.wordWrite 0 oPWR_CAP oPWR_CAP [rw 11 0 2500] .full v (fieldIf (decide (getBits v 11 0 < 1200)) [0])) |>.countWrite 0) := by
    show execPwrCapWrite 0 .full v s = _
    rw [execPwrCapWrite, bar0Write_pf0 ha hc hr]
    rfl
  generalize s.wordWrite 0 oPWR_CAP oPWR_CAP [rw 11 0 2500] .full v (fieldIf (decide (getBits v 11 0 < 1200)) [0]) = t at he hfld hmem
  dsimp only at he
  rw [hfld] at he
  split at he
  next h =>
    exact completes_of_eq he ⟨(State.fld_setFld_self t oPWR_CAP 11 0 2500 (by decide)).trans (Nat.min_eq_left (by omega)).symm, hmem⟩
  next h => exact completes_of_eq he ⟨hfld.trans (Nat.min_eq_right (by omega)).symm, hmem⟩

/-! ### Plain accesses of BAR0 -/

omit ha hc hr in
theorem toNat_offset {o : Nat} (h : o < 2 ^ 23) : (BitVec.ofNat 23 o).toNat = o := by
  rw [BitVec.toNat_ofNat, Nat.mod_eq_of_lt h]

omit ha hc hr in
theorem oELOG_PTR_lt (n : ChanId) : oELOG_PTR n < 2 ^ 23 := by
  have := n.isLt
  simp only [oELOG_PTR, oCH]
  omega

/-- A read of BAR0 by PF0 that is not one of FLUSH. -/
theorem exec_rcFieldRead {off : BitVec 23} {size : Nat} (h : off.toNat ≠ oFLUSH) :
    exec (.rcFieldRead 0 off size) s = .next (s.readAt 0 off.toNat off.toNat size) := by
  show execRcFieldRead 0 off size s = _
  rw [execRcFieldRead]
  have hview : s.viewed 0 off.toNat = some off.toNat := rfl
  rw [hview, hr]
  exact (if_neg (fun k => h k.1)).trans (whenever_of_alive ha hc _)

/-- A write of BAR0 by PF0. -/
theorem exec_registerWrite {off : BitVec 23} {size : Nat} :
    exec (.registerWrite 0 off size v) s = .next (s.writeBar0 0 off.toNat off.toNat size v) := by
  show execRegisterWrite 0 off size v s = _
  rw [execRegisterWrite]
  have hview : s.viewed 0 off.toNat = some off.toNat := rfl
  rw [hview, hr]
  exact whenever_of_alive ha hc _

omit ha hc hr in
theorem reach_unaligned {o n : Nat} (h : o % 4 ≠ 0) : reach o n = .bad := by
  rw [reach, if_neg (by omega), if_neg (by omega)]

theorem access_unaligned {off : BitVec 23} (h : off.toNat % 4 ≠ 0) (n : Nat) :
    exec (.rcFieldRead 0 off n) s = .next ((s.logAccess off.toNat 0 2 0).answerRead 0 (List.replicate n 0)) ∧
      exec (.registerWrite 0 off n v) s = .next (s.logAccess off.toNat 0 2 v) := by
  have hflush : off.toNat ≠ oFLUSH := fun k => h (by rw [k]; rfl)
  rw [exec_rcFieldRead ha hc hr hflush, exec_registerWrite ha hc hr, State.readAt, State.writeBar0, reach_unaligned h]
  exact ⟨rfl, rfl⟩

theorem registerWrite_hole : exec (.registerWrite 0 0x80#23 8 v) s = .next (s.logAccess 0x80 0 3 v) := by
  rw [exec_registerWrite ha hc hr, State.writeBar0]
  have hreach : reach (0x80#23).toNat 8 = .hole := by rfl
  rw [hreach]
  rfl

theorem registerWrite_command : exec (.registerWrite 0 (BitVec.ofNat 23 oPWR_CAP) 8 v) s = exec (.pwrCapWrite 0 .full v) s := by
  have hoff : (BitVec.ofNat 23 oPWR_CAP).toNat = oPWR_CAP := toNat_offset (by decide)
  obtain ⟨r, hreach⟩ : ∃ r, reach oPWR_CAP 8 = .reg oPWR_CAP r .full := ⟨_, by rfl⟩
  have hrow : s.rowWrite 0 oPWR_CAP .full v = some (stateOf s (execPwrCapWrite 0 .full v s)) := rfl
  have hhole : loftHole oPWR_CAP = false := by decide
  rw [exec_registerWrite ha hc hr, hoff, State.writeBar0, hreach]
  dsimp only
  rw [State.writeAt, hhole, if_neg Bool.false_ne_true, hrow]
  show _ = execPwrCapWrite 0 .full v s
  rw [execPwrCapWrite, bar0Write_pf0 ha hc hr]
  rfl

omit ha hc hr in
/-- What a plain write of a register does that no rule guards. -/
theorem State.plainWrite_of_word {s : State} {o : Nat} {r : RegSpec} (href : ∀ w, s.refusesReg o w = false) (hhome : r.home ≠ .view)
    (hfield : ∀ w f, s.refusesField o w f = false) (hafter : ∀ t : State, t.afterWrite (s.reg o) o = t) :
    s.plainWrite 0 o o r .full v = s.wordWrite 0 o o r.fields .full v noField := by
  rw [State.plainWrite]
  dsimp only
  rw [href, if_neg Bool.false_ne_true, if_neg hhome, hafter]
  congr 1
  exact funext fun f => hfield _ f

theorem registerWrite_stores :
    Completes (.registerWrite 0 (BitVec.ofNat 23 oDB_SUMMARY) 8 v) s (fun t =>
      t.fld oDB_SUMMARY 63 10 = getBits v 63 10 ∧ t.mem = s.mem ∧ ∀ o, o ≠ oDB_SUMMARY → o ≠ oMEL_PTR → t.reg o = s.reg o) := by
  have hoff : (BitVec.ofNat 23 oDB_SUMMARY).toNat = oDB_SUMMARY := toNat_offset (by decide)
  have hreach : reach oDB_SUMMARY 8 = .reg oDB_SUMMARY { base := 0x50, fields := [rw 63 10] } .full := by rfl
  have hhole : loftHole oDB_SUMMARY = false := by decide
  have hplain : s.plainWrite 0 oDB_SUMMARY oDB_SUMMARY { base := 0x50, fields := [rw 63 10] } .full v =
      s.wordWrite 0 oDB_SUMMARY oDB_SUMMARY [rw 63 10] .full v noField :=
    State.plainWrite_of_word (fun _ => rfl) (by decide) (fun _ _ => rfl) (fun _ => rfl)
  have hwrite : s.writeBar0 0 oDB_SUMMARY oDB_SUMMARY 8 v =
      (s.wordWrite 0 oDB_SUMMARY oDB_SUMMARY [rw 63 10] .full v noField).countWrite 0 := by
    rw [State.writeBar0, hreach]
    dsimp only
    rw [State.writeAt, hhole, if_neg Bool.false_ne_true, ← hplain]
    rfl
  have he := exec_registerWrite (v := v) (off := BitVec.ofNat 23 oDB_SUMMARY) (size := 8) ha hc hr
  rw [hoff, hwrite] at he
  have hself := State.wordWrite_reg_self s [rw 63 10] .full v (fieldIf false [10]) 0 oDB_SUMMARY oDB_SUMMARY
  refine completes_of_eq he ⟨fld_of_single (no := false) (by decide) hself, State.wordWrite_mem .., fun o ho hm => ?_⟩
  exact State.wordWrite_reg_other s 0 oDB_SUMMARY [rw 63 10] .full v noField ho hm

omit ha hc hr in
theorem regAt_ELOG_PTR (n : ChanId) : regAt (oELOG_PTR n) =
    some { base := 0x200068, n1 := 256, s1 := 0x1000, fields := [rw 6 0, ro 14 8, rc 31 16] } := by
  have := n.isLt
  rw [show oELOG_PTR n = oCH n 0x68 from rfl, regAt_channel n _ (by omega)]
  unfold regsChannels
  repeat (rw [List.find?_cons_of_neg (by simp [RegSpec.holds, oCH]; omega)])
  rw [List.find?_cons_of_pos (by simp [RegSpec.holds, oCH])]

omit ha hc hr in
/-- The readable bits of a word hold the fields that it has there. -/
theorem getBits_and_mask {w m : Word} {hi lo : Nat} (h : getBits m hi lo = 2 ^ (hi + 1 - lo) - 1) :
    getBits (w &&& m) hi lo = getBits w hi lo := by
  refine Nat.eq_of_testBit_eq fun i => ?_
  have hbit := congrArg (Nat.testBit · i) h
  simp only [Nat.testBit_two_pow_sub_one] at hbit
  rw [getBits_testBit] at hbit ⊢
  rw [getBits_testBit, BitVec.getLsbD_and]
  by_cases hi' : i < hi + 1 - lo
  · have : m.getLsbD (lo + i) = true := by simpa [hi'] using hbit
    rw [this, Bool.and_true]
  · simp [hi']

theorem rcFieldRead_clears (n : ChanId) :
    Completes (.rcFieldRead 0 (BitVec.ofNat 23 (oELOG_PTR n)) 8) s (fun t =>
      t.fld (oELOG_PTR n) 31 16 = 0 ∧ t.fld (oELOG_PTR n) 14 0 = s.fld (oELOG_PTR n) 14 0 ∧
        (∀ o, o ≠ oELOG_PTR n → t.reg o = s.reg o) ∧ t.mem = s.mem ∧
        ∃ w : Word, t.outbox = s.outbox ++ [.pcie 0 .success (natLe 8 w.toNat)] ∧
          getBits w 31 16 = s.fld (oELOG_PTR n) 31 16 ∧ getBits w 14 8 = s.fld (oELOG_PTR n) 14 8 ∧
          getBits w 6 0 = s.fld (oELOG_PTR n) 6 0) := by
  have hn := n.isLt
  have hoff : (BitVec.ofNat 23 (oELOG_PTR n)).toNat = oELOG_PTR n := toNat_offset (oELOG_PTR_lt n)
  have halign : oELOG_PTR n % 8 = 0 := by
    simp only [oELOG_PTR, oCH]
    omega
  have hflush : oELOG_PTR n ≠ oFLUSH := by
    simp only [oELOG_PTR, oFLUSH, oCH, ne_eq]
    omega
  have hreach : reach (oELOG_PTR n) 8 =
      .reg (oELOG_PTR n) { base := 0x200068, n1 := 256, s1 := 0x1000, fields := [rw 6 0, ro 14 8, rc 31 16] } .full := by
    rw [reach, if_pos ⟨rfl, halign⟩, regAt_ELOG_PTR]
    rfl
  have hclear : s.clearRc (oELOG_PTR n) { base := 0x200068, n1 := 256, s1 := 0x1000, fields := [rw 6 0, ro 14 8, rc 31 16] } .full =
      s.setFld (oELOG_PTR n) 31 16 0 := rfl
  have hword : s.regRead 0 (oELOG_PTR n) { base := 0x200068, n1 := 256, s1 := 0x1000, fields := [rw 6 0, ro 14 8, rc 31 16] } =
      s.reg (oELOG_PTR n) &&& readableBits [rw 6 0, ro 14 8, rc 31 16] := by
    have hhole : loftHole (oELOG_PTR n) = false := by
      have hlow : ¬ 0x800 ≤ oELOG_PTR n % 0x1000 := by
        simp only [oELOG_PTR, oCH]
        omega
      rw [loftHole, decide_eq_false hlow, Bool.and_false, Bool.false_and]
    rw [State.regRead, hhole, if_neg Bool.false_ne_true]
    dsimp only
    have hring : ¬ (0x100000 ≤ oELOG_PTR n ∧ oELOG_PTR n < 0x180000 ∧ oELOG_PTR n % 64 = 0) := by
      simp only [oELOG_PTR, oCH]
      omega
    have hhome : Home.word ≠ Home.view := by decide
    rw [if_neg hhome, if_neg hring]
  have he := exec_rcFieldRead (off := BitVec.ofNat 23 (oELOG_PTR n)) (size := 8) ha hc hr (by rw [hoff]; exact hflush)
  rw [hoff, State.readAt, hreach] at he
  dsimp only at he
  rw [hclear, hword] at he
  refine completes_of_eq he ⟨State.fld_setFld_self s _ 31 16 0 (by decide), State.fld_setFld_apart s _ 31 16 0 14 0 (by decide) (by decide),
    fun o ho => ?_, rfl, _, rfl, getBits_and_mask (by decide), getBits_and_mask (by decide), getBits_and_mask (by decide)⟩
  exact (State.reg_setFld s (oELOG_PTR n) 31 16 0 o).trans (if_neg ho)

end

/-- Settles O52: guarded registers and plain accesses of BAR0. -/
theorem guardedRegisters : Obligations.guardedRegisters := by
  unfold Obligations.guardedRegisters
  refine ⟨fun s v ha hc hr => ⟨fun p off => ?_, ?_, ?_, ?_, fun k => bar2Resize_takes ha hc k⟩, fun s v ha hc hr => ?_⟩
  · intro o new hf hoff
    exact ⟨partitionTableWrite_stores ha hc hr hf hoff, partitionTableWrite_quantum ha hc hr,
      fun fn hfn => partitionTableWrite_foreign ha hc hr hf hoff hfn⟩
  · exact hcCtlWrite_takes ha hc hr
  · intro x
    refine ⟨fun h => pwrCapWrite_takes ha hc hr (if_neg (by omega)), fun h hcap => ?_⟩
    have := pwrCapWrite_takes (v := v) ha hc hr (if_pos h)
    rw [Nat.min_eq_right hcap] at this
    exact this
  · exact bar2MapWrite_takes ha hc hr
  · exact ⟨rcFieldRead_clears ha hc hr, fun off h n _ => access_unaligned ha hc hr h n, registerWrite_stores ha hc hr,
      registerWrite_hole ha hc hr, registerWrite_command ha hc hr⟩

end Sys2Proof.Machine
end

section
/-! PROOFS. Descriptors that only order: NOP, FENCE, FLUSH, CANCEL, TIMESTAMP, ABORT_PARTITION, INGRESS_FENCE (R263, R282, R286, R288,
R306). -/

namespace Sys2Proof.Machine

open Sys2Proof

section
variable {s : State} {r : RingId} {q : BitVec 32} {p : PartId} {d : Desc} (ha : s.alive = true)
  (hd : s.descOf r q = some (p, d))

include ha hd in
/-- A started descriptor acts. -/
theorem onDesc_acts (hst : d.stage = .started) {opc : Nat} (ho : d.opc = opc) (f : PartId → Desc → State) :
    onDesc s r q opc f = .next (f p d) := by
  rw [onDesc, hd]
  exact whenever_of_alive ha (by rw [ho, hst, beq_self_eq_true]; rfl) _

include ha hd in
/-- A running descriptor acts. -/
theorem onRunning_acts (hst : d.stage = .running) {opc : Nat} (ho : d.opc = opc) (f : PartId → Desc → State) :
    onRunning s r q opc f = .next (f p d) := by
  rw [onRunning, hd]
  exact whenever_of_alive ha (by rw [ho, hst, beq_self_eq_true]; rfl) _

include hd in
theorem descOf_names : d.ring = r ∧ d.seq = q :=
  named_iff.mp (List.find?_some (p := fun d : Desc => d.named r q) (State.descOf_iff.mp hd).2)

include hd in
/-- A change of a descriptor changes its partition alone. -/
theorem State.modDesc_rest (f : Desc → Desc) :
    s.modDesc r q f = { s with parts := (s.modDesc r q f).parts } ∧ ∀ o, o ≠ p → (s.modDesc r q f).part o = s.part o := by
  rw [State.modDesc_eq_mapDescs (State.descOf_iff.mp hd).1]
  exact ⟨rfl, fun o ho => (State.part_modPart ..).trans (if_neg ho)⟩

/-- The end of a descriptor under way, and nothing else. -/
def State.OnlyEnds (s : State) (r : RingId) (q : BitVec 32) (p : PartId) (d : Desc) (st : Nat) (t : State) : Prop :=
  t.Ended r q d st ∧ t = { s with parts := t.parts } ∧ ∀ o, o ≠ p → t.part o = s.part o

include hd in
theorem onlyEnds_endDesc (hopen : d.stage ≠ .ended ∧ d.stage ≠ .completed) (st : Nat) : s.OnlyEnds r q p d st (s.endDesc r q st) :=
  ⟨State.ended_endDesc hd hopen st, State.modDesc_rest hd _⟩

include hd in
/-- A descriptor whose operation has begun. -/
theorem State.runs_running_ : ∃ o e, (s.running_ r q).descOf r q = some (o, e) ∧ e.stage = .running :=
  ⟨p, _, State.descOf_modDesc (f := fun d => { d with stage := .running }) hd (fun _ => ⟨rfl, rfl⟩), rfl⟩

section
variable (hst : d.stage = .started)
include ha hd hst

/-! ### What only orders -/

theorem nopDescriptor_ends (ho : d.opc = 0x00) : Completes (.nopDescriptor r q) s (s.OnlyEnds r q p d 0) :=
  completes_of_eq (onDesc_acts ha hd hst ho _) (onlyEnds_endDesc hd (notOver_of_started hst) 0)

theorem exec_fence (ho : d.opc = 0x07) : exec (.fence r q) s = .next
    (if (∃ x ∈ d.fences, s.partOfRing x.1 ≠ some p) then s.endDesc r q 0x0011
      else if s.ringDone p d = true ∧ ∀ x ∈ d.fences, s.boundDone p x.1 x.2 = true then s.endDesc r q 0 else s) := by
  refine (onDesc_acts ha hd hst ho _).trans (congrArg Host.Outcome.next ?_)
  simp only [List.any_eq_true, decide_eq_true_eq, Bool.and_eq_true, List.all_eq_true]

theorem fence_foreign (ho : d.opc = 0x07) (hf : ∃ x ∈ d.fences, s.partOfRing x.1 ≠ some p) :
    Completes (.fence r q) s (s.OnlyEnds r q p d 0x0011) := by
  have he := exec_fence ha hd hst ho
  rw [if_pos hf] at he
  exact completes_of_eq he (onlyEnds_endDesc hd (notOver_of_started hst) 0x0011)

theorem fence_ends (ho : d.opc = 0x07) (hf : ¬ ∃ x ∈ d.fences, s.partOfRing x.1 ≠ some p)
    (hdone : s.ringDone p d = true ∧ ∀ x ∈ d.fences, s.boundDone p x.1 x.2 = true) :
    Completes (.fence r q) s (s.OnlyEnds r q p d 0) := by
  have he := exec_fence ha hd hst ho
  rw [if_neg hf, if_pos hdone] at he
  exact completes_of_eq he (onlyEnds_endDesc hd (notOver_of_started hst) 0)

theorem fence_waits (ho : d.opc = 0x07) (hf : ¬ ∃ x ∈ d.fences, s.partOfRing x.1 ≠ some p)
    (hdone : ¬ (s.ringDone p d = true ∧ ∀ x ∈ d.fences, s.boundDone p x.1 x.2 = true)) : exec (.fence r q) s = .next s := by
  rw [exec_fence ha hd hst ho, if_neg hf, if_neg hdone]

theorem exec_flush (ho : d.opc = 0x08) :
    exec (.flush r q) s = .next (if s.ringDone p d = true then s.endDesc r q 0 else s) := onDesc_acts ha hd hst ho _

theorem flush_ends (ho : d.opc = 0x08) (hdone : s.ringDone p d = true) : Completes (.flush r q) s (s.OnlyEnds r q p d 0) := by
  have he := exec_flush ha hd hst ho
  rw [if_pos hdone] at he
  exact completes_of_eq he (onlyEnds_endDesc hd (notOver_of_started hst) 0)

theorem flush_waits (ho : d.opc = 0x08) (hdone : s.ringDone p d = false) : exec (.flush r q) s = .next s := by
  rw [exec_flush ha hd hst ho, hdone, if_neg Bool.false_ne_true]

/-- Every descriptor that a CANCEL covers has completed. -/
def State.CancelDone (s : State) (p : PartId) (d : Desc) : Prop :=
  ∀ x ∈ earlier (s.descs p) d, x.ring = d.target → before x.seq d.bound = true → x.done = true

omit ha hd hst in
theorem State.cancelDone_iff (s : State) (p : PartId) (d : Desc) :
    (earlier (s.descs p) d).all (fun x => !(decide (x.ring = d.target) && before x.seq d.bound) || x.done) = true ↔
      s.CancelDone p d := by
  simp only [State.CancelDone, List.all_eq_true, Bool.or_eq_true, Bool.not_eq_true', Bool.and_eq_false_iff, decide_eq_false_iff_not]
  refine forall_congr' fun x => forall_congr' fun _ => ?_
  constructor
  · rintro (h | h) h1 h2
    · rcases h with h | h
      · exact absurd h1 h
      · rw [h] at h2
        exact nomatch h2
    · exact h
  · intro h
    by_cases h1 : x.ring = d.target
    · by_cases h2 : before x.seq d.bound = true
      · exact .inr (h h1 h2)
      · exact .inl (.inr (Bool.eq_false_iff.mpr h2))
    · exact .inl (.inl h1)

theorem cancel_ends (ho : d.opc = 0x0F) (h : s.CancelDone p d) : Completes (.cancel r q) s (s.OnlyEnds r q p d 0) :=
  completes_of_eq ((onDesc_acts ha hd hst ho _).trans (congrArg Host.Outcome.next (if_pos ((s.cancelDone_iff p d).mpr h))))
    (onlyEnds_endDesc hd (notOver_of_started hst) 0)

theorem cancel_waits (ho : d.opc = 0x0F) (h : ¬ s.CancelDone p d) : exec (.cancel r q) s = .next s :=
  (onDesc_acts ha hd hst ho _).trans (congrArg Host.Outcome.next (if_neg (fun k => h ((s.cancelDone_iff p d).mp k))))

theorem timestamp_ends (ho : d.opc = 0x11) (h : d.f 16 8 = 0) : Completes (.timestamp r q) s (s.OnlyEnds r q p d 0) :=
  completes_of_eq ((onDesc_acts ha hd hst ho _).trans (congrArg Host.Outcome.next (if_pos h)))
    (onlyEnds_endDesc hd (notOver_of_started hst) 0)

/-! ### ABORT_PARTITION -/

theorem abortPartition_refused (ho : d.opc = 0x10) (h : s.cfg (oRT_CTL r) 1 1 = 0) :
    Completes (.abortPartition r q) s (s.OnlyEnds r q p d 0x0014) :=
  completes_of_eq ((onDesc_acts ha hd hst ho _).trans (congrArg Host.Outcome.next (if_pos h)))
    (onlyEnds_endDesc hd (notOver_of_started hst) 0x0014)

theorem abortPartition_begins (ho : d.opc = 0x10) (h : s.cfg (oRT_CTL r) 1 1 = 1) (hab : (s.part p).abort = none)
    (hj : (s.part p).joints = []) (hc : s.hostCarts = []) (hcl : (s.part p).closing = false) :
    Completes (.abortPartition r q) s (fun t =>
      (t.part p).abort = some (.descriptor r q) ∧ (t.part p).switch = none ∧ t.bit (oPT_ABORT p.val) 1 = true ∧
        t.mem = s.mem ∧ t.cores = s.cores) := by
  have hview : PartView Part.joints := ⟨fun _ _ => rfl, fun _ _ => rfl⟩
  have hj' : ((s.running_ r q).part p).joints = [] := (hview.modDesc s r q _ p).trans hj
  have hc' : (s.running_ r q).hostCarts = [] := (State.running__hostCarts s r q).trans hc
  have he : exec (.abortPartition r q) s = .next ((s.running_ r q).beginAbort p (.descriptor r q)) := by
    refine (onDesc_acts ha hd hst ho _).trans (congrArg Host.Outcome.next ?_)
    dsimp only
    rw [h, hab, hcl]
    rfl
  rw [State.beginAbort_eq hj' hc'] at he
  refine completes_of_eq he ⟨?_, ?_, ?_, ?_, ?_⟩
  · rw [State.part_modPart_self]
    rfl
  · rw [State.part_modPart_self]
    rfl
  · have hfld : ((s.running_ r q).setFld (oPT_ABORT p) 1 1 1).fld (oPT_ABORT p) 1 1 = 1 :=
      State.fld_setFld_self _ (oPT_ABORT p) 1 1 1 (by decide)
    show (((s.running_ r q).setFld (oPT_ABORT p) 1 1 1).fld (oPT_ABORT p) 1 1 == 1) = true
    rw [hfld]
    rfl
  · exact State.running__mem s r q
  · exact State.running__cores s r q

theorem abortPartition_waits (ho : d.opc = 0x10) (h : s.cfg (oRT_CTL r) 1 1 = 1)
    (hab : (s.part p).abort.isSome = true ∨ (s.part p).closing = true) :
    Completes (.abortPartition r q) s (fun t =>
      t = { s with parts := t.parts } ∧ (t.part p).abort = (s.part p).abort ∧
        ∃ o e, t.descOf r q = some (o, e) ∧ e.stage = .running) := by
  have hview : PartView Part.abort := ⟨fun _ _ => rfl, fun _ _ => rfl⟩
  have he : exec (.abortPartition r q) s = .next (s.running_ r q) := by
    refine (onDesc_acts ha hd hst ho _).trans (congrArg Host.Outcome.next ?_)
    rw [h, if_neg (by decide), if_pos]
    rcases hab with hab | hab
    · rw [hab, Bool.true_or]
    · rw [hab, Bool.or_true]
  exact completes_of_eq he ⟨(State.modDesc_rest hd _).1, hview.modDesc s r q _ p, State.runs_running_ hd⟩

end

/-! ### INGRESS_FENCE -/

section
variable (ho : d.opc = 0x09)
include ha hd ho

theorem exec_ingressFence (hst : d.stage = .started) (hs : s.stalls = []) (hm : d.f 16 4 = 2 ^ 32 - 1) :
    exec (.ingressFence r q) s = .next
      ((s.running_ r q).coverIngress d (d.covered.filter (fun i => s.ingress.any (fun x => x.req == i)))) := by
  have hstalls : ((s.running_ r q).coverIngress d (d.covered.filter (fun i => s.ingress.any (fun x => x.req == i)))).stalls = [] := by
    rw [State.coverIngress_stalls, State.running__stalls, hs]
  obtain ⟨hr, hq⟩ := descOf_names hd
  have hact : s.ingressFence d =
      (s.running_ r q).coverIngress d (d.covered.filter (fun i => s.ingress.any (fun x => x.req == i))) := by
    rw [State.ingressFence, hr, hq]
    exact if_pos hm
  rw [← hact] at hstalls ⊢
  rw [← State.settle_of_no_stalls (s := s) hstalls]
  show execIngressFence r q s = _
  rw [execIngressFence, hd]
  exact whenever_of_alive ha (by rw [ho, hst]; rfl) _

omit ha hd ho in
/-- A fence on whose module no other waits covers writes, or ends where none is left. -/
theorem State.coverIngress_alone {u : State} (h : u.ingressWaits = []) (d : Desc) (ids : List Nat) :
    u.coverIngress d ids = if ids = [] then ({ u with ingressWaits := [] } : State).endDesc d.ring d.seq 0
      else { u with ingressWaits := [{ ring := d.ring, seq := d.seq, marker := none, covered := ids }] } := by
  rw [State.coverIngress, h]
  cases ids with
  | nil => rfl
  | cons i ids => rfl

omit ha ho in
/-- The module with the descriptor running and no ingress wait is the module but for its partitions. -/
theorem State.running__waits (h : s.ingressWaits = []) : (s.running_ r q).ingressWaits = [] := by
  rw [State.running_, (State.modDesc_rest hd _).1]
  exact h

theorem ingressFence_ends (hst : d.stage = .started) (hs : s.stalls = []) (hm : d.f 16 4 = 2 ^ 32 - 1) (hw : s.ingressWaits = [])
    (hleft : d.covered.filter (fun i => s.ingress.any (fun x => x.req == i)) = []) :
    Completes (.ingressFence r q) s (fun t => t.Ended r q d 0 ∧ t.ingressWaits = [] ∧ t.mem = s.mem) := by
  have he := exec_ingressFence ha hd ho hst hs hm
  obtain ⟨hr, hq⟩ := descOf_names hd
  rw [State.coverIngress_alone (State.running__waits hd hw), if_pos hleft, hr, hq] at he
  have hrun : ({ s.running_ r q with ingressWaits := [] } : State).descOf r q = some (p, { d with stage := .running }) :=
    State.descOf_modDesc (f := fun d => { d with stage := .running }) hd (fun _ => ⟨rfl, rfl⟩)
  refine completes_of_eq he ⟨State.ended_endDesc hrun ⟨nofun, nofun⟩ 0, ?_, ?_⟩
  · rw [State.endDesc_eq, (State.modDesc_rest hrun _).1]
  · exact (State.endDesc_mem ..).trans (State.running__mem ..)

theorem ingressFence_covers (hst : d.stage = .started) (hs : s.stalls = []) (hm : d.f 16 4 = 2 ^ 32 - 1) (hw : s.ingressWaits = [])
    {left : List Nat} (hl : d.covered.filter (fun i => s.ingress.any (fun x => x.req == i)) = left) (hleft : left ≠ []) :
    Completes (.ingressFence r q) s (fun t =>
      t.ingressWaits = [{ ring := r, seq := q, marker := none, covered := left }] ∧ t.mem = s.mem ∧
        ∃ o e, t.descOf r q = some (o, e) ∧ e.stage = .running) := by
  have he := exec_ingressFence ha hd ho hst hs hm
  obtain ⟨hr, hq⟩ := descOf_names hd
  rw [State.coverIngress_alone (State.running__waits hd hw), hl, if_neg hleft, hr, hq] at he
  exact completes_of_eq he ⟨rfl, State.running__mem .., State.runs_running_ hd⟩

theorem ingressTimeout_ends (hst : d.stage = .running) (hm : s.awaitsMarker d = true) :
    Completes (.ingressTimeout r q) s (fun t =>
      t.Ended r q d 0x0404 ∧ t.ingressWaits = s.ingressWaits.filter (fun w => !(decide (w.ring = r) && decide (w.seq = q))) ∧
        t.mem = s.mem) := by
  have he : exec (.ingressTimeout r q) s = .next (({ s with
      ingressWaits := s.ingressWaits.filter (fun w => !(decide (w.ring = r) && decide (w.seq = q))) } : State).endDesc r q 0x0404) :=
    (onRunning_acts ha hd hst ho _).trans (congrArg Host.Outcome.next (if_pos hm))
  have hd' : ({ s with ingressWaits := s.ingressWaits.filter (fun w => !(decide (w.ring = r) && decide (w.seq = q))) } :
      State).descOf r q = some (p, d) := hd
  refine completes_of_eq he ⟨State.ended_endDesc hd' (by rw [hst]; decide) 0x0404, ?_, State.endDesc_mem ..⟩
  rw [State.endDesc_eq, (State.modDesc_rest hd' _).1]

end

end

/-- Settles O48: what only orders ends with its status or waits. -/
theorem orderingDescriptors : Obligations.orderingDescriptors := by
  unfold Obligations.orderingDescriptors
  refine ⟨fun s r q p d ha hd hst => ?_, fun s r q p d ha hd ho hs => ?_⟩
  · intro ends foreign fenced covered
    exact ⟨nopDescriptor_ends ha hd hst, fence_foreign ha hd hst, fence_ends ha hd hst, fence_waits ha hd hst,
      flush_ends ha hd hst, flush_waits ha hd hst, cancel_ends ha hd hst, cancel_waits ha hd hst, timestamp_ends ha hd hst,
      abortPartition_refused ha hd hst, abortPartition_begins ha hd hst, abortPartition_waits ha hd hst⟩
  · intro mine
    refine ⟨fun hst hm hw => ?_, ingressTimeout_ends ha hd ho⟩
    intro left
    exact ⟨ingressFence_ends ha hd ho hst hs hm hw, ingressFence_covers ha hd ho hst hs hm hw rfl⟩

end Sys2Proof.Machine
end

section
/-! PROOFS. SIGNAL and WAIT on objects of the module (R223, R285). -/

namespace Sys2Proof.Machine

open Sys2Proof

/-! ### A descriptor through the operations on objects -/

theorem State.modDesc_sansLogs (s : State) (r : RingId) (q : BitVec 32) (f : Desc → Desc) : (s.modDesc r q f).sansLogs = s.sansLogs := by
  unfold State.modDesc
  split <;> rfl

theorem State.endDesc_sansLogs (s : State) (r : RingId) (q : BitVec 32) (st : Nat) : (s.endDesc r q st).sansLogs = s.sansLogs :=
  s.modDesc_sansLogs r q _

theorem State.syncFault_descriptor_sansLogs (s : State) (r : RingId) (q : BitVec 32) (o : Option PartId) (reason phys : Nat) :
    (s.syncFault (.descriptor r q) o reason phys).sansLogs = s.sansLogs := by
  rw [State.syncFault, State.flagDesc, State.modDesc_sansLogs, State.logAny_sansLogs]

theorem State.descOf_congr {s t : State} (ht : t.tables = s.tables) (hd : ∀ p, t.descs p = s.descs p) (r : RingId) (q : BitVec 32) :
    t.descOf r q = s.descOf r q := by
  rw [State.descOf, State.descOf, State.partOfRing_congr ht]
  cases s.partOfRing r with
  | none => rfl
  | some p => simp only [hd]

theorem State.descOf_touched (s : State) (o : Option PartId) (r : RingId) (q : BitVec 32) : (s.touched o).descOf r q = s.descOf r q := by
  cases o with
  | none => rfl
  | some o =>
    refine State.descOf_congr (s := s) (t := s.touched (some o)) rfl (fun p => ?_) r q
    rw [State.descs, State.descs, State.touched, State.part_modPart]
    split_ifs with h
    · rw [h]
    · rfl

/-- A state holds a descriptor in the stage and with the status of another. -/
def State.Carries (t : State) (r : RingId) (q : BitVec 32) (p : PartId) (d : Desc) : Prop :=
  ∃ e, t.descOf r q = some (p, e) ∧ e.stage = d.stage ∧ e.status = d.status

section
variable {s t : State} {r : RingId} {q : BitVec 32} {p : PartId} {d : Desc}

theorem State.Carries.congr (h : s.Carries r q p d) (ht : t.tables = s.tables) (hp : t.parts = s.parts) : t.Carries r q p d := by
  obtain ⟨e, he, hrest⟩ := h
  exact ⟨e, (State.descOf_congr ht (State.descs_congr hp) r q).trans he, hrest⟩

theorem State.Carries.setPeg (h : s.Carries r q p d) (n : Nat) (g : Peg) : (s.setPeg n g).Carries r q p d :=
  h.congr (t := s.setPeg n g) rfl rfl

theorem State.Carries.setTally (h : s.Carries r q p d) (n : Nat) (g : Tally) : (s.setTally n g).Carries r q p d :=
  h.congr (t := s.setTally n g) rfl rfl

theorem State.Carries.setBell (h : s.Carries r q p d) (n : Nat) (b : Bell) : (s.setBell n b).Carries r q p d :=
  h.congr (t := s.setBell n b) rfl rfl

theorem State.Carries.touched (h : s.Carries r q p d) (o : Option PartId) : (s.touched o).Carries r q p d := by
  obtain ⟨e, he, hrest⟩ := h
  exact ⟨e, (s.descOf_touched o r q).trans he, hrest⟩

theorem State.Carries.syncFault (h : s.Carries r q p d) (o : Option PartId) (reason phys : Nat) :
    (s.syncFault (.descriptor r q) o reason phys).Carries r q p d := by
  have hlog : ∀ (x : Option PartId) (en : Entry), (s.logAny x en).Carries r q p d := fun x en =>
    h.congr (State.same_of_sansBooks (s.logAny_sansBooks x en) State.tables) (s.logAny_parts x en)
  rw [State.syncFault]
  obtain ⟨e, he, hst, hstat⟩ := hlog (s.partOfRing r)
    { type := 0x03, reason := reason, ctx := s.cfg (oRT_CTL r) 23 16
      tag := match s.desc r q with | some d => fieldLe d.bytes 4 2 | none => 0, d1 := phys }
  exact ⟨{ e with flags := e.flags ||| 4 }, State.descOf_modDesc (f := fun d => { d with flags := d.flags ||| 4 }) he
    (fun _ => ⟨rfl, rfl⟩), hst, hstat⟩

theorem State.Carries.ended (h : s.Carries r q p d) (hopen : d.stage ≠ .ended ∧ d.stage ≠ .completed) (st : Nat) :
    (s.endDesc r q st).Ended r q d st := by
  obtain ⟨e, he, hst, hstat⟩ := h
  rw [← hst] at hopen
  obtain ⟨o, x, hx, hxs, hxt⟩ := State.ended_endDesc he hopen st
  rw [hstat] at hxt
  exact ⟨o, x, hx, hxs, hxt⟩

theorem State.carries_self (h : s.descOf r q = some (p, d)) : s.Carries r q p d := ⟨d, h, rfl, rfl⟩

theorem OnlyPeg.endDesc {n : Nat} {g : Peg} (h : OnlyPeg n g s t) (st : Nat) : OnlyPeg n g s (t.endDesc r q st) :=
  h.of_sansLogs (t.endDesc_sansLogs r q st)

end

/-! ### Pegs -/

/-- A post that the count of a peg allows, where nobody waits. -/
theorem State.pegPost_posts {s : State} {n k : Nat} (hw : (s.peg n).waiters = []) (hk : (s.peg n).count.toNat + k ≤ 65535) (who : SyncBy) :
    ∃ o, s.pegPost who n k = ((s.setPeg n { s.peg n with count := (s.peg n).count + BitVec.ofNat 16 k }).setPeg n
      { s.peg n with count := (s.peg n).count + BitVec.ofNat 16 k }).touched o := by
  refine ⟨if k = 0 then none else s.pegOwner n, ?_⟩
  rw [State.pegPost]
  dsimp only
  rw [if_neg (by omega), State.servePeg_of_no_waiters (by rw [State.peg_setPeg, if_pos rfl]; exact hw), State.peg_setPeg, if_pos rfl]

section
variable {s : State} {r : RingId} {q : BitVec 32} {p : PartId} {d : Desc} {n : Nat} (ha : s.alive = true)
  (hd : s.descOf r q = some (p, d)) (hm : d.member = false)

/-- The descriptor has ended with a status, and of the objects and cores one peg at most has changed. -/
def State.SignalsPeg (s : State) (r : RingId) (q : BitVec 32) (d : Desc) (st n : Nat) (g : Peg) (t : State) : Prop :=
  t.Ended r q d st ∧ OnlyPeg n g s t

section
variable (hst : d.stage = .started)
include hd hst

theorem signalPeg_posts (hk : d.kind = 0) (hw : (s.peg n).waiters = []) (h : (s.peg n).count.toNat + d.amount.toNat ≤ 65535) :
    s.SignalsPeg r q d 0 n { s.peg n with count := (s.peg n).count + BitVec.ofNat 16 d.amount.toNat } (s.signalPeg d n) := by
  obtain ⟨hr, hq⟩ := descOf_names hd
  obtain ⟨o, ho⟩ := State.pegPost_posts hw h (.descriptor r q)
  rw [State.signalPeg, hr, hq]
  dsimp only
  rw [if_pos hk, if_neg (by omega), ho]
  refine ⟨((((State.carries_self hd).setPeg _ _).setPeg _ _).touched o).ended (notOver_of_started hst) 0, OnlyPeg.endDesc ?_ 0⟩
  refine OnlyPeg.of_sansLogs ?_ (State.touched_sansLogs _ o)
  refine ⟨rfl, fun m => ?_, rfl, rfl, rfl⟩
  rw [State.peg_setPeg, State.peg_setPeg]
  split_ifs <;> rfl

theorem signalPeg_overflows (hk : d.kind = 0) (h : 65535 < (s.peg n).count.toNat + d.amount.toNat) :
    s.SignalsPeg r q d 0x0209 n { s.peg n with ovf := true } (s.signalPeg d n) := by
  obtain ⟨hr, hq⟩ := descOf_names hd
  rw [State.signalPeg, hr, hq]
  dsimp only
  rw [if_pos hk, if_pos h, State.pegPost]
  rw [if_pos h]
  refine ⟨(((State.carries_self hd).setPeg _ _).syncFault _ _ _).ended (notOver_of_started hst) 0x0209, OnlyPeg.endDesc ?_ 0x0209⟩
  exact (onlyPeg_setPeg n _ s).of_sansLogs (State.syncFault_descriptor_sansLogs ..)

theorem signalPeg_lowers (hk : d.kind = 1) (h : d.amount.toNat ≤ (s.peg n).count.toNat) :
    s.SignalsPeg r q d 0 n { s.peg n with count := (s.peg n).count - BitVec.ofNat 16 d.amount.toNat } (s.signalPeg d n) := by
  obtain ⟨hr, hq⟩ := descOf_names hd
  rw [State.signalPeg, hr, hq]
  dsimp only
  rw [if_neg (by omega), if_neg (by omega), State.pegDec]
  rw [if_neg (by omega)]
  refine ⟨(((State.carries_self hd).setPeg _ _).touched _).ended (notOver_of_started hst) 0, OnlyPeg.endDesc ?_ 0⟩
  exact (onlyPeg_setPeg n _ s).of_sansLogs (State.touched_sansLogs ..)

theorem signalPeg_underflows (hk : d.kind = 1) (h : (s.peg n).count.toNat < d.amount.toNat) :
    s.SignalsPeg r q d 0x020A n { s.peg n with udf := true } (s.signalPeg d n) := by
  obtain ⟨hr, hq⟩ := descOf_names hd
  rw [State.signalPeg, hr, hq]
  dsimp only
  rw [if_neg (by omega), if_pos h, State.pegDec]
  rw [if_pos h]
  refine ⟨(((State.carries_self hd).setPeg _ _).syncFault _ _ _).ended (notOver_of_started hst) 0x020A, OnlyPeg.endDesc ?_ 0x020A⟩
  exact (onlyPeg_setPeg n _ s).of_sansLogs (State.syncFault_descriptor_sansLogs ..)

include ha hm

/-- A SIGNAL on a peg acts on it, or ends with the status of an ID that names none. -/
theorem exec_signal_peg (ho : d.opc = 0x05) (hk : d.kind ≤ 1) : exec (.signal r q) s = .next
    (match s.pegRef p (s.ringCtx r) d.object with
      | none => s.endDesc r q 0x0208
      | some n => s.signalPeg d n) := by
  obtain ⟨hr, hq⟩ := descOf_names hd
  refine (onDesc_acts ha hd hst ho _).trans (congrArg Host.Outcome.next ?_)
  have h2 : d.kind ≠ 2 := by omega
  have h3 : d.kind ≠ 3 := by omega
  rw [State.signal, hm, hr, hq]
  dsimp only
  rw [Bool.false_and, if_neg Bool.false_ne_true, if_neg h2, if_neg h3]
  rfl

/-- A SIGNAL on a tally of the module advances it. -/
theorem signal_tally (ho : d.opc = 0x05) (hk : d.kind = 2) (hnone : ∀ e ∈ s.tallies, e.2.waiters = [])
    (hn : s.tallyRef p (s.ringCtx r) d.object = some (.local_ n)) :
    ∃ (t : State) (g : Tally), exec (.signal r q) s = .next t ∧ g.value = (s.tally n).value + d.amount ∧ OnlyTally n g s t ∧
      t.Ended r q d 0 := by
  obtain ⟨hr, hq⟩ := descOf_names hd
  have he : exec (.signal r q) s = .next ((s.tallyAdv (.descriptor r q) n d.amount).endDesc r q 0) := by
    refine (onDesc_acts ha hd hst ho _).trans (congrArg Host.Outcome.next ?_)
    rw [State.signal, hm, hr, hq]
    dsimp only
    rw [Bool.false_and, if_neg Bool.false_ne_true, if_pos hk, hn]
    exact if_neg Bool.false_ne_true
  obtain ⟨g, hg, honly⟩ := State.tallyAdv_only hnone (who := .descriptor r q) (fun u => u.syncFault_descriptor_sansLogs r q) n d.amount
  refine ⟨_, g, he, hg, honly.of_sansLogs (State.endDesc_sansLogs ..), State.Carries.ended (p := p) ?_ (notOver_of_started hst) 0⟩
  have hself : (s.tally n).waiters = [] := s.tally_waiters_of_no_waiters hnone n
  have hs1 := State.setTally_no_waiters s n { s.tally n with value := (s.tally n).value + d.amount } hself hnone
  rw [State.tallyAdv]
  dsimp only
  split
  · rw [State.serveTallies_of_no_waiters]
    · exact ((((State.carries_self hd).setTally _ _).setTally _ _).syncFault _ _ _).touched _
    · rw [(State.fields_of_sansLogs (State.syncFault_descriptor_sansLogs ..)).2.2.1]
      exact State.setTally_no_waiters _ n _ (by rw [State.tally_setTally, if_pos rfl]; exact hself) hs1
  · rw [State.serveTallies_of_no_waiters _ hs1]
    exact ((State.carries_self hd).setTally _ _).touched _

theorem exec_signal_bell (ho : d.opc = 0x05) (hk : d.kind = 3) (hn : s.bellRef p (s.ringCtx r) d.object = some n) :
    exec (.signal r q) s = .next
      (if d.amount.toNat = 0 ∨ 4096 < d.amount.toNat then
        (s.syncFault (.descriptor r q) (s.bellOwner n) 0x12 n).endDesc r q 0x0212
      else (s.bellArrive (.descriptor r q) n d.amount.toNat none).endDesc r q 0) := by
  obtain ⟨hr, hq⟩ := descOf_names hd
  have h2 : d.kind ≠ 2 := by omega
  refine (onDesc_acts ha hd hst ho _).trans (congrArg Host.Outcome.next ?_)
  rw [State.signal, hm, hr, hq]
  dsimp only
  rw [Bool.false_and, if_neg Bool.false_ne_true, if_neg h2, if_pos hk, hn]

/-- A SIGNAL on a bell with a count out of range is refused. -/
theorem signal_bell_refused (ho : d.opc = 0x05) (hk : d.kind = 3) (hn : s.bellRef p (s.ringCtx r) d.object = some n)
    (h : d.amount.toNat = 0 ∨ 4096 < d.amount.toNat) :
    ∃ t : State, exec (.signal r q) s = .next t ∧ t.Ended r q d 0x0212 ∧ t.sansLogs = s.sansLogs := by
  have he := exec_signal_bell ha hd hm hst ho hk hn
  rw [if_pos h] at he
  exact ⟨_, he, ((State.carries_self hd).syncFault _ _ _).ended (notOver_of_started hst) 0x0212,
    (State.endDesc_sansLogs ..).trans (State.syncFault_descriptor_sansLogs ..)⟩

/-- The first arrival of several at a bell. -/
theorem signal_bell_arrives (ho : d.opc = 0x05) (hk : d.kind = 3) (hn : s.bellRef p (s.ringCtx r) d.object = some n)
    (h0 : 0 < d.amount.toNat) (h1 : d.amount.toNat ≤ 4096) (hc : (s.bell n).count = 0) (harr : (s.bell n).arrived = 0)
    (hmore : 1 < d.amount.toNat) :
    Completes (.signal r q) s (fun t => t.Ended r q d 0 ∧ (t.bell n).count.toNat = d.amount.toNat ∧ (t.bell n).arrived = 1 ∧
      (t.bell n).gen = (s.bell n).gen ∧ t.mem = s.mem ∧ t.cores = s.cores) := by
  have he := exec_signal_bell ha hd hm hst ho hk hn
  have hcount : (BitVec.ofNat 13 d.amount.toNat).toNat = d.amount.toNat := by
    rw [BitVec.toNat_ofNat]
    exact Nat.mod_eq_of_lt (by omega)
  have hlast : ¬ (1 : BitVec 13) = BitVec.ofNat 13 d.amount.toNat := by
    intro h
    have hone := congrArg BitVec.toNat h
    rw [hcount] at hone
    exact absurd hone (by simp; omega)
  have harrive : s.bellArrive (.descriptor r q) n d.amount.toNat none =
      (s.setBell n { s.bell n with count := BitVec.ofNat 13 d.amount.toNat, arrived := 1 }).touched (s.bellOwner n) := by
    rw [State.bellArrive]
    dsimp only
    rw [if_pos hc, if_neg (not_not_intro hcount), harr]
    exact congrArg (fun u : State => u.touched (s.bellOwner n)) (if_neg hlast)
  rw [if_neg (by omega), harrive] at he
  obtain ⟨hcores, -, -, hbells, hmem, -⟩ := State.fields_of_sansLogs ((State.endDesc_sansLogs
    ((s.setBell n { s.bell n with count := BitVec.ofNat 13 d.amount.toNat, arrived := 1 }).touched (s.bellOwner n)) r q 0).trans
      (State.touched_sansLogs ..))
  have hbell := (State.bell_congr hbells n).trans ((State.bell_setBell ..).trans (if_pos rfl))
  refine completes_of_eq he ⟨?_, ?_, ?_, ?_, hmem, hcores⟩
  · exact (((State.carries_self hd).setBell _ _).touched _).ended (notOver_of_started hst) 0
  · rw [hbell]
    exact hcount
  · rw [hbell]
  · rw [hbell]

/-! ### WAIT -/

omit hm in
theorem exec_wait_peg (ho : d.opc = 0x06) (hk : d.kind = 0) (hn : s.pegRef p (s.ringCtx r) d.object = some n) :
    exec (.wait r q) s = .next ((s.running_ r q).pegTake n d.amount (.descriptor r q)) := by
  obtain ⟨hr, hq⟩ := descOf_names hd
  refine (onDesc_acts ha hd hst ho _).trans (congrArg Host.Outcome.next ?_)
  rw [State.await, hr, hq]
  dsimp only
  rw [if_pos hk, hn]

omit ha hm hd hst in
/-- The take of a descriptor that the count of a peg covers, where nobody waits before it. -/
theorem State.pegTake_ends {u : State} {need : Word} (hw : (u.peg n).waiters = []) (hn : need.toNat ≤ (u.peg n).count.toNat) :
    ∃ o, u.pegTake n need (.descriptor r q) =
      (((u.setPeg n { u.peg n with waiters := [{ who := .descriptor r q, kind := .pegTake, need := need }] }).setPeg n
        { u.peg n with count := BitVec.ofNat 16 ((u.peg n).count.toNat - need.toNat), waiters := [] }).endDesc r q 0).touched o := by
  by_cases h0 : (u.peg n).count.toNat - need.toNat = (u.peg n).count.toNat
  · exact ⟨none, by simp [State.pegTake, State.servePeg, hw, serveTakes, hn, State.releaseAll, State.release, h0, State.touched]⟩
  · exact ⟨_, by
      simp only [State.pegTake, State.servePeg, hw, List.nil_append, State.peg_setPeg, if_true, serveTakes, hn, State.releaseAll,
        State.release, h0, if_false, List.foldl_cons, List.foldl_nil]; rfl⟩

omit ha hm hd hst in
/-- The take of a descriptor that the count does not cover waits. -/
theorem State.pegTake_stays {u : State} {need : Word} (hw : (u.peg n).waiters = []) (hn : (u.peg n).count.toNat < need.toNat) :
    u.pegTake n need (.descriptor r q) =
      (u.setPeg n { u.peg n with waiters := [{ who := .descriptor r q, kind := .pegTake, need := need }] }).setPeg n
        { u.peg n with waiters := [{ who := .descriptor r q, kind := .pegTake, need := need }] } := by
  simp [State.pegTake, State.servePeg, hw, serveTakes, Nat.not_le.mpr hn, State.releaseAll]

omit hm in
theorem wait_ends (ho : d.opc = 0x06) (hk : d.kind = 0) (hn : s.pegRef p (s.ringCtx r) d.object = some n)
    (hw : (s.peg n).waiters = []) (h : d.amount.toNat ≤ (s.peg n).count.toNat) :
    ∃ t : State, exec (.wait r q) s = .next t ∧ s.SignalsPeg r q d 0 n
      { s.peg n with count := BitVec.ofNat 16 ((s.peg n).count.toNat - d.amount.toNat), waiters := [] } t := by
  have he := exec_wait_peg ha hd hst ho hk hn
  have hpeg (m : Nat) : (s.running_ r q).peg m = s.peg m := State.peg_congr (State.running__pegs ..) m
  obtain ⟨o, htake⟩ := State.pegTake_ends (r := r) (q := q) ((congrArg Peg.waiters (hpeg n)).trans hw)
    (by rw [hpeg n]; exact h : d.amount.toNat ≤ ((s.running_ r q).peg n).count.toNat)
  rw [htake, hpeg] at he
  have hrun : (s.running_ r q).Carries r q p { d with stage := .running } :=
    State.carries_self (State.descOf_modDesc (f := fun d => { d with stage := .running }) hd (fun _ => ⟨rfl, rfl⟩))
  have hsans : (s.running_ r q).sansLogs = s.sansLogs := s.modDesc_sansLogs r q _
  obtain ⟨hc, -, ht, hb, hmem, -⟩ := State.fields_of_sansLogs hsans
  generalize s.running_ r q = u at he hpeg hrun hc ht hb hmem
  have hend : (((u.setPeg n { s.peg n with waiters := [{ who := .descriptor r q, kind := .pegTake, need := d.amount }] }).setPeg n
      { s.peg n with count := BitVec.ofNat 16 ((s.peg n).count.toNat - d.amount.toNat), waiters := [] }).endDesc r q 0).Ended r q
      { d with stage := .running } 0 := ((hrun.setPeg _ _).setPeg _ _).ended ⟨nofun, nofun⟩ 0
  refine ⟨_, he, ?_, OnlyPeg.of_sansLogs (OnlyPeg.endDesc ?_ 0) (State.touched_sansLogs ..)⟩
  · obtain ⟨p', e, hde, hse, hst'⟩ := hend
    exact ⟨p', e, (State.descOf_touched ..).trans hde, hse, hst'⟩
  · refine ⟨hc, fun m => ?_, ht, hb, hmem⟩
    rw [State.peg_setPeg, State.peg_setPeg, hpeg]
    split_ifs <;> rfl

omit hm in
theorem wait_waits (ho : d.opc = 0x06) (hk : d.kind = 0) (hn : s.pegRef p (s.ringCtx r) d.object = some n)
    (hw : (s.peg n).waiters = []) (h : (s.peg n).count.toNat < d.amount.toNat) :
    ∃ t : State, exec (.wait r q) s = .next t ∧ OnlyPeg n
        { s.peg n with waiters := [{ who := .descriptor r q, kind := .pegTake, need := d.amount }] } s t ∧
      ∃ o e, t.descOf r q = some (o, e) ∧ e.stage = .running := by
  have he := exec_wait_peg ha hd hst ho hk hn
  have hpeg (m : Nat) : (s.running_ r q).peg m = s.peg m := State.peg_congr (State.running__pegs ..) m
  have htake := State.pegTake_stays (r := r) (q := q) ((congrArg Peg.waiters (hpeg n)).trans hw)
    (by rw [hpeg n]; exact h : ((s.running_ r q).peg n).count.toNat < d.amount.toNat)
  rw [htake, hpeg] at he
  have hrun : (s.running_ r q).Carries r q p { d with stage := .running } :=
    State.carries_self (State.descOf_modDesc (f := fun d => { d with stage := .running }) hd (fun _ => ⟨rfl, rfl⟩))
  have hsans : (s.running_ r q).sansLogs = s.sansLogs := s.modDesc_sansLogs r q _
  obtain ⟨hc, -, ht, hb, hmem, -⟩ := State.fields_of_sansLogs hsans
  generalize s.running_ r q = u at he hpeg hrun hc ht hb hmem
  refine ⟨_, he, ⟨hc, fun m => ?_, ht, hb, hmem⟩, ?_⟩
  · rw [State.peg_setPeg, State.peg_setPeg, hpeg]
    split_ifs <;> rfl
  · obtain ⟨e, hde, hse, -⟩ := (hrun.setPeg n
      { s.peg n with waiters := [{ who := .descriptor r q, kind := .pegTake, need := d.amount }] }).setPeg n
      { s.peg n with waiters := [{ who := .descriptor r q, kind := .pegTake, need := d.amount }] }
    exact ⟨p, e, hde, hse⟩

end

section
variable {m : Nat} {h : Peg} {w : Waiter} (hst : d.stage = .running) (ho : d.opc = 0x06) (hp : s.pegs = [(m, h)])
  (hwait : h.waiters = [w]) (hwho : w.who = .descriptor r q) (ht : s.tallies = []) (hb : s.bells = []) (hreq : s.fabric.requests = [])

include ha hd hst ho in
theorem waitTimeout_without (hz : d.f 20 4 = 0) : exec (.waitTimeout r q) s = .next s :=
  (onRunning_acts ha hd hst ho _).trans (congrArg Host.Outcome.next (if_pos hz))

include hp hwait hwho ht hb in
/-- The only waiter of the only object no longer waits. -/
theorem State.dropWaits_only : s.dropWaits r q = (s.setPeg m { h with waiters := [] }).setPeg m { h with waiters := [] } := by
  have hpeg : s.peg m = h := by
    rw [State.peg, hp, tabGet]
    simp
  have hheld : (h.waiters.any fun w => decide (w.who = .descriptor r q)) = true := by
    rw [hwait, List.any_cons, hwho]
    simp
  have hdrop : dropWaiter (.descriptor r q) h.waiters = [] := dropWaiter_of_who (by rw [hwait, List.map_singleton, hwho])
  have hserve : (s.setPeg m { h with waiters := [] }).servePeg m =
      (s.setPeg m { h with waiters := [] }).setPeg m { h with waiters := [] } := by
    rw [State.servePeg_of_no_waiters (by rw [State.peg_setPeg, if_pos rfl]), State.peg_setPeg, if_pos rfl]
  have hpegs : (s.pegs.filter (fun e => e.2.waiters.any (fun w => decide (w.who = .descriptor r q)))).foldl (fun t e =>
      (t.setPeg e.1 { t.peg e.1 with waiters := dropWaiter (.descriptor r q) (t.peg e.1).waiters }).servePeg e.1) s =
      (s.setPeg m { h with waiters := [] }).setPeg m { h with waiters := [] } := by
    rw [hp, List.filter_cons_of_pos (p := fun e : Nat × Peg => e.2.waiters.any (fun w => decide (w.who = .descriptor r q))) hheld]
    show ((s.setPeg m { s.peg m with waiters := dropWaiter (.descriptor r q) (s.peg m).waiters }).servePeg m) = _
    rw [hpeg, hdrop, hserve]
  rw [State.dropWaits]
  dsimp only
  rw [hpegs]
  have htal : ((s.setPeg m { h with waiters := [] }).setPeg m { h with waiters := [] }).tallies = [] := ht
  have hbel : ((s.setPeg m { h with waiters := [] }).setPeg m { h with waiters := [] }).bells = [] := hb
  rw [htal, List.filter_nil, List.foldl_nil, hbel, List.filter_nil, List.foldl_nil]

include ha hd hst ho hp hwait hwho ht hb hreq in
theorem waitTimeout_ends (hz : d.f 20 4 ≠ 0) :
    Completes (.waitTimeout r q) s (fun t =>
      t.Ended r q d 0x0015 ∧ (t.peg m).waiters = [] ∧ (t.peg m).count = h.count ∧ t.mem = s.mem ∧ t.cores = s.cores) := by
  have hremote : ((s.setPeg m { h with waiters := [] }).setPeg m { h with waiters := [] }).withdrawRemote r q =
      (s.setPeg m { h with waiters := [] }).setPeg m { h with waiters := [] } := by
    have hnone : ((s.setPeg m { h with waiters := [] }).setPeg m { h with waiters := [] }).fabric.requests = [] := hreq
    rw [State.withdrawRemote, hnone]
    rfl
  have he : exec (.waitTimeout r q) s =
      .next (((s.setPeg m { h with waiters := [] }).setPeg m { h with waiters := [] }).endDesc r q 0x0015) := by
    refine (onRunning_acts ha hd hst ho _).trans (congrArg Host.Outcome.next ?_)
    rw [if_neg hz, State.dropWaits_only hp hwait hwho ht hb, hremote]
  obtain ⟨hcores, hpegs, -, -, hmem, -⟩ := State.fields_of_sansLogs (State.endDesc_sansLogs
    ((s.setPeg m { h with waiters := [] }).setPeg m { h with waiters := [] }) r q 0x0015)
  have hpeg := (State.peg_congr hpegs m).trans ((State.peg_setPeg ..).trans (if_pos rfl))
  refine completes_of_eq he ⟨?_, ?_, ?_, hmem, hcores⟩
  · exact (((State.carries_self hd).setPeg _ _).setPeg _ _).ended (by rw [hst]; decide) 0x0015
  · rw [hpeg]
  · rw [hpeg]

end

end

/-- What a change of one peg leaves, in the words of the statement. -/
theorem OnlyPeg.pegTo {s t : State} {n : Nat} {g : Peg} (h : OnlyPeg n g s t) {c : BitVec 16} (hc : g.count = c) :
    (t.peg n).count = c ∧ (∀ m, m ≠ n → t.peg m = s.peg m) ∧ t.tallies = s.tallies ∧ t.bells = s.bells ∧
      t.mem = s.mem ∧ t.cores = s.cores := by
  obtain ⟨hcores, hpeg, ht, hb, hm⟩ := h
  refine ⟨?_, fun m hm => (hpeg m).trans (if_neg hm), ht, hb, hm, hcores⟩
  rw [hpeg, if_pos rfl, hc]

theorem onlyPeg_of_sansLogs_eq {s t : State} (h : t.sansLogs = s.sansLogs) (n : Nat) : OnlyPeg n (s.peg n) s t := by
  obtain ⟨hc, hp, ht, hb, hm, -⟩ := State.fields_of_sansLogs h
  refine ⟨hc, fun m => (State.peg_congr hp m).trans ?_, ht, hb, hm⟩
  split_ifs with h
  · rw [h]
  · rfl

/-- Settles O49: a SIGNAL changes one object and ends; a WAIT takes or waits; its time-out ends it. -/
theorem syncDescriptors : Obligations.syncDescriptors := by
  unfold Obligations.syncDescriptors
  intro s r q p d n ha hd hm hnone hpw hbw g k x only pegTo
  refine ⟨fun hst ho => ⟨?_, ?_, ?_, ?_, ?_, ?_, ?_, ?_⟩, fun hst ho hk hn => ⟨?_, ?_⟩, fun m h w hst ho hp hw hwho ht hb hreq => ?_⟩
  · intro hk hn
    have he := exec_signal_peg ha hd hm hst ho hk
    rw [hn] at he
    exact completes_of_eq he ⟨State.ended_endDesc hd (notOver_of_started hst) 0x0208,
      (onlyPeg_of_sansLogs_eq (State.endDesc_sansLogs ..) n).pegTo rfl⟩
  · intro hk hn h
    have he := exec_signal_peg ha hd hm hst ho (by omega)
    rw [hn] at he
    obtain ⟨hend, honly⟩ := signalPeg_posts hd hst hk hpw h
    exact completes_of_eq he ⟨hend, honly.pegTo rfl⟩
  · intro hk hn h
    have he := exec_signal_peg ha hd hm hst ho (by omega)
    rw [hn] at he
    obtain ⟨hend, honly⟩ := signalPeg_overflows hd hst hk h
    exact completes_of_eq he ⟨hend, honly.pegTo rfl, by rw [honly.2.1, if_pos rfl]⟩
  · intro hk hn h
    have he := exec_signal_peg ha hd hm hst ho (by omega)
    rw [hn] at he
    obtain ⟨hend, honly⟩ := signalPeg_lowers hd hst hk h
    exact completes_of_eq he ⟨hend, honly.pegTo rfl⟩
  · intro hk hn h
    have he := exec_signal_peg ha hd hm hst ho (by omega)
    rw [hn] at he
    obtain ⟨hend, honly⟩ := signalPeg_underflows hd hst hk h
    exact completes_of_eq he ⟨hend, honly.pegTo rfl, by rw [honly.2.1, if_pos rfl]⟩
  · intro hk hn
    obtain ⟨t, y, he, hy, ⟨hcores, ht, hpegs, -, hmem⟩, hend⟩ := signal_tally ha hd hm hst ho hk hnone hn
    exact completes_of_eq he ⟨hend, by rw [ht, if_pos rfl, hy], fun m hm => (ht m).trans (if_neg hm), hpegs, hmem, hcores⟩
  · intro hk hn h0 h1 hc harr hmore
    exact signal_bell_arrives ha hd hm hst ho hk hn h0 h1 hc harr hmore
  · intro hk hn h
    obtain ⟨t, he, hend, hsans⟩ := signal_bell_refused ha hd hm hst ho hk hn h
    exact completes_of_eq he ⟨hend, (State.fields_of_sansLogs hsans).2.2.2.1, (onlyPeg_of_sansLogs_eq hsans n).pegTo rfl⟩
  · intro h
    obtain ⟨t, he, hend, honly⟩ := wait_ends ha hd hst ho hk hn hpw h
    refine completes_of_eq he ⟨hend, honly.pegTo ?_, by rw [honly.2.1, if_pos rfl]⟩
    have hle : d.amount.toNat ≤ (s.peg n).count.toNat := h
    have hlt := (s.peg n).count.isLt
    show BitVec.ofNat 16 ((s.peg n).count.toNat - d.amount.toNat) = (s.peg n).count - BitVec.ofNat 16 d.amount.toNat
    refine BitVec.eq_of_toNat_eq ?_
    rw [BitVec.toNat_ofNat, BitVec.toNat_sub, BitVec.toNat_ofNat]
    omega
  · intro h
    obtain ⟨t, he, honly, hrun⟩ := wait_waits ha hd hst ho hk hn hpw h
    exact completes_of_eq he ⟨honly.pegTo rfl, by rw [honly.2.1, if_pos rfl]; rfl, hrun⟩
  · exact ⟨waitTimeout_without ha hd hst ho, waitTimeout_ends ha hd hst ho hp hw hwho ht hb hreq⟩

end Sys2Proof.Machine
end

section
/-! PROOFS. Descriptors that move data, and MAP (R153, R283, R286, R287). -/

namespace Sys2Proof.Machine

open Sys2Proof

/-! ### A unit of host transfers -/

theorem State.hcart_modHc (s : State) (n : Nat) (f : HostCart → HostCart) : (s.modHc n f).hcart n = f (s.hcart n) :=
  tabGet_tabSet_self ..

/-- A unit without data under way reads on from where it stands. -/
theorem State.hcPump_reads {u : State} {n : Nat} {p : PartId} {d : Desc} (hdesc : u.hcDesc n = some (p, d)) (hrun : d.stage = .running)
    (hheld : u.held = false) (hreads : (u.hcart n).reads = []) (htodo : (u.hcart n).todo = []) (hst : (u.hcart n).status = 0) :
    u.hcPump n = ((u.hcReads n p d 1024).hcIndex n d).hcEnd n d := by
  have hdrain : u.hcDrain n ((u.hcart n).reads.length + 1) = u := by
    rw [hreads, List.length_nil, State.hcDrain, hst]
    dsimp only
    rw [hreads]
    exact if_neg (not_not_intro rfl)
  have hwrites : u.hcWrites n p d (u.hcart n).todo.length = u := by
    rw [htodo]
    rfl
  have hgo : ¬ (d.stage ≠ .running ∨ u.held = true) := by
    rw [hrun, hheld]
    decide
  have hempty : (u.hcart n).todo.isEmpty = true := by rw [htodo]; rfl
  rw [State.hcPump, hdesc]
  dsimp only
  rw [if_neg hgo, hdrain, hwrites, if_pos hempty]

/-- A unit without pieces reads none. -/
theorem State.hcReads_none {u : State} {n : Nat} (h : (u.hcart n).segs = []) (p : PartId) (d : Desc) (k : Nat) :
    u.hcReads n p d k = u := by
  cases k with
  | zero => rfl
  | succ k =>
    rw [State.hcReads, h]

/-- What a host read leaves of the units. -/
theorem State.hcart_hostRead (u : State) (fn : FnId) (a len : Nat) (x : HostPurpose) (n : Nat) :
    (u.hostRead fn a len x).2.hcart n = u.hcart n := by
  obtain ⟨o, h, rs, hrest, -⟩ := u.hostRead_rest fn a len x
  rw [hrest]
  rfl

/-- The only piece of a unit that moves host bytes inwards goes out as one read, where it crosses no boundary of 512 bytes. -/
theorem State.hcReads_one {u : State} {n : Nat} {p : PartId} {d : Desc} {g : HcSeg} (hsegs : (u.hcart n).segs = [g])
    (hdir : (u.hcart n).dir = 0) (hreads : (u.hcart n).reads = []) (hmay : u.hcMay n p = true) (hz : g.zero = false) (hl : 0 < g.len)
    (hfit : g.host % 512 + g.len ≤ 512) (k : Nat) :
    u.hcReads n p d (k + 1) = (u.hostRead (partFn p) g.host g.len (.data d.ring d.seq)).2.modHc n (fun h => { h with
      segs := [], reads := h.reads ++ [{ id := u.nextId, host := g.host, dev := g.dev, len := g.len }] }) := by
  have hlen : min g.len (512 - g.host % 512) = g.len := Nat.min_eq_left (by omega)
  have hcut : cutSeg g g.len [] = [] := if_pos (Nat.le_refl _)
  rw [State.hcReads, hsegs]
  dsimp only
  rw [hmay, hreads, hz, hdir, hlen, hcut]
  refine State.hcReads_none ?_ p d k
  rw [State.hcart_modHc]

/-- A unit with one piece of host bytes reads it, and waits. -/
theorem State.hcPump_one {u : State} {n : Nat} {p : PartId} {e : Desc} {x : RingId × BitVec 32} {g : HcSeg}
    (hdesc : u.hcDesc n = some (p, e)) (hrun : e.stage = .running) (hheld : u.held = false)
    (hh : u.hcart n = { desc := some x, segs := [g] }) (hmay : u.hcMay n p = true) (hz : g.zero = false) (hl : 0 < g.len)
    (hfit : g.host % 512 + g.len ≤ 512) (hrows : e.rows = 0) :
    ∃ v : State, v = (u.hostRead (partFn p) g.host g.len (.data e.ring e.seq)).2.modHc n (fun h => { h with
        segs := [], reads := h.reads ++ [{ id := u.nextId, host := g.host, dev := g.dev, len := g.len }] }) ∧ u.hcPump n = v ∧
      v.hcart n = { desc := some x, reads := [{ id := u.nextId, host := g.host, dev := g.dev, len := g.len }] } := by
  have hread := State.hcReads_one (d := e) (congrArg HostCart.segs hh) (congrArg HostCart.dir hh) (congrArg HostCart.reads hh) hmay hz hl
    hfit 1023
  have hself := State.hcart_modHc (u.hostRead (partFn p) g.host g.len (.data e.ring e.seq)).2 n (fun h => { h with
    segs := [], reads := h.reads ++ [{ id := u.nextId, host := g.host, dev := g.dev, len := g.len }] })
  rw [State.hcart_hostRead, hh] at hself
  refine ⟨_, rfl, ?_, hself⟩
  rw [State.hcPump_reads hdesc hrun hheld (congrArg HostCart.reads hh) (congrArg HostCart.todo hh) (congrArg HostCart.status hh), hread]
  generalize (u.hostRead (partFn p) g.host g.len (.data e.ring e.seq)).2.modHc n (fun h => { h with
    segs := [], reads := h.reads ++ [{ id := u.nextId, host := g.host, dev := g.dev, len := g.len }] }) = v at hself
  have hindex : v.hcIndex n e = v := by
    rw [State.hcIndex, hself, hrows]
    rfl
  rw [hindex, State.hcEnd, hself]
  rfl

/-- A unit that has an index to read reads as many entries as go into 512 bytes, and waits. -/
theorem State.hcPump_index {u : State} {n : Nat} {p : PartId} {e : Desc} {x : RingId × BitVec 32} {dir : Nat}
    (hdesc : u.hcDesc n = some (p, e)) (hrun : e.stage = .running) (hheld : u.held = false)
    (hh : u.hcart n = { desc := some x, dir := dir }) {m : Nat} (hrows : e.rows = m) (hm : 0 < m) :
    ∃ v : State, v = (u.hostRead (partFn p) (e.f 32 8) (4 * min 128 m) (.index e.ring e.seq)).2.modHc n
        (fun h => { h with index := h.index + min 128 m }) ∧ u.hcPump n = v ∧
      v.hcart n = { desc := some x, dir := dir, index := 0 + min 128 m } := by
  have hfn : u.hcFn n = partFn p := by rw [State.hcFn, hdesc]
  have hself := State.hcart_modHc (u.hostRead (partFn p) (e.f 32 8) (4 * min 128 m) (.index e.ring e.seq)).2 n
    (fun h => { h with index := h.index + min 128 m })
  rw [State.hcart_hostRead, hh] at hself
  refine ⟨_, rfl, ?_, hself⟩
  have hindex : u.hcIndex n e = (u.hostRead (partFn p) (e.f 32 8) (4 * min 128 m) (.index e.ring e.seq)).2.modHc n
      (fun h => { h with index := h.index + min 128 m }) := by
    have hno : decide (m ≤ 0) = false := decide_eq_false (by omega)
    rw [State.hcIndex, hrows, hfn, hh]
    dsimp only
    rw [hno, Nat.mul_zero, Nat.add_zero, Nat.sub_zero]
    rfl
  rw [State.hcPump_reads hdesc hrun hheld (congrArg HostCart.reads hh) (congrArg HostCart.todo hh) (congrArg HostCart.status hh),
    State.hcReads_none (congrArg HostCart.segs hh), hindex]
  generalize (u.hostRead (partFn p) (e.f 32 8) (4 * min 128 m) (.index e.ring e.seq)).2.modHc n
    (fun h => { h with index := h.index + min 128 m }) = v at hself
  have hmin : (0 + min 128 m == 0) = false := beq_false_of_ne (by omega)
  rw [State.hcEnd, hself]
  dsimp only
  rw [hmin, Bool.and_false, Bool.false_and]
  rfl

/-- A descriptor whose operation has begun. -/
def Desc.inRun (d : Desc) : Desc := { d with stage := .running }

section
variable {s : State} {r : RingId} {q : BitVec 32} {p : PartId} {d : Desc} {n : Nat} (ha : s.alive = true)
  (hd : s.descOf r q = some (p, d)) (hst : d.stage = .started)

/-- A host cart that has just been given its descriptor, and may read. -/
def State.FreshCart (s : State) (r : RingId) (q : BitVec 32) (p : PartId) (n : Nat) : Prop :=
  s.hcOf r q = some n ∧ s.hcart n = { desc := some (r, q) } ∧ s.jointHeld p (hcSrc n) = false ∧ s.held = false

/-- The cart takes up its descriptor. -/
def State.cartTakes (s : State) (r : RingId) (q : BitVec 32) (n dir : Nat) (segs : List HcSeg) : State :=
  (s.running_ r q).modHc n (fun h => { h with dir := dir, segs := segs })

theorem State.jointHeld_modDesc (s : State) (r : RingId) (q : BitVec 32) (f : Desc → Desc) (p : PartId) (src : BitVec 16) :
    (s.modDesc r q f).jointHeld p src = s.jointHeld p src := by
  have hview : PartView (fun x : Part => (x.jointWrites, x.shadowWait)) := ⟨fun _ _ => rfl, fun _ _ => rfl⟩
  have h := hview.modDesc s r q f p
  simp only [Prod.mk.injEq] at h
  rw [State.jointHeld, State.jointHeld, h.1, h.2]

/-- What the cart has of its descriptor, once it has taken it up. -/
structure State.Taken (s : State) (r : RingId) (q : BitVec 32) (p : PartId) (d : Desc) (n dir : Nat) (segs : List HcSeg) (u : State) :
    Prop where
  desc : u.hcDesc n = some (p, d.inRun)
  cart : u.hcart n = { desc := some (r, q), dir := dir, segs := segs }
  may : u.hcMay n p = true
  held : u.held = false
  named : u.descOf r q = some (p, d.inRun)
  rest : u = { s with parts := u.parts, hostCarts := u.hostCarts }

include hd in
theorem State.cartTakes_taken (hcart : s.FreshCart r q p n) (dir : Nat) (segs : List HcSeg) :
    s.Taken r q p d n dir segs (s.cartTakes r q n dir segs) := by
  obtain ⟨-, hh, hj, hheld⟩ := hcart
  have hrun : s.running_ r q = { s with parts := (s.running_ r q).parts } := (State.modDesc_rest hd _).1
  have hjoint : (s.running_ r q).jointHeld p (hcSrc n) = false := (State.jointHeld_modDesc ..).trans hj
  have hdesc : (s.running_ r q).descOf r q = some (p, d.inRun) := State.descOf_modDesc (f := Desc.inRun) hd (fun _ => ⟨rfl, rfl⟩)
  have hcarts : (s.running_ r q).hostCarts = s.hostCarts := (congrArg State.hostCarts hrun :)
  have hhc : (s.running_ r q).hcart n = { desc := some (r, q) } := by
    rw [State.hcart, hcarts]
    exact hh
  have hheld' : (s.running_ r q).held = false := by
    rw [hrun]
    exact hheld
  generalize hu : s.running_ r q = u at hrun hjoint hdesc hcarts hhc hheld'
  have hself : (u.modHc n (fun h => { h with dir := dir, segs := segs })).hcart n =
      { desc := some (r, q), dir := dir, segs := segs } := by rw [State.hcart_modHc, hhc]
  rw [State.cartTakes, hu]
  refine ⟨?_, hself, ?_, hheld', hdesc, ?_⟩
  · rw [State.hcDesc, hself]
    exact hdesc
  · have hjoint' : (u.modHc n (fun h => { h with dir := dir, segs := segs })).jointHeld p (hcSrc n) = false := hjoint
    rw [State.hcMay, hself, hjoint']
    rfl
  · rw [hrun]
    rfl

include ha hd hst

theorem exec_copy (ho : d.opc = 0x01) (hdir : d.f 36 1 % 4 = 0) (hcart : s.FreshCart r q p n) : exec (.copy r q) s = .next
    ((s.cartTakes r q n 0 [{ host := d.f 16 8, dev := d.f 24 8, len := d.f 32 4, zero := false }]).hcPump n) := by
  refine (onDesc_acts ha hd hst ho _).trans (congrArg Host.Outcome.next ?_)
  dsimp only
  rw [hdir, State.hcBegin, hcart.1]
  rfl

theorem copy_reads (ho : d.opc = 0x01) (hdir : d.f 36 1 % 4 = 0) (hcart : s.FreshCart r q p n) (hl : 0 < d.f 32 4)
    (hfit : d.f 16 8 % 512 + d.f 32 4 ≤ 512) :
    Completes (.copy r q) s (fun t =>
      t.hostReads.map HostRead.asked =
          s.hostReads.map HostRead.asked ++ [(s.nextId, d.f 16 8, d.f 32 4, .data r q, partFn p)] ∧
        t.hcart n = {
          desc := some (r, q), reads := [{ id := s.nextId, host := d.f 16 8, dev := d.f 24 8, len := d.f 32 4 }] } ∧
        t.mem = s.mem ∧ ∃ o e, t.descOf r q = some (o, e) ∧ e.stage = .running) := by
  have he := exec_copy ha hd hst ho hdir hcart
  have htaken := State.cartTakes_taken hd hcart 0 [{ host := d.f 16 8, dev := d.f 24 8, len := d.f 32 4, zero := false }]
  obtain ⟨hr, hq⟩ := descOf_names hd
  generalize s.cartTakes r q n 0 [{ host := d.f 16 8, dev := d.f 24 8, len := d.f 32 4, zero := false }] = u at he htaken
  obtain ⟨hdesc, hhc, hmay, hheld, hof, hrest⟩ := htaken
  have hnot : d.opc ≠ 0x02 := by omega
  obtain ⟨v, hv, hpump, hself⟩ := State.hcPump_one hdesc rfl hheld hhc hmay rfl hl hfit (if_neg hnot)
  obtain ⟨o, h, rs, hrs, hasked⟩ := u.hostRead_rest (partFn p) (d.f 16 8) (d.f 32 4) (.data d.ring d.seq)
  rw [hpump] at he
  have hv : v = ({ u with outbox := o, heldOut := h, nextId := u.nextId + 1, hostReads := rs } : State).modHc n _ :=
    hv.trans (congrArg (fun w : State => w.modHc n _) hrs)
  have hid : u.nextId = s.nextId := by rw [hrest]
  have hreads : u.hostReads = s.hostReads := by rw [hrest]
  rw [hr, hq, hid, hreads] at hasked
  rw [hid] at hself
  refine completes_of_eq he ⟨?_, hself, ?_, ⟨p, d.inRun, ?_, rfl⟩⟩
  · rw [hv]
    exact hasked
  · rw [hv]
    show u.mem = s.mem
    rw [hrest]
  · rw [hv]
    exact hof

theorem copyIndexed_reads (ho : d.opc = 0x02) (hcart : s.FreshCart r q p n) (hrows : 0 < d.f 40 4) :
    Completes (.copyIndexed r q) s (fun t =>
      t.hostReads.map HostRead.asked =
          s.hostReads.map HostRead.asked ++ [(s.nextId, d.f 32 8, 4 * min 128 (d.f 40 4), .index r q, partFn p)] ∧
        (t.hcart n).index = min 128 (d.f 40 4) ∧ (t.hcart n).dir = d.f 56 1 % 2 ∧ t.mem = s.mem ∧
        ∃ o e, t.descOf r q = some (o, e) ∧ e.stage = .running) := by
  have he : exec (.copyIndexed r q) s = .next ((s.cartTakes r q n (d.f 56 1 % 2) []).hcPump n) := by
    refine (onDesc_acts ha hd hst ho _).trans (congrArg Host.Outcome.next ?_)
    rw [State.hcBegin, hcart.1]
    rfl
  have htaken := State.cartTakes_taken hd hcart (d.f 56 1 % 2) []
  obtain ⟨hr, hq⟩ := descOf_names hd
  generalize d.f 56 1 % 2 = dir at he htaken ⊢
  generalize s.cartTakes r q n dir [] = u at he htaken
  obtain ⟨hdesc, hhc, -, hheld, hof, hrest⟩ := htaken
  obtain ⟨v, hv, hpump, hself⟩ := State.hcPump_index hdesc rfl hheld hhc (if_pos ho) hrows
  obtain ⟨o, h, rs, hrs, hasked⟩ := u.hostRead_rest (partFn p) (d.f 32 8) (4 * min 128 (d.f 40 4)) (.index d.ring d.seq)
  rw [hpump] at he
  have hv : v = ({ u with outbox := o, heldOut := h, nextId := u.nextId + 1, hostReads := rs } : State).modHc n _ :=
    hv.trans (congrArg (fun w : State => w.modHc n _) hrs)
  have hid : u.nextId = s.nextId := by rw [hrest]
  have hreads : u.hostReads = s.hostReads := by rw [hrest]
  rw [hr, hq, hid, hreads] at hasked
  refine completes_of_eq he ⟨?_, ?_, ?_, ?_, ⟨p, d.inRun, ?_, rfl⟩⟩
  · rw [hv]
    exact hasked
  · rw [hself]
    exact Nat.zero_add _
  · rw [hself]
  · rw [hv]
    show u.mem = s.mem
    rw [hrest]
  · rw [hv]
    exact hof

theorem exec_writeInline (ho : d.opc = 0x03) :
    exec (.writeInline r q) s = .next (s.inline p d (d.f 16 8 % 2 ^ 52) d.payload) := onDesc_acts ha hd hst ho _

theorem exec_timestamp_to (ho : d.opc = 0x11) (h : d.f 16 8 ≠ 0) :
    exec (.timestamp r q) s = .next (s.inline p d (d.f 16 8) (natLe 8 (d.startedAt % 2 ^ 48))) :=
  (onDesc_acts ha hd hst ho _).trans (congrArg Host.Outcome.next (if_neg h))

end

/-! ### MAP -/

section
variable {s : State} {r : RingId} {q : BitVec 32} {p : PartId} {d : Desc} (ha : s.alive = true)
  (hd : s.descOf r q = some (p, d)) (ho : d.opc = 0x0A) (hs : s.stalls = [])

/-- The range of a MAP passes the end of the address space. -/
def Desc.mapBeyond (d : Desc) : Prop := 2 ^ 52 < (d.mapVa / rangeSize d.mapLevel + d.mapCount) * rangeSize d.mapLevel

/-- The first read of the entries of a host array. -/
theorem State.readMap_first {u : State} (hp : u.partOfRing d.ring = some p) (hw : d.words = []) :
    u.readMap d = (u.hostRead (partFn p) (d.f 32 8) (8 * min 512 d.mapCount) (.mapEntries d.ring d.seq)).2 := by
  rw [State.readMap, hp, hw]
  simp only [List.length_nil, Nat.mul_zero, Nat.add_zero, Nat.sub_zero]

section
include ha hd ho

theorem exec_map (hst : d.stage = .started ∨ d.stage = .running) : exec (.map r q) s = .next (s.settle (s.actMap p d)) := by
  show execMap r q s = _
  rw [execMap, hd]
  refine whenever_of_alive ha ?_ _
  rw [ho]
  rcases hst with h | h <;> rw [h] <;> rfl

theorem map_beyond (hs : s.stalls = []) (hst : d.stage = .started) (hact : d.acted = false) (hb : d.mapBeyond) :
    Completes (.map r q) s (fun t => t.Ended r q d 0x0011 ∧ t.mem = s.mem) := by
  obtain ⟨hr, hq⟩ := descOf_names hd
  have he := exec_map ha hd ho (.inl hst)
  have hacts : s.actMap p d = s.endDesc r q 0x0011 := by
    rw [State.actMap, hact, if_neg Bool.false_ne_true, if_pos ⟨hst, hb⟩, hr, hq]
  rw [hacts, State.settle_of_no_stalls s ((State.endDesc_stalls ..).trans hs)] at he
  exact completes_of_eq he ⟨State.ended_endDesc hd (notOver_of_started hst) 0x0011, State.endDesc_mem ..⟩

theorem map_reads (hs : s.stalls = []) (hst : d.stage = .started) (hact : d.acted = false) (hb : ¬ d.mapBeyond)
    (harr : d.f 32 8 ≠ 0) (hw : d.words = []) (hc : 0 < d.mapCount) :
    Completes (.map r q) s (fun t =>
      t.hostReads.map HostRead.asked =
          s.hostReads.map HostRead.asked ++ [(s.nextId, d.f 32 8, 8 * min 512 d.mapCount, .mapEntries r q, partFn p)] ∧
        t.mem = s.mem ∧ ∃ o e, t.descOf r q = some (o, e) ∧ e.stage = .running) := by
  obtain ⟨hr, hq⟩ := descOf_names hd
  have he := exec_map ha hd ho (.inl hst)
  have hpart : (s.running_ r q).partOfRing r = some p := by
    rw [State.partOfRing_congr (s := s) (by rw [State.running_, (State.modDesc_rest hd _).1])]
    exact (State.descOf_iff.mp hd).1
  have hacts : s.actMap p d =
      ((s.running_ r q).hostRead (partFn p) (d.f 32 8) (8 * min 512 d.mapCount) (.mapEntries r q)).2 := by
    rw [State.actMap, hact, if_neg Bool.false_ne_true, if_neg (fun h => hb h.2), if_neg, if_pos hst, hr, hq,
      State.readMap_first (by rw [hr]; exact hpart) hw, hr, hq]
    rw [hw, List.length_nil]
    omega
  have hrun : s.running_ r q = { s with parts := (s.running_ r q).parts } := (State.modDesc_rest hd _).1
  have hof : (s.running_ r q).descOf r q = some (p, { d with stage := .running }) :=
    State.descOf_modDesc (f := fun d => { d with stage := .running }) hd (fun _ => ⟨rfl, rfl⟩)
  have hstalls : (s.actMap p d).stalls = [] := by
    rw [hacts, State.hostRead_stalls, State.running__stalls, hs]
  rw [State.settle_of_no_stalls s hstalls, hacts] at he
  generalize s.running_ r q = u at he hrun hof
  obtain ⟨o, h, rs, hrs, hasked⟩ := u.hostRead_rest (partFn p) (d.f 32 8) (8 * min 512 d.mapCount) (.mapEntries r q)
  rw [hrs] at he
  have hid : u.nextId = s.nextId := by rw [hrun]
  have hreads : u.hostReads = s.hostReads := by rw [hrun]
  refine completes_of_eq he ⟨?_, ?_, ⟨p, _, hof, rfl⟩⟩
  · rw [← hid, ← hreads]
    exact hasked
  · show u.mem = s.mem
    rw [hrun]

theorem map_acts (hst : d.stage = .started) (hact : d.acted = false) (hb : ¬ d.mapBeyond) (harr : d.f 32 8 = 0) :
    exec (.map r q) s = .next (s.settle (s.writeMap p d)) := by
  have hacts : s.actMap p d = s.writeMap p d := by
    rw [State.actMap, hact, if_neg Bool.false_ne_true, if_neg (fun h => hb h.2), if_pos (.inl harr)]
  rw [exec_map ha hd ho (.inl hst), hacts]

theorem map_ends (hs : s.stalls = []) (hst : d.stage = .running) (hact : d.acted = true)
    (hfree : ∀ x ∈ d.pages, s.pageBusy x.1 x.2 = false) :
    Completes (.map r q) s (fun t => t.Ended r q d d.status.toNat ∧ t.mem = s.mem) := by
  obtain ⟨hr, hq⟩ := descOf_names hd
  have he := exec_map ha hd ho (.inr hst)
  have hno : d.pages.any (fun x => s.pageBusy x.1 x.2) = false := by
    rw [List.any_eq_false]
    intro x hx
    rw [hfree x hx]
    exact Bool.false_ne_true
  have hacts : s.actMap p d = s.endDesc r q d.status.toNat := by
    rw [State.actMap, if_pos hact, State.endMap, hno, if_neg Bool.false_ne_true, hr, hq]
  rw [hacts, State.settle_of_no_stalls s ((State.endDesc_stalls ..).trans hs)] at he
  exact completes_of_eq he ⟨State.ended_endDesc hd (by rw [hst]; decide) _, State.endDesc_mem ..⟩

end

end

/-- Settles O50: host carts and inline units begin their transfers; a MAP reads, writes and ends. -/
theorem transferDescriptors : Obligations.transferDescriptors := by
  unfold Obligations.transferDescriptors
  refine ⟨fun s r q p d n ha hd hst => ?_, fun s r q p d ha hd ho hs => ?_⟩
  · intro cart asked a len rows
    refine ⟨copy_reads ha hd hst, copyIndexed_reads ha hd hst, exec_writeInline ha hd hst, exec_timestamp_to ha hd hst, fun h va bs => ?_⟩
    rw [State.inline]
    exact if_pos h
  · intro asked beyond
    refine ⟨map_beyond ha hd ho hs, map_reads ha hd ho hs, fun hst hact hb harr hno => ?_, fun hst hact hb harr hno => ?_,
      map_ends ha hd ho hs⟩
    · rw [map_acts ha hd ho hst hact hb harr, State.settle_of_no_stalls s hno]
    · exact completes_of_eq (map_acts ha hd ho hst hact hb harr) (s.settle_of_stalls hno)

end Sys2Proof.Machine
end

section
/-! PROOFS. LAUNCH and GRIND descriptors (R21, R284, R287, R297). -/

namespace Sys2Proof.Machine

open Sys2Proof

/-! ### Cores that change each by its place in a list -/

/-- The cores after each of a list has been changed by its place in the list. -/
def State.modRanked (s : State) (f : CoreId → Nat → Core → Core) (l : List CoreId) (m : Nat) : State :=
  (l.zipIdx m).foldl (fun t x => t.modCore x.1 (f x.1 x.2)) s

theorem State.modRanked_cons (s : State) (f : CoreId → Nat → Core → Core) (c : CoreId) (l : List CoreId) (m : Nat) :
    s.modRanked f (c :: l) m = (s.modCore c (f c m)).modRanked f l (m + 1) := by
  rw [State.modRanked, List.zipIdx_cons, List.foldl_cons]
  rfl

theorem State.core_modRanked_other (f : CoreId → Nat → Core → Core) {c : CoreId} (l : List CoreId) (hc : c ∉ l) (s : State) (m : Nat) :
    (s.modRanked f l m).core c = s.core c := by
  induction l generalizing s m with
  | nil => rfl
  | cons a l ih =>
    rw [State.modRanked_cons, ih (fun h => hc (List.mem_cons_of_mem _ h)), State.core_modCore, if_neg]
    exact fun h => hc (h ▸ List.mem_cons_self)

theorem State.core_modRanked (f : CoreId → Nat → Core → Core) {l : List CoreId} (hn : l.Nodup) (s : State) (m : Nat) {i : Nat}
    {c : CoreId} (hc : l[i]? = some c) : (s.modRanked f l m).core c = f c (m + i) (s.core c) := by
  induction l generalizing s m i with
  | nil => exact nomatch hc
  | cons a l ih =>
    obtain ⟨hnot, hrest⟩ := List.nodup_cons.mp hn
    rw [State.modRanked_cons]
    cases i with
    | zero =>
      obtain rfl : a = c := Option.some.inj hc
      rw [State.core_modRanked_other f l hnot, State.core_modCore, if_pos rfl]
      rfl
    | succ i =>
      have hne : c ≠ a := fun h => hnot (h ▸ List.mem_of_getElem? (i := i) hc)
      rw [ih hrest _ _ (i := i) hc, State.core_modCore, if_neg hne, Nat.add_right_comm m 1 i]
      rfl

theorem State.modRanked_rest (s : State) (f : CoreId → Nat → Core → Core) (l : List CoreId) (m : Nat) :
    s.modRanked f l m = { s with cores := (s.modRanked f l m).cores } := by
  induction l generalizing s m with
  | nil => rfl
  | cons a l ih =>
    rw [State.modRanked_cons, ih]
    rfl

/-! ### The registers at the first instruction -/

theorem tabGet_zipIdx (l : List Word) (m i : Nat) (t : Tab Word) :
    tabGet (fun _ => 0) i ((l.zipIdx m).foldl (fun t x => tabSet (fun _ => 0) x.2 x.1 t) t) =
      if m ≤ i ∧ i < m + l.length then l.getD (i - m) 0 else tabGet (fun _ => 0) i t := by
  induction l generalizing m t with
  | nil => rw [if_neg (by simp)]; rfl
  | cons a l ih =>
    rw [List.zipIdx_cons, List.foldl_cons, ih, List.length_cons]
    by_cases h0 : i = m
    · subst h0
      rw [if_neg (by omega), if_pos (by omega), Nat.sub_self, tabGet_tabSet, if_pos rfl]
      rfl
    · by_cases h1 : m + 1 ≤ i ∧ i < m + 1 + l.length
      · rw [if_pos h1, if_pos (by omega), show i - m = i - (m + 1) + 1 by omega]
        rfl
      · rw [if_neg h1, if_neg (by omega), tabGet_tabSet, if_neg h0]

/-- The words of the registers at the first instruction of a launch: four arguments, nine zeros, rank, count and number. -/
def launchRegs (arg : Nat → Word) (x y z : Word) : List Word := [arg 0, arg 1, arg 2, arg 3] ++ List.replicate 9 (0 : Word) ++ [x, y, z]

theorem launchRegs_getD (arg : Nat → Word) (x y z : Word) (j : SReg) : (launchRegs arg x y z).getD j.val 0 =
    if j.val < 4 then arg j.val else if j.val = 13 then x else if j.val = 14 then y else if j.val = 15 then z else 0 := by
  fin_cases j <;> rfl

/-- The registers of a core at the first instruction of a launch. -/
theorem Core.begin_sreg (k : Core) (c : CoreId) (d : Desc) (rank n : Nat) (img : Image) (j : SReg) :
    (k.begin_ c d rank n img).sreg j = if j.val < 4 then BitVec.ofNat 64 (d.f (32 + 8 * j.val) 8)
      else if j.val = 13 then BitVec.ofNat 64 rank else if j.val = 14 then BitVec.ofNat 64 n
      else if j.val = 15 then BitVec.ofNat 64 c.val else 0 := by
  have hlen (arg : Nat → Word) (x y z : Word) : (launchRegs arg x y z).length = 16 := rfl
  have hget := tabGet_zipIdx (launchRegs (fun i => BitVec.ofNat 64 (d.f (32 + 8 * i) 8)) (BitVec.ofNat 64 rank) (BitVec.ofNat 64 n)
    (BitVec.ofNat 64 c.val)) 0 j.val []
  rw [hlen, if_pos ⟨Nat.zero_le _, by have := j.isLt; omega⟩, Nat.sub_zero, launchRegs_getD] at hget
  rw [launchRegs] at hget
  unfold Core.sreg Core.begin_
  dsimp only
  exact hget

/-- A core at the first instruction of a launch. -/
theorem Core.begin_fields (k : Core) (c : CoreId) (d : Desc) (rank n : Nat) (img : Image) :
    (k.begin_ c d rank n img).pc = img.entry ∧ (k.begin_ c d rank n img).run = .running ∧ (k.begin_ c d rank n img).lc = [] ∧
      (k.begin_ c d rank n img).cmp = 0 ∧ (k.begin_ c d rank n img).tile = {} ∧ (k.begin_ c d rank n img).bench = k.bench := by
  unfold Core.begin_
  exact ⟨rfl, rfl, rfl, rfl, rfl, rfl⟩

/-! ### LAUNCH -/

theorem State.launchCores_at (u : State) (p : PartId) (d : Desc) {i : Nat} (h : i < d.count) :
    (u.launchCores p d)[i]? = some (u.coreOfRank p (d.first + i)) := by
  rw [State.launchCores, List.getElem?_map, List.getElem?_range h]
  rfl

theorem State.noteBusy_rest (u : State) (p : PartId) (ctx : BitVec 8) : u.noteBusy p ctx = { u with parts := (u.noteBusy p ctx).parts } := by
  unfold State.noteBusy
  split <;> rfl

theorem State.modRanked_cores_congr (f : CoreId → Nat → Core → Core) (l : List CoreId) (m : Nat) {t v : State} (h : t.cores = v.cores) :
    (t.modRanked f l m).cores = (v.modRanked f l m).cores := by
  induction l generalizing m t v with
  | nil => exact h
  | cons a l ih =>
    rw [State.modRanked_cons, State.modRanked_cons]
    refine ih _ ?_
    rw [State.modCore, State.modCore, State.setCore, State.setCore, State.core_congr h, h]

/-- A launch as it is noted. -/
def State.newLaunch (u : State) (p : PartId) (d : Desc) (img : Image) : Launch :=
  { ring := d.ring, seq := d.seq, tag := BitVec.ofNat 16 d.tag, part := p, ctx := u.ringCtx d.ring, cores := u.launchCores p d
    key := img.key, skipped := img.malformed, joint := d.joint }

/-- The state that notes a launch whose cores have started. -/
def State.noteLaunch (v : State) (order : Nat) (p : PartId) (d : Desc) (img : Image) (l : Launch) : State :=
  (({ v.modPart p (fun q => { q with
      images := q.images.map (fun i => if i.key = img.key then { i with lastUse := order } else i) }) with
    launchOrder := order, launches := v.launches ++ [l] } : State).running_ d.ring d.seq).noteLate p d

theorem State.noteLaunch_facts (v : State) (order : Nat) (p : PartId) (d : Desc) (img : Image) (l : Launch) :
    (v.noteLaunch order p d img l).cores = v.cores ∧ (v.noteLaunch order p d img l).launches = v.launches ++ [l] := by
  constructor
  · rw [State.noteLaunch, State.noteLate_cores, State.running__cores]
    rfl
  · rw [State.noteLaunch, State.noteLate_launches, State.running__launches]

theorem State.beginLaunch_eq (u : State) (p : PartId) (d : Desc) (img : Image) :
    u.beginLaunch p d img = ((u.noteBusy p (u.ringCtx d.ring)).modRanked (fun c i k => k.begin_ c d i d.count img)
      (u.launchCores p d) 0).noteLaunch (u.launchOrder + 1) p d img (u.newLaunch p d img) := rfl

/-- A launch starts each of its cores, and is noted. -/
theorem State.beginLaunch_facts (u : State) (p : PartId) (d : Desc) (img : Image) :
    (u.beginLaunch p d img).cores =
        (u.modRanked (fun c i k => k.begin_ c d i d.count img) (u.launchCores p d) 0).cores ∧
      (u.beginLaunch p d img).launches.map (fun l => (l.ring, l.seq, l.cores)) =
        u.launches.map (fun l => (l.ring, l.seq, l.cores)) ++ [(d.ring, d.seq, u.launchCores p d)] := by
  have hcores := State.modRanked_cores_congr (fun c i k => k.begin_ c d i d.count img) (u.launchCores p d) 0
    (State.noteBusy_cores u p (u.ringCtx d.ring))
  have hlaunches : ((u.noteBusy p (u.ringCtx d.ring)).modRanked (fun c i k => k.begin_ c d i d.count img) (u.launchCores p d) 0).launches =
      u.launches := by
    rw [State.modRanked_rest, u.noteBusy_rest]
  rw [State.beginLaunch_eq]
  generalize (u.noteBusy p (u.ringCtx d.ring)).modRanked (fun c i k => k.begin_ c d i d.count img) (u.launchCores p d) 0 = v at hcores hlaunches
  obtain ⟨h1, h2⟩ := v.noteLaunch_facts (u.launchOrder + 1) p d img (u.newLaunch p d img)
  refine ⟨h1.trans hcores, ?_⟩
  rw [h2, hlaunches, List.map_append]
  rfl

section
variable {s : State} {r : RingId} {q : BitVec 32} {p : PartId} {d : Desc} (ha : s.alive = true)
  (hd : s.descOf r q = some (p, d)) (hst : d.stage = .started)

/-- The refusal of a descriptor that names a core beyond the list, or whose context has no save area. -/
theorem State.coreRefusal_arg {ctx : BitVec 8} {n : Nat} (h : s.nCores p < n ∨ s.saveArea ctx = 0) :
    s.coreRefusal p ctx n = some 0x0011 := if_pos h

section
variable (ho : d.opc = 0x04)
include ha hd hst ho

theorem exec_launch : exec (.launch r q) s = .next (s.settle (s.actLaunch p d)) := onDesc_acts ha hd hst ho _

theorem launch_refused (hs : s.stalls = []) (h : s.nCores p < d.first + d.count ∨ s.saveArea (s.ringCtx r) = 0) :
    Completes (.launch r q) s (fun t => t.Ended r q d 0x0011 ∧ t.cores = s.cores ∧ t.mem = s.mem) := by
  obtain ⟨hr, hq⟩ := descOf_names hd
  have he := exec_launch ha hd hst ho
  have hact : s.actLaunch p d = s.endDesc r q 0x0011 := by
    rw [State.actLaunch, hr, hq, State.coreRefusal_arg h]
  rw [hact, State.settle_of_no_stalls s ((State.endDesc_stalls ..).trans hs)] at he
  exact completes_of_eq he ⟨State.ended_endDesc hd (notOver_of_started hst) 0x0011, State.endDesc_cores .., State.endDesc_mem ..⟩

section
variable (hok : s.coreRefusal p (s.ringCtx r) (d.first + d.count) = none) {u : State} {key : ImageKey}
  (hkey : s.imageKey p d = (u, 0, key))
include hok hkey

omit ha hst ho in
/-- A LAUNCH whose key is known looks for its image. -/
theorem State.actLaunch_keyed : s.actLaunch p d = (match (u.part p).images.find? (fun i => decide (i.key = key)) with
      | none => u.awaitImage p d key
      | some img =>
        if s.coresOpen p (s.ringCtx r) && (s.launchCores p d).all (fun c => (s.core c).finished) then u.beginLaunch p d img else u) := by
  obtain ⟨hr, -⟩ := descOf_names hd
  rw [State.actLaunch, hr, hok, hkey]
  rfl

theorem launch_waits_channel (hu : u.stalls ≠ []) :
    Completes (.launch r q) s (fun t => t.parts = s.parts ∧ t.cores = s.cores ∧ t.mem = s.mem) := by
  have hstalls : (s.actLaunch p d).stalls ≠ [] := by
    have hsame : (s.actLaunch p d).stalls = u.stalls := by
      rw [State.actLaunch_keyed hd hok hkey]
      split
      · exact State.awaitImage_stalls ..
      · split
        · exact State.beginLaunch_stalls ..
        · rfl
    rw [hsame]
    exact hu
  obtain ⟨hp, hm, hc⟩ := s.settle_of_stalls hstalls
  exact completes_of_eq (exec_launch ha hd hst ho) ⟨hp, hc, hm⟩

theorem launch_waits_image (hu : u.stalls = []) (hi : (u.part p).images.find? (fun i => decide (i.key = key)) = none) :
    exec (.launch r q) s = .next (u.awaitImage p d key) := by
  have hact := State.actLaunch_keyed hd hok hkey
  rw [hi] at hact
  have hstalls : (s.actLaunch p d).stalls = [] := by
    rw [hact]
    exact (State.awaitImage_stalls ..).trans hu
  rw [exec_launch ha hd hst ho, State.settle_of_no_stalls s hstalls, hact]

theorem launch_begins {img : Image} (hu : u.stalls = [])
    (hi : (u.part p).images.find? (fun i => decide (i.key = key)) = some img) (hopen : s.coresOpen p (s.ringCtx r) = true)
    (hfin : ∀ c ∈ s.launchCores p d, (s.core c).finished = true) (hn : (u.launchCores p d).Nodup) :
    Completes (.launch r q) s (fun t =>
      (∀ i, i < d.count → ∃ k : Core, t.core (u.coreOfRank p (d.first + i)) = k.begin_ (u.coreOfRank p (d.first + i)) d i d.count img ∧
        k = u.core (u.coreOfRank p (d.first + i))) ∧
      (∀ c, c ∉ u.launchCores p d → t.core c = u.core c) ∧
      (t.launches.map (fun l => (l.ring, l.seq, l.cores))) =
        u.launches.map (fun l => (l.ring, l.seq, l.cores)) ++ [(d.ring, d.seq, u.launchCores p d)]) := by
  have hact := State.actLaunch_keyed hd hok hkey
  have hall : (s.launchCores p d).all (fun c => (s.core c).finished) = true := List.all_eq_true.mpr hfin
  rw [hi] at hact
  dsimp only at hact
  rw [hopen, hall, Bool.true_and, if_pos rfl] at hact
  have hstalls : (s.actLaunch p d).stalls = [] := by
    rw [hact]
    exact (State.beginLaunch_stalls ..).trans hu
  have he := exec_launch ha hd hst ho
  rw [State.settle_of_no_stalls s hstalls, hact] at he
  obtain ⟨hcores, hlaunches⟩ := u.beginLaunch_facts p d img
  refine completes_of_eq he ⟨fun i hlt => ⟨_, ?_, rfl⟩, fun c hc => ?_, hlaunches⟩
  · have := State.core_modRanked (fun c i k => k.begin_ c d i d.count img) hn u 0 (u.launchCores_at p d hlt)
    rw [Nat.zero_add] at this
    exact (State.core_congr hcores _).trans this
  · exact (State.core_congr hcores c).trans (State.core_modRanked_other _ _ hc u 0)

end

end

/-! ### GRIND -/

/-- A job takes its place in the admission queue of its granary. -/
theorem State.enterGranary_places (u : State) (j : GrindJob) :
    (u.enterGranary j).queueOfGranary j.granary = placeJob { j with enteredAt := u.fabric_ } (u.queueOfGranary j.granary) ∧
      (∀ h, h ≠ j.granary → (u.enterGranary j).queueOfGranary h = u.queueOfGranary h) ∧
      (u.enterGranary j).core j.core = (u.core j.core).modEng .grind (fun e => { e.cleared with phase := .running, cmd := some j.cmd }) ∧
      (∀ o, o ≠ j.core → (u.enterGranary j).core o = u.core o) ∧ (u.enterGranary j).mem = u.mem ∧
      ∀ r q, (u.enterGranary j).descOf r q = u.descOf r q := by
  have hset (h : Fin 4) := u.queueOfGranary_setGranaryQueue j.granary h
    (placeJob { j with enteredAt := u.fabric_ } (u.queueOfGranary j.granary))
  refine ⟨(hset _).trans (if_pos rfl), fun h hh => (hset h).trans (if_neg hh), (State.core_modCore ..).trans (if_pos rfl),
    fun o ho => (State.core_modCore ..).trans (if_neg ho), rfl, fun _ _ => rfl⟩

section
variable (ho : d.opc = 0x0E)
include ha hd hst ho

theorem grind_refused (h : s.nCores p < d.f 16 1 + 1 ∨ s.saveArea (s.ringCtx r) = 0) :
    Completes (.grind r q) s (fun t => t.Ended r q d 0x0011 ∧ t.cores = s.cores ∧ t.mem = s.mem) := by
  obtain ⟨hr, hq⟩ := descOf_names hd
  have he : exec (.grind r q) s = .next (s.actGrind p d) := onDesc_acts ha hd hst ho _
  have hact : s.actGrind p d = s.endDesc r q 0x0011 := by
    rw [State.actGrind, hr, hq, State.coreRefusal_arg h]
  rw [hact] at he
  exact completes_of_eq he ⟨State.ended_endDesc hd (notOver_of_started hst) 0x0011, State.endDesc_cores .., State.endDesc_mem ..⟩

theorem exec_grind_enters (hok : s.coreRefusal p (s.ringCtx r) (d.f 16 1 + 1) = none) (hopen : s.coresOpen p (s.ringCtx r) = true)
    (hl : (s.core (s.coreOfRank p (d.f 16 1))).launch = none)
    (hidle : ((s.core (s.coreOfRank p (d.f 16 1))).engOf .grind).phase = .idle)
    (hpass : (s.checkGrind (s.coreOfRank p (d.f 16 1)) (some p) d.grindCmd).1 = none) :
    exec (.grind r q) s = .next
      (((((s.checkGrind (s.coreOfRank p (d.f 16 1)) (some p) d.grindCmd).2.noteBusy p (s.ringCtx r)).running_ r q)).enterGranary
        (mkJob (s.coreOfRank p (d.f 16 1)) (s.core (s.coreOfRank p (d.f 16 1))) d.grindCmd (some (r, q)))) := by
  obtain ⟨hr, hq⟩ := descOf_names hd
  refine (onDesc_acts ha hd hst ho _).trans (congrArg Host.Outcome.next ?_)
  have hphase : decide (((s.core (s.coreOfRank p (d.f 16 1))).engOf .grind).phase ≠ .idle) = false :=
    decide_eq_false (not_not_intro hidle)
  rw [State.actGrind, hr, hq, hok]
  dsimp only
  rw [hopen, hl, hphase, if_neg (by decide)]
  generalize s.checkGrind (s.coreOfRank p (d.f 16 1)) (some p) d.grindCmd = x at hpass
  obtain ⟨why, t⟩ := x
  dsimp only at hpass
  rw [hpass]

theorem grind_enters (hok : s.coreRefusal p (s.ringCtx r) (d.f 16 1 + 1) = none) (hopen : s.coresOpen p (s.ringCtx r) = true)
    {c : CoreId} (hc : s.coreOfRank p (d.f 16 1) = c) (hl : (s.core c).launch = none) (hidle : ((s.core c).engOf .grind).phase = .idle)
    (hpass : (s.checkGrind c (some p) d.grindCmd).1 = none) :
    Completes (.grind r q) s (fun t =>
      t.queueOfGranary (grindOps d.grindCmd).quad =
          placeJob { mkJob c (s.core c) d.grindCmd (some (r, q)) with enteredAt := s.fabric_ }
            (s.queueOfGranary (grindOps d.grindCmd).quad) ∧
        (∀ h, h ≠ (grindOps d.grindCmd).quad → t.queueOfGranary h = s.queueOfGranary h) ∧
        ((t.core c).engOf .grind).phase = .running ∧ (t.core c).bench = (s.core c).bench ∧ (∀ o, o ≠ c → t.core o = s.core o) ∧
        t.mem = s.mem ∧ ∃ o e, t.descOf r q = some (o, e) ∧ e.stage = .running) := by
  subst hc
  have he := exec_grind_enters ha hd hst ho hok hopen hl hidle hpass
  generalize s.coreOfRank p (d.f 16 1) = c at he
  have hbooks := s.checkGrind_sansBooks c (some p) d.grindCmd
  generalize (s.checkGrind c (some p) d.grindCmd).2 = t at he hbooks
  have hdt : t.descOf r q = some (p, d) :=
    (State.descOf_congr (State.same_of_sansBooks hbooks State.tables) (State.descs_congr (State.same_of_sansBooks hbooks State.parts)) r q).trans
      hd
  obtain ⟨hbusy, hrun⟩ : (∀ o, ((t.noteBusy p (s.ringCtx r)).running_ r q).core o = s.core o) ∧
      ∃ o e, ((t.noteBusy p (s.ringCtx r)).running_ r q).descOf r q = some (o, e) ∧ e.stage = .running := by
    refine ⟨fun o => ?_, ?_⟩
    · rw [State.core_congr (State.running__cores ..), State.core_congr (State.noteBusy_cores ..)]
      exact State.core_congr (State.same_of_sansBooks hbooks State.cores) o
    · refine State.runs_running_ (d := d) (p := p) ((State.descOf_congr ?_ (fun o => ?_) r q).trans hdt)
      · rw [State.noteBusy_rest]
      · rw [State.noteBusy]
        split
        · rfl
        · rw [State.descs, State.descs, State.part_modPart]
          split_ifs with h
          · rw [h]
          · rfl
  have hrest : (t.noteBusy p (s.ringCtx r)).running_ r q =
      { t with parts := ((t.noteBusy p (s.ringCtx r)).running_ r q).parts } := by
    rw [State.running_, State.modDesc]
    split
    · exact t.noteBusy_rest p (s.ringCtx r)
    · rw [State.noteBusy_rest]
      rfl
  generalize (t.noteBusy p (s.ringCtx r)).running_ r q = u at he hbusy hrun hrest
  have hadm : u.admission = s.admission := by
    rw [hrest]
    exact State.same_of_sansBooks hbooks State.admission
  have hfab : u.fabric_ = s.fabric_ := by
    rw [hrest]
    exact State.same_of_sansBooks hbooks State.fabric_
  have hmem : u.mem = s.mem := by
    rw [hrest]
    exact State.same_of_sansBooks hbooks State.mem
  obtain ⟨o, e, hde, hse⟩ := hrun
  obtain ⟨hq, hothers, hcore, hcores, hum, hdesc⟩ := u.enterGranary_places (mkJob c (s.core c) d.grindCmd (some (r, q)))
  have hqueue (h : Fin 4) : u.queueOfGranary h = s.queueOfGranary h := by
    rw [State.queueOfGranary, State.queueOfGranary, hadm]
  have hcore : (u.enterGranary (mkJob c (s.core c) d.grindCmd (some (r, q)))).core c = _ := hcore
  refine completes_of_eq he ⟨?_, fun h hh => (hothers h hh).trans (hqueue h), ?_, ?_, fun o ho => (hcores o ho).trans (hbusy o),
    hum.trans hmem, o, e, (hdesc r q).trans hde, hse⟩
  · rw [← hfab, ← hqueue]
    exact hq
  · rw [hcore, Core.engOf_modEng, if_pos rfl]
  · rw [hcore, ← hbusy c]
    rfl

end

end

/-- Settles O51: a LAUNCH is refused, waits, or starts its cores; a GRIND is refused or enters its granary. -/
theorem coreDescriptors : Obligations.coreDescriptors := by
  unfold Obligations.coreDescriptors
  intro s r q p d ha hd hst hs ctx
  refine ⟨fun ho h => launch_refused ha hd hst ho hs h, fun ho hok u key hkey => ⟨?_, ?_, ?_⟩, fun ho h => grind_refused ha hd hst ho h, ?_⟩
  · exact launch_waits_channel ha hd hst ho hok hkey
  · exact launch_waits_image ha hd hst ho hok hkey
  · intro img hu hi hopen hfin hn
    refine (launch_begins ha hd hst ho hok hkey hu hi hopen hfin hn).mono fun t ⟨hstarts, hothers, hlaunches⟩ => ⟨fun i hi => ?_, hothers, hlaunches⟩
    intro c k
    obtain ⟨k0, hk, hk0⟩ := hstarts i hi
    have hk : k = k0.begin_ c d i d.count img := hk
    obtain ⟨hpc, hrun, hlc, hcmp, htile, hbench⟩ := Core.begin_fields k0 c d i d.count img
    rw [hk]
    exact ⟨hpc, hrun, hlc, hcmp, htile, hbench.trans (congrArg Core.bench hk0), fun j => Core.begin_sreg k0 c d i d.count img j⟩
  · intro ho hok hopen c hl hidle hpass g
    obtain ⟨hr, hq⟩ := descOf_names hd
    have := grind_enters ha hd hst ho hok hopen rfl hl hidle hpass
    rw [← hr, ← hq] at this ⊢
    exact this

end Sys2Proof.Machine
end

section
/-! PROOFS. Slots are fetched, descriptors start and complete, and records are released (R258, R260, R279 to R281, R290, R301, R302). -/

namespace Sys2Proof.Machine

/-! ### A descriptor starts (R280, R302) -/

section Start
variable {s : State} {r : RingId} {p : PartId} {d : Desc} (ha : s.alive = true) (hr : s.partOfRing r = some p)
  (hd : s.descOf r d.seq = some (p, d))

/-- A descriptor that has started. -/
def Desc.begunAt (d : Desc) (now : Nat) : Desc := { d with stage := .started, startedAt := now }

include ha hr in
theorem exec_descriptorStart : exec (.descriptorStart r) s = .next (s.startRing p r) := by
  change (match s.partOfRing r with | none => Host.Outcome.next s | some p => whenever true s (s.startRing p r)) = _
  rw [hr]
  exact whenever_of_alive ha rfl _

include ha hr in
theorem descriptorStart_waits (hn : s.nextDesc p r = some d) (hs : s.startable p d = false) : exec (.descriptorStart r) s = .next s := by
  rw [exec_descriptorStart ha hr, State.startRing, hn]
  dsimp only
  rw [hs]
  rfl

include ha hr in
theorem descriptorStart_without_cart (hn : s.nextDesc p r = some d) {dir : Nat} (hdir : d.cartDir = some dir)
    (hfree : s.freeCart dir (s.cartClass d) = none) : exec (.descriptorStart r) s = .next s := by
  rw [exec_descriptorStart ha hr, State.startRing, hn]
  dsimp only
  rw [hdir]
  dsimp only
  rw [hfree, ite_self]

/-- A start that is neither fenced nor late only marks its descriptor. -/
theorem State.startDesc_unfenced (hf : d.fenced = false) (hlate : s.fabric_ ≤ d.readyAt + 10000000) :
    s.startDesc p d = s.modDesc d.ring d.seq (fun x => x.begunAt s.fabric_) := by
  have hnote : ∀ t : State, t.cycles = s.cycles → t.noteLate p d = t := fun t ht => by
    have hnow : t.fabric_ = s.fabric_ := by rw [State.fabric_, ht, State.fabric_]
    rw [State.noteLate, hnow, if_pos (Or.inl hlate)]
  have hb : s.boundary p d = s := by
    rw [State.boundary, hf, Bool.false_and, Bool.false_and, if_neg Bool.false_ne_true]
  rw [State.startDesc, hb]
  split_ifs
  · rfl
  · exact hnote _ (State.modDesc_cycles ..)

/-- A descriptor that takes a host cart holds it. -/
theorem State.hcart_takeCart (s : State) (d : Desc) (dir n : Nat) : (s.takeCart d dir n).hcart n = { desc := some (d.ring, d.seq) } :=
  tabGet_tabSet_self ..

include ha hr hd in
theorem descriptorStart_starts (hn : s.nextDesc p r = some d) (hs : s.startable p d = true) (hf : d.fenced = false)
    (hlate : s.fabric_ ≤ d.readyAt + 10000000) (hdir : d.cartDir = none) :
    Completes (.descriptorStart r) s (fun t =>
      t.descOf r d.seq = some (p, d.begunAt s.fabric_) ∧ t = { s with parts := t.parts }) := by
  have hring : d.ring = r := (descOf_names hd).1
  have hrun : s.startRing p r = s.modDesc r d.seq (fun x => x.begunAt s.fabric_) := by
    rw [State.startRing, hn]
    dsimp only
    rw [hs, hdir, Bool.not_true, if_neg Bool.false_ne_true, State.startDesc_unfenced hf hlate, hring]
  refine completes_of_eq (exec_descriptorStart ha hr) ?_
  rw [hrun]
  exact ⟨State.descOf_modDesc hd fun _ => ⟨rfl, rfl⟩, (State.modDesc_rest hd _).1⟩

include ha hr hd in
theorem descriptorStart_takes_cart (hn : s.nextDesc p r = some d) (hs : s.startable p d = true) (hf : d.fenced = false)
    (hlate : s.fabric_ ≤ d.readyAt + 10000000) {dir n : Nat} (hdir : d.cartDir = some dir)
    (hfree : s.freeCart dir (s.cartClass d) = some n) (hturn : s.cartTurn dir (s.cartClass d) = some r) :
    Completes (.descriptorStart r) s (fun t =>
      t.descOf r d.seq = some (p, d.begunAt s.fabric_) ∧ t.hcart n = { desc := some (r, d.seq) } ∧ t.mem = s.mem ∧
        t.regs = s.regs) := by
  have hring : d.ring = r := (descOf_names hd).1
  have hrun : s.startRing p r = (s.modDesc r d.seq (fun x => x.begunAt s.fabric_)).takeCart d dir n := by
    rw [State.startRing, hn]
    dsimp only
    rw [hs, hdir, Bool.not_true, if_neg Bool.false_ne_true]
    dsimp only
    rw [hfree]
    dsimp only
    rw [if_pos hturn, State.startDesc_unfenced hf hlate, hring]
  refine completes_of_eq (exec_descriptorStart ha hr) ?_
  rw [hrun]
  refine ⟨?_, ?_, State.modDesc_mem .., State.modDesc_regs ..⟩
  · exact (State.descOf_congr (s := s.modDesc r d.seq (fun x => x.begunAt s.fabric_)) rfl (fun _ => rfl) r d.seq).trans
      (State.descOf_modDesc hd fun _ => ⟨rfl, rfl⟩)
  · rw [State.hcart_takeCart, hring]

end Start

/-! ### A record is written (R258, R290) -/

/-- What writing a record does. -/
theorem State.writeRecord_facts {u : State} {p : PartId} {d : Desc} (hh : u.held = false) (hirq : d.irq = false)
    (hclose : d.opc = 0x10 → d.status = 0 → (u.part p).closing = false) (unflushed relaxed : Bool) :
    (∃ more, (u.writeRecord p d unflushed relaxed).outbox =
      u.outbox ++ Out.hostWrite (partFn p) (u.recordAddr d.ring d.seq) (u.record d unflushed) relaxed :: more) ∧
    (u.writeRecord p d unflushed relaxed).descs p = (u.descs p).filter (fun x => !x.named d.ring d.seq) ∧
    (u.writeRecord p d unflushed relaxed).hostLines = u.hostLines ∧
    (u.writeRecord p d unflushed relaxed).mem = u.mem := by
  have hsend := State.toHost_of_open hh (.hostWrite (partFn p) (u.recordAddr d.ring d.seq) (u.record d unflushed) relaxed)
  let v := u.toHost (.hostWrite (partFn p) (u.recordAddr d.ring d.seq) (u.record d unflushed) relaxed)
  let w := ((v.count (some p) 1).dropDesc p d).retire p d.ring
  have hpart : w.part p = { u.part p with descs := (u.descs p).filter (fun x => !x.named d.ring d.seq) } := by
    have hv : (v.count (some p) 1).part p = u.part p :=
      State.part_congr ((State.count_parts ..).trans (State.toHost_parts ..)) p
    refine (State.part_congr (State.retire_parts ..) p).trans ?_
    rw [State.dropDesc, State.part_modPart_self, hv]
    rfl
  have hw : u.writeRecord p d unflushed relaxed = w := by
    have hc : d.opc = 0x10 ∧ d.status = 0 → w.closeAbort p = w := fun ⟨ho, hs⟩ => by
      rw [State.closeAbort, hpart]
      dsimp only
      rw [hclose ho hs]
      rfl
    rw [State.writeRecord, hirq]
    rw [if_neg Bool.false_ne_true]
    split_ifs with h
    · exact hc h
    · rfl
  have hout : v.Outgrows w := by
    refine State.Outgrows.trans (.of_eq ?_) (State.outgrows_retire _ _ _)
    exact (State.dropDesc_outbox ..).trans (State.count_outbox ..)
  obtain ⟨more, hout⟩ := hout
  rw [hw]
  refine ⟨⟨more, ?_⟩, ?_, ?_, ?_⟩
  · rw [hout]
    change (u.toHost _).outbox ++ more = _
    rw [hsend, List.append_cons]
    rfl
  · rw [State.descs, hpart]
  · exact (State.retire_hostLines ..).trans ((State.dropDesc_hostLines ..).trans ((State.count_hostLines ..).trans (State.toHost_hostLines ..)))
  · exact (State.retire_mem ..).trans ((State.dropDesc_mem ..).trans ((State.count_mem ..).trans (State.toHost_mem ..)))

/-! ### A descriptor completes (R258, R290) -/

/-- A change of the descriptors of one name is lost where they are dropped. -/
theorem filter_not_named_map (xs : List Desc) (r : RingId) (q : BitVec 32) {f : Desc → Desc} (hf : ∀ x, (f x).ring = x.ring ∧ (f x).seq = x.seq) :
    (xs.map (fun x => if x.ring = r ∧ x.seq = q then f x else x)).filter (fun x => !x.named r q) = xs.filter (fun x => !x.named r q) := by
  induction xs with
  | nil => rfl
  | cons x xs ih =>
    rw [List.map_cons]
    by_cases hx : x.ring = r ∧ x.seq = q
    · have hn : x.named r q = true := named_iff.mpr hx
      have hfn : (f x).named r q = true := named_iff.mpr (by rw [(hf x).1, (hf x).2]; exact hx)
      rw [if_pos hx, List.filter_cons_of_neg (by rw [hfn]; decide), List.filter_cons_of_neg (by rw [hn]; decide), ih]
    · have hn : x.named r q = false := Bool.eq_false_iff.mpr fun h => hx (named_iff.mp h)
      rw [if_neg hx, List.filter_cons_of_pos (by rw [hn]; decide), List.filter_cons_of_pos (by rw [hn]; decide), ih]

/-- A flushing read is under way, or is asked for. -/
theorem State.pumpFlush_rest (s : State) (fn : FnId) : ∃ o h n rs ls, s.pumpFlush fn =
    { s with outbox := o, heldOut := h, nextId := n, hostReads := rs, hostLines := ls } := by
  unfold State.pumpFlush
  split_ifs
  · exact ⟨_, _, _, _, _, rfl⟩
  · split
    · exact ⟨_, _, _, _, _, rfl⟩
    next l _ =>
      obtain ⟨o, h, hr⟩ := s.hostReadIn_rest 0 fn (l.addr / 64 * 64) 0 (.flushing fn)
      rw [State.hostRead]
      dsimp only
      rw [hr]
      exact ⟨_, _, _, _, _, rfl⟩

theorem State.pumpFlush_reads {s : State} {fn : FnId} (hh : s.held = false) {l : HostLine} (hl : l ∈ s.hostLines) (hfn : l.fn = fn) :
    ∃ x ∈ (s.pumpFlush fn).hostReads, x.purpose = .flushing fn := by
  unfold State.pumpFlush
  rw [hh, Bool.false_or]
  split_ifs with hany
  · obtain ⟨x, hx, hp⟩ := List.any_eq_true.mp hany
    exact ⟨x, hx, of_decide_eq_true hp⟩
  · split
    next hnone =>
      have := List.find?_eq_none.mp hnone l hl
      exact absurd (decide_eq_true hfn) this
    next m _ =>
      obtain ⟨o, h, hr⟩ := s.hostReadIn_rest 0 fn (m.addr / 64 * 64) 0 (.flushing fn)
      rw [State.hostRead]
      dsimp only
      rw [hr]
      exact ⟨_, List.mem_append_right _ List.mem_cons_self, rfl⟩

section Complete
variable {s : State} {r : RingId} {q : BitVec 32} {p : PartId} {d : Desc} (ha : s.alive = true) (hd : s.descOf r q = some (p, d))
  (hst : d.stage = .ended) (hab : (s.part p).abort = none) (hopc : d.opc ≤ 0x07) (hrel : d.released = false)

def Desc.completed (d : Desc) : Desc := { d with stage := .completed }

/-- The state in which a descriptor has completed. -/
def State.withCompleted (s : State) (r : RingId) (q : BitVec 32) : State := s.modDesc r q Desc.completed

include hd in
theorem State.withCompleted_facts : (∃ ps, s.withCompleted r q = { s with parts := ps }) ∧
    (s.withCompleted r q).descOf r q = some (p, d.completed) ∧
    ((s.withCompleted r q).descs p).filter (fun x => !x.named r q) = (s.descs p).filter (fun x => !x.named r q) := by
  refine ⟨⟨_, (State.modDesc_rest hd _).1⟩, State.descOf_modDesc hd fun _ => ⟨rfl, rfl⟩, ?_⟩
  rw [State.withCompleted, State.modDesc_eq_mapDescs (State.descOf_iff.mp hd).1, State.descs_mapDescs, if_pos rfl]
  exact filter_not_named_map _ r q fun _ => ⟨rfl, rfl⟩

include ha hd hst hab in
theorem exec_descriptorComplete : exec (.descriptorComplete r q) s = .next (s.complete p d) := by
  change (match s.descOf r q with
    | none => Host.Outcome.next s
    | some (p, d) => whenever (decide (d.stage = Stage.ended) && ((s.part p).abort.isNone || d.opc == 0x10 || d.opc == 0x0C)) s
        (s.complete p d)) = _
  rw [hd]
  exact whenever_of_alive ha (by rw [hst, hab]; rfl) _

include hd hopc in
theorem State.complete_publishes (hm : d.member = false) : s.complete p d = (s.withCompleted r q).publish p d.completed := by
  obtain ⟨rfl, rfl⟩ := descOf_names hd
  have h9 : d.opc ≠ 0x09 := by omega
  have hE : d.opc ≠ 0x0E := by omega
  rw [State.complete, if_neg h9, if_neg hE, hm, Bool.not_false, Bool.true_or, if_pos rfl]
  rfl

include hd hopc hrel in
theorem State.complete_withholds (hm : d.member = true) (hj : (s.joint p d.jid).st = .open_) (hs : d.status = 0) :
    s.complete p d = s.withCompleted r q := by
  obtain ⟨rfl, rfl⟩ := descOf_names hd
  have h9 : d.opc ≠ 0x09 := by omega
  have hE : d.opc ≠ 0x0E := by omega
  rw [State.complete, if_neg h9, if_neg hE, hm, hrel, hj, if_pos hs]
  rfl

include ha hd hst hab hopc hrel in
theorem descriptorComplete_writes (hm : d.member = false) (hh : s.held = false) (hown : s.ownFlush d = false) (hirq : d.irq = false) :
    Completes (.descriptorComplete r q) s (fun t =>
      (∃ more, t.outbox = s.outbox ++
        Out.hostWrite (partFn p) (s.recordAddr r q) (s.record d true) (!s.service r q) :: more) ∧
      t.descs p = (s.descs p).filter (fun x => !x.named r q) ∧ t.mem = s.mem) := by
  obtain ⟨⟨ps, hps⟩, -, hfilter⟩ := State.withCompleted_facts hd
  obtain ⟨hring, hseq⟩ := descOf_names hd
  have he := exec_descriptorComplete ha hd hst hab
  have hfollows : ∀ u : State, u.followsJoint p d.completed = false := fun u => by
    have hC : (d.opc == 0x0C) = false := beq_eq_false_iff_ne.mpr (by omega)
    have hreleased : (d.completed.released || d.completed.opc == 0x0C) = false := by
      change (d.released || d.opc == 0x0C) = false
      rw [hrel, hC]
      rfl
    rw [State.followsJoint, hreleased, Bool.false_and]
  rw [State.complete_publishes hd hopc hm, hps] at he
  rw [hps] at hfilter
  have hpublish : State.publish { s with parts := ps } p d.completed =
      State.writeRecord { s with parts := ps } p d.completed true (!s.service r q) := by
    have hnow : (State.ownFlush { s with parts := ps } d.completed || State.followsJoint { s with parts := ps } p d.completed ||
        State.held { s with parts := ps }) = false := by
      rw [hfollows]
      change (s.ownFlush d || false || s.held) = false
      rw [hown, hh]
      rfl
    rw [State.publish, hnow, if_neg Bool.false_ne_true, ← hring, ← hseq]
    rfl
  rw [hpublish] at he
  obtain ⟨⟨more, hout⟩, hdescs, -, hmem⟩ := State.writeRecord_facts (u := { s with parts := ps }) (p := p) (d := d.completed)
    hh hirq (fun h => by
      change d.opc = 0x10 at h
      omega) true (!s.service r q)
  refine completes_of_eq he ⟨⟨more, ?_⟩, ?_, hmem⟩
  · rw [hout, ← hring, ← hseq]
    rfl
  · rw [hdescs, ← hfilter, ← hring, ← hseq]
    rfl

include ha hd hst hab hopc hrel in
theorem descriptorComplete_withheld (hm : d.member = true) (hj : (s.joint p d.jid).st = .open_)
    (hs : d.status = 0) : Completes (.descriptorComplete r q) s (fun t =>
      t.descOf r q = some (p, d.completed) ∧ t = { s with parts := t.parts }) := by
  obtain ⟨⟨ps, hps⟩, hdesc, -⟩ := State.withCompleted_facts hd
  have he := exec_descriptorComplete ha hd hst hab
  rw [State.complete_withholds hd hopc hrel hm hj hs] at he
  refine completes_of_eq he ⟨hdesc, ?_⟩
  rw [hps]

/-- The line that a record waits for its flushing read in. -/
def State.recordLine (s : State) (p : PartId) (d : Desc) : HostLine :=
  { fn := partFn p, addr := s.recordAddr d.ring d.seq, bytes := [], vector := none, desc := some (d.ring, d.seq) }

include ha hd hst hab hopc in
theorem descriptorComplete_flushes (hm : d.member = false) (hh : s.held = false) (hown : s.ownFlush d = true) :
    Completes (.descriptorComplete r q) s (fun t =>
      t.descOf r q = some (p, d.completed) ∧ t.mem = s.mem ∧ (∃ l ∈ t.hostLines, l.desc = some (r, q) ∧ l.fn = partFn p) ∧
        ∃ x ∈ t.hostReads, x.purpose = .flushing (partFn p)) := by
  obtain ⟨⟨ps, hps⟩, hdesc, -⟩ := State.withCompleted_facts hd
  obtain ⟨hring, hseq⟩ := descOf_names hd
  have he := exec_descriptorComplete ha hd hst hab
  rw [State.complete_publishes hd hopc hm, hps] at he
  rw [hps] at hdesc
  let l := s.recordLine p d
  let u : State := { s with parts := ps, hostLines := s.hostLines ++ [l] }
  have hl : l ∈ u.hostLines := List.mem_append_right _ List.mem_cons_self
  have hpublish : State.publish { s with parts := ps } p d.completed = u.pumpFlush (partFn p) := by
    have hflush : State.ownFlush { s with parts := ps } d.completed = true := hown
    rw [State.publish, hflush, Bool.true_or, Bool.true_or, if_pos rfl]
    rfl
  rw [hpublish] at he
  refine completes_of_eq he ⟨?_, State.pumpFlush_mem .., ?_, State.pumpFlush_reads hh hl rfl⟩
  · obtain ⟨o, h, n, rs, ls, hpump⟩ := u.pumpFlush_rest (partFn p)
    rw [hpump]
    exact hdesc
  · refine State.pumpFlush_line u (partFn p) (fun l h => h) ⟨l, hl, ?_, rfl⟩
    rw [← hring, ← hseq]
    rfl

end Complete

/-! ### A flushing read has completed (R258) -/

theorem State.outgrows_issueRead (s : State) (x : HostRead) : s.Outgrows (s.issueRead x) := by
  obtain ⟨more, h⟩ := State.outgrows_toHost
    { s with hostReads := s.hostReads.map (fun y => if y.id = x.id then { y with issued := true } else y) } (.hostRead x.fn x.id x.addr x.len)
  exact ⟨more, h⟩

theorem flushingReadDone_writes {s : State} (ha : s.alive = true) {p : PartId} {d : Desc} {l : HostLine} (hh : s.held = false)
    (hread : s.hostReads.any (fun r => decide (r.purpose = .flushing (partFn p))) = true) (hlines : s.hostLines = [l])
    (hfn : l.fn = partFn p) (hcov : l.covered = true) (hdesc : l.desc = some (d.ring, d.seq))
    (hd : s.descOf d.ring d.seq = some (p, d)) (hirq : d.irq = false) (hcl : (s.part p).closing = false) :
    Completes (.flushingReadDone (partFn p)) s (fun t =>
      (∃ more, t.outbox = s.outbox ++ Out.hostWrite (partFn p) (s.recordAddr d.ring d.seq) (s.record d (!s.ownFlush d))
        (!s.ownFlush d && !s.service d.ring d.seq) :: more) ∧
      t.descs p = (s.descs p).filter (fun x => !x.named d.ring d.seq) ∧ t.hostLines = [] ∧ t.mem = s.mem) := by
  let s0 : State := { s with hostLines := [], hostReads := s.hostReads.filter (fun r => decide (r.purpose ≠ .flushing (partFn p))) }
  have hmine : (decide (l.fn = partFn p) && l.covered) = true := by rw [hcov, decide_eq_true hfn]; rfl
  have hwrite : s0.writeLine_ l =
      s0.writeRecord p d (!s.ownFlush d) (!s.ownFlush d && !s.service d.ring d.seq) := by
    have hd0 : s0.descOf d.ring d.seq = some (p, d) := hd
    rw [State.writeLine_, hdesc]
    dsimp only
    rw [hd0]
    rfl
  obtain ⟨⟨more, hout⟩, hdescs, hlines', hmem⟩ := State.writeRecord_facts (u := s0) (p := p) (d := d) hh hirq (fun _ _ => hcl)
    (!s.ownFlush d) (!s.ownFlush d && !s.service d.ring d.seq)
  rw [← hwrite] at hout hdescs hlines' hmem
  have hflushed : s.flushed_ (partFn p) = s0.writeLine_ l := by
    have hpos : [l].filter (fun l => decide (l.fn = partFn p) && l.covered) = [l] := List.filter_cons_of_pos hmine
    have hneg : [l].filter (fun l => !(decide (l.fn = partFn p) && l.covered)) = [] :=
      List.filter_cons_of_neg (by rw [hmine]; exact Bool.false_ne_true)
    rw [State.flushed_, hlines, hpos, hneg]
    exact State.pumpFlush_of_no_lines hlines' _
  have he : exec (.flushingReadDone (partFn p)) s = .next (s.flushed_ (partFn p)).issueReads :=
    whenever_of_alive ha (by rw [hread, hh]; rfl) _
  rw [hflushed] at he
  generalize s0.writeLine_ l = v at he hout hdescs hlines' hmem
  refine completes_of_eq he ⟨?_, ?_, ?_, ?_⟩
  · obtain ⟨later, hissue⟩ : v.Outgrows v.issueReads := State.outgrows_foldl State.outgrows_issueRead _ _
    refine ⟨more ++ later, ?_⟩
    rw [hissue, hout, List.append_assoc, List.cons_append]
    rfl
  · exact (congrArg Part.descs (State.part_congr (State.issueReads_parts v) p)).trans hdescs
  · exact (State.issueReads_hostLines v).trans hlines'
  · exact (State.issueReads_mem v).trans hmem


end Sys2Proof.Machine
end

section
/-! PROOFS. Rings are granted their fetches, and the slots they read become descriptors (R279, R281, R301). -/

namespace Sys2Proof.Machine

/-! ### A ring is granted its fetch (R267, R301) -/

/-- What a read of host memory asks for, and for what. -/
def HostRead.sought (x : HostRead) : Nat × Nat × HostPurpose × FnId × Nat := (x.addr, x.len, x.purpose, x.fn, x.poll)

section Grant
variable (s : State) (r : RingId) (p : PartId)

/-- The slots that a grant of a ring reads, the first of them in its slot array, and how many lie before the array's end. -/
def State.grantSlots : Nat := min 8 (min (s.room p r) ((s.ring r).tail - s.fetched r).toNat)
def State.grantAt : Nat := (s.fetched r).toNat % s.ringSize r
def State.grantFirst : Nat := min (s.grantSlots r p) (s.ringSize r - s.grantAt r)

/-- The read of slots of a ring, from a host address and a sequence on. -/
def State.readSlots (poll a : Nat) (q : BitVec 32) (m : Nat) : State :=
  (s.hostReadIn poll (partFn p) a (64 * m) (.slots r q m)).2

theorem State.readSlots_rest (poll a : Nat) (q : BitVec 32) (m : Nat) :
    ∃ o h n x, s.readSlots r p poll a q m = { s with outbox := o, heldOut := h, nextId := n, hostReads := s.hostReads ++ [x] } ∧
      x.sought = (a, 64 * m, HostPurpose.slots r q m, partFn p, poll) := by
  obtain ⟨o, h, hr⟩ := s.hostReadIn_rest poll (partFn p) a (64 * m) (.slots r q m)
  exact ⟨o, h, _, _, hr, rfl⟩

/-- The reads of a grant: one, or two where it goes on at slot 0. -/
def State.grantReads : State :=
  let base := 64 * s.cfg (oRT_DESC r) 63 6
  let k := s.grantFirst r p
  let t := s.readSlots r p (s.ring r).found (base + 64 * s.grantAt r) (s.fetched r) k
  if k < s.grantSlots r p then t.readSlots r p (s.ring r).found base (s.fetched r + BitVec.ofNat 32 k) (s.grantSlots r p - k) else t

theorem State.grantReads_rest :
    ∃ o h n xs, s.grantReads r p = { s with outbox := o, heldOut := h, nextId := n, hostReads := s.hostReads ++ xs } ∧
      xs.map HostRead.sought =
        (64 * s.cfg (oRT_DESC r) 63 6 + 64 * s.grantAt r, 64 * s.grantFirst r p, HostPurpose.slots r (s.fetched r) (s.grantFirst r p),
          partFn p, (s.ring r).found) ::
        (if s.grantFirst r p < s.grantSlots r p then
          [(64 * s.cfg (oRT_DESC r) 63 6, 64 * (s.grantSlots r p - s.grantFirst r p),
            HostPurpose.slots r (s.fetched r + BitVec.ofNat 32 (s.grantFirst r p)) (s.grantSlots r p - s.grantFirst r p), partFn p,
            (s.ring r).found)]
         else []) := by
  obtain ⟨o, h, n, x, hone, hx⟩ := s.readSlots_rest r p (s.ring r).found (64 * s.cfg (oRT_DESC r) 63 6 + 64 * s.grantAt r) (s.fetched r) (s.grantFirst r p)
  rw [State.grantReads, hone]
  split_ifs
  · obtain ⟨o', h', n', y, htwo, hy⟩ := State.readSlots_rest
      { s with outbox := o, heldOut := h, nextId := n, hostReads := s.hostReads ++ [x] } r p (s.ring r).found (64 * s.cfg (oRT_DESC r) 63 6)
      (s.fetched r + BitVec.ofNat 32 (s.grantFirst r p)) (s.grantSlots r p - s.grantFirst r p)
    refine ⟨o', h', n', [x, y], ?_, ?_⟩
    · rw [htwo, List.append_assoc]
      rfl
    · rw [List.map_cons, List.map_cons, hx, hy]
      rfl
  · exact ⟨o, h, n, [x], rfl, by rw [List.map_cons, hx]; rfl⟩

/-- A grant reads, keeps the turns of the rings, and marks its ring. -/
theorem State.grant_rest (cyc : Bool) : ∃ owed pos turn, s.grant r p cyc =
    ({ s.grantReads r p with grantOwed := owed, grantPos := pos, grantRing := turn } : State).modRing r
      (fun k => { k with fetching := true }) :=
  ⟨if s.grantOwed.contains r.val then s.grantOwed.filter (· != r.val)
    else s.grantOwed ++ (s.passedOver r).filter (fun x => !s.grantOwed.contains x), if cyc then (s.grantPos + 1) % 13 else s.grantPos,
    if s.grantOwed.contains r.val then s.grantRing else tabSet (fun _ => 8191) (s.ringClass r) r.val s.grantRing, rfl⟩

variable {s r p} (ha : s.alive = true)
include ha

theorem fetchGrant_reads (hp : s.partOfRing r = some p) {cyc : Bool} (hn : s.nextGrant = some (r, cyc)) (hh : s.held = false) :
    Completes .fetchGrant s (fun t => (t.ring r).fetching = true ∧ t.mem = s.mem ∧ t.parts = s.parts ∧
      ∃ xs, t.hostReads = s.hostReads ++ xs ∧ xs.map HostRead.sought =
        (64 * s.cfg (oRT_DESC r) 63 6 + 64 * s.grantAt r, 64 * s.grantFirst r p, HostPurpose.slots r (s.fetched r) (s.grantFirst r p),
          partFn p, (s.ring r).found) ::
        (if s.grantFirst r p < s.grantSlots r p then
          [(64 * s.cfg (oRT_DESC r) 63 6, 64 * (s.grantSlots r p - s.grantFirst r p),
            HostPurpose.slots r (s.fetched r + BitVec.ofNat 32 (s.grantFirst r p)) (s.grantSlots r p - s.grantFirst r p), partFn p,
            (s.ring r).found)]
         else [])) := by
  obtain ⟨owed, pos, turn, hg⟩ := s.grant_rest r p cyc
  obtain ⟨o, h, n, xs, hr, hxs⟩ := s.grantReads_rest r p
  have he : exec .fetchGrant s = .next (s.grant r p cyc) := by
    change (match s.nextGrant with
      | none => Host.Outcome.next s
      | some (r, cyc) =>
        match s.partOfRing r with
        | none => Host.Outcome.next s
        | some p => whenever (!s.held) s (s.grant r p cyc)) = _
    rw [hn]
    dsimp only
    rw [hp]
    exact whenever_of_alive ha (by rw [hh]; rfl) _
  rw [hg, hr] at he
  refine completes_of_eq he ⟨?_, rfl, rfl, xs, rfl, hxs⟩
  rw [State.ring_modRing_self]

end Grant

/-! ### What a fetch brings (R279, R288) -/

/-- A table answers an entry of its own, or the default. -/
theorem tabGet_eq_default_or_mem {α : Type} (d : Nat → α) (k : Nat) (m : Tab α) : tabGet d k m = d k ∨ (k, tabGet d k m) ∈ m := by
  induction m with
  | nil => exact Or.inl rfl
  | cons e m ih =>
    obtain ⟨a, v⟩ := e
    rw [tabGet]
    split_ifs with hlt heq
    · exact Or.inl rfl
    · exact Or.inr (by rw [heq]; exact List.mem_cons_self)
    · exact ih.imp_right (List.mem_cons_of_mem _)

theorem State.mem_allDescs {s : State} {o : PartId} {e : Desc} (h : e ∈ s.descs o) : (e.ring, e.seq) ∈ s.allDescs := by
  rcases tabGet_eq_default_or_mem (fun _ => ({} : Part)) o.val s.parts with hnone | hmem
  · rw [State.descs, State.part, hnone] at h
    exact absurd h List.not_mem_nil
  · exact List.mem_flatMap.mpr ⟨_, hmem, List.mem_map.mpr ⟨e, h, rfl⟩⟩

/-- Where no descriptor just fetched is a CANCEL, none is applied. -/
theorem State.applyCancels_of_none {s : State} {new : List (RingId × BitVec 32)}
    (h : ∀ x ∈ new, ∀ p d, s.descOf x.1 x.2 = some (p, d) → d.opc ≠ 0x0F) : s.applyCancels new = s := by
  induction new with
  | nil => rfl
  | cons x new ih =>
    have hone : (match s.descOf x.1 x.2 with
        | some (p, d) => if d.opc = 0x0F ∧ d.stage = .fetched ∧ d.status = 0 then s.applyCancel p d else s
        | none => s) = s := by
      split
      next p d hd => exact if_neg fun hc => h x List.mem_cons_self p d hd hc.1
      next => rfl
    have hrest := ih fun y hy => h y (List.mem_cons_of_mem _ hy)
    rw [State.applyCancels] at hrest ⊢
    rw [List.foldl_cons]
    refine (congrArg (fun t => List.foldl _ t new) hone).trans hrest

/-- Every descriptor of a state is one of an earlier state, or no CANCEL and no member of a joint. -/
def State.NewPlain (s t : State) : Prop := ∀ o e, e ∈ t.descs o → e ∈ s.descs o ∨ (e.opc ≠ 0x0F ∧ e.wantsJoint = false)

/-- A fetch that brings neither CANCELs nor members of joints only takes its slots. -/
theorem State.fetchAll_of_plain {s : State} {b : FetchBatch} (hnew : s.NewPlain (s.takeBatch b)) (hres : ∀ o, s.JointsResolved o) :
    s.fetchAll [b] = s.takeBatch b := by
  have hcancel : ∀ bs : List FetchBatch, (s.takeBatch b).applyCancels (bs.flatMap (fun b' =>
      (s.takeBatch b).allDescs.filter (fun x => decide (x.1 = b'.ring) && !s.allDescs.contains x))) = s.takeBatch b := fun bs => by
    refine State.applyCancels_of_none fun x hx p d hd => ?_
    obtain ⟨_, _, hx⟩ := List.mem_flatMap.mp hx
    have hfresh : x ∉ s.allDescs := fun hmem => by
      have hc := (Bool.and_eq_true _ _ ▸ (List.mem_filter.mp hx).2).2
      rw [List.contains_iff_mem.mpr hmem] at hc
      cases hc
    have hfind := (State.descOf_iff.mp hd).2
    obtain ⟨hring, hseq⟩ := descOf_names hd
    rcases hnew p d (List.mem_of_find?_eq_some hfind) with hold | ⟨hopc, -⟩
    · have := State.mem_allDescs hold
      rw [hring, hseq] at this
      exact absurd this hfresh
    · exact hopc
  have hjoin : ∀ ps : List PartId, ps.foldl (fun u p => if (u.descs p).isEmpty then u else u.resolveJoints p) (s.takeBatch b) =
      s.takeBatch b := fun ps => by
    induction ps with
    | nil => rfl
    | cons p ps ih =>
      have hr : (s.takeBatch b).JointsResolved p := fun e he =>
        (hnew p e he).elim (hres p e) fun h => Or.inl h.2
      rw [List.foldl_cons, State.resolveJoints_of_resolved hr, ite_self, ih]
  rw [State.fetchAll, List.foldl_cons, List.foldl_nil, hcancel, hjoin]

section Fetch
variable {s : State} {r : RingId} {p : PartId} {h : Slot} (ha : s.alive = true) (hp : s.partOfRing r = some p)

/-- The descriptor that a ring's next slot makes. -/
def State.slotDesc (s : State) (r : RingId) (h : Slot) : Desc :=
  { ring := r, seq := s.fetched r, bytes := h, readyAt := (s.ring r).foundAt (s.fetched r) s.fabric_, poll := (s.ring r).found
    order := s.nextId, covered := s.ingress.map Ingress.req }

/-- A descriptor that passes every check joins its partition's list. -/
theorem State.admitDesc_admits {d : Desc} (hc : s.checkDesc p d = none) (hj : badJoint d = false)
    (hb : s.bit (oRT_CANCEL d.ring) 32 = false) :
    s.admitDesc p d true = ((s.count (some p) 0).logReserved p d).modPart p (fun q => { q with descs := q.descs ++ [d] }) := by
  have hcov : (s.fld (oRT_CANCEL d.ring) 32 32 == 1) = false := hb
  rw [State.admitDesc, hc, hj, hcov]
  rfl

/-- A slot of the ring's next sequence, without extra slots, is a descriptor. -/
theorem State.takeSlots_matched (hx : fieldLe h 2 1 % 4 = 0) (hseq : fieldLe h 8 4 = (s.fetched r).toNat) :
    s.takeSlots p r 1 [h] = ((({ s with nextId := s.nextId + 1 } : State).admitDesc p (s.slotDesc r h) true).modRing r
      (fun k => { k with reread := false })).setFld (oRT_STAT r) 31 0 (s.fetched r + 1).toNat := by
  have hok : (fieldLe h 8 4 == (s.fetched r).toNat) = true := beq_iff_eq.mpr hseq
  have hnext : s.fetched r + 1 + BitVec.ofNat 32 0 = s.fetched r + 1 := BitVec.add_zero _
  rw [State.takeSlots, hok, hx, if_neg (Nat.not_lt_zero _), hnext, List.take_zero, List.flatten_nil, List.append_nil]
  rfl

/-- A slot of another sequence is read again at the next poll. -/
theorem State.takeSlots_mismatched (hx : fieldLe h 2 1 % 4 = 0) (hseq : fieldLe h 8 4 ≠ (s.fetched r).toNat)
    (hre : (s.ring r).reread = false) :
    s.takeSlots p r 1 [h] = s.modRing r (fun k => { k with reread := true, tail := s.fetched r, readySince := none }) := by
  have hok : (fieldLe h 8 4 == (s.fetched r).toNat) = false := beq_eq_false_iff_ne.mpr hseq
  rw [State.takeSlots, hok, hx, hre, if_neg (Nat.not_lt_zero _)]
  rfl

/-- What the slots of a fetch change is the ring's own and what its descriptors are. -/
theorem State.afterFetch_rest (s : State) (r : RingId) : ∃ rs, s.afterFetch r = { s with rings := rs } := ⟨_, rfl⟩

theorem State.ring_afterFetch (s : State) (r : RingId) :
    ((s.afterFetch r).ring r).fetching = false ∧ ((s.afterFetch r).ring r).reread = (s.ring r).reread := by
  rw [State.afterFetch, State.ring_modRing_self]
  exact ⟨rfl, rfl⟩

include hp in
theorem State.takeBatch_alone : s.takeBatch { ring := r, slots := [h] } = (s.takeSlots p r 1 [h]).afterFetch r := by
  rw [State.takeBatch, hp]
  rfl

/-- What a fetch that brings one plain descriptor leaves. -/
theorem State.takeBatch_matched (hp : s.partOfRing r = some p) (hx : fieldLe h 2 1 % 4 = 0) (hseq : fieldLe h 8 4 = (s.fetched r).toNat)
    (hc : s.checkDesc p (s.slotDesc r h) = none) (hj : badJoint (s.slotDesc r h) = false) (hb : s.bit (oRT_CANCEL r) 32 = false) :
    (∀ o, (s.takeBatch { ring := r, slots := [h] }).descs o = if o = p then s.descs p ++ [s.slotDesc r h] else s.descs o) ∧
    (s.takeBatch { ring := r, slots := [h] }).fetched r = s.fetched r + 1 ∧
    ((s.takeBatch { ring := r, slots := [h] }).ring r).fetching = false ∧
    (s.takeBatch { ring := r, slots := [h] }).mem = s.mem := by
  let u : State := (({ s with nextId := s.nextId + 1 } : State).count (some p) 0).logReserved p (s.slotDesc r h)
  let v : State := (u.modPart p (fun q => { q with descs := q.descs ++ [s.slotDesc r h] })).modRing r (fun k => { k with reread := false })
  have hadmit := State.admitDesc_admits (s := { s with nextId := s.nextId + 1 }) (p := p) (d := s.slotDesc r h) hc hj hb
  have ht : s.takeBatch { ring := r, slots := [h] } = (v.setFld (oRT_STAT r) 31 0 (s.fetched r + 1).toNat).afterFetch r := by
    rw [State.takeBatch_alone hp, State.takeSlots_matched hx hseq, hadmit]
  have hu : u.parts = s.parts := (State.logReserved_parts ..).trans (State.count_parts ..)
  have hmem : v.mem = s.mem := (State.modRing_mem ..).trans ((State.logReserved_mem ..).trans (State.count_mem ..))
  have hdescs : ∀ o, v.descs o = if o = p then s.descs p ++ [s.slotDesc r h] else s.descs o := fun o => by
    have hpart : ∀ o, u.part o = s.part o := State.part_congr hu
    refine (congrArg Part.descs (State.part_modPart u p o (fun q => { q with descs := q.descs ++ [s.slotDesc r h] }))).trans ?_
    rw [hpart, hpart]
    split_ifs <;> rfl
  rw [ht]
  generalize v = w at hmem hdescs
  refine ⟨hdescs, ?_, (State.ring_afterFetch _ _).1, hmem⟩
  have hfld := State.fld_setFld_self w (oRT_STAT r) 31 0 (s.fetched r + 1).toNat (by decide)
  refine (congrArg (BitVec.ofNat 32) hfld).trans ?_
  rw [Nat.mod_eq_of_lt (BitVec.isLt _), BitVec.ofNat_toNat, BitVec.setWidth_eq]

/-- What a fetch whose slot carries another sequence leaves. -/
theorem State.takeBatch_mismatched (hp : s.partOfRing r = some p) (hx : fieldLe h 2 1 % 4 = 0)
    (hseq : fieldLe h 8 4 ≠ (s.fetched r).toNat) (hre : (s.ring r).reread = false) :
    (∃ rs, s.takeBatch { ring := r, slots := [h] } = { s with rings := rs }) ∧
    ((s.takeBatch { ring := r, slots := [h] }).ring r).reread = true := by
  rw [State.takeBatch_alone hp, State.takeSlots_mismatched hx hseq hre]
  refine ⟨⟨_, rfl⟩, (State.ring_afterFetch _ _).2.trans ?_⟩
  rw [State.ring_modRing_self]

include ha in
/-- The slots of a ring's one read are there. -/
theorem exec_descriptorFetch (hl : h.length = 64) (hasked : s.slotsAsked r = 1) (harr : (s.ring r).arrived = []) :
    exec (.descriptorFetch [{ ring := r, slots := [h] }]) s =
      .next ((s.endFetch r).fetchAll [{ ring := r, slots := [h] }]).issueReads := by
  have hdue : [({ ring := r, slots := [h] } : FetchBatch)].filter
      (fun b => s.slotsAsked b.ring == b.slots.length && (s.ring b.ring).arrived.isEmpty) = [{ ring := r, slots := [h] }] :=
    List.filter_cons_of_pos (by rw [hasked, harr]; rfl)
  change checked (.descriptorFetch [{ ring := r, slots := [h] }]) "DESCRIPTOR_FETCH" (whenever true s
    ((((List.filter _ [({ ring := r, slots := [h] } : FetchBatch)]).map FetchBatch.ring).foldl State.endFetch s).fetchAll
      (List.filter _ [({ ring := r, slots := [h] } : FetchBatch)])).issueReads) = _
  rw [checked_of_wf (i := .descriptorFetch [{ ring := r, slots := [h] }]) (n := "DESCRIPTOR_FETCH") (by
    rw [Instr.wf, List.all_cons, List.all_nil, FetchBatch.wf, List.all_cons, List.all_nil, decide_eq_true hl]
    rfl), hdue]
  exact whenever_of_alive ha rfl _

include ha hp in
theorem descriptorFetch_admits (hl : h.length = 64) (hasked : s.slotsAsked r = 1) (harr : (s.ring r).arrived = [])
    (hx : fieldLe h 2 1 % 4 = 0) (hres : ∀ o, s.JointsResolved o) (hseq : fieldLe h 8 4 = (s.fetched r).toNat)
    (hc : s.checkDesc p (s.slotDesc r h) = none) (hj : badJoint (s.slotDesc r h) = false)
    (hflag : (s.slotDesc r h).jointFlag = false) (hb : s.bit (oRT_CANCEL r) 32 = false) (hopc : (s.slotDesc r h).opc ≠ 0x0F) :
    Completes (.descriptorFetch [{ ring := r, slots := [h] }]) s (fun t =>
      (∃ e, t.descs p = s.descs p ++ [e] ∧ e.ring = r ∧ e.seq = s.fetched r ∧ e.bytes = h ∧ e.stage = .fetched ∧ e.status = 0) ∧
      t.fetched r = s.fetched r + 1 ∧ (t.ring r).fetching = false ∧ t.mem = s.mem) := by
  have he := exec_descriptorFetch ha hl hasked harr
  obtain ⟨hdescs, hfetched, hfetching, hmem⟩ := State.takeBatch_matched (s := s.endFetch r) hp hx hseq hc hj hb
  have hplain : (s.endFetch r).NewPlain ((s.endFetch r).takeBatch { ring := r, slots := [h] }) := fun o e hmem => by
    rw [hdescs] at hmem
    split_ifs at hmem with ho
    · rcases List.mem_append.mp hmem with hold | hnew
      · exact Or.inl (ho ▸ hold)
      · rw [List.mem_singleton.mp hnew]
        refine Or.inr ⟨hopc, ?_⟩
        have hwants : (s.slotDesc r h).wantsJoint = false := by
          rw [Desc.wantsJoint, hflag, Bool.false_and, Bool.false_and, Bool.false_and]
        exact hwants
    · exact Or.inl hmem
  rw [State.fetchAll_of_plain hplain hres] at he
  have hp' := hdescs p
  rw [if_pos rfl] at hp'
  generalize (s.endFetch r).takeBatch { ring := r, slots := [h] } = v at he hp' hfetched hfetching hmem
  obtain ⟨o, ho, rs, hrest, -⟩ := v.issueReads_rest
  rw [hrest] at he
  exact completes_of_eq he ⟨⟨_, hp', rfl, rfl, rfl, rfl, rfl⟩, hfetched, hfetching, hmem⟩

include ha hp in
theorem descriptorFetch_rereads (hl : h.length = 64) (hasked : s.slotsAsked r = 1) (harr : (s.ring r).arrived = [])
    (hx : fieldLe h 2 1 % 4 = 0) (hres : ∀ o, s.JointsResolved o) (hseq : fieldLe h 8 4 ≠ (s.fetched r).toNat)
    (hre : (s.ring r).reread = false) :
    Completes (.descriptorFetch [{ ring := r, slots := [h] }]) s (fun t =>
      t.descs p = s.descs p ∧ t.fetched r = s.fetched r ∧ (t.ring r).reread = true ∧ t.mem = s.mem) := by
  have he := exec_descriptorFetch ha hl hasked harr
  obtain ⟨⟨rs, hv⟩, hreread⟩ := State.takeBatch_mismatched (s := s.endFetch r) hp hx hseq hre
  have hplain : (s.endFetch r).NewPlain ((s.endFetch r).takeBatch { ring := r, slots := [h] }) := fun o e hmem => by
    rw [hv] at hmem
    exact Or.inl hmem
  rw [State.fetchAll_of_plain hplain hres, hv] at he
  rw [hv] at hreread
  obtain ⟨o, ho, xs, hrest, -⟩ := State.issueReads_rest { s.endFetch r with rings := rs }
  rw [hrest] at he
  exact completes_of_eq he ⟨rfl, rfl, hreread, rfl⟩

end Fetch

/-- Settles O47: the fetch of slots, the start and completion of descriptors, and the writing of their records. -/
theorem descriptorsAreFetched : Obligations.descriptorsAreFetched := by
  unfold Obligations.descriptorsAreFetched
  refine ⟨fun s r p ha hp => ⟨?_, ?_⟩, ?_, ?_⟩
  · intro cyc hn hh n base at_ k asked piece
    refine (fetchGrant_reads ha hp hn hh).mono fun t ⟨hfetching, hmem, hparts, xs, hreads, hxs⟩ => ⟨hfetching, hmem, hparts, ?_⟩
    rw [hreads, List.map_append]
    exact congrArg (s.hostReads.map asked ++ ·) hxs
  · intro h hl hasked harr hx hres d batch
    exact ⟨fun hseq hc hj hflag hb hopc => descriptorFetch_admits ha hp hl hasked harr hx (fun o e he => hres o e he) hseq hc hj hflag hb hopc,
      fun hseq hre => descriptorFetch_rereads ha hp hl hasked harr hx (fun o e he => hres o e he) hseq hre⟩
  · intro s r p d ha hp hd q
    refine ⟨descriptorStart_waits ha hp, fun hn hs hf hlate => ?_, fun hst hab hopc hrel => ⟨?_, ?_, ?_⟩⟩
    · intro begun
      exact ⟨descriptorStart_starts ha hp hd hn hs hf hlate,
        fun dir n hdir hfree hturn => descriptorStart_takes_cart ha hp hd hn hs hf hlate hdir hfree hturn,
        fun dir hdir hfree => descriptorStart_without_cart ha hp hn hdir hfree⟩
    · exact fun hm hh hown _ hirq => descriptorComplete_writes ha hd hst hab hopc hrel hm hh hown hirq
    · exact fun hm hh hown => descriptorComplete_flushes ha hd hst hab hopc hm hh hown
    · exact fun hm hj hs => descriptorComplete_withheld ha hd hst hab hopc hrel hm hj hs
  · intro s p d l ha hh hread hlines hfn hcov hdesc hd hirq hcl own
    exact flushingReadDone_writes ha hh hread hlines hfn hcov hdesc hd hirq hcl

end Sys2Proof.Machine
end
